-- ==== Sys2Proof/Word.lean ====
section
/-! DEFINITION. The word types of the Sprinros and their plainest readings (R20). -/

namespace Sys2Proof

/-- A 32-bit register value: one lane of a vector register, or a scalar register (R20). -/
abbrev Word := BitVec 32

/-- A byte of memory. -/
abbrev Byte := BitVec 8

/-- A 64-bit value: an even and odd register pair, an instruction word, a handle (R20). -/
abbrev DWord := BitVec 64

/-- A set of the 96 lanes of a strand; bit l is lane l (R129, R136). -/
abbrev LaneMask := BitVec 96

/-- The values of one 32-bit register in lanes 0, 1, …; a lane beyond the end reads 0. -/
abbrev LaneVec := List Word

end Sys2Proof
end

