-- ==== Sys2Proof/Syntax.lean ====
section
/-! DEFINITION. The instructions of the Rhostad instruction set and the device's other indivisible steps: one
constructor of `Instr` per row of the opcode table. Register numbers, modifier codes and special sources are
constructors here, so that no raw encoding reaches the machine (R264-R274). -/
namespace Sys2Proof

/-- The format codes of R21, in code order 0x00 to 0x10. -/
inductive Fmt
  | f32 | f16 | bf16 | e4m3 | e5m2 | lns6 | lut4 | i4 | n4 | i8 | n8 | i16 | n16 | i32 | n32 | i64 | n64
  deriving DecidableEq, Repr

/-- Rounding modes (R31, R274 RND). -/
inductive Rnd
  | rne | rtz | rdn | rup
  deriving DecidableEq, Repr

/-- Memory scopes in the code order of R274 SCOPE (R60). -/
inductive Scope
  | dev | core | crew | clu | sys
  deriving DecidableEq, Repr

/-- Atomic orders (R71, R274 ORDER). -/
inductive Order
  | rlx | acq | rel | ar | sc
  deriving DecidableEq, Repr

/-- The eight segments (R166, R274 SEG). -/
inductive SegIx
  | loc | clu | glb | dev | hst | peer | heap | aux
  deriving DecidableEq, Repr

/-- Access widths (R274 WIDTH). -/
inductive Width
  | b8 | b16 | b32 | b64 | b128
  deriving DecidableEq, Repr

/-- Comparison conditions (R274 COND). -/
inductive Cond
  | eq | ne | lt | le | gt | ge | ord | unord
  deriving DecidableEq, Repr

/-- Reduction operations (R274 ROP). -/
inductive ROp
  | add | min | max | and | or | xor
  deriving DecidableEq, Repr

/-- Reduction types (R274 RTYPE). -/
inductive RTy
  | i32 | n32 | f32 | b32
  deriving DecidableEq, Repr

/-- Atomic operations (R274 AOP, R441). -/
inductive AOp
  | add | smin | smax | umin | umax | and | or | xor | exch | fadd
  deriving DecidableEq, Repr

/-- The forms of VOTE (R415). -/
inductive VoteForm
  | every | some | alike | bits | count
  deriving DecidableEq, Repr

/-- The forms of SHFL (R417). -/
inductive ShflForm
  | pick | back | fwd | flip | rot
  deriving DecidableEq, Repr

/-- The forms of PHASE (R63, R438). -/
inductive PhaseKind
  | rel | acq | ar
  deriving DecidableEq, Repr

/-- The orders of BAR and BARP (R152, R274). -/
inductive BarOrder
  | ar | rel | acq
  deriving DecidableEq, Repr

/-- The shapes of a matrix operation (R274 MMA). -/
inductive Shape
  | tile | wide | gang
  deriving DecidableEq, Repr

/-- The special sources of R268. -/
inductive Special
  | lane | sid | core | clu | crew | tickLo | tickHi | vlo | vhi | vmask | px | py | okey | oseq | zero
  deriving DecidableEq, Repr

/-- An operand field's value (R267). `imm k` is the inline constant whose value is `k` as a signed number,
from -64 to 63. -/
inductive Operand
  | v (n : BitVec 8) | s (n : BitVec 6) | t (n : BitVec 3) | p (n : BitVec 3) | h (n : BitVec 4)
  | a (n : BitVec 3) | c (n : BitVec 2) | sp (x : Special) | imm (k : BitVec 7)
  deriving DecidableEq, Repr

/-- The fields every instruction word begins with (R264): lookahead, end of clause, guard and result slot. -/
structure Ctl where
  la   : BitVec 4
  last : Bool
  pg   : BitVec 3
  pn   : Bool
  slot : BitVec 3
  deriving DecidableEq, Repr

/-- What TLB.INV names (R315): one page of a context, one context, or everything. -/
inductive TlbInv
  | page (a b : Operand) | ctx (b : Operand) | all
  deriving DecidableEq, Repr

/-- A home of bytes (R54): a core slice by global core number, a pool bank of a cluster, a DRAM channel of a
stack, the host, a peer device, or the hub. -/
inductive Home
  | slice (c : Nat) | pool (k bank : Nat) | chan (st n : Nat) | host | peer (d : Nat) | hub
  deriving DecidableEq, Repr

/-- One split of one strand slot of one core, cores numbered 256 × cluster + core (R10, R129). -/
structure SplitRef where
  core : Nat
  slot : Nat
  split : Nat
  deriving DecidableEq, Repr

/-- One row of the opcode table each. The rows with an encoding come first and carry `c`, the fields of R264, and
their operands. The other rows are device steps: which core, cluster, queue, record or value a step concerns is the
operand `Pick` that the machine's state holds beside it. -/
inductive Instr
  | iadd (c : Ctl) (ty : Fmt) (sat : Bool) (d a b : Operand)  -- IADD, R333
  | isub (c : Ctl) (ty : Fmt) (sat : Bool) (d a b : Operand)  -- ISUB, R334
  | imul (c : Ctl) (ty : Fmt) (sat : Bool) (d a b : Operand)  -- IMUL, R335
  | imulh (c : Ctl) (ty : Fmt) (sat : Bool) (d a b : Operand)  -- IMULH, R336
  | imad (c : Ctl) (ty : Fmt) (sat : Bool) (d a b e : Operand)  -- IMAD, R337
  | imadw (c : Ctl) (ty : Fmt) (sat : Bool) (d a b e : Operand)  -- IMADW, R338
  | iaddw (c : Ctl) (ty : Fmt) (sat : Bool) (d a b e : Operand)  -- IADDW, R339
  | isubw (c : Ctl) (ty : Fmt) (sat : Bool) (d a b e : Operand)  -- ISUBW, R340
  | iabs (c : Ctl) (ty : Fmt) (sat : Bool) (d a : Operand)  -- IABS, R341
  | ineg (c : Ctl) (ty : Fmt) (sat : Bool) (d a : Operand)  -- INEG, R342
  | imin (c : Ctl) (ty : Fmt) (sat : Bool) (d a b : Operand)  -- IMIN, R343
  | imax (c : Ctl) (ty : Fmt) (sat : Bool) (d a b : Operand)  -- IMAX, R344
  | iclamp (c : Ctl) (ty : Fmt) (sat : Bool) (d a b e : Operand)  -- ICLAMP, R345
  | iand (c : Ctl) (w64 : Bool) (d a b : Operand)  -- AND, R349
  | ior (c : Ctl) (w64 : Bool) (d a b : Operand)  -- OR, R350
  | ixor (c : Ctl) (w64 : Bool) (d a b : Operand)  -- XOR, R351
  | andn (c : Ctl) (w64 : Bool) (d a b : Operand)  -- ANDN, R352
  | tri (c : Ctl) (tt : BitVec 8) (d a b e : Operand)  -- TRI, R353
  | shl (c : Ctl) (w64 clamp : Bool) (d a b : Operand)  -- SHL, R358
  | shr (c : Ctl) (w64 clamp : Bool) (d a b : Operand)  -- SHR, R359
  | sar (c : Ctl) (w64 clamp : Bool) (d a b : Operand)  -- SAR, R360
  | rotl (c : Ctl) (w64 : Bool) (d a b : Operand)  -- ROTL, R361
  | funsh (c : Ctl) (clamp right : Bool) (d a b e : Operand)  -- FUNSH, R362
  | popc (c : Ctl) (w64 : Bool) (d a : Operand)  -- POPC, R363
  | clz (c : Ctl) (w64 : Bool) (d a : Operand)  -- CLZ, R364
  | ffs (c : Ctl) (w64 : Bool) (d a : Operand)  -- FFS, R365
  | brev (c : Ctl) (w64 : Bool) (d a : Operand)  -- BREV, R366
  | bfx (c : Ctl) (sx : Bool) (d a b e : Operand)  -- BFX, R367
  | bfi (c : Ctl) (d a b e : Operand)  -- BFI, R368
  | icmp (c : Ctl) (ty : Fmt) (cond : Cond) (d a b : Operand)  -- ICMP, R369
  | sel (c : Ctl) (w64 : Bool) (d a b e : Operand)  -- SEL, R371
  | mov (c : Ctl) (w64 : Bool) (d a : Operand)  -- MOV, R372
  | movi (c : Ctl) (d : Operand) (imm : BitVec 32)  -- MOVI, R373
  | iaddi (c : Ctl) (ty : Fmt) (sat : Bool) (d a : Operand) (imm : BitVec 18)  -- IADDI, R346
  | imuli (c : Ctl) (ty : Fmt) (sat : Bool) (d a : Operand) (imm : BitVec 18)  -- IMULI, R347
  | andi (c : Ctl) (d a : Operand) (imm : BitVec 18)  -- ANDI, R354
  | ori (c : Ctl) (d a : Operand) (imm : BitVec 18)  -- ORI, R355
  | xori (c : Ctl) (d a : Operand) (imm : BitVec 18)  -- XORI, R356
  | icmpi (c : Ctl) (ty : Fmt) (cond : Cond) (d a : Operand) (imm : BitVec 18)  -- ICMPI, R370
  | lea (c : Ctl) (sh : BitVec 3) (d a b : Operand)  -- LEA, R374
  | leaw (c : Ctl) (sh : BitVec 3) (d a b : Operand)  -- LEAW, R375
  | cvti (c : Ctl) (dty sty : Fmt) (sat : Bool) (d a : Operand)  -- CVTI, R376
  | idp4 (c : Ctl) (sa sb sat : Bool) (d a b e : Operand)  -- IDP4, R377
  | idp8 (c : Ctl) (sa sb sat : Bool) (d a b e : Operand)  -- IDP8, R378
  | fadd (c : Ctl) (rm : Rnd) (ftz : Bool) (d a b : Operand)  -- FADD, R380
  | fsub (c : Ctl) (rm : Rnd) (ftz : Bool) (d a b : Operand)  -- FSUB, R381
  | fmul (c : Ctl) (rm : Rnd) (ftz : Bool) (d a b : Operand)  -- FMUL, R382
  | ffma (c : Ctl) (rm : Rnd) (ftz : Bool) (d a b e : Operand)  -- FFMA, R383
  | fmin (c : Ctl) (ftz : Bool) (d a b : Operand)  -- FMIN, R384
  | fmax (c : Ctl) (ftz : Bool) (d a b : Operand)  -- FMAX, R385
  | fcmp (c : Ctl) (ty : Fmt) (cond : Cond) (d a b : Operand)  -- FCMP, R386
  | fclass (c : Ctl) (d a : Operand)  -- FCLASS, R387
  | frnd (c : Ctl) (rm : Rnd) (ftz : Bool) (d a : Operand)  -- FRND, R388
  | fcvt (c : Ctl) (df sf : Fmt) (rm : Rnd) (sat ftz : Bool) (d a : Operand)  -- FCVT, R390
  | ftoi (c : Ctl) (ty : Fmt) (rm : Rnd) (ftz : Bool) (d a : Operand)  -- FTOI, R391
  | itof (c : Ctl) (ty : Fmt) (rm : Rnd) (ftz : Bool) (d a : Operand)  -- ITOF, R392
  | fscale (c : Ctl) (rm : Rnd) (ftz : Bool) (d a b : Operand)  -- FSCALE, R389
  | frcp (c : Ctl) (ftz : Bool) (d a : Operand)  -- FRCP, R394
  | frsq (c : Ctl) (ftz : Bool) (d a : Operand)  -- FRSQ, R395
  | fsqrt (c : Ctl) (ftz : Bool) (d a : Operand)  -- FSQRT, R396
  | fex2 (c : Ctl) (ftz : Bool) (d a : Operand)  -- FEX2, R397
  | flg2 (c : Ctl) (ftz : Bool) (d a : Operand)  -- FLG2, R398
  | fsin (c : Ctl) (ftz : Bool) (d a : Operand)  -- FSIN, R399
  | fcos (c : Ctl) (ftz : Bool) (d a : Operand)  -- FCOS, R400
  | ftanh (c : Ctl) (ftz : Bool) (d a : Operand)  -- FTANH, R401
  | hadd2 (c : Ctl) (bf : Bool) (rm : Rnd) (d a b : Operand)  -- HADD2, R403
  | hmul2 (c : Ctl) (bf : Bool) (rm : Rnd) (d a b : Operand)  -- HMUL2, R404
  | hfma2 (c : Ctl) (bf : Bool) (rm : Rnd) (d a b e : Operand)  -- HFMA2, R405
  | hmin2 (c : Ctl) (bf : Bool) (d a b : Operand)  -- HMIN2, R406
  | hmax2 (c : Ctl) (bf : Bool) (d a b : Operand)  -- HMAX2, R407
  | pack (c : Ctl) (ty : Fmt) (pos : BitVec 3) (d a b : Operand)  -- PACK, R409
  | unpack (c : Ctl) (ty : Fmt) (pos : BitVec 3) (lut : Option (BitVec 2 × Bool)) (d a : Operand)  -- UNPACK, R410
  | fdot2 (c : Ctl) (bf : Bool) (rm : Rnd) (d a b e : Operand)  -- FDOT2, R408
  | fstat (c : Ctl) (d : Operand)  -- FSTAT, R411
  | plop (c : Ctl) (tt : BitVec 8) (d a b e : Operand)  -- PLOP, R413
  | pmov (c : Ctl) (d a : Operand)  -- PMOV, R414
  | vote (c : Ctl) (form : VoteForm) (d a : Operand)  -- VOTE, R415
  | elect (c : Ctl) (d : Operand)  -- ELECT, R416
  | shfl (c : Ctl) (form : ShflForm) (d a b : Operand)  -- SHFL, R417
  | perm (c : Ctl) (d a b : Operand)  -- PERM, R418
  | bcast (c : Ctl) (d a b : Operand)  -- BCAST, R419
  | lred (c : Ctl) (op : ROp) (ty : RTy) (ftz : Bool) (d a : Operand)  -- LRED, R420
  | lscan (c : Ctl) (op : ROp) (ty : RTy) (ftz excl : Bool) (d a : Operand)  -- LSCAN, R421
  | matchL (c : Ctl) (w64 rank : Bool) (d a : Operand)  -- MATCH, R422
  | ld (c : Ctl) (sg : SegIx) (wd : Width) (sx a64 : Bool) (d a b : Operand)  -- LD, R427
  | st (c : Ctl) (sg : SegIx) (wd : Width) (a64 : Bool) (d a b : Operand)  -- ST, R428
  | ldMd (c : Ctl) (sg : SegIx) (a64 : Bool) (d a b : Operand)  -- LD_MD, R429
  | stMd (c : Ctl) (sg : SegIx) (a64 : Bool) (d a b : Operand)  -- ST_MD, R429
  | lds (c : Ctl) (sg : SegIx) (wd : Width) (sx a64 : Bool) (d a b : Operand)  -- LDS, R430
  | sts (c : Ctl) (sg : SegIx) (wd : Width) (a64 : Bool) (d a b : Operand)  -- STS, R431
  | ldt (c : Ctl) (sg : SegIx) (sc : Scope) (a64 : Bool) (d a b : Operand)  -- LDT, R433
  | ldtk (c : Ctl) (sg : SegIx) (sc : Scope) (a64 : Bool) (d a b : Operand)  -- LDTK, R434
  | stt (c : Ctl) (sg : SegIx) (sc : Scope) (a64 : Bool) (d a b : Operand)  -- STT, R435
  | sttf (c : Ctl) (sg : SegIx) (sc : Scope) (a64 : Bool) (d a b : Operand)  -- STTF, R436
  | tagRd (c : Ctl) (sg : SegIx) (a64 : Bool) (d a b : Operand)  -- TAG_RD, R437
  | tagClr (c : Ctl) (sg : SegIx) (a64 : Bool) (a b : Operand)  -- TAG_CLR, R437
  | phase (c : Ctl) (k : PhaseKind) (sc : Scope)  -- PHASE, R438
  | scfence (c : Ctl)  -- SCFENCE, R439
  | atom (c : Ctl) (sg : SegIx) (op : AOp) (o : Order) (sc : Scope) (w64 a64 : Bool) (d a b : Operand)  -- ATOM, R441
  | acas (c : Ctl) (sg : SegIx) (o : Order) (sc : Scope) (w64 facq a64 : Bool) (d a b : Operand)  -- ACAS, R442
  | lr (c : Ctl) (sg : SegIx) (o : Order) (sc : Scope) (w64 a64 : Bool) (d a : Operand)  -- LR, R443
  | sc (c : Ctl) (sg : SegIx) (o : Order) (sc : Scope) (w64 a64 : Bool) (d a b : Operand)  -- SC, R444
  | hwait (c : Ctl) (acq : Bool) (nt : Option Operand) (a : Operand)  -- HWAIT, R446
  | htest (c : Ctl) (d a : Operand)  -- HTEST, R447
  | hcancel (c : Ctl) (a : Operand)  -- HCANCEL, R448
  | hmov (c : Ctl) (toH : Bool) (d a : Operand)  -- HMOV, R449
  | hprom (c : Ctl) (a : Operand)  -- HPROM, R450
  | bcbInit (c : Ctl) (sg : SegIx) (a b : Operand)  -- BCB_INIT, R158
  | bcbExp (c : Ctl) (sg : SegIx) (a b : Operand)  -- BCB_EXP, R158
  | bcbArr (c : Ctl) (sg : SegIx) (a b : Operand)  -- BCB_ARR, R158
  | bcbWait (c : Ctl) (sg : SegIx) (a b : Operand)  -- BCB_WAIT, R159
  | bcbTest (c : Ctl) (sg : SegIx) (d a b : Operand)  -- BCB_TEST, R159
  | tidLd (c : Ctl) (a b : Operand)  -- TID_LD, R454
  | tidInv (c : Ctl) (a : Operand)  -- TID_INV, R455
  | gang (c : Ctl) (a : Operand)  -- GANG, R456
  | cbLd (c : Ctl) (d a : Operand)  -- CB_LD, R457
  | mma (c : Ctl) (sat : Bool) (shape : Shape) (d a : Operand)  -- MMA, R462
  | mmaSp (c : Ctl) (sat : Bool) (shape : Shape) (d a : Operand)  -- MMA_SP, R463
  | mmaQ (c : Ctl) (sat : Bool) (shape : Shape) (d a : Operand)  -- MMA_Q, R464
  | accZero (c : Ctl) (wide : Bool) (d : Operand)  -- ACC_ZERO, R465
  | accLd (c : Ctl) (wide : Bool) (d a : Operand)  -- ACC_LD, R466
  | accSt (c : Ctl) (wide sat : Bool) (a b : Operand)  -- ACC_ST, R467
  | accGet (c : Ctl) (wide : Bool) (d a b : Operand)  -- ACC_GET, R468
  | accPut (c : Ctl) (wide : Bool) (d a b : Operand)  -- ACC_PUT, R469
  | tmv (c : Ctl) (nocnt : Bool) (d a : Operand)  -- TMV, R470
  | fireRd (c : Ctl) (a : Operand)  -- FIRE_RD, R471
  | smp (c : Ctl) (d a b e : Operand)  -- SMP, R316
  | smpc (c : Ctl) (d a b e : Operand)  -- SMPC, R317
  | tld (c : Ctl) (d a b e : Operand)  -- TLD, R318
  | resQ (c : Ctl) (d a : Operand)  -- RES_Q, R319
  | vbary (c : Ctl) (d : Operand) (attr : BitVec 4) (b : Operand)  -- VBARY, R320
  | vsplit (c : Ctl) (a : Operand)  -- VSPLIT, R321
  | vkill (c : Ctl) (a : Operand)  -- VKILL, R322
  | outc (c : Ctl) (a : Operand)  -- OUTC, R323
  | outz (c : Ctl) (a : Operand)  -- OUTZ, R324
  | outv (c : Ctl) (which : Option (BitVec 4)) (a : Operand)  -- OUTV, R325
  | recPush (c : Ctl) (a : Operand)  -- REC_PUSH, R327
  | recPop (c : Ctl) (d e : Operand)  -- REC_POP, R328
  | recDone (c : Ctl)  -- REC_DONE, R329
  | bra (c : Ctl) (imm : BitVec 32)  -- BRA, R286
  | br (c : Ctl) (dist : BitVec 9) (imm : BitVec 32)  -- BR, R287
  | brx (c : Ctl) (a : Operand)  -- BRX, R289
  | call (c : Ctl) (d : Operand) (imm : BitVec 32)  -- CALL, R288
  | callx (c : Ctl) (d a : Operand)  -- CALLX, R290
  | ret (c : Ctl) (a : Operand)  -- RET, R291
  | reconv (c : Ctl)  -- RECONV, R292
  | exit (c : Ctl)  -- EXIT, R293
  | yield (c : Ctl)  -- YIELD, R294
  | sleep (c : Ctl) (a : Operand)  -- SLEEP, R295
  | sleepu (c : Ctl) (a : Operand)  -- SLEEPU, R296
  | trap (c : Ctl) (imm : BitVec 8)  -- TRAP, R297
  | bkpt (c : Ctl)  -- BKPT, R298
  | tret (c : Ctl)  -- TRET, R299
  | cjoin (c : Ctl) (d a : Operand)  -- CJOIN, R301
  | cleave (c : Ctl) (d a : Operand)  -- CLEAVE, R302
  | cnew (c : Ctl) (d : Operand)  -- CNEW, R300
  | bar (c : Ctl) (o : BarOrder) (crew : Option Operand)  -- BAR, R303
  | barp (c : Ctl) (op : ROp) (ty : RTy) (ftz : Bool) (o : BarOrder) (d a b : Operand)  -- BARP, R304
  | sluIn (c : Ctl) (init : Bool) (d a b : Operand)  -- SLU_IN, R305
  | sluOut (c : Ctl) (a : Operand)  -- SLU_OUT, R306
  | sluTry (c : Ctl) (d a b e : Operand)  -- SLU_TRY, R307
  | vgrow (c : Ctl) (a : Operand)  -- VGROW, R308
  | vshrink (c : Ctl) (a : Operand)  -- VSHRINK, R309
  | launch (c : Ctl) (d a b : Operand)  -- LAUNCH, R310
  | csrr (c : Ctl) (d : Operand) (num : BitVec 9)  -- CSRR, R312
  | csrw (c : Ctl) (a : Operand) (num : BitVec 9)  -- CSRW, R313
  | segLd (c : Ctl) (sg : SegIx) (a : Operand)  -- SEG_LD, R314
  | tlbInv (c : Ctl) (k : TlbInv)  -- TLB_INV, R315
  | xcLoad (c : Ctl) (h : Option (BitVec 4)) (a b : BitVec 5)  -- XC_LOAD, R476
  | xcStore (c : Ctl) (h : Option (BitVec 4)) (a b : BitVec 5)  -- XC_STORE, R476
  | xcMcast (c : Ctl) (h : Option (BitVec 4)) (a b : BitVec 5)  -- XC_MCAST, R476
  | xcGather (c : Ctl) (h : Option (BitVec 4)) (a b : BitVec 5)  -- XC_GATHER, R476
  | xcScatter (c : Ctl) (h : Option (BitVec 4)) (a b : BitVec 5)  -- XC_SCATTER, R476
  | xcFill (c : Ctl) (h : Option (BitVec 4)) (a b : BitVec 5)  -- XC_FILL, R476
  | xcPeer (c : Ctl) (h : Option (BitVec 4)) (a b : BitVec 5)  -- XC_PEER, R476
  | xcCsum (c : Ctl) (h : Option (BitVec 4)) (a b : BitVec 5)  -- XC_CSUM, R476
  | basAxpby (c : Ctl) (h : Option (BitVec 4)) (a b : BitVec 5)  -- BAS_AXPBY, R478
  | basScal (c : Ctl) (h : Option (BitVec 4)) (a b : BitVec 5)  -- BAS_SCAL, R478
  | basSgd (c : Ctl) (h : Option (BitVec 4)) (a b : BitVec 5)  -- BAS_SGD, R478
  | basMom (c : Ctl) (h : Option (BitVec 4)) (a b : BitVec 5)  -- BAS_MOM, R478
  | basSum (c : Ctl) (h : Option (BitVec 4)) (a b : BitVec 5)  -- BAS_SUM, R478
  | basFill (c : Ctl) (h : Option (BitVec 4)) (a b : BitVec 5)  -- BAS_FILL, R478
  | basCopy (c : Ctl) (h : Option (BitVec 4)) (a b : BitVec 5)  -- BAS_COPY, R478
  | basCvt (c : Ctl) (h : Option (BitVec 4)) (a b : BitVec 5)  -- BAS_CVT, R478
  | basStat (c : Ctl) (h : Option (BitVec 4)) (a b : BitVec 5)  -- BAS_STAT, R478
  | tierCfg (c : Ctl) (h : Option (BitVec 4)) (a b : BitVec 5)  -- TIER_CFG, R199
  | tierRank (c : Ctl) (h : Option (BitVec 4)) (a b : BitVec 5)  -- TIER_RANK, R204
  | tierMig (c : Ctl) (h : Option (BitVec 4)) (a b : BitVec 5)  -- TIER_MIG, R205
  | tierAge (c : Ctl) (h : Option (BitVec 4)) (a b : BitVec 5)  -- TIER_AGE, R206
  | tierPin (c : Ctl) (h : Option (BitVec 4)) (a b : BitVec 5)  -- TIER_PIN, R207
  | prsDraw (c : Ctl) (h : Option (BitVec 4)) (a b : BitVec 5)  -- PRS_DRAW, R480
  | prsFrame (c : Ctl) (h : Option (BitVec 4)) (a b : BitVec 5)  -- PRS_FRAME, R480
  | prsPresent (c : Ctl) (h : Option (BitVec 4)) (a b : BitVec 5)  -- PRS_PRESENT, R480
  | prsReproj (c : Ctl) (h : Option (BitVec 4)) (a b : BitVec 5)  -- PRS_REPROJ, R480
  | trcMark (c : Ctl) (h : Option (BitVec 4)) (a b : BitVec 5)  -- TRC_MARK, R481
  | trcFlush (c : Ctl) (h : Option (BitVec 4)) (a b : BitVec 5)  -- TRC_FLUSH, R481
  | trcSample (c : Ctl) (h : Option (BitVec 4)) (a b : BitVec 5)  -- TRC_SAMPLE, R481
  | stwKeyspill (c : Ctl) (h : Option (BitVec 4)) (a b : BitVec 5)  -- STW_KEYSPILL, R482
  | stwDump (c : Ctl) (h : Option (BitVec 4)) (a b : BitVec 5)  -- STW_DUMP, R482
  | deliver  -- DELIVER, R55
  | dropLine  -- DROP, R55
  | cacheDrop  -- CACHE_DROP, R55
  | heartbeat  -- HEARTBEAT, R55
  | releaseComplete  -- RELEASE_COMPLETE, R61
  | taggedAtHome  -- TAGGED_AT_HOME, R66
  | taggedResend  -- TAGGED_RESEND, R67
  | serviceRequest  -- SERVICE_REQUEST, R70
  | atomicReply  -- ATOMIC_REPLY, R70
  | engineRead  -- ENGINE_READ, R74
  | engineWrite  -- ENGINE_WRITE, R74
  | engineCount  -- ENGINE_COUNT, R74
  | cascadeStep  -- CASCADE_STEP, R460
  | clauseIssue  -- CLAUSE_ISSUE, R139
  | resultWrite  -- RESULT_WRITE, R140
  | watchdog  -- WATCHDOG, R100
  | ctxBuild  -- CTX_BUILD, R90
  | ctxCommit  -- COMMIT, R90
  | ctxSuspend  -- CTX_SUSPEND, R90
  | ctxResume  -- CTX_RESUME, R90
  | ctxReset  -- CTX_RESET, R90
  | ctxKill  -- CTX_KILL, R90
  | ctxFree  -- CTX_FREE, R90
  | ctxDump  -- CTX_DUMP, R90
  | drainComplete  -- DRAIN_COMPLETE, R102
  | quantumEnd  -- QUANTUM_END, R92
  | tenantChoice  -- TENANT_CHOICE, R92
  | switchOut  -- SWITCH_OUT, R93
  | contextRestore  -- CONTEXT_RESTORE, R93
  | wellheadWake  -- WELLHEAD_WAKE, R106
  | launchRecord  -- LAUNCH_RECORD, R116
  | drawRecord  -- DRAW_RECORD, R110
  | copyRecord  -- COPY_RECORD, R110
  | waitRecord  -- WAIT_RECORD, R110
  | signalRecord  -- SIGNAL_RECORD, R110
  | markRecord  -- MARK_RECORD, R110
  | waitTimeout  -- WAIT_TIMEOUT, R112
  | queueAgeing  -- QUEUE_AGEING, R111
  | wellheadAppend  -- WELLHEAD_APPEND, R113
  | queueBind  -- QUEUE_BIND, R108
  | queueUnbind  -- QUEUE_UNBIND, R108
  | queueSuspend  -- QUEUE_SUSPEND, R108
  | queueResume  -- QUEUE_RESUME, R108
  | queueClear  -- QUEUE_CLEAR, R108
  | placementPass  -- PLACEMENT_PASS, R119
  | completionEvent  -- COMPLETION_EVENT, R123
  | vgrowDeadlockCheck  -- VGROW_DEADLOCK_CHECK, R142
  | vgrowRestore  -- VGROW_RESTORE, R142
  | gangTimeout  -- GANG_TIMEOUT, R146
  | promiseTimeout  -- PROMISE_TIMEOUT, R162
  | sleepWake  -- SLEEP_WAKE, R295
  | pageWalk  -- PAGE_WALK, R172
  | walkResend  -- WALK_RESEND, R175
  | dumpPageCopy  -- DUMP_PAGE_COPY, R181
  | pktRd  -- PKT_RD, R187
  | pktWr  -- PKT_WR, R187
  | pktWrm  -- PKT_WRM, R190
  | pktNmc  -- PKT_NMC, R195
  | readReply  -- READ_REPLY, R186
  | writeReply  -- WRITE_REPLY, R187
  | nmcReply  -- NMC_REPLY, R196
  | stackTrainingStart  -- STACK_TRAINING_START, R183
  | stackTrainingPass  -- STACK_TRAINING_PASS, R183
  | stackTrainingFail  -- STACK_TRAINING_FAIL, R183
  | stackInterfaceFail  -- STACK_INTERFACE_FAIL, R183
  | nrcfgWrite  -- NRCFG_WRITE, R192
  | cecountWrite  -- CECOUNT_WRITE, R182
  | uccountWrite  -- UCCOUNT_WRITE, R182
  | patWrite  -- PAT_WRITE, R193
  | tierWorking  -- TIER_WORKING, R199
  | autoAgeing  -- AUTO_AGEING, R206
  | tierCopyDone  -- TIER_COPY_DONE, R205
  | tmvJoin  -- TMV_JOIN, R201
  | sectionRequest  -- SECTION_REQUEST, R214
  | sectionLeave  -- SECTION_LEAVE, R213
  | chainWalkHop  -- CHAIN_WALK_HOP, R221
  | sectStarved  -- SECT_STARVED, R222
  | waiterResend  -- WAITER_RESEND, R220
  | streamBind  -- STREAM_BIND, R228
  | streamUnbind  -- STREAM_UNBIND, R228
  | primitiveAssembly  -- PRIMITIVE_ASSEMBLY, R232
  | primitiveSetup  -- PRIMITIVE_SETUP, R234
  | sweep  -- SWEEP, R236
  | blend  -- BLEND, R239
  | slotDeadline  -- SLOT_DEADLINE, R242
  | clockStep  -- CLOCK_STEP, R542
  | thermalTrip  -- THERMAL_TRIP, R542
  | flitData  -- FLIT_DATA, R510
  | flitAck  -- FLIT_ACK, R508
  | flitFlowControl  -- FLIT_FLOW_CONTROL, R509
  | flitTick  -- FLIT_TICK, R515
  | tickFlitSend  -- TICK_FLIT_SEND, R515
  | linkReplayTimeout  -- LINK_REPLAY_TIMEOUT, R508
  | linkEnable  -- LINK_ENABLE, R512
  | linkDisable  -- LINK_DISABLE, R512
  | linkTrainingPass  -- LINK_TRAINING_PASS, R512
  | linkTrainingFail  -- LINK_TRAINING_FAIL, R512
  | laneFail  -- LANE_FAIL, R512
  | hdmWrite  -- HDM_WRITE, R506
  | powerGood  -- POWER_GOOD, R531
  | powerLoss  -- POWER_LOSS, R531
  | go  -- GO, R537
  | verify  -- VERIFY, R532
  | earlyEntry  -- EARLY_ENTRY, R534
  | fullEntry  -- FULL_ENTRY, R531
  | claim  -- CLAIM, R535
  | handover  -- HANDOVER, R535
  | accept  -- ACCEPT, R535
  | crownRelease  -- RELEASE, R535
  | handoverLapse  -- HANDOVER_LAPSE, R535
  | crownVacancy  -- CROWN_VACANCY, R535
  | devnoWrite  -- DEVNO_WRITE, R538
  | attest  -- ATTEST, R540
  | cert  -- CERT, R541
  | csrrd  -- CSRRD, R539
  | csrwr  -- CSRWR, R539
  | hubrd  -- HUBRD, R539
  | hubwr  -- HUBWR, R539
  | traceEnWrite  -- TRACE_EN_WRITE, R518
  | frameTimeout  -- FRAME_TIMEOUT, R519
  | frameWrite  -- FRAME_WRITE, R519
  | sampleTake  -- SAMPLE_TAKE, R522
  | replayDivergence  -- REPLAY_DIVERGENCE, R529
  | stopArm  -- STOP_ARM, R524
  | deviceStop  -- DEVICE_STOP, R525
  | stopResume  -- STOP_RESUME, R525
  | registerWrite  -- REGISTER_WRITE, R88
  | softError  -- SOFT_ERROR, R188
  | cxlLinkRecovery  -- CXL_LINK_RECOVERY, R512
  | tlb2Lookup  -- SECOND_LEVEL_TLB_LOOKUP, R175
  deriving DecidableEq, Repr

end Sys2Proof
end

