-- ==== Sys2Proof/WellFormed.lean ====
section
/-! DEFINITION. Which instructions are well formed: the checks of R275 that depend on the word alone. Each field
takes an operand of its kind (R269, R284, R330, R423), TYPE, COND and modifier combinations are those the entries
accept, and LA and SLOT are 0 but on the long-latency instructions of R271. -/
namespace Sys2Proof

/-- The 64-bit integer formats, whose operands are pairs (R332). -/
def Fmt.is64 : Fmt → Bool
  | .i64 | .n64 => true
  | _ => false

/-- The integer formats, codes 0x07 to 0x10 (R21). -/
def Fmt.isInt : Fmt → Bool
  | .i4 | .n4 | .i8 | .n8 | .i16 | .n16 | .i32 | .n32 | .i64 | .n64 => true
  | _ => false

/-- The formats FCVT names, codes 0 to 5 (R390). -/
def Fmt.isFloat : Fmt → Bool
  | .f32 | .f16 | .bf16 | .e4m3 | .e5m2 | .lns6 => true
  | _ => false

/-- Width of an element as PACK and UNPACK place it: LNS6 takes 8 bits (R409). -/
def Fmt.width : Fmt → Nat
  | .i4 | .n4 | .lut4 => 4
  | .e4m3 | .e5m2 | .lns6 | .i8 | .n8 => 8
  | .f16 | .bf16 | .i16 | .n16 => 16
  | .f32 | .i32 | .n32 => 32
  | .i64 | .n64 => 64

/-- The kinds of operand a field accepts (R269) and the groups of registers that R284, R330 and R423 name.
`wide` and `wideDst` are a source and a destination of the operation's width. -/
inductive Kind
  | valSrc | uniSrc | valDst | pred | predNot7 | predTriple | handle | tile | tileGroup | codebook
  | pair | pairImm | quad | sReg | sOrV | sPair | sQuad | sOctet | sTriple | vRun (n : Nat)
  | wide (w64 : Bool) | wideDst (w64 : Bool)
  deriving DecidableEq, Repr

/-- Every lane reads the same value of a uniform special (R268). -/
def Special.uniform : Special → Bool
  | .lane | .vlo | .vhi | .vmask | .px | .py | .okey | .oseq => false
  | _ => true

/-- An even index naming a register pair (R269). -/
def Operand.isPair : Operand → Bool
  | .v n => !n.getLsbD 0
  | .s n => !n.getLsbD 0
  | _ => false

/-- A value source (R269). -/
def Operand.isValue : Operand → Bool
  | .v _ | .s _ | .t _ | .h _ | .sp _ | .imm _ => true
  | _ => false

/-- A value destination (R269). -/
def Operand.isDst : Operand → Bool
  | .v _ | .s _ | .t _ => true
  | _ => false

/-- An inline constant. -/
def Operand.isImm : Operand → Bool
  | .imm _ => true
  | _ => false

/-- What a field of a kind accepts (R269, R284, R285, R330, R423). -/
def Kind.ok : Kind → Operand → Bool
  | .valSrc, o => o.isValue
  | .uniSrc, .s _ => true
  | .uniSrc, .sp x => x.uniform
  | .uniSrc, .imm _ => true
  | .valDst, o => o.isDst
  | .pred, .p _ => true
  | .predNot7, .p n => n != 7
  | .predTriple, .p _ => true
  | .predTriple, .s n => n.toNat ≤ 61
  | .handle, .h _ => true
  | .tile, .a _ => true
  | .tileGroup, .a n => n == 0 || n == 4
  | .codebook, .c _ => true
  | .pair, o => o.isPair
  | .pairImm, o => o.isPair || o.isImm
  | .quad, .v n => n.toNat % 4 == 0
  | .quad, .s n => n.toNat % 4 == 0
  | .sReg, .s _ => true
  | .sOrV, .s _ => true
  | .sOrV, .v _ => true
  | .sPair, .s n => !n.getLsbD 0
  | .sQuad, .s n => n.toNat % 4 == 0
  | .sOctet, .s n => n.toNat % 8 == 0 && n.toNat ≤ 48
  | .sTriple, .s n => n.toNat ≤ 61
  | .vRun k, .v n => n.toNat + k ≤ 256
  | .wide true, o => o.isPair || o.isImm
  | .wide false, o => o.isValue
  | .wideDst true, o => o.isPair
  | .wideDst false, o => o.isDst
  | _, _ => false

/-- How many registers from the named one on a field of a kind reaches, when it names a vector register. -/
def Kind.span : Kind → Nat
  | .pair | .pairImm | .wide true | .wideDst true => 2
  | .quad => 4
  | .vRun k => k
  | _ => 1

/-- The destination a form of VOTE requires (R415). -/
def VoteForm.dst : VoteForm → Kind
  | .bits => .sTriple
  | .count => .valDst
  | _ => .pred

/-- The destination of a load of a width (R427). -/
def Width.dst : Width → Kind
  | .b64 => .pair
  | _ => .valDst

/-- The data field of a store of a width (R428). -/
def Width.src : Width → Kind
  | .b64 => .pair
  | _ => .valSrc

/-- The destination of LDS (R430). -/
def Width.ldsDst : Width → Kind
  | .b64 => .pair
  | .b128 => .sQuad
  | _ => .sOrV

/-- The data field of STS (R431). -/
def Width.stsSrc : Width → Kind
  | .b64 => .sPair
  | .b128 => .sQuad
  | _ => .sReg

/-- The operand fields of TLB.INV (R315). -/
def TlbInv.fields : TlbInv → List (Kind × Operand)
  | .page a b => [(.sPair, a), (.uniSrc, b)]
  | .ctx b => [(.uniSrc, b)]
  | .all => []

/-- Every operand field of an instruction with the kind it must be (R284, R330, R423). Device steps have none, and
a coprocessor command's fields are of their kind by construction (R445). -/
def Instr.fields : Instr → List (Kind × Operand)
  | .deliver => []
  | .dropLine => []
  | .cacheDrop => []
  | .heartbeat => []
  | .releaseComplete => []
  | .taggedAtHome => []
  | .taggedResend => []
  | .serviceRequest => []
  | .atomicReply => []
  | .engineRead => []
  | .engineWrite => []
  | .engineCount => []
  | .cascadeStep => []
  | .clauseIssue => []
  | .resultWrite => []
  | .watchdog => []
  | .ctxBuild => []
  | .ctxCommit => []
  | .ctxSuspend => []
  | .ctxResume => []
  | .ctxReset => []
  | .ctxKill => []
  | .ctxFree => []
  | .ctxDump => []
  | .drainComplete => []
  | .quantumEnd => []
  | .tenantChoice => []
  | .switchOut => []
  | .contextRestore => []
  | .wellheadWake => []
  | .launchRecord => []
  | .drawRecord => []
  | .copyRecord => []
  | .waitRecord => []
  | .signalRecord => []
  | .markRecord => []
  | .waitTimeout => []
  | .queueAgeing => []
  | .wellheadAppend => []
  | .queueBind => []
  | .queueUnbind => []
  | .queueSuspend => []
  | .queueResume => []
  | .queueClear => []
  | .placementPass => []
  | .completionEvent => []
  | .vgrowDeadlockCheck => []
  | .vgrowRestore => []
  | .gangTimeout => []
  | .promiseTimeout => []
  | .sleepWake => []
  | .pageWalk => []
  | .walkResend => []
  | .dumpPageCopy => []
  | .pktRd => []
  | .pktWr => []
  | .pktWrm => []
  | .pktNmc => []
  | .readReply => []
  | .writeReply => []
  | .nmcReply => []
  | .stackTrainingStart => []
  | .stackTrainingPass => []
  | .stackTrainingFail => []
  | .stackInterfaceFail => []
  | .nrcfgWrite => []
  | .cecountWrite => []
  | .uccountWrite => []
  | .patWrite => []
  | .tierWorking => []
  | .autoAgeing => []
  | .tierCopyDone => []
  | .tmvJoin => []
  | .sectionRequest => []
  | .sectionLeave => []
  | .chainWalkHop => []
  | .sectStarved => []
  | .waiterResend => []
  | .streamBind => []
  | .streamUnbind => []
  | .primitiveAssembly => []
  | .primitiveSetup => []
  | .sweep => []
  | .blend => []
  | .slotDeadline => []
  | .clockStep => []
  | .thermalTrip => []
  | .flitData => []
  | .flitAck => []
  | .flitFlowControl => []
  | .flitTick => []
  | .tickFlitSend => []
  | .linkReplayTimeout => []
  | .linkEnable => []
  | .linkDisable => []
  | .linkTrainingPass => []
  | .linkTrainingFail => []
  | .laneFail => []
  | .hdmWrite => []
  | .powerGood => []
  | .powerLoss => []
  | .go => []
  | .verify => []
  | .earlyEntry => []
  | .fullEntry => []
  | .claim => []
  | .handover => []
  | .accept => []
  | .crownRelease => []
  | .handoverLapse => []
  | .crownVacancy => []
  | .devnoWrite => []
  | .attest => []
  | .cert => []
  | .csrrd => []
  | .csrwr => []
  | .hubrd => []
  | .hubwr => []
  | .traceEnWrite => []
  | .frameTimeout => []
  | .frameWrite => []
  | .sampleTake => []
  | .replayDivergence => []
  | .stopArm => []
  | .deviceStop => []
  | .stopResume => []
  | .registerWrite => []
  | .iadd _ ty _ d a b => [(.wideDst ty.is64, d), (.wide ty.is64, a), (.wide ty.is64, b)]
  | .isub _ ty _ d a b => [(.wideDst ty.is64, d), (.wide ty.is64, a), (.wide ty.is64, b)]
  | .imul _ ty _ d a b => [(.wideDst ty.is64, d), (.wide ty.is64, a), (.wide ty.is64, b)]
  | .imulh _ _ _ d a b => [(.valDst, d), (.valSrc, a), (.valSrc, b)]
  | .imad _ _ _ d a b e => [(.valDst, d), (.valSrc, a), (.valSrc, b), (.valSrc, e)]
  | .imadw _ _ _ d a b e => [(.pair, d), (.valSrc, a), (.valSrc, b), (.pairImm, e)]
  | .iaddw _ _ _ d a b e => [(.valDst, d), (.valSrc, a), (.valSrc, b), (.pred, e)]
  | .isubw _ _ _ d a b e => [(.valDst, d), (.valSrc, a), (.valSrc, b), (.pred, e)]
  | .iabs _ ty _ d a => [(.wideDst ty.is64, d), (.wide ty.is64, a)]
  | .ineg _ ty _ d a => [(.wideDst ty.is64, d), (.wide ty.is64, a)]
  | .imin _ ty _ d a b => [(.wideDst ty.is64, d), (.wide ty.is64, a), (.wide ty.is64, b)]
  | .imax _ ty _ d a b => [(.wideDst ty.is64, d), (.wide ty.is64, a), (.wide ty.is64, b)]
  | .iclamp _ ty _ d a b e => [(.wideDst ty.is64, d), (.wide ty.is64, a), (.wide ty.is64, b), (.wide ty.is64, e)]
  | .iand _ w64 d a b => [(.wideDst w64, d), (.wide w64, a), (.wide w64, b)]
  | .ior _ w64 d a b => [(.wideDst w64, d), (.wide w64, a), (.wide w64, b)]
  | .ixor _ w64 d a b => [(.wideDst w64, d), (.wide w64, a), (.wide w64, b)]
  | .andn _ w64 d a b => [(.wideDst w64, d), (.wide w64, a), (.wide w64, b)]
  | .tri _ _ d a b e => [(.valDst, d), (.valSrc, a), (.valSrc, b), (.valSrc, e)]
  | .shl _ w64 _ d a b => [(.wideDst w64, d), (.wide w64, a), (.valSrc, b)]
  | .shr _ w64 _ d a b => [(.wideDst w64, d), (.wide w64, a), (.valSrc, b)]
  | .sar _ w64 _ d a b => [(.wideDst w64, d), (.wide w64, a), (.valSrc, b)]
  | .rotl _ w64 d a b => [(.wideDst w64, d), (.wide w64, a), (.valSrc, b)]
  | .funsh _ _ _ d a b e => [(.valDst, d), (.valSrc, a), (.valSrc, b), (.valSrc, e)]
  | .popc _ w64 d a => [(.valDst, d), (.wide w64, a)]
  | .clz _ w64 d a => [(.valDst, d), (.wide w64, a)]
  | .ffs _ w64 d a => [(.valDst, d), (.wide w64, a)]
  | .brev _ w64 d a => [(.wideDst w64, d), (.wide w64, a)]
  | .bfx _ _ d a b e => [(.valDst, d), (.valSrc, a), (.valSrc, b), (.valSrc, e)]
  | .bfi _ d a b e => [(.valDst, d), (.valSrc, a), (.valSrc, b), (.valSrc, e)]
  | .icmp _ ty _ d a b => [(.pred, d), (.wide ty.is64, a), (.wide ty.is64, b)]
  | .sel _ w64 d a b e => [(.wideDst w64, d), (.wide w64, a), (.wide w64, b), (.pred, e)]
  | .mov _ w64 d a => [(.wideDst w64, d), (.wide w64, a)]
  | .movi _ d _ => [(.valDst, d)]
  | .iaddi _ ty _ d a _ => [(.wideDst ty.is64, d), (.wide ty.is64, a)]
  | .imuli _ ty _ d a _ => [(.wideDst ty.is64, d), (.wide ty.is64, a)]
  | .andi _ d a _ => [(.valDst, d), (.valSrc, a)]
  | .ori _ d a _ => [(.valDst, d), (.valSrc, a)]
  | .xori _ d a _ => [(.valDst, d), (.valSrc, a)]
  | .icmpi _ ty _ d a _ => [(.pred, d), (.wide ty.is64, a)]
  | .lea _ _ d a b => [(.valDst, d), (.valSrc, a), (.valSrc, b)]
  | .leaw _ _ d a b => [(.pair, d), (.pairImm, a), (.valSrc, b)]
  | .cvti _ dty sty _ d a => [(.wideDst dty.is64, d), (.wide sty.is64, a)]
  | .idp4 _ _ _ _ d a b e => [(.valDst, d), (.valSrc, a), (.valSrc, b), (.valSrc, e)]
  | .idp8 _ _ _ _ d a b e => [(.valDst, d), (.valSrc, a), (.valSrc, b), (.valSrc, e)]
  | .fadd _ _ _ d a b => [(.valDst, d), (.valSrc, a), (.valSrc, b)]
  | .fsub _ _ _ d a b => [(.valDst, d), (.valSrc, a), (.valSrc, b)]
  | .fmul _ _ _ d a b => [(.valDst, d), (.valSrc, a), (.valSrc, b)]
  | .ffma _ _ _ d a b e => [(.valDst, d), (.valSrc, a), (.valSrc, b), (.valSrc, e)]
  | .fmin _ _ d a b => [(.valDst, d), (.valSrc, a), (.valSrc, b)]
  | .fmax _ _ d a b => [(.valDst, d), (.valSrc, a), (.valSrc, b)]
  | .fcmp _ _ _ d a b => [(.pred, d), (.valSrc, a), (.valSrc, b)]
  | .fclass _ d a => [(.valDst, d), (.valSrc, a)]
  | .frnd _ _ _ d a => [(.valDst, d), (.valSrc, a)]
  | .fcvt _ _ _ _ _ _ d a => [(.valDst, d), (.valSrc, a)]
  | .ftoi _ ty _ _ d a => [(.wideDst ty.is64, d), (.valSrc, a)]
  | .itof _ ty _ _ d a => [(.valDst, d), (.wide ty.is64, a)]
  | .fscale _ _ _ d a b => [(.valDst, d), (.valSrc, a), (.valSrc, b)]
  | .frcp _ _ d a => [(.valDst, d), (.valSrc, a)]
  | .frsq _ _ d a => [(.valDst, d), (.valSrc, a)]
  | .fsqrt _ _ d a => [(.valDst, d), (.valSrc, a)]
  | .fex2 _ _ d a => [(.valDst, d), (.valSrc, a)]
  | .flg2 _ _ d a => [(.valDst, d), (.valSrc, a)]
  | .fsin _ _ d a => [(.valDst, d), (.valSrc, a)]
  | .fcos _ _ d a => [(.valDst, d), (.valSrc, a)]
  | .ftanh _ _ d a => [(.valDst, d), (.valSrc, a)]
  | .hadd2 _ _ _ d a b => [(.valDst, d), (.valSrc, a), (.valSrc, b)]
  | .hmul2 _ _ _ d a b => [(.valDst, d), (.valSrc, a), (.valSrc, b)]
  | .hfma2 _ _ _ d a b e => [(.valDst, d), (.valSrc, a), (.valSrc, b), (.valSrc, e)]
  | .hmin2 _ _ d a b => [(.valDst, d), (.valSrc, a), (.valSrc, b)]
  | .hmax2 _ _ d a b => [(.valDst, d), (.valSrc, a), (.valSrc, b)]
  | .pack _ _ _ d a b => [(.valDst, d), (.valSrc, a), (.valSrc, b)]
  | .unpack _ _ _ _ d a => [(.valDst, d), (.valSrc, a)]
  | .fdot2 _ _ _ d a b e => [(.valDst, d), (.valSrc, a), (.valSrc, b), (.valSrc, e)]
  | .fstat _ d => [(.valDst, d)]
  | .plop _ _ d a b e => [(.pred, d), (.pred, a), (.pred, b), (.pred, e)]
  | .pmov _ d a => [(.predTriple, d), (.predTriple, a)]
  | .vote _ form d a => [(form.dst, d), (.pred, a)]
  | .elect _ d => [(.pred, d)]
  | .shfl _ _ d a b => [(.valDst, d), (.valSrc, a), (.valSrc, b)]
  | .perm _ d a b => [(.valDst, d), (.valSrc, a), (.valSrc, b)]
  | .bcast _ d a b => [(.valDst, d), (.valSrc, a), (.uniSrc, b)]
  | .lred _ _ _ _ d a => [(.valDst, d), (.valSrc, a)]
  | .lscan _ _ _ _ _ d a => [(.valDst, d), (.valSrc, a)]
  | .matchL _ w64 _ d a => [(.vRun 3, d), (.wide w64, a)]
  | .ld _ _ wd _ a64 d a b => [(wd.dst, d), ((if a64 then .pair else .valSrc), a), (.valSrc, b)]
  | .st _ _ wd a64 d a b => [(wd.src, d), ((if a64 then .pair else .valSrc), a), (.valSrc, b)]
  | .ldMd _ _ a64 d a b => [(.valDst, d), ((if a64 then .pair else .valSrc), a), (.valSrc, b)]
  | .stMd _ _ a64 d a b => [(.valSrc, d), ((if a64 then .pair else .valSrc), a), (.valSrc, b)]
  | .lds _ _ wd _ a64 d a b => [(wd.ldsDst, d), ((if a64 then .sPair else .uniSrc), a), (.uniSrc, b)]
  | .sts _ _ wd a64 d a b => [(wd.stsSrc, d), ((if a64 then .sPair else .uniSrc), a), (.uniSrc, b)]
  | .ldt _ _ _ a64 d a b => [(.valDst, d), ((if a64 then .pair else .valSrc), a), (.valSrc, b)]
  | .ldtk _ _ _ a64 d a b => [(.valDst, d), ((if a64 then .pair else .valSrc), a), (.valSrc, b)]
  | .stt _ _ _ a64 d a b => [(.valSrc, d), ((if a64 then .pair else .valSrc), a), (.valSrc, b)]
  | .sttf _ _ _ a64 d a b => [(.valSrc, d), ((if a64 then .pair else .valSrc), a), (.valSrc, b)]
  | .tagRd _ _ a64 d a b => [(.valDst, d), ((if a64 then .pair else .valSrc), a), (.valSrc, b)]
  | .tagClr _ _ a64 a b => [((if a64 then .pair else .valSrc), a), (.valSrc, b)]
  | .phase _ _ _ => []
  | .scfence _ => []
  | .atom _ _ _ _ _ w64 a64 d a b => [((if w64 then .pair else .valDst), d), ((if a64 then .pair else .valSrc), a), ((if w64 then .pair else .valSrc), b)]
  | .acas _ _ _ _ w64 _ a64 d a b => [((if w64 then .pair else .valDst), d), ((if a64 then .pair else .valSrc), a), ((if w64 then .quad else .pair), b)]
  | .lr _ _ _ _ w64 a64 d a => [((if w64 then .pair else .valDst), d), ((if a64 then .pair else .valSrc), a)]
  | .sc _ _ _ _ w64 a64 d a b => [(.valDst, d), ((if a64 then .pair else .valSrc), a), ((if w64 then .pair else .valSrc), b)]
  | .hwait _ _ nt a => (.handle, a) :: (nt.toList.map (Prod.mk .valDst))
  | .htest _ d a => [(.valDst, d), (.handle, a)]
  | .hcancel _ a => [(.handle, a)]
  | .hmov _ toH d a => [((if toH then .handle else .sPair), d), ((if toH then .sPair else .handle), a)]
  | .hprom _ a => [(.handle, a)]
  | .bcbInit _ _ a b => [(.uniSrc, a), (.uniSrc, b)]
  | .bcbExp _ _ a b => [(.uniSrc, a), (.uniSrc, b)]
  | .bcbArr _ _ a b => [(.uniSrc, a), (.uniSrc, b)]
  | .bcbWait _ _ a b => [(.uniSrc, a), (.uniSrc, b)]
  | .bcbTest _ _ d a b => [(.valDst, d), (.uniSrc, a), (.uniSrc, b)]
  | .tidLd _ a b => [(.uniSrc, a), (.sPair, b)]
  | .tidInv _ a => [(.uniSrc, a)]
  | .gang _ a => [(.sQuad, a)]
  | .cbLd _ d a => [(.codebook, d), (.sOctet, a)]
  | .mma _ _ shape d a => [((if shape = .wide then .tileGroup else .tile), d), (.sQuad, a)]
  | .mmaSp _ _ shape d a => [((if shape = .wide then .tileGroup else .tile), d), (.sQuad, a)]
  | .mmaQ _ _ shape d a => [((if shape = .wide then .tileGroup else .tile), d), (.sQuad, a)]
  | .accZero _ wide d => [((if wide then .tileGroup else .tile), d)]
  | .accLd _ wide d a => [((if wide then .tileGroup else .tile), d), (.sQuad, a)]
  | .accSt _ wide _ a b => [((if wide then .tileGroup else .tile), a), (.sQuad, b)]
  | .accGet _ wide d a b => [((.vRun (if wide then 2 else 1)), d), ((if wide then .tileGroup else .tile), a), (.uniSrc, b)]
  | .accPut _ wide d a b => [((if wide then .tileGroup else .tile), d), ((.vRun (if wide then 2 else 1)), a), (.uniSrc, b)]
  | .tmv _ _ d a => [(.tile, d), (.sQuad, a)]
  | .fireRd _ a => [(.sQuad, a)]
  | .smp _ d a b e => [(.vRun 4, d), (.valSrc, a), (.vRun 3, b), (.valSrc, e)]
  | .smpc _ d a b e => [(.vRun 1, d), (.valSrc, a), (.vRun 3, b), (.valSrc, e)]
  | .tld _ d a b e => [(.vRun 4, d), (.valSrc, a), (.vRun 3, b), (.valSrc, e)]
  | .resQ _ d a => [(.vRun 4, d), (.valSrc, a)]
  | .vbary _ d _ b => [(.valDst, d), (.valSrc, b)]
  | .vsplit _ a => [(.valSrc, a)]
  | .vkill _ a => [(.valSrc, a)]
  | .outc _ a => [(.vRun 4, a)]
  | .outz _ a => [(.valSrc, a)]
  | .outv _ which a => [((if which.isNone then .vRun 4 else .valSrc), a)]
  | .recPush _ a => [(.vRun 16, a)]
  | .recPop _ d e => [(.vRun 16, d), (.predNot7, e)]
  | .recDone _ => []
  | .bra _ _ => []
  | .br _ _ _ => []
  | .brx _ a => [(.pair, a)]
  | .call _ d _ => [(.sPair, d)]
  | .callx _ d a => [(.pair, d), (.pair, a)]
  | .ret _ a => [(.pair, a)]
  | .reconv _ => []
  | .exit _ => []
  | .yield _ => []
  | .sleep _ a => [(.uniSrc, a)]
  | .sleepu _ a => [(.sPair, a)]
  | .trap _ _ => []
  | .bkpt _ => []
  | .tret _ => []
  | .cjoin _ d a => [(.valDst, d), (.uniSrc, a)]
  | .cleave _ d a => [(.valDst, d), (.uniSrc, a)]
  | .cnew _ d => [(.valDst, d)]
  | .bar _ _ crew => (crew.toList.map (Prod.mk .uniSrc))
  | .barp _ _ _ _ _ d a b => [(.valDst, d), (.uniSrc, a), (.uniSrc, b)]
  | .sluIn _ _ d a b => [(.pred, d), (.pair, a), (.valSrc, b)]
  | .sluOut _ a => [(.pair, a)]
  | .sluTry _ d a b e => [(.predNot7, d), (.pair, a), (.valSrc, b), (.predNot7, e)]
  | .vgrow _ a => [(.uniSrc, a)]
  | .vshrink _ a => [(.uniSrc, a)]
  | .launch _ d a b => [(.valDst, d), (.sPair, a), (.uniSrc, b)]
  | .csrr _ d _ => [(.valDst, d)]
  | .csrw _ a _ => [(.uniSrc, a)]
  | .segLd _ _ a => [(.sQuad, a)]
  | .tlbInv _ k => k.fields
  | .xcLoad _ _ _ _ => []
  | .xcStore _ _ _ _ => []
  | .xcMcast _ _ _ _ => []
  | .xcGather _ _ _ _ => []
  | .xcScatter _ _ _ _ => []
  | .xcFill _ _ _ _ => []
  | .xcPeer _ _ _ _ => []
  | .xcCsum _ _ _ _ => []
  | .basAxpby _ _ _ _ => []
  | .basScal _ _ _ _ => []
  | .basSgd _ _ _ _ => []
  | .basMom _ _ _ _ => []
  | .basSum _ _ _ _ => []
  | .basFill _ _ _ _ => []
  | .basCopy _ _ _ _ => []
  | .basCvt _ _ _ _ => []
  | .basStat _ _ _ _ => []
  | .tierCfg _ _ _ _ => []
  | .tierRank _ _ _ _ => []
  | .tierMig _ _ _ _ => []
  | .tierAge _ _ _ _ => []
  | .tierPin _ _ _ _ => []
  | .prsDraw _ _ _ _ => []
  | .prsFrame _ _ _ _ => []
  | .prsPresent _ _ _ _ => []
  | .prsReproj _ _ _ _ => []
  | .trcMark _ _ _ _ => []
  | .trcFlush _ _ _ _ => []
  | .trcSample _ _ _ _ => []
  | .stwKeyspill _ _ _ _ => []
  | .stwDump _ _ _ _ => []
  | .softError => []
  | .cxlLinkRecovery => []
  | .tlb2Lookup => []

/-- The fields of R264 of an instruction with an encoding. -/
def Instr.ctl : Instr → Option Ctl
  | .deliver => none
  | .dropLine => none
  | .cacheDrop => none
  | .heartbeat => none
  | .releaseComplete => none
  | .taggedAtHome => none
  | .taggedResend => none
  | .serviceRequest => none
  | .atomicReply => none
  | .engineRead => none
  | .engineWrite => none
  | .engineCount => none
  | .cascadeStep => none
  | .clauseIssue => none
  | .resultWrite => none
  | .watchdog => none
  | .ctxBuild => none
  | .ctxCommit => none
  | .ctxSuspend => none
  | .ctxResume => none
  | .ctxReset => none
  | .ctxKill => none
  | .ctxFree => none
  | .ctxDump => none
  | .drainComplete => none
  | .quantumEnd => none
  | .tenantChoice => none
  | .switchOut => none
  | .contextRestore => none
  | .wellheadWake => none
  | .launchRecord => none
  | .drawRecord => none
  | .copyRecord => none
  | .waitRecord => none
  | .signalRecord => none
  | .markRecord => none
  | .waitTimeout => none
  | .queueAgeing => none
  | .wellheadAppend => none
  | .queueBind => none
  | .queueUnbind => none
  | .queueSuspend => none
  | .queueResume => none
  | .queueClear => none
  | .placementPass => none
  | .completionEvent => none
  | .vgrowDeadlockCheck => none
  | .vgrowRestore => none
  | .gangTimeout => none
  | .promiseTimeout => none
  | .sleepWake => none
  | .pageWalk => none
  | .walkResend => none
  | .dumpPageCopy => none
  | .pktRd => none
  | .pktWr => none
  | .pktWrm => none
  | .pktNmc => none
  | .readReply => none
  | .writeReply => none
  | .nmcReply => none
  | .stackTrainingStart => none
  | .stackTrainingPass => none
  | .stackTrainingFail => none
  | .stackInterfaceFail => none
  | .nrcfgWrite => none
  | .cecountWrite => none
  | .uccountWrite => none
  | .patWrite => none
  | .tierWorking => none
  | .autoAgeing => none
  | .tierCopyDone => none
  | .tmvJoin => none
  | .sectionRequest => none
  | .sectionLeave => none
  | .chainWalkHop => none
  | .sectStarved => none
  | .waiterResend => none
  | .streamBind => none
  | .streamUnbind => none
  | .primitiveAssembly => none
  | .primitiveSetup => none
  | .sweep => none
  | .blend => none
  | .slotDeadline => none
  | .clockStep => none
  | .thermalTrip => none
  | .flitData => none
  | .flitAck => none
  | .flitFlowControl => none
  | .flitTick => none
  | .tickFlitSend => none
  | .linkReplayTimeout => none
  | .linkEnable => none
  | .linkDisable => none
  | .linkTrainingPass => none
  | .linkTrainingFail => none
  | .laneFail => none
  | .hdmWrite => none
  | .powerGood => none
  | .powerLoss => none
  | .go => none
  | .verify => none
  | .earlyEntry => none
  | .fullEntry => none
  | .claim => none
  | .handover => none
  | .accept => none
  | .crownRelease => none
  | .handoverLapse => none
  | .crownVacancy => none
  | .devnoWrite => none
  | .attest => none
  | .cert => none
  | .csrrd => none
  | .csrwr => none
  | .hubrd => none
  | .hubwr => none
  | .traceEnWrite => none
  | .frameTimeout => none
  | .frameWrite => none
  | .sampleTake => none
  | .replayDivergence => none
  | .stopArm => none
  | .deviceStop => none
  | .stopResume => none
  | .registerWrite => none
  | .iadd c _ _ _ _ _ => some c
  | .isub c _ _ _ _ _ => some c
  | .imul c _ _ _ _ _ => some c
  | .imulh c _ _ _ _ _ => some c
  | .imad c _ _ _ _ _ _ => some c
  | .imadw c _ _ _ _ _ _ => some c
  | .iaddw c _ _ _ _ _ _ => some c
  | .isubw c _ _ _ _ _ _ => some c
  | .iabs c _ _ _ _ => some c
  | .ineg c _ _ _ _ => some c
  | .imin c _ _ _ _ _ => some c
  | .imax c _ _ _ _ _ => some c
  | .iclamp c _ _ _ _ _ _ => some c
  | .iand c _ _ _ _ => some c
  | .ior c _ _ _ _ => some c
  | .ixor c _ _ _ _ => some c
  | .andn c _ _ _ _ => some c
  | .tri c _ _ _ _ _ => some c
  | .shl c _ _ _ _ _ => some c
  | .shr c _ _ _ _ _ => some c
  | .sar c _ _ _ _ _ => some c
  | .rotl c _ _ _ _ => some c
  | .funsh c _ _ _ _ _ _ => some c
  | .popc c _ _ _ => some c
  | .clz c _ _ _ => some c
  | .ffs c _ _ _ => some c
  | .brev c _ _ _ => some c
  | .bfx c _ _ _ _ _ => some c
  | .bfi c _ _ _ _ => some c
  | .icmp c _ _ _ _ _ => some c
  | .sel c _ _ _ _ _ => some c
  | .mov c _ _ _ => some c
  | .movi c _ _ => some c
  | .iaddi c _ _ _ _ _ => some c
  | .imuli c _ _ _ _ _ => some c
  | .andi c _ _ _ => some c
  | .ori c _ _ _ => some c
  | .xori c _ _ _ => some c
  | .icmpi c _ _ _ _ _ => some c
  | .lea c _ _ _ _ => some c
  | .leaw c _ _ _ _ => some c
  | .cvti c _ _ _ _ _ => some c
  | .idp4 c _ _ _ _ _ _ _ => some c
  | .idp8 c _ _ _ _ _ _ _ => some c
  | .fadd c _ _ _ _ _ => some c
  | .fsub c _ _ _ _ _ => some c
  | .fmul c _ _ _ _ _ => some c
  | .ffma c _ _ _ _ _ _ => some c
  | .fmin c _ _ _ _ => some c
  | .fmax c _ _ _ _ => some c
  | .fcmp c _ _ _ _ _ => some c
  | .fclass c _ _ => some c
  | .frnd c _ _ _ _ => some c
  | .fcvt c _ _ _ _ _ _ _ => some c
  | .ftoi c _ _ _ _ _ => some c
  | .itof c _ _ _ _ _ => some c
  | .fscale c _ _ _ _ _ => some c
  | .frcp c _ _ _ => some c
  | .frsq c _ _ _ => some c
  | .fsqrt c _ _ _ => some c
  | .fex2 c _ _ _ => some c
  | .flg2 c _ _ _ => some c
  | .fsin c _ _ _ => some c
  | .fcos c _ _ _ => some c
  | .ftanh c _ _ _ => some c
  | .hadd2 c _ _ _ _ _ => some c
  | .hmul2 c _ _ _ _ _ => some c
  | .hfma2 c _ _ _ _ _ _ => some c
  | .hmin2 c _ _ _ _ => some c
  | .hmax2 c _ _ _ _ => some c
  | .pack c _ _ _ _ _ => some c
  | .unpack c _ _ _ _ _ => some c
  | .fdot2 c _ _ _ _ _ _ => some c
  | .fstat c _ => some c
  | .plop c _ _ _ _ _ => some c
  | .pmov c _ _ => some c
  | .vote c _ _ _ => some c
  | .elect c _ => some c
  | .shfl c _ _ _ _ => some c
  | .perm c _ _ _ => some c
  | .bcast c _ _ _ => some c
  | .lred c _ _ _ _ _ => some c
  | .lscan c _ _ _ _ _ _ => some c
  | .matchL c _ _ _ _ => some c
  | .ld c _ _ _ _ _ _ _ => some c
  | .st c _ _ _ _ _ _ => some c
  | .ldMd c _ _ _ _ _ => some c
  | .stMd c _ _ _ _ _ => some c
  | .lds c _ _ _ _ _ _ _ => some c
  | .sts c _ _ _ _ _ _ => some c
  | .ldt c _ _ _ _ _ _ => some c
  | .ldtk c _ _ _ _ _ _ => some c
  | .stt c _ _ _ _ _ _ => some c
  | .sttf c _ _ _ _ _ _ => some c
  | .tagRd c _ _ _ _ _ => some c
  | .tagClr c _ _ _ _ => some c
  | .phase c _ _ => some c
  | .scfence c => some c
  | .atom c _ _ _ _ _ _ _ _ _ => some c
  | .acas c _ _ _ _ _ _ _ _ _ => some c
  | .lr c _ _ _ _ _ _ _ => some c
  | .sc c _ _ _ _ _ _ _ _ => some c
  | .hwait c _ _ _ => some c
  | .htest c _ _ => some c
  | .hcancel c _ => some c
  | .hmov c _ _ _ => some c
  | .hprom c _ => some c
  | .bcbInit c _ _ _ => some c
  | .bcbExp c _ _ _ => some c
  | .bcbArr c _ _ _ => some c
  | .bcbWait c _ _ _ => some c
  | .bcbTest c _ _ _ _ => some c
  | .tidLd c _ _ => some c
  | .tidInv c _ => some c
  | .gang c _ => some c
  | .cbLd c _ _ => some c
  | .mma c _ _ _ _ => some c
  | .mmaSp c _ _ _ _ => some c
  | .mmaQ c _ _ _ _ => some c
  | .accZero c _ _ => some c
  | .accLd c _ _ _ => some c
  | .accSt c _ _ _ _ => some c
  | .accGet c _ _ _ _ => some c
  | .accPut c _ _ _ _ => some c
  | .tmv c _ _ _ => some c
  | .fireRd c _ => some c
  | .smp c _ _ _ _ => some c
  | .smpc c _ _ _ _ => some c
  | .tld c _ _ _ _ => some c
  | .resQ c _ _ => some c
  | .vbary c _ _ _ => some c
  | .vsplit c _ => some c
  | .vkill c _ => some c
  | .outc c _ => some c
  | .outz c _ => some c
  | .outv c _ _ => some c
  | .recPush c _ => some c
  | .recPop c _ _ => some c
  | .recDone c => some c
  | .bra c _ => some c
  | .br c _ _ => some c
  | .brx c _ => some c
  | .call c _ _ => some c
  | .callx c _ _ => some c
  | .ret c _ => some c
  | .reconv c => some c
  | .exit c => some c
  | .yield c => some c
  | .sleep c _ => some c
  | .sleepu c _ => some c
  | .trap c _ => some c
  | .bkpt c => some c
  | .tret c => some c
  | .cjoin c _ _ => some c
  | .cleave c _ _ => some c
  | .cnew c _ => some c
  | .bar c _ _ => some c
  | .barp c _ _ _ _ _ _ _ => some c
  | .sluIn c _ _ _ _ => some c
  | .sluOut c _ => some c
  | .sluTry c _ _ _ _ => some c
  | .vgrow c _ => some c
  | .vshrink c _ => some c
  | .launch c _ _ _ => some c
  | .csrr c _ _ => some c
  | .csrw c _ _ => some c
  | .segLd c _ _ => some c
  | .tlbInv c _ => some c
  | .xcLoad c _ _ _ => some c
  | .xcStore c _ _ _ => some c
  | .xcMcast c _ _ _ => some c
  | .xcGather c _ _ _ => some c
  | .xcScatter c _ _ _ => some c
  | .xcFill c _ _ _ => some c
  | .xcPeer c _ _ _ => some c
  | .xcCsum c _ _ _ => some c
  | .basAxpby c _ _ _ => some c
  | .basScal c _ _ _ => some c
  | .basSgd c _ _ _ => some c
  | .basMom c _ _ _ => some c
  | .basSum c _ _ _ => some c
  | .basFill c _ _ _ => some c
  | .basCopy c _ _ _ => some c
  | .basCvt c _ _ _ => some c
  | .basStat c _ _ _ => some c
  | .tierCfg c _ _ _ => some c
  | .tierRank c _ _ _ => some c
  | .tierMig c _ _ _ => some c
  | .tierAge c _ _ _ => some c
  | .tierPin c _ _ _ => some c
  | .prsDraw c _ _ _ => some c
  | .prsFrame c _ _ _ => some c
  | .prsPresent c _ _ _ => some c
  | .prsReproj c _ _ _ => some c
  | .trcMark c _ _ _ => some c
  | .trcFlush c _ _ _ => some c
  | .trcSample c _ _ _ => some c
  | .stwKeyspill c _ _ _ => some c
  | .stwDump c _ _ _ => some c
  | .softError => none
  | .cxlLinkRecovery => none
  | .tlb2Lookup => none

/-- The long-latency instructions of R271. -/
def Instr.long : Instr → Bool
  | .frcp .. => true
  | .frsq .. => true
  | .fsqrt .. => true
  | .fex2 .. => true
  | .flg2 .. => true
  | .fsin .. => true
  | .fcos .. => true
  | .ftanh .. => true
  | .shfl .. => true
  | .perm .. => true
  | .bcast .. => true
  | .lred .. => true
  | .lscan .. => true
  | .matchL .. => true
  | .ld .. => true
  | .ldMd .. => true
  | .lds .. => true
  | .ldt .. => true
  | .ldtk .. => true
  | .atom .. => true
  | .acas .. => true
  | .lr .. => true
  | .sc .. => true
  | .tagRd .. => true
  | .smp .. => true
  | .smpc .. => true
  | .tld .. => true
  | .resQ .. => true
  | .vbary .. => true
  | .recPop .. => true
  | .accGet .. => true
  | .csrr .. => true
  | _ => false

/-- Which reductions go with which types (R274): the bitwise ones with .b32 and only with it. -/
def ROp.okWith (op : ROp) (ty : RTy) (ftz : Bool) : Bool :=
  (match op, ty with
    | .and, .b32 | .or, .b32 | .xor, .b32 => true
    | .add, .b32 | .min, .b32 | .max, .b32 => false
    | .add, _ | .min, _ | .max, _ => true
    | _, _ => false) && (!ftz || ty == .f32)

/-- An odd part below a bound: the magnitudes a float format of few mantissa bits holds (R24). -/
def oddPartBelow (bound : Nat) : Nat → Nat → Bool
  | 0, m => m < bound
  | fuel + 1, m => if m % 2 == 0 then oddPartBelow bound fuel (m / 2) else m < bound

/-- Whether a narrow FCVT source format holds an inline constant exactly (R270, R23, R27). -/
def Fmt.holdsConst (f : Fmt) (k : BitVec 7) : Bool :=
  let m := k.toInt.natAbs
  match f with
  | .e4m3 => oddPartBelow 16 7 m
  | .e5m2 => oddPartBelow 8 7 m
  | .lns6 => m == 0 || m == 1 || m == 2 || m == 4 || m == 8
  | _ => true

/-- The integer types of 32 and 64 bits. -/
def Fmt.isWordInt : Fmt → Bool
  | .i32 | .n32 | .i64 | .n64 => true
  | _ => false

/-- The integer types of 32 bits. -/
def Fmt.is32Int : Fmt → Bool
  | .i32 | .n32 => true
  | _ => false

/-- The conditions of ICMP and ICMPI (R369). -/
def Cond.isOrder : Cond → Bool
  | .ord | .unord => false
  | _ => true

/-- The TYPE, COND and modifier combinations the entries accept. -/
def Instr.combOk : Instr → Bool
  | .iadd _ ty .. | .isub _ ty .. | .imul _ ty .. | .iaddi _ ty .. | .imuli _ ty .. => ty.isWordInt
  | .imad _ ty .. => ty.is32Int
  | .imulh _ ty sat .. | .imadw _ ty sat .. => ty.is32Int && !sat
  | .iaddw _ ty sat .. | .isubw _ ty sat .. => ty == .n32 && !sat
  | .iabs _ ty .. | .ineg _ ty .. => ty == .i32 || ty == .i64
  | .imin _ ty sat .. | .imax _ ty sat .. | .iclamp _ ty sat .. => ty.isWordInt && !sat
  | .icmp _ ty cond .. | .icmpi _ ty cond .. => ty.isWordInt && cond.isOrder
  | .cvti _ dty sty .. => dty.isInt && sty.isInt
  | .fcmp _ ty .. => ty == .f32
  | .fcvt _ df sf _ _ _ _ a => df.isFloat && sf.isFloat &&
      (match a with | .imm k => sf.holdsConst k | _ => true)
  | .ftoi _ ty .. => ty.isInt
  | .itof _ ty _ ftz .. => ty.isInt && !ftz
  | .pack _ ty pos .. => !ty.is64 && pos.toNat < 32 / ty.width
  | .unpack _ ty pos lut .. => !ty.is64 && pos.toNat < 32 / ty.width && (lut.isSome == (ty == .lut4))
  | .pmov _ d a => (match d, a with | .s _, .s _ => false | _, _ => true)
  | .lred _ op ty ftz .. | .lscan _ op ty ftz .. | .barp _ op ty ftz .. => op.okWith ty ftz
  | .ld _ _ wd sx .. => wd != .b128 && (!sx || wd == .b8 || wd == .b16)
  | .st _ _ wd .. => wd != .b128
  | .ldMd _ sg .. | .stMd _ sg .. => sg == .dev || sg == .heap || sg == .aux
  | .lds _ _ wd sx .. => !sx || wd == .b8 || wd == .b16
  | .atom _ _ op _ _ w64 .. => op != .fadd || !w64
  | .mmaQ _ sat .. => !sat
  | .sluTry _ d _ _ e => d != e
  | _ => true

/-- LA and SLOT are 0 on an instruction that is not long-latency (R271). -/
def Instr.ctlOk (i : Instr) : Bool :=
  match i.ctl with
  | none => true
  | some c => i.long || (c.la == 0 && c.slot == 0)

/-- The well-formed instructions: those whose word fails no check of R275 that depends on the word alone. -/
def Instr.wf (i : Instr) : Bool :=
  i.ctlOk && i.fields.all (fun f => f.1.ok f.2) && i.combOk

end Sys2Proof
end

