-- ==== Sys2Proof/Decode.lean ====
section
/-! DEFINITION. From instruction words to instructions and back (R264-R275). `decode` is total on 64-bit words and
refuses by name; `encode` is written from the same tables. A word is accepted only when its fields decode, the
instruction is well formed and every unnamed bit is 0, which holds exactly when encoding the instruction gives the
word back. -/
namespace Sys2Proof

/-- The fields of a format A word (R264, R265); the other formats regroup bits [43:0]. -/
structure Raw where
  opc  : BitVec 8
  ctl  : Ctl
  mod  : BitVec 8
  d    : BitVec 9
  a    : BitVec 9
  b    : BitVec 9
  c    : BitVec 9
  deriving DecidableEq, Repr

/-- The word of the fields (R264, R265). -/
def Raw.word (r : Raw) : BitVec 64 :=
  r.opc ++ r.ctl.la ++ BitVec.ofBool r.ctl.last ++ r.ctl.pg ++ BitVec.ofBool r.ctl.pn ++ r.ctl.slot ++
    r.mod ++ r.d ++ r.a ++ r.b ++ r.c

/-- The fields of a word. -/
def Raw.ofWord (w : BitVec 64) : Raw where
  opc := w.extractLsb' 56 8
  ctl := { la := w.extractLsb' 52 4, last := w.getLsbD 51, pg := w.extractLsb' 48 3, pn := w.getLsbD 47,
           slot := w.extractLsb' 44 3 }
  mod := w.extractLsb' 36 8
  d := w.extractLsb' 27 9
  a := w.extractLsb' 18 9
  b := w.extractLsb' 9 9
  c := w.extractLsb' 0 9

/-- Format K: D is bits [40:32] (R265). -/
def Raw.kd (r : Raw) : BitVec 9 := r.mod.extractLsb' 0 5 ++ r.d.extractLsb' 5 4

/-- Format K: IMM32 is bits [31:0] (R265). -/
def Raw.kimm (r : Raw) : BitVec 32 := r.d.extractLsb' 0 5 ++ r.a ++ r.b ++ r.c

/-- A format A word's fields. -/
def Ctl.raw (c : Ctl) (opc mod : BitVec 8) (d a b x : BitVec 9) : Raw := ⟨opc, c, mod, d, a, b, x⟩

/-- A format K word's fields, with MOD3 = 0. -/
def Ctl.rawK (c : Ctl) (opc : BitVec 8) (d : BitVec 9) (imm : BitVec 32) : Raw where
  opc := opc
  ctl := c
  mod := 0#3 ++ d.extractLsb' 4 5
  d := d.extractLsb' 0 4 ++ imm.extractLsb' 27 5
  a := imm.extractLsb' 18 9
  b := imm.extractLsb' 9 9
  c := imm.extractLsb' 0 9

/-! The code sets of R274 and R21. -/

/-- Format codes (R21). -/
def Fmt.code : Fmt → BitVec 5
  | .f32 => 0x00 | .f16 => 0x01 | .bf16 => 0x02 | .e4m3 => 0x03 | .e5m2 => 0x04 | .lns6 => 0x05 | .lut4 => 0x06
  | .i4 => 0x07 | .n4 => 0x08 | .i8 => 0x09 | .n8 => 0x0A | .i16 => 0x0B | .n16 => 0x0C | .i32 => 0x0D
  | .n32 => 0x0E | .i64 => 0x0F | .n64 => 0x10

/-- The format of a code; 0x11 to 0x1F are reserved (R21). -/
def Fmt.ofCode (x : BitVec 5) : Option Fmt :=
  match x with
  | 0x00#5 => some .f32 | 0x01#5 => some .f16 | 0x02#5 => some .bf16 | 0x03#5 => some .e4m3 | 0x04#5 => some .e5m2
  | 0x05#5 => some .lns6 | 0x06#5 => some .lut4 | 0x07#5 => some .i4 | 0x08#5 => some .n4 | 0x09#5 => some .i8
  | 0x0A#5 => some .n8 | 0x0B#5 => some .i16 | 0x0C#5 => some .n16 | 0x0D#5 => some .i32 | 0x0E#5 => some .n32
  | 0x0F#5 => some .i64 | 0x10#5 => some .n64 | _ => none

def Rnd.code : Rnd → BitVec 2
  | .rne => 0 | .rtz => 1 | .rdn => 2 | .rup => 3

def Rnd.ofCode (x : BitVec 2) : Rnd :=
  match x with
  | 0#2 => .rne | 1#2 => .rtz | 2#2 => .rdn | _ => .rup

def Scope.code : Scope → BitVec 3
  | .dev => 0 | .core => 1 | .crew => 2 | .clu => 3 | .sys => 4

def Scope.ofCode (x : BitVec 3) : Option Scope :=
  match x with
  | 0#3 => some .dev | 1#3 => some .core | 2#3 => some .crew | 3#3 => some .clu | 4#3 => some .sys | _ => none

def Order.code : Order → BitVec 3
  | .rlx => 0 | .acq => 1 | .rel => 2 | .ar => 3 | .sc => 4

def Order.ofCode (x : BitVec 3) : Option Order :=
  match x with
  | 0#3 => some .rlx | 1#3 => some .acq | 2#3 => some .rel | 3#3 => some .ar | 4#3 => some .sc | _ => none

def SegIx.code : SegIx → BitVec 3
  | .loc => 0 | .clu => 1 | .glb => 2 | .dev => 3 | .hst => 4 | .peer => 5 | .heap => 6 | .aux => 7

def SegIx.ofCode (x : BitVec 3) : SegIx :=
  match x with
  | 0#3 => .loc | 1#3 => .clu | 2#3 => .glb | 3#3 => .dev | 4#3 => .hst | 5#3 => .peer | 6#3 => .heap | _ => .aux

def Width.code : Width → BitVec 3
  | .b8 => 0 | .b16 => 1 | .b32 => 2 | .b64 => 3 | .b128 => 4

def Width.ofCode (x : BitVec 3) : Option Width :=
  match x with
  | 0#3 => some .b8 | 1#3 => some .b16 | 2#3 => some .b32 | 3#3 => some .b64 | 4#3 => some .b128 | _ => none

def Cond.code : Cond → BitVec 3
  | .eq => 0 | .ne => 1 | .lt => 2 | .le => 3 | .gt => 4 | .ge => 5 | .ord => 6 | .unord => 7

def Cond.ofCode (x : BitVec 3) : Cond :=
  match x with
  | 0#3 => .eq | 1#3 => .ne | 2#3 => .lt | 3#3 => .le | 4#3 => .gt | 5#3 => .ge | 6#3 => .ord | _ => .unord

def ROp.code : ROp → BitVec 3
  | .add => 0 | .min => 1 | .max => 2 | .and => 3 | .or => 4 | .xor => 5

def ROp.ofCode (x : BitVec 3) : Option ROp :=
  match x with
  | 0#3 => some .add | 1#3 => some .min | 2#3 => some .max | 3#3 => some .and | 4#3 => some .or | 5#3 => some .xor
  | _ => none

def RTy.code : RTy → BitVec 2
  | .i32 => 0 | .n32 => 1 | .f32 => 2 | .b32 => 3

def RTy.ofCode (x : BitVec 2) : RTy :=
  match x with
  | 0#2 => .i32 | 1#2 => .n32 | 2#2 => .f32 | _ => .b32

def AOp.code : AOp → BitVec 4
  | .add => 0 | .smin => 1 | .smax => 2 | .umin => 3 | .umax => 4 | .and => 5 | .or => 6 | .xor => 7 | .exch => 8
  | .fadd => 9

def AOp.ofCode (x : BitVec 4) : Option AOp :=
  match x with
  | 0#4 => some .add | 1#4 => some .smin | 2#4 => some .smax | 3#4 => some .umin | 4#4 => some .umax
  | 5#4 => some .and | 6#4 => some .or | 7#4 => some .xor | 8#4 => some .exch | 9#4 => some .fadd | _ => none

def VoteForm.code : VoteForm → BitVec 3
  | .every => 0 | .some => 1 | .alike => 2 | .bits => 3 | .count => 4

def VoteForm.ofCode (x : BitVec 3) : Option VoteForm :=
  match x with
  | 0#3 => .some .every | 1#3 => .some .some | 2#3 => .some .alike | 3#3 => .some .bits | 4#3 => .some .count
  | _ => .none

def ShflForm.code : ShflForm → BitVec 3
  | .pick => 0 | .back => 1 | .fwd => 2 | .flip => 3 | .rot => 4

def ShflForm.ofCode (x : BitVec 3) : Option ShflForm :=
  match x with
  | 0#3 => some .pick | 1#3 => some .back | 2#3 => some .fwd | 3#3 => some .flip | 4#3 => some .rot | _ => none

def PhaseKind.code : PhaseKind → BitVec 2
  | .rel => 1 | .acq => 2 | .ar => 3

def PhaseKind.ofCode (x : BitVec 2) : Option PhaseKind :=
  match x with
  | 1#2 => some .rel | 2#2 => some .acq | 3#2 => some .ar | _ => none

def BarOrder.code : BarOrder → BitVec 2
  | .ar => 0 | .rel => 1 | .acq => 2

def BarOrder.ofCode (x : BitVec 2) : Option BarOrder :=
  match x with
  | 0#2 => some .ar | 1#2 => some .rel | 2#2 => some .acq | _ => none

def Shape.code : Shape → BitVec 2
  | .tile => 0 | .wide => 1 | .gang => 2

def Shape.ofCode (x : BitVec 2) : Option Shape :=
  match x with
  | 0#2 => some .tile | 1#2 => some .wide | 2#2 => some .gang | _ => none

/-- Special source codes, from 0x16C (R268). -/
def Special.code : Special → BitVec 9
  | .lane => 0x16C | .sid => 0x16D | .core => 0x16E | .clu => 0x16F | .crew => 0x170 | .tickLo => 0x171
  | .tickHi => 0x172 | .vlo => 0x173 | .vhi => 0x174 | .vmask => 0x175 | .px => 0x176 | .py => 0x177
  | .okey => 0x178 | .oseq => 0x179 | .zero => 0x17A

/-- The special source of a code; 0x17B to 0x17F are reserved (R268). -/
def Special.ofCode (x : BitVec 9) : Option Special :=
  match x with
  | 0x16C#9 => some .lane | 0x16D#9 => some .sid | 0x16E#9 => some .core | 0x16F#9 => some .clu
  | 0x170#9 => some .crew | 0x171#9 => some .tickLo | 0x172#9 => some .tickHi | 0x173#9 => some .vlo
  | 0x174#9 => some .vhi | 0x175#9 => some .vmask | 0x176#9 => some .px | 0x177#9 => some .py
  | 0x178#9 => some .okey | 0x179#9 => some .oseq | 0x17A#9 => some .zero | _ => none

/-- Operand field codes (R267). -/
def Operand.code : Operand → BitVec 9
  | .v n => 0#1 ++ n
  | .s n => 0b100#3 ++ n
  | .t n => 0b101000#6 ++ n
  | .p n => 0b101001#6 ++ n
  | .h n => 0b10101#5 ++ n
  | .a n => 0b101100#6 ++ n
  | .c n => 0b1011010#7 ++ n
  | .sp x => x.code
  | .imm k => 0b11#2 ++ (k + 64)

/-- The operand of a field code (R267); none for a reserved special. -/
def Operand.ofCode (x : BitVec 9) : Option Operand :=
  if x.extractLsb' 8 1 = 0#1 then some (.v (x.extractLsb' 0 8))
  else if x.extractLsb' 6 3 = 0b100#3 then some (.s (x.extractLsb' 0 6))
  else if x.extractLsb' 3 6 = 0b101000#6 then some (.t (x.extractLsb' 0 3))
  else if x.extractLsb' 3 6 = 0b101001#6 then some (.p (x.extractLsb' 0 3))
  else if x.extractLsb' 4 5 = 0b10101#5 then some (.h (x.extractLsb' 0 4))
  else if x.extractLsb' 3 6 = 0b101100#6 then some (.a (x.extractLsb' 0 3))
  else if x.extractLsb' 2 7 = 0b1011010#7 then some (.c (x.extractLsb' 0 2))
  else if x.extractLsb' 7 2 = 0b11#2 then some (.imm (x.extractLsb' 0 7 - 64))
  else (Special.ofCode x).map .sp

/-! The MOD and MODX layouts of R274. -/

def modInt (ty : Fmt) (sat : Bool) : BitVec 8 := ty.code ++ BitVec.ofBool sat ++ 0#2
def deInt (m : BitVec 8) : Option (Fmt × Bool) := (Fmt.ofCode (m.extractLsb' 3 5)).map (·, m.getLsbD 2)
def modTop (x : Bool) : BitVec 8 := BitVec.ofBool x ++ 0#7
def modPair (x y : Bool) : BitVec 8 := BitVec.ofBool x ++ BitVec.ofBool y ++ 0#6
def modShift (w64 clamp dir : Bool) : BitVec 8 := BitVec.ofBool w64 ++ BitVec.ofBool clamp ++ BitVec.ofBool dir ++ 0#5
def modCmp (ty : Fmt) (c : Cond) : BitVec 8 := ty.code ++ c.code
def deCmp (m : BitVec 8) : Option (Fmt × Cond) :=
  (Fmt.ofCode (m.extractLsb' 3 5)).map (·, Cond.ofCode (m.extractLsb' 0 3))
def modDot (sa sb sat : Bool) : BitVec 8 := BitVec.ofBool sa ++ BitVec.ofBool sb ++ BitVec.ofBool sat ++ 0#5
def modFlt (rm : Rnd) (ftz : Bool) : BitVec 8 := 0#5 ++ rm.code ++ BitVec.ofBool ftz
def modHalf (bf : Bool) (rm : Rnd) : BitVec 8 := BitVec.ofBool bf ++ 0#4 ++ rm.code ++ 0#1
def modCvt (df sf : Fmt) (rm : Rnd) : BitVec 8 := df.code.extractLsb' 0 3 ++ sf.code.extractLsb' 0 3 ++ rm.code
def deCvt (m : BitVec 8) : Option (Fmt × Fmt × Rnd) := do
  let df ← Fmt.ofCode (0#2 ++ m.extractLsb' 5 3)
  let sf ← Fmt.ofCode (0#2 ++ m.extractLsb' 2 3)
  pure (df, sf, Rnd.ofCode (m.extractLsb' 0 2))
def modXcvt (ty : Fmt) (rm : Rnd) (ftz : Bool) : BitVec 8 := ty.code ++ rm.code ++ BitVec.ofBool ftz
def deXcvt (m : BitVec 8) : Option (Fmt × Rnd × Bool) :=
  (Fmt.ofCode (m.extractLsb' 3 5)).map (·, Rnd.ofCode (m.extractLsb' 1 2), m.getLsbD 0)
def modRed (op : ROp) (ty : RTy) (ftz excl : Bool) : BitVec 8 :=
  op.code ++ ty.code ++ BitVec.ofBool ftz ++ BitVec.ofBool excl ++ 0#1
def modBarp (op : ROp) (ty : RTy) (ftz : Bool) (o : BarOrder) : BitVec 8 :=
  op.code ++ ty.code ++ BitVec.ofBool ftz ++ o.code
def deRed (m : BitVec 8) : Option (ROp × RTy × Bool) :=
  (ROp.ofCode (m.extractLsb' 5 3)).map (·, RTy.ofCode (m.extractLsb' 3 2), m.getLsbD 2)
def modMem (sg : SegIx) (wd : Width) (sx md : Bool) : BitVec 8 :=
  sg.code ++ wd.code ++ BitVec.ofBool sx ++ BitVec.ofBool md
def deMem (m : BitVec 8) : Option (SegIx × Width) :=
  (Width.ofCode (m.extractLsb' 2 3)).map (SegIx.ofCode (m.extractLsb' 5 3), ·)
def modxTop (a64 : Bool) : BitVec 9 := BitVec.ofBool a64 ++ 0#8
def modTag (sg : SegIx) (sc : Scope) (top : BitVec 2) : BitVec 8 := sg.code ++ sc.code ++ top
def deTag (m : BitVec 8) : Option (SegIx × Scope) :=
  (Scope.ofCode (m.extractLsb' 2 3)).map (SegIx.ofCode (m.extractLsb' 5 3), ·)
def modPhase (k : PhaseKind) (sc : Scope) : BitVec 8 := k.code ++ 0#1 ++ sc.code ++ 0#2
def dePhase (m : BitVec 8) : Option (PhaseKind × Scope) := do
  let k ← PhaseKind.ofCode (m.extractLsb' 6 2)
  let sc ← Scope.ofCode (m.extractLsb' 2 3)
  pure (k, sc)
def modAtom (sg : SegIx) (o : Order) (w64 : Bool) : BitVec 8 := sg.code ++ o.code ++ BitVec.ofBool w64 ++ 0#1
def modCas (sg : SegIx) (o : Order) (w64 facq : Bool) : BitVec 8 :=
  sg.code ++ o.code ++ BitVec.ofBool w64 ++ BitVec.ofBool facq
def deAtom (m : BitVec 8) : Option (SegIx × Order) :=
  (Order.ofCode (m.extractLsb' 2 3)).map (SegIx.ofCode (m.extractLsb' 5 3), ·)
def modxAtom (sc : Scope) (op : AOp) (a64 : Bool) : BitVec 9 := sc.code ++ op.code ++ BitVec.ofBool a64 ++ 0#1
def deAtomX (x : BitVec 9) : Option (Scope × AOp) := do
  let sc ← Scope.ofCode (x.extractLsb' 6 3)
  let op ← AOp.ofCode (x.extractLsb' 2 4)
  pure (sc, op)
def modxCas (sc : Scope) (a64 : Bool) : BitVec 9 := sc.code ++ BitVec.ofBool a64 ++ 0#5
def modMma (sat : Bool) (shape : Shape) : BitVec 8 := BitVec.ofBool sat ++ shape.code ++ 0#5
def modOutv (which : Option (BitVec 4)) : BitVec 8 :=
  match which with
  | none => 0x80
  | some attr => 0#1 ++ attr ++ 0#3
def deOutv (m : BitVec 8) : Option (BitVec 4) := if m.getLsbD 7 then none else some (m.extractLsb' 3 4)
def modBar (o : BarOrder) (launch : Bool) : BitVec 8 := o.code ++ BitVec.ofBool launch ++ 0#5

/-- The codebook and format fields of UNPACK (R410). -/
def lutB (lut : Option (BitVec 2 × Bool)) : BitVec 9 :=
  match lut with
  | none => 0
  | some (c, _) => (Operand.c c).code
def lutC (lut : Option (BitVec 2 × Bool)) : BitVec 9 :=
  match lut with
  | none => 0
  | some (_, e4) => 0x1C2 + BitVec.ofNat 9 e4.toNat
def deLut (ty : Fmt) (b c : BitVec 9) : Option (BitVec 2 × Bool) :=
  if ty = .lut4 then some (b.extractLsb' 0 2, c.getLsbD 0) else none

/-- A field that holds an operand in one form of its instruction and 0 in the other. -/
def optCode (x : Option Operand) : BitVec 9 :=
  match x with
  | none => 0
  | some o => o.code
def deOpt (present : Bool) (x : BitVec 9) : Option (Option Operand) :=
  if present then (Operand.ofCode x).map some else some none

/-- TLB.INV: MOD, A and B of the three forms (R274, R315). -/
def TlbInv.mod : TlbInv → BitVec 8
  | .page .. => 0x00
  | .ctx _ => 0x40
  | .all => 0x80
def TlbInv.aField : TlbInv → BitVec 9
  | .page a _ => a.code
  | _ => 0
def TlbInv.bField : TlbInv → BitVec 9
  | .page _ b => b.code
  | .ctx b => b.code
  | .all => 0
def TlbInv.ofCode (m : BitVec 8) (a b : BitVec 9) : Option TlbInv :=
  match m.extractLsb' 6 2 with
  | 0#2 => do
    let a ← Operand.ofCode a
    let b ← Operand.ofCode b
    pure (.page a b)
  | 1#2 => (Operand.ofCode b).map .ctx
  | 2#2 => some .all
  | _ => none

/-- A coprocessor word's fields: format C with OPC 0x90 (R265, R445, R475). `a` and `b` are pair indices. -/
def Ctl.rawCop (c : Ctl) (eng fn : Nat) (h : Option (BitVec 4)) (a b : BitVec 5) : Raw where
  opc := 0x90
  ctl := c
  mod := BitVec.ofNat 7 fn ++ BitVec.ofBool h.isSome
  d := match h with
    | none => 0
    | some n => (Operand.h n).code
  a := 0b100#3 ++ a ++ 0#1
  b := 0b100#3 ++ b ++ 0#1
  c := BitVec.ofNat 4 eng ++ 0#5

/-- The engine functions (R273). -/
def Raw.cop (r : Raw) : Option Instr :=
  let h : Option (BitVec 4) := if r.mod.getLsbD 0 then some (r.d.extractLsb' 0 4) else none
  let a : BitVec 5 := r.a.extractLsb' 1 5
  let b : BitVec 5 := r.b.extractLsb' 1 5
  match (r.c.extractLsb' 5 4).toNat, (r.mod.extractLsb' 1 7).toNat with
  | 0, 1 => some (.xcLoad r.ctl h a b)
  | 0, 2 => some (.xcStore r.ctl h a b)
  | 0, 3 => some (.xcMcast r.ctl h a b)
  | 0, 4 => some (.xcGather r.ctl h a b)
  | 0, 5 => some (.xcScatter r.ctl h a b)
  | 0, 6 => some (.xcFill r.ctl h a b)
  | 0, 7 => some (.xcPeer r.ctl h a b)
  | 0, 8 => some (.xcCsum r.ctl h a b)
  | 1, 1 => some (.basAxpby r.ctl h a b)
  | 1, 2 => some (.basScal r.ctl h a b)
  | 1, 3 => some (.basSgd r.ctl h a b)
  | 1, 4 => some (.basMom r.ctl h a b)
  | 1, 5 => some (.basSum r.ctl h a b)
  | 1, 6 => some (.basFill r.ctl h a b)
  | 1, 7 => some (.basCopy r.ctl h a b)
  | 1, 8 => some (.basCvt r.ctl h a b)
  | 1, 9 => some (.basStat r.ctl h a b)
  | 2, 1 => some (.tierCfg r.ctl h a b)
  | 2, 2 => some (.tierRank r.ctl h a b)
  | 2, 3 => some (.tierMig r.ctl h a b)
  | 2, 4 => some (.tierAge r.ctl h a b)
  | 2, 5 => some (.tierPin r.ctl h a b)
  | 3, 1 => some (.prsDraw r.ctl h a b)
  | 3, 2 => some (.prsFrame r.ctl h a b)
  | 3, 3 => some (.prsPresent r.ctl h a b)
  | 3, 4 => some (.prsReproj r.ctl h a b)
  | 4, 1 => some (.trcMark r.ctl h a b)
  | 4, 2 => some (.trcFlush r.ctl h a b)
  | 4, 3 => some (.trcSample r.ctl h a b)
  | 15, 1 => some (.stwKeyspill r.ctl h a b)
  | 15, 2 => some (.stwDump r.ctl h a b)
  | _, _ => none

/-- Row 0 of the opcode grid (R272). -/
def Raw.row0 (r : Raw) : Option Instr :=
  match r.opc.extractLsb' 0 4 with
  | 0x0#4 => do
    let (ty, sat) ← deInt r.mod
    let d ← Operand.ofCode r.d
    let a ← Operand.ofCode r.a
    let b ← Operand.ofCode r.b
    pure (.iadd r.ctl ty sat d a b)
  | 0x1#4 => do
    let (ty, sat) ← deInt r.mod
    let d ← Operand.ofCode r.d
    let a ← Operand.ofCode r.a
    let b ← Operand.ofCode r.b
    pure (.isub r.ctl ty sat d a b)
  | 0x2#4 => do
    let (ty, sat) ← deInt r.mod
    let d ← Operand.ofCode r.d
    let a ← Operand.ofCode r.a
    let b ← Operand.ofCode r.b
    pure (.imul r.ctl ty sat d a b)
  | 0x3#4 => do
    let (ty, sat) ← deInt r.mod
    let d ← Operand.ofCode r.d
    let a ← Operand.ofCode r.a
    let b ← Operand.ofCode r.b
    pure (.imulh r.ctl ty sat d a b)
  | 0x4#4 => do
    let (ty, sat) ← deInt r.mod
    let d ← Operand.ofCode r.d
    let a ← Operand.ofCode r.a
    let b ← Operand.ofCode r.b
    let e ← Operand.ofCode r.c
    pure (.imad r.ctl ty sat d a b e)
  | 0x5#4 => do
    let (ty, sat) ← deInt r.mod
    let d ← Operand.ofCode r.d
    let a ← Operand.ofCode r.a
    let b ← Operand.ofCode r.b
    let e ← Operand.ofCode r.c
    pure (.imadw r.ctl ty sat d a b e)
  | 0x6#4 => do
    let (ty, sat) ← deInt r.mod
    let d ← Operand.ofCode r.d
    let a ← Operand.ofCode r.a
    let b ← Operand.ofCode r.b
    let e ← Operand.ofCode r.c
    pure (.iaddw r.ctl ty sat d a b e)
  | 0x7#4 => do
    let (ty, sat) ← deInt r.mod
    let d ← Operand.ofCode r.d
    let a ← Operand.ofCode r.a
    let b ← Operand.ofCode r.b
    let e ← Operand.ofCode r.c
    pure (.isubw r.ctl ty sat d a b e)
  | 0x8#4 => do
    let (ty, sat) ← deInt r.mod
    let d ← Operand.ofCode r.d
    let a ← Operand.ofCode r.a
    pure (.iabs r.ctl ty sat d a)
  | 0x9#4 => do
    let (ty, sat) ← deInt r.mod
    let d ← Operand.ofCode r.d
    let a ← Operand.ofCode r.a
    pure (.ineg r.ctl ty sat d a)
  | 0xA#4 => do
    let (ty, sat) ← deInt r.mod
    let d ← Operand.ofCode r.d
    let a ← Operand.ofCode r.a
    let b ← Operand.ofCode r.b
    pure (.imin r.ctl ty sat d a b)
  | 0xB#4 => do
    let (ty, sat) ← deInt r.mod
    let d ← Operand.ofCode r.d
    let a ← Operand.ofCode r.a
    let b ← Operand.ofCode r.b
    pure (.imax r.ctl ty sat d a b)
  | 0xC#4 => do
    let (ty, sat) ← deInt r.mod
    let d ← Operand.ofCode r.d
    let a ← Operand.ofCode r.a
    let b ← Operand.ofCode r.b
    let e ← Operand.ofCode r.c
    pure (.iclamp r.ctl ty sat d a b e)
  | 0xD#4 => do
    let w64 := r.mod.getLsbD 7
    let d ← Operand.ofCode r.d
    let a ← Operand.ofCode r.a
    let b ← Operand.ofCode r.b
    pure (.iand r.ctl w64 d a b)
  | 0xE#4 => do
    let w64 := r.mod.getLsbD 7
    let d ← Operand.ofCode r.d
    let a ← Operand.ofCode r.a
    let b ← Operand.ofCode r.b
    pure (.ior r.ctl w64 d a b)
  | 0xF#4 => do
    let w64 := r.mod.getLsbD 7
    let d ← Operand.ofCode r.d
    let a ← Operand.ofCode r.a
    let b ← Operand.ofCode r.b
    pure (.ixor r.ctl w64 d a b)
  | _ => none

/-- Row 1 of the opcode grid (R272). -/
def Raw.row1 (r : Raw) : Option Instr :=
  match r.opc.extractLsb' 0 4 with
  | 0x0#4 => do
    let w64 := r.mod.getLsbD 7
    let d ← Operand.ofCode r.d
    let a ← Operand.ofCode r.a
    let b ← Operand.ofCode r.b
    pure (.andn r.ctl w64 d a b)
  | 0x1#4 => do
    let tt := r.mod
    let d ← Operand.ofCode r.d
    let a ← Operand.ofCode r.a
    let b ← Operand.ofCode r.b
    let e ← Operand.ofCode r.c
    pure (.tri r.ctl tt d a b e)
  | 0x2#4 => do
    let w64 := r.mod.getLsbD 7
    let clamp := r.mod.getLsbD 6
    let d ← Operand.ofCode r.d
    let a ← Operand.ofCode r.a
    let b ← Operand.ofCode r.b
    pure (.shl r.ctl w64 clamp d a b)
  | 0x3#4 => do
    let w64 := r.mod.getLsbD 7
    let clamp := r.mod.getLsbD 6
    let d ← Operand.ofCode r.d
    let a ← Operand.ofCode r.a
    let b ← Operand.ofCode r.b
    pure (.shr r.ctl w64 clamp d a b)
  | 0x4#4 => do
    let w64 := r.mod.getLsbD 7
    let clamp := r.mod.getLsbD 6
    let d ← Operand.ofCode r.d
    let a ← Operand.ofCode r.a
    let b ← Operand.ofCode r.b
    pure (.sar r.ctl w64 clamp d a b)
  | 0x5#4 => do
    let w64 := r.mod.getLsbD 7
    let d ← Operand.ofCode r.d
    let a ← Operand.ofCode r.a
    let b ← Operand.ofCode r.b
    pure (.rotl r.ctl w64 d a b)
  | 0x6#4 => do
    let clamp := r.mod.getLsbD 6
    let right := r.mod.getLsbD 5
    let d ← Operand.ofCode r.d
    let a ← Operand.ofCode r.a
    let b ← Operand.ofCode r.b
    let e ← Operand.ofCode r.c
    pure (.funsh r.ctl clamp right d a b e)
  | 0x7#4 => do
    let w64 := r.mod.getLsbD 7
    let d ← Operand.ofCode r.d
    let a ← Operand.ofCode r.a
    pure (.popc r.ctl w64 d a)
  | 0x8#4 => do
    let w64 := r.mod.getLsbD 7
    let d ← Operand.ofCode r.d
    let a ← Operand.ofCode r.a
    pure (.clz r.ctl w64 d a)
  | 0x9#4 => do
    let w64 := r.mod.getLsbD 7
    let d ← Operand.ofCode r.d
    let a ← Operand.ofCode r.a
    pure (.ffs r.ctl w64 d a)
  | 0xA#4 => do
    let w64 := r.mod.getLsbD 7
    let d ← Operand.ofCode r.d
    let a ← Operand.ofCode r.a
    pure (.brev r.ctl w64 d a)
  | 0xB#4 => do
    let sx := r.mod.getLsbD 7
    let d ← Operand.ofCode r.d
    let a ← Operand.ofCode r.a
    let b ← Operand.ofCode r.b
    let e ← Operand.ofCode r.c
    pure (.bfx r.ctl sx d a b e)
  | 0xC#4 => do
    let d ← Operand.ofCode r.d
    let a ← Operand.ofCode r.a
    let b ← Operand.ofCode r.b
    let e ← Operand.ofCode r.c
    pure (.bfi r.ctl d a b e)
  | 0xD#4 => do
    let (ty, cond) ← deCmp r.mod
    let d ← Operand.ofCode r.d
    let a ← Operand.ofCode r.a
    let b ← Operand.ofCode r.b
    pure (.icmp r.ctl ty cond d a b)
  | 0xE#4 => do
    let w64 := r.mod.getLsbD 7
    let d ← Operand.ofCode r.d
    let a ← Operand.ofCode r.a
    let b ← Operand.ofCode r.b
    let e ← Operand.ofCode r.c
    pure (.sel r.ctl w64 d a b e)
  | 0xF#4 => do
    let w64 := r.mod.getLsbD 7
    let d ← Operand.ofCode r.d
    let a ← Operand.ofCode r.a
    pure (.mov r.ctl w64 d a)
  | _ => none

/-- Row 2 of the opcode grid (R272). -/
def Raw.row2 (r : Raw) : Option Instr :=
  match r.opc.extractLsb' 0 4 with
  | 0x0#4 => do
    let d ← Operand.ofCode r.kd
    let imm := r.kimm
    pure (.movi r.ctl d imm)
  | 0x1#4 => do
    let (ty, sat) ← deInt r.mod
    let imm : BitVec 18 := r.b ++ r.c
    let d ← Operand.ofCode r.d
    let a ← Operand.ofCode r.a
    pure (.iaddi r.ctl ty sat d a imm)
  | 0x2#4 => do
    let (ty, sat) ← deInt r.mod
    let imm : BitVec 18 := r.b ++ r.c
    let d ← Operand.ofCode r.d
    let a ← Operand.ofCode r.a
    pure (.imuli r.ctl ty sat d a imm)
  | 0x3#4 => do
    let imm : BitVec 18 := r.b ++ r.c
    let d ← Operand.ofCode r.d
    let a ← Operand.ofCode r.a
    pure (.andi r.ctl d a imm)
  | 0x4#4 => do
    let imm : BitVec 18 := r.b ++ r.c
    let d ← Operand.ofCode r.d
    let a ← Operand.ofCode r.a
    pure (.ori r.ctl d a imm)
  | 0x5#4 => do
    let imm : BitVec 18 := r.b ++ r.c
    let d ← Operand.ofCode r.d
    let a ← Operand.ofCode r.a
    pure (.xori r.ctl d a imm)
  | 0x6#4 => do
    let (ty, cond) ← deCmp r.mod
    let imm : BitVec 18 := r.b ++ r.c
    let d ← Operand.ofCode r.d
    let a ← Operand.ofCode r.a
    pure (.icmpi r.ctl ty cond d a imm)
  | 0x7#4 => do
    let sh := r.mod.extractLsb' 5 3
    let d ← Operand.ofCode r.d
    let a ← Operand.ofCode r.a
    let b ← Operand.ofCode r.b
    pure (.lea r.ctl sh d a b)
  | 0x8#4 => do
    let sh := r.mod.extractLsb' 5 3
    let d ← Operand.ofCode r.d
    let a ← Operand.ofCode r.a
    let b ← Operand.ofCode r.b
    pure (.leaw r.ctl sh d a b)
  | 0x9#4 => do
    let (dty, sat) ← deInt r.mod
    let sty ← Fmt.ofCode (r.c.extractLsb' 4 5)
    let d ← Operand.ofCode r.d
    let a ← Operand.ofCode r.a
    pure (.cvti r.ctl dty sty sat d a)
  | 0xA#4 => do
    let sa := r.mod.getLsbD 7
    let sb := r.mod.getLsbD 6
    let sat := r.mod.getLsbD 5
    let d ← Operand.ofCode r.d
    let a ← Operand.ofCode r.a
    let b ← Operand.ofCode r.b
    let e ← Operand.ofCode r.c
    pure (.idp4 r.ctl sa sb sat d a b e)
  | 0xB#4 => do
    let sa := r.mod.getLsbD 7
    let sb := r.mod.getLsbD 6
    let sat := r.mod.getLsbD 5
    let d ← Operand.ofCode r.d
    let a ← Operand.ofCode r.a
    let b ← Operand.ofCode r.b
    let e ← Operand.ofCode r.c
    pure (.idp8 r.ctl sa sb sat d a b e)
  | _ => none

/-- Row 3 of the opcode grid (R272). -/
def Raw.row3 (r : Raw) : Option Instr :=
  match r.opc.extractLsb' 0 4 with
  | 0x0#4 => do
    let rm := Rnd.ofCode (r.mod.extractLsb' 1 2)
    let ftz := r.mod.getLsbD 0
    let d ← Operand.ofCode r.d
    let a ← Operand.ofCode r.a
    let b ← Operand.ofCode r.b
    pure (.fadd r.ctl rm ftz d a b)
  | 0x1#4 => do
    let rm := Rnd.ofCode (r.mod.extractLsb' 1 2)
    let ftz := r.mod.getLsbD 0
    let d ← Operand.ofCode r.d
    let a ← Operand.ofCode r.a
    let b ← Operand.ofCode r.b
    pure (.fsub r.ctl rm ftz d a b)
  | 0x2#4 => do
    let rm := Rnd.ofCode (r.mod.extractLsb' 1 2)
    let ftz := r.mod.getLsbD 0
    let d ← Operand.ofCode r.d
    let a ← Operand.ofCode r.a
    let b ← Operand.ofCode r.b
    pure (.fmul r.ctl rm ftz d a b)
  | 0x3#4 => do
    let rm := Rnd.ofCode (r.mod.extractLsb' 1 2)
    let ftz := r.mod.getLsbD 0
    let d ← Operand.ofCode r.d
    let a ← Operand.ofCode r.a
    let b ← Operand.ofCode r.b
    let e ← Operand.ofCode r.c
    pure (.ffma r.ctl rm ftz d a b e)
  | 0x4#4 => do
    let ftz := r.mod.getLsbD 0
    let d ← Operand.ofCode r.d
    let a ← Operand.ofCode r.a
    let b ← Operand.ofCode r.b
    pure (.fmin r.ctl ftz d a b)
  | 0x5#4 => do
    let ftz := r.mod.getLsbD 0
    let d ← Operand.ofCode r.d
    let a ← Operand.ofCode r.a
    let b ← Operand.ofCode r.b
    pure (.fmax r.ctl ftz d a b)
  | 0x6#4 => do
    let (ty, cond) ← deCmp r.mod
    let d ← Operand.ofCode r.d
    let a ← Operand.ofCode r.a
    let b ← Operand.ofCode r.b
    pure (.fcmp r.ctl ty cond d a b)
  | 0x7#4 => do
    let d ← Operand.ofCode r.d
    let a ← Operand.ofCode r.a
    pure (.fclass r.ctl d a)
  | 0x8#4 => do
    let rm := Rnd.ofCode (r.mod.extractLsb' 1 2)
    let ftz := r.mod.getLsbD 0
    let d ← Operand.ofCode r.d
    let a ← Operand.ofCode r.a
    pure (.frnd r.ctl rm ftz d a)
  | 0x9#4 => do
    let (df, sf, rm) ← deCvt r.mod
    let sat := r.c.getLsbD 8
    let ftz := r.c.getLsbD 7
    let d ← Operand.ofCode r.d
    let a ← Operand.ofCode r.a
    pure (.fcvt r.ctl df sf rm sat ftz d a)
  | 0xA#4 => do
    let (ty, rm, ftz) ← deXcvt r.mod
    let d ← Operand.ofCode r.d
    let a ← Operand.ofCode r.a
    pure (.ftoi r.ctl ty rm ftz d a)
  | 0xB#4 => do
    let (ty, rm, ftz) ← deXcvt r.mod
    let d ← Operand.ofCode r.d
    let a ← Operand.ofCode r.a
    pure (.itof r.ctl ty rm ftz d a)
  | 0xC#4 => do
    let rm := Rnd.ofCode (r.mod.extractLsb' 1 2)
    let ftz := r.mod.getLsbD 0
    let d ← Operand.ofCode r.d
    let a ← Operand.ofCode r.a
    let b ← Operand.ofCode r.b
    pure (.fscale r.ctl rm ftz d a b)
  | 0xD#4 => do
    let ftz := r.mod.getLsbD 0
    let d ← Operand.ofCode r.d
    let a ← Operand.ofCode r.a
    pure (.frcp r.ctl ftz d a)
  | 0xE#4 => do
    let ftz := r.mod.getLsbD 0
    let d ← Operand.ofCode r.d
    let a ← Operand.ofCode r.a
    pure (.frsq r.ctl ftz d a)
  | 0xF#4 => do
    let ftz := r.mod.getLsbD 0
    let d ← Operand.ofCode r.d
    let a ← Operand.ofCode r.a
    pure (.fsqrt r.ctl ftz d a)
  | _ => none

/-- Row 4 of the opcode grid (R272). -/
def Raw.row4 (r : Raw) : Option Instr :=
  match r.opc.extractLsb' 0 4 with
  | 0x0#4 => do
    let ftz := r.mod.getLsbD 0
    let d ← Operand.ofCode r.d
    let a ← Operand.ofCode r.a
    pure (.fex2 r.ctl ftz d a)
  | 0x1#4 => do
    let ftz := r.mod.getLsbD 0
    let d ← Operand.ofCode r.d
    let a ← Operand.ofCode r.a
    pure (.flg2 r.ctl ftz d a)
  | 0x2#4 => do
    let ftz := r.mod.getLsbD 0
    let d ← Operand.ofCode r.d
    let a ← Operand.ofCode r.a
    pure (.fsin r.ctl ftz d a)
  | 0x3#4 => do
    let ftz := r.mod.getLsbD 0
    let d ← Operand.ofCode r.d
    let a ← Operand.ofCode r.a
    pure (.fcos r.ctl ftz d a)
  | 0x4#4 => do
    let ftz := r.mod.getLsbD 0
    let d ← Operand.ofCode r.d
    let a ← Operand.ofCode r.a
    pure (.ftanh r.ctl ftz d a)
  | 0x5#4 => do
    let bf := r.mod.getLsbD 7
    let rm := Rnd.ofCode (r.mod.extractLsb' 1 2)
    let d ← Operand.ofCode r.d
    let a ← Operand.ofCode r.a
    let b ← Operand.ofCode r.b
    pure (.hadd2 r.ctl bf rm d a b)
  | 0x6#4 => do
    let bf := r.mod.getLsbD 7
    let rm := Rnd.ofCode (r.mod.extractLsb' 1 2)
    let d ← Operand.ofCode r.d
    let a ← Operand.ofCode r.a
    let b ← Operand.ofCode r.b
    pure (.hmul2 r.ctl bf rm d a b)
  | 0x7#4 => do
    let bf := r.mod.getLsbD 7
    let rm := Rnd.ofCode (r.mod.extractLsb' 1 2)
    let d ← Operand.ofCode r.d
    let a ← Operand.ofCode r.a
    let b ← Operand.ofCode r.b
    let e ← Operand.ofCode r.c
    pure (.hfma2 r.ctl bf rm d a b e)
  | 0x8#4 => do
    let bf := r.mod.getLsbD 7
    let d ← Operand.ofCode r.d
    let a ← Operand.ofCode r.a
    let b ← Operand.ofCode r.b
    pure (.hmin2 r.ctl bf d a b)
  | 0x9#4 => do
    let bf := r.mod.getLsbD 7
    let d ← Operand.ofCode r.d
    let a ← Operand.ofCode r.a
    let b ← Operand.ofCode r.b
    pure (.hmax2 r.ctl bf d a b)
  | 0xA#4 => do
    let ty ← Fmt.ofCode (r.mod.extractLsb' 3 5)
    let pos := r.mod.extractLsb' 0 3
    let d ← Operand.ofCode r.d
    let a ← Operand.ofCode r.a
    let b ← Operand.ofCode r.b
    pure (.pack r.ctl ty pos d a b)
  | 0xB#4 => do
    let ty ← Fmt.ofCode (r.mod.extractLsb' 3 5)
    let pos := r.mod.extractLsb' 0 3
    let lut := deLut ty r.b r.c
    let d ← Operand.ofCode r.d
    let a ← Operand.ofCode r.a
    pure (.unpack r.ctl ty pos lut d a)
  | 0xC#4 => do
    let bf := r.mod.getLsbD 7
    let rm := Rnd.ofCode (r.mod.extractLsb' 1 2)
    let d ← Operand.ofCode r.d
    let a ← Operand.ofCode r.a
    let b ← Operand.ofCode r.b
    let e ← Operand.ofCode r.c
    pure (.fdot2 r.ctl bf rm d a b e)
  | 0xD#4 => do
    let d ← Operand.ofCode r.d
    pure (.fstat r.ctl d)
  | _ => none

/-- Row 6 of the opcode grid (R272). -/
def Raw.row6 (r : Raw) : Option Instr :=
  match r.opc.extractLsb' 0 4 with
  | 0x0#4 => do
    let tt := r.mod
    let d ← Operand.ofCode r.d
    let a ← Operand.ofCode r.a
    let b ← Operand.ofCode r.b
    let e ← Operand.ofCode r.c
    pure (.plop r.ctl tt d a b e)
  | 0x1#4 => do
    let d ← Operand.ofCode r.d
    let a ← Operand.ofCode r.a
    pure (.pmov r.ctl d a)
  | 0x2#4 => do
    let form ← VoteForm.ofCode (r.mod.extractLsb' 5 3)
    let d ← Operand.ofCode r.d
    let a ← Operand.ofCode r.a
    pure (.vote r.ctl form d a)
  | 0x3#4 => do
    let d ← Operand.ofCode r.d
    pure (.elect r.ctl d)
  | 0x4#4 => do
    let form ← ShflForm.ofCode (r.mod.extractLsb' 5 3)
    let d ← Operand.ofCode r.d
    let a ← Operand.ofCode r.a
    let b ← Operand.ofCode r.b
    pure (.shfl r.ctl form d a b)
  | 0x5#4 => do
    let d ← Operand.ofCode r.d
    let a ← Operand.ofCode r.a
    let b ← Operand.ofCode r.b
    pure (.perm r.ctl d a b)
  | 0x6#4 => do
    let d ← Operand.ofCode r.d
    let a ← Operand.ofCode r.a
    let b ← Operand.ofCode r.b
    pure (.bcast r.ctl d a b)
  | 0x7#4 => do
    let (op, ty, ftz) ← deRed r.mod
    let d ← Operand.ofCode r.d
    let a ← Operand.ofCode r.a
    pure (.lred r.ctl op ty ftz d a)
  | 0x8#4 => do
    let (op, ty, ftz) ← deRed r.mod
    let excl := r.mod.getLsbD 1
    let d ← Operand.ofCode r.d
    let a ← Operand.ofCode r.a
    pure (.lscan r.ctl op ty ftz excl d a)
  | 0x9#4 => do
    let w64 := r.mod.getLsbD 7
    let rank := r.mod.getLsbD 6
    let d ← Operand.ofCode r.d
    let a ← Operand.ofCode r.a
    pure (.matchL r.ctl w64 rank d a)
  | _ => none

/-- Row 7 of the opcode grid (R272). -/
def Raw.row7 (r : Raw) : Option Instr :=
  match r.opc.extractLsb' 0 4 with
  | 0x0#4 => if r.mod.getLsbD 0 then do
      let sg := SegIx.ofCode (r.mod.extractLsb' 5 3)
      let a64 := r.c.getLsbD 8
      let d ← Operand.ofCode r.d
      let a ← Operand.ofCode r.a
      let b ← Operand.ofCode r.b
      pure (.ldMd r.ctl sg a64 d a b)
    else do
      let (sg, wd) ← deMem r.mod
      let sx := r.mod.getLsbD 1
      let a64 := r.c.getLsbD 8
      let d ← Operand.ofCode r.d
      let a ← Operand.ofCode r.a
      let b ← Operand.ofCode r.b
      pure (.ld r.ctl sg wd sx a64 d a b)
  | 0x1#4 => if r.mod.getLsbD 0 then do
      let sg := SegIx.ofCode (r.mod.extractLsb' 5 3)
      let a64 := r.c.getLsbD 8
      let d ← Operand.ofCode r.d
      let a ← Operand.ofCode r.a
      let b ← Operand.ofCode r.b
      pure (.stMd r.ctl sg a64 d a b)
    else do
      let (sg, wd) ← deMem r.mod
      let a64 := r.c.getLsbD 8
      let d ← Operand.ofCode r.d
      let a ← Operand.ofCode r.a
      let b ← Operand.ofCode r.b
      pure (.st r.ctl sg wd a64 d a b)
  | 0x2#4 => do
    let (sg, wd) ← deMem r.mod
    let sx := r.mod.getLsbD 1
    let a64 := r.c.getLsbD 8
    let d ← Operand.ofCode r.d
    let a ← Operand.ofCode r.a
    let b ← Operand.ofCode r.b
    pure (.lds r.ctl sg wd sx a64 d a b)
  | 0x3#4 => do
    let (sg, wd) ← deMem r.mod
    let a64 := r.c.getLsbD 8
    let d ← Operand.ofCode r.d
    let a ← Operand.ofCode r.a
    let b ← Operand.ofCode r.b
    pure (.sts r.ctl sg wd a64 d a b)
  | 0x4#4 => do
    let (sg, sc) ← deTag r.mod
    let a64 := r.c.getLsbD 8
    let d ← Operand.ofCode r.d
    let a ← Operand.ofCode r.a
    let b ← Operand.ofCode r.b
    pure (.ldt r.ctl sg sc a64 d a b)
  | 0x5#4 => do
    let (sg, sc) ← deTag r.mod
    let a64 := r.c.getLsbD 8
    let d ← Operand.ofCode r.d
    let a ← Operand.ofCode r.a
    let b ← Operand.ofCode r.b
    pure (.ldtk r.ctl sg sc a64 d a b)
  | 0x6#4 => do
    let (sg, sc) ← deTag r.mod
    let a64 := r.c.getLsbD 8
    let d ← Operand.ofCode r.d
    let a ← Operand.ofCode r.a
    let b ← Operand.ofCode r.b
    pure (.stt r.ctl sg sc a64 d a b)
  | 0x7#4 => do
    let (sg, sc) ← deTag r.mod
    let a64 := r.c.getLsbD 8
    let d ← Operand.ofCode r.d
    let a ← Operand.ofCode r.a
    let b ← Operand.ofCode r.b
    pure (.sttf r.ctl sg sc a64 d a b)
  | 0x8#4 => if r.mod.getLsbD 0 then do
      let sg := SegIx.ofCode (r.mod.extractLsb' 5 3)
      let a64 := r.c.getLsbD 8
      let a ← Operand.ofCode r.a
      let b ← Operand.ofCode r.b
      pure (.tagClr r.ctl sg a64 a b)
    else do
      let sg := SegIx.ofCode (r.mod.extractLsb' 5 3)
      let a64 := r.c.getLsbD 8
      let d ← Operand.ofCode r.d
      let a ← Operand.ofCode r.a
      let b ← Operand.ofCode r.b
      pure (.tagRd r.ctl sg a64 d a b)
  | 0x9#4 => do
    let (k, sc) ← dePhase r.mod
    pure (.phase r.ctl k sc)
  | 0xA#4 => do
    pure (.scfence r.ctl)
  | 0xB#4 => do
    let (sg, o) ← deAtom r.mod
    let w64 := r.mod.getLsbD 1
    let (sc, op) ← deAtomX r.c
    let a64 := r.c.getLsbD 1
    let d ← Operand.ofCode r.d
    let a ← Operand.ofCode r.a
    let b ← Operand.ofCode r.b
    pure (.atom r.ctl sg op o sc w64 a64 d a b)
  | 0xC#4 => do
    let (sg, o) ← deAtom r.mod
    let w64 := r.mod.getLsbD 1
    let facq := r.mod.getLsbD 0
    let sc ← Scope.ofCode (r.c.extractLsb' 6 3)
    let a64 := r.c.getLsbD 5
    let d ← Operand.ofCode r.d
    let a ← Operand.ofCode r.a
    let b ← Operand.ofCode r.b
    pure (.acas r.ctl sg o sc w64 facq a64 d a b)
  | 0xD#4 => do
    let (sg, o) ← deAtom r.mod
    let w64 := r.mod.getLsbD 1
    let sc ← Scope.ofCode (r.c.extractLsb' 6 3)
    let a64 := r.c.getLsbD 1
    let d ← Operand.ofCode r.d
    let a ← Operand.ofCode r.a
    pure (.lr r.ctl sg o sc w64 a64 d a)
  | 0xE#4 => do
    let (sg, o) ← deAtom r.mod
    let w64 := r.mod.getLsbD 1
    let sc ← Scope.ofCode (r.c.extractLsb' 6 3)
    let a64 := r.c.getLsbD 1
    let d ← Operand.ofCode r.d
    let a ← Operand.ofCode r.a
    let b ← Operand.ofCode r.b
    pure (.sc r.ctl sg o sc w64 a64 d a b)
  | _ => none

/-- Row 9 of the opcode grid (R272). -/
def Raw.row9 (r : Raw) : Option Instr :=
  match r.opc.extractLsb' 0 4 with
  | 0x0#4 => r.cop
  | 0x1#4 => do
    let acq := r.mod.getLsbD 7
    let nt ← deOpt (r.mod.getLsbD 6) r.d
    let a ← Operand.ofCode r.a
    pure (.hwait r.ctl acq nt a)
  | 0x2#4 => do
    let d ← Operand.ofCode r.d
    let a ← Operand.ofCode r.a
    pure (.htest r.ctl d a)
  | 0x3#4 => do
    let a ← Operand.ofCode r.a
    pure (.hcancel r.ctl a)
  | 0x4#4 => do
    let toH := r.mod.getLsbD 7
    let d ← Operand.ofCode r.d
    let a ← Operand.ofCode r.a
    pure (.hmov r.ctl toH d a)
  | 0x5#4 => do
    let a ← Operand.ofCode r.a
    pure (.hprom r.ctl a)
  | 0x6#4 => do
    let sg := SegIx.ofCode (r.mod.extractLsb' 5 3)
    let a ← Operand.ofCode r.a
    let b ← Operand.ofCode r.b
    pure (.bcbInit r.ctl sg a b)
  | 0x7#4 => do
    let sg := SegIx.ofCode (r.mod.extractLsb' 5 3)
    let a ← Operand.ofCode r.a
    let b ← Operand.ofCode r.b
    pure (.bcbExp r.ctl sg a b)
  | 0x8#4 => do
    let sg := SegIx.ofCode (r.mod.extractLsb' 5 3)
    let a ← Operand.ofCode r.a
    let b ← Operand.ofCode r.b
    pure (.bcbArr r.ctl sg a b)
  | 0x9#4 => do
    let sg := SegIx.ofCode (r.mod.extractLsb' 5 3)
    let a ← Operand.ofCode r.a
    let b ← Operand.ofCode r.b
    pure (.bcbWait r.ctl sg a b)
  | 0xA#4 => do
    let sg := SegIx.ofCode (r.mod.extractLsb' 5 3)
    let d ← Operand.ofCode r.d
    let a ← Operand.ofCode r.a
    let b ← Operand.ofCode r.b
    pure (.bcbTest r.ctl sg d a b)
  | _ => none

/-- Row A of the opcode grid (R272). -/
def Raw.rowA (r : Raw) : Option Instr :=
  match r.opc.extractLsb' 0 4 with
  | 0x0#4 => do
    let a ← Operand.ofCode r.a
    let b ← Operand.ofCode r.b
    pure (.tidLd r.ctl a b)
  | 0x1#4 => do
    let a ← Operand.ofCode r.a
    pure (.tidInv r.ctl a)
  | 0x2#4 => do
    let a ← Operand.ofCode r.a
    pure (.gang r.ctl a)
  | 0x3#4 => do
    let d ← Operand.ofCode r.d
    let a ← Operand.ofCode r.a
    pure (.cbLd r.ctl d a)
  | 0x4#4 => do
    let sat := r.mod.getLsbD 7
    let shape ← Shape.ofCode (r.mod.extractLsb' 5 2)
    let d ← Operand.ofCode r.d
    let a ← Operand.ofCode r.a
    pure (.mma r.ctl sat shape d a)
  | 0x5#4 => do
    let sat := r.mod.getLsbD 7
    let shape ← Shape.ofCode (r.mod.extractLsb' 5 2)
    let d ← Operand.ofCode r.d
    let a ← Operand.ofCode r.a
    pure (.mmaSp r.ctl sat shape d a)
  | 0x6#4 => do
    let sat := r.mod.getLsbD 7
    let shape ← Shape.ofCode (r.mod.extractLsb' 5 2)
    let d ← Operand.ofCode r.d
    let a ← Operand.ofCode r.a
    pure (.mmaQ r.ctl sat shape d a)
  | 0x7#4 => do
    let wide := r.mod.getLsbD 7
    let d ← Operand.ofCode r.d
    pure (.accZero r.ctl wide d)
  | 0x8#4 => do
    let wide := r.mod.getLsbD 7
    let d ← Operand.ofCode r.d
    let a ← Operand.ofCode r.a
    pure (.accLd r.ctl wide d a)
  | 0x9#4 => do
    let wide := r.mod.getLsbD 7
    let sat := r.mod.getLsbD 6
    let a ← Operand.ofCode r.a
    let b ← Operand.ofCode r.b
    pure (.accSt r.ctl wide sat a b)
  | 0xA#4 => do
    let wide := r.mod.getLsbD 7
    let d ← Operand.ofCode r.d
    let a ← Operand.ofCode r.a
    let b ← Operand.ofCode r.b
    pure (.accGet r.ctl wide d a b)
  | 0xB#4 => do
    let wide := r.mod.getLsbD 7
    let d ← Operand.ofCode r.d
    let a ← Operand.ofCode r.a
    let b ← Operand.ofCode r.b
    pure (.accPut r.ctl wide d a b)
  | 0xC#4 => do
    let nocnt := r.mod.getLsbD 7
    let d ← Operand.ofCode r.d
    let a ← Operand.ofCode r.a
    pure (.tmv r.ctl nocnt d a)
  | 0xD#4 => do
    let a ← Operand.ofCode r.a
    pure (.fireRd r.ctl a)
  | _ => none

/-- Row B of the opcode grid (R272). -/
def Raw.rowB (r : Raw) : Option Instr :=
  match r.opc.extractLsb' 0 4 with
  | 0x0#4 => do
    let d ← Operand.ofCode r.d
    let a ← Operand.ofCode r.a
    let b ← Operand.ofCode r.b
    let e ← Operand.ofCode r.c
    pure (.smp r.ctl d a b e)
  | 0x1#4 => do
    let d ← Operand.ofCode r.d
    let a ← Operand.ofCode r.a
    let b ← Operand.ofCode r.b
    let e ← Operand.ofCode r.c
    pure (.smpc r.ctl d a b e)
  | 0x2#4 => do
    let d ← Operand.ofCode r.d
    let a ← Operand.ofCode r.a
    let b ← Operand.ofCode r.b
    let e ← Operand.ofCode r.c
    pure (.tld r.ctl d a b e)
  | 0x3#4 => do
    let d ← Operand.ofCode r.d
    let a ← Operand.ofCode r.a
    pure (.resQ r.ctl d a)
  | 0x4#4 => do
    let attr := r.a.extractLsb' 0 4
    let d ← Operand.ofCode r.d
    let b ← Operand.ofCode r.b
    pure (.vbary r.ctl d attr b)
  | 0x5#4 => do
    let a ← Operand.ofCode r.a
    pure (.vsplit r.ctl a)
  | 0x6#4 => do
    let a ← Operand.ofCode r.a
    pure (.vkill r.ctl a)
  | 0x7#4 => do
    let a ← Operand.ofCode r.a
    pure (.outc r.ctl a)
  | 0x8#4 => do
    let a ← Operand.ofCode r.a
    pure (.outz r.ctl a)
  | 0x9#4 => do
    let which := deOutv r.mod
    let a ← Operand.ofCode r.a
    pure (.outv r.ctl which a)
  | 0xA#4 => do
    let a ← Operand.ofCode r.a
    pure (.recPush r.ctl a)
  | 0xB#4 => do
    let d ← Operand.ofCode r.d
    let e ← Operand.ofCode r.c
    pure (.recPop r.ctl d e)
  | 0xC#4 => do
    pure (.recDone r.ctl)
  | _ => none

/-- Row C of the opcode grid (R272). -/
def Raw.rowC (r : Raw) : Option Instr :=
  match r.opc.extractLsb' 0 4 with
  | 0x0#4 => do
    let imm := r.kimm
    pure (.bra r.ctl imm)
  | 0x1#4 => do
    let dist := r.kd
    let imm := r.kimm
    pure (.br r.ctl dist imm)
  | 0x2#4 => do
    let a ← Operand.ofCode r.a
    pure (.brx r.ctl a)
  | 0x3#4 => do
    let d ← Operand.ofCode r.kd
    let imm := r.kimm
    pure (.call r.ctl d imm)
  | 0x4#4 => do
    let d ← Operand.ofCode r.d
    let a ← Operand.ofCode r.a
    pure (.callx r.ctl d a)
  | 0x5#4 => do
    let a ← Operand.ofCode r.a
    pure (.ret r.ctl a)
  | 0x6#4 => do
    pure (.reconv r.ctl)
  | 0x7#4 => do
    pure (.exit r.ctl)
  | 0x8#4 => do
    pure (.yield r.ctl)
  | 0x9#4 => do
    let a ← Operand.ofCode r.a
    pure (.sleep r.ctl a)
  | 0xA#4 => do
    let a ← Operand.ofCode r.a
    pure (.sleepu r.ctl a)
  | 0xB#4 => do
    let imm := r.mod
    pure (.trap r.ctl imm)
  | 0xC#4 => do
    pure (.bkpt r.ctl)
  | 0xD#4 => do
    pure (.tret r.ctl)
  | 0xE#4 => do
    let d ← Operand.ofCode r.d
    let a ← Operand.ofCode r.a
    pure (.cjoin r.ctl d a)
  | 0xF#4 => do
    let d ← Operand.ofCode r.d
    let a ← Operand.ofCode r.a
    pure (.cleave r.ctl d a)
  | _ => none

/-- Row D of the opcode grid (R272). -/
def Raw.rowD (r : Raw) : Option Instr :=
  match r.opc.extractLsb' 0 4 with
  | 0x0#4 => do
    let d ← Operand.ofCode r.d
    pure (.cnew r.ctl d)
  | 0x1#4 => do
    let o ← BarOrder.ofCode (r.mod.extractLsb' 6 2)
    let crew ← deOpt (!r.mod.getLsbD 5) r.a
    pure (.bar r.ctl o crew)
  | 0x2#4 => do
    let (op, ty, ftz) ← deRed r.mod
    let o ← BarOrder.ofCode (r.mod.extractLsb' 0 2)
    let d ← Operand.ofCode r.d
    let a ← Operand.ofCode r.a
    let b ← Operand.ofCode r.b
    pure (.barp r.ctl op ty ftz o d a b)
  | 0x3#4 => do
    let init := r.mod.getLsbD 7
    let d ← Operand.ofCode r.d
    let a ← Operand.ofCode r.a
    let b ← Operand.ofCode r.b
    pure (.sluIn r.ctl init d a b)
  | 0x4#4 => do
    let a ← Operand.ofCode r.a
    pure (.sluOut r.ctl a)
  | 0x5#4 => do
    let d ← Operand.ofCode r.d
    let a ← Operand.ofCode r.a
    let b ← Operand.ofCode r.b
    let e ← Operand.ofCode r.c
    pure (.sluTry r.ctl d a b e)
  | 0x6#4 => do
    let a ← Operand.ofCode r.a
    pure (.vgrow r.ctl a)
  | 0x7#4 => do
    let a ← Operand.ofCode r.a
    pure (.vshrink r.ctl a)
  | 0x8#4 => do
    let d ← Operand.ofCode r.d
    let a ← Operand.ofCode r.a
    let b ← Operand.ofCode r.b
    pure (.launch r.ctl d a b)
  | 0x9#4 => do
    let num := r.b
    let d ← Operand.ofCode r.d
    pure (.csrr r.ctl d num)
  | 0xA#4 => do
    let num := r.b
    let a ← Operand.ofCode r.a
    pure (.csrw r.ctl a num)
  | 0xB#4 => do
    let sg := SegIx.ofCode (r.mod.extractLsb' 5 3)
    let a ← Operand.ofCode r.a
    pure (.segLd r.ctl sg a)
  | 0xC#4 => do
    let k ← TlbInv.ofCode r.mod r.a r.b
    pure (.tlbInv r.ctl k)
  | _ => none

/-- What the opcode and the code fields name (R272); none for a reserved cell or a reserved code. -/
def Raw.instr (r : Raw) : Option Instr :=
  match r.opc.extractLsb' 4 4 with
  | 0x0#4 => r.row0
  | 0x1#4 => r.row1
  | 0x2#4 => r.row2
  | 0x3#4 => r.row3
  | 0x4#4 => r.row4
  | 0x6#4 => r.row6
  | 0x7#4 => r.row7
  | 0x9#4 => r.row9
  | 0xA#4 => r.rowA
  | 0xB#4 => r.rowB
  | 0xC#4 => r.rowC
  | 0xD#4 => r.rowD
  | _ => none

/-- The fields of an instruction's word; none for a device step, which has no encoding. -/
def encodeRaw : Instr → Option Raw
  | .deliver => none
  | .dropLine => none
  | .cacheDrop => none
  | .heartbeat => none
  | .releaseComplete => none
  | .taggedAtHome => none
  | .taggedResend => none
  | .serviceRequest => none
  | .atomicReply => none
  | .engineRead => none
  | .engineWrite => none
  | .engineCount => none
  | .cascadeStep => none
  | .clauseIssue => none
  | .resultWrite => none
  | .watchdog => none
  | .ctxBuild => none
  | .ctxCommit => none
  | .ctxSuspend => none
  | .ctxResume => none
  | .ctxReset => none
  | .ctxKill => none
  | .ctxFree => none
  | .ctxDump => none
  | .drainComplete => none
  | .quantumEnd => none
  | .tenantChoice => none
  | .switchOut => none
  | .contextRestore => none
  | .wellheadWake => none
  | .launchRecord => none
  | .drawRecord => none
  | .copyRecord => none
  | .waitRecord => none
  | .signalRecord => none
  | .markRecord => none
  | .waitTimeout => none
  | .queueAgeing => none
  | .wellheadAppend => none
  | .queueBind => none
  | .queueUnbind => none
  | .queueSuspend => none
  | .queueResume => none
  | .queueClear => none
  | .placementPass => none
  | .completionEvent => none
  | .vgrowDeadlockCheck => none
  | .vgrowRestore => none
  | .gangTimeout => none
  | .promiseTimeout => none
  | .sleepWake => none
  | .pageWalk => none
  | .walkResend => none
  | .dumpPageCopy => none
  | .pktRd => none
  | .pktWr => none
  | .pktWrm => none
  | .pktNmc => none
  | .readReply => none
  | .writeReply => none
  | .nmcReply => none
  | .stackTrainingStart => none
  | .stackTrainingPass => none
  | .stackTrainingFail => none
  | .stackInterfaceFail => none
  | .nrcfgWrite => none
  | .cecountWrite => none
  | .uccountWrite => none
  | .patWrite => none
  | .tierWorking => none
  | .autoAgeing => none
  | .tierCopyDone => none
  | .tmvJoin => none
  | .sectionRequest => none
  | .sectionLeave => none
  | .chainWalkHop => none
  | .sectStarved => none
  | .waiterResend => none
  | .streamBind => none
  | .streamUnbind => none
  | .primitiveAssembly => none
  | .primitiveSetup => none
  | .sweep => none
  | .blend => none
  | .slotDeadline => none
  | .clockStep => none
  | .thermalTrip => none
  | .flitData => none
  | .flitAck => none
  | .flitFlowControl => none
  | .flitTick => none
  | .tickFlitSend => none
  | .linkReplayTimeout => none
  | .linkEnable => none
  | .linkDisable => none
  | .linkTrainingPass => none
  | .linkTrainingFail => none
  | .laneFail => none
  | .hdmWrite => none
  | .powerGood => none
  | .powerLoss => none
  | .go => none
  | .verify => none
  | .earlyEntry => none
  | .fullEntry => none
  | .claim => none
  | .handover => none
  | .accept => none
  | .crownRelease => none
  | .handoverLapse => none
  | .crownVacancy => none
  | .devnoWrite => none
  | .attest => none
  | .cert => none
  | .csrrd => none
  | .csrwr => none
  | .hubrd => none
  | .hubwr => none
  | .traceEnWrite => none
  | .frameTimeout => none
  | .frameWrite => none
  | .sampleTake => none
  | .replayDivergence => none
  | .stopArm => none
  | .deviceStop => none
  | .stopResume => none
  | .registerWrite => none
  | .iadd c ty sat d a b => some (c.raw 0x00 (modInt ty sat) d.code a.code b.code 0)
  | .isub c ty sat d a b => some (c.raw 0x01 (modInt ty sat) d.code a.code b.code 0)
  | .imul c ty sat d a b => some (c.raw 0x02 (modInt ty sat) d.code a.code b.code 0)
  | .imulh c ty sat d a b => some (c.raw 0x03 (modInt ty sat) d.code a.code b.code 0)
  | .imad c ty sat d a b e => some (c.raw 0x04 (modInt ty sat) d.code a.code b.code e.code)
  | .imadw c ty sat d a b e => some (c.raw 0x05 (modInt ty sat) d.code a.code b.code e.code)
  | .iaddw c ty sat d a b e => some (c.raw 0x06 (modInt ty sat) d.code a.code b.code e.code)
  | .isubw c ty sat d a b e => some (c.raw 0x07 (modInt ty sat) d.code a.code b.code e.code)
  | .iabs c ty sat d a => some (c.raw 0x08 (modInt ty sat) d.code a.code 0 0)
  | .ineg c ty sat d a => some (c.raw 0x09 (modInt ty sat) d.code a.code 0 0)
  | .imin c ty sat d a b => some (c.raw 0x0A (modInt ty sat) d.code a.code b.code 0)
  | .imax c ty sat d a b => some (c.raw 0x0B (modInt ty sat) d.code a.code b.code 0)
  | .iclamp c ty sat d a b e => some (c.raw 0x0C (modInt ty sat) d.code a.code b.code e.code)
  | .iand c w64 d a b => some (c.raw 0x0D (modTop w64) d.code a.code b.code 0)
  | .ior c w64 d a b => some (c.raw 0x0E (modTop w64) d.code a.code b.code 0)
  | .ixor c w64 d a b => some (c.raw 0x0F (modTop w64) d.code a.code b.code 0)
  | .andn c w64 d a b => some (c.raw 0x10 (modTop w64) d.code a.code b.code 0)
  | .tri c tt d a b e => some (c.raw 0x11 tt d.code a.code b.code e.code)
  | .shl c w64 clamp d a b => some (c.raw 0x12 (modShift w64 clamp false) d.code a.code b.code 0)
  | .shr c w64 clamp d a b => some (c.raw 0x13 (modShift w64 clamp false) d.code a.code b.code 0)
  | .sar c w64 clamp d a b => some (c.raw 0x14 (modShift w64 clamp false) d.code a.code b.code 0)
  | .rotl c w64 d a b => some (c.raw 0x15 (modShift w64 false false) d.code a.code b.code 0)
  | .funsh c clamp right d a b e => some (c.raw 0x16 (modShift false clamp right) d.code a.code b.code e.code)
  | .popc c w64 d a => some (c.raw 0x17 (modTop w64) d.code a.code 0 0)
  | .clz c w64 d a => some (c.raw 0x18 (modTop w64) d.code a.code 0 0)
  | .ffs c w64 d a => some (c.raw 0x19 (modTop w64) d.code a.code 0 0)
  | .brev c w64 d a => some (c.raw 0x1A (modTop w64) d.code a.code 0 0)
  | .bfx c sx d a b e => some (c.raw 0x1B (modTop sx) d.code a.code b.code e.code)
  | .bfi c d a b e => some (c.raw 0x1C 0#8 d.code a.code b.code e.code)
  | .icmp c ty cond d a b => some (c.raw 0x1D (modCmp ty cond) d.code a.code b.code 0)
  | .sel c w64 d a b e => some (c.raw 0x1E (modTop w64) d.code a.code b.code e.code)
  | .mov c w64 d a => some (c.raw 0x1F (modTop w64) d.code a.code 0 0)
  | .movi c d imm => some (c.rawK 0x20 d.code imm)
  | .iaddi c ty sat d a imm => some (c.raw 0x21 (modInt ty sat) d.code a.code (imm.extractLsb' 9 9) (imm.extractLsb' 0 9))
  | .imuli c ty sat d a imm => some (c.raw 0x22 (modInt ty sat) d.code a.code (imm.extractLsb' 9 9) (imm.extractLsb' 0 9))
  | .andi c d a imm => some (c.raw 0x23 0#8 d.code a.code (imm.extractLsb' 9 9) (imm.extractLsb' 0 9))
  | .ori c d a imm => some (c.raw 0x24 0#8 d.code a.code (imm.extractLsb' 9 9) (imm.extractLsb' 0 9))
  | .xori c d a imm => some (c.raw 0x25 0#8 d.code a.code (imm.extractLsb' 9 9) (imm.extractLsb' 0 9))
  | .icmpi c ty cond d a imm => some (c.raw 0x26 (modCmp ty cond) d.code a.code (imm.extractLsb' 9 9) (imm.extractLsb' 0 9))
  | .lea c sh d a b => some (c.raw 0x27 (sh ++ 0#5) d.code a.code b.code 0)
  | .leaw c sh d a b => some (c.raw 0x28 (sh ++ 0#5) d.code a.code b.code 0)
  | .cvti c dty sty sat d a => some (c.raw 0x29 (modInt dty sat) d.code a.code 0 (sty.code ++ 0#4))
  | .idp4 c sa sb sat d a b e => some (c.raw 0x2A (modDot sa sb sat) d.code a.code b.code e.code)
  | .idp8 c sa sb sat d a b e => some (c.raw 0x2B (modDot sa sb sat) d.code a.code b.code e.code)
  | .fadd c rm ftz d a b => some (c.raw 0x30 (modFlt rm ftz) d.code a.code b.code 0)
  | .fsub c rm ftz d a b => some (c.raw 0x31 (modFlt rm ftz) d.code a.code b.code 0)
  | .fmul c rm ftz d a b => some (c.raw 0x32 (modFlt rm ftz) d.code a.code b.code 0)
  | .ffma c rm ftz d a b e => some (c.raw 0x33 (modFlt rm ftz) d.code a.code b.code e.code)
  | .fmin c ftz d a b => some (c.raw 0x34 (modFlt .rne ftz) d.code a.code b.code 0)
  | .fmax c ftz d a b => some (c.raw 0x35 (modFlt .rne ftz) d.code a.code b.code 0)
  | .fcmp c ty cond d a b => some (c.raw 0x36 (modCmp ty cond) d.code a.code b.code 0)
  | .fclass c d a => some (c.raw 0x37 0#8 d.code a.code 0 0)
  | .frnd c rm ftz d a => some (c.raw 0x38 (modFlt rm ftz) d.code a.code 0 0)
  | .fcvt c df sf rm sat ftz d a => some (c.raw 0x39 (modCvt df sf rm) d.code a.code 0 (BitVec.ofBool sat ++ BitVec.ofBool ftz ++ 0#7))
  | .ftoi c ty rm ftz d a => some (c.raw 0x3A (modXcvt ty rm ftz) d.code a.code 0 0)
  | .itof c ty rm ftz d a => some (c.raw 0x3B (modXcvt ty rm ftz) d.code a.code 0 0)
  | .fscale c rm ftz d a b => some (c.raw 0x3C (modFlt rm ftz) d.code a.code b.code 0)
  | .frcp c ftz d a => some (c.raw 0x3D (modFlt .rne ftz) d.code a.code 0 0)
  | .frsq c ftz d a => some (c.raw 0x3E (modFlt .rne ftz) d.code a.code 0 0)
  | .fsqrt c ftz d a => some (c.raw 0x3F (modFlt .rne ftz) d.code a.code 0 0)
  | .fex2 c ftz d a => some (c.raw 0x40 (modFlt .rne ftz) d.code a.code 0 0)
  | .flg2 c ftz d a => some (c.raw 0x41 (modFlt .rne ftz) d.code a.code 0 0)
  | .fsin c ftz d a => some (c.raw 0x42 (modFlt .rne ftz) d.code a.code 0 0)
  | .fcos c ftz d a => some (c.raw 0x43 (modFlt .rne ftz) d.code a.code 0 0)
  | .ftanh c ftz d a => some (c.raw 0x44 (modFlt .rne ftz) d.code a.code 0 0)
  | .hadd2 c bf rm d a b => some (c.raw 0x45 (modHalf bf rm) d.code a.code b.code 0)
  | .hmul2 c bf rm d a b => some (c.raw 0x46 (modHalf bf rm) d.code a.code b.code 0)
  | .hfma2 c bf rm d a b e => some (c.raw 0x47 (modHalf bf rm) d.code a.code b.code e.code)
  | .hmin2 c bf d a b => some (c.raw 0x48 (modHalf bf .rne) d.code a.code b.code 0)
  | .hmax2 c bf d a b => some (c.raw 0x49 (modHalf bf .rne) d.code a.code b.code 0)
  | .pack c ty pos d a b => some (c.raw 0x4A (ty.code ++ pos) d.code a.code b.code 0)
  | .unpack c ty pos lut d a => some (c.raw 0x4B (ty.code ++ pos) d.code a.code (lutB lut) (lutC lut))
  | .fdot2 c bf rm d a b e => some (c.raw 0x4C (modHalf bf rm) d.code a.code b.code e.code)
  | .fstat c d => some (c.raw 0x4D 0#8 d.code 0 0 0)
  | .plop c tt d a b e => some (c.raw 0x60 tt d.code a.code b.code e.code)
  | .pmov c d a => some (c.raw 0x61 0#8 d.code a.code 0 0)
  | .vote c form d a => some (c.raw 0x62 (form.code ++ 0#5) d.code a.code 0 0)
  | .elect c d => some (c.raw 0x63 0#8 d.code 0 0 0)
  | .shfl c form d a b => some (c.raw 0x64 (form.code ++ 0#5) d.code a.code b.code 0)
  | .perm c d a b => some (c.raw 0x65 0#8 d.code a.code b.code 0)
  | .bcast c d a b => some (c.raw 0x66 0#8 d.code a.code b.code 0)
  | .lred c op ty ftz d a => some (c.raw 0x67 (modRed op ty ftz false) d.code a.code 0 0)
  | .lscan c op ty ftz excl d a => some (c.raw 0x68 (modRed op ty ftz excl) d.code a.code 0 0)
  | .matchL c w64 rank d a => some (c.raw 0x69 (modPair w64 rank) d.code a.code 0 0)
  | .ld c sg wd sx a64 d a b => some (c.raw 0x70 (modMem sg wd sx false) d.code a.code b.code (modxTop a64))
  | .st c sg wd a64 d a b => some (c.raw 0x71 (modMem sg wd false false) d.code a.code b.code (modxTop a64))
  | .ldMd c sg a64 d a b => some (c.raw 0x70 (modMem sg .b32 false true) d.code a.code b.code (modxTop a64))
  | .stMd c sg a64 d a b => some (c.raw 0x71 (modMem sg .b32 false true) d.code a.code b.code (modxTop a64))
  | .lds c sg wd sx a64 d a b => some (c.raw 0x72 (modMem sg wd sx false) d.code a.code b.code (modxTop a64))
  | .sts c sg wd a64 d a b => some (c.raw 0x73 (modMem sg wd false false) d.code a.code b.code (modxTop a64))
  | .ldt c sg sc a64 d a b => some (c.raw 0x74 (modTag sg sc 0) d.code a.code b.code (modxTop a64))
  | .ldtk c sg sc a64 d a b => some (c.raw 0x75 (modTag sg sc 0) d.code a.code b.code (modxTop a64))
  | .stt c sg sc a64 d a b => some (c.raw 0x76 (modTag sg sc 0) d.code a.code b.code (modxTop a64))
  | .sttf c sg sc a64 d a b => some (c.raw 0x77 (modTag sg sc 0) d.code a.code b.code (modxTop a64))
  | .tagRd c sg a64 d a b => some (c.raw 0x78 (modTag sg .dev 0) d.code a.code b.code (modxTop a64))
  | .tagClr c sg a64 a b => some (c.raw 0x78 (modTag sg .dev 1) 0 a.code b.code (modxTop a64))
  | .phase c k sc => some (c.raw 0x79 (modPhase k sc) 0 0 0 0)
  | .scfence c => some (c.raw 0x7A 0#8 0 0 0 0)
  | .atom c sg op o sc w64 a64 d a b => some (c.raw 0x7B (modAtom sg o w64) d.code a.code b.code (modxAtom sc op a64))
  | .acas c sg o sc w64 facq a64 d a b => some (c.raw 0x7C (modCas sg o w64 facq) d.code a.code b.code (modxCas sc a64))
  | .lr c sg o sc w64 a64 d a => some (c.raw 0x7D (modAtom sg o w64) d.code a.code 0 (modxAtom sc .add a64))
  | .sc c sg o sc w64 a64 d a b => some (c.raw 0x7E (modAtom sg o w64) d.code a.code b.code (modxAtom sc .add a64))
  | .hwait c acq nt a => some (c.raw 0x91 (modPair acq nt.isSome) (optCode nt) a.code 0 0)
  | .htest c d a => some (c.raw 0x92 0#8 d.code a.code 0 0)
  | .hcancel c a => some (c.raw 0x93 0#8 0 a.code 0 0)
  | .hmov c toH d a => some (c.raw 0x94 (modTop toH) d.code a.code 0 0)
  | .hprom c a => some (c.raw 0x95 0#8 0 a.code 0 0)
  | .bcbInit c sg a b => some (c.raw 0x96 (sg.code ++ 0#5) 0 a.code b.code 0)
  | .bcbExp c sg a b => some (c.raw 0x97 (sg.code ++ 0#5) 0 a.code b.code 0)
  | .bcbArr c sg a b => some (c.raw 0x98 (sg.code ++ 0#5) 0 a.code b.code 0)
  | .bcbWait c sg a b => some (c.raw 0x99 (sg.code ++ 0#5) 0 a.code b.code 0)
  | .bcbTest c sg d a b => some (c.raw 0x9A (sg.code ++ 0#5) d.code a.code b.code 0)
  | .tidLd c a b => some (c.raw 0xA0 0#8 0 a.code b.code 0)
  | .tidInv c a => some (c.raw 0xA1 0#8 0 a.code 0 0)
  | .gang c a => some (c.raw 0xA2 0#8 0 a.code 0 0)
  | .cbLd c d a => some (c.raw 0xA3 0#8 d.code a.code 0 0)
  | .mma c sat shape d a => some (c.raw 0xA4 (modMma sat shape) d.code a.code 0 0)
  | .mmaSp c sat shape d a => some (c.raw 0xA5 (modMma sat shape) d.code a.code 0 0)
  | .mmaQ c sat shape d a => some (c.raw 0xA6 (modMma sat shape) d.code a.code 0 0)
  | .accZero c wide d => some (c.raw 0xA7 (modPair wide false) d.code 0 0 0)
  | .accLd c wide d a => some (c.raw 0xA8 (modPair wide false) d.code a.code 0 0)
  | .accSt c wide sat a b => some (c.raw 0xA9 (modPair wide sat) 0 a.code b.code 0)
  | .accGet c wide d a b => some (c.raw 0xAA (modPair wide false) d.code a.code b.code 0)
  | .accPut c wide d a b => some (c.raw 0xAB (modPair wide false) d.code a.code b.code 0)
  | .tmv c nocnt d a => some (c.raw 0xAC (modTop nocnt) d.code a.code 0 0)
  | .fireRd c a => some (c.raw 0xAD 0#8 0 a.code 0 0)
  | .smp c d a b e => some (c.raw 0xB0 0#8 d.code a.code b.code e.code)
  | .smpc c d a b e => some (c.raw 0xB1 0#8 d.code a.code b.code e.code)
  | .tld c d a b e => some (c.raw 0xB2 0#8 d.code a.code b.code e.code)
  | .resQ c d a => some (c.raw 0xB3 0#8 d.code a.code 0 0)
  | .vbary c d attr b => some (c.raw 0xB4 0#8 d.code (0b11100#5 ++ attr) b.code 0)
  | .vsplit c a => some (c.raw 0xB5 0#8 0 a.code 0 0)
  | .vkill c a => some (c.raw 0xB6 0#8 0 a.code 0 0)
  | .outc c a => some (c.raw 0xB7 0#8 0 a.code 0 0)
  | .outz c a => some (c.raw 0xB8 0#8 0 a.code 0 0)
  | .outv c which a => some (c.raw 0xB9 (modOutv which) 0 a.code 0 0)
  | .recPush c a => some (c.raw 0xBA 0#8 0 a.code 0 0)
  | .recPop c d e => some (c.raw 0xBB 0#8 d.code 0 0 e.code)
  | .recDone c => some (c.raw 0xBC 0#8 0 0 0 0)
  | .bra c imm => some (c.rawK 0xC0 0 imm)
  | .br c dist imm => some (c.rawK 0xC1 dist imm)
  | .brx c a => some (c.raw 0xC2 0#8 0 a.code 0 0)
  | .call c d imm => some (c.rawK 0xC3 d.code imm)
  | .callx c d a => some (c.raw 0xC4 0#8 d.code a.code 0 0)
  | .ret c a => some (c.raw 0xC5 0#8 0 a.code 0 0)
  | .reconv c => some (c.raw 0xC6 0#8 0 0 0 0)
  | .exit c => some (c.raw 0xC7 0#8 0 0 0 0)
  | .yield c => some (c.raw 0xC8 0#8 0 0 0 0)
  | .sleep c a => some (c.raw 0xC9 0#8 0 a.code 0 0)
  | .sleepu c a => some (c.raw 0xCA 0#8 0 a.code 0 0)
  | .trap c imm => some (c.raw 0xCB imm 0 0 0 0)
  | .bkpt c => some (c.raw 0xCC 0#8 0 0 0 0)
  | .tret c => some (c.raw 0xCD 0#8 0 0 0 0)
  | .cjoin c d a => some (c.raw 0xCE 0#8 d.code a.code 0 0)
  | .cleave c d a => some (c.raw 0xCF 0#8 d.code a.code 0 0)
  | .cnew c d => some (c.raw 0xD0 0#8 d.code 0 0 0)
  | .bar c o crew => some (c.raw 0xD1 (modBar o crew.isNone) 0 (optCode crew) 0 0)
  | .barp c op ty ftz o d a b => some (c.raw 0xD2 (modBarp op ty ftz o) d.code a.code b.code 0)
  | .sluIn c init d a b => some (c.raw 0xD3 (modTop init) d.code a.code b.code 0)
  | .sluOut c a => some (c.raw 0xD4 0#8 0 a.code 0 0)
  | .sluTry c d a b e => some (c.raw 0xD5 0#8 d.code a.code b.code e.code)
  | .vgrow c a => some (c.raw 0xD6 0#8 0 a.code 0 0)
  | .vshrink c a => some (c.raw 0xD7 0#8 0 a.code 0 0)
  | .launch c d a b => some (c.raw 0xD8 0#8 d.code a.code b.code 0)
  | .csrr c d num => some (c.raw 0xD9 0#8 d.code 0 num 0)
  | .csrw c a num => some (c.raw 0xDA 0#8 0 a.code num 0)
  | .segLd c sg a => some (c.raw 0xDB (sg.code ++ 0#5) 0 a.code 0 0)
  | .tlbInv c k => some (c.raw 0xDC k.mod 0 k.aField k.bField 0)
  | .xcLoad c h a b => some (c.rawCop 0 1 h a b)
  | .xcStore c h a b => some (c.rawCop 0 2 h a b)
  | .xcMcast c h a b => some (c.rawCop 0 3 h a b)
  | .xcGather c h a b => some (c.rawCop 0 4 h a b)
  | .xcScatter c h a b => some (c.rawCop 0 5 h a b)
  | .xcFill c h a b => some (c.rawCop 0 6 h a b)
  | .xcPeer c h a b => some (c.rawCop 0 7 h a b)
  | .xcCsum c h a b => some (c.rawCop 0 8 h a b)
  | .basAxpby c h a b => some (c.rawCop 1 1 h a b)
  | .basScal c h a b => some (c.rawCop 1 2 h a b)
  | .basSgd c h a b => some (c.rawCop 1 3 h a b)
  | .basMom c h a b => some (c.rawCop 1 4 h a b)
  | .basSum c h a b => some (c.rawCop 1 5 h a b)
  | .basFill c h a b => some (c.rawCop 1 6 h a b)
  | .basCopy c h a b => some (c.rawCop 1 7 h a b)
  | .basCvt c h a b => some (c.rawCop 1 8 h a b)
  | .basStat c h a b => some (c.rawCop 1 9 h a b)
  | .tierCfg c h a b => some (c.rawCop 2 1 h a b)
  | .tierRank c h a b => some (c.rawCop 2 2 h a b)
  | .tierMig c h a b => some (c.rawCop 2 3 h a b)
  | .tierAge c h a b => some (c.rawCop 2 4 h a b)
  | .tierPin c h a b => some (c.rawCop 2 5 h a b)
  | .prsDraw c h a b => some (c.rawCop 3 1 h a b)
  | .prsFrame c h a b => some (c.rawCop 3 2 h a b)
  | .prsPresent c h a b => some (c.rawCop 3 3 h a b)
  | .prsReproj c h a b => some (c.rawCop 3 4 h a b)
  | .trcMark c h a b => some (c.rawCop 4 1 h a b)
  | .trcFlush c h a b => some (c.rawCop 4 2 h a b)
  | .trcSample c h a b => some (c.rawCop 4 3 h a b)
  | .stwKeyspill c h a b => some (c.rawCop 15 1 h a b)
  | .stwDump c h a b => some (c.rawCop 15 2 h a b)
  | .softError => none
  | .cxlLinkRecovery => none
  | .tlb2Lookup => none

/-- The word of an instruction (R264, R265, R274). -/
def encode (i : Instr) : Option (BitVec 64) := (encodeRaw i).map Raw.word

/-- Why a word is no instruction (R275). -/
inductive DecodeError
  /-- A reserved opcode, engine function, MOD, MOD3 or MODX code, or a reserved special. -/
  | reservedCode
  /-- An operand outside its field's kinds, a bad pair, a combination the entry refuses, or LA or SLOT on an
  instruction that is not long-latency. -/
  | illFormed
  /-- A non-zero unused field or an unnamed bit that is 1. -/
  | unusedField
  deriving DecidableEq, Repr

/-- The instruction of a word, or why there is none (R275). -/
def decode (w : BitVec 64) : Except DecodeError Instr :=
  match (Raw.ofWord w).instr with
  | none => .error .reservedCode
  | some i => if !i.wf then .error .illFormed else if encode i = some w then .ok i else .error .unusedField

/-- The word an instruction place holds for eight bytes, first byte lowest (R20, R260). -/
def wordOfBytes (bs : List Byte) : BitVec 64 := bs.foldr (fun b acc => acc <<< 8 ||| b.setWidth 64) 0

/-- Decoding bytes: the instruction of the first eight and the bytes that follow them; none for fewer than eight
bytes or a word that is no instruction. -/
def decodeBytes (bs : List Byte) : Option (Instr × List Byte) :=
  if bs.length < 8 then none
  else match decode (wordOfBytes (bs.take 8)) with
    | .ok i => some (i, bs.drop 8)
    | .error _ => none

/-- The instruction the decoder reads from an instruction whose bits are `w`, bit 0 the least significant bit of the
64-bit word (R264). Every encoded row of the opcode table is one 64-bit word; a row without an encoding has no bits. -/
def decodeTableWord (nbits w : Nat) : Option Instr :=
  match decode (BitVec.ofNat 64 (w % 2 ^ nbits)) with
  | .ok i => some i
  | .error _ => none

end Sys2Proof
end

