-- ==== Sys2Proof/Machine/Flags.lean ====
section
/-! DEFINITION. The sticky flags of a strand (R36). -/
namespace Sys2Proof.Machine

/-- The five sticky flags, laid out as FSTAT reads them (R36): NV, DZ, OF, UF, NX from bit 0 up. -/
abbrev Flags := BitVec 5

/-- No flag. -/
def noFlag : Flags := 0
/-- Invalid. -/
def flagNV : Flags := 0b00001
/-- Divide. -/
def flagDZ : Flags := 0b00010
/-- Overflow. -/
def flagOF : Flags := 0b00100
/-- Underflow. -/
def flagUF : Flags := 0b01000
/-- Inexact. -/
def flagNX : Flags := 0b10000

/-- A flag raised under a condition. -/
def flagIf (c : Bool) (f : Flags) : Flags := if c then f else noFlag

/-- The word FSTAT reads (R36). -/
def flagsWord (f : Flags) : Word := f.setWidth 32

end Sys2Proof.Machine
end

