-- ==== Sys2Proof/Machine/Float.lean ====
section
/-! DEFINITION. Floating point (R20-R39, R52): each code has an exact value, each operation forms its exact result and
rounds it once (R32). Codes are natural numbers below 2 to the width. -/
namespace Sys2Proof.Machine

/-- The exact value of a code: a NaN, an infinity, or a signed dyadic m × 2^e. The sign of a zero is kept. -/
inductive FVal
  | nan (signalling : Bool)
  | inf (neg : Bool)
  | fin (neg : Bool) (m : Nat) (e : Int)
  deriving DecidableEq, Repr

/-- Layout of a binary floating format (R23). `maxCode` is the magnitude code of the largest finite value. -/
structure FFormat where
  width : Nat
  mbits : Nat
  bias  : Nat
  infs  : Bool
  maxCode : Nat
  nanCode : Nat
  deriving DecidableEq, Repr

/-- The layouts of R23. -/
def ff32 : FFormat := ⟨32, 23, 127, true, 0x7F7FFFFF, 0x7FC00000⟩
def ff16 : FFormat := ⟨16, 10, 15, true, 0x7BFF, 0x7E00⟩
def ffBf16 : FFormat := ⟨16, 7, 127, true, 0x7F7F, 0x7FC0⟩
def ffE4m3 : FFormat := ⟨8, 3, 7, false, 0x7E, 0x7F⟩
def ffE5m2 : FFormat := ⟨8, 2, 15, true, 0x7B, 0x7E⟩

/-- The sign bit of a format. -/
def FFormat.sign (f : FFormat) (neg : Bool) : Nat := if neg then 2 ^ (f.width - 1) else 0

/-- The exact value of a code (R24, R25). -/
def FFormat.decode (f : FFormat) (c : Nat) : FVal :=
  let neg := c / 2 ^ (f.width - 1) % 2 == 1
  let mag := c % 2 ^ (f.width - 1)
  let e := mag / 2 ^ f.mbits
  let m := mag % 2 ^ f.mbits
  if mag > f.maxCode then
    if f.infs && mag == f.maxCode + 1 then .inf neg
    else .nan (f.infs && m / 2 ^ (f.mbits - 1) == 0)
  else if e == 0 then .fin neg m (1 - (f.bias : Int) - f.mbits)
  else .fin neg (m + 2 ^ f.mbits) ((e : Int) - f.bias - f.mbits)

/-- Number of bits of a natural number. -/
def bitLen (m : Nat) : Nat := if m = 0 then 0 else m.log2 + 1

/-- m × 2^(−k) rounded to an integer under a mode (R31), and whether it was inexact. A shift beyond the number's
length leaves less than a half. -/
def roundShift (rm : Rnd) (neg : Bool) (m : Nat) (k : Int) : Nat × Bool :=
  if k ≤ 0 then (m <<< (-k).toNat, false)
  else
    let kn := k.toNat
    let far := bitLen m < kn
    let q := if far then 0 else m >>> kn
    let r := if far then m else m % 2 ^ kn
    let aboveHalf := !far && r > 2 ^ (kn - 1)
    let half := !far && r == 2 ^ (kn - 1)
    let up := match rm with
      | .rne => aboveHalf || (half && q % 2 == 1)
      | .rtz => false
      | .rdn => neg && r != 0
      | .rup => !neg && r != 0
    (if up then q + 1 else q, r != 0)

/-- What an overflowing result becomes (R33). -/
def FFormat.overflow (f : FFormat) (rm : Rnd) (sat neg : Bool) : Nat :=
  if sat then f.sign neg + f.maxCode
  else if !f.infs then f.nanCode
  else match rm, neg with
    | .rne, _ => f.sign neg + (f.maxCode + 1)
    | .rtz, _ => f.sign neg + f.maxCode
    | .rdn, false => f.maxCode
    | .rdn, true => f.sign true + (f.maxCode + 1)
    | .rup, false => f.maxCode + 1
    | .rup, true => f.sign true + f.maxCode

/-- A finite dyadic rounded once into a format (R32-R34): the code and the flags. A zero keeps its sign. -/
def FFormat.roundFin (f : FFormat) (rm : Rnd) (sat ftz neg : Bool) (m : Nat) (e : Int) : Nat × Flags :=
  if m = 0 then (f.sign neg, noFlag)
  else
    let emin : Int := 1 - (f.bias : Int)
    let top : Int := (bitLen m : Int) - 1 + e
    let ovf := (f.overflow rm sat neg, flagOF ||| flagNX)
    if top > (f.bias : Int) + 2 then ovf
    else
      let qu := top - f.mbits
      let qmin := emin - f.mbits
      let q := max qu qmin
      let (n, inexact) := roundShift rm neg m (q - e)
      let (nu, _) := roundShift rm neg m (qu - e)
      let tiny := qu < qmin && (bitLen nu : Int) - 1 + qu < emin
      let code :=
        if n < 2 ^ f.mbits then n
        else
          let carry := bitLen n > f.mbits + 1
          let n' := if carry then n / 2 else n
          let q' := if carry then q + 1 else q
          ((q' + f.mbits + f.bias).toNat) * 2 ^ f.mbits + (n' - 2 ^ f.mbits)
      if code > f.maxCode then ovf
      else if ftz && code < 2 ^ f.mbits && 0 < code then (f.sign neg, flagUF ||| flagNX)
      else (f.sign neg + code, flagIf inexact flagNX ||| flagIf (tiny && inexact) flagUF)

/-- An operation's exact result put into a format: NaN becomes the canonical NaN (R25), an infinity stays (R33). -/
def FFormat.put (f : FFormat) (rm : Rnd) (ftz : Bool) (x : FVal) : Nat × Flags :=
  match x with
  | .nan _ => (f.nanCode, noFlag)
  | .inf neg => (f.sign neg + (f.maxCode + 1), noFlag)
  | .fin neg m e => f.roundFin rm false ftz neg m e

/-- Reading an FP32 operand: under .ftz a subnormal reads as the zero of its sign (R34). -/
def readF32 (ftz : Bool) (w : Word) : FVal :=
  match ff32.decode w.toNat with
  | .fin neg m e => if ftz && m < 2 ^ 23 then .fin neg 0 e else .fin neg m e
  | x => x

/-- NV for a signalling NaN among the operands (R25). -/
def snanFlag (xs : List FVal) : Flags := flagIf (xs.any (· == .nan true)) flagNV

/-- The exact product, and whether it was 0 × ∞. -/
def mulV (a b : FVal) : FVal × Bool :=
  match a, b with
  | .nan s, _ => (.nan s, false)
  | _, .nan s => (.nan s, false)
  | .inf n, .inf n' => (.inf (n != n'), false)
  | .inf n, .fin n' m _ => if m = 0 then (.nan false, true) else (.inf (n != n'), false)
  | .fin n m _, .inf n' => if m = 0 then (.nan false, true) else (.inf (n != n'), false)
  | .fin n m e, .fin n' m' e' => (.fin (n != n') (m * m') (e + e'), false)

/-- A finite value as a signed multiple of 2^e, for e no greater than its exponent. -/
def FVal.scaled (e : Int) : FVal → Int
  | .fin neg m e' => let x : Int := (m <<< (e' - e).toNat : Nat); if neg then -x else x
  | _ => 0

/-- The exponent of a finite value; others do not lower the common exponent. -/
def FVal.expo : FVal → Option Int
  | .fin _ 0 _ => none
  | .fin _ _ e => some e
  | _ => none

/-- The least exponent among non-zero finite values. -/
def minExpo (xs : List FVal) : Int :=
  (xs.filterMap FVal.expo).foldl (fun (acc : Option Int) e => some (match acc with | none => e | some a => min a e)) none
    |>.getD 0

/-- Whether a value's sign bit is set. -/
def FVal.isNeg : FVal → Bool
  | .nan _ => false
  | .inf n => n
  | .fin n _ _ => n

/-- The exact sum of finite values, an exact zero signed by R35. -/
def sumFin (rm : Rnd) (xs : List FVal) : FVal :=
  let e := minExpo xs
  let t : Int := xs.foldl (fun acc x => acc + (match x with | .fin _ 0 _ => 0 | y => y.scaled e)) 0
  if t = 0 then
    let allNeg := xs.all (·.isNeg)
    let mixed := xs.any (·.isNeg) && xs.any (fun x => !x.isNeg)
    .fin (allNeg || (mixed && rm == .rdn)) 0 0
  else .fin (t < 0) t.natAbs e

/-- The exact sum with its special values (R41): a NaN, both infinities, or one. The flag says ∞ − ∞. -/
def sumV (rm : Rnd) (xs : List FVal) : FVal × Bool :=
  if xs.any (fun x => match x with | .nan _ => true | _ => false) then (.nan false, false)
  else
    let p := xs.any (· == .inf false)
    let n := xs.any (· == .inf true)
    if p && n then (.nan false, true)
    else if p then (.inf false, false)
    else if n then (.inf true, false)
    else (sumFin rm xs, false)

/-- Negation, NaN unchanged. -/
def FVal.negate : FVal → FVal
  | .nan s => .nan s
  | .inf n => .inf (!n)
  | .fin n m e => .fin (!n) m e

/-- A sum rounded into a format, with NV for a signalling operand and for ∞ − ∞ (R379, R402). -/
def FFormat.add (f : FFormat) (rm : Rnd) (ftz : Bool) (a b : FVal) : Nat × Flags :=
  let (s, inv) := sumV rm [a, b]
  let (c, fl) := f.put rm ftz s
  (c, fl ||| flagIf inv flagNV ||| snanFlag [a, b])

/-- A product rounded into a format. -/
def FFormat.mul (f : FFormat) (rm : Rnd) (ftz : Bool) (a b : FVal) : Nat × Flags :=
  let (p, inv) := mulV a b
  let (c, fl) := f.put rm ftz p
  (c, fl ||| flagIf inv flagNV ||| snanFlag [a, b])

/-- A fused multiply-add with a single rounding; 0 × ∞ sets NV whatever the addend is (R383). -/
def FFormat.fma (f : FFormat) (rm : Rnd) (ftz : Bool) (a b c : FVal) : Nat × Flags :=
  let (p, inv) := mulV a b
  let (s, inv') := sumV rm [p, c]
  let (code, fl) := f.put rm ftz s
  (code, fl ||| flagIf (inv || inv') flagNV ||| snanFlag [a, b, c])

/-- Less-than on values that are not NaN, with −0 below +0 when `signedZero` (R52). -/
def ltV (signedZero : Bool) (a b : FVal) : Bool :=
  match a, b with
  | .inf true, .inf true => false
  | .inf true, _ => true
  | _, .inf true => false
  | .inf false, _ => false
  | _, .inf false => true
  | .fin n 0 _, .fin n' 0 _ => signedZero && n && !n'
  | .fin .., .fin .. =>
    let e := minExpo [a, b]
    let x := match a with | .fin _ 0 _ => 0 | y => y.scaled e
    let y := match b with | .fin _ 0 _ => 0 | z => z.scaled e
    x < y
  | _, _ => false

/-- Whether a value is a NaN. -/
def FVal.isNan : FVal → Bool
  | .nan _ => true
  | _ => false

/-- Minimum or maximum (R52): one NaN yields the other operand, two the canonical NaN; a signalling one sets NV. The
operand's code is returned unchanged, flushed under .ftz as it was read. -/
def FFormat.minMax (f : FFormat) (isMax : Bool) (a b : FVal) : Nat × Flags :=
  let fl := snanFlag [a, b]
  let r := if a.isNan then b else if b.isNan then a
    else if isMax then (if ltV true a b then b else a) else (if ltV true b a then b else a)
  ((f.put .rne false r).1, fl)

/-- FCMP (R386). -/
def fcmpV (cond : Cond) (a b : FVal) : Bool × Flags :=
  let un := a.isNan || b.isNan
  let lt := !un && ltV false a b
  let gt := !un && ltV false b a
  let ordered := match cond with
    | .lt | .le | .gt | .ge => true
    | _ => false
  let r := match cond with
    | .eq => !un && !lt && !gt
    | .ne => un || lt || gt
    | .lt => lt
    | .le => !un && !gt
    | .gt => gt
    | .ge => !un && !lt
    | .ord => !un
    | .unord => un
  (r, flagIf (un && ordered) flagNV ||| snanFlag [a, b])

/-- FCLASS (R387). -/
def fclassV (w : Word) : Word :=
  match ff32.decode w.toNat with
  | .inf true => 1#32 <<< 0
  | .inf false => 1#32 <<< 7
  | .nan true => 1#32 <<< 8
  | .nan false => 1#32 <<< 9
  | .fin neg m _ =>
    let k := if m = 0 then (if neg then 3 else 4)
      else if m < 2 ^ 23 then (if neg then 2 else 5)
      else (if neg then 1 else 6)
    1#32 <<< k

/-- FRND: the integral value nearest under a mode, keeping the sign, never inexact (R388). -/
def frndV (rm : Rnd) (a : FVal) : Nat × Flags :=
  match a with
  | .nan s => (ff32.nanCode, flagIf s flagNV)
  | .inf n => (ff32.sign n + (ff32.maxCode + 1), noFlag)
  | .fin n m e => ((ff32.roundFin rm false false n (roundShift rm n m (-e)).1 0).1, noFlag)

/-- FSCALE: a × 2^k rounded once (R389). -/
def fscaleV (rm : Rnd) (ftz : Bool) (a : FVal) (k : Int) : Nat × Flags :=
  let (c, fl) := ff32.put rm ftz (match a with | .fin n m e => .fin n m (e + k) | x => x)
  (c, fl ||| snanFlag [a])

/-! LNS6 (R27-R29). -/

/-- The fraction table of R27. -/
def lnsT (f : Nat) : Nat :=
  match f with
  | 0 => 128
  | 1 => 152
  | 2 => 181
  | _ => 215

/-- The logarithm field as a signed number of quarters. -/
def lnsL (c : Nat) : Int := (BitVec.ofNat 5 c).toInt

/-- The exact value of an LNS6 code; bits 7 and 6 of its byte are ignored (R20, R27). -/
def lnsDecode (c : Nat) : FVal :=
  let neg := c / 32 % 2 == 1
  let l := lnsL c
  if l = -16 then .fin neg 0 0
  else .fin neg (lnsT (l % 4).toNat) (l / 4 - 7)

/-- Whether (m × 2^e)^8 is below 2^(2k + 1): log2 of the magnitude below (2k + 1)/8. -/
def belowEighth (m : Nat) (e : Int) (k : Int) : Bool :=
  let s : Int := 2 * k + 1 - 8 * e
  if s < 0 then false else m ^ 8 < 2 ^ s.toNat

/-- The least quarter count from −15 whose upper bound the magnitude lies under; 16 when it is too large (R28). -/
def lnsNearest (m : Nat) (e : Int) : Nat → Int → Int
  | 0, k => k
  | fuel + 1, k => if belowEighth m e k then k else lnsNearest m e fuel (k + 1)

/-- Encoding a value as LNS6 (R28). -/
def lnsEncode (x : FVal) : Nat × Flags :=
  match x with
  | .nan _ => (0x10, flagNV)
  | .inf n => ((if n then 32 else 0) + 15, flagOF ||| flagNX)
  | .fin n 0 _ => ((if n then 32 else 0) + 16, noFlag)
  | .fin n m e =>
    let s := if n then 32 else 0
    let top : Int := (bitLen m : Int) - 1 + e
    if top ≥ 4 then (s + 15, flagOF ||| flagNX)
    else if top < -5 || belowEighth m e (-16) then (s + 16, flagUF ||| flagNX)
    else
      let k := lnsNearest m e 31 (-15)
      if k ≥ 16 then (s + 15, flagOF ||| flagNX)
      else
        let c := s + (BitVec.ofInt 5 k).toNat
        (c, flagIf (ltV false (lnsDecode c) x || ltV false x (lnsDecode c)) flagNX)

/-- The product of two LNS6 codes in units of 2^−16 (R29). -/
def lnsProduct (a b : Nat) : Int :=
  let la := lnsL a
  let lb := lnsL b
  if la = -16 || lb = -16 then 0
  else
    let l := la + lb
    let mag : Int := (lnsT (l % 4).toNat : Int) * 2 ^ (l / 4 + 9).toNat
    if (a / 32 % 2 == 1) != (b / 32 % 2 == 1) then -mag else mag

/-! Conversions (R38, R39). -/

/-- The layout of a float-class format; LNS6 and the others have none. -/
def Fmt.layout : Fmt → Option FFormat
  | .f32 => some ff32
  | .f16 => some ff16
  | .bf16 => some ffBf16
  | .e4m3 => some ffE4m3
  | .e5m2 => some ffE5m2
  | _ => none

/-- The exact value of the low bits of a word read in a float-class format. -/
def fmtValue (f : Fmt) (c : Nat) : FVal :=
  match Fmt.layout f with
  | some l => l.decode (c % 2 ^ l.width)
  | none => lnsDecode c

/-- A value converted into a float-class format (R33, R38, R28). -/
def fmtConvert (f : Fmt) (rm : Rnd) (sat ftz : Bool) (x : FVal) : Nat × Flags :=
  match Fmt.layout f with
  | none => lnsEncode x
  | some l =>
    match x with
    | .nan s => (l.nanCode, flagIf s flagNV)
    | .inf n =>
      if sat then (l.sign n + l.maxCode, flagNX)
      else if l.infs then (l.sign n + (l.maxCode + 1), noFlag)
      else (l.nanCode, flagNV)
    | .fin n m e => l.roundFin rm sat (ftz && f == .f32) n m e

/-- FCVT (R390). A conversion into the source's own format returns the value itself, NaNs made canonical. -/
def fcvtV (df sf : Fmt) (rm : Rnd) (sat ftz : Bool) (x : FVal) : Nat × Flags :=
  if df == sf then fmtConvert df .rne false ftz x else fmtConvert df rm sat ftz x

/-- The width of an integer format in bits (R21). -/
def intWidth (f : Fmt) : Nat := f.width

/-- Signed integer formats (R21). -/
def Fmt.signed : Fmt → Bool
  | .i4 | .i8 | .i16 | .i32 | .i64 => true
  | _ => false

/-- The range of an integer format (R26). -/
def intRange (f : Fmt) : Int × Int :=
  let w := intWidth f
  if Fmt.signed f then (-(2 ^ (w - 1)), 2 ^ (w - 1) - 1) else (0, 2 ^ w - 1)

/-- Clamping to a range, and whether the value changed (R26). -/
def clampInt (f : Fmt) (x : Int) : Int × Bool :=
  let (lo, hi) := intRange f
  if x < lo then (lo, true) else if x > hi then (hi, true) else (x, false)

/-- An exact integer put into a format: wrapped, or saturated with OF (R26, R332). The result is the code. -/
def putInt (f : Fmt) (sat : Bool) (x : Int) : Nat × Flags :=
  let (y, ch) := if sat then clampInt f x else (x, false)
  ((y % (2 ^ intWidth f : Nat)).toNat, flagIf ch flagOF)

/-- The integer of the low bits of a value, read in a format (R26, R376). -/
def intValue (f : Fmt) (c : Nat) : Int :=
  let w := intWidth f
  let x := c % 2 ^ w
  if Fmt.signed f && x ≥ 2 ^ (w - 1) then (x : Int) - (2 ^ w : Nat) else x

/-- FTOI: rounded by the mode, then saturated (R39, R391). -/
def ftoiV (ty : Fmt) (rm : Rnd) (x : FVal) : Nat × Flags :=
  let code (y : Int) : Nat := (y % (2 ^ intWidth ty : Nat)).toNat
  match x with
  | .nan _ => (0, flagNV)
  | .inf n => (code (if n then (intRange ty).1 else (intRange ty).2), flagNV)
  | .fin n m e =>
    let top : Int := (bitLen m : Int) - 1 + e
    if m != 0 && top > 70 then (code (if n then (intRange ty).1 else (intRange ty).2), flagNV)
    else
      let (k, inexact) := roundShift rm n m (-e)
      let y : Int := if n then -(k : Int) else k
      let (z, ch) := clampInt ty y
      (code z, if ch then flagNV else flagIf inexact flagNX)

/-- An integer as an exact value. -/
def intFVal (x : Int) : FVal := .fin (x < 0) x.natAbs 0

/-- ITOF (R38, R392). -/
def itofV (rm : Rnd) (x : Int) : Nat × Flags := ff32.put rm false (intFVal x)

end Sys2Proof.Machine
end

