-- ==== Sys2Proof/Config.lean ====
section
/-! DEFINITION. The free values: what the specification leaves open and the machine still produces. Each is an opaque
constant without a body, so that no proof can lean on a value of it. Most take the draw number that the state's
counter `free` supplies, so that two draws are unrelated. -/
namespace Sys2Proof.Config

/-- A word the specification leaves undefined, by draw number (log 12). -/
opaque freeWord : Nat → Word

/-- A byte the specification leaves undefined, by draw number (log 12). -/
opaque freeByte : Nat → Byte

/-- A choice the specification leaves to the device, by draw number (log 12). -/
opaque freeNat : Nat → Nat

/-- The result code of a special function at an operand where the two ends of the model's bracket of the exact value
round apart, by function index and operand (log 13). -/
opaque sfuValue : Nat → Word → Word

/-- How many tile steps beyond the first a core's receive buffer holds (R14). -/
opaque receiveSteps : Nat

/-- One step of a channel's neighbour-refresh LFSR, whose polynomial the specification does not give (R192). -/
opaque lfsrStep : BitVec 32 → BitVec 32

/-- The four check symbols of 32 data bytes in symbol grade, whose Reed-Solomon code the specification does not give
(R188). -/
opaque symbolChecks : BitVec 256 → BitVec 32

/-- What the decoder makes of wrong bits beyond a grade's reach (R188): 0 OK, 1 CE, 2 UC, modulo 3, and the stored data
bits that a miscorrection turns over. -/
opaque eccBeyond : Nat → BitVec 288 → Nat × BitVec 256

/-- Whether a signature over some bytes verifies against the firmware-signing root, by the HSS standard (R532). -/
opaque hssValid : List Byte → List Byte → Bool

/-- The signature of a per-boot tree, by the draw of its seed, its leaf and the bytes signed (R540). -/
opaque lmsSign : Nat → Nat → List Byte → List Byte

/-- A per-boot tree's public key, by the draw of its seed (R541). -/
opaque lmsPublic : Nat → List Byte

/-- The identity tree's public key, and its signature with a leaf over some bytes (R533, R541). -/
opaque identityPublic : List Byte
opaque identitySign : Nat → List Byte → List Byte

end Sys2Proof.Config
end

