-- ==== Sys2Proof/Machine/Tab.lean ====
section
/-! DEFINITION. Sparse tables: keys rising, one value each, a default elsewhere. The machine's many like units (cores,
clusters, slots, registers) are held so. -/
namespace Sys2Proof.Machine

/-- A sparse table of values by number. -/
abbrev Tab (α : Type) := List (Nat × α)

/-- The value at a key, `d` where none is listed. -/
def Tab.get {α : Type} (t : Tab α) (d : α) (k : Nat) : α :=
  match t with
  | [] => d
  | (k', v) :: r => if k = k' then v else Tab.get r d k

/-- The table with one value replaced or added in key order. -/
def Tab.set {α : Type} (t : Tab α) (k : Nat) (v : α) : Tab α :=
  match t with
  | [] => [(k, v)]
  | (k', v') :: r => if k = k' then (k, v) :: r else if k < k' then (k, v) :: (k', v') :: r else (k', v') :: Tab.set r k v

/-- The value at a key if one is listed. -/
def Tab.find {α : Type} (t : Tab α) (k : Nat) : Option α :=
  match t with
  | [] => none
  | (k', v) :: r => if k = k' then some v else Tab.find r k

/-- The table without a key. -/
def Tab.del {α : Type} (t : Tab α) (k : Nat) : Tab α := t.filter (fun e => e.1 != k)

/-- The listed keys. -/
def Tab.keys {α : Type} (t : Tab α) : List Nat := t.map (·.1)

/-- Insert a number into a rising list. -/
def insertNat (xs : List Nat) (k : Nat) : List Nat :=
  match xs with
  | [] => [k]
  | x :: r => if k = x then x :: r else if k < x then k :: x :: r else x :: insertNat r k

/-- Replace the element at a position. -/
def setAt {α : Type} (xs : List α) (i : Nat) (v : α) : List α := xs.set i v

/-- Remove the element at a position. -/
def dropAt {α : Type} (xs : List α) (i : Nat) : List α := xs.eraseIdx i

/-- The first number of a range that meets a condition. -/
def firstFrom (p : Nat → Bool) : Nat → Nat → Option Nat
  | 0, _ => none
  | fuel + 1, k => if p k then some k else firstFrom p fuel (k + 1)

end Sys2Proof.Machine
end

