-- ==== Sys2Proof/Machine/Memory.lean ====
section
/-! DEFINITION. Bytes of every space, in one canonical list (log 1): addresses strictly rising, no entry equal to what
an unlisted address reads as. An address is a number: the space's number times 2^64 plus the address in the space. -/
namespace Sys2Proof.Machine

/-- Cells in canonical form. -/
abbrev Memory := List Host.Cell

/-- What an unlisted address reads as. Global SRAM is 0 at power-up (R164). For the other spaces the specification
gives no value: DESIGN CHOICE 0, log 1. -/
def unlisted (_addr : Nat) : Byte := 0

/-- One byte. -/
def Memory.read (m : Memory) (a : Nat) : Byte :=
  match m with
  | [] => unlisted a
  | (k, b) :: r => if a = k then b else if a < k then unlisted a else Memory.read r a

/-- The memory with one byte written; writing what an unlisted address reads as removes the entry. -/
def Memory.write (m : Memory) (a : Nat) (b : Byte) : Memory :=
  match m with
  | [] => if b = unlisted a then [] else [(a, b)]
  | (k, v) :: r =>
    if a = k then (if b = unlisted a then r else (a, b) :: r)
    else if a < k then (if b = unlisted a then (k, v) :: r else (a, b) :: (k, v) :: r)
    else (k, v) :: Memory.write r a b

/-- The canonical form. -/
def Memory.wf (m : Memory) : Bool :=
  match m with
  | [] => true
  | (k, v) :: r => v != unlisted k && (match r with | [] => true | (k', _) :: _ => k < k') && Memory.wf r

/-- Consecutive bytes from an address. -/
def Memory.readList (m : Memory) (a : Nat) : Nat → List Byte
  | 0 => []
  | n + 1 => m.read a :: Memory.readList m (a + 1) n

/-- Consecutive bytes written from an address up. -/
def Memory.writeList (m : Memory) (a : Nat) : List Byte → Memory
  | [] => m
  | b :: bs => Memory.writeList (m.write a b) (a + 1) bs

/-- A little-endian number from bytes (R20). -/
def leNat : List Byte → Nat
  | [] => 0
  | b :: bs => b.toNat + 256 * leNat bs

/-- The bytes of a number, lowest first (R20). -/
def leBytes : Nat → Nat → List Byte
  | 0, _ => []
  | n + 1, x => BitVec.ofNat 8 x :: leBytes n (x / 256)

/-- A little-endian number of n bytes. -/
def Memory.readNat (m : Memory) (a n : Nat) : Nat := leNat (m.readList a n)

/-- A number written as n bytes. -/
def Memory.writeNat (m : Memory) (a n x : Nat) : Memory := m.writeList a (leBytes n x)

/-! Spaces (R54). -/

/-- The bytes of one space. -/
def spaceSize : Nat := 2 ^ 64

/-- Global SRAM, by its own addresses (R168). -/
def sramKey (a : Nat) : Nat := a
/-- Device physical DRAM (R173). -/
def dramKey (a : Nat) : Nat := spaceSize + a
/-- Host memory. -/
def hostKey (a : Nat) : Nat := 2 * spaceSize + a
/-- Hub control space (R166). -/
def hubKey (a : Nat) : Nat := 3 * spaceSize + a
/-- The side-band metadata of the DRAM granule that holds an address: four bytes a granule (R188). -/
def metaKey (a : Nat) : Nat := 4 * spaceSize + a / 32 * 4
/-- Memory of a peer device. -/
def peerKey (p a : Nat) : Nat := (8 + p) * spaceSize + a

/-- The space of a key. -/
def keySpace (k : Nat) : Nat := k / spaceSize
/-- The address within its space. -/
def keyAddr (k : Nat) : Nat := k % spaceSize

end Sys2Proof.Machine
end

