-- ==== Sys2Proof/Machine/Units.lean ====
section
/-! DEFINITION. The parts of a core and of its strands, as plain data. -/
namespace Sys2Proof.Machine

/-- One raised trap: its code (R99), the lanes of LMASK, the address of ADDR and the value of INFO (R101). -/
structure TrapRec where
  code  : Nat
  lanes : LaneMask := 0
  addr  : Nat := 0
  info  : DWord := 0
  deriving DecidableEq, Repr

/-- A trap that waits for its split's next instruction boundary: a late trap (R545) names the instruction that raised
it; an asynchronous one (R99) names none. `kept` says that it stood when its split took another trap. -/
structure WaitingTrap where
  trap : TrapRec
  site : Option (BitVec 48 × Nat)
  kept : Bool := false
  deriving DecidableEq, Repr

/-- What the translation of an access leaves with it: trust domain, ECC grade, cache policy and context (R171, R193). -/
structure Via where
  dom   : Nat := 0
  grade : Nat := 1
  cp    : Nat := 0
  ctx   : Nat := 0
  deriving DecidableEq, Repr

/-- A line entry of a phase buffer: a 64-byte line number, a byte mask and data (R53), and its translation (R193). -/
structure QLine where
  line : Nat
  mask : BitVec 64
  data : BitVec 512
  via  : Via
  deriving DecidableEq, Repr

/-- Who gets a reply: a split's instruction that waits in place, or a pending result of a strand, by its number. -/
structure Target where
  core  : Nat
  slot  : Nat
  split : Nat
  id    : Option Nat
  deriving DecidableEq, Repr

/-- A lane of a request: its number, the key of its word, its operand and, for ACAS, the expected value, and whether
its page may be written (R72). -/
structure ReqLane where
  lane : Nat
  addr : Nat
  key  : Nat
  arg  : DWord
  want : DWord := 0
  canWrite : Bool := true
  via  : Via := {}
  deriving DecidableEq, Repr

/-- The tagged operations (R66). -/
inductive TagOp
  | stt | ldt | ldtk | sttf | rd | clr
  deriving DecidableEq, Repr

/-- A tagged request under way to its homes, or lanes of one that wait to be sent again (R67). -/
structure TagReq where
  target : Target
  op     : TagOp
  lanes  : List ReqLane
  after  : Nat := 0
  deriving DecidableEq, Repr

/-- A parked lane at a home's waiter table (R67). -/
structure Parked where
  target : Target
  op     : TagOp
  lane   : ReqLane
  deriving DecidableEq, Repr

/-- What an atomic request does at the home (R441-R444). -/
inductive AtomKind
  | rmw (op : AOp) | cas | lr | sc
  deriving DecidableEq, Repr

/-- An atomic request in a service queue (R70). `first` is the instruction's lowest lane, for LR and SC (R73). -/
structure AtomReq where
  target : Target
  kind   : AtomKind
  w64    : Bool
  ctx    : Nat
  strand : BitVec 16
  first  : Nat
  lanes  : List ReqLane
  deriving DecidableEq, Repr

/-- A reply on its way back from a service strand: lane, key and value of its lanes, the lanes that failed with address and
code (R70, R72), and whether some lane succeeded. -/
structure AtomReply where
  svc    : Nat
  target : Target
  vals   : List (Nat × Nat × DWord)
  bad    : List (Nat × Nat × Nat)
  won    : Bool
  deriving DecidableEq, Repr

/-- What a packet that crosses a peer link asks for (R507): a store, load or atomic at the peer, by its physical address,
or a reply with its status. A load, store or atomic names itself by a tag. -/
inductive PeerOp
  | store (addr : Nat) (via : Via) (data : List Byte)
  | load (addr n : Nat) (via : Via)
  | atomic (q : AtomReq)
  | reply (status : Nat) (data : List Byte)
  deriving DecidableEq, Repr

/-- A peer flit (R507): its header fields, whether a reserved bit or type stands in it, whether the CRC-32C of beats 0-30
matches beat 31, and the packet that its payload carries, with the packet's own tag. -/
structure Flit where
  vc    : Nat
  seq   : BitVec 14 := 0
  ack   : BitVec 14 := 0
  src   : BitVec 5 := 0
  bseq  : BitVec 14 := 0
  resv  : Bool := false
  crcOk : Bool := true
  tag   : Nat := 0
  body  : PeerOp
  deriving DecidableEq, Repr

/-- The two ends of a peer's bundle (R510): the next BSEQ to send and the next to release by VC, the flits that the
reorder stage holds, and those of an Isolated port that no port left has taken yet (R511). -/
structure Bundle where
  tx   : Tab (BitVec 14) := []
  rx   : Tab (BitVec 14) := []
  held : List Flit := []
  again : List Flit := []
  deriving DecidableEq, Repr

/-- A long-latency result that has not been written (R140, R271): the split and place that issued it, its slot, the
place from which its split waits for it (`gate`), its destinations, the lanes and values it writes, the flags it
raises, the requests without a reply, the acquire that follows the replies (`acq`, or `lose` where no lane of an ACAS
succeeded), the fence that follows an .sc atomic (0 none, 1 due, 2 releasing, 3 awaiting the heartbeat, 4 index taken, 5 due
if a lane of its ACAS succeeded),
the lanes that failed with address and code, the late trap it ends in, and the stall reason under which its replies are
awaited since a tick (R100). `temps` says that its clause still runs, so
that a temporary still takes it; `sfu`, that it comes from the special-function unit (R15). -/
structure Pending where
  id    : Nat
  split : Nat
  slot  : BitVec 3
  pc    : BitVec 48
  pos   : Nat
  gate  : Option Nat
  temps : Bool
  dst   : List Operand
  lanes : LaneMask
  vals  : List LaneVec
  flags : Flags
  owed  : Nat
  acq   : Option Scope
  lose  : Option Scope
  won   : Bool
  fence : Nat
  beat  : Nat
  bad   : List (Nat × Nat × Nat)
  fail  : Option TrapRec
  why   : Nat
  since : Nat
  sfu   : Bool := false
  deriving DecidableEq, Repr

/-- A clause whose words are latched (R276): header address, words, the place that issues next, whether the header or
a YIELD gives the scheduler up, and, for an instruction a late trap replays alone, where the split goes on (R545). -/
structure Clause where
  h     : BitVec 48
  words : List (BitVec 64)
  pos   : Nat
  yields : Bool
  alone : Option (BitVec 48 × Nat)
  deriving DecidableEq, Repr

/-- Where and how a split's next clause begins: at which place, whether its header is waited on, whether temporaries
are kept, and where a lone replay goes on (R101, R545). -/
structure Entry where
  pos   : Nat := 0
  waits : Bool := true
  keep  : Bool := false
  alone : Option (BitVec 48 × Nat) := none
  deriving DecidableEq, Repr

/-- What a split waits for after its clause (R285, R426). -/
inductive WaitKind
  /-- SLEEP and SLEEPU: until a tick (R295). -/
  | sleep (wake : Nat)
  /-- BAR and BARP at a crew's barrier: the crew identifier, whether an acquire follows, and BARP's destination. -/
  | barrier (crew : Word) (acq : Bool) (dst : Option Operand)
  /-- BAR.launch: the launch. -/
  | launchBar (launch : Nat) (acq : Bool)
  /-- A phase that completed while the strand was saved: the acquire's scope and the result (R155). -/
  | barDone (acq : Option Scope) (dst : Option Operand) (val : Word)
  /-- SLU.IN: its number, lanes not yet granted, the lanes granted so far that were abandoned, every lane's key, and the
  destination (R214). -/
  | sluIn (ask : Nat) (left : LaneMask) (abandoned : LaneMask) (keys : List (Nat × DWord)) (dst : Operand)
  /-- SLU.OUT: acknowledgements outstanding. -/
  | sluOut (left : Nat)
  /-- VGROW: the count asked for, and whether it was granted as it was asked for (R141). -/
  | vgrow (count : Nat) (sure : Bool)
  /-- HWAIT: the handle, whether an acquire follows, and the destination of .nt (R162). -/
  | handle (h : DWord) (acq : Bool) (nt : Option Operand)
  /-- HPROM: the handle (R162). -/
  | promise (h : DWord)
  /-- BCB.WAIT: the barrier's key and the parity waited on; where the home does not hold it, the tick from which its
  core sends it (again); and whether it has been woken with the ranges to acquire over, none meaning all of .dev
  (R67, R75, R159). -/
  | bcb (key : Nat) (parity : Bool) (again : Option Nat) (woken : Option (Option (List (Nat × Nat))))
  deriving DecidableEq, Repr

/-- One wait after a clause: what for, the place that asked, its effective lanes, the tick it began, and whether the
split was in handler mode. -/
structure Wait where
  kind  : WaitKind
  pc    : BitVec 48
  pos   : Nat
  lanes : LaneMask
  since : Nat
  hm    : Bool
  deriving DecidableEq, Repr

/-- Progress of an instruction that waits in place: its stage (0 at the start), whether its line drain is over, its
release (0 not begun, 1 waiting, 2 complete, 3 lost with its peer, 4 complete and reported) and that release's scope,
whether it is a fence's, the heartbeat waited for or taken (R68), a tick, lanes done, values it keeps between issues,
the number its section requests carry, and the trap they end in. -/
structure Prog where
  stage : Nat := 0
  drained : Bool := false
  rel   : Nat := 0
  fences : Bool := false
  beat  : Option (Option Nat) := none
  scope : Option Scope := none
  tick  : Nat := 0
  lanes : LaneMask := 0
  won   : LaneMask := 0
  nums  : List Nat := []
  vals  : LaneVec := []
  ask   : Nat := 0
  fail  : Option TrapRec := none
  deriving DecidableEq, Repr

/-- The states of a split (R129, R130). -/
inductive SplitState
  | free | ready | waiting | parked | handler
  deriving DecidableEq, Repr

/-- A split table entry (R129) with the split's clause and its waits. AGE is the strand's (R129). `reconv` is the header of
a clause with RECONV after which it parks, and the header that follows it in memory (R134). -/
structure Split where
  pc     : BitVec 48 := 0
  state  : SplitState := .free
  hm     : Bool := false
  ndef   : Nat := 0
  own    : LaneMask := 0
  mask   : LaneMask := 0
  clause : Option Clause := none
  temps  : Tab LaneVec := []
  tickHi : Option Word := none
  smpIter : Nat := 0
  prog   : Prog := {}
  waits  : List Wait := []
  stall  : Nat := 0
  since  : Nat := 0
  traps  : List WaitingTrap := []
  entry  : Entry := {}
  reconv : Option (BitVec 48 × BitVec 48) := none
  deriving DecidableEq, Repr

/-- The states of a strand (R128). -/
inductive StrandState
  | vacant | resident | saved | exited
  deriving DecidableEq, Repr

/-- What a strand was placed for: a launch crew, vertices of a draw, or fragments of a draw (R121, R232, R249). -/
inductive StrandKind
  | plain
  | vertex (draw : Nat) (first : Nat)
  | fragment (draw : Nat)
  deriving DecidableEq, Repr

/-- What a fragment or vertex strand holds and stages per lane: the lane's interval record, a colour or clip position,
a depth, and attributes (R250, R251, R325). -/
structure Staged where
  recs  : Tab (BitVec 512) := []
  vec   : Tab (List Word) := []
  depth : Tab Word := []
  attrs : Tab (Tab Word) := []
  deriving DecidableEq, Repr

/-- A TMV or FIRE.RD whose outcome may still be a late trap (R545): its number, split, place and effective lanes. -/
structure LateMark where
  id    : Nat
  split : Nat
  pc    : BitVec 48
  pos   : Nat
  lanes : LaneMask
  deriving DecidableEq, Repr

/-- A strand slot's contents (R128) and everything R147 saves of it. `formed` says that every member of its gang has
written GANG (R146). Of a saved strand, `tagged` are the lanes to send again (R77), `slotWas` its slot, `savedAt` the offset
of its registers in its cluster's block, and `grew` that a deadlock break had saved it before (R142). -/
structure Strand where
  state  : StrandState := .vacant
  ctx    : Nat := 0
  number : BitVec 16 := 0
  launch : Option Nat := none
  crewIx : Word := 0
  home   : Option Word := none
  placed : Option Nat := none
  crews  : List Word := []
  kind   : StrandKind := .plain
  age    : Nat := 0
  nregs  : Nat := 0
  gStart : Nat := 0
  rmax   : Nat := 0
  scratch : Nat := 0
  window : Nat := 0
  v      : Tab LaneVec := []
  s      : Tab Word := []
  p      : Tab LaneMask := []
  h      : Tab DWord := []
  cb     : Tab (BitVec 256) := []
  gang   : BitVec 128 := 0
  formed : Bool := false
  flags  : Flags := 0
  segs   : Tab (BitVec 128) := []
  results : List Pending := []
  marks  : List LateMark := []
  splits : Tab Split := []
  staged : Staged := {}
  held   : Nat := 0
  token  : Bool := false
  lastIssue : Nat := 0
  slotWas : Nat := 0
  savedAt : Nat := 0
  grew   : Bool := false
  tagged : List TagReq := []
  deriving DecidableEq, Repr

/-- The tags of an accumulator tile (R459). -/
inductive TileTag
  | free | f | i | l | q
  deriving DecidableEq, Repr

/-- An accumulator tile (R10, R44, R459): tag, 64 rows of 64 words, row sums, the recorded tid's entry and the recorded
column, and the operations that own it. -/
structure Tile where
  tag   : TileTag := .free
  rows  : Tab (List Word) := []
  sums  : Tab Word := []
  tid   : Option (BitVec 512) := none
  col   : Nat := 0
  owners : Nat := 0
  deriving DecidableEq, Repr

/-- What runs in a cascade sequencer: the matrix forms (R462-R464), and the hot part of a TMV (R15, R203). -/
inductive MmaKind
  | dense | sparse | quant | tmv
  deriving DecidableEq, Repr

/-- The codes of an operand tile that one step takes, row by row and k by k, several where sparsity keeps several
(R460, R463). -/
abbrev TileCodes := List (List (List (Option Nat)))

/-- A matrix operation of the cascade sequencer (R17, R460): its form, the strand that issued it, its tile or group, the
rows, columns and first k it takes, its steps and the next one, the tid entries of A, of B and of the metadata and the
codebook, read once at issue (R454), the segment values and scratch its operand addresses are formed with, and the flags
raised so far. A gang's operations share `group`, and `fedA` and `fedB` are the tile steps a multicast has delivered and no
step has used yet (R14). `job` names a TMV's tid and number. -/
structure CascadeOp where
  kind   : MmaKind
  sat    : Bool
  gang   : Bool
  ctx    : Nat
  strand : BitVec 16
  tile   : Nat
  wide   : Bool
  m0     : Nat
  n0     : Nat
  k0     : Nat
  steps  : Nat
  step   : Nat := 0
  ta     : BitVec 512
  tb     : BitVec 512
  md     : BitVec 512
  book   : BitVec 256
  segs   : Tab (BitVec 128)
  scratch : Nat
  flags  : Flags := 0
  group  : Option Nat := none
  fedA   : Tab TileCodes := []
  fedB   : Tab TileCodes := []
  job    : Nat × Nat := (0, 0)
  deriving DecidableEq, Repr

/-- What every member of a gang operation must agree on (R146, R461): form, saturation, the quad, and the gang list. -/
structure GangCall where
  kind  : MmaKind
  sat   : Bool
  quad  : List Word
  list  : BitVec 128
  deriving DecidableEq, Repr

/-- An arrival at a cuff latch: core, slot and split, and the operation for its core's sequencer; a feeder has none. -/
structure GangArrival where
  core  : Nat
  slot  : Nat
  split : Nat
  op    : Option CascadeOp
  deriving DecidableEq, Repr

/-- A cuffed gang (R146): the operation, its members, the arrivals, the ticks counted and since when it counts; after a
mismatch, the members whose arrival still traps. -/
structure Cuff where
  ctx     : Nat
  call    : GangCall
  members : List (Nat × Nat)
  arrived : List GangArrival
  count   : Nat := 0
  mark    : Option Nat := none
  failed  : Bool := false
  deriving DecidableEq, Repr

/-! Engines (19) and packets (10 R184-R187). -/

/-- Bytes an engine holds for its destination (R74): the place in the order of writing, the destination's segment offset,
and the bytes, none where an uncorrectable granule fed one (R477). -/
structure EngUnit where
  pos  : Nat
  off  : Nat
  data : List (Option Byte)
  deriving DecidableEq, Repr

/-- A command of a copy engine, which also carries basin commands (R194): its number, engine and function, the pairs'
values, the parameter block, its handle, context and the segment values its addresses are formed with, its block's segment
address, the barrier it counts into, how far it has read and sent its writes or pieces, the granules fetched for the unit
being read, the bytes not yet written, replies outstanding, the status and result so far, whether it has stopped, whether a
cancel was asked, what it accumulates (a checksum, or a count of elements), and the destination ranges performed so far.
`queue` names the queue record a command of the wellhead runs for (R109). -/
structure EngCmd where
  id    : Nat
  eng   : Nat
  fn    : Nat
  block : List Byte
  opts  : DWord
  handle : Option DWord
  ctx   : Nat
  segs  : Tab (BitVec 128)
  scratch : Nat
  blockAt : Nat := 0
  bar   : Option Nat := none
  rpos  : Nat := 0
  wpos  : Nat := 0
  got   : Tab (List (Option Byte)) := []
  units : List EngUnit := []
  out   : Nat := 0
  status : Nat := 0
  result : Word := 0
  stopped : Bool := false
  cancel : Bool := false
  acc   : Nat := 0
  first : Option Nat := none
  ranges : List (Nat × Nat) := []
  queue : Option (Nat × Nat) := none
  deriving DecidableEq, Repr

/-- Consecutive columns of a row that lie in one 4 KiB piece (R452): the first, how many, and the virtual address, the
DRAM address, the grade and the domain of the first one's byte. -/
structure RowPiece where
  col   : Nat
  cols  : Nat
  va    : Nat
  pa    : Nat
  grade : Nat
  dom   : Nat
  deriving DecidableEq, Repr

/-- What a basin does for a piece (R194, R48): elements of a BAS command, with the DRAM address of each array's first
element, or the pool rows of a TMV on its stack, with where the columns of its window lie. -/
inductive BasinWork
  | bas (fn : Nat) (k0 k1 : Word) (first count : Nat) (ins : List (Nat × Nat)) (outs : List (Nat × Nat))
  | tmv (rows : List (Nat × List RowPiece))
  deriving DecidableEq, Repr

/-- Who gets a packet's reply: a copy-engine command of a core, or a TMV of a tid. -/
inductive Back
  | cmd (core id pos : Nat)
  | tmv (ctx tid id : Nat)
  deriving DecidableEq, Repr

/-- The kinds of requests (R185). -/
inductive PktKind
  | rd | wr | wrm | nmc
  deriving DecidableEq, Repr

/-- A packet (R185) from an agent to a base die until its reply has returned: its stack, agent and tag, none while it waits
at the agent for one (R186), the physical DRAM address and granules, domain and grade of its translation, byte mask and
data; once performed, its status and the bytes of its reply, and a basin's words. `spans` are the granules it concerns, as
first, count and domain; `guard` is the verdict of R193 when it arrived; a basin piece names the channel of its basin. -/
structure Packet where
  stack : Nat
  agent : Nat
  tag   : Option Nat := none
  kind  : PktKind
  addr  : Nat
  len   : Nat := 0
  dom   : Nat
  grade : Nat
  sys   : Bool := false
  md    : Bool := false
  mask  : Nat := 0
  data  : List Byte := []
  work  : Option BasinWork := none
  chan  : Nat := 0
  back  : Back
  spans : List (Nat × Nat × Nat)
  guard : Option Bool := none
  done  : Bool := false
  status : Nat := 0
  reply : List Byte := []
  words : List Word := []
  index : Option Nat := none
  deriving DecidableEq, Repr

/-! The tier engine (11). -/

/-- The states of a tid at its tier engine (R199). -/
inductive TierState
  | unbound | refreshing | bound | quiescing | working
  deriving DecidableEq, Repr

/-- A partial of a TMV (R48): values by vector and column, row sums by vector, the lowest row that read
uncorrectable with its lowest address (R202), and the flags its groups raised (R41). -/
structure TmvPart where
  vals : List (List Word)
  sums : List Word
  bad  : Option (Nat × Nat)
  flags : Flags := 0
  deriving DecidableEq, Repr

/-- A TMV at the tier engine (R201): its number, issuing core, context and strand, tile, input codes, window, and
whether it counts and found its tile free; once it has started, its jet rows with their slots, its pool rows with where
their columns lie, the stacks whose partial is due and the partials that have arrived, the address a base die refused, the
lowest row that read uncorrectable, the batches of the hot part done, the hot partial
so far, and whether it is whole (R203). -/
structure TmvJob where
  id     : Nat
  core   : Nat
  ctx    : Nat
  strand : BitVec 16
  tile   : Nat
  xs     : List (List Nat)
  f32    : Bool
  n0     : Nat
  counting : Bool
  dev    : BitVec 128
  free   : Bool
  jet    : List (Nat × Nat) := []
  pool   : List (Nat × List RowPiece) := []
  due    : List Nat := []
  parts  : Tab TmvPart := []
  refused : Option Nat := none
  bad    : Option (Nat × Nat) := none
  batch  : Nat := 0
  hot    : TmvPart := { vals := [], sums := [], bad := none }
  hotDone : Bool := false
  deriving DecidableEq, Repr

/-- A FIRE.RD at the tier engine (R208), with the key of its first stored value. -/
structure FireJob where
  id     : Nat
  core   : Nat
  ctx    : Nat
  strand : BitVec 16
  k0     : Nat
  n      : Nat
  key    : Nat
  dev    : BitVec 128
  deriving DecidableEq, Repr

/-- The barrier operations of R199. -/
inductive TierAct
  | cfg (block : BitVec 512) | rank | mig | age (n : Nat) | pin (val k0 count : Nat)
  deriving DecidableEq, Repr

/-- A tier command: its operation, handle, and the dev segment of its strand. -/
structure TierCmd where
  act    : TierAct
  handle : Option DWord
  dev    : BitVec 128
  deriving DecidableEq, Repr

/-- What waits at a tier engine in arrival order (R199). -/
inductive TierOp
  | tmv (j : TmvJob) | fire (j : FireJob) | cmd (c : TierCmd) | ageing (dev : BitVec 128)
  deriving DecidableEq, Repr

/-- A row of a plan, or of a refresh or migration under way (R204, R205): the row, its slot, and the row that leaves it. -/
structure TierRow where
  k    : Nat
  slot : Nat
  out  : Option Nat := none
  deriving DecidableEq, Repr

/-- A TIERED tid at its tier engine (R197-R208): state, configuration block, entry, operations waiting, TMVs in flight,
counting TMVs since the last automatic ageing, the plan, the operation that works, its copies to come, and its status and
result so far. -/
structure Tier where
  state   : TierState := .unbound
  block   : BitVec 512 := 0
  entry   : BitVec 512 := 0
  waiting : List TierOp := []
  flight  : List TmvJob := []
  count   : Nat := 0
  plan    : Option (List TierRow) := none
  working : Option TierCmd := none
  copies  : List TierRow := []
  status  : Nat := 0
  result  : Word := 0
  deriving DecidableEq, Repr

/-- A TLB entry: context, first virtual address, bytes of the page, and the leaf (R171, R175). -/
structure TlbEntry where
  ctx  : Nat
  va   : Nat
  size : Nat
  leaf : BitVec 64
  deriving DecidableEq, Repr

/-- A translation a core waits for: at the second level, or at the walk of a page; and a fault it ended in (R175, R172). -/
inductive LookupStage
  | second | walking (page : Nat) | refused (until_ : Nat) | faulted
  deriving DecidableEq, Repr

structure Lookup where
  ctx   : Nat
  page  : Nat
  stage : LookupStage
  deriving DecidableEq, Repr

/-- A scheduler's memory (R139): the split that issued last, how many clauses in a row, whether its clause gave the
slot up, and the split whose clause runs. -/
structure Sched where
  last  : Option (Nat × Nat) := none
  run   : Nat := 0
  gave  : Bool := false
  busy  : Option (Nat × Nat) := none
  deriving DecidableEq, Repr

/-! Sections (12 R211-R226). -/

/-- Who holds or awaits a section: core, strand number and lane (R211). -/
structure Owner where
  core   : Nat
  number : BitVec 16
  lane   : Nat
  deriving DecidableEq, Repr

/-- A key entry (R212). `claims` are a raster entry's outstanding claims in primitive order (R226); `used` orders
grants for spilling (R218). -/
structure KeyEntry where
  ctx    : Nat
  key    : DWord
  ras    : Bool := false
  abn    : Bool := false
  held   : Option Owner := none
  next   : Word := 0
  claims : List Nat := []
  used   : Nat := 0
  deriving DecidableEq, Repr

/-- A waiter record (R212): ticks counted so far, and since when it counts (R222); `ask` numbers the instruction. -/
structure Waiter where
  ctx   : Nat
  key   : DWord
  seq   : Word
  owner : Owner
  ask   : Nat
  count : Nat := 0
  mark  : Option Nat := none
  deriving DecidableEq, Repr

/-- A lane's request of SLU.IN or SLU.TRY on its way to the key's home, or waiting to be sent again (R214, R220): what it
would wait with, its place in its core's order (R13), and whether it was refused. -/
structure SectReq where
  w     : Waiter
  init  : Bool
  once  : Bool
  no    : Nat
  after : Nat := 0
  refused : Bool := false
  deriving DecidableEq, Repr

/-- A leave request: SLU.OUT with its place in its core's order (R13), or an abandonment (R213, R224). -/
structure SectLeave where
  ctx   : Nat
  key   : DWord
  owner : Owner
  no    : Option Nat
  deriving DecidableEq, Repr

/-- A chain walk (R221): the requester and its instruction, the key reached and the hops made. -/
structure ChainWalk where
  ctx   : Nat
  owner : Owner
  ask   : Nat
  cur   : DWord
  hops  : Nat
  deriving DecidableEq, Repr

/-! Launches (06). -/

/-- A launch that has started (R116): its context and queue, its record, the segment values of its table, whether its
start writes are performed, the next unplaced crew, the first pass's pointer, the cores that gained room since the
last pass with the ticks at which they did, whether its first pass is over, how many crews have published, the crews
that have dissolved, and the strands that have arrived at its open launch barrier, as core and strand number (R154). A
draw's vertex strands are placed like a launch (R232), and `draw` names it. -/
structure Launch where
  ctx    : Nat
  qid    : Nat
  recNo  : Nat
  bits   : BitVec 512
  segs   : Tab (BitVec 128)
  ready  : Bool := false
  next   : Nat := 0
  ptr    : Nat := 0
  first  : Bool := true
  gained : List (Nat × Nat) := []
  count  : Nat := 0
  rejected : Option Nat := none
  dissolved : List Nat := []
  arrived : List (Nat × BitVec 16) := []
  draw   : Option Nat := none
  deriving DecidableEq, Repr

/-- A dissolved launch crew's completion event under way (R123): the core whose release it waits for, and whether its
bit is set. -/
structure Event where
  launch : Nat
  crew   : Nat
  core   : Nat
  bitSet : Bool := false
  deriving DecidableEq, Repr

/-! What exited lanes leave to the raster unit (R251, R325). -/

/-- A fragment lane's record with its staged colour and depth, on its way to blend, and the samples still to be blended
where some already are. -/
structure BlendItem where
  ctx    : Nat
  draw   : Nat
  ivl    : BitVec 512
  colour : Option (List Word)
  depth  : Option Word
  left   : Option (List (Nat × Nat)) := none
  deriving DecidableEq, Repr

/-- A delivered vertex: clip position and attributes. -/
structure Vertex where
  pos   : List Word
  attrs : Tab Word
  deriving DecidableEq, Repr

/-- A vertex on the screen (R231, R237): 24.8 fixed-point x and y in the reference view, its 16.16 disparity, its depth,
1 / Wc, and its sixteen attributes times 1 / Wc. -/
structure ScreenVertex where
  xf : Int
  yf : Int
  sf : Int
  zs : Word
  q  : Word
  c  : List Word
  deriving DecidableEq, Repr

/-- An assembled primitive on its way to setup (R232, R233): its draw, its sequence, and the triangles of its clipped
polygon. -/
structure Prim where
  draw : Nat
  seq  : Nat
  tris : List (List ScreenVertex)
  deriving DecidableEq, Repr

/-- A setup record (R248): a triangle, the interval records that name it, and whether its sweep is over. -/
structure SetupRec where
  draw  : Nat
  seq   : Nat
  verts : List ScreenVertex
  live  : Nat := 0
  swept : Bool := false
  deriving DecidableEq, Repr

/-- A primitive in the sweep of a cluster (R236): its setup records, the tiles to come as (row, x div 32, v div 32), and
the records of the tile swept last that no cistern has taken yet, each with its core (R125). -/
structure SweepJob where
  draw  : Nat
  seq   : Nat
  recs  : List Nat
  tiles : List (Nat × Nat × Nat)
  now   : Option (Nat × Nat × Nat) := none
  left  : List (Nat × BitVec 512) := []
  deriving DecidableEq, Repr

/-- A primitive's raster section in a tile (R226, R253): its raster key, the interval records outstanding, and whether
the sweep of the tile is done. -/
structure RasterSect where
  ctx   : Nat
  draw  : Nat
  seq   : Nat
  key   : Nat
  count : Nat := 0
  swept : Bool := false
  deriving DecidableEq, Repr

/-- The depths of a tile as a draw's first sweep there found them (R238): the draw, the raster key, and the depth of each
(x, view). -/
structure TileDepth where
  draw  : Nat
  key   : Nat
  depth : List ((Nat × Nat) × Word)
  deriving DecidableEq, Repr

/-- A DRAW that has started (R232): its context and stream, its frame's number and target set, its record, the queue
record or handle it completes, the two programs' prefixes, and the next triangle to assemble. -/
structure Draw where
  ctx    : Nat
  stream : Nat
  frame  : Nat
  set    : Nat
  bits   : BitVec 512
  queue  : Option (Nat × Nat) := none
  handle : Option DWord := none
  vpre   : BitVec 1024
  fpre   : BitVec 1024
  next   : Nat := 0
  deriving DecidableEq, Repr

/-! Links (25). -/

/-- The states of a link (R512). -/
inductive LinkState
  | down | training | up | degraded | retraining | isolated
  deriving DecidableEq, Repr

/-- A link (R507-R512): state, attempts of its training, the next SEQ to send, the SEQ expected, the replay buffer with the
tick at which ACK last advanced, replays in a row, the VCs with an XOFF received and those with one sent, and the tick of
its last tick flit. -/
structure Link where
  state  : LinkState := .down
  tries  : Nat := 0
  txSeq  : BitVec 14 := 0
  rxSeq  : BitVec 14 := 0
  buffer : List Flit := []
  ackTick : Nat := 0
  replays : Nat := 0
  xoffIn : List Nat := []
  xoffOut : List Nat := []
  lastTick : Nat := 0
  deriving DecidableEq, Repr

/-! Trace (26). -/

/-- A trace frame (R519, R520): TICK, the tick of its last record, FRAMENO, the header's counts and flags, its records,
and whether a TRC.FLUSH waits for it (the slot of its command). -/
structure TraceFrame where
  tick  : Nat
  last  : Nat
  no    : Nat
  lost  : Nat
  slost : Nat
  isRec : Bool
  unal  : Bool
  bytes : List Byte
  deriving DecidableEq, Repr

/-- A cluster's trace engine: the open frame, closed frames, the next FRAMENO, samples dropped, decision counts and
replay positions by arbiter with the ticks at which their turns began, sampling periods by context, the slot and tick
sampled last per scheduler and per slot, the bytes accepted in a tick, the flushes that wait with the frame each awaits,
and whether EN = 0 has been written and its frames are not yet out. -/
structure Trace where
  opened : Option TraceFrame := none
  closed : List TraceFrame := []
  nextNo : Nat := 0
  slost  : Nat := 0
  seqs   : Tab Nat := []
  turns  : Tab Nat := []
  turnAt : Tab Nat := []
  period : Tab Nat := []
  lastSlot : Tab Nat := []
  sampleAt : Tab Nat := []
  seen   : Tab Nat := []
  flushes : List (Option DWord × Nat) := []
  accepted : Nat × Nat := (0, 0)
  stopping : Bool := false
  deriving DecidableEq, Repr

/-! Queues (05). -/

/-- The states of a queue (R104, R108). -/
inductive QState
  | unbound | idle | watching | draining | blocked | suspended | error
  deriving DecidableEq, Repr

/-- A record handed over by LAUNCH, with the split that waits for its number (R113). -/
structure Handover where
  bits : BitVec 512
  target : Target
  deriving DecidableEq, Repr

/-- A queue (R104, R108, R111): state, counts and error of its control block, the wellhead's own append count, the
TAIL read last, its ageing level and since when it could start, the started records that are not complete and those
complete beyond DONE, the records taken by LAUNCH and not yet appended, since when the WAIT at its head waits, whether
only its context suspended it, the lines it watches, the ticks at which wakes under way were sent, whether the SIGNAL
at its head has begun its release, and whether a home held the last write of its control block. -/
structure Queue where
  state  : QState := .unbound
  head   : Word := 0
  done   : Word := 0
  err    : Nat := 0
  errIdx : Word := 0
  appends : Word := 0
  tail   : Word := 0
  level  : Nat := 0
  since  : Option Nat := none
  running : List Nat := []
  finished : List Nat := []
  handed : List Handover := []
  waitSince : Option Nat := none
  byCtx  : Bool := false
  watch  : List Nat := []
  wakes  : List Nat := []
  rel    : Bool := false
  stale  : Bool := false
  deriving DecidableEq, Repr

/-! Streams (13). -/

/-- A frame of a stream (R241): its number, its target set, whether its set is still being cleared, whether a deadline
passed while it was Open, its discarded triangles, the transform its PRS.FRAME gave, and the slot it was presented at. -/
structure Frame where
  no    : Nat
  set   : Nat
  clearing : Bool := false
  late  : Bool := false
  disc  : Nat := 0
  xform : List Word := []
  slot  : Nat := 0
  deriving DecidableEq, Repr

/-- A PRS.FRAME that has not closed its frame (R241): its handle, transform, and the draws it waits for. -/
structure FrameClose where
  handle : Option DWord
  xform  : List Word
  draws  : List Nat
  deriving DecidableEq, Repr

/-- What a presentation shows (R242): a frame's samples, its reprojection by a transform applied some times, or the
constant. -/
inductive Picture
  | frame (f : Frame) | moved (f : Frame) (m : List Word) (steps : Nat) | fill
  deriving DecidableEq, Repr

/-- An output of the presentation engine (R242, R244): what it shows, whether the slot repeats or fills, the slot, and the
tick at which the output began. -/
structure ShowJob where
  pic   : Picture
  again : Bool := false
  slot  : Nat := 0
  tick  : Nat := 0
  deriving DecidableEq, Repr

/-- A panel stream (R228, R241): the slot counter, the next frame number and primitive sequence, the Open or Substituted
frame, the Closed one, the last Presented one, the transform of the latest PRS.FRAME, the draws started and not complete
in order, the first of them still being assembled, the PRS.FRAMEs that wait, and the slots' outputs not yet written. -/
structure Stream where
  bound  : Bool := false
  slot   : Nat := 0
  nextNo : Nat := 0
  seq    : Nat := 0
  cur    : Option Frame := none
  closed : Option Frame := none
  shown  : Option Frame := none
  xform  : List Word := []
  draws  : List Nat := []
  closes : List FrameClose := []
  shows  : List ShowJob := []
  deriving DecidableEq, Repr

/-! The device (27, 26 R524). -/

/-- Device states (R531). -/
inductive DState
  | off | rom | verifying | training | early | full
  deriving DecidableEq, Repr

/-- The per-boot tree (R533): the boot index, the image hash, the seed's draw and the next leaf. -/
structure BootTree where
  boot : Nat
  hash : BitVec 256
  seed : Nat
  leaf : Nat
  deriving DecidableEq, Repr

/-- A Grielm mailbox (R539): busy, the arrival order of its request, the command written and its master, the status fields,
request and reply bytes. -/
structure Mailbox where
  busy   : Bool := false
  order  : Nat := 0
  cmd    : BitVec 64 := 0
  master : Nat := 0
  seq    : Nat := 0
  code   : Nat := 0
  from_  : Nat := 0
  rlen   : Nat := 0
  req    : Tab Byte := []
  rpl    : List Byte := []
  deriving DecidableEq, Repr

/-- Management, power, clock and stop state. `otp` is the number of the lowest unburned counter bit. Of the hub: targets and
results of the command registers, the queue served last, the tick of the last placement pass, and the interrupt vectors
sent to the host. `crownAt` is the tick and the master of the command that the crown arbiter took last (R535). `hdm` holds
the HDM windows (R506) as host base, device base and size; `fixTick` and `slowTick` the tick
of the last correction and whether the next increment is suppressed (R515). -/
structure Device where
  state  : DState := .off
  holder : Nat := 0xFF
  pend   : Nat := 0xFF
  pendTick : Nat := 0
  crownAt : Option (Nat × Nat) := none
  result : Nat := 0
  devno  : BitVec 32 := 0
  imglen : Nat := 0
  otp    : Nat := 0
  tree   : Option BootTree := none
  hash   : BitVec 256 := 0
  upClusters : List Nat := []
  clockMHz : Nat := 1200
  boxes  : Tab Mailbox := []
  stopTick : BitVec 64 := 0
  armed  : Bool := false
  stopped : Option Nat := none
  heldTicks : Nat := 0
  cause  : Nat := 0
  bkStop : Bool := false
  bkCtx  : Nat := 0
  hdm    : Tab (Nat × Nat × Nat) := []
  fixTick : Nat := 0
  slowTick : Bool := false
  ctxTarget : Nat := 0
  ctxResult : Nat := 0
  qTarget : Nat := 0
  qResult : Nat := 0
  sTarget : Nat := 0
  sResult : Nat := 0
  lastQueue : Nat := 4095
  passTick : Nat := 0
  msix   : List Nat := []
  deriving DecidableEq, Repr

/-- One compute core (R10, R53). Its cistern holds each context's records with that context, the head first (R125); `stolen`
is the tick and the thief of the latest steal from it (R127). -/
structure Core where
  q      : List QLine := []
  moved  : List QLine := []
  snap   : Tab (BitVec 512) := []
  icache : Tab (BitVec 512) := []
  recs   : Tab (BitVec 512) := []
  refused : List (Nat × Nat) := []
  tlb    : List TlbEntry := []
  lookups : List Lookup := []
  cistern : List (Nat × BitVec 512) := []
  stolen : Option (Nat × Nat) := none
  tiles  : Tab Tile := []
  cascade : List CascadeOp := []
  eng    : List EngCmd := []
  sched  : Tab Sched := []
  slots  : Tab Strand := []
  windows : List (Nat × Nat) := []
  away   : List Strand := []
  nextNo : BitVec 16 := 0
  deriving DecidableEq, Repr

/-- The kind of a barrier phase (R151): BAR, or BARP with its operation, type and .ftz. -/
inductive BarKind
  | bar
  | barp (op : ROp) (ty : RTy) (ftz : Bool)
  deriving DecidableEq, Repr

/-- An open phase: its kind, and the strands that have arrived with their contributions (R150, R151). -/
structure Phase where
  kind : BarKind
  arrived : List ((Nat × Nat) × Word)
  deriving DecidableEq, Repr

/-- A crew table entry (R143, R144, R149): generation, members as (core, slot) in join order, the launch it is a
launch crew of with its index, the scratch window, the strands placed with it that have not exited, and its barrier. -/
structure Crew where
  gen     : BitVec 16 := 1
  used    : Bool := false
  members : List (Nat × Nat) := []
  launch  : Option (Nat × Nat) := none
  core    : Nat := 0
  scratch : Nat := 0
  window  : Nat := 0
  alive   : Nat := 0
  phase   : Option Phase := none
  deriving DecidableEq, Repr

/-- A completion table entry (R161); status 6 is a command not yet complete; the tick it completed at. -/
structure CEntry where
  handle : DWord
  ctx    : Nat
  status : Nat
  result : Word
  at_    : Nat := 0
  deriving DecidableEq, Repr

/-- Ranges kept for a byte-count barrier (R156): of the open phase and of the phase completed last; none means more
than eight. -/
structure BcbRanges where
  opened : List (Nat × Nat) := []
  last   : Option (List (Nat × Nat)) := none
  deriving DecidableEq, Repr

/-- The states of a context (R89, R90). -/
inductive CtxState
  | free | building | ready | active | suspended | faulted | dumping | draining | dead
  deriving DecidableEq, Repr

/-- A fault record (R98). -/
structure FaultRec where
  code  : Nat
  core  : Nat
  slot  : Nat
  split : Nat
  pc    : BitVec 48
  tick  : Nat
  addr  : Nat := 0
  deriving DecidableEq, Repr

/-- What a switched-out cluster keeps of a core beside its strands (R94): its tiles, its cascade operations, its scratch
windows and its schedulers' clauses. -/
structure SavedCore where
  tiles   : Tab Tile := []
  cascade : List CascadeOp := []
  windows : List (Nat × Nat) := []
  sched   : Tab Sched := []
  deriving DecidableEq, Repr

/-- A cluster's saved block (R93, R94) beside what its save area holds: since when, its cores, its crew table, its cuffs, the
ranges copied to the save area, and the ranges of its barriers. -/
structure SavedCluster where
  since   : Nat := 0
  cores   : Tab SavedCore := []
  crews   : Tab Crew := []
  cuffs   : List Cuff := []
  ranges  : List (Nat × Nat) := []
  bcb     : Tab BcbRanges := []
  tainted : List Nat := []
  deriving DecidableEq, Repr

/-- A dump under way (R181, R527): its stage (0 no page is protected yet, 1 the invalidation is under way, 2 the
releases or the copies are, 3 it has ended but for its protection), its status so far, the buffer and its length,
where the command names one, the command's handle, the dump instant once it is known, the pages to come in ascending
order, the pages whose DP was set, and the pages copied with the bytes of the image so far. -/
structure DumpJob where
  stage  : Nat := 0
  status : Nat := 0
  buf    : Option Nat := none
  len    : Nat := 0
  handle : Option DWord := none
  instant : Option Nat := none
  todo   : List Nat := []
  copied : Nat := 0
  used   : Nat := 0
  deriving DecidableEq, Repr

/-- A context's control state (R87, R90), its table of tensor identifiers (R452), the segment values that its latest
launch loaded (R87), the blocks of the clusters it was switched out of, its dump, and the fault records that no cluster
block holds yet (R98). -/
structure Context where
  state    : CtxState := .free
  before   : CtxState := .ready
  held     : Option Bool := none
  toDead   : Bool := false
  tids     : Tab (BitVec 512) := []
  tiers    : Tab Tier := []
  fault    : Option FaultRec := none
  dumpWant : List Nat := []
  segs     : Tab (BitVec 128) := []
  saved    : Tab SavedCluster := []
  dump     : Option DumpJob := none
  records  : List FaultRec := []
  deriving DecidableEq, Repr

/-- A walk of the page walker, or a request in its FIFO (R175). -/
structure Walk where
  ctx  : Nat
  page : Nat
  live : Bool
  dead : Bool := false
  deriving DecidableEq, Repr

end Sys2Proof.Machine
end

