-- ==== Sys2Proof/Machine/State.lean ====
section
/-! DEFINITION. The machine's state, its faults and refusals, and the state after reset. -/
namespace Sys2Proof.Machine

/-- One cluster (R9, R53). Of its tenancy (R91-R93): the tenant, log2 of its quantum and its end, the tenant before, the
context that leaves and whether its releases have begun, the one chosen next, the one to name in the CTXSW record, and
whether it waits for the steward (R94). -/
structure Cluster where
  tenant   : Option Nat := none
  quantum  : Nat := 21
  quantumEnd : Nat := 0
  lastTenant : Nat := 63
  leaving  : Option Nat := none
  swapping : Bool := false
  coming   : Option Nat := none
  outgoing : Nat := 0xFF
  stuck    : Bool := false
  dcache   : Tab (BitVec 512) := []
  svc      : List AtomReq := []
  crews    : Tab Crew := []
  ctab     : Tab CEntry := []
  nextSerial : BitVec 16 := 0
  bcb      : Tab BcbRanges := []
  tlb2     : List TlbEntry := []
  walks    : List Walk := []
  work     : Tab Nat := []
  keys     : List KeyEntry := []
  waiters  : List Waiter := []
  sectReqs : List SectReq := []
  sectLeaves : List SectLeave := []
  chains   : List ChainWalk := []
  blendQ   : List BlendItem := []
  prims    : List Prim := []
  setups   : Tab SetupRec := []
  sweeps   : List SweepJob := []
  sects    : List RasterSect := []
  depths   : List TileDepth := []
  cuffs    : List Cuff := []
  deriving DecidableEq, Repr

/-- The states of a stack (R183). -/
inductive StackState
  | off | training | up | degraded | failed
  deriving DecidableEq, Repr

/-- One stack with its base die (R182, R192): `refreshed` holds by channel the rows that the latest draw below K refreshed,
`ceTicks` the ticks of the latest corrections, the last first, as far as R183 counts them, and `reported` what the Grielm
controller reported of the stack last (R183). -/
structure Stack where
  state  : StackState := .off
  ce     : Nat := 0
  uc     : Nat := 0
  nrcfg  : BitVec 64 := 0x20
  lfsr   : Tab (BitVec 32) := []
  refreshed : Tab (List Nat) := []
  ceTicks : List Nat := []
  reported : Option StackState := none
  deriving DecidableEq, Repr

/-- The operands of the step being made: which core, cluster, queue, record, port, box or value a device step concerns,
and, in `ref`, the split whose instruction issues. The model's own input (log 11). -/
structure Pick where
  ref  : SplitRef := ⟨0, 0, 0⟩
  a    : Nat := 0
  b    : Nat := 0
  c    : Nat := 0
  home : Home := .hub
  flag : Bool := false
  word : BitVec 64 := 0
  wide : BitVec 512 := 0
  bytes : List Byte := []
  flit : Option Flit := none
  deriving DecidableEq, Repr, Inhabited

/-- What a step does: a split issues its next instruction, or the device makes a step of its own. -/
inductive Act
  | issue
  | move (i : Instr)
  deriving DecidableEq, Repr, Inhabited

/-- One entry of the agenda: ticks that pass first, what the host and the peers write into their own memory meanwhile, as
keys and bytes, the act, its operands. -/
structure Turn where
  dt   : Nat
  host : List (Nat × Byte) := []
  act  : Act
  pick : Pick
  deriving DecidableEq, Repr, Inhabited

/-- The machine. `tick` counts the ticks since power; the 64-bit global tick is its low 64 bits (R2), one count for every
die: a skew of ±2 ticks between dies is not kept (log 145). `tainted` holds the SRAM bytes that were written with failed parity
(R516). -/
structure State where
  mem      : Memory := []
  emptyTags : List Nat := []
  tainted  : List Nat := []
  flips    : Tab (BitVec 288) := []
  poison   : List Nat := []
  wgrade   : Tab Nat := []
  tick     : Nat := 0
  hb       : Nat := 0
  hbTick   : Nat := 0
  cores    : Tab Core := []
  clusters : Tab Cluster := []
  stackTab   : Tab Stack := []
  contexts : Tab Context := []
  launches : Tab Launch := []
  events   : List Event := []
  verts    : List (Nat × Nat × Vertex) := []
  draws    : Tab Draw := []
  nextDraw : Nat := 0
  links    : Tab Link := []
  bundles  : Tab Bundle := []
  traces   : Tab Trace := []
  queues   : Tab Queue := []
  streams  : Tab Stream := []
  dev      : Device := {}
  tagReqs  : List TagReq := []
  parked   : List Parked := []
  replies  : List AtomReply := []
  resv     : List (Nat × Nat × Nat) := []
  pkts     : List Packet := []
  agenda   : List Turn := []
  pick     : Pick := {}
  free     : Nat := 0
  nextId   : Nat := 0
  deriving DecidableEq, Repr

/-- What stops the machine with a fault. -/
inductive Fault
  /-- Raised by an access to an address of a space the specification does not give the machine. Safe: the machine goes
  no further. -/
  | noSuchAddress
  deriving DecidableEq, Repr

/-- What the model refuses. -/
inductive Refusal
  /-- Raised by `exec` for an instruction without a meaning. Safe: nothing is claimed of it. -/
  | notModelled (mnemonic : String)
  deriving DecidableEq, Repr

/-- The machine right after reset: powered, before power-good (R531). Every register the specification gives no reset
value holds the value its log entry names. -/
def State.reset : State := {}

end Sys2Proof.Machine
end

