-- ==== Sys2Proof/Machine/Access.lean ====
section
/-! DEFINITION. Reading and replacing the machine's parts, the homes and scopes of addresses (R54, R60), what crosses
a link (R512, R513), and the fields of context descriptors (R88). -/
namespace Sys2Proof.Machine

/-! Units. -/

/-- A core by global number, 256 × cluster + core (R10). -/
def State.core (s : State) (c : Nat) : Core := s.cores.get {} c
/-- Replace a core. -/
def State.setCore (s : State) (c : Nat) (k : Core) : State := { s with cores := s.cores.set c k }
/-- A cluster. -/
def State.clu (s : State) (k : Nat) : Cluster := s.clusters.get {} k
/-- Replace a cluster. -/
def State.setClu (s : State) (k : Nat) (x : Cluster) : State := { s with clusters := s.clusters.set k x }
/-- A stack. -/
def State.stack (s : State) (i : Nat) : Stack := s.stackTab.get {} i
/-- Replace a stack. -/
def State.setStack (s : State) (i : Nat) (x : Stack) : State := { s with stackTab := s.stackTab.set i x }
/-- A context. -/
def State.ctx (s : State) (x : Nat) : Context := s.contexts.get {} x
/-- Replace a context. -/
def State.setCtx (s : State) (x : Nat) (c : Context) : State := { s with contexts := s.contexts.set x c }
/-- The strand of a slot. -/
def State.strandAt (s : State) (c slot : Nat) : Strand := (s.core c).slots.get {} slot
/-- Replace the strand of a slot. -/
def State.setStrandAt (s : State) (c slot : Nat) (st : Strand) : State :=
  let k := s.core c
  s.setCore c { k with slots := k.slots.set slot st }
/-- The strand of a split reference. -/
def State.strand (s : State) (r : SplitRef) : Strand := s.strandAt r.core r.slot
/-- Replace it. -/
def State.setStrand (s : State) (r : SplitRef) (st : Strand) : State := s.setStrandAt r.core r.slot st
/-- A split of a strand. -/
def Strand.split (st : Strand) (i : Nat) : Split := st.splits.get {} i
/-- Replace it. -/
def Strand.setSplit (st : Strand) (i : Nat) (sp : Split) : Strand := { st with splits := st.splits.set i sp }
/-- The split of a reference. -/
def State.split (s : State) (r : SplitRef) : Split := (s.strand r).split r.split
/-- Replace it. -/
def State.setSplit (s : State) (r : SplitRef) (sp : Split) : State :=
  s.setStrand r ((s.strand r).setSplit r.split sp)
/-- The cluster of a core. -/
def coreCluster (c : Nat) : Nat := c / 256

/-- Draw a free value's number. -/
def State.draw (s : State) : State × Nat := ({ s with free := s.free + 1 }, s.free)
/-- A fresh number for a request. -/
def State.fresh (s : State) : State × Nat := ({ s with nextId := s.nextId + 1 }, s.nextId)

/-! Addresses and homes (R54, R168, R173). -/

/-- Bytes of a cluster's region, and of a slice. -/
def regionSize : Nat := 0x18000000
def sliceSize : Nat := 0x140000
def poolOffset : Nat := 0x14000000
def poolEnd : Nat := 0x17000000
/-- The base of a core's slice. -/
def sliceBase (c : Nat) : Nat := c / 256 * regionSize + c % 256 * sliceSize
/-- The reserved region of a slice begins here (R101, R168). -/
def reservedOffset : Nat := 0x120000

/-- The home of a key. -/
def homeOf (key : Nat) : Home :=
  let a := keyAddr key
  match keySpace key with
  | 0 =>
    let k := a / regionSize
    let o := a % regionSize
    if o < poolOffset then .slice (256 * k + o / sliceSize) else .pool k ((o - poolOffset) / 64 % 64)
  | 1 => .chan (a / 2 ^ 12 % 8) (a / 2 ^ 15 % 32)
  | 2 => .host
  | 3 => .hub
  | 4 => .chan (a * 8 / 2 ^ 12 % 8) (a * 8 / 2 ^ 15 % 32)
  | n => .peer (n - 8)

/-- Whether a key lies in the unmapped range of its region (R168). -/
def unmappedSram (key : Nat) : Bool := keySpace key == 0 && (keyAddr key % regionSize ≥ poolEnd || keyAddr key ≥ 8 * regionSize)

/-- Whether a key's home is SRAM. -/
def isSram (key : Nat) : Bool := keySpace key == 0
/-- Whether a key's home is device DRAM. -/
def isDram (key : Nat) : Bool := keySpace key == 1
/-- The cluster that owns a key (R54). -/
def ownerCluster (key : Nat) : Nat :=
  if keySpace key == 0 then keyAddr key / regionSize else keyAddr key / 2 ^ 12 % 8
/-- The line of a key: keys over 64. -/
def lineOf (key : Nat) : Nat := key / 64

/-- Whether every member of a strand's launch crew is on its core; true of a strand that has left it (R60). -/
def crewOnOneCore (s : State) (c : Nat) (st : Strand) : Bool :=
  match st.home with
  | none => true
  | some id => ((s.clu (coreCluster c)).crews.get {} (id.toNat % 1024)).members.all (fun m => m.1 == c)

/-- The scope .crew stands for (R60). -/
def realScope (s : State) (c : Nat) (st : Strand) (sc : Scope) : Scope :=
  match sc with
  | .crew => if crewOnOneCore s c st then .core else .clu
  | x => x

/-- Whether a home lies inside a scope seen from a core (R60); .crew is resolved first. -/
def inScope (c : Nat) (sc : Scope) (h : Home) : Bool :=
  let k := coreCluster c
  match sc, h with
  | .core, _ => false
  | .crew, _ => false
  | .clu, .slice c' => coreCluster c' == k
  | .clu, .pool k' _ => k' == k
  | .clu, _ => false
  | .dev, .host => false
  | .dev, .peer _ => false
  | .dev, _ => true
  | .sys, _ => true


/-! Counters that a stop pauses (R525). -/

/-- The ticks that count: the global tick less the ticks spent stopped. -/
def State.runTick (s : State) : Nat :=
  (match s.dev.stopped with | some t => t | none => s.tick) - s.dev.heldTicks

/-- The global tick (R2). -/
def State.globalTick (s : State) : Nat := s.tick % 2 ^ 64

/-- Cycles of the arithmetic clock in ticks, rounded up (R19). -/
def clockTicks (s : State) (n : Nat) : Nat := (n * 1900 + s.dev.clockMHz - 1) / s.dev.clockMHz

/-- A trace engine. -/
def State.trace (s : State) (k : Nat) : Trace := s.traces.get {} k
/-- Replace it. -/
def State.setTrace (s : State) (k : Nat) (x : Trace) : State := { s with traces := s.traces.set k x }
/-- A queue, numbered 64 × context + queue. -/
def State.queue (s : State) (q : Nat) : Queue := s.queues.get {} q
/-- Replace it. -/
def State.setQueue (s : State) (q : Nat) (x : Queue) : State := { s with queues := s.queues.set q x }
/-- A stream. -/
def State.stream (s : State) (n : Nat) : Stream := s.streams.get {} n
/-- Replace it. -/
def State.setStream (s : State) (n : Nat) (x : Stream) : State := { s with streams := s.streams.set n x }
/-- A launch. -/
def State.launch (s : State) (n : Nat) : Option Launch := s.launches.find n
/-- Replace it. -/
def State.setLaunch (s : State) (n : Nat) (x : Launch) : State := { s with launches := s.launches.set n x }

/-- Bytes merged under a byte mask. -/
def mergeBytes (mask : Nat) (new old : List Byte) : List Byte :=
  (List.range old.length).map (fun i => if mask.testBit i then new.getD i 0 else old.getD i 0)

/-- How a request that crosses a link fares (R512, R513): it goes, it waits, or it fails with LINK_DOWN. -/
inductive Reach
  | ok | wait | down
  deriving DecidableEq, Repr

/-- The ports of the bundle to a peer (R510). -/
def bundlePorts (s : State) (p : Nat) : List Nat :=
  (List.range 24).filter (fun i => (s.mem.readNat (hubKey (0x200000 + 8 * p)) 3).testBit i)

/-- The host port's link is the one after the 24 peer ports. -/
def hostPort : Nat := 24

/-- A link. -/
def State.link (s : State) (i : Nat) : Link := s.links.get {} i
/-- Replace a link. -/
def State.setLink (s : State) (i : Nat) (x : Link) : State := { s with links := s.links.set i x }

/-- Whether a link carries traffic. -/
def Link.flows (x : Link) : Bool := x.state == .up || x.state == .degraded

/-- Whether a port takes a new data flit of a VC (R508, R509). -/
def Link.takes (x : Link) (vc : Nat) : Bool := x.flows && !x.xoffIn.contains vc && x.buffer.length < 256

/-- Reaching a peer on a VC: some port takes a flit; else waiting while one flows or retrains; else down (R511-R513). -/
def peerReach (s : State) (p vc : Nat) : Reach :=
  let ls := (bundlePorts s p).map s.link
  if ls.any (fun x => x.takes vc) then .ok
  else if ls.any (fun x => x.flows || x.state == .retraining) then .wait else .down

/-- This device's number (R538). -/
def ownNumber (s : State) : Nat := (s.dev.devno.extractLsb' 0 5).toNat

/-- A bundle's ends. -/
def State.bundle (s : State) (p : Nat) : Bundle := s.bundles.get {} p

/-- A data flit to a peer (R508, R510): it takes the next BSEQ of its VC and goes to the ports in turn, into a replay buffer
under the port's next SEQ. -/
def sendFlit (s : State) (p vc tag : Nat) (body : PeerOp) : State :=
  let ports := (bundlePorts s p).filter (fun i => (s.link i).takes vc)
  let b := s.bundle p
  let n := b.tx.get 0 vc
  match ports[n.toNat % (if ports.length = 0 then 1 else ports.length)]? with
  | none => s
  | some i =>
    let x := s.link i
    let f : Flit := { vc := vc, seq := x.txSeq, ack := x.rxSeq - 1, src := BitVec.ofNat 5 (ownNumber s), bseq := n, tag := tag, body := body }
    let s := s.setLink i { x with
      txSeq := x.txSeq + 1, buffer := x.buffer ++ [f], ackTick := if x.buffer.isEmpty then s.tick else x.ackTick }
    { s with bundles := s.bundles.set p { b with tx := b.tx.set vc (n + 1) } }

/-- A packet sent for an access at a key, where it lies in a peer's memory. -/
def crossPeer (s : State) (key : Nat) (body : PeerOp) : State :=
  if keySpace key ≥ 8 then sendFlit s (keySpace key - 8) 0 0 body else s

/-- The tick master of the linked set: the lowest number among this device and the peers with a route (R515). -/
def tickMaster (s : State) : Nat := ((List.range (ownNumber s)).find? (fun p => !(bundlePorts s p).isEmpty)).getD (ownNumber s)

/-- Whether the tick is aligned: this device is the master or has a path to it that is Up (R515). -/
def State.aligned (s : State) : Bool :=
  tickMaster s == ownNumber s || (bundlePorts s (tickMaster s)).any (fun i => (s.link i).flows)

/-- Reaching the host: down once the host port has failed (R513). -/
def hostReach (s : State) : Reach :=
  match (s.link hostPort).state with
  | .up | .degraded => .ok
  | .isolated => .down
  | _ => .wait

/-- Reaching the home of a key, at a peer on a VC. -/
def homeReach (s : State) (key : Nat) (vc : Nat := 0) : Reach :=
  match homeOf key with
  | .host => hostReach s
  | .peer d => peerReach s d vc
  | _ => .ok

/-! Service (R531, R534). -/

/-- Whether the device serves work. -/
def State.serving (s : State) : Bool := s.dev.state == .early || s.dev.state == .full

/-- Whether a cluster is up. -/
def clusterUp (s : State) (k : Nat) : Bool := s.dev.state == .full || (s.dev.state == .early && s.dev.upClusters.contains k)

/-! Context descriptors (R88). -/

/-- A bit field of the 64-byte descriptor of a context, in hub control space. -/
def ctxField (s : State) (x lo w : Nat) : Nat := s.mem.readNat (hubKey (64 * x)) 64 / 2 ^ lo % 2 ^ w

def ctxDom (s : State) (x : Nat) : Nat := ctxField s x 500 6
def ctxClmask (s : State) (x : Nat) : Nat := ctxField s x 492 8
def ctxPrioMax (s : State) (x : Nat) : Nat := ctxField s x 490 2
def ctxStw (s : State) (x : Nat) : Bool := ctxField s x 489 1 == 1
def ctxStarve (s : State) (x : Nat) : Nat := let v := ctxField s x 483 6; if v = 0 then 24 else v
def ctxWdog (s : State) (x : Nat) : Nat := ctxField s x 477 6
def ctxTvec (s : State) (x : Nat) : BitVec 48 := BitVec.ofNat 48 (ctxField s x 400 48)
def ctxRoot (s : State) (x : Nat) : Nat := ctxField s x 344 40
def ctxSaveBase (s : State) (x : Nat) : Nat := ctxField s x 272 48
def ctxSpillBase (s : State) (x : Nat) : Nat := ctxField s x 208 48
def ctxSpillSz (s : State) (x : Nat) : Nat := ctxField s x 203 5

/-- The control space of a base die in hub control space (R182). -/
def bdBase (st : Nat) : Nat := 0x100000 + st * 0x10000

end Sys2Proof.Machine
end

