-- ==== Sys2Proof/Machine/Hub.lean ====
section
/-! DEFINITION. Hub control space: what its registers read and how a write to each behaves (R88, R103, R182, R192,
R193, R227, R510, R518). -/
namespace Sys2Proof.Machine

/-- The first byte of the trace control block of a cluster, in hub control space (R518). -/
def traceBase (k : Nat) : Nat := 0x300000 + 64 * k

/-- A field of a cluster's trace control block. -/
def traceCtl (s : State) (k lo w : Nat) : Nat := s.mem.readNat (hubKey (traceBase k)) 64 / 2 ^ lo % 2 ^ w

/-- Bits of a number replaced. -/
def putField (x lo w v : Nat) : Nat := x - x / 2 ^ lo % 2 ^ w * 2 ^ lo + v % 2 ^ w * 2 ^ lo

/-- The code of a stack's state in BDSTAT (R182). -/
def StackState.code : StackState → Nat
  | .off => 0
  | .training => 1
  | .up => 2
  | .degraded => 3
  | .failed => 4

/-- The 32 bytes of a base die's registers (R182). -/
def bdBytes (x : Stack) : List Byte :=
  leBytes 8 x.nrcfg.toNat ++ leBytes 8 x.state.code ++ leBytes 8 x.ce ++ leBytes 8 x.uc

/-- The 64 bytes a line of hub control space reads as. -/
def hubLine (s : State) (off : Nat) : List Byte :=
  if 0x100000 ≤ off && off < 0x180000 && off % 0x10000 == 0 then
    bdBytes (s.stack ((off - 0x100000) / 0x10000)) ++ List.replicate 32 0
  else s.mem.readList (hubKey off) 64

/-- Bytes of hub control space. -/
def hubRead (s : State) (off n : Nat) : List Byte :=
  (((hubLine s (off / 64 * 64)) ++ hubLine s (off / 64 * 64 + 64)).drop (off % 64)).take n

/-- Bytes of a line replaced under a mask, without a rule of their own. -/
def hubMerge (s : State) (off mask : Nat) (bs : List Byte) : State :=
  { s with mem := s.mem.writeList (hubKey off) (mergeBytes mask bs (s.mem.readList (hubKey off) 64)) }

/-- The LFSR of a channel after a reseed (R192). -/
def lfsrSeed (seed ch : Nat) : BitVec 32 :=
  let x := BitVec.ofNat 32 (seed ^^^ ch)
  if x = 0 then 1 else x

/-- NRCFG written: a TEST of 0 to 1 reseeds every channel (R192). -/
def writeNrcfg (s : State) (st : Nat) (val : BitVec 64) : State :=
  let x := s.stack st
  let val := val &&& 0xFFFFFFFF8000FFFF
  let lfsr := if val.getLsbD 31 && !x.nrcfg.getLsbD 31 then
      (List.range 32).map (fun ch => (ch, lfsrSeed (val.extractLsb' 32 32).toNat ch))
    else x.lfsr
  s.setStack st { x with nrcfg := val, lfsr := lfsr }

/-- CECOUNT written: it clears, and a Degraded stack is Up again (R182, R183). -/
def writeCecount (s : State) (st : Nat) : State :=
  let x := s.stack st
  s.setStack st { x with ce := 0, ceTicks := [], state := if x.state == .degraded then .up else x.state }

/-- UCCOUNT written: it clears (R182). -/
def writeUccount (s : State) (st : Nat) : State := s.setStack st { s.stack st with uc := 0 }

/-- A PAT entry written (R193). -/
def writePat (s : State) (st i val : Nat) : State :=
  { s with mem := s.mem.writeNat (hubKey (bdBase st + 0x4000 + 2 * i)) 2 val }

/-- Closing the open frame (R519): a PAD record ends it. -/
def closeFrame (x : Trace) : Trace :=
  match x.opened with
  | none => x
  | some f => { x with opened := none, closed := x.closed ++ [{ f with bytes := f.bytes ++ [0x3F] }] }

/-- A stopped engine whose last frame has gone reads EN = 0 (R518). -/
def endTrace (s : State) (k : Nat) : State :=
  let x := s.trace k
  if x.stopping && x.opened.isNone && x.closed.isEmpty then
    let key := hubKey (traceBase k)
    let s := { s with mem := s.mem.writeNat key 64 (putField (s.mem.readNat key 64) 449 1 0) }
    s.setTrace k { x with stopping := false }
  else s

/-- A trace control block's new value (R518): with EN = 1 only RDIDX and EN change, and EN = 0 closes the open frame and
begins the stop; a setting of EN = 1 with LOGF out of range or MODE = 3 is written as EN = 0. The positions of the
arbiters begin anew with a setting. -/
def writeTraceCtl (s : State) (k new : Nat) : State :=
  let old := s.mem.readNat (hubKey (traceBase k)) 64
  let key := hubKey (traceBase k)
  if old.testBit 449 then
    let x := putField old 336 32 (new / 2 ^ 336)
    let t := s.trace k
    let s := { s with mem := s.mem.writeNat key 64 x }
    if new.testBit 449 then s else endTrace (s.setTrace k { closeFrame t with stopping := true }) k
  else
    let logf := new / 2 ^ 458 % 32
    let bad := logf < 4 || logf > 20 || new / 2 ^ 456 % 4 == 3
    let s := { s with mem := s.mem.writeNat key 64 (if bad then putField new 449 1 0 else new) }
    s.setTrace k { s.trace k with seqs := [], turns := [], turnAt := [(0, s.runTick)] }

/-- Bytes performed on a line of hub control space, each register by its own rule; offsets without a register discard
them. -/
def hubWrite (s : State) (off mask : Nat) (bs : List Byte) : State :=
  if off < 0x1000 then
    match (s.ctx (off / 64)).state with
    | .building => hubMerge s off mask bs
    | .suspended | .faulted => hubMerge s off (mask &&& (0x3F * 2 ^ 50)) bs
    | _ => s
  else if off < 0x41000 then
    if (s.queue ((off - 0x1000) / 64)).state == .unbound then hubMerge s off mask bs else s
  else if 0x80000 ≤ off && off < 0x88000 then
    if (s.stream ((off - 0x80000) / 128)).bound then s else hubMerge s off mask bs
  else if 0x100000 ≤ off && off < 0x180000 then
    let st := (off - 0x100000) / 0x10000
    let o := off % 0x10000
    if o = 0 then
      let old := bdBytes (s.stack st) ++ List.replicate 32 0
      let s := if mask % 2 ^ 8 = 0 then s else writeNrcfg s st (BitVec.ofNat 64 (leNat ((mergeBytes mask bs old).take 8)))
      let s := if mask / 2 ^ 16 % 2 ^ 8 = 0 then s else writeCecount s st
      if mask / 2 ^ 24 % 2 ^ 8 = 0 then s else writeUccount s st
    else if 0x4000 ≤ o && o < 0x8000 then hubMerge s off mask bs
    else s
  else if 0x200000 ≤ off && off < 0x200100 then hubMerge s off mask bs
  else if 0x300000 ≤ off && off < 0x300200 then
    writeTraceCtl s ((off - 0x300000) / 64) (leNat (mergeBytes mask bs (s.mem.readList (hubKey off) 64)))
  else s

/-! Trace records (R519-R521). -/

/-- The narrowest tick delta and the first byte of a record (R521). -/
def deltaBytes (kind delta : Nat) : List Byte :=
  if delta = 0 then [BitVec.ofNat 8 kind]
  else if delta < 2 ^ 8 then BitVec.ofNat 8 (64 + kind) :: leBytes 1 delta
  else if delta < 2 ^ 16 then BitVec.ofNat 8 (128 + kind) :: leBytes 2 delta
  else BitVec.ofNat 8 (192 + kind) :: leBytes 4 delta

/-- A record's bytes after a tick; a longer gap takes a FULL record first (R521). -/
def recordBytes (kind last now : Nat) (payload : List Byte) : List Byte :=
  if now - last ≥ 2 ^ 32 then BitVec.ofNat 8 0 :: leBytes 8 now ++ BitVec.ofNat 8 kind :: payload
  else deltaBytes kind (now - last) ++ payload

/-- A frame that opens with a record (R519). -/
def openFrame (s : State) (k : Nat) (x : Trace) (kind : Nat) (payload : List Byte) : Trace :=
  { x with
    opened := some {
      tick := s.tick, last := s.tick, no := x.nextNo, lost := traceCtl s k 304 32, slost := x.slost
      isRec := traceCtl s k 456 2 == 1, unal := !s.aligned, bytes := recordBytes kind s.tick s.tick payload }
    nextNo := (x.nextNo + 1) % 2 ^ 32, slost := 0 }

/-- Bytes accepted in the present tick (R522). -/
def Trace.now (x : Trace) (tick : Nat) : Nat := if x.accepted.1 = tick then x.accepted.2 else 0

/-- A record accepted by a cluster's trace engine (R519): into the open frame, or into a new one when it does not fit. -/
def acceptRecord (s : State) (k kind : Nat) (payload : List Byte) : State :=
  let x := s.trace k
  let last := match x.opened with | some f => f.last | none => s.tick
  let x := { x with accepted := (s.tick, x.now s.tick + (recordBytes kind last s.tick payload).length) }
  if traceCtl s k 449 1 = 0 || x.stopping then s
  else match x.opened with
    | none => s.setTrace k (openFrame s k x kind payload)
    | some f =>
      let bs := f.bytes ++ recordBytes kind f.last s.tick payload
      if 32 + bs.length + 1 ≤ 4096 then
        s.setTrace k { x with opened := some { f with bytes := bs, last := s.tick, unal := f.unal || !s.aligned } }
      else s.setTrace k (openFrame s k (closeFrame x) kind payload)

/-- A record of kinds 1 to 7, under its KMASK bit (R521). -/
def traceRecord (s : State) (k kind payload : Nat) : State :=
  if (traceCtl s k 441 8).testBit kind then acceptRecord s k kind (leBytes 8 payload) else s

/-- An arbiter's decision among requests of the recorded context (R528). -/
def noteDecision (s : State) (k ctx cls unit core str : Nat) : State :=
  if traceCtl s k 456 2 = 1 && traceCtl s k 450 6 = ctx && traceCtl s k 449 1 = 1 then
    let x := s.trace k
    let arb := cls * 2 ^ 16 + unit
    let n := x.seqs.get 0 arb
    let s := s.setTrace k { x with seqs := x.seqs.set arb ((n + 1) % 2 ^ 16) }
    acceptRecord s k 0x10 (leBytes 8 (cls * 2 ^ 56 + unit * 2 ^ 40 + core % 256 * 2 ^ 32 + str * 2 ^ 16 + n))
  else s

/-- Whether a full ring holds the recording arbiters of a cluster (R519). -/
def ringHolds (s : State) (k : Nat) : Bool :=
  traceCtl s k 456 2 == 1 && traceCtl s k 449 1 == 1 && !(s.trace k).closed.isEmpty &&
    (traceCtl s k 368 32 + 2 ^ 32 - traceCtl s k 336 32) % 2 ^ 32 ≥ 2 ^ traceCtl s k 458 5

/-- The decisions of one frame of a replay log: payloads of its DECIDE records, by fuel (R521, R529). -/
def frameDecisions : Nat → List Byte → List Nat
  | 0, _ => []
  | fuel + 1, bs =>
    match bs with
    | [] => []
    | b :: rest =>
      let kind := b.toNat % 64
      let dw := match b.toNat / 64 with | 0 => 0 | 1 => 1 | 2 => 2 | _ => 4
      if kind = 0x3F then []
      else
        let rest := rest.drop dw
        let more := frameDecisions fuel (rest.drop 8)
        if kind = 0x10 then leNat (rest.take 8) :: more else more

/-- Frame n of a cluster's replay log. -/
def replayFrame (s : State) (k n : Nat) : List Byte :=
  let a := traceCtl s k 256 48 + 4096 * n
  s.mem.readList (if traceCtl s k 463 1 = 1 then hostKey a else dramKey a) 4096

/-- The decisions a log holds for an arbiter, in order. -/
def replayDecisions (s : State) (k arb : Nat) : List Nat :=
  ((List.range (traceCtl s k 224 32)).flatMap (fun n =>
    let f := replayFrame s k n
    frameDecisions 4096 ((f.take (leNat ((f.drop 14).take 2))).drop 32))).filter
    (fun d => d / 2 ^ 40 == arb)

/-- The decision an arbiter must make next in replay; none outside replay or at the end of its log (R529). -/
def replayNext (s : State) (k ctx cls unit : Nat) : Option Nat :=
  if traceCtl s k 456 2 = 2 && traceCtl s k 450 6 = ctx then
    let arb := cls * 2 ^ 16 + unit
    (replayDecisions s k arb)[(s.trace k).turns.get 0 arb]?
  else none

/-- Whether an arbiter may serve a request now: no full ring holds it, and in replay the log names it (R519, R529). -/
def arbiterMay (s : State) (k ctx cls unit core str : Nat) : Bool :=
  !(ringHolds s k && traceCtl s k 450 6 == ctx) &&
  match replayNext s k ctx cls unit with
  | none => true
  | some d => d / 2 ^ 32 % 2 ^ 8 == core % 256 && d / 2 ^ 16 % 2 ^ 16 == str

/-- An arbiter serves a request: the decision is recorded, and in replay its log moves on. -/
def arbiterServe (s : State) (k ctx cls unit core str : Nat) : State :=
  let s := noteDecision s k ctx cls unit core str
  match replayNext s k ctx cls unit with
  | none => s
  | some _ =>
    let x := s.trace k
    let arb := cls * 2 ^ 16 + unit
    s.setTrace k { x with turns := x.turns.set arb (x.turns.get 0 arb + 1), turnAt := x.turnAt.set arb s.runTick }

end Sys2Proof.Machine
end

