-- ==== Sys2Proof/Machine/Ops.lean ====
section
/-! DEFINITION. The named operations over the machine's parts: reading and replacing units, homes and scopes (R54,
R60), DRAM granules with their side band (R187-R193), the phase buffer, snapshots and loads (R55-R62), taking a trap
and its frame (R97-R101), and deferred paths (R132). -/
namespace Sys2Proof.Machine

/-! Bytes at their homes. -/

/-- Remove reservations on a line (R73). -/
def clearResv (s : State) (line : Nat) : State := { s with resv := s.resv.filter (fun e => e.2.2 != line) }

/-- Remove a DRAM line from a cluster's cache. -/
def dropCached (s : State) (k line : Nat) : State :=
  match s.clusters.find k with
  | none => s
  | some x => s.setClu k { x with dcache := x.dcache.del line }

/-- Remove a DRAM line from every cluster's cache. -/
def dropCachedAll (s : State) (line : Nat) : State :=
  { s with clusters := s.clusters.map (fun e => (e.1, { e.2 with dcache := e.2.dcache.del line })) }

/-- A write performed at its home on lines a queue watches sends a wake to the wellhead (R106). -/
def sendWakes (s : State) (first last : Nat) : State :=
  if s.queues.any (fun e => e.2.watch.any (fun l => first ≤ l && l ≤ last)) then
    { s with queues := s.queues.map (fun e =>
      if e.2.watch.any (fun l => first ≤ l && l ≤ last) then (e.1, { e.2 with wakes := e.2.wakes ++ [s.tick] }) else e) }
  else s

/-! Parity of the fabric (R516; log 181). -/

/-- Whether some of n bytes from a key on are SRAM bytes whose parity failed when they were written. -/
def spoiled (s : State) (key n : Nat) : Bool := s.tainted.any (fun a => key ≤ a && a < key + n)

/-- Bytes of SRAM from a key on that a mask covers are written: poisoned where their parity failed, and well again
otherwise. -/
def markBytes (s : State) (key n mask : Nat) (bad : Bool) : State :=
  let ks := ((List.range n).filter (fun i => mask.testBit i)).map (fun i => key + i)
  let rest := s.tainted.filter (fun a => !ks.contains a)
  { s with tainted := if bad && keySpace key == 0 then ks.foldl insertNat rest else rest }

/-- Bytes put into memory; reservations on the lines they touch are cleared, and watches of them wake. -/
def putBytes (s : State) (key : Nat) (bs : List Byte) : State :=
  let first := lineOf key
  let last := lineOf (key + (bs.length - 1))
  let s := sendWakes s first last
  { s with
    mem := s.mem.writeList key bs, resv := s.resv.filter (fun e => e.2.2 < first || last < e.2.2)
    tainted := s.tainted.filter (fun a => a < key || key + bs.length ≤ a) }

/-- What a read or masked write of a granule reports (R185, R189). -/
inductive GranStatus
  | ok | ce | uc
  deriving DecidableEq, Repr

/-- The granule of a DRAM key. -/
def granOf (key : Nat) : Nat := keyAddr key / 32

/-- Bit count. -/
def popCount {w : Nat} (x : BitVec w) : Nat := (List.range w).countP (fun i => x.getLsbD i)

/-- The poison bit's place in the side band by grade; symbol grade keeps a signature instead (R188). -/
def poisonBit (grade : Nat) : Nat := if grade = 0 then 27 else 21

/-- What the check symbols of a poisoned granule differ by in symbol grade (R188). -/
def poisonSignature : BitVec 32 := 0x5AC33CA5

/-- The mask of metadata bits by grade (R179). -/
def metaMask (grade : Nat) : Nat := if grade = 0 then 2 ^ 27 - 1 else if grade = 1 then 2 ^ 21 - 1 else 0

/-- The stored bits of a granule that differ from those of its bytes with fresh check bits: bits that flipped and, in
symbol grade, the poison signature. Data bits first, the side band from bit 256 on (R188). -/
def wrongBits (s : State) (g grade : Nat) : BitVec 288 :=
  let p := s.flips.get 0 g
  if grade = 2 && s.poison.contains g then p ^^^ (poisonSignature.setWidth 288 <<< 256) else p

/-- The wrong symbols of a pattern in symbol grade. -/
def wrongSymbols (pat : BitVec 288) : Nat := (List.range 36).countP (fun i => pat.extractLsb' (8 * i) 8 != 0)

/-- Whether a granule reads as poisoned (R188): by its poison bit, the bit's own errors counted in; in symbol grade, by
check symbols that are those of the stored bytes XOR the signature, which the code's linearity makes a matter of the wrong
bits alone. A pattern within the code's reach is none. -/
def isPoisoned (s : State) (g grade : Nat) : Bool :=
  let p := wrongBits s g grade
  if grade = 2 then
    let data := p.extractLsb' 0 256
    2 < wrongSymbols p && p.extractLsb' 256 32 == (if data = 0 then 0 else Config.symbolChecks data) ^^^ poisonSignature
  else s.poison.contains g != p.getLsbD (256 + poisonBit grade)

/-- What the check bits make of the wrong bits of a granule (R188); none beyond the grade's reach. -/
def eccVerdict (pat : BitVec 288) (grade : Nat) : Option GranStatus :=
  let data := pat.extractLsb' 0 256
  match grade with
  | 0 =>
    let bad := (List.range 4).any (fun i =>
      (popCount (data.extractLsb' (64 * i) 64) + (if pat.getLsbD (256 + 28 + i) then 1 else 0)) % 2 == 1)
    some (if bad then .uc else .ok)
  | 1 =>
    match popCount data + popCount (pat.extractLsb' (256 + 22) 10) with
    | 0 => some .ok
    | 1 => some .ce
    | 2 => some .uc
    | _ => none
  | _ =>
    match wrongSymbols pat with
    | 0 => some .ok
    | 1 => some .ce
    | 2 => some .ce
    | _ => none

/-- A granule's flipped bits replaced. -/
def State.setFlips (s : State) (g : Nat) (p : BitVec 288) : State :=
  { s with flips := if p = 0 then s.flips.del g else s.flips.set g p }

/-- Fresh check bits: no wrong data or check bit is left, and in symbol grade no signature; wrong metadata and poison bits
stay (R188). -/
def clearFlips (s : State) (g grade : Nat) : State :=
  let keep := BitVec.ofNat 288 ((metaMask grade + (if grade = 2 then 0 else 2 ^ poisonBit grade)) * 2 ^ 256)
  let s := s.setFlips g (s.flips.get 0 g &&& keep)
  if grade = 2 then { s with poison := s.poison.filter (· != g) } else s

/-- Fresh check bits and a fresh poison mark (R190). -/
def freshSide (s : State) (g grade : Nat) (poisoned : Bool) : State :=
  let s := clearFlips s g grade
  let s := if grade = 2 then s else s.setFlips g (s.flips.get 0 g &&& ~~~(BitVec.ofNat 288 (2 ^ (256 + poisonBit grade))))
  { s with poison := if poisoned then insertNat s.poison g else s.poison.filter (· != g) }

/-- Bytes with bits of a pattern turned over. -/
def turnBytes (bs : List Byte) (d : BitVec 256) : List Byte := bs.zipIdx.map (fun e => e.1 ^^^ d.extractLsb' (8 * e.2) 8)

/-- The bytes of a granule as stored, wrong bits included. -/
def storedBytes (s : State) (g : Nat) : List Byte :=
  turnBytes (s.mem.readList (dramKey (32 * g)) 32) ((s.flips.get 0 g).extractLsb' 0 256)

/-- Free bytes drawn from a number. -/
def freeBytes (n : Nat) : List Byte := (List.range 32).map (fun i => Config.freeByte (64 * n + i))

/-- A correction counted; more than 2^16 of them within 2^30 ticks make an Up stack Degraded, which the Grielm controller
reports (R183). -/
def Stack.corrected (x : Stack) (tick : Nat) : Stack :=
  let ts := (tick :: x.ceTicks).take (2 ^ 16 + 1)
  let often := match ts[2 ^ 16]? with | some t => tick - t ≤ 2 ^ 30 | none => false
  let sinks := x.state == .up && often
  { x with ce := min (2 ^ 64 - 1) (x.ce + 1), ceTicks := ts, state := if sinks then .degraded else x.state
           reported := if sinks then some .degraded else x.reported }

/-- A correction counted by the stack of a granule (R183). -/
def countCe (s : State) (g : Nat) : State := s.setStack (g / 128 % 8) (Stack.corrected (s.stack (g / 128 % 8)) s.tick)

/-- An uncorrectable or poisoned granule counted by its stack. -/
def countUc (s : State) (g : Nat) : State :=
  s.setStack (g / 128 % 8) { s.stack (g / 128 % 8) with uc := min (2 ^ 64 - 1) ((s.stack (g / 128 % 8)).uc + 1) }

/-- Whether a granule was last wholly written under another grade (R179). -/
def otherGrade (s : State) (g grade : Nat) : Bool :=
  match s.wgrade.find g with | some w => w != grade | none => false

/-- A read of a granule last wholly written under another grade: bytes and status are free (R179). -/
def granOpen (s : State) (g grade : Nat) : State × List Byte × GranStatus :=
  let (s, n) := s.draw
  let bs := freeBytes n
  match Config.freeNat n % 3 with
  | 0 => (s, bs, .ok)
  | 1 => (countCe { clearFlips s g grade with mem := s.mem.writeList (dramKey (32 * g)) bs } g, bs, .ce)
  | _ => (countUc s g, bs, .uc)

/-- A read of a granule with errors beyond its grade's reach (R188): which of the three outcomes follows, and what a
miscorrection changes, depend on the pattern. -/
def granBeyond (s : State) (g grade : Nat) : State × List Byte × GranStatus :=
  let out := Config.eccBeyond grade (wrongBits s g grade)
  match out.1 % 3 with
  | 0 => (s, storedBytes s g, .ok)
  | 1 =>
    let bs := turnBytes (storedBytes s g) out.2
    (countCe { clearFlips s g grade with mem := s.mem.writeList (dramKey (32 * g)) bs } g, bs, .ce)
  | _ => (countUc s g, storedBytes s g, .uc)

/-! The physical allocation table and the stacks (R182, R183, R193). -/

/-- A PAT entry. -/
def patEntry (s : State) (st i : Nat) : Nat := s.mem.readNat (hubKey (bdBase st + 0x4000 + 2 * i)) 2

/-- The stack address of a physical DRAM address (R173). -/
def stackAddr (pa : Nat) : Nat := pa / 2 ^ 15 * 2 ^ 12 + pa % 2 ^ 12

/-- Whether a stripe's row 8i + 7 is a guard row (R193). -/
def isGuarded (s : State) (st i : Nat) : Bool :=
  let a := patEntry s st i
  let b := if i + 1 < 8192 then patEntry s st (i + 1) else 0
  a.testBit 15 && b.testBit 15 && a % 64 != b % 64

/-- The row of a physical DRAM address in its stack (R191). -/
def rowOf (pa : Nat) : Nat := stackAddr pa / 0x800000 * 8 + stackAddr pa % 0x800000 / 0x100000

/-- Whether a row of a stack is a guard row (R193). -/
def guardRow (s : State) (st r : Nat) : Bool := r % 8 == 7 && isGuarded s st (r / 8)

/-- The activate of a row (R192): its channel's LFSR advances sixteen steps, and a draw below K refreshes both neighbour
rows, guard rows apart. Every access of a granule activates its row (log 152). -/
def activate (s : State) (pa : Nat) : State :=
  let st := pa / 2 ^ 12 % 8
  let ch := pa / 2 ^ 15 % 32
  let x := s.stack st
  let steps := (List.range 16).foldl (fun b _ => Config.lfsrStep b) (x.lfsr.get 0 ch)
  let r := rowOf pa
  let near := ((if r = 0 then [] else [r - 1]) ++ [r + 1]).filter (fun n => n < 2 ^ 16 && !guardRow s st n)
  s.setStack st { x with
    lfsr := x.lfsr.set ch steps
    refreshed := if steps.extractLsb' 0 16 < x.nrcfg.extractLsb' 0 16 then x.refreshed.set ch near else x.refreshed }

/-- Reading a granule under a grade (R188, R189): the bytes, and whether it was corrected or uncorrectable. A
correction is written back and counted; an uncorrectable or poisoned one is counted. A granule last wholly written
under another grade, or one with errors beyond the grade's reach, has an open outcome. -/
def granRead (s : State) (g grade : Nat) : State × List Byte × GranStatus :=
  let s := activate s (32 * g)
  if otherGrade s g grade then granOpen s g grade
  else if isPoisoned s g grade then (countUc s g, storedBytes s g, .uc)
  else match eccVerdict (wrongBits s g grade) grade with
    | some .ok => (s, storedBytes s g, .ok)
    | some .ce =>
      let s := countCe (clearFlips s g grade) g
      (s, s.mem.readList (dramKey (32 * g)) 32, .ce)
    | some .uc => (countUc s g, storedBytes s g, .uc)
    | none => granBeyond s g grade

/-- A whole granule written: fresh check bits, poison cleared (R190). -/
def granWriteAll (s : State) (g grade : Nat) (bs : List Byte) : State :=
  let s := freshSide (activate s (32 * g)) g grade false
  putBytes { s with wgrade := s.wgrade.set g grade } (dramKey (32 * g)) bs

/-- A masked write of a granule (R190): the bytes as read, merged, with fresh check bits; an uncorrectable granule is
written back as read, and poisoned. -/
def granWrite (s : State) (g grade : Nat) (mask : Nat) (bs : List Byte) : State × GranStatus :=
  if mask % 2 ^ 32 = 0 then (s, .ok)
  else if mask % 2 ^ 32 = 2 ^ 32 - 1 then (granWriteAll s g grade bs, .ok)
  else
    match granRead s g grade with
    | (s, old, .uc) => (putBytes (freshSide s g grade true) (dramKey (32 * g)) old, .uc)
    | (s, old, r) => (putBytes (clearFlips s g grade) (dramKey (32 * g)) (mergeBytes mask bs old), r)

/-- A masked write of a granule whose bytes came over the fabric: where their parity failed it is written poisoned and the
write replies UC (R516). -/
def granArrive (s : State) (g grade : Nat) (mask : Nat) (bs : List Byte) (bad : Bool) : State × GranStatus :=
  let (t, r) := granWrite s g grade mask bs
  if bad && mask % 2 ^ 32 != 0 then (freshSide t g grade true, .uc) else (t, r)

/-- Whether a request of a domain at a DRAM address is refused with GUARD (R193). -/
def guardRefuses (s : State) (dom : Nat) (sys : Bool) (pa : Nat) : Bool :=
  let st := pa / 2 ^ 12 % 8
  let a := stackAddr pa
  let i := a / 0x800000
  let e := patEntry s st i
  (isGuarded s st i && a % 0x800000 / 0x100000 == 7) || !e.testBit 15 || (!sys && e % 64 != dom)

/-- Whether a stack answers: Up or Degraded; a Failed one replies UC, and Off and Training hold requests (R183). -/
def stackServes (s : State) (pa : Nat) : Bool :=
  s.dev.state != .early && match (s.stack (pa / 2 ^ 12 % 8)).state with
  | .up | .degraded | .failed => true
  | _ => false

/-- Whether a stack has failed. -/
def stackFailed (s : State) (pa : Nat) : Bool := (s.stack (pa / 2 ^ 12 % 8)).state == .failed

/-! Agents and their tags (R184-R187). -/

/-- The agent of a core's copy engine (R184). The requests of a cluster's service core (256) and of its raster unit (258)
are requested, performed and answered in one move each, so that they hold no tag between moves (log 84). -/
def coreAgent (c : Nat) : Nat := c / 256 * 512 + c % 256

/-- The agent of a cluster's tier engine (R184). -/
def tierAgent (k : Nat) : Nat := k * 512 + 257

/-- The stack of a DRAM address (R173). -/
def stackOf (pa : Nat) : Nat := pa / 2 ^ 12 % 8

/-- The lowest free tag of an agent for a stack (R186). -/
def freeTag (s : State) (agent stack : Nat) : Option Nat :=
  (List.range 8).find? (fun t => !s.pkts.any (fun p => p.agent == agent && p.stack == stack && p.tag == some t))

/-- Whether a packet concerns a granule of its stack. -/
def Packet.touches (p : Packet) (g : Nat) : Bool := p.spans.any (fun r => r.1 ≤ g && g < r.1 + r.2.1)

/-- Whether an agent's request to the granules of a line may be made now in one move: it finds a free tag, and what the
agent sent there before is done (R186, R187). -/
def agentMay (s : State) (agent line : Nat) : Bool :=
  let pa := 64 * line % spaceSize
  s.pkts.all (fun p => p.agent != agent || p.done || !(p.touches (pa / 32) || p.touches (pa / 32 + 1))) &&
    (freeTag s agent (stackOf pa)).isSome

/-! The phase buffer, channels, snapshots and loads (R55-R58). -/

/-- Byte i of a line. -/
def lineByte (d : BitVec 512) (i : Nat) : Byte := d.extractLsb' (8 * i) 8

/-- A line of bytes. -/
def lineOfBytes (bs : List Byte) : BitVec 512 := BitVec.ofNat 512 (leNat bs)

/-- The bytes of a line. -/
def bytesOfLine (d : BitVec 512) : List Byte := leBytes 64 d.toNat

/-- The most entries a phase buffer holds (R53). -/
def queueLimit : Nat := 2048

/-- Bytes at an offset of a line as a mask and a value. -/
def maskAt (o n : Nat) : BitVec 64 := BitVec.ofNat 64 ((2 ^ n - 1) * 2 ^ o)
def dataAt (o : Nat) (bs : List Byte) : BitVec 512 := BitVec.ofNat 512 (leNat bs * 2 ^ (8 * o))

/-- A byte mask spread to bits. -/
def bitMask (m : BitVec 64) : BitVec 512 :=
  BitVec.ofNat 512 (leNat ((List.range 64).map (fun i => if m.getLsbD i then (255 : Byte) else 0)))

/-- An entry with new bytes over its own. -/
def QLine.merge (e : QLine) (mask : BitVec 64) (data : BitVec 512) : QLine :=
  let b := bitMask mask
  { e with mask := e.mask ||| mask, data := (e.data &&& ~~~b) ||| (data &&& b) }

/-- A store of bytes within one line enters the phase buffer: merged into the youngest entry when it has the line,
whatever mapping it came through (log 147), else appended (R56), the oldest entry moving out of a full buffer (R55). -/
def Core.pushStore (k : Core) (key : Nat) (bs : List Byte) (via : Via) : Core :=
  let line := lineOf key
  let o := key % 64
  let m := maskAt o bs.length
  let d := dataAt o bs
  match k.q.getLast? with
  | some e => if e.line = line then { k with q := k.q.dropLast ++ [{ e.merge m d with via := via }] }
    else if k.q.length ≥ queueLimit then
      { k with moved := k.moved ++ k.q.take 1, q := k.q.drop 1 ++ [⟨line, m, d, via⟩] }
    else { k with q := k.q ++ [⟨line, m, d, via⟩] }
  | none => { k with q := [⟨line, m, d, via⟩] }

/-- The youngest entry that covers a byte (R57). -/
def coveringByte (es : List QLine) (line o : Nat) : Option Byte :=
  match es.reverse.find? (fun e => e.line = line && e.mask.getLsbD o) with
  | some e => some (lineByte e.data o)
  | none => none

/-- What a load or fill can end in besides bytes. -/
inductive LoadFail
  | uc | guard | held | link
  deriving DecidableEq, Repr

/-- Reading a whole line at its home for a core: DRAM by its agent (R184) through the granules' side band (R189), the rest
as bytes, uncorrectable where SRAM holds a poisoned one (R516). -/
def readHomeLine (s : State) (c line : Nat) (via : Via) : State × BitVec 512 × Option LoadFail :=
  let key := 64 * line
  if isDram key then
    let pa := keyAddr key
    if !stackServes s pa || !agentMay s (coreAgent c) line then (s, 0, some .held)
    else if stackFailed s pa then (s, 0, some .uc)
    else if guardRefuses s via.dom false pa then (s, 0, some .guard)
    else
      let (s, b0, r0) := granRead s (granOf key) via.grade
      let (s, b1, r1) := granRead s (granOf key + 1) via.grade
      (s, lineOfBytes (b0 ++ b1), if r0 == .uc || r1 == .uc then some .uc else none)
  else if spoiled s key 64 then (s, lineOfBytes (s.mem.readList key 64), some .uc)
  else match homeReach s key with
    | .wait => (s, 0, some .held)
    | .down => (s, 0, some .link)
    | .ok => (crossPeer s key (.load (keyAddr key) 64 via), lineOfBytes (s.mem.readList key 64), none)

/-- The lines of a cluster's DRAM read cache: 16 MiB (R9). -/
def dcacheLines : Nat := 2 ^ 18

/-- A line placed in a cluster's DRAM read cache; where the cache is full another line, a free choice, leaves it (log 146). -/
def cacheLine (s : State) (k line : Nat) (d : BitVec 512) : State :=
  let y := s.clu k
  if y.dcache.length < dcacheLines || (y.dcache.find line).isSome then s.setClu k { y with dcache := y.dcache.set line d }
  else
    let (s, n) := s.draw
    s.setClu k { y with dcache := Tab.set (dropAt y.dcache (Config.freeNat n % y.dcache.length)) line d }

/-- A Fill (R55, R174): the snapshot takes a copy of the line, from the cluster's cache or the home. An uncorrectable
line is placed nowhere (R189). Under cache policy 2 the snapshot drops its copy again, an older one with it. -/
def fillLine (s : State) (c line : Nat) (via : Via) : State × BitVec 512 × Option LoadFail :=
  let k := coreCluster c
  let dram := isDram (64 * line)
  match (if dram && via.cp == 0 then (s.clu k).dcache.find line else none) with
  | some d =>
    let x := s.core c
    (s.setCore c { x with snap := x.snap.set line d }, d, none)
  | none =>
    match readHomeLine s c line via with
    | (s, d, some f) => (s, d, some f)
    | (s, d, none) =>
      let s := if dram then (if via.cp == 0 then cacheLine s k line d else dropCached s k line) else s
      let x := s.core c
      (s.setCore c { x with snap := if via.cp == 2 then x.snap.del line else x.snap.set line d }, d, none)

/-- Whether a line lies in a core's own slice. -/
def ownSlice (c line : Nat) : Bool :=
  match homeOf (64 * line) with
  | .slice c' => c' == c
  | _ => false

/-- The line a load reads from behind the phase buffer: its home for its own slice and the hub, else the snapshot after
a Fill if need be (R57). -/
def baseLine (s : State) (c line : Nat) (via : Via) : State × BitVec 512 × Option LoadFail :=
  if ownSlice c line then (s, lineOfBytes (s.mem.readList (64 * line) 64), none)
  else if keySpace (64 * line) = 3 then (s, lineOfBytes (hubLine s (keyAddr (64 * line))), none)
  else match (if via.cp == 2 then none else (s.core c).snap.find line) with
    | some d => (s, d, none)
    | none => fillLine s c line via

/-- Bytes within one line as a core's load reads them (R57). The line is filled only when a byte needs it; in the core's own
slice a byte fails that was written poisoned (R516). -/
def loadBytes (s : State) (c key n : Nat) (via : Via) : State × List Byte × Option LoadFail :=
  let line := lineOf key
  let o := key % 64
  let k := s.core c
  let es := k.moved ++ k.q
  let got := (List.range n).map (fun i => coveringByte es line (o + i))
  if got.all Option.isSome then (s, got.map (·.getD 0), none)
  else
    let (s, d, f) := baseLine s c line via
    let bad := ownSlice c line && got.zipIdx.any (fun e => e.1.isNone && spoiled s (key + e.2) 1)
    (s, got.zipIdx.map (fun e => e.1.getD (lineByte d (o + e.2))), if bad then some .uc else f)

/-- Bytes over several lines, in pieces that each lie in one line. -/
def loadSpan (s : State) (c key : Nat) (via : Via) : Nat → Nat → State × List Byte × Option LoadFail
  | 0, _ => (s, [], none)
  | fuel + 1, n =>
    if n = 0 then (s, [], none)
    else
      let m := min n (64 - key % 64)
      match loadBytes s c key m via with
      | (s, bs, some f) => (s, bs, some f)
      | (s, bs, none) =>
        match loadSpan s c (key + m) via fuel (n - m) with
        | (s, bs', f) => (s, bs ++ bs', f)

/-- Bytes stored over several lines into a core's phase buffer. -/
def storeSpan (k : Core) (key : Nat) (via : Via) : Nat → List Byte → Core
  | 0, _ => k
  | fuel + 1, bs =>
    if bs.isEmpty then k
    else
      let m := 64 - key % 64
      storeSpan (k.pushStore key (bs.take m) via) (key + m) via fuel (bs.drop m)

/-- A line entry performed at its home (R55 Deliver, R190, R543): the bytes, the reservations on its line, the DRAM
cache of the core's cluster, and the core's own snapshot copy. A refused entry is discarded and its address kept. `bad` says
that the bytes' parity failed on the way (R516). -/
def performEntry (s : State) (c : Nat) (e : QLine) (bad : Bool) : State :=
  let key := 64 * e.line
  let bytes := bytesOfLine e.data
  let mask := e.mask.toNat
  if isDram key && (stackFailed s (keyAddr key) || guardRefuses s e.via.dom false (keyAddr key)) then
    if stackFailed s (keyAddr key) then s
    else
      let k := s.core c
      let off := (firstFrom (fun i => mask.testBit i) 64 0).getD 0
      s.setCore c { k with refused := k.refused ++ [(e.via.ctx, key + off)] }
  else
    let s :=
      if isDram key then
        let g := granOf key
        let (s, _) := granArrive s g e.via.grade (mask % 2 ^ 32) (bytes.take 32) bad
        let (s, _) := granArrive s (g + 1) e.via.grade (mask / 2 ^ 32) (bytes.drop 32) bad
        dropCached (clearResv s e.line) (coreCluster c) e.line
      else if keySpace key = 3 then hubWrite s (keyAddr key) mask bytes
      else
        let s := sendWakes (clearResv { s with
          mem := s.mem.writeList key (mergeBytes mask bytes (s.mem.readList key 64)) } e.line) e.line e.line
        crossPeer (markBytes s key 64 mask bad) key (.store (keyAddr key) e.via bytes)
    let k := s.core c
    match k.snap.find e.line with
    | none => s
    | some d =>
      let b := bitMask e.mask
      s.setCore c { k with snap := k.snap.set e.line ((d &&& ~~~b) ||| (e.data &&& b)) }

/-- The head entry of the channel from a core to a home, delivered, `bad` where its parity failed on the way (R516). -/
def deliverHead (s : State) (c : Nat) (h : Home) (bad : Bool) : State :=
  let k := s.core c
  match k.moved.findIdx? (fun e => homeOf (64 * e.line) == h) with
  | none => s
  | some i =>
    match k.moved[i]? with
    | none => s
    | some e =>
      if isDram (64 * e.line) && (!stackServes s (64 * e.line % spaceSize) || !agentMay s (coreAgent c) e.line) then s
      else if homeReach s (64 * e.line) == .wait then s
      else if homeReach s (64 * e.line) == .down then s.setCore c { k with moved := dropAt k.moved i }
      else performEntry (s.setCore c { k with moved := dropAt k.moved i }) c e bad

/-- The moving half of a release (R61): every entry of the phase buffer moves, when some home lies in the scope. -/
def releaseMoves (s : State) (c : Nat) (sc : Scope) : State :=
  match sc with
  | .core | .crew => s
  | _ =>
    let k := s.core c
    s.setCore c { k with moved := k.moved ++ k.q, q := [] }

/-- Whether the waiting half of a release is over: no moved entry with a home in the scope is unacknowledged (R61). -/
def releaseOver (s : State) (c : Nat) (sc : Scope) : Bool :=
  (s.core c).moved.all (fun e => !inScope c sc (homeOf (64 * e.line)))

/-- An acquire (R62); at .dev and .sys it also empties the cluster's cache, the instruction cache (R277) and the
sampler's records (R254). -/
def acquire (s : State) (c : Nat) (sc : Scope) : State :=
  match sc with
  | .core | .crew => s
  | _ =>
    let wide := sc == .dev || sc == .sys
    let k := s.core c
    let s := s.setCore c { k with
      snap := k.snap.filter (fun e => !inScope c sc (homeOf (64 * e.1)))
      icache := if wide then [] else k.icache
      recs := if wide then [] else k.recs }
    if wide then
      let x := s.clu (coreCluster c)
      s.setClu (coreCluster c) { x with dcache := [] }
    else s

/-- The moving half of a line drain (R65): every entry of the lines and every older one moves. -/
def drainMoves (s : State) (c : Nat) (lines : List Nat) : State :=
  let k := s.core c
  match k.q.reverse.findIdx? (fun e => lines.contains e.line) with
  | none => s
  | some i =>
    let n := k.q.length - i
    s.setCore c { k with moved := k.moved ++ k.q.take n, q := k.q.drop n }

/-- Whether a line drain's wait is over. -/
def drainOver (s : State) (c : Nat) (lines : List Nat) : Bool :=
  (s.core c).moved.all (fun e => !lines.contains e.line)

/-- Remove lines from a core's snapshot. -/
def dropSnap (s : State) (c : Nat) (lines : List Nat) : State :=
  let k := s.core c
  s.setCore c { k with snap := k.snap.filter (fun e => !lines.contains e.1) }

/-- A counted acquire (R75): the lines that overlap the ranges, or all of .dev when more than eight were registered. -/
def countedAcquire (s : State) (c : Nat) (ranges : Option (List (Nat × Nat))) : State :=
  let k := s.core c
  match ranges with
  | none => s.setCore c { k with snap := k.snap.filter (fun e => !inScope c .dev (homeOf (64 * e.1))) }
  | some rs => s.setCore c { k with snap := k.snap.filter (fun e =>
      rs.all (fun r => 64 * e.1 + 64 ≤ r.1 || r.1 + r.2 ≤ 64 * e.1)) }

/-! Taking a trap (R97-R101). -/

/-- Trap codes (R99). -/
def trapIllegalOp : Nat := 0x01
def trapIllegalClause : Nat := 0x02
def trapPrivilege : Nat := 0x03
def trapSegLimit : Nat := 0x04
def trapXlate : Nat := 0x05
def trapPerm : Nat := 0x06
def trapMisalign : Nat := 0x07
def trapDataUc : Nat := 0x08
def trapPromiseMissed : Nat := 0x09
def trapHandleErr : Nat := 0x0A
def trapBarrierScope : Nat := 0x0B
def trapGangMismatch : Nat := 0x0C
def trapGangStall : Nat := 0x0D
def trapSectDeadlock : Nat := 0x0E
def trapSectStarved : Nat := 0x0F
def trapSectDup : Nat := 0x10
def trapKeytabFull : Nat := 0x11
def trapSplitStack : Nat := 0x12
def trapRegGrow : Nat := 0x13
def trapSw : Nat := 0x14
def trapBkpt : Nat := 0x15
def trapWatchdog : Nat := 0x16
def trapLinkDown : Nat := 0x17
def trapGuard : Nat := 0x18
def trapTierState : Nat := 0x19
def trapRecordErr : Nat := 0x1A
def trapDumpWp : Nat := 0x1B

/-- The default RES of a trap (R99): 0 replay, 1 next, 2 exit. -/
def defaultRes (code : Nat) : Nat :=
  if code = trapIllegalClause || code = trapSplitStack then 2
  else if code = trapSegLimit || code = trapXlate || code = trapMisalign || code = trapKeytabFull || code = trapWatchdog
    || code = trapDumpWp then 0
  else 1

/-- The frame of a slot (R101). -/
def frameKey (c slot : Nat) : Nat := sramKey (sliceBase c + 0x120000 + slot * 0xD00)

/-- The 512 bits of a frame header (R101). -/
def frameHeader (t : TrapRec) (split pos : Nat) (flags : Flags) (late : Option (BitVec 48 × Nat)) (pc : BitVec 48)
    (mask : LaneMask) (tick : Nat) : Nat :=
  t.code * 2 ^ 504 + defaultRes t.code * 2 ^ 502 + split * 2 ^ 500 + pos * 2 ^ 495 + flags.toNat * 2 ^ 490 +
    (match late with | none => 0 | some (_, rpos) => 2 ^ 489 + rpos * 2 ^ 484) + pc.toNat * 2 ^ 384 +
    t.lanes.toNat * 2 ^ 288 + mask.toNat * 2 ^ 192 + t.addr % 2 ^ 64 * 2 ^ 128 + t.info.toNat * 2 ^ 64 + tick % 2 ^ 64

/-- The bytes of the temporaries in a frame: t0 to t7, 384 bytes each, in lane order (R101). -/
def tempBytes (temps : Tab LaneVec) : List Byte :=
  (List.range 8).flatMap (fun i => (List.range 96).flatMap (fun l => leBytes 4 ((temps.get [] i).getD l 0).toNat))

/-- A frame's 3328 bytes. -/
def frameBytes (hdr : Nat) (rpc : Nat) (temps : Tab LaneVec) : List Byte :=
  leBytes 64 hdr ++ leBytes 8 rpc ++ List.replicate 184 0 ++ tempBytes temps

/-- A scheduler is given up by a split whose clause no longer runs (R139). -/
def freeSched (s : State) (r : SplitRef) : State :=
  let k := s.core r.core
  let x := k.sched.get {} (r.slot / 6)
  if x.busy = some (r.slot, r.split) then s.setCore r.core { k with sched := k.sched.set (r.slot / 6) { x with busy := none } }
  else s

/-- The temporaries of a split's ended clause take no more results, and no window of it waits (R270, R271). -/
def Strand.closeWindows (st : Strand) (split : Nat) : Strand :=
  { st with results := st.results.map (fun p => if p.split = split then { p with gate := none, temps := false } else p) }

/-- A context without a usable handler becomes Faulted, with a fault record, and its clusters begin to leave (R90,
R98). -/
def contextFaults (s : State) (x : Nat) (f : FaultRec) : State :=
  let c := s.ctx x
  let c := { c with fault := some f, records := c.records ++ [f] }
  let s := s.setCtx x (if c.state == .dumping then { c with before := .faulted } else { c with state := .faulted })
  { s with clusters := s.clusters.map (fun e => if e.2.tenant = some x then (e.1, { e.2 with leaving := some x }) else e) }

/-- Taking a trap (R97, R98, R101): the frame is stored by the core, the split enters handler mode at TVEC with the same mask,
registers and flags; without a usable handler the context faults and the trap stays pending. `pc` and `pos` name the
trapping instruction and `late` the point where a late trap's split stopped (R545). -/
def takeTrap (s : State) (r : SplitRef) (t : TrapRec) (pc : BitVec 48) (pos : Nat) (late : Option (BitVec 48 × Nat)) :
    State :=
  let st := s.strand r
  let sp := st.split r.split
  let tvec := ctxTvec s st.ctx
  if tvec = 0 || sp.hm then
    let s := s.setSplit r { sp with
      prog := {}, traps := sp.traps ++ [{ trap := t, site := if late.isSome then some (pc, pos) else none }] }
    contextFaults s st.ctx
      { code := t.code, core := r.core, slot := r.slot, split := r.split, pc := pc, tick := s.tick, addr := t.addr }
  else
    let hdr := frameHeader t r.split pos st.flags late pc sp.mask s.tick
    let s := traceRecord s (coreCluster r.core) 4
      (pc.toNat / 8 * 2 ^ 19 + t.code * 2 ^ 14 + r.core % 256 * 2 ^ 6 + r.slot * 2)
    let s := s.setCore r.core (storeSpan (s.core r.core) (frameKey r.core r.slot) { ctx := st.ctx } 64
      (frameBytes hdr (match late with | none => 0 | some (rpc, _) => rpc.toNat) sp.temps))
    let sp := { sp with pc := tvec, state := .handler, hm := true, clause := none, temps := [], tickHi := none, prog := {},
                        entry := {}, stall := 0, traps := sp.traps.map (fun w => { w with kept := true }) }
    freeSched (s.setStrand r ((st.closeWindows r.split).setSplit r.split sp)) r

/-! Deferred paths (R131, R132). -/

/-- A deferred stack entry. -/
structure Defer where
  pc   : BitVec 48
  rpc  : BitVec 48
  arr  : Bool
  spl  : Nat
  hm   : Bool
  mask : LaneMask
  deriving DecidableEq, Repr

/-- The key of entry n of a slot's deferred stack. -/
def deferKey (c slot n : Nat) : Nat := sramKey (sliceBase c + 0x133800 + slot * 0x800 + 32 * n)

/-- The 256 bits of an entry. -/
def Defer.bits (e : Defer) : Nat :=
  e.pc.toNat * 2 ^ 208 + e.rpc.toNat * 2 ^ 160 + (if e.arr then 2 ^ 159 else 0) + e.spl % 4 * 2 ^ 157 +
    (if e.hm then 2 ^ 156 else 0) + e.mask.toNat

/-- The entry of 256 bits. -/
def Defer.ofBits (x : Nat) : Defer where
  pc := BitVec.ofNat 48 (x / 2 ^ 208)
  rpc := BitVec.ofNat 48 (x / 2 ^ 160)
  arr := x.testBit 159
  spl := x / 2 ^ 157 % 4
  hm := x.testBit 156
  mask := BitVec.ofNat 96 x

/-- The height of a strand's deferred stack: the entries its splits own (R129). -/
def Strand.deferHeight (st : Strand) : Nat := ((List.range 4).map (fun j => (st.split j).ndef)).sum

/-- The stack from the bottom. -/
def deferStack (s : State) (c slot : Nat) : List Defer :=
  (List.range (s.strandAt c slot).deferHeight).map (fun n => Defer.ofBits (s.mem.readNat (deferKey c slot n) 32))

/-- Write the stack from the bottom. -/
def putDefers (s : State) (c slot : Nat) (es : List Defer) : State :=
  es.zipIdx.foldl (fun s e => putBytes s (deferKey c slot e.2) (leBytes 32 e.1.bits)) s

/-- The place of a split's topmost entry. -/
def topDefer (es : List Defer) (split : Nat) : Option Nat :=
  (es.reverse.findIdx? (fun e => e.spl == split)).map (fun i => es.length - 1 - i)

/-- What a split does with its topmost deferred entry at a clause boundary (R132). -/
def deferBoundary (s : State) (r : SplitRef) : State :=
  let es := deferStack s r.core r.slot
  let sp := s.split r
  match topDefer es r.split with
  | none => s
  | some i =>
    match es[i]? with
    | none => s
    | some e =>
      if e.rpc = 0 || sp.pc != e.rpc then s
      else if !e.arr then
        let s := putDefers s r.core r.slot (setAt es i { e with mask := sp.mask, pc := e.rpc, arr := true })
        s.setSplit r { sp with mask := e.mask, pc := e.pc, own := sp.own ||| e.mask, stall := 20, since := s.runTick }
      else
        let s := putDefers s r.core r.slot (dropAt es i)
        s.setSplit r { sp with
          mask := sp.mask ||| e.mask, own := sp.own ||| e.mask, ndef := sp.ndef - 1, stall := 20, since := s.runTick }

/-- Merging a split into one of lower index (R133): masks, owners, deferred entries, waits and pending traps. -/
def mergeInto (s : State) (c slot lo hi : Nat) : State :=
  let es := deferStack s c slot
  let s := putDefers s c slot (es.map (fun e => if e.spl = hi then { e with spl := lo } else e))
  let st := s.strandAt c slot
  let a := st.split lo
  let b := st.split hi
  let a' := { a with mask := a.mask ||| b.mask, own := a.own ||| b.own, ndef := a.ndef + b.ndef, waits := a.waits ++ b.waits,
                     traps := a.traps ++ b.traps, reconv := a.reconv.or b.reconv
                     state := if a.state == .waiting || b.state == .waiting then .waiting else .ready
                     stall := if a.state == .waiting && !(b.state == .waiting && b.stall < a.stall) then a.stall else b.stall
                     since := if a.state == .waiting && !(b.state == .waiting && b.stall < a.stall) then a.since else b.since }
  let st := (st.setSplit lo a').setSplit hi {}
  let st := { st with
    results := st.results.map (fun p => if p.split = hi then { p with split := lo } else p)
    marks := st.marks.map (fun m => if m.split = hi then { m with split := lo } else m) }
  s.setStrandAt c slot st

/-- Whether a split stands at a clause boundary where it may merge (R133); one whose target lies out of range goes nowhere. -/
def Split.mergeable (sp : Split) : Bool :=
  (sp.state == .ready || sp.state == .waiting) && !sp.hm && sp.clause.isNone && sp.entry == {} &&
    sp.traps.all (fun w => w.site.isSome || w.trap.code == trapWatchdog)

/-- The first pair of mergeable splits with equal PCs that has one member given. -/
def mergePair (st : Strand) (i : Nat) : Option (Nat × Nat) :=
  let sp := st.split i
  if !sp.mergeable then none
  else match (List.range 4).find? (fun j => j != i && (st.split j).mergeable && (st.split j).pc == sp.pc) with
    | none => none
    | some j => some (min i j, max i j)

/-- Merges at a clause boundary of a split, at most three (R133). -/
def mergeBoundary (s : State) (c slot : Nat) : Nat → Nat → State
  | 0, _ => s
  | fuel + 1, i =>
    match mergePair (s.strandAt c slot) i with
    | none => s
    | some (lo, hi) => mergeBoundary (mergeInto s c slot lo hi) c slot fuel lo

/-- A split whose lanes are gone resumes its topmost deferred entry (R132), or becomes Free (R130). -/
def resumeOrFree (s : State) (r : SplitRef) : State :=
  let es := deferStack s r.core r.slot
  let sp := s.split r
  match topDefer es r.split with
  | none =>
    let st := s.strand r
    freeSched (s.setStrand r ({ st with marks := st.marks.filter (fun m => m.split != r.split) }.setSplit r.split {})) r
  | some i =>
    match es[i]? with
    | none => s
    | some e =>
      let s := putDefers s r.core r.slot (dropAt es i)
      let s := freeSched (s.setSplit r { sp with
        mask := e.mask, own := e.mask, pc := if e.arr then e.rpc else e.pc, hm := e.hm, ndef := sp.ndef - 1,
        state := if e.hm then .handler else .ready, clause := none, temps := [], prog := {}, entry := {},
        waits := [], traps := [], reconv := none, stall := 20, since := s.runTick }) r
      mergeBoundary (deferBoundary s r) r.core r.slot 4 r.split

/-- Parked splits of a strand whose other splits are all Parked on the same clause, or Free, merge and become Ready at the
header after it (R134): where they all go on, or where they would go different ways (log 162), the next one in memory. It is a
clause boundary of the merged split (R132). -/
def reconvBoundary (s : State) (c slot : Nat) : State :=
  let st := s.strandAt c slot
  let live := (List.range 4).filter (fun i => (st.split i).state != .free)
  match live with
  | [] => s
  | i :: rest =>
    let a := st.split i
    if live.all (fun j => (st.split j).state == .parked && (st.split j).reconv.map (·.1) == a.reconv.map (·.1)) then
      let pc := if live.all (fun j => (st.split j).pc == a.pc) then a.pc else (a.reconv.map (·.2)).getD a.pc
      let s := live.foldl (fun s j => s.setSplit ⟨c, slot, j⟩
        { s.split ⟨c, slot, j⟩ with state := .ready, stall := 0, pc := pc, reconv := none }) s
      deferBoundary (rest.foldl (fun s j => mergeInto s c slot i j) s) ⟨c, slot, i⟩
    else s

/-- The waits that hold a split at a clause boundary: in handler mode, only those begun there. -/
def Split.blocking (sp : Split) : List Wait := sp.waits.filter (fun w => w.hm || !sp.hm)

/-- The stall reason of a wait after a clause (R285, R15, R67). -/
def WaitKind.reason : WaitKind → Nat
  | .sleep _ => 9
  | .barrier .. => 6
  | .launchBar .. => 6
  | .barDone .. => 6
  | .sluIn .. => 10
  | .sluOut _ => 10
  | .vgrow .. => 18
  | .handle .. => 7
  | .promise _ => 8
  | .bcb .. => 5

/-- Of some waits the one with the lowest stall reason (R523). -/
def lowestWait : List Wait → Option Wait
  | [] => none
  | w :: ws => match lowestWait ws with
    | none => some w
    | some x => some (if x.kind.reason < w.kind.reason then x else w)

/-- The end of a split's clause at a next header (R130, R270): temporaries and windows end, the split waits, parks or
is Ready, and the boundary's merges are made. A deferred path pushed by the clause goes on being recorded (R131). -/
def endClause (s : State) (r : SplitRef) (pc : BitVec 48) : State :=
  let st := s.strand r
  let sp := st.split r.split
  let parks := sp.reconv.isSome && !sp.hm
  let parked := parks && sp.blocking.isEmpty
  let state := if sp.hm then SplitState.handler else if parked then .parked
    else if sp.blocking.isEmpty then .ready else .waiting
  let why := match lowestWait sp.blocking with
    | none => if parked then 19 else if sp.stall = 20 then 20 else 0
    | some w => w.kind.reason
  let sp := { sp with pc := pc, clause := none, temps := [], tickHi := none, prog := {}, entry := {}, state := state,
                      stall := why, since := s.runTick }
  let s := freeSched (s.setStrand r ((st.closeWindows r.split).setSplit r.split sp)) r
  if parked then reconvBoundary s r.core r.slot
  else mergeBoundary (if parks then s else deferBoundary s r) r.core r.slot 4 r.split

end Sys2Proof.Machine
end

