-- ==== Sys2Proof/Machine/Operands.lean ====
section
/-! DEFINITION. What an instruction sees (its view), every operand form read and written (R267-R270), handles as
sources (R162), and lanes (R136, R137). -/
namespace Sys2Proof

/-- Register k places after the one an operand names. -/
def Operand.after (o : Operand) (k : Nat) : Operand :=
  match o with
  | .v n => .v (n + BitVec.ofNat 8 k)
  | .s n => .s (n + BitVec.ofNat 6 k)
  | x => x

end Sys2Proof

namespace Sys2Proof.Machine

/-- The view an instruction has when it issues: the state, its split, its effective lanes (R137), the address of its
clause's header (H) and of the next one (N), and its place (R258). -/
structure View where
  s   : State
  r   : SplitRef
  st  : Strand
  sp  : Split
  eff : LaneMask
  h   : BitVec 48
  pos : Nat
  next : BitVec 48
  count : Nat

/-- A predicate register; p7 reads true (R137). -/
def Strand.pred (st : Strand) (n : BitVec 3) : LaneMask := if n = 7 then BitVec.allOnes 96 else st.p.get 0 n.toNat

/-- Bits [31:0], [63:32] or [95:64] of a mask (R136). -/
def maskWord (m : LaneMask) (i : Nat) : Word := m.extractLsb' (32 * i) 32

/-- A scalar register; s60 to s62 show the split's mask (R136). -/
def scalarOf (st : Strand) (sp : Split) (n : Nat) : Word :=
  if 60 ≤ n ∧ n ≤ 62 then maskWord sp.mask (n - 60) else st.s.get 0 n

/-- The clause header after a clause of some words. -/
def nextHeader (h : BitVec 48) (count : Nat) : BitVec 48 := h + BitVec.ofNat 48 (8 * (count + 1))

/-- The clause a split runs; a split without one shows an empty clause at its PC. -/
def Split.running (sp : Split) : Clause := sp.clause.getD { h := sp.pc, words := [], pos := 0, yields := false, alone := none }

/-- The view of an instruction with the fields of R264. -/
def State.view (s : State) (r : SplitRef) (c : Ctl) : View :=
  let st := s.strand r
  let sp := st.split r.split
  let cl := sp.running
  let g := st.pred c.pg
  { s := s, r := r, st := st, sp := sp, eff := sp.mask &&& (if c.pn then ~~~g else g), h := cl.h, pos := cl.pos,
    next := nextHeader cl.h cl.words.length, count := cl.words.length }

/-- The lanes of a mask in ascending order. -/
def lanesOf (m : LaneMask) : List Nat := (List.range 96).filter (fun l => m.getLsbD l)

/-- The lowest lane of a mask. -/
def lowLane (m : LaneMask) : Option Nat := (List.range 96).find? (fun l => m.getLsbD l)

/-- The mask of lanes that meet a condition. -/
def maskWhere (p : Nat → Bool) : LaneMask :=
  BitVec.ofNat 96 ((List.range 96).foldr (fun l acc => 2 * acc + (if p l then 1 else 0)) 0)

/-- A lane vector computed in the lanes of a mask, 0 elsewhere. -/
def vecOf (m : LaneMask) (f : Nat → Word) : LaneVec := (List.range 96).map (fun l => if m.getLsbD l then f l else 0)

/-! Handles as sources (R160-R162). -/

/-- Fields of a handle (R160). -/
def handleEng (h : DWord) : Nat := (h.extractLsb' 60 4).toNat
def handleClu (h : DWord) : Nat := (h.extractLsb' 57 3).toNat
def handleValid (h : DWord) : Bool := h.getLsbD 56
def handleSerial (h : DWord) : Nat := (h.extractLsb' 40 16).toNat
def handlePtick (h : DWord) : Nat := (h.extractLsb' 0 40).toNat

/-- The status of a handle in a context: 0 to 5, 6 while the command runs, 7 when stale; and its result word (R161). -/
def handleStatus (s : State) (ctx : Nat) (h : DWord) : Nat × Word :=
  if !handleValid h then (7, 0)
  else match (s.clu (handleClu h)).ctab.find (handleSerial h) with
    | none => (7, 0)
    | some e => if e.handle = h && e.ctx = ctx then (e.status, e.result) else (7, 0)

/-! Reading (R267-R270). -/

/-- A field of a lane's interval record; 0 in a lane without one (R250). -/
def recField (st : Strand) (l lo w : Nat) : Word :=
  BitVec.ofNat 32 ((st.staged.recs.get 0 l).toNat / 2 ^ lo % 2 ^ w)

/-- A special source (R268, R250). -/
def View.special (v : View) (x : Special) (l : Nat) : Word :=
  match x with
  | .lane => BitVec.ofNat 32 l
  | .sid => BitVec.ofNat 32 v.r.slot
  | .core => BitVec.ofNat 32 (v.r.core % 256)
  | .clu => BitVec.ofNat 32 (v.r.core / 256)
  | .crew => v.st.crewIx
  | .tickLo => BitVec.ofNat 32 v.s.tick
  | .tickHi => v.sp.tickHi.getD (BitVec.ofNat 32 (v.s.tick / 2 ^ 32))
  | .vlo => recField v.st l 443 7
  | .vhi => recField v.st l 436 7
  | .vmask => recField v.st l 352 32 ||| recField v.st l 320 32
  | .px => recField v.st l 462 12
  | .py => recField v.st l 450 12
  | .okey => recField v.st l 288 32
  | .oseq => recField v.st l 384 32
  | .zero => 0

/-- A 32-bit source in a lane (R270). A predicate, tile or codebook field is read by its own operations. -/
def View.rd (v : View) (o : Operand) (l : Nat) : Word :=
  match o with
  | .v n => (v.st.v.get [] n.toNat).getD l 0
  | .s n => scalarOf v.st v.sp n.toNat
  | .t n => (v.sp.temps.get [] n.toNat).getD l 0
  | .h n => (handleStatus v.s v.st.ctx (v.st.h.get 0 n.toNat)).2
  | .sp x => v.special x l
  | .imm k => k.signExtend 32
  | _ => 0

/-- A 64-bit source: a pair, or an inline constant sign-extended (R270). -/
def View.rd64 (v : View) (o : Operand) (l : Nat) : DWord :=
  match o with
  | .imm k => k.signExtend 64
  | _ => (v.rd (o.after 1) l) ++ (v.rd o l)

/-- A source of the operation's width, zero-extended to 64 bits. -/
def View.rdW (v : View) (w64 : Bool) (o : Operand) (l : Nat) : DWord :=
  if w64 then v.rd64 o l else (v.rd o l).setWidth 64

/-- A source as an integer of a word type (R332): an inline constant is its signed value under either signedness of
64 bits, and its 32-bit form otherwise. -/
def View.rdInt (v : View) (ty : Fmt) (o : Operand) (l : Nat) : Int :=
  intValue ty (v.rdW ty.is64 o l).toNat

/-- An FP32 source: an inline constant is converted exactly (R270). -/
def View.rdF (v : View) (ftz : Bool) (o : Operand) (l : Nat) : FVal :=
  match o with
  | .imm k => intFVal k.toInt
  | _ => readF32 ftz (v.rd o l)

/-- The code of an FP32 source. -/
def View.rdFBits (v : View) (o : Operand) (l : Nat) : Word :=
  match o with
  | .imm k => BitVec.ofNat 32 (itofV .rne k.toInt).1
  | _ => v.rd o l

/-- The layout of packed halves (R402). -/
def halfFormat (bf : Bool) : FFormat := if bf then ffBf16 else ff16

/-- Element e of a packed-half source; an inline constant is exact in both elements (R270). -/
def View.rdHalf (v : View) (bf : Bool) (o : Operand) (l e : Nat) : FVal :=
  match o with
  | .imm k => intFVal k.toInt
  | _ => (halfFormat bf).decode ((v.rd o l).extractLsb' (16 * e) 16).toNat

/-- A predicate source in a lane. -/
def View.rdP (v : View) (o : Operand) (l : Nat) : Bool :=
  match o with
  | .p n => (v.st.pred n).getLsbD l
  | _ => false

/-- A predicate source over all lanes. -/
def View.rdMask (v : View) (o : Operand) : LaneMask :=
  match o with
  | .p n => v.st.pred n
  | _ => 0

/-- The 96-bit value of an s triple (R414). -/
def View.rdTriple (v : View) (o : Operand) : LaneMask :=
  (v.rd (o.after 2) 0) ++ (v.rd (o.after 1) 0) ++ (v.rd o 0)

/-- The 128-bit value of an s quad, first register lowest. -/
def View.rdQuad (v : View) (o : Operand) : BitVec 128 :=
  (v.rd (o.after 3) 0) ++ (v.rd (o.after 2) 0) ++ (v.rd (o.after 1) 0) ++ (v.rd o 0)

/-! Writing (R270). -/

/-- A lane vector with the lanes of a mask replaced. -/
def blendLanes (m : LaneMask) (new old : LaneVec) : LaneVec :=
  (List.range 96).map (fun l => if m.getLsbD l then new.getD l 0 else old.getD l 0)

/-- A scalar register written; s60 to s62 set the mask within OWN (R136). -/
def putScalar (st : Strand) (i : Nat) (n : Nat) (x : Word) : Strand :=
  if 60 ≤ n ∧ n ≤ 62 then
    let sp := st.split i
    let k := 32 * (n - 60)
    let hole := BitVec.ofNat 96 ((2 ^ 32 - 1) * 2 ^ k)
    let m := (sp.mask &&& ~~~hole) ||| (x.setWidth 96 <<< k &&& hole)
    st.setSplit i { sp with mask := m &&& sp.own }
  else { st with s := st.s.set n x }

/-- A destination written in the lanes of a mask; a scalar takes the lowest lane's value (R270). -/
def Strand.put (st : Strand) (i : Nat) (o : Operand) (m : LaneMask) (x : LaneVec) : Strand :=
  match o with
  | .v n => { st with v := st.v.set n.toNat (blendLanes m x (st.v.get [] n.toNat)) }
  | .t n =>
    let sp := st.split i
    st.setSplit i { sp with temps := sp.temps.set n.toNat (blendLanes m x (sp.temps.get [] n.toNat)) }
  | .s n => match lowLane m with
    | none => st
    | some l => putScalar st i n.toNat (x.getD l 0)
  | .p n =>
    if n = 7 then st
    else { st with p := st.p.set n.toNat (maskWhere (fun l => if m.getLsbD l then x.getD l 0 != 0 else (st.p.get 0 n.toNat).getLsbD l)) }
  | _ => st

/-- The same over the state. -/
def putLanes (s : State) (r : SplitRef) (o : Operand) (m : LaneMask) (x : LaneVec) : State :=
  s.setStrand r ((s.strand r).put r.split o m x)

/-- A 64-bit destination: the low words to the named register, the high words to the next (R20). -/
def putLanes64 (s : State) (r : SplitRef) (o : Operand) (m : LaneMask) (x : List DWord) : State :=
  putLanes (putLanes s r o m (x.map (·.extractLsb' 0 32))) r (o.after 1) m (x.map (·.extractLsb' 32 32))

/-- A destination of the operation's width. -/
def putLanesW (s : State) (r : SplitRef) (w64 : Bool) (o : Operand) (m : LaneMask) (x : List DWord) : State :=
  if w64 then putLanes64 s r o m x else putLanes s r o m (x.map (·.setWidth 32))

/-- One word in every lane of a mask. -/
def putAll (s : State) (r : SplitRef) (o : Operand) (m : LaneMask) (x : Word) : State :=
  putLanes s r o m (List.replicate 96 x)

/-- A predicate written in the lanes of a mask; p7 is discarded. -/
def putPred (s : State) (r : SplitRef) (o : Operand) (m : LaneMask) (p : Nat → Bool) : State :=
  putLanes s r o m ((List.range 96).map (fun l => if p l then 1 else 0))

/-- Sticky flags raised (R37). -/
def raiseFlags (s : State) (r : SplitRef) (f : Flags) : State :=
  let st := s.strand r
  s.setStrand r { st with flags := st.flags ||| f }

/-- The flags of lanes together. -/
def joinFlags (fs : List Flags) : Flags := fs.foldl (· ||| ·) noFlag

end Sys2Proof.Machine
end

