-- ==== Sys2Proof/Machine/Issue.lean ====
section
/-! DEFINITION. Issuing an instruction of a latched clause: what precedes its effect (pending traps R545, other splits
in handler mode R97, lookahead windows R140, illegal words R275, handle sources R162, privilege R96), its effect, and
what follows it (the next place of the clause, its end, a trap or a wait in place). -/
namespace Sys2Proof.Machine

/-- What the effect of an instruction comes to: it is done; it waits in place under a stall reason (R285); it traps
(R99); or it has moved control itself. -/
inductive Res
  | done (s : State)
  | stay (why : Nat) (s : State)
  | trap (t : TrapRec) (s : State)
  | moved (s : State)

/-- Where a split goes on after a late trap (R545, R101): at a place of the clause whose header is `rpc` without
waiting on that header again, or, from place 24 on, at the header with its waits. -/
def resumeAt (s : State) (r : SplitRef) (rpc : BitVec 48) (rpos : Nat) : State :=
  if rpos ≥ 24 then endClause s r rpc
  else
    let sp := s.split r
    freeSched (s.setSplit r { sp with
      pc := rpc, clause := none, prog := {}, stall := 0, state := if sp.hm then .handler else .ready
      entry := { pos := rpos, waits := false, keep := true } }) r

/-- An instruction is done: the split's next place, or the end of its clause. -/
def advance (s : State) (r : SplitRef) : State :=
  let sp := s.split r
  match sp.clause with
  | none => s
  | some cl =>
    match cl.alone with
    | some (rpc, rpos) => resumeAt s r rpc rpos
    | none =>
      if cl.pos + 1 < cl.words.length then
        s.setSplit r { sp with
          clause := some { cl with pos := cl.pos + 1 }, prog := {}, stall := 0, since := s.runTick
          state := if sp.hm then .handler else .ready }
      else endClause s r (nextHeader cl.h cl.words.length)

/-- An instruction waits in place under a stall reason; the wait's first tick is kept (R100). With lanes parked on a
tagged word, or on a handle, its split is Waiting (R130). -/
def holdIn (s : State) (r : SplitRef) (why : Nat) : State :=
  let sp := s.split r
  s.setSplit r { sp with
    stall := why, since := if sp.stall = why then sp.since else s.runTick
    state := if sp.hm then .handler else if why = 4 || why = 7 then .waiting else .ready }

/-- Whether an operand is read as a source through its handle (R162). -/
def handleSource (e : Kind × Operand) : Option (BitVec 4) :=
  match e with
  | (.handle, _) => none
  | (_, .h n) => some n
  | _ => none

/-- The handles an instruction reads as sources. -/
def handleSources (i : Instr) (st : Strand) : List DWord :=
  (i.fields.filterMap handleSource).map (fun n => st.h.get 0 n.toNat)

/-- A v register at or above the strand's count among the fields (R270, R285). -/
def beyondCount (i : Instr) (st : Strand) : Bool :=
  i.fields.any (fun e => match e with
    | (k, .v n) => n.toNat + k.span > st.nregs
    | _ => false)

/-- Whether a strand runs at steward privilege (R96). -/
def isSteward (s : State) (st : Strand) : Bool := ctxStw s st.ctx

/-- Privileged instructions (R96). -/
def Instr.privileged (i : Instr) : Bool :=
  match i with
  | .segLd .. => true
  | .tlbInv .. => true
  | .csrw _ _ num => num.toNat ≥ 0x100
  | .csrr _ _ num => num == 0x181
  | .stwKeyspill .. => true
  | .stwDump .. => true
  | _ => false

/-- Whether an instruction reads a special source. -/
def readsSpecial (i : Instr) (x : Special) : Bool := i.fields.any (fun e => e.2 == .sp x)

/-- The trap of lowest code among some (R99). -/
def lowestTrap (ts : List WaitingTrap) : Option WaitingTrap :=
  match ts with
  | [] => none
  | t :: r =>
    match lowestTrap r with
    | none => some t
    | some t' => if t'.trap.code < t.trap.code then some t' else some t

/-- Whether a split waits for a grant of SLU.IN. -/
def Split.entering (sp : Split) : Bool :=
  sp.blocking.any (fun w => match w.kind with | .sluIn _ left .. => left != 0 | _ => false)

/-- The traps of a split that are its own now: in handler mode, those that stood before wait until TRET (log 161). -/
def Split.ownTraps (sp : Split) : List WaitingTrap := if sp.hm then sp.traps.filter (fun w => !w.kept) else sp.traps

/-- The traps a split may take now: an instruction that has begun and waits in place ends first, but for its own
watchdog; while SLU.IN waits, only the traps of R223 (R224). -/
def Split.takeable (sp : Split) : List WaitingTrap :=
  if sp.prog != {} then sp.ownTraps.filter (fun w => w.trap.code == trapWatchdog && w.site.isNone)
  else if sp.entering then
    sp.ownTraps.filter (fun w => w.site.isSome && [trapSectDeadlock, trapSectStarved, trapKeytabFull].contains w.trap.code)
  else sp.ownTraps

/-- Whether a split's next instruction has trapped, and the trap waits for a grant (R224). -/
def Split.trapHeld (sp : Split) : Bool :=
  sp.entering && sp.ownTraps.any (fun w => w.site.isNone && w.trap.code != trapWatchdog)

/-- The outcome of an instruction's effect; while SLU.IN waits, a trap waits with it under reason 10 (R224). -/
def settle (s : State) (r : SplitRef) (x : Res) : State :=
  match x with
  | .done s => advance s r
  | .stay why s => holdIn s r why
  | .trap t s' =>
    let sp := s'.split r
    if sp.entering then holdIn (s'.setSplit r { sp with prog := {}, traps := sp.traps ++ [{ trap := t, site := none }] }) r 10
    else takeTrap s' r t (s.split r).running.h (s.split r).running.pos none
  | .moved s => s

/-- Taking a trap that waited for a boundary at a place (R545, R99): a late trap names its instruction and the resume
point; an asynchronous one names the place itself. -/
def takeWaiting (s : State) (r : SplitRef) (w : WaitingTrap) (pc : BitVec 48) (pos : Nat) : State :=
  match w.site with
  | some (pc0, pos0) => takeTrap s r w.trap pc0 pos0 (some (pc, pos))
  | none => takeTrap s r w.trap pc pos none

/-- The reason a split's next instruction may not issue yet, the lower code of two (R523): a result it waits for (R140), or
another split of its strand in handler mode (R97). -/
def issueHeld (st : Strand) (r : SplitRef) (pos : Nat) : Option Nat :=
  if st.results.any (fun p => p.split == r.split && (match p.gate with | some g => g ≤ pos | none => false)) then some 2
  else if st.splits.any (fun e => e.1 != r.split && e.2.hm) then some 26
  else none

/-- The first failed check of R275 and the handle reads of R162, as a trap or a wait; none when the instruction has
its effect. A handle's status is looked at before a lower code of the body could be found (log 171). -/
def precheck (i : Instr) (v : View) : Option (Nat ⊕ TrapRec) :=
  let hs := if v.eff = 0 then [] else (handleSources i v.st).map (fun h => (h, (handleStatus v.s v.st.ctx h).1))
  if !i.wf || beyondCount i v.st then some (.inr { code := trapIllegalOp, lanes := v.eff })
  else if Instr.privileged i && !isSteward v.s v.st then some (.inr { code := trapPrivilege, lanes := v.eff })
  else if hs.any (fun e => e.2 == 6) then some (.inl 7)
  else match hs.find? (fun e => e.2 != 0) with
    | some (h, _) => some (.inr { code := trapHandleErr, lanes := v.eff, info := h })
    | none => none

/-- The tick's high half is kept for the clause when an instruction reads %tick_lo (R268). -/
def sampleTick (i : Instr) (s : State) (r : SplitRef) : State :=
  if readsSpecial i .tickLo then
    s.setSplit r { s.split r with tickHi := some (BitVec.ofNat 32 (s.tick / 2 ^ 32)) }
  else s

/-- What precedes every instruction: a trap that waits for the boundary is taken (R99, R545), and another split's
handler mode (R97) or a result still awaited (R140) holds the instruction. -/
def atBoundary (s : State) (r : SplitRef) (v : View) (go : State) : State :=
  match lowestTrap v.sp.takeable with
  | some w =>
    if (s.ctx v.st.ctx).state == .faulted then holdIn s r 27
    else if v.st.splits.any (fun e => e.1 != r.split && e.2.hm) then holdIn s r 26
    else takeWaiting (s.setSplit r { v.sp with traps := v.sp.traps.erase w }) r w v.h v.pos
  | none =>
    match (if v.sp.trapHeld then some 10 else issueHeld v.st r v.pos) with
    | some why => holdIn s r why
    | none => go

/-- The step of one instruction of the split that issues. -/
def issueStep (i : Instr) (c : Ctl) (s : State) (body : View → State → Res) : State :=
  let r := s.pick.ref
  let v := s.view r c
  atBoundary s r v
    (match precheck i v with
    | some (.inl why) => holdIn s r why
    | some (.inr t) => settle s r (.trap t s)
    | none =>
      let s := sampleTick i s r
      settle s r (body (s.view r c) s))

/-- A word that is no instruction traps ILLEGAL_OP when its place issues (R275, R276). -/
def issueIllegal (w : BitVec 64) (s : State) : State :=
  let r := s.pick.ref
  let v := s.view r (Raw.ofWord w).ctl
  atBoundary s r v (settle s r (.trap { code := trapIllegalOp, lanes := v.eff } s))

/-- The outcome of an instruction: always a next state. -/
def run (i : Instr) (c : Ctl) (s : State) (body : View → State → Res) : Host.Outcome State Fault Refusal :=
  .next (issueStep i c s body)

/-! Results of long-latency instructions (R140, R271). -/

/-- A new pending result: its number, and the state with it on the strand's list. `owed` replies are outstanding. -/
def pendResult (s : State) (v : View) (c : Ctl) (dst : List Operand) (lanes : LaneMask) (vals : List LaneVec)
    (flags : Flags) (owed : Nat) : State × Nat :=
  let (s, id) := s.fresh
  let st := s.strand v.r
  let p : Pending := {
    id := id, split := v.r.split, slot := c.slot, pc := v.h, pos := v.pos
    gate := if c.la = 15 then none else some (v.pos + 1 + c.la.toNat), temps := true, dst := dst, lanes := lanes
    vals := vals, flags := flags, owed := owed, acq := none, lose := none, won := true, fence := 0, beat := 0, bad := [], fail := none
    why := 0, since := s.runTick }
  (s.setStrand v.r { st with results := st.results ++ [p] }, id)

/-- A change of one pending result of a strand. -/
def updPending (st : Strand) (id : Nat) (f : Pending → Pending) : Strand :=
  { st with results := st.results.map (fun p => if p.id = id then f p else p) }

/-- A long-latency instruction whose result is known at issue. -/
def pend (s : State) (v : View) (c : Ctl) (dst : List Operand) (lanes : LaneMask) (vals : List LaneVec)
    (flags : Flags) : State := (pendResult s v c dst lanes vals flags 0).1

/-- The two words of a 64-bit destination. -/
def pairOf (o : Operand) : List Operand := [o, o.after 1]

/-- Low and high words of 64-bit values. -/
def lowWords (x : List DWord) : LaneVec := x.map (·.extractLsb' 0 32)
def highWords (x : List DWord) : LaneVec := x.map (·.extractLsb' 32 32)

/-- 64-bit values in the lanes of a mask, 0 elsewhere. -/
def vecOf64 (m : LaneMask) (f : Nat → DWord) : List DWord :=
  (List.range 96).map (fun l => if m.getLsbD l then f l else 0)

end Sys2Proof.Machine
end

