-- ==== Sys2Proof/Machine/Translate.lean ====
section
/-! DEFINITION. Segments, the table walk, and the checks of an access (09 R165-R181, 18 R424-R426). -/
namespace Sys2Proof.Machine

/-! Segment registers (R165, R166). -/

/-- BASE, LIMIT and RO of a segment register. -/
def segBase (x : BitVec 128) : Nat := (x.extractLsb' 80 48).toNat
def segLimit (x : BitVec 128) : Nat := (x.extractLsb' 32 48).toNat
def segRo (x : BitVec 128) : Bool := x.getLsbD 31

/-- The number of a segment. -/
def segNum : SegIx → Nat
  | .loc => 0
  | .clu => 1
  | .glb => 2
  | .dev => 3
  | .hst => 4
  | .peer => 5
  | .heap => 6
  | .aux => 7

/-- Bytes of the space a segment's window must lie within (R166). -/
def segSpan (i allocated : Nat) : Nat :=
  match i with
  | 0 => allocated
  | 1 => 0x03000000
  | 2 => 0xC0000000
  | _ => 2 ^ 48

/-- A segment value as it is loaded: closed when it breaks R165 or R166. -/
def admitSeg (i allocated : Nat) (x : BitVec 128) : BitVec 128 :=
  if x.extractLsb' 0 31 ≠ 0 || segBase x + segLimit x > segSpan i allocated || (i == 0 && segBase x != 0) then 0 else x

/-- What an offset of a segment names. -/
inductive SegAddr
  | sram (a : Nat) | virt (va tgt : Nat) | hub (off : Nat)
  deriving DecidableEq, Repr

/-- The address of an offset (R166). -/
def segAddr (s : State) (core : Nat) (st : Strand) (i : Nat) (o : Nat) : SegAddr :=
  let b := segBase (st.segs.get 0 i)
  match i with
  | 0 => .sram (sliceBase core + st.scratch + o)
  | 1 => .sram (core / 256 * regionSize + poolOffset + b + o)
  | 2 => .sram (b + o)
  | 4 => .virt (b + o) 1
  | 5 => .virt (b + o) 2
  | 7 => if isSteward s st then .hub (b + o) else .virt (b + o) 0
  | _ => .virt (b + o) 0

/-! How agents' requests fare. -/

/-- What an agent's access comes to: its bytes with whether one was corrected, or why there are none. -/
inductive HomeFail
  | uc | guard | held | link | fault
  deriving DecidableEq, Repr

/-- How a request at a key fares before it is performed (R183, R193, R513). -/
def keyFail (s : State) (key : Nat) (via : Via) (sys : Bool) : Option HomeFail :=
  if isDram key then
    if !stackServes s (keyAddr key) then some .held
    else if stackFailed s (keyAddr key) then some .uc
    else if guardRefuses s via.dom sys (keyAddr key) then some .guard
    else none
  else match homeReach s key with
    | .ok => none
    | .wait => some .held
    | .down => some .link

/-! The table walk (R169-R173). -/

/-- What a walk ends in: a leaf with the address of its entry, an XLATE fault, or a table whose stack does not serve yet. -/
inductive WalkEnd
  | leaf (e : BitVec 64) (at_ : Nat)
  | fault
  | held
  deriving DecidableEq, Repr

/-- An entry of a table read at its home by the walker's agent (R184, R189, R193), its granule in the grade it was last
wholly written in; an uncorrectable or refused one faults (log 40). -/
def tableRead (s : State) (pa : Nat) : State × Except WalkEnd (BitVec 64) :=
  if pa ≥ 2 ^ 39 then (s, .error .fault)
  else if !stackServes s pa then (s, .error .held)
  else if stackFailed s pa || guardRefuses s 0 true pa then (s, .error .fault)
  else match granRead s (pa / 32) ((s.wgrade.find (pa / 32)).getD 1) with
    | (s, _, .uc) => (s, .error .fault)
    | (s, bs, _) => (s, .ok (BitVec.ofNat 64 (leNat ((bs.drop (pa % 32)).take 8))))

/-- What follows with a table's entry. -/
def tableThen (s : State) (pa : Nat) (k : State → BitVec 64 → State × WalkEnd) : State × WalkEnd :=
  match tableRead s pa with
  | (s, .error f) => (s, f)
  | (s, .ok e) => k s e

/-- Fields of an entry. -/
def pteV (e : BitVec 64) : Bool := e.getLsbD 63
def pteL (e : BitVec 64) : Bool := e.getLsbD 62
def leafSize (e : BitVec 64) : Nat := (e.extractLsb' 60 2).toNat
def leafR (e : BitVec 64) : Bool := e.getLsbD 59
def leafW (e : BitVec 64) : Bool := e.getLsbD 58
def leafX (e : BitVec 64) : Bool := e.getLsbD 57
def leafGrade (e : BitVec 64) : Nat := (e.extractLsb' 55 2).toNat
def leafDom (e : BitVec 64) : Nat := (e.extractLsb' 49 6).toNat
def leafCp (e : BitVec 64) : Nat := (e.extractLsb' 47 2).toNat
def leafDp (e : BitVec 64) : Bool := e.getLsbD 46
def leafTgt (e : BitVec 64) : Nat := (e.extractLsb' 44 2).toNat
def leafPeer (e : BitVec 64) : Nat := (e.extractLsb' 39 5).toNat
def leafFrame (e : BitVec 64) : Nat := (e.extractLsb' 0 39).toNat

/-- Bytes of a leaf's page. -/
def leafBytes (e : BitVec 64) : Nat :=
  match leafSize e with
  | 0 => 2 ^ 16
  | 1 => 2 ^ 21
  | _ => 2 ^ 30

/-- Whether a leaf is legal at its level (R171, R172). -/
def leafOk (e : BitVec 64) (level : Nat) (steward : Bool) (dom : Nat) : Bool :=
  (if level = 2 then leafSize e == 2 else leafSize e ≤ 1) && leafGrade e ≤ 2 && leafCp e ≤ 2 && leafTgt e ≤ 2 &&
    (leafTgt e == 2 || leafPeer e == 0) && (leafTgt e != 0 || leafFrame e < 2 ^ 23) &&
    (leafFrame e * 2 ^ 16) % leafBytes e == 0 && (steward || leafDom e == dom)

/-- Whether a table entry's reserved bits are 0 (R170). -/
def tableOk (e : BitVec 64) : Bool := e.extractLsb' 39 23 == 0 && e.extractLsb' 0 12 == 0

/-- The address of the next table. -/
def tableNext (e : BitVec 64) : Nat := (e.extractLsb' 12 27).toNat * 2 ^ 12

/-- A walk (R169, R172). -/
def walkRead (s : State) (x va : Nat) : State × WalkEnd :=
  let good (e : BitVec 64) (level : Nat) : Bool := pteV e && leafOk e level (ctxStw s x) (ctxDom s x)
  tableThen s (ctxRoot s x + 8 * (va / 2 ^ 37 % 2 ^ 11)) fun s e1 =>
    if !pteV e1 || pteL e1 || !tableOk e1 then (s, .fault)
    else
      let a2 := tableNext e1 + 8 * (va / 2 ^ 26 % 2 ^ 11)
      tableThen s a2 fun s e2 =>
        if pteL e2 then (s, if good e2 2 then .leaf e2 a2 else .fault)
        else if !pteV e2 || !tableOk e2 then (s, .fault)
        else
          let a3 := tableNext e2 + 8 * (va / 2 ^ 16 % 2 ^ 10)
          tableThen s a3 fun s e3 => (s, if pteL e3 && good e3 3 then .leaf e3 a3 else .fault)

/-- The leaf a walk finds, with the address of its entry. -/
def walkLeaf (s : State) (x va : Nat) : Option (BitVec 64 × Nat) :=
  match (walkRead s x va).2 with
  | .leaf e a => some (e, a)
  | _ => none

/-- The physical address a leaf gives a virtual one. -/
def leafPa (e : BitVec 64) (va : Nat) : Nat := leafFrame e * 2 ^ 16 + va % leafBytes e

/-- The key of a virtual address under a leaf. -/
def leafKey (e : BitVec 64) (va : Nat) : Nat :=
  let pa := leafPa e va
  match leafTgt e with
  | 0 => dramKey pa
  | 1 => hostKey pa
  | _ => peerKey (leafPeer e) pa

/-- What a translation leaves with an access (R171, R193). -/
def leafVia (e : BitVec 64) (x : Nat) : Via := { dom := leafDom e, grade := leafGrade e, cp := leafCp e, ctx := x }

/-! First-level TLB (R175). -/

/-- The entry of a context that maps an address. -/
def tlbFind (es : List TlbEntry) (x va : Nat) : Option (BitVec 64) :=
  (es.find? (fun e => e.ctx == x && e.va ≤ va && va < e.va + e.size)).map (·.leaf)

/-- An entry for a leaf at an address. -/
def tlbEntry (x va : Nat) (leaf : BitVec 64) : TlbEntry :=
  { ctx := x, va := va / leafBytes leaf * leafBytes leaf, size := leafBytes leaf, leaf := leaf }

/-- An entry added; the oldest leaves a full TLB. -/
def tlbAdd (limit : Nat) (es : List TlbEntry) (e : TlbEntry) : List TlbEntry :=
  let es := es.filter (fun f => !(f.ctx == e.ctx && f.va == e.va))
  (if es.length ≥ limit then es.drop 1 else es) ++ [e]

/-- What the core knows of a page: its leaf, a recorded fault, or nothing yet. -/
inductive PageView
  | leaf (e : BitVec 64) | fault | unknown
  deriving DecidableEq, Repr

/-- The first-level view of an address. -/
def pageView (s : State) (c x va : Nat) : PageView :=
  match tlbFind (s.core c).tlb x va with
  | some e => .leaf e
  | none =>
    if (s.core c).lookups.any (fun l => l.ctx == x && l.page == va / 2 ^ 16 && l.stage == .faulted) then .fault
    else .unknown

/-- Ask for pages that are neither mapped nor asked for (R175). -/
def askPages (s : State) (c x : Nat) (pages : List Nat) : State :=
  pages.foldl (fun s p =>
    let k := s.core c
    if k.lookups.any (fun l => l.ctx == x && l.page == p) || (tlbFind k.tlb x (p * 2 ^ 16)).isSome then s
    else s.setCore c { k with lookups := k.lookups ++ [{ ctx := x, page := p, stage := .second }] }) s

/-- Forget recorded faults of pages: the access that met them has trapped. -/
def dropFaults (s : State) (c x : Nat) (pages : List Nat) : State :=
  let k := s.core c
  s.setCore c { k with
    lookups := k.lookups.filter (fun l => !(l.ctx == x && pages.contains l.page && l.stage == .faulted)) }

/-! The checks of an access. -/

/-- What an access needs: bytes, whether it writes (R165), whether it needs write permission at once (an ACAS does
not, R72), read permission, the spaces its instruction accepts (R425), its alignment, and whether it writes metadata, which
symbol grade has none of (R179). -/
structure Need where
  n      : Nat
  writes : Bool
  needR  : Bool := true
  cas    : Bool := false
  spaces : List Nat
  align  : Nat
  side   : Bool := false
  deriving DecidableEq, Repr

/-- Spaces of R425: SRAM, device DRAM, host, hub; peers are written 8. -/
def spacesAll : List Nat := [0, 1, 2, 3, 8]
def spacesSram : List Nat := [0]
def spacesDram : List Nat := [1]
def spacesAtomic : List Nat := [0, 1, 8]

/-- The space of a key as R425 groups them. -/
def spaceGroup (key : Nat) : Nat := min (keySpace key) 8

/-- One lane's check: a place, a trap of a code at an address, or a page still to be translated. -/
inductive Checked
  | place (addr key : Nat) (via : Via) (canWrite : Bool)
  | fail (code addr : Nat)
  | wait (page : Nat)
  deriving DecidableEq, Repr

/-- Whether an SRAM address lies in a cluster whose tenant is another context (R168, log 153). -/
def otherTenant (s : State) (ctx a : Nat) : Bool :=
  match (s.clu (a / regionSize)).tenant with
  | some x => x != ctx
  | none => false

/-- Whether an SRAM address is there for a strand: mapped and, in a slice's reserved region, steward code's or its own frame
through glb (R101, R168). -/
def sramInside (s : State) (core slot : Nat) (st : Strand) (seg a n : Nat) : Bool :=
  let o := a % regionSize
  !unmappedSram (sramKey a) && (isSteward s st || o ≥ poolOffset || o % sliceSize < reservedOffset ||
    (seg == 2 && keyAddr (frameKey core slot) ≤ a && a + n ≤ keyAddr (frameKey core slot) + 0xD00))

/-- Whether a strand may touch an SRAM address: there for it, and, but for steward code, not in a cluster of another tenant
(R168). -/
def sramAllowed (s : State) (core slot : Nat) (st : Strand) (seg a n : Nat) : Bool :=
  sramInside s core slot st seg a n && (isSteward s st || !otherTenant s st.ctx a)

/-- The check of one offset (R167, R172, R176, R180, R425), the trap of lowest code first (R99). -/
def checkOffset (s : State) (core slot : Nat) (st : Strand) (seg : Nat) (need : Need) (o : Int) : Checked :=
  let sg := st.segs.get 0 seg
  let addr := ((segBase sg : Int) + o).toNat % 2 ^ 64
  let roFail := need.writes && !need.cas && segRo sg
  if o < 0 || o + need.n > segLimit sg then .fail trapSegLimit addr
  else match segAddr s core st seg o.toNat with
    | .sram a =>
      if roFail || !need.spaces.contains 0 || !sramAllowed s core slot st seg a need.n then .fail trapPerm a
      else if a % need.align != 0 then .fail trapMisalign a
      else .place a (sramKey a) { ctx := st.ctx } (!segRo sg)
    | .hub off =>
      if roFail || !need.spaces.contains 3 then .fail trapPerm off
      else if off % need.align != 0 then .fail trapMisalign off
      else .place off (hubKey off) { ctx := st.ctx } (!segRo sg)
    | .virt va tgt =>
      match pageView s core st.ctx va with
      | .fault => .fail trapXlate va
      | .unknown => .wait (va / 2 ^ 16)
      | .leaf e =>
        let key := leafKey e va
        if s.dev.state == .early && leafTgt e == 0 then .wait (va / 2 ^ 16)
        else if leafTgt e != tgt || roFail || !need.spaces.contains (spaceGroup key) || (need.needR && !leafR e)
            || (need.writes && !need.cas && !leafW e) || (need.side && leafGrade e == 2) then .fail trapPerm va
        else if va % need.align != 0 then .fail trapMisalign va
        else if homeReach s key == .down then .fail trapLinkDown va
        else if need.writes && leafDp e && leafW e then .fail trapDumpWp va
        else .place va key (leafVia e st.ctx) (leafW e && !segRo sg)

/-- A lane's place. -/
structure Place where
  lane : Nat
  addr : Nat
  key  : Nat
  via  : Via
  canWrite : Bool
  deriving DecidableEq, Repr

/-- An access after its checks: places of every lane, a trap, or pages to wait for. -/
inductive Access
  | ready (ps : List Place)
  | trap (t : TrapRec) (pages : List Nat)
  | wait (pages : List Nat)
  deriving DecidableEq, Repr

/-- The lowest code among failed lanes. -/
def lowestCode (xs : List (Nat × Checked)) : Option Nat :=
  xs.foldl (fun acc e => match e.2 with
    | .fail code _ => some (match acc with | none => code | some a => min a code)
    | _ => acc) none

/-- The trap of the lanes that failed with a code (R101, R176). -/
def laneTrap (xs : List (Nat × Checked)) (code : Nat) : TrapRec :=
  let bad := xs.filterMap (fun e => match e.2 with
    | .fail c a => if c = code then some (e.1, a) else none
    | _ => none)
  { code := code, lanes := maskWhere (fun l => bad.any (fun e => e.1 == l)),
    addr := match bad with | (_, a) :: _ => a | [] => 0 }

/-- The checks of all lanes together: SEG_LIMIT first, then every translation, then the other traps (R167, R176). -/
def gather (xs : List (Nat × Checked)) : Access :=
  let pages := xs.filterMap (fun e => match e.2 with | .wait p => some p | _ => none)
  match lowestCode xs with
  | some 4 => .trap (laneTrap xs 4) []
  | some code =>
    if !pages.isEmpty then .wait pages
    else .trap (laneTrap xs code)
      (xs.filterMap (fun e => match e.2 with | .fail 5 a => some (a / 2 ^ 16) | _ => none))
  | none =>
    if !pages.isEmpty then .wait pages
    else .ready (xs.filterMap (fun e => match e.2 with
      | .place addr key via w => some { lane := e.1, addr := addr, key := key, via := via, canWrite := w }
      | _ => none))

/-- The offset of a lane (R424). -/
def View.offset (v : View) (a64 : Bool) (a b : Operand) (l : Nat) : Int :=
  if a64 then
    let o := ((v.rd64 a l).toNat : Int) + (v.rd b l).toInt
    if o ≥ 2 ^ 64 then -1 else o
  else
    let x := ((v.rd a l).toNat : Int)
    let y : Int := match b with
      | .imm k => k.toInt
      | _ => (v.rd b l).toNat
    if x + y ≥ 2 ^ 32 then -1 else x + y

/-- The checks of an access over lanes with their offsets. -/
def View.check (v : View) (sg : SegIx) (need : Need) (offs : List (Nat × Int)) : Access :=
  gather (offs.map (fun e => (e.1, checkOffset v.s v.r.core v.r.slot v.st (segNum sg) need e.2)))

/-- The offsets of the effective lanes. -/
def View.offsets (v : View) (a64 : Bool) (a b : Operand) : List (Nat × Int) :=
  (lanesOf v.eff).map (fun l => (l, v.offset a64 a b l))

/-- Entries of a context and address dropped from every TLB; a walk under way for them ends without installing, and a
lookup for them asks again (R178). -/
def invalidate (s : State) (hit : Nat → Nat → Nat → Bool) : State :=
  let keep (es : List TlbEntry) := es.filter (fun e => !hit e.ctx e.va e.size)
  { s with
    cores := s.cores.map (fun e => (e.1, { e.2 with
      tlb := keep e.2.tlb, lookups := e.2.lookups.filter (fun l => !hit l.ctx (l.page * 2 ^ 16) (2 ^ 16)) }))
    clusters := s.clusters.map (fun e => (e.1, { e.2 with
      tlb2 := keep e.2.tlb2
      walks := e.2.walks.map (fun w => if hit w.ctx (w.page * 2 ^ 16) (2 ^ 16) then { w with dead := true } else w) })) }

/-- Entries that overlap one address of a context. -/
def hitsPage (x va : Nat) (ctx base size : Nat) : Bool := ctx == x && base ≤ va && va < base + size

/-- A table's entry written by the steward's engine at its home. -/
def tableWrite (s : State) (pa : Nat) (e : BitVec 64) : State :=
  if !stackServes s pa || stackFailed s pa then s
  else
    let o := pa % 32
    let (s, _) := granWrite s (pa / 32) ((s.wgrade.find (pa / 32)).getD 1) (0xFF * 2 ^ o)
      (List.replicate o 0 ++ leBytes 8 e.toNat ++ List.replicate (24 - o) 0)
    dropCachedAll s (lineOf (dramKey pa))

/-- DP set or cleared in the leaves of a group that map an address, and the address invalidated (R180, R181). -/
def putDp (s : State) (x va : Nat) (on : Bool) : State :=
  match walkRead s x va with
  | (s, .leaf e a) =>
    let n := match leafSize e with | 0 => 1 | 1 => 32 | _ => 16
    let first := a / (8 * n) * (8 * n)
    let s := (List.range n).foldl (fun s i =>
      match tableRead s (first + 8 * i) with
      | (s, .ok e) => tableWrite s (first + 8 * i) (if on then e ||| (1#64 <<< 46) else e &&& ~~~(1#64 <<< 46))
      | (s, .error _) => s) s
    invalidate s (hitsPage x va)
  | (s, _) => s

/-- DP cleared where it stands outside a dump (R180). -/
def clearDp (s : State) (x va : Nat) : State := putDp s x va false

/-- A strand's write meets DP = 1: in a dump its page is wanted next; outside one the steward clears the bit (R180,
R181). -/
def dumpStall (s : State) (x va : Nat) : State :=
  let c := s.ctx x
  if c.state == .dumping then s.setCtx x { c with dumpWant := insertNat c.dumpWant (va / 2 ^ 16) } else clearDp s x va

/-- An access that acts once its checks are passed; until then it waits for translation under reason 15, and under
reason 28 for a dump-protected page (R98, R180). -/
def withAccess (v : View) (s : State) (x : Access) (act : List Place → Res) : Res :=
  match x with
  | .ready ps => act ps
  | .wait pages => .stay 15 (askPages s v.r.core v.st.ctx pages)
  | .trap t pages =>
    if t.code = trapDumpWp then .stay 28 (dumpStall s v.st.ctx t.addr) else .trap t (dropFaults s v.r.core v.st.ctx pages)

end Sys2Proof.Machine
end

