-- ==== Sys2Proof/Machine/Waits.lean ====
section
/-! DEFINITION. Waits in place: line drains (R65), releases with their refused stores (R61, R543), the heartbeat of a
fence (R68); and late results (R140, R545). -/
namespace Sys2Proof.Machine

/-- Progress of the split that issues. -/
def State.prog (s : State) (r : SplitRef) : Prog := (s.split r).prog
/-- Replace it. -/
def State.setProg (s : State) (r : SplitRef) (p : Prog) : State := s.setSplit r { s.split r with prog := p }

/-- The trap a covering release or drain reports for the oldest refused store of its context, taken off the list
(R543). -/
def refusedTrap (s : State) (c ctx : Nat) (covers : Nat → Bool) : Option (TrapRec × State) :=
  let k := s.core c
  match k.refused.findIdx? (fun e => e.1 == ctx && covers e.2) with
  | none => none
  | some i =>
    let addr := (k.refused[i]?.getD (0, 0)).2
    some ({ code := trapGuard, addr := keyAddr addr }, s.setCore c { k with refused := dropAt k.refused i })

/-- The line drain of R65, waited for under a reason, and what follows it. -/
def drainThen (v : View) (s : State) (lines : List Nat) (why : Nat) (k : State → Res) : Res :=
  let c := v.r.core
  if (s.prog v.r).drained then k s
  else
    let s := drainMoves s c lines
    if drainOver s c lines then
      match refusedTrap s c v.st.ctx (fun a => lines.contains (lineOf a)) with
      | some (t, s) => .trap t s
      | none => k (s.setProg v.r { s.prog v.r with drained := true })
    else .stay why s

/-- What follows a release that is complete: a pending refusal it covers is reported (R543). -/
def releasedThen (v : View) (s : State) (sc : Scope) (k : State → Res) : Res :=
  match refusedTrap s v.r.core v.st.ctx (fun a => inScope v.r.core sc (homeOf a)) with
  | some (t, s) => .trap t s
  | none => k (s.setProg v.r { s.prog v.r with rel := 4, scope := none })

/-- A release at a scope, waited for under a reason until RELEASE_COMPLETE, and what follows it (R61). A peer in the
scope whose bundle has failed traps LINK_DOWN (R513). -/
def releaseThen (v : View) (s : State) (sc : Scope) (why : Nat) (k : State → Res) : Res :=
  let c := v.r.core
  let p := s.prog v.r
  match p.rel with
  | 0 =>
    let sc := realScope s c v.st sc
    let s := releaseMoves s c sc
    let lost := (s.core c).moved.any (fun e => inScope c sc (homeOf (64 * e.line)) && homeReach s (64 * e.line) == .down)
    if lost then .trap { code := trapLinkDown, lanes := v.eff } s
    else if releaseOver s c sc then releasedThen v s sc k
    else .stay why (s.setProg v.r { p with rel := 1, scope := some sc })
  | 1 => .stay why s
  | 2 => releasedThen v s (p.scope.getD .core) k
  | 3 => .trap { code := trapLinkDown, lanes := v.eff } s
  | _ => k s

/-- The acquire at a scope (R62). -/
def acquireAt (s : State) (v : View) (sc : Scope) : State := acquire s v.r.core (realScope s v.r.core v.st sc)

/-- The heartbeat of a fence, waited for under reason 17, and what follows with its index (R68). -/
def beatThen (v : View) (s : State) (k : Nat → State → Res) : Res :=
  match (s.prog v.r).beat with
  | none => .stay 17 (s.setProg v.r { s.prog v.r with beat := some none })
  | some none => .stay 17 s
  | some (some n) => k n s

/-- The first two steps of SCFENCE, and what follows with the fence's index (R68). -/
def fenceThen (v : View) (s : State) (k : Nat → State → Res) : Res :=
  releaseThen v (s.setProg v.r { s.prog v.r with fences := true }) .sys 16 fun s => beatThen v s k

/-- A FENCE record (R521, R69). -/
def fenceRecord (s : State) (r : SplitRef) (n : Nat) : State :=
  traceRecord s (coreCluster r.core) 6 (n % 2 ^ 40 + r.core % 256 * 2 ^ 40 + r.slot * 2 ^ 48)

/-- A pending result that will end in a late trap instead of a write (R545). -/
def pendFail (s : State) (v : View) (c : Ctl) (t : TrapRec) : State :=
  let (s, id) := pendResult s v c [] v.eff [] noFlag 0
  s.setStrand v.r (updPending (s.strand v.r) id (fun p => { p with fail := some t }))

/-- Run over places with a state, gathering what each gives. -/
def eachPlace {α : Type} (f : State → Place → State × α) (s : State) : List Place → State × List (Place × α)
  | [] => (s, [])
  | p :: ps =>
    let (s, a) := f s p
    let (s, r) := eachPlace f s ps
    (s, (p, a) :: r)

/-- The code of a load's failure as a late trap (R545). -/
def LoadFail.code : LoadFail → Nat
  | .uc => trapDataUc
  | .guard => trapGuard
  | .link => trapLinkDown
  | .held => trapXlate

/-- The late trap of the lanes that failed, the lowest code first (R99, R427). -/
def failTrap (bad : List (Place × LoadFail)) : Option TrapRec :=
  match bad.map (fun e => e.2.code) with
  | [] => none
  | x :: xs =>
    let code := xs.foldl min x
    let ls := bad.filter (fun e => e.2.code == code)
    some { code := code, lanes := maskWhere (fun l => ls.any (fun e => e.1.lane == l)),
           addr := match ls with | e :: _ => e.1.addr | [] => 0 }

end Sys2Proof.Machine
end

