-- ==== Sys2Proof/Machine/Mem.lean ====
section
/-! DEFINITION. Ordinary loads and stores, metadata, PHASE and SCFENCE (18 R427-R431, R438, R439). -/
namespace Sys2Proof.Machine

/-- Bytes of a width (R274). -/
def widthBytes : Width → Nat
  | .b8 => 1
  | .b16 => 2
  | .b32 => 4
  | .b64 => 8
  | .b128 => 16

/-- A loaded value extended to 64 bits: by sign from its width, or by zeros (R427). -/
def extendLoad (n : Nat) (sx : Bool) (x : Nat) : DWord :=
  if sx && x.testBit (8 * n - 1) then BitVec.ofInt 64 ((x : Int) - 2 ^ (8 * n)) else BitVec.ofNat 64 x

/-- One lane's load as its core sees memory (R57). -/
def loadPlace (c n : Nat) (s : State) (p : Place) : State × (List Byte × Option LoadFail) :=
  let (s, bs, f) := loadBytes s c p.key n p.via
  (s, (bs, f))

/-- The loads of one instruction, all resolved in one move (R57), and what to do with their bytes; a request held by a
stack or link that is not up waits, and a failed one becomes a late trap (R427). -/
def loadAll (v : View) (s : State) (c : Ctl) (n : Nat) (ps : List Place) (k : State → List (Place × List Byte) → Res) : Res :=
  let (s', xs) := eachPlace (loadPlace v.r.core n) s ps
  let bad := xs.filterMap (fun e => e.2.2.map (fun f => (e.1, f)))
  if bad.any (fun e => e.2 == .held) then .stay 14 s
  else match failTrap bad with
    | some t => .done (pendFail s' v c t)
    | none => k s' (xs.map (fun e => (e.1, e.2.1)))

/-- The value of a lane among gathered bytes. -/
def laneNat (xs : List (Place × List Byte)) (l : Nat) : Nat :=
  match xs.find? (fun e => e.1.lane == l) with
  | some e => leNat e.2
  | none => 0

/-- LD (R427). -/
def execLd (c : Ctl) (sg : SegIx) (wd : Width) (sx a64 : Bool) (d a b : Operand) (s : State) :=
  run (.ld c sg wd sx a64 d a b) c s fun v s =>
    let n := widthBytes wd
    withAccess v s (v.check sg { n := n, writes := false, spaces := spacesAll, align := n } (v.offsets a64 a b)) fun ps =>
      loadAll v s c n ps fun s xs =>
        let x := vecOf64 v.eff fun l => extendLoad n sx (laneNat xs l)
        .done (if wd = .b64 then pend s v c (pairOf d) v.eff [lowWords x, highWords x] noFlag
               else pend s v c [d] v.eff [lowWords x] noFlag)

/-- Bytes stored at a place enter the core's phase buffer (R56). -/
def storePlace (s : State) (c : Nat) (p : Place) (bs : List Byte) : State :=
  s.setCore c ((s.core c).pushStore p.key bs p.via)

/-- ST (R428): the lanes in ascending order. -/
def execSt (c : Ctl) (sg : SegIx) (wd : Width) (a64 : Bool) (d a b : Operand) (s : State) :=
  run (.st c sg wd a64 d a b) c s fun v s =>
    let n := widthBytes wd
    withAccess v s (v.check sg { n := n, writes := true, needR := false, spaces := spacesAll, align := n }
        (v.offsets a64 a b)) fun ps =>
      .done (ps.foldl (fun s p => storePlace s v.r.core p (leBytes n (v.rdW (wd = .b64) d p.lane).toNat)) s)

/-- The lines of places. -/
def linesOf (ps : List Place) : List Nat := ps.map (fun p => lineOf p.key)

/-- The metadata word of a granule as stored, wrong bits included, cut to its grade (R179, R188). -/
def metaRead (s : State) (key grade : Nat) : Nat :=
  let wrong := ((s.flips.get 0 (granOf key)).extractLsb' 256 32).toNat
  (s.mem.readNat (metaKey (keyAddr key)) 4 ^^^ wrong) &&& metaMask grade

/-- The metadata word written, its wrong bits gone (R429). -/
def metaWrite (s : State) (key grade val : Nat) : State :=
  let g := granOf key
  let s := (activate s (keyAddr key)).setFlips g (s.flips.get 0 g &&& ~~~(BitVec.ofNat 288 (metaMask grade * 2 ^ 256)))
  { s with mem := s.mem.writeNat (metaKey (keyAddr key)) 4 (val &&& metaMask grade) }

/-- How a core's home request at a DRAM place fares (R183, R187, R193). -/
def homeFail (s : State) (c : Nat) (p : Place) : Option LoadFail :=
  let pa := keyAddr p.key
  if !isDram p.key then (match homeReach s p.key with | .ok => none | .wait => some .held | .down => some .link)
  else if !stackServes s pa || !agentMay s (coreAgent c) (lineOf p.key) then some .held
  else if stackFailed s pa then some .uc
  else if guardRefuses s p.via.dom false pa then some .guard
  else none

/-- One lane's LD.md: a granule last written under another grade has open metadata (R179). -/
def metaPlace (c : Nat) (s : State) (p : Place) : State × (List Byte × Option LoadFail) :=
  match homeFail s c p with
  | some f => (s, ([], some f))
  | none =>
    let s := activate s (keyAddr p.key)
    if otherGrade s (granOf p.key) p.via.grade then
      let (s, n) := s.draw
      (s, (leBytes 4 ((Config.freeWord n).toNat &&& metaMask p.via.grade), none))
    else (s, (leBytes 4 (metaRead s p.key p.via.grade), none))

/-- LD.md (R429). -/
def execLdMd (c : Ctl) (sg : SegIx) (a64 : Bool) (d a b : Operand) (s : State) :=
  run (.ldMd c sg a64 d a b) c s fun v s =>
    withAccess v s (v.check sg { n := 4, writes := false, spaces := spacesDram, align := 4 } (v.offsets a64 a b)) fun ps =>
      drainThen v s (linesOf ps) 16 fun s =>
        let (s', xs) := eachPlace (metaPlace v.r.core) s ps
        let bad := xs.filterMap (fun e => e.2.2.map (fun f => (e.1, f)))
        if bad.any (fun e => e.2 == .held) then .stay 14 s
        else match failTrap bad with
          | some t => .done (pendFail s' v c t)
          | none =>
            let got := xs.map (fun e => (e.1, e.2.1))
            .done (pend s' v c [d] v.eff [vecOf v.eff fun l => BitVec.ofNat 32 (laneNat got l)] noFlag)

/-- ST.md (R429). -/
def execStMd (c : Ctl) (sg : SegIx) (a64 : Bool) (d a b : Operand) (s : State) :=
  run (.stMd c sg a64 d a b) c s fun v s =>
    withAccess v s (v.check sg { n := 4, writes := true, needR := false, spaces := spacesDram, align := 4, side := true }
        (v.offsets a64 a b)) fun ps =>
      drainThen v s (linesOf ps) 16 fun s =>
        let bad := ps.filterMap (fun p => (homeFail s v.r.core p).map (fun f => (p, f)))
        if bad.any (fun e => e.2 == .held) then .stay 14 s
        else
          let s := ps.foldl (fun s p =>
            if (homeFail s v.r.core p).isSome then s else metaWrite s p.key p.via.grade (v.rd d p.lane).toNat) s
          match failTrap bad with
          | some t => .trap t s
          | none => .done s

/-- LDS (R430): one load at a uniform address. -/
def execLds (c : Ctl) (sg : SegIx) (wd : Width) (sx a64 : Bool) (d a b : Operand) (s : State) :=
  run (.lds c sg wd sx a64 d a b) c s fun v s =>
    let n := widthBytes wd
    if v.eff = 0 then .done s
    else withAccess v s (v.check sg { n := n, writes := false, spaces := spacesAll, align := n }
        [((lowLane v.eff).getD 0, v.offset a64 a b 0)]) fun ps =>
      loadAll v s c n ps fun s xs =>
        let x := match xs with | e :: _ => leNat e.2 | [] => 0
        let words := if n ≤ 4 then [(extendLoad n sx x).extractLsb' 0 32]
          else (List.range (n / 4)).map (fun i => BitVec.ofNat 32 (x / 2 ^ (32 * i)))
        .done (pend s v c ((List.range words.length).map (fun i => d.after i)) v.eff
          (words.map (fun w => vecOf v.eff fun _ => w)) noFlag)

/-- STS (R431): one store at a uniform address. -/
def execSts (c : Ctl) (sg : SegIx) (wd : Width) (a64 : Bool) (d a b : Operand) (s : State) :=
  run (.sts c sg wd a64 d a b) c s fun v s =>
    let n := widthBytes wd
    if v.eff = 0 then .done s
    else withAccess v s (v.check sg { n := n, writes := true, needR := false, spaces := spacesAll, align := n }
        [((lowLane v.eff).getD 0, v.offset a64 a b 0)]) fun ps =>
      let x := if n = 16 then (v.rdQuad d).toNat else (v.rdW (wd = .b64) d 0).toNat
      .done (ps.foldl (fun s p => storePlace s v.r.core p (leBytes n x)) s)

/-- PHASE (R63, R438). -/
def execPhase (c : Ctl) (k : PhaseKind) (sc : Scope) (s : State) :=
  run (.phase c k sc) c s fun v s =>
    if v.eff = 0 then .done s
    else match k with
      | .acq => .done (acquireAt s v sc)
      | .rel => releaseThen v s sc 16 fun s => .done s
      | .ar => releaseThen v s sc 16 fun s => .done (acquireAt s v sc)

/-- SCFENCE (R68, R439). -/
def execScfence (c : Ctl) (s : State) :=
  run (.scfence c) c s fun v s =>
    if v.eff = 0 then .done s
    else fenceThen v s fun n s => .done (fenceRecord (acquireAt s v .dev) v.r n)

end Sys2Proof.Machine
end

