-- ==== Sys2Proof/Machine/Tagged.lean ====
section
/-! DEFINITION. Tagged words: the instructions, their requests at the homes, parking and waking (03 R65-R67,
18 R432-R437). -/
namespace Sys2Proof.Machine

/-! At the home (R66, R67). -/

/-- The tag of the word of an SRAM key: full or not. -/
def isFull (s : State) (key : Nat) : Bool := !s.emptyTags.contains (keyAddr key / 4)
/-- The tag made full. -/
def setFull (s : State) (key : Nat) : State := { s with emptyTags := s.emptyTags.filter (· != keyAddr key / 4) }
/-- The tag made empty; the word is not written, so no reservation on its line falls (log 169). -/
def setEmpty (s : State) (key : Nat) : State := { s with emptyTags := insertNat s.emptyTags (keyAddr key / 4) }

/-- A lane of a lane vector replaced. -/
def setLane (x : LaneVec) (l : Nat) (w : Word) : LaneVec :=
  (List.range 96).map (fun i => if i = l then w else x.getD i 0)

/-- A lane's value in a pending result: low words in the first vector, high words in a second if there is one. -/
def Pending.setVal (p : Pending) (l : Nat) (x : DWord) : Pending :=
  { p with vals := p.vals.zipIdx.map (fun e => setLane e.1 l (x.extractLsb' (32 * e.2) 32)) }

/-- The late trap of failed lanes, the lowest code first (R70, R72). -/
def badTrap (bad : List (Nat × Nat × Nat)) : Option TrapRec :=
  match bad with
  | [] => none
  | e :: es =>
    let code := es.foldl (fun a x => min a x.2.2) e.2.2
    let ls := (e :: es).filter (fun x => x.2.2 == code)
    let low := ls.foldl (fun a x => min a x.1) 95
    some { code := code, lanes := maskWhere (fun l => ls.any (fun x => x.1 == l)),
           addr := match ls.find? (fun x => x.1 == low) with | some x => x.2.1 | none => 0 }

/-- One reply fewer is owed; after the last one a failed lane becomes the result's late trap (R70, R545). -/
def Pending.heard (p : Pending) : Pending :=
  { p with owed := p.owed - 1, fail := if p.fail.isNone && p.owed = 1 then badTrap p.bad else p.fail }

/-- A lane whose word was written poisoned fails with DATA_UC (R516). -/
def laneFails (s : State) (t : Target) (l : ReqLane) : State :=
  match t.id with
  | some id => s.setStrandAt t.core t.slot (updPending (s.strandAt t.core t.slot) id (fun p =>
      ({ p with bad := p.bad ++ [(l.lane, l.addr, trapDataUc)] } : Pending).heard))
  | none => s

/-- A reply of one lane: its line leaves the core's snapshot, and its value reaches the pending result, or its lane is
done in the split that waits in place (R66). -/
def laneReply (s : State) (t : Target) (l key : Nat) (x : DWord) : State :=
  let s := dropSnap s t.core [lineOf key]
  match t.id with
  | some id =>
    let st := s.strandAt t.core t.slot
    s.setStrandAt t.core t.slot (updPending st id (fun p => (p.setVal l x).heard))
  | none =>
    let r : SplitRef := ⟨t.core, t.slot, t.split⟩
    let p := s.prog r
    s.setProg r { p with lanes := p.lanes ||| (1#96 <<< l) }

/-- The first parked lane of a word with one of the operations. -/
def firstParked (s : State) (key : Nat) (ops : List TagOp) : Option Nat :=
  s.parked.findIdx? (fun p => p.lane.key == key && ops.contains p.op)

/-- Wakings at a word after its tag changed (R67): with a full tag, every parked LDTK and then the oldest LDT; with an
empty one, the oldest parked STT. -/
def wakeWord (s : State) (key : Nat) : Nat → State
  | 0 => s
  | fuel + 1 =>
    if isFull s key then
      match firstParked s key [.ldtk] with
      | some i =>
        match s.parked[i]? with
        | none => s
        | some p =>
          let s := { s with parked := dropAt s.parked i }
          wakeWord (laneReply s p.target p.lane.lane key (BitVec.ofNat 64 (s.mem.readNat key 4))) key fuel
      | none =>
        match firstParked s key [.ldt] with
        | none => s
        | some i =>
          match s.parked[i]? with
          | none => s
          | some p =>
            let s := setEmpty { s with parked := dropAt s.parked i } key
            wakeWord (laneReply s p.target p.lane.lane key (BitVec.ofNat 64 (s.mem.readNat key 4))) key fuel
    else
      match firstParked s key [.stt] with
      | none => s
      | some i =>
        match s.parked[i]? with
        | none => s
        | some p =>
          let s := setFull (putBytes { s with parked := dropAt s.parked i } key (leBytes 4 p.lane.arg.toNat)) key
          wakeWord (laneReply s p.target p.lane.lane key 0) key fuel

/-- Whether two keys share a waiter table. -/
def sameHome (a b : Nat) : Bool := homeOf a == homeOf b

/-- Barrier waits parked at a home (R159). -/
def bcbParked (s : State) (key : Nat) : Nat :=
  (s.cores.map (fun e => (e.2.slots.map (fun f => (f.2.splits.map (fun g => g.2.waits.countP (fun w =>
    match w.kind with
    | .bcb a _ none none => sameHome a key
    | _ => false))).sum)).sum)).sum

/-- A lane parks, or is refused by a full waiter table and sent again after 64 ticks (R67). -/
def parkLane (s : State) (t : Target) (op : TagOp) (l : ReqLane) : State :=
  if s.parked.countP (fun p => sameHome p.lane.key l.key) + bcbParked s l.key < 1024 then
    { s with parked := s.parked ++ [{ target := t, op := op, lane := l }] }
  else { s with tagReqs := s.tagReqs ++ [{ target := t, op := op, lanes := [l], after := s.tick + 64 }] }

/-- One lane of a tagged operation at its home (R66). A full word that was written poisoned is read by no lane, and stays
full (R516, log 181). -/
def tagLane (t : Target) (op : TagOp) (s : State) (l : ReqLane) : State :=
  let val := BitVec.ofNat 64 (s.mem.readNat l.key 4)
  let fuel := s.parked.length + 1
  let fill := fun (s : State) => setFull (putBytes s l.key (leBytes 4 l.arg.toNat)) l.key
  if (op == .ldt || op == .ldtk) && isFull s l.key && spoiled s l.key 4 then laneFails s t l
  else match op, isFull s l.key with
  | .stt, false => wakeWord (laneReply (fill s) t l.lane l.key 0) l.key fuel
  | .stt, true => parkLane s t op l
  | .ldt, true => wakeWord (laneReply (setEmpty s l.key) t l.lane l.key val) l.key fuel
  | .ldt, false => parkLane s t op l
  | .ldtk, true => laneReply s t l.lane l.key val
  | .ldtk, false => parkLane s t op l
  | .sttf, _ => wakeWord (laneReply (fill s) t l.lane l.key 0) l.key fuel
  | .rd, full => laneReply s t l.lane l.key (if full then 1 else 0)
  | .clr, _ => wakeWord (laneReply (setEmpty s l.key) t l.lane l.key 0) l.key fuel

/-- Whether a request that the same core sent to a home earlier than the request at a place is still on its way (R13). -/
def tagBehind (s : State) (i core key : Nat) : Bool :=
  (s.tagReqs.take i).any (fun p => p.after == 0 && p.target.core == core && p.lanes.any (fun l => sameHome l.key key))

/-- TAGGED_AT_HOME (R66): the lanes of a request that name the home of one of them are processed there in ascending
order, after what its core sent there before (R13); the request keeps the others. The step's operands: the request and the
lane that picks the home. -/
def execTaggedAtHome (s : State) : Host.Outcome State Fault Refusal :=
  let i := s.pick.a
  match s.tagReqs[i]? with
  | none => .next s
  | some q =>
    match q.lanes[s.pick.b]? with
    | none => .next s
    | some l0 =>
      if q.after != 0 || tagBehind s i q.target.core l0.key then .next s
      else
        let here := q.lanes.filter (fun l => sameHome l.key l0.key)
        let rest := q.lanes.filter (fun l => !sameHome l.key l0.key)
        let reqs := if rest.isEmpty then dropAt s.tagReqs i else setAt s.tagReqs i { q with lanes := rest }
        .next (here.foldl (tagLane q.target q.op) { s with tagReqs := reqs })

/-- TAGGED_RESEND (R67): after 64 ticks a refused lane's request goes to its home again. -/
def execTaggedResend (s : State) : Host.Outcome State Fault Refusal :=
  let i := s.pick.a
  match s.tagReqs[i]? with
  | none => .next s
  | some q =>
    if q.after = 0 || s.tick < q.after then .next s
    else .next { s with tagReqs := dropAt s.tagReqs i ++ [{ q with after := 0 }] }

/-! The instructions (R432-R437). -/

/-- The lanes of a tagged or atomic request. -/
def reqLanes (ps : List Place) (arg : Nat → DWord) : List ReqLane :=
  ps.map (fun p => { lane := p.lane, addr := p.addr, key := p.key, arg := arg p.lane, canWrite := p.canWrite, via := p.via })

/-- What a tagged instruction needs of its addresses. -/
def tagNeed (writes : Bool) : Need := { n := 4, writes := writes, spaces := spacesSram, align := 4 }

/-- A tagged load: after the line drain its request goes out, and its result is pending until every lane has replied,
with the acquire of its scope (R64). -/
def taggedLoad (v : View) (s : State) (c : Ctl) (op : TagOp) (acq : Option Scope) (x : Access) (d : Operand) : Res :=
  withAccess v s x fun ps => drainThen v s (linesOf ps) 16 fun s =>
    let (s, id) := pendResult s v c [d] v.eff [vecOf 0 fun _ => 0] noFlag ps.length
    let s := s.setStrand v.r (updPending (s.strand v.r) id (fun p => { p with acq := if ps.isEmpty then none else acq, why := 4 }))
    let t : Target := { core := v.r.core, slot := v.r.slot, split := v.r.split, id := some id }
    .done (if ps.isEmpty then s
      else { s with tagReqs := s.tagReqs ++ [{ target := t, op := op, lanes := reqLanes ps (fun _ => 0) }] })

/-- A tagged operation that waits in place for its acknowledgements: line drain, release, request, wait (R435). -/
def taggedStore (v : View) (s : State) (op : TagOp) (rel : Option Scope) (why : Nat) (x : Access) (arg : Nat → DWord) : Res :=
  let p := s.prog v.r
  if p.stage = 1 then (if p.lanes &&& v.eff = v.eff then .done s else .stay why s)
  else withAccess v s x fun ps => drainThen v s (linesOf ps) 16 fun s =>
    let send := fun (s : State) =>
      let t : Target := { core := v.r.core, slot := v.r.slot, split := v.r.split, id := none }
      let s := s.setProg v.r { s.prog v.r with stage := 1, lanes := 0 }
      .stay why { s with tagReqs := s.tagReqs ++ [{ target := t, op := op, lanes := reqLanes ps arg }] }
    if ps.isEmpty then .done s
    else match rel with
      | none => send s
      | some sc => releaseThen v s sc 16 send

/-- LDT (R433). -/
def execLdt (c : Ctl) (sg : SegIx) (sc : Scope) (a64 : Bool) (d a b : Operand) (s : State) :=
  run (.ldt c sg sc a64 d a b) c s fun v s =>
    taggedLoad v s c .ldt (some sc) (v.check sg (tagNeed true) (v.offsets a64 a b)) d

/-- LDTK (R434). -/
def execLdtk (c : Ctl) (sg : SegIx) (sc : Scope) (a64 : Bool) (d a b : Operand) (s : State) :=
  run (.ldtk c sg sc a64 d a b) c s fun v s =>
    taggedLoad v s c .ldtk (some sc) (v.check sg (tagNeed false) (v.offsets a64 a b)) d

/-- STT (R435). -/
def execStt (c : Ctl) (sg : SegIx) (sc : Scope) (a64 : Bool) (d a b : Operand) (s : State) :=
  run (.stt c sg sc a64 d a b) c s fun v s =>
    taggedStore v s .stt (some sc) 4 (v.check sg (tagNeed true) (v.offsets a64 a b)) (fun l => (v.rd d l).setWidth 64)

/-- STTF (R436). -/
def execSttf (c : Ctl) (sg : SegIx) (sc : Scope) (a64 : Bool) (d a b : Operand) (s : State) :=
  run (.sttf c sg sc a64 d a b) c s fun v s =>
    taggedStore v s .sttf (some sc) 4 (v.check sg (tagNeed true) (v.offsets a64 a b)) (fun l => (v.rd d l).setWidth 64)

/-- TAG.rd (R437). -/
def execTagRd (c : Ctl) (sg : SegIx) (a64 : Bool) (d a b : Operand) (s : State) :=
  run (.tagRd c sg a64 d a b) c s fun v s =>
    taggedLoad v s c .rd none (v.check sg (tagNeed false) (v.offsets a64 a b)) d

/-- TAG.clr (R437). -/
def execTagClr (c : Ctl) (sg : SegIx) (a64 : Bool) (a b : Operand) (s : State) :=
  run (.tagClr c sg a64 a b) c s fun v s =>
    taggedStore v s .clr none 14 (v.check sg (tagNeed true) (v.offsets a64 a b)) (fun _ => 0)

end Sys2Proof.Machine
end

