-- ==== Sys2Proof/Machine/Atomic.lean ====
section
/-! DEFINITION. Atomics: the instructions, the service queues, the replies (03 R70-R73, 18 R440-R444), and results that
are written late (R140). -/
namespace Sys2Proof.Machine

/-- The number of the service strand that owns a key: its cluster's, or, for a peer device p, 8 + p (R70, R514). -/
def serviceOf (key : Nat) : Nat :=
  if keySpace key ≥ 8 then keySpace key else ownerCluster key

/-- The lanes of an instruction as one request for each service strand, in ascending number (R70). -/
def splitRequests (ls : List ReqLane) : List (Nat × List ReqLane) :=
  let ks := ls.foldl (fun acc l => insertNat acc (serviceOf l.key)) []
  ks.map (fun k => (k, ls.filter (fun l => serviceOf l.key == k)))

/-- A request enters a service queue. -/
def enqueueAtom (s : State) (k : Nat) (q : AtomReq) : State :=
  let x := s.clu k
  s.setClu k { x with svc := x.svc ++ [q] }

/-- What an atomic instruction needs of its addresses (R425, R440). -/
def atomNeed (w64 : Bool) (writes cas : Bool) : Need :=
  { n := if w64 then 8 else 4, writes := writes, cas := cas, spaces := spacesAtomic, align := if w64 then 8 else 4 }

/-- The moves of an order before the request (R71): nothing, a release, or the steps of SCFENCE. -/
def orderBefore (v : View) (s : State) (o : Order) (sc : Scope) (k : State → Res) : Res :=
  match o with
  | .rlx | .acq => k s
  | .rel | .ar => releaseThen v s sc 16 k
  | .sc => fenceThen v s fun n s => k (fenceRecord (acquireAt s v .dev) v.r n)

/-- The acquire of an order after the replies (R71). -/
def orderAcquire (o : Order) (sc : Scope) : Option Scope :=
  match o with
  | .acq | .ar => some sc
  | _ => none

/-- The fence of an atomic's order, after its replies (R71); an ACAS makes it only where a lane succeeds (R72). -/
def fenceDue (kind : AtomKind) (o : Order) : Nat := if o != .sc then 0 else if kind = .cas then 5 else 1

/-- The requests of an atomic instruction sent, its result pending until every reply has come (R70, R440). -/
def atomSend (v : View) (s : State) (c : Ctl) (kind : AtomKind) (w64 : Bool) (dst : List Operand) (o : Order) (sc : Scope)
    (lose : Option Scope) (first : Nat) (ls : List ReqLane) : State :=
  let reqs := splitRequests ls
  let (s, id) := pendResult s v c dst v.eff (dst.map (fun _ => vecOf 0 fun _ => 0)) noFlag reqs.length
  let s := s.setStrand v.r (updPending (s.strand v.r) id (fun p => { p with
    acq := orderAcquire o sc, lose := if ls.isEmpty then none else lose, won := false, why := 13
    fence := if ls.isEmpty then 0 else fenceDue kind o }))
  let t : Target := { core := v.r.core, slot := v.r.slot, split := v.r.split, id := some id }
  reqs.foldl (fun s e => enqueueAtom s e.1
    { target := t, kind := kind, w64 := w64, ctx := v.st.ctx, strand := v.st.number, first := first, lanes := e.2 }) s

/-- The destinations of an atomic's width. -/
def atomDst (w64 : Bool) (d : Operand) : List Operand := if w64 then pairOf d else [d]

/-- An atomic with its checks, drain and order, then its requests (R440). -/
def atomThen (v : View) (s : State) (x : Access) (o : Order) (sc : Scope) (send : State → List Place → State) : Res :=
  withAccess v s x fun ps =>
    if ps.isEmpty then .done (send s [])
    else drainThen v s (linesOf ps) 16 fun s => orderBefore v s o sc fun s => .done (send s ps)

/-- ATOM (R441). -/
def execAtom (c : Ctl) (sg : SegIx) (op : AOp) (o : Order) (sc : Scope) (w64 a64 : Bool) (d a b : Operand) (s : State) :=
  run (.atom c sg op o sc w64 a64 d a b) c s fun v s =>
    atomThen v s (v.check sg (atomNeed w64 true false) (v.offsets a64 a (.imm 0))) o sc fun s ps =>
      atomSend v s c (.rmw op) w64 (atomDst w64 d) o sc none 0
        (reqLanes ps (fun l => match op with
          | .fadd => (v.rdFBits b l).setWidth 64
          | _ => v.rdW w64 b l))

/-- ACAS (R442): expected value from b, new value from the register or pair after it. -/
def execAcas (c : Ctl) (sg : SegIx) (o : Order) (sc : Scope) (w64 facq a64 : Bool) (d a b : Operand) (s : State) :=
  run (.acas c sg o sc w64 facq a64 d a b) c s fun v s =>
    atomThen v s (v.check sg (atomNeed w64 true true) (v.offsets a64 a (.imm 0))) o sc fun s ps =>
      atomSend v s c .cas w64 (atomDst w64 d) o sc (if facq then some sc else none) 0
        ((reqLanes ps (fun l => v.rdW w64 (b.after (if w64 then 2 else 1)) l)).map
          (fun r => { r with want := v.rdW w64 b r.lane }))

/-- LR (R443). -/
def execLr (c : Ctl) (sg : SegIx) (o : Order) (sc : Scope) (w64 a64 : Bool) (d a : Operand) (s : State) :=
  run (.lr c sg o sc w64 a64 d a) c s fun v s =>
    atomThen v s (v.check sg (atomNeed w64 false false) (v.offsets a64 a (.imm 0))) o sc fun s ps =>
      atomSend v s c .lr w64 (atomDst w64 d) o sc none ((lowLane v.eff).getD 0) (reqLanes ps (fun _ => 0))

/-- SC (R444): only the lowest effective lane is sent; every other reports failure. Its acquire follows either outcome
(R71). -/
def execSc (c : Ctl) (sg : SegIx) (o : Order) (sc : Scope) (w64 a64 : Bool) (d a b : Operand) (s : State) :=
  run (.sc c sg o sc w64 a64 d a b) c s fun v s =>
    atomThen v s (v.check sg (atomNeed w64 true false) (v.offsets a64 a (.imm 0))) o sc fun s ps =>
      atomSend v s c .sc w64 [d] o sc (orderAcquire o sc) ((lowLane v.eff).getD 0) (reqLanes (ps.take 1) (fun l => v.rdW w64 b l))

/-! The service strand (R70). -/

/-- f(old, b) of an atomic operation (R441). -/
def atomApply (op : AOp) (w64 : Bool) (old b : DWord) : DWord :=
  let w := if w64 then 64 else 32
  let sg := fun (x : DWord) => (BitVec.ofNat w x.toNat).toInt
  let ofW := fun (x : Nat) => BitVec.ofNat 64 (x % 2 ^ w)
  match op with
  | .add => ofW (old.toNat + b.toNat)
  | .smin => if sg b < sg old then b else old
  | .smax => if sg old < sg b then b else old
  | .umin => if b < old then b else old
  | .umax => if old < b then b else old
  | .and => old &&& b
  | .or => old ||| b
  | .xor => old ^^^ b
  | .exch => b
  | .fadd => BitVec.ofNat 64 (ff32.add .rne false (readF32 false (old.setWidth 32)) (readF32 false (b.setWidth 32))).1

/-- Reading n bytes at a home, DRAM through its granule (R189), poisoned SRAM failing as well (R516): the value, or how the
request fails. -/
def homeRead (s : State) (key n : Nat) (via : Via) : State × Nat × Option LoadFail :=
  if isDram key then
    let pa := keyAddr key
    if stackFailed s pa then (s, 0, some .uc)
    else if guardRefuses s via.dom false pa then (s, 0, some .guard)
    else
      match granRead s (granOf key) via.grade with
      | (s, bs, .uc) => (s, leNat ((bs.drop (key % 32)).take n), some .uc)
      | (s, bs, _) => (s, leNat ((bs.drop (key % 32)).take n), none)
  else match homeReach s key with
    | .down => (s, 0, some .link)
    | _ => (s, s.mem.readNat key n, if spoiled s key n then some .uc else none)

/-- Writing n bytes at a home: DRAM through its granule, with the line leaving the caches of the owning cluster and of
the requester's (R70). -/
def homeWrite (s : State) (core key n x : Nat) (via : Via) : State :=
  let s :=
    if isDram key then
      let bs := List.replicate (key % 32) (0 : Byte) ++ leBytes n x
      (granWrite s (granOf key) via.grade ((2 ^ n - 1) * 2 ^ (key % 32)) bs).1
    else putBytes s key (leBytes n x)
  if isDram key then dropCached (dropCached s (ownerCluster key) (lineOf key)) (coreCluster core) (lineOf key) else s

/-- What one lane gives: a value, or the code it failed with; and whether it succeeded. -/
structure LaneDone where
  val  : DWord := 0
  code : Option Nat := none
  won  : Bool := false
  deriving DecidableEq, Repr

/-- The reservation of a target's strand cleared. -/
def dropResv (s : State) (t : Target) : State :=
  { s with resv := s.resv.filter (fun e => !(e.1 == t.core && e.2.1 == t.slot)) }

/-- One lane of a request at its home, one indivisible step (R70, R72, R73). -/
def atomLane (q : AtomReq) (s : State) (l : ReqLane) : State × LaneDone :=
  let n := if q.w64 then 8 else 4
  let line := lineOf l.key
  let s := if q.kind = .lr && l.lane = q.first then dropResv s q.target else s
  match q.kind with
  | .sc =>
    if !isDram l.key && homeReach s l.key 2 = .down then (s, { code := some LoadFail.link.code })
    else if !s.resv.contains (q.target.core, q.target.slot, line) then (s, { val := 0 })
    else
      match (if isDram l.key then (homeRead s l.key n l.via) else (s, 0, none)) with
      | (s, _, some f) => (s, { code := some f.code })
      | (s, _, none) => (homeWrite s q.target.core l.key n l.arg.toNat l.via, { val := 1, won := true })
  | _ =>
    match homeRead s l.key n l.via with
    | (s, _, some f) => (s, { code := some f.code })
    | (s, old, none) =>
      let old := BitVec.ofNat 64 old
      match q.kind with
      | .rmw op => (homeWrite s q.target.core l.key n (atomApply op q.w64 old l.arg).toNat l.via, { val := old, won := true })
      | .cas =>
        if old != l.want then (s, { val := old })
        else if !l.canWrite then (s, { val := old, code := some trapPerm })
        else (homeWrite s q.target.core l.key n l.arg.toNat l.via, { val := old, won := true })
      | _ =>
        let s := if l.lane = q.first then { s with resv := s.resv ++ [(q.target.core, q.target.slot, line)] } else s
        (s, { val := old, won := true })

/-- The lanes of a request in ascending order. -/
def atomLanes (q : AtomReq) (s : State) : List ReqLane → State × List (ReqLane × LaneDone)
  | [] => (s, [])
  | l :: ls =>
    let (s, d) := atomLane q s l
    let (s, r) := atomLanes q s ls
    (s, (l, d) :: r)

/-- Whether a request's homes take it now: its stacks are not Off or Training, its link is not retraining. -/
def atomServed (s : State) (q : AtomReq) : Bool :=
  q.lanes.all (fun l => if isDram l.key then stackServes s (keyAddr l.key) else homeReach s l.key 2 != .wait)

/-- SERVICE_REQUEST (R70): a service strand performs the head request of its queue. The step's operand: the service
strand. -/
def execServiceRequest (s : State) : Host.Outcome State Fault Refusal :=
  let k := s.pick.a
  match (s.clu k).svc with
  | [] => .next s
  | q :: rest =>
    if !atomServed s q || !arbiterMay s k q.ctx 3 0 q.target.core q.strand.toNat then .next s
    else
      let s := arbiterServe (s.setClu k { s.clu k with svc := rest }) k q.ctx 3 0 q.target.core q.strand.toNat
      let s := if k ≥ 8 then sendFlit s (k - 8) 2 0 (.atomic q) else s
      let (s, ds) := atomLanes q s q.lanes
      let reply : AtomReply := {
        svc := k, target := q.target
        vals := ds.map (fun e => (e.1.lane, e.1.key, e.2.val))
        bad := ds.filterMap (fun e => e.2.code.map (fun c => (e.1.lane, e.1.addr, c)))
        won := ds.any (fun e => e.2.won) }
      .next { s with replies := s.replies ++ [reply] }

/-- A reply into a pending result: the values of its lanes, failures, one request fewer owed; after the last reply a
failure becomes the result's late trap (R70). A result that has trapped already takes no reply. -/
def Pending.reply (p : Pending) (a : AtomReply) : Pending :=
  if p.fail.isSome then p
  else
    let p := a.vals.foldl (fun p e => p.setVal e.1 e.2.2) p
    let bad := p.bad ++ a.bad
    let owed := p.owed - 1
    { p with owed := owed, won := p.won || a.won, bad := bad, fail := if owed = 0 then badTrap bad else none }

/-- Requests of a peer device p name this number plus p as their core (R514). -/
def remoteCore : Nat := 4096

/-- Whether an earlier reply of the same service strand to the same core is still on its way (R13). -/
def replyBehind (s : State) (i : Nat) (a : AtomReply) : Bool :=
  (s.replies.take i).any (fun b => b.svc == a.svc && b.target.core == a.target.core)

/-- ATOMIC_REPLY (R70): a reply reaches its strand. The step's operand: the reply. -/
def execAtomicReply (s : State) : Host.Outcome State Fault Refusal :=
  let i := s.pick.a
  match s.replies[i]? with
  | none => .next s
  | some a =>
    if replyBehind s i a then .next s else
    let s := { s with replies := dropAt s.replies i }
    if a.target.core ≥ remoteCore then
      .next (sendFlit s (a.target.core - remoteCore) 1 (a.target.id.getD 0)
        (.reply (if a.bad.isEmpty then 0 else 2) (a.vals.flatMap (fun e => leBytes 8 e.2.2.toNat))))
    else
    let s := dropSnap s a.target.core (a.vals.map (fun e => lineOf e.2.1))
    match a.target.id with
    | none => .next s
    | some id =>
      let st := s.strandAt a.target.core a.target.slot
      .next (s.setStrandAt a.target.core a.target.slot (updPending st id (fun p => p.reply a)))

/-! Late results (R140, R271). -/

/-- A pending result ends: its slot counts down, and its late trap waits for its split's boundary (R545). -/
def endPending (s : State) (c slot : Nat) (p : Pending) (t : Option TrapRec) : State :=
  let st := s.strandAt c slot
  let st := { st with results := st.results.filter (fun q => q.id != p.id) }
  let st := match t with
    | none => st
    | some t =>
      let sp := st.split p.split
      if p.lanes = 0 then st
      else st.setSplit p.split { sp with traps := sp.traps ++ [{ trap := t, site := some (p.pc, p.pos) }] }
  s.setStrandAt c slot st

/-- Whether a destination still takes a result: a temporary only while its clause runs (R270). -/
def stillTakes (p : Pending) (o : Operand) : Bool :=
  match o with
  | .t _ => p.temps
  | _ => true

/-- A pending result written: the acquire, the destinations, the flags (R37, R64, R140). -/
def writePending (s : State) (c slot : Nat) (p : Pending) : State :=
  let st := s.strandAt c slot
  let r : SplitRef := ⟨c, slot, p.split⟩
  let sc := if p.won then p.acq else p.lose
  let s := match sc with
    | some sc => acquire s c (realScope s c st sc)
    | none => s
  let s := if p.fence = 4 then fenceRecord (acquire s c .dev) r p.beat else s
  let s := (p.dst.zip p.vals).foldl (fun s e => if stillTakes p e.1 then putLanes s r e.1 p.lanes e.2 else s) s
  endPending (raiseFlags s r p.flags) c slot p none

/-- The release of a result's fence is over: a refusal that it collects ends the result in its late trap (R543, log 170), and
otherwise the fence waits for its heartbeat. -/
def fenceReleased (s : State) (c slot : Nat) (p : Pending) : State :=
  match refusedTrap s c (s.strandAt c slot).ctx (fun a => inScope c .sys (homeOf a)) with
  | some (t, s) => endPending s c slot p (some t)
  | none => s.setStrandAt c slot (updPending (s.strandAt c slot) p.id (fun q => { q with fence := 3 }))

/-- The next step of a pending result whose replies have come: a late trap, the fence of an .sc atomic, or the write. -/
def advancePending (s : State) (c slot : Nat) (p : Pending) : State :=
  match p.fail with
  | some t => endPending s c slot p (some t)
  | none =>
    if p.fence = 1 || (p.fence = 5 && p.won) then
      let s := releaseMoves s c .sys
      s.setStrandAt c slot (updPending (s.strandAt c slot) p.id (fun q => { q with fence := 2 }))
    else match p.fence with
      | 2 => if releaseOver s c .sys then fenceReleased s c slot p else s
      | 3 => s
      | _ => writePending s c slot p

/-- RESULT_WRITE (R140): the step's operands: core, slot, and the place of the result in the strand's list. -/
def execResultWrite (s : State) : Host.Outcome State Fault Refusal :=
  let c := s.pick.a
  let slot := s.pick.b
  match ((s.strandAt c slot).results)[s.pick.c]? with
  | none => .next s
  | some p => if p.owed != 0 then .next s else .next (advancePending s c slot p)

/-! Heartbeats, deliveries, drops (R55). -/

/-- A heartbeat reaches a split: a fence that waits for one takes its index (R68). -/
def beatSplit (n : Nat) (sp : Split) : Split :=
  if sp.prog.beat = some none then { sp with prog := { sp.prog with beat := some (some n) } } else sp

/-- The same for a strand, its late fences included. -/
def beatStrand (n : Nat) (st : Strand) : Strand :=
  { st with splits := st.splits.map (fun e => (e.1, beatSplit n e.2)),
            results := st.results.map (fun p => if p.fence = 3 then { p with fence := 4, beat := n } else p) }

/-- The late fences whose releases are over, before a heartbeat: it is the first after them (R68). -/
def settleFences (s : State) : State :=
  s.cores.keys.foldl (fun s c => (s.core c).slots.foldl (fun s e => e.2.results.foldl (fun s p =>
    if p.fence = 2 then advancePending s c e.1 p else s) s) s) s

/-- HEARTBEAT (R55, R68): 256 ticks after the last one. -/
def execHeartbeat (s : State) : Host.Outcome State Fault Refusal :=
  if s.tick < s.hbTick + 256 then .next s
  else
    let n := s.hb + 1
    let s := settleFences s
    .next { s with
      hb := n, hbTick := s.hbTick + 256
      cores := s.cores.map (fun e => (e.1, { e.2 with slots := e.2.slots.map (fun f => (f.1, beatStrand n f.2)) })) }

/-- DELIVER (R55): the head entry of the channel from a core to a home is performed there. The step's operands: the
core, the home, and whether the bytes' parity fails on the way (R516). -/
def execDeliver (s : State) : Host.Outcome State Fault Refusal := .next (deliverHead s s.pick.a s.pick.home s.pick.flag)

/-- DROP (R55): a line leaves a core's snapshot. -/
def execDropLine (s : State) : Host.Outcome State Fault Refusal := .next (dropSnap s s.pick.a [s.pick.b])

/-- CACHE_DROP (R55): a line leaves a cluster's DRAM cache. -/
def execCacheDrop (s : State) : Host.Outcome State Fault Refusal := .next (dropCached s s.pick.a s.pick.b)

/-- RELEASE_COMPLETE (R61): the acknowledgements a split's release waits for have all arrived; a fence's heartbeat is
the first from here on (R68). -/
def execReleaseComplete (s : State) : Host.Outcome State Fault Refusal :=
  let r := s.pick.ref
  let p := s.prog r
  match p.rel, p.scope with
  | 1, some sc => if releaseOver s r.core sc then .next (s.setProg r { p with rel := 2, beat := if p.fences then some none else p.beat }) else .next s
  | _, _ => .next s

end Sys2Proof.Machine
end

