-- ==== Sys2Proof/Machine/Int.lean ====
section
/-! DEFINITION. Integer arithmetic, logic, shifts, bit fields, comparison, selection and moves (17 R332-R378). -/
namespace Sys2Proof.Machine

/-- The shared effect of a per-lane instruction (R331): a code and flags for every effective lane, the destination
written, the flags raised. -/
def perLane (v : View) (s : State) (w64 : Bool) (d : Operand) (f : Nat → Nat × Flags) : State :=
  let xs := (List.range 96).map (fun l => if v.eff.getLsbD l then f l else (0, noFlag))
  raiseFlags (putLanesW s v.r w64 d v.eff (xs.map (fun x => BitVec.ofNat 64 x.1))) v.r (joinFlags (xs.map (·.2)))

/-- The shared effect of R332: an exact integer per lane, wrapped or saturated to the TYPE. -/
def intLanes (v : View) (s : State) (ty : Fmt) (sat : Bool) (d : Operand) (f : Nat → Int) : State :=
  perLane v s ty.is64 d (fun l => putInt ty sat (f l))

/-- A plain bit result per lane, without flags. -/
def bitLanes (v : View) (s : State) (w64 : Bool) (d : Operand) (f : Nat → DWord) : State :=
  perLane v s w64 d (fun l => ((f l).toNat, noFlag))

/-- An 18-bit immediate as a source of a TYPE (R346). -/
def immInt (ty : Fmt) (imm : BitVec 18) : Int :=
  intValue ty (if ty.is64 then (imm.signExtend 64).toNat else (imm.signExtend 32).toNat)

/-- IADD (R333). -/
def execIadd (c : Ctl) (ty : Fmt) (sat : Bool) (d a b : Operand) (s : State) :=
  run (.iadd c ty sat d a b) c s fun v s => .done (intLanes v s ty sat d fun l => v.rdInt ty a l + v.rdInt ty b l)

/-- ISUB (R334). -/
def execIsub (c : Ctl) (ty : Fmt) (sat : Bool) (d a b : Operand) (s : State) :=
  run (.isub c ty sat d a b) c s fun v s => .done (intLanes v s ty sat d fun l => v.rdInt ty a l - v.rdInt ty b l)

/-- IMUL (R335). -/
def execImul (c : Ctl) (ty : Fmt) (sat : Bool) (d a b : Operand) (s : State) :=
  run (.imul c ty sat d a b) c s fun v s => .done (intLanes v s ty sat d fun l => v.rdInt ty a l * v.rdInt ty b l)

/-- IMULH (R336): bits [63:32] of the exact product. -/
def execImulh (c : Ctl) (ty : Fmt) (sat : Bool) (d a b : Operand) (s : State) :=
  run (.imulh c ty sat d a b) c s fun v s =>
    .done (intLanes v s ty false d fun l => (v.rdInt ty a l * v.rdInt ty b l) / 2 ^ 32)

/-- IMAD (R337). -/
def execImad (c : Ctl) (ty : Fmt) (sat : Bool) (d a b e : Operand) (s : State) :=
  run (.imad c ty sat d a b e) c s fun v s =>
    .done (intLanes v s ty sat d fun l => v.rdInt ty a l * v.rdInt ty b l + v.rdInt ty e l)

/-- IMADW (R338). -/
def execImadw (c : Ctl) (ty : Fmt) (sat : Bool) (d a b e : Operand) (s : State) :=
  run (.imadw c ty sat d a b e) c s fun v s =>
    .done (intLanes v s .i64 false d fun l => v.rdInt ty a l * v.rdInt ty b l + v.rdInt .i64 e l)

/-- IADDW (R339): the sum with a carry predicate, and the carry out. -/
def execIaddw (c : Ctl) (ty : Fmt) (sat : Bool) (d a b e : Operand) (s : State) :=
  run (.iaddw c ty sat d a b e) c s fun v s =>
    let sum := fun l => (v.rd a l).toNat + (v.rd b l).toNat + (if v.rdP e l then 1 else 0)
    .done (putPred (bitLanes v s false d fun l => BitVec.ofNat 64 (sum l % 2 ^ 32)) v.r e v.eff
      (fun l => decide (2 ^ 32 ≤ sum l)))

/-- ISUBW (R340): the difference with a borrow predicate, and the borrow out. -/
def execIsubw (c : Ctl) (ty : Fmt) (sat : Bool) (d a b e : Operand) (s : State) :=
  run (.isubw c ty sat d a b e) c s fun v s =>
    let diff : Nat → Int := fun l => ((v.rd a l).toNat : Int) - (v.rd b l).toNat - (if v.rdP e l then 1 else 0)
    .done (putPred (intLanes v s .n32 false d diff) v.r e v.eff (fun l => decide (diff l < 0)))

/-- IABS (R341). -/
def execIabs (c : Ctl) (ty : Fmt) (sat : Bool) (d a : Operand) (s : State) :=
  run (.iabs c ty sat d a) c s fun v s => .done (intLanes v s ty sat d fun l => ((v.rdInt ty a l).natAbs : Int))

/-- INEG (R342). -/
def execIneg (c : Ctl) (ty : Fmt) (sat : Bool) (d a : Operand) (s : State) :=
  run (.ineg c ty sat d a) c s fun v s => .done (intLanes v s ty sat d fun l => -(v.rdInt ty a l))

/-- IMIN (R343). -/
def execImin (c : Ctl) (ty : Fmt) (sat : Bool) (d a b : Operand) (s : State) :=
  run (.imin c ty sat d a b) c s fun v s =>
    .done (intLanes v s ty false d fun l => min (v.rdInt ty a l) (v.rdInt ty b l))

/-- IMAX (R344). -/
def execImax (c : Ctl) (ty : Fmt) (sat : Bool) (d a b : Operand) (s : State) :=
  run (.imax c ty sat d a b) c s fun v s =>
    .done (intLanes v s ty false d fun l => max (v.rdInt ty a l) (v.rdInt ty b l))

/-- ICLAMP (R345). -/
def execIclamp (c : Ctl) (ty : Fmt) (sat : Bool) (d a b e : Operand) (s : State) :=
  run (.iclamp c ty sat d a b e) c s fun v s =>
    .done (intLanes v s ty false d fun l => min (max (v.rdInt ty a l) (v.rdInt ty b l)) (v.rdInt ty e l))

/-- AND (R349). -/
def execIand (c : Ctl) (w64 : Bool) (d a b : Operand) (s : State) :=
  run (.iand c w64 d a b) c s fun v s => .done (bitLanes v s w64 d fun l => v.rdW w64 a l &&& v.rdW w64 b l)

/-- OR (R350). -/
def execIor (c : Ctl) (w64 : Bool) (d a b : Operand) (s : State) :=
  run (.ior c w64 d a b) c s fun v s => .done (bitLanes v s w64 d fun l => v.rdW w64 a l ||| v.rdW w64 b l)

/-- XOR (R351). -/
def execIxor (c : Ctl) (w64 : Bool) (d a b : Operand) (s : State) :=
  run (.ixor c w64 d a b) c s fun v s => .done (bitLanes v s w64 d fun l => v.rdW w64 a l ^^^ v.rdW w64 b l)

/-- ANDN (R352). -/
def execAndn (c : Ctl) (w64 : Bool) (d a b : Operand) (s : State) :=
  run (.andn c w64 d a b) c s fun v s => .done (bitLanes v s w64 d fun l => v.rdW w64 a l &&& ~~~(v.rdW w64 b l))

/-- A truth table over three bits (R266). -/
def truth (tt : BitVec 8) (a b e : Bool) : Bool := tt.getLsbD (4 * a.toNat + 2 * b.toNat + e.toNat)

/-- A truth table over the bits of three words (R353). -/
def triWord (tt : BitVec 8) (a b e : Word) : Word :=
  BitVec.ofNat 32 ((List.range 32).foldr
    (fun i acc => 2 * acc + (truth tt (a.getLsbD i) (b.getLsbD i) (e.getLsbD i)).toNat) 0)

/-- TRI (R353). -/
def execTri (c : Ctl) (tt : BitVec 8) (d a b e : Operand) (s : State) :=
  run (.tri c tt d a b e) c s fun v s =>
    .done (bitLanes v s false d fun l => (triWord tt (v.rd a l) (v.rd b l) (v.rd e l)).setWidth 64)

/-- The width of an operation with W64. -/
def opWidth (w64 : Bool) : Nat := if w64 then 64 else 32

/-- A shift amount under R357: reduced modulo the width, or, clamped, at most the width. -/
def shiftAmount (w64 clamp : Bool) (n : Nat) : Nat := if clamp then min n (opWidth w64) else n % opWidth w64

/-- SHL (R358). -/
def execShl (c : Ctl) (w64 clamp : Bool) (d a b : Operand) (s : State) :=
  run (.shl c w64 clamp d a b) c s fun v s =>
    .done (bitLanes v s w64 d fun l => v.rdW w64 a l <<< shiftAmount w64 clamp (v.rd b l).toNat)

/-- SHR (R359). -/
def execShr (c : Ctl) (w64 clamp : Bool) (d a b : Operand) (s : State) :=
  run (.shr c w64 clamp d a b) c s fun v s =>
    .done (bitLanes v s w64 d fun l => v.rdW w64 a l >>> shiftAmount w64 clamp (v.rd b l).toNat)

/-- SAR (R360). -/
def execSar (c : Ctl) (w64 clamp : Bool) (d a b : Operand) (s : State) :=
  run (.sar c w64 clamp d a b) c s fun v s =>
    let ty := if w64 then Fmt.i64 else .i32
    .done (intLanes v s ty false d fun l => v.rdInt ty a l / 2 ^ shiftAmount w64 clamp (v.rd b l).toNat)

/-- ROTL (R361). -/
def execRotl (c : Ctl) (w64 : Bool) (d a b : Operand) (s : State) :=
  run (.rotl c w64 d a b) c s fun v s =>
    .done (bitLanes v s w64 d fun l =>
      let n := (v.rd b l).toNat
      if w64 then (v.rd64 a l).rotateLeft n else ((v.rd a l).rotateLeft n).setWidth 64)

/-- FUNSH (R362). -/
def execFunsh (c : Ctl) (clamp right : Bool) (d a b e : Operand) (s : State) :=
  run (.funsh c clamp right d a b e) c s fun v s =>
    .done (bitLanes v s false d fun l =>
      let y := v.rd b l ++ v.rd a l
      let n := shiftAmount false clamp (v.rd e l).toNat
      if right then (y >>> n).setWidth 64 else (y <<< n) >>> 32)

/-- POPC (R363). -/
def execPopc (c : Ctl) (w64 : Bool) (d a : Operand) (s : State) :=
  run (.popc c w64 d a) c s fun v s =>
    .done (bitLanes v s false d fun l => BitVec.ofNat 64 (popCount (v.rdW w64 a l)))

/-- CLZ (R364). -/
def execClz (c : Ctl) (w64 : Bool) (d a : Operand) (s : State) :=
  run (.clz c w64 d a) c s fun v s =>
    .done (bitLanes v s false d fun l => BitVec.ofNat 64 (opWidth w64 - bitLen (v.rdW w64 a l).toNat))

/-- The lowest one bit of a value. -/
def lowestBit (x : DWord) : Option Nat := (List.range 64).find? (fun i => x.getLsbD i)

/-- FFS (R365). -/
def execFfs (c : Ctl) (w64 : Bool) (d a : Operand) (s : State) :=
  run (.ffs c w64 d a) c s fun v s =>
    .done (bitLanes v s false d fun l => match lowestBit (v.rdW w64 a l) with
      | some i => BitVec.ofNat 64 i
      | none => 0xFFFFFFFF)

/-- BREV (R366). -/
def execBrev (c : Ctl) (w64 : Bool) (d a : Operand) (s : State) :=
  run (.brev c w64 d a) c s fun v s =>
    .done (bitLanes v s w64 d fun l =>
      if w64 then (v.rd64 a l).reverse else ((v.rd a l).reverse).setWidth 64)

/-- A field's length from a place on, clipped to the word (R367). -/
def fieldLen (p n : Nat) : Nat := if p ≥ 32 then 0 else min n (32 - p)

/-- BFX (R367). -/
def execBfx (c : Ctl) (sx : Bool) (d a b e : Operand) (s : State) :=
  run (.bfx c sx d a b e) c s fun v s =>
    .done (intLanes v s .n32 false d fun l =>
      let p := (v.rd b l).toNat % 256
      let n := fieldLen p ((v.rd e l).toNat % 256)
      let x := (v.rd a l).toNat / 2 ^ p % 2 ^ n
      if n = 0 then 0 else if sx && x.testBit (n - 1) then (x : Int) - 2 ^ n else x)

/-- BFI (R368). -/
def execBfi (c : Ctl) (d a b e : Operand) (s : State) :=
  run (.bfi c d a b e) c s fun v s =>
    .done (bitLanes v s false d fun l =>
      let pl := (v.rd e l).toNat
      let p := pl % 256
      let n := fieldLen p (pl / 256 % 256)
      let hole := BitVec.ofNat 32 ((2 ^ n - 1) * 2 ^ p)
      ((v.rd b l &&& ~~~hole) ||| (v.rd a l <<< p &&& hole)).setWidth 64)

/-- A comparison of integers (R369). -/
def condInt (cond : Cond) (x y : Int) : Bool :=
  match cond with
  | .eq => x == y
  | .ne => x != y
  | .lt => x < y
  | .le => x ≤ y
  | .gt => x > y
  | .ge => x ≥ y
  | .ord => true
  | .unord => false

/-- ICMP (R369). -/
def execIcmp (c : Ctl) (ty : Fmt) (cond : Cond) (d a b : Operand) (s : State) :=
  run (.icmp c ty cond d a b) c s fun v s =>
    .done (putPred s v.r d v.eff (fun l => condInt cond (v.rdInt ty a l) (v.rdInt ty b l)))

/-- SEL (R371). -/
def execSel (c : Ctl) (w64 : Bool) (d a b e : Operand) (s : State) :=
  run (.sel c w64 d a b e) c s fun v s =>
    .done (bitLanes v s w64 d fun l => if v.rdP e l then v.rdW w64 a l else v.rdW w64 b l)

/-- MOV (R372). -/
def execMov (c : Ctl) (w64 : Bool) (d a : Operand) (s : State) :=
  run (.mov c w64 d a) c s fun v s => .done (bitLanes v s w64 d fun l => v.rdW w64 a l)

/-- MOVI (R373). -/
def execMovi (c : Ctl) (d : Operand) (imm : BitVec 32) (s : State) :=
  run (.movi c d imm) c s fun v s => .done (bitLanes v s false d fun _ => imm.setWidth 64)

/-- IADDI (R346). -/
def execIaddi (c : Ctl) (ty : Fmt) (sat : Bool) (d a : Operand) (imm : BitVec 18) (s : State) :=
  run (.iaddi c ty sat d a imm) c s fun v s =>
    .done (intLanes v s ty sat d fun l => v.rdInt ty a l + immInt ty imm)

/-- IMULI (R347). -/
def execImuli (c : Ctl) (ty : Fmt) (sat : Bool) (d a : Operand) (imm : BitVec 18) (s : State) :=
  run (.imuli c ty sat d a imm) c s fun v s =>
    .done (intLanes v s ty sat d fun l => v.rdInt ty a l * immInt ty imm)

/-- ANDI (R354). -/
def execAndi (c : Ctl) (d a : Operand) (imm : BitVec 18) (s : State) :=
  run (.andi c d a imm) c s fun v s =>
    .done (bitLanes v s false d fun l => (v.rd a l &&& imm.signExtend 32).setWidth 64)

/-- ORI (R355). -/
def execOri (c : Ctl) (d a : Operand) (imm : BitVec 18) (s : State) :=
  run (.ori c d a imm) c s fun v s =>
    .done (bitLanes v s false d fun l => (v.rd a l ||| imm.signExtend 32).setWidth 64)

/-- XORI (R356). -/
def execXori (c : Ctl) (d a : Operand) (imm : BitVec 18) (s : State) :=
  run (.xori c d a imm) c s fun v s =>
    .done (bitLanes v s false d fun l => (v.rd a l ^^^ imm.signExtend 32).setWidth 64)

/-- ICMPI (R370). -/
def execIcmpi (c : Ctl) (ty : Fmt) (cond : Cond) (d a : Operand) (imm : BitVec 18) (s : State) :=
  run (.icmpi c ty cond d a imm) c s fun v s =>
    .done (putPred s v.r d v.eff (fun l => condInt cond (v.rdInt ty a l) (immInt ty imm)))

/-- LEA (R374). -/
def execLea (c : Ctl) (sh : BitVec 3) (d a b : Operand) (s : State) :=
  run (.lea c sh d a b) c s fun v s =>
    .done (bitLanes v s false d fun l => (v.rd a l + v.rd b l <<< sh.toNat).setWidth 64)

/-- LEAW (R375). -/
def execLeaw (c : Ctl) (sh : BitVec 3) (d a b : Operand) (s : State) :=
  run (.leaw c sh d a b) c s fun v s =>
    .done (bitLanes v s true d fun l => v.rd64 a l + ((v.rd b l).signExtend 64) <<< sh.toNat)

/-- CVTI (R376, R39): the source's low bits read by its format, converted to the destination's. -/
def execCvti (c : Ctl) (dty sty : Fmt) (sat : Bool) (d a : Operand) (s : State) :=
  run (.cvti c dty sty sat d a) c s fun v s =>
    .done (perLane v s dty.is64 d fun l => putInt dty sat (v.rdInt sty a l))

/-- A dot product of packed elements, exact, added to an addend. -/
def packedDot (w n : Nat) (sa sb : Bool) (a b : Word) (x : Int) : Int :=
  (List.range n).foldl (fun acc e =>
    let fld := fun (sg : Bool) (y : Word) => if sg then (y.extractLsb' (w * e) w).toInt else (y.extractLsb' (w * e) w).toNat
    acc + fld sa a * fld sb b) x

/-- IDP4 (R377). -/
def execIdp4 (c : Ctl) (sa sb sat : Bool) (d a b e : Operand) (s : State) :=
  run (.idp4 c sa sb sat d a b e) c s fun v s =>
    .done (intLanes v s .i32 sat d fun l => packedDot 8 4 sa sb (v.rd a l) (v.rd b l) (v.rdInt .i32 e l))

/-- IDP8 (R378). -/
def execIdp8 (c : Ctl) (sa sb sat : Bool) (d a b e : Operand) (s : State) :=
  run (.idp8 c sa sb sat d a b e) c s fun v s =>
    .done (intLanes v s .i32 sat d fun l => packedDot 4 8 sa sb (v.rd a l) (v.rd b l) (v.rdInt .i32 e l))

end Sys2Proof.Machine
end

