-- ==== Sys2Proof/Machine/Sfu.lean ====
section
/-! DEFINITION. The special functions (R393-R401). The exact value of a function is bracketed strictly between two
dyadics of 400 fraction bits; when both ends round to one code, that code is the rounding of the exact value. Where
they would differ the result is a free value (log 13). Algebraic functions are exact with a sticky bit. -/
namespace Sys2Proof.Machine

/-- Fraction bits of the fixed-point arithmetic below. -/
def fxP : Nat := 400

/-- One in fixed point. -/
def fxOne : Nat := 2 ^ fxP

/-- Sum of z^(2k+1)/(2k+1), with alternating signs when `alt`, for z = 1/n. -/
def arcSeries (alt : Bool) (n2 : Nat) : Nat → Nat → Nat → Int
  | 0, _, _ => 0
  | fuel + 1, k, pow =>
    let t : Int := (pow / (2 * k + 1) : Nat)
    (if alt && k % 2 == 1 then -t else t) + arcSeries alt n2 fuel (k + 1) (pow / n2)

/-- ln 2 in fixed point, within 2^10 units below or above: 2 artanh(1/3). -/
def fxLn2 : Nat := (2 * arcSeries false 9 140 0 (fxOne / 3)).toNat

/-- π in fixed point, within 2^14 units (Machin's formula). -/
def fxPi : Nat := (16 * arcSeries true 25 100 0 (fxOne / 5) - 4 * arcSeries true 57121 60 0 (fxOne / 239)).toNat

/-- Sum of y^k/k! from the term given, y in fixed point. -/
def expSeries (y : Nat) : Nat → Nat → Nat → Nat
  | 0, _, _ => 0
  | fuel + 1, k, t => t + expSeries y fuel (k + 1) (t * y / (fxOne * (k + 1)))

/-- e^y for y in [0, 1), within 2^20 units. -/
def fxExp (y : Nat) : Nat := expSeries y 110 0 fxOne

/-- Sum of the alternating series of sine (from t = y, k = 1) or cosine (from t = 1, k = 0). -/
def trigSeries (y2 : Nat) : Nat → Nat → Nat → Bool → Int
  | 0, _, _, _ => 0
  | fuel + 1, k, t, neg =>
    (if neg then -(t : Int) else t) + trigSeries y2 fuel (k + 2) (t * y2 / (fxOne * ((k + 1) * (k + 2)))) (!neg)

/-- Sum of z^(2k+1)/(2k+1), z in fixed point. -/
def artanhSeries (z2 : Nat) : Nat → Nat → Nat → Nat
  | 0, _, _ => 0
  | fuel + 1, k, pow => pow / (2 * k + 1) + artanhSeries z2 fuel (k + 1) (pow * z2 / fxOne)

/-- Units of error allowed to each side of a fixed-point result. -/
def fxSlack : Nat := 2 ^ 40

/-- A value known to lie strictly within `fxSlack` units of `m`, times 2^e, rounded with RNE; the free value of a
function where the ends round apart. -/
def bracket (fn : Nat) (w : Word) (ftz neg : Bool) (m : Nat) (e : Int) : Nat × Flags :=
  let lo := ff32.roundFin .rne false ftz neg (2 * (m - fxSlack) + 1) (e - 1)
  let hi := ff32.roundFin .rne false ftz neg (2 * (m + fxSlack) - 1) (e - 1)
  if lo = hi then lo else ((Config.sfuValue fn w).toNat, flagNX)

/-- An algebraic value q × 2^e with a sticky bit. -/
def stickyPut (ftz neg sticky : Bool) (q : Nat) (e : Int) : Nat × Flags :=
  if sticky then ff32.roundFin .rne false ftz neg (2 * q + 1) (e - 1) else ff32.roundFin .rne false ftz neg q e

/-- A NaN result: canonical, with NV when `inv`. -/
def nanResult (inv : Bool) : Nat × Flags := (ff32.nanCode, flagIf inv flagNV)

/-- An exact infinity of a sign. -/
def infResult (neg : Bool) (f : Flags) : Nat × Flags := (ff32.sign neg + (ff32.maxCode + 1), f)

/-- Bits of an FP32 integer constant. -/
def smallFloat (x : Int) : Nat := (ff32.put .rne false (intFVal x)).1

/-- The integer square root, one bit a step from bit `fuel` down. -/
def isqrtFrom (x : Nat) : Nat → Nat → Nat
  | 0, q => q
  | fuel + 1, q =>
    let t := q + 2 ^ fuel
    isqrtFrom x fuel (if t * t ≤ x then t else q)

/-- The integer square root of a number below 2^520. -/
def isqrt (x : Nat) : Nat := isqrtFrom x 260 0

/-- FRCP (R394). -/
def frcpV (ftz : Bool) (a : FVal) : Nat × Flags :=
  match a with
  | .nan s => nanResult s
  | .inf n => (ff32.sign n, noFlag)
  | .fin n 0 _ => infResult n flagDZ
  | .fin n m e =>
    let q := 2 ^ 200 / m
    stickyPut ftz n (2 ^ 200 % m != 0) q (-200 - e)

/-- An even exponent no greater than the one given, with the mantissa to match. -/
def evenExp (m : Nat) (e : Int) : Nat × Int := if e % 2 = 0 then (m, e) else (2 * m, e - 1)

/-- FRSQ (R395): 1/√(m·2^e) = 2^(200)/√(m·2^400) scaled. -/
def frsqV (ftz : Bool) (a : FVal) : Nat × Flags :=
  match a with
  | .nan s => nanResult s
  | .inf true => nanResult true
  | .inf false => (0, noFlag)
  | .fin n 0 _ => infResult n flagDZ
  | .fin true _ _ => nanResult true
  | .fin false m e =>
    let (m, e) := evenExp m e
    let x := 2 ^ 400 / m
    let q := isqrt x
    stickyPut ftz false (q * q * m != 2 ^ 400) q (-200 - e / 2)

/-- FSQRT (R396). -/
def fsqrtV (ftz : Bool) (a : FVal) : Nat × Flags :=
  match a with
  | .nan s => nanResult s
  | .inf true => nanResult true
  | .inf false => infResult false noFlag
  | .fin n 0 _ => (ff32.sign n, noFlag)
  | .fin true _ _ => nanResult true
  | .fin false m e =>
    let (m, e) := evenExp m e
    let x := m * 2 ^ 200
    let q := isqrt x
    stickyPut ftz false (q * q != x) q (e / 2 - 100)

/-- A finite magnitude in fixed point; exact for every FP32 value below 2^9. -/
def fxOf (m : Nat) (e : Int) : Nat := if e + fxP ≥ 0 then m <<< (e + fxP).toNat else 0

/-- FEX2 (R397). -/
def fex2V (w : Word) (ftz : Bool) (a : FVal) : Nat × Flags :=
  match a with
  | .nan s => nanResult s
  | .inf true => (0, noFlag)
  | .inf false => infResult false noFlag
  | .fin _ 0 _ => (smallFloat 1, noFlag)
  | .fin n m e =>
    if (bitLen m : Int) - 1 + e ≥ 9 then
      if n then ff32.roundFin .rne false ftz false 1 (-2000) else ff32.roundFin .rne false ftz false 1 2000
    else
      let x : Int := let v : Int := fxOf m e; if n then -v else v
      let k := x / (fxOne : Nat)
      let f := (x % (fxOne : Nat)).toNat
      if f = 0 then ff32.roundFin .rne false ftz false 1 k
      else bracket 3 w ftz false (fxExp (f * fxLn2 / fxOne)) (k - fxP)

/-- FLG2 (R398). -/
def flg2V (w : Word) (ftz : Bool) (a : FVal) : Nat × Flags :=
  match a with
  | .nan s => nanResult s
  | .inf true => nanResult true
  | .inf false => infResult false noFlag
  | .fin _ 0 _ => infResult true flagDZ
  | .fin true _ _ => nanResult true
  | .fin false m e =>
    let l := bitLen m - 1
    let k : Int := l + e
    if m = 2 ^ l then ff32.put .rne ftz (intFVal k)
    else
      let x := m <<< (fxP - l)
      let z := (x - fxOne) * fxOne / (x + fxOne)
      let ln := 2 * artanhSeries (z * z / fxOne) 140 0 z
      let v : Int := k * (fxOne : Nat) + (ln * fxOne / fxLn2 : Nat)
      bracket 4 w ftz (v < 0) v.natAbs (-fxP)

/-- sin or cos of 2π·t, t in fixed point in [0, 1): exact at the quarters. -/
def turnsV (fn : Nat) (w : Word) (ftz neg isCos : Bool) (t : Nat) (zeroCode : Nat) : Nat × Flags :=
  let q := (4 * t / fxOne + (if isCos then 1 else 0)) % 4
  let u := 4 * t % fxOne
  let neg := neg != (q ≥ 2)
  if u = 0 then
    if q % 2 = 0 then (zeroCode, noFlag) else (smallFloat (if neg then -1 else 1), noFlag)
  else
    let y := fxPi * u / (2 * fxOne)
    let y2 := y * y / fxOne
    let v := if q % 2 = 0 then trigSeries y2 60 1 y false else trigSeries y2 60 0 fxOne false
    bracket fn w ftz neg v.toNat (-fxP)

/-- FSIN (R399). -/
def fsinV (w : Word) (ftz : Bool) (a : FVal) : Nat × Flags :=
  match a with
  | .nan s => nanResult s
  | .inf _ => nanResult true
  | .fin n m e => turnsV 5 w ftz n false (fxOf m (if e ≥ 0 then 0 else e) % fxOne) (ff32.sign n)

/-- FCOS (R400). -/
def fcosV (w : Word) (ftz : Bool) (a : FVal) : Nat × Flags :=
  match a with
  | .nan s => nanResult s
  | .inf _ => nanResult true
  | .fin _ m e => turnsV 6 w ftz false true (fxOf m (if e ≥ 0 then 0 else e) % fxOne) 0

/-- FTANH (R401). -/
def ftanhV (w : Word) (ftz : Bool) (a : FVal) : Nat × Flags :=
  match a with
  | .nan s => nanResult s
  | .inf n => (smallFloat (if n then -1 else 1), noFlag)
  | .fin n 0 _ => (ff32.sign n, noFlag)
  | .fin n m e =>
    if (bitLen m : Int) - 1 + e ≥ 7 then ff32.roundFin .rne false ftz n (fxOne - 1) (-fxP)
    else
      let x2 := 2 * fxOf m e
      let k := x2 / fxLn2
      let ex := fxExp (x2 - k * fxLn2) <<< k
      bracket 7 w ftz n ((ex - fxOne) * fxOne / (ex + fxOne)) (-fxP)

end Sys2Proof.Machine
end

