-- ==== Sys2Proof/Machine/Fp.lean ====
section
/-! DEFINITION. Floating point, special functions, packed halves, elements and the sticky flags (17 R379-R411). -/
namespace Sys2Proof.Machine

/-- FADD (R380). -/
def execFadd (c : Ctl) (rm : Rnd) (ftz : Bool) (d a b : Operand) (s : State) :=
  run (.fadd c rm ftz d a b) c s fun v s =>
    .done (perLane v s false d fun l => ff32.add rm ftz (v.rdF ftz a l) (v.rdF ftz b l))

/-- FSUB (R381): the sum of a and −b. -/
def execFsub (c : Ctl) (rm : Rnd) (ftz : Bool) (d a b : Operand) (s : State) :=
  run (.fsub c rm ftz d a b) c s fun v s =>
    .done (perLane v s false d fun l => ff32.add rm ftz (v.rdF ftz a l) (v.rdF ftz b l).negate)

/-- FMUL (R382). -/
def execFmul (c : Ctl) (rm : Rnd) (ftz : Bool) (d a b : Operand) (s : State) :=
  run (.fmul c rm ftz d a b) c s fun v s =>
    .done (perLane v s false d fun l => ff32.mul rm ftz (v.rdF ftz a l) (v.rdF ftz b l))

/-- FFMA (R383). -/
def execFfma (c : Ctl) (rm : Rnd) (ftz : Bool) (d a b e : Operand) (s : State) :=
  run (.ffma c rm ftz d a b e) c s fun v s =>
    .done (perLane v s false d fun l => ff32.fma rm ftz (v.rdF ftz a l) (v.rdF ftz b l) (v.rdF ftz e l))

/-- FMIN (R384). -/
def execFmin (c : Ctl) (ftz : Bool) (d a b : Operand) (s : State) :=
  run (.fmin c ftz d a b) c s fun v s =>
    .done (perLane v s false d fun l => ff32.minMax false (v.rdF ftz a l) (v.rdF ftz b l))

/-- FMAX (R385). -/
def execFmax (c : Ctl) (ftz : Bool) (d a b : Operand) (s : State) :=
  run (.fmax c ftz d a b) c s fun v s =>
    .done (perLane v s false d fun l => ff32.minMax true (v.rdF ftz a l) (v.rdF ftz b l))

/-- FCMP (R386). -/
def execFcmp (c : Ctl) (ty : Fmt) (cond : Cond) (d a b : Operand) (s : State) :=
  run (.fcmp c ty cond d a b) c s fun v s =>
    let res := fun l => fcmpV cond (v.rdF false a l) (v.rdF false b l)
    .done (raiseFlags (putPred s v.r d v.eff (fun l => (res l).1)) v.r
      (joinFlags ((lanesOf v.eff).map (fun l => (res l).2))))

/-- FCLASS (R387). -/
def execFclass (c : Ctl) (d a : Operand) (s : State) :=
  run (.fclass c d a) c s fun v s =>
    .done (bitLanes v s false d fun l => (fclassV (v.rdFBits a l)).setWidth 64)

/-- FRND (R388). -/
def execFrnd (c : Ctl) (rm : Rnd) (ftz : Bool) (d a : Operand) (s : State) :=
  run (.frnd c rm ftz d a) c s fun v s =>
    .done (perLane v s false d fun l => frndV rm (v.rdF ftz a l))

/-- FSCALE (R389). -/
def execFscale (c : Ctl) (rm : Rnd) (ftz : Bool) (d a b : Operand) (s : State) :=
  run (.fscale c rm ftz d a b) c s fun v s =>
    .done (perLane v s false d fun l => fscaleV rm ftz (v.rdF ftz a l) (v.rdInt .i32 b l))

/-- A source of FCVT (R390, R270): the low bits read in the narrow format, an inline constant exact. -/
def View.rdFmt (v : View) (sf : Fmt) (ftz : Bool) (o : Operand) (l : Nat) : FVal :=
  match o with
  | .imm k => intFVal k.toInt
  | _ => if sf == .f32 then readF32 ftz (v.rd o l) else fmtValue sf (v.rd o l).toNat

/-- FCVT (R390). -/
def execFcvt (c : Ctl) (df sf : Fmt) (rm : Rnd) (sat ftz : Bool) (d a : Operand) (s : State) :=
  run (.fcvt c df sf rm sat ftz d a) c s fun v s =>
    .done (perLane v s false d fun l => fcvtV df sf rm sat ftz (v.rdFmt sf ftz a l))

/-- FTOI (R391). -/
def execFtoi (c : Ctl) (ty : Fmt) (rm : Rnd) (ftz : Bool) (d a : Operand) (s : State) :=
  run (.ftoi c ty rm ftz d a) c s fun v s =>
    .done (perLane v s ty.is64 d fun l => ftoiV ty rm (v.rdF ftz a l))

/-- ITOF (R392). -/
def execItof (c : Ctl) (ty : Fmt) (rm : Rnd) (ftz : Bool) (d a : Operand) (s : State) :=
  run (.itof c ty rm ftz d a) c s fun v s =>
    .done (perLane v s false d fun l => itofV rm (v.rdInt ty a l))

/-- A special function of every effective lane as a pending result (R393). -/
def sfuPend (v : View) (s : State) (c : Ctl) (d : Operand) (f : Nat → Nat × Flags) : State :=
  let xs := (List.range 96).map (fun l => if v.eff.getLsbD l then f l else (0, noFlag))
  let (s, id) := pendResult s v c [d] v.eff [xs.map (fun x => BitVec.ofNat 32 x.1)] (joinFlags (xs.map (·.2))) 0
  s.setStrand v.r (updPending (s.strand v.r) id (fun q => { q with sfu := true }))

/-- Whether the special-function unit of a slot's scheduler holds an instruction of a strand of its slots. -/
def sfuHolds (s : State) (r : SplitRef) : Bool :=
  (s.core r.core).slots.any (fun e => e.1 / 6 == r.slot / 6 && e.2.results.any (·.sfu))

/-- A special-function instruction (R15): it waits at issue under reason 22 while the unit is full, which the step's flag
says and which only a unit that holds something is (log 144). -/
def sfuRun (v : View) (s : State) (c : Ctl) (d : Operand) (f : Nat → Nat × Flags) : Res :=
  if s.pick.flag && sfuHolds s v.r then .stay 22 s else .done (sfuPend v s c d f)

/-- FRCP (R394). -/
def execFrcp (c : Ctl) (ftz : Bool) (d a : Operand) (s : State) :=
  run (.frcp c ftz d a) c s fun v s => sfuRun v s c d fun l => frcpV ftz (v.rdF ftz a l)

/-- FRSQ (R395). -/
def execFrsq (c : Ctl) (ftz : Bool) (d a : Operand) (s : State) :=
  run (.frsq c ftz d a) c s fun v s => sfuRun v s c d fun l => frsqV ftz (v.rdF ftz a l)

/-- FSQRT (R396). -/
def execFsqrt (c : Ctl) (ftz : Bool) (d a : Operand) (s : State) :=
  run (.fsqrt c ftz d a) c s fun v s => sfuRun v s c d fun l => fsqrtV ftz (v.rdF ftz a l)

/-- FEX2 (R397). -/
def execFex2 (c : Ctl) (ftz : Bool) (d a : Operand) (s : State) :=
  run (.fex2 c ftz d a) c s fun v s =>
    sfuRun v s c d fun l => fex2V (v.rdFBits a l) ftz (v.rdF ftz a l)

/-- FLG2 (R398). -/
def execFlg2 (c : Ctl) (ftz : Bool) (d a : Operand) (s : State) :=
  run (.flg2 c ftz d a) c s fun v s =>
    sfuRun v s c d fun l => flg2V (v.rdFBits a l) ftz (v.rdF ftz a l)

/-- FSIN (R399). -/
def execFsin (c : Ctl) (ftz : Bool) (d a : Operand) (s : State) :=
  run (.fsin c ftz d a) c s fun v s =>
    sfuRun v s c d fun l => fsinV (v.rdFBits a l) ftz (v.rdF ftz a l)

/-- FCOS (R400). -/
def execFcos (c : Ctl) (ftz : Bool) (d a : Operand) (s : State) :=
  run (.fcos c ftz d a) c s fun v s =>
    sfuRun v s c d fun l => fcosV (v.rdFBits a l) ftz (v.rdF ftz a l)

/-- FTANH (R401). -/
def execFtanh (c : Ctl) (ftz : Bool) (d a : Operand) (s : State) :=
  run (.ftanh c ftz d a) c s fun v s =>
    sfuRun v s c d fun l => ftanhV (v.rdFBits a l) ftz (v.rdF ftz a l)

/-- Two halves computed apart (R402). -/
def halfLanes (v : View) (s : State) (d : Operand) (f : Nat → Nat → Nat × Flags) : State :=
  perLane v s false d fun l => ((f l 0).1 % 2 ^ 16 + 2 ^ 16 * ((f l 1).1 % 2 ^ 16), (f l 0).2 ||| (f l 1).2)

/-- HADD2 (R403). -/
def execHadd2 (c : Ctl) (bf : Bool) (rm : Rnd) (d a b : Operand) (s : State) :=
  run (.hadd2 c bf rm d a b) c s fun v s =>
    .done (halfLanes v s d fun l e => (halfFormat bf).add rm false (v.rdHalf bf a l e) (v.rdHalf bf b l e))

/-- HMUL2 (R404). -/
def execHmul2 (c : Ctl) (bf : Bool) (rm : Rnd) (d a b : Operand) (s : State) :=
  run (.hmul2 c bf rm d a b) c s fun v s =>
    .done (halfLanes v s d fun l e => (halfFormat bf).mul rm false (v.rdHalf bf a l e) (v.rdHalf bf b l e))

/-- HFMA2 (R405). -/
def execHfma2 (c : Ctl) (bf : Bool) (rm : Rnd) (d a b e : Operand) (s : State) :=
  run (.hfma2 c bf rm d a b e) c s fun v s =>
    .done (halfLanes v s d fun l i =>
      (halfFormat bf).fma rm false (v.rdHalf bf a l i) (v.rdHalf bf b l i) (v.rdHalf bf e l i))

/-- HMIN2 (R406). -/
def execHmin2 (c : Ctl) (bf : Bool) (d a b : Operand) (s : State) :=
  run (.hmin2 c bf d a b) c s fun v s =>
    .done (halfLanes v s d fun l e => (halfFormat bf).minMax false (v.rdHalf bf a l e) (v.rdHalf bf b l e))

/-- HMAX2 (R407). -/
def execHmax2 (c : Ctl) (bf : Bool) (d a b : Operand) (s : State) :=
  run (.hmax2 c bf d a b) c s fun v s =>
    .done (halfLanes v s d fun l e => (halfFormat bf).minMax true (v.rdHalf bf a l e) (v.rdHalf bf b l e))

/-- An exact two-way dot product with an addend, rounded once (R408). Any NaN sets NV. -/
def dot2V (rm : Rnd) (a0 b0 a1 b1 x : FVal) : Nat × Flags :=
  let p0 := mulV a0 b0
  let p1 := mulV a1 b1
  let t := sumV rm [p0.1, p1.1, x]
  let (code, fl) := ff32.put rm false t.1
  (code, fl ||| flagIf t.1.isNan flagNV)

/-- FDOT2 (R408). -/
def execFdot2 (c : Ctl) (bf : Bool) (rm : Rnd) (d a b e : Operand) (s : State) :=
  run (.fdot2 c bf rm d a b e) c s fun v s =>
    .done (perLane v s false d fun l =>
      dot2V rm (v.rdHalf bf a l 0) (v.rdHalf bf b l 0) (v.rdHalf bf a l 1) (v.rdHalf bf b l 1) (v.rdF false e l))

/-- PACK (R409). -/
def execPack (c : Ctl) (ty : Fmt) (pos : BitVec 3) (d a b : Operand) (s : State) :=
  run (.pack c ty pos d a b) c s fun v s =>
    .done (bitLanes v s false d fun l =>
      let hole := BitVec.ofNat 32 ((2 ^ ty.width - 1) * 2 ^ (ty.width * pos.toNat))
      ((v.rd b l &&& ~~~hole) ||| (v.rd a l <<< (ty.width * pos.toNat) &&& hole)).setWidth 64)

/-- Entry j of a codebook as an exact value (R30). -/
def codebookValue (e4m3 : Bool) (book : BitVec 256) (j : Nat) : FVal :=
  if e4m3 then ffE4m3.decode (book.extractLsb' (16 * j) 8).toNat else ffBf16.decode (book.extractLsb' (16 * j) 16).toNat

/-- The conversion of one unpacked element (R410). -/
def unpackV (ty : Fmt) (lut : Option (BitVec 256 × Bool)) (x : Nat) : Nat × Flags :=
  match ty with
  | .f32 => (x, noFlag)
  | .lut4 => match lut with
    | some (book, e4m3) => ((ff32.put .rne false (codebookValue e4m3 book x)).1, noFlag)
    | none => (0, noFlag)
  | .f16 | .bf16 | .e4m3 | .e5m2 | .lns6 =>
    let y := fmtValue ty x
    ((ff32.put .rne false y).1, snanFlag [y])
  | _ => ((intValue ty x % 2 ^ 32).toNat, noFlag)

/-- UNPACK (R410). -/
def execUnpack (c : Ctl) (ty : Fmt) (pos : BitVec 3) (lut : Option (BitVec 2 × Bool)) (d a : Operand) (s : State) :=
  run (.unpack c ty pos lut d a) c s fun v s =>
    let book := lut.map (fun e => (v.st.cb.get 0 e.1.toNat, e.2))
    .done (perLane v s false d fun l =>
      unpackV ty book ((v.rd a l).toNat / 2 ^ (ty.width * pos.toNat) % 2 ^ ty.width))

/-- FSTAT (R411): waits for the strand's results, then reads and clears the sticky flags. -/
def execFstat (c : Ctl) (d : Operand) (s : State) :=
  run (.fstat c d) c s fun v s =>
    if v.eff = 0 then .done s
    else if !v.st.results.isEmpty then .stay 3 s
    else
      let s := s.setStrand v.r { v.st with flags := noFlag }
      .done (putAll s v.r d v.eff (flagsWord v.st.flags))

end Sys2Proof.Machine
end

