-- ==== Sys2Proof/Machine/Tensor.lean ====
section
/-! DEFINITION. Tensor identifiers (R452-R455), accumulator tiles (R44, R459), the paths of the matrix unit (R40) and the
entry of an operation into the cascade sequencer (R17, R460). -/
namespace Sys2Proof.Machine

/-! Tid entries (R452). -/

/-- A field of an entry. -/
def tidField (x : BitVec 512) (lo w : Nat) : Nat := x.toNat / 2 ^ lo % 2 ^ w
def tidValid (x : BitVec 512) : Bool := x.getLsbD 511
def tidKind (x : BitVec 512) : Nat := tidField x 509 2
def tidFmtCode (x : BitVec 512) : Nat := tidField x 504 5
def tidRank (x : BitVec 512) : Nat := tidField x 502 2 + 1
def tidSeg (x : BitVec 512) : Nat := tidField x 499 3
def tidOff (x : BitVec 512) : Nat := tidField x 451 48
def tidDim (x : BitVec 512) (i : Nat) : Nat := tidField x (427 - 24 * i) 24
/-- The byte stride of dimension 1, 2 or 3. -/
def tidStr (x : BitVec 512) (i : Nat) : Nat := tidField x (355 - 32 * i) 32
def tidScaleMode (x : BitVec 512) : Nat := tidField x 241 2
def tidScaleSeg (x : BitVec 512) : Nat := tidField x 238 3
def tidScaleOff (x : BitVec 512) : Nat := tidField x 190 48
def tidHasZero (x : BitVec 512) : Bool := x.getLsbD 189
def tidZeroSeg (x : BitVec 512) : Nat := tidField x 186 3
def tidZeroOff (x : BitVec 512) : Nat := tidField x 138 48
def tidBook (x : BitVec 512) : Nat := tidField x 136 2
def tidBookE4m3 (x : BitVec 512) : Bool := x.getLsbD 135
def tidHasMeta (x : BitVec 512) : Bool := x.getLsbD 134
def tidMeta (x : BitVec 512) : Nat := tidField x 124 10
def tidTheta (x : BitVec 512) : Word := BitVec.ofNat 32 (tidField x 92 32)
def tidMapSeg (x : BitVec 512) : Nat := tidField x 89 3
def tidMapOff (x : BitVec 512) : Nat := tidField x 41 48

/-- The format of an entry; FP32 stands for a reserved code, which no table holds (R22). -/
def tidFmt (x : BitVec 512) : Fmt := (Fmt.ofCode (BitVec.ofNat 5 (tidFmtCode x))).getD .f32

/-- Bytes of an element; a 4-bit one counts a byte (R453). -/
def fmtBytes (f : Fmt) : Nat := max 1 (f.width / 8)

/-- An element's byte offset in its segment, and whether it lies in the upper nibble (R452, R20). -/
def elemOff (x : BitVec 512) (i0 i1 : Nat) : Nat :=
  let f := tidFmt x
  tidOff x + (if f.width = 4 then i0 / 2 else i0 * fmtBytes f) + i1 * tidStr x 1

/-- Whether TID.LD accepts an entry (R453); `devBase` is the dev segment's BASE. -/
def tidAccepted (x : BitVec 512) (devBase : Nat) : Bool :=
  !tidValid x ||
  match Fmt.ofCode (BitVec.ofNat 5 (tidFmtCode x)) with
  | none => false
  | some f =>
    let eb := fmtBytes f
    tidField x 0 41 == 0 &&
    (List.range 4).all (fun i => (tidDim x i ≥ 1) == (i < tidRank x)) &&
    tidOff x % eb == 0 && [1, 2, 3].all (fun i => tidStr x i % eb == 0) &&
    tidScaleMode x != 3 && (!tidHasZero x || f == .i4 || f == .n4) && (!tidHasMeta x || tidKind x == 0) &&
    (tidKind x != 2 || (f == .n32 && tidRank x == 2 && tidOff x % 256 == 0 && tidStr x 1 % 64 == 0)) &&
    (tidKind x != 1 || ((f == .bf16 || f == .e4m3 || f == .i4) && tidRank x == 2 && tidSeg x == 3 && tidMapSeg x == 3 &&
      (tidOff x + devBase) % 0x8000 == 0 && tidMapOff x % 8 == 0))

/-- The entry of a context's table (R452). -/
def tidOf (s : State) (ctx n : Nat) : BitVec 512 := (s.ctx ctx).tids.get 0 n

/-- An entry named by an instruction: none where the tid is invalid (R455). -/
def namedTid (s : State) (ctx n : Nat) : Option (BitVec 512) :=
  let x := tidOf s ctx n
  if n < 1024 && tidValid x then some x else none

/-- An entry installed in a context's table. -/
def installTid (s : State) (ctx n : Nat) (x : BitVec 512) : State :=
  let c := s.ctx ctx
  s.setCtx ctx { c with tids := if tidValid x then c.tids.set n x else c.tids.del n }

/-- Whether a tier engine holds a tid bound, or about to be (R199). -/
def tierBound (s : State) (ctx n : Nat) : Bool :=
  match (s.ctx ctx).tiers.find n with
  | some t => t.state != .unbound
  | none => false

/-! Accumulator tiles (R44, R459). -/

/-- A tile of a core. -/
def Core.tile (k : Core) (t : Nat) : Tile := k.tiles.get {} t

/-- The tiles of one tile or of a group. -/
def groupTiles (wide : Bool) (t : Nat) : List Nat := if wide then [t, t + 1, t + 2, t + 3] else [t]

/-- Rows and columns of a tile or group. -/
def groupSize (wide : Bool) : Nat := if wide then 128 else 64

/-- The tile that holds an element, and its row and column there (R459). -/
def tileAt (t i j : Nat) : Nat × Nat × Nat := (t + 2 * (i / 64) + j / 64, i % 64, j % 64)

/-- An element's word. -/
def Core.acc (k : Core) (t i j : Nat) : Word :=
  let (u, a, b) := tileAt t i j
  ((k.tile u).rows.get [] a).getD b 0

/-- A row's sum (R44). -/
def Core.rowSum (k : Core) (t i : Nat) : Word := (k.tile (t + 2 * (i / 64))).sums.get 0 (i % 64)

/-- A tile changed. -/
def Core.updTile (k : Core) (t : Nat) (f : Tile → Tile) : Core := { k with tiles := k.tiles.set t (f (k.tile t)) }

/-- Every tile of a tile or group changed. -/
def Core.updGroup (k : Core) (wide : Bool) (t : Nat) (f : Tile → Tile) : Core :=
  (groupTiles wide t).foldl (fun k u => k.updTile u f) k

/-- Every element of a tile or group replaced. -/
def Core.putBlock (k : Core) (wide : Bool) (t : Nat) (f : Nat → Nat → Word) : Core :=
  (groupTiles wide t).foldl (fun k u =>
    let i0 := (u - t) / 2 * 64
    let j0 := (u - t) % 2 * 64
    k.updTile u (fun x => { x with
      rows := (List.range 64).map (fun i => (i, (List.range 64).map (fun j => f (i0 + i) (j0 + j)))) })) k

/-- The row sums of a tile or group replaced; the right-hand tiles of a group hold +0 (R44). -/
def Core.putSums (k : Core) (wide : Bool) (t : Nat) (f : Nat → Word) : Core :=
  (groupTiles wide t).foldl (fun k u =>
    let i0 := (u - t) / 2 * 64
    k.updTile u (fun x => { x with
      sums := if (u - t) % 2 = 1 then [] else (List.range 64).map (fun i => (i, f (i0 + i))) })) k

/-- Whether operations own a tile or group. -/
def Core.owned (k : Core) (wide : Bool) (t : Nat) : Bool := (groupTiles wide t).any (fun u => (k.tile u).owners != 0)

/-- Whether a tile or group is free or has a tag (R459). -/
def Core.tagFits (k : Core) (wide : Bool) (t : Nat) (g : TileTag) : Bool :=
  (groupTiles wide t).all (fun u => (k.tile u).tag == .free || (k.tile u).tag == g)

/-- The tile number of an operand. -/
def tileOf (o : Operand) : Nat :=
  match o with
  | .a n => n.toNat
  | _ => 0

/-! Matrix paths (R40). -/

/-- The tag a pairing of formats leaves in the tile; none where the pairing is no path of the form (R40, R462-R464). -/
def pathTag (kind : MmaKind) (a b : Fmt) (bookE4m3 : Bool) : Option TileTag :=
  let fp8 (f : Fmt) : Bool := f == .e4m3 || f == .e5m2
  let i8 (f : Fmt) : Bool := f == .i8 || f == .n8
  let i4 (f : Fmt) : Bool := f == .i4 || f == .n4
  match kind with
  | .quant => if (a == .bf16 || a == .e4m3) && (i4 b || b == .lut4) then some .q else none
  | _ =>
    if (a == .bf16 && b == .bf16) || (a == .f16 && b == .f16) || (fp8 a && fp8 b) || (a == .e4m3 && b == .lut4 && bookE4m3) then
      some .f
    else if (i8 a && i8 b) || (i4 a && i4 b) then some .i
    else if a == .lns6 && b == .lns6 then some .l
    else none

/-- The tag of an operation. -/
def CascadeOp.tag (x : CascadeOp) : TileTag :=
  (pathTag x.kind (tidFmt x.ta) (tidFmt x.tb) (tidBookE4m3 x.tb)).getD .f

/-- An operation enters its core's sequencer (R17, R460): its tiles take the tag, one more owner, the recorded tid and
the recorded column. -/
def enterCascade (s : State) (c : Nat) (x : CascadeOp) : State :=
  let k := (s.core c).updGroup x.wide x.tile (fun t => { t with
    tag := x.tag, owners := t.owners + 1, tid := some x.tb, col := x.n0 })
  s.setCore c { k with cascade := k.cascade ++ [x] }

end Sys2Proof.Machine
end

