-- ==== Sys2Proof/Machine/Gang.lean ====
section
/-! DEFINITION. Gangs and the cuff latch (R145, R146, R461). -/
namespace Sys2Proof.Machine

/-- The number of members of a GANG value, and the strand's own position (R145). -/
def gangCount (x : BitVec 128) : Nat := (x.extractLsb' 125 3).toNat
def gangPos (x : BitVec 128) : Nat := (x.extractLsb' 122 3).toNat

/-- Member i as core of the cluster and slot. -/
def gangMember (x : BitVec 128) (i : Nat) : Nat × Nat :=
  ((x.extractLsb' (13 * i + 5) 8).toNat, (x.extractLsb' (13 * i) 5).toNat)

/-- The members, by global core number and slot. -/
def gangMembers (k : Nat) (x : BitVec 128) : List (Nat × Nat) :=
  (List.range (gangCount x)).map (fun i => (256 * k + (gangMember x i).1, (gangMember x i).2))

/-- A GANG value without the position: what every member holds alike. -/
def gangList (x : BitVec 128) : BitVec 128 := x &&& ~~~(BitVec.ofNat 128 (7 * 2 ^ 122))

/-- Whether a GANG value may be written by the strand of a core and slot (R456). -/
def gangLegal (x : BitVec 128) (core slot : Nat) : Bool :=
  let n := gangCount x
  let ms := (List.range n).map (gangMember x)
  n != 1 && n != 7 && x.extractLsb' 78 44 == 0 && (n == 0 || gangPos x < n) &&
    (List.range 6).all (fun i => i < n || x.extractLsb' (13 * i) 13 == 0) &&
    (n == 0 || gangMember x (gangPos x) == (core % 256, slot)) && ms.all (fun m => ms.count m == 1)

/-- Whether a strand of a slot is there, running or saved. -/
def strandThere (s : State) (m : Nat × Nat) : Bool :=
  (s.strandAt m.1 m.2).state == .resident || (s.strandAt m.1 m.2).state == .saved

/-- Whether every member of a gang has written its list (R146). -/
def gangComplete (s : State) (k : Nat) (x : BitVec 128) : Bool :=
  gangCount x ≥ 2 && (gangMembers k x).all (fun m => strandThere s m && gangList (s.strandAt m.1 m.2).gang == gangList x)

/-- GANG written: a gang whose members have all written it is formed. -/
def writeGang (s : State) (c slot : Nat) (x : BitVec 128) : State :=
  let k := coreCluster c
  let s := s.setStrandAt c slot { s.strandAt c slot with gang := x, formed := false }
  if gangComplete s k x then
    (gangMembers k x).foldl (fun s m => s.setStrandAt m.1 m.2 { s.strandAt m.1 m.2 with formed := true }) s
  else s

/-- What an arrived member's instruction does next: 2 the operation runs, 3 mismatch, 4 stall. -/
def setArrival (s : State) (a : GangArrival) (stage : Nat) : State :=
  let r : SplitRef := ⟨a.core, a.slot, a.split⟩
  let sp := s.split r
  s.setSplit r { sp with prog := { sp.prog with stage := stage } }

/-- Every arrived member of a cuff told. -/
def tellArrived (s : State) (x : Cuff) (stage : Nat) : State := x.arrived.foldl (fun s a => setArrival s a stage) s

/-- The cuffs of a cluster replaced. -/
def setCuffs (s : State) (k : Nat) (xs : List Cuff) : State := s.setClu k { s.clu k with cuffs := xs }

/-- The timer of a cuff counts while every member is Resident (R146); the ticks counted are brought up to now. -/
def retime (s : State) (x : Cuff) : Cuff :=
  { x with
    count := x.count + (match x.mark with | some t => s.runTick - t | none => 0)
    mark := if x.members.all (fun m => (s.strandAt m.1 m.2).state == .resident) then some s.runTick else none }

/-- Every timer of a cluster brought up to now. -/
def retimeCuffs (s : State) (k : Nat) : State := setCuffs s k ((s.clu k).cuffs.map (retime s))

/-- A cuff all of whose members have arrived: the operation enters their sequencers (R17, R146). -/
def runGang (s : State) (x : Cuff) : State :=
  let (s, g) := s.fresh
  x.arrived.foldl (fun s a =>
    setArrival (match a.op with | some op => enterCascade s a.core { op with group := some g } | none => s) a 2) s

/-- The cuff an arrival belongs to: one that lists it, or one whose arrived members its list names. -/
def cuffOf (s : State) (k ctx : Nat) (me : Nat × Nat) (mine : List (Nat × Nat)) : Option Nat :=
  (s.clu k).cuffs.findIdx? (fun x => x.ctx == ctx &&
    (x.members.contains me || (!x.failed && x.arrived.any (fun a => mine.contains (a.core, a.slot)))))

/-- An arrival at the cuff latch (R146). -/
def arriveGang (s : State) (k ctx : Nat) (call : GangCall) (a : GangArrival) : State :=
  let me := (a.core, a.slot)
  let mine := gangMembers k call.list
  let st := s.strandAt a.core a.slot
  let gone (m : Nat × Nat) : Bool :=
    !strandThere s m || (st.formed && gangList (s.strandAt m.1 m.2).gang != call.list)
  match cuffOf s k ctx me mine with
  | some i =>
    match (s.clu k).cuffs[i]? with
    | none => s
    | some x =>
      if x.failed then
        let rest := x.members.filter (· != me)
        let cs := (s.clu k).cuffs
        setArrival (setCuffs s k (if rest.isEmpty then dropAt cs i else setAt cs i { x with members := rest })) a 3
      else if x.call != call then
        let due := x.members.filter (fun m => m != me && !x.arrived.any (fun b => (b.core, b.slot) == m))
        let cs := (s.clu k).cuffs
        let s := tellArrived s x 3
        let s := setCuffs s k (if due.isEmpty then dropAt cs i
          else setAt cs i { x with failed := true, members := due, arrived := [] })
        setArrival s a 3
      else
        let x := { x with arrived := x.arrived ++ [a] }
        if x.members.all (fun m => x.arrived.any (fun b => (b.core, b.slot) == m)) then
          runGang (setCuffs s k (dropAt (s.clu k).cuffs i)) x
        else setArrival (setCuffs s k (setAt (s.clu k).cuffs i x)) a 1
  | none =>
    if mine.any gone then setArrival s a 4
    else
      let x : Cuff := { ctx := ctx, call := call, members := mine, arrived := [a] }
      setArrival (setCuffs s k ((s.clu k).cuffs ++ [retime s x])) a 1

/-- A strand leaves its slot (R146): cuffs that list it are given up with GANG_STALL. -/
def gangLeft (s : State) (c slot : Nat) : State :=
  let k := coreCluster c
  let lists (x : Cuff) : Bool := x.members.contains (c, slot)
  let hit := (s.clu k).cuffs.filter (fun x => lists x && !x.failed)
  let keep := (s.clu k).cuffs.filterMap (fun x =>
    if !lists x then some x
    else if x.failed then
      let rest := x.members.filter (· != (c, slot))
      if rest.isEmpty then none else some { x with members := rest }
    else none)
  hit.foldl (fun s x => tellArrived s x 4) (setCuffs s k keep)

/-- An arrived member withdraws (R100): its arrival is forgotten. -/
def withdrawGang (s : State) (c slot : Nat) : State :=
  let k := coreCluster c
  setCuffs s k ((s.clu k).cuffs.filterMap (fun x =>
    let rest := x.arrived.filter (fun a => (a.core, a.slot) != (c, slot))
    if rest.isEmpty && !x.arrived.isEmpty then none else some { x with arrived := rest }))

/-- The gang timeout in ticks (R146). -/
def gangTimeout : Nat := 65536

/-- GANG_TIMEOUT (R146): a cuff's timer expires and the arrived members trap GANG_STALL. The step's operands: the
cluster and the cuff. -/
def execGangTimeout (s : State) : Host.Outcome State Fault Refusal :=
  let k := s.pick.a
  match (s.clu k).cuffs[s.pick.b]? with
  | none => .next s
  | some x =>
    if x.failed || (retime s x).count < gangTimeout then .next s
    else .next (tellArrived (setCuffs s k (dropAt (s.clu k).cuffs s.pick.b)) x 4)

end Sys2Proof.Machine
end

