-- ==== Sys2Proof/Machine/Lane.lean ====
section
/-! DEFINITION. Predicates, cross-lane moves, reductions and scans (17 R412-R422, 02 R50-R52). -/
namespace Sys2Proof.Machine

/-- PLOP (R413). -/
def execPlop (c : Ctl) (tt : BitVec 8) (d a b e : Operand) (s : State) :=
  run (.plop c tt d a b e) c s fun v s =>
    .done (putPred s v.r d v.eff (fun l => truth tt (v.rdP a l) (v.rdP b l) (v.rdP e l)))

/-- A 96-bit value written to an s triple (R414). -/
def putTriple (s : State) (r : SplitRef) (o : Operand) (x : LaneMask) : State :=
  match o with
  | .s n =>
    (List.range 3).foldl (fun s i => s.setStrand r (putScalar (s.strand r) r.split (n.toNat + i) (maskWord x i))) s
  | _ => s

/-- PMOV (R414). -/
def execPmov (c : Ctl) (d a : Operand) (s : State) :=
  run (.pmov c d a) c s fun v s =>
    match d with
    | .p _ =>
      let x := match a with | .p _ => v.rdMask a | _ => v.rdTriple a
      .done (putPred s v.r d v.eff (fun l => x.getLsbD l))
    | _ => .done (if v.eff = 0 then s else putTriple s v.r d (v.rdMask a))

/-- VOTE (R415). -/
def execVote (c : Ctl) (form : VoteForm) (d a : Operand) (s : State) :=
  run (.vote c form d a) c s fun v s =>
    let hit := v.rdMask a &&& v.eff
    if v.eff = 0 then .done s
    else match form with
      | .every => .done (putPred s v.r d v.eff (fun _ => hit == v.eff))
      | .some => .done (putPred s v.r d v.eff (fun _ => hit != 0))
      | .alike => .done (putPred s v.r d v.eff (fun _ => hit == v.eff || hit == 0))
      | .bits => .done (putTriple s v.r d hit)
      | .count => .done (putAll s v.r d v.eff (BitVec.ofNat 32 (popCount hit)))

/-- ELECT (R416). -/
def execElect (c : Ctl) (d : Operand) (s : State) :=
  run (.elect c d) c s fun v s => .done (putPred s v.r d v.eff (fun l => lowLane v.eff == some l))

/-- The lane a form of SHFL names; none when it leaves the strand (R417). -/
def shflLane (form : ShflForm) (l k : Nat) : Option Nat :=
  let j : Option Nat := match form with
    | .pick => some k
    | .back => if k ≤ l then some (l - k) else none
    | .fwd => some (l + k)
    | .flip => some (l ^^^ k)
    | .rot => some ((l + k) % 96)
  match j with
  | some j => if j < 96 then some j else none
  | none => none

/-- SHFL (R417). -/
def execShfl (c : Ctl) (form : ShflForm) (d a b : Operand) (s : State) :=
  run (.shfl c form d a b) c s fun v s =>
    let x := vecOf v.eff fun l => match shflLane form l (v.rd b l).toNat with
      | none => v.rd a l
      | some j => if v.sp.mask.getLsbD j then v.rd a j else 0
    .done (pend s v c [d] v.eff [x] noFlag)

/-- The highest effective lane that sends to a lane (R418). -/
def permSource (v : View) (b : Operand) (j : Nat) : Option Nat :=
  (lanesOf v.eff).reverse.find? (fun l => (v.rd b l).toNat == j)

/-- PERM (R418). A scalar destination takes the lowest effective lane's value, when that lane receives one. -/
def execPerm (c : Ctl) (d a b : Operand) (s : State) :=
  run (.perm c d a b) c s fun v s =>
    let got := maskWhere (fun j => v.eff.getLsbD j && (permSource v b j).isSome)
    let low := match d with
      | .s _ => maskWhere (fun j => lowLane v.eff == some j)
      | _ => BitVec.allOnes 96
    let x := vecOf got fun j => match permSource v b j with
      | some l => v.rd a l
      | none => 0
    .done (pend s v c [d] (got &&& low) [x] noFlag)

/-- BCAST (R419). -/
def execBcast (c : Ctl) (d a b : Operand) (s : State) :=
  run (.bcast c d a b) c s fun v s =>
    let j := (v.rd b 0).toNat
    let x := if j < 96 && v.sp.mask.getLsbD j then v.rd a j else 0
    .done (pend s v c [d] v.eff [vecOf v.eff fun _ => x] noFlag)

/-! Reductions (R50-R52). -/

/-- The identity of a reduction (R52). -/
def redIdentity (op : ROp) (ty : RTy) : Word :=
  match op, ty with
  | .add, .f32 => 0x80000000
  | .add, _ => 0
  | .min, .i32 => 0x7FFFFFFF
  | .min, .f32 => 0x7F800000
  | .min, _ => 0xFFFFFFFF
  | .max, .i32 => 0x80000000
  | .max, .f32 => 0xFF800000
  | .max, _ => 0
  | .and, _ => 0xFFFFFFFF
  | .or, _ => 0
  | .xor, _ => 0

/-- One node of a reduction (R50, R52). -/
def redNode (op : ROp) (ty : RTy) (ftz : Bool) (x y : Word) : Word × Flags :=
  let fp (r : Nat × Flags) : Word × Flags := (BitVec.ofNat 32 r.1, r.2)
  match op, ty with
  | .add, .f32 => fp (ff32.add .rne ftz (readF32 ftz x) (readF32 ftz y))
  | .add, _ => (x + y, noFlag)
  | .min, .f32 => fp (ff32.minMax false (readF32 ftz x) (readF32 ftz y))
  | .min, .i32 => (if y.slt x then y else x, noFlag)
  | .min, _ => (if y < x then y else x, noFlag)
  | .max, .f32 => fp (ff32.minMax true (readF32 ftz x) (readF32 ftz y))
  | .max, .i32 => (if x.slt y then y else x, noFlag)
  | .max, _ => (if x < y then y else x, noFlag)
  | .and, _ => (x &&& y, noFlag)
  | .or, _ => (x ||| y, noFlag)
  | .xor, _ => (x ^^^ y, noFlag)

/-- Two results of the tree combined, with every flag below them. -/
def redJoin (op : ROp) (ty : RTy) (ftz : Bool) (a b : Word × Flags) : Word × Flags :=
  let r := redNode op ty ftz a.1 b.1
  (r.1, r.2 ||| a.2 ||| b.2)

/-- Node q of a level of the tree, with the flags of every node below and at it (R50). -/
def redTree (op : ROp) (ty : RTy) (ftz : Bool) (leaf : Nat → Word) : Nat → Nat → Word × Flags
  | 0, q => (leaf q, noFlag)
  | j + 1, q => redJoin op ty ftz (redTree op ty ftz leaf j (2 * q)) (redTree op ty ftz leaf j (2 * q + 1))

/-- A source of a reduction's type: an inline constant of an FP32 source is exact (R270). -/
def View.rdRed (v : View) (ty : RTy) (o : Operand) (l : Nat) : Word :=
  match ty with
  | .f32 => v.rdFBits o l
  | _ => v.rd o l

/-- The leaf of a lane (R50). -/
def View.leaf (v : View) (op : ROp) (ty : RTy) (a : Operand) (l : Nat) : Word :=
  if l < 96 && v.eff.getLsbD l then v.rdRed ty a l else redIdentity op ty

/-- LRED (R420). -/
def execLred (c : Ctl) (op : ROp) (ty : RTy) (ftz : Bool) (d a : Operand) (s : State) :=
  run (.lred c op ty ftz d a) c s fun v s =>
    if v.eff = 0 then .done (pend s v c [d] 0 [[]] noFlag)
    else
      let root := redTree op ty ftz (v.leaf op ty a) 7 0
      .done (pend s v c [d] v.eff [vecOf v.eff fun _ => root.1] root.2)

/-- The aligned blocks that cover positions 0 to n − 1, largest first, from a position on (R51): levels and indices. -/
def scanBlocks (n : Nat) : Nat → Nat → List (Nat × Nat)
  | 0, _ => []
  | j + 1, p => if n.testBit j then (j, p / 2 ^ j) :: scanBlocks n j (p + 2 ^ j) else scanBlocks n j p

/-- The combination of the blocks that cover n positions; the identity for none (R51). -/
def scanValue (op : ROp) (ty : RTy) (ftz : Bool) (leaf : Nat → Word) (n : Nat) : Word × Flags :=
  match (scanBlocks n 8 0).map (fun b => redTree op ty ftz leaf b.1 b.2) with
  | [] => (redIdentity op ty, noFlag)
  | x :: rest => rest.foldl (redJoin op ty ftz) x

/-- LSCAN (R421). -/
def execLscan (c : Ctl) (op : ROp) (ty : RTy) (ftz excl : Bool) (d a : Operand) (s : State) :=
  run (.lscan c op ty ftz excl d a) c s fun v s =>
    let xs := (List.range 96).map (fun l =>
      if v.eff.getLsbD l then scanValue op ty ftz (v.leaf op ty a) (if excl then l else l + 1) else (0, noFlag))
    .done (pend s v c [d] v.eff [xs.map (·.1)] (joinFlags (xs.map (·.2))))

/-- The effective lanes that hold the same bits as a lane (R422). -/
def matchGroup (v : View) (w64 : Bool) (a : Operand) (l : Nat) : LaneMask :=
  maskWhere (fun j => v.eff.getLsbD j && v.rdW w64 a j == v.rdW w64 a l)

/-- MATCH (R422). -/
def execMatchL (c : Ctl) (w64 rank : Bool) (d a : Operand) (s : State) :=
  run (.matchL c w64 rank d a) c s fun v s =>
    let part := fun (i : Nat) => vecOf v.eff fun l =>
      let g := matchGroup v w64 a l
      if !rank then maskWord g i
      else match i with
        | 0 => BitVec.ofNat 32 ((lowLane g).getD 0)
        | 1 => BitVec.ofNat 32 (popCount g)
        | _ => BitVec.ofNat 32 ((lanesOf g).countP (· < l))
    .done (pend s v c [d, d.after 1, d.after 2] v.eff [part 0, part 1, part 2] noFlag)

end Sys2Proof.Machine
end

