-- ==== Sys2Proof/Machine/Wake.lean ====
section
/-! DEFINITION. Waits after a clause (R285): how one ends, and the waits that end by what the core sees: handles and
promises (R162), barrier phases completed while saved (R155), byte-count barriers (R156-R159). -/
namespace Sys2Proof.Machine

/-! The end of a wait. -/

/-- A split one of whose waits is over: while others last it records the lowest of their reasons (R523); then it is Ready, or Parked
where RECONV asked for it (R130, R133, R134). -/
def wakeSplit (s : State) (r : SplitRef) : State :=
  let sp := s.split r
  if sp.state != .waiting then s
  else match lowestWait sp.blocking with
    | some w => s.setSplit r { sp with stall := w.kind.reason, since := w.since }
    | none =>
      if sp.reconv.isSome then
        reconvBoundary (s.setSplit r { sp with state := .parked, stall := 19, since := s.runTick }) r.core r.slot
      else s.setSplit r { sp with state := .ready, stall := 0 }

/-- A wait begins: it stands after the clause (R285). -/
def beginWait (s : State) (v : View) (k : WaitKind) : State :=
  let sp := s.split v.r
  s.setSplit v.r { sp with
    waits := sp.waits ++ [{ kind := k, pc := v.h, pos := v.pos, lanes := v.eff, since := s.runTick, hm := sp.hm }] }

/-- A wait is over. -/
def endWait (s : State) (r : SplitRef) (w : Wait) : State :=
  let sp := s.split r
  wakeSplit (s.setSplit r { sp with waits := sp.waits.erase w }) r

/-- A wait goes on in another form. -/
def changeWait (s : State) (r : SplitRef) (w : Wait) (k : WaitKind) : State :=
  let sp := s.split r
  s.setSplit r { sp with waits := sp.waits.map (fun x => if x = w then { x with kind := k } else x) }

/-- A wait ends in a late trap that names its instruction (R545). -/
def failWait (s : State) (r : SplitRef) (w : Wait) (t : TrapRec) : State :=
  let sp := s.split r
  wakeSplit (s.setSplit r { sp with
    waits := sp.waits.erase w, traps := sp.traps ++ [{ trap := t, site := some (w.pc, w.pos) }], reconv := none }) r

/-- A destination written after a clause: a temporary has ended with it (R270). -/
def putAfter (s : State) (r : SplitRef) (w : Wait) (d : Operand) (x : Word) : State :=
  match d with
  | .t _ => s
  | _ => putAll s r d w.lanes x

/-! Handles (R162). -/

/-- HWAIT's outcome once the status is known. -/
def handleOver (s : State) (r : SplitRef) (w : Wait) (h : DWord) (acq : Bool) (nt : Option Operand) (status : Nat) :
    State :=
  let s := if acq && status != 7 then acquire s r.core .dev else s
  match nt with
  | none => if status != 0 then failWait s r w { code := trapHandleErr, lanes := w.lanes, info := h } else endWait s r w
  | some d => endWait (putAfter s r w d (BitVec.ofNat 32 status)) r w

/-- Whether the global tick has reached a promised tick, modulo 2^40, in the nearer direction (R161). -/
def ptickReached (s : State) (h : DWord) : Bool := (s.tick + 2 ^ 40 - handlePtick h) % 2 ^ 40 < 2 ^ 39

/-- Whether a handle's command had completed by its promised tick: a stale handle has nothing outstanding. -/
def metPromise (s : State) (ctx : Nat) (h : DWord) : Bool :=
  match (handleStatus s ctx h).1 with
  | 6 => false
  | 7 => true
  | _ => match (s.clu (handleClu h)).ctab.find (handleSerial h) with
    | none => true
    | some e => (e.at_ + 2 ^ 40 - handlePtick h) % 2 ^ 40 == 0 || (e.at_ + 2 ^ 40 - handlePtick h) % 2 ^ 40 ≥ 2 ^ 39

/-- HPROM at its promised tick (R162). -/
def promiseOver (s : State) (r : SplitRef) (w : Wait) (h : DWord) : State :=
  let ctx := (s.strand r).ctx
  if metPromise s ctx h then handleOver s r w h false none (handleStatus s ctx h).1
  else failWait s r w { code := trapPromiseMissed, lanes := w.lanes, info := h }

/-! Byte-count barriers (R156-R159). -/

/-- The 16 bytes of a barrier; the reserved bits [121:96] are written as 0 (R156). -/
structure Bcb where
  ph   : Bool
  ovr  : Bool
  rcnt : Nat
  rld  : Nat
  arr  : Nat
  exp  : Nat
  deriving DecidableEq, Repr

/-- The fields of a barrier's 128 bits (R156). -/
def Bcb.ofNat (x : Nat) : Bcb where
  ph := x.testBit 127
  ovr := x.testBit 126
  rcnt := x / 2 ^ 122 % 16
  rld := x / 2 ^ 64 % 2 ^ 32
  arr := x / 2 ^ 32 % 2 ^ 32
  exp := x % 2 ^ 32

/-- The 128 bits of a barrier. -/
def Bcb.toNat (b : Bcb) : Nat :=
  (if b.ph then 2 ^ 127 else 0) + (if b.ovr then 2 ^ 126 else 0) + b.rcnt * 2 ^ 122 + b.rld * 2 ^ 64 +
    b.arr * 2 ^ 32 + b.exp

/-- A barrier at its home. -/
def readBcb (s : State) (key : Nat) : Bcb := Bcb.ofNat (s.mem.readNat key 16)

/-- The ranges a home keeps for a barrier. -/
def bcbRanges (s : State) (key : Nat) : BcbRanges :=
  (s.clu (ownerCluster key)).bcb.get { opened := [], last := some [] } key

/-- Ranges kept anew; a barrier without any takes no room (R156). -/
def setBcbRanges (s : State) (key : Nat) (x : BcbRanges) : State :=
  let k := s.clu (ownerCluster key)
  let t := if x.opened.isEmpty && x.last == some [] then k.bcb.del key else k.bcb.set key x
  s.setClu (ownerCluster key) { k with bcb := t }

/-- Whether a home's store of ranges has room for a barrier (R156). -/
def bcbRoom (s : State) (key : Nat) : Bool :=
  let t := (s.clu (ownerCluster key)).bcb
  t.any (fun e => e.1 == key && (!e.2.opened.isEmpty || e.2.last.getD [] != [])) ||
    t.countP (fun e => sameHome e.1 key && (!e.2.opened.isEmpty || e.2.last.getD [] != [])) < 256

/-- Parked waiters of a barrier are woken with the ranges to acquire over: those on a parity, or all (R158). -/
def wakeBcb (s : State) (key : Nat) (parity : Option Bool) (ranges : Option (List (Nat × Nat))) : State :=
  let one (w : Wait) : Wait := match w.kind with
    | .bcb a p none none => if a = key && (parity == none || parity == some p) then
        { w with kind := .bcb a p none (some ranges) } else w
    | _ => w
  { s with cores := s.cores.map (fun e => (e.1, { e.2 with slots := e.2.slots.map (fun f => (f.1, { f.2 with
      splits := f.2.splits.map (fun g => (g.1, { g.2 with waits := g.2.waits.map one })) })) })) }

/-- A barrier and its ranges after an update, and, where a phase has its count and completes, that phase's ranges (R158). -/
def Bcb.settle (b : Bcb) (x : BcbRanges) : Bcb × BcbRanges × Option (Option (List (Nat × Nat))) :=
  if b.exp ≠ 0 && b.arr ≥ b.exp then
    let done := if b.rcnt ≥ 9 then none else some x.opened
    ({ b with ph := !b.ph, ovr := b.ovr || b.arr > b.exp, arr := 0, exp := b.rld, rcnt := 0 }, { opened := [], last := done }, some done)
  else (b, x, none)

/-- A barrier's new bytes at its home; a phase that has its count completes (R158). -/
def settleBcb (s : State) (key : Nat) (b : Bcb) : State :=
  match b.settle (bcbRanges s key) with
  | (c, x, some done) => wakeBcb (setBcbRanges (putBytes s key (leBytes 16 c.toNat)) key x) key (some b.ph) done
  | (_, _, none) => putBytes s key (leBytes 16 b.toNat)

/-- A sum that saturates at 2^32 − 1. -/
def sat32 (x : Nat) : Nat := min x (2 ^ 32 - 1)

/-- BCB.INIT at the home (R158). -/
def bcbInit (s : State) (key n : Nat) : State :=
  let s := setBcbRanges s key { opened := [], last := some [] }
  let s := wakeBcb s key none none
  settleBcb s key { ph := false, ovr := false, rcnt := 0, rld := n, arr := 0, exp := n }

/-- BCB.EXP at the home (R158). -/
def bcbExpect (s : State) (key n : Nat) : State :=
  let b := readBcb s key
  settleBcb s key { b with exp := sat32 (b.exp + n), ovr := b.ovr || b.exp + n > 2 ^ 32 - 1 }

/-- BCB.ARR at the home (R158). -/
def bcbArrive (s : State) (key n : Nat) : State :=
  let b := readBcb s key
  settleBcb s key { b with arr := sat32 (b.arr + n) }

/-- Bytes and ranges of an engine command counted (R158); without room for its ranges RCNT is 9 (R156). -/
def Bcb.count (b : Bcb) (x : BcbRanges) (n : Nat) (ranges : List (Nat × Nat)) (room : Bool) : Bcb × BcbRanges :=
  let full := !ranges.isEmpty && (b.rcnt + ranges.length > 8 || !room)
  ({ b with arr := sat32 (b.arr + n), rcnt := if full then 9 else b.rcnt + ranges.length },
   { x with opened := if full then [] else x.opened ++ ranges })

/-- An engine command's Count (R74, R158): its bytes and its destination ranges. -/
def bcbCount (s : State) (key n : Nat) (ranges : List (Nat × Nat)) : State :=
  let (b, x) := (readBcb s key).count (bcbRanges s key) n ranges (bcbRoom s key)
  settleBcb (setBcbRanges s key x) key b

/-- BCB.WAIT sent to the home (R159): it returns at once, parks, or is refused by a full waiter table (R67). -/
def sendBcbWait (s : State) (r : SplitRef) (w : Wait) (key : Nat) (parity : Bool) : State :=
  let s := dropSnap s r.core [lineOf key]
  if (readBcb s key).ph != parity then changeWait s r w (.bcb key parity none (some (bcbRanges s key).last))
  else if s.parked.countP (fun p => sameHome p.lane.key key) + bcbParked s key < 1024 then
    changeWait s r w (.bcb key parity none none)
  else changeWait s r w (.bcb key parity (some (s.tick + 64)) none)

/-! Registers of a core and their growth (R117, R141). -/

/-- Strand-registers of a core (R117). -/
def coreRegisters : Nat := 768

/-- The count a strand has once the growths granted to it take effect (R308). -/
def Strand.claimed (st : Strand) : Nat :=
  (st.splits.flatMap (fun e => e.2.waits)).foldl (fun n w => match w.kind with
    | .vgrow m true => max n m
    | _ => n) st.nregs

/-- Those not taken. -/
def freeRegisters (s : State) (c : Nat) : Nat :=
  coreRegisters - ((s.core c).slots.map (fun e => if e.2.state == .resident then e.2.claimed else 0)).sum

/-- The register counts that a split's pending growths ask for, once it waits. -/
def Split.growths (sp : Split) : List Nat :=
  if sp.clause.isSome then [] else sp.waits.filterMap (fun w => match w.kind with | .vgrow n false => some n | _ => none)

/-- The least growth a strand's splits ask for: the one granted next. -/
def Strand.growth (st : Strand) : Option Nat :=
  match st.splits.flatMap (fun e => e.2.growths) with
  | [] => none
  | n :: ns => some (ns.foldl min n)

/-- The sleepers of a core in the order of grants: ascending AGE, then slot (R141). -/
def sleepers (s : State) (c : Nat) : List (Nat × Strand) :=
  ((s.core c).slots.filter (fun e => (e.2.state == .resident || e.2.state == .saved) && e.2.growth.isSome)).mergeSort
    (fun a b => a.2.age < b.2.age || (a.2.age == b.2.age && a.1 ≤ b.1))

/-- A strand's count changed: registers beyond it are gone, so that they read 0 later (R141). -/
def Strand.resize (st : Strand) (n : Nat) : Strand :=
  { st with nregs := n, v := st.v.filter (fun e => e.1 < min n st.nregs) }

/-- The growths of a split that a count meets end (R308). -/
def endGrowth (s : State) (r : SplitRef) (n : Nat) : State :=
  ((s.split r).waits.filter (fun w => match w.kind with | .vgrow m _ => m ≤ n | _ => false)).foldl (fun s w => endWait s r w) s

/-- A strand's growth granted. -/
def grantGrowth (s : State) (c slot n : Nat) : State :=
  let st := s.strandAt c slot
  let s := s.setStrandAt c slot { st.resize (max n st.nregs) with state := .resident }
  (List.range 4).foldl (fun s i => endGrowth s ⟨c, slot, i⟩ n) s

/-- The oldest sleeper's least request, granted where the core's free strand-registers meet it; none passes it (R141). A
saved strand waits for its restore (R142). -/
def grantOldest (s : State) (c : Nat) : Option State :=
  match sleepers s c with
  | [] => none
  | (slot, st) :: _ =>
    st.growth.bind (fun n =>
      if st.state == .resident && (n ≤ st.claimed || n - st.claimed ≤ freeRegisters s c) then some (grantGrowth s c slot n) else none)

/-- Grants one after another. -/
def grantSleepers (c : Nat) : Nat → State → State
  | 0, s => s
  | fuel + 1, s =>
    match grantOldest s c with
    | none => s
    | some t => grantSleepers c fuel t

/-- Every grant a core can make now: four splits of twenty-four strands at most. -/
def settleGrowth (s : State) (c : Nat) : State := grantSleepers c 96 s

/-! What a core sees of its splits' waits. -/

/-- One wait looked at: those that end by themselves end. -/
def pollWait (s : State) (r : SplitRef) (w : Wait) : State :=
  match w.kind with
  | .handle h acq nt =>
    let st := (handleStatus s (s.strand r).ctx h).1
    if st = 6 then s else handleOver s r w h acq nt st
  | .promise h => if ptickReached s h then promiseOver s r w h else s
  | .bcb key parity again woken =>
    match woken, again with
    | some ranges, _ => endWait (countedAcquire (dropSnap s r.core [lineOf key]) r.core ranges) r w
    | none, some t => if s.tick < t then s else sendBcbWait s r w key parity
    | none, none => s
  | .sluIn _ left abn _ d =>
    if left != 0 then s
    else
      let s := acquire s r.core .dev
      endWait (s.setStrand r ((s.strand r).put r.split d w.lanes
        ((List.range 96).map (fun l => if abn.getLsbD l then 1 else 0)))) r w
  | .vgrow n sure => if sure then grantGrowth s r.core r.slot n else settleGrowth s r.core
  | .sluOut left => if left = 0 then endWait s r w else s
  | .barDone acq d x =>
    let s := match acq with
      | some sc => acquire s r.core sc
      | none => s
    endWait (match d with | some d => putAfter s r w d x | none => s) r w
  | _ => s

/-- Every wait that holds a split is looked at. -/
def pollWaits (s : State) (r : SplitRef) : State := (s.split r).blocking.foldl (fun s w => pollWait s r w) s

/-- PROMISE_TIMEOUT (R162): the promised tick of an HPROM sleeper passes. The step's operands: the split and the place
of the wait in its list. -/
def execPromiseTimeout (s : State) : Host.Outcome State Fault Refusal :=
  let r := s.pick.ref
  match ((s.split r).waits)[s.pick.a]? with
  | none => .next s
  | some w =>
    match w.kind with
    | .promise h => if ptickReached s h && !metPromise s (s.strand r).ctx h then .next (promiseOver s r w h) else .next s
    | _ => .next s

/-! The instructions on handles (R446-R450). -/

/-- The value of a handle register. -/
def View.handle (v : View) (o : Operand) : DWord :=
  match o with
  | .h n => v.st.h.get 0 n.toNat
  | _ => 0

/-- A handle register written. -/
def putHandle (s : State) (r : SplitRef) (o : Operand) (x : DWord) : State :=
  match o with
  | .h n => s.setStrand r { s.strand r with h := (s.strand r).h.set n.toNat x }
  | _ => s

/-- HWAIT (R446). -/
def execHwait (c : Ctl) (acq : Bool) (nt : Option Operand) (a : Operand) (s : State) :=
  run (.hwait c acq nt a) c s fun v s =>
    .done (if v.eff = 0 then s else beginWait s v (.handle (v.handle a) acq nt))

/-- HTEST (R447). -/
def execHtest (c : Ctl) (d a : Operand) (s : State) :=
  run (.htest c d a) c s fun v s =>
    .done (if v.eff = 0 then s
      else putAll s v.r d v.eff (BitVec.ofNat 32 (handleStatus s v.st.ctx (v.handle a)).1))

/-- Every command of a cluster that carries a handle is asked to cancel (R162). -/
def cancelHandle (s : State) (ctx : Nat) (h : DWord) : State :=
  if (handleStatus s ctx h).1 = 6 then
    { s with cores := s.cores.map (fun e =>
      if coreCluster e.1 = handleClu h then
        (e.1, { e.2 with eng := e.2.eng.map (fun q => if q.handle = some h then { q with cancel := true } else q) })
      else e) }
  else s

/-- HCANCEL (R448). -/
def execHcancel (c : Ctl) (a : Operand) (s : State) :=
  run (.hcancel c a) c s fun v s => .done (if v.eff = 0 then s else cancelHandle s v.st.ctx (v.handle a))

/-- HMOV (R449). -/
def execHmov (c : Ctl) (toH : Bool) (d a : Operand) (s : State) :=
  run (.hmov c toH d a) c s fun v s =>
    .done (if v.eff = 0 then s
      else if toH then putHandle s v.r d (v.rd64 a 0)
      else putLanes64 s v.r d v.eff (List.replicate 96 (v.handle a)))

/-- HPROM (R450): a promised tick already past is checked at once. -/
def execHprom (c : Ctl) (a : Operand) (s : State) :=
  run (.hprom c a) c s fun v s =>
    let h := v.handle a
    let st := (handleStatus s v.st.ctx h).1
    if v.eff = 0 then .done s
    else if !ptickReached s h then .done (beginWait s v (.promise h))
    else if !metPromise s v.st.ctx h then .trap { code := trapPromiseMissed, lanes := v.eff, info := h } s
    else if st != 0 then .trap { code := trapHandleErr, lanes := v.eff, info := h } s
    else .done s

/-! The byte-count barrier instructions (R451). -/

/-- The barrier an instruction names, its line drained, once its checks pass (R156, R157). -/
def withBcb (v : View) (s : State) (sg : SegIx) (writes : Bool) (a : Operand) (k : State → Nat → Res) : Res :=
  if v.eff = 0 then .done s
  else withAccess v s (v.check sg { n := 16, writes := writes, needR := !writes, spaces := spacesSram, align := 16 }
      [((lowLane v.eff).getD 0, v.offset false a (.imm 0) 0)]) fun ps =>
    match ps with
    | [] => .done s
    | p :: _ => drainThen v s [lineOf p.key] 16 fun s => k s p.key

/-- The reply of a barrier operation takes its line from the snapshot (R157). -/
def bcbReply (v : View) (s : State) (key : Nat) : State := dropSnap s v.r.core [lineOf key]

/-- A barrier operation at its home, whose acknowledgement the strand waits for under stall reason 14 (R158). -/
def ackThen (v : View) (s : State) (key : Nat) (act : State → State) : Res :=
  let p := s.prog v.r
  if p.stage = 0 then .stay 14 ((act s).setProg v.r { p with stage := 1 }) else .done (bcbReply v s key)

/-- BCB.INIT (R158). -/
def execBcbInit (c : Ctl) (sg : SegIx) (a b : Operand) (s : State) :=
  run (.bcbInit c sg a b) c s fun v s => withBcb v s sg true a fun s key =>
    ackThen v s key fun s => bcbInit s key (v.rd b 0).toNat

/-- BCB.EXP (R158). -/
def execBcbExp (c : Ctl) (sg : SegIx) (a b : Operand) (s : State) :=
  run (.bcbExp c sg a b) c s fun v s => withBcb v s sg true a fun s key =>
    ackThen v s key fun s => bcbExpect s key (v.rd b 0).toNat

/-- BCB.ARR (R158): a release at .dev first. -/
def execBcbArr (c : Ctl) (sg : SegIx) (a b : Operand) (s : State) :=
  run (.bcbArr c sg a b) c s fun v s => withBcb v s sg true a fun s key =>
    releaseThen v s .dev 16 fun s => .done (bcbReply v (bcbArrive s key (v.rd b 0).toNat) key)

/-- BCB.WAIT (R159): its request goes out when it issues, and it waits after its clause. -/
def execBcbWait (c : Ctl) (sg : SegIx) (a b : Operand) (s : State) :=
  run (.bcbWait c sg a b) c s fun v s => withBcb v s sg false a fun s key =>
    let parity := (v.rd b 0).getLsbD 0
    let s := beginWait s v (.bcb key parity (some s.tick) none)
    match (s.split v.r).waits.getLast? with
    | some w => .done (sendBcbWait s v.r w key parity)
    | none => .done s

/-- BCB.TEST (R159). -/
def execBcbTest (c : Ctl) (sg : SegIx) (d a b : Operand) (s : State) :=
  run (.bcbTest c sg d a b) c s fun v s => withBcb v s sg false a fun s key =>
    let s := bcbReply v s key
    let ended := (readBcb s key).ph != (v.rd b 0).getLsbD 0
    let s := if ended then countedAcquire s v.r.core (bcbRanges s key).last else s
    .done (putAll s v.r d v.eff (if ended then 1 else 0))

end Sys2Proof.Machine
end

