-- ==== Sys2Proof/Machine/Sched.lean ====
section
/-! DEFINITION. Clause fetch through the instruction cache (R260, R277), the clause checks (R262, R263, R276), and the
scheduler's choice (R139, R140). -/
namespace Sys2Proof.Machine

/-! Clause words. -/

/-- Fields of a header (R261). -/
def headMark (w : BitVec 64) : Bool := w.extractLsb' 60 4 == 0xF
def headClass (w : BitVec 64) : Nat := (w.extractLsb' 57 3).toNat
def headCount (w : BitVec 64) : Nat := (w.extractLsb' 52 5).toNat
def headWait (w : BitVec 64) : BitVec 8 := w.extractLsb' 44 8
def headDrain (w : BitVec 64) : Bool := w.getLsbD 43
def headPub (w : BitVec 64) : BitVec 8 := w.extractLsb' 35 8
def headYield (w : BitVec 64) : Bool := w.getLsbD 34

/-- Whether a header is legal in itself (R263). -/
def headOk (w : BitVec 64) : Bool :=
  headMark w && headClass w ≤ 5 && 1 ≤ headCount w && headCount w ≤ 24 && w.extractLsb' 0 34 == 0

/-- The opcode of a word. -/
def wordOpc (w : BitVec 64) : Nat := (w.extractLsb' 56 8).toNat

/-- The opcodes of a class (R262). -/
def classHas (cls opc : Nat) : Bool :=
  match cls with
  | 0 => opc ≤ 0x2B || (0x30 ≤ opc && opc ≤ 0x4D) || (0x60 ≤ opc && opc ≤ 0x69)
  | 1 => 0x70 ≤ opc && opc ≤ 0x7E
  | 2 => 0xA0 ≤ opc && opc ≤ 0xAD
  | 3 => 0x90 ≤ opc && opc ≤ 0x9A
  | 4 => 0xC0 ≤ opc && opc ≤ 0xDC
  | _ => 0xB0 ≤ opc && opc ≤ 0xBC

/-- The address set (R262). -/
def addressSet (opc : Nat) : Bool := [0x1F, 0x20, 0x00, 0x21, 0x27, 0x28, 0x1D, 0x26, 0x1E].contains opc

/-- The transfers (R262). -/
def isTransfer (opc : Nat) : Bool := (0xC0 ≤ opc && opc ≤ 0xC5) || opc == 0xC7 || opc == 0xC8

/-- Whether a word names a long-latency instruction (R271); TAG only with TOP = .rd. -/
def wordLong (w : BitVec 64) : Bool :=
  let o := wordOpc w
  (0x3D ≤ o && o ≤ 0x44) || (0x64 ≤ o && o ≤ 0x69) || [0x70, 0x72, 0x74, 0x75].contains o ||
    (o == 0x78 && w.extractLsb' 36 2 == 0) || (0x7B ≤ o && o ≤ 0x7E) || (0xB0 ≤ o && o ≤ 0xB4) ||
    [0xBB, 0xAA, 0xD9].contains o

/-- Whether an opcode lies in a reserved cell of R272: its word belongs to no class, and traps ILLEGAL_OP when it issues
(R275). -/
def opcReserved (opc : Nat) : Bool := (List.range 6).all (fun cls => !classHas cls opc)

/-- Whether the word at a place passes R263. -/
def placeOk (h w : BitVec 64) (last : Bool) : Bool :=
  let o := wordOpc w
  !headMark w && w.getLsbD 51 == last && (opcReserved o || isTransfer o || classHas (headClass h) o || addressSet o) &&
    (last || !isTransfer o) && (!wordLong w || (headPub h).getLsbD (w.extractLsb' 44 3).toNat)

/-- The first offending place of a clause with a legal header (R276). -/
def badPlace (h : BitVec 64) (ws : List (BitVec 64)) : Option Nat :=
  (ws.zipIdx.find? (fun e => !placeOk h e.1 (e.2 + 1 == ws.length))).map (·.2)

/-! Fetching. -/

/-- What a fetch gives: words, a trap at the header, or a wait. -/
inductive Fetched
  | words (h : BitVec 64) (ws : List (BitVec 64))
  | trap (code : Nat) (pos : Nat) (addr : Nat)
  | wait (why : Nat)
  deriving DecidableEq, Repr

/-- One code word through the instruction cache (R260, R277), or why there is none. -/
def fetchWord (s : State) (c x va : Nat) : State × (BitVec 64 ⊕ Fetched) :=
  if va ≥ 2 ^ 48 then (s, .inr (.trap trapXlate 0 va))
  else match pageView s c x va with
    | .fault => (dropFaults s c x [va / 2 ^ 16], .inr (.trap trapXlate 0 va))
    | .unknown => (askPages s c x [va / 2 ^ 16], .inr (.wait 15))
    | .leaf e =>
      let key := leafKey e va
      if !leafX e || leafTgt e != 0 then (s, .inr (.trap trapPerm 0 va))
      else
        let pick (d : BitVec 512) : BitVec 64 := d.extractLsb' (8 * (key % 64)) 64
        match (s.core c).icache.find (lineOf key) with
        | some d => (s, .inl (pick d))
        | none =>
          match readHomeLine s c (lineOf key) (leafVia e x) with
          | (s, d, none) =>
            let k := s.core c
            (s.setCore c { k with icache := k.icache.set (lineOf key) d }, .inl (pick d))
          | (s, _, some .held) => (s, .inr (.wait 25))
          | (s, _, some f) => (s, .inr (.trap f.code 0 va))

/-- Words from an address on. -/
def fetchWords (s : State) (c x va : Nat) : Nat → State × (List (BitVec 64) ⊕ Fetched)
  | 0 => (s, .inl [])
  | n + 1 =>
    match fetchWord s c x va with
    | (s, .inr f) => (s, .inr f)
    | (s, .inl w) =>
      match fetchWords s c x (va + 8) n with
      | (s, .inr f) => (s, .inr f)
      | (s, .inl ws) => (s, .inl (w :: ws))

/-- The clause at an address, whole and checked (R260, R263, R276). -/
def fetchClause (s : State) (c x : Nat) (pc : BitVec 48) : State × Fetched :=
  if pc.toNat % 8 != 0 then (s, .trap trapIllegalClause 0 pc.toNat)
  else match fetchWord s c x pc.toNat with
    | (s, .inr f) => (s, f)
    | (s, .inl h) =>
      if !headOk h then (s, .trap trapIllegalClause 0 0)
      else match fetchWords s c x (pc.toNat + 8) (headCount h) with
        | (s, .inr f) => (s, f)
        | (s, .inl ws) =>
          match badPlace h ws with
          | some i => (s, .trap trapIllegalClause i 0)
          | none => (s, .words h ws)

/-! The choice (R139). -/

/-- The stall reason of a header that may not issue yet (R140): 1 for slots, 3 for DRAIN. -/
def headerHeld (st : Strand) (h : BitVec 64) : Option Nat :=
  if st.results.any (fun p => (headWait h).getLsbD p.slot.toNat) then some 1
  else if headDrain h && !st.results.isEmpty then some 3 else none

/-- Where a split stands for its scheduler. -/
inductive Stand
  /-- It is not at a boundary where it could issue. -/
  | out
  /-- Its clause may issue. -/
  | ready (h : BitVec 64) (ws : List (BitVec 64))
  deriving DecidableEq, Repr

/-- Whether a split goes on inside a clause whose waits it has begun. -/
def Split.midClause (sp : Split) : Bool := !sp.entry.waits && (sp.entry.pos != 0 || sp.entry.alone.isSome)

/-- Whether a split stands at a place where its scheduler looks at it: one that waits, only for a trap. -/
def Split.atHeader (sp : Split) : Bool :=
  sp.clause.isNone && (sp.state == .ready || sp.state == .handler || sp.state == .waiting) &&
    (sp.midClause || sp.blocking.isEmpty || !sp.takeable.isEmpty)

/-- The resume point of a late trap taken at a header (R101, R545). -/
def resumePlace (sp : Split) : Nat := if sp.entry.waits then 31 else sp.entry.pos

/-- A trap that waited is taken at a clause boundary (R99, R545). -/
def boundaryTrap (s : State) (r : SplitRef) (w : WaitingTrap) : State :=
  let sp := s.split r
  let s := s.setSplit r { sp with traps := sp.traps.erase w }
  match w.site with
  | some (pc0, pos0) => takeTrap s r w.trap pc0 pos0 (some (sp.pc, resumePlace sp))
  | none => takeTrap s r w.trap sp.pc sp.entry.pos none

/-- A split waits at a header for a reason. -/
def holdHeader (s : State) (r : SplitRef) (why : Nat) : State :=
  let sp := s.split r
  s.setSplit r { sp with
    state := if sp.state == .ready && (why == 1 || why == 3) then .waiting else sp.state
    stall := why, since := if sp.stall = why then sp.since else s.runTick }

/-- Whether another split of a strand is in handler mode (R97). -/
def otherHandles (s : State) (r : SplitRef) : Bool := (s.strand r).splits.any (fun e => e.1 != r.split && e.2.hm)

/-- A scheduler looks at one split: its waits, its traps, its clause. Of several reasons to wait the lowest is recorded
(R523). -/
def lookAt (s : State) (r : SplitRef) : State × Stand :=
  let k := s.clu (coreCluster r.core)
  let x := (s.strand r).ctx
  if (s.strand r).state != .resident || k.tenant != some x || k.leaving == some x then (s, .out)
  else
    let s := if (s.split r).midClause then s else pollWaits s r
    let st := s.strand r
    let sp := st.split r.split
    if !sp.atHeader || (sp.stall = 20 && s.runTick < sp.since + 8) then (s, .out)
    else match lowestTrap sp.takeable with
      | some w =>
        if otherHandles s r then (holdHeader s r 26, .out)
        else if (s.ctx x).state == .faulted then (holdHeader s r 27, .out) else (boundaryTrap s r w, .out)
      | none =>
        match fetchClause s r.core x sp.pc with
        | (s, .wait why) => (holdHeader s r why, .out)
        | (s, .trap code pos addr) =>
          if otherHandles s r then (holdHeader s r 26, .out)
          else (takeTrap s r { code := code, lanes := sp.mask, addr := addr } sp.pc pos none, .out)
        | (s, .words h ws) =>
          match (if sp.entry.waits then headerHeld st h else none) with
          | some why => (holdHeader s r why, .out)
          | none =>
            if otherHandles s r then (holdHeader s r 26, .out)
            else (s.setSplit r { sp with state := if sp.hm then .handler else .ready }, .ready h ws)

/-- The splits of a scheduler that may issue. -/
def eligible (s : State) : List SplitRef → State × List (SplitRef × BitVec 64 × List (BitVec 64))
  | [] => (s, [])
  | r :: rs =>
    match lookAt s r with
    | (s, .out) => eligible s rs
    | (s, .ready h ws) =>
      let (s, es) := eligible s rs
      (s, (r, h, ws) :: es)

/-- Every split reference of a scheduler's six slots, by slot and then index. -/
def schedSplits (core sched : Nat) : List SplitRef :=
  (List.range 6).flatMap (fun i => (List.range 4).map (fun j => ⟨core, 6 * sched + i, j⟩))

/-- The oldest of some splits: lowest AGE, then the earlier in the list (R139). -/
def oldest (s : State) (es : List (SplitRef × BitVec 64 × List (BitVec 64))) :
    Option (SplitRef × BitVec 64 × List (BitVec 64)) :=
  es.foldl (fun acc e => match acc with
    | none => some e
    | some b => if (s.strand e.1).age < (s.strand b.1).age then some e else some b) none

/-- The scheduler's choice (R139). -/
def choose (s : State) (k : Sched) (es : List (SplitRef × BitVec 64 × List (BitVec 64))) :
    Option (SplitRef × BitVec 64 × List (BitVec 64)) :=
  match k.last with
  | none => oldest s es
  | some (slot, i) =>
    match es.find? (fun e => e.1.slot == slot && e.1.split == i) with
    | some e => if !k.gave && (k.run < 64 || es.length == 1) then some e else oldest s es
    | none => oldest s es

/-- The temporaries and the place a clause begins with; a place beyond the clause goes on at the next header, or where
a lone replay goes on (R299, R545). -/
def startClause (s : State) (r : SplitRef) (h : BitVec 64) (ws : List (BitVec 64)) : State :=
  let st := s.strand r
  let sp := st.split r.split
  let cl : Clause := { h := sp.pc, words := ws, pos := sp.entry.pos, yields := headYield h, alone := sp.entry.alone }
  let st := st.setSplit r.split { sp with
    clause := some cl, temps := if sp.entry.keep then sp.temps else [], tickHi := none, prog := {}, entry := {}, stall := 0
    since := s.runTick, state := if sp.hm then .handler else .ready }
  let s := s.setStrand r { st with lastIssue := s.runTick }
  if cl.pos < ws.length then s
  else match cl.alone with
    | some (rpc, rpos) => resumeAt s r rpc rpos
    | none => endClause s r (nextHeader cl.h ws.length)

/-- CLAUSE_ISSUE (R139): a scheduler whose clause has ended looks at its splits and chooses one. The step's operands:
the core and the scheduler. -/
def execClauseIssue (s : State) : Host.Outcome State Fault Refusal :=
  let c := s.pick.a
  let q := s.pick.b % 4
  let k := (s.core c).sched.get {} q
  match k.busy with
  | some _ => .next s
  | none =>
    let (s, es) := eligible s (schedSplits c q)
    let es := es.filter (fun e => !otherHandles s e.1)
    match choose s k es with
    | none => .next s
    | some (r, h, ws) =>
      let same := k.last == some (r.slot, r.split)
      let others := es.length > 1
      let run := if others then (if same then k.run + 1 else 1) else 0
      let s := es.foldl (fun s e => if e.1 = r then s else holdHeader s e.1 21) s
      let x := s.core c
      let k' : Sched := { last := some (r.slot, r.split), run := run, gave := headYield h, busy := some (r.slot, r.split) }
      let s := s.setCore c { x with sched := x.sched.set q k' }
      .next (startClause s r h ws)

/-- SLEEP_WAKE (R295): the global tick reaches a sleeping split's wake tick. The step's operands: the split and the place
of the wait in its list. -/
def execSleepWake (s : State) : Host.Outcome State Fault Refusal :=
  let r := s.pick.ref
  match ((s.split r).waits)[s.pick.a]? with
  | none => .next s
  | some w =>
    match w.kind with
    | .sleep t => if s.tick < t then .next s else .next (endWait s r w)
    | _ => .next s

end Sys2Proof.Machine
end

