-- ==== Sys2Proof/Machine/Sect.lean ====
section
/-! DEFINITION. Keyed ordered sections: key entries and their spill area, requests, leaves, chain walks, starvation, and
the instructions (12 R210-R224, 16 R305-R307). -/
namespace Sys2Proof.Machine

/-! Keys and their entries. -/

/-- The home sluice of a key (R210). -/
def keyHome (key : DWord) : Nat :=
  let h := (key.extractLsb' 32 32 ^^^ key.extractLsb' 0 32).toNat
  (List.range 11).foldl (fun acc i => acc ^^^ (h / 2 ^ (3 * i) % 8)) 0

/-- The place of a context's entry of a key. -/
def findKey (x : Cluster) (ctx : Nat) (key : DWord) : Option Nat :=
  x.keys.findIdx? (fun e => e.ctx == ctx && e.key == key && !e.ras)

/-- The waiter records in use: SLU waiters and raster claims (R212, R226). -/
def waiterCount (x : Cluster) : Nat := x.waiters.length + (x.keys.map (fun e => e.claims.length)).sum

/-- Whether an entry has waiters. -/
def hasWaiters (x : Cluster) (e : KeyEntry) : Bool := x.waiters.any (fun w => w.ctx == e.ctx && w.key == e.key) && !e.ras

/-! The spill area (R218, R219). -/

/-- The number of records of a context's spill area; 0 without one. -/
def spillCount (s : State) (ctx : Nat) : Nat :=
  let n := ctxSpillSz s ctx
  if n = 0 then 0 else 2 ^ n

/-- A record of a spill area: its DRAM key and translation, its virtual address, and whether its page is dump-protected. -/
structure SpillAt where
  key : Nat
  via : Via
  va  : Nat
  dp  : Bool
  deriving DecidableEq, Repr

/-- The record of an index of a context's spill area, where its page is mapped to DRAM and may be read and written. -/
def spillAt (s : State) (ctx ix : Nat) : State × Except HomeFail SpillAt :=
  let va := ctxSpillBase s ctx + 16 * ix
  match walkRead s ctx va with
  | (s, .held) => (s, .error .held)
  | (s, .fault) => (s, .error .fault)
  | (s, .leaf e _) =>
    if leafTgt e = 0 && leafR e && leafW e then
      (s, .ok { key := dramKey (leafPa e va), via := leafVia e ctx, va := va, dp := leafDp e })
    else (s, .error .fault)

/-- A record of a spill area with its bits, read at its home by the service core's agent (R219). -/
def spillRead (s : State) (ctx ix : Nat) : State × Except HomeFail (SpillAt × Nat) :=
  match spillAt s ctx ix with
  | (s, .error f) => (s, .error f)
  | (s, .ok p) =>
    match keyFail s p.key p.via false with
    | some f => (s, .error f)
    | none =>
      match granRead s (granOf p.key) p.via.grade with
      | (s, _, .uc) => (s, .error .uc)
      | (s, bs, _) => (s, .ok (p, leNat ((bs.drop (p.key % 32)).take 16)))

/-- A record written at its home; a dump-protected page holds it (R180). -/
def spillWrite (s : State) (p : SpillAt) (x : Nat) : State × Option HomeFail :=
  if p.dp then (dumpStall s p.via.ctx p.va, some .held)
  else match keyFail s p.key p.via false with
    | some f => (s, some f)
    | none =>
      let o := p.key % 32
      match granWrite s (granOf p.key) p.via.grade ((2 ^ 16 - 1) * 2 ^ o) (List.replicate o 0 ++ leBytes 16 x ++ List.replicate (16 - o) 0) with
      | (s, .uc) => (s, some .uc)
      | (s, _) => (dropCachedAll s (lineOf p.key), none)

/-- The bits of a record in use (R219). -/
def spillBits (key : DWord) (next : Word) (abn : Bool) : Nat :=
  key.toNat * 2 ^ 64 + next.toNat * 2 ^ 32 + (if abn then 4 else 0) + 1

/-- What a search of a probe sequence comes to. -/
inductive Sought
  | found (p : SpillAt) (x : Nat)
  | absent
  | held
  deriving DecidableEq, Repr

/-- The first record of a key's probe sequence that meets a test; `stop` ends the search. A record that cannot be read
counts as another key's (log 131). -/
def spillSeek (ctx : Nat) (key : DWord) (hit stop : Nat → Bool) : Nat → Nat → State → State × Sought
  | 0, _, s => (s, .absent)
  | fuel + 1, k, s =>
    match spillRead s ctx (((key.extractLsb' 0 32 ^^^ key.extractLsb' 32 32).toNat + k) % spillCount s ctx) with
    | (s, .error .held) => (s, .held)
    | (s, .error _) => spillSeek ctx key hit stop fuel (k + 1) s
    | (s, .ok (p, x)) =>
      if hit x then (s, .found p x) else if stop x then (s, .absent) else spillSeek ctx key hit stop fuel (k + 1) s

/-- The record of a key in its context's spill area, if it is there (R219). -/
def spillFind (s : State) (ctx : Nat) (key : DWord) : State × Sought :=
  if spillCount s ctx = 0 then (s, .absent)
  else spillSeek ctx key (fun x => x.testBit 0 && x / 2 ^ 64 == key.toNat) (fun x => !x.testBit 0 && !x.testBit 1) 16 0 s

/-- The first free record of a key's probe sequence (R219). -/
def spillRoom (s : State) (ctx : Nat) (key : DWord) : State × Sought :=
  if spillCount s ctx = 0 then (s, .absent) else spillSeek ctx key (fun x => !x.testBit 0) (fun _ => false) 16 0 s

/-- Idle entries in the order of their last grants. -/
def idleEntries (x : Cluster) : List KeyEntry :=
  ((x.keys.filter (fun e => !e.ras && e.held.isNone && !hasWaiters x e)).mergeSort (fun a b => a.used ≤ b.used))

/-- Why a sluice makes no entry now: none can be freed, or a move of the spill area is held. -/
inductive NoEntry
  | full | held
  deriving DecidableEq, Repr

/-- The least recently granted Idle entry that its context's spill area takes is spilled (R218). -/
def spillOne (s : State) (k : Nat) : List KeyEntry → State × Option NoEntry
  | [] => (s, some .full)
  | e :: es =>
    match spillRoom s e.ctx e.key with
    | (s, .held) => (s, some .held)
    | (s, .absent) => spillOne s k es
    | (s, .found p _) =>
      match spillWrite s p (spillBits e.key e.next e.abn) with
      | (s, some .held) => (s, some .held)
      | (s, some _) => spillOne s k es
      | (s, none) =>
        let x := s.clu k
        (s.setClu k { x with keys := x.keys.filter (fun f => f != e) }, none)

/-- Room for some entries more in a sluice, or why there is none (R218). -/
def makeRoom (s : State) (k n : Nat) : Nat → State × Option NoEntry
  | 0 => (s, if (s.clu k).keys.length + n ≤ 8192 then none else some .full)
  | fuel + 1 =>
    if (s.clu k).keys.length + n ≤ 8192 then (s, none)
    else match spillOne s k (idleEntries (s.clu k)) with
      | (s, none) => makeRoom s k n fuel
      | r => r

/-- An entry appended to a sluice, at its place. -/
def addEntry (s : State) (k : Nat) (e : KeyEntry) : State × Nat :=
  let x := s.clu k
  (s.setClu k { x with keys := x.keys ++ [e] }, x.keys.length)

/-- The entry of a key, made if it is absent (R213): its place, or why none is made. -/
def needEntry (s : State) (k ctx : Nat) (key : DWord) : State × Except NoEntry Nat :=
  match findKey (s.clu k) ctx key with
  | some i => (s, .ok i)
  | none =>
    match spillFind s ctx key with
    | (s, .held) => (s, .error .held)
    | (s, old) =>
      match makeRoom s k 1 1 with
      | (s, some f) => (s, .error f)
      | (s, none) =>
        match old with
        | .found p x =>
          match spillWrite s p (x - x % 8 + (if x.testBit 2 then 4 else 0) + 2) with
          | (s, some .held) => (s, .error .held)
          | (s, _) =>
            let (s, i) := addEntry s k { ctx := ctx, key := key, abn := x.testBit 2, next := BitVec.ofNat 32 (x / 2 ^ 32) }
            (s, .ok i)
        | _ =>
          let (s, i) := addEntry s k { ctx := ctx, key := key }
          (s, .ok i)

/-! Strands by name (R211). -/

/-- Where a strand is kept: in a slot, or among its core's saved ones. -/
inductive Kept
  | slot (i : Nat) | saved (i : Nat)
  deriving DecidableEq, Repr

/-- Whether a strand is the one of a context and number. -/
def Strand.named (st : Strand) (ctx : Nat) (number : BitVec 16) : Bool :=
  (st.state == .resident || st.state == .saved) && st.ctx == ctx && st.number == number

/-- The strand of a core, context and number. -/
def findStrand (s : State) (core ctx : Nat) (number : BitVec 16) : Option Kept :=
  match (s.core core).slots.find? (fun e => e.2.named ctx number) with
  | some e => some (.slot e.1)
  | none => ((s.core core).away.findIdx? (fun st => st.named ctx number)).map .saved

/-- The strand kept at a place. -/
def keptStrand (s : State) (core : Nat) (p : Kept) : Strand :=
  match p with
  | .slot i => s.strandAt core i
  | .saved i => ((s.core core).away[i]?).getD {}

/-- Replace it. -/
def setKept (s : State) (core : Nat) (p : Kept) (st : Strand) : State :=
  match p with
  | .slot i => s.setStrandAt core i st
  | .saved i =>
    let k := s.core core
    s.setCore core { k with away := setAt k.away i st }

/-- The strand an owner names. -/
def ownerStrand (s : State) (ctx : Nat) (o : Owner) : Option (Kept × Strand) :=
  (findStrand s o.core ctx o.number).map (fun p => (p, keptStrand s o.core p))

/-- Whether an owner's strand is Resident (R222). -/
def ownerResident (s : State) (ctx : Nat) (o : Owner) : Bool :=
  match ownerStrand s ctx o with
  | some (_, st) => st.state == .resident
  | none => false

/-! Starvation counts (R222). -/

/-- Whether a waiter's count runs. -/
def waiterCounts (s : State) (x : Cluster) (w : Waiter) : Bool :=
  ownerResident s w.ctx w.owner &&
    (match x.keys.find? (fun e => e.ctx == w.ctx && e.key == w.key && !e.ras) with
    | some e => (match e.held with | some o => ownerResident s w.ctx o | none => true)
    | none => true)

/-- A waiter's count brought up to date. -/
def syncWaiter (now : Nat) (runs : Bool) (w : Waiter) : Waiter :=
  match w.mark, runs with
  | none, true => { w with mark := some now }
  | some t, false => { w with count := w.count + (now - t), mark := none }
  | _, _ => w

/-- Every count brought up to date; made whenever a holder or a strand's residence changes. A refused request counts as
the record it asked for would (R220). -/
def syncWaiters (s : State) : State :=
  let one (x : Cluster) (w : Waiter) : Waiter := syncWaiter s.runTick (waiterCounts s x w) w
  { s with clusters := s.clusters.map (fun e => (e.1, { e.2 with
      waiters := e.2.waiters.map (one e.2)
      sectReqs := e.2.sectReqs.map (fun q => if q.refused then { q with w := one e.2 q.w } else q) })) }

/-- A waiter's ticks so far. -/
def waiterTicks (s : State) (w : Waiter) : Nat :=
  w.count + (match w.mark with | some t => s.runTick - t | none => 0)

/-! Grants. -/

/-- Whether a wait is the one of an SLU.IN. -/
def Wait.asks (w : Wait) (ask : Nat) : Bool :=
  match w.kind with
  | .sluIn a .. => a == ask
  | _ => false

/-- A lane's grant noted in its wait. -/
def Wait.granted (w : Wait) (lane : Nat) (abn : Bool) : Wait :=
  match w.kind with
  | .sluIn ask left ab keys d =>
    let b := 1#96 <<< lane
    { w with kind := .sluIn ask (left &&& ~~~b) (if abn then ab ||| b else ab) keys d }
  | _ => w

/-- The grant of a lane reaches its strand, saved or not (R95, R214). -/
def replyGrant (s : State) (w : Waiter) (abn : Bool) : State :=
  match ownerStrand s w.ctx w.owner with
  | none => s
  | some (p, st) =>
    setKept s w.owner.core p { st with splits := st.splits.map (fun e =>
      (e.1, { e.2 with waits := e.2.waits.map (fun x => if x.asks w.ask then x.granted w.owner.lane abn else x) })) }

/-- Whether a split waits in the SLU.TRY of a number. -/
def Split.tries (sp : Split) (ask : Nat) : Bool := sp.prog.stage == 1 && sp.prog.ask == ask

/-- The reply of SLU.TRY to a lane: whether it was granted, and its flag (R216). -/
def replyTry (s : State) (w : Waiter) (won abn : Bool) : State :=
  match ownerStrand s w.ctx w.owner with
  | none => s
  | some (p, st) =>
    let b := 1#96 <<< w.owner.lane
    setKept s w.owner.core p { st with splits := st.splits.map (fun e =>
      if e.2.tries w.ask then
        (e.1, { e.2 with prog := { e.2.prog with
          lanes := e.2.prog.lanes ||| b, won := if won then e.2.prog.won ||| b else e.2.prog.won
          nums := if abn then e.2.prog.nums ++ [w.owner.lane] else e.2.prog.nums } })
      else e) }

/-- An entry is held by a lane; the flag passes to it (R214). -/
def holdEntry (s : State) (k i : Nat) (e : KeyEntry) (o : Owner) : State :=
  let (s, n) := s.fresh
  let x := s.clu k
  s.setClu k { x with keys := setAt x.keys i { e with held := some o, abn := false, used := n } }

/-- The waiter whose sequence number has come is granted (R213, R214). -/
def grantNext (s : State) (k i : Nat) : State :=
  let x := s.clu k
  match x.keys[i]? with
  | none => s
  | some e =>
    if e.held.isSome || e.ras then s
    else match x.waiters.findIdx? (fun w => w.ctx == e.ctx && w.key == e.key && w.seq == e.next) with
      | none => s
      | some j =>
        match x.waiters[j]? with
        | none => s
        | some w =>
          let s := s.setClu k { x with waiters := dropAt x.waiters j }
          replyGrant (holdEntry s k i e w.owner) w e.abn

/-! A failing SLU.IN (R223). -/

/-- Requests, waiter records and walks of an instruction withdrawn. -/
def withdrawAsk (s : State) (ask : Nat) : State :=
  { s with clusters := s.clusters.map (fun e => (e.1, { e.2 with
      waiters := e.2.waiters.filter (fun w => w.ask != ask)
      sectReqs := e.2.sectReqs.filter (fun q => q.w.ask != ask)
      chains := e.2.chains.filter (fun h => h.ask != ask) })) }

/-- A lane's grant taken back: HELD falls, NEXT stays, the flag returns (R223). -/
def ungrant (s : State) (ctx core : Nat) (number : BitVec 16) (lane : Nat) (key : DWord) (abn : Bool) : State :=
  let k := keyHome key
  let x := s.clu k
  match findKey x ctx key with
  | none => s
  | some i =>
    match x.keys[i]? with
    | none => s
    | some e =>
      if e.held = some ⟨core, number, lane⟩ then
        grantNext (s.setClu k { x with keys := setAt x.keys i { e with held := none, abn := abn } }) k i
      else s

/-- A failing instruction: its waits are withdrawn, and every lane granted leaves its section (R223). -/
def undoEntry (s : State) (ctx core : Nat) (number : BitVec 16) (ask : Nat) (granted abn : LaneMask)
    (keys : List (Nat × DWord)) : State :=
  keys.foldl (fun s e =>
    if granted.getLsbD e.1 then ungrant s ctx core number e.1 e.2 (abn.getLsbD e.1) else s) (withdrawAsk s ask)

/-- The instruction that a request or a record is of traps (R223): SLU.IN after its clause, where its own watchdog falls
(R222), SLU.TRY in place. -/
def failEntry (s : State) (w : Waiter) (t : TrapRec) : State :=
  match ownerStrand s w.ctx w.owner with
  | none => s
  | some (p, st) =>
    match st.splits.find? (fun e => e.2.waits.any (fun x => x.asks w.ask) || e.2.tries w.ask) with
    | none => s
    | some (i, sp) =>
      match sp.waits.find? (fun x => x.asks w.ask) with
      | none => setKept s w.owner.core p (st.setSplit i { sp with prog := { sp.prog with stage := 2, fail := some t } })
      | some x =>
        match x.kind with
        | .sluIn _ left abn keys _ =>
          let site := some (x.pc, x.pos)
          let s := setKept s w.owner.core p (st.setSplit i { sp with
            waits := sp.waits.erase x, reconv := none
            traps := sp.traps.filter (fun y => y.site != site) ++ [{ trap := t, site := site }] })
          undoEntry s w.ctx w.owner.core w.owner.number w.ask (x.lanes &&& ~~~left) abn keys
        | _ => s

/-! The sluice's moves. -/

/-- Whether a request or leave that the same core sent to a sluice earlier stands before a place in its order (R13). -/
def sectBehind (x : Cluster) (core no : Nat) : Bool :=
  x.sectReqs.any (fun p => p.w.owner.core == core && p.after == 0 && p.no < no) ||
    x.sectLeaves.any (fun p => p.owner.core == core && (match p.no with | some n => n < no | none => false))

/-- A lane attaches a waiter record and its walk begins (R214, R221), or is refused (R220). -/
def attachWaiter (s : State) (k : Nat) (q : SectReq) : State :=
  let x := s.clu k
  if waiterCount x ≥ 16384 then
    s.setClu k { x with sectReqs := x.sectReqs ++ [{ q with after := s.tick + 64, refused := true }] }
  else
    s.setClu k { x with
      waiters := x.waiters ++ [q.w]
      chains := x.chains ++ [{ ctx := q.w.ctx, owner := q.w.owner, ask := q.w.ask, cur := q.w.key, hops := 0 }] }

/-- A request at its entry (R214, R216). -/
def serveSect (s : State) (k i : Nat) (q : SectReq) : State :=
  let x := s.clu k
  match x.keys[i]? with
  | none => s
  | some e =>
    let e := if q.init && e.held.isNone && !hasWaiters x e then { e with next := q.w.seq } else e
    let s := s.setClu k { x with keys := setAt x.keys i e }
    if e.held.isNone && e.next = q.w.seq then
      let s := holdEntry s k i e q.w.owner
      if q.once then replyTry s q.w true e.abn else replyGrant s q.w e.abn
    else if q.once then replyTry s q.w false false
    else attachWaiter s k q

/-- A request taken from a sluice's list. -/
def takeSect (s : State) (k i : Nat) : State :=
  let x := s.clu k
  s.setClu k { x with sectReqs := dropAt x.sectReqs i }

/-- SECTION_REQUEST (R214): a sluice processes a request, once the spill area gives what it needs (R219). The step's
operands: the cluster and the request. -/
def execSectionRequest (s : State) : Host.Outcome State Fault Refusal :=
  let k := s.pick.a
  let x := s.clu k
  match x.sectReqs[s.pick.b]? with
  | none => .next s
  | some q =>
    let o := q.w.owner
    if q.after != 0 || sectBehind x o.core q.no || !arbiterMay s k q.w.ctx 2 0 o.core o.number.toNat then .next s
    else match needEntry s k q.w.ctx q.w.key with
      | (s, .error .held) => .next s
      | (s, .error .full) =>
        .next (syncWaiters (failEntry (arbiterServe (takeSect s k s.pick.b) k q.w.ctx 2 0 o.core o.number.toNat) q.w
          { code := trapKeytabFull, lanes := 1#96 <<< o.lane, info := q.w.key }))
      | (s, .ok i) =>
        .next (syncWaiters (serveSect (arbiterServe (takeSect s k s.pick.b) k q.w.ctx 2 0 o.core o.number.toNat) k i q))

/-- WAITER_RESEND (R220): after 64 ticks a refused lane's request is sent again. -/
def execWaiterResend (s : State) : Host.Outcome State Fault Refusal :=
  let k := s.pick.a
  let x := s.clu k
  match x.sectReqs[s.pick.b]? with
  | none => .next s
  | some q =>
    if q.after = 0 || s.tick < q.after then .next s
    else
      let (s, no) := s.fresh
      .next (s.setClu k { x with sectReqs := dropAt x.sectReqs s.pick.b ++ [{ q with after := 0, no := no }] })

/-- An acknowledgement counted in the first SLU.OUT of a lane that still owes one. -/
def ackWaits (lane : Nat) (ws : List Wait) : List Wait :=
  match ws with
  | [] => []
  | w :: r =>
    match w.kind with
    | .sluOut n => if w.lanes.getLsbD lane && n != 0 then { w with kind := .sluOut (n - 1) } :: r else w :: ackWaits lane r
    | _ => w :: ackWaits lane r

/-- An acknowledgement of SLU.OUT reaches its strand. -/
def ackLeave (s : State) (ctx : Nat) (o : Owner) : State :=
  match ownerStrand s ctx o with
  | none => s
  | some (p, st) =>
    setKept s o.core p { st with splits := st.splits.map (fun e => (e.1, { e.2 with waits := ackWaits o.lane e.2.waits })) }

/-- Whether a leave may be processed: one of SLU.OUT in its core's order (R13), one that abandons once its core's release
is complete (R224). -/
def leaveMay (s : State) (x : Cluster) (q : SectLeave) : Bool :=
  match q.no with
  | some n => !sectBehind x q.owner.core n
  | none => releaseOver s q.owner.core .dev

/-- SECTION_LEAVE (R213): a leave at the key's home. The step's operands: the cluster and the leave. -/
def execSectionLeave (s : State) : Host.Outcome State Fault Refusal :=
  let k := s.pick.a
  let x := s.clu k
  match x.sectLeaves[s.pick.b]? with
  | none => .next s
  | some q =>
    if !leaveMay s x q then .next s
    else
      let x := { x with sectLeaves := dropAt x.sectLeaves s.pick.b }
      let s := s.setClu k x
      let s := if q.no.isNone then s else ackLeave s q.ctx q.owner
      match findKey x q.ctx q.key with
      | none => .next s
      | some i =>
        match x.keys[i]? with
        | none => .next s
        | some e =>
          if e.held != some q.owner then .next s
          else
            let x := s.clu k
            let e := { e with held := none, next := e.next + 1, abn := e.abn || q.no.isNone }
            .next (syncWaiters (grantNext (s.setClu k { x with keys := setAt x.keys i e }) k i))

/-- The wanted key of a strand: the key of its lowest waiting lane (R221). -/
def wantedKey (s : State) (ctx : Nat) (o : Owner) : Option DWord :=
  let ws := s.clusters.flatMap (fun e => e.2.waiters.filter (fun w =>
    w.ctx == ctx && w.owner.core == o.core && w.owner.number == o.number))
  (ws.foldl (fun acc w => match acc with
    | none => some w
    | some b => if w.owner.lane < b.owner.lane then some w else acc) none).map (·.key)

/-- CHAIN_WALK_HOP (R221): one hop of a walk. The step's operands: the cluster that runs the walk and its place. -/
def execChainWalkHop (s : State) : Host.Outcome State Fault Refusal :=
  let k := s.pick.a
  let x := s.clu k
  match x.chains[s.pick.b]? with
  | none => .next s
  | some h =>
    let stopped := s.setClu k { x with chains := dropAt x.chains s.pick.b }
    let y := s.clu (keyHome h.cur)
    match (findKey y h.ctx h.cur).bind (fun i => y.keys[i]?) with
    | none => .next stopped
    | some e =>
      match e.held with
      | none => .next stopped
      | some o =>
        if o.core = h.owner.core && o.number = h.owner.number then
          match x.waiters.find? (fun w => w.ask == h.ask && w.owner == h.owner) with
          | some w => .next (syncWaiters (failEntry stopped w
              { code := trapSectDeadlock, lanes := 1#96 <<< h.owner.lane, info := h.cur }))
          | none => .next stopped
        else match wantedKey s h.ctx o with
          | none => .next stopped
          | some nxt =>
            if h.hops + 1 ≥ 16 then .next stopped
            else .next (s.setClu k { x with chains := setAt x.chains s.pick.b { h with cur := nxt, hops := h.hops + 1 } })

/-- Whether a lane's wait has passed the starvation limit of its context (R222). -/
def starved (s : State) (ctx ticks : Nat) : Bool := ticks > 2 ^ ctxStarve s ctx

/-- The records of a sluice that count: waiters, and requests it refused. -/
def counting (x : Cluster) : List Waiter := x.waiters ++ (x.sectReqs.filter (fun q => q.refused && !q.once)).map (·.w)

/-- The lanes of an instruction that have expired. -/
def expiredLanes (s : State) (ask : Nat) : LaneMask :=
  let ws := s.clusters.flatMap (fun e => (counting e.2).filter (fun w => w.ask == ask && starved s w.ctx (waiterTicks s w)))
  maskWhere (fun l => ws.any (fun w => w.owner.lane == l))

/-- SECT_STARVED (R222): a count passes the limit. The step's operands: the cluster and the record among those that
count. -/
def execSectStarved (s : State) : Host.Outcome State Fault Refusal :=
  match (counting (s.clu s.pick.a))[s.pick.b]? with
  | none => .next s
  | some w =>
    if !starved s w.ctx (waiterTicks s w) then .next s
    else .next (syncWaiters (failEntry s w { code := trapSectStarved, lanes := expiredLanes s w.ask, info := w.key }))

/-! The instructions. -/

/-- The lanes of a mask whose keys occur twice among its lanes (R214). -/
def dupLanes (v : View) (a : Operand) : LaneMask :=
  maskWhere (fun l => v.eff.getLsbD l && (lanesOf v.eff).any (fun j => j != l && v.rd64 a j == v.rd64 a l))

/-- Every effective lane's key. -/
def laneKeys (v : View) (a : Operand) : List (Nat × DWord) := (lanesOf v.eff).map (fun l => (l, v.rd64 a l))

/-- The SECT_DUP trap of lanes with equal keys (R214). -/
def dupTrap (v : View) (a : Operand) : Option TrapRec :=
  let m := dupLanes v a
  match lowLane m with
  | none => none
  | some l => some { code := trapSectDup, lanes := m, info := v.rd64 a l }

/-- The requests of the effective lanes sent to their homes in ascending order, under an instruction's number. -/
def sendSects (s : State) (v : View) (a b : Operand) (init once : Bool) (ask : Nat) : State :=
  (lanesOf v.eff).foldl (fun s l =>
    let (s, no) := s.fresh
    let key := v.rd64 a l
    let x := s.clu (keyHome key)
    let w : Waiter := { ctx := v.st.ctx, key := key, seq := v.rd b l, owner := ⟨v.r.core, v.st.number, l⟩, ask := ask }
    s.setClu (keyHome key) { x with sectReqs := x.sectReqs ++ [{ w := w, init := init, once := once, no := no }] }) s

/-- SLU.IN (R214, R305). -/
def execSluIn (c : Ctl) (init : Bool) (d a b : Operand) (s : State) :=
  run (.sluIn c init d a b) c s fun v s =>
    if v.eff = 0 then .done s
    else match dupTrap v a with
      | some t => .trap t s
      | none =>
        let (s, ask) := s.fresh
        .done (beginWait (sendSects s v a b init false ask) v (.sluIn ask v.eff 0 (laneKeys v a) d))

/-- Whether a lane holds its key (R215). -/
def holdsKey (s : State) (ctx : Nat) (o : Owner) (key : DWord) : Bool :=
  let x := s.clu (keyHome key)
  x.keys.any (fun e => e.ctx == ctx && e.key == key && !e.ras && e.held == some o)

/-- Whether an earlier request of a core is still on its way to the homes of some keys (R13). -/
def asksBefore (s : State) (core : Nat) (keys : List DWord) : Bool :=
  keys.any (fun key => (s.clu (keyHome key)).sectReqs.any (fun q => q.w.owner.core == core && q.after == 0))

/-- Whether a lane's leave of a key is under way. -/
def leaving (s : State) (ctx : Nat) (o : Owner) (key : DWord) : Bool :=
  (s.clu (keyHome key)).sectLeaves.any (fun q => q.ctx == ctx && q.owner == o && q.key == key)

/-- SLU.OUT (R215, R306): its homes check their holders once they have had what the core sent before (R13). -/
def execSluOut (c : Ctl) (a : Operand) (s : State) :=
  run (.sluOut c a) c s fun v s =>
    if v.eff = 0 then .done s
    else releaseThen v s .dev 16 fun s =>
      let keys := laneKeys v a
      if asksBefore s v.r.core (keys.map (·.2)) then .stay 10 s
      else
        let owner := fun (l : Nat) => (⟨v.r.core, v.st.number, l⟩ : Owner)
        let bad := keys.filter (fun e => !holdsKey s v.st.ctx (owner e.1) e.2 || leaving s v.st.ctx (owner e.1) e.2)
        if !bad.isEmpty then .trap { code := trapPerm, lanes := maskWhere (fun l => bad.any (fun e => e.1 == l)) } s
        else
          let s := keys.foldl (fun s e =>
            let (s, no) := s.fresh
            let x := s.clu (keyHome e.2)
            s.setClu (keyHome e.2) { x with
              sectLeaves := x.sectLeaves ++ [{ ctx := v.st.ctx, key := e.2, owner := owner e.1, no := some no }] }) s
          .done (beginWait s v (.sluOut (popCount v.eff)))

/-- SLU.TRY (R216, R307). -/
def execSluTry (c : Ctl) (d a b e : Operand) (s : State) :=
  run (.sluTry c d a b e) c s fun v s =>
    let p := s.prog v.r
    if v.eff = 0 then .done s
    else match p.stage with
      | 0 =>
        match dupTrap v a with
        | some t => .trap t s
        | none =>
          let (s, ask) := s.fresh
          .stay 10 (sendSects (s.setProg v.r { p with stage := 1, ask := ask }) v a b false true ask)
      | 1 =>
        if p.lanes &&& v.eff != v.eff then .stay 10 s
        else
          let s := putPred s v.r d v.eff (fun l => p.won.getLsbD l)
          let s := putPred s v.r e v.eff (fun l => p.nums.contains l)
          .done (if p.won = 0 then s else acquire s v.r.core .dev)
      | _ =>
        let s := undoEntry s v.st.ctx v.r.core v.st.number p.ask p.won (maskWhere (fun l => p.nums.contains l)) (laneKeys v a)
        .trap (p.fail.getD { code := trapKeytabFull }) s

end Sys2Proof.Machine
end

