-- ==== Sys2Proof/Machine/Crew.lean ====
section
/-! DEFINITION. Crews, crew barriers and launch barriers (07 R143, R144, 08 R149-R155, 16 R300-R304), vector register
growth (R141, R142, R308, R309), and what leaves with exited lanes and strands (R122, R128, R293). -/
namespace Sys2Proof.Machine

/-! Crew identifiers (R143). -/

/-- The identifier of an entry's crew. -/
def crewId (k ent : Nat) (gen : BitVec 16) : Word := BitVec.ofNat 32 (gen.toNat * 2 ^ 16 + k * 2 ^ 10 + ent)

/-- A cluster's crew table entry. -/
def crewAt (s : State) (k ent : Nat) : Crew := (s.clu k).crews.get {} ent

/-- Replace it. -/
def setCrew (s : State) (k ent : Nat) (x : Crew) : State :=
  let c := s.clu k
  s.setClu k { c with crews := c.crews.set ent x }

/-- The entry an identifier names in a cluster; none for a stale or foreign one. -/
def crewOf (s : State) (k : Nat) (id : Word) : Option Nat :=
  let ent := id.toNat % 1024
  let x := crewAt s k ent
  if x.used && id == crewId k ent x.gen then some ent else none

/-- The entry an operand names for a strand: 0 is its launch crew (R149). -/
def namedCrew (s : State) (c : Nat) (st : Strand) (id : Word) : Option Nat :=
  if id = 0 then st.home.bind (crewOf s (coreCluster c)) else crewOf s (coreCluster c) id

/-- A crew's scope (R144). -/
def Crew.scope (x : Crew) : Scope :=
  match x.members with
  | [] => .core
  | m :: ms => if ms.all (fun n => n.1 == m.1) then .core else .clu

/-! Barrier phases (R150-R155). -/

/-- Waits of some kind in every split of a strand turned into completed ones (R152, R155). -/
def Strand.completeWaits (st : Strand) (f : WaitKind → Option WaitKind) : Strand :=
  { st with splits := st.splits.map (fun e => (e.1, { e.2 with
    waits := e.2.waits.map (fun w => match f w.kind with | some k => { w with kind := k } | none => w) })) }

/-- The completed form of a wait at a crew's barrier. -/
def crewDone (id : Word) (sc : Scope) (val : Word) (k : WaitKind) : Option WaitKind :=
  match k with
  | .barrier i acq d => if i = id then some (.barDone (if acq then some sc else none) d val) else none
  | _ => none

/-- The contribution at a member position (R153). -/
def contribution (x : Crew) (ph : Phase) (op : ROp) (ty : RTy) (i : Nat) : Word :=
  match x.members[i]? with
  | none => redIdentity op ty
  | some m => match ph.arrived.find? (fun a => a.1 == m) with
    | some a => a.2
    | none => redIdentity op ty

/-- The result of a phase with the flags its tree raises (R153). -/
def phaseResult (x : Crew) (ph : Phase) : Word × Flags :=
  match ph.kind with
  | .bar => (0, noFlag)
  | .barp op ty ftz => redTree op ty ftz (contribution x ph op ty) 6 0

/-- Sticky flags set in a strand. -/
def Strand.raised (st : Strand) (f : Flags) : Strand := { st with flags := st.flags ||| f }

/-- A phase completes once every member has arrived (R151, R152). -/
def tryPhase (s : State) (k ent : Nat) : State :=
  let x := crewAt s k ent
  match x.phase with
  | none => s
  | some ph =>
    if x.members.isEmpty || !x.members.all (fun m => ph.arrived.any (fun a => a.1 == m)) then s
    else
      let res := phaseResult x ph
      let s := setCrew s k ent { x with phase := none }
      x.members.foldl (fun s m =>
        let st := s.strandAt m.1 m.2
        s.setStrandAt m.1 m.2 ((st.completeWaits (crewDone (crewId k ent x.gen) x.scope res.1)).raised res.2)) s

/-- The strands of a launch that are expected at its barrier: placed, not exited, their crew not dissolved (R154). -/
def launchStrands (s : State) (ln : Nat) (x : Launch) : List (Nat × BitVec 16) :=
  let mine (st : Strand) := (st.state == .resident || st.state == .saved) && st.launch == some ln &&
    !x.dissolved.contains st.crewIx.toNat
  s.cores.flatMap (fun e =>
    ((e.2.slots.map (·.2)) ++ e.2.away).filterMap (fun st => if mine st then some (e.1, st.number) else none))

/-- The completed form of a wait at a launch barrier. -/
def launchDone (ln : Nat) (k : WaitKind) : Option WaitKind :=
  match k with
  | .launchBar i acq => if i = ln then some (.barDone (if acq then some .dev else none) none 0) else none
  | _ => none

/-- A launch barrier completes once every expected strand has arrived (R154). -/
def tryLaunchBar (s : State) (ln : Nat) : State :=
  match s.launch ln with
  | none => s
  | some x =>
    if x.arrived.isEmpty || !(launchStrands s ln x).all (fun m => x.arrived.contains m) then s
    else
      let s := s.setLaunch ln { x with arrived := [] }
      { s with cores := s.cores.map (fun e => (e.1, { e.2 with
          slots := e.2.slots.map (fun f => (f.1, f.2.completeWaits (launchDone ln)))
          away := e.2.away.map (fun st => st.completeWaits (launchDone ln)) })) }

/-! Room on cores (R117, R122). -/

/-- Cores count as having gained room, for every launch, from the tick on at which they first did (R119, R122). -/
def gainRoom (s : State) (cs : List Nat) : State :=
  { s with launches := s.launches.map (fun e => (e.1, { e.2 with
      gained := e.2.gained ++ (cs.filter (fun c => e.2.gained.all (fun g => g.2 != c))).map (fun c => (s.tick, c)) })) }

/-- Whether a crew table entry is free. -/
def Crew.isFree (x : Crew) : Bool := !x.used && x.alive == 0

/-- Whether a cluster's crew table is full. -/
def crewsFull (s : State) (k : Nat) : Bool := (List.range 1024).all (fun i => !(crewAt s k i).isFree)

/-- A crew entry whose crew has dissolved and whose placed strands have exited gives its scratch and entry back (R122);
`was` says whether the table was full before. -/
def freeCrew (s : State) (k ent : Nat) (was : Bool) : State :=
  let x := crewAt s k ent
  if !x.isFree then s
  else
    let c := s.core x.core
    let s := s.setCore x.core { c with windows := c.windows.filter (fun w => w != (x.scratch, x.window) || x.window == 0) }
    let s := setCrew s k ent { x with scratch := 0, window := 0 }
    gainRoom s (if was then (List.range 256).map (fun j => 256 * k + j) else if x.window = 0 then [] else [x.core])

/-! VGROW (R141, R142). -/

/-- Registers in multiples of 16 (R141). -/
def roundRegs (n : Nat) : Nat := (n + 15) / 16 * 16

/-- Whether a growth is granted at once: the core's free strand-registers meet it, and no older sleeper waits (R141). -/
def growsNow (s : State) (r : SplitRef) (n : Nat) : Bool :=
  let st := s.strand r
  n - st.claimed ≤ freeRegisters s r.core &&
    (sleepers s r.core).all (fun e => st.age < e.2.age || (st.age == e.2.age && r.slot ≤ e.1))

/-- VGROW (R308): it is granted as it issues where it can be, and its registers come after the clause. -/
def execVgrow (c : Ctl) (a : Operand) (s : State) :=
  run (.vgrow c a) c s fun v s =>
    let n := roundRegs (v.rd a 0).toNat
    if v.eff = 0 || n ≤ v.st.nregs then .done s
    else if n > roundRegs v.st.rmax then .trap { code := trapRegGrow, lanes := v.eff } s
    else .done (beginWait s v (.vgrow n (growsNow s v.r n)))

/-- VSHRINK (R309). -/
def execVshrink (c : Ctl) (a : Operand) (s : State) :=
  run (.vshrink c a) c s fun v s =>
    let n := min v.st.nregs (max (roundRegs (v.rd a 0).toNat) v.st.gStart)
    if v.eff = 0 then .done s
    else if !v.st.results.isEmpty then .stay 3 s
    else if n ≥ v.st.nregs then .done s
    else .done (gainRoom (settleGrowth (s.setStrand v.r (v.st.resize n)) v.r.core) [v.r.core])

/-- Whether a core is in a VGROW deadlock: a strand sleeps, and none has issued a clause in the last 4096 ticks (R142). -/
def growthStuck (s : State) (c : Nat) : Bool :=
  (s.core c).slots.any (fun e => e.2.state == .resident && e.2.growth.isSome) &&
    (s.core c).slots.all (fun e => e.2.state == .vacant || e.2.lastIssue + 4096 < s.runTick)

/-! Leaving crews (R144, R151). -/

/-- Splits of a leaving strand that wait at its crew's barrier stop waiting and trap BARRIER_SCOPE (R151). -/
def dropBarrierWaits (s : State) (c slot : Nat) (id : Word) : State :=
  (List.range 4).foldl (fun s i =>
    let r : SplitRef := ⟨c, slot, i⟩
    ((s.split r).waits.filter (fun w => match w.kind with | .barrier x _ _ => x == id | _ => false)).foldl
      (fun s w => failWait s r w { code := trapBarrierScope, lanes := w.lanes }) s) s

/-- The next generation (R143). -/
def nextGen (g : BitVec 16) : BitVec 16 := if g = 0xFFFF then 1 else g + 1

/-- A crew dissolves as its last member leaves: a launch crew's member releases at .dev and its completion event goes
out (R122, R123). -/
def dissolve (s : State) (k ent c : Nat) : State :=
  let x := crewAt s k ent
  let was := crewsFull s k
  let s := setCrew s k ent { x with gen := nextGen x.gen, used := false, members := [], phase := none, launch := none }
  let s : State := match x.launch with
    | none => s
    | some (ln, i) =>
      let s := releaseMoves s c .dev
      let s : State := { s with events := s.events ++ [{ launch := ln, crew := i, core := c }] }
      match s.launch ln with
      | none => s
      | some y =>
        let gone (m : Nat × BitVec 16) := match findStrand s m.1 y.ctx m.2 with
          | some p => (keptStrand s m.1 p).crewIx.toNat == i
          | none => true
        tryLaunchBar (s.setLaunch ln { y with
          dissolved := insertNat y.dissolved i, arrived := y.arrived.filter (fun m => !gone m) }) ln
  freeCrew s k ent was

/-- A strand leaves a crew (R144, R151). -/
def leaveCrew (s : State) (k ent c slot : Nat) : State :=
  let x := crewAt s k ent
  let id := crewId k ent x.gen
  let m := (c, slot)
  let s := setCrew s k ent { x with
    members := x.members.filter (· != m)
    phase := x.phase.map (fun ph => { ph with arrived := ph.arrived.filter (fun a => a.1 != m) }) }
  let st := s.strandAt c slot
  let s := s.setStrandAt c slot { st with
    crews := st.crews.filter (· != id), home := if st.home = some id then none else st.home }
  let s := dropBarrierWaits s c slot id
  if (crewAt s k ent).members.isEmpty then dissolve s k ent c else tryPhase s k ent

/-- CNEW (R300). -/
def execCnew (c : Ctl) (d : Operand) (s : State) :=
  run (.cnew c d) c s fun v s =>
    let k := coreCluster v.r.core
    if v.eff = 0 then .done s
    else
      match (if v.st.crews.length ≥ 4 then none else firstFrom (fun i => (crewAt s k i).isFree) 1024 0) with
      | none => .done (putAll s v.r d v.eff 0xFFFFFFFF)
      | some ent =>
        let x := crewAt s k ent
        let id := crewId k ent x.gen
        let s := setCrew s k ent { x with used := true, members := [(v.r.core, v.r.slot)], launch := none, phase := none }
        let st := s.strand v.r
        let s := s.setStrand v.r { st with crews := v.st.crews ++ [id] }
        .done (putAll s v.r d v.eff id)

/-- Whether CJOIN is refused (R144). -/
def joinRefused (v : View) (x : Crew) : Bool :=
  x.members.length ≥ 64 || v.st.crews.length ≥ 4 || x.members.contains (v.r.core, v.r.slot)

/-- The core whose arrived members must release before a join widens an open phase, and how many have arrived: each
arrival is covered by a release of its own (R152). -/
def wideningCore (x : Crew) (c : Nat) : Option (Nat × Nat) :=
  match x.phase, x.members with
  | some ph, m :: _ => if x.scope == .core && m.1 != c && !ph.arrived.isEmpty then some (m.1, ph.arrived.length) else none
  | _, _ => none

/-- CJOIN (R301). -/
def execCjoin (c : Ctl) (d a : Operand) (s : State) :=
  run (.cjoin c d a) c s fun v s =>
    let k := coreCluster v.r.core
    if v.eff = 0 then .done s
    else match crewOf s k (v.rd a 0) with
      | none => .done (putAll s v.r d v.eff 0)
      | some ent =>
        let x := crewAt s k ent
        if joinRefused v x then .done (putAll s v.r d v.eff 0)
        else
          let join (s : State) : Res :=
            let s := setCrew s k ent { x with members := x.members ++ [(v.r.core, v.r.slot)] }
            let st := s.strand v.r
            let s := s.setStrand v.r { st with crews := v.st.crews ++ [crewId k ent x.gen] }
            Res.done (putAll s v.r d v.eff 1)
          match wideningCore x v.r.core with
          | none => join s
          | some (c0, n) =>
            let p := s.prog v.r
            let s := if p.stage = 1 && p.tick = n then s else releaseMoves (s.setProg v.r { p with stage := 1, tick := n }) c0 .clu
            if releaseOver s c0 .clu then join s else .stay 22 s

/-- CLEAVE (R302). -/
def execCleave (c : Ctl) (d a : Operand) (s : State) :=
  run (.cleave c d a) c s fun v s =>
    let k := coreCluster v.r.core
    if v.eff = 0 then .done s
    else match namedCrew s v.r.core v.st (v.rd a 0) with
      | none => .done (putAll s v.r d v.eff 0)
      | some ent =>
        if (crewAt s k ent).members.contains (v.r.core, v.r.slot) then
          .done (leaveCrew (putAll s v.r d v.eff 1) k ent v.r.core v.r.slot)
        else .done (putAll s v.r d v.eff 0)

/-! BAR and BARP (R303, R304). -/

/-- Whether an order releases, and whether it acquires (R152). -/
def barReleases : BarOrder → Bool
  | .acq => false
  | _ => true
def barAcquires : BarOrder → Bool
  | .rel => false
  | _ => true

/-- A strand's arrival at its crew's barrier: the release of the order, the arrival, and the wait (R150-R152). -/
def arrive (v : View) (s : State) (id : Word) (kind : BarKind) (o : BarOrder) (d : Option Operand) (val : Word) : Res :=
  let k := coreCluster v.r.core
  let m := (v.r.core, v.r.slot)
  match namedCrew s v.r.core v.st id with
  | none => .trap { code := trapBarrierScope, lanes := v.eff } s
  | some ent =>
    if !(crewAt s k ent).members.contains m then .trap { code := trapBarrierScope, lanes := v.eff } s
    else
      let record := fun (s : State) =>
        let x := crewAt s k ent
        let ph := x.phase.getD { kind := kind, arrived := [] }
        if ph.kind != kind then Res.trap { code := trapIllegalOp, lanes := v.eff } s
        else
          let ph := if ph.arrived.any (fun a => a.1 == m) then ph else { ph with arrived := ph.arrived ++ [(m, val)] }
          let s := beginWait (setCrew s k ent { x with phase := some ph }) v (.barrier (crewId k ent x.gen) (barAcquires o) d)
          .done (tryPhase s k ent)
      if barReleases o then releaseThen v s (crewAt s k ent).scope 16 record else record s

/-- A strand's arrival at its launch's barrier (R154). -/
def arriveLaunch (v : View) (s : State) (o : BarOrder) : Res :=
  match v.st.launch.bind (fun ln => (s.launch ln).map (fun x => (ln, x))) with
  | none => .trap { code := trapBarrierScope, lanes := v.eff } s
  | some (ln, x) =>
    if !x.bits.getLsbD 219 then .trap { code := trapBarrierScope, lanes := v.eff } s
    else
      let record := fun (s : State) =>
        let m := (v.r.core, v.st.number)
        let s := match s.launch ln with
          | none => s
          | some x => s.setLaunch ln { x with arrived := if x.arrived.contains m then x.arrived else x.arrived ++ [m] }
        Res.done (tryLaunchBar (beginWait s v (.launchBar ln (barAcquires o))) ln)
      if barReleases o then releaseThen v s .dev 16 record else record s

/-- BAR (R303). -/
def execBar (c : Ctl) (o : BarOrder) (crew : Option Operand) (s : State) :=
  run (.bar c o crew) c s fun v s =>
    if v.eff = 0 then .done s
    else match crew with
      | none => arriveLaunch v s o
      | some a => arrive v s (v.rd a 0) .bar o none 0

/-- BARP (R304). -/
def execBarp (c : Ctl) (op : ROp) (ty : RTy) (ftz : Bool) (o : BarOrder) (d a b : Operand) (s : State) :=
  run (.barp c op ty ftz o d a b) c s fun v s =>
    if v.eff = 0 then .done s
    else arrive v s (v.rd b 0) (.barp op ty ftz) o (some d) (v.rdRed ty a 0)

/-! Exits (R122, R128, R224, R251, R293, R325, R326). -/

/-- The cluster's work count of a context lowered (R326). -/
def lowerWork (s : State) (k ctx n : Nat) : State :=
  let x := s.clu k
  s.setClu k { x with work := x.work.set ctx (x.work.get 0 ctx - n) }

/-- Every section a lane holds is abandoned, and its requests and waiter records are withdrawn (R224). -/
def abandonLanes (s : State) (c : Nat) (st : Strand) (x : LaneMask) : State :=
  let mine (o : Owner) := o.core == c && o.number == st.number && x.getLsbD o.lane
  let held := s.clusters.flatMap (fun e => e.2.keys.filterMap (fun f =>
    if f.ctx == st.ctx && !f.ras && (match f.held with | some o => mine o | none => false) then
      some (e.1, f) else none))
  let s := { s with clusters := s.clusters.map (fun e => (e.1, { e.2 with
      waiters := e.2.waiters.filter (fun w => !(w.ctx == st.ctx && mine w.owner))
      sectReqs := e.2.sectReqs.filter (fun q => !(q.w.ctx == st.ctx && mine q.w.owner))
      chains := e.2.chains.filter (fun h => !(h.ctx == st.ctx && mine h.owner)) })) }
  if held.isEmpty then s
  else held.foldl (fun s e =>
    match e.2.held with
    | none => s
    | some o =>
      let y := s.clu e.1
      let pending := y.sectLeaves.any (fun q => q.ctx == st.ctx && q.owner == o && q.key == e.2.key)
      if pending then s
      else s.setClu e.1 { y with sectLeaves := y.sectLeaves ++ [{ ctx := st.ctx, key := e.2.key, owner := o, no := none }] })
    (releaseMoves s c .dev)

/-- What a fragment or vertex lane passes on when it exits (R251, R325); an unstaged position is (0, 0, 0, 0). -/
def passLane (s : State) (c : Nat) (st : Strand) (l : Nat) : State :=
  match st.kind with
  | .plain => s
  | .fragment draw =>
    match (if (s.draws.find draw).isSome then st.staged.recs.find l else none) with
    | none => s
    | some ivl =>
      let x := s.clu (coreCluster c)
      s.setClu (coreCluster c) { x with blendQ := x.blendQ ++
        [{ ctx := st.ctx, draw := draw, ivl := ivl, colour := st.staged.vec.find l, depth := st.staged.depth.find l }] }
  | .vertex draw first =>
    if (s.draws.find draw).isNone then s
    else { s with verts := s.verts ++ [(draw, first + l,
        { pos := (st.staged.vec.find l).getD [0, 0, 0, 0], attrs := st.staged.attrs.get [] l })] }

/-- A wait without some lanes; none when it was theirs alone. -/
def Wait.without (w : Wait) (x : LaneMask) : Option Wait :=
  match w.kind with
  | .sluIn ask left abn keys d =>
    if w.lanes &&& ~~~x = 0 then none
    else some { w with
      lanes := w.lanes &&& ~~~x
      kind := .sluIn ask (left &&& ~~~x) (abn &&& ~~~x) (keys.filter (fun e => !x.getLsbD e.1)) d }
  | .sluOut _ => some w
  | _ => some { w with lanes := w.lanes &&& ~~~x }

/-- Lanes leave a split's own set, its mask, its waits and the results it awaits (R293). -/
def Strand.dropLanes (st : Strand) (i : Nat) (x : LaneMask) : Strand :=
  let sp := st.split i
  let rs := st.results.map (fun (p : Pending) => if p.split = i then { p with lanes := p.lanes &&& ~~~x } else p)
  Strand.setSplit { st with results := rs } i
    { sp with own := sp.own &&& ~~~x, mask := sp.mask &&& ~~~x, waits := sp.waits.filterMap (fun w => w.without x) }

/-- No split of a slot counts as its scheduler's last issuer (R128, R139). -/
def forgetIssuer (s : State) (c slot : Nat) : State :=
  let k := s.core c
  let q := k.sched.get {} (slot / 6)
  match q.last with
  | some (i, _) => if i = slot then s.setCore c { k with sched := k.sched.set (slot / 6) { q with last := none, run := 0 } } else s
  | none => s

/-- A strand whose splits are all Free exits (R128): it leaves its crews, its records and token (R326), and its slot and
registers are free. -/
def exitStrand (s : State) (c slot : Nat) : State :=
  let st := s.strandAt c slot
  let k := coreCluster c
  let s := st.crews.foldl (fun s id => match crewOf s k id with
    | some ent => leaveCrew s k ent c slot
    | none => s) s
  let s := lowerWork s k st.ctx (st.held + if st.token then 1 else 0)
  let s := gangLeft (forgetIssuer (s.setStrandAt c slot {}) c slot) c slot
  let s := { s with resv := s.resv.filter (fun e => !(e.1 == c && e.2.1 == slot)) }
  let s := match st.placed with
    | none => s
    | some ent =>
      let was := crewsFull s k
      let x := crewAt s k ent
      freeCrew (setCrew s k ent { x with alive := x.alive - 1 }) k ent was
  let s := match st.launch with
    | none => s
    | some ln => tryLaunchBar s ln
  syncWaiters (gainRoom (settleGrowth s c) [c])

/-- Lanes of a split exit (R293): what they hold and pass on, and, for a split without lanes, R130. -/
def exitLanes (s : State) (r : SplitRef) (x : LaneMask) : State :=
  let st := s.strand r
  let s := abandonLanes s r.core st x
  let s := (lanesOf x).foldl (fun s l => passLane s r.core st l) s
  let s := s.setStrand r ((s.strand r).dropLanes r.split x)
  if (s.split r).own = 0 then
    let s := resumeOrFree s r
    if (List.range 4).all (fun i => ((s.strand r).split i).state == .free) then exitStrand s r.core r.slot
    else reconvBoundary s r.core r.slot
  else s

end Sys2Proof.Machine
end

