-- ==== Sys2Proof/Machine/Flow.lean ====
section
/-! DEFINITION. Transfers, divergence, convergence, exits, sleeps, software traps and the return from a handler
(16 R286-R299, 07 R130-R137, 26 R524). -/
namespace Sys2Proof.Machine

/-! Where lanes go (R131, R135). -/

/-- Lanes that go to one target; a target is a number, in range or not (R285). -/
structure Group where
  target : Int
  lanes  : LaneMask
  deriving DecidableEq, Repr

/-- The lowest free split index of a strand. -/
def freeSplit (st : Strand) : Option Nat := (List.range 4).find? (fun i => (st.split i).state == .free)

/-- The XLATE trap that waits at a target out of range (R285). -/
def targetTrap (g : Group) : List WaitingTrap :=
  if 0 ≤ g.target && g.target < 2 ^ 48 then []
  else [{ trap := { code := trapXlate, lanes := g.lanes, addr := (g.target % 2 ^ 64).toNat }, site := none }]

/-- A new split takes a group, with the waits of its lanes (R131). -/
def openSplit (s : State) (r : SplitRef) (i : Nat) (g : Group) : State :=
  let st := s.strand r
  let sp := st.split r.split
  let waits := sp.waits.filterMap (fun w => w.without (~~~g.lanes))
  let waits := waits.map (fun w => match w.kind with
    | .bcb key par none none => { w with kind := .bcb key par (some s.tick) none }
    | _ => w)
  let fresh : Split := {
    pc := BitVec.ofInt 48 g.target, own := g.lanes, mask := g.lanes, waits := waits, traps := targetTrap g
    state := if waits.isEmpty then .ready else .waiting, since := s.runTick }
  let old := { sp with own := sp.own &&& ~~~g.lanes, mask := sp.mask &&& ~~~g.lanes,
                       waits := sp.waits.filterMap (fun w => w.without g.lanes) }
  s.setStrand r ((st.setSplit r.split old).setSplit i fresh)

/-- A deferred entry pushed (R131, R132). -/
def pushDefer (s : State) (r : SplitRef) (pc rpc : BitVec 48) (lanes : LaneMask) : State :=
  let sp := s.split r
  let es := deferStack s r.core r.slot
  let e : Defer := { pc := pc, rpc := rpc, arr := false, spl := r.split, hm := sp.hm, mask := lanes }
  let s := putBytes s (deferKey r.core r.slot es.length) (leBytes 32 e.bits)
  s.setSplit r { sp with ndef := sp.ndef + 1, own := sp.own &&& ~~~lanes, mask := sp.mask &&& ~~~lanes, stall := 20, since := s.runTick }

/-- Entries still free on a strand's deferred stack. -/
def deferRoom (st : Strand) : Nat := 64 - st.deferHeight

/-- The split that goes on takes its group and its clause ends there. -/
def goOn (s : State) (r : SplitRef) (g : Group) : State :=
  let sp := s.split r
  endClause (s.setSplit r { sp with mask := g.lanes, traps := sp.traps ++ targetTrap g }) r (BitVec.ofInt 48 g.target)

/-- Later groups of a transfer take free indices in order; the rest are pushed, last group first (R135). -/
def placeGroups (s : State) (r : SplitRef) (rpc : BitVec 48) : List Group → State
  | [] => s
  | g :: gs =>
    match (if (s.split r).hm then none else freeSplit (s.strand r)) with
    | some i => placeGroups (openSplit s r i g) r rpc gs
    | none => (g :: gs).reverse.foldl (fun s g => pushDefer s r (BitVec.ofInt 48 g.target) rpc g.lanes) s

/-- How many later groups find no index. -/
def deferNeed (s : State) (r : SplitRef) (later : Nat) : Nat :=
  if (s.split r).hm then later
  else later - (List.range 4).countP (fun i => ((s.strand r).split i).state == .free)

/-- A transfer to groups of lanes: the first keeps the split's entry (R135). -/
def transfer (v : View) (s : State) (rpc : BitVec 48) (gs : List Group) : Res :=
  match gs with
  | [] => .moved (endClause s v.r v.next)
  | g :: later =>
    if deferNeed s v.r later.length > deferRoom v.st then .trap { code := trapSplitStack, lanes := v.eff } s
    else .moved (goOn (placeGroups s v.r rpc later) v.r g)

/-- A branch of the effective lanes (R131, R286, R287). -/
def branch (v : View) (s : State) (target : Int) (rpc : BitVec 48) : Res :=
  let t := v.eff
  let f := v.sp.mask &&& ~~~t
  let next : Group := ⟨v.next.toNat, f⟩
  if t = 0 then .moved (endClause s v.r v.next)
  else if f = 0 then .moved (goOn s v.r ⟨target, t⟩)
  else
    match (if v.sp.hm then none else freeSplit v.st) with
    | some i => .moved (goOn (openSplit s v.r i ⟨target, t⟩) v.r next)
    | none =>
      if deferRoom v.st = 0 then .trap { code := trapSplitStack, lanes := v.eff } s
      else .moved (goOn (pushDefer s v.r v.next rpc f) v.r ⟨target, t⟩)

/-- H + 8 × sext(IMM32) (R285). -/
def relTarget (v : View) (imm : BitVec 32) : Int := (v.h.toNat : Int) + 8 * imm.toInt

/-- BRA (R286). -/
def execBra (c : Ctl) (imm : BitVec 32) (s : State) :=
  run (.bra c imm) c s fun v s => branch v s (relTarget v imm) 0

/-- BR (R287). -/
def execBr (c : Ctl) (dist : BitVec 9) (imm : BitVec 32) (s : State) :=
  run (.br c dist imm) c s fun v s =>
    branch v s (relTarget v imm) (if dist = 0 then 0 else v.next + BitVec.ofNat 48 (8 * dist.toNat))

/-- The link written before a transfer, unless the transfer traps (R99, R288). -/
def linked (before after : State) (go : State → Res) : Res :=
  match go after with
  | .trap t _ => .trap t before
  | x => x

/-- CALL (R288). -/
def execCall (c : Ctl) (d : Operand) (imm : BitVec 32) (s : State) :=
  run (.call c d imm) c s fun v s =>
    let link := List.replicate 96 (v.next.setWidth 64)
    linked s (if v.eff = 0 then s else putLanes64 s v.r d v.eff link) fun s => branch v s (relTarget v imm) 0

/-- The groups of lanes with one target, by the lowest lane left (R135). -/
def elect (target : Nat → DWord) : Nat → LaneMask → List Group
  | 0, _ => []
  | fuel + 1, rest =>
    match lowLane rest with
    | none => []
    | some e =>
      let g := rest &&& maskWhere (fun l => rest.getLsbD l && target l == target e)
      ⟨(target e).toNat, g⟩ :: elect target fuel (rest &&& ~~~g)

/-- The trace of a transfer with more than one election (R521). -/
def traceTransfer (s : State) (v : View) (n : Nat) (isRet : Bool) : State :=
  if n > 1 then
    traceRecord s (coreCluster v.r.core) 5
      (v.h.toNat / 8 * 2 ^ 19 + n % 128 * 2 ^ 12 + (if isRet then 2 ^ 11 else 0) + v.r.core % 256 * 8)
  else s

/-- Elect and repeat over per-lane targets (R135, R289). `link` writes the link of CALLX. -/
def electTransfer (v : View) (s : State) (a : Operand) (rpc : BitVec 48) (isRet : Bool) (link : State → State) : Res :=
  let t := fun l => v.rd64 a l
  let bad := maskWhere (fun l => v.eff.getLsbD l && ((t l).extractLsb' 0 3 != 0 || (t l).extractLsb' 48 16 != 0))
  if bad != 0 then .trap { code := trapIllegalClause, lanes := bad } s
  else
    let els := elect t 96 v.eff
    let f := v.sp.mask &&& ~~~v.eff
    let gs := (if f = 0 && !els.isEmpty then [] else [⟨v.next.toNat, f⟩]) ++ els
    linked s (traceTransfer (link s) v els.length isRet) fun s => transfer v s rpc gs

/-- BRX (R289). -/
def execBrx (c : Ctl) (a : Operand) (s : State) :=
  run (.brx c a) c s fun v s => electTransfer v s a 0 false id

/-- CALLX (R290). -/
def execCallx (c : Ctl) (d a : Operand) (s : State) :=
  run (.callx c d a) c s fun v s =>
    electTransfer v s a v.next false fun s =>
      if v.eff = 0 then s else putLanes64 s v.r d v.eff (List.replicate 96 (v.next.setWidth 64))

/-- RET (R291). -/
def execRet (c : Ctl) (a : Operand) (s : State) :=
  run (.ret c a) c s fun v s => electTransfer v s a 0 true id

/-- RECONV (R292): in handler mode it does not park (R134). -/
def execReconv (c : Ctl) (s : State) :=
  run (.reconv c) c s fun v s =>
    .done (if v.eff = 0 || v.sp.hm then s else s.setSplit v.r { s.split v.r with reconv := some (v.h, v.next) })

/-- EXIT (R293). -/
def execExit (c : Ctl) (s : State) :=
  run (.exit c) c s fun v s =>
    let x := if v.sp.hm then v.sp.own else v.eff
    if x = 0 then .moved (endClause s v.r v.next)
    else if v.sp.own &&& ~~~x = 0 then .moved (exitLanes s v.r x)
    else .moved (endClause (exitLanes s v.r x) v.r v.next)

/-- YIELD (R294). -/
def execYield (c : Ctl) (s : State) :=
  run (.yield c) c s fun v s =>
    let k := s.core v.r.core
    let q := k.sched.get {} (v.r.slot / 6)
    let s := if v.eff = 0 then s else s.setCore v.r.core { k with sched := k.sched.set (v.r.slot / 6) { q with gave := true } }
    .moved (endClause s v.r v.next)

/-! Sleeps and traps. -/

/-- SLEEP (R295). -/
def execSleep (c : Ctl) (a : Operand) (s : State) :=
  run (.sleep c a) c s fun v s =>
    let n := (v.rd a 0).toNat
    .done (if v.eff = 0 || n = 0 then s else beginWait s v (.sleep (s.tick + n)))

/-- SLEEPU (R296). -/
def execSleepu (c : Ctl) (a : Operand) (s : State) :=
  run (.sleepu c a) c s fun v s =>
    let t := (v.rd64 a 0).toNat
    .done (if v.eff = 0 || t ≤ s.globalTick then s else beginWait s v (.sleep (s.tick + (t - s.globalTick))))

/-- TRAP (R297). -/
def execTrap (c : Ctl) (imm : BitVec 8) (s : State) :=
  run (.trap c imm) c s fun v s =>
    if v.eff = 0 then .done s
    else .trap { code := trapSw, lanes := v.eff, info := imm.setWidth 64 } s

/-- BKPT (R298): an armed breakpoint stop is set for 64 ticks later, and the trap is taken after the device resumes
(R524). -/
def execBkpt (c : Ctl) (s : State) :=
  run (.bkpt c) c s fun v s =>
    let t : TrapRec := { code := trapBkpt, lanes := v.eff }
    let d := s.dev
    if v.eff = 0 then .done s
    else if (s.prog v.r).stage = 1 then (if d.armed || d.stopped.isSome then .stay 26 s else .trap t s)
    else if d.bkStop && d.bkCtx = v.st.ctx && !d.armed && d.stopped.isNone then
      let s := { s with dev := { d with stopTick := BitVec.ofNat 64 (s.tick + 64), armed := true, cause := 1 } }
      .stay 26 (s.setProg v.r { s.prog v.r with stage := 1 })
    else .trap t s

/-! The return from a handler (R299). -/

/-- The frame of a strand's slot as its core reads it. -/
def readFrame (s : State) (r : SplitRef) : List Byte :=
  (loadSpan s r.core (frameKey r.core r.slot) { ctx := (s.strand r).ctx } 64 3328).2.1

/-- A field of the frame header. -/
def frameField (f : List Byte) (lo w : Nat) : Nat := leNat (f.take 64) / 2 ^ lo % 2 ^ w

/-- The temporaries of a frame (R101). -/
def frameTemps (f : List Byte) : Tab LaneVec :=
  (List.range 8).map (fun i => (i, (List.range 96).map (fun l =>
    BitVec.ofNat 32 (leNat ((f.drop (256 + 384 * i + 4 * l)).take 4)))))

/-- Deferred entries of a split pushed in handler mode are removed, and their lanes exit (R132). -/
def dropHandlerDefers (s : State) (r : SplitRef) : State :=
  let es := deferStack s r.core r.slot
  let mine := es.filter (fun e => e.spl == r.split && e.hm)
  if mine.isEmpty then s
  else
    let s := putDefers s r.core r.slot (es.filter (fun e => !(e.spl == r.split && e.hm)))
    let sp := s.split r
    exitLanes (s.setSplit r { sp with ndef := sp.ndef - mine.length }) r (mine.foldl (fun m e => m ||| e.mask) 0)

/-- An interval record with no view left to write: its lane delivers nothing (R251). -/
def clearViews (x : BitVec 512) : BitVec 512 := x &&& ~~~(BitVec.ofNat 512 ((2 ^ 64 - 1) * 2 ^ 320))

/-- The strand's flags as a frame holds them (R97). -/
def frameFlags (f : List Byte) : Flags := BitVec.ofNat 5 (frameField f 490 5)

/-- TRET in handler mode, with the frame it reads (R299). A lane that its RES of exit ends delivers no interval. -/
def handlerReturn (s : State) (r : SplitRef) (f : List Byte) : State :=
  let s := dropHandlerDefers (s.setStrand r { s.strand r with flags := frameFlags f }) r
  let st := s.strand r
  let sp := st.split r.split
  let pc := frameField f 384 64
  let pos := frameField f 495 5
  let late := frameField f 489 1 = 1
  let rpc := BitVec.ofNat 48 (leNat ((f.drop 64).take 8))
  let rpos := frameField f 484 5
  let mask := BitVec.ofNat 96 (frameField f 192 96) &&& sp.own
  let sp := { sp with
    mask := mask, hm := false, state := .ready, clause := none, temps := frameTemps f, tickHi := none, prog := {}
    stall := 0, pc := BitVec.ofNat 48 pc, traps := sp.traps ++ targetTrap ⟨pc, mask⟩ }
  let put (e : Entry) : State := freeSched (s.setSplit r { sp with entry := e }) r
  if !(st.split r.split).hm then s
  else match frameField f 502 2 with
    | 0 => put { pos := pos, waits := false, keep := true, alone := if late then some (rpc, rpos) else none }
    | 1 => if late then resumeAt (put {}) r rpc rpos else put { pos := pos + 1, waits := false, keep := true }
    | _ =>
      let own := sp.own
      exitLanes (s.setStrand r { st with staged := { st.staged with
        recs := st.staged.recs.map (fun e => if own.getLsbD e.1 then (e.1, clearViews e.2) else e) } }) r own

/-- TRET (R299). -/
def execTret (c : Ctl) (s : State) :=
  run (.tret c) c s fun v s =>
    if !v.sp.hm then .trap { code := trapIllegalOp, lanes := v.eff } s
    else .moved (handlerReturn s v.r (readFrame s v.r))

end Sys2Proof.Machine
end

