-- ==== Sys2Proof/Machine/Matrix.lean ====
section
/-! DEFINITION. Tensor identifiers, gangs, codebooks, the matrix unit and the accumulator instructions (18 R452-R469, 02
R40-R47). -/
namespace Sys2Proof.Machine

/-! Accesses of strand-wide instructions. -/

/-- The checks of an access through a segment number, over numbered items in place of lanes. -/
def View.checkSeg (v : View) (seg : Nat) (need : Need) (offs : List (Nat × Int)) : Access :=
  gather (offs.map (fun e => (e.1, checkOffset v.s v.r.core v.r.slot v.st seg need e.2)))

/-- A trap of a strand-wide instruction names the effective lanes. -/
def Access.whole (x : Access) (lanes : LaneMask) : Access :=
  match x with
  | .trap t pages => .trap { t with lanes := lanes } pages
  | x => x

/-- Offsets of numbered items. -/
def numbered (offs : List Nat) : List (Nat × Int) := offs.zipIdx.map (fun e => (e.2, (e.1 : Int)))

/-- Ordinary loads made in place (R466), and what follows with their bytes, in order. -/
def loadInPlace (v : View) (s : State) (seg n align : Nat) (offs : List Nat) (k : State → List (List Byte) → Res) : Res :=
  withAccess v s ((v.checkSeg seg { n := n, writes := false, spaces := spacesAll, align := align } (numbered offs)).whole v.eff)
    fun ps =>
      let (s', xs) := eachPlace (loadPlace v.r.core n) s ps
      let bad := xs.filterMap (fun e => e.2.2.map (fun f => (e.1, f)))
      if bad.any (fun e => e.2 == .held) then .stay 14 s
      else match failTrap bad with
        | some t => .trap { t with lanes := v.eff } s'
        | none => k s' (xs.map (fun e => e.2.1))

/-- The extent of a tid's dimension 1 when it is read as a matrix. -/
def tidRows (x : BitVec 512) : Nat := if tidRank x ≥ 2 then tidDim x 1 else 1

/-- An illegal operation of a strand-wide instruction. -/
def View.illegal (v : View) : TrapRec := { code := trapIllegalOp, lanes := v.eff }

/-! Tensor identifiers (R454, R455). -/

/-- TID.LD (R454): the entry is read, checked and installed for every cluster at once. -/
def execTidLd (c : Ctl) (a b : Operand) (s : State) :=
  run (.tidLd c a b) c s fun v s =>
    let n := (v.rd a 0).toNat
    if v.eff = 0 then .done s
    else if n ≥ 1024 then .trap v.illegal s
    else loadInPlace v s 7 64 64 [(v.rd64 b 0).toNat] fun s xs =>
      let x := BitVec.ofNat 512 (leNat xs.flatten)
      if !tidAccepted x (segBase (v.st.segs.get 0 3)) then .trap v.illegal s
      else if tierBound s v.st.ctx n then .trap { code := trapTierState, lanes := v.eff } s
      else .done (installTid s v.st.ctx n x)

/-- TID.INV (R455). -/
def execTidInv (c : Ctl) (a : Operand) (s : State) :=
  run (.tidInv c a) c s fun v s =>
    let n := (v.rd a 0).toNat
    if v.eff = 0 then .done s
    else match namedTid s v.st.ctx n with
      | none => .trap v.illegal s
      | some _ =>
        if tierBound s v.st.ctx n then .trap { code := trapTierState, lanes := v.eff } s
        else .done (installTid s v.st.ctx n 0)

/-! Gangs and codebooks (R456, R457). -/

/-- Whether a strand's own gang operations have yet to retire. -/
def gangBusy (k : Core) (ctx : Nat) (number : BitVec 16) : Bool :=
  k.cascade.any (fun x => x.gang && x.ctx == ctx && x.strand == number)

/-- GANG (R456). -/
def execGang (c : Ctl) (a : Operand) (s : State) :=
  run (.gang c a) c s fun v s =>
    let x := v.rdQuad a
    if v.eff = 0 then .done s
    else if !gangLegal x v.r.core v.r.slot then .trap v.illegal s
    else if gangBusy (s.core v.r.core) v.st.ctx v.st.number then .stay 12 s
    else .done (writeGang s v.r.core v.r.slot x)

/-- CB.LD (R457). -/
def execCbLd (c : Ctl) (d a : Operand) (s : State) :=
  run (.cbLd c d a) c s fun v s =>
    match d with
    | .c n =>
      let x := BitVec.ofNat 256 (leNat ((List.range 8).flatMap (fun i => leBytes 4 (v.rd (a.after i) 0).toNat)))
      .done (if v.eff = 0 then s else s.setStrand v.r { v.st with cb := v.st.cb.set n.toNat x })
    | _ => .done s

/-! The operands of a matrix operation (R460, R463). -/

/-- The spans of bytes that a block of rows and columns of a tid takes, inside its dimensions. -/
def tidSpans (x : BitVec 512) (i0 n0 i1 n1 : Nat) : List (Nat × Nat) :=
  let last := min (i0 + n0) (tidDim x 0)
  if last ≤ i0 then []
  else (List.range n1).filterMap (fun k =>
    if i1 + k < tidRows x then
      let o := elemOff x i0 (i1 + k)
      some (o, elemOff x (last - 1) (i1 + k) + fmtBytes (tidFmt x) - o)
    else none)

/-- The places of a span at which what may be touched can change. -/
def spanMarks (a n : Nat) : List Nat :=
  a :: ((List.range (n / 0x20000 + 1)).map (fun i => (a / 0x20000 + 1 + i) * 0x20000)).filter (fun b => b < a + n)

/-- The fault of a span of operand bytes: a limit, or a home outside the executing cluster (R425). -/
def View.spanFault (v : View) (seg : Nat) (e : Nat × Nat) : Option (Nat × Nat) :=
  let sg := v.st.segs.get 0 seg
  if e.1 + e.2 > segLimit sg then some (trapSegLimit, segBase sg + e.1)
  else match segAddr v.s v.r.core v.st seg e.1 with
    | .sram a =>
      if (spanMarks a e.2).all (fun b =>
          b / regionSize == coreCluster v.r.core && sramAllowed v.s v.r.core v.r.slot v.st seg b 1) then none
      else some (trapPerm, a)
    | _ => some (trapPerm, segBase sg + e.1)

/-- The trap of operand spans, the lowest code first. -/
def View.spanTrap (v : View) (seg : Nat) (es : List (Nat × Nat)) : Option TrapRec :=
  match es.filterMap (v.spanFault seg) with
  | [] => none
  | x :: xs =>
    let y := xs.foldl (fun y z => if z.1 < y.1 then z else y) x
    some { code := y.1, lanes := v.eff, addr := y.2 }

/-- A byte of an operand: the youngest entry of the issuing core's phase buffer that covers it, else its home (R460). -/
def operandByte (s : State) (c key : Nat) : Byte :=
  (coveringByte (s.core c).q (lineOf key) (key % 64)).getD (s.mem.read key)

/-- The code of an operand's element; none outside its dimensions (R458). -/
def CascadeOp.elem (x : CascadeOp) (s : State) (c : Nat) (t : BitVec 512) (i0 i1 : Nat) : Option Nat :=
  if i0 ≥ tidDim t 0 || i1 ≥ tidRows t then none
  else
    let f := tidFmt t
    match segAddr s c { segs := x.segs, scratch := x.scratch } (tidSeg t) (elemOff t i0 i1) with
    | .sram a =>
      let b := leNat ((List.range (fmtBytes f)).map (fun i => operandByte s c (sramKey (a + i))))
      some (if f.width = 4 then b / 16 ^ (i0 % 2) % 16 else b)
    | _ => none

/-- The codes of A that multiply row k of B: one, or, with 2:4 sparsity, those of the kept values that stand there
(R463). -/
def CascadeOp.aCodes (x : CascadeOp) (s : State) (c m k : Nat) : List (Option Nat) :=
  match x.kind with
  | .sparse =>
    let g := k / 4
    let h := (x.elem s c x.md (g / 8) m).getD 0 / 16 ^ (g % 8) % 16
    (if h % 4 = k % 4 then [x.elem s c x.ta (2 * g) m] else []) ++
      (if h / 4 = k % 4 then [x.elem s c x.ta (2 * g + 1) m] else [])
  | _ => [x.elem s c x.ta k m]

/-- The exact value of an operand's code; +0 outside its dimensions (R30, R45, R458). -/
def operandValue (f : Fmt) (book : BitVec 256) (e4m3 : Bool) (x : Option Nat) : FVal :=
  match x with
  | none => .fin false 0 0
  | some y =>
    match f with
    | .lut4 => codebookValue e4m3 book y
    | .i4 | .n4 => intFVal (intValue f y)
    | _ => fmtValue f y

/-! Accumulation (R41-R45). -/

/-- Whether a group's own products are invalid: a NaN, 0 × ∞, or infinities of both signs (R41). -/
def invalidGroup (ps : List (FVal × Bool)) : Bool :=
  ps.any (fun p => p.2 || p.1.isNan) || (ps.any (fun p => p.1 == .inf false) && ps.any (fun p => p.1 == .inf true))

/-- One group summed exactly with the accumulator and rounded once (R41). -/
def groupSum (acc : Word) (ps : List (FVal × Bool)) : Word × Flags :=
  if invalidGroup ps then (BitVec.ofNat 32 ff32.nanCode, flagNV)
  else
    let (x, inv) := sumV .rne (ff32.decode acc.toNat :: ps.map (·.1))
    let (y, f) := ff32.put .rne false x
    (BitVec.ofNat 32 y, flagIf inv flagNV ||| (f &&& flagOF))

/-- The products of one k: of each kept value of A with B, or, where sparsity dropped A, of +0, which adds no −0 (R42). -/
def productsAt (as_ : List FVal) (b : FVal) : List (FVal × Bool) :=
  match as_ with
  | [] => match mulV (.fin false 0 0) b with
    | (.fin .., _) => [(.fin false 0 0, false)]
    | p => [p]
  | _ => as_.map (fun a => mulV a b)

/-- A step's four groups over an element (R41). -/
def floatStep (acc : Word) (as_ : List (List FVal)) (bs : List FVal) : Word × Flags :=
  (List.range 4).foldl (fun e g =>
    let ps := (List.range 8).flatMap (fun i => productsAt (as_.getD (8 * g + i) []) (bs.getD (8 * g + i) (.fin false 0 0)))
    let (y, f) := groupSum e.1 ps
    (y, e.2 ||| f)) (acc, noFlag)

/-- A step's four groups over a row sum (R45). -/
def rowSumStep (acc : Word) (as_ : List (List FVal)) : Word × Flags :=
  (List.range 4).foldl (fun e g =>
    let (y, f) := groupSum e.1 ((List.range 8).flatMap (fun i => (as_.getD (8 * g + i) []).map (fun a => (a, false))))
    (y, e.2 ||| f)) (acc, noFlag)

/-- The integer product of two codes: LNS6 (R29) or integers. -/
def intProduct (fa fb : Fmt) (a b : Option Nat) : Int :=
  if fa == .lns6 then lnsProduct (a.getD 0x10) (b.getD 0x10)
  else (match a with | some x => intValue fa x | none => 0) * (match b with | some x => intValue fb x | none => 0)

/-- Products added to an INT32 accumulator, saturating one at a time or wrapping (R43). -/
def intStep (sat : Bool) (acc : Word) (ps : List Int) : Word × Flags :=
  if sat then
    ps.foldl (fun e p =>
      let (y, ch) := clampInt .i32 (e.1.toInt + p)
      (BitVec.ofInt 32 y, e.2 ||| flagIf ch flagOF)) (acc, noFlag)
  else (BitVec.ofInt 32 (acc.toInt + ps.sum), noFlag)

/-- The codes of A and of B that a core reads for a step of an operation (R460). -/
def CascadeOp.tileA (x : CascadeOp) (s : State) (c step : Nat) : TileCodes :=
  (List.range (groupSize x.wide)).map (fun i => (List.range 32).map (fun q => x.aCodes s c (x.m0 + i) (x.k0 + 32 * step + q)))
def CascadeOp.tileB (x : CascadeOp) (s : State) (c step : Nat) : TileCodes :=
  (List.range (groupSize x.wide)).map (fun j =>
    (List.range 32).map (fun q => [x.elem s c x.tb (x.n0 + j) (x.k0 + 32 * step + q)]))

/-- The elements of a matrix after a step, with flags, and the row sums, from the step's codes (R460). -/
def CascadeOp.results (x : CascadeOp) (k : Core) (as_ bs : TileCodes) : List (List (Word × Flags)) × List (Word × Flags) :=
  let fa := tidFmt x.ta
  let fb := tidFmt x.tb
  let bs := bs.map (fun r => r.map (fun e => (e.head?).getD none))
  match x.tag with
  | .f | .q =>
    let av := as_.map (fun r => r.map (fun e => e.map (operandValue fa 0 false)))
    let bv := bs.map (fun r => r.map (operandValue fb x.book (tidBookE4m3 x.tb)))
    (av.zipIdx.map (fun r => bv.zipIdx.map (fun q => floatStep (k.acc x.tile r.2 q.2) r.1 q.1)),
      av.zipIdx.map (fun r => rowSumStep (k.rowSum x.tile r.2) r.1))
  | _ =>
    (as_.zipIdx.map (fun r => bs.zipIdx.map (fun q => intStep x.sat (k.acc x.tile r.2 q.2)
      ((r.1.zip q.1).flatMap (fun e => e.1.map (fun a => intProduct fa fb a e.2))))), [])

/-- Flags raised in the strand of a context and number, wherever it is kept. -/
def raiseStrand (s : State) (c ctx : Nat) (number : BitVec 16) (f : Flags) : State :=
  match findStrand s c ctx number with
  | none => s
  | some p => setKept s c p ((keptStrand s c p).raised f)

/-- The last step of an operation: its tiles lose an owner and its flags are raised (R460, R37). -/
def retireCascade (s : State) (c : Nat) (x : CascadeOp) : State :=
  let k := (s.core c).updGroup x.wide x.tile (fun t => { t with owners := t.owners - 1 })
  raiseStrand (s.setCore c { k with cascade := k.cascade.drop 1 }) c x.ctx x.strand x.flags

/-! Multicast to the members of a gang (R14). -/

/-- The operations of a gang in the sequencers of a cluster, each with its core. -/
def gangOps (s : State) (k g : Nat) : List (Nat × CascadeOp) :=
  (s.cores.filter (fun e => coreCluster e.1 == k)).flatMap (fun e =>
    (e.2.cascade.filter (fun y => y.group == some g)).map (fun y => (e.1, y)))

/-- Whether a member's receive buffers take a further step of a tile (log 148). -/
def hasRoomFor (fed : Tab TileCodes) : Bool := fed.length ≤ Config.receiveSteps

/-- The operations of a gang in a core's sequencer changed. -/
def Core.mapGang (k : Core) (g : Nat) (f : CascadeOp → CascadeOp) : Core :=
  { k with cascade := k.cascade.map (fun y => if y.group == some g then f y else y) }

/-- A tile of A read once for a step, and delivered to every member that names it and has not had it; held until every one
has room (R14). -/
def feedA (s : State) (c g : Nat) (x : CascadeOp) : Option State :=
  let lacks (y : CascadeOp) : Bool := y.m0 == x.m0 && y.step ≤ x.step && (y.fedA.find x.step).isNone
  let dst := (gangOps s (coreCluster c) g).filter (fun e => lacks e.2)
  if (x.fedA.find x.step).isSome then some s
  else if dst.all (fun e => hasRoomFor e.2.fedA) then
    some (dst.foldl (fun t e => t.setCore e.1 ((t.core e.1).mapGang g (fun y =>
      { y with fedA := y.fedA.set x.step (e.2.tileA s e.1 x.step) }))) s)
  else none

/-- The same for a tile of B. -/
def feedB (s : State) (c g : Nat) (x : CascadeOp) : Option State :=
  let lacks (y : CascadeOp) : Bool := y.n0 == x.n0 && y.step ≤ x.step && (y.fedB.find x.step).isNone
  let dst := (gangOps s (coreCluster c) g).filter (fun e => lacks e.2)
  if (x.fedB.find x.step).isSome then some s
  else if dst.all (fun e => hasRoomFor e.2.fedB) then
    some (dst.foldl (fun t e => t.setCore e.1 ((t.core e.1).mapGang g (fun y =>
      { y with fedB := y.fedB.set x.step (e.2.tileB s e.1 x.step) }))) s)
  else none

/-- The codes of the next step of the operation at the head of a core's sequencer, read by the core or, for a gang,
delivered to it; none while a delivery is held. -/
def stepCodes (s : State) (c : Nat) (x : CascadeOp) : Option (State × TileCodes × TileCodes) :=
  match x.group with
  | none => some (s, x.tileA s c x.step, x.tileB s c x.step)
  | some g =>
    match feedA s c g x with
    | none => none
    | some s =>
      match feedB s c g x with
      | none => none
      | some s =>
        match (s.core c).cascade with
        | [] => none
        | y :: _ => some (s, (y.fedA.find x.step).getD [], (y.fedB.find x.step).getD [])

/-- One step of the matrix operation at the head of a core's sequencer (R460). -/
def matrixStep (s : State) (c : Nat) (x : CascadeOp) : State :=
  match stepCodes s c x with
  | none => s
  | some (s, as_, bs) =>
    match (s.core c).cascade with
    | [] => s
    | x :: rest =>
      let (vals, sums) := x.results (s.core c) as_ bs
      let k := (s.core c).putBlock x.wide x.tile (fun i j => ((vals.getD i []).getD j (0, 0)).1)
      let k := if x.tag = .q then k.putSums x.wide x.tile (fun i => (sums.getD i (0, 0)).1) else k
      let fl := joinFlags (vals.flatten.map (·.2)) ||| (if x.tag = .q then joinFlags (sums.map (·.2)) else noFlag)
      let x := { x with
        step := x.step + 1, flags := x.flags ||| fl, fedA := x.fedA.del x.step, fedB := x.fedB.del x.step }
      let s := s.setCore c { k with cascade := x :: rest }
      if x.step < x.steps then s else retireCascade s c x

/-! The matrix instructions (R460-R464). -/

/-- Whether a joint tile's position holds a quadrant (R461). -/
def holdsQuadrant (n q : Nat) : Bool := if n ≤ 3 then q < 2 else q < 4

/-- The rows and columns a quadrant is offset by (R461). -/
def quadrantOffset (n q : Nat) : Nat × Nat := if n ≤ 3 then (0, 128 * q) else (128 * (q / 2), 128 * (q % 2))

/-- The operation of a core over the quad's values, with its issue checks (R460). -/
def View.matrixOp (v : View) (kind : MmaKind) (sat : Bool) (shape : Shape) (d a : Operand) : Except TrapRec (Option CascadeOp) :=
  let w := (v.rd a 0).toNat
  let g := v.st.gang
  let feeder := shape == .gang && !holdsQuadrant (gangCount g) (gangPos g)
  let off := if shape == .gang then quadrantOffset (gangCount g) (gangPos g) else (0, 0)
  let m0 := (v.rd (a.after 1) 0).toNat + off.1
  let k0 := (v.rd (a.after 2) 0).toNat
  let n0 := (v.rd (a.after 3) 0).toNat + off.2
  let wide := shape != .tile
  let n := groupSize wide
  let steps := w / 2 ^ 20 + 1
  match namedTid v.s v.st.ctx (w % 2 ^ 10), namedTid v.s v.st.ctx (w / 2 ^ 10 % 2 ^ 10) with
  | some ta, some tb =>
    let md := if kind == .sparse then (if tidHasMeta ta then namedTid v.s v.st.ctx (tidMeta ta) else none) else some 0
    match md, pathTag kind (tidFmt ta) (tidFmt tb) (tidBookE4m3 tb) with
    | some md, some tag =>
      if tidKind ta != 0 || tidKind tb != 0 || (kind == .sparse && tidKind md != 2) || (sat && (tag == .f || tag == .q)) then
        .error v.illegal
      else if feeder then .ok none
      else if (wide && tileOf d % 4 != 0) || !(v.s.core v.r.core).tagFits wide (tileOf d) tag then .error v.illegal
      else
        let aSpans := if kind == .sparse then tidSpans ta (k0 / 4 * 2) (16 * steps + 2) m0 n else tidSpans ta k0 (32 * steps) m0 n
        let mSpans := if kind == .sparse then tidSpans md (k0 / 32) (steps + 1) m0 n else []
        match v.spanTrap (tidSeg ta) aSpans, v.spanTrap (tidSeg tb) (tidSpans tb n0 n k0 (32 * steps)),
            v.spanTrap (tidSeg md) mSpans with
        | some t, _, _ => .error t
        | _, some t, _ => .error t
        | _, _, some t => .error t
        | none, none, none => .ok (some {
            kind := kind, sat := sat, gang := shape == .gang, ctx := v.st.ctx, strand := v.st.number, tile := tileOf d
            wide := wide, m0 := m0, n0 := n0, k0 := k0, steps := steps, ta := ta, tb := tb, md := md
            book := v.st.cb.get 0 (tidBook tb), segs := v.st.segs, scratch := v.st.scratch })
    | _, _ => .error v.illegal
  | _, _ => .error v.illegal

/-- What an arrived member does next (R146). -/
def gangOutcome (v : View) (s : State) : Res :=
  match (s.prog v.r).stage with
  | 2 => .done s
  | 3 => .trap { code := trapGangMismatch, lanes := v.eff } s
  | 4 => .trap { code := trapGangStall, lanes := v.eff } s
  | _ => .stay 11 s

/-- An MMA form (R460): into the sequencer at once, or, with SHAPE 2, through the cuff latch after a release. -/
def matrixIssue (v : View) (s : State) (kind : MmaKind) (sat : Bool) (shape : Shape) (d a : Operand) : Res :=
  if v.eff = 0 then .done s
  else if (s.prog v.r).stage ≠ 0 then gangOutcome v s
  else if shape == .gang && gangCount v.st.gang < 2 then .trap v.illegal s
  else match v.matrixOp kind sat shape d a with
    | .error t => .trap t s
    | .ok op =>
      match shape with
      | .gang => releaseThen v s .clu 16 fun s =>
        let call : GangCall := {
          kind := kind, sat := sat, quad := (List.range 4).map (fun i => v.rd (a.after i) 0), list := gangList v.st.gang }
        gangOutcome v (arriveGang s (coreCluster v.r.core) v.st.ctx call
          { core := v.r.core, slot := v.r.slot, split := v.r.split, op := op })
      | _ => .done (match op with | some op => enterCascade s v.r.core op | none => s)

/-- MMA (R462). -/
def execMma (c : Ctl) (sat : Bool) (shape : Shape) (d a : Operand) (s : State) :=
  run (.mma c sat shape d a) c s fun v s => matrixIssue v s .dense sat shape d a

/-- MMA.SP (R463). -/
def execMmaSp (c : Ctl) (sat : Bool) (shape : Shape) (d a : Operand) (s : State) :=
  run (.mmaSp c sat shape d a) c s fun v s => matrixIssue v s .sparse sat shape d a

/-- MMA.Q (R464). -/
def execMmaQ (c : Ctl) (sat : Bool) (shape : Shape) (d a : Operand) (s : State) :=
  run (.mmaQ c sat shape d a) c s fun v s => matrixIssue v s .quant sat shape d a

/-! The accumulator instructions (R465-R469). -/

/-- What follows once a tile or group has no owners, waited for under reason 12 (R17). -/
def whenOwned (v : View) (s : State) (wide : Bool) (d : Operand) (k : Nat → State → Res) : Res :=
  if v.eff = 0 then .done s
  else if (s.core v.r.core).owned wide (tileOf d) then .stay 12 s
  else k (tileOf d) s

/-- ACC.ZERO (R465). -/
def execAccZero (c : Ctl) (wide : Bool) (d : Operand) (s : State) :=
  run (.accZero c wide d) c s fun v s => whenOwned v s wide d fun t s =>
    .done (s.setCore v.r.core ((s.core v.r.core).updGroup wide t (fun _ => {})))

/-- The tag a TAG code names (R466). -/
def tagOfCode (n : Nat) : TileTag :=
  match n with
  | 0 => .f
  | 1 => .i
  | 2 => .l
  | _ => .q

/-- The rows of a block that lie in a tid, and the columns (R466, R467). -/
def blockRows (x : BitVec 512) (wide : Bool) (row0 : Nat) : List Nat :=
  (List.range (groupSize wide)).filter (fun i => row0 + i < tidRows x)
def blockCols (x : BitVec 512) (wide : Bool) (col0 : Nat) : List Nat :=
  (List.range (groupSize wide)).filter (fun j => col0 + j < tidDim x 0)

/-- A value of a list of values by item. -/
def wordOf {α : Type} [DecidableEq α] (xs : List (α × List Byte)) (k : α) : Word :=
  match xs.find? (fun e => e.1 = k) with
  | some e => BitVec.ofNat 32 (leNat e.2)
  | none => 0

/-- The row-sum offset that names none (R458). -/
def noRso : Nat := 0xFFFFFFFF

/-- ACC.LD (R466). -/
def execAccLd (c : Ctl) (wide : Bool) (d a : Operand) (s : State) :=
  run (.accLd c wide d a) c s fun v s => whenOwned v s wide d fun t s =>
    let w := (v.rd a 0).toNat
    let row0 := (v.rd (a.after 1) 0).toNat
    let col0 := (v.rd (a.after 2) 0).toNat
    let rso := (v.rd (a.after 3) 0).toNat
    let tag := tagOfCode (w / 2 ^ 12 % 4)
    match namedTid s v.st.ctx (w % 2 ^ 10) with
    | none => .trap v.illegal s
    | some x =>
      let want : Fmt := if tag == .i || tag == .l then .i32 else .f32
      if w / 2 ^ 10 % 4 != 0 || w / 2 ^ 14 != 0 || tidFmt x != want then .trap v.illegal s
      else
        let rows := blockRows x wide row0
        let cols := blockCols x wide col0
        let cells := rows.flatMap (fun i => cols.map (fun j => (i, j)))
        let sums := if tag == .q && rso != noRso then rows else []
        loadInPlace v s (tidSeg x) 4 4
          (cells.map (fun e => elemOff x (col0 + e.2) (row0 + e.1)) ++ sums.map (fun i => rso + 4 * i)) fun s bs =>
            let got := cells.zip bs
            let rgot := sums.zip (bs.drop cells.length)
            let k := (s.core v.r.core).updGroup wide t (fun _ => { tag := tag })
            let k := k.putBlock wide t (fun i j => wordOf got (i, j))
            .done (s.setCore v.r.core (k.putSums wide t (fun i => wordOf rgot i)))

/-- A value converted into a tid's format by the epilogue (R33, R38, R39, R467). -/
def epilogueConvert (f : Fmt) (sat : Bool) (x : FVal) : Nat × Flags :=
  match f with
  | .f32 | .f16 | .bf16 | .e4m3 | .e5m2 | .lns6 => fmtConvert f .rne sat false x
  | _ => ftoiV f .rne x

/-- An INT32 accumulator converted without a scale (R38, R39): into LNS6 through FP32. -/
def intConvert (f : Fmt) (sat : Bool) (x : Int) : Nat × Flags :=
  match f with
  | .lns6 =>
    let (y, g) := itofV .rne x
    let (z, h) := lnsEncode (ff32.decode y)
    (z, g ||| h)
  | .f32 | .f16 | .bf16 | .e4m3 | .e5m2 => fmtConvert f .rne sat false (intFVal x)
  | _ => putInt f sat x

/-- An element as the epilogue stores it (R47, R467). `zero` is none for a TMV's tid without a zero point, whose row sum is
not read (R48). -/
def epilogue (tag : TileTag) (f : Fmt) (sat : Bool) (scale : Option Word) (zero : Option Int) (rowSum acc : Word) : Nat × Flags :=
  let (x, fl) : FVal × Flags := match tag with
    | .q =>
      match zero with
      | none => (ff32.decode acc.toNat, noFlag)
      | some z =>
        let (t, g) := ff32.fma .rne false (intFVal z).negate (ff32.decode rowSum.toNat) (ff32.decode acc.toNat)
        (ff32.decode t, g)
    | .i => (intFVal acc.toInt, noFlag)
    | .l => (.fin (acc.toInt < 0) acc.toInt.natAbs (-16), noFlag)
    | _ => (ff32.decode acc.toNat, noFlag)
  match scale with
  | some w =>
    let (p, inv) := mulV (ff32.decode w.toNat) x
    let (y, g) := epilogueConvert f sat p
    (y, fl ||| g ||| flagIf inv flagNV ||| snanFlag [ff32.decode w.toNat, x])
  | none =>
    let (y, g) := if tag == .i then intConvert f sat acc.toInt else epilogueConvert f sat x
    (y, fl ||| g)

/-- Bytes stored by ACC.ST: segment offset, code, and which nibbles of a byte it covers (all where the format is wider). -/
structure AccByte where
  off  : Nat
  code : Nat
  low  : Bool
  high : Bool
  deriving DecidableEq, Repr

/-- The stores of a row of codes from a column on (R20, R467). -/
def rowStores (x : BitVec 512) (row col0 : Nat) (codes : List Nat) : List AccByte :=
  if (tidFmt x).width = 4 then
    let last := col0 + codes.length
    (List.range ((last + 1) / 2 - col0 / 2)).map (fun b =>
      let j := 2 * (col0 / 2 + b)
      let lo := if j ≥ col0 then codes.getD (j - col0) 0 else 0
      let hi := if j + 1 < last then codes.getD (j + 1 - col0) 0 else 0
      { off := elemOff x j row, code := lo % 16 + hi % 16 * 16, low := j ≥ col0, high := j + 1 < last })
  else codes.zipIdx.map (fun e => { off := elemOff x (col0 + e.2) row, code := e.1, low := true, high := true })

/-- Bytes of a store with the nibble it does not cover kept (R467). -/
def AccByte.bytes (b : AccByte) (n : Nat) (old : List Byte) : List Byte :=
  if b.low && b.high then leBytes n b.code
  else
    let o := (old.headD 0).toNat
    leBytes 1 ((if b.low then b.code % 16 else o % 16) + (if b.high then b.code / 16 else o / 16) * 16)

/-- The scales and zero points of a recorded tid for columns from its recorded column on (R46, R467), read as ordinary
loads. -/
def withScales (v : View) (s : State) (x : Tile) (cols : List Nat)
    (k : State → (Nat → Option Word) → (Nat → Option Int) → Res) : Res :=
  match x.tid with
  | none => k s (fun _ => none) (fun _ => some 0)
  | some t =>
    let soffs := if tidScaleMode t = 0 || x.tag == .free then [] else
      cols.map (fun j => tidScaleOff t + (if tidScaleMode t = 2 then 4 * (x.col + j) else 0))
    let zoffs := if tidHasZero t && x.tag == .q then cols.map (fun j => tidZeroOff t + (x.col + j) / 2) else []
    loadInPlace v s (tidScaleSeg t) 4 4 soffs fun s sb =>
      loadInPlace v s (tidZeroSeg t) 1 1 zoffs fun s zb =>
        let scales := cols.zip sb
        let zeros := cols.zip zb
        k s (fun j => if soffs.isEmpty then none else some (wordOf scales j))
          (fun j => if zoffs.isEmpty then (if tidKind t = 1 then none else some 0)
            else some (intValue (tidFmt t) ((wordOf zeros j).toNat / 16 ^ ((x.col + j) % 2) % 16)))

/-- Old bytes of the half-covered stores among places (R467). -/
def oldBytes (v : View) (s : State) (es : List (AccByte × Place)) : State × List (AccByte × Place × List Byte) × Option LoadFail :=
  es.foldl (fun acc e =>
    let (s, done, f) := acc
    if e.1.low && e.1.high then (s, done ++ [(e.1, e.2, [])], f)
    else
      let (s, bs, g) := loadBytes s v.r.core e.2.key 1 e.2.via
      (s, done ++ [(e.1, e.2, bs)], match f with | some f => some f | none => g)) (s, [], none)

/-- The stores of ACC.ST once its values are known (R467). -/
def accStores (v : View) (s : State) (x : BitVec 512) (stores : List AccByte) (sums : List (Nat × Word)) (fl : Flags) : Res :=
  let n := fmtBytes (tidFmt x)
  let half := stores.any (fun b => !(b.low && b.high))
  withAccess v s ((v.checkSeg (tidSeg x) { n := n, writes := true, needR := half, spaces := spacesAll, align := n }
      (numbered (stores.map (·.off)))).whole v.eff) fun ps =>
    withAccess v s ((v.checkSeg (tidSeg x) { n := 4, writes := true, needR := false, spaces := spacesAll, align := 4 }
        (numbered (sums.map (·.1)))).whole v.eff) fun qs =>
      match oldBytes v s (stores.zip ps) with
      | (_, _, some .held) => .stay 14 s
      | (s, _, some f) => .trap { code := f.code, lanes := v.eff } s
      | (s, es, none) =>
        let s := es.foldl (fun s e => storePlace s v.r.core e.2.1 (e.1.bytes n e.2.2)) s
        let s := (qs.zip sums).foldl (fun s e => storePlace s v.r.core e.1 (leBytes 4 e.2.2.toNat)) s
        .done (raiseFlags s v.r fl)

/-- ACC.ST (R467). -/
def execAccSt (c : Ctl) (wide sat : Bool) (a b : Operand) (s : State) :=
  run (.accSt c wide sat a b) c s fun v s => whenOwned v s wide a fun t s =>
    let w := (v.rd b 0).toNat
    let row0 := (v.rd (b.after 1) 0).toNat
    let col0 := (v.rd (b.after 2) 0).toNat
    let rso := (v.rd (b.after 3) 0).toNat
    let k := s.core v.r.core
    let tag := (k.tile t).tag
    match namedTid s v.st.ctx (w % 2 ^ 10) with
    | none => .trap v.illegal s
    | some x =>
      let f := tidFmt x
      if w / 2 ^ 10 != 0 || (tidKind x != 0 && tidKind x != 3) || f == .lut4 || (tag == .l && (Fmt.layout f).isNone && f != .lns6) then
        .trap v.illegal s
      else if tag == .free then .done s
      else
        let rows := blockRows x wide row0
        let cols := blockCols x wide col0
        withScales v s (k.tile t) cols fun s scale zero =>
          let vals := rows.map (fun i => (i, cols.map (fun j =>
            epilogue tag f sat (scale j) (zero j) (k.rowSum t i) (k.acc t i j))))
          let fl := joinFlags (vals.flatMap (fun r => r.2.map (·.2)))
          let stores := vals.flatMap (fun r => if cols.isEmpty then [] else rowStores x (row0 + r.1) col0 (r.2.map (·.1)))
          let sums := if tag == .q && rso != noRso then rows.map (fun i => (rso + 4 * i, k.rowSum t i)) else []
          accStores v s x stores sums fl

/-- What a lane of register r of ACC.GET names: a column, the row sum, or nothing (R468). -/
inductive AccLane
  | col (j : Nat) | sum | none_
  deriving DecidableEq, Repr

/-- The mapping of R468. -/
def accLane (wide : Bool) (r l : Nat) : AccLane :=
  if !wide then (if l < 64 then .col l else if l = 64 then .sum else .none_)
  else if r = 0 then .col l
  else if l < 32 then .col (96 + l) else if l = 32 then .sum else .none_

/-- The row an operand names. -/
def accRow (wide : Bool) (x : Word) : Nat := x.toNat % groupSize wide

/-- ACC.GET (R468). -/
def execAccGet (c : Ctl) (wide : Bool) (d a b : Operand) (s : State) :=
  run (.accGet c wide d a b) c s fun v s => whenOwned v s wide a fun t s =>
    let k := s.core v.r.core
    let row := accRow wide (v.rd b 0)
    let val (r : Nat) : LaneVec := vecOf v.eff fun l => match accLane wide r l with
      | .col j => k.acc t row j
      | .sum => k.rowSum t row
      | .none_ => 0
    .done (if wide then pend s v c [d, d.after 1] v.eff [val 0, val 1] noFlag else pend s v c [d] v.eff [val 0] noFlag)

/-- A row of a tile or group written from lanes (R469). -/
def putRow (k : Core) (v : View) (wide : Bool) (t row : Nat) (a : Operand) : Core :=
  (List.range (if wide then 2 else 1)).foldl (fun k r =>
    (lanesOf v.eff).foldl (fun k l =>
      let x := v.rd (a.after r) l
      match accLane wide r l with
      | .none_ => k
      | .sum => k.updTile (t + 2 * (row / 64)) (fun u => { u with sums := u.sums.set (row % 64) x })
      | .col j =>
        let (u, i, q) := tileAt t row j
        k.updTile u (fun z =>
          let old := z.rows.get [] i
          { z with rows := z.rows.set i ((List.range 64).map (fun e => if e = q then x else old.getD e 0)) })) k) k

/-- ACC.PUT (R469). -/
def execAccPut (c : Ctl) (wide : Bool) (d a b : Operand) (s : State) :=
  run (.accPut c wide d a b) c s fun v s => whenOwned v s wide d fun t s =>
    let k := putRow (s.core v.r.core) v wide t (accRow wide (v.rd b 0)) a
    .done (s.setCore v.r.core (k.updGroup wide t (fun u => { u with tag := if u.tag = .free then .f else u.tag })))

end Sys2Proof.Machine
end

