-- ==== Sys2Proof/Machine/Agent.lean ====
section
/-! DEFINITION. Accesses of agents that are no strand: bytes read and written at their homes (R74, R184), virtual addresses
of a context walked for them (R169), queue control blocks (R104) and the completion of records (R110). -/
namespace Sys2Proof.Machine

/-! Bytes at their homes. -/

/-- Consecutive bytes read at their homes, in pieces that each lie in one granule; the flag says a correction. -/
def agentRead (s : State) (key : Nat) (via : Via) (sys : Bool) : Nat → Nat → State × Except HomeFail (List Byte × Bool)
  | 0, _ => (s, .ok ([], false))
  | fuel + 1, n =>
    if n = 0 then (s, .ok ([], false))
    else match keyFail s key via sys with
      | some f => (s, .error f)
      | none =>
        let m := min n (32 - key % 32)
        if isDram key then
          match granRead s (granOf key) via.grade with
          | (s, _, .uc) => (s, .error .uc)
          | (s, bs, r) =>
            match agentRead s (key + m) via sys fuel (n - m) with
            | (s, .ok (rest, ce)) => (s, .ok (((bs.drop (key % 32)).take m) ++ rest, ce || r == .ce))
            | x => x
        else
          let bs := if keySpace key = 3 then hubRead s (keyAddr key) m else s.mem.readList key m
          if spoiled s key m then (s, .error .uc) else
          match agentRead (crossPeer s key (.load (keyAddr key) m via)) (key + m) via sys fuel (n - m) with
          | (s, .ok (rest, ce)) => (s, .ok (bs ++ rest, ce))
          | x => x

/-- Bytes placed in a granule or in part of a line of hub control space. -/
def padded (o : Nat) (bs : List Byte) : List Byte := List.replicate o 0 ++ bs

/-- Consecutive bytes written at their homes, piece by piece; a DRAM line leaves every cluster's cache (R74). -/
def agentWrite (s : State) (key : Nat) (via : Via) (sys : Bool) : Nat → List Byte → State × Option HomeFail
  | 0, _ => (s, none)
  | fuel + 1, bs =>
    if bs.isEmpty then (s, none)
    else match keyFail s key via sys with
      | some f => (s, some f)
      | none =>
        let m := min bs.length (32 - key % 32)
        let o := key % 32
        if isDram key then
          match granWrite s (granOf key) via.grade ((2 ^ m - 1) * 2 ^ o) (padded o (bs.take m) ++ List.replicate (32 - o - m) 0) with
          | (s, .uc) => (s, some .uc)
          | (s, _) => agentWrite (dropCachedAll s (lineOf key)) (key + m) via sys fuel (bs.drop m)
        else if keySpace key = 3 then
          let p := keyAddr key % 64
          agentWrite (hubWrite s (keyAddr key / 64 * 64) ((2 ^ m - 1) * 2 ^ p) (padded p (bs.take m) ++ List.replicate (64 - p - m) 0))
            (key + m) via sys fuel (bs.drop m)
        else agentWrite (crossPeer (putBytes s key (bs.take m)) key (.store (keyAddr key) via (bs.take m))) (key + m) via sys fuel (bs.drop m)

/-- Fuel for a span of bytes: one piece for every granule it touches. -/
def spanFuel (n : Nat) : Nat := n / 32 + 2

/-! Virtual addresses of a context, walked (R169-R173). -/

/-- Whether a walk under way in a cluster is for the page of an address: the page asked for, or one that the walk's leaf
maps as well (R175). -/
def Walk.covers (w : Walk) (s : State) (ctx va : Nat) : Bool :=
  w.ctx == ctx && !w.dead && (w.page == va / 2 ^ 16 || (match walkLeaf s ctx (w.page * 2 ^ 16) with
    | some (e, _) => w.page * 2 ^ 16 / leafBytes e == va / leafBytes e
    | none => false))

/-- What the second-level TLB of a cluster, or a walk, makes of an address for a unit of the cluster (R175). A unit of the
hub has no TLB and walks. -/
def pageEnd (s : State) (k : Option Nat) (ctx va : Nat) : WalkEnd :=
  match k.bind (fun n => tlbFind (s.clu n).tlb2 ctx va) with
  | some e => .leaf e 0
  | none => (walkRead s ctx va).2

/-- What that translation leaves: the walk's reads, and its leaf in the TLB; a walk under way for the page is joined, and
leaves its own. -/
def touchPage (s : State) (k : Option Nat) (ctx va : Nat) : State :=
  match k with
  | none => (walkRead s ctx va).1
  | some n =>
    if (tlbFind (s.clu n).tlb2 ctx va).isSome || (s.clu n).walks.any (fun w => w.covers s ctx va) then s
    else match walkRead s ctx va with
      | (s, .leaf e _) => s.setClu n { s.clu n with tlb2 := tlbAdd 16384 (s.clu n).tlb2 (tlbEntry ctx va e) }
      | (s, _) => s

/-- What a translation gives an access: a place, a fault with the trap's code, a page whose writes wait for a dump (R180),
or a translation to wait for. -/
inductive Walked
  | at_ (key : Nat) (via : Via)
  | fault (code : Nat)
  | dump
  | held
  deriving DecidableEq, Repr

/-- An access under a leaf (R166, R172): whether it needs to read, and to write. -/
def leafPlace (e : BitVec 64) (ctx va tgt : Nat) (rd wr : Bool) : Walked :=
  if leafTgt e != tgt || (wr && !leafW e) || (rd && !leafR e) then .fault trapPerm
  else if wr && leafDp e then .dump
  else .at_ (leafKey e va) (leafVia e ctx)

/-- An address of a context's own DRAM, host or peer space for an access by a unit that only reads or only writes. -/
def walkPlace (s : State) (k : Option Nat) (ctx va tgt : Nat) (write : Bool) : Walked :=
  match pageEnd s k ctx va with
  | .fault => .fault trapXlate
  | .held => .held
  | .leaf e _ => leafPlace e ctx va tgt (!write) write

/-- A virtual span written at its homes, page by page; a page that a dump protects is wanted next (R180). -/
def virtWrite (s : State) (k : Option Nat) (ctx va tgt : Nat) : Nat → List Byte → State × Option HomeFail
  | 0, _ => (s, none)
  | fuel + 1, bs =>
    if bs.isEmpty then (s, none)
    else
      let m := min bs.length (2 ^ 16 - va % 2 ^ 16)
      let s := touchPage s k ctx va
      match walkPlace s k ctx va tgt true with
      | .fault _ => (s, some .fault)
      | .dump => (dumpStall s ctx va, some .held)
      | .held => (s, some .held)
      | .at_ key via =>
        match agentWrite s key via false (spanFuel m) (bs.take m) with
        | (s, some f) => (s, some f)
        | (s, none) => virtWrite s k ctx (va + m) tgt fuel (bs.drop m)

/-- A virtual span read at its homes, page by page. -/
def virtRead (s : State) (k : Option Nat) (ctx va tgt : Nat) : Nat → Nat → State × Except HomeFail (List Byte)
  | 0, _ => (s, .ok [])
  | fuel + 1, n =>
    if n = 0 then (s, .ok [])
    else
      let m := min n (2 ^ 16 - va % 2 ^ 16)
      let s := touchPage s k ctx va
      match walkPlace s k ctx va tgt false with
      | .fault _ => (s, .error .fault)
      | .dump => (s, .error .held)
      | .held => (s, .error .held)
      | .at_ key via =>
        match agentRead s key via false (spanFuel m) m with
        | (s, .error f) => (s, .error f)
        | (s, .ok (bs, _)) =>
          match virtRead s k ctx (va + m) tgt fuel (n - m) with
          | (s, .error f) => (s, .error f)
          | (s, .ok more) => (s, .ok (bs ++ more))

/-! SRAM of a switched-out context (R76, R94, R95). -/

/-- Where a byte of a cluster's SRAM lies in the cluster's block of a save area (R94). -/
def blockOffset (o : Nat) : Nat :=
  if o < poolOffset then o / sliceSize * 0x1B8000 + 0x68000 + o % sliceSize else 0x1B800000 + (o - poolOffset)

/-- Whether a context's words in a cluster's SRAM stand in its save area: it has been switched out of the cluster. -/
def wordsAway (s : State) (ctx key : Nat) : Bool :=
  let k := keyAddr key / regionSize
  isSram key && (s.clu k).tenant != some ctx && ((s.ctx ctx).saved.find k).isSome

/-- The virtual address of a byte of a cluster's SRAM in a context's save area. -/
def savedVa (s : State) (ctx key : Nat) : Nat :=
  ctxSaveBase s ctx + keyAddr key / regionSize * 0x20000000 + blockOffset (keyAddr key % regionSize)

/-- Bytes of a context's SRAM words read, in the cluster or where they are saved; poisoned ones fail (R516). -/
def sramRead (s : State) (ctx key n : Nat) : State × Except HomeFail (List Byte) :=
  if wordsAway s ctx key then virtRead s (some (keyAddr key / regionSize)) ctx (savedVa s ctx key) 0 (n / 2 ^ 16 + 2) n
  else (s, if spoiled s key n then .error .uc else .ok (s.mem.readList key n))

/-- Bytes of a context's SRAM words written, in the cluster or where they are saved. -/
def sramWrite (s : State) (ctx key : Nat) (bs : List Byte) : State × Option HomeFail :=
  if wordsAway s ctx key then virtWrite s (some (keyAddr key / regionSize)) ctx (savedVa s ctx key) 0 (bs.length / 2 ^ 16 + 2) bs else (putBytes s key bs, none)

/-! Queues (R103, R104). -/

/-- A field of a queue's descriptor. -/
def qField (s : State) (q lo w : Nat) : Nat := s.mem.readNat (hubKey (0x1000 + 64 * q)) 64 / 2 ^ lo % 2 ^ w
def qPrio (s : State) (q : Nat) : Nat := qField s q 498 2
def qHost (s : State) (q : Nat) : Bool := qField s q 497 1 == 1
def qDev (s : State) (q : Nat) : Bool := qField s q 496 1 == 1
def qLog (s : State) (q : Nat) : Nat := qField s q 491 5
def qRing (s : State) (q : Nat) : Nat := qField s q 400 48
def qCtrl (s : State) (q : Nat) : Nat := qField s q 352 48

/-- Bytes of a queue's ring or control block, read at their home. -/
def queueRead (s : State) (q addr n : Nat) : State × Except HomeFail (List Byte) :=
  if qHost s q then
    match agentRead s (hostKey addr) {} false (spanFuel n) n with
    | (s, .ok (bs, _)) => (s, .ok bs)
    | (s, .error f) => (s, .error f)
  else virtRead s none (q / 64) addr 0 4 n

/-- Bytes written there. -/
def queueWrite (s : State) (q addr : Nat) (bs : List Byte) : State × Option HomeFail :=
  if qHost s q then agentWrite s (hostKey addr) {} false (spanFuel bs.length) bs else virtWrite s none (q / 64) addr 0 4 bs

/-- The codes of queue states (R104). -/
def QState.code : QState → Nat
  | .unbound => 0
  | .idle => 1
  | .watching => 2
  | .draining => 3
  | .blocked => 4
  | .suspended => 5
  | .error => 6

/-- Line 1 of a control block (R104). -/
def controlLine (x : Queue) : Nat :=
  x.head.toNat + x.done.toNat * 2 ^ 32 + x.state.code * 2 ^ 64 + x.err % 16 * 2 ^ 68 + x.errIdx.toNat * 2 ^ 72

/-- Whether a queue takes records, or watches for some (R108). -/
def QState.serves (x : QState) : Bool := x == .watching || x == .draining || x == .blocked

/-- The wellhead's line written after a change of a queue (R104), again later where its home holds it. A fault there is a
record error of a queue that serves (R112). -/
def putControl (s : State) (q : Nat) : State :=
  match queueWrite s q (qCtrl s q + 64) (leBytes 64 (controlLine (s.queue q))) with
  | (s, some .held) => s.setQueue q { s.queue q with stale := true }
  | (s, some .fault) =>
    let x := s.queue q
    s.setQueue q { x with
      stale := false, state := if x.state.serves then .error else x.state
      err := if x.state.serves then 4 else x.err, errIdx := if x.state.serves then x.head else x.errIdx }
  | (s, _) => s.setQueue q { s.queue q with stale := false }

/-- A queue changed, and its control block with it. -/
def putQueue (s : State) (q : Nat) (x : Queue) : State := putControl (s.setQueue q x) q

/-- The prefix of records that have completed, grown by those that completed out of order (R104). -/
def growDone (x : Queue) : Nat → Queue
  | 0 => x
  | fuel + 1 =>
    if x.finished.contains x.done.toNat then
      growDone { x with finished := x.finished.filter (· != x.done.toNat), done := x.done + 1 } fuel
    else x

/-- A record counts as complete. -/
def Queue.complete (x : Queue) (n : Nat) : Queue :=
  let x := { x with running := x.running.filter (· != n), finished := insertNat x.finished n }
  growDone x (x.finished.length + 1)

/-- A started record completes (R110). -/
def recordDone (s : State) (q n : Nat) : State :=
  let x := s.queue q
  if x.running.contains n then putQueue s q (x.complete n) else s

/-- A record error (R112): the queue moves to Error. -/
def recordError (s : State) (q code n : Nat) : State :=
  let x := s.queue q
  putQueue s q { x with state := .error, err := code, errIdx := BitVec.ofNat 32 n, waitSince := none, rel := false }

/-! Completion tables (R160, R161). -/

/-- A handle for a command just accepted, with its entry (R160, R161); the promised tick is the engine's choice. -/
def newHandle (s : State) (k eng ctx : Nat) : State × DWord :=
  let (s, n) := s.draw
  let x := s.clu k
  let ptick := (s.tick + 64 + Config.freeNat n % (2 ^ 39 - 64)) % 2 ^ 40
  let h : DWord := BitVec.ofNat 64 (eng * 2 ^ 60 + k * 2 ^ 57 + 2 ^ 56 + x.nextSerial.toNat * 2 ^ 40 + ptick)
  (s.setClu k { x with
    nextSerial := x.nextSerial + 1
    ctab := x.ctab.set x.nextSerial.toNat { handle := h, ctx := ctx, status := 6, result := 0 } }, h)

/-- A command's status enters its entry (R74, R161). -/
def completeHandle (s : State) (h : Option DWord) (status : Nat) (result : Word) : State :=
  match h with
  | none => s
  | some h =>
    let k := handleClu h
    let x := s.clu k
    match x.ctab.find (handleSerial h) with
    | none => s
    | some e =>
      if e.handle = h then
        s.setClu k { x with ctab := x.ctab.set (handleSerial h) { e with status := status, result := result, at_ := s.tick } }
      else s

/-- Whether the entry of a cluster's next serial still holds a command under way (R445). -/
def serialHeld (s : State) (k : Nat) : Bool :=
  match (s.clu k).ctab.find (s.clu k).nextSerial.toNat with
  | some e => e.status == 6
  | none => false

end Sys2Proof.Machine
end

