-- ==== Sys2Proof/Machine/Engine.lean ====
section
/-! DEFINITION. Engine commands of the copy engine (19 R472-R478, 18 R445): acceptance, the moves of R74, packets to the
base dies (10 R184-R190) and basin pieces (R194-R196). -/
namespace Sys2Proof.Machine

/-! Accepting a command (R445, R473). -/

/-- The value of a scalar pair. -/
def View.pairVal (v : View) (a : BitVec 5) : DWord := v.rd64 (.s (a ++ 0#1)) 0

/-- What follows once an engine has room and the next serial is free, waited for under reason 22 (R445). -/
def withRoom (v : View) (s : State) (full : Bool) (h : Option (BitVec 4)) (k : State → Res) : Res :=
  if v.eff = 0 then .done s
  else if full || (h.isSome && serialHeld s (coreCluster v.r.core)) then .stay 22 s
  else k s

/-- The handle of an accepted command (R160). -/
def grantHandle (v : View) (s : State) (eng : Nat) (h : Option (BitVec 4)) : State × Option DWord :=
  match h with
  | none => (s, none)
  | some n =>
    let (s, x) := newHandle s (coreCluster v.r.core) eng v.st.ctx
    (putHandle s v.r (.h n) x, some x)

/-- A segment address (R472): whether its reserved bits are 0, its segment and its offset. -/
def saddrOk (x : Nat) : Bool := x / 2 ^ 51 == 0
def saddrSeg (x : Nat) : Nat := x / 2 ^ 48 % 8
def saddrOff (x : Nat) : Nat := x % 2 ^ 48

/-- A block of n bytes that a pair names, aligned as its entry says, read as an ordinary load (R473); and what follows with
its place and bytes. -/
def withBlock (v : View) (s : State) (x n align : Nat) (k : State → Place → List Byte → Res) : Res :=
  if !saddrOk x then .trap v.illegal s
  else withAccess v s ((v.checkSeg (saddrSeg x) { n := n, writes := false, spaces := spacesAll, align := align }
      (numbered [saddrOff x])).whole v.eff) fun ps =>
    match ps with
    | [] => .done s
    | p :: _ =>
      match loadBytes s v.r.core p.key n p.via with
      | (_, _, some .held) => .stay 14 s
      | (s, _, some f) => .trap { code := f.code, lanes := v.eff, addr := p.addr } s
      | (s, bs, none) => k s p bs

/-- The barrier an options pair names, checked as R156 checks it, beside what else the COP checks of its operands (R165,
R425), the lowest code first (R99); and what follows with its key. -/
def withBarrier (v : View) (s : State) (opts : Nat) (other : Option TrapRec) (k : State → Option Nat → Res) : Res :=
  let bar := if !opts.testBit 0 then Access.ready []
    else (v.checkSeg 2 { n := 16, writes := true, needR := false, spaces := spacesSram, align := 16 }
      (numbered [opts / 16 % 2 ^ 28 * 16])).whole v.eff
  let x := match other, bar with
    | some t, .trap u pages => if u.code ≤ t.code then Access.trap u pages else .trap t []
    | some t, _ => .trap t []
    | none, b => b
  withAccess v s x fun ps => k s (ps.head?.map (·.key))

/-! Fields of a command's block (R476). -/

/-- A field of the parameter block. -/
def EngCmd.field (q : EngCmd) (o n : Nat) : Nat := leNat ((q.block.drop o).take n)
def EngCmd.dst (q : EngCmd) : Nat := q.field 0 8
def EngCmd.src (q : EngCmd) : Nat := q.field 8 8
def EngCmd.idx (q : EngCmd) : Nat := q.field 16 8
def EngCmd.len (q : EngCmd) : Nat := q.field 24 4
def EngCmd.esize (q : EngCmd) : Nat := 2 ^ q.field 28 1
def EngCmd.clo (q : EngCmd) : Nat := q.field 29 1
def EngCmd.chi (q : EngCmd) : Nat := q.field 30 1
def EngCmd.k1 (q : EngCmd) : Nat := q.opts.toNat / 2 ^ 32

/-- Function numbers of the copy engine (R475). -/
def xcLoad : Nat := 1
def xcStore : Nat := 2
def xcMcast : Nat := 3
def xcGather : Nat := 4
def xcScatter : Nat := 5
def xcFill : Nat := 6
def xcPeer : Nat := 7
def xcCsum : Nat := 8

/-- The cores that an XC.MCAST writes to; one destination of any other function. -/
def EngCmd.copies (q : EngCmd) : Nat := if q.fn = xcMcast && q.eng = 0 then q.chi - q.clo + 1 else 1

/-- Bytes a command moves, in the order of writing; elements of a basin command. -/
def EngCmd.total (q : EngCmd) : Nat :=
  if q.eng = 1 then q.len
  else if q.fn = xcMcast then q.len * q.copies
  else if q.fn = xcGather || q.fn = xcScatter then q.len * q.esize
  else q.len

/-- A sample strand that a command's addresses are formed with. -/
def EngCmd.strand (q : EngCmd) : Strand := { ctx := q.ctx, segs := q.segs, scratch := q.scratch }

/-- Where bytes of a command lie; a page to ask for first (R175), or one whose writes wait for a dump (R180). -/
inductive EngPlace
  | at_ (key : Nat) (via : Via)
  | fault
  | dump (va : Nat)
  | ask (page : Nat)
  deriving DecidableEq, Repr

/-- A virtual address of a command, translated through its core's first-level TLB (R175). -/
def EngCmd.virt (q : EngCmd) (s : State) (c va tgt : Nat) (write : Bool) : EngPlace :=
  match pageView s c q.ctx va with
  | .fault => .fault
  | .unknown => .ask (va / 2 ^ 16)
  | .leaf e =>
    match leafPlace e q.ctx va tgt (!write) write with
    | .at_ key via => .at_ key via
    | .dump => .dump va
    | _ => .fault

/-- An SRAM address of a command: in its cluster, or, where its context has been switched out of the cluster, in the save
area that holds the cluster's words (R76, R94, log 59). -/
def EngCmd.sram (q : EngCmd) (s : State) (c a : Nat) (write : Bool) : EngPlace :=
  if wordsAway s q.ctx (sramKey a) then q.virt s c (savedVa s q.ctx (sramKey a)) 0 write
  else if !isSteward s q.strand && otherTenant s q.ctx a then .fault
  else .at_ (sramKey a) { ctx := q.ctx }

/-- The place of bytes of a segment (R166, R177, R425). -/
def EngCmd.place (q : EngCmd) (s : State) (c seg off n : Nat) (write : Bool) : EngPlace :=
  if off + n > segLimit (q.segs.get 0 seg) then .fault
  else match segAddr s c q.strand seg off with
    | .sram a => if sramInside s c 99 q.strand seg a n then q.sram s c a write else .fault
    | .hub _ => .fault
    | .virt va tgt => q.virt s c va tgt write

/-- An offset's place within its granule. -/
def EngCmd.align (q : EngCmd) (s : State) (c seg off : Nat) : Nat :=
  match segAddr s c q.strand seg off with
  | .sram a => a % 32
  | .hub a => a % 32
  | .virt va _ => va % 32

/-! Reading source bytes (R74). -/

/-- What reading comes to: a value, a granule still to be fetched, a page still to be translated, a fault, a refusal by
guard rows, or a link that is not up. -/
inductive Fetch (α : Type)
  | got (x : α)
  | need (key : Nat) (via : Via)
  | ask (page : Nat)
  | fault
  | guard
  | wait

/-- One reading after another. -/
def Fetch.bind {α β : Type} (x : Fetch α) (k : α → Fetch β) : Fetch β :=
  match x with
  | .got a => k a
  | .need key via => .need key via
  | .ask page => .ask page
  | .fault => .fault
  | .guard => .guard
  | .wait => .wait

/-- A reading, or what was read before it where it fails. -/
def Fetch.orElse {α : Type} (x : Fetch α) (d : Option α) : Fetch α :=
  match x, d with
  | .fault, some a => .got a
  | .guard, some a => .got a
  | x, _ => x

/-- The leading bytes of a span up to the first one that has no place (R177, R477). -/
def EngCmd.reach (q : EngCmd) (s : State) (c seg : Nat) (wr : Bool) : Nat → Nat → Nat → Nat
  | 0, _, _ => 0
  | fuel + 1, off, n =>
    if n = 0 then 0
    else match q.place s c seg off 1 wr with
      | .fault => 0
      | .at_ key _ =>
        let m := min n (32 - key % 32)
        let a := min m (segLimit (q.segs.get 0 seg) - off)
        if a < m then a else m + q.reach s c seg wr fuel (off + m) (n - m)
      | _ => n

/-- A span of source bytes, granule by granule; none for the bytes of an uncorrectable granule and for poisoned bytes of SRAM
(R516). A granule that guard rows
refused is kept without bytes. With `some`, a failure after the first byte ends the span there. -/
def EngCmd.fetch (q : EngCmd) (s : State) (c seg off : Nat) (some_ : Bool) : Nat → Nat → Fetch (List (Option Byte))
  | 0, _ => .got []
  | fuel + 1, n =>
    if n = 0 then .got []
    else match q.place s c seg off 1 false with
      | .fault => .fault
      | .dump _ => .fault
      | .ask page => .ask page
      | .at_ key via =>
        let m := min n (32 - key % 32)
        let rest := (q.fetch s c seg (off + m) some_ fuel (n - m)).orElse (if some_ then some [] else none)
        if isDram key then
          match q.got.find (key / 32 * 32) with
          | none => .need (key / 32 * 32) via
          | some [] => .guard
          | some bs => rest.bind fun r => .got ((bs.drop (key % 32)).take m ++ r)
        else match homeReach s key with
          | .wait => .wait
          | .down => .fault
          | .ok => rest.bind fun r => .got ((s.mem.readList key m).zipIdx.map (fun e => if spoiled s (key + e.2) 1 then none else some e.1) ++ r)

/-- Bytes as a number where every one is readable. -/
def optNat (bs : List (Option Byte)) : Option Nat :=
  if bs.all Option.isSome then some (leNat (bs.map (·.getD 0))) else none

/-- The elements that bytes p to p + n − 1 touch, with the first byte in each and how many. -/
def elemPieces (es p n : Nat) : List (Nat × Nat × Nat) :=
  (List.range ((p + n - 1) / es + 1 - p / es)).map (fun e =>
    let i := p / es + e
    let lo := max p (i * es)
    (i, lo - i * es, min (p + n) ((i + 1) * es) - lo))

/-- What follows from the index of an element that lies whole in its segments; none where the index is unreadable. -/
def EngCmd.withIndex {α : Type} (q : EngCmd) (s : State) (c i : Nat) (k : Option Nat → Fetch α) : Fetch α :=
  let es := q.esize
  if q.reach s c (saddrSeg q.idx) false 3 (saddrOff q.idx + 4 * i) 4 < 4 then .fault
  else (q.fetch s c (saddrSeg q.idx) (saddrOff q.idx + 4 * i) false 3 4).bind fun ib =>
    match optNat ib with
    | none => k none
    | some ix =>
      let (seg, off) := if q.fn = xcGather then (saddrSeg q.src, saddrOff q.src + ix * es)
        else (saddrSeg q.dst, saddrOff q.dst + ix * es)
      let (seg', off') := if q.fn = xcGather then (saddrSeg q.dst, saddrOff q.dst + i * es)
        else (saddrSeg q.src, saddrOff q.src + i * es)
      if q.reach s c seg (q.fn != xcGather) 4 off es < es || q.reach s c seg' (q.fn = xcGather) 4 off' es < es then .fault
      else k (some ix)

/-- The elements of a unit one after another, up to the first that fails; a failure before the first byte is the
unit's. -/
def gatherPieces (one : Nat × Nat × Nat → Fetch (List (Option Byte))) :
    List (Nat × Nat × Nat) → List (Option Byte) → Fetch (List (Option Byte))
  | [], acc => .got acc
  | e :: es, acc =>
    ((one e).bind fun bs => gatherPieces one es (acc ++ bs)).orElse (if acc.isEmpty then none else some acc)

/-- The next bytes of a command, read (R74, R476): never past the destination's granule, and none at or beyond the first
byte or element that fails (R477). -/
def EngCmd.nextUnit (q : EngCmd) (s : State) (c : Nat) : Fetch EngUnit :=
  let p := q.rpos
  let es := q.esize
  let dseg := saddrSeg q.dst
  let doff := saddrOff q.dst
  let sseg := saddrSeg q.src
  let soff := saddrOff q.src
  if q.fn = xcCsum then
    let n := min (32 - q.align s c sseg (soff + p)) (q.total - p)
    let n := min n (q.reach s c sseg false 3 (soff + p) n)
    if n = 0 then .fault
    else (q.fetch s c sseg (soff + p) true 3 n).bind fun bs => .got { pos := p, off := 0, data := bs }
  else if q.fn = xcMcast then
    let i := p / q.copies
    let n := min (32 - (doff + i) % 32) (q.len - i)
    let n := min n (q.reach s c sseg false 3 (soff + i) n)
    if n = 0 then .fault
    else (q.fetch s c sseg (soff + i) true 3 n).bind fun bs => .got { pos := p, off := doff + i, data := bs }
  else if q.fn = xcScatter then
    let i := p / es
    let w := p % es
    q.withIndex s c i fun ix => match ix with
      | none => .got { pos := p, off := 0, data := List.replicate (es - w) none }
      | some ix =>
        let off := doff + ix * es + w
        let n := min (32 - q.align s c dseg off) (es - w)
        (q.fetch s c sseg (soff + p) false 4 (es - w)).bind fun bs => .got { pos := p, off := off, data := bs.take n }
  else
    let off := doff + p
    let n := min (32 - q.align s c dseg off) (q.total - p)
    if q.fn = xcGather then
      (gatherPieces (fun e => q.withIndex s c e.1 fun ix => match ix with
        | none => .got (List.replicate e.2.2 none)
        | some ix => (q.fetch s c sseg (soff + ix * es + e.2.1) false 4 (es - e.2.1)).bind fun bs => .got (bs.take e.2.2)) (elemPieces es p n) []).bind fun bs =>
          .got { pos := p, off := off, data := bs }
    else
      let n := min n (q.reach s c dseg true 3 off n)
      let n := if q.fn = xcFill then n else min n (q.reach s c sseg false 3 (soff + p) n)
      if n = 0 then .fault
      else if q.fn = xcFill then
        .got { pos := p, off := off, data := (List.range n).map (fun i => some (BitVec.ofNat 8 (soff / 2 ^ (8 * ((p + i) % 4))))) }
      else (q.fetch s c sseg (soff + p) true 3 n).bind fun bs => .got { pos := p, off := off, data := bs }

/-! Packets (R184-R190). -/

/-- Whether R193 refuses some granule of a packet. -/
def Packet.refused (p : Packet) (s : State) : Bool := p.spans.any (fun r => guardRefuses s r.2.2 p.sys (32 * r.1))

/-- A packet with its tag arrives at the base die, under the allocation table as it then stands (R193); where its stack does
not serve yet, it arrives when it does (R183). -/
def Packet.arrive (p : Packet) (s : State) (tag : Nat) : Packet :=
  { p with tag := some tag, guard := if stackServes s p.addr then some (p.refused s) else none }

/-- A packet sent with the lowest free tag; where every tag is in use it waits at its agent, and those behind it to the same
stack with it (R186). -/
def sendPacket (s : State) (p : Packet) : State :=
  { s with pkts := s.pkts ++ [match freeTag s p.agent p.stack with | some t => p.arrive s t | none => p] }

/-- A packet whose reply has arrived: its tag goes to the first request that waits for one (R186). -/
def dropPacket (s : State) (i : Nat) (p : Packet) : State :=
  let s := { s with pkts := dropAt s.pkts i }
  match s.pkts.findIdx? (fun q => q.agent == p.agent && q.stack == p.stack && q.tag.isNone) with
  | none => s
  | some j =>
    match s.pkts[j]?, freeTag s p.agent p.stack with
    | some q, some t => { s with pkts := dropAt s.pkts j ++ [q.arrive s t] }
    | _, _ => s

/-- Whether two packets touch one granule. -/
def samePlace (p q : Packet) : Bool :=
  p.spans.any (fun a => q.spans.any (fun b => a.1 < b.1 + b.2.1 && b.1 < a.1 + a.2.1))

/-- The first element of a basin piece. -/
def Packet.first (p : Packet) : Nat :=
  match p.work with
  | some (.bas _ _ _ e _ _ _) => e
  | _ => 0

/-- Whether a piece that is still under way holds back a later one of its command: it may yet stop the command (R196), or it
lies on the same stack, whose elements go in ascending order (R195). -/
def Packet.holds (q p : Packet) : Bool :=
  q.kind == .nmc && q.back == p.back && q.first < p.first &&
    ((if q.done then q.status == 3 || q.status == 4 else q.guard != some false) || (!q.done && q.stack == p.stack))

/-- Whether a base die may perform a packet now: it has arrived, its stack serves, and what its agent sent earlier to the
same granules, and for a basin piece what its basin received earlier, is done (R183, R187, R478). -/
def pktMay (s : State) (i : Nat) (p : Packet) : Bool :=
  !p.done && p.tag.isSome && stackServes s p.addr &&
    (s.pkts.take i).all (fun q => q.done || q.tag.isNone || q.stack != p.stack ||
      !(q.agent == p.agent && samePlace p q || p.kind == .nmc && q.kind == .nmc && q.chan == p.chan)) &&
    !(p.kind == .nmc && s.pkts.any (fun q => q.holds p))

/-- Codes of reply statuses (R185). -/
def stOk : Nat := 0
def stCe : Nat := 1
def stUc : Nat := 2
def stGuard : Nat := 3
def stFault : Nat := 4

/-- The code of a granule's outcome. -/
def GranStatus.code : GranStatus → Nat
  | .ok => 0
  | .ce => 1
  | .uc => 2

/-- A reply's status and bytes recorded. -/
def replyPacket (s : State) (i : Nat) (p : Packet) (status : Nat) (bytes : List Byte) : State :=
  { s with pkts := setAt s.pkts i { p with done := true, status := status, reply := bytes } }

/-- The granules of a packet, by granule number. -/
def Packet.grans (p : Packet) : List Nat := (List.range (p.len + 1)).map (fun i => p.addr / 32 + i)

/-- Why a base die does not perform a packet: a broken rule of R185, a failed stack, or a guard (R183, R193). -/
def pktRefusal (s : State) (p : Packet) : Option Nat :=
  if p.addr % 32 != 0 || p.addr ≥ 2 ^ 39 || p.addr / 32 % 8 + p.len > 7 then some stFault
  else if stackFailed s p.addr then some stUc
  else if p.guard.getD (p.refused s) then some stGuard
  else none

/-- PKT_RD (R187, R189): the granules, or their metadata words. The step's operand: the packet. -/
def execPktRd (s : State) : Host.Outcome State Fault Refusal :=
  let i := s.pick.a
  match s.pkts[i]? with
  | none => .next s
  | some p =>
    if p.kind != .rd || !pktMay s i p then .next s
    else match pktRefusal s p with
      | some st => .next (replyPacket s i p st [])
      | none =>
        if p.md then
          let s := activate s p.addr
          .next (replyPacket s i p stOk (p.grans.flatMap (fun g => leBytes 4 (metaRead s (dramKey (32 * g)) p.grade))))
        else
          let (s, bs, st) := p.grans.foldl (fun acc g =>
            let (s, bs, st) := acc
            let (s, b, r) := granRead s g p.grade
            (s, bs ++ b, max st r.code)) (s, [], 0)
          .next (replyPacket s i p st bs)

/-- PKT_WR (R187, R190): whole granules with fresh check bits; the lines leave every cluster's cache (R74). The step's operands
of this row and the next: the packet, and whether its bytes' parity fails on the way (R516). -/
def execPktWr (s : State) : Host.Outcome State Fault Refusal :=
  let i := s.pick.a
  match s.pkts[i]? with
  | none => .next s
  | some p =>
    if p.kind != .wr || !pktMay s i p then .next s
    else match pktRefusal s p with
      | some st => .next (replyPacket s i p st [])
      | none =>
        let bad := s.pick.flag
        let s := p.grans.zipIdx.foldl (fun s e =>
          dropCachedAll (granArrive s e.1 p.grade (2 ^ 32 - 1) ((p.data.drop (32 * e.2)).take 32) bad).1 (e.1 / 2)) s
        .next (replyPacket s i p (if bad then stUc else stOk) [])

/-- PKT_WRM (R190): one read, merge and write for each granule; metadata words where the packet says so. -/
def execPktWrm (s : State) : Host.Outcome State Fault Refusal :=
  let i := s.pick.a
  match s.pkts[i]? with
  | none => .next s
  | some p =>
    if p.kind != .wrm || !pktMay s i p then .next s
    else match pktRefusal s p with
      | some st => .next (replyPacket s i p st [])
      | none =>
        let bad := s.pick.flag
        let (s, st) := p.grans.zipIdx.foldl (fun acc e =>
          let (s, st) := acc
          if p.md then (metaWrite s (dramKey (32 * e.1)) p.grade (leNat ((p.data.drop (4 * e.2)).take 4)), st)
          else
            let (s, r) := granArrive s e.1 p.grade (p.mask / 2 ^ (32 * e.2) % 2 ^ 32) ((p.data.drop (32 * e.2)).take 32) bad
            (dropCachedAll s (e.1 / 2), max st r.code)) (s, 0)
        .next (replyPacket s i p st [])

/-! A command under way. -/

/-- The place of a core's command by its number. -/
def findCmd (s : State) (c id : Nat) : Option Nat := (s.core c).eng.findIdx? (fun q => q.id == id)

/-- A command of a core changed. -/
def setCmd (s : State) (c i : Nat) (q : EngCmd) : State :=
  let k := s.core c
  s.setCore c { k with eng := setAt k.eng i q }

/-- A command stops (R474, R477): with FAULT (3) or GUARD (5), and the first destination offset not performed. -/
def EngCmd.stop (q : EngCmd) (status at_ : Nat) : EngCmd :=
  if q.stopped && q.status = 3 then q
  else { q with
    stopped := true, status := status, units := []
    result := BitVec.ofNat 32 (if q.stopped then min q.result.toNat at_ else at_) }

/-- A correction or an uncorrectable granule noted (R474, R477). -/
def EngCmd.note (q : EngCmd) (st at_ : Nat) : EngCmd :=
  if q.stopped then q
  else if st = stUc then
    { q with status := 2, result := BitVec.ofNat 32 (if q.status = 2 then min q.result.toNat at_ else at_) }
  else { q with status := max q.status st }

/-- Whether a command has sent every write or piece and every reply has returned. -/
def EngCmd.settled (q : EngCmd) : Bool := q.out == 0 && (q.stopped || (q.rpos ≥ q.total && q.wpos ≥ q.total))

/-- Whether the commands before one are done with their destinations: writes go in acceptance order (R474). -/
def writesMay (s : State) (c i : Nat) : Bool := ((s.core c).eng.take i).all (fun q => q.settled)

/-- Whether a write of a command is still to be acknowledged; its next one waits, so that none follows a failing one
(R477). -/
def EngCmd.writing (q : EngCmd) (s : State) (c : Nat) : Bool :=
  s.pkts.any (fun p => (p.kind == .wr || p.kind == .wrm) && (match p.back with | .cmd c' id _ => c' == c && id == q.id | _ => false))

/-- A performed place joined to the destination ranges: one range where it continues another (R74). -/
def addRange (key n : Nat) : List (Nat × Nat) → List (Nat × Nat)
  | [] => [(key, n)]
  | (a, m) :: rs => if a + m = key then (a, m + n) :: rs else (a, m) :: addRange key n rs

/-- The ranges of a span of a segment, page by page, as far as pages are mapped (R74, R476). -/
def EngCmd.runs (q : EngCmd) (s : State) (c seg off : Nat) : Nat → Nat → List (Nat × Nat) → List (Nat × Nat)
  | 0, _, rs => rs
  | fuel + 1, n, rs =>
    if n = 0 then rs
    else
      let (m, key) := match segAddr s c q.strand seg off with
        | .sram a => (n, some (sramKey a))
        | .hub _ => (n, none)
        | .virt va _ => (min n (2 ^ 16 - va % 2 ^ 16), (walkLeaf s q.ctx va).map (fun e => leafKey e.1 va))
      q.runs s c seg (off + m) fuel (n - m) (match key with | some k => addRange k m rs | none => rs)

/-- The dev offsets of a basin command's arrays (R478). -/
def EngCmd.p0 (q : EngCmd) : Nat := q.field 0 6
def EngCmd.p1 (q : EngCmd) : Nat := q.field 6 6
def EngCmd.p2 (q : EngCmd) : Nat := q.field 12 6
def EngCmd.kc (q : EngCmd) : Word := BitVec.ofNat 32 (q.field 20 4)

/-- Function numbers of the basin engine (R475). -/
def basAxpby : Nat := 1
def basScal : Nat := 2
def basSgd : Nat := 3
def basMom : Nat := 4
def basSum : Nat := 5
def basFill : Nat := 6
def basCopy : Nat := 7
def basCvt : Nat := 8
def basStat : Nat := 9

/-- The arrays a basin function reads and writes (R478). -/
def EngCmd.inArrays (q : EngCmd) : List Nat :=
  if q.fn = basAxpby then [q.p0, q.p1]
  else if q.fn = basSgd then [q.p0, q.p1]
  else if q.fn = basMom then [q.p0, q.p1, q.p2]
  else if q.fn = basSum then (List.range q.k1).map (fun j => q.p0 + j * q.p2)
  else if q.fn = basFill then []
  else [q.p0]
def EngCmd.outArrays (q : EngCmd) : List Nat :=
  if q.fn = basSgd then [q.p0]
  else if q.fn = basMom then [q.p0, q.p2]
  else if q.fn = basStat then []
  else [q.p1]

/-- Bytes a command counts, and its destination ranges (R476, R478): those performed; of a SCATTER one from the lowest to
the end of the highest element. -/
def EngCmd.counted (q : EngCmd) (s : State) (c : Nat) : Nat × List (Nat × Nat) :=
  if q.eng = 1 then (4 * q.len * q.outArrays.length, q.ranges)
  else if q.fn = xcScatter then
    let lo := q.first.getD 0
    (q.total, q.runs s c (saddrSeg q.dst) lo ((q.acc - lo) / 2 ^ 16 + 2) (q.acc - lo) [])
  else (q.total, q.ranges)

/-- The Count of a command at its barrier, in the cluster or where a switched-out context's words are saved (R74, R76). -/
def countCmd (s : State) (c : Nat) (q : EngCmd) (key : Nat) : State × Option HomeFail :=
  let (n, rs) := q.counted s c
  if !wordsAway s q.ctx key then (bcbCount s key n rs, none)
  else match sramRead s q.ctx key 16 with
    | (s, .error f) => (s, some f)
    | (s, .ok bs) =>
      let k := ownerCluster key
      let y := s.ctx q.ctx
      let sv := y.saved.get {} k
      let held := sv.bcb.get { opened := [], last := some [] } key
      let room := (sv.bcb.filter (fun e => sameHome e.1 key && e.1 != key)).length < 256
      let (b, x) := (Bcb.ofNat (leNat bs)).count held n rs room
      let (b, x, _) := b.settle x
      match sramWrite s q.ctx key (leBytes 16 b.toNat) with
      | (s, some f) => (s, some f)
      | (s, none) => (s.setCtx q.ctx { s.ctx q.ctx with saved := y.saved.set k { sv with bcb := sv.bcb.set key x } }, none)

/-- The queue record a command of the wellhead runs for completes with it (R110, R112). -/
def finishRecord (s : State) (q : EngCmd) (status : Nat) : State :=
  match q.queue with
  | none => s
  | some (qid, n) =>
    let s := recordDone s qid n
    if status = 3 then recordError s qid 4 n else s

/-- Recorded translation faults of a context forgotten at a core: the command that met them has ended. -/
def forgetFaults (s : State) (c ctx : Nat) : State :=
  let k := s.core c
  s.setCore c { k with lookups := k.lookups.filter (fun l => !(l.ctx == ctx && l.stage == .faulted)) }

/-- NFAIL written into a basin command's block (R196), its place translated as a destination's is; what must happen first
where it cannot be yet. A block without a place for it is left as it is. -/
def writeNfail (s : State) (c : Nat) (q : EngCmd) : Except State State :=
  if q.eng != 1 then .ok s
  else match q.place s c (saddrSeg q.blockAt) (saddrOff q.blockAt + 28) 4 true with
    | .fault => .ok s
    | .dump va => .error (dumpStall s q.ctx va)
    | .ask page => .error (askPages s c q.ctx [page])
    | .at_ key via =>
      if isDram key && !agentMay s (coreAgent c) (lineOf key) then .error s
      else match agentWrite s key via false 2 (leBytes 4 q.acc) with
        | (s, some .held) => .error s
        | (s, _) => .ok s

/-- A command completes (R74, R474): its count, its status in the completion table, and its room in the engine. A Count that
its barrier's home cannot take yet waits. NFAIL's block is translated again (log 178). -/
def finishCmd (s : State) (c i : Nat) (q : EngCmd) (cancelled : Bool) : State :=
  let status := if cancelled then 4 else q.status
  match writeNfail s c q with
  | .error s => s
  | .ok s =>
    match (match q.bar with
      | some key => if status ≤ 1 then countCmd s c q key else (s, none)
      | none => (s, none)) with
    | (s, some .held) => s
    | (s, _) =>
      let result := if cancelled then 0
        else if q.eng = 0 && q.fn = xcCsum && status ≤ 1 then BitVec.ofNat 32 q.acc ^^^ 0xFFFFFFFF
        else q.result
      let s := if q.status = 3 then forgetFaults s c q.ctx else s
      let k := s.core c
      finishRecord (completeHandle (s.setCore c { k with eng := dropAt k.eng i }) q.handle status result) q status

/-- ENGINE_COUNT (R74): every destination byte is performed; the command counts and completes. A cancelled one may
complete so instead (R162), as the step's flag says. The step's operands: the core and the command. -/
def execEngineCount (s : State) : Host.Outcome State Fault Refusal :=
  let c := s.pick.a
  let i := s.pick.b
  match (s.core c).eng[i]? with
  | none => .next s
  | some q =>
    if q.cancel && s.pick.flag && q.out = 0 && writesMay s c i then .next (finishCmd s c i q true)
    else if q.settled && writesMay s c i then .next (finishCmd s c i q false)
    else .next s

/-! CRC-32C (R476). -/

/-- One bit of the reflected Castagnoli polynomial. -/
def crcBit (x : BitVec 32) : BitVec 32 := if x.getLsbD 0 then (x >>> 1) ^^^ 0x82F63B78 else x >>> 1

/-- One byte. -/
def crcByte (x : BitVec 32) (b : Byte) : BitVec 32 :=
  crcBit (crcBit (crcBit (crcBit (crcBit (crcBit (crcBit (crcBit (x ^^^ b.setWidth 32))))))))

/-! Basin pieces (R194). -/

/-- What the next piece of a basin command comes to. -/
inductive Piece
  | send (p : Packet) (count : Nat) (outs : List (Nat × Nat))
  | fault
  | ask (page : Nat)
  | dump (va : Nat)

/-- The place of an array's element as a DRAM address with its grade and domain. -/
def dramOf (x : EngPlace) : Option (Nat × Nat × Nat) :=
  match x with
  | .at_ key via => if isDram key then some (keyAddr key, via.grade, via.dom) else none
  | _ => none

/-- Whether the bytes of n elements from one on of an array lie in one stack, that of a virtual address: a page holds whole
rounds of the eight stacks, so that virtual and physical addresses name one stack (R173). -/
def inStackOf (va first n : Nat) : Bool := stackOf first == stackOf va && stackOf (first + 4 * n - 1) == stackOf va

/-- The next piece of a basin command (R194): the elements whose outputs lie in one 4 KiB granule of a stack, sent where
every byte it reads or writes lies in that stack. -/
def EngCmd.piece (q : EngCmd) (s : State) (c : Nat) : Piece :=
  let e := q.rpos
  let sg := q.segs.get 0 3
  let at_ (p : Nat) : Nat := segBase sg + p + 4 * e
  let outs := q.outArrays
  let ins := q.inArrays
  let lead := match outs with | p :: _ => at_ p | [] => at_ q.p0
  let n := min (q.len - e) ((4096 - lead % 4096) / 4)
  let all := ins.map (·, false) ++ outs.map (·, true)
  let places := all.map (fun p => q.place s c 3 (p.1 + 4 * e) 4 p.2)
  if segBase sg % 4 != 0 || all.any (fun p => !inStackOf lead (at_ p.1) n || p.1 + 4 * (e + n) > segLimit sg) then .fault
  else match places.findSome? (fun x => match x with | .ask page => some page | _ => none) with
    | some page => .ask page
    | none =>
      if places.contains .fault then .fault
      else match places.findSome? (fun x => match x with | .dump va => some va | _ => none) with
        | some va => .dump va
        | none =>
          let got := places.filterMap dramOf
          let pair (x : Nat × Nat × Nat) : Nat × Nat := (x.1, x.2.1)
          match (got.drop ins.length ++ got).head? with
          | none => .fault
          | some (pa, grade, dom) =>
            if got.length != places.length then .fault
            else .send {
              stack := stackOf pa, agent := coreAgent c, kind := .nmc, addr := pa / 32 * 32, chan := pa / 2 ^ 15 % 32, dom := dom
              grade := grade
              work := some (.bas q.fn q.kc (BitVec.ofNat 32 q.k1) e n ((got.take ins.length).map pair) ((got.drop ins.length).map pair))
              spans := got.map (fun x => (x.1 / 32, (x.1 % 32 + 4 * n + 31) / 32, x.2.2)), back := .cmd c q.id e } n
                ((got.drop ins.length).map (fun x => (dramKey x.1, 4 * n)))

/-! The moves of R74. -/

/-- The writes of a unit read by a core's command. XC.MCAST reads its source once and delivers each granule to every core
before the next (R14, R476, log 182). -/
def EngCmd.spread (q : EngCmd) (c : Nat) (u : EngUnit) : List EngUnit :=
  if q.fn != xcMcast then [u]
  else (List.range q.copies).map (fun j =>
    { u with pos := u.pos + j * u.data.length, off := sliceBase (256 * coreCluster c + q.clo + j) + u.off })

/-- A unit read: it waits for its write; a checksum is formed at once (R476). -/
def EngCmd.took (q : EngCmd) (c : Nat) (u : EngUnit) : EngCmd :=
  let n := u.data.length
  if q.fn = xcCsum then
    let q := { q with rpos := q.rpos + n, wpos := q.wpos + n, got := [] }
    if u.data.all Option.isSome then
      { q with acc := (u.data.foldl (fun x b => crcByte x (b.getD 0)) (BitVec.ofNat 32 q.acc)).toNat }
    else q.note stUc u.pos
  else
    let q := { q with rpos := q.rpos + n * q.copies, units := q.units ++ q.spread c u, got := [] }
    if q.fn = xcScatter && u.data.any Option.isSome then
      let i := (u.off - saddrOff q.dst) / q.esize
      let lo := saddrOff q.dst + i * q.esize
      { q with first := some (min (q.first.getD lo) lo), acc := max q.acc (lo + q.esize) }
    else q

/-- ENGINE_READ (R74): a command's next source bytes are read at their homes; a DRAM granule is asked for by a packet
first (R184). Of a basin command the next piece is sent (R194). The step's operands: the core and the command. -/
def execEngineRead (s : State) : Host.Outcome State Fault Refusal :=
  let c := s.pick.a
  let i := s.pick.b
  match (s.core c).eng[i]? with
  | none => .next s
  | some q =>
    if q.stopped || q.rpos ≥ q.total then .next s
    else if q.eng = 1 then
      if !writesMay s c i then .next s
      else match q.piece s c with
        | .fault => .next (setCmd s c i (q.stop 3 q.rpos))
        | .ask page => .next (askPages s c q.ctx [page])
        | .dump va => .next (dumpStall s q.ctx va)
        | .send p n outs =>
          .next (setCmd (sendPacket s p) c i { q with
            rpos := q.rpos + n, wpos := q.wpos + n, out := q.out + 1
            ranges := outs.foldl (fun rs e => addRange e.1 e.2 rs) q.ranges })
    else match q.nextUnit s c with
      | .got u => .next (setCmd s c i (q.took c u))
      | .fault => .next (if q.units.isEmpty && q.out = 0 then setCmd s c i (q.stop 3 q.rpos) else s)
      | .guard => .next (if q.units.isEmpty && q.out = 0 then setCmd s c i (q.stop 5 q.rpos) else s)
      | .ask page => .next (askPages s c q.ctx [page])
      | .wait => .next s
      | .need key via =>
        if s.pkts.any (fun p => p.kind == .rd && p.back == .cmd c q.id (keyAddr key)) then .next s
        else
          .next (setCmd (sendPacket s {
            stack := stackOf (keyAddr key), agent := coreAgent c, kind := .rd, addr := keyAddr key, dom := via.dom
            grade := via.grade, spans := [(keyAddr key / 32, 1, via.dom)], back := .cmd c q.id (keyAddr key) }) c i
            { q with out := q.out + 1 })

/-- The write packet of a unit in one granule: whole, or under a mask (R190). -/
def writePacket (c : Nat) (q : EngCmd) (u : EngUnit) (key : Nat) (via : Via) : Packet :=
  let o := key % 32
  let whole := u.data.length == 32 && u.data.all Option.isSome
  { stack := stackOf (keyAddr key), agent := coreAgent c, kind := if whole then .wr else .wrm
    spans := [(keyAddr key / 32, 1, via.dom)]
    addr := keyAddr key / 32 * 32, dom := via.dom, grade := via.grade
    mask := u.data.zipIdx.foldl (fun m e => if e.1.isSome then m + 2 ^ (o + e.2) else m) 0
    data := padded o (u.data.map (·.getD 0)) ++ List.replicate (32 - o - u.data.length) 0, back := .cmd c q.id u.pos }

/-- Bytes of a unit put at a home without granules, `bad` where their parity failed on the way (R516); bytes that are not
written keep their mark. -/
def putUnit (s : State) (key : Nat) (data : List (Option Byte)) (bad : Bool) : State :=
  let t := putBytes s key (data.zipIdx.map (fun e => e.1.getD (s.mem.read (key + e.2))))
  let mask := data.zipIdx.foldl (fun m e => if e.1.isSome then m + 2 ^ e.2 else m) 0
  markBytes { t with tainted := s.tainted } key data.length mask bad

/-- A unit has been performed at a key, or sent to its base die; none of an unreadable one is. -/
def EngCmd.wrote (q : EngCmd) (u : EngUnit) (key : Option Nat) : EngCmd :=
  let q := { q with wpos := q.wpos + u.data.length, units := q.units.drop 1
                    ranges := match key with | some k => addRange k u.data.length q.ranges | none => q.ranges }
  match u.data.findIdx? Option.isNone with
  | none => q
  | some j => q.note stUc (u.pos + j)

/-- ENGINE_WRITE (R74): a command's next destination bytes are performed at their home, or sent to their base die. The
step's operands: the core, the command, and whether the parity of bytes for SRAM fails on the way (R516). -/
def execEngineWrite (s : State) : Host.Outcome State Fault Refusal :=
  let c := s.pick.a
  let i := s.pick.b
  match (s.core c).eng[i]? with
  | none => .next s
  | some q =>
    match q.units with
    | [] => .next s
    | u :: _ =>
      if q.stopped || !writesMay s c i || q.writing s c then .next s
      else if u.data.all Option.isNone then .next (setCmd s c i (q.wrote u none))
      else
        match (if q.fn = xcMcast then q.sram s c u.off true else q.place s c (saddrSeg q.dst) u.off u.data.length true) with
        | .fault => .next (setCmd s c i (q.stop 3 u.pos))
        | .dump va => .next (dumpStall s q.ctx va)
        | .ask page => .next (askPages s c q.ctx [page])
        | .at_ key via =>
          if isDram key then
            .next (setCmd (sendPacket s (writePacket c q u key via)) c i { q.wrote u (some key) with out := q.out + 1 })
          else match homeReach s key with
            | .wait => .next s
            | .down => .next (setCmd s c i (q.stop 3 u.pos))
            | .ok =>
              .next (setCmd (crossPeer (putUnit s key u.data s.pick.flag) key (.store (keyAddr key) via (u.data.map (·.getD 0)))) c i
                (q.wrote u (some key)))

/-- READ_REPLY (R186): a read's reply returns and frees its tag. The step's operand: the packet. -/
def execReadReply (s : State) : Host.Outcome State Fault Refusal :=
  let i := s.pick.a
  match s.pkts[i]? with
  | none => .next s
  | some p =>
    if !p.done || p.kind != .rd then .next s
    else
      let s := dropPacket s i p
      match p.back with
      | .tmv .. => .next s
      | .cmd c id _ =>
        match findCmd s c id with
        | none => .next s
        | some j =>
          match (s.core c).eng[j]? with
          | none => .next s
          | some q =>
            let q := { q with out := q.out - 1 }
            .next (setCmd s c j (
              if p.status = stFault then q.stop 3 q.wpos
              else
                let bytes := if p.status = stGuard then [] else if p.status = stUc then List.replicate 32 none else p.reply.map some
                { q.note (if p.status = stCe then stCe else stOk) 0 with got := q.got.set (dramKey p.addr) bytes }))

/-- WRITE_REPLY (R187): a write's reply returns as its acknowledgement and frees its tag. The step's operand: the
packet. -/
def execWriteReply (s : State) : Host.Outcome State Fault Refusal :=
  let i := s.pick.a
  match s.pkts[i]? with
  | none => .next s
  | some p =>
    if !p.done || (p.kind != .wr && p.kind != .wrm) then .next s
    else
      let s := dropPacket s i p
      match p.back with
      | .tmv .. => .next s
      | .cmd c id pos =>
        match findCmd s c id with
        | none => .next s
        | some j =>
          match (s.core c).eng[j]? with
          | none => .next s
          | some q =>
            let q := { q with out := q.out - 1 }
            .next (setCmd s c j (
              if p.status = stGuard then q.stop 5 pos
              else if p.status = stFault then q.stop 3 pos
              else q.note p.status pos))

/-! The copy engine's functions (R476). -/

/-- Whether a block and options pair stand within what a function states (R473, R476). -/
def xcLegal (fn : Nat) (q : EngCmd) : Bool :=
  let o := q.opts.toNat
  let dseg := saddrSeg q.dst
  let sseg := saddrSeg q.src
  let fill := fn == xcFill
  let idx := fn == xcGather || fn == xcScatter
  let mc := fn == xcMcast
  let sram (x : Nat) : Bool := x ≤ 2
  o / 2 ^ 32 == 0 && o / 2 % 8 == 0 && q.field 31 1 == 0 && q.len ≥ 1 &&
  (if fill then q.src / 2 ^ 32 == 0 else saddrOk q.src) &&
  (if fn == xcCsum then q.dst / 2 ^ 32 == 0 && !o.testBit 0 else saddrOk q.dst) &&
  (if idx then saddrOk q.idx && q.len ≤ 2 ^ 26 && q.field 28 1 ≤ 6 else q.idx == 0 && q.field 28 1 == 0) &&
  (if mc then q.clo ≤ q.chi && dseg == 2 && saddrOff q.dst + q.len ≤ reservedOffset else q.clo == 0 && q.chi == 0) &&
  (fn != xcLoad || (sram dseg && sseg != 5)) && (fn != xcStore || (sram sseg && dseg != 5)) &&
  (fn != xcPeer || ((dseg == 5) != (sseg == 5)))

/-- Whether a side of a command lies in hub control space (R425). -/
def touchesHub (s : State) (ctx : Nat) (q : EngCmd) : Bool :=
  ctxStw s ctx && ((q.fn != xcCsum && q.fn != xcMcast && saddrSeg q.dst == 7) || (q.fn != xcFill && saddrSeg q.src == 7) ||
    ((q.fn == xcGather || q.fn == xcScatter) && saddrSeg q.idx == 7))

/-- The segment a command writes to. -/
def EngCmd.destSeg (q : EngCmd) : Option Nat :=
  if q.eng = 1 then (if q.outArrays.isEmpty then none else some 3)
  else if q.fn = xcCsum then none
  else some (saddrSeg q.dst)

/-- The PERM trap of a command whose destination's segment is read-only (R165), or that touches hub control space (R425). -/
def destTrap (s : State) (v : View) (q : EngCmd) : Option TrapRec :=
  let ro := match q.destSeg with | some g => segRo (v.st.segs.get 0 g) | none => false
  if ro || (q.eng == 0 && touchesHub s v.st.ctx q) then some { code := trapPerm, lanes := v.eff } else none

/-- A command enters its core's engine behind earlier ones (R74). -/
def acceptCmd (s : State) (c : Nat) (q : EngCmd) : State :=
  let (s, id) := s.fresh
  let k := s.core c
  s.setCore c { k with eng := k.eng ++ [{ q with id := id }] }

/-- A copy or basin command issued (R445, R473). -/
def copIssue (v : View) (s : State) (eng fn : Nat) (h : Option (BitVec 4)) (a b : BitVec 5) (legal : EngCmd → Bool) : Res :=
  withRoom v s ((s.core v.r.core).eng.length ≥ 64 || (eng = 1 && s.dev.state == .early)) h fun s =>
    let opts := v.pairVal b
    withBlock v s (v.pairVal a).toNat 32 32 fun s _ bs =>
      let q : EngCmd := {
        id := 0, eng := eng, fn := fn, block := bs, opts := opts, handle := none, ctx := v.st.ctx, segs := v.st.segs
        scratch := v.st.scratch, blockAt := (v.pairVal a).toNat }
      let q := { q with acc := if eng = 0 && fn = xcCsum then q.dst % 2 ^ 32 else 0 }
      if !legal q then .trap v.illegal s
      else withBarrier v s opts.toNat (destTrap s v q) fun s bar =>
        let (s, hd) := grantHandle v s eng h
        .done (acceptCmd s v.r.core { q with bar := bar, handle := hd })

/-- XC.LOAD (R476). -/
def execXcLoad (c : Ctl) (h : Option (BitVec 4)) (a b : BitVec 5) (s : State) :=
  run (.xcLoad c h a b) c s fun v s => copIssue v s 0 xcLoad h a b (xcLegal xcLoad)

/-- XC.STORE (R476). -/
def execXcStore (c : Ctl) (h : Option (BitVec 4)) (a b : BitVec 5) (s : State) :=
  run (.xcStore c h a b) c s fun v s => copIssue v s 0 xcStore h a b (xcLegal xcStore)

/-- XC.MCAST (R476). -/
def execXcMcast (c : Ctl) (h : Option (BitVec 4)) (a b : BitVec 5) (s : State) :=
  run (.xcMcast c h a b) c s fun v s => copIssue v s 0 xcMcast h a b (xcLegal xcMcast)

/-- XC.GATHER (R476). -/
def execXcGather (c : Ctl) (h : Option (BitVec 4)) (a b : BitVec 5) (s : State) :=
  run (.xcGather c h a b) c s fun v s => copIssue v s 0 xcGather h a b (xcLegal xcGather)

/-- XC.SCATTER (R476). -/
def execXcScatter (c : Ctl) (h : Option (BitVec 4)) (a b : BitVec 5) (s : State) :=
  run (.xcScatter c h a b) c s fun v s => copIssue v s 0 xcScatter h a b (xcLegal xcScatter)

/-- XC.FILL (R476). -/
def execXcFill (c : Ctl) (h : Option (BitVec 4)) (a b : BitVec 5) (s : State) :=
  run (.xcFill c h a b) c s fun v s => copIssue v s 0 xcFill h a b (xcLegal xcFill)

/-- XC.PEER (R476). -/
def execXcPeer (c : Ctl) (h : Option (BitVec 4)) (a b : BitVec 5) (s : State) :=
  run (.xcPeer c h a b) c s fun v s => copIssue v s 0 xcPeer h a b (xcLegal xcPeer)

/-- XC.CSUM (R476). -/
def execXcCsum (c : Ctl) (h : Option (BitVec 4)) (a b : BitVec 5) (s : State) :=
  run (.xcCsum c h a b) c s fun v s => copIssue v s 0 xcCsum h a b (xcLegal xcCsum)

/-! The basin engine's functions (R478). -/

/-- Whether a basin block and options pair stand within what a function states. -/
def basLegal (fn : Nat) (q : EngCmd) : Bool :=
  let o := q.opts.toNat
  let k1 := q.k1
  let fmt := k1 % 32
  let uses0 := fn != basFill
  let uses1 := fn != basStat && fn != basSum && fn != basSgd && fn != basMom
  o / 2 % 8 == 0 && q.field 18 2 == 0 && 1 ≤ q.len && q.len ≤ 2 ^ 30 &&
  (if uses0 then q.p0 % 4 == 0 else q.p0 == 0) &&
  (if uses1 || fn == basSum || fn == basSgd || fn == basMom then q.p1 % 4 == 0 else q.p1 == 0) &&
  (if fn == basMom then q.p2 % 4 == 0 else if fn == basSum then q.p2 % 32768 == 0 else q.p2 == 0) &&
  (if fn == basSum then 1 ≤ k1 && k1 ≤ 256
    else if fn == basCvt then 1 ≤ fmt && fmt ≤ 5 && k1 / 32 % 8 == 0 && k1 / 2 ^ 9 == 0
    else fn == basAxpby || fn == basSgd || fn == basMom || k1 == 0) &&
  (fn == basAxpby || fn == basScal || fn == basSgd || fn == basMom || fn == basFill || fn == basStat || q.kc == 0) &&
  (fn != basStat || !o.testBit 0)

/-- BAS.AXPBY (R478). -/
def execBasAxpby (c : Ctl) (h : Option (BitVec 4)) (a b : BitVec 5) (s : State) :=
  run (.basAxpby c h a b) c s fun v s => copIssue v s 1 basAxpby h a b (basLegal basAxpby)

/-- BAS.SCAL (R478). -/
def execBasScal (c : Ctl) (h : Option (BitVec 4)) (a b : BitVec 5) (s : State) :=
  run (.basScal c h a b) c s fun v s => copIssue v s 1 basScal h a b (basLegal basScal)

/-- BAS.SGD (R478). -/
def execBasSgd (c : Ctl) (h : Option (BitVec 4)) (a b : BitVec 5) (s : State) :=
  run (.basSgd c h a b) c s fun v s => copIssue v s 1 basSgd h a b (basLegal basSgd)

/-- BAS.MOM (R478). -/
def execBasMom (c : Ctl) (h : Option (BitVec 4)) (a b : BitVec 5) (s : State) :=
  run (.basMom c h a b) c s fun v s => copIssue v s 1 basMom h a b (basLegal basMom)

/-- BAS.SUM (R478). -/
def execBasSum (c : Ctl) (h : Option (BitVec 4)) (a b : BitVec 5) (s : State) :=
  run (.basSum c h a b) c s fun v s => copIssue v s 1 basSum h a b (basLegal basSum)

/-- BAS.FILL (R478). -/
def execBasFill (c : Ctl) (h : Option (BitVec 4)) (a b : BitVec 5) (s : State) :=
  run (.basFill c h a b) c s fun v s => copIssue v s 1 basFill h a b (basLegal basFill)

/-- BAS.COPY (R478). -/
def execBasCopy (c : Ctl) (h : Option (BitVec 4)) (a b : BitVec 5) (s : State) :=
  run (.basCopy c h a b) c s fun v s => copIssue v s 1 basCopy h a b (basLegal basCopy)

/-- BAS.CVT (R478). -/
def execBasCvt (c : Ctl) (h : Option (BitVec 4)) (a b : BitVec 5) (s : State) :=
  run (.basCvt c h a b) c s fun v s => copIssue v s 1 basCvt h a b (basLegal basCvt)

/-- BAS.STAT (R478). -/
def execBasStat (c : Ctl) (h : Option (BitVec 4)) (a b : BitVec 5) (s : State) :=
  run (.basStat c h a b) c s fun v s => copIssue v s 1 basStat h a b (basLegal basStat)

end Sys2Proof.Machine
end

