-- ==== Sys2Proof/Machine/Tier.lean ====
section
/-! DEFINITION. Basins (10 R194-R196, 02 R48, R49) and tiered weight matrices: TMV, FIRE.RD, the tier commands and the tier
engine's steps (11 R197-R208, R544, 18 R470, R471, 19 R479). -/
namespace Sys2Proof.Machine

/-! Basin arithmetic (R49, R478). -/

/-- FP32 operations on codes, rounded once under RNE. -/
def bFma (a b c : Word) : Word := BitVec.ofNat 32 (ff32.fma .rne false (ff32.decode a.toNat) (ff32.decode b.toNat) (ff32.decode c.toNat)).1
def bMul (a b : Word) : Word := BitVec.ofNat 32 (ff32.mul .rne false (ff32.decode a.toNat) (ff32.decode b.toNat)).1
def bAdd (a b : Word) : Word := BitVec.ofNat 32 (ff32.add .rne false (ff32.decode a.toNat) (ff32.decode b.toNat)).1
/-- A code with its sign changed. -/
def bNeg (a : Word) : Word := a ^^^ 0x80000000

/-- BAS.CVT's formats by code (R21). -/
def cvtFmt (n : Nat) : Fmt :=
  match n with
  | 1 => .f16
  | 2 => .bf16
  | 3 => .e4m3
  | 4 => .e5m2
  | _ => .lns6

/-- A value quantised and decoded back (R478). -/
def quantise (k1 : Nat) (x : Word) : Word :=
  let f := cvtFmt (k1 % 32)
  let (y, _) := fmtConvert f .rne (k1.testBit 8) false (ff32.decode x.toNat)
  BitVec.ofNat 32 (ff32.put .rne false (fmtValue f y)).1

/-- The outputs of a basin function for one element (R478). -/
def basOutputs (fn : Nat) (k0 k1 : Word) (x : List Word) : List Word :=
  let a := x.getD 0 0
  let b := x.getD 1 0
  let v := x.getD 2 0
  if fn = basAxpby then [bFma k0 a (bMul k1 b)]
  else if fn = basScal then [bMul k0 a]
  else if fn = basSgd then [bFma (bNeg k0) (bFma k1 a b) a]
  else if fn = basMom then
    let v' := bFma k1 v b
    [bFma (bNeg k0) v' a, v']
  else if fn = basSum then [(x.drop 1).foldl bAdd a]
  else if fn = basFill then [k0]
  else if fn = basCopy then [a]
  else if fn = basCvt then [quantise k1.toNat a]
  else []

/-- Whether STAT counts an element: not (|x| ≤ K0) (R478). -/
def beyondBound (k0 x : Word) : Bool :=
  let a := ff32.decode (x &&& 0x7FFFFFFF).toNat
  let b := ff32.decode k0.toNat
  a.isNan || b.isNan || ltV false b a

/-- What a piece has come to so far: a correction, the first element that failed, how many failed, and STAT's count. -/
structure PieceState where
  ce    : Bool := false
  first : Option Nat := none
  bad   : Nat := 0
  stat  : Nat := 0
  deriving DecidableEq, Repr

/-- The granules of n elements from an address on, whole, and the worst outcome. -/
def readArray (s : State) (grade a n : Nat) : State × List Byte × Nat :=
  (List.range ((a + 4 * n - 1) / 32 + 1 - a / 32)).foldl (fun acc i =>
    let (s, bs, st) := acc
    let (s, b, r) := granRead s (a / 32 + i) grade
    (s, bs ++ b, max st r.code)) (s, [], 0)

/-- Whole granules from an address's on written; their lines leave every cluster's cache. -/
def writeArray (s : State) (grade a : Nat) (bs : List Byte) : State :=
  (List.range (bs.length / 32)).foldl (fun s i =>
    dropCachedAll (granWriteAll s (a / 32 + i) grade ((bs.drop (32 * i)).take 32)) ((a / 32 + i) / 2)) s

/-- The word at a byte. -/
def granWord (bs : List Byte) (o : Nat) : Word := BitVec.ofNat 32 (leNat ((bs.drop o).take 4))

/-- The elements of one output granule of a piece: elements `lo` to `hi` of the piece (R195, R196). An output granule that
is not wholly covered is read first. -/
def basGranule (fn : Nat) (k0 k1 : Word) (first lo hi : Nat) (ins outs : List (Nat × Nat)) (acc : State × PieceState) :
    State × PieceState :=
  let (s, x) := acc
  let n := hi + 1 - lo
  let base (e : Nat × Nat) : Nat := (e.1 + 4 * lo) % 32
  let arrays := ins ++ outs.filter (fun o => !ins.contains o && !(base o == 0 && n == 8))
  let (s, raw, st) := arrays.foldl (fun acc e =>
    let (s, raw, st) := acc
    let (s, bs, r) := readArray s e.2 (e.1 + 4 * lo) n
    (s, raw ++ [bs], max st r)) (s, [], 0)
  if st = 2 then (s, { x with first := some (x.first.getD (first + lo)), bad := x.bad + n })
  else
    let at_ (i : Nat) (e : (Nat × Nat) × List Byte) : Word := granWord e.2 (base e.1 + 4 * i)
    let vals := (List.range n).map (fun i => basOutputs fn k0 k1 ((ins.zip raw).map (at_ i)))
    let stat := if fn = basStat then (List.range n).countP (fun i => beyondBound k0 (((ins.zip raw).map (at_ i)).getD 0 0)) else 0
    let s := outs.zipIdx.foldl (fun s e =>
      let old := match arrays.findIdx? (· == e.1) with
        | some j => raw.getD j []
        | none => []
      writeArray s e.1.2 (e.1.1 + 4 * lo)
        (old.take (base e.1) ++ vals.flatMap (fun r => leBytes 4 (r.getD e.2 0).toNat) ++ old.drop (base e.1 + 4 * n))) s
    (s, { x with ce := x.ce || st == 1, stat := x.stat + stat })

/-- A whole piece, its output granules in ascending address order (R195). -/
def basPiece (s : State) (fn : Nat) (k0 k1 : Word) (first count : Nat) (ins outs : List (Nat × Nat)) : State × PieceState :=
  let lead := match outs with
    | o :: _ => o.1
    | [] => (ins.getD 0 (0, 0)).1
  let g0 := lead / 32
  let g1 := (lead + 4 * (count - 1)) / 32
  (List.range (g1 + 1 - g0)).foldl (fun acc i =>
    let a := max lead (32 * (g0 + i))
    let b := min (lead + 4 * count) (32 * (g0 + i + 1))
    basGranule fn k0 k1 first ((a - lead) / 4) ((b - lead) / 4 - 1) ins outs acc) (s, {})

/-! A tiered matrix (R197, R198). -/

/-- Rows and columns of a TIERED entry, and the bytes of a row as they lie in a slot (R197). -/
def tierK (x : BitVec 512) : Nat := tidDim x 1
def tierN (x : BitVec 512) : Nat := tidDim x 0
def rowBytes (x : BitVec 512) : Nat := ((tierN x * (tidFmt x).width + 7) / 8 + 63) / 64 * 64
/-- The 4 KiB pieces of a row (R452). -/
def rowPieces (x : BitVec 512) : Nat := (rowBytes x + 4095) / 4096

/-- Fields of a configuration block (R198). -/
def cfgJbase (b : BitVec 512) : Nat := tidField b 480 32
def cfgJ (b : BitVec 512) : Nat := tidField b 464 16
def cfgHyst (b : BitVec 512) : Nat := tidField b 448 16
def cfgAper (b : BitVec 512) : Nat := tidField b 432 16
def cfgAsh (b : BitVec 512) : Nat := tidField b 428 4
def cfgHome (b : BitVec 512) : Nat := tidField b 425 3
def cfgUnb (b : BitVec 512) : Bool := b.getLsbD 424
def cfgPin (b : BitVec 512) : Nat := tidField b 376 48
def cfgTid (b : BitVec 512) : Nat := tidField b 366 10

/-- A tid's state at its tier engine, and its replacement. -/
def State.tier (s : State) (ctx n : Nat) : Tier := (s.ctx ctx).tiers.get {} n
def State.setTier (s : State) (ctx n : Nat) (t : Tier) : State :=
  let c := s.ctx ctx
  s.setCtx ctx { c with tiers := c.tiers.set n t }

/-- A dev offset, checked and translated for the tier engine of a cluster (R175, R202, R544). -/
def devPlace (s : State) (home ctx : Nat) (dev : BitVec 128) (off n : Nat) (write : Bool) : Walked :=
  if off + n > segLimit dev then .fault trapSegLimit
  else if write && segRo dev then .fault trapPerm
  else walkPlace s (some home) ctx (segBase dev + off) 0 write

/-- What its translation leaves in the TLB. -/
def devTouch (s : State) (home ctx : Nat) (dev : BitVec 128) (off : Nat) : State := touchPage s (some home) ctx (segBase dev + off)

/-- Bytes at a dev offset, read by the tier engine. -/
def devRead (s : State) (home ctx : Nat) (dev : BitVec 128) (off n : Nat) : State × Except HomeFail (List Byte) :=
  let s := devTouch s home ctx dev off
  match devPlace s home ctx dev off n false with
  | .at_ key via =>
    match agentRead s key via false (spanFuel n) n with
    | (s, .ok (bs, _)) => (s, .ok bs)
    | (s, .error f) => (s, .error f)
  | .fault _ => (s, .error .fault)
  | _ => (s, .error .held)

/-- Bytes at a dev offset, written by the tier engine; a page that a dump protects is wanted next (R180). -/
def devWrite (s : State) (home ctx : Nat) (dev : BitVec 128) (off : Nat) (bs : List Byte) : State × Option HomeFail :=
  let s := devTouch s home ctx dev off
  match devPlace s home ctx dev off bs.length true with
  | .at_ key via => agentWrite s key via false (spanFuel bs.length) bs
  | .fault _ => (s, some .fault)
  | .dump => (dumpStall s ctx (segBase dev + off), some .held)
  | .held => (s, some .held)

/-- A row of the map (R197): whether its entry reads, jet, slot and counter. -/
structure MapRow where
  k    : Nat
  ok   : Bool
  jet  : Bool
  slot : Nat
  cnt  : Nat
  deriving DecidableEq, Repr

/-- The eight bytes of an entry. -/
def MapRow.bits (r : MapRow) : Nat := (if r.jet then 2 ^ 63 else 0) + r.slot % 2 ^ 15 * 2 ^ 48 + r.cnt % 2 ^ 16 * 2 ^ 32

/-- An entry of eight bytes, for a matrix of some slots: an entry that software gave a slot the matrix has not counts as
JET = 0 (log 149). -/
def MapRow.ofNat (slots k x : Nat) : MapRow :=
  let slot := x / 2 ^ 48 % 2 ^ 15
  let jet := x.testBit 63 && slot < slots
  { k := k, ok := true, jet := jet, slot := if jet then slot else 0, cnt := x / 2 ^ 32 % 2 ^ 16 }

/-- One row of the map read; an uncorrectable entry counts as JET = 0 and CNT = 0 (R544). -/
def readRow (s : State) (ctx : Nat) (x b : BitVec 512) (dev : BitVec 128) (k : Nat) : State × Except HomeFail MapRow :=
  match devRead s (cfgHome b) ctx dev (tidMapOff x + 8 * k) 8 with
  | (s, .ok bs) => (s, .ok (MapRow.ofNat (cfgJ b) k (leNat bs)))
  | (s, .error .uc) => (s, .ok { k := k, ok := false, jet := false, slot := 0, cnt := 0 })
  | (s, .error f) => (s, .error f)

/-- Rows of the map read in order, or the row at which a fault stops it. -/
def readRows (s : State) (ctx : Nat) (x b : BitVec 512) (dev : BitVec 128) : List Nat → State × Except Nat (List MapRow)
  | [] => (s, .ok [])
  | k :: ks =>
    match readRow s ctx x b dev k with
    | (s, .error _) => (s, .error k)
    | (s, .ok r) =>
      match readRows s ctx x b dev ks with
      | (s, .error k) => (s, .error k)
      | (s, .ok rs) => (s, .ok (r :: rs))

/-- The map read whole. -/
def readMap (s : State) (ctx : Nat) (x b : BitVec 512) (dev : BitVec 128) : State × Except Nat (List MapRow) :=
  readRows s ctx x b dev (List.range (tierK x))

/-- An entry written; an uncorrectable one is not (R544). The flag says a fault. -/
def writeMap (s : State) (ctx : Nat) (x b : BitVec 512) (dev : BitVec 128) (r : MapRow) : State × Bool :=
  if !r.ok then (s, false)
  else match devWrite s (cfgHome b) ctx dev (tidMapOff x + 8 * r.k) (leBytes 8 r.bits) with
    | (s, some .fault) => (s, true)
    | (s, some .guard) => (s, true)
    | (s, _) => (s, false)

/-- The dev offset of a byte of row k (R452). -/
def poolOff (x : BitVec 512) (k byte : Nat) : Nat :=
  tidOff x + ((k / 8) * rowPieces x + byte / 4096) * 0x8000 + k % 8 * 4096 + byte % 4096

/-- The window's columns of row k, piece by piece; none where a page faults, with its address. -/
def windowPieces (s : State) (home ctx : Nat) (x : BitVec 512) (dev : BitVec 128) (k n0 : Nat) : Except (Nat × Nat) (List RowPiece) :=
  let w := (tidFmt x).width
  let last := min (n0 + 64) (tierN x)
  let per := 4096 * 8 / w
  let parts := (List.range 2).filterMap (fun i =>
    let lo := max n0 ((n0 / per + i) * per)
    let hi := min last ((n0 / per + i + 1) * per)
    if lo < hi then some (lo, hi - lo) else none)
  parts.foldl (fun acc e =>
    match acc with
    | .error f => .error f
    | .ok ps =>
      let off := poolOff x k (e.1 * w / 8)
      let va := segBase dev + off
      let n := (e.1 * w % 8 + e.2 * w + 7) / 8
      match devPlace s home ctx dev off n false with
      | .at_ key via =>
        if !isDram key then .error (trapPerm, va)
        else if guardRefuses s via.dom false (keyAddr key) then .error (trapGuard, va)
        else .ok (ps ++ [{ col := e.1, cols := e.2, va := va, pa := keyAddr key, grade := via.grade, dom := via.dom }])
      | .fault code => .error (code, if off < segLimit dev && segLimit dev < off + n then segBase dev + segLimit dev else va)
      | _ => .error (trapXlate, va))
    (.ok [])

/-! Values of vectors and rows (R48). -/

/-- The exact value of element k of a vector. -/
def TmvJob.x (j : TmvJob) (b k : Nat) : FVal :=
  let c := (j.xs.getD b []).getD k 0
  if j.f32 then ff32.decode c else ffBf16.decode c

/-- The number of vectors. -/
def TmvJob.vectors (j : TmvJob) : Nat := j.xs.length

/-- Whether a row fires (R201). -/
def TmvJob.fires (j : TmvJob) (theta : FVal) (k : Nat) : Bool :=
  (List.range j.vectors).any (fun b =>
    match j.x b k with
    | .nan _ => true
    | .inf _ => ltV false theta (.inf false)
    | .fin _ m e => ltV false theta (.fin false m e))

/-- A weight from the bytes of a row, by its bit place. -/
def weightAt (f : Fmt) (bs : List Byte) (i : Nat) : FVal :=
  let x := leNat ((bs.drop (i * f.width / 8)).take (fmtBytes f))
  operandValue f 0 false (some (if f.width = 4 then x / 16 ^ (i % 2) % 16 else x % 2 ^ f.width))

/-- A stack partial extended by one row: each product rounded once (R48). -/
def stackRow (zero : Bool) (j : TmvJob) (ws : List FVal) (k : Nat) (p : TmvPart) : TmvPart :=
  { p with
    vals := p.vals.zipIdx.map (fun r => r.1.zipIdx.map (fun e =>
      BitVec.ofNat 32 (ff32.fma .rne false (j.x r.2 k) (ws.getD e.2 (.fin false 0 0)) (ff32.decode e.1.toNat)).1))
    sums := if !zero then p.sums else p.sums.zipIdx.map (fun e => BitVec.ofNat 32 (ff32.add .rne false (ff32.decode e.1.toNat) (j.x e.2 k)).1) }

/-- A partial of +0. -/
def zeroPart (b n : Nat) : TmvPart := { vals := List.replicate b (List.replicate n 0), sums := List.replicate b 0, bad := none }

/-- The columns of the window. -/
def windowCols (x : BitVec 512) (n0 : Nat) : Nat := min (n0 + 64) (tierN x) - n0

/-- The bytes of a piece's columns and their outcome: the virtual address of the first byte that read uncorrectable. -/
def readPiece (s : State) (f : Fmt) (p : RowPiece) : State × List FVal × Option Nat :=
  let n := (p.col * f.width % 8 + p.cols * f.width + 7) / 8
  let gs := (List.range ((p.pa + n - 1) / 32 + 1 - p.pa / 32)).map (fun i => p.pa / 32 + i)
  let (s, bs, bad) := gs.foldl (fun acc g =>
    let (s, bs, bad) := acc
    let (s, b, r) := granRead s g p.grade
    (s, bs ++ b, if r == .uc && bad.isNone then some (p.va + (max (32 * g) p.pa - p.pa)) else bad)) (s, [], none)
  let bs := bs.drop (p.pa % 32)
  (s, (List.range p.cols).map (fun i => weightAt f bs (p.col * f.width / 4 % 2 * (if f.width = 4 then 1 else 0) + i)), bad)

/-- A basin's partial over the fired pool rows of its stack (R48, R201). -/
def poolPart (s : State) (j : TmvJob) (x : BitVec 512) (rows : List (Nat × List RowPiece)) : State × TmvPart :=
  rows.foldl (fun acc e =>
    let (s, p) := acc
    let (s, ws, bad) := e.2.foldl (fun a q =>
      let (s, ws, bad) := a
      let (s, w, b) := readPiece s (tidFmt x) q
      (s, ws ++ w, match bad with | some v => some v | none => b)) (s, [], none)
    match bad with
    | some va => (s, { p with bad := some (p.bad.getD (e.1, va)) })
    | none => (s, stackRow (tidHasZero x) j ws e.1 p)) (s, zeroPart j.vectors (windowCols x j.n0))

/-- The weights of a row in its jet slot (R201). -/
def slotWeights (s : State) (x : BitVec 512) (block : BitVec 512) (slot n0 : Nat) : List FVal :=
  let f := tidFmt x
  let a := cfgJbase block + slot * rowBytes x + n0 * f.width / 8
  let bs := s.mem.readList (sramKey a) (windowCols x n0 * 4 + 1)
  (List.range (windowCols x n0)).map (fun i => weightAt f bs ((if f.width = 4 then n0 % 2 else 0) + i))

/-- Groups of eight consecutive rows. -/
def eights {α : Type} (xs : List α) : Nat → List (List α)
  | 0 => []
  | fuel + 1 => if xs.isEmpty then [] else xs.take 8 :: eights (xs.drop 8) fuel

/-- Groups added one after another to an accumulator, with the flags they raise (R41). -/
def addGroups (acc : Word) (gs : List (List (FVal × Bool))) : Word × Flags :=
  gs.foldl (fun a g => let (y, f) := groupSum a.1 g; (y, a.2 ||| f)) (acc, noFlag)

/-- The hot partial extended by rows of the jet tier: groups of eight fired jet rows by R41, and the row sums by R45, where
the tid names a zero point (R48). -/
def hotRows (s : State) (j : TmvJob) (x block : BitVec 512) (rows : List (Nat × Nat)) (p : TmvPart) : TmvPart :=
  let rows := rows.map (fun e => (e.1, slotWeights s x block e.2 j.n0))
  let gs := eights rows (rows.length + 1)
  let vals := p.vals.zipIdx.map (fun r => r.1.zipIdx.map (fun e =>
    addGroups e.1 (gs.map (fun g => g.map (fun q => mulV (j.x r.2 q.1) (q.2.getD e.2 (.fin false 0 0)))))))
  let sums := p.sums.zipIdx.map (fun e =>
    if tidHasZero x then addGroups e.1 (gs.map (fun g => g.map (fun q => (j.x e.2 q.1, false)))) else (e.1, noFlag))
  { p with
    vals := vals.map (fun r => r.map (·.1)), sums := sums.map (·.1)
    flags := p.flags ||| joinFlags (vals.flatten.map (·.2)) ||| joinFlags (sums.map (·.2)) }

/-- The first poisoned byte of the window of a row in its jet slot (R202, R516). -/
def slotSpoiled (s : State) (x : BitVec 512) (block : BitVec 512) (slot n0 : Nat) : Option Nat :=
  let w := (tidFmt x).width
  let a := sramKey (cfgJbase block + slot * rowBytes x + n0 * w / 8)
  firstFrom (fun b => spoiled s b 1) ((n0 * w % 8 + windowCols x n0 * w + 7) / 8) a

/-- The jet rows of a batch (R203). -/
def batchRows : Nat := 64

/-- The hot partial after rows of the jet tier; at an uncorrectable row it stands as computed so far, before the row's group
of eight (R202). -/
def hotNext (s : State) (j : TmvJob) (x block : BitVec 512) (rows : List (Nat × Nat)) : TmvPart :=
  if j.hot.bad.isSome then j.hot
  else match rows.findIdx? (fun e => (slotSpoiled s x block e.2 j.n0).isSome) with
    | none => hotRows s j x block rows j.hot
    | some i =>
      { hotRows s j x block (rows.take (i / 8 * 8)) j.hot with
        bad := (rows[i]?).bind (fun e => (slotSpoiled s x block e.2 j.n0).map (fun a => (e.1, a))) }

/-- The hot part after one more batch (R203). -/
def TmvJob.nextBatch (j : TmvJob) (s : State) (x block : BitVec 512) : TmvJob :=
  { j with
    hot := hotNext s j x block ((j.jet.drop (batchRows * j.batch)).take batchRows), batch := j.batch + 1
    hotDone := j.jet.length ≤ batchRows * (j.batch + 1) }

/-- A sum of two partials' values, rounded once, with NV and OF (R37, R201). -/
def joinAdd (a b : Word) : Word × Flags :=
  let (y, f) := ff32.add .rne false (ff32.decode a.toNat) (ff32.decode b.toNat)
  (BitVec.ofNat 32 y, f &&& (flagNV ||| flagOF))

/-- The partials joined in the fixed order (R201). -/
def joinParts (hot : TmvPart) (parts : List TmvPart) : TmvPart :=
  parts.foldl (fun y p =>
    let vals := (y.vals.zip p.vals).map (fun r => (r.1.zip r.2).map (fun e => joinAdd e.1 e.2))
    let sums := (y.sums.zip p.sums).map (fun e => joinAdd e.1 e.2)
    { vals := vals.map (fun r => r.map (·.1)), sums := sums.map (·.1), bad := y.bad
      flags := y.flags ||| joinFlags (vals.flatten.map (·.2)) ||| joinFlags (sums.map (·.2)) }) hot

/-! The strand's side of TMV and FIRE.RD. -/

/-- A waiting instruction of a mark's split is told its stage. -/
def tellMark (s : State) (c ctx : Nat) (number : BitVec 16) (id stage : Nat) : State :=
  match findStrand s c ctx number with
  | none => s
  | some p =>
    let st := keptStrand s c p
    match st.marks.find? (fun m => m.id == id) with
    | none => s
    | some m =>
      let sp := st.split m.split
      if sp.prog.stage = 0 then s
      else setKept s c p (st.setSplit m.split { sp with prog := { sp.prog with stage := stage } })

/-- An outcome reaches the strand: its mark goes, and a trap becomes a late trap of its split (R545). -/
def endMark (s : State) (c ctx : Nat) (number : BitVec 16) (id : Nat) (t : Option TrapRec) : State :=
  match findStrand s c ctx number with
  | none => s
  | some p =>
    let st := keptStrand s c p
    match st.marks.find? (fun m => m.id == id) with
    | none => s
    | some m =>
      let st := { st with marks := st.marks.filter (fun m => m.id != id) }
      setKept s c p (match t with
        | none => st
        | some t =>
          let sp := st.split m.split
          st.setSplit m.split { sp with traps := sp.traps ++ [{ trap := t, site := some (m.pc, m.pos) }] })

/-- A tile of a context's core changed, in the core or, while its cluster is switched out, where it is saved (R147). -/
def updTileOf (s : State) (c ctx t : Nat) (f : Tile → Tile) : State :=
  let k := coreCluster c
  if (s.clu k).tenant = some ctx then s.setCore c ((s.core c).updTile t f)
  else
    let x := s.ctx ctx
    let b := x.saved.get {} k
    let y := b.cores.get {} c
    s.setCtx ctx { x with saved := x.saved.set k { b with
      cores := b.cores.set c { y with tiles := y.tiles.set t (f (y.tiles.get {} t)) } } }

/-- Whether a context runs on the cluster of a core. -/
def tenantAt (s : State) (c ctx : Nat) : Bool := (s.clu (coreCluster c)).tenant == some ctx

/-- A TMV gives its tile up without a result: the tile keeps its bits (R202). -/
def dropTile (s : State) (j : TmvJob) : State :=
  updTileOf s j.core j.ctx j.tile (fun t =>
    { t with owners := t.owners - 1, tag := if j.free && t.owners = 1 && t.tag = .q then .free else t.tag })

/-- A TMV ends in a trap with no tile changed. -/
def failTmv (s : State) (j : TmvJob) (code addr : Nat) : State :=
  let s := tellMark (dropTile s j) j.core j.ctx j.strand j.id 2
  endMark s j.core j.ctx j.strand j.id (some { code := code, addr := addr })

/-! Starting what waits (R199, R201, R208). -/

/-- What a TMV's start comes to. -/
inductive TmvStart
  | go (j : TmvJob) (s : State)
  | trap (code addr : Nat) (s : State)
  | hold (s : State)

/-- The fault of a dev access of the tier engine, with its address and code (R202). -/
def devFault (s : State) (home ctx : Nat) (dev : BitVec 128) (off n : Nat) (write : Bool) : Option (Nat × Nat) :=
  match devPlace s home ctx dev off n write with
  | .at_ key via =>
    if isDram key && guardRefuses s via.dom false (keyAddr key) then some (segBase dev + off, trapGuard) else none
  | .fault code => some (segBase dev + off, code)
  | _ => none

/-- The rows of some whose map entry faults, each with its address and code; a counting TMV writes them too (R202). -/
def mapFaults (s : State) (home ctx : Nat) (x : BitVec 512) (dev : BitVec 128) (write : Bool) (ks : List Nat) :
    List (Nat × Nat × Nat) :=
  ks.filterMap (fun k =>
    ((devFault s home ctx dev (tidMapOff x + 8 * k) 8 false).or
      (if write then devFault s home ctx dev (tidMapOff x + 8 * k) 8 true else none)).map (fun f => (k, f)))

/-- The least of some addresses with codes. -/
def leastFault (xs : List (Nat × Nat)) : Option (Nat × Nat) :=
  match xs with
  | [] => none
  | x :: r =>
    match leastFault r with
    | none => some x
    | some y => some (if x.1 ≤ y.1 then x else y)

/-- Whether every stack serves the tier engine's requests. -/
def stacksReady (s : State) : Bool := (List.range 8).all (fun i => stackServes s (i * 4096))

/-- Counters of fired rows rise at arrival (R201). -/
def countRows (s : State) (ctx : Nat) (x b : BitVec 512) (dev : BitVec 128) (rows : List MapRow) : State :=
  rows.foldl (fun s r => (writeMap s ctx x b dev { r with cnt := min (r.cnt + 1) 0xFFFF }).1) s

/-- The first of some rows' map entries that must be waited for, in a state that asks for it: a table whose stack does not
serve, or a page whose writes wait for a dump (R180, R183). -/
def mapHold (s : State) (home ctx : Nat) (x : BitVec 512) (dev : BitVec 128) (write : Bool) (ks : List Nat) : Option State :=
  ks.findSome? (fun k => match devPlace s home ctx dev (tidMapOff x + 8 * k) 8 write with
    | .dump => some (dumpStall s ctx (segBase dev + tidMapOff x + 8 * k))
    | .held => some s
    | _ => none)

/-- The arrival of a TMV at its tid (R201, R202): it waits for stacks (R183) and for a dump of the map's pages (R180); every
page of the map and of the fired pool rows is translated before anything counts. -/
def startTmv (s : State) (tid : Nat) (j : TmvJob) : TmvStart :=
  let t := s.tier j.ctx tid
  let x := t.entry
  let home := cfgHome t.block
  let all := List.range (tierK x)
  if !stacksReady s then .hold s
  else match mapHold s home j.ctx x j.dev j.counting all with
  | some s => .hold s
  | none =>
    let bad := mapFaults s home j.ctx x j.dev j.counting all
    match readRows s j.ctx x t.block j.dev (all.filter (fun k => !bad.any (fun f => f.1 == k))) with
    | (s, .error k) => .trap trapXlate (segBase j.dev + tidMapOff x + 8 * k) s
    | (s, .ok rows) =>
      let theta := ff32.decode (tidTheta x).toNat
      let fired := rows.filter (fun r => j.fires theta r.k)
      let pool := (fired.filter (fun r => !r.jet)).map (fun r => (r.k, windowPieces s home j.ctx x j.dev r.k j.n0))
      let faults := pool.filterMap (fun e => match e.2 with | .error (code, va) => some (va, code) | .ok _ => none)
      match leastFault (bad.map (·.2) ++ faults) with
      | some (va, code) => .trap code va s
      | none =>
        let pool := pool.map (fun e => (e.1, match e.2 with | .ok ps => ps | .error _ => []))
        let s := pool.foldl (fun s e => e.2.foldl (fun s p => touchPage s (some home) j.ctx p.va) s) s
        let s := if j.counting then countRows s j.ctx x t.block j.dev fired else s
        .go { j with
          jet := (fired.filter (·.jet)).map (fun r => (r.k, r.slot)), pool := pool
          bad := (fired.find? (fun r => !r.ok)).map (fun r => (r.k, segBase j.dev + tidMapOff x + 8 * r.k))
          hot := zeroPart j.vectors (windowCols x j.n0)
          due := (List.range 8).filter (fun i => pool.any (fun r => r.1 % 8 == i)) } s

/-- The hot part of a TMV that has started, as an operation of its core's sequencer (R15, R17). -/
def TmvJob.op (j : TmvJob) (tid : Nat) (x : BitVec 512) : CascadeOp where
  kind := .tmv
  sat := false
  gang := false
  ctx := j.ctx
  strand := j.strand
  tile := j.tile
  wide := false
  m0 := 0
  n0 := j.n0
  k0 := 0
  steps := j.jet.length / batchRows + 1
  ta := x
  tb := x
  md := 0
  book := 0
  segs := []
  scratch := 0
  job := (tid, j.id)

/-- An operation placed in a core's sequencer, or, while its context is switched out, in the saved one (R147). -/
def pushCascadeOf (s : State) (c ctx : Nat) (x : CascadeOp) : State :=
  if tenantAt s c ctx then s.setCore c { s.core c with cascade := (s.core c).cascade ++ [x] }
  else
    let k := coreCluster c
    let y := s.ctx ctx
    let b := y.saved.get {} k
    let z := b.cores.get {} c
    s.setCtx ctx { y with saved := y.saved.set k { b with cores := b.cores.set c { z with cascade := z.cascade ++ [x] } } }

/-- A FIRE.RD ends, with a trap or without one. -/
def endFire (s : State) (j : FireJob) (t : Option TrapRec) : State :=
  endMark (tellMark s j.core j.ctx j.strand j.id 2) j.core j.ctx j.strand j.id t

/-- A FIRE.RD's counters reach its core's phase buffer (R208, R471): of the rows it names, and of no other, the map is
read. -/
def runFire (s : State) (tid : Nat) (j : FireJob) : State :=
  let t := s.tier j.ctx tid
  let x := t.entry
  let ks := (List.range (min j.n (tierK x - j.k0))).map (j.k0 + ·)
  match leastFault ((mapFaults s (cfgHome t.block) j.ctx x j.dev false ks).map (·.2)) with
  | some (va, code) => endFire s j (some { code := code, addr := va })
  | none =>
    match readRows s j.ctx x t.block j.dev ks with
    | (s, .error k) => endFire s j (some { code := trapXlate, addr := segBase j.dev + tidMapOff x + 8 * k })
    | (s, .ok rows) =>
      match rows.find? (fun r => !r.ok) with
      | some r => endFire s j (some { code := trapDataUc, addr := segBase j.dev + tidMapOff x + 8 * r.k })
      | none =>
        let s := (List.range j.n).foldl (fun s i =>
          s.setCore j.core ((s.core j.core).pushStore (j.key + 2 * i)
            (leBytes 2 ((rows[i]?.map (·.cnt)).getD 0)) { ctx := j.ctx })) s
        endFire s j none

/-- Operations that wait proceed in arrival order, up to the first barrier operation (R199). -/
def tierProceed (ctx tid : Nat) : Nat → State → State
  | 0, s => s
  | fuel + 1, s =>
    let t := s.tier ctx tid
    if t.state != .bound then s
    else match t.waiting with
      | [] => s
      | .tmv j :: rest =>
        if t.flight.length ≥ 256 then s
        else match startTmv s tid j with
          | .hold s => s
          | .trap code va s => tierProceed ctx tid fuel (failTmv (s.setTier ctx tid { t with waiting := rest }) j code va)
          | .go j s =>
            let t := s.tier ctx tid
            let s := pushCascadeOf (s.setTier ctx tid { t with waiting := rest, flight := t.flight ++ [j] }) j.core ctx
              (j.op tid t.entry)
            tierProceed ctx tid fuel (tellMark s j.core ctx j.strand j.id 2)
      | .fire j :: rest =>
        if !stacksReady s || !tenantAt s j.core j.ctx then s
        else tierProceed ctx tid fuel (runFire (s.setTier ctx tid { t with waiting := rest }) tid j)
      | .cmd _ :: _ => s.setTier ctx tid { t with state := .quiescing }
      | .ageing _ :: _ => s.setTier ctx tid { t with state := .quiescing }

/-- Every operation that can proceed does. -/
def tierRun (s : State) (ctx tid : Nat) : State := tierProceed ctx tid ((s.tier ctx tid).waiting.length + 1) s

/-- An operation arrives at a tid; a counting TMV moves the automatic ageing counter (R199). -/
def tierArrive (s : State) (ctx tid : Nat) (op : TierOp) : State :=
  let t := s.tier ctx tid
  let t := { t with waiting := t.waiting ++ [op] }
  let t := match op with
    | .tmv j =>
      if j.counting && cfgAper t.block != 0 then
        if t.count + 1 ≥ cfgAper t.block then { t with count := 0, waiting := t.waiting ++ [.ageing j.dev] }
        else { t with count := t.count + 1 }
      else t
    | _ => t
  tierRun (s.setTier ctx tid t) ctx tid

/-- What still waits at a tid that has become Unbound ends (R199). -/
def tierDrop (s : State) (ctx : Nat) (ops : List TierOp) : State :=
  ops.foldl (fun s op => match op with
    | .tmv j => failTmv s j trapTierState 0
    | .fire j => endMark (tellMark s j.core j.ctx j.strand j.id 2) j.core ctx j.strand j.id (some { code := trapTierState })
    | .cmd c => completeHandle s c.handle 3 0
    | .ageing _ => s) s

/-! Barrier operations (R199, R204-R207, R544). -/

/-- A working operation completes: the tid is Bound or Unbound again, and what waits proceeds. -/
def tierComplete (s : State) (ctx tid : Nat) (unbound : Bool) : State :=
  let t := s.tier ctx tid
  let s := match t.working with
    | some c => completeHandle s c.handle t.status t.result
    | none => s
  if unbound then tierDrop (s.setTier ctx tid {}) ctx t.waiting
  else tierRun (s.setTier ctx tid { t with state := .bound, working := none, copies := [], status := 0, result := 0 }) ctx tid

/-- A status noted: a fault over an uncorrectable row over nothing (R544). -/
def Tier.note (t : Tier) (status k : Nat) : Tier :=
  if t.status = 3 || (t.status = 2 && status = 2) then t else { t with status := status, result := BitVec.ofNat 32 k }

/-- Whether a configuration block keeps its rules and the tid may be bound by it (R198). -/
def cfgLegal (s : State) (ctx : Nat) (b : BitVec 512) : Bool :=
  let x := tidOf s ctx (cfgTid b)
  let a := cfgJbase b
  let n := cfgJ b * rowBytes x
  let bound := (s.contexts.flatMap (fun e => e.2.tiers)).countP (fun t =>
    t.2.state != .unbound && cfgHome t.2.block == cfgHome b)
  let t := s.tier ctx (cfgTid b)
  a % 64 == 0 && cfgJ b ≤ 32768 && (cfgAper b == 0 || cfgAsh b != 0) && (ctxClmask s ctx).testBit (cfgHome b) &&
    cfgPin b % 8 == 0 && tidField b 0 366 == 0 && tidValid x && tidKind x == 1 &&
    a / regionSize == cfgHome b && a % regionSize + n ≤ poolEnd &&
    (t.state != .unbound || cfgUnb b || bound < 64) && (t.state == .unbound || cfgHome t.block == cfgHome b)

/-- Rows taken one after another until a fault stops the operation (R544). -/
def rowByRow (f : State → Tier → Nat → State × Tier) (s : State) (t : Tier) (ks : List Nat) : State × Tier :=
  ks.foldl (fun acc k => if acc.2.status = 3 then acc else f acc.1 acc.2 k) (s, t)

/-- A row of the map read and written back changed; an uncorrectable one is not written (R544). -/
def changeRow (ctx : Nat) (dev : BitVec 128) (f : MapRow → MapRow) (s : State) (t : Tier) (k : Nat) : State × Tier :=
  match readRow s ctx t.entry t.block dev k with
  | (s, .error _) => (s, t.note 3 k)
  | (s, .ok r) =>
    if !r.ok then (s, t.note 2 k)
    else match writeMap s ctx t.entry t.block dev (f r) with
      | (s, true) => (s, t.note 3 k)
      | (s, false) => (s, t)

/-- A row without a copy in a slot. -/
def MapRow.left (r : MapRow) : MapRow := { r with jet := false, slot := 0 }

/-- The rows of a refresh in ascending k up to the next one that has a slot to be copied into; the others lose JET and SLOT
(R199, R544). -/
def refreshRun (ctx : Nat) (dev : BitVec 128) : List TierRow → State → Tier → State × Tier
  | [], s, t => (s, { t with copies := [] })
  | row :: rest, s, t =>
    match readRow s ctx t.entry t.block dev row.k with
    | (s, .error _) => (s, { t.note 3 row.k with copies := [] })
    | (s, .ok r) =>
      if !r.ok then refreshRun ctx dev rest s (t.note 2 row.k)
      else if r.jet then (s, { t with copies := { row with slot := r.slot } :: rest })
      else match writeMap s ctx t.entry t.block dev r.left with
        | (s, true) => (s, { t.note 3 row.k with copies := [] })
        | (s, false) => refreshRun ctx dev rest s t

/-- A refresh begins (R199). -/
def refresh (s : State) (ctx : Nat) (b : BitVec 512) (dev : BitVec 128) (t : Tier) : State × Tier :=
  refreshRun ctx dev ((List.range (tierK t.entry)).map (fun k => { k := k, slot := 0 })) s { t with block := b, plan := none }

/-- The pin value of a row (R197); an uncorrectable one counts as free. -/
def readPin (s : State) (ctx : Nat) (b : BitVec 512) (dev : BitVec 128) (k : Nat) : State × Except HomeFail Nat :=
  if cfgPin b = 0 then (s, .ok 0)
  else match devRead s (cfgHome b) ctx dev (cfgPin b + k / 4) 1 with
    | (s, .ok bs) => (s, .ok (leNat bs / 4 ^ (k % 4) % 4))
    | (s, .error f) => (s, .error f)

/-- The pins of the rows below n, with whether each read; or the row at which a fault stops. -/
def readPins (s : State) (ctx : Nat) (b : BitVec 512) (dev : BitVec 128) : Nat → State × Except Nat (List (Nat × Bool))
  | 0 => (s, .ok [])
  | n + 1 =>
    match readPins s ctx b dev n with
    | (s, .error k) => (s, .error k)
    | (s, .ok ps) =>
      match readPin s ctx b dev n with
      | (s, .ok p) => (s, .ok (ps ++ [(p, true)]))
      | (s, .error .uc) => (s, .ok (ps ++ [(0, false)]))
      | (s, .error _) => (s, .error n)

/-- Rows ordered by counter descending, then row ascending; and by counter ascending, then row descending (R204). -/
def enterOrder (rs : List MapRow) : List MapRow := rs.mergeSort (fun a b => a.cnt > b.cnt || (a.cnt == b.cnt && a.k ≤ b.k))
def leaveOrder (rs : List MapRow) : List MapRow := rs.mergeSort (fun a b => a.cnt < b.cnt || (a.cnt == b.cnt && a.k ≥ b.k))

/-- The free slots in order (R204). -/
def freeSlots (rows : List MapRow) (j : Nat) : List Nat :=
  (List.range j).filter (fun n => !rows.any (fun r => r.jet && r.slot == n))

/-- The pairs of a plan beyond the free slots (R204): a pinned row enters whatever its counter; the others up to the first
that does not reach the margin. -/
def planPairs (pins : Nat → Nat) (h : Nat) (stopped : Bool) : List (MapRow × MapRow) → List TierRow
  | [] => []
  | (e, l) :: r =>
    if pins e.k = 1 || (!stopped && e.cnt ≥ l.cnt + h) then
      { k := e.k, slot := l.slot, out := some l.k } :: planPairs pins h stopped r
    else planPairs pins h true r

/-- The plan of TIER.RANK (R204). -/
def rankPlan (rows : List MapRow) (pins : Nat → Nat) (j h : Nat) : List TierRow :=
  let pinned := rows.filter (fun r => pins r.k == 1)
  let rest := enterOrder (rows.filter (fun r => pins r.k == 0))
  let target := (pinned ++ rest.take (j - pinned.length)).map (·.k)
  let cur := rows.filter (·.jet)
  let enter := enterOrder (rows.filter (fun r => target.contains r.k && !r.jet))
  let leave := leaveOrder (cur.filter (fun r => !target.contains r.k && pins r.k != 2))
  let room := j - cur.length
  let first := (enter.take room).zip (freeSlots rows j)
  first.map (fun e => { k := e.1.k, slot := e.2 }) ++ planPairs pins h false ((enter.drop first.length).zip leave)

/-- Copying one pool row into a slot, all ROWB bytes of it (R205): none where it could not be read, with whether it was a
fault. -/
def copyRow (s : State) (ctx : Nat) (x b : BitVec 512) (dev : BitVec 128) (k slot : Nat) : State × Except HomeFail Unit :=
  let n := rowBytes x
  let parts := (List.range (rowPieces x)).map (fun i => (4096 * i, min 4096 (n - 4096 * i)))
  let (s, got) := parts.foldl (fun acc e =>
    match acc with
    | (s, .error f) => (s, .error f)
    | (s, .ok bs) =>
      match devRead s (cfgHome b) ctx dev (poolOff x k e.1) e.2 with
      | (s, .ok more) => (s, .ok (bs ++ more))
      | (s, .error f) => (s, .error f)) ((s, .ok []) : State × Except HomeFail (List Byte))
  match got with
  | .error f => (s, .error f)
  | .ok bs =>
    match sramWrite s ctx (sramKey (cfgJbase b + slot * n)) bs with
    | (s, some f) => (s, .error f)
    | (s, none) => (s, .ok ())

/-- One row enters its slot (R205): copied, then its map entry. The row's counter is kept. -/
def enterRow (s : State) (ctx : Nat) (t : Tier) (dev : BitVec 128) (row : TierRow) : State × Tier :=
  match readRow s ctx t.entry t.block dev row.k with
  | (s, .error _) => (s, t.note 3 row.k)
  | (s, .ok r) =>
    if !r.ok then (s, t.note 2 row.k)
    else match copyRow s ctx t.entry t.block dev row.k row.slot with
      | (s, .error .uc) =>
        match (if r.jet then writeMap s ctx t.entry t.block dev r.left else (s, false)) with
        | (s, true) => (s, t.note 3 row.k)
        | (s, false) => (s, t.note 2 row.k)
      | (s, .error _) => (s, t.note 3 row.k)
      | (s, .ok _) =>
        match writeMap s ctx t.entry t.block dev { r with jet := true, slot := row.slot } with
        | (s, true) => (s, t.note 3 row.k)
        | (s, false) => (s, t)

/-- Numbers in ascending order. -/
def ascending (ks : List Nat) : List Nat := ks.mergeSort (· ≤ ·)

/-- TIER.MIG begins (R205): leaving rows lose JET and SLOT, and the entering rows are to be copied, each in ascending k
(R544). -/
def beginMig (s : State) (ctx : Nat) (t : Tier) (dev : BitVec 128) : State × Tier :=
  let plan := t.plan.getD []
  let (s, t) := rowByRow (changeRow ctx dev MapRow.left) s t (ascending (plan.filterMap (·.out)))
  let t := if t.status = 0 then { t with result := BitVec.ofNat 32 plan.length } else t
  (s, { t with plan := none, copies := plan.mergeSort (fun a b => a.k ≤ b.k) })

/-- TIER.AGE and automatic ageing (R206). -/
def ageRows (s : State) (ctx : Nat) (t : Tier) (dev : BitVec 128) (n : Nat) : State × Tier :=
  rowByRow (changeRow ctx dev (fun r => { r with cnt := r.cnt / 2 ^ n })) s t (List.range (tierK t.entry))

/-- TIER.RANK (R204). -/
def rankRows (s : State) (ctx : Nat) (t : Tier) (dev : BitVec 128) : State × Tier :=
  let n := tierK t.entry
  match readMap s ctx t.entry t.block dev with
  | (s, .error k) => (s, { t.note 3 k with plan := none })
  | (s, .ok rows) =>
    match readPins s ctx t.block dev n with
    | (s, .error k) => (s, { t.note 3 k with plan := none })
    | (s, .ok pins) =>
      let plan := rankPlan rows (fun k => (pins.getD k (0, true)).1) (cfgJ t.block) (cfgHyst t.block)
      let t := { t with plan := some plan, result := BitVec.ofNat 32 plan.length }
      let bad := (rows.filter (fun r => !r.ok)).map (·.k) ++ (pins.zipIdx.filter (fun p => !p.1.2)).map (·.2)
      match bad with
      | [] => (s, t)
      | k :: ks => (s, { t with status := 2, result := BitVec.ofNat 32 (ks.foldl min k) })

/-- A pin of TIER.PIN written (R207). -/
def writePin (ctx : Nat) (dev : BitVec 128) (val : Nat) (s : State) (t : Tier) (k : Nat) : State × Tier :=
  let off := cfgPin t.block + k / 4
  match devRead s (cfgHome t.block) ctx dev off 1 with
  | (s, .error .uc) => (s, t.note 2 k)
  | (s, .error _) => (s, t.note 3 k)
  | (s, .ok bs) =>
    match devWrite s (cfgHome t.block) ctx dev off (leBytes 1 (putField (leNat bs) (2 * (k % 4)) 2 val)) with
    | (s, some .fault) => (s, t.note 3 k)
    | (s, some .guard) => (s, t.note 3 k)
    | (s, _) => (s, t)

/-- A row pinned to jet enters a slot (R207): the lowest free one, else that of the row which leaves first among those not
pinned to jet. -/
def pinEnter (s : State) (ctx : Nat) (t : Tier) (dev : BitVec 128) (k : Nat) : State × Tier :=
  match readMap s ctx t.entry t.block dev with
  | (s, .error e) => (s, t.note 3 e)
  | (s, .ok rows) =>
    match freeSlots rows (cfgJ t.block) with
    | slot :: _ => enterRow s ctx t dev { k := k, slot := slot }
    | [] =>
      match readPins s ctx t.block dev (tierK t.entry) with
      | (s, .error e) => (s, t.note 3 e)
      | (s, .ok pins) =>
        match leaveOrder (rows.filter (fun q => q.jet && (pins.getD q.k (0, true)).1 != 1)) with
        | [] => (s, t.note 3 k)
        | l :: _ =>
          let (s, t) := changeRow ctx dev MapRow.left s t l.k
          if t.status = 3 then (s, t) else enterRow s ctx t dev { k := k, slot := l.slot }

/-- One row of TIER.PIN acts (R207). -/
def pinRow (ctx : Nat) (dev : BitVec 128) (val : Nat) (s : State) (t : Tier) (k : Nat) : State × Tier :=
  match readRow s ctx t.entry t.block dev k with
  | (s, .error _) => (s, t.note 3 k)
  | (s, .ok r) =>
    if !r.ok then (s, t.note 2 k)
    else if val = 2 && r.jet then changeRow ctx dev MapRow.left s t k
    else if val = 1 && !r.jet then pinEnter s ctx t dev k
    else (s, t)

/-- TIER.PIN (R207): the pins are written, then act row by row; a fault stops it. -/
def pinRows (s : State) (ctx : Nat) (t : Tier) (dev : BitVec 128) (val k0 count : Nat) : State × Tier :=
  if cfgPin t.block = 0 then (s, t.note 3 k0)
  else
    let ks := (List.range count).map (k0 + ·)
    let (s, t) := rowByRow (writePin ctx dev val) s { t with plan := none } ks
    rowByRow (pinRow ctx dev val) s t ks

/-- The work of a barrier operation when its tid is quiet (R199). -/
def tierAct (s : State) (ctx : Nat) (t : Tier) (c : TierCmd) : State × Tier :=
  match c.act with
  | .cfg b => refresh s ctx b c.dev t
  | .rank => rankRows s ctx t c.dev
  | .mig => beginMig s ctx t c.dev
  | .age n => ageRows s ctx t c.dev n
  | .pin val k0 count => pinRows s ctx t c.dev val k0 count

/-- Whether a command unbinds its tid. -/
def TierCmd.unbinds (c : TierCmd) : Bool :=
  match c.act with
  | .cfg b => cfgUnb b
  | _ => false

/-- Whether a working configuration has failed: its tid becomes Unbound (R544). -/
def cfgFailed (t : Tier) : Bool :=
  t.status == 3 && (match t.working with | some { act := .cfg _, .. } => true | _ => false)

/-- A working operation goes on to its copies, or completes. -/
def tierAfter (s : State) (ctx tid : Nat) (t : Tier) : State :=
  let s := s.setTier ctx tid t
  if t.status = 3 || t.copies.isEmpty then tierComplete s ctx tid (cfgFailed t) else s

/-- The first entry of the map or the pin map that must be waited for, in a state that asks for it (R180, R183). -/
def tierHold (s : State) (ctx : Nat) (t : Tier) (dev : BitVec 128) : Option State :=
  let all := List.range (tierK t.entry)
  let home := cfgHome t.block
  (mapHold s home ctx t.entry dev true all).or
    (if cfgPin t.block = 0 then none else all.findSome? (fun k => match devPlace s home ctx dev (cfgPin t.block + k / 4) 1 true with
      | .dump => some (dumpStall s ctx (segBase dev + cfgPin t.block + k / 4))
      | .held => some s
      | _ => none))

/-- TIER_WORKING (R199): a quiescing tid's TMVs have all completed, and the barrier operation at the head acts; of a tid
being bound the refresh begins. The
step's operands: the context and the tid. -/
def execTierWorking (s : State) : Host.Outcome State Fault Refusal :=
  let ctx := s.pick.a
  let tid := s.pick.b
  let t := s.tier ctx tid
  match t.flight, t.waiting with
  | [], .cmd c :: rest =>
    if !stacksReady s || !(t.state == .quiescing || t.state == .refreshing) || t.working.isSome then .next s
    else match tierHold s ctx (match c.act with | .cfg b => { t with block := b } | _ => t) c.dev with
      | some s => .next s
      | none =>
        let t := { t with state := if t.state == .refreshing then .refreshing else .working, waiting := rest, working := some c, status := 0, result := 0, copies := [] }
        if c.unbinds then .next (tierComplete (s.setTier ctx tid t) ctx tid true)
        else
          let (s, t) := tierAct s ctx t c
          .next (tierAfter s ctx tid t)
  | _, _ => .next s

/-- AUTO_AGEING (R199, R206): an automatic ageing whose turn has come shifts every counter by ASH. The step's operands:
the context and the tid. -/
def execAutoAgeing (s : State) : Host.Outcome State Fault Refusal :=
  let ctx := s.pick.a
  let tid := s.pick.b
  let t := s.tier ctx tid
  match t.state, t.flight, t.waiting with
  | .quiescing, [], .ageing dev :: rest =>
    if !stacksReady s then .next s
    else match tierHold s ctx t dev with
      | some s => .next s
      | none =>
        let (s, t) := ageRows s ctx { t with state := .working, waiting := rest, working := none, status := 0, result := 0 } dev
          (cfgAsh t.block)
        .next (tierComplete (s.setTier ctx tid t) ctx tid false)
  | _, _, _ => .next s

/-- TIER_COPY_DONE (R199, R205): the next copy of a refresh or migration is performed and its row's map entry written. The
step's operands: the context and the tid. -/
def execTierCopyDone (s : State) : Host.Outcome State Fault Refusal :=
  let ctx := s.pick.a
  let tid := s.pick.b
  let t := s.tier ctx tid
  match t.copies, t.working with
  | row :: rest, some c =>
    if !stacksReady s || (t.state != .working && t.state != .refreshing) then .next s
    else match tierHold s ctx t c.dev with
      | some s => .next s
      | none =>
        let (s, t) := enterRow s ctx { t with copies := rest } c.dev row
        let (s, t) := match c.act with
          | .cfg _ => if t.status = 3 then (s, t) else refreshRun ctx c.dev rest s t
          | _ => (s, t)
        .next (tierAfter s ctx tid t)
  | _, _ => .next s

/-! TMV's partials and join (R201-R203). -/

/-- The packets of the stacks whose partial is due (R186, R201). -/
def sendDue (s : State) (ctx tid : Nat) (t : Tier) (j : TmvJob) : State × TmvJob :=
  let s := j.due.foldl (fun s st =>
    let rows := j.pool.filter (fun r => r.1 % 8 == st)
    let ps := rows.flatMap (·.2)
    let pa := match ps with | p :: _ => p.pa | [] => st * 4096
    sendPacket s {
      stack := st, agent := tierAgent (cfgHome t.block), kind := .nmc, addr := pa / 32 * 32, chan := tid % 32
      dom := ctxDom s ctx, grade := 1, work := some (.tmv rows), back := .tmv ctx tid j.id
      spans := ps.map (fun p => (p.pa / 32, (p.pa % 32 + (p.cols * (tidFmt t.entry).width + 7) / 8 + 32) / 32, p.dom)) }) s
  (s, { j with due := [] })

/-- A job in flight changed. -/
def setJob (s : State) (ctx tid : Nat) (j : TmvJob) : State :=
  let t := s.tier ctx tid
  s.setTier ctx tid { t with flight := t.flight.map (fun x => if x.id = j.id then j else x) }

/-- The lowest row that read uncorrectable, over the map, the jet slots and every partial (R202). -/
def TmvJob.worst (j : TmvJob) : Option (Nat × Nat) :=
  (j.bad.toList ++ j.hot.bad.toList ++ j.parts.filterMap (fun e => e.2.bad)).foldl (fun acc e =>
    match acc with
    | none => some e
    | some a => some (if e.1 < a.1 || (e.1 == a.1 && e.2 < a.2) then e else a)) none

/-- The tile after a TMV: rows 0 to B − 1 and their row sums (R201, R470). -/
def tmvTile (x : BitVec 512) (j : TmvJob) (y : TmvPart) (t : Tile) : Tile :=
  let zero := tidHasZero x
  { t with
    tag := .q, tid := some x, col := j.n0, owners := t.owners - 1
    rows := (List.range j.vectors).foldl (fun rs b =>
      rs.set b ((List.range 64).map (fun n => (y.vals.getD b []).getD n 0))) t.rows
    sums := (List.range j.vectors).foldl (fun rs b => rs.set b (if zero then y.sums.getD b 0 else 0)) t.sums }

/-- TMV_JOIN (R201): the partials of a TMV are joined into the tile; while some are still to be asked for, they are. A TMV
that a base die refused ends in GUARD, its tile unchanged (R545, log 154). The step's operands: the context, the tid, and
the TMV's place in flight. -/
def execTmvJoin (s : State) : Host.Outcome State Fault Refusal :=
  let ctx := s.pick.a
  let tid := s.pick.b
  let t := s.tier ctx tid
  match t.flight[s.pick.c]? with
  | none => .next s
  | some j =>
    if !j.due.isEmpty then
      let (s, j) := sendDue s ctx tid t j
      .next (setJob s ctx tid j)
    else
      let dies := (List.range 8).filter (fun i => j.pool.any (fun r => r.1 % 8 == i))
      let t := { t with flight := t.flight.filter (fun x => x.id != j.id) }
      if !dies.all (fun i => (j.parts.find i).isSome) || !j.hotDone || !tenantAt s j.core ctx then .next s
      else match j.refused with
      | some va => .next (tierRun (failTmv (s.setTier ctx tid t) j trapGuard va) ctx tid)
      | none =>
        let y := match j.worst with
          | none => joinParts j.hot (dies.filterMap (fun i => j.parts.find i))
          | some _ => j.hot
        let s := s.setCore j.core ((s.core j.core).updTile j.tile (tmvTile t.entry j y))
        let s := raiseStrand s j.core ctx j.strand y.flags
        let s := endMark s j.core ctx j.strand j.id (match j.worst with
          | none => none
          | some (_, va) => some { code := trapDataUc, addr := va })
        .next (tierRun (s.setTier ctx tid t) ctx tid)

/-! The cascade sequencer's steps (R17). -/

/-- Whether a TMV whose hot part has left a core's sequencer has yet to write a tile of the operation now at its head: the
operation waits, since the TMV issued first (R17, R202). -/
def joinOwed (s : State) (c : Nat) (x : CascadeOp) : Bool :=
  (s.ctx x.ctx).tiers.any (fun e => e.2.flight.any (fun j =>
    j.core == c && j.hotDone && (groupTiles x.wide x.tile).contains j.tile))

/-- One step of a TMV's hot part: a batch of 64 jet rows; after the last the operation leaves the sequencer (R203). -/
def tmvStep (s : State) (c : Nat) (x : CascadeOp) : State :=
  let k := s.core c
  let gone := s.setCore c { k with cascade := k.cascade.drop 1 }
  let t := s.tier x.ctx x.job.1
  match t.flight.find? (fun j => j.id == x.job.2) with
  | none => gone
  | some j =>
    let j := j.nextBatch s t.entry t.block
    setJob (if j.hotDone then gone else s) x.ctx x.job.1 j

/-- CASCADE_STEP (R17, R203, R460): the operation at the head of a core's sequencer makes one step. The step's operand: the
core. -/
def execCascadeStep (s : State) : Host.Outcome State Fault Refusal :=
  let c := s.pick.a
  let cl := s.clu (coreCluster c)
  match (s.core c).cascade with
  | [] => .next s
  | x :: _ =>
    if cl.leaving == some x.ctx || cl.stuck || joinOwed s c x then .next s
    else if x.kind == .tmv then .next (tmvStep s c x)
    else .next (matrixStep s c x)

/-! Basin packets (R195, R196). -/

/-- Whether the command of a piece has stopped, so that the piece is not performed (R196). -/
def pieceStopped (s : State) (p : Packet) : Bool :=
  match p.back with
  | .cmd c id _ => ((findCmd s c id).bind (fun j => (s.core c).eng[j]?)).any (·.stopped)
  | .tmv .. => false

/-- PKT_NMC (R195): a basin performs its next piece, unless the packet is refused or its command has stopped. The step's
operand: the packet. -/
def execPktNmc (s : State) : Host.Outcome State Fault Refusal :=
  let i := s.pick.a
  match s.pkts[i]? with
  | none => .next s
  | some p =>
    if p.kind != .nmc || !pktMay s i p then .next s
    else match p.work, p.back with
      | some (.bas fn k0 k1 first count ins outs), _ =>
        if pieceStopped s p then .next (replyPacket s i { p with index := some first } stOk [])
        else match pktRefusal s p with
          | some st => .next (replyPacket s i { p with index := some first, words := [if st = stUc then BitVec.ofNat 32 count else 0, 0] } st [])
          | none =>
            let (s, x) := basPiece s fn k0 k1 first count ins outs
            .next (replyPacket s i { p with index := x.first, words := [BitVec.ofNat 32 x.bad, BitVec.ofNat 32 x.stat] }
              (if x.bad != 0 then stUc else if x.ce then stCe else stOk) [])
      | some (.tmv rows), .tmv ctx tid id =>
        let t := s.tier ctx tid
        match t.flight.find? (fun j => j.id == id) with
        | none => .next (replyPacket s i p stOk [])
        | some j =>
          let empty := zeroPart j.vectors (windowCols t.entry j.n0)
          let lead := match rows with
            | (k, q :: _) :: _ => some (k, q.va)
            | _ => none
          match pktRefusal s p with
          | some st => .next (setJob (replyPacket s i p st []) ctx tid { j with
              parts := j.parts.set p.stack { empty with bad := if st = stUc then lead else none }
              refused := if st = stUc then j.refused else j.refused.or (some ((lead.map (·.2)).getD 0)) })
          | none =>
            let (s, part) := poolPart s j t.entry rows
            .next (replyPacket (setJob s ctx tid { j with parts := j.parts.set p.stack part }) i p
              (if part.bad.isSome then stUc else stOk) [])
      | _, _ => .next (replyPacket s i p stFault [])

/-- A piece's outcome joins its command's (R196). -/
def EngCmd.pieceDone (q : EngCmd) (p : Packet) : EngCmd :=
  let q := { q with out := q.out - 1 }
  let first := p.index.getD 0
  if p.status = stGuard then q.stop 5 first
  else if p.status = stFault then q.stop 3 first
  else
    let q := { q with acc := q.acc + (p.words.getD 0 0).toNat }
    let q := q.note p.status first
    if q.fn = basStat && q.status ≤ 1 then
      { q with result := BitVec.ofNat 32 (min (2 ^ 32 - 1) (q.result.toNat + (p.words.getD 1 0).toNat)) }
    else q

/-- NMC_REPLY (R196): a piece's reply returns and frees its tag; after the last piece its command completes. The step's
operand: the packet. -/
def execNmcReply (s : State) : Host.Outcome State Fault Refusal :=
  let i := s.pick.a
  match s.pkts[i]? with
  | none => .next s
  | some p =>
    if !p.done || p.kind != .nmc then .next s
    else
      let s := dropPacket s i p
      match p.back with
      | .tmv .. => .next s
      | .cmd c id _ =>
        match findCmd s c id with
        | none => .next s
        | some j =>
          match (s.core c).eng[j]? with
          | none => .next s
          | some q =>
            let q := q.pieceDone p
            let s := setCmd s c j q
            .next (if q.settled && writesMay s c j then finishCmd s c j q false else s)

/-! The instructions (R470, R471, R479). -/

/-- Why an instruction finds a tid in the wrong state (R199), or its entry. -/
def tierNamed (s : State) (ctx tid : Nat) : Except Nat Tier :=
  match namedTid s ctx tid with
  | none => .error trapIllegalOp
  | some x => if tidKind x != 1 || !tierBound s ctx tid then .error trapTierState else .ok (s.tier ctx tid)

/-- The arbiter of a tier engine takes an operation of a strand (R199, R528). -/
def tierTurn (v : View) (s : State) (home : Nat) (k : State → Res) : Res :=
  if !arbiterMay s home v.st.ctx 5 0 v.r.core v.st.number.toNat then .stay 22 s
  else k (arbiterServe s home v.st.ctx 5 0 v.r.core v.st.number.toNat)

/-- A mark for the instruction that issues. -/
def addMark (v : View) (s : State) : State × Nat :=
  let (s, id) := s.fresh
  let st := s.strand v.r
  (s.setStrand v.r { st with marks := st.marks ++ [{ id := id, split := v.r.split, pc := v.h, pos := v.pos, lanes := v.eff }] }, id)

/-- After an arrival: the instruction goes on once its operation has proceeded, waited for under reason 22. -/
def tierWait (v : View) (s : State) : Res := if (s.prog v.r).stage = 2 then .done s else .stay 22 s

/-- The inputs of a TMV, as ordinary loads (R57, R470): B vectors of K codes. -/
def tmvInputs (v : View) (s : State) (seg eb n b off stride : Nat) (k : State → List (List Nat) → Res) : Res :=
  let spans := (List.range b).map (fun i => (off + i * stride, n * eb))
  let base (o : Nat) : Nat := match segAddr s v.r.core v.st seg o with | .sram a => a | _ => 0
  match v.spanTrap seg spans with
  | some t => .trap t s
  | none =>
    match spans.find? (fun e => base e.1 % eb != 0) with
    | some e => .trap { code := trapMisalign, lanes := v.eff, addr := base e.1 } s
    | none =>
      let (s, xs) := spans.foldl (fun acc e =>
        let (s, xs) := acc
        let (s, bs, _) := loadSpan s v.r.core (sramKey (base e.1)) { ctx := v.st.ctx } (e.2 / 64 + 3) e.2
        (s, xs ++ [(List.range n).map (fun i => leNat ((bs.drop (eb * i)).take eb))])) (s, [])
      k s xs

/-- TMV (R201, R470). -/
def execTmv (c : Ctl) (nocnt : Bool) (d a : Operand) (s : State) :=
  run (.tmv c nocnt d a) c s fun v s =>
    let w := (v.rd a 0).toNat
    let tid := w % 2 ^ 10
    let core := s.core v.r.core
    let eb := if w.testBit 12 then 4 else 2
    if v.eff = 0 then .done s
    else if (s.prog v.r).stage != 0 then tierWait v s
    else if w / 2 ^ 16 != 0 || w / 2 ^ 13 % 8 > 2 then .trap v.illegal s
    else match tierNamed s v.st.ctx tid with
      | .error code => .trap { code := code, lanes := v.eff } s
      | .ok t =>
        if cfgHome t.block != coreCluster v.r.core || (ff32.decode (tidTheta t.entry).toNat).isNan then
          .trap { code := trapTierState, lanes := v.eff } s
        else if !core.tagFits false (tileOf d) .q then .trap v.illegal s
        else if t.flight.length ≥ 256 then .stay 22 s
        else tmvInputs v s (w / 2 ^ 13 % 8) eb (tierK t.entry) (w / 2 ^ 10 % 4 + 1) (v.rd (a.after 1) 0).toNat (v.rd (a.after 2) 0).toNat
          fun s xs => tierTurn v s (cfgHome t.block) fun s =>
            let (s, id) := addMark v s
            let s := s.setProg v.r { s.prog v.r with stage := 1 }
            let s := s.setCore v.r.core ((s.core v.r.core).updTile (tileOf d) (fun u => { u with tag := .q, owners := u.owners + 1 }))
            let s := tierArrive s v.st.ctx tid (.tmv {
              id := id, core := v.r.core, ctx := v.st.ctx, strand := v.st.number, tile := tileOf d, xs := xs
              f32 := w.testBit 12, n0 := (v.rd (a.after 3) 0).toNat, counting := !nocnt, dev := v.st.segs.get 0 3
              free := (core.tile (tileOf d)).tag == .free })
            tierWait v s

/-- FIRE.RD (R208, R471). -/
def execFireRd (c : Ctl) (a : Operand) (s : State) :=
  run (.fireRd c a) c s fun v s =>
    let w := (v.rd a 0).toNat
    let n := (v.rd (a.after 2) 0).toNat
    let off := (v.rd (a.after 3) 0).toNat
    if v.eff = 0 then .done s
    else if (s.prog v.r).stage != 0 then tierWait v s
    else if w / 2 ^ 10 != 0 || n > 65536 then .trap v.illegal s
    else match tierNamed s v.st.ctx w with
      | .error code => .trap { code := code, lanes := v.eff } s
      | .ok t =>
        if cfgHome t.block != coreCluster v.r.core then .trap { code := trapTierState, lanes := v.eff } s
        else withAccess v s ((v.checkSeg 0 { n := 2, writes := true, needR := false, spaces := spacesAll, align := 2 }
            (numbered ((List.range n).map (fun i => off + 2 * i)))).whole v.eff) fun ps =>
          tierTurn v s (cfgHome t.block) fun s =>
            let (s, id) := addMark v s
            let s := s.setProg v.r { s.prog v.r with stage := 1 }
            tierWait v (tierArrive s v.st.ctx w (.fire {
              id := id, core := v.r.core, ctx := v.st.ctx, strand := v.st.number, k0 := (v.rd (a.after 1) 0).toNat, n := n
              key := (ps.head?.map (·.key)).getD 0, dev := v.st.segs.get 0 3 }))

/-- A tier command's handle, and the command sent to its tid (R479). -/
def sendTier (v : View) (s : State) (h : Option (BitVec 4)) (home tid : Nat) (act : TierAct) : Res :=
  tierTurn v s home fun s =>
    let (s, hd) := grantHandle v s 2 h
    .done (tierArrive s v.st.ctx tid (.cmd { act := act, handle := hd, dev := v.st.segs.get 0 3 }))

/-- A tier command on a bound tid (R479). -/
def tierCommand (v : View) (s : State) (h : Option (BitVec 4)) (b : Nat) (tid : Nat) (legal : Bool) (act : BitVec 512 → Option TierAct) :
    Res :=
  withRoom v s false h fun s =>
    if !legal || b != 0 || tid > 1023 then .trap v.illegal s
    else match tierNamed s v.st.ctx tid with
      | .error code => .trap { code := code, lanes := v.eff } s
      | .ok t =>
        match act t.entry with
        | none => .trap v.illegal s
        | some x => sendTier v s h (cfgHome t.block) tid x

/-- TIER.CFG (R198, R199): a block that breaks a rule completes FAULT. -/
def execTierCfg (c : Ctl) (h : Option (BitVec 4)) (a b : BitVec 5) (s : State) :=
  run (.tierCfg c h a b) c s fun v s => withRoom v s false h fun s =>
    if v.pairVal b != 0 then .trap v.illegal s
    else withBlock v s (v.pairVal a).toNat 64 64 fun s _ bs =>
      let x := BitVec.ofNat 512 (leNat bs)
      let tid := cfgTid x
      let ctx := v.st.ctx
      if !cfgLegal s ctx x then
        let (s, hd) := grantHandle v s 2 h
        .done (completeHandle s hd 3 0)
      else if tierBound s ctx tid then sendTier v s h (cfgHome x) tid (.cfg x)
      else tierTurn v s (cfgHome x) fun s =>
        let (s, hd) := grantHandle v s 2 h
        if cfgUnb x then .done (completeHandle s hd 0 0)
        else
          let cmd : TierCmd := { act := .cfg x, handle := hd, dev := v.st.segs.get 0 3 }
          .done (s.setTier ctx tid { state := .refreshing, block := x, entry := tidOf s ctx tid, waiting := [.cmd cmd] })

/-- TIER.RANK (R204). -/
def execTierRank (c : Ctl) (h : Option (BitVec 4)) (a b : BitVec 5) (s : State) :=
  run (.tierRank c h a b) c s fun v s =>
    tierCommand v s h (v.pairVal b).toNat (v.pairVal a).toNat true (fun _ => some .rank)

/-- TIER.MIG (R205). -/
def execTierMig (c : Ctl) (h : Option (BitVec 4)) (a b : BitVec 5) (s : State) :=
  run (.tierMig c h a b) c s fun v s =>
    tierCommand v s h (v.pairVal b).toNat (v.pairVal a).toNat true (fun _ => some .mig)

/-- TIER.AGE (R206). -/
def execTierAge (c : Ctl) (h : Option (BitVec 4)) (a b : BitVec 5) (s : State) :=
  run (.tierAge c h a b) c s fun v s =>
    let x := (v.pairVal a).toNat
    let n := x / 2 ^ 16 % 32
    tierCommand v s h (v.pairVal b).toNat (x % 2 ^ 10) (x / 2 ^ 10 % 2 ^ 6 == 0 && x / 2 ^ 21 == 0 && 1 ≤ n && n ≤ 16)
      (fun _ => some (.age n))

/-- TIER.PIN (R207). -/
def execTierPin (c : Ctl) (h : Option (BitVec 4)) (a b : BitVec 5) (s : State) :=
  run (.tierPin c h a b) c s fun v s =>
    let x := (v.pairVal a).toNat
    let y := (v.pairVal b).toNat
    let val := x / 2 ^ 10 % 4
    let k0 := x / 2 ^ 32
    tierCommand v s h 0 (x % 2 ^ 10) (x / 2 ^ 12 % 2 ^ 20 == 0 && val != 3 && y / 2 ^ 32 == 0 && y != 0)
      (fun e => if k0 + y > tierK e then none else some (.pin val k0 y))

end Sys2Proof.Machine
end

