-- ==== Sys2Proof/Machine/Graph.lean ====
section
/-! DEFINITION. Graphics arithmetic: FP32 under RNE on codes, unorm channels, edges and interpolation (13 R231, R235, R237,
R240), the fields of stream descriptors (R227), interval records (14 R246) and cisterns (06 R125, R126). -/
namespace Sys2Proof.Machine

/-! FP32 under RNE, without flags. -/

/-- The value of a code. -/
def gv (a : Word) : FVal := readF32 false a
def gAdd (a b : Word) : Word := BitVec.ofNat 32 (ff32.add .rne false (gv a) (gv b)).1
def gSub (a b : Word) : Word := BitVec.ofNat 32 (ff32.add .rne false (gv a) (gv b).negate).1
def gMul (a b : Word) : Word := BitVec.ofNat 32 (ff32.mul .rne false (gv a) (gv b)).1
def gFma (a b c : Word) : Word := BitVec.ofNat 32 (ff32.fma .rne false (gv a) (gv b) (gv c)).1
def gMin (a b : Word) : Word := BitVec.ofNat 32 (ff32.minMax false (gv a) (gv b)).1
def gMax (a b : Word) : Word := BitVec.ofNat 32 (ff32.minMax true (gv a) (gv b)).1
def gOfInt (x : Int) : Word := BitVec.ofNat 32 (itofV .rne x).1
def gOne : Word := 0x3F800000
def gNan : Word := 0x7FC00000

/-- A quotient rounded once: the quotient's leading bits with a last bit that says whether more follow. -/
def gDiv (a b : Word) : Word :=
  let x := gv a
  let y := gv b
  let put (v : FVal) : Word := BitVec.ofNat 32 (ff32.put .rne false v).1
  match x, y with
  | .nan _, _ => gNan
  | _, .nan _ => gNan
  | .inf _, .inf _ => gNan
  | .inf n, .fin n' _ _ => put (.inf (n != n'))
  | .fin n _ _, .inf n' => put (.fin (n != n') 0 0)
  | .fin n m e, .fin n' m' e' =>
    if m' = 0 then (if m = 0 then gNan else put (.inf (n != n')))
    else
      let q := m * 2 ^ 64 / m'
      let rest := m * 2 ^ 64 % m'
      put (.fin (n != n') (2 * q + (if rest = 0 then 0 else 1)) (e - e' - 65))

/-- Whether a code is a NaN, or finite. -/
def gIsNan (a : Word) : Bool := (gv a).isNan
def gIsFinite (a : Word) : Bool := match gv a with | .fin .. => true | _ => false

/-- Less-than on codes that are not NaN. -/
def gLt (a b : Word) : Bool := !gIsNan a && !gIsNan b && ltV false (gv a) (gv b)

/-- A finite code as an integer, rounded under a mode. -/
def gInt (rm : Rnd) (a : Word) : Int :=
  match gv a with
  | .fin n m e =>
    let k := (roundShift rm n m (-e)).1
    if n then -(k : Int) else k
  | _ => 0

/-- An integral code that is the floor of a finite one (R388). -/
def gFloor (a : Word) : Word := BitVec.ofNat 32 (frndV .rdn (gv a)).1

/-- A depth or PCF comparison by its ZFUNC code (R227, R237). -/
def zfunc (code : Nat) (z zd : Word) : Bool :=
  match code with
  | 0 => true
  | 1 => gLt z zd
  | 2 => !gIsNan z && !gIsNan zd && !gLt zd z
  | 3 => gLt zd z
  | 4 => !gIsNan z && !gIsNan zd && !gLt z zd
  | 5 => !gIsNan z && !gIsNan zd && !gLt z zd && !gLt zd z
  | _ => false

/-- A unorm channel decoded: c over its largest code (R240, R254). -/
def unormValue (c top : Nat) : Word := gDiv (gOfInt c) (gOfInt top)

/-- A unorm channel encoded: clamped to [0, 1], a NaN to 0, and rounded once (R240). -/
def unormCode (x : Word) (top : Nat) : Nat :=
  match gv x with
  | .nan _ => 0
  | .inf n => if n then 0 else top
  | .fin n m e => if n then 0 else min top (roundShift .rne false (m * top) (-e)).1

/-! Stream descriptors (R227). -/

/-- A field of a stream's descriptor. -/
def streamField (s : State) (n lo w : Nat) : Nat := s.mem.readNat (hubKey (0x80000 + 128 * n)) 128 / 2 ^ lo % 2 ^ w
def streamCtx (s : State) (n : Nat) : Nat := streamField s n 1018 6
def streamW (s : State) (n : Nat) : Nat := streamField s n 1006 12 + 1
def streamH (s : State) (n : Nat) : Nat := streamField s n 994 12 + 1
def streamV (s : State) (n : Nat) : Nat := streamField s n 987 7 + 1
def streamVref (s : State) (n : Nat) : Nat := streamField s n 980 7
def streamCfmt (s : State) (n : Nat) : Nat := streamField s n 977 3
def streamPair (s : State) (n : Nat) : Bool := streamField s n 974 1 == 1
def streamVstep (s : State) (n : Nat) : Nat := streamField s n 971 3
def streamZfunc (s : State) (n : Nat) : Nat := streamField s n 968 3
def streamConst (s : State) (n : Nat) : Nat := streamField s n 533 32

/-- Bytes of a colour (R229). -/
def colourBytes (cfmt : Nat) : Nat := if cfmt = 2 then 8 else 4

/-! Edges and interpolation (R231, R235, R237). -/

/-- Vertex i of a triangle. -/
def triVert (t : List ScreenVertex) (i : Nat) : ScreenVertex := t.getD (i % 3) ⟨0, 0, 0, 0, 0, []⟩

/-- A vertex's x in a view, in units of 2^−16 pixel; `dv` is v − VREF. -/
def vertX (p : ScreenVertex) (dv : Int) : Int := 256 * p.xf + p.sf * dv

/-- Edge i at a point, x in units of 2^−16 and y of 2^−8 pixel: exact in units of 2^−24. -/
def edgeAt (t : List ScreenVertex) (dv px py : Int) (i : Nat) : Int :=
  let j := triVert t (i + 1)
  let k := triVert t (i + 2)
  (vertX k dv - vertX j dv) * (py - j.yf) - (k.yf - j.yf) * (px - vertX j dv)

/-- Twice the signed area in a view. -/
def areaAt (t : List ScreenVertex) (dv px py : Int) : Int :=
  edgeAt t dv px py 0 + edgeAt t dv px py 1 + edgeAt t dv px py 2

/-- Whether an edge is included by the top-left rule under a sign of the area. -/
def edgeIncluded (t : List ScreenVertex) (dv : Int) (pos : Bool) (i : Nat) : Bool :=
  let j := triVert t (i + 1)
  let k := triVert t (i + 2)
  let s : Int := if pos then 1 else -1
  let dx := s * (vertX k dv - vertX j dv)
  let dy := s * (k.yf - j.yf)
  dy < 0 || (dy == 0 && dx > 0)

/-- Coverage of a sample by a triangle (R235). -/
def covers (cull : Nat) (t : List ScreenVertex) (dv px py : Int) : Bool :=
  let a := areaAt t dv px py
  a != 0 && !(a < 0 && cull == 1) && !(a > 0 && cull == 2) &&
    (List.range 3).all (fun i =>
      let e := edgeAt t dv px py i
      if e = 0 then edgeIncluded t dv (a > 0) i else (e > 0) == (a > 0))

/-- The weights of a point (R237). -/
def lamAt (t : List ScreenVertex) (dv px py : Int) : List Word :=
  let a := gOfInt (areaAt t dv px py)
  (List.range 3).map (fun i => gDiv (gOfInt (edgeAt t dv px py i)) a)

/-- Three values under the weights. -/
def weigh (lam : List Word) (x : Nat → Word) : Word :=
  gFma (lam.getD 2 0) (x 2) (gFma (lam.getD 1 0) (x 1) (gMul (lam.getD 0 0) (x 0)))

/-- The depth of a point. -/
def depthAt (t : List ScreenVertex) (dv px py : Int) : Word := weigh (lamAt t dv px py) (fun i => (triVert t i).zs)

/-- An attribute at a point. -/
def attrAt (t : List ScreenVertex) (dv px py : Int) (n : Nat) : Word :=
  let lam := lamAt t dv px py
  gDiv (weigh lam (fun i => (triVert t i).c.getD n 0)) (weigh lam (fun i => (triVert t i).q))

/-- The centre of a pixel in units of 2^−16 and of a row in units of 2^−8. -/
def pixelX (x : Nat) : Int := 65536 * (x : Int) + 32768
def rowY (y : Nat) : Int := 256 * (y : Int) + 128

/-! Interval records (R246). -/

/-- A field of an interval record. -/
def iv (x : BitVec 512) (lo w : Nat) : Nat := x.toNat / 2 ^ lo % 2 ^ w
def ivCtx (x : BitVec 512) : Nat := iv x 498 6
def ivStream (x : BitVec 512) : Nat := iv x 490 8
def ivDraw (x : BitVec 512) : Nat := iv x 474 16
def ivX (x : BitVec 512) : Nat := iv x 462 12
def ivY (x : BitVec 512) : Nat := iv x 450 12
def ivLo (x : BitVec 512) : Nat := iv x 443 7
def ivHi (x : BitVec 512) : Nat := iv x 436 7
def ivPair (x : BitVec 512) : Bool := iv x 435 1 == 1
def ivGen (x : BitVec 512) : Nat := iv x 430 5
def ivSetup (x : BitVec 512) : Nat := iv x 416 14
def ivSeq (x : BitVec 512) : Nat := iv x 384 32
def ivMask0 (x : BitVec 512) : Nat := iv x 352 32
def ivMask1 (x : BitVec 512) : Nat := iv x 320 32
def ivKey (x : BitVec 512) : Nat := iv x 288 32

/-- Whether a record of a cistern is an interval record. -/
def isInterval (x : BitVec 512) : Bool := iv x 504 8 == 0xF1

/-- A field replaced. -/
def ivPut (x : BitVec 512) (lo w v : Nat) : BitVec 512 := BitVec.ofNat 512 (putField x.toNat lo w v)

/-- The raster key of a tile (R225). -/
def rasterKey (stream y xt vt : Nat) : Nat := stream * 2 ^ 24 + y * 2 ^ 12 + xt * 2 ^ 5 + vt * 2 ^ 3

/-- The cluster that owns a row (R234). -/
def rowCluster (y : Nat) : Nat := y / 16 % 8

/-! Cisterns (R125-R127). -/

/-- A context's records in a core's cistern, the head first. -/
def cisternOf (s : State) (c ctx : Nat) : List (BitVec 512) :=
  ((s.core c).cistern.filter (fun e => e.1 == ctx)).map (·.2)

/-- Whether a cistern has room for one more record of a context. -/
def cisternRoom (s : State) (c ctx : Nat) : Bool := (cisternOf s c ctx).length < 256

/-- Core k of the steal sequence of a core within its cluster (R126); k = 7 is the core itself. -/
def stealCore (c k : Nat) : Nat := c / 256 * 256 + (c % 256 + 1 + 73 * k) % 256

/-- The core that takes a push: the core itself, or the first of its steal sequence with room (R125). -/
def pushCore (s : State) (c ctx : Nat) : Option Nat :=
  if cisternRoom s c ctx then some c
  else ((List.range 256).find? (fun k => k != 7 && cisternRoom s (stealCore c k) ctx)).map (stealCore c)

/-- A record pushed at a head (R125). -/
def pushRecord (s : State) (c ctx : Nat) (x : BitVec 512) : State :=
  let k := s.core c
  s.setCore c { k with cistern := (ctx, x) :: k.cistern }

end Sys2Proof.Machine
end

