-- ==== Sys2Proof/Machine/Sample.lean ====
section
/-! DEFINITION. The sampler: bindless resource records, addressing and filtering (14 R254-R257), and SMP, SMPC, TLD and
RES.Q (16 R316-R319). -/
namespace Sys2Proof.Machine

/-! Resource records (R254). -/

/-- The fields of a resource record. -/
structure Resource where
  dim   : Nat
  tfmt  : Nat
  w     : Nat
  h     : Nat
  d     : Nat
  mips  : Nat
  filt  : Nat
  addr  : List Nat
  cmp   : Nat
  taps  : Nat
  bias  : Int
  base  : Nat
  border : Nat
  pitch : Nat
  clean : Bool
  deriving DecidableEq, Repr

/-- A record's fields; `clean` says that its reserved bits are 0. -/
def Resource.ofBits (x : BitVec 512) : Resource where
  dim := iv x 508 4
  tfmt := iv x 504 4
  w := iv x 490 14 + 1
  h := iv x 476 14 + 1
  d := iv x 465 11 + 1
  mips := iv x 461 4
  filt := iv x 458 3
  addr := [iv x 456 2, iv x 454 2, iv x 452 2]
  cmp := iv x 449 3
  taps := iv x 443 6 + 1
  bias := (BitVec.ofNat 8 (iv x 435 8)).toInt
  base := iv x 387 48
  border := iv x 307 32
  pitch := iv x 287 20
  clean := iv x 339 48 == 0 && iv x 0 287 == 0

/-- Whether a record stands as R254 and R256 require, but for the checks of its filter. -/
def Resource.legal (r : Resource) : Bool := r.clean && r.dim ≤ 4 && r.tfmt ≤ 7 && r.mips ≥ 1 && r.filt ≤ 5 && r.cmp ≤ 6

/-- The checks that FILT places on DIM and format (R256). -/
def Resource.filtLegal (r : Resource) : Bool :=
  !(r.dim == 3 && r.filt ≥ 3) && !(r.filt == 4 && r.tfmt != 7 && r.tfmt != 5)

/-- Bytes of a texel. -/
def Resource.texelBytes (r : Resource) : Nat :=
  match r.tfmt with
  | 0 => 1
  | 1 => 4
  | 2 => 4
  | 3 => 2
  | 4 => 8
  | 5 => 4
  | 6 => 16
  | _ => 4

/-- The width, height and depth of a level; the depth shrinks in 3D only. -/
def Resource.wAt (r : Resource) (l : Nat) : Nat := max 1 (r.w / 2 ^ l)
def Resource.hAt (r : Resource) (l : Nat) : Nat := if r.dim = 1 then 1 else max 1 (r.h / 2 ^ l)
def Resource.dAt (r : Resource) (l : Nat) : Nat :=
  if r.dim = 3 then max 1 (r.d / 2 ^ l) else if r.dim = 4 then r.d else 1

/-- The row pitch of a level. -/
def Resource.pitchAt (r : Resource) (l : Nat) : Nat :=
  if l = 0 then 64 * r.pitch else (r.wAt l * r.texelBytes + 63) / 64 * 64

/-- The virtual address of a texel; a level starts after the levels below it. -/
def Resource.texel (r : Resource) (l i j k : Nat) : Nat :=
  if r.dim = 0 then r.base + i * r.texelBytes
  else
    let start := ((List.range l).map (fun m => r.pitchAt m * r.hAt m * r.dAt m)).sum
    r.base + start + (k * r.hAt l + j) * r.pitchAt l + i * r.texelBytes

/-- Four unorm bytes as channels, red lowest. -/
def rgba8Value (x : Nat) : List Word := (List.range 4).map (fun i => unormValue (x / 2 ^ (8 * i) % 256) 255)

/-- A half as FP32, exactly. -/
def halfValue (x : Nat) : Word := BitVec.ofNat 32 (ff32.put .rne false (ff16.decode (x % 2 ^ 16))).1

/-- A texel decoded (R254); a single channel is (c, 0, 0, 1). -/
def Resource.decode (r : Resource) (x : Nat) : List Word :=
  let single (c : Word) : List Word := [c, 0, 0, gOne]
  match r.tfmt with
  | 0 => single (unormValue (x % 256) 255)
  | 1 => rgba8Value x
  | 2 => [unormValue (x % 1024) 1023, unormValue (x / 2 ^ 10 % 1024) 1023, unormValue (x / 2 ^ 20 % 1024) 1023,
          unormValue (x / 2 ^ 30 % 4) 3]
  | 3 => single (halfValue x)
  | 4 => (List.range 4).map (fun i => halfValue (x / 2 ^ (16 * i)))
  | 6 => (List.range 4).map (fun i => BitVec.ofNat 32 (x / 2 ^ (32 * i)))
  | _ => single (BitVec.ofNat 32 x)

/-! Addressing and the texels a filter takes (R257). -/

/-- An index under an addressing mode over n texels; none takes the border. -/
def wrapIndex (mode n : Nat) (i : Int) : Option Nat :=
  match mode with
  | 0 => some (i % n).toNat
  | 1 => some (max 0 (min i (n - 1))).toNat
  | 2 =>
    let j := (i % (2 * n)).toNat
    some (if j ≥ n then 2 * n - 1 - j else j)
  | _ => if 0 ≤ i && i < n then some i.toNat else none

/-- The address of a texel position of a level; none takes the border. -/
def Resource.at_ (r : Resource) (l : Nat) (i j k : Int) : Option Nat :=
  let my (n : Nat) : Nat := r.addr.getD n 0
  let y : Option Nat := if r.dim ≤ 1 then some 0 else wrapIndex (my 1) (r.hAt l) j
  let z : Option Nat := if r.dim = 3 then wrapIndex (my 2) (r.dAt l) k else if r.dim = 4 then some k.toNat else some 0
  match wrapIndex (my 0) (r.wAt l) i, y, z with
  | some i, some j, some k => some (r.texel l i j k)
  | _, _, _ => none

/-- A coordinate times a level's size, plus −1/2 where the filter interpolates: its floor as a code; the fraction is the
difference. -/
def texelCoord (u : Word) (n : Nat) : Word × Word :=
  let t := gFma u (gOfInt n) 0xBF000000
  let f := gFloor t
  (f, gSub t f)

/-- The level's floor of u × W for a point. -/
def pointCoord (u : Word) (n : Nat) : Word := gFloor (gMul u (gOfInt n))

/-- A lane's coordinates: u, v and w, and the layer of a 2D array. -/
structure Coords where
  u : Word
  v : Word
  w : Word
  layer : Int
  deriving DecidableEq, Repr

/-- The texels of a level a filter takes, in order, as addresses; the weights come with the mixing. -/
structure Level where
  cells : List (Option Nat)
  fu : Word
  fv : Word
  fw : Word
  open_ : Bool
  deriving DecidableEq, Repr

/-- Offsets of a row of the filter. -/
def cellRange (a n : Nat) : List Int := (List.range n).map (fun i : Nat => (i : Int) - (a : Int))

/-- What a filter takes of a level. `open_` says that a coordinate lies beyond every number, where R257 states no texel. -/
def Resource.level (r : Resource) (taps : List (Int × Int × Word)) (l : Nat) (p : Coords) : Level :=
  let point := r.filt == 0 || r.filt == 5
  let one (u : Word) (n : Nat) : Word × Word := if point then (pointCoord u n, 0) else texelCoord u n
  let x := one p.u (r.wAt l)
  let y := if r.dim = 1 then (0, 0) else one p.v (r.hAt l)
  let z := if r.dim = 3 then one p.w (r.dAt l) else (0, 0)
  let i := gInt .rne x.1
  let j := gInt .rne y.1
  let k := if r.dim = 4 then p.layer else gInt .rne z.1
  let ys (a n : Nat) : List Int := if r.dim = 1 then [0] else cellRange a n
  let cells := match r.filt with
    | 0 => [r.at_ l i j k]
    | 3 => (ys 1 4).flatMap (fun b => (cellRange 1 4).map (fun a => r.at_ l (i + a) (j + b) k))
    | 5 => taps.map (fun t => r.at_ l (i + t.1) (j + (if r.dim = 1 then 0 else t.2.1)) k)
    | _ => (if r.dim = 3 then [0, 1] else [0]).flatMap (fun c =>
        (ys 0 2).flatMap (fun b => (cellRange 0 2).map (fun a => r.at_ l (i + a) (j + b) (k + c))))
  { cells := cells, fu := x.2, fv := y.2, fw := z.2
    open_ := !(gIsFinite x.1 && gIsFinite y.1 && gIsFinite z.1) }

/-- lerp(a, b, f). -/
def gLerp (a b f : Word) : Word := gFma f (gSub b a) a

/-- Channel by channel. -/
def chan4 (f : Nat → Word) : List Word := (List.range 4).map f

/-- The Catmull-Rom weights of a fraction, each evaluated left to right. -/
def cubicWeight (f : Word) (i : Nat) : Word :=
  let k (x : Int) : Word := gOfInt x
  match i with
  | 0 => gDiv (gMul (gSub (gMul (gAdd (f ^^^ 0x80000000) (k 2)) f) (k 1)) f) (k 2)
  | 1 => gDiv (gAdd (gMul (gMul (gSub (gMul (k 3) f) (k 5)) f) f) (k 2)) (k 2)
  | 2 => gDiv (gMul (gAdd (gMul (gAdd (gMul (k (-3)) f) (k 4)) f) (k 1)) f) (k 2)
  | _ => gDiv (gMul (gMul (gSub f (k 1)) f) f) (k 2)

/-- The texels of a level mixed by its filter. -/
def Resource.mix (r : Resource) (taps : List (Int × Int × Word)) (x : Level) (t : List (List Word)) : List Word :=
  let at_ (n c : Nat) : Word := (t.getD n []).getD c 0
  let rows := if r.dim = 1 then 1 else 2
  let plane (n c : Nat) : Word :=
    if rows = 1 then gLerp (at_ n c) (at_ (n + 1) c) x.fu
    else gLerp (gLerp (at_ n c) (at_ (n + 1) c) x.fu) (gLerp (at_ (n + 2) c) (at_ (n + 3) c) x.fu) x.fv
  match r.filt with
  | 0 => t.getD 0 []
  | 3 => chan4 (fun c => (List.range t.length).foldl (fun acc n =>
      let wu := cubicWeight x.fu (n % 4)
      gFma (if r.dim = 1 then wu else gMul wu (cubicWeight x.fv (n / 4))) (at_ n c) acc) 0)
  | 5 => chan4 (fun c => (taps.zipIdx).foldl (fun acc e => gFma e.1.2.2 (at_ e.2 c) acc) 0)
  | _ => chan4 (fun c => if r.dim = 3 then gLerp (plane 0 c) (plane 4 c) x.fw else plane 0 c)

/-- λ of an explicit level (R257). -/
def Resource.lambda (r : Resource) (lod : Word) : Word :=
  gMin (gMax (gAdd lod (gDiv (gOfInt r.bias) (gOfInt 16))) 0) (gOfInt (r.mips - 1 : Nat))

/-- The levels a sample takes, and the weight of the second where there are two. -/
def Resource.levels (r : Resource) (lod : Word) : List Nat × Word :=
  let la := r.lambda lod
  if r.filt = 2 then
    let l := (gInt .rdn la).toNat
    ([l, min (l + 1) (r.mips - 1)], gSub la (gFloor la))
  else ([(gInt .rdn (gAdd la 0x3F000000)).toNat], 0)

/-! Fetching (R254, R256). -/

/-- What the sampler's own accesses come to before it can answer. -/
inductive SampleWait
  | pages (ps : List Nat) | held | trap (code addr : Nat)
  deriving DecidableEq, Repr

/-- Bytes at a virtual address of device DRAM as the core's loads read them. -/
def texelBytesAt (v : View) (s : State) (va n : Nat) : State × Except SampleWait (List Byte) :=
  match (if va < 2 ^ 48 then pageView s v.r.core v.st.ctx va else .fault) with
  | .fault => (s, .error (.trap trapXlate va))
  | .unknown => (s, .error (.pages [va / 2 ^ 16]))
  | .leaf e =>
    if !leafR e || leafTgt e != 0 then (s, .error (.trap trapPerm va))
    else match loadBytes s v.r.core (leafKey e va) n (leafVia e v.st.ctx) with
      | (_, _, some .held) => (s, .error .held)
      | (s, _, some f) => (s, .error (.trap f.code va))
      | (s, bs, none) => (s, .ok bs)

/-- Texels by their addresses, each fetched once; none is the border. -/
def fetchTexels (v : View) (r : Resource) (s : State) : List (Option Nat) → State × Except SampleWait (List (List Word))
  | [] => (s, .ok [])
  | none :: rest =>
    match fetchTexels v r s rest with
    | (s, .ok ts) => (s, .ok (rgba8Value r.border :: ts))
    | x => x
  | some a :: rest =>
    match texelBytesAt v s a r.texelBytes with
    | (s, .error e) => (s, .error e)
    | (s, .ok bs) =>
      match fetchTexels v r s rest with
      | (s, .ok ts) => (s, .ok (r.decode (leNat bs) :: ts))
      | x => x

/-- A record of the heap, from the core's cache of records or its home (R254). -/
def heapRecord (v : View) (s : State) (p : Place) : State × Except SampleWait (BitVec 512) :=
  let c := v.r.core
  match (s.core c).recs.find p.key with
  | some x => (s, .ok x)
  | none =>
    match readHomeLine s c (lineOf p.key) p.via with
    | (_, _, some .held) => (s, .error .held)
    | (s, _, some f) => (s, .error (.trap f.code p.addr))
    | (s, x, none) =>
      let k := s.core c
      let t : Tab (BitVec 512) := if k.recs.length ≥ 512 then k.recs.drop 1 else k.recs
      (s.setCore c { k with recs := t.set p.key x }, .ok x)

/-- The distinct indices of the effective lanes in the order of their lowest lanes (R256). -/
def distinctIndices (v : View) (a : Operand) : List Word :=
  (lanesOf v.eff).foldl (fun acc l => if acc.contains (v.rd a l) then acc else acc ++ [v.rd a l]) []

/-- The check of a record's place in the heap for the lanes that use it. -/
def heapCheck (v : View) (off : Nat) : Checked :=
  checkOffset v.s v.r.core v.r.slot v.st 6 { n := 64, writes := false, spaces := spacesAll, align := 64 } off

/-- The records at some offsets of the heap, in order. -/
def heapRecords (v : View) (s : State) : List Nat → State × Except SampleWait (List (BitVec 512))
  | [] => (s, .ok [])
  | off :: rest =>
    match heapCheck v off with
    | .fail code a => (s, .error (.trap code a))
    | .wait p => (s, .error (.pages [p]))
    | .place addr key via w =>
      match heapRecord v s ⟨0, addr, key, via, w⟩ with
      | (s, .error e) => (s, .error e)
      | (s, .ok x) =>
        match heapRecords v s rest with
        | (s, .ok xs) => (s, .ok (x :: xs))
        | y => y

/-- The taps of a record from its extension records (R255): offsets and weight. -/
def tapsOf (n : Nat) (ext : List (BitVec 512)) : List (Int × Int × Word) :=
  (List.range n).map (fun i =>
    let x := iv (ext.getD (i / 16) 0) (32 * (i % 16)) 32
    ((BitVec.ofNat 8 (x / 2 ^ 24)).toInt, (BitVec.ofNat 8 (x / 2 ^ 16)).toInt, halfValue x))

/-- A resource with its taps, or why it cannot be had; `legal` is the instruction's own check of it. -/
def resourceAt (v : View) (s : State) (legal : Resource → Bool) (ix : Word) :
    State × Except SampleWait (Resource × List (Int × Int × Word)) :=
  match heapRecords v s [64 * ix.toNat] with
  | (s, .error e) => (s, .error e)
  | (s, .ok xs) =>
    let r := Resource.ofBits (xs.getD 0 0)
    if !(r.legal && legal r) then (s, .error (.trap trapRecordErr 0))
    else if r.filt != 5 then (s, .ok (r, []))
    else match heapRecords v s ((List.range ((r.taps + 15) / 16)).map (fun i => 64 * (ix.toNat + 1 + i))) with
      | (s, .error e) => (s, .error e)
      | (s, .ok ext) => (s, .ok (r, tapsOf r.taps ext))

/-! Samples. -/

/-- A lane's answer: four words. -/
abbrev Answer := List Word

/-- The coordinates of a lane. -/
def coordsOf (v : View) (b : Operand) (r : Resource) (l : Nat) : Coords :=
  let w := v.rd (b.after 2) l
  { u := v.rd b l, v := v.rd (b.after 1) l, w := w
    layer := max 0 (min (intValue .i32 (ftoiV .i32 .rne (gv w)).1) (r.d - 1 : Nat)) }

/-- A NaN among the coordinates a resource reads. -/
def Resource.nanAt (r : Resource) (p : Coords) : Bool :=
  gIsNan p.u || (r.dim ≥ 2 && gIsNan p.v) || (r.dim = 3 && gIsNan p.w)

/-- A level's filtered texel; PCF compares each texel with a reference first. -/
def sampleLevel (v : View) (s : State) (r : Resource) (taps : List (Int × Int × Word)) (ref : Option Word) (p : Coords)
    (l : Nat) : State × Except SampleWait Answer :=
  let x := r.level taps l p
  if x.open_ then
    let (s, n) := s.draw
    (s, .ok ((List.range 4).map (fun i => Config.freeWord (4 * n + i))))
  else match fetchTexels v r s x.cells with
    | (s, .error e) => (s, .error e)
    | (s, .ok ts) =>
      let ts := match ref with
        | none => ts
        | some z => ts.map (fun t => [if zfunc r.cmp z (t.getD 0 0) then gOne else 0, 0, 0, 0])
      (s, .ok (r.mix taps x ts))

/-- A lane's sample (R257, R316, R317). -/
def sampleLane (v : View) (s : State) (b : Operand) (lod : Word) (ref : Option Word) (r : Resource)
    (taps : List (Int × Int × Word)) (l : Nat) : State × Except SampleWait Answer :=
  let p := coordsOf v b r l
  if r.nanAt p then (s, .ok (List.replicate 4 gNan))
  else
    let lv := r.levels lod
    match sampleLevel v s r taps ref p (lv.1.getD 0 0) with
    | (s, .error e) => (s, .error e)
    | (s, .ok a) =>
      if r.filt != 2 then (s, .ok a)
      else match sampleLevel v s r taps ref p (lv.1.getD 1 0) with
        | (s, .error e) => (s, .error e)
        | (s, .ok a') => (s, .ok (chan4 (fun c => gLerp (a.getD c 0) (a'.getD c 0) lv.2)))

/-- TLD's texel of a lane (R318). -/
def loadLane (v : View) (s : State) (b e : Operand) (r : Resource) (l : Nat) : State × Except SampleWait Answer :=
  let i := (v.rd b l).toInt
  let j := (v.rd (b.after 1) l).toInt
  let k := (v.rd (b.after 2) l).toInt
  let lev := min (v.rd e l).toNat (r.mips - 1)
  let a := if r.dim = 0 then (wrapIndex (r.addr.getD 0 0) r.w i).map (fun i => r.texel 0 i 0 0)
    else r.at_ lev i j (if r.dim = 4 then max 0 (min k (r.d - 1 : Nat)) else k)
  match fetchTexels v r s [a] with
  | (s, .error x) => (s, .error x)
  | (s, .ok ts) => (s, .ok (ts.getD 0 []))

/-- One lane's outcome over its resource. -/
def laneAnswer (v : View) (s : State) (a : Operand) (legal : Resource → Bool)
    (f : State → Resource → List (Int × Int × Word) → Nat → State × Except SampleWait Answer) (l : Nat) :
    State × Except SampleWait Answer :=
  match resourceAt v s legal (v.rd a l) with
  | (s, .error e) => (s, .error e)
  | (s, .ok (r, taps)) => f s r taps l

/-- Every lane's outcome. -/
def laneAnswers (v : View) (a : Operand) (legal : Resource → Bool)
    (f : State → Resource → List (Int × Int × Word) → Nat → State × Except SampleWait Answer) (s : State) :
    List Nat → State × List (Nat × Except SampleWait Answer)
  | [] => (s, [])
  | l :: ls =>
    let (s, x) := laneAnswer v s a legal f l
    let (s, xs) := laneAnswers v a legal f s ls
    (s, (l, x) :: xs)

/-- The traps among outcomes. -/
def sampleTraps (xs : List (Nat × Except SampleWait Answer)) : List (Nat × Nat × Nat) :=
  xs.filterMap (fun e => match e.2 with | .error (.trap c a) => some (e.1, c, a) | _ => none)

/-- The pages still asked for. -/
def samplePages (xs : List (Nat × Except SampleWait Answer)) : List Nat :=
  xs.flatMap (fun e => match e.2 with | .error (.pages ps) => ps | _ => [])

/-- The trap of lowest code, with its lanes (R99, R256). -/
def sampleTrap (ts : List (Nat × Nat × Nat)) : Option TrapRec :=
  match ts.map (fun e => e.2.1) with
  | [] => none
  | x :: xs =>
    let code := xs.foldl min x
    let bad := ts.filter (fun e => e.2.1 == code)
    some { code := code, lanes := maskWhere (fun l => bad.any (fun e => e.1 == l)), addr := ((bad.head?.map (·.2.2))).getD 0 }

/-- A sampler instruction: elect and repeat over the distinct indices (R256), which takes a cycle of the arithmetic
clock more for each index after the first under reason 23 (R19); then the lanes' answers, or the trap of the lowest
code, and the pending result. -/
def sampler (v : View) (s : State) (c : Ctl) (a : Operand) (dst : List Operand) (legal : Resource → Bool)
    (f : State → Resource → List (Int × Int × Word) → Nat → State × Except SampleWait Answer) : Res :=
  let n := (distinctIndices v a).length
  let p := s.prog v.r
  if n > 1 && p.stage = 0 then .stay 23 (s.setProg v.r { p with stage := 1, tick := s.tick + clockTicks s (n - 1) })
  else if n > 1 && s.tick < p.tick then .stay 23 s
  else
    let (s', xs) := laneAnswers v a legal f s (lanesOf v.eff)
    let pages := samplePages xs
    match sampleTrap (sampleTraps xs) with
    | some t =>
      if t.code > trapSegLimit && !pages.isEmpty then .stay 15 (askPages s v.r.core v.st.ctx pages)
      else .trap t (dropFaults s' v.r.core v.st.ctx [t.addr / 2 ^ 16])
    | none =>
      if !pages.isEmpty then .stay 15 (askPages s v.r.core v.st.ctx pages)
      else if xs.any (fun e => match e.2 with | .error .held => true | _ => false) then .stay 14 s
      else
        let ans (l i : Nat) : Word := match xs.find? (fun e => e.1 == l) with
          | some (_, .ok a) => a.getD i 0
          | _ => 0
        let sp := s'.split v.r
        let s' := s'.setSplit v.r { sp with smpIter := if n = 0 then sp.smpIter else n }
        let (s', id) := pendResult s' v c dst v.eff ((List.range dst.length).map (fun i => vecOf v.eff fun l => ans l i)) noFlag 0
        .done (s'.setStrand v.r (updPending (s'.strand v.r) id (fun q => { q with why := 23 })))

/-- Four registers from one on. -/
def quadDst (d : Operand) : List Operand := [d, d.after 1, d.after 2, d.after 3]

/-- SMP (R316). -/
def execSmp (c : Ctl) (d a b e : Operand) (s : State) :=
  run (.smp c d a b e) c s fun v s =>
    sampler v s c a (quadDst d) (fun r => r.filtLegal && r.dim != 0 && r.filt != 4) fun s r taps l =>
      sampleLane v s b (v.rdFBits e l) none r taps l

/-- SMPC (R317). -/
def execSmpc (c : Ctl) (d a b e : Operand) (s : State) :=
  run (.smpc c d a b e) c s fun v s =>
    sampler v s c a [d] (fun r => r.filtLegal && r.dim != 0 && r.filt == 4) fun s r taps l =>
      sampleLane v s b 0 (some (v.rdFBits e l)) r taps l

/-- TLD (R318): the traps are as for SMP, but DIM 0 has a meaning. -/
def execTld (c : Ctl) (d a b e : Operand) (s : State) :=
  run (.tld c d a b e) c s fun v s =>
    sampler v s c a (quadDst d) (fun r => r.filtLegal && r.filt != 4) fun s r _ l => loadLane v s b e r l

/-- RES.Q (R319). -/
def execResQ (c : Ctl) (d a : Operand) (s : State) :=
  run (.resQ c d a) c s fun v s =>
    sampler v s c a (quadDst d) (fun _ => true) fun s r _ _ =>
      (s, .ok ([r.w, r.h, r.d, r.mips].map (BitVec.ofNat 32)))

end Sys2Proof.Machine
end

