-- ==== Sys2Proof/Machine/Cistern.lean ====
section
/-! DEFINITION. Fragment and vertex outputs (14 R250-R253, 16 R320-R325), and records: REC.PUSH, REC.POP and REC.DONE over
the cisterns (06 R125-R127, 16 R326-R329). -/
namespace Sys2Proof.Machine

/-! Interval records of lanes (R249-R253). -/

/-- Whether a strand shades fragments (R249), or vertices (R232). -/
def Strand.isFragment (st : Strand) : Bool := match st.kind with | .fragment _ => true | _ => false
def Strand.isVertex (st : Strand) : Bool := match st.kind with | .vertex .. => true | _ => false

/-- The triangle that an interval record of a cluster names. -/
def triangleOf (s : State) (k : Nat) (x : BitVec 512) : List ScreenVertex :=
  match (s.clu k).setups.find (ivSetup x) with
  | some r => r.verts
  | none => []

/-- A view's distance from its stream's reference view. -/
def viewDist (s : State) (x : BitVec 512) (v : Nat) : Int := (v : Int) - streamVref s (ivStream x)

/-- The draw whose fragments a strand shades, while it has not been discarded (R253). -/
def shadedDraw (s : State) (st : Strand) : Option Nat :=
  match st.kind with
  | .fragment d => if (s.draws.find d).isSome then some d else none
  | _ => none

/-- VBARY's value in a lane (R251, R320). -/
def baryAt (s : State) (k : Nat) (x : BitVec 512) (attr view : Nat) : Word :=
  let v := max (ivLo x) (min view (ivHi x))
  attrAt (triangleOf s k x) (viewDist s x v) (pixelX (ivX x) + if ivPair x then 32768 else 0) (rowY (ivY x)) attr

/-- VBARY (R320). A record whose draw has been discarded has no setup record any more: its value is free (log 157). -/
def execVbary (c : Ctl) (d : Operand) (attr : BitVec 4) (b : Operand) (s : State) :=
  run (.vbary c d attr b) c s fun v s =>
    let (s, n) := s.draw
    let x := vecOf v.eff fun l =>
      match (if v.st.isFragment then v.st.staged.recs.find l else none) with
      | none => 0
      | some x =>
        if (shadedDraw s v.st).isNone then Config.freeWord (128 * n + l)
        else baryAt s (coreCluster v.r.core) x attr.toNat (v.rd b l).toNat
    .done (pend s v c [d] v.eff [x] noFlag)

/-- What VSPLIT makes of a record: the kept part and the new one (R252); none where nothing changes. -/
def splitRecord (x : BitVec 512) (view : Nat) : Option (BitVec 512 × BitVec 512) :=
  if view ≤ ivLo x || view > ivHi x then none
  else
    let n := view - ivLo x
    let new := ivPut (ivPut (ivPut (ivPut x 443 7 view) 352 32 (ivMask0 x / 2 ^ n)) 320 32 (ivMask1 x / 2 ^ n)) 430 5 (ivGen x + 1)
    let kept := ivPut (ivPut (ivPut x 436 7 (view - 1)) 352 32 (ivMask0 x % 2 ^ n)) 320 32 (ivMask1 x % 2 ^ n)
    some (kept, new)

/-- A change of the section of a record's primitive and tile (R253). -/
def updSect (s : State) (k : Nat) (x : BitVec 512) (f : RasterSect → RasterSect) : State :=
  let y := s.clu k
  s.setClu k { y with sects := y.sects.map (fun e =>
    if e.ctx = ivCtx x && e.key = ivKey x && e.seq = ivSeq x && e.draw % 2 ^ 16 = ivDraw x then f e else e) }

/-- An interval record enters the cluster's cisterns: it counts for its section and its setup record (R252, R253). -/
def countRecord (s : State) (k : Nat) (x : BitVec 512) : State :=
  let s := updSect s k x (fun e => { e with count := e.count + 1 })
  let y := s.clu k
  match y.setups.find (ivSetup x) with
  | some r => s.setClu k { y with setups := y.setups.set (ivSetup x) { r with live := r.live + 1 } }
  | none => s

/-- The record of a lane replaced. -/
def setRecord (s : State) (r : SplitRef) (l : Nat) (x : BitVec 512) : State :=
  let st := s.strand r
  s.setStrand r { st with staged := { st.staged with recs := st.staged.recs.set l x } }

/-- A lane of an instruction counted as done. -/
def markLane (s : State) (r : SplitRef) (l : Nat) : State :=
  let p := s.prog r
  s.setProg r { p with lanes := p.lanes ||| maskWhere (· == l) }

/-- Whether a core's own operation on its cistern comes too late in a tick: a thief has been served already (R127). -/
def stolenNow (s : State) (c : Nat) : Bool :=
  match (s.core c).stolen with
  | some (t, _) => t == s.tick
  | none => false

/-- VSPLIT's lanes that are not done yet, one after another; a push that finds every cistern full waits (R321). A record
whose draw has been discarded pushes nothing (R253). -/
def splitLanes (v : View) (a : Operand) (s : State) : List Nat → Res
  | [] => .done s
  | l :: ls =>
    match ((s.strand v.r).staged.recs.find l).bind (fun x => splitRecord x (v.rd a l).toNat) with
    | none => splitLanes v a s ls
    | some (kept, new) =>
      let s' := setRecord (markLane s v.r l) v.r l kept
      if (ivMask0 new = 0 && ivMask1 new = 0) || (shadedDraw s v.st).isNone then splitLanes v a s' ls
      else match pushCore s v.r.core v.st.ctx with
        | none => .stay 22 (s.setProg v.r { s.prog v.r with stage := 1 })
        | some c => splitLanes v a (pushRecord (countRecord s' (coreCluster v.r.core) new) c v.st.ctx new) ls

/-- VSPLIT (R321). -/
def execVsplit (c : Ctl) (a : Operand) (s : State) :=
  run (.vsplit c a) c s fun v s =>
    if !v.st.isFragment then .done s
    else
      let todo := v.eff &&& ~~~(s.prog v.r).lanes
      let deep := maskWhere (fun l => todo.getLsbD l && match v.st.staged.recs.find l with
        | none => false
        | some x => ivGen x == 31 && (splitRecord x (v.rd a l).toNat).isSome)
      if deep != 0 then .trap { code := trapRecordErr, lanes := deep } s
      else if todo != 0 && stolenNow s v.r.core then .stay 22 (s.setProg v.r { s.prog v.r with stage := 1 })
      else splitLanes v a s (lanesOf todo)

/-- VKILL (R322). -/
def execVkill (c : Ctl) (a : Operand) (s : State) :=
  run (.vkill c a) c s fun v s =>
    if !v.st.isFragment then .done s
    else .done ((lanesOf v.eff).foldl (fun s l =>
      match v.st.staged.recs.find l with
      | none => s
      | some x =>
        let m := (v.rd a l).toNat
        let keep (y : Nat) : Nat := y - (y &&& m)
        setRecord s v.r l (ivPut (ivPut x 352 32 (keep (ivMask0 x))) 320 32 (keep (ivMask1 x)))) s)

/-- A change of what a strand stages. -/
def stage (s : State) (r : SplitRef) (f : Staged → Staged) : State :=
  let st := s.strand r
  s.setStrand r { st with staged := f st.staged }

/-- Four consecutive words of a lane. -/
def View.rd4 (v : View) (a : Operand) (l : Nat) : List Word :=
  [v.rd a l, v.rd (a.after 1) l, v.rd (a.after 2) l, v.rd (a.after 3) l]

/-- OUTC (R323). -/
def execOutc (c : Ctl) (a : Operand) (s : State) :=
  run (.outc c a) c s fun v s =>
    .done (if v.st.isFragment then
        stage s v.r (fun x => { x with vec := (lanesOf v.eff).foldl (fun t l => t.set l (v.rd4 a l)) x.vec })
      else s)

/-- OUTZ (R324). -/
def execOutz (c : Ctl) (a : Operand) (s : State) :=
  run (.outz c a) c s fun v s =>
    .done (if v.st.isFragment then
        stage s v.r (fun x => { x with depth := (lanesOf v.eff).foldl (fun t l => t.set l (v.rdFBits a l)) x.depth })
      else s)

/-- OUTV (R325). -/
def execOutv (c : Ctl) (which : Option (BitVec 4)) (a : Operand) (s : State) :=
  run (.outv c which a) c s fun v s =>
    .done (if v.st.isVertex then
        match which with
        | none => stage s v.r (fun x => { x with vec := (lanesOf v.eff).foldl (fun t l => t.set l (v.rd4 a l)) x.vec })
        | some n => stage s v.r (fun x =>
            let put (t : Tab (Tab Word)) (l : Nat) : Tab (Tab Word) := t.set l ((t.get [] l).set n.toNat (v.rdFBits a l))
            { x with attrs := (lanesOf v.eff).foldl put x.attrs })
      else s)

/-! Records (R326-R329). -/

/-- A context's work count in a cluster (R326). -/
def workCount (s : State) (k ctx : Nat) : Nat := (s.clu k).work.get 0 ctx

/-- It raised. -/
def raiseWork (s : State) (k ctx n : Nat) : State :=
  let x := s.clu k
  s.setClu k { x with work := x.work.set ctx (x.work.get 0 ctx + n) }

/-- The general record in a lane's sixteen registers. -/
def laneRecord (v : View) (a : Operand) (l : Nat) : BitVec 512 :=
  BitVec.ofNat 512 ((List.range 16).foldl (fun acc i => acc + (v.rd (a.after i) l).toNat * 2 ^ (32 * i)) 0)

/-- REC.PUSH's lanes that have not pushed yet, in order. -/
def pushLanes (v : View) (a : Operand) (s : State) : List Nat → Res
  | [] => .done s
  | l :: ls =>
    match pushCore s v.r.core v.st.ctx with
    | none => .stay 22 (s.setProg v.r { s.prog v.r with stage := 1 })
    | some c =>
      let s := raiseWork (pushRecord s c v.st.ctx (laneRecord v a l)) (coreCluster v.r.core) v.st.ctx 1
      pushLanes v a (markLane s v.r l) ls

/-- REC.PUSH (R327). -/
def execRecPush (c : Ctl) (a : Operand) (s : State) :=
  run (.recPush c a) c s fun v s =>
    let bad := maskWhere (fun l => v.eff.getLsbD l && isInterval (laneRecord v a l))
    if bad != 0 then .trap { code := trapRecordErr, lanes := bad } s
    else if v.eff != 0 && stolenNow s v.r.core then .stay 22 (s.setProg v.r { s.prog v.r with stage := 1 })
    else pushLanes v a s (lanesOf (v.eff &&& ~~~(s.prog v.r).lanes))

/-- The first general record of a context taken from a list, and the rest. -/
def takeFirst (ctx : Nat) : List (Nat × BitVec 512) → Option (BitVec 512 × List (Nat × BitVec 512))
  | [] => none
  | e :: es =>
    if e.1 = ctx && !isInterval e.2 then some (e.2, es)
    else (takeFirst ctx es).map (fun x => (x.1, e :: x.2))

/-- Up to n general records of a context from the tail of a list: those taken, in their order, and the rest. -/
def takeTail (ctx : Nat) : Nat → List (Nat × BitVec 512) → List (BitVec 512) × List (Nat × BitVec 512)
  | 0, es => ([], es)
  | n + 1, es =>
    match takeFirst ctx es.reverse with
    | none => ([], es)
    | some (x, rest) =>
      let (xs, rest) := takeTail ctx n rest.reverse
      (xs ++ [x], rest)

/-- General records of a context in a core's cistern. -/
def generalCount (s : State) (c ctx : Nat) : Nat := ((cisternOf s c ctx).filter (fun x => !isInterval x)).length

/-- Whether a victim may serve a thief: in a tick thieves are served in ascending order (R127), and a cistern in replay
serves the thief its log names (R529). -/
def stealMay (s : State) (victim c ctx : Nat) (str : BitVec 16) : Bool :=
  (match (s.core victim).stolen with
    | some (t, thief) => t != s.tick || thief ≤ c
    | none => true) && arbiterMay s (coreCluster c) ctx 1 (victim % 256) c str.toNat

/-- A search of a core for records (R126): at most 255 attempts, the first that finds records moves some of them. -/
def steal (s : State) (c ctx : Nat) (str : BitVec 16) : State :=
  match (List.range 256).find? (fun k => k != 7 && generalCount s (stealCore c k) ctx != 0) with
  | none => s
  | some k =>
    let victim := stealCore c k
    if !stealMay s victim c ctx str then s
    else
      let s := arbiterServe s (coreCluster c) ctx 1 (victim % 256) c str.toNat
      let n := generalCount s victim ctx
      let room := max 1 (256 - (cisternOf s c ctx).length)
      let x := s.core victim
      let (xs, rest) := takeTail ctx (min room (min 32 ((n + 1) / 2))) x.cistern
      let s := s.setCore victim { x with cistern := rest, stolen := some (s.tick, c) }
      let y := s.core c
      s.setCore c { y with cistern := xs.map (fun r => (ctx, r)) ++ y.cistern }

/-- One lane's record: from the core's own cistern, or after a steal (R328). -/
def popRecord (s : State) (c ctx : Nat) (str : BitVec 16) : State × Option (BitVec 512) :=
  let s := if generalCount s c ctx = 0 then steal s c ctx str else s
  let x := s.core c
  match takeFirst ctx x.cistern with
  | none => (s, none)
  | some (r, rest) => (s.setCore c { x with cistern := rest }, some r)

/-- REC.POP's lanes in order, until one finds no record: each lane with its record (log 176). -/
def popLanes (s : State) (c ctx : Nat) (str : BitVec 16) : List Nat → State × List (Nat × BitVec 512)
  | [] => (s, [])
  | l :: ls =>
    match popRecord s c ctx str with
    | (s, none) => (s, [])
    | (s, some x) =>
      let (s, xs) := popLanes s c ctx str ls
      (s, (l, x) :: xs)

/-- REC.POP (R328): its start token is released once; without a record it sleeps under reason 24 until the work count is
0 or a record is there. -/
def execRecPop (c : Ctl) (d e : Operand) (s : State) :=
  run (.recPop c d e) c s fun v s =>
    if v.eff != 0 && stolenNow s v.r.core then .stay 24 (s.setProg v.r { s.prog v.r with stage := 1 }) else
    let k := coreCluster v.r.core
    let st := s.strand v.r
    let s := if st.token && v.eff != 0 then lowerWork (s.setStrand v.r { st with token := false }) k st.ctx 1 else s
    let (s, got) := popLanes s v.r.core st.ctx st.number (lanesOf v.eff)
    if got.isEmpty then
      if v.eff = 0 || workCount s k st.ctx = 0 then .done (pend s v c [e] v.eff [vecOf 0 fun _ => 0] noFlag)
      else .stay 24 (s.setProg v.r { s.prog v.r with stage := 1 })
    else
      let won := maskWhere (fun l => got.any (fun g => g.1 == l))
      let word (i l : Nat) : Word := match got.find? (fun g => g.1 == l) with
        | some (_, x) => BitVec.ofNat 32 (iv x (32 * i) 32)
        | none => 0
      let st := s.strand v.r
      let s := s.setStrand v.r { st with held := st.held + got.length }
      let s := pend s v c ((List.range 16).map d.after) won ((List.range 16).map (fun i => vecOf won (word i))) noFlag
      .done (pend s v c [e] v.eff [vecOf v.eff fun l => if won.getLsbD l then 1 else 0] noFlag)

/-- REC.DONE (R329). -/
def execRecDone (c : Ctl) (s : State) :=
  run (.recDone c) c s fun v s =>
    let n := (lanesOf v.eff).length
    let st := s.strand v.r
    if n > st.held then .trap { code := trapRecordErr, lanes := v.eff } s
    else .done (lowerWork (s.setStrand v.r { st with held := st.held - n }) (coreCluster v.r.core) st.ctx n)

end Sys2Proof.Machine
end

