-- ==== Sys2Proof/Machine/Save.lean ====
section
/-! DEFINITION. A context's save area (04 R94): what a switched-out cluster puts where, and how granules are copied there
and back. -/
namespace Sys2Proof.Machine

/-! The layout (R94). -/

/-- A granule of a cluster's block: its offset and its 32 bytes. -/
abbrev BlockGran := Nat × List Byte

/-- A core's block within its cluster's, and its parts. -/
def coreBlock (c : Nat) : Nat := c % 256 * 0x1B8000
def tilesAt (c : Nat) : Nat := coreBlock c + 0x48000
def scratchAt (c : Nat) : Nat := coreBlock c + 0x68000
def reservedAt (c : Nat) : Nat := coreBlock c + 0x188000
def tagsAt (c : Nat) : Nat := coreBlock c + 0x1A8000
def cisternAt (c : Nat) : Nat := coreBlock c + 0x1B2000
def splitsAt (c : Nat) : Nat := coreBlock c + 0x1B6000

/-- The parts of a cluster's block beside its cores' blocks. -/
def poolAt : Nat := 0x1B800000
def poolTagsAt : Nat := 0x1E800000
def faultAt : Nat := 0x1E9FFFC0

/-- The virtual addresses of a cluster's block and of the tid block. -/
def blockBase (s : State) (x k : Nat) : Nat := ctxSaveBase s x + k * 0x20000000
def tidBase (s : State) (x : Nat) : Nat := ctxSaveBase s x + 0x100000000

/-! What is saved, as granules other than zeros. -/

/-- Bytes at offsets in rising order, gathered into granules; bytes at one offset are joined bit by bit. -/
def gatherGrans : List (Nat × Byte) → List BlockGran
  | [] => []
  | (a, b) :: rest =>
    match gatherGrans rest with
    | (g, bs) :: more =>
      if g = a / 32 * 32 then (g, bs.modify (a % 32) (· ||| b)) :: more
      else (a / 32 * 32, (List.replicate 32 0).set (a % 32) b) :: (g, bs) :: more
    | [] => [(a / 32 * 32, (List.replicate 32 0).set (a % 32) b)]

/-- Bytes from an offset up, cut into granules without those of zeros. -/
def cutGrans (off : Nat) (bs : List Byte) : List BlockGran :=
  gatherGrans ((bs.zipIdx.filter (fun e => e.1 != 0)).map (fun e => (off + e.2, e.1)))

/-- The bytes of a vector register, in lane order. -/
def vecBytes (x : LaneVec) : List Byte := (List.range 96).flatMap (fun l => leBytes 4 (x.getD l 0).toNat)

/-- The registers that a strand holds, from an offset. -/
def registerGrans (off : Nat) (st : Strand) : List BlockGran :=
  (st.v.filter (fun e => e.1 < st.nregs)).flatMap (fun e => cutGrans (off + 384 * e.1) (vecBytes e.2))

/-- The rows of a core's accumulator tiles. -/
def tileGrans (c : Nat) (tiles : Tab Tile) : List BlockGran :=
  tiles.flatMap (fun e => e.2.rows.flatMap (fun r =>
    cutGrans (tilesAt c + 0x4000 * e.1 + 256 * r.1) (r.2.flatMap (fun w => leBytes 4 w.toNat))))

/-- The saved codes of split states (R129). -/
def SplitState.code : SplitState → Nat
  | .free => 0
  | .ready => 1
  | .waiting => 2
  | .parked => 3
  | .handler => 4

/-- A split's saved entry (R129). -/
def Split.entryBits (sp : Split) (age : Nat) : Nat :=
  age % 2 ^ 64 * 2 ^ 320 + sp.pc.toNat * 2 ^ 272 + sp.state.code * 2 ^ 200 + (if sp.hm then 2 ^ 199 else 0) +
    sp.ndef % 128 * 2 ^ 192 + sp.own.toNat * 2 ^ 96 + sp.mask.toNat

/-- A strand's four entries, at its slot's place (log 55). -/
def splitGrans (c slot : Nat) (st : Strand) : List BlockGran :=
  cutGrans (splitsAt c + 192 * slot) ((List.range 4).flatMap (fun i => leBytes 48 ((st.split i).entryBits st.age)))

/-- Whether a byte of a cluster's region is kept: the pool, the reserved regions, and the scratch windows of its crews
(R164). -/
def byteKept (s : State) (k o : Nat) : Bool :=
  if o ≥ poolOffset then o < poolEnd
  else o % sliceSize ≥ reservedOffset ||
    (s.core (256 * k + o / sliceSize)).windows.any (fun w => w.1 ≤ o % sliceSize && o % sliceSize < w.1 + w.2)

/-- The kept bytes of a cluster's SRAM. -/
def sramGrans (s : State) (k : Nat) : List BlockGran :=
  gatherGrans ((s.mem.filter (fun e => keySpace e.1 == 0 && keyAddr e.1 / regionSize == k && byteKept s k (keyAddr e.1 % regionSize))).map
    (fun e => (blockOffset (keyAddr e.1 % regionSize), e.2)))

/-- The place of a word's tag in its cluster's block: the offset of its byte, and the bit. -/
def tagPlace (o : Nat) : Nat × Nat :=
  if o < poolOffset then (tagsAt (o / sliceSize) + o % sliceSize / 32, o % sliceSize / 4 % 8)
  else (poolTagsAt + (o - poolOffset) / 32, (o - poolOffset) / 4 % 8)

/-- The tags of a cluster's kept words: a bit is 1 for an empty word (log 55). -/
def tagGrans (s : State) (k : Nat) : List BlockGran :=
  gatherGrans ((s.emptyTags.filter (fun w => 4 * w / regionSize == k && byteKept s k (4 * w % regionSize))).map
    (fun w => let p := tagPlace (4 * w % regionSize); (p.1, BitVec.ofNat 8 (2 ^ p.2))))

/-- The records of a context in a core's cistern. -/
def cisternGrans (c x : Nat) (k : Core) : List BlockGran :=
  ((k.cistern.filter (fun e => e.1 == x)).zipIdx).flatMap (fun e => cutGrans (cisternAt c + 64 * e.2) (leBytes 64 e.1.2.toNat))

/-- The strands of a context that a core's slots hold, by slot. -/
def heldStrands (k : Core) (x : Nat) : List (Nat × Strand) := k.slots.filter (fun e => e.2.state != .vacant && e.2.ctx == x)

/-- The offset of each strand's registers, resident strands one after another by slot (log 55), and their end. -/
def registerPlaces (c : Nat) (sts : List (Nat × Strand)) : List (Nat × Nat × Strand) × Nat :=
  sts.foldl (fun acc e =>
    if e.2.state == .resident then (acc.1 ++ [(e.1, acc.2, e.2)], acc.2 + 384 * e.2.nregs) else acc) ([], coreBlock c)

/-- What a core puts into its block: the allocated ranges, as offset and length, and the granules in them that are not
zeros. -/
def coreImage (s : State) (x c : Nat) : List (Nat × Nat) × List BlockGran :=
  let k := s.core c
  let sts := heldStrands k x
  let (regs, fin) := registerPlaces c sts
  let held := (k.cistern.filter (fun e => e.1 == x)).length
  ([(coreBlock c, fin - coreBlock c)] ++ k.tiles.map (fun e => (tilesAt c + 0x4000 * e.1, 0x4000)) ++
      k.windows.map (fun w => (scratchAt c + w.1, w.2)) ++ [(reservedAt c, 0x2A000 + 64 * held)] ++
      sts.map (fun e => (splitsAt c + 192 * e.1, 192)),
    regs.flatMap (fun e => registerGrans e.2.1 e.2.2) ++ tileGrans c k.tiles ++ cisternGrans c x k ++
      sts.flatMap (fun e => splitGrans c e.1 e.2))

/-- What a cluster puts into its block. -/
def clusterImage (s : State) (x k : Nat) : List (Nat × Nat) × List BlockGran :=
  let cores := (List.range 256).map (fun j => coreImage s x (256 * k + j))
  (cores.flatMap (·.1) ++ [(poolAt, poolEnd - poolOffset), (poolTagsAt, 0x180000)],
    cores.flatMap (·.2) ++ sramGrans s k ++ tagGrans s k)

/-! Copying. -/

/-- What a copy to or from a save area comes to: done, to be tried again, or a fault with code and address. -/
inductive CopyEnd
  | done
  | wait
  | fail (code : Nat) (addr : Nat)
  deriving DecidableEq, Repr

/-- The place of an address of a save area, up to the end of its page or of a span: its key and length. -/
def savePlace (s : State) (x k va n : Nat) (write : Bool) : State × (CopyEnd ⊕ (Nat × Via × Nat)) :=
  let s := touchPage s (some k) x va
  match pageEnd s (some k) x va with
  | .fault => (s, .inl (.fail trapXlate va))
  | .held => (s, .inl .wait)
  | .leaf e _ =>
    match leafPlace e x va 0 (!write) write with
    | .fault code => (s, .inl (.fail code va))
    | .dump => (dumpStall s x va, .inl .wait)
    | .held => (s, .inl .wait)
    | .at_ key via => (s, .inr (key, via, min n (leafBytes e - va % leafBytes e)))

/-- The granules of a span of device memory that hold something other than zeros in good order: bytes, wrong bits, a
poison mark, or another grade. -/
def dirtyGrans (s : State) (key n grade : Nat) : List Nat :=
  let lo := keyAddr key / 32
  let inside (g : Nat) : Bool := lo ≤ g && g < lo + n / 32
  let bytes := (gatherGrans (s.mem.filter (fun e => isDram e.1 && inside (keyAddr e.1 / 32)))).map (fun e => keyAddr e.1 / 32)
  let side := s.flips.keys ++ s.poison ++ (s.wgrade.filter (fun e => e.2 != grade)).map (·.1)
  (side.filter inside).foldl insertNat bytes

/-- Whether a write under way concerns a span of device memory. -/
def writesUnderWay (s : State) (key n : Nat) : Bool :=
  let lo := keyAddr key / 32
  s.pkts.any (fun p => !p.done && p.kind != .rd && p.spans.any (fun r => r.1 < lo + n / 32 && lo < r.1 + r.2.1))

/-- What a failed copy of a granule comes to. -/
def HomeFail.copyEnd (f : HomeFail) (va : Nat) : CopyEnd :=
  match f with
  | .held => .wait
  | .uc => .fail trapDataUc va
  | .guard => .fail trapGuard va
  | .link => .fail trapXlate va
  | .fault => .fail trapXlate va

/-- Granules written from a key on. -/
def putGrans (key va : Nat) (via : Via) : List BlockGran → State → State × CopyEnd
  | [], s => (s, .done)
  | (o, bs) :: rest, s =>
    match agentWrite s (key + o) via false 1 bs with
    | (s, none) => putGrans key va via rest s
    | (s, some .uc) => putGrans key va via rest s
    | (s, some f) => (s, f.copyEnd (va + o))

/-- A span of a block at a virtual address copied out through a cluster's TLB, page by page. A granule of zeros is written
only over something else (log 158). -/
def spanOut (x k base : Nat) (grans : List BlockGran) : Nat → Nat → Nat → State → State × CopyEnd
  | 0, _, _, s => (s, .done)
  | fuel + 1, off, n, s =>
    if n = 0 then (s, .done)
    else match savePlace s x k (base + off) n true with
      | (s, .inl e) => (s, e)
      | (s, .inr (key, via, m)) =>
        let here := (grans.filter (fun e => off ≤ e.1 && e.1 < off + m)).map (fun e => (e.1 - off, e.2))
        let old := ((dirtyGrans s key m via.grade).map (fun g => 32 * g - keyAddr key)).filter (fun o => here.all (fun e => e.1 != o))
        match putGrans key (base + off) via (here ++ old.map (fun o => (o, List.replicate 32 0))) s with
        | (s, .done) => spanOut x k base grans fuel (off + m) (n - m) s
        | (s, e) => (s, e)

/-- Ranges of a block copied out. -/
def copyOut (x k base : Nat) (grans : List BlockGran) : List (Nat × Nat) → State → State × CopyEnd
  | [], s => (s, .done)
  | r :: rs, s =>
    match spanOut x k base grans (r.2 / 2 ^ 16 + 2) r.1 r.2 s with
    | (s, .done) => copyOut x k base grans rs s
    | (s, e) => (s, e)

/-- Granules read from a key on. -/
def getGrans (key va off : Nat) (via : Via) : List Nat → State → State × (CopyEnd ⊕ List BlockGran)
  | [], s => (s, .inr [])
  | g :: rest, s =>
    let o := 32 * g - keyAddr key
    match agentRead s (key + o) via false 1 32 with
    | (s, .error f) => (s, .inl (f.copyEnd (va + o)))
    | (s, .ok (bs, _)) =>
      match getGrans key va off via rest s with
      | (s, .inl e) => (s, .inl e)
      | (s, .inr more) => (s, .inr ((off + o, bs) :: more))

/-- A span of a block read back, page by page; it waits for writes under way to its pages. -/
def spanIn (x k base : Nat) : Nat → Nat → Nat → State → State × (CopyEnd ⊕ List BlockGran)
  | 0, _, _, s => (s, .inr [])
  | fuel + 1, off, n, s =>
    if n = 0 then (s, .inr [])
    else match savePlace s x k (base + off) n false with
      | (s, .inl e) => (s, .inl e)
      | (s, .inr (key, via, m)) =>
        if writesUnderWay s key m then (s, .inl .wait)
        else match getGrans key (base + off) off via (dirtyGrans s key m via.grade) s with
          | (s, .inl e) => (s, .inl e)
          | (s, .inr xs) =>
            match spanIn x k base fuel (off + m) (n - m) s with
            | (s, .inl e) => (s, .inl e)
            | (s, .inr more) => (s, .inr (xs ++ more))

/-- Ranges of a block read back: their granules other than zeros. -/
def copyIn (x k base : Nat) : List (Nat × Nat) → State → State × (CopyEnd ⊕ List BlockGran)
  | [], s => (s, .inr [])
  | r :: rs, s =>
    match spanIn x k base (r.2 / 2 ^ 16 + 2) r.1 r.2 s with
    | (s, .inl e) => (s, .inl e)
    | (s, .inr xs) =>
      match copyIn x k base rs s with
      | (s, .inl e) => (s, .inl e)
      | (s, .inr more) => (s, .inr (xs ++ more))

/-! What is read back. -/

/-- Words of bytes. -/
def wordsOf (bs : List Byte) (n : Nat) : List Word := (List.range n).map (fun i => BitVec.ofNat 32 (leNat ((bs.drop (4 * i)).take 4)))

/-- Words put into a list from a place on, the list filled with zeros to a length. -/
def putWords (n : Nat) (xs : List Word) (i : Nat) (ws : List Word) : List Word :=
  (List.range n).map (fun j => if i ≤ j && j < i + ws.length then ws.getD (j - i) 0 else xs.getD j 0)

/-- A strand's registers from the granules at an offset. -/
def registersFrom (off n : Nat) (grans : List BlockGran) : Tab LaneVec :=
  (grans.filter (fun e => off ≤ e.1 && e.1 < off + 384 * n)).foldl (fun (t : Tab LaneVec) e =>
    let i := (e.1 - off) / 384
    t.set i (putWords 96 (t.get [] i) ((e.1 - off) % 384 / 4) (wordsOf e.2 8))) []

/-- A tile's rows from its granules. -/
def rowsFrom (c tile : Nat) (grans : List BlockGran) : Tab (List Word) :=
  let off := tilesAt c + 0x4000 * tile
  (grans.filter (fun e => off ≤ e.1 && e.1 < off + 0x4000)).foldl (fun (t : Tab (List Word)) e =>
    let i := (e.1 - off) / 256
    t.set i (putWords 64 (t.get [] i) ((e.1 - off) % 256 / 4) (wordsOf e.2 8))) []

/-- The offset in a cluster's region of an offset of its block; none for what is no SRAM. -/
def regionOffset (off : Nat) : Option Nat :=
  if off < poolAt then
    let r := off % 0x1B8000
    if 0x68000 ≤ r && r < 0x1A8000 then some (off / 0x1B8000 * sliceSize + r - 0x68000) else none
  else if off < poolTagsAt then some (off - poolAt + poolOffset)
  else none

/-- The words of a cluster's region that a granule of tags says are empty, as offsets. -/
def emptyIn (e : BlockGran) : List Nat :=
  let base : Option Nat :=
    if e.1 < poolAt then
      let r := e.1 % 0x1B8000
      if 0x1A8000 ≤ r && r < 0x1B2000 then some (e.1 / 0x1B8000 * sliceSize + (r - 0x1A8000) * 32) else none
    else if poolTagsAt ≤ e.1 && e.1 < poolTagsAt + 0x180000 then some (poolOffset + (e.1 - poolTagsAt) * 32)
    else none
  match base with
  | none => []
  | some o => ((List.range 256).filter (fun i => (leNat e.2).testBit i)).map (fun i => o + 4 * i)

end Sys2Proof.Machine
end

