-- ==== Sys2Proof/Machine/Panel.lean ====
section
/-! DEFINITION. Panel streams (13 R227-R230, R241-R245): the commands of SCMD, the start and end of a DRAW, frames,
presentation, and the presentation engine's commands (19 R480). -/
namespace Sys2Proof.Machine

/-! Accesses of the raster unit and the presentation engine. -/

/-- The virtual address of a dev offset under a context's segment values (R87). -/
def devVa (s : State) (ctx off : Nat) : Nat := segBase ((s.ctx ctx).segs.get 0 3) + off

/-- Bytes put at a key of device memory, piece by piece; a refused or failed piece is lost (R183, R193). The flag says that
a home holds the rest. -/
def rasterPut (s : State) (key : Nat) (via : Via) : Nat → List Byte → State × Bool
  | 0, _ => (s, false)
  | fuel + 1, bs =>
    if bs.isEmpty then (s, false)
    else
      let m := min bs.length (32 - key % 32)
      match agentWrite s key via false 1 (bs.take m) with
      | (s, some .held) => (s, true)
      | (s, _) => rasterPut s (key + m) via fuel (bs.drop m)

/-- A virtual span filled page by page; a page that is not mapped for it stays as it is (R229). The flag says that a home
or a dump holds the rest. -/
def rasterFill (s : State) (k ctx va : Nat) : Nat → List Byte → State × Bool
  | 0, _ => (s, false)
  | fuel + 1, bs =>
    if bs.isEmpty then (s, false)
    else
      let m := min bs.length (2 ^ 16 - va % 2 ^ 16)
      let s := touchPage s (some k) ctx va
      match walkPlace s (some k) ctx va 0 true with
      | .fault _ => rasterFill s k ctx (va + m) fuel (bs.drop m)
      | .dump => (dumpStall s ctx va, true)
      | .held => (s, true)
      | .at_ key via =>
        match rasterPut s key via (spanFuel m) (bs.take m) with
        | (s, true) => (s, true)
        | (s, false) => rasterFill s k ctx (va + m) fuel (bs.drop m)

/-- Pages a span touches. -/
def pageFuel (n : Nat) : Nat := n / 2 ^ 16 + 2

/-! Target sets (R229). -/

/-- Samples of a stream's target set. -/
def streamSamples (s : State) (n : Nat) : Nat := streamW s n * streamH s n * streamV s n

/-- The dev offset of a target set. -/
def targetSet (s : State) (n set : Nat) : Nat :=
  let bytes := streamSamples s n * (colourBytes (streamCfmt s n) + 4)
  streamField s n 688 48 + set * ((bytes + 65535) / 65536 * 65536)

/-- The number of a sample within a set. -/
def sampleIndex (s : State) (n x y v : Nat) : Nat := (v * streamH s n + y) * streamW s n + x

/-- The virtual addresses of a sample's colour and depth. -/
def colourVa (s : State) (n set x y v : Nat) : Nat :=
  devVa s (streamCtx s n) (targetSet s n set + sampleIndex s n x y v * colourBytes (streamCfmt s n))
def depthVa (s : State) (n set x y v : Nat) : Nat :=
  devVa s (streamCtx s n)
    (targetSet s n set + streamSamples s n * colourBytes (streamCfmt s n) + sampleIndex s n x y v * 4)

/-- The depth a frame is cleared to (R241). -/
def clearDepth (s : State) (n : Nat) : Word := if streamZfunc s n = 3 || streamZfunc s n = 4 then 0 else gOne

/-! Colours (R240). -/

/-- Bit place, width and largest code of a channel, red lowest; an FP16 channel has none. -/
def channel (cfmt i : Nat) : Nat × Nat × Nat :=
  match cfmt with
  | 0 => (8 * i, 8, 255)
  | 1 => if i = 3 then (30, 2, 3) else (10 * i, 10, 1023)
  | _ => (16 * i, 16, 0)

/-- A stored colour decoded. -/
def colourValue (cfmt x : Nat) : List Word :=
  (List.range 4).map (fun i =>
    let (lo, w, top) := channel cfmt i
    let c := x / 2 ^ lo % 2 ^ w
    if top = 0 then halfValue c else unormValue c top)

/-- A channel encoded. -/
def channelCode (cfmt i : Nat) (x : Word) : Nat :=
  let (_, _, top) := channel cfmt i
  if top = 0 then (fmtConvert .f16 .rne false false (gv x)).1 else unormCode x top

/-- A colour encoded. -/
def colourCode (cfmt : Nat) (xs : List Word) : Nat :=
  ((List.range 4).map (fun i => channelCode cfmt i (xs.getD i 0) * 2 ^ (channel cfmt i).1)).sum

/-- CONST in a stream's colour format (R230). -/
def constColour (s : State) (n : Nat) : Nat :=
  if streamCfmt s n = 0 then streamConst s n else colourCode (streamCfmt s n) (colourValue 0 (streamConst s n))

/-! Frames (R241). -/

/-- The lowest target set that no frame holds. -/
def freeSet (x : Stream) : Nat :=
  let held := (x.cur.toList ++ x.closed.toList ++ x.shown.toList).map (·.set)
  ((List.range 3).find? (fun i => !held.contains i)).getD 0

/-- The set of a frame that opened is cleared (R241), by the raster unit of cluster 0 (log 155); while a home or a dump holds
part of it, the frame goes on being cleared. -/
def clearFrame (s : State) (n : Nat) : State :=
  match (s.stream n).cur with
  | none => s
  | some f =>
    if !f.clearing then s
    else
      let k := streamSamples s n
      let bs := List.replicate (k * colourBytes (streamCfmt s n)) (0 : Byte) ++
        (List.replicate k (leBytes 4 (clearDepth s n).toNat)).flatten
      match rasterFill s 0 (streamCtx s n) (devVa s (streamCtx s n) (targetSet s n f.set)) (pageFuel bs.length) bs with
      | (s, true) => s
      | (s, false) => s.setStream n { s.stream n with cur := some { f with clearing := false } }

/-- A frame opens: it takes a set, which is cleared, and the primitive sequence starts again. -/
def openPanel (s : State) (n : Nat) : State :=
  let x := s.stream n
  match x.cur with
  | some _ => s
  | none => clearFrame (s.setStream n { x with
      cur := some { no := x.nextNo, set := freeSet x, clearing := true }, nextNo := x.nextNo + 1, seq := 0 }) n

/-- Whether a stream's frame is being cleared. -/
def Stream.clears (x : Stream) : Bool := match x.cur with | some f => f.clearing | none => false

/-- A frame of a stream by its number. -/
def frameNo (x : Stream) (no : Nat) : Option Frame :=
  (x.cur.toList ++ x.closed.toList ++ x.shown.toList).find? (fun f => f.no == no)

/-- A change of the frame of a number. -/
def Stream.updFrame (x : Stream) (no : Nat) (f : Frame → Frame) : Stream :=
  let g (o : Option Frame) : Option Frame := o.map (fun y => if y.no = no then f y else y)
  { x with cur := g x.cur, closed := g x.closed, shown := g x.shown }

/-- A PRS.FRAME closes its stream's frame (R241); an earlier Closed frame is Dropped. -/
def closePanel (s : State) (n : Nat) (c : FrameClose) : State :=
  let x := s.stream n
  match x.cur with
  | none => s
  | some f =>
    let s := s.setStream n { x with cur := none, closed := some { f with xform := c.xform } }
    completeHandle s c.handle 0 (BitVec.ofNat 32 f.no)

/-- The PRS.FRAMEs of a stream that wait for no draw any more close their frames, in order, each opening one first if none
is open. -/
def settleCloses (s : State) (n : Nat) : Nat → State
  | 0 => s
  | fuel + 1 =>
    match (s.stream n).closes with
    | [] => s
    | c :: cs =>
      if !c.draws.isEmpty then s
      else
        let s := openPanel s n
        if (s.stream n).clears then s
        else settleCloses (closePanel (s.setStream n { s.stream n with closes := cs }) n c) n fuel

/-! Draws (R228, R232, R249). -/

/-- Fields of a DRAW record (R109). -/
def drawFprog (x : BitVec 512) : Nat := iv x 464 48
def drawVprog (x : BitVec 512) : Nat := iv x 416 48
def drawVbuf (x : BitVec 512) : Nat := iv x 368 48
def drawCount (x : BitVec 512) : Nat := iv x 336 32
def drawStream (x : BitVec 512) : Nat := iv x 328 8
def drawTopo (x : BitVec 512) : Nat := iv x 326 2

/-- Whether the fields of a DRAW record stand within R109. -/
def drawLegal (x : BitVec 512) : Bool :=
  iv x 56 8 == 2 && iv x 32 23 == 0 && iv x 64 262 == 0 && drawCount x != 0 && drawTopo x != 3 &&
    drawFprog x % 8 == 0 && drawVprog x % 8 == 0

/-- Bytes of a context's code memory read at their homes, page by page. -/
def codeRead (s : State) (ctx va : Nat) : Nat → Nat → State × Except HomeFail (List Byte)
  | 0, _ => (s, .ok [])
  | fuel + 1, n =>
    if n = 0 then (s, .ok [])
    else
      let m := min n (2 ^ 16 - va % 2 ^ 16)
      match (if va < 2 ^ 48 then walkRead s ctx va else (s, .fault)) with
      | (s, .fault) => (s, .error .fault)
      | (s, .held) => (s, .error .held)
      | (s, .leaf e _) =>
        if leafTgt e != 0 then (s, .error .fault)
        else match agentRead s (leafKey e va) (leafVia e ctx) false (spanFuel m) m with
          | (s, .error f) => (s, .error f)
          | (s, .ok (bs, _)) =>
            match codeRead s ctx (va + m) fuel (n - m) with
            | (s, .error f) => (s, .error f)
            | (s, .ok more) => (s, .ok (bs ++ more))

/-- An entry of a prefix. -/
def prefixEntry (x : BitVec 1024) (i : Nat) : BitVec 128 := x.extractLsb' (128 * i) 128
def prefixRegs (x : BitVec 1024) : Nat := (x.extractLsb' 0 9).toNat
def prefixRmax (x : BitVec 1024) : Nat :=
  let m := (x.extractLsb' 9 9).toNat
  if m = 0 then prefixRegs x else m

/-- Whether a prefix stands within R249. -/
def prefixLegal (x : BitVec 1024) : Bool :=
  let regs := prefixRegs x
  let rmax := prefixRmax x
  (prefixEntry x 0).toNat / 2 ^ 18 == 0 && 1 ≤ regs && regs ≤ 256 && regs ≤ rmax && rmax ≤ 256 &&
    (List.range 7).all (fun i => admitSeg (i + 1) 0 (prefixEntry x (i + 1)) == prefixEntry x (i + 1))

/-- The segment values of a prefix: seg1 to seg7. -/
def prefixSegs (x : BitVec 1024) : Tab (BitVec 128) := (List.range 7).map (fun i => (i + 1, prefixEntry x (i + 1)))

/-- A program's prefix, sixteen doublewords before its first header, when it can be read and stands within R249. -/
def programPrefix (s : State) (ctx va : Nat) : State × Except HomeFail (BitVec 1024) :=
  if va < 128 then (s, .error .fault)
  else match codeRead s ctx (va - 128) 3 128 with
    | (s, .error f) => (s, .error f)
    | (s, .ok bs) =>
      let x := BitVec.ofNat 1024 (leNat bs)
      (s, if prefixLegal x then .ok x else .error .fault)

/-- The prefixes of a draw's vertex and fragment programs; a failure refuses the draw, unless it only holds it (R183,
R228, R249). -/
def drawPrefixes (s : State) (ctx : Nat) (bits : BitVec 512) : State × Except HomeFail (BitVec 1024 × BitVec 1024) :=
  if !(s.stream (drawStream bits)).bound || streamCtx s (drawStream bits) != ctx then (s, .error .fault)
  else match programPrefix s ctx (drawVprog bits) with
    | (s, .error f) => (s, .error f)
    | (s, .ok vp) =>
      match programPrefix s ctx (drawFprog bits) with
      | (s, .error f) => (s, .error f)
      | (s, .ok fp) => (s, .ok (vp, fp))

/-- The launch record that places a draw's vertex strands (R232): single-strand crews of full strands anywhere, without
scratch. -/
def vertexLaunch (bits : BitVec 512) (pre : BitVec 1024) : BitVec 512 :=
  BitVec.ofNat 512 (drawVprog bits * 2 ^ 464 + 96 * 2 ^ 285 + prefixRegs pre * 2 ^ 276 + prefixRmax pre * 2 ^ 267 +
    255 * 2 ^ 238 + 255 * 2 ^ 222)

/-- A DRAW starts with its prefixes (R228, R232, R241): the stream's frame opens if none is, and the vertex strands are
asked for. PRS.FRAMEs that wait for earlier draws wait for it as well, since it draws in the frame that is open (log
156). -/
def startDraw (s : State) (ctx : Nat) (bits : BitVec 512) (pre : BitVec 1024 × BitVec 1024) (queue : Option (Nat × Nat))
    (handle : Option DWord) : State :=
  let n := drawStream bits
  let y := s.ctx ctx
  let s := if y.segs.isEmpty then s.setCtx ctx { y with segs := prefixSegs pre.2 } else s
  let s := openPanel s n
  let x := s.stream n
  let d := s.nextDraw
  let (s, ln) := s.fresh
  let s := s.setLaunch ln { ctx := ctx, qid := 0, recNo := 0, bits := vertexLaunch bits pre.1, segs := prefixSegs pre.1
                            ready := true, draw := some d }
  let s := s.setStream n { x with
    draws := x.draws ++ [d], closes := x.closes.map (fun c => { c with draws := c.draws ++ [d] }) }
  { s with
    nextDraw := d + 1
    draws := s.draws.set d { ctx := ctx, stream := n, frame := (x.cur.map (·.no)).getD 0
                             set := (x.cur.map (·.set)).getD 0, bits := bits, queue := queue, handle := handle
                             vpre := pre.1, fpre := pre.2 } }

/-- The triangles of a draw (R232). -/
def drawTriangles (x : BitVec 512) : Nat := if drawTopo x = 0 then drawCount x / 3 else drawCount x - 2

/-- A draw leaves the device: its record or command completes, and the PRS.FRAMEs that waited for it go on. -/
def endDraw (s : State) (d : Nat) (status : Nat) : State :=
  match s.draws.find d with
  | none => s
  | some y =>
    let x := s.stream y.stream
    let s : State := { s with
      draws := s.draws.del d
      verts := s.verts.filter (fun e => e.1 != d)
      launches := s.launches.filter (fun e => e.2.draw != some d)
      clusters := s.clusters.map (fun e => (e.1, { e.2 with depths := e.2.depths.filter (fun t => t.draw != d) })) }
    let s := s.setStream y.stream { x with
      draws := x.draws.filter (· != d)
      closes := x.closes.map (fun c => { c with draws := c.draws.filter (· != d) }) }
    let s := match y.queue with
      | some (q, n) => recordDone s q n
      | none => s
    settleCloses (completeHandle s y.handle status 0) y.stream (x.closes.length + 1)

/-- A draw completes once every vertex is delivered, every triangle is assembled, and every interval of its primitives
has passed blend (R110). -/
def settleDraw (s : State) (d : Nat) : State :=
  match s.draws.find d with
  | none => s
  | some y =>
    let busy := s.clusters.any (fun e =>
      e.2.prims.any (fun p => p.draw == d) || e.2.sweeps.any (fun j => j.draw == d) || e.2.sects.any (fun r => r.draw == d))
    if busy || y.next < drawTriangles y.bits || (s.verts.filter (fun e => e.1 == d)).length < drawCount y.bits then s
    else endDraw s d 0

/-! The commands of SCMD (R228). -/

/-- Whether a descriptor is valid for BIND. -/
def streamValid (s : State) (n : Nat) : Bool :=
  let f := streamField s n
  let period := f 832 32
  f 977 3 ≤ 2 && f 975 2 == 0 && f 971 3 ≤ 4 && f 968 3 != 7 && f 965 2 != 3 && f 960 3 ≤ 4 && f 956 4 ≤ 11 && f 952 4 ≤ 11 &&
    3 ≤ f 613 3 && f 613 3 ≤ 5 && f 928 19 == 0 && f 0 533 == 0 && f 980 7 ≤ f 987 7 && (period == 0 || f 800 32 < period)

/-- The deadline of a slot (R242). -/
def slotDeadline (s : State) (n k : Nat) : Int :=
  (streamField s n 736 64 : Int) + k * streamField s n 832 32 - streamField s n 800 32

/-- The first slot whose deadline lies after a tick. -/
def firstSlot (s : State) (n : Nat) : Nat :=
  let period := streamField s n 832 32
  if period = 0 then 0
  else
    let late : Int := (s.globalTick : Int) - slotDeadline s n 0
    if late < 0 then 0 else late.toNat / period + 1

/-- A stream's draws are discarded with everything of theirs (R228, R253): queued records go, and a record that a lane
shades, wherever its strand is, leads nowhere from then on, since its draw is gone. -/
def dropDraws (s : State) (n : Nat) : State :=
  let ds := (s.stream n).draws
  let s : State := { s with
    clusters := s.clusters.map (fun e =>
      let gone (d : Nat) : Bool := ds.contains d
      let mine := e.2.sects.filter (fun r => gone r.draw)
      (e.1, { e.2 with
        prims := e.2.prims.filter (fun p => !gone p.draw)
        sweeps := e.2.sweeps.filter (fun j => !gone j.draw)
        sects := e.2.sects.filter (fun r => !gone r.draw)
        setups := e.2.setups.filter (fun r => !gone r.2.draw)
        blendQ := e.2.blendQ.filter (fun b => !gone b.draw)
        keys := (e.2.keys.map (fun k => if k.ras then
            { k with claims := k.claims.filter (fun c => !mine.any (fun r => r.ctx == k.ctx && r.key == k.key.toNat && r.seq == c)) }
          else k)).filter (fun k => !k.ras || !k.claims.isEmpty) }))
    cores := s.cores.map (fun e => (e.1, { e.2 with
      cistern := e.2.cistern.filter (fun r => !(isInterval r.2 && ivStream r.2 == n)) })) }
  ds.foldl (fun s d => endDraw s d 0) s

/-- UNBIND, or what RESET and KILL do to a bound stream (R102, R228). -/
def unbindStream (s : State) (n : Nat) : State :=
  let x := s.stream n
  let s := dropDraws (s.setStream n { x with closes := [] }) n
  let s := x.closes.foldl (fun s c => completeHandle s c.handle 3 0) s
  s.setStream n {}

/-- BIND of an Unbound stream; the result code (R89). -/
def bindStream (s : State) (n : Nat) : State × Nat :=
  if (s.stream n).bound then (s, 1)
  else if !streamValid s n then (s, 2)
  else (s.setStream n { bound := true, slot := firstSlot s n }, 0)

/-- A write of SCMD: its target and result are kept for CSRR. -/
def streamCommand (s : State) (n cmd : Nat) : State :=
  let (s, code) := match cmd with
    | 1 => bindStream s n
    | 2 => if (s.stream n).bound then (unbindStream s n, 0) else (s, 1)
    | _ => (s, 3)
  { s with dev := { s.dev with sTarget := n, sResult := code } }

/-- STREAM_BIND (R228): a BIND of a stream. The step's operand: the stream. -/
def execStreamBind (s : State) : Host.Outcome State Fault Refusal := .next (streamCommand s (s.pick.a % 256) 1)

/-- STREAM_UNBIND (R228): an UNBIND of a stream. The step's operand: the stream. -/
def execStreamUnbind (s : State) : Host.Outcome State Fault Refusal := .next (streamCommand s (s.pick.a % 256) 2)

/-! Presentation (R230, R242-R244). -/

/-- Something done for each of a list in turn, the state going along; none once one of them is held. -/
def collect {α β : Type} (f : State → α → State × Option β) (s : State) : List α → State × Option (List β)
  | [] => (s, some [])
  | x :: xs =>
    match f s x with
    | (s, none) => (s, none)
    | (s, some y) =>
      match collect f s xs with
      | (s, none) => (s, none)
      | (s, some ys) => (s, some (y :: ys))

/-- A value read for a raster unit or the presentation engine through a cluster's TLB (R175): held, or the value, none
where it cannot be had. -/
def panelRead (s : State) (k ctx va n : Nat) : State × Option (Option Nat) :=
  match virtRead s (some k) ctx va 0 2 n with
  | (s, .ok bs) => (s, some (some (leNat bs)))
  | (s, .error .held) => (s, none)
  | (s, .error _) => (s, some none)

/-- What each native pixel shows: a sample, or the constant (R230). -/
def mapEntry (s : State) (n p : Nat) : State × Option (Option (Nat × Nat × Nat)) :=
  match panelRead s (rowCluster (p / (streamField s n 628 12 + 1))) (streamCtx s n)
      (devVa s (streamCtx s n) (streamField s n 640 48 + 4 * p)) 4 with
  | (s, none) => (s, none)
  | (s, some none) => (s, some none)
  | (s, some (some e)) =>
    let v := e / 2 ^ 24 % 128
    let y := e / 2 ^ 12 % 4096
    let x := e % 4096
    (s, some (if e.testBit 31 && v < streamV s n && y < streamH s n && x < streamW s n then some (x, y, v) else none))

/-- The stored colour of a sample of a set. -/
def storedColour (s : State) (n set : Nat) (p : Nat × Nat × Nat) : State × Option Nat :=
  match panelRead s (rowCluster p.2.1) (streamCtx s n) (colourVa s n set p.1 p.2.1 p.2.2) (colourBytes (streamCfmt s n)) with
  | (s, r) => (s, r.map (·.getD (constColour s n)))

/-- The stored depth of a sample of a set. -/
def storedDepth (s : State) (n set : Nat) (p : Nat × Nat × Nat) : State × Option Word :=
  match panelRead s (rowCluster p.2.1) (streamCtx s n) (depthVa s n set p.1 p.2.1 p.2.2) 4 with
  | (s, r) => (s, r.map (fun z => (z.map (BitVec.ofNat 32)).getD (clearDepth s n)))

/-- One application of a transform to a point (R243), with the h3 it divides by. -/
def carry (m : List Word) (p : Word × Word × Word) : (Word × Word × Word) × Word :=
  let h (i : Nat) : Word :=
    gAdd (gAdd (gAdd (gMul (m.getD (4 * i) 0) p.1) (gMul (m.getD (4 * i + 1) 0) p.2.1)) (gMul (m.getD (4 * i + 2) 0) p.2.2))
      (m.getD (4 * i + 3) 0)
  ((gDiv (h 0) (h 3), gDiv (h 1) (h 3), gDiv (h 2) (h 3)), h 3)

/-- A point carried some steps, with the last h3; a NaN that arises stays. -/
def carries (m : List Word) : Nat → (Word × Word × Word) × Word → (Word × Word × Word) × Word
  | 0, p => p
  | k + 1, p => carries m k (carry m p.1)

/-- Where a transform carries a point; none where the last h3 is not above 0 or a NaN arose. -/
def carried (m : List Word) (steps : Nat) (p : Word × Word × Word) : Option (Word × Word × Word) :=
  let (q, h3) := carries m steps (p, gOne)
  if gIsNan h3 || !gLt 0 h3 || gIsNan q.1 || gIsNan q.2.1 || gIsNan q.2.2 then none else some q

/-- Every sample of a stream in ascending view, row and column. -/
def allSamples (s : State) (n : Nat) : List (Nat × Nat × Nat) :=
  (List.range (streamV s n)).flatMap (fun v => (List.range (streamH s n)).flatMap (fun y =>
    (List.range (streamW s n)).map (fun x => (x, y, v))))

/-- The sample that one of the last Presented frame lands on, with its colour and depth (R243). -/
def landing (s : State) (n set steps : Nat) (m : List Word) (p : Nat × Nat × Nat) :
    State × Option (Option (Nat × Nat × Word)) :=
  match storedDepth s n set p with
  | (s, none) => (s, none)
  | (s, some z) =>
    let same (a b : Word) : Bool := !gIsNan a && !gIsNan b && !gLt a b && !gLt b a
    let centre (k : Nat) : Word := gAdd (gOfInt k) 0x3F000000
    match (if same z (clearDepth s n) then none else carried m steps (centre p.1, centre p.2.1, z)) with
    | none => (s, some none)
    | some (px, py, z) =>
      if !gIsFinite px || !gIsFinite py then (s, some none)
      else
        let x := gInt .rdn px
        let y := gInt .rdn py
        if x < 0 || y < 0 || x ≥ streamW s n || y ≥ streamH s n then (s, some none)
        else match storedColour s n set p with
          | (s, none) => (s, none)
          | (s, some c) => (s, some (some (sampleIndex s n x.toNat y.toNat p.2.2, c, z)))

/-- A landing kept where its sample is empty or it is strictly nearer; a tie keeps the earlier (R243). -/
def keepNearer (zf : Nat) (out : Tab (Nat × Word)) (a : Nat × Nat × Word) : Tab (Nat × Word) :=
  let nearer (b : Word) : Bool := if zf = 3 || zf = 4 then gLt b a.2.2 else gLt a.2.2 b
  match out.find a.1 with
  | some (_, b) => if nearer b then out.set a.1 a.2 else out
  | none => out.set a.1 a.2

/-- The nearest filled sample at or to the left of one, in the same row and view. -/
def leftFilled (out : Tab (Nat × Word)) (base : Nat) : Nat → Option Nat
  | 0 => (out.find base).map (·.1)
  | x + 1 => match out.find (base + x + 1) with
    | some e => some e.1
    | none => leftFilled out base x

/-- A frame's samples as its reprojection shows them. -/
def reprojected (s : State) (n set steps : Nat) (m : List Word) : State × Option (Tab (Nat × Word)) :=
  match collect (fun s p => landing s n set steps m p) s (allSamples s n) with
  | (s, none) => (s, none)
  | (s, some xs) => (s, some ((xs.filterMap id).foldl (keepNearer (streamZfunc s n)) []))

/-- The colours of native pixels in row-major order, where a sample's colour is found by `colour`. -/
def pixelColours (s : State) (n : Nat) (colour : State → Nat × Nat × Nat → State × Option Nat) : State × Option (List Nat) :=
  collect (fun s i => match mapEntry s n i with
    | (s, none) => (s, none)
    | (s, some none) => (s, some (constColour s n))
    | (s, some (some q)) => colour s q) s (List.range ((streamField s n 628 12 + 1) * (streamField s n 616 12 + 1)))

/-- The colours that a picture gives the native pixels; none while a home holds a read. -/
def pictureColours (s : State) (n : Nat) (p : Picture) : State × Option (List Nat) :=
  match p with
  | .fill => pixelColours s n fun s _ => (s, some (constColour s n))
  | .frame f => pixelColours s n fun s q => storedColour s n f.set q
  | .moved f m steps =>
    match reprojected s n f.set steps m with
    | (s, none) => (s, none)
    | (s, some out) => pixelColours s n fun s q =>
        (s, some ((leftFilled out (sampleIndex s n 0 q.2.1 q.2.2) q.1).getD (constColour s n)))

/-- KIND, frame number and discarded triangles of a status record (R244). -/
def pictureStatus (p : Picture) (again : Bool) : Nat × Nat × Nat :=
  match p with
  | .fill => (2, 2 ^ 64 - 1, 0)
  | .moved f _ _ => (1, f.no, f.disc)
  | .frame f => (if again then 2 else 0, f.no, f.disc)

/-- The status record of an output (R244). -/
def statusRecord (j : ShowJob) : List Byte :=
  let (kind, no, disc) := pictureStatus j.pic j.again
  leBytes 8 no ++ leBytes 8 j.slot ++ leBytes 8 j.tick ++ leBytes 8 (disc * 2 ^ 32 + kind) ++ List.replicate 32 0

/-- The pixels and then the status record written at the output (R230, R244). -/
def writePicture (s : State) (n : Nat) (j : ShowJob) : State × Option HomeFail :=
  let seg := streamField s n 613 3
  let ctx := streamCtx s n
  let va := segBase ((s.ctx ctx).segs.get 0 seg) + streamField s n 565 48
  match pictureColours s n j.pic with
  | (s, none) => (s, some .held)
  | (s, some cs) =>
    let all := cs.flatMap (leBytes (colourBytes (streamCfmt s n))) ++ statusRecord j
    virtWrite s none ctx va (seg - 3) (pageFuel all.length) all

/-- Outputs of a stream written in order, until a home holds one. -/
def writeShows (n : Nat) : List ShowJob → State → State
  | [], s => s.setStream n { s.stream n with shows := [] }
  | j :: js, s =>
    match writePicture s n j with
    | (s, some .held) => s.setStream n { s.stream n with shows := j :: js }
    | (s, _) => writeShows n js s

/-- The Closed frame becomes the last Presented one (R241). -/
def showClosed (s : State) (n : Nat) : State :=
  let x := s.stream n
  match x.closed with
  | none => s
  | some f => s.setStream n { x with closed := none, shown := some { f with slot := x.slot } }

/-- The picture a reprojection shows: the last Presented frame moved, or the constant (R242, R243). -/
def reprojection (x : Stream) (steps : Nat) : Picture :=
  match x.shown with
  | some f => .moved f x.xform steps
  | none => .fill

/-- What a slot shows, and whether it repeats or fills (R242). -/
def slotChoice (x : Stream) (reproj : Bool) : Picture × Bool :=
  match x.closed with
  | some f => (.frame f, false)
  | none =>
    if x.cur.isSome && reproj then (reprojection x (x.slot - ((x.shown.map (·.slot)).getD 0)), true)
    else match x.shown with
      | some f => (.frame f, true)
      | none => (.fill, true)

/-- What a slot's deadline makes of the frames (R241): the Closed frame is Presented, or the Open one is Substituted. -/
def passSlot (s : State) (n : Nat) : State :=
  let x := s.stream n
  if x.closed.isSome then showClosed s n
  else s.setStream n { x with cur := x.cur.map (fun f => { f with late := true }) }

/-- SLOT_DEADLINE (R242): a slot's deadline passes; the Closed frame is presented, or a reprojection, or a repeat, and a
frame still Open is Substituted when its slot shows another. Outputs that homes hold are written later, in order. The
step's operand: the stream. -/
def execSlotDeadline (s : State) : Host.Outcome State Fault Refusal :=
  let n := s.pick.a % 256
  let x := s.stream n
  let due := x.bound && streamField s n 832 32 != 0 && slotDeadline s n x.slot ≤ (s.globalTick : Int)
  let s := if !due then s
    else
      let (p, again) := slotChoice x (streamField s n 964 1 == 1)
      let s := passSlot s n
      s.setStream n { s.stream n with
        slot := x.slot + 1, shows := x.shows ++ [{ pic := p, again := again, slot := x.slot, tick := s.globalTick }] }
  .next (writeShows n (s.stream n).shows s)

/-! The presentation engine's commands (R480). -/

/-- A command of a stream accepted. -/
def prsTake (v : View) (s : State) (h : Option (BitVec 4)) (go : State → Option DWord → State) : Res :=
  let (s, hd) := grantHandle v s 3 h
  .done (go s hd)

/-- A command accepted that completes with a status and a result. -/
def prsAnswer (v : View) (s : State) (h : Option (BitVec 4)) (status : Nat) (word : Word) : Res :=
  prsTake v s h fun s hd => completeHandle s hd status word

/-- Whether a stream is bound to a strand's context (R228). -/
def streamGood (v : View) (s : State) (n : Nat) : Bool := (s.stream n).bound && streamCtx s n == v.st.ctx

/-- PRS.DRAW (R480): its block is a DRAW record. It waits to be accepted while its prefixes' homes hold the reads (log
167). -/
def execPrsDraw (c : Ctl) (h : Option (BitVec 4)) (a b : BitVec 5) (s : State) :=
  run (.prsDraw c h a b) c s fun v s => withRoom v s false h fun s =>
    withBlock v s (v.pairVal a).toNat 64 16 fun s _ bs =>
      let bits := BitVec.ofNat 512 (leNat bs)
      if v.pairVal b != 0 || !drawLegal bits then .trap v.illegal s
      else match drawPrefixes s v.st.ctx bits with
        | (s, .error .held) => .stay 22 s
        | (s, .error _) => prsAnswer v s h 3 0
        | (s, .ok pre) => prsTake v s h fun s hd => startDraw s v.st.ctx bits pre none hd

/-- The identity transform. -/
def identity4 : List Word := (List.range 16).map (fun i => if i % 5 = 0 then gOne else 0)

/-- PRS.FRAME (R480): the frame closes once every draw started before has completed (R241). -/
def execPrsFrame (c : Ctl) (h : Option (BitVec 4)) (a b : BitVec 5) (s : State) :=
  run (.prsFrame c h a b) c s fun v s => withRoom v s false h fun s =>
    let n := (v.pairVal a).toNat
    let go (s : State) (m : List Word) : Res :=
      if n ≥ 256 then .trap v.illegal s
      else if !streamGood v s n then prsAnswer v s h 3 0
      else prsTake v s h fun s hd =>
        let s := openPanel s n
        let x := s.stream n
        let s := s.setStream n { x with xform := m, closes := x.closes ++ [{ handle := hd, xform := m, draws := x.draws }] }
        settleCloses s n (x.closes.length + 1)
    if v.pairVal b = 0 then go s identity4
    else withBlock v s (v.pairVal b).toNat 64 64 fun s _ bs =>
      go s ((List.range 16).map (fun i => BitVec.ofNat 32 (leNat ((bs.drop (4 * i)).take 4))))

/-- A command on demand, once its pairs stand within R480: FAULT at once, or an output with its result word and what
follows it, which waits to be accepted while homes hold it. -/
def prsOnDemand (v : View) (s : State) (h : Option (BitVec 4)) (a b : BitVec 5) (refuse : Nat → Bool)
    (pic : Nat → Option Picture) (res : Nat → Nat) (after : State → Nat → State) : Res :=
  withRoom v s false h fun s =>
    let n := (v.pairVal a).toNat
    if n ≥ 256 || v.pairVal b != 0 then .trap v.illegal s
    else if !streamGood v s n || streamField s n 832 32 != 0 || refuse n then prsAnswer v s h 3 0
    else match pic n with
      | none => prsAnswer v s h 0 (BitVec.ofNat 32 (res n))
      | some p =>
        match writePicture s n { pic := p, tick := s.globalTick } with
        | (s, some .held) => .stay 22 s
        | (s, some _) => prsAnswer v s h 3 0
        | (s, none) => prsTake v s h fun s hd => after (completeHandle s hd 0 (BitVec.ofNat 32 (res n))) n

/-- The number of a frame as a result word, all ones for none. -/
def frameWord (f : Option Frame) : Nat := match f with | some f => f.no | none => 0xFFFFFFFF

/-- PRS.PRESENT (R480): step 1 of R242 on demand. -/
def execPrsPresent (c : Ctl) (h : Option (BitVec 4)) (a b : BitVec 5) (s : State) :=
  run (.prsPresent c h a b) c s fun v s =>
    prsOnDemand v s h a b (fun _ => false) (fun n => (s.stream n).closed.map .frame) (fun n => frameWord (s.stream n).closed)
      showClosed

/-- PRS.REPROJ (R480): step 2 of R242 on demand, moved once. -/
def execPrsReproj (c : Ctl) (h : Option (BitVec 4)) (a b : BitVec 5) (s : State) :=
  run (.prsReproj c h a b) c s fun v s =>
    prsOnDemand v s h a b (fun n => streamField s n 964 1 == 0) (fun n => some (reprojection (s.stream n) 1))
      (fun n => frameWord (s.stream n).shown) (fun s _ => s)

end Sys2Proof.Machine
end

