-- ==== Sys2Proof/Machine/Raster.lean ====
section
/-! DEFINITION. The raster unit: assembly and clipping (13 R232, R233), setup and claims (R234, 12 R226), the sweep with
early depth and interval formation (R235-R238, 14 R247), and ordered blend (R239, R240). -/
namespace Sys2Proof.Machine

/-! Clipping and the screen (R231, R233). -/

/-- A vertex in clip space: its position and attributes, twenty components. -/
abbrev ClipVertex := List Word

/-- A delivered vertex with every attribute it never wrote at 0.0. -/
def clipVertex (x : Vertex) : ClipVertex :=
  (List.range 4).map (fun i => x.pos.getD i 0) ++ (List.range 16).map (fun i => x.attrs.get 0 i)

/-- The six planes of R233 in order: a vertex's signed distance; `g` is G. -/
def planeDistance (g : Word) (plane : Nat) (p : ClipVertex) : Word :=
  let x := p.getD 0 0
  let y := p.getD 1 0
  let z := p.getD 2 0
  let w := p.getD 3 0
  match plane with
  | 0 => z
  | 1 => gSub w z
  | 2 => gAdd y w
  | 3 => gSub w y
  | 4 => gAdd x (gMul g w)
  | _ => gSub (gMul g w) x

/-- Whether a distance is on the inner side. -/
def onInside (d : Word) : Bool := !gIsNan d && !gLt d 0

/-- The new vertex of an edge from a to b. -/
def cutEdge (da db : Word) (a b : ClipVertex) : ClipVertex :=
  let t := gDiv da (gSub da db)
  (a.zip b).map (fun e => gFma t (gSub e.2 e.1) e.1)

/-- A polygon clipped against one plane: each vertex kept when inside, and a new one where the edge after it crosses. -/
def clipPlane (g : Word) (plane : Nat) (poly : List ClipVertex) : List ClipVertex :=
  poly.zipIdx.flatMap (fun e =>
    let b := poly.getD ((e.2 + 1) % poly.length) []
    let da := planeDistance g plane e.1
    let db := planeDistance g plane b
    (if onInside da then [e.1] else []) ++ (if onInside da != onInside db then [cutEdge da db e.1 b] else []))

/-- G of a stream's width: 2^22 over W, rounded, less 1. -/
def clipBand (w : Nat) : Word := gSub (gDiv (gOfInt (2 ^ 22)) (gOfInt w)) gOne

/-- The clipped polygon of a triangle; empty where nothing is left. -/
def clipTriangle (w : Nat) (poly : List ClipVertex) : List ClipVertex :=
  (List.range 6).foldl (fun p i => if p.length < 3 then [] else clipPlane (clipBand w) i p) poly

/-- A vertex on the screen; none where R233 discards its triangle. -/
def screenVertex (s : State) (n : Nat) (p : ClipVertex) : Option ScreenVertex :=
  let pos := p.take 4
  let wc := p.getD 3 0
  if pos.any (fun x => !gIsFinite x) || !gLt 0 wc then none
  else
    let q := gDiv gOne wc
    let half (k : Nat) : Word := gDiv (gOfInt k) (gOfInt 2)
    let xs := gMul (gAdd (gMul (p.getD 0 0) q) gOne) (half (streamW s n))
    let ys := gMul (gSub gOne (gMul (p.getD 1 0) q)) (half (streamH s n))
    let sd := gFma (BitVec.ofNat 32 (streamField s n 896 32)) q (BitVec.ofNat 32 (streamField s n 864 32))
    if !gIsFinite sd || !gLt (sd &&& 0x7FFFFFFF) 0x46000000 then none
    else some {
      xf := gInt .rne (gMul xs 0x43800000), yf := gInt .rne (gMul ys 0x43800000), sf := gInt .rne (gMul sd 0x47800000)
      zs := gMul (p.getD 2 0) q, q := q, c := (p.drop 4).map (fun a => gMul a q) }

/-- The triangles of a polygon, fanned from its first vertex. -/
def fanOf (ps : List ScreenVertex) : List (List ScreenVertex) :=
  match ps with
  | [] => []
  | p :: rest => (rest.zip (rest.drop 1)).map (fun e => [p, e.1, e.2])

/-- What becomes of an assembled triangle: discarded, or the triangles of its clipped polygon. -/
def clipScreen (s : State) (n : Nat) (vs : List Vertex) : Option (List (List ScreenVertex)) :=
  let poly := clipTriangle (streamW s n) (vs.map clipVertex)
  let ps := poly.map (screenVertex s n)
  if ps.any Option.isNone then none else some (fanOf (ps.filterMap id))

/-! Assembly (R232). -/

/-- The vertices of triangle t. -/
def triangleIndices (topo t : Nat) : List Nat :=
  match topo with
  | 0 => [3 * t, 3 * t + 1, 3 * t + 2]
  | 1 => if t % 2 = 1 then [t + 1, t, t + 2] else [t, t + 1, t + 2]
  | _ => [0, t + 1, t + 2]

/-- Whether a draw's triangles are all assembled. -/
def assembled (y : Draw) : Bool := y.next ≥ drawTriangles y.bits

/-- The rows of a stream that triangles touch. -/
def touchedRows (s : State) (n : Nat) (tris : List (List ScreenVertex)) : List Nat :=
  let ys := tris.flatten.map (·.yf)
  match ys with
  | [] => []
  | y :: rest =>
    let lo := max 0 (rest.foldl min y / 256)
    let hi := min ((streamH s n : Int) - 1) (rest.foldl max y / 256)
    if hi < lo then [] else (List.range (hi - lo + 1).toNat).map (fun i => lo.toNat + i)

/-- PRIMITIVE_ASSEMBLY (R232): the first draw of a stream that is not assembled yields its next triangle, once its
vertices are delivered. A frame that is still being cleared goes on with that first (R241). The step's operand: the
stream. -/
def execPrimitiveAssembly (s : State) : Host.Outcome State Fault Refusal :=
  let n := s.pick.a % 256
  let s := clearFrame s n
  let s := settleCloses s n (s.stream n).closes.length
  let x := s.stream n
  if x.clears then .next s
  else match x.draws.find? (fun d => match s.draws.find d with | some y => !assembled y | none => false) with
  | none => .next (x.draws.foldl settleDraw s)
  | some d =>
    match s.draws.find d with
    | none => .next s
    | some y =>
      let ix := triangleIndices (drawTopo y.bits) y.next
      let vs := ix.filterMap (fun i => (s.verts.find? (fun e => e.1 == d && e.2.1 == i)).map (·.2.2))
      if vs.length < 3 then .next s
      else
        let s := s.setStream n { x with seq := (x.seq + 1) % 2 ^ 32 }
        let s := { s with draws := s.draws.set d { y with next := y.next + 1 } }
        match clipScreen s n vs with
        | none =>
          .next (settleDraw (s.setStream n ((s.stream n).updFrame y.frame (fun f => { f with disc := f.disc + 1 }))) d)
        | some tris =>
          let ks := (touchedRows s n tris).foldl (fun acc r => insertNat acc (rowCluster r)) []
          let s := ks.foldl (fun s k =>
            let z := s.clu k
            s.setClu k { z with prims := z.prims ++ [{ draw := d, seq := x.seq, tris := tris }] }) s
          .next (settleDraw s d)

/-! Setup (R234, R226). -/

/-- Pixel columns and views of a tile that lie in the stream. -/
def tileColumns (s : State) (n xt : Nat) : List Nat := (List.range 32).filterMap (fun i => if 32 * xt + i < streamW s n then some (32 * xt + i) else none)
def tileViews (s : State) (n vt : Nat) : List Nat := (List.range 32).filterMap (fun i => if 32 * vt + i < streamV s n then some (32 * vt + i) else none)

/-- Whether a sample of a stream is covered by a triangle (R235). -/
def coversSample (s : State) (n : Nat) (t : List ScreenVertex) (x y v : Nat) : Bool :=
  covers (streamField s n 965 2) t ((v : Int) - streamVref s n) (pixelX x) (rowY y)

/-- Whether triangles cover some sample of a tile. -/
def coversTile (s : State) (n : Nat) (tris : List (List ScreenVertex)) (p : Nat × Nat × Nat) : Bool :=
  tris.any (fun t => (tileViews s n p.2.2).any (fun v => (tileColumns s n p.2.1).any (fun x => coversSample s n t x p.1 v)))

/-- The tiles of a cluster's bands that a primitive's coverage reaches, in the order of the sweep (R236). -/
def reachedTiles (s : State) (k n : Nat) (tris : List (List ScreenVertex)) : List (Nat × Nat × Nat) :=
  ((touchedRows s n tris).filter (fun y => rowCluster y == k)).flatMap (fun y =>
    (List.range ((streamW s n + 31) / 32)).flatMap (fun xt =>
      ((List.range ((streamV s n + 31) / 32)).map (fun vt => (y, xt, vt))).filter (coversTile s n tris)))

/-- The lowest free setup records of a cluster. -/
def freeSetups (x : Cluster) (n : Nat) : Option (List Nat) :=
  let free := ((List.range (x.setups.length + n)).filter (fun i => (x.setups.find i).isNone)).take n
  if free.all (· < 16384) then some free else none

/-- The place of a raster entry. -/
def findRaster (x : Cluster) (ctx key : Nat) : Option Nat :=
  x.keys.findIdx? (fun e => e.ras && e.ctx == ctx && e.key.toNat == key)

/-- A claim appended to a tile's raster entry, which is made if it is absent (R226). -/
def claimTile (s : State) (k ctx key seq : Nat) : State :=
  let (s, i) := match findRaster (s.clu k) ctx key with
    | some i => (s, i)
    | none => addEntry s k { ctx := ctx, key := BitVec.ofNat 64 key, ras := true }
  let x := s.clu k
  s.setClu k { x with keys := x.keys.modify i (fun e => { e with claims := e.claims ++ [seq] }) }

/-- Room for the claims of a primitive on its tiles: waiter records, and entries for the tiles without one (R226). The
flag says that there is room. -/
def roomForClaims (s : State) (k n ctx : Nat) (tiles : List (Nat × Nat × Nat)) : State × Bool :=
  let new := (tiles.filter (fun p => (findRaster (s.clu k) ctx (rasterKey n p.1 p.2.1 p.2.2)).isNone)).length
  if waiterCount (s.clu k) + tiles.length > 16384 then (s, false)
  else match makeRoom s k new new with
    | (s, none) => (s, true)
    | (s, some _) => (s, false)

/-- PRIMITIVE_SETUP (R234): a cluster sets up its next primitive: setup records, claims and the sweep to come. It holds
the primitive while one of them has no room. The step's operand: the cluster. -/
def execPrimitiveSetup (s : State) : Host.Outcome State Fault Refusal :=
  let k := s.pick.a % 8
  match (s.clu k).prims with
  | [] => .next s
  | p :: rest =>
    match s.draws.find p.draw with
    | none => .next s
    | some y =>
      let n := y.stream
      let tiles := reachedTiles s k n p.tris
      if tiles.isEmpty then
        let x := s.clu k
        .next (settleDraw (s.setClu k { x with prims := rest }) p.draw)
      else match freeSetups (s.clu k) p.tris.length with
        | none => .next s
        | some ix =>
          match roomForClaims s k n y.ctx tiles with
          | (s, false) => .next s
          | (s, true) =>
            let s := tiles.foldl (fun s q => claimTile s k y.ctx (rasterKey n q.1 q.2.1 q.2.2) p.seq) s
            let x := s.clu k
            let setups := (ix.zip p.tris).foldl (fun t e => t.set e.1 { draw := p.draw, seq := p.seq, verts := e.2 }) x.setups
            .next (s.setClu k { x with
              prims := rest, setups := setups
              sects := x.sects ++ tiles.map (fun q => { ctx := y.ctx, draw := p.draw, seq := p.seq, key := rasterKey n q.1 q.2.1 q.2.2 })
              sweeps := x.sweeps ++ [{ draw := p.draw, seq := p.seq, recs := ix, tiles := tiles }] })

/-! Leaving sections and freeing setup records (R226, R248, R253). -/

/-- A section whose sweep is done and whose records have retired is left: its claim goes, and an entry without claims
with it. -/
def leaveSect (s : State) (k : Nat) (r : RasterSect) : State :=
  if r.count != 0 || !r.swept then s
  else
    let x := s.clu k
    let keys := x.keys.map (fun e =>
      if e.ras && e.ctx == r.ctx && e.key.toNat == r.key then { e with claims := e.claims.erase r.seq } else e)
    s.setClu k { x with sects := x.sects.erase r, keys := keys.filter (fun e => !e.ras || !e.claims.isEmpty) }

/-- Every section of a primitive that can be left is left, and every setup record of it that can be freed is freed. -/
def settlePrim (s : State) (k draw seq : Nat) : State :=
  let s := ((s.clu k).sects.filter (fun r => r.draw == draw && r.seq == seq)).foldl (fun s r => leaveSect s k r) s
  let x := s.clu k
  settleDraw (s.setClu k { x with
    setups := x.setups.filter (fun e => !(e.2.draw == draw && e.2.seq == seq && e.2.swept && e.2.live == 0)) }) draw

/-! The sweep (R236, R238, R247). -/

/-- The value of a record of some fields (R246). -/
def makeInterval (ctx n draw x y lo hi setup seq m0 m1 key : Nat) (pair : Bool) : BitVec 512 :=
  BitVec.ofNat 512 (0xF1 * 2 ^ 504 + ctx * 2 ^ 498 + n * 2 ^ 490 + draw % 2 ^ 16 * 2 ^ 474 + x * 2 ^ 462 + y * 2 ^ 450 +
    lo * 2 ^ 443 + hi * 2 ^ 436 + (if pair then 2 ^ 435 else 0) + setup * 2 ^ 416 + seq * 2 ^ 384 + m0 * 2 ^ 352 +
    m1 * 2 ^ 320 + key * 2 ^ 288)

/-- Views in a row, cut where a view is missing or a block of n begins (R247). -/
def viewRuns (n : Nat) : List Nat → List (Nat × Nat)
  | [] => []
  | v :: vs =>
    match viewRuns n vs with
    | [] => [(v, v)]
    | (lo, hi) :: rest => if lo = v + 1 && lo % n != 0 then (v, hi) :: rest else (v, v) :: (lo, hi) :: rest

/-- The block of views of VSTEP. -/
def viewBlock (vstep : Nat) : Nat :=
  match vstep with
  | 0 => 1
  | 1 => 2
  | 2 => 4
  | 3 => 8
  | _ => 32

/-- A mask of views relative to the lowest. -/
def viewMask (lo hi : Nat) (vs : List Nat) : Nat :=
  ((List.range (hi - lo + 1)).map (fun j => if vs.contains (lo + j) then 2 ^ j else 0)).sum

/-- Whether early depth applies to a stream (R238). -/
def earlyDepth (s : State) (n : Nat) : Bool := streamField s n 947 1 == 1 && 1 ≤ streamZfunc s n && streamZfunc s n ≤ 4

/-- The depths of a tile as stored, for a draw that sweeps it first; a sample whose depth cannot be read is left out. None
while a home holds a read. -/
def readTile (s : State) (k n set : Nat) (p : Nat × Nat × Nat) : State × Option (List ((Nat × Nat) × Word)) :=
  let cells := (tileViews s n p.2.2).flatMap (fun v => (tileColumns s n p.2.1).map (fun x => (x, v)))
  match collect (fun s c => match panelRead s k (streamCtx s n) (depthVa s n set c.1 p.1 c.2) 4 with
      | (s, none) => (s, none)
      | (s, some z) => (s, some (z.map (fun z => (c, BitVec.ofNat 32 z))))) s cells with
  | (s, none) => (s, none)
  | (s, some zs) => (s, some (zs.filterMap id))

/-- The views of a pixel in which a triangle's sample survives coverage and early depth. -/
def survivors (s : State) (n : Nat) (t : List ScreenVertex) (early : Option (List ((Nat × Nat) × Word))) (y x vt : Nat) : List Nat :=
  if x ≥ streamW s n then []
  else (tileViews s n vt).filter (fun v =>
    coversSample s n t x y v &&
    match early with
    | none => true
    | some ds =>
      match ds.find? (fun d => d.1 == (x, v)) with
      | none => true
      | some d => zfunc (streamZfunc s n) (depthAt t ((v : Int) - streamVref s n) (pixelX x) (rowY y)) d.2)

/-- The records of a tile for one triangle, in order, each with the core its row and column name (R247). -/
def formIntervals (s : State) (k : Nat) (y : Draw) (d seq setup : Nat) (t : List ScreenVertex)
    (early : Option (List ((Nat × Nat) × Word))) (p : Nat × Nat × Nat) : List (Nat × BitVec 512) :=
  let n := y.stream
  let pair := streamPair s n
  let cells := (tileColumns s n p.2.1).filter (fun x => !pair || x % 2 = 0)
  cells.flatMap (fun x =>
    let a := survivors s n t early p.1 x p.2.2
    let b := if pair then survivors s n t early p.1 (x + 1) p.2.2 else []
    let vs := (tileViews s n p.2.2).filter (fun v => a.contains v || b.contains v)
    (viewRuns (viewBlock (streamVstep s n)) vs).map (fun r =>
      (256 * k + 16 * (p.1 % 16) + x / 32 % 16,
        makeInterval y.ctx n d x p.1 r.1 r.2 setup seq (viewMask r.1 r.2 a) (viewMask r.1 r.2 b)
          (rasterKey n p.1 p.2.1 p.2.2) pair)))

/-- Records pushed while some cistern has room (R125); the rest wait. -/
def pushAll (s : State) (k ctx : Nat) : List (Nat × BitVec 512) → State × List (Nat × BitVec 512)
  | [] => (s, [])
  | (c, x) :: rest =>
    match pushCore s c ctx with
    | none => (s, (c, x) :: rest)
    | some c' => pushAll (pushRecord (countRecord s k x) c' ctx x) k ctx rest

/-- The head of a cluster's sweeps replaced. -/
def setSweep (s : State) (k : Nat) (j : SweepJob) : State :=
  let x := s.clu k
  s.setClu k { x with sweeps := j :: x.sweeps.drop 1 }

/-- A tile whose records are all queued is swept; the last one ends the primitive's sweep in the cluster. -/
def endTile (s : State) (k n : Nat) (j : SweepJob) (p : Nat × Nat × Nat) : State :=
  let x := s.clu k
  let key := rasterKey n p.1 p.2.1 p.2.2
  let last := j.tiles.isEmpty
  let s := s.setClu k { x with
    sects := x.sects.map (fun r => if r.draw == j.draw && r.seq == j.seq && r.key == key then { r with swept := true } else r)
    setups := if last then x.setups.map (fun e => if j.recs.contains e.1 then (e.1, { e.2 with swept := true }) else e) else x.setups
    sweeps := if last then x.sweeps.drop 1 else { j with now := none, left := [] } :: x.sweeps.drop 1 }
  settlePrim s k j.draw j.seq

/-- The records of a swept tile go to the cisterns. -/
def queueTile (s : State) (k : Nat) (y : Draw) (j : SweepJob) (p : Nat × Nat × Nat) (xs : List (Nat × BitVec 512)) : State :=
  match pushAll s k y.ctx xs with
  | (s, []) => endTile s k y.stream j p
  | (s, left) => setSweep s k { j with now := some p, left := left }

/-- A record put in its place among a primitive's records of a tile: ascending X, then ascending VLO (R247). -/
def insertInterval (e : Nat × BitVec 512) : List (Nat × BitVec 512) → List (Nat × BitVec 512)
  | [] => [e]
  | f :: fs =>
    if ivX e.2 < ivX f.2 || (ivX e.2 == ivX f.2 && ivLo e.2 ≤ ivLo f.2) then e :: f :: fs else f :: insertInterval e fs

/-- The depths that a draw's sweep of a tile tests against: none for no early depth, as it read them when it swept the tile
first, or as they are read now (R238). None while a home holds a read. -/
def earlyTile (s : State) (k : Nat) (y : Draw) (d key : Nat) (p : Nat × Nat × Nat) :
    State × Option (Option (List ((Nat × Nat) × Word))) :=
  if !earlyDepth s y.stream then (s, some none)
  else match (s.clu k).depths.find? (fun t => t.draw == d && t.key == key) with
    | some t => (s, some (some t.depth))
    | none =>
      match readTile s k y.stream y.set p with
      | (s, none) => (s, none)
      | (s, some zs) =>
        let x := s.clu k
        (s.setClu k { x with depths := x.depths ++ [{ draw := d, key := key, depth := zs }] }, some (some zs))

/-- SWEEP (R236): the raster unit of a cluster takes the next tile of its oldest primitive, tests coverage and early
depth, and forms the interval records. Early depth waits until every earlier draw of the stream has passed blend in the
tile (R238). The step's operand: the cluster. -/
def execSweep (s : State) : Host.Outcome State Fault Refusal :=
  let k := s.pick.a % 8
  match (s.clu k).sweeps with
  | [] => .next s
  | j :: _ =>
    match s.draws.find j.draw with
    | none => .next s
    | some y =>
      match j.now, j.tiles with
      | some p, _ => .next (queueTile s k y j p j.left)
      | none, [] => .next s
      | none, p :: rest =>
        let n := y.stream
        let key := rasterKey n p.1 p.2.1 p.2.2
        if earlyDepth s n && (s.clu k).sects.any (fun r => r.ctx == y.ctx && r.key == key && r.draw < j.draw) then .next s
        else match earlyTile s k y j.draw key p with
          | (s, none) => .next s
          | (s, some early) =>
            let xs := j.recs.flatMap (fun i => match (s.clu k).setups.find i with
              | none => []
              | some r => formIntervals s k y j.draw j.seq i r.verts early p)
            .next (queueTile s k y { j with tiles := rest } p (xs.foldr insertInterval []))

/-! Blend (R239, R240). -/

/-- Factor f of a channel (R240). -/
def blendFactor (f i : Nat) (src dst k : List Word) : Word :=
  let inv (x : Word) : Word := gSub gOne x
  match f with
  | 0 => 0
  | 1 => gOne
  | 2 => src.getD i 0
  | 3 => inv (src.getD i 0)
  | 4 => src.getD 3 0
  | 5 => inv (src.getD 3 0)
  | 6 => dst.getD i 0
  | 7 => inv (dst.getD i 0)
  | 8 => dst.getD 3 0
  | 9 => inv (dst.getD 3 0)
  | 10 => k.getD i 0
  | _ => inv (k.getD i 0)

/-- The blended colour (R240). -/
def blendColour (s : State) (n : Nat) (src dst : List Word) : List Word :=
  if streamField s n 963 1 = 0 then src
  else
    let k := colourValue 0 (streamConst s n)
    (List.range 4).map (fun i =>
      let a := src.getD i 0
      let b := dst.getD i 0
      let t1 := gMul a (blendFactor (streamField s n 956 4) i src dst k)
      let t2 := gMul b (blendFactor (streamField s n 952 4) i src dst k)
      match streamField s n 960 3 with
      | 0 => gAdd t1 t2
      | 1 => gSub t1 t2
      | 2 => gSub t2 t1
      | 3 => gMin a b
      | _ => gMax a b)

/-- A stored colour with the channels of WMASK replaced; its bit 3 is red and bit 0 alpha (R227). -/
def maskColour (s : State) (n old : Nat) (xs : List Word) : Nat :=
  (List.range 4).foldl (fun acc i =>
    let (lo, w, _) := channel (streamCfmt s n) i
    if (streamField s n 948 4).testBit (3 - i) then putField acc lo w (channelCode (streamCfmt s n) i (xs.getD i 0)) else acc) old

/-- A read or write of blend at a virtual address, through its cluster's TLB: none while it is held, else its outcome. -/
def blendPlace (s : State) (k n va : Nat) : State × Option (Option (Nat × Via)) :=
  let s := touchPage s (some k) (streamCtx s n) va
  match walkPlace s (some k) (streamCtx s n) va 0 true with
  | .fault _ => (s, some none)
  | .dump => (dumpStall s (streamCtx s n) va, none)
  | .held => (s, none)
  | .at_ key via =>
    match keyFail s key via false with
    | none => (s, some (some (key, via)))
    | some .held => (s, none)
    | some _ => (s, some none)

/-- A sample's depth and colour, at their places, tested and blended (R239); one whose stored value is uncorrectable is not
written (R229). -/
def blendAt (s : State) (n : Nat) (zp cp : Nat × Via) (z : Word) (colour : Option (List Word)) : State :=
  let cb := colourBytes (streamCfmt s n)
  match agentRead s zp.1 zp.2 false 2 4 with
  | (s, .error _) => s
  | (s, .ok (zd, _)) =>
    if !zfunc (streamZfunc s n) z (BitVec.ofNat 32 (leNat zd)) then s
    else
      let s := if streamField s n 967 1 = 1 then (agentWrite s zp.1 zp.2 false 2 (leBytes 4 z.toNat)).1 else s
      match colour with
      | none => s
      | some src =>
        match agentRead s cp.1 cp.2 false 2 cb with
        | (s, .error _) => s
        | (s, .ok (old, _)) =>
          let o := leNat old
          let new := maskColour s n o (blendColour s n src (colourValue (streamCfmt s n) o))
          (agentWrite s cp.1 cp.2 false 2 (leBytes cb new)).1

/-- One sample tested and blended (R239), with whether a home or a dump holds it. A sample whose set is not mapped is not
written (R229). -/
def blendSample (s : State) (k n set x y v : Nat) (z : Word) (colour : Option (List Word)) : State × Bool :=
  match blendPlace s k n (depthVa s n set x y v) with
  | (s, none) => (s, true)
  | (s, some zp) =>
    match blendPlace s k n (colourVa s n set x y v) with
    | (s, none) => (s, true)
    | (s, some cp) =>
      match zp, cp with
      | some zp, some cp => (blendAt s n zp cp z colour, false)
      | _, _ => (s, false)

/-- The samples an interval names, as pixel and view. -/
def intervalSamples (x : BitVec 512) : List (Nat × Nat) :=
  let one (px m : Nat) : List (Nat × Nat) := ((List.range 32).filter (fun j => m.testBit j)).map (fun j => (px, ivLo x + j))
  one (ivX x) (ivMask0 x) ++ one (ivX x + 1) (ivMask1 x)

/-- Samples blended one after another; those still to come once one is held. -/
def blendSamples (b : BlendItem) (k n set : Nat) (t : List ScreenVertex) : List (Nat × Nat) → State → State × List (Nat × Nat)
  | [], s => (s, [])
  | (x, v) :: rest, s =>
    let z := b.depth.getD (depthAt t (viewDist s b.ivl v) (pixelX x) (rowY (ivY b.ivl)))
    match blendSample s k n set x (ivY b.ivl) v z b.colour with
    | (s, true) => (s, (x, v) :: rest)
    | (s, false) => blendSamples b k n set t rest s

/-- An interval record retires (R253): its section and its setup record count it off. -/
def retireRecord (s : State) (k draw : Nat) (x : BitVec 512) : State :=
  let s := updSect s k x (fun e => { e with count := e.count - 1 })
  let y := s.clu k
  let s := match y.setups.find (ivSetup x) with
    | some r => s.setClu k { y with setups := y.setups.set (ivSetup x) { r with live := r.live - 1 } }
    | none => s
  settlePrim s k draw (ivSeq x)

/-- Whether a primitive is the lowest outstanding claim of its tile (R226). -/
def sectionHeld (s : State) (k : Nat) (x : BitVec 512) : Bool :=
  match findRaster (s.clu k) (ivCtx x) (ivKey x) with
  | none => false
  | some i => match (s.clu k).keys[i]? with
    | none => false
    | some e => e.claims.all (fun c => ivSeq x ≤ c)

/-- BLEND (R239): an interval that has reached blend, once its primitive holds its tile's raster section, has its samples
tested and blended, and retires. One without a view left retires at once, and one of whose samples a home holds keeps
them. The step's operands: the cluster, and the place of the interval. -/
def execBlend (s : State) : Host.Outcome State Fault Refusal :=
  let k := s.pick.a % 8
  match (s.clu k).blendQ[s.pick.b]? with
  | none => .next s
  | some b =>
    let out (s : State) : State :=
      let x := s.clu k
      s.setClu k { x with blendQ := dropAt x.blendQ s.pick.b }
    match s.draws.find b.draw with
    | none => .next (out s)
    | some y =>
      let todo := b.left.getD (intervalSamples b.ivl)
      if todo.isEmpty then .next (retireRecord (out s) k b.draw b.ivl)
      else if !sectionHeld s k b.ivl then .next s
      else match blendSamples b k y.stream y.set (triangleOf s k b.ivl) todo s with
        | (s, []) => .next (retireRecord (out s) k b.draw b.ivl)
        | (s, left) =>
          let x := s.clu k
          .next (s.setClu k { x with blendQ := setAt x.blendQ s.pick.b { b with left := some left } })

end Sys2Proof.Machine
end

