-- ==== Sys2Proof/Machine/Trace.lean ====
section
/-! DEFINITION. The trace engines (26 R517-R523): frames written out, samples, the TRC commands (19 R481); replay's
divergence (R529) and stops (R524, R525). -/
namespace Sys2Proof.Machine

/-! Frames (R519, R520). -/

/-- The header of a frame (R520). -/
def frameHead (k : Nat) (f : TraceFrame) : Nat :=
  f.lost % 2 ^ 32 * 2 ^ 160 + f.slost % 2 ^ 32 * 2 ^ 128 + (32 + f.bytes.length) * 2 ^ 112 +
    (if f.isRec then 2 ^ 100 else 0) + (if f.unal then 2 ^ 99 else 0) + k * 2 ^ 96 + f.no % 2 ^ 32 * 2 ^ 64 + f.tick % 2 ^ 64

/-- The 4096 bytes of a frame. -/
def frameImage (k : Nat) (f : TraceFrame) : List Byte :=
  leBytes 32 (frameHead k f) ++ f.bytes ++ List.replicate (4096 - 32 - f.bytes.length) 0

/-- A field of a cluster's trace control block written by its engine. -/
def putTraceCtl (s : State) (k lo w v : Nat) : State :=
  let key := hubKey (traceBase k)
  { s with mem := s.mem.writeNat key 64 (putField (s.mem.readNat key 64) lo w v) }

/-- The flushes that wait for a frame complete. -/
def endFlushes (s : State) (k no status : Nat) : State :=
  let x := s.trace k
  let mine := x.flushes.filter (fun e => e.2 == no)
  let s := s.setTrace k { x with flushes := x.flushes.filter (fun e => e.2 != no) }
  mine.foldl (fun s e => completeHandle s e.1 status 0) s

/-- The oldest closed frame leaves its engine. -/
def dropClosed (s : State) (k : Nat) : State :=
  let x := s.trace k
  s.setTrace k { x with closed := x.closed.drop 1 }

/-- FRAME_TIMEOUT (R519): an open frame closes 2^20 ticks after its first record. The step's operand: the cluster. -/
def execFrameTimeout (s : State) : Host.Outcome State Fault Refusal :=
  let k := s.pick.a % 8
  match (s.trace k).opened with
  | none => .next s
  | some f => if s.tick < f.tick + 2 ^ 20 then .next s else .next (s.setTrace k (closeFrame (s.trace k)))

/-- FRAME_WRITE (R519): the oldest closed frame is written into the ring, or, with MODE ≠ 1, dropped by a full ring or a
failed write. The step's operand: the cluster. -/
def execFrameWrite (s : State) : Host.Outcome State Fault Refusal :=
  let k := s.pick.a % 8
  match (s.trace k).closed with
  | [] => .next s
  | f :: _ =>
    let wr := traceCtl s k 368 32
    let full : Bool := (wr + 2 ^ 32 - traceCtl s k 336 32) % 2 ^ 32 ≥ 2 ^ traceCtl s k 458 5
    let lose (s : State) : State :=
      endTrace (endFlushes (dropClosed (putTraceCtl s k 304 32 (min (2 ^ 32 - 1) (traceCtl s k 304 32 + 1))) k) k f.no 3) k
    if full then (if traceCtl s k 456 2 = 1 then .next s else .next (lose s))
    else
      let a := traceCtl s k 464 48 + 4096 * (wr % 2 ^ traceCtl s k 458 5)
      match agentWrite s (if traceCtl s k 463 1 = 1 then hostKey a else dramKey a) {} true (spanFuel 4096) (frameImage k f) with
      | (_, some .held) => .next s
      | (s, some _) => .next (lose s)
      | (s, none) => .next (endTrace (endFlushes (dropClosed (putTraceCtl s k 368 32 (wr + 1)) k) k f.no 0) k)

/-- TRACE_EN_WRITE (R518): a write to a cluster's trace control block. The step's operands: the cluster and the value. -/
def execTraceEnWrite (s : State) : Host.Outcome State Fault Refusal :=
  .next (writeTraceCtl s (s.pick.a % 8) s.pick.wide.toNat)

/-! Samples (R522). -/

/-- The next occupied slot of a scheduler, after the one sampled last. -/
def sampleSlot (s : State) (c q ctx last : Nat) : Option Nat :=
  ((List.range 6).map (fun i => 6 * q + (last % 6 + 1 + i) % 6)).find? (fun i =>
    let st := s.strandAt c i
    st.state == .resident && st.ctx == ctx)

/-- The payload of a sample of a slot: PC, REASON, ISS, CORE and SLOT. -/
def samplePayload (s : State) (c slot seen : Nat) : Option Nat :=
  let st := s.strandAt c slot
  ((List.range 4).find? (fun i => (st.split i).state != .free)).map (fun i =>
    let sp := st.split i
    sp.pc.toNat / 8 * 2 ^ 19 + sp.stall % 32 * 2 ^ 14 + (if seen < st.lastIssue then 2 ^ 13 else 0) + c % 256 * 32 + slot)

/-- Bytes a sample takes in the present frame. -/
def sampleBytes (x : Trace) (tick : Nat) : Nat :=
  match x.opened with
  | none => 9
  | some f => (recordBytes 2 f.last tick (List.replicate 8 0)).length

/-- SAMPLE_TAKE (R522): a scheduler samples its next slot, one period of the arithmetic clock after its last sample fell due; a sample beyond 64 bytes in its tick is dropped and counted.
The step's operands: the core and the scheduler. -/
def execSampleTake (s : State) : Host.Outcome State Fault Refusal :=
  let c := s.pick.a % 2048
  let q := s.pick.b % 4
  let k := coreCluster c
  let x := s.trace k
  let ix := 4 * (c % 256) + q
  match (s.clu k).tenant with
  | none => .next s
  | some ctx =>
    let j := x.period.get 0 ctx
    let last := x.sampleAt.get (x.sampleAt.get 0 1024) ix
    let due := last + clockTicks s (2 ^ j)
    if j = 0 || s.runTick < due then .next s
    else
      let x := { x with sampleAt := x.sampleAt.set ix (if s.runTick < due + clockTicks s (2 ^ j) then due else s.runTick) }
      match sampleSlot s c q ctx (x.lastSlot.get 5 ix) with
      | none => .next (s.setTrace k x)
      | some slot =>
        let mark := 24 * (c % 256) + slot
        let payload := samplePayload s c slot (x.seen.get 0 mark)
        let x := { x with lastSlot := x.lastSlot.set ix slot, seen := x.seen.set mark s.runTick }
        let s := s.setTrace k x
        match payload with
        | none => .next s
        | some p =>
          if x.now s.tick + sampleBytes x s.tick > 64 then .next (s.setTrace k { x with slost := x.slost + 1 })
          else .next (traceRecord s k 2 p)

/-! The TRC commands (R481). -/

/-- A command of a trace engine accepted. -/
def trcAccept (v : View) (s : State) (h : Option (BitVec 4)) (legal : Bool) (go : State → Option DWord → State) : Res :=
  withRoom v s false h fun s =>
    if !legal then .trap v.illegal s
    else
      let (s, hd) := grantHandle v s 4 h
      .done (go s hd)

/-- TRC.MARK (R481). -/
def execTrcMark (c : Ctl) (h : Option (BitVec 4)) (a b : BitVec 5) (s : State) :=
  run (.trcMark c h a b) c s fun v s =>
    let tag := (v.pairVal a).toNat
    trcAccept v s h (tag < 2 ^ 32 && v.pairVal b == 0) fun s hd =>
      let s := traceRecord s (coreCluster v.r.core) 1
        (tag + v.st.ctx * 2 ^ 32 + v.r.core % 256 * 2 ^ 40 + v.st.number.toNat * 2 ^ 48)
      completeHandle s hd 0 0

/-- TRC.FLUSH (R481): it completes with the frame it closed, or with the last one closed before. -/
def execTrcFlush (c : Ctl) (h : Option (BitVec 4)) (a b : BitVec 5) (s : State) :=
  run (.trcFlush c h a b) c s fun v s =>
    trcAccept v s h (v.pairVal a == 0 && v.pairVal b == 0) fun s hd =>
      let k := coreCluster v.r.core
      let x := closeFrame (s.trace k)
      match x.closed.getLast? with
      | none => completeHandle s hd 0 0
      | some f => s.setTrace k { x with flushes := x.flushes ++ [(hd, f.no)] }

/-- TRC.SAMPLE (R481). -/
def execTrcSample (c : Ctl) (h : Option (BitVec 4)) (a b : BitVec 5) (s : State) :=
  run (.trcSample c h a b) c s fun v s =>
    let j := (v.pairVal a).toNat
    trcAccept v s h ((j == 0 || (8 ≤ j && j ≤ 30)) && v.pairVal b == 0) fun s hd =>
      let k := coreCluster v.r.core
      let x := s.trace k
      completeHandle (s.setTrace k { x with period := x.period.set v.st.ctx j, sampleAt := [(1024, s.runTick)] }) hd 0 0

/-! Replay and stops (R524, R525, R529). -/

/-- The device stops at a tick with a cause. -/
def stopDevice (s : State) (cause : Nat) : State :=
  { s with dev := { s.dev with
      stopped := some s.tick, armed := false, cause := cause, stopTick := BitVec.ofNat 64 s.tick } }

/-- Whether the request a replayed decision names is at its arbiter (R528). -/
def requestThere (s : State) (k ctx cls core str : Nat) : Bool :=
  let x := s.clu k
  let asks (why : Nat) : Bool := (s.core (256 * k + core)).slots.any (fun e => e.2.ctx == ctx && e.2.number.toNat == str &&
    e.2.splits.any (fun f => f.2.stall == why))
  match cls with
  | 1 => asks 24
  | 2 => x.sectReqs.any (fun q =>
    q.w.ctx == ctx && q.w.owner.core % 256 == core && q.w.owner.number.toNat == str && q.after == 0)
  | 3 => x.svc.any (fun q => q.ctx == ctx && q.target.core % 256 == core && q.strand.toNat == str)
  | 4 => s.launches.any (fun e => e.2.ctx == ctx && (e.2.first || e.2.gained.any (fun g => g.2 == 256 * k + core)))
  | 5 => asks 22
  | _ => s.queues.any (fun e => e.1 / 64 == ctx && e.2.state == .draining)

/-- REPLAY_DIVERGENCE (R529): the request that a log names has not arrived within 2^20 ticks of its turn, and the device
stops. The step's operands: the cluster, the arbiter's class and its unit. -/
def execReplayDivergence (s : State) : Host.Outcome State Fault Refusal :=
  let k := s.pick.a % 8
  let ctx := traceCtl s k 450 6
  let arb := s.pick.b * 2 ^ 16 + s.pick.c
  let x := s.trace k
  match replayNext s k ctx s.pick.b s.pick.c with
  | none => .next s
  | some d =>
    if s.dev.stopped.isSome || s.runTick < x.turnAt.get (x.turnAt.get 0 0) arb + 2 ^ 20 ||
        requestThere s k ctx s.pick.b (d / 2 ^ 32 % 2 ^ 8) (d / 2 ^ 16 % 2 ^ 16) then .next s
    else .next (stopDevice s 2)

/-- STOP_ARM (R524): a write of a stop register at the Dziwick port; a tick that has passed stops the device at once.
The step's operands: 0 for STOPTICK or 1 for STOPCTL, and the value. -/
def execStopArm (s : State) : Host.Outcome State Fault Refusal :=
  let w := s.pick.word
  if s.pick.a = 0 then .next { s with dev := { s.dev with stopTick := w } }
  else
    let arm := w.getLsbD 0
    let d := { s.dev with bkCtx := (w.extractLsb' 10 6).toNat, bkStop := w.getLsbD 1, armed := arm
                          cause := if arm then 0 else s.dev.cause }
    let s := { s with dev := d }
    if arm && d.stopped.isNone && d.stopTick.toNat ≤ s.globalTick then .next (stopDevice s 0) else .next s

/-- DEVICE_STOP (R525): an armed stop's tick has come. -/
def execDeviceStop (s : State) : Host.Outcome State Fault Refusal :=
  let d := s.dev
  if !d.armed || d.stopped.isSome || s.globalTick < d.stopTick.toNat then .next s else .next (stopDevice s d.cause)

/-- STOP_RESUME (R524, R525): a stopped device goes on from the state it held; the ticks it stood still count for
nothing. -/
def execStopResume (s : State) : Host.Outcome State Fault Refusal :=
  match s.dev.stopped with
  | none => .next s
  | some t => .next { s with dev := { s.dev with stopped := none, heldTicks := s.dev.heldTicks + (s.tick - t) } }

end Sys2Proof.Machine
end

