-- ==== Sys2Proof/Machine/Tenancy.lean ====
section
/-! DEFINITION. Context states and commands (04 R89, R90, R102), tenancy (R91, R92), and switching a context out of a
cluster and back (R93-R95, R76, R77, R147, R164). -/
namespace Sys2Proof.Machine

/-! Queues follow their context (R108). -/

/-- The codes of context states (R89). -/
def CtxState.code : CtxState → Nat
  | .free => 0
  | .building => 1
  | .ready => 2
  | .active => 3
  | .suspended => 4
  | .faulted => 5
  | .dumping => 6
  | .draining => 7
  | .dead => 8

/-- Whether a context's queues may dispatch. -/
def CtxState.live (x : CtxState) : Bool := x == .ready || x == .active

/-- A queue as its context's state leaves it; one that only its context suspended goes on with it (R90,
R108). A WAIT's time runs on meanwhile (log 174). -/
def Queue.follow (x : Queue) (live : Bool) : Queue :=
  if live then
    if x.state == .idle || (x.state == .suspended && x.byCtx) then
      { x with state := .watching, byCtx := false, wakes := [], watch := [] }
    else x
  else if x.state.serves then { x with state := .suspended, byCtx := true, since := none, wakes := [], watch := [] }
  else x

/-- One queue brought in line with its context. -/
def syncQueue (s : State) (q : Nat) : State :=
  let x := s.queue q
  let y := x.follow (s.ctx (q / 64)).state.live
  if y = x then s else putQueue s q y

/-- Every queue of a context. -/
def syncQueues (s : State) (x : Nat) : State := (List.range 64).foldl (fun s i => syncQueue s (64 * x + i)) s

/-- A context's new state, and its queues. -/
def setCtxState (s : State) (x : Nat) (st : CtxState) : State := syncQueues (s.setCtx x { s.ctx x with state := st }) x

/-- A context's clusters begin to be switched out. -/
def leaveClusters (s : State) (x : Nat) : State :=
  { s with clusters := s.clusters.map (fun e => if e.2.tenant = some x then (e.1, { e.2 with leaving := some x }) else e) }

/-- Clusters that waited for the steward on a context's account are tried again (R94). -/
def unstick (s : State) (x : Nat) : State :=
  { s with clusters := s.clusters.map (fun e =>
      if e.2.stuck && e.2.leaving = some x then (e.1, { e.2 with stuck := false, tenant := some x, swapping := false })
      else if e.2.stuck && e.2.coming = some x then (e.1, { e.2 with stuck := false, coming := none })
      else e) }

/-! The commands of CTXCMD (R89, R90). -/

/-- Whether a descriptor passes COMMIT: reserved bits, ranges and alignments of R88. -/
def ctxValid (s : State) (x : Nat) : Bool :=
  let f := ctxField s x
  let lim (v : Nat) : Bool := v == 0 || (16 ≤ v && v ≤ 40)
  f 506 6 == x && lim (f 483 6) && lim (f 477 6) && f 448 29 == 0 && f 400 3 == 0 && f 384 16 == 0 && f 344 12 == 0 &&
    f 320 24 == 0 && f 272 16 == 0 && f 256 16 == 0 && f 208 12 == 0 && (f 203 5 == 0 || (10 ≤ f 203 5 && f 203 5 ≤ 26)) &&
    f 0 203 == 0

/-- The spilled records of a context's area removed, from the last one down (R102). The flag says that a home holds the
rest. -/
def clearSpill (s : State) (x : Nat) : Nat → State × Bool
  | 0 => (s, false)
  | n + 1 =>
    match spillRead s x n with
    | (s, .error .held) => (s, true)
    | (s, .error _) => clearSpill s x n
    | (s, .ok (p, r)) =>
      if !r.testBit 0 then clearSpill s x n
      else match spillWrite s p 0 with
        | (s, some .held) => (s, true)
        | (s, _) => clearSpill s x n

/-- A queue of a context that RESET or KILL drains returns to Idle (R102, R108). -/
def drainQueue (s : State) (q : Nat) : State :=
  let x := s.queue q
  if x.state == .unbound then s
  else putQueue s q { state := .idle, head := x.head, done := x.head, appends := x.appends, tail := x.tail }

/-- Every unconsumed record of a drained queue is discarded: HEAD is its TAIL (R102). The flag says that the home of its
control block holds the read; a TAIL that cannot be read leaves HEAD. -/
def emptyQueue (s : State) (q : Nat) : State × Bool :=
  let x := s.queue q
  if x.state == .unbound then (s, false)
  else match queueRead s q (qCtrl s q) 4 with
    | (s, .error .held) => (s, true)
    | (s, .error _) => (s, false)
    | (s, .ok bs) =>
      let tail : Word := BitVec.ofNat 32 (leNat bs)
      (putQueue s q { x with head := tail, done := tail, tail := tail }, false)

/-- Several queues emptied, until one is held. -/
def emptyQueues : List Nat → State → State × Bool
  | [], s => (s, false)
  | q :: qs, s =>
    match emptyQueue s q with
    | (s, true) => (s, true)
    | (s, false) => emptyQueues qs s

/-- A tid's tier engine forgets what a drained context asked of it, and the tid is Unbound (R199). -/
def drainTier (s : State) (t : Tier) : State × Tier :=
  let cmds := t.waiting.filterMap (fun o => match o with | .cmd c => some c.handle | _ => none) ++ (t.working.map (·.handle)).toList
  let s := cmds.foldl (fun s h => completeHandle s h 4 0) s
  (s, { t with waiting := [], flight := [], copies := [], working := none, plan := none, status := 0, result := 0
               state := .unbound })

/-- What a core holds for a context's strands goes. -/
def drainCore (x : Nat) (here : Bool) (k : Core) : Core :=
  let mine (st : Strand) : Bool := st.state != .vacant && st.ctx == x
  let k := { k with
    slots := k.slots.filter (fun e => !mine e.2), away := k.away.filter (fun st => !mine st)
    cistern := k.cistern.filter (fun e => e.1 != x), lookups := k.lookups.filter (fun l => l.ctx != x)
    refused := k.refused.filter (fun e => e.1 != x)
    eng := k.eng.map (fun q => if q.ctx = x then { q with cancel := true, queue := none } else q) }
  if here then { k with tiles := [], cascade := [], windows := [], sched := [] } else k

/-- What a cluster holds for a context goes; no entry is marked abandoned (R102). -/
def drainCluster (x : Nat) (c : Cluster) : Cluster :=
  let c := { c with
    keys := c.keys.filter (fun e => e.ctx != x), waiters := c.waiters.filter (fun w => w.ctx != x)
    sectReqs := c.sectReqs.filter (fun q => q.w.ctx != x), sectLeaves := c.sectLeaves.filter (fun q => q.ctx != x)
    chains := c.chains.filter (fun h => h.ctx != x), blendQ := c.blendQ.filter (fun b => b.ctx != x)
    sects := c.sects.filter (fun r => r.ctx != x), work := c.work.del x }
  if c.tenant = some x then
    { c with
      cuffs := []
      crews := c.crews.map (fun e => (e.1, { e.2 with
        gen := if e.2.used then nextGen e.2.gen else e.2.gen, used := false, members := [], launch := none, phase := none
        alive := 0, scratch := 0, window := 0 })) }
  else c

/-- The discards of a RESET or KILL that need not wait (R102): strands with everything they wait for, key entries,
graphics work, streams, queues, launches. Engine commands are asked to cancel. -/
def drainContext (s : State) (x : Nat) : State :=
  let s := (List.range 256).foldl (fun s n =>
    if (s.stream n).bound && streamCtx s n = x then unbindStream s n else s) s
  let s : State := { s with
    tagReqs := s.tagReqs.filter (fun q => (s.strandAt q.target.core q.target.slot).ctx != x || q.lanes.isEmpty)
    parked := s.parked.filter (fun p => (s.strandAt p.target.core p.target.slot).ctx != x)
    resv := s.resv.filter (fun e => (s.strandAt e.1 e.2.1).ctx != x) }
  let s : State := { s with
    cores := s.cores.map (fun e => (e.1, drainCore x ((s.clu (coreCluster e.1)).tenant == some x) e.2))
    clusters := s.clusters.map (fun e => (e.1, drainCluster x e.2))
    events := s.events.filter (fun e => match s.launch e.launch with | some l => l.ctx != x | none => false)
    launches := s.launches.filter (fun e => e.2.ctx != x) }
  let y := s.ctx x
  let (s, tiers) := y.tiers.foldl (fun (acc : State × Tab Tier) e =>
    let (s, t) := drainTier acc.1 e.2
    (s, acc.2 ++ [(e.1, t)])) (s, [])
  let s := s.setCtx x { s.ctx x with tiers := tiers, saved := [], fault := none, records := [], segs := [] }
  let s := invalidate s (fun c _ _ => c == x)
  syncWaiters ((List.range 64).foldl (fun s i => drainQueue s (64 * x + i)) s)

/-- RESET or KILL takes effect (R90). -/
def beginDrain (s : State) (x : Nat) (dead : Bool) : State :=
  let s := s.setCtx x { s.ctx x with state := .draining, toDead := dead, held := none }
  leaveClusters (drainContext (unstick s x) x) x

/-! The leaves of a context (R171, R181). -/

/-- The entries of a table that may be other than 0, in ascending order, each with its place in the table. -/
def tableEntries (s : State) (pa n : Nat) : State × Option (List (Nat × BitVec 64)) :=
  collect (fun s i => match tableRead s (pa + 8 * i) with
    | (s, .error .held) => (s, none)
    | (s, .error _) => (s, some (i, 0))
    | (s, .ok e) => (s, some (i, e))) s
    (((dirtyGrans s (dramKey pa) (8 * n) 1).flatMap (fun g => (List.range 4).map (fun i => (32 * g - pa) / 8 + i))).filter (· < n))

/-- What each entry of a list gives, one after another; none once a home holds a read. -/
def eachEntry {α : Type} (f : State → Nat × BitVec 64 → State × Option (List α)) (s : State)
    (r : Option (List (Nat × BitVec 64))) : State × Option (List α) :=
  match r with
  | none => (s, none)
  | some es =>
    match collect f s es with
    | (s, none) => (s, none)
    | (s, some xs) => (s, some xs.flatten)

/-- Every leaf of a context's table, in ascending address: its virtual address, the address of its entry, and itself; none
while a home holds a read of the tables. -/
def leavesOf (s : State) (x : Nat) : State × Option (List (Nat × Nat × BitVec 64)) :=
  let ok (e : BitVec 64) (level : Nat) : Bool := pteV e && pteL e && leafOk e level (ctxStw s x) (ctxDom s x)
  let top := ctxRoot s x
  match tableEntries s top 2048 with
  | (s, r) => eachEntry (fun s (i, e1) =>
      if !pteV e1 || pteL e1 || !tableOk e1 then (s, some [])
      else match tableEntries s (tableNext e1) 2048 with
        | (s, r) => eachEntry (fun s (j, e2) =>
            let va := i * 2 ^ 37 + j * 2 ^ 26
            if !pteV e2 then (s, some [])
            else if pteL e2 then (s, some (if ok e2 2 then [(va, tableNext e1 + 8 * j, e2)] else []))
            else if !tableOk e2 then (s, some [])
            else match tableEntries s (tableNext e2) 1024 with
              | (s, r) => eachEntry (fun s (k, e3) =>
                  (s, some (if ok e3 3 then [(va + k * 2 ^ 16, tableNext e2 + 8 * k, e3)] else []))) s r) s r) s r

/-- A leaf's entry written with DP set or clear (R180, R181). -/
def markLeaf (on : Bool) (s : State) (e : Nat × Nat × BitVec 64) : State :=
  if on then (if leafW e.2.2 then tableWrite s e.2.1 (e.2.2 ||| (1#64 <<< 46)) else s)
  else if leafDp e.2.2 then tableWrite s e.2.1 (e.2.2 &&& ~~~(1#64 <<< 46)) else s

/-- A dump's first part (R181): DP is set on every writable leaf, and the context's entries are invalidated. While a home
holds a read of the tables, the dump has yet to begin. -/
def protectPages (s : State) (x : Nat) : State :=
  match leavesOf s x, (s.ctx x).dump with
  | (s, some es), some d =>
    let pages := es.filter (fun e => e.1 % leafBytes e.2.2 == 0 && leafR e.2.2)
    let s := invalidate (es.foldl (markLeaf true) s) (fun c _ _ => c == x)
    s.setCtx x { s.ctx x with dump := some { d with stage := 1, todo := pages.map (·.1) } }
  | (s, _), _ => s

/-- A dump begins (R90, R181). -/
def beginDump (s : State) (x : Nat) (buf : Option Nat) (len : Nat) (handle : Option DWord) : State :=
  let y := s.ctx x
  protectPages (setCtxState (s.setCtx x { y with
    before := y.state, dumpWant := [], dump := some { buf := buf, len := len, handle := handle } }) x .dumping) x

/-- A command on a context: its new state and the result code (R90). An undefined code is refused with BADCMD in every
state, Draining included (log 159); of the commands held in Dumping the latest counts (log 160). -/
def ctxAct (s : State) (x cmd : Nat) : State × Nat :=
  let y := s.ctx x
  let some_ (xs : List CtxState) : Bool := xs.contains y.state
  if cmd = 0 || cmd > 8 then (s, 3)
  else if y.state = .draining then (s, 4)
  else match cmd with
    | 1 =>
      if some_ [.free] then ({ s.setCtx x { state := .building } with queues := s.queues.filter (fun e => e.1 / 64 != x) }, 0)
      else (s, 1)
    | 2 => if !some_ [.building] then (s, 1) else if ctxValid s x then (setCtxState s x .ready, 0) else (s, 2)
    | 3 => if some_ [.ready, .active] then (leaveClusters (setCtxState s x .suspended) x, 0) else (s, 1)
    | 4 => if some_ [.suspended, .faulted] then (setCtxState (unstick s x) x .ready, 0) else (s, 1)
    | 5 =>
      if some_ [.ready, .active, .suspended, .faulted] then (beginDrain s x false, 0)
      else if some_ [.dumping] then (s.setCtx x { y with held := some false }, 0) else (s, 1)
    | 6 =>
      if some_ [.building] then (setCtxState s x .dead, 0)
      else if some_ [.ready, .active, .suspended, .faulted] then (beginDrain s x true, 0)
      else if some_ [.dumping] then (s.setCtx x { y with held := some true }, 0) else (s, 1)
    | 7 =>
      if some_ [.dead] then ({ s.setCtx x {} with mem := s.mem.writeList (hubKey (64 * x)) (List.replicate 64 0) }, 0)
      else (s, 1)
    | _ => if some_ [.active, .suspended, .faulted] then (beginDump s x none 0 none, 0) else (s, 1)

/-- A write of CTXCMD: its target and result are kept for CTXSTAT (R89). -/
def ctxCommand (s : State) (x cmd : Nat) : State :=
  let (s, code) := ctxAct s x cmd
  { s with dev := { s.dev with ctxTarget := x, ctxResult := code } }

/-- CTX_BUILD (R90). The operand of this step and the following: the context. -/
def execCtxBuild (s : State) : Host.Outcome State Fault Refusal := .next (ctxCommand s (s.pick.a % 64) 1)
/-- COMMIT (R90). -/
def execCtxCommit (s : State) : Host.Outcome State Fault Refusal := .next (ctxCommand s (s.pick.a % 64) 2)
/-- CTX_SUSPEND (R90). -/
def execCtxSuspend (s : State) : Host.Outcome State Fault Refusal := .next (ctxCommand s (s.pick.a % 64) 3)
/-- CTX_RESUME (R90). -/
def execCtxResume (s : State) : Host.Outcome State Fault Refusal := .next (ctxCommand s (s.pick.a % 64) 4)
/-- CTX_RESET (R90). -/
def execCtxReset (s : State) : Host.Outcome State Fault Refusal := .next (ctxCommand s (s.pick.a % 64) 5)
/-- CTX_KILL (R90). -/
def execCtxKill (s : State) : Host.Outcome State Fault Refusal := .next (ctxCommand s (s.pick.a % 64) 6)
/-- CTX_FREE (R90). -/
def execCtxFree (s : State) : Host.Outcome State Fault Refusal := .next (ctxCommand s (s.pick.a % 64) 7)
/-- CTX_DUMP (R90, R181): a dump that a CTXCMD asks for names no buffer, and copies no page anywhere. -/
def execCtxDump (s : State) : Host.Outcome State Fault Refusal := .next (ctxCommand s (s.pick.a % 64) 8)

/-- Whether a drained context has nothing under way in any unit (R102). -/
def drained (s : State) (x : Nat) : Bool :=
  s.clusters.all (fun e => e.2.tenant != some x && e.2.svc.all (fun q => q.ctx != x)) &&
    s.cores.all (fun e => e.2.eng.all (fun q => q.ctx != x)) &&
    s.pkts.all (fun p => match p.back with | .tmv c _ _ => c != x | .cmd .. => true)

/-- DRAIN_COMPLETE (R90, R102): every discard is made; the last are the spilled records and what the queues have not
consumed. The step's operand: the context. -/
def execDrainComplete (s : State) : Host.Outcome State Fault Refusal :=
  let x := s.pick.a % 64
  let y := s.ctx x
  if y.state != .draining || !drained s x then .next s
  else match clearSpill s x (spillCount s x) with
    | (s, true) => .next s
    | (s, false) =>
      match emptyQueues ((List.range 64).map (fun i => 64 * x + i)) s with
      | (s, true) => .next s
      | (s, false) =>
        let s := { s with clusters := s.clusters.map (fun e => (e.1, { e.2 with
          ctab := e.2.ctab.map (fun f => if f.2.ctx = x && f.2.status = 6 then (f.1, { f.2 with status := 4, at_ := s.tick }) else f) })) }
        .next (setCtxState s x (if y.toDead then .dead else .ready))

/-! The choice of a tenant (R92, R111). -/

/-- A queue's effective priority: its own, raised by ageing, and at most PRIOMAX. -/
def qEffective (s : State) (q : Nat) : Nat :=
  let top := ctxPrioMax s (q / 64)
  min top (min (qPrio s q) top + (s.queue q).level)

/-- Whether the hub serves a queue now: in Early, only one in host memory whose effective priority is 0 (R534). -/
def servedNow (s : State) (q : Nat) : Bool :=
  s.dev.state == .full || (s.dev.state == .early && qHost s q && qEffective s q == 0)

/-- Whether a queue is ready: its head record can start, or a launch or draw it started is not complete. -/
def queueReady (s : State) (q : Nat) : Bool :=
  ((s.queue q).state == .draining && servedNow s q) || s.launches.any (fun e => e.2.qid == q && e.2.ctx == q / 64 && e.2.draw.isNone) ||
    s.draws.any (fun e => match e.2.queue with | some (p, _) => p == q | none => false)

/-- The highest effective priority among a context's ready queues. -/
def readyPrio (s : State) (x : Nat) : Option Nat :=
  match ((List.range 64).map (fun i => 64 * x + i)).filter (queueReady s) with
  | [] => none
  | q :: qs => some (qs.foldl (fun m p => max m (qEffective s p)) (qEffective s q))

/-- Whether a context has saved strands for a cluster. -/
def hasSaved (s : State) (x k : Nat) : Bool :=
  s.cores.any (fun e => coreCluster e.1 == k && e.2.away.any (fun st => st.ctx == x))

/-- The priority at which a context stands for a cluster; none when it is not eligible. The tenant itself stands. -/
def standing (s : State) (k x : Nat) : Option Nat :=
  let y := s.ctx x
  if !y.state.live || !(ctxClmask s x).testBit k || !clusterUp s k then none
  else match readyPrio s x with
    | some p => some p
    | none => if hasSaved s x k || (s.clu k).tenant = some x then some 0 else none

/-- The context a cluster would choose, with its priority: the highest, then the next in ascending number after a given
one. -/
def bestContext (s : State) (k after : Nat) : Option (Nat × Nat) :=
  ((List.range 64).map (fun i => (after + 1 + i) % 64)).foldl (fun acc x =>
    match standing s k x, acc with
    | none, _ => acc
    | some p, none => some (x, p)
    | some p, some (y, q) => if p > q then some (x, p) else some (y, q)) none

/-- A cluster's tenant begins to leave for another context (R93 step 1, R498). -/
def beginLeave (s : State) (k t b : Nat) : State :=
  syncWaiters (s.setClu k { s.clu k with leaving := some t, coming := some b, swapping := false })

/-- QUANTUM_END (R92): a cluster's quantum ends. The step's operand: the cluster. -/
def execQuantumEnd (s : State) : Host.Outcome State Fault Refusal :=
  let k := s.pick.a % 8
  let c := s.clu k
  match c.tenant with
  | none => .next s
  | some t =>
    if c.leaving.isSome || c.stuck || s.tick < c.quantumEnd then .next s
    else
      let again := s.setClu k { c with quantumEnd := s.tick + 2 ^ c.quantum }
      match bestContext s k t with
      | none => .next again
      | some (b, _) => if b = t then .next again else .next (beginLeave s k t b)

/-- The priority at which a tenant keeps its cluster; one that is dumped while it runs keeps it as it did before (R90). -/
def tenantPrio (s : State) (k t : Nat) : Option Nat :=
  if (s.ctx t).state == .dumping && (s.ctx t).before == .active then some ((readyPrio s t).getD 0) else standing s k t

/-- TENANT_CHOICE (R92): a free cluster takes a context, and a tenant gives way to a strictly higher priority. The step's
operand: the cluster. -/
def execTenantChoice (s : State) : Host.Outcome State Fault Refusal :=
  let k := s.pick.a % 8
  let c := s.clu k
  if c.leaving.isSome || c.stuck then .next s
  else match c.tenant with
    | none =>
      if c.coming.isSome then .next s
      else match bestContext s k c.lastTenant with
        | none => .next s
        | some (b, _) => .next (s.setClu k { c with coming := some b })
    | some t =>
      match tenantPrio s k t, bestContext s k t with
      | some p, some (b, q) => if q > p then .next (beginLeave s k t b) else .next s
      | _, _ => .next s

/-! Switching out (R93). -/

/-- Whether a split may be saved as it stands (R77): its clause has ended, or its instruction waits for something that
may never come, with no release and no heartbeat under way. -/
def Split.savable (sp : Split) (tagged : Bool) : Bool :=
  sp.clause.isNone || ([4, 7, 11, 12, 13, 22, 24, 26, 27, 28].contains sp.stall || (tagged && (sp.stall == 2 || sp.stall == 3))) &&
    sp.prog.rel != 1 && sp.prog.beat != some none

/-- Whether a strand may be saved: no atomic owes a reply and no .sc fence is under way (R77). -/
def Strand.savable (st : Strand) : Bool :=
  let tagged := st.results.any (fun p => p.owed != 0 && p.why == 4)
  st.splits.all (fun e => e.2.savable tagged) &&
    st.results.all (fun p => (p.owed == 0 || p.why == 4) && (p.fence == 0 || p.fence == 4))

/-- Cores of a cluster that hold anything. -/
def coresOf (s : State) (k : Nat) : List Nat := s.cores.keys.filter (fun c => coreCluster c == k)

/-- Whether no atomic of some strands is in a service queue, and no reply on its way to them (R77). -/
def repliesIn (s : State) (mine : Target → Bool) : Bool :=
  s.replies.all (fun a => !mine a.target) && s.clusters.all (fun e => e.2.svc.all (fun q => !mine q.target))

/-- Whether every strand of a cluster's leaving context may be saved, and no reply of its atomics is on its way. -/
def clusterQuiet (s : State) (k x : Nat) : Bool :=
  (coresOf s k).all (fun c => (s.core c).slots.all (fun e => e.2.ctx != x || e.2.savable)) &&
    repliesIn s (fun t => coreCluster t.core == k)

/-- The tagged lanes of a strand that are parked or not yet at their homes, as requests to send again (R77). -/
def taggedOf (s : State) (c slot : Nat) : List TagReq :=
  let mine (t : Target) : Bool := t.core == c && t.slot == slot
  (s.tagReqs.filter (fun q => mine q.target)).map (fun q => { q with after := 0 }) ++
    (s.parked.filter (fun p => mine p.target)).map (fun p => { target := p.target, op := p.op, lanes := [p.lane] })

/-- What a strand waits for at homes and at the wellhead withdrawn, and its reservation cleared (R77). -/
def withdrawStrand (s : State) (c slot : Nat) : State :=
  let mine (t : Target) : Bool := t.core == c && t.slot == slot
  { s with
    tagReqs := s.tagReqs.filter (fun q => !mine q.target), parked := s.parked.filter (fun p => !mine p.target)
    resv := s.resv.filter (fun e => !(e.1 == c && e.2.1 == slot))
    queues := s.queues.map (fun e => (e.1, { e.2 with handed := e.2.handed.filter (fun h => !mine h.target) })) }

/-- A strand as it is saved: waits count the ticks they have lasted (R100), a byte-count barrier's wait is asked for again,
and its tagged lanes are kept (R77). -/
def saveStrand (now slot at_ : Nat) (tagged : List TagReq) (st : Strand) : Strand :=
  let wait (w : Wait) : Wait := { w with
    since := now - w.since
    kind := match w.kind with | .bcb key p _ _ => .bcb key p (some 0) none | k => k }
  let split (sp : Split) : Split := { sp with
    since := now - sp.since, waits := sp.waits.map wait
    prog := if sp.stall = 13 then { sp.prog with stage := 0 } else sp.prog }
  { st with
    state := .saved, slotWas := slot, savedAt := at_, tagged := tagged
    splits := st.splits.map (fun e => (e.1, split e.2))
    results := st.results.map (fun p => { p with since := now - p.since }) }

/-- A strand as it returns to a slot, and the requests it sends again. -/
def returnStrand (now slot : Nat) (st : Strand) : Strand × List TagReq :=
  ({ st with
      state := .resident, lastIssue := now, tagged := []
      splits := st.splits.map (fun e => (e.1, { e.2 with
        since := now - e.2.since, waits := e.2.waits.map (fun w => { w with since := now - w.since }) }))
      results := st.results.map (fun p => { p with since := now - p.since }) },
    st.tagged.map (fun q => { q with target := { q.target with slot := slot } }))

/-- A strand leaves its slot for the save area: a resident one without its registers, which the block holds; one that a
deadlock break had saved as it is. -/
def leaveStrand (s : State) (c : Nat) (places : List (Nat × Nat × Strand)) (e : Nat × Strand) : Strand :=
  match places.find? (fun p => p.1 == e.1) with
  | some (_, at_, _) => { saveStrand s.runTick e.1 at_ (taggedOf s c e.1) e.2 with v := [], grew := false }
  | none => { e.2 with slotWas := e.1, grew := true }

/-- A core whose strands go to the save area, and what is kept of it. -/
def saveCore (s : State) (c x : Nat) : State :=
  let k := s.core c
  let mine := heldStrands k x
  let places := (registerPlaces c mine).1
  let s := s.setCore c { k with
    slots := [], tiles := [], cascade := [], windows := [], sched := [], away := k.away ++ mine.map (leaveStrand s c places) }
  mine.foldl (fun s e => withdrawStrand s c e.1) s

/-- The cluster's state moves into its context's block, whose ranges have been copied out (R93 step 4). -/
def saveCluster (s : State) (k x : Nat) (ranges : List (Nat × Nat)) : State :=
  let c := s.clu k
  let cores := coresOf s k
  let block : SavedCluster := {
    since := s.runTick, crews := c.crews, cuffs := (c.cuffs.map (retime s)).map (fun f => { f with mark := none })
    ranges := ranges, bcb := c.bcb
    tainted := (s.tainted.filter (fun a => a / regionSize == k && byteKept s k (a % regionSize))).map (· % regionSize)
    cores := cores.map (fun i =>
      let y := s.core i
      (i, { tiles := y.tiles.map (fun e => (e.1, { e.2 with rows := [] })), cascade := y.cascade, windows := y.windows
            sched := y.sched : SavedCore })) }
  let s := cores.foldl (fun s i => saveCore s i x) s
  let s := s.setClu k { s.clu k with crews := c.crews.map (fun e => (e.1, ({ gen := e.2.gen } : Crew))), cuffs := [], bcb := [] }
  let y := s.ctx x
  s.setCtx x { y with saved := y.saved.set k block }

/-- The 64 bytes of a fault record (R98, log 62). -/
def FaultRec.bytes (f : FaultRec) : List Byte :=
  leBytes 8 f.code ++ leBytes 8 (f.core + f.slot * 2 ^ 16 + f.split * 2 ^ 24) ++ leBytes 8 f.pc.toNat ++
    leBytes 8 f.tick ++ leBytes 32 0

/-- The fault record of a cluster, where its context has one to write, in the cluster's block (R94, R98). -/
def faultRanges (s : State) (x k : Nat) : List (Nat × Nat) × List BlockGran :=
  match ((s.ctx x).records.filter (fun f => coreCluster f.core == k)).getLast? with
  | none => ([], [])
  | some f => ([(faultAt, 64)], cutGrans faultAt f.bytes)

/-- The tid block: every entry of the context's table (R94). -/
def tidGrans (s : State) (x : Nat) : List BlockGran :=
  (s.ctx x).tids.flatMap (fun e => cutGrans (64 * e.1) (leBytes 64 e.2.toNat))

/-- Everything that a switch-out copies to the save area: the cluster's block, a fault record, and the tid block. -/
def saveOut (s : State) (x k : Nat) : State × CopyEnd :=
  let (ranges, grans) := clusterImage s x k
  let (faults, fault) := faultRanges s x k
  match copyOut x k (blockBase s x k) (grans ++ fault) (ranges ++ faults) s with
  | (s, .done) => copyOut x k (tidBase s x) (tidGrans s x) [(0, 0x10000)] s
  | r => r

/-- The fault records of a cluster that stand in its block. -/
def recordsKept (s : State) (x k : Nat) : State :=
  let y := s.ctx x
  s.setCtx x { y with records := y.records.filter (fun f => coreCluster f.core != k) }

/-- The oldest refused store of a context on a cluster's cores, which its release collects (R543). -/
def refusedOn (s : State) (k x : Nat) : Option (TrapRec × Nat × State) :=
  (coresOf s k).foldl (fun acc c => match acc with
    | some r => some r
    | none => (refusedTrap s c x (fun _ => true)).map (fun r => (r.1, c, r.2))) none

/-- A release of no strand that collects a refusal makes the context Faulted (R543). -/
def faultRefused (s : State) (k x : Nat) : State :=
  match refusedOn s k x with
  | none => s
  | some (t, c, s) =>
    if (s.ctx x).state == .draining then s
    else syncQueues (contextFaults s x { code := t.code, core := c, slot := 0, split := 0, pc := 0, tick := s.tick, addr := t.addr }) x

/-- The tenant has left: the cluster is free, and a context without a cluster is no longer Active (R90). -/
def endLeave (s : State) (k x : Nat) : State :=
  let c := s.clu k
  let s := s.setClu k { c with
    tenant := none, leaving := none, swapping := false, lastTenant := x, outgoing := if c.coming.isSome then x else 0xFF
    dcache := [] }
  let s := (coresOf s k).foldl (fun s i =>
    let y := s.core i
    s.setCore i { y with snap := [], icache := [], recs := [] }) s
  let s := syncWaiters s
  if s.clusters.any (fun e => e.2.tenant == some x) then s
  else match (s.ctx x).state with
    | .active => setCtxState s x .ready
    | .dumping => s.setCtx x { s.ctx x with before := if (s.ctx x).before == .active then .ready else (s.ctx x).before }
    | _ => s

/-- A copy ended in a fault: the context is Faulted, and the cluster waits for the steward (R94). -/
def saveFault (s : State) (k x code addr : Nat) (keepLeaving : Bool) : State :=
  let s := contextFaults s x { code := code, core := 256 * k, slot := 0, split := 0, pc := 0, tick := s.tick, addr := addr }
  let c := s.clu k
  syncQueues (s.setClu k { c with
    tenant := none, stuck := true, leaving := if keepLeaving then some x else none
    coming := if keepLeaving then none else some x, swapping := false }) x

/-- Splits whose strand cannot be saved for a reply that an atomic owes record stall reason 27 (R77); `mine` says of which
cores and slots. -/
def stallOwed (s : State) (mine : Nat → Nat → Bool) : State :=
  let owes (st : Strand) : Bool := st.results.any (fun p => p.owed != 0 && p.why != 4)
  { s with cores := s.cores.map (fun e => (e.1, { e.2 with
      slots := e.2.slots.map (fun f => if !mine e.1 f.1 || !owes f.2 then f else (f.1, { f.2 with
        splits := f.2.splits.map (fun g =>
          if g.2.state == .free || g.2.clause.isSome || g.2.stall == 27 then g
          else (g.1, { g.2 with stall := 27, since := s.runTick })) })) })) }

/-- SWITCH_OUT (R93): first the releases at .sys begin, once every clause has ended or waits as R77 allows; then, when
they are over, the cluster's state is copied out and the cluster is free. Of a draining context nothing is kept. The
step's operand: the cluster. -/
def execSwitchOut (s : State) : Host.Outcome State Fault Refusal :=
  let k := s.pick.a % 8
  let c := s.clu k
  match c.tenant, c.leaving with
  | some x, some y =>
    if x ≠ y || c.stuck then .next s
    else if !clusterQuiet s k x then .next (stallOwed s (fun i _ => coreCluster i == k))
    else if !c.swapping then
      .next ((coresOf s k).foldl (fun s i => releaseMoves s i .sys) (s.setClu k { c with swapping := true }))
    else if !(coresOf s k).all (fun i => (s.core i).q.isEmpty && releaseOver s i .sys) then
      .next ((coresOf s k).foldl (fun s i => releaseMoves s i .sys) s)
    else if (s.ctx x).state == .draining then .next (endLeave s k x)
    else match saveOut s x k with
      | (s, .wait) => .next s
      | (s, .fail code addr) => .next (saveFault s k x code addr true)
      | (s, .done) => .next (faultRefused (endLeave (saveCluster (recordsKept s x k) k x (clusterImage s x k).1) k x) k x)
  | _, _ => .next s

/-! The VGROW deadlock (R142). -/

/-- A saved strand's slot: its scheduler is free of a clause that waits in place, and of its last issuer (R128). -/
def leaveSlot (s : State) (c slot : Nat) : State :=
  (List.range 4).foldl (fun s i => freeSched s ⟨c, slot, i⟩) (forgetIssuer (withdrawStrand s c slot) c slot)

/-- A sleeper's registers written to its core's block (R94), behind those of the resident strands before it (log 55). -/
def preemptOut (s : State) (c slot : Nat) (st : Strand) : State × Nat × CopyEnd :=
  let at_ := (((registerPlaces c (heldStrands (s.core c) st.ctx)).1.find? (fun p => p.1 == slot)).map (·.2.1)).getD (coreBlock c)
  let (s, r) := copyOut st.ctx (coreCluster c) (blockBase s st.ctx (coreCluster c)) (registerGrans at_ st) [(at_, 384 * st.nregs)] s
  (s, at_, r)

/-- VGROW_DEADLOCK_CHECK (R142): the youngest sleeper is pre-empted as R77 states, and its registers are freed. The step's
operand: the core. -/
def execVgrowDeadlockCheck (s : State) : Host.Outcome State Fault Refusal :=
  let c := s.pick.a
  if !growthStuck s c then .next s
  else match ((sleepers s c).filter (fun e => e.2.state == .resident)).getLast? with
    | none => .next s
    | some (slot, st) =>
      if !st.savable || !repliesIn s (fun t => t.core == c && t.slot == slot) then
        .next (stallOwed s (fun i j => i == c && j == slot))
      else match preemptOut s c slot st with
        | (s, _, .wait) => .next s
        | (s, _, .fail code addr) =>
          .next (syncQueues (contextFaults s st.ctx
            { code := code, core := c, slot := slot, split := 0, pc := 0, tick := s.tick, addr := addr }) st.ctx)
        | (s, at_, .done) =>
          let saved := saveStrand s.runTick slot at_ (taggedOf s c slot) st
          let s := leaveSlot (s.setStrandAt c slot saved) c slot
          .next (syncWaiters (retimeCuffs (gainRoom (settleGrowth s c) [c]) (coreCluster c)))

/-- The split of a strand whose clause waits in place. -/
def Strand.runningSplit (st : Strand) : Option Nat := (st.splits.find? (fun e => e.2.clause.isSome)).map (·.1)

/-- A strand's scheduler, where it has a clause that waits in place, is its own again; none while another clause runs. -/
def takeSched (s : State) (c slot : Nat) (st : Strand) : Option State :=
  let k := s.core c
  let q := k.sched.get {} (slot / 6)
  match st.runningSplit with
  | none => some s
  | some i => if q.busy.isSome then none else some (s.setCore c { k with sched := k.sched.set (slot / 6) { q with busy := some (slot, i) } })

/-- VGROW_RESTORE (R142): the strand saved by a deadlock break returns to its slot, and its growth is granted. The step's
operands: the core and the slot. -/
def execVgrowRestore (s : State) : Host.Outcome State Fault Refusal :=
  let c := s.pick.a
  match sleepers s c with
  | (slot, st) :: _ =>
    match st.growth, takeSched s c slot st with
    | some n, some t =>
      if slot = s.pick.b && st.state == .saved && max n st.claimed ≤ freeRegisters s c then
        let (st, tagged) := returnStrand s.runTick slot st
        let s := grantGrowth (t.setStrandAt c slot st) c slot n
        .next (syncWaiters (retimeCuffs (settleGrowth { s with tagReqs := s.tagReqs ++ tagged } c) (coreCluster c)))
      else .next s
    | _, _ => .next s
  | [] => .next s

/-! Taking a tenant (R90, R93, R164). -/

/-- A cluster's SRAM as a new tenant finds it: every word 0 and full. -/
def clearCluster (s : State) (k : Nat) : State :=
  let lo := k * regionSize
  let hi := (k + 1) * regionSize
  { s with
    mem := s.mem.filter (fun e => !(keySpace e.1 == 0 && lo ≤ keyAddr e.1 && keyAddr e.1 < hi))
    emptyTags := s.emptyTags.filter (fun w => !(lo ≤ 4 * w && 4 * w < hi)), tainted := s.tainted.filter (fun a => a < lo || hi ≤ a) }

/-- Whether a strand has a clause that waits in place, whose scheduler it keeps. -/
def Strand.midClause (st : Strand) : Bool := st.splits.any (fun e => e.2.clause.isSome)

/-- The slot a strand asks for on its return: the one the step's bytes give for the slot it left, or that one; one with a
running clause stays at its scheduler. -/
def wantedSlot (bs : List Byte) (st : Strand) : Nat :=
  match bs[st.slotWas]? with
  | none => st.slotWas
  | some b => if st.midClause then st.slotWas / 6 * 6 + b.toNat % 6 else b.toNat % 24

/-- The slots that a core's returning strands take, from the ones they left to the new ones: any free slot (R11, R93). -/
def newSlots (bs : List Byte) (sts : List Strand) : Tab Nat :=
  (sts.filter (·.midClause) ++ sts.filter (fun st => !st.midClause)).foldl (fun (t : Tab Nat) st =>
    let free (i : Nat) : Bool := t.all (fun e => e.2 != i)
    t.set st.slotWas (if free (wantedSlot bs st) then wantedSlot bs st else (firstFrom free 24 0).getD st.slotWas)) []

/-- Every core's moves of slots at a cluster's restore. -/
def slotMoves (s : State) (k x : Nat) (bs : List Byte) : Tab (Tab Nat) :=
  (coresOf s k).map (fun c => (c, newSlots bs ((s.core c).away.filter (fun st => st.ctx == x))))

/-- The new slot of a strand of a core. -/
def movedSlot (moves : Tab (Tab Nat)) (c slot : Nat) : Nat := ((moves.get [] c).find slot).getD slot

/-- Where a byte of a cluster's region goes when slots move: a frame and a deferred stack go with their strand (R101); what
stood in the place of one is gone. -/
def movedByte (moves : Tab (Tab Nat)) (k o : Nat) : Option Nat :=
  let r := o % sliceSize
  let m := moves.get [] (256 * k + o / sliceSize)
  let go (base size : Nat) : Option Nat :=
    let i := (r - base) / size
    match m.find i with
    | some j => some (o - i * size + j * size)
    | none => if m.any (fun e => e.2 == i) then none else some o
  if o ≥ poolOffset || r < reservedOffset then some o
  else if r < 0x133800 then go reservedOffset 0xD00
  else if r < 0x13F800 then go 0x133800 0x800
  else some o

/-- A core takes its strands, tiles and windows back: each strand returns to a free slot with the registers its block
holds. -/
def loadCore (s : State) (x : Nat) (moves : Tab (Tab Nat)) (grans : List BlockGran) (c : Nat) (b : SavedCore) : State :=
  let k := s.core c
  let mine := (k.away.filter (fun st => st.ctx == x)).map (fun st =>
    let slot := movedSlot moves c st.slotWas
    if st.grew then (slot, st, ([] : List TagReq))
    else
      let (st', q) := returnStrand s.runTick slot st
      (slot, { st' with v := registersFrom st.savedAt st.nregs grans }, q))
  let sched := b.sched.foldl (fun (t : Tab Sched) e => match e.2.busy with
    | some (slot, i) => t.set e.1 { busy := some (movedSlot moves c slot, i) }
    | none => t) []
  let s := s.setCore c { k with
    away := k.away.filter (fun st => st.ctx != x)
    slots := mine.foldl (fun t e => t.set e.1 e.2.1) k.slots
    tiles := b.tiles.map (fun e => (e.1, { e.2 with rows := rowsFrom c e.1 grans }))
    cascade := b.cascade, windows := b.windows, sched := sched }
  { s with tagReqs := s.tagReqs ++ mine.flatMap (fun e => e.2.2) }

/-- The SRAM and the tags of a cluster as its block holds them. -/
def loadSram (s : State) (k : Nat) (moves : Tab (Tab Nat)) (grans : List BlockGran) : State :=
  let bytes (s : State) (e : BlockGran) : State :=
    match (regionOffset e.1).bind (movedByte moves k) with
    | none => s
    | some o => { s with mem := s.mem.writeList (sramKey (k * regionSize + o)) e.2 }
  let tags := (grans.flatMap emptyIn).filterMap (movedByte moves k)
  let s := grans.foldl bytes s
  { s with emptyTags := tags.foldl (fun ts o => insertNat ts ((k * regionSize + o) / 4)) s.emptyTags }

/-- A crew and a cuff whose members' slots have moved. -/
def Crew.moved (moves : Tab (Tab Nat)) (x : Crew) : Crew :=
  let go (m : Nat × Nat) : Nat × Nat := (m.1, movedSlot moves m.1 m.2)
  { x with
    members := x.members.map go
    phase := x.phase.map (fun p => { p with arrived := p.arrived.map (fun a => (go a.1, a.2)) }) }
def Cuff.moved (moves : Tab (Tab Nat)) (f : Cuff) : Cuff :=
  { f with
    members := f.members.map (fun m => (m.1, movedSlot moves m.1 m.2))
    arrived := f.arrived.map (fun a => { a with slot := movedSlot moves a.core a.slot }) }

/-- A saved block returns (R93), with what its ranges hold; `bs` names the slots that strands take. -/
def loadCluster (s : State) (k x : Nat) (b : SavedCluster) (bs : List Byte) (grans : List BlockGran) : State :=
  let moves := slotMoves s k x bs
  let marks := (b.tainted.filterMap (movedByte moves k)).map (fun o => sramKey (k * regionSize + o))
  let s := b.cores.foldl (fun s e => loadCore s x moves grans e.1 e.2) (loadSram s k moves grans)
  let s := s.setClu k { s.clu k with
    crews := b.crews.map (fun e => (e.1, e.2.moved moves)), cuffs := b.cuffs.map (Cuff.moved moves), bcb := b.bcb }
  let y := s.ctx x
  let s := { s.setCtx x { y with saved := y.saved.del k } with tainted := marks.foldl insertNat s.tainted }
  retimeCuffs s k

/-- A cluster has its tenant: the quantum begins, the change is traced (R521), and tier operations that waited for it
proceed. -/
def beginTenancy (s : State) (k x : Nat) : State :=
  let c := s.clu k
  let s := s.setClu k { c with coming := none, quantumEnd := s.tick + 2 ^ c.quantum, outgoing := 0xFF }
  let s := traceRecord s k 7 (x + c.outgoing * 256)
  let s := syncWaiters (setCtxState s x .active)
  (s.ctx x).tiers.keys.foldl (fun s t => tierRun s x t) s

/-- The cores of a cluster that a context begins in empty count as having gained room (log 72). -/
def gainCluster (s : State) (k : Nat) : State := gainRoom s ((List.range 256).map (fun j => 256 * k + j))

/-- CONTEXT_RESTORE (R93, R164): the context chosen for a free cluster becomes its tenant, with its saved block or an
empty cluster. The step's operands: the cluster, and the slots that the strands take. -/
def execContextRestore (s : State) : Host.Outcome State Fault Refusal :=
  let k := s.pick.a % 8
  let c := s.clu k
  match c.tenant, c.coming with
  | none, some x =>
    if c.stuck || c.leaving.isSome then .next s
    else if (standing s k x).isNone then .next (s.setClu k { c with coming := none, outgoing := 0xFF })
    else
      let clear (s : State) : State := clearCluster (s.setClu k { s.clu k with tenant := some x }) k
      match (s.ctx x).saved.find k with
      | none =>
        let s := clear s
        let s := s.setClu k { s.clu k with crews := c.crews.map (fun e => (e.1, ({ gen := e.2.gen } : Crew))), cuffs := [], bcb := [] }
        .next (gainCluster (beginTenancy s k x) k)
      | some b =>
        match copyIn x k (blockBase s x k) b.ranges s with
        | (s, .inl .wait) => .next s
        | (s, .inl (.fail code addr)) => .next (saveFault s k x code addr false)
        | (s, .inl .done) => .next s
        | (s, .inr grans) => .next (beginTenancy (loadCluster (clear s) k x b s.pick.bytes grans) k x)
  | _, _ => .next s

end Sys2Proof.Machine
end

