-- ==== Sys2Proof/Machine/Wellhead.lean ====
section
/-! DEFINITION. The wellhead: queues and their commands (05 R103-R108), records and their checks (R109-R112, 06 R114,
R115), the choice among queues (R111), what each kind of record does, and LAUNCH (R113, 16 R310). -/
namespace Sys2Proof.Machine

/-! Checks of records (R109, R112, R115). -/

/-- Codes of record errors. -/
def errBadKind : Nat := 1
def errBadField : Nat := 2
def errOverrun : Nat := 3
def errFault : Nat := 4
def errTimeout : Nat := 5

/-- Kinds of records. -/
def recKind (x : BitVec 512) : Nat := iv x 56 8
def recOrd (x : BitVec 512) : Bool := x.getLsbD 55
def recTag (x : BitVec 512) : Nat := iv x 0 32

/-- Whether a launch record stands within R114 and R115; PRED is aligned as EVBLK is (log 175). -/
def launchLegal (s : State) (ctx : Nat) (x : BitVec 512) : Bool :=
  let f := iv x
  let regs := f 276 9
  let rmax := f 267 9
  f 464 3 == 0 && f 416 7 == 0 && f 368 6 == 0 && f 320 6 == 0 && 1 ≤ f 296 24 && 1 ≤ f 285 11 && f 285 11 ≤ 1536 &&
    1 ≤ regs && regs ≤ 256 && (rmax == 0 || (regs ≤ rmax && rmax ≤ 256)) && f 246 21 ≤ 1179648 &&
    (f 238 8 &&& ctxClmask s ctx) != 0 && f 230 8 ≤ f 222 8 && (f 320 48 != 0 || f 216 2 == 0) &&
    (f 216 2 != 2 || f 208 8 != 0) && f 198 10 + f 187 11 ≤ 1024 && f 64 75 == 0

/-- The error a record has of itself, if any (R112). -/
def recordCheck (s : State) (ctx : Nat) (x : BitVec 512) : Option Nat :=
  let f := iv x
  let ok : Bool := f 32 23 == 0 && match recKind x with
    | 1 => launchLegal s ctx x
    | 2 => drawLegal x
    | 3 => f 496 13 == 0 && f 432 13 == 0 && f 352 32 != 0 && f 304 4 == 0 && f 64 239 == 0
    | 4 => f 496 13 == 0 && f 448 3 == 0 && (f 378 6 == 0 || (16 ≤ f 378 6 && f 378 6 ≤ 40)) && f 64 314 == 0
    | 5 => f 496 13 == 0 && f 448 3 == 0 && f 64 307 == 0
    | _ => f 64 448 == 0
  if recKind x = 0 || recKind x > 6 then some errBadKind else if ok then none else some errBadField

/-! What the wellhead reads (R104, R106, R110). -/

/-- A context's lowest cluster, and the core whose copy engine serves a queue (R110). -/
def lowestCluster (s : State) (ctx : Nat) : Nat := ((List.range 8).find? (fun k => (ctxClmask s ctx).testBit k)).getD 0
def copyCore (s : State) (q : Nat) : Nat := 256 * lowestCluster s (q / 64) + 4 * (q % 64)

/-- The address of bytes of a record's segment field, under its context's segment values (R87, R110): none where it breaks
a limit or writes a segment that is read-only. -/
def recordAddr (s : State) (q seg off n : Nat) (write : Bool) : Option SegAddr :=
  let ctx := q / 64
  let st : Strand := { ctx := ctx, segs := (s.ctx ctx).segs }
  let x := st.segs.get 0 seg
  if off + n > segLimit x || (write && segRo x) then none
  else match segAddr s (copyCore s q) st seg off with
    | .sram a =>
      let there := wordsAway s ctx (sramKey a) || isSteward s st || !otherTenant s ctx a
      if sramInside s (copyCore s q) 99 st seg a n && there then some (.sram a) else none
    | x => some x

/-- Bytes of a record's segment field read at their home by the hub. -/
def recordRead (s : State) (q seg off n : Nat) : State × Except HomeFail (List Byte) :=
  match recordAddr s q seg off n false with
  | none => (s, .error .fault)
  | some (.sram a) => sramRead s (q / 64) (sramKey a) n
  | some (.virt va tgt) => virtRead s none (q / 64) va tgt 2 n
  | some (.hub o) => (s, .ok (hubRead s o n))

/-- Bytes written there. -/
def recordWrite (s : State) (q seg off : Nat) (bs : List Byte) : State × Option HomeFail :=
  match recordAddr s q seg off bs.length true with
  | none => (s, some .fault)
  | some (.sram a) => sramWrite s (q / 64) (sramKey a) bs
  | some (.virt va tgt) => virtWrite s none (q / 64) va tgt 2 bs
  | some (.hub o) => agentWrite s (hubKey o) {} false 2 bs

/-- An event word of a WAIT or SIGNAL: its segment and offset, and its value at its home. -/
def eventSeg (x : BitVec 512) : Nat := iv x 509 3
def eventOff (x : BitVec 512) : Nat := iv x 448 48
def eventRead (s : State) (q : Nat) (x : BitVec 512) : State × Except HomeFail Nat :=
  match recordRead s q (eventSeg x) (eventOff x) 8 with
  | (s, .ok bs) => (s, .ok (leNat bs))
  | (s, .error f) => (s, .error f)

/-- The line of a virtual address, where it is mapped. -/
def virtLine (s : State) (ctx va tgt : Nat) : List Nat :=
  match walkPlace s none ctx va tgt false with
  | .at_ key _ => [lineOf key]
  | _ => []

/-- The lines a queue watches: its tail line, and an event word's (R106). -/
def tailLine (s : State) (q : Nat) : List Nat :=
  if qHost s q then [lineOf (hostKey (qCtrl s q))] else virtLine s (q / 64) (qCtrl s q) 0
def eventLine (s : State) (q : Nat) (x : BitVec 512) : List Nat :=
  match recordAddr s q (eventSeg x) (eventOff x) 8 false with
  | some (.sram a) => if wordsAway s (q / 64) (sramKey a) then virtLine s (q / 64) (savedVa s (q / 64) (sramKey a)) 0 else [lineOf (sramKey a)]
  | some (.virt va tgt) => virtLine s (q / 64) va tgt
  | some (.hub o) => [lineOf (hubKey o)]
  | none => []

/-- The record at a queue's head. -/
def headRecord (s : State) (q : Nat) : State × Except HomeFail (BitVec 512) :=
  match queueRead s q (qRing s q + 64 * ((s.queue q).head.toNat % 2 ^ qLog s q)) 64 with
  | (s, .ok bs) => (s, .ok (BitVec.ofNat 512 (leNat bs)))
  | (s, .error f) => (s, .error f)

/-- A failure on the ring, the control block or an event word: held requests are made again, others are a record error. -/
def failQueue (s : State) (q : Nat) (f : HomeFail) : State :=
  if f = .held then s.setQueue q { s.queue q with wakes := [], watch := [] } else recordError s q errFault (s.queue q).head.toNat

/-- Whether a record needs graphics, or tables and data that lie in device DRAM (R534). -/
def needsFull (x : BitVec 512) : Bool :=
  recKind x ≤ 3 || ((recKind x == 4 || recKind x == 5) && !(iv x 509 3 == 1 || iv x 509 3 == 2))

/-- A queue that stands before a record: it is blocked, or it can start (R108, R110). -/
def standQueue (s : State) (q : Nat) : State :=
  match headRecord s q with
  | (s, .error f) => failQueue s q f
  | (s, .ok bits) =>
    let x := s.queue q
    let n := x.head.toNat
    let block (s : State) (wait : Option Nat) (watch : List Nat) : State :=
      putQueue s q { x with state := .blocked, since := none, waitSince := wait, watch := watch }
    match recordCheck s (q / 64) bits with
    | some e => recordError s q e n
    | none =>
      if ((recOrd bits || recKind bits == 5) && x.done != x.head) || (s.dev.state == .early && needsFull bits) then
        block s none x.watch
      else
        let go (s : State) : State :=
          putQueue s q { x with state := .draining, since := some (x.since.getD s.runTick), waitSince := x.waitSince }
        if recKind bits = 4 then
          match eventRead s q bits with
          | (s, .error f) => failQueue s q f
          | (s, .ok v) =>
            if v ≥ iv bits 384 64 then go s
            else block s (some (x.waitSince.getD s.tick)) (tailLine s q ++ eventLine s q bits)
        else go s

/-- A queue brought up to date: its context's state, its TAIL, and the record at its head (R104, R106, R108). One reading
answers every wake sent before it. -/
def settleQueue (s : State) (q : Nat) : State :=
  let s := syncQueue s q
  let x := s.queue q
  if !x.state.serves then s
  else match queueRead s q (qCtrl s q) 4 with
    | (s, .error f) => failQueue s q f
    | (s, .ok bs) =>
      let tail : Word := BitVec.ofNat 32 (leNat bs)
      let x := { x with tail := tail, wakes := [], watch := tailLine s q }
      let s := s.setQueue q x
      if (tail - x.head).toNat > 2 ^ qLog s q || (qDev s q && tail != x.appends) then recordError s q errOverrun x.head.toNat
      else if tail = x.head then putQueue s q { x with state := .watching, since := none, waitSince := none }
      else standQueue s q

/-- WELLHEAD_WAKE (R106): the wellhead reads a queue's tail line again, woken by a write, on arming its watch, or because
its condition may hold; and it writes a control block again that a home held. The step's operand: the queue. -/
def execWellheadWake (s : State) : Host.Outcome State Fault Refusal :=
  let q := s.pick.a % 4096
  let s := if (s.queue q).stale then putControl s q else s
  let x := s.queue q
  if x.state == .watching && x.wakes.isEmpty && !x.watch.isEmpty && !qHost s q then .next (syncQueue s q)
  else .next (settleQueue s q)

/-! The choice (R111). -/

/-- How far a queue stands behind the one served last. -/
def turnOf (s : State) (q : Nat) : Nat := (q + 4096 - s.dev.lastQueue - 1) % 4096

/-- Whether a queue's head record is the one the hub starts next. -/
def isChosen (s : State) (q : Nat) : Bool :=
  (s.queue q).state == .draining && (s.ctx (q / 64)).state.live && servedNow s q &&
    s.queues.all (fun e => e.1 == q || e.2.state != .draining || !(s.ctx (e.1 / 64)).state.live || !servedNow s e.1 ||
      qEffective s e.1 < qEffective s q || (qEffective s e.1 == qEffective s q && turnOf s q ≤ turnOf s e.1))

/-- A record is taken: HEAD moves on, and the queue has been served. -/
def takeRecord (s : State) (q : Nat) : State :=
  let x := s.queue q
  let s := { s with dev := { s.dev with lastQueue := q } }
  putQueue s q { x with
    head := x.head + 1, running := x.running ++ [x.head.toNat], level := 0, since := none, waitSince := none, rel := false }

/-- What the start of a record comes to: it is taken, and more happens then; it waits at the head; or it is a record error. -/
inductive Began
  | takes (more : State → State)
  | waits
  | bad (code : Nat)

/-- The head record of the chosen queue, of a kind, started as `act` says of its number and bits. -/
def startRecord (s : State) (kind : Nat) (act : State → Nat → BitVec 512 → State × Began) : Host.Outcome State Fault Refusal :=
  let q := s.pick.a % 4096
  if !isChosen s q then .next s
  else match headRecord s q with
    | (s, .error f) => .next (failQueue s q f)
    | (s, .ok bits) =>
      let n := (s.queue q).head.toNat
      if recKind bits != kind || (recordCheck s (q / 64) bits).isSome then .next (settleQueue s q)
      else match act s n bits with
        | (s, .takes more) => .next (settleQueue (more (takeRecord s q)) q)
        | (s, .waits) => .next s
        | (s, .bad e) => .next (recordError s q e n)

/-! Launches (R116, R118, R124). -/

/-- Strands of a crew, registers of a strand, and scratch of a crew as allocated (R117). -/
def crewStrands (x : BitVec 512) : Nat := (iv x 285 11 + 95) / 96
def crewRegs (x : BitVec 512) : Nat := roundRegs (iv x 276 9)
def crewWindow (x : BitVec 512) : Nat := (iv x 246 21 + 8191) / 8192 * 8192

/-- Crews an empty core holds (R117). -/
def crewsPerCore (x : BitVec 512) : Nat :=
  let a := min (24 / crewStrands x) (coreRegisters / (crewStrands x * crewRegs x))
  if crewWindow x = 0 then a else min a (reservedOffset / crewWindow x)

/-- The target cores of a launch of a context (R118). -/
def targetCores (s : State) (ctx : Nat) (x : BitVec 512) : List Nat :=
  (List.range 8).flatMap (fun k =>
    if (iv x 238 8 &&& ctxClmask s ctx).testBit k then
      (List.range (iv x 222 8 + 1 - iv x 230 8)).map (fun j => 256 * k + iv x 230 8 + j)
    else [])

/-- Whether a launch cannot be placed at all (R118). -/
def launchUnfit (s : State) (ctx : Nat) (x : BitVec 512) : Bool :=
  let each := crewsPerCore x
  each == 0 || (x.getLsbD 219 && iv x 296 24 > each * (targetCores s ctx x).length)

/-- The virtual address of a word of an event block (R123), at a dev offset. -/
def blockVa (segs : Tab (BitVec 128)) (off : Nat) (write : Bool) : Option Nat :=
  let dev := segs.get 0 3
  if off + 8 > segLimit dev || (write && segRo dev) then none else some (segBase dev + off)

/-- A word of an event block read by the hub, and written, at its home. -/
def blockRead (s : State) (ctx : Nat) (segs : Tab (BitVec 128)) (off : Nat) : State × Except HomeFail Nat :=
  match blockVa segs off false with
  | none => (s, .error .fault)
  | some va =>
    match virtRead s none ctx va 0 2 8 with
    | (s, .ok bs) => (s, .ok (leNat bs))
    | (s, .error f) => (s, .error f)
def blockWrite (s : State) (ctx : Nat) (segs : Tab (BitVec 128)) (off val : Nat) : State × Option HomeFail :=
  match blockVa segs off true with
  | none => (s, some .fault)
  | some va => virtWrite s none ctx va 0 2 (leBytes 8 val)

/-- Whether a predecessor's STATUS holds a code other than 0; a block that cannot be read counts as not failed. None while
its home holds the read. -/
def predFailed (s : State) (ctx : Nat) (segs : Tab (BitVec 128)) (x : BitVec 512) : State × Option Bool :=
  if iv x 320 48 = 0 then (s, some false)
  else match blockRead s ctx segs (iv x 320 48 + 16) with
    | (s, .ok v) => (s, some (v % 256 != 0))
    | (s, .error .held) => (s, none)
    | (s, .error _) => (s, some false)

/-- STATUS and TOTAL of a launch's event block written; a block that cannot be written is left as it is. The flag says that
its home holds a write. -/
def writeBlock (s : State) (ctx : Nat) (segs : Tab (BitVec 128)) (x : BitVec 512) (code total : Nat) : State × Bool :=
  match blockWrite s ctx segs (iv x 368 48 + 16) (code + recTag x * 2 ^ 32) with
  | (s, some .held) => (s, true)
  | (s, _) =>
    match blockWrite s ctx segs (iv x 368 48 + 8) total with
    | (s, some .held) => (s, true)
    | (s, _) => (s, false)

/-- The entries of a launch that TID.LD would refuse (R124), and their installation. -/
def tidsRefused (s : State) (ctx : Nat) (segs : Tab (BitVec 128)) (lo : Nat) (xs : List (BitVec 512)) : Bool :=
  xs.zipIdx.any (fun e => !tidAccepted e.1 (segBase (segs.get 0 3)) || tierBound s ctx (lo + e.2))
def installTids (s : State) (ctx lo : Nat) (xs : List (BitVec 512)) : State :=
  xs.zipIdx.foldl (fun s e => installTid s ctx (lo + e.2) e.1) s

/-- Entries of 64 bytes from bytes. -/
def entriesOf (bs : List Byte) (n : Nat) : List (BitVec 512) :=
  (List.range n).map (fun i => BitVec.ofNat 512 (leNat ((bs.drop (64 * i)).take 64)))

/-- A launch is rejected with a code (R124), after which its record completes. The flag says that the block's home holds a
write. -/
def rejectLaunch (s : State) (ctx : Nat) (segs : Tab (BitVec 128)) (x : BitVec 512) (code : Nat) : State × Bool :=
  writeBlock s ctx segs x code 0

/-- The segment values of a launch's table. -/
def launchSegs (table : List Byte) : Tab (BitVec 128) :=
  (List.range 7).map (fun i => (i + 1, admitSeg (i + 1) 0 (BitVec.ofNat 128 (leNat ((table.drop (16 * (i + 1))).take 16)))))

/-- A launch starts (R116, R124): its table and tid entries are read, it is rejected or it stands among the launches. The
context's segment values become the launch's, rejected or not (log 164). -/
def startLaunch (s : State) (q n : Nat) (x : BitVec 512) : State × Began :=
  let ctx := q / 64
  let tidn := iv x 187 11
  let lo := iv x 198 10
  let reject (s : State) (segs : Tab (BitVec 128)) (code : Nat) : State × Began :=
    match rejectLaunch s ctx segs x code with
    | (s, true) => (s, .waits)
    | (s, false) => (s, .takes (fun s => recordDone s q n))
  match virtRead s none ctx (iv x 416 48) 0 4 128 with
  | (s, .error .held) => (s, .waits)
  | (s, .error _) => reject s (s.ctx ctx).segs 4
  | (s, .ok table) =>
    let segs := launchSegs table
    let s := s.setCtx ctx { s.ctx ctx with segs := segs }
    match virtRead s none ctx (iv x 139 48) 0 4 (64 * tidn) with
    | (s, .error .held) => (s, .waits)
    | (s, .error _) => reject s segs 4
    | (s, .ok bs) =>
      let tids := entriesOf bs tidn
      if tidsRefused s ctx segs lo tids then reject s segs 2
      else match predFailed s ctx segs x with
        | (s, none) => (s, .waits)
        | (s, some true) => reject s segs 3
        | (s, some false) =>
          if launchUnfit s ctx x then reject s segs 1
          else match writeBlock s ctx segs x 0 (iv x 296 24) with
            | (s, true) => (s, .waits)
            | (s, false) => (s, .takes (fun s =>
              let (s, ln) := s.fresh
              (installTids s ctx lo tids).setLaunch ln
                { ctx := ctx, qid := q, recNo := n, bits := x, segs := segs, ready := true }))

/-- LAUNCH_RECORD (R116). The operand of this step and the following five: the queue. -/
def execLaunchRecord (s : State) : Host.Outcome State Fault Refusal :=
  startRecord s 1 fun s' n bits => startLaunch s' (s.pick.a % 4096) n bits

/-- DRAW_RECORD (R110, R228): a DRAW of a stream it may not name is a record error. -/
def execDrawRecord (s : State) : Host.Outcome State Fault Refusal :=
  let q := s.pick.a % 4096
  let ctx := q / 64
  startRecord s 2 fun s n bits =>
    let k := lowestCluster s ctx
    let str := (q % 64 * 256 + n) % 65536
    if !arbiterMay s k ctx 6 (drawStream bits) 0 str then (s, .waits)
    else match drawPrefixes s ctx bits with
      | (s, .error .held) => (s, .waits)
      | (s, .error _) => (s, .bad errBadField)
      | (s, .ok pre) => (s, .takes (fun s => arbiterServe (startDraw s ctx bits pre (some (q, n)) none) k ctx 6 (drawStream bits) 0 str))

/-- The block of a COPY record's command (R110, R476). -/
def copyBlock (x : BitVec 512) : List Byte :=
  let src := if x.getLsbD 303 then iv x 448 32 else iv x 509 3 * 2 ^ 48 + iv x 448 48
  leBytes 8 (iv x 445 3 * 2 ^ 48 + iv x 384 48) ++ leBytes 8 src ++ leBytes 8 0 ++ leBytes 4 (iv x 352 32) ++ leBytes 4 0

/-- The barrier of a COPY record: none named, its key, or a fault. -/
def copyBarrier (s : State) (q : Nat) (x : BitVec 512) : Option (Option Nat) :=
  if iv x 304 48 = 0 then some none
  else match recordAddr s q 2 (iv x 304 48) 16 true with
    | some (.sram a) => some (some (sramKey a))
    | _ => none

/-- The command of a COPY record: its addresses are formed with its context's segment values. -/
def copyCmd (s : State) (q n : Nat) (x : BitVec 512) : EngCmd :=
  { id := 0, eng := 0, fn := if x.getLsbD 303 then xcFill else xcLoad, block := copyBlock x, opts := 0, handle := none
    ctx := q / 64, segs := (s.ctx (q / 64)).segs, scratch := 0, queue := some (q, n) }

/-- COPY_RECORD (R110): it runs as a command of a copy engine, for whose room it waits (log 165); with a bad barrier it
completes with FAULT. -/
def execCopyRecord (s : State) : Host.Outcome State Fault Refusal :=
  let q := s.pick.a % 4096
  startRecord s 3 fun s n bits =>
    if (s.core (copyCore s q)).eng.length ≥ 64 then (s, .waits)
    else (s, .takes (fun s =>
      let c := copyCmd s q n bits
      match copyBarrier s q bits with
      | none => finishRecord s c 3
      | some bar => acceptCmd s (copyCore s q) { c with bar := bar }))

/-- The acquire of a satisfied WAIT (R64, R110): at .dev on every core of its context's clusters. -/
def acquireClusters (s : State) (ctx : Nat) : State :=
  s.cores.keys.foldl (fun s c => if (ctxClmask s ctx).testBit (coreCluster c) then acquire s c .dev else s) s

/-- WAIT_RECORD (R110): a WAIT whose event word has come is taken and complete. -/
def execWaitRecord (s : State) : Host.Outcome State Fault Refusal :=
  let q := s.pick.a % 4096
  startRecord s 4 fun s n bits =>
    match eventRead s q bits with
    | (s, .ok v) => (s, if v ≥ iv bits 384 64 then .takes (fun s => recordDone (acquireClusters s (q / 64)) q n) else .waits)
    | (s, .error .held) => (s, .waits)
    | (s, .error _) => (s, .bad errFault)

/-- The cores of a context's clusters. -/
def contextCores (s : State) (ctx : Nat) : List Nat := s.cores.keys.filter (fun c => (ctxClmask s ctx).testBit (coreCluster c))

/-- The release of a SIGNAL at .dev, on every core where its queue's launches ran (R64). The flag says that it is over; a
refusal that it collects makes the context Faulted (R543). -/
def signalRelease (s : State) (q : Nat) : State × Bool :=
  let x := s.queue q
  let cores := contextCores s (q / 64)
  let s := if x.rel then s else (cores.foldl (fun s c => releaseMoves s c .dev) s).setQueue q { x with rel := true }
  if !cores.all (fun c => releaseOver s c .dev) then (s, false)
  else
    let s := (List.range 8).foldl (fun s k => if (ctxClmask s (q / 64)).testBit k then faultRefused s k (q / 64) else s) s
    (s, (s.ctx (q / 64)).state.live)

/-- The value a SIGNAL writes: VALUE, or the word's sum with it. -/
def signalValue (s : State) (q : Nat) (x : BitVec 512) : State × Except HomeFail Nat :=
  if !x.getLsbD 383 then (s, .ok (iv x 384 64))
  else match eventRead s q x with
    | (s, .ok old) => (s, .ok (old + iv x 384 64))
    | r => r

/-- The interrupt of a SIGNAL, where it asks for one. -/
def sendInterrupt (s : State) (x : BitVec 512) : State :=
  if x.getLsbD 382 then { s with dev := { s.dev with msix := s.dev.msix ++ [iv x 371 11] } } else s

/-- SIGNAL_RECORD (R110): the release, one indivisible write or add at the event word's home, and then the interrupt. -/
def execSignalRecord (s : State) : Host.Outcome State Fault Refusal :=
  let q := s.pick.a % 4096
  startRecord s 5 fun s n bits =>
    match signalRelease s q with
    | (s, false) => (s, .waits)
    | (s, true) =>
      match signalValue s q bits with
      | (s, .error .held) => (s, .waits)
      | (s, .error _) => (s, .bad errFault)
      | (s, .ok v) =>
        match recordWrite s q (eventSeg bits) (eventOff bits) (leBytes 8 v) with
        | (s, some .held) => (s, .waits)
        | (s, some _) => (s, .bad errFault)
        | (s, none) => (s, .takes (fun s => recordDone (sendInterrupt s bits) q n))

/-- MARK_RECORD (R110, R521): the trace engine of the context's lowest cluster takes it; one that is off, or does not take
its kind, accepts it without a record (log 166). -/
def execMarkRecord (s : State) : Host.Outcome State Fault Refusal :=
  let q := s.pick.a % 4096
  startRecord s 6 fun s n bits => (s, .takes (fun s =>
    recordDone (traceRecord s (lowestCluster s (q / 64)) 3 (recTag bits + q / 64 * 2 ^ 32 + q % 64 * 2 ^ 40)) q n))

/-- WAIT_TIMEOUT (R112): the WAIT at a queue's head has waited 2^TIMEOUT ticks. The step's operand: the queue. -/
def execWaitTimeout (s : State) : Host.Outcome State Fault Refusal :=
  let q := s.pick.a % 4096
  let x := s.queue q
  match x.waitSince, x.state, headRecord s q with
  | some t, .blocked, (s, .ok bits) =>
    let n := iv bits 378 6
    if recKind bits = 4 && n != 0 && t + 2 ^ n ≤ s.tick then .next (recordError s q errTimeout x.head.toNat) else .next s
  | _, _, _ => .next s

/-- QUEUE_AGEING (R111): a queue that could start for 2^20 ticks rises one level, up to PRIOMAX. The step's operand: the
queue. -/
def execQueueAgeing (s : State) : Host.Outcome State Fault Refusal :=
  let q := s.pick.a % 4096
  let x := s.queue q
  match x.since with
  | none => .next s
  | some t =>
    if x.state != .draining || s.runTick < t + 2 ^ 20 then .next s
    else .next (s.setQueue q { x with
      level := if qEffective s q < ctxPrioMax s (q / 64) then x.level + 1 else x.level, since := some s.runTick })

/-! The commands of QCMD (R107, R108). -/

/-- Whether a queue's descriptor is valid for BIND (R103). -/
def queueValid (s : State) (q : Nat) : Bool :=
  let f := qField s q
  f 506 6 == q / 64 && f 500 6 == q % 64 && 4 ≤ f 491 5 && f 491 5 ≤ 16 && f 448 43 == 0 && f 400 12 == 0 &&
    f 352 7 == 0 && f 0 352 == 0 && !(qDev s q && qHost s q)

/-- A command on a queue: its new state and the result code. UNBIND drops the records handed over (log 173). -/
def queueAct (s : State) (q cmd : Nat) : State × Nat :=
  let x := s.queue q
  let live := (s.ctx (q / 64)).state.live
  match cmd with
  | 1 =>
    if x.state != .unbound then (s, 1)
    else if !queueValid s q then (s, 2)
    else (syncQueue (putQueue s q { state := .idle }) q, 0)
  | 2 =>
    if x.state == .unbound then (s, 1)
    else if !x.running.isEmpty then (s, 4)
    else ((putQueue s q { x with state := .unbound }).setQueue q {}, 0)
  | 3 =>
    if x.state.serves then
      (putQueue s q { x with state := .suspended, byCtx := false, since := none, wakes := [], watch := [] }, 0)
    else (s, 1)
  | 4 =>
    if (x.state == .suspended && live) || x.state == .error then
      (syncQueue (putQueue s q { x with state := .watching, byCtx := false, watch := [] }) q, 0)
    else (s, 1)
  | 5 =>
    if x.state == .error then
      let x := { x with state := .watching, watch := [] }
      (syncQueue (putQueue s q (if x.errIdx = x.head then { x with head := x.head + 1 }.complete x.head.toNat else x)) q, 0)
    else (s, 1)
  | _ => (s, 3)

/-- A write of QCMD: its target and result are kept for CSRR (R107). -/
def queueCommand (s : State) (q cmd : Nat) : State :=
  let (s, code) := queueAct s q cmd
  { s with dev := { s.dev with qTarget := q, qResult := code } }

/-- QUEUE_BIND (R108). The operand of this step and the following four: the queue. -/
def execQueueBind (s : State) : Host.Outcome State Fault Refusal := .next (queueCommand s (s.pick.a % 4096) 1)
/-- QUEUE_UNBIND (R108). -/
def execQueueUnbind (s : State) : Host.Outcome State Fault Refusal := .next (queueCommand s (s.pick.a % 4096) 2)
/-- QUEUE_SUSPEND (R108). -/
def execQueueSuspend (s : State) : Host.Outcome State Fault Refusal := .next (queueCommand s (s.pick.a % 4096) 3)
/-- QUEUE_RESUME (R108). -/
def execQueueResume (s : State) : Host.Outcome State Fault Refusal := .next (queueCommand s (s.pick.a % 4096) 4)
/-- QUEUE_CLEAR (R108). -/
def execQueueClear (s : State) : Host.Outcome State Fault Refusal := .next (queueCommand s (s.pick.a % 4096) 5)

/-! LAUNCH (R113, R310). -/

/-- The outcome of a handover told to the split that waits for it: its record number, or a fault of the ring. -/
def tellLaunch (s : State) (t : Target) (stage n : Nat) : State :=
  let r : SplitRef := ⟨t.core, t.slot, t.split⟩
  s.setProg r { s.prog r with stage := stage, nums := [n] }

/-- WELLHEAD_APPEND (R113): the oldest record handed over for a queue is written into its ring and TAIL moves on, when the
ring has room. The step's operand: the queue, each of which keeps its own order (log 172). -/
def execWellheadAppend (s : State) : Host.Outcome State Fault Refusal :=
  let q := s.pick.a % 4096
  let x := s.queue q
  match x.handed with
  | [] => .next s
  | h :: rest =>
    if (x.appends - x.head).toNat ≥ 2 ^ qLog s q then .next s
    else
      let n := x.appends.toNat
      let lost (s : State) : State :=
        let s := tellLaunch (s.setQueue q { s.queue q with handed := rest, appends := x.appends }) h.target 3 0
        if (s.queue q).state.serves then recordError s q errFault n else s
      match queueWrite s q (qRing s q + 64 * (n % 2 ^ qLog s q)) (leBytes 64 h.bits.toNat) with
      | (s, some .held) => .next s
      | (s, some _) => .next (lost s)
      | (s, none) =>
        match queueWrite (s.setQueue q { s.queue q with appends := x.appends + 1 }) q (qCtrl s q) (leBytes 4 (n + 1)) with
        | (s, some .held) => .next (s.setQueue q { s.queue q with appends := x.appends })
        | (s, some _) => .next (lost s)
        | (s, none) => .next (tellLaunch (s.setQueue q { s.queue q with handed := rest }) h.target 2 n)

/-- LAUNCH (R310). -/
def execLaunch (c : Ctl) (d a b : Operand) (s : State) :=
  run (.launch c d a b) c s fun v s =>
    if v.eff = 0 then .done s
    else
      let p := s.prog v.r
      let q := 64 * v.st.ctx + (v.rd b 0).toNat % 64
      let bad (s : State) : Res := .trap { code := trapRecordErr, lanes := v.eff } s
      match p.stage with
      | 1 => .stay 13 s
      | 2 => .done (putAll s v.r d v.eff (BitVec.ofNat 32 (p.nums.headD 0)))
      | 3 => bad s
      | _ => releaseThen v s .dev 16 fun s =>
        withAccess v s ((v.checkSeg 3 { n := 64, writes := false, spaces := spacesAll, align := 64 }
            (numbered [(v.rd64 a 0).toNat])).whole v.eff) fun ps =>
          match ps with
          | [] => .done s
          | pl :: _ =>
            match loadBytes s v.r.core pl.key 64 pl.via with
            | (_, _, some .held) => .stay 14 s
            | (s, _, some f) => .trap { code := f.code, lanes := v.eff, addr := pl.addr } s
            | (s, bs, none) =>
              let bits := BitVec.ofNat 512 (leNat bs)
              let x := s.queue q
              if (v.rd b 0).toNat ≥ 64 || x.state == .unbound || !qDev s q || (recordCheck s v.st.ctx bits).isSome then bad s
              else
                let t : Target := { core := v.r.core, slot := v.r.slot, split := v.r.split, id := none }
                let s := s.setQueue q { x with handed := x.handed ++ [{ bits := bits, target := t }] }
                .stay 13 (s.setProg v.r { s.prog v.r with stage := 1 })

end Sys2Proof.Machine
end

