-- ==== Sys2Proof/Machine/Placement.lean ====
section
/-! DEFINITION. The distributor (06 R117-R123): room on cores, the placement of crews, of vertex strands (R232) and of
fragment strands (R249), dependences, and completion events. -/
namespace Sys2Proof.Machine

/-! Room (R117). -/

/-- The lowest 8 KiB aligned offset at which a window fits among others. -/
def windowFor (windows : List (Nat × Nat)) (n : Nat) : Option Nat :=
  let fits (o : Nat) : Bool := o + n ≤ reservedOffset && windows.all (fun w => w.1 + w.2 ≤ o || o + n ≤ w.1)
  ((0 :: windows.map (fun w => w.1 + w.2)).filter fits).foldl (fun acc o => match acc with
    | none => some o
    | some b => some (min b o)) none

/-- The lowest free slots of a core. -/
def freeSlots24 (s : State) (c n : Nat) : Option (List Nat) :=
  let xs := (List.range 24).filter (fun i => (s.strandAt c i).state == .vacant)
  if xs.length ≥ n then some (xs.take n) else none

/-- What a crew takes on a core. -/
structure Room where
  slots  : List Nat
  offset : Nat
  ent    : Nat
  deriving DecidableEq, Repr

/-- Room for a crew of strands, registers and scratch on a core; a strand pre-empted by a deadlock break comes first
(R142). -/
def roomFor (s : State) (c strands regs window : Nat) : Option Room :=
  if (s.core c).slots.any (fun e => e.2.state == .saved) || strands * regs > freeRegisters s c then none
  else match freeSlots24 s c strands, (if window = 0 then some 0 else windowFor (s.core c).windows window),
      firstFrom (fun i => (crewAt s (coreCluster c) i).isFree) 1024 0 with
    | some slots, some o, some ent => some { slots := slots, offset := o, ent := ent }
    | _, _, _ => none

/-! Placing (R121). -/

/-- A strand takes a slot with the next number of its core (R211). -/
def seatStrand (s : State) (c slot : Nat) (st : Strand) : State :=
  let k := s.core c
  s.setCore c { k with slots := k.slots.set slot { st with number := k.nextNo, lastIssue := s.runTick }, nextNo := k.nextNo + 1 }

/-- The one split a strand starts with. -/
def startSplit (s : State) (entry : Nat) (lanes : LaneMask) : Split :=
  { pc := BitVec.ofNat 48 entry, state := .ready, own := lanes, mask := lanes, since := s.runTick }

/-- The first n lanes from a thread on. -/
def launchedLanes (n : Nat) : LaneMask := maskWhere (fun l => l < n)

/-- A crew's seg0: its scratch allocation (R166). -/
def crewSegs (segs : Tab (BitVec 128)) (window : Nat) : Tab (BitVec 128) :=
  segs.set 0 (BitVec.ofNat 128 (window * 2 ^ 32))

/-- A crew entered in its cluster's table with its scratch window, whose tags are full (R164). The core's
accumulators start at 0 (R121, log 143). -/
def openCrew (s : State) (c : Nat) (r : Room) (launch : Option (Nat × Nat)) (window : Nat) : State :=
  let k := coreCluster c
  let x := crewAt s k r.ent
  let s := setCrew s k r.ent { x with
    used := true, members := r.slots.map (fun i => (c, i)), launch := launch, core := c, scratch := r.offset, window := window
    alive := r.slots.length, phase := none }
  let y := s.core c
  let s := s.setCore c { y with
    windows := if window = 0 then y.windows else y.windows ++ [(r.offset, window)]
    tiles := (y.tiles.filter (fun e => e.2.owners != 0)).map (fun e => (e.1, { e.2 with rows := [], sums := [] })) }
  let lo := (sliceBase c + r.offset) / 4
  { s with emptyTags := s.emptyTags.filter (fun w => w < lo || lo + window / 4 ≤ w) }

/-- The parts of a strand that its crew gives it. -/
def crewStrand (s : State) (c : Nat) (r : Room) (ctx regs rmax window : Nat) (segs : Tab (BitVec 128)) (entry : Nat)
    (lanes : LaneMask) : Strand :=
  let id := crewId (coreCluster c) r.ent (crewAt s (coreCluster c) r.ent).gen
  { state := .resident, ctx := ctx, home := some id, placed := some r.ent, crews := [id], age := s.tick, nregs := regs
    gStart := regs, rmax := rmax, scratch := r.offset, window := window, segs := crewSegs segs window
    splits := [(0, startSplit s entry lanes)] }

/-- Crews of a launch; of a draw, one for every 96 vertices (R232). -/
def Launch.crews (l : Launch) (s : State) : Nat :=
  match l.draw with
  | some d => match s.draws.find d with | some y => (drawCount y.bits + 95) / 96 | none => 0
  | none => iv l.bits 296 24

/-- A vertex strand of a draw (R232). -/
def vertexStrand (s : State) (c : Nat) (r : Room) (l : Launch) (d : Nat) (y : Draw) (j : Nat) : Strand :=
  let st := crewStrand s c r l.ctx (crewRegs l.bits) (iv l.bits 267 9) 0 l.segs (drawVprog y.bits)
    (launchedLanes (drawCount y.bits - 96 * j))
  { st with
    kind := .vertex d (96 * j)
    s := ([j, drawCount y.bits, drawVbuf y.bits, drawVbuf y.bits / 2 ^ 32, 96 * j, d % 65536].zipIdx).map
      (fun e => (e.2, BitVec.ofNat 32 e.1)) }

/-- Strand j of a launch crew (R121). -/
def launchStrand (s : State) (c : Nat) (r : Room) (ln : Nat) (l : Launch) (i j : Nat) : Strand :=
  let x := l.bits
  let rmax := iv x 267 9
  let st := crewStrand s c r l.ctx (crewRegs x) (if rmax = 0 then iv x 276 9 else rmax) (crewWindow x) l.segs (iv x 464 48)
    (launchedLanes (iv x 285 11 - 96 * j))
  { st with
    launch := some ln, crewIx := BitVec.ofNat 32 i, token := x.getLsbD 218
    s := [(0, BitVec.ofNat 32 j), (1, BitVec.ofNat 32 (iv x 285 11))] }

/-- Crew i of a launch placed on a core (R121); after a dependence its core acquires first, and a record-fed strand
begins with its start token (R326). -/
def placeCrew (s : State) (c : Nat) (r : Room) (ln : Nat) (l : Launch) (i : Nat) : State :=
  match l.draw with
  | some d =>
    match s.draws.find d with
    | none => s
    | some y => seatStrand (openCrew s c r none 0) c (r.slots.headD 0) (vertexStrand s c r l d y i)
  | none =>
    let s := if iv l.bits 216 2 = 0 then s else acquire s c .dev
    let s := openCrew s c r (some (ln, i)) (crewWindow l.bits)
    let s := r.slots.zipIdx.foldl (fun s e => seatStrand s c e.1 (launchStrand s c r ln l i e.2)) s
    if l.bits.getLsbD 218 then raiseWork s (coreCluster c) l.ctx r.slots.length else s

/-! Dependences (R123). -/

/-- Whether a crew of a launch may be placed: its predecessor's block is read at its home. -/
def crewFree (s : State) (l : Launch) (i : Nat) : State × Bool :=
  let map := if l.draw.isSome then 0 else iv l.bits 216 2
  let pred := iv l.bits 320 48
  if map = 0 then (s, true)
  else match blockRead s l.ctx l.segs (pred + 8) with
    | (s, .error _) => (s, false)
    | (s, .ok total) =>
      let bit := if map = 2 then i / iv l.bits 208 8 else i
      if map = 3 || (total != 0 && bit ≥ total) then
        match blockRead s l.ctx l.segs pred with
        | (s, .error _) => (s, false)
        | (s, .ok count) => (s, total != 0 && count == total)
      else match blockRead s l.ctx l.segs (pred + 64 + 8 * (bit / 64)) with
        | (s, .error _) => (s, false)
        | (s, .ok w) => (s, w.testBit (bit % 64))

/-! Passes (R119, R120). -/

/-- Room for one crew of a launch on a core. -/
def launchRoom (s : State) (c : Nat) (l : Launch) : Option Room :=
  roomFor s c (crewStrands l.bits) (crewRegs l.bits) (crewWindow l.bits)

/-- Whether a core may take crews of a launch now: its context is tenant, and no co-resident launch holds it. -/
def coreOpen (s : State) (held : List Nat) (ctx c : Nat) : Bool :=
  let k := s.clu (coreCluster c)
  k.tenant == some ctx && k.leaving.isNone && !held.contains c

/-- The first pass of a launch: from its pointer, core after core; the wave is complete when no core has room. A
dependence cuts it short. -/
def firstPass (held : List Nat) (ln : Nat) : Nat → State → State
  | 0, s => s
  | fuel + 1, s =>
    match s.launch ln with
    | none => s
    | some l =>
      if l.next ≥ l.crews s then s
      else match crewFree s l l.next with
        | (s, false) => s
        | (s, true) =>
          let cores := targetCores s l.ctx l.bits
          let n := cores.length
          let order := (List.range n).map (fun i => (l.ptr + i) % n)
          match order.findSome? (fun i =>
              let c := cores.getD i 0
              if coreOpen s held l.ctx c then (launchRoom s c l).map (fun r => (i, c, r)) else none) with
          | none => s.setLaunch ln { l with first := false, gained := l.gained.filter (fun g => !coreOpen s held l.ctx g.2) }
          | some (i, c, r) =>
            let s := placeCrew s c r ln l l.next
            firstPass held ln fuel (s.setLaunch ln { l with next := l.next + 1, ptr := (i + 1) % n })

/-- Crews placed on one core while it has room. -/
def fillCore (c ln : Nat) : Nat → State → State
  | 0, s => s
  | fuel + 1, s =>
    match s.launch ln with
    | none => s
    | some l =>
      if l.next ≥ l.crews s then s
      else match crewFree s l l.next with
        | (s, false) => s
        | (s, true) =>
          match launchRoom s c l with
          | none => s
          | some r => fillCore c ln fuel ((placeCrew s c r ln l l.next).setLaunch ln { l with next := l.next + 1 })

/-- The cores that gained room, in the order in which they did; ties by core (R119). -/
def Launch.gainOrder (l : Launch) : List Nat :=
  (l.gained.mergeSort (fun a b => a.1 < b.1 || (a.1 == b.1 && a.2 ≤ b.2))).map (·.2)

/-- A later pass of a launch over the cores that gained room. A core that is not open now keeps its place. -/
def laterPass (held : List Nat) (ln : Nat) : List Nat → State → State
  | [], s => s
  | c :: cs, s =>
    match s.launch ln with
    | none => s
    | some l =>
      let k := coreCluster c
      if l.next ≥ l.crews s || !(targetCores s l.ctx l.bits).contains c then
        laterPass held ln cs (s.setLaunch ln { l with gained := l.gained.filter (fun g => g.2 != c) })
      else if !coreOpen s held l.ctx c || !arbiterMay s k l.ctx 4 0 c 0 then laterPass held ln cs s
      else match crewFree s l l.next with
        | (s, false) => s
        | (s, true) =>
          let s := arbiterServe (s.setLaunch ln { l with gained := l.gained.filter (fun g => g.2 != c) }) k l.ctx 4 0 c 0
          laterPass held ln cs (fillCore c ln 24 s)

/-- One launch in a pass; `held` are the cores that co-resident launches wait for (R120). -/
def passLaunch (ln : Nat) (acc : State × List (Nat × List Nat)) : State × List (Nat × List Nat) :=
  let (s, waits) := acc
  match s.launch ln with
  | none => acc
  | some l =>
    let held := (waits.filter (fun w => w.1 < ln)).flatMap (·.2)
    let cores := targetCores s l.ctx l.bits
    if !l.ready || l.next ≥ l.crews s || !(s.ctx l.ctx).state.live && (s.ctx l.ctx).state != .dumping then acc
    else
      let (s, bad) := if l.next = 0 && l.draw.isNone then predFailed s l.ctx l.segs l.bits else (s, some false)
      if bad.isNone then (s, waits)
      else if bad = some true then
        match rejectLaunch s l.ctx l.segs l.bits 3 with
        | (s, true) => (s, waits)
        | (s, false) => (recordDone { s with launches := s.launches.del ln } l.qid l.recNo, waits)
      else if l.draw.isNone && l.bits.getLsbD 219 then
        let s' := firstPass held ln (l.crews s) s
        match s'.launch ln with
        | some l' => if l'.next ≥ l.crews s then (s', waits) else (s, waits ++ [(ln, cores)])
        | none => (s, waits)
      else if l.first then
        if cores.any (coreOpen s held l.ctx) then (firstPass held ln (l.crews s + 1) s, waits) else (s, waits)
      else (laterPass held ln l.gainOrder s, waits)

/-- The launches in the order of a pass: descending PRIO, then the order in which they started. -/
def passOrder (s : State) : List Nat :=
  ((s.launches.map (fun e => (e.1, iv e.2.bits 220 2))).mergeSort (fun a b => a.2 > b.2 || (a.2 == b.2 && a.1 ≤ b.1))).map (·.1)

/-! Fragment strands (R249). -/

/-- The interval records of a draw in a core's cistern, the oldest first, at most 96. -/
def intervalsOf (s : State) (c ctx d : Nat) : List (BitVec 512) :=
  (((cisternOf s c ctx).filter (fun x => isInterval x && ivDraw x == d % 2 ^ 16)).reverse).take 96

/-- A fragment strand of a draw takes up to 96 records of its core's cistern, lane i the i-th oldest (R249). -/
def placeFragment (s : State) (c d : Nat) (y : Draw) : State :=
  let xs := intervalsOf s c y.ctx d
  let regs := roundRegs (prefixRegs y.fpre)
  if xs.isEmpty || !coreOpen s [] y.ctx c then s
  else match roomFor s c 1 regs 0 with
    | none => s
    | some r =>
      let k := s.core c
      let s := s.setCore c { k with cistern := k.cistern.filter (fun e => !(e.1 == y.ctx && xs.contains e.2)) }
      let st := crewStrand s c r y.ctx regs (prefixRmax y.fpre) 0 (prefixSegs y.fpre) (drawFprog y.bits) (launchedLanes xs.length)
      seatStrand (openCrew s c r none 0) c (r.slots.headD 0) { st with
        kind := .fragment d
        staged := { recs := xs.zipIdx.map (fun e => (e.2, e.1)) }
        s := [(0, BitVec.ofNat 32 xs.length), (1, BitVec.ofNat 32 (d % 65536))] }

/-- Fragment strands on every core that holds interval records. -/
def placeFragments (s : State) : State :=
  s.cores.keys.foldl (fun s c => s.draws.foldl (fun s e => placeFragment s c e.1 e.2) s) s

/-- PLACEMENT_PASS (R119): every 64 ticks, the placement engines place fragment strands and then crews. -/
def execPlacementPass (s : State) : Host.Outcome State Fault Refusal :=
  if s.tick < s.dev.passTick + 64 then .next s
  else
    let s := placeFragments { s with dev := { s.dev with passTick := s.tick / 64 * 64 } }
    .next ((passOrder s).foldl (fun acc ln => passLaunch ln acc) (s, [])).1

/-! Completion events (R123). -/

/-- A refused store that a dissolving crew's release collects makes its context Faulted (R543). -/
def faultDissolved (s : State) (c ctx : Nat) : State :=
  match refusedTrap s c ctx (fun a => inScope c .dev (homeOf a)) with
  | none => s
  | some (t, s) => contextFaults s ctx { code := t.code, core := c, slot := 0, split := 0, pc := 0, tick := s.tick, addr := t.addr }

/-- COMPLETION_EVENT (R123): the release of a dissolved crew is over and its bit is set at its home; then COUNT goes up,
and with the last crew the record completes. A block that cannot be written is left as it is. The step's operand: the
event. -/
def execCompletionEvent (s : State) : Host.Outcome State Fault Refusal :=
  let i := s.pick.a
  match s.events[i]? with
  | none => .next s
  | some e =>
    match s.launch e.launch with
    | none => .next { s with events := dropAt s.events i }
    | some l =>
      let blk := iv l.bits 368 48
      if !e.bitSet then
        if !releaseOver s e.core .dev then .next s
        else
          let off := blk + 64 + 8 * (e.crew / 64)
          let put (s : State) : State := { faultDissolved s e.core l.ctx with events := setAt s.events i { e with bitSet := true } }
          match blockRead s l.ctx l.segs off with
          | (s, .error .held) => .next s
          | (s, .error _) => .next (put s)
          | (s, .ok w) =>
            match blockWrite s l.ctx l.segs off (w ||| 2 ^ (e.crew % 64)) with
            | (s, some .held) => .next s
            | (s, _) => .next (put s)
      else
        let fin (s : State) : State :=
          let s := { s with events := dropAt s.events i }
          if l.count + 1 ≥ l.crews s then recordDone { s with launches := s.launches.del e.launch } l.qid l.recNo
          else s.setLaunch e.launch { l with count := l.count + 1 }
        match blockRead s l.ctx l.segs blk with
        | (s, .error .held) => .next s
        | (s, .error _) => .next (fin s)
        | (s, .ok n) =>
          match blockWrite s l.ctx l.segs blk (n + 1) with
          | (s, some .held) => .next s
          | (s, _) => .next (fin s)

end Sys2Proof.Machine
end

