-- ==== Sys2Proof/Machine/Steward.lean ====
section
/-! DEFINITION. Control and status registers, segment loads and invalidation (16 R311-R315), the steward engine (R482)
and the copies of a dump (R181, R527), the second-level lookups and walks of translation (R175, R178), and the watchdog
(R100). -/
namespace Sys2Proof.Machine

/-! CSRs (R311-R313). -/

/-- A command register as CSRR reads it: a number at a bit, the result of the last command, and the state (R89, R107,
R228). -/
def commandWord (num at_ result state : Nat) : Word := BitVec.ofNat 32 (num * 2 ^ at_ + result * 2 ^ 12 + state)

/-- SPLITID (R311). -/
def splitId (r : SplitRef) (sp : Split) : Word :=
  BitVec.ofNat 32 (r.split + (if sp.hm then 4 else 0) + sp.ndef * 8)

/-- A CSR that reads 0 at user privilege (R311). -/
def stewardCsr (s : State) (k num : Nat) : Word :=
  let d := s.dev
  match num with
  | 0x100 => BitVec.ofNat 32 (s.clu k).quantum
  | 0x181 => commandWord d.ctxTarget 26 d.ctxResult (s.ctx d.ctxTarget).state.code
  | 0x182 => commandWord (d.qTarget / 64 * 64 + d.qTarget % 64) 20 d.qResult (s.queue d.qTarget).state.code
  | 0x183 => commandWord d.sTarget 24 d.sResult (if (s.stream d.sTarget).bound then 1 else 0)
  | _ => 0

/-- The value of a CSR (R311). -/
def csrValue (v : View) (s : State) (num : Nat) : Word :=
  match num with
  | 1 => BitVec.ofNat 32 v.st.number.toNat
  | 2 => BitVec.ofNat 32 v.st.nregs
  | 3 => splitId v.r v.sp
  | 4 => BitVec.ofNat 32 v.sp.smpIter
  | 5 => BitVec.ofNat 32 v.st.held
  | 6 => BitVec.ofNat 32 v.st.ctx
  | _ => if isSteward s v.st then stewardCsr s (coreCluster v.r.core) num else 0

/-- CSRR (R312). -/
def execCsrr (c : Ctl) (d : Operand) (num : BitVec 9) (s : State) :=
  run (.csrr c d num) c s fun v s =>
    if num = 4 && v.st.results.any (fun p => p.split == v.r.split && p.why == 23) then .stay 23 s
    else .done (pend s v c [d] v.eff [vecOf v.eff fun _ => csrValue v s num.toNat] noFlag)

/-- A CSR written (R311, R89, R107, R228). -/
def csrWrite (s : State) (k num : Nat) (x : Word) : State :=
  match num with
  | 0x100 =>
    if 16 ≤ x.toNat && x.toNat ≤ 30 then s.setClu k { s.clu k with quantum := x.toNat } else s
  | 0x180 => ctxCommand s (x.extractLsb' 8 6).toNat (x.extractLsb' 0 4).toNat
  | 0x182 => queueCommand s (64 * (x.extractLsb' 8 6).toNat + (x.extractLsb' 14 6).toNat) (x.extractLsb' 0 4).toNat
  | 0x183 => streamCommand s (x.extractLsb' 8 8).toNat (x.extractLsb' 0 4).toNat
  | _ => s

/-- CSRW (R313). -/
def execCsrw (c : Ctl) (a : Operand) (num : BitVec 9) (s : State) :=
  run (.csrw c a num) c s fun v s =>
    let write (s : State) : Res := .done (csrWrite s (coreCluster v.r.core) num.toNat (v.rd a 0))
    if v.eff = 0 then .done s
    else if num.toNat ≥ 0x180 then releaseThen v s .sys 28 write
    else write s

/-! Segments and invalidation (R314, R315). -/

/-- SEG.LD (R314). -/
def execSegLd (c : Ctl) (sg : SegIx) (a : Operand) (s : State) :=
  run (.segLd c sg a) c s fun v s =>
    if v.eff = 0 then .done s
    else
      let st := s.strand v.r
      .done (s.setStrand v.r { st with segs := st.segs.set (segNum sg) (admitSeg (segNum sg) st.window (v.rdQuad a)) })

/-- The entries a TLB.INV drops, and the context it names; a context above 63 has none. -/
def View.dropped (v : View) (k : TlbInv) : (Nat → Nat → Nat → Bool) × Option Nat :=
  match k with
  | .page a b => let x := (v.rd b 0).toNat; (hitsPage x ((v.rd64 a 0).toNat % 2 ^ 48), some x)
  | .ctx b => let x := (v.rd b 0).toNat; (fun c _ _ => c == x, some x)
  | .all => (fun _ _ _ => true, none)

/-- Whether accesses translated before an invalidation may still be under way (R178). -/
def accessesLeft (s : State) (x : Option Nat) : Bool :=
  let mine (c : Nat) : Bool := match x with | some y => c == y | none => true
  s.clusters.any (fun e => e.2.walks.any (·.dead) || e.2.svc.any (fun q => mine q.ctx)) || s.pkts.any (fun p => !p.done) ||
    s.contexts.any (fun e => mine e.1 && e.2.tiers.any (fun t => t.2.flight.any (fun j => !j.due.isEmpty)))

/-- TLB.INV (R315). -/
def execTlbInv (c : Ctl) (k : TlbInv) (s : State) :=
  run (.tlbInv c k) c s fun v s =>
    if v.eff = 0 then .done s
    else
      let (hit, x) := v.dropped k
      let p := s.prog v.r
      if p.stage = 0 then .stay 28 ((invalidate s hit).setProg v.r { p with stage := 1 })
      else if accessesLeft s x then .stay 28 s
      else .done s

/-! Lookups and walks (R175). -/

/-- A lookup of a core at a place in its list changed. -/
def setLookup (s : State) (c i : Nat) (l : Lookup) : State :=
  let k := s.core c
  s.setCore c { k with lookups := setAt k.lookups i l }

/-- Whether a lookup waits for a walk. -/
def Lookup.walks (l : Lookup) : Bool :=
  match l.stage with
  | .walking _ => true
  | _ => false

/-- Whether a lookup is among the sixteen that a core keeps in flight (R175). -/
def inFlight (k : Core) (i : Nat) : Bool := (k.lookups.take i).countP (fun l => l.stage == .second || l.walks) < 16

/-- SECOND_LEVEL_TLB_LOOKUP (R175): a hit installs the translation, a miss goes to the walker. The step's operands: the
core and the lookup. -/
def execTlb2Lookup (s : State) : Host.Outcome State Fault Refusal :=
  let c := s.pick.a
  let i := s.pick.b
  let k := s.core c
  let n := coreCluster c
  let x := s.clu n
  match k.lookups[i]? with
  | none => .next s
  | some l =>
    if l.stage != .second || !inFlight k i then .next s
    else match tlbFind x.tlb2 l.ctx (l.page * 2 ^ 16) with
      | some leaf =>
        .next (s.setCore c { k with
          tlb := tlbAdd 256 k.tlb (tlbEntry l.ctx (l.page * 2 ^ 16) leaf), lookups := dropAt k.lookups i })
      | none =>
        let live := x.walks.countP (·.live)
        match x.walks.find? (fun w => w.covers s l.ctx (l.page * 2 ^ 16)) with
        | some w => .next (setLookup s c i { l with stage := .walking w.page })
        | none =>
          if x.walks.length - live ≥ 1024 then .next (setLookup s c i { l with stage := .refused (s.tick + 64) })
          else
            let w : Walk := { ctx := l.ctx, page := l.page, live := live < 64 }
            .next (setLookup (s.setClu n { x with walks := x.walks ++ [w] }) c i { l with stage := .walking l.page })

/-- WALK_RESEND (R175): a request that found the walker's FIFO full is sent again. The step's operands: the core and the
lookup. -/
def execWalkResend (s : State) : Host.Outcome State Fault Refusal :=
  match (s.core s.pick.a).lookups[s.pick.b]? with
  | none => .next s
  | some l =>
    match l.stage with
    | .refused t => if s.tick < t then .next s else .next (setLookup s s.pick.a s.pick.b { l with stage := .second })
    | _ => .next s

/-- The first request of the walker's FIFO begins its walk. -/
def startWalk (ws : List Walk) : List Walk :=
  match ws with
  | [] => []
  | w :: r => if w.live then w :: startWalk r else { w with live := true } :: r

/-- A core of a cluster learns how a walk ended. -/
def Core.walked (k : Core) (w : Walk) (leaf : Option (BitVec 64)) : Core :=
  let waits (l : Lookup) : Bool := l.ctx == w.ctx && l.stage == .walking w.page
  let put (st : LookupStage) : Core := { k with lookups := k.lookups.map (fun l => if waits l then { l with stage := st } else l) }
  if !k.lookups.any waits then k
  else if w.dead then put .second
  else match leaf with
    | none => put .faulted
    | some e =>
      { k with tlb := tlbAdd 256 k.tlb (tlbEntry w.ctx (w.page * 2 ^ 16) e), lookups := k.lookups.filter (fun l => !waits l) }

/-- A walk's end: its leaf is installed, unless it was invalidated, and whoever waits for it learns the end (R175, R178). -/
def endWalk (s : State) (n i : Nat) (w : Walk) (leaf : Option (BitVec 64)) : State :=
  let x := s.clu n
  let tlb2 := match leaf with
    | some e => if w.dead then x.tlb2 else tlbAdd 16384 x.tlb2 (tlbEntry w.ctx (w.page * 2 ^ 16) e)
    | none => x.tlb2
  let s := s.setClu n { x with walks := startWalk (dropAt x.walks i), tlb2 := tlb2 }
  { s with cores := s.cores.map (fun e => if coreCluster e.1 = n then (e.1, e.2.walked w leaf) else e) }

/-- PAGE_WALK (R172, R175): a walk ends; it installs its leaf, or records a fault. The step's operands: the cluster and
the walk. -/
def execPageWalk (s : State) : Host.Outcome State Fault Refusal :=
  match (s.clu s.pick.a).walks[s.pick.b]? with
  | none => .next s
  | some w =>
    if !w.live then .next s
    else match walkRead s w.ctx (w.page * 2 ^ 16) with
      | (_, .held) => .next s
      | (s, .fault) => .next (endWalk s s.pick.a s.pick.b w none)
      | (s, .leaf e _) => .next (endWalk s s.pick.a s.pick.b w (some e))

/-! The watchdog (R100). -/

/-- Whether a wait under a reason, begun at a tick, has lasted too long for its context. -/
def dogBites (s : State) (ctx why since : Nat) : Bool :=
  ctxWdog s ctx != 0 && [4, 5, 6, 7, 8, 9, 10, 11, 13, 24].contains why && s.runTick - since > 2 ^ ctxWdog s ctx

/-- Lanes that a target still waits for. -/
def lanesOwed (s : State) (t : Target) : LaneMask :=
  maskWhere (fun l =>
    s.parked.any (fun p => p.target == t && p.lane.lane == l) ||
    s.tagReqs.any (fun q => q.target == t && q.lanes.any (fun x => x.lane == l)) ||
    s.clusters.any (fun e => e.2.svc.any (fun q => q.target == t && q.lanes.any (fun x => x.lane == l))) ||
    s.replies.any (fun q => q.target == t && q.vals.any (fun x => x.1 == l)))

/-- Tagged lanes of a target no longer wait at their homes. -/
def withdrawTagged (s : State) (t : Target) : State :=
  { s with parked := s.parked.filter (fun p => p.target != t), tagReqs := s.tagReqs.filter (fun q => q.target != t) }

/-- The watchdog trap of some lanes. -/
def dogTrap (x : LaneMask) : TrapRec := { code := trapWatchdog, lanes := x }

/-- An instruction that waits in place traps at its split's boundary, and is asked of no unit any more. -/
def dogInPlace (s : State) (r : SplitRef) : State :=
  let st := s.strand r
  let sp := st.split r.split
  match sp.clause.bind (fun cl => cl.words[cl.pos]?) with
  | none => s
  | some w =>
    let t : Target := { core := r.core, slot := r.slot, split := r.split, id := none }
    let owed := lanesOwed s t
    let eff := (s.view r (Raw.ofWord w).ctl).eff
    if !dogBites s st.ctx sp.stall sp.since || sp.traps.any (fun x => x.trap.code == trapWatchdog && x.site.isNone) then s
    else
      let trap : WaitingTrap := { trap := dogTrap (if owed = 0 then eff else owed), site := none }
      let s := withdrawTagged (s.setSplit r { sp with traps := sp.traps ++ [trap] }) t
      let s := if sp.stall = 11 then withdrawGang s r.core r.slot else s
      let s := if sp.stall = 10 && sp.prog.ask != 0 then withdrawAsk s sp.prog.ask else s
      { s with queues := s.queues.map (fun e => (e.1, { e.2 with handed := e.2.handed.filter (fun h => h.target != t) })) }

/-- A strand's arrival at the barrier of a wait forgotten, unless another of its splits waits there. -/
def withdrawArrival (s : State) (r : SplitRef) (w : Wait) : State :=
  let st := s.strand r
  let others := st.splits.any (fun e => e.1 != r.split && e.2.waits.any (fun y => y.kind == w.kind))
  if others then s
  else match w.kind with
    | .barrier id _ _ =>
      let k := coreCluster r.core
      match crewOf s k id with
      | none => s
      | some ent =>
        let x := crewAt s k ent
        let keep (ph : Phase) : Option Phase :=
          let a := ph.arrived.filter (fun e => e.1 != (r.core, r.slot))
          if a.isEmpty then none else some { ph with arrived := a }
        setCrew s k ent { x with phase := x.phase.bind keep }
    | .launchBar ln _ =>
      match s.launch ln with
      | none => s
      | some x => s.setLaunch ln { x with arrived := x.arrived.filter (fun m => m != (r.core, st.number)) }
    | _ => s

/-- A wait after a clause ends in the trap; an SLU.IN goes on, and the trap waits for its grant (R224). -/
def dogAfter (s : State) (r : SplitRef) (w : Wait) : State :=
  let sp := s.split r
  if !dogBites s (s.strand r).ctx w.kind.reason w.since then s
  else match w.kind with
    | .sluIn _ left _ _ _ =>
      let trap : WaitingTrap := { trap := dogTrap left, site := some (w.pc, w.pos) }
      if sp.traps.any (fun x => x.trap.code == trapWatchdog && x.site == some (w.pc, w.pos)) then s
      else s.setSplit r { sp with traps := sp.traps ++ [trap] }
    | _ => failWait (withdrawArrival s r w) r w (dogTrap w.lanes)

/-- A result whose replies are awaited ends in the trap (R545). -/
def dogPending (s : State) (r : SplitRef) (p : Pending) : State :=
  let st := s.strand r
  if p.owed = 0 || p.fail.isSome || !dogBites s st.ctx p.why p.since then s
  else
    let t : Target := { core := r.core, slot := r.slot, split := p.split, id := some p.id }
    let owed := lanesOwed s t
    let s := s.setStrand r (updPending st p.id (fun q =>
      { q with owed := 0, fail := some (dogTrap (if owed = 0 then p.lanes else owed)) }))
    withdrawTagged s t

/-- WATCHDOG (R100): a wait has lasted longer than 2^WDOG ticks. The step's operands: the split, and whether it waits in
place (0), after its clause in its wait b (1), or for the result b of its strand (2). -/
def execWatchdog (s : State) : Host.Outcome State Fault Refusal :=
  let r := s.pick.ref
  let st := s.strand r
  if st.state != .resident then .next s
  else match s.pick.a with
    | 0 => .next (dogInPlace s r)
    | 1 =>
      match (s.split r).waits[s.pick.b]? with
      | none => .next s
      | some w => .next (dogAfter s r w)
    | _ =>
      match st.results[s.pick.b]? with
      | none => .next s
      | some p => .next (dogPending s r p)

/-! The steward engine (R482). -/

/-- A context's spill area as its descriptor names it (R88). -/
def setSpill (s : State) (x base size : Nat) : State :=
  let key := hubKey (64 * x)
  { s with mem := s.mem.writeNat key 64 (putField (putField (s.mem.readNat key 64) 208 48 base) 203 5 size) }

/-- The record of an index of a context's spill area where it is in use: its index and bits. None while a home holds the
read. -/
def spilledAt (x : Nat) (s : State) (ix : Nat) : State × Option (Option (Nat × Nat)) :=
  match spillRead s x ix with
  | (s, .error .held) => (s, none)
  | (s, .error _) => (s, some none)
  | (s, .ok (_, r)) => (s, some (if r.testBit 0 then some (ix, r) else none))

/-- What a move of spilled keys comes to: all moved, no room for the record of an index, or held by a home, by the page of
an address where that is dump-protected. -/
inductive SpillMove
  | all
  | stopped (ix : Nat)
  | held (page : Option Nat)
  deriving DecidableEq, Repr

/-- Records inserted into a context's area by R219's probe, in order. -/
def respill (x : Nat) : List (Nat × Nat) → State → State × SpillMove
  | [], s => (s, .all)
  | (ix, r) :: rest, s =>
    match spillRoom s x (BitVec.ofNat 64 (r / 2 ^ 64)) with
    | (s, .held) => (s, .held none)
    | (s, .absent) => (s, .stopped ix)
    | (s, .found p _) =>
      match spillWrite s p r with
      | (s, some .held) => (s, .held (if p.dp then some p.va else none))
      | (s, some _) => (s, .stopped ix)
      | (s, none) => respill x rest s

/-- The move of a context's spilled keys to a new area (R482); none while a home holds it, with what that leaves. -/
def moveSpill (s : State) (x base size : Nat) : State × Option (Nat × Word) :=
  match collect (spilledAt x) s (List.range (spillCount s x)) with
  | (s, none) => (s, none)
  | (t, some rs) =>
    let rs := rs.filterMap id
    match respill x rs (setSpill t x base size) with
    | (t, .all) => (t, some (0, BitVec.ofNat 32 rs.length))
    | (t, .stopped ix) => (setSpill t x (ctxSpillBase s x) (ctxSpillSz s x), some (3, BitVec.ofNat 32 ix))
    | (_, .held page) => (match page with | some va => dumpStall s x va | none => s, none)

/-- STW.KEYSPILL (R482): its move is one step, made as it is accepted; a move that a home holds is not accepted yet
(log 167). -/
def execStwKeyspill (c : Ctl) (h : Option (BitVec 4)) (a b : BitVec 5) (s : State) :=
  run (.stwKeyspill c h a b) c s fun v s =>
    withRoom v s false h fun s =>
      let base := (v.pairVal a).toNat
      let opts := (v.pairVal b).toNat
      let size := opts % 32
      let x := opts / 2 ^ 8 % 64
      if base ≥ 2 ^ 48 || base % 4096 != 0 || opts / 32 % 8 != 0 || opts / 2 ^ 14 != 0 ||
          !(size == 0 || (10 ≤ size && size ≤ 26)) then .trap v.illegal s
      else
        let done (s : State) (status : Nat) (word : Word) : Res :=
          let (s, hd) := grantHandle v s 15 h
          .done (completeHandle s hd status word)
        if (s.ctx x).state == .free || (s.ctx x).state == .dead then done s 3 0
        else match moveSpill s x base size with
          | (s, none) => .stay 22 s
          | (s, some (status, word)) => done s status word

/-- STW.DUMP (R482, R527); its buffer's length is read as it is accepted (log 167). -/
def execStwDump (c : Ctl) (h : Option (BitVec 4)) (a b : BitVec 5) (s : State) :=
  run (.stwDump c h a b) c s fun v s =>
    withRoom v s false h fun s =>
      let x := (v.pairVal a).toNat
      let buf := (v.pairVal b).toNat
      if x ≥ 64 || buf ≥ 2 ^ 48 || buf % 4096 != 0 then .trap v.illegal s
      else
        let st := (s.ctx x).state
        let (s', hd) := grantHandle v s 15 h
        if !(st == .active || st == .suspended || st == .faulted) then .done (completeHandle s' hd 3 0)
        else match agentRead s' (hostKey buf) {} true 2 8 with
          | (_, .error .held) => .stay 22 s
          | (s, .error _) => .done (completeHandle s hd 3 0)
          | (s, .ok (bs, _)) => .done (beginDump s x (some buf) (leNat bs) hd)

/-! The copies of a dump (R181, R527). -/

/-- A granule's bytes before those of the rest of a page, with the worse of what went wrong. -/
def thenBytes (bs : List Byte) (st : Nat) (r : State × Except HomeFail (List Byte × Nat)) :
    State × Except HomeFail (List Byte × Nat) :=
  match r with
  | (s, .ok (rest, st')) => (s, .ok (bs ++ rest, max st st'))
  | x => x

/-- A page's bytes as a dump copies them, granule by granule: with them what went wrong as a status, CE or UC_PARTIAL
(R189, R477; log 168); or why the page is not copied. A stack that has failed gives no data (R183): open bytes. -/
def dumpBytes (s : State) (key : Nat) (via : Via) : Nat → State × Except HomeFail (List Byte × Nat)
  | 0 => (s, .ok ([], 0))
  | n + 1 =>
    match keyFail s key via false with
    | some .uc =>
      let (s, f) := s.draw
      thenBytes (freeBytes f) 2 (dumpBytes s (key + 32) via n)
    | some f => (s, .error f)
    | none =>
      if isDram key then
        match granRead s (granOf key) via.grade with
        | (s, bs, r) => thenBytes bs (match r with | .ok => 0 | .ce => 1 | .uc => 2) (dumpBytes s (key + 32) via n)
      else thenBytes (s.mem.readList key 32) 0 (dumpBytes (crossPeer s key (.load (keyAddr key) 32 via)) (key + 32) via n)

/-- Host bytes of a dump's image; without a buffer nothing is written. -/
def dumpPut (s : State) (d : DumpJob) (o : Nat) (bs : List Byte) : State × Option HomeFail :=
  match d.buf with
  | none => (s, none)
  | some b => agentWrite s (hostKey (b + o)) {} true (spanFuel bs.length) bs

/-- A dump is over: the context is in its remembered state, and a RESET or KILL that waited takes effect (R90). -/
def endDump (s : State) (x : Nat) (d : DumpJob) (status : Nat) : State :=
  let y := s.ctx x
  let s := completeHandle s d.handle status (BitVec.ofNat 32 (min d.copied (2 ^ 32 - 1)))
  let s := setCtxState (s.setCtx x { y with dump := none, dumpWant := [] }) x y.before
  match y.held with
  | none => s
  | some dead => beginDrain s x dead

/-- Every leaf of a context without DP, and its entries invalidated. While a home holds a read of the tables, nothing is
done yet. -/
def clearAllDp (s : State) (x : Nat) : State × Bool :=
  match leavesOf s x with
  | (s, none) => (s, false)
  | (s, some es) => (invalidate (es.foldl (markLeaf false) s) (fun c _ _ => c == x), true)

/-- A dump over with a status, its protection lifted; while a home holds the tables, the last part waits. -/
def closeDump (s : State) (x : Nat) (d : DumpJob) (status : Nat) : State :=
  match clearAllDp s x with
  | (s, false) => s
  | (s, true) => endDump s x d status

/-- A dump ends without an image: DONE stays 0 (R527). -/
def failDump (s : State) (x : Nat) (d : DumpJob) (status : Nat) : State :=
  closeDump (s.setCtx x { s.ctx x with dump := some { d with stage := 3, status := status } }) x d status

/-- The status that a failed access of the dump ends it with. -/
def HomeFail.dumpStatus (f : HomeFail) : Nat := if f = .guard then 5 else 3

/-- The fields of an image before its pages (R527): after the length, 8 bytes each of instant, pages and DONE, then
context and remembered state, the descriptor and the tid table. -/
def dumpHeader (s : State) (x : Nat) (d : DumpJob) : List Byte :=
  let y := s.ctx x
  leBytes 8 (d.instant.getD 0) ++ leBytes 8 d.copied ++ leBytes 8 0 ++
    leBytes 32 (x + y.before.code * 2 ^ 8) ++ s.mem.readList (hubKey (64 * x)) 64 ++
    (List.range 1024).flatMap (fun i => leBytes 64 (y.tids.get 0 i).toNat)

/-- A dump's last bytes: the image's fields, and then DONE. -/
def finishDump (s : State) (x : Nat) (d : DumpJob) : State :=
  if d.buf.isSome && d.len < 0x10080 then failDump s x d 3
  else match dumpPut s d 8 (dumpHeader s x d) with
    | (s, some .held) => s
    | (s, some f) => failDump s x d f.dumpStatus
    | (s, none) =>
      match dumpPut s d 0x18 (leBytes 8 1) with
      | (s, some .held) => s
      | (s, some f) => failDump s x d f.dumpStatus
      | (s, none) => failDump s x d d.status

/-- A page's copy is over: DP is cleared and its entries are invalidated. -/
def pageDone (s : State) (x va n : Nat) (d : DumpJob) : State :=
  let s := clearDp s x va
  let y := s.ctx x
  s.setCtx x { y with
    dumpWant := y.dumpWant.filter (fun p => !(va ≤ p * 2 ^ 16 && p * 2 ^ 16 < va + n))
    dump := some { d with todo := d.todo.filter (fun p => p != va) } }

/-- A page's copy: its bytes are read, and its record is written. A page without a leaf any more is passed over. -/
def copyPage (s : State) (x va : Nat) (d : DumpJob) : State :=
  match walkRead s x va with
  | (s, .held) => s
  | (s, .fault) => pageDone s x va (2 ^ 16) d
  | (s, .leaf e _) =>
    let n := leafBytes e
    let o := 0x10080 + d.used
    if d.buf.isSome && o + 64 + n > d.len then failDump s x d 3
    else match dumpBytes s (leafKey e va) (leafVia e x) (n / 32) with
      | (s, .error .held) => s
      | (s, .error f) => failDump s x d f.dumpStatus
      | (s, .ok (bs, st)) =>
        match dumpPut s d o (leBytes 8 va ++ leBytes 8 e.toNat ++ List.replicate 48 0 ++ bs) with
        | (s, some .held) => s
        | (s, some f) => failDump s x d f.dumpStatus
        | (s, none) => pageDone s x va n { d with copied := d.copied + 1, used := d.used + 64 + n, status := max d.status st }

/-- The dump's releases begin once no access under a protected page's old leaf is left (R178, R181). -/
def dumpReleases (s : State) (x : Nat) (d : DumpJob) : State :=
  if accessesLeft s (some x) then s
  else
    let s := (s.cores.keys.filter (fun c => tenantAt s c x)).foldl (fun s c => releaseMoves s c .sys) s
    s.setCtx x { s.ctx x with dump := some { d with stage := 2 } }

/-- The dump instant: the releases at .sys of the dump are over (R181); a refusal that one collected makes the context
Faulted, the dump going on (R543). -/
def dumpInstant (s : State) (x : Nat) (d : DumpJob) : State :=
  if s.cores.keys.any (fun c => tenantAt s c x && !releaseOver s c .sys) then s
  else
    let s := ((List.range 8).filter (fun k => (s.clu k).tenant == some x)).foldl (fun s k => faultRefused s k x) s
    s.setCtx x { s.ctx x with dump := some { d with instant := some s.tick } }

/-- The page of a dump copied next (R181): one that a writer waits for, else the lowest; a wanted page that is not to be
copied any more is free to be written. -/
def dumpNext (s : State) (x : Nat) (d : DumpJob) : State :=
  let y := s.ctx x
  match y.dumpWant with
  | p :: ps =>
    let va := p * 2 ^ 16
    let size := match walkLeaf s x va with | some (e, _) => leafBytes e | none => 2 ^ 16
    match d.todo.find? (fun q => q ≤ va && va < q + size) with
    | some q => copyPage s x q d
    | none => clearDp (s.setCtx x { y with dumpWant := ps }) x va
  | [] =>
    match d.todo with
    | q :: _ => copyPage s x q d
    | [] => finishDump s x d

/-- DUMP_PAGE_COPY (R181, R527): a step of a dump: its protection, its releases, its instant, a page's copy, or its end.
The step's operand: the context. -/
def execDumpPageCopy (s : State) : Host.Outcome State Fault Refusal :=
  let x := s.pick.a % 64
  match (s.ctx x).dump with
  | none => .next s
  | some d =>
    if (s.ctx x).state != .dumping then .next s
    else match d.stage with
      | 0 => .next (protectPages s x)
      | 1 => .next (dumpReleases s x d)
      | 2 => if d.instant.isNone then .next (dumpInstant s x d) else .next (dumpNext s x d)
      | _ => .next (closeDump s x d d.status)

end Sys2Proof.Machine
end

