-- ==== Sys2Proof/Machine/Stacks.lean ====
section
/-! DEFINITION. Stacks: training and failure (10 R183), writes of their base dies' registers and tables (R182, R192, R193),
and bits that flip in the array (R188). -/
namespace Sys2Proof.Machine

/-- STACK_TRAINING_START (R183): the firmware starts training a stack; outside test mode its channels' LFSRs are seeded
from an entropy source (R192). The step's operand: the stack. -/
def execStackTrainingStart (s : State) : Host.Outcome State Fault Refusal :=
  let i := s.pick.a % 8
  let x := s.stack i
  if x.state != .off || !(s.dev.state == .training || s.serving) then .next s
  else
    let (s, n) := s.draw
    let seeds := if x.nrcfg.getLsbD 31 then x.lfsr
      else (List.range 32).map (fun ch => (ch, lfsrSeed (Config.freeWord (32 * n + ch)).toNat 0))
    .next (s.setStack i { x with state := .training, lfsr := seeds })

/-- STACK_TRAINING_PASS (R183): a stack is Up, and requests held for it are taken from then on. -/
def execStackTrainingPass (s : State) : Host.Outcome State Fault Refusal :=
  let i := s.pick.a % 8
  let x := s.stack i
  .next (if x.state == .training then s.setStack i { x with state := .up } else s)

/-- STACK_TRAINING_FAIL (R183): the stack has failed, and the Grielm controller reports it. -/
def execStackTrainingFail (s : State) : Host.Outcome State Fault Refusal :=
  let i := s.pick.a % 8
  let x := s.stack i
  .next (if x.state == .training then s.setStack i { x with state := .failed, reported := some .failed } else s)

/-- STACK_INTERFACE_FAIL (R183): every outstanding packet of the stack replies UC. -/
def execStackInterfaceFail (s : State) : Host.Outcome State Fault Refusal :=
  let i := s.pick.a % 8
  let x := s.stack i
  if !(x.state == .up || x.state == .degraded) then .next s
  else
    let s := s.setStack i { x with state := .failed }
    .next { s with pkts := s.pkts.map (fun p =>
      if p.stack = i && !p.done && (match p.kind with | .nmc => false | _ => true) then
        { p with done := true, status := stUc, reply := [] } else p) }

/-- NRCFG_WRITE (R192). The step's operands: the stack and the value. -/
def execNrcfgWrite (s : State) : Host.Outcome State Fault Refusal := .next (writeNrcfg s (s.pick.a % 8) s.pick.word)

/-- CECOUNT_WRITE (R182, R183). The step's operand: the stack. -/
def execCecountWrite (s : State) : Host.Outcome State Fault Refusal := .next (writeCecount s (s.pick.a % 8))

/-- UCCOUNT_WRITE (R182). The step's operand: the stack. -/
def execUccountWrite (s : State) : Host.Outcome State Fault Refusal := .next (writeUccount s (s.pick.a % 8))

/-- PAT_WRITE (R193). The step's operands: the stack, the entry and its value. -/
def execPatWrite (s : State) : Host.Outcome State Fault Refusal :=
  .next (writePat s (s.pick.a % 8) (s.pick.b % 8192) (s.pick.c % 2 ^ 16))

/-- SOFT_ERROR (R188): stored bits of a granule flip. The step's operands: the granule, and the 256 data bits and 32
side-band bits that flip. -/
def execSoftError (s : State) : Host.Outcome State Fault Refusal :=
  let g := s.pick.a % 2 ^ 34
  let p := s.flips.get 0 g ^^^ s.pick.wide.extractLsb' 0 288
  .next { s with flips := if p = 0 then s.flips.del g else s.flips.set g p }

end Sys2Proof.Machine
end

