-- ==== Sys2Proof/Machine/Link.lean ====
section
/-! DEFINITION. The management space that peers and masters read and write (27 R531, R535-R539) as far as a write acts at
once, what arrives over peer links (25 R507-R511, R514, R515), and the states of links (R512, R513). -/
namespace Sys2Proof.Machine

/-! The management space (R536). -/

/-- The codes of device states (R531). -/
def DState.code : DState → Nat
  | .off => 0
  | .rom => 1
  | .verifying => 2
  | .training => 3
  | .early => 4
  | .full => 5

/-- The management register (R531). -/
def mgmtWord (s : State) : Nat := s.dev.holder * 2 ^ 24 + s.dev.pend * 2 ^ 16 + s.dev.result * 2 ^ 12 + s.dev.state.code

/-- RESULT after a command or a management write. -/
def setResult (s : State) (x : Nat) : State := { s with dev := { s.dev with result := x } }
def resOk : Nat := 0
def resBadImage : Nat := 1
def resNotCrown : Nat := 2
def resBadState : Nat := 3
def resTimeout : Nat := 4
def resBadCmd : Nat := 5

/-- The key of a byte of the firmware image window (R531, R532). -/
def imageKey (a : Nat) : Nat := 5 * spaceSize + a

/-- Whether a master code is one of the listed ones (R537). -/
def isMaster (m : Nat) : Bool := m ≤ 1 || (0x20 ≤ m && m ≤ 0x3F)

/-- The mailbox of a master (R536). -/
def boxOf (m : Nat) : Nat := if m = 0 then 0 else if m = 1 then 1 else 2

/-- A command of MGCMD from a master (R535, R537). -/
def mgCommand (s : State) (m : Nat) (w : BitVec 64) : State :=
  let d := s.dev
  let arg := (w.extractLsb' 32 32).toNat
  let cmd := (w.extractLsb' 0 8).toNat
  let early := d.state == .off || d.state == .rom || d.state == .verifying
  if w.extractLsb' 8 24 != 0 || cmd = 0 || cmd > 5 || (cmd != 3 && arg != 0) || (cmd == 3 && !isMaster arg) ||
      (cmd == 1 && m != 0) then setResult s resBadCmd
  else match cmd with
    | 1 => if d.state == .rom then { s with dev := { d with state := .verifying, result := resOk } } else setResult s resBadState
    | 2 =>
      if early then setResult s resBadState
      else if d.holder = 0xFF then { s with dev := { d with holder := m, result := resOk } }
      else setResult s resNotCrown
    | 3 =>
      if d.holder = m then { s with dev := { d with pend := arg, pendTick := s.tick, result := resOk } }
      else setResult s resNotCrown
    | 4 =>
      if d.pend = m then { s with dev := { d with holder := m, pend := 0xFF, result := resOk } }
      else setResult s resNotCrown
    | _ =>
      if d.holder = m then { s with dev := { d with holder := 0xFF, pend := 0xFF, result := resOk } }
      else setResult s resNotCrown

/-- A handover that has been pending for 2^30 ticks lapses (R535). -/
def lapse (s : State) : State :=
  if s.dev.pend = 0xFF || s.tick < s.dev.pendTick + 2 ^ 30 then s
  else { s with dev := { s.dev with pend := 0xFF, result := resTimeout } }

/-- Whether the arbiter has already taken a command of a higher master in this tick, which a master's command would have gone
before (R535). -/
def crownPast (s : State) (m : Nat) : Bool :=
  match s.dev.crownAt with
  | some (t, m') => t == s.tick && m < m'
  | none => false

/-- The crown arbiter takes a command of MGCMD (R535), after a lapse that is due. -/
def crownTakes (s : State) (m : Nat) (w : BitVec 64) : State :=
  let s := lapse s
  mgCommand { s with dev := { s.dev with crownAt := some (s.tick, m) } } m w

/-- DEVNO written by a master (R538). -/
def writeDevno (s : State) (m : Nat) (w : Word) : State :=
  if s.dev.holder != m then setResult s resNotCrown
  else if (List.range 24).any (fun i => (s.link i).state != .down) then setResult s resBadState
  else { s with dev := { s.dev with devno := w &&& 0x8000001F, result := resOk } }

/-- A box of requests. -/
def State.box (s : State) (i : Nat) : Mailbox := s.dev.boxes.get {} i
def State.setBox (s : State) (i : Nat) (x : Mailbox) : State := { s with dev := { s.dev with boxes := s.dev.boxes.set i x } }

/-- The CODE values (R539). -/
def codeOk : Nat := 0
def codeNotCrown : Nat := 1
def codeBadOp : Nat := 2
def codeBadArg : Nat := 3
def codeExhausted : Nat := 4
def codeNoIdentity : Nat := 5
def codeNotReady : Nat := 6

/-- Whether the device can serve mailbox requests: DSTATE is Training or above. -/
def boxesReady (s : State) : Bool := s.dev.state == .training || s.serving

/-- A request is served: its reply and status are written, and BUSY falls (R539). -/
def answer (s : State) (i code : Nat) (reply : List Byte) : State :=
  let x := s.box i
  s.setBox i { x with
    busy := false, seq := (x.cmd.extractLsb' 8 8).toNat, code := code, from_ := x.master
    rlen := if code = 0 then reply.length else 0, rpl := if code = 0 && !reply.isEmpty then reply else x.rpl }

/-- A write of MBCMD (R539); an OP that the table does not list is answered at once. -/
def writeMbcmd (s : State) (i m : Nat) (w : BitVec 64) : State :=
  let x := s.box i
  if x.busy then s
  else
    let (s, n) := s.fresh
    let s := s.setBox i { x with busy := true, order := n, cmd := w, master := m }
    let op := (w.extractLsb' 0 8).toNat
    if 1 ≤ op && op ≤ 6 then s else answer s i (if boxesReady s then codeBadOp else codeNotReady) []

/-- A byte of the management space as a master reads it. -/
def barByte (s : State) (m o : Nat) : Byte :=
  let part (x n : Nat) : Byte := BitVec.ofNat 8 (x / 2 ^ (8 * n))
  if o < 4 then part (mgmtWord s) o
  else if 0x10 ≤ o && o < 0x14 then part s.dev.devno.toNat (o - 0x10)
  else if 0x18 ≤ o && o < 0x1C then part s.dev.imglen (o - 0x18)
  else if 0x2000 ≤ o && o < 0x8000 && o / 0x2000 - 1 == boxOf m then
    let x := s.box (boxOf m)
    let j := o % 0x2000
    if 8 ≤ j && j < 16 then
      part ((if x.busy then 1 else 0) + x.seq * 2 ^ 8 + x.code * 2 ^ 16 + x.from_ * 2 ^ 24 + x.rlen * 2 ^ 32) (j - 8)
    else if 0x40 ≤ j && j < 0x800 then x.req.get 0 (j - 0x40)
    else if 0x800 ≤ j then x.rpl.getD (j - 0x800) 0
    else 0
  else 0

/-- Bytes of the management space. -/
def barRead (s : State) (m o n : Nat) : List Byte := (List.range n).map (fun i => barByte s m (o + i))

/-- A write of a master at an offset of the management space; offsets without a register, other masters' mailboxes, and
accesses of another width than the register's discard it. -/
def barWrite (s : State) (m o : Nat) (bs : List Byte) : State :=
  let n := bs.length
  let x := leNat bs
  if o = 8 && n = 8 then crownTakes s m (BitVec.ofNat 64 x)
  else if o = 0x10 && n = 4 then writeDevno s m (BitVec.ofNat 32 x)
  else if o = 0x18 && n = 4 then
    if s.dev.state == .rom then { s with dev := { s.dev with imglen := x % 2 ^ 25 } } else s
  else if 0x2000 ≤ o && o < 0x8000 && o / 0x2000 - 1 == boxOf m then
    let i := boxOf m
    let j := o % 0x2000
    if j = 0 && n = 8 then writeMbcmd s i m (BitVec.ofNat 64 x)
    else if 0x40 ≤ j && j + n ≤ 0x800 then
      let b := s.box i
      s.setBox i { b with req := bs.zipIdx.foldl (fun (t : Tab Byte) e => t.set (j - 0x40 + e.2) e.1) b.req }
    else s
  else if 0x1000000 ≤ o && o + n ≤ 0x2000000 then
    if s.dev.state == .rom then { s with mem := s.mem.writeList (imageKey (o - 0x1000000)) bs } else s
  else s

/-- Where peers reach the management space (R536). -/
def peerBar : Nat := 0x7FFF0000000000

/-! What a peer's packet does here (R506, R510, R514). -/

/-- Whether a page of a dump still holds writes of the host and of peers at an address (R180); such a page is wanted next
(R181). -/
def dumpHolds (s : State) (pa : Nat) : State × Bool :=
  let covers (e : Nat × Nat × BitVec 64) : Bool := leafDp e.2.2 && leafW e.2.2 && leafTgt e.2.2 == 0 &&
    leafFrame e.2.2 * 2 ^ 16 ≤ pa && pa < leafFrame e.2.2 * 2 ^ 16 + leafBytes e.2.2
  ((List.range 64).filter (fun x => (s.ctx x).state == .dumping)).foldl (fun acc x =>
    match leavesOf acc.1 x with
    | (s, none) => (s, true)
    | (s, some es) =>
      match es.find? covers with
      | none => (s, acc.2)
      | some e => (dumpStall s x (e.1 / leafBytes e.2.2 * leafBytes e.2.2 + (pa - leafFrame e.2.2 * 2 ^ 16)), true)) (s, false)

/-- The same for several addresses. -/
def dumpHoldsAny (s : State) (pas : List Nat) : State × Bool :=
  pas.foldl (fun acc pa => let (s, h) := dumpHolds acc.1 pa; (s, acc.2 || h)) (s, false)

/-- Bytes of device DRAM. -/
def dramSize : Nat := 2 ^ 39

/-- The peer whose bundle a port belongs to. -/
def portPeer (s : State) (i : Nat) : Option Nat := (List.range 32).find? (fun p => (bundlePorts s p).contains i)

/-- The status of a peer's request that its home refuses (R185). -/
def HomeFail.status : HomeFail → Nat
  | .guard => stGuard
  | _ => stUc

/-- A lane of a peer's atomic at this device's DRAM. -/
def localLane (l : ReqLane) : ReqLane := { l with key := dramKey (keyAddr l.key) }

/-- A packet of a peer performed at its home, and whether it is: a home or a dump may hold it. -/
def peerPerform (s : State) (p : Nat) (f : Flit) : State × Bool :=
  let reply (s : State) (status : Nat) (bs : List Byte) : State × Bool := (sendFlit s p 1 f.tag (.reply status bs), true)
  match f.body with
  | .reply .. => (s, true)
  | .store addr via bs =>
    if peerBar ≤ addr && addr < peerBar + 2 ^ 25 then
      if addr = peerBar + 8 && crownPast s (0x20 + p) then (s, false)
      else reply (barWrite s (0x20 + p) (addr - peerBar) bs) stOk []
    else if addr + bs.length > dramSize then reply s stFault []
    else match dumpHolds s addr with
      | (s, true) => (s, false)
      | (s, false) =>
        match agentWrite s (dramKey addr) via false (spanFuel bs.length) bs with
        | (_, some .held) => (s, false)
        | (s, some e) => reply s e.status []
        | (s, none) => reply s stOk []
  | .load addr n via =>
    if peerBar ≤ addr && addr < peerBar + 2 ^ 25 then reply s stOk (barRead s (0x20 + p) (addr - peerBar) n)
    else if addr + n > dramSize then reply s stFault []
    else match agentRead s (dramKey addr) via false (spanFuel n) n with
      | (_, .error .held) => (s, false)
      | (s, .error e) => reply s e.status []
      | (s, .ok (bs, _)) => reply s stOk bs
  | .atomic q =>
    if q.lanes.any (fun l => keyAddr l.key + 8 > dramSize) then reply s stFault []
    else match dumpHoldsAny s (q.lanes.map (fun l => keyAddr l.key)) with
      | (s, true) => (s, false)
      | (s, false) =>
        let t : Target := { core := remoteCore + p, slot := 0, split := 0, id := some f.tag }
        ((splitRequests (q.lanes.map localLane)).foldl (fun s e =>
          enqueueAtom s e.1 { q with target := t, ctx := 64, lanes := e.2 }) s, true)

/-! Data flits (R508-R511). -/

/-- The next flit that a peer's reorder stage releases on a VC. -/
def nextHeld (b : Bundle) (vc : Nat) : Option Flit := b.held.find? (fun f => f.vc == vc && f.bseq == b.rx.get 0 vc)

/-- The reorder stage releases flits of a VC in BSEQ order while their packets can be performed. -/
def releaseHeld (s : State) (p vc : Nat) : Nat → State
  | 0 => s
  | n + 1 =>
    let b := s.bundle p
    match nextHeld b vc with
    | none => s
    | some f =>
      match peerPerform s p f with
      | (s, false) => s
      | (s, true) =>
        let b := s.bundle p
        let b := { b with rx := b.rx.set vc (f.bseq + 1), held := b.held.filter (fun g => g != f) }
        releaseHeld { s with bundles := s.bundles.set p b } p vc n

/-- Flits held for a VC of a peer (R509, R510). -/
def heldCount (b : Bundle) (vc : Nat) : Nat := b.held.countP (fun f => f.vc == vc)

/-- XOFF sent to a peer at 48 flits held for a VC, XON at 16 (R509). -/
def flowControl (s : State) (p vc : Nat) : State :=
  let n := heldCount (s.bundle p) vc
  (bundlePorts s p).foldl (fun s i =>
    let x := s.link i
    if n ≥ 48 then s.setLink i { x with xoffOut := insertNat x.xoffOut vc }
    else if n ≤ 16 then s.setLink i { x with xoffOut := x.xoffOut.filter (· != vc) }
    else s) s

/-- One flit of an Isolated port sent again on a port of its bundle that takes it, with its BSEQ and a new SEQ (R511). -/
def resendFlit (s : State) (p : Nat) (f : Flit) : Option State :=
  let ports := (bundlePorts s p).filter (fun j => (s.link j).takes f.vc)
  (ports[f.bseq.toNat % (if ports.length = 0 then 1 else ports.length)]?).map (fun j =>
    let x := s.link j
    s.setLink j { x with
      txSeq := x.txSeq + 1, buffer := x.buffer ++ [{ f with seq := x.txSeq, ack := x.rxSeq - 1 }]
      ackTick := if x.buffer.isEmpty then s.tick else x.ackTick })

/-- The flits of a bundle that still have to be sent again, in order, as far as its ports take them (R508, R511). -/
def resendLeft (s : State) (p : Nat) : State :=
  let (s, left) := (s.bundle p).again.foldl (fun (acc : State × List Flit) f => match resendFlit acc.1 p f with
    | some s => (s, acc.2)
    | none => (acc.1, acc.2 ++ [f])) (s, [])
  { s with bundles := s.bundles.set p { s.bundle p with again := left } }

/-- A port has room again, or carries traffic again: what its bundle still has to send goes first. -/
def portOpens (s : State) (i : Nat) : State :=
  match portPeer s i with
  | some p => if (s.bundle p).again.isEmpty then s else resendLeft s p
  | none => s

/-- A port's replay buffer loses the flits that an ACK covers (R508). -/
def takeAck (s : State) (i : Nat) (ack : BitVec 14) : State :=
  let x := s.link i
  match x.buffer.findIdx? (fun f => f.seq == ack) with
  | none => s
  | some n => portOpens (s.setLink i { x with buffer := x.buffer.drop (n + 1), ackTick := s.tick, replays := 0 }) i

/-- Whether a flit is dropped as it arrives: a bad CRC, a reserved field (R507), or a link that carries nothing. -/
def flitBad (s : State) (i : Nat) (f : Flit) : Bool := !f.crcOk || f.resv || f.vc > 2 || !(s.link i).flows

/-- A port in Training that hears its own device's number is Isolated (R538). -/
def sameNumber (s : State) (i : Nat) (f : Flit) : Bool :=
  (s.link i).state == .training && f.crcOk && !f.resv && f.src.toNat == ownNumber s

/-- A data flit accepted in SEQ order (R508) and passed to the reorder stage, which discards what it has released or
holds already (R511). -/
def acceptFlit (s : State) (i p : Nat) (f : Flit) : State :=
  let x := s.link i
  let s := s.setLink i { x with rxSeq := x.rxSeq + 1 }
  let b := s.bundle p
  let ahead := (f.bseq - b.rx.get 0 f.vc).toNat
  if ahead ≥ 2 ^ 13 || b.held.any (fun g => g.vc == f.vc && g.bseq == f.bseq) then s
  else
    let s := { s with bundles := s.bundles.set p { b with held := b.held ++ [f] } }
    flowControl (releaseHeld s p f.vc 64) p f.vc

/-- FLIT_DATA (R508-R511): a data flit reaches a port, or held flits are tried again. The step's operands: the port and
the flit; without one, the peer and the VC. -/
def execFlitData (s : State) : Host.Outcome State Fault Refusal :=
  let i := s.pick.a % 24
  match s.pick.flit with
  | none =>
    let p := s.pick.b % 32
    let vc := s.pick.c % 3
    .next (flowControl (releaseHeld s p vc 64) p vc)
  | some f =>
    if sameNumber s i f then .next (s.setLink i { s.link i with state := .isolated })
    else if flitBad s i f then .next s
    else
      let s := takeAck s i f.ack
      match portPeer s i with
      | none => .next s
      | some p =>
        if f.seq != (s.link i).rxSeq || heldCount (s.bundle p) f.vc ≥ 64 then .next s else .next (acceptFlit s i p f)

/-- FLIT_ACK (R508): an ack flit frees the replay buffer. The step's operands: the port and the flit. -/
def execFlitAck (s : State) : Host.Outcome State Fault Refusal :=
  let i := s.pick.a % 24
  match s.pick.flit with
  | none => .next s
  | some f => if flitBad s i f then .next s else .next (takeAck s i f.ack)

/-- FLIT_FLOW_CONTROL (R509): an XOFF or an XON for a VC. The step's operands: the port, the flit, and whether it says
XOFF. -/
def execFlitFlowControl (s : State) : Host.Outcome State Fault Refusal :=
  let i := s.pick.a % 24
  match s.pick.flit with
  | none => .next s
  | some f =>
    if flitBad s i f then .next s
    else
      let s := takeAck s i f.ack
      let x := s.link i
      .next (portOpens (s.setLink i { x with
        xoffIn := if s.pick.flag then insertNat x.xoffIn f.vc else x.xoffIn.filter (· != f.vc) }) i)

/-! The tick of a linked set (R515). -/

/-- FLIT_TICK (R515): the tick master's flit corrects the tick by at most one in 2^16 ticks. The step's operands: the port,
the flit, and the sign of the offset estimated: 1 the tick is behind, 2 it is ahead. -/
def execFlitTick (s : State) : Host.Outcome State Fault Refusal :=
  let i := s.pick.a % 24
  match s.pick.flit with
  | none => .next s
  | some f =>
    if flitBad s i f || tickMaster s == ownNumber s || portPeer s i != some (tickMaster s) ||
        s.tick < s.dev.fixTick + 2 ^ 16 then .next s
    else
      let fixed (s : State) : State := { s with dev := { s.dev with fixTick := s.tick } }
      match s.pick.b with
      | 1 => if s.tick ≥ s.hbTick + 256 then .next s else .next (fixed { s with tick := s.tick + 1 })
      | 2 => .next (fixed { s with dev := { s.dev with slowTick := true } })
      | _ => .next s

/-- TICK_FLIT_SEND (R515): every 2^16 ticks a port sends a tick flit. The step's operand: the port. -/
def execTickFlitSend (s : State) : Host.Outcome State Fault Refusal :=
  let i := s.pick.a % 24
  let x := s.link i
  .next (if x.flows && s.tick ≥ x.lastTick + 2 ^ 16 then s.setLink i { x with lastTick := s.tick } else s)

/-! Link states (R512). -/

/-- Whether another port of a bundle has carried traffic since its BSEQ began. -/
def bundleLives (s : State) (i : Nat) : Bool :=
  match portPeer s i with
  | none => false
  | some p => (bundlePorts s p).any (fun j => j != i && ((s.link j).flows || (s.link j).state == .retraining || (s.link j).state == .training))

/-- LINK_REPLAY_TIMEOUT (R508, R512): ACK has not advanced for 2048 ticks and the sender sends again; after 8 replays of the
same flit the link retrains. The step's operand: the port. -/
def execLinkReplayTimeout (s : State) : Host.Outcome State Fault Refusal :=
  let i := s.pick.a % 24
  let x := s.link i
  if !x.flows || x.buffer.isEmpty || s.tick < x.ackTick + 2048 then .next s
  else if x.replays + 1 ≥ 8 then .next (s.setLink i { x with state := .retraining, tries := 0, replays := 0, ackTick := s.tick })
  else .next (s.setLink i { x with replays := x.replays + 1, ackTick := s.tick })

/-- LINK_ENABLE (R512): the steward enables a peer port while DEVNO is valid, or firmware trains the host port. SEQ starts
at 0, and BSEQ with the bundle's first port. The step's operand: the port, 24 for the host's. -/
def execLinkEnable (s : State) : Host.Outcome State Fault Refusal :=
  let i := s.pick.a % 25
  if (s.link i).state != .down || (i < 24 && !s.dev.devno.getLsbD 31) then .next s
  else
    let s' := s.setLink i { state := .training, ackTick := s.tick, lastTick := s.tick }
    match (if i < 24 then portPeer s i else none) with
    | none => .next s'
    | some p => .next (if bundleLives s i then s' else { s' with bundles := s'.bundles.del p })

/-- LINK_DISABLE (R512): an Isolated port goes Down. The step's operand: the port. -/
def execLinkDisable (s : State) : Host.Outcome State Fault Refusal :=
  let i := s.pick.a % 25
  .next (if (s.link i).state == .isolated then s.setLink i {} else s)

/-- LINK_TRAINING_PASS (R511, R512): training passes, and a kept buffer is sent again. The step's operands: the port, and
whether only 2 lanes of a peer port passed. -/
def execLinkTrainingPass (s : State) : Host.Outcome State Fault Refusal :=
  let i := s.pick.a % 25
  let x := s.link i
  if !(x.state == .training || x.state == .retraining) || (i = hostPort && s.pick.flag) then .next s
  else .next (portOpens (s.setLink i { x with
    state := if s.pick.flag then .degraded else .up, tries := 0, replays := 0, ackTick := s.tick }) i)

/-- The unacknowledged flits of an Isolated port go to the ports of its bundle that are left (R511). -/
def failOver (s : State) (i p : Nat) : State :=
  let b := s.bundle p
  resendLeft (({ s with bundles := s.bundles.set p { b with again := b.again ++ (s.link i).buffer } } : State).setLink i
    { s.link i with buffer := [] }) p

/-- A split whose release waits for a home that is gone traps (R513). -/
def loseSplit (c : Nat) (h : Home) (sp : Split) : Split :=
  match sp.prog.rel, sp.prog.scope with
  | 1, some sc => if inScope c sc h then { sp with prog := { sp.prog with rel := 3 } } else sp
  | _, _ => sp

/-- The last way to a peer or to the host has failed (R513): its channels' entries are discarded, and releases that wait for
them trap. -/
def loseHome (s : State) (h : Home) : State :=
  { s with cores := s.cores.map (fun e =>
      if e.2.moved.any (fun q => homeOf (64 * q.line) == h) then
        (e.1, { e.2 with
          moved := e.2.moved.filter (fun q => homeOf (64 * q.line) != h)
          slots := e.2.slots.map (fun f => (f.1, { f.2 with splits := f.2.splits.map (fun g => (g.1, loseSplit e.1 h g.2)) })) })
      else e) }

/-- LINK_TRAINING_FAIL (R511-R513): an attempt of a training fails; the third isolates the link. The step's operand: the
port. -/
def execLinkTrainingFail (s : State) : Host.Outcome State Fault Refusal :=
  let i := s.pick.a % 25
  let x := s.link i
  if !(x.state == .training || x.state == .retraining) then .next s
  else if x.tries + 1 < 3 then .next (s.setLink i { x with tries := x.tries + 1 })
  else
    let s := s.setLink i { x with state := .isolated, tries := 0 }
    if i = hostPort then
      let s := loseHome s .host
      .next (s.queues.keys.foldl (fun s q =>
        if (s.queue q).state != .unbound && qHost s q then recordError s q errFault (s.queue q).head.toNat else s) s)
    else match portPeer s i with
      | none => .next s
      | some p =>
        if (bundlePorts s p).any (fun j => (s.link j).flows || (s.link j).state == .retraining) then .next (failOver s i p)
        else .next (loseHome { s with bundles := s.bundles.set p { s.bundle p with again := [] } } (.peer p))

/-- LANE_FAIL (R512): a lane of an Up peer port fails; the replay buffer is kept. The step's operand: the port. -/
def execLaneFail (s : State) : Host.Outcome State Fault Refusal :=
  let i := s.pick.a % 24
  let x := s.link i
  .next (if x.state == .up then s.setLink i { x with state := .degraded } else s)

/-- CXL_LINK_RECOVERY (R512): an error on the host link takes it through Retraining. -/
def execCxlLinkRecovery (s : State) : Host.Outcome State Fault Refusal :=
  let x := s.link hostPort
  .next (if x.state == .up then s.setLink hostPort { x with state := .retraining, tries := 0 } else s)

end Sys2Proof.Machine
end

