-- ==== Sys2Proof/Machine/Sha.lean ====
section
/-! DEFINITION. SHA-256 over bytes: the image hash of R532 (PRESUMED: the specification names the function and not its steps,
log 15). -/
namespace Sys2Proof.Machine

/-! Constants: 32 fraction bits of roots of primes. -/

/-- The prime numbers below a bound. -/
def primesBelow (n : Nat) : List Nat :=
  (List.range n).filter (fun p => 2 ≤ p && (List.range p).all (fun d => d < 2 || p % d != 0))

/-- The greatest number whose power does not exceed a bound, found from bit n - 1 down, above what is found already. -/
def rootBits (power bound : Nat) : Nat → Nat → Nat
  | 0, x => x
  | n + 1, x => rootBits power bound n (if (x + 2 ^ n) ^ power ≤ bound then x + 2 ^ n else x)

/-- The first 32 bits of the fraction of a root of a small prime. -/
def fractionWord (power p : Nat) : Word := BitVec.ofNat 32 (rootBits power (p * 2 ^ (32 * power)) 37 0)

/-- What each of the 64 rounds adds: from the cube roots of the first 64 primes. -/
def roundWords : List Word := (primesBelow 312).map (fractionWord 3)

/-- The chaining value before the first block: from the square roots of the first eight primes. -/
def startWords : List Word := (primesBelow 20).map (fractionWord 2)

/-! Blocks. -/

/-- The XOR of a word turned right by each of some amounts. -/
def turns (ns : List Nat) (x : Word) : Word := ns.foldl (fun acc n => acc ^^^ x.rotateRight n) 0

/-- A window of sixteen words of the message moved on by one. -/
def slideWindow (w : List Word) : List Word :=
  let mix (i : Nat) (ns : List Nat) (n : Nat) : Word := turns ns (w.getD i 0) ^^^ (w.getD i 0 >>> n)
  w.drop 1 ++ [w.headD 0 + mix 1 [7, 18] 3 + w.getD 9 0 + mix 14 [17, 19] 10]

/-- A round: the last four words of each of the two sequences that the compression runs, the latest first, with what the
round adds. -/
def compressRound (x : List Word × List Word) (add : Word) : List Word × List Word :=
  let p (i : Nat) : Word := x.1.getD i 0
  let q (i : Nat) : Word := x.2.getD i 0
  let chosen := q 2 ^^^ (q 0 &&& (q 1 ^^^ q 2))
  let most := (p 0 &&& (p 1 ||| p 2)) ||| (p 1 &&& p 2)
  let t := q 3 + turns [6, 11, 25] (q 0) + chosen + add
  ((t + turns [2, 13, 22] (p 0) + most) :: x.1.take 3, (p 3 + t) :: x.2.take 3)

/-- The rounds of a block over its window. -/
def compress (w : List Word) (x : List Word × List Word) : List Word → List Word × List Word
  | [] => x
  | k :: ks => compress (slideWindow w) (compressRound x (k + w.headD 0)) ks

/-- The number of bytes in order, the first the most significant. -/
def bigEndian (bs : List Byte) : Nat := bs.foldl (fun x b => 256 * x + b.toNat) 0

/-- n words of a number, the most significant first. -/
def blockWords (n x : Nat) : List Word := (List.range n).map (fun i => BitVec.ofNat 32 (x / 2 ^ (32 * (n - 1 - i))))

/-- The chaining value after a block of 64 bytes. -/
def chainBlock (h : List Word) (bs : List Byte) : List Word :=
  let x := compress (blockWords 16 (bigEndian bs)) (h.take 4, h.drop 4) roundWords
  (h.zip (x.1 ++ x.2)).map (fun e => e.1 + e.2)

/-- The chaining value after n blocks of a padded message. -/
def chainBlocks (bs : List Byte) : Nat → List Word
  | 0 => startWords
  | n + 1 => chainBlock (chainBlocks bs n) ((bs.drop (64 * n)).take 64)

/-- The digest of a message. -/
def sha256 (bs : List Byte) : List Byte :=
  let zeros := (119 - bs.length % 64) % 64
  let tail := (List.range 8).map (fun i => BitVec.ofNat 8 (8 * bs.length / 256 ^ (7 - i)))
  let padded := bs ++ 0x80 :: List.replicate zeros 0 ++ tail
  (chainBlocks padded (padded.length / 64)).flatMap (fun w => (List.range 4).map (fun i => BitVec.ofNat 8 (w.toNat / 256 ^ (3 - i))))

end Sys2Proof.Machine
end

