-- ==== Sys2Proof/Machine/Manage.lean ====
section
/-! DEFINITION. Power and firmware (27 R531-R534), the crown (R535), writes of registers (R88, R536, R538), Grielm mailboxes
(R539-R541), host writes through HDM windows (25 R506), and the arithmetic clock (R542). -/
namespace Sys2Proof.Machine

/-! Power (R531, R542). -/

/-- A device that is Off: its fuses keep their bits (R533), and the memory of the host and of peers is not its own; the
model's own inputs and counters go on. -/
def powerOff (s : State) : State :=
  { State.reset with
    mem := s.mem.filter (fun e => keySpace e.1 == 2 || keySpace e.1 ≥ 8)
    dev := { State.reset.dev with otp := s.dev.otp }
    agenda := s.agenda, pick := s.pick, free := s.free, nextId := s.nextId }

/-- POWER_GOOD (R531, R164): the boot ROM runs and the host link trains; SRAM reads 0. -/
def execPowerGood (s : State) : Host.Outcome State Fault Refusal :=
  if s.dev.state != .off then .next s
  else
    let s : State := { s with mem := s.mem.filter (fun e => keySpace e.1 != 0 && keySpace e.1 != 5), emptyTags := [], tainted := [] }
    let s := s.setLink hostPort { state := .training, ackTick := s.tick }
    .next { s with dev := { s.dev with state := .rom } }

/-- POWER_LOSS (R531). -/
def execPowerLoss (s : State) : Host.Outcome State Fault Refusal := .next (powerOff s)

/-- THERMAL_TRIP (R542): every clock domain stops and the device goes Off. -/
def execThermalTrip (s : State) : Host.Outcome State Fault Refusal := .next (if s.dev.state == .off then s else powerOff s)

/-- CLOCK_STEP (R542): the arithmetic clock steps by 50 MHz, at most to the rate of the device's state. The step's operand:
whether it rises. -/
def execClockStep (s : State) : Host.Outcome State Fault Refusal :=
  let f := s.dev.clockMHz
  let top := if s.dev.state == .full then 1900 else 1200
  .next { s with dev := { s.dev with clockMHz := if s.pick.flag then min top (f + 50) else if f > 50 then f - 50 else f } }

/-! Firmware (R532, R533). -/

/-- The firmware image as written, and the bytes before its signature (R532). -/
def imageBytes (s : State) : List Byte := s.mem.readList (imageKey 0) s.dev.imglen
def signedBytes (s : State) : List Byte := (imageBytes s).take (s.dev.imglen - 2964)

/-- Whether the image verifies (R532). -/
def imageValid (s : State) : Bool :=
  2965 ≤ s.dev.imglen && s.dev.imglen ≤ 2 ^ 24 && Config.hssValid (signedBytes s) ((imageBytes s).drop (s.dev.imglen - 2964))

/-- Bits of the OTP boot counter, and leaves of a per-boot tree (R533). -/
def otpBits : Nat := 8192
def bootLeaves : Nat := 32768

/-- VERIFY (R531-R533): the boot ROM checks the image; a valid one burns the next counter bit, builds the per-boot tree and
starts; otherwise the window is cleared and opened again. -/
def execVerify (s : State) : Host.Outcome State Fault Refusal :=
  let d := s.dev
  if d.state != .verifying then .next s
  else if imageValid s then
    let (s, n) := s.draw
    let hash := BitVec.ofNat 256 (leNat (sha256 (signedBytes s)))
    let tree : Option BootTree := if d.otp < otpBits then some { boot := d.otp, hash := hash, seed := n, leaf := 0 } else none
    .next { s with dev := { d with
      state := .training, otp := min otpBits (d.otp + 1), tree := tree, hash := hash } }
  else .next { s with
    mem := s.mem.filter (fun e => keySpace e.1 != 5), dev := { d with state := .rom, result := resBadImage } }

/-- EARLY_ENTRY (R531, R534): the hub and at least one cluster are up. The step's operand: the clusters that are up, one
bit each. -/
def execEarlyEntry (s : State) : Host.Outcome State Fault Refusal :=
  let ks := (List.range 8).filter (fun k => s.pick.a.testBit k)
  if s.dev.state != .training || ks.isEmpty then .next s
  else .next { s with dev := { s.dev with state := .early, upClusters := ks, clockMHz := 1200 } }

/-- FULL_ENTRY (R531): every cluster is up and every stack is Up or Failed. -/
def execFullEntry (s : State) : Host.Outcome State Fault Refusal :=
  if s.dev.state != .early ||
      !(List.range 8).all (fun i => (s.stack i).state == .up || (s.stack i).state == .failed) then .next s
  else .next { s with dev := { s.dev with state := .full, upClusters := List.range 8, clockMHz := 1900 } }

/-! The crown (R535, R537). -/

/-- Whether a master can reach the device: it is one, the device has power, and its path carries traffic (R536); the BMC's bus
does. -/
def masterHere (s : State) (m : Nat) : Bool :=
  s.dev.state != .off && isMaster m && (m == 1 || (if m = 0 then (s.link hostPort).flows
    else (bundlePorts s (m - 0x20)).any (fun i => (s.link i).flows)))

/-- A write of MGCMD by the master of the step, when it is the command of its row. -/
def crownStep (s : State) (cmd : Nat) : State :=
  if !masterHere s s.pick.c || crownPast s s.pick.c || (s.pick.word.extractLsb' 0 8).toNat != cmd then s
  else crownTakes s s.pick.c s.pick.word

/-- GO (R537). The operands of this step and the following four: the master, and the word written to MGCMD. -/
def execGo (s : State) : Host.Outcome State Fault Refusal := .next (crownStep s 1)
/-- CLAIM (R535). -/
def execClaim (s : State) : Host.Outcome State Fault Refusal := .next (crownStep s 2)
/-- HANDOVER (R535). -/
def execHandover (s : State) : Host.Outcome State Fault Refusal := .next (crownStep s 3)
/-- ACCEPT (R535). -/
def execAccept (s : State) : Host.Outcome State Fault Refusal := .next (crownStep s 4)
/-- RELEASE (R535). -/
def execCrownRelease (s : State) : Host.Outcome State Fault Refusal := .next (crownStep s 5)

/-- HANDOVER_LAPSE (R535): a pending handover lapses after 2^30 ticks. -/
def execHandoverLapse (s : State) : Host.Outcome State Fault Refusal := .next (lapse s)

/-- Whether the path of a master has failed: its link is Isolated or Down, or, for the BMC, the step says so. -/
def masterGone (s : State) (m : Nat) (i3c : Bool) : Bool :=
  let dead (i : Nat) : Bool := (s.link i).state == .isolated || (s.link i).state == .down
  if m = 0 then dead hostPort
  else if m = 1 then i3c
  else 0x20 ≤ m && m ≤ 0x3F && (bundlePorts s (m - 0x20)).all dead

/-- CROWN_VACANCY (R535): the holder's link is Isolated or Down, or the BMC's bus loses power. The step's operand: whether
that bus has no power. -/
def execCrownVacancy (s : State) : Host.Outcome State Fault Refusal :=
  if s.dev.holder != 0xFF && masterGone s s.dev.holder s.pick.flag then
    .next { s with dev := { s.dev with holder := 0xFF, pend := 0xFF } }
  else .next s

/-! Writes of registers (R88, R506, R536, R538). -/

/-- DEVNO_WRITE (R538). The step's operands: the master and the value. -/
def execDevnoWrite (s : State) : Host.Outcome State Fault Refusal :=
  .next (if masterHere s s.pick.c then writeDevno s s.pick.c (s.pick.word.extractLsb' 0 32) else s)

/-- An HDM window set by CXL configuration: 1 GiB aligned, onto an equal range of device DRAM (R506). -/
def setWindow (s : State) (i host dev size : Nat) : State :=
  if i ≥ 4 || host % 2 ^ 30 != 0 || dev % 2 ^ 30 != 0 || size % 2 ^ 30 != 0 || dev + size > dramSize then s
  else { s with dev := { s.dev with
    hdm := if size = 0 then s.dev.hdm.del i else s.dev.hdm.set i (host, dev, size) } }

/-- Hub control space written by a master: only the holder of the crown may (R535). -/
def masterHubWrite (s : State) (m off : Nat) (bs : List Byte) : State :=
  if s.dev.holder != m then setResult s resNotCrown
  else
    let o := off % 64
    let n := min bs.length (64 - o)
    setResult (hubWrite s (off / 64 * 64) ((2 ^ n - 1) * 2 ^ o)
      (padded o (bs.take n) ++ List.replicate (64 - o - n) 0)) resOk

/-- REGISTER_WRITE (R88, R536): a master writes a register of hub control space or of the management space, or the host
configures an HDM window. The step's operands: the space (0 hub control space, 1 management, 2 windows), the offset or the
window, the master, and the bytes, or the window's device base in `c`, host base in `word` and size in `wide`. -/
def execRegisterWrite (s : State) : Host.Outcome State Fault Refusal :=
  let p := s.pick
  match p.a with
  | 0 => .next (if masterHere s p.c && boxesReady s then masterHubWrite s p.c p.b p.bytes else s)
  | 1 => .next (if masterHere s p.c && !(p.b == 8 && crownPast s p.c) then barWrite s p.c p.b p.bytes else s)
  | _ => .next (if masterHere s 0 then setWindow s p.b p.word.toNat p.c p.wide.toNat else s)

/-- The device address that a window maps a host physical address to. -/
def windowAddr (s : State) (a : Nat) : Option Nat :=
  (s.dev.hdm.find? (fun e => e.2.1 ≤ a && a < e.2.1 + e.2.2.2)).map (fun e => e.2.2.1 + (a - e.2.1))

/-- HDM_WRITE (R506): a host write of one line or less through a window, performed at its DRAM home; a refused stripe
changes nothing. The step's operands: the host physical address and the bytes. -/
def execHdmWrite (s : State) : Host.Outcome State Fault Refusal :=
  match (if (s.link hostPort).flows then windowAddr s s.pick.a else none) with
  | none => .next s
  | some pa =>
    let bs := s.pick.bytes.take (64 - pa % 64)
    match dumpHolds s pa with
    | (s, true) => .next s
    | (s, false) =>
      match agentWrite s (dramKey pa) {} true (spanFuel bs.length) bs with
      | (_, some .guard) => .next s
      | (_, some .held) => .next s
      | (s, _) => .next s

/-! Grielm mailboxes (R539-R541). -/

/-- Whether a mailbox's request is the one that the controller serves next. -/
def boxTurn (s : State) (i : Nat) : Bool :=
  (s.box i).busy && s.dev.boxes.all (fun e => e.1 == i || !e.2.busy || (s.box i).order ≤ e.2.order)

/-- The number of request bytes, and bytes of the request. -/
def Mailbox.len (x : Mailbox) : Nat := (x.cmd.extractLsb' 16 16).toNat
def Mailbox.bytes (x : Mailbox) (o n : Nat) : List Byte := (List.range n).map (fun i => x.req.get 0 (o + i))

/-- A request of an OP served: its length must be the OP's, and `act` gives the state, the code and the reply. The step's
operand: the mailbox. -/
def serveBox (s : State) (op len : Nat) (act : State → Mailbox → State × Nat × List Byte) : Host.Outcome State Fault Refusal :=
  let i := s.pick.a % 3
  let x := s.box i
  if !boxTurn s i || (x.cmd.extractLsb' 0 8).toNat != op then .next s
  else if !boxesReady s then .next (answer s i codeNotReady [])
  else if x.len != len || x.cmd.extractLsb' 32 32 != 0 then .next (answer s i codeBadArg [])
  else
    let (s, code, reply) := act s x
    .next (answer s i code reply)

/-- Bytes cut or filled with zeros to a length. -/
def fitBytes (n : Nat) (bs : List Byte) : List Byte := (bs ++ List.replicate n 0).take n

/-- The signed bytes of a report (R540). -/
def reportBytes (s : State) (t : BootTree) (nonce : List Byte) : List Byte :=
  leBytes 4 1 ++ leBytes 2 t.boot ++ leBytes 2 t.leaf ++ nonce ++ leBytes 32 t.hash.toNat ++
    leBytes 1 s.dev.holder ++ leBytes 1 s.dev.state.code ++ List.replicate 6 0 ++ leBytes 8 s.tick ++ List.replicate 40 0

/-- ATTEST (R540): a report with the next per-boot leaf. -/
def execAttest (s : State) : Host.Outcome State Fault Refusal :=
  serveBox s 1 32 fun s x =>
    match s.dev.tree with
    | none => (s, codeNoIdentity, [])
    | some t =>
      if t.leaf ≥ bootLeaves then (s, codeExhausted, [])
      else
        let bs := reportBytes s t (x.bytes 0 32)
        ({ s with dev := { s.dev with tree := some { t with leaf := t.leaf + 1 } } }, codeOk,
          bs ++ fitBytes 1612 (Config.lmsSign t.seed t.leaf bs))

/-- CERT (R541): the certificate of the per-boot key. -/
def execCert (s : State) : Host.Outcome State Fault Refusal :=
  serveBox s 2 0 fun s _ =>
    match s.dev.tree with
    | none => (s, codeNoIdentity, [])
    | some t =>
      let bs := leBytes 4 t.boot ++ leBytes 32 t.hash.toNat ++ fitBytes 56 (Config.lmsPublic t.seed)
      (s, codeOk, fitBytes 60 Config.identityPublic ++ bs ++ fitBytes 2964 (Config.identitySign t.boot bs))

/-- A CSR number a mailbox may name (R539). -/
def boxCsr (n : Nat) : Bool := 0x180 ≤ n && n ≤ 0x183

/-- CSRRD (R539). -/
def execCsrrd (s : State) : Host.Outcome State Fault Refusal :=
  serveBox s 3 2 fun s x =>
    let n := leNat (x.bytes 0 2)
    if boxCsr n then (s, codeOk, leBytes 4 (stewardCsr s 0 n).toNat) else (s, codeBadArg, [])

/-- CSRWR (R539): the crown holder's write of a CSR. -/
def execCsrwr (s : State) : Host.Outcome State Fault Refusal :=
  serveBox s 4 8 fun s x =>
    let n := leNat (x.bytes 0 2)
    if s.dev.holder != x.master then (setResult s resNotCrown, codeNotCrown, [])
    else if !boxCsr n then (s, codeBadArg, [])
    else
      let s := setResult (csrWrite s 0 n (BitVec.ofNat 32 (leNat (x.bytes 4 4)))) resOk
      (s, codeOk, leBytes 4 (stewardCsr s 0 n).toNat)

/-- A hub control offset a mailbox may name. -/
def boxOffset (o : Nat) : Bool := o % 8 == 0 && o < 2 ^ 48

/-- HUBRD (R539). -/
def execHubrd (s : State) : Host.Outcome State Fault Refusal :=
  serveBox s 5 8 fun s x =>
    let o := leNat (x.bytes 0 8)
    if boxOffset o then (s, codeOk, hubRead s o 8) else (s, codeBadArg, [])

/-- HUBWR (R539): the crown holder's write of hub control space. -/
def execHubwr (s : State) : Host.Outcome State Fault Refusal :=
  serveBox s 6 16 fun s x =>
    let o := leNat (x.bytes 0 8)
    if s.dev.holder != x.master then (setResult s resNotCrown, codeNotCrown, [])
    else if !boxOffset o then (s, codeBadArg, [])
    else (masterHubWrite s x.master o (x.bytes 8 8), codeOk, [])

end Sys2Proof.Machine
end

