-- ==== Sys2Proof/Machine/Dispatch.lean ====
section
/-! DEFINITION. The meaning of every instruction: one arm per row of the opcode table. -/
namespace Sys2Proof.Machine

def exec (i : Instr) (s : State) : Host.Outcome State Fault Refusal :=
  match i with
  | .iadd c ty sat d a b => Sys2Proof.Machine.execIadd c ty sat d a b s
  | .isub c ty sat d a b => Sys2Proof.Machine.execIsub c ty sat d a b s
  | .imul c ty sat d a b => Sys2Proof.Machine.execImul c ty sat d a b s
  | .imulh c ty sat d a b => Sys2Proof.Machine.execImulh c ty sat d a b s
  | .imad c ty sat d a b e => Sys2Proof.Machine.execImad c ty sat d a b e s
  | .imadw c ty sat d a b e => Sys2Proof.Machine.execImadw c ty sat d a b e s
  | .iaddw c ty sat d a b e => Sys2Proof.Machine.execIaddw c ty sat d a b e s
  | .isubw c ty sat d a b e => Sys2Proof.Machine.execIsubw c ty sat d a b e s
  | .iabs c ty sat d a => Sys2Proof.Machine.execIabs c ty sat d a s
  | .ineg c ty sat d a => Sys2Proof.Machine.execIneg c ty sat d a s
  | .imin c ty sat d a b => Sys2Proof.Machine.execImin c ty sat d a b s
  | .imax c ty sat d a b => Sys2Proof.Machine.execImax c ty sat d a b s
  | .iclamp c ty sat d a b e => Sys2Proof.Machine.execIclamp c ty sat d a b e s
  | .iand c w64 d a b => Sys2Proof.Machine.execIand c w64 d a b s
  | .ior c w64 d a b => Sys2Proof.Machine.execIor c w64 d a b s
  | .ixor c w64 d a b => Sys2Proof.Machine.execIxor c w64 d a b s
  | .andn c w64 d a b => Sys2Proof.Machine.execAndn c w64 d a b s
  | .tri c tt d a b e => Sys2Proof.Machine.execTri c tt d a b e s
  | .shl c w64 clamp d a b => Sys2Proof.Machine.execShl c w64 clamp d a b s
  | .shr c w64 clamp d a b => Sys2Proof.Machine.execShr c w64 clamp d a b s
  | .sar c w64 clamp d a b => Sys2Proof.Machine.execSar c w64 clamp d a b s
  | .rotl c w64 d a b => Sys2Proof.Machine.execRotl c w64 d a b s
  | .funsh c clamp right d a b e => Sys2Proof.Machine.execFunsh c clamp right d a b e s
  | .popc c w64 d a => Sys2Proof.Machine.execPopc c w64 d a s
  | .clz c w64 d a => Sys2Proof.Machine.execClz c w64 d a s
  | .ffs c w64 d a => Sys2Proof.Machine.execFfs c w64 d a s
  | .brev c w64 d a => Sys2Proof.Machine.execBrev c w64 d a s
  | .bfx c sx d a b e => Sys2Proof.Machine.execBfx c sx d a b e s
  | .bfi c d a b e => Sys2Proof.Machine.execBfi c d a b e s
  | .icmp c ty cond d a b => Sys2Proof.Machine.execIcmp c ty cond d a b s
  | .sel c w64 d a b e => Sys2Proof.Machine.execSel c w64 d a b e s
  | .mov c w64 d a => Sys2Proof.Machine.execMov c w64 d a s
  | .movi c d imm => Sys2Proof.Machine.execMovi c d imm s
  | .iaddi c ty sat d a imm => Sys2Proof.Machine.execIaddi c ty sat d a imm s
  | .imuli c ty sat d a imm => Sys2Proof.Machine.execImuli c ty sat d a imm s
  | .andi c d a imm => Sys2Proof.Machine.execAndi c d a imm s
  | .ori c d a imm => Sys2Proof.Machine.execOri c d a imm s
  | .xori c d a imm => Sys2Proof.Machine.execXori c d a imm s
  | .icmpi c ty cond d a imm => Sys2Proof.Machine.execIcmpi c ty cond d a imm s
  | .lea c sh d a b => Sys2Proof.Machine.execLea c sh d a b s
  | .leaw c sh d a b => Sys2Proof.Machine.execLeaw c sh d a b s
  | .cvti c dty sty sat d a => Sys2Proof.Machine.execCvti c dty sty sat d a s
  | .idp4 c sa sb sat d a b e => Sys2Proof.Machine.execIdp4 c sa sb sat d a b e s
  | .idp8 c sa sb sat d a b e => Sys2Proof.Machine.execIdp8 c sa sb sat d a b e s
  | .fadd c rm ftz d a b => Sys2Proof.Machine.execFadd c rm ftz d a b s
  | .fsub c rm ftz d a b => Sys2Proof.Machine.execFsub c rm ftz d a b s
  | .fmul c rm ftz d a b => Sys2Proof.Machine.execFmul c rm ftz d a b s
  | .ffma c rm ftz d a b e => Sys2Proof.Machine.execFfma c rm ftz d a b e s
  | .fmin c ftz d a b => Sys2Proof.Machine.execFmin c ftz d a b s
  | .fmax c ftz d a b => Sys2Proof.Machine.execFmax c ftz d a b s
  | .fcmp c ty cond d a b => Sys2Proof.Machine.execFcmp c ty cond d a b s
  | .fclass c d a => Sys2Proof.Machine.execFclass c d a s
  | .frnd c rm ftz d a => Sys2Proof.Machine.execFrnd c rm ftz d a s
  | .fcvt c df sf rm sat ftz d a => Sys2Proof.Machine.execFcvt c df sf rm sat ftz d a s
  | .ftoi c ty rm ftz d a => Sys2Proof.Machine.execFtoi c ty rm ftz d a s
  | .itof c ty rm ftz d a => Sys2Proof.Machine.execItof c ty rm ftz d a s
  | .fscale c rm ftz d a b => Sys2Proof.Machine.execFscale c rm ftz d a b s
  | .frcp c ftz d a => Sys2Proof.Machine.execFrcp c ftz d a s
  | .frsq c ftz d a => Sys2Proof.Machine.execFrsq c ftz d a s
  | .fsqrt c ftz d a => Sys2Proof.Machine.execFsqrt c ftz d a s
  | .fex2 c ftz d a => Sys2Proof.Machine.execFex2 c ftz d a s
  | .flg2 c ftz d a => Sys2Proof.Machine.execFlg2 c ftz d a s
  | .fsin c ftz d a => Sys2Proof.Machine.execFsin c ftz d a s
  | .fcos c ftz d a => Sys2Proof.Machine.execFcos c ftz d a s
  | .ftanh c ftz d a => Sys2Proof.Machine.execFtanh c ftz d a s
  | .hadd2 c bf rm d a b => Sys2Proof.Machine.execHadd2 c bf rm d a b s
  | .hmul2 c bf rm d a b => Sys2Proof.Machine.execHmul2 c bf rm d a b s
  | .hfma2 c bf rm d a b e => Sys2Proof.Machine.execHfma2 c bf rm d a b e s
  | .hmin2 c bf d a b => Sys2Proof.Machine.execHmin2 c bf d a b s
  | .hmax2 c bf d a b => Sys2Proof.Machine.execHmax2 c bf d a b s
  | .pack c ty pos d a b => Sys2Proof.Machine.execPack c ty pos d a b s
  | .unpack c ty pos lut d a => Sys2Proof.Machine.execUnpack c ty pos lut d a s
  | .fdot2 c bf rm d a b e => Sys2Proof.Machine.execFdot2 c bf rm d a b e s
  | .fstat c d => Sys2Proof.Machine.execFstat c d s
  | .plop c tt d a b e => Sys2Proof.Machine.execPlop c tt d a b e s
  | .pmov c d a => Sys2Proof.Machine.execPmov c d a s
  | .vote c form d a => Sys2Proof.Machine.execVote c form d a s
  | .elect c d => Sys2Proof.Machine.execElect c d s
  | .shfl c form d a b => Sys2Proof.Machine.execShfl c form d a b s
  | .perm c d a b => Sys2Proof.Machine.execPerm c d a b s
  | .bcast c d a b => Sys2Proof.Machine.execBcast c d a b s
  | .lred c op ty ftz d a => Sys2Proof.Machine.execLred c op ty ftz d a s
  | .lscan c op ty ftz excl d a => Sys2Proof.Machine.execLscan c op ty ftz excl d a s
  | .matchL c w64 rank d a => Sys2Proof.Machine.execMatchL c w64 rank d a s
  | .ld c sg wd sx a64 d a b => Sys2Proof.Machine.execLd c sg wd sx a64 d a b s
  | .st c sg wd a64 d a b => Sys2Proof.Machine.execSt c sg wd a64 d a b s
  | .ldMd c sg a64 d a b => Sys2Proof.Machine.execLdMd c sg a64 d a b s
  | .stMd c sg a64 d a b => Sys2Proof.Machine.execStMd c sg a64 d a b s
  | .lds c sg wd sx a64 d a b => Sys2Proof.Machine.execLds c sg wd sx a64 d a b s
  | .sts c sg wd a64 d a b => Sys2Proof.Machine.execSts c sg wd a64 d a b s
  | .ldt c sg sc a64 d a b => Sys2Proof.Machine.execLdt c sg sc a64 d a b s
  | .ldtk c sg sc a64 d a b => Sys2Proof.Machine.execLdtk c sg sc a64 d a b s
  | .stt c sg sc a64 d a b => Sys2Proof.Machine.execStt c sg sc a64 d a b s
  | .sttf c sg sc a64 d a b => Sys2Proof.Machine.execSttf c sg sc a64 d a b s
  | .tagRd c sg a64 d a b => Sys2Proof.Machine.execTagRd c sg a64 d a b s
  | .tagClr c sg a64 a b => Sys2Proof.Machine.execTagClr c sg a64 a b s
  | .phase c k sc => Sys2Proof.Machine.execPhase c k sc s
  | .scfence c => Sys2Proof.Machine.execScfence c s
  | .atom c sg op o sc w64 a64 d a b => Sys2Proof.Machine.execAtom c sg op o sc w64 a64 d a b s
  | .acas c sg o sc w64 facq a64 d a b => Sys2Proof.Machine.execAcas c sg o sc w64 facq a64 d a b s
  | .lr c sg o sc w64 a64 d a => Sys2Proof.Machine.execLr c sg o sc w64 a64 d a s
  | .sc c sg o sc w64 a64 d a b => Sys2Proof.Machine.execSc c sg o sc w64 a64 d a b s
  | .hwait c acq nt a => Sys2Proof.Machine.execHwait c acq nt a s
  | .htest c d a => Sys2Proof.Machine.execHtest c d a s
  | .hcancel c a => Sys2Proof.Machine.execHcancel c a s
  | .hmov c toH d a => Sys2Proof.Machine.execHmov c toH d a s
  | .hprom c a => Sys2Proof.Machine.execHprom c a s
  | .bcbInit c sg a b => Sys2Proof.Machine.execBcbInit c sg a b s
  | .bcbExp c sg a b => Sys2Proof.Machine.execBcbExp c sg a b s
  | .bcbArr c sg a b => Sys2Proof.Machine.execBcbArr c sg a b s
  | .bcbWait c sg a b => Sys2Proof.Machine.execBcbWait c sg a b s
  | .bcbTest c sg d a b => Sys2Proof.Machine.execBcbTest c sg d a b s
  | .tidLd c a b => Sys2Proof.Machine.execTidLd c a b s
  | .tidInv c a => Sys2Proof.Machine.execTidInv c a s
  | .gang c a => Sys2Proof.Machine.execGang c a s
  | .cbLd c d a => Sys2Proof.Machine.execCbLd c d a s
  | .mma c sat shape d a => Sys2Proof.Machine.execMma c sat shape d a s
  | .mmaSp c sat shape d a => Sys2Proof.Machine.execMmaSp c sat shape d a s
  | .mmaQ c sat shape d a => Sys2Proof.Machine.execMmaQ c sat shape d a s
  | .accZero c wide d => Sys2Proof.Machine.execAccZero c wide d s
  | .accLd c wide d a => Sys2Proof.Machine.execAccLd c wide d a s
  | .accSt c wide sat a b => Sys2Proof.Machine.execAccSt c wide sat a b s
  | .accGet c wide d a b => Sys2Proof.Machine.execAccGet c wide d a b s
  | .accPut c wide d a b => Sys2Proof.Machine.execAccPut c wide d a b s
  | .tmv c nocnt d a => Sys2Proof.Machine.execTmv c nocnt d a s
  | .fireRd c a => Sys2Proof.Machine.execFireRd c a s
  | .smp c d a b e => Sys2Proof.Machine.execSmp c d a b e s
  | .smpc c d a b e => Sys2Proof.Machine.execSmpc c d a b e s
  | .tld c d a b e => Sys2Proof.Machine.execTld c d a b e s
  | .resQ c d a => Sys2Proof.Machine.execResQ c d a s
  | .vbary c d attr b => Sys2Proof.Machine.execVbary c d attr b s
  | .vsplit c a => Sys2Proof.Machine.execVsplit c a s
  | .vkill c a => Sys2Proof.Machine.execVkill c a s
  | .outc c a => Sys2Proof.Machine.execOutc c a s
  | .outz c a => Sys2Proof.Machine.execOutz c a s
  | .outv c which a => Sys2Proof.Machine.execOutv c which a s
  | .recPush c a => Sys2Proof.Machine.execRecPush c a s
  | .recPop c d e => Sys2Proof.Machine.execRecPop c d e s
  | .recDone c => Sys2Proof.Machine.execRecDone c s
  | .bra c imm => Sys2Proof.Machine.execBra c imm s
  | .br c dist imm => Sys2Proof.Machine.execBr c dist imm s
  | .brx c a => Sys2Proof.Machine.execBrx c a s
  | .call c d imm => Sys2Proof.Machine.execCall c d imm s
  | .callx c d a => Sys2Proof.Machine.execCallx c d a s
  | .ret c a => Sys2Proof.Machine.execRet c a s
  | .reconv c => Sys2Proof.Machine.execReconv c s
  | .exit c => Sys2Proof.Machine.execExit c s
  | .yield c => Sys2Proof.Machine.execYield c s
  | .sleep c a => Sys2Proof.Machine.execSleep c a s
  | .sleepu c a => Sys2Proof.Machine.execSleepu c a s
  | .trap c imm => Sys2Proof.Machine.execTrap c imm s
  | .bkpt c => Sys2Proof.Machine.execBkpt c s
  | .tret c => Sys2Proof.Machine.execTret c s
  | .cjoin c d a => Sys2Proof.Machine.execCjoin c d a s
  | .cleave c d a => Sys2Proof.Machine.execCleave c d a s
  | .cnew c d => Sys2Proof.Machine.execCnew c d s
  | .bar c o crew => Sys2Proof.Machine.execBar c o crew s
  | .barp c op ty ftz o d a b => Sys2Proof.Machine.execBarp c op ty ftz o d a b s
  | .sluIn c init d a b => Sys2Proof.Machine.execSluIn c init d a b s
  | .sluOut c a => Sys2Proof.Machine.execSluOut c a s
  | .sluTry c d a b e => Sys2Proof.Machine.execSluTry c d a b e s
  | .vgrow c a => Sys2Proof.Machine.execVgrow c a s
  | .vshrink c a => Sys2Proof.Machine.execVshrink c a s
  | .launch c d a b => Sys2Proof.Machine.execLaunch c d a b s
  | .csrr c d num => Sys2Proof.Machine.execCsrr c d num s
  | .csrw c a num => Sys2Proof.Machine.execCsrw c a num s
  | .segLd c sg a => Sys2Proof.Machine.execSegLd c sg a s
  | .tlbInv c k => Sys2Proof.Machine.execTlbInv c k s
  | .xcLoad c h a b => Sys2Proof.Machine.execXcLoad c h a b s
  | .xcStore c h a b => Sys2Proof.Machine.execXcStore c h a b s
  | .xcMcast c h a b => Sys2Proof.Machine.execXcMcast c h a b s
  | .xcGather c h a b => Sys2Proof.Machine.execXcGather c h a b s
  | .xcScatter c h a b => Sys2Proof.Machine.execXcScatter c h a b s
  | .xcFill c h a b => Sys2Proof.Machine.execXcFill c h a b s
  | .xcPeer c h a b => Sys2Proof.Machine.execXcPeer c h a b s
  | .xcCsum c h a b => Sys2Proof.Machine.execXcCsum c h a b s
  | .basAxpby c h a b => Sys2Proof.Machine.execBasAxpby c h a b s
  | .basScal c h a b => Sys2Proof.Machine.execBasScal c h a b s
  | .basSgd c h a b => Sys2Proof.Machine.execBasSgd c h a b s
  | .basMom c h a b => Sys2Proof.Machine.execBasMom c h a b s
  | .basSum c h a b => Sys2Proof.Machine.execBasSum c h a b s
  | .basFill c h a b => Sys2Proof.Machine.execBasFill c h a b s
  | .basCopy c h a b => Sys2Proof.Machine.execBasCopy c h a b s
  | .basCvt c h a b => Sys2Proof.Machine.execBasCvt c h a b s
  | .basStat c h a b => Sys2Proof.Machine.execBasStat c h a b s
  | .tierCfg c h a b => Sys2Proof.Machine.execTierCfg c h a b s
  | .tierRank c h a b => Sys2Proof.Machine.execTierRank c h a b s
  | .tierMig c h a b => Sys2Proof.Machine.execTierMig c h a b s
  | .tierAge c h a b => Sys2Proof.Machine.execTierAge c h a b s
  | .tierPin c h a b => Sys2Proof.Machine.execTierPin c h a b s
  | .prsDraw c h a b => Sys2Proof.Machine.execPrsDraw c h a b s
  | .prsFrame c h a b => Sys2Proof.Machine.execPrsFrame c h a b s
  | .prsPresent c h a b => Sys2Proof.Machine.execPrsPresent c h a b s
  | .prsReproj c h a b => Sys2Proof.Machine.execPrsReproj c h a b s
  | .trcMark c h a b => Sys2Proof.Machine.execTrcMark c h a b s
  | .trcFlush c h a b => Sys2Proof.Machine.execTrcFlush c h a b s
  | .trcSample c h a b => Sys2Proof.Machine.execTrcSample c h a b s
  | .stwKeyspill c h a b => Sys2Proof.Machine.execStwKeyspill c h a b s
  | .stwDump c h a b => Sys2Proof.Machine.execStwDump c h a b s
  | .deliver => Sys2Proof.Machine.execDeliver s
  | .dropLine => Sys2Proof.Machine.execDropLine s
  | .cacheDrop => Sys2Proof.Machine.execCacheDrop s
  | .heartbeat => Sys2Proof.Machine.execHeartbeat s
  | .releaseComplete => Sys2Proof.Machine.execReleaseComplete s
  | .taggedAtHome => Sys2Proof.Machine.execTaggedAtHome s
  | .taggedResend => Sys2Proof.Machine.execTaggedResend s
  | .serviceRequest => Sys2Proof.Machine.execServiceRequest s
  | .atomicReply => Sys2Proof.Machine.execAtomicReply s
  | .engineRead => Sys2Proof.Machine.execEngineRead s
  | .engineWrite => Sys2Proof.Machine.execEngineWrite s
  | .engineCount => Sys2Proof.Machine.execEngineCount s
  | .cascadeStep => Sys2Proof.Machine.execCascadeStep s
  | .clauseIssue => Sys2Proof.Machine.execClauseIssue s
  | .resultWrite => Sys2Proof.Machine.execResultWrite s
  | .watchdog => Sys2Proof.Machine.execWatchdog s
  | .ctxBuild => Sys2Proof.Machine.execCtxBuild s
  | .ctxCommit => Sys2Proof.Machine.execCtxCommit s
  | .ctxSuspend => Sys2Proof.Machine.execCtxSuspend s
  | .ctxResume => Sys2Proof.Machine.execCtxResume s
  | .ctxReset => Sys2Proof.Machine.execCtxReset s
  | .ctxKill => Sys2Proof.Machine.execCtxKill s
  | .ctxFree => Sys2Proof.Machine.execCtxFree s
  | .ctxDump => Sys2Proof.Machine.execCtxDump s
  | .drainComplete => Sys2Proof.Machine.execDrainComplete s
  | .quantumEnd => Sys2Proof.Machine.execQuantumEnd s
  | .tenantChoice => Sys2Proof.Machine.execTenantChoice s
  | .switchOut => Sys2Proof.Machine.execSwitchOut s
  | .contextRestore => Sys2Proof.Machine.execContextRestore s
  | .wellheadWake => Sys2Proof.Machine.execWellheadWake s
  | .launchRecord => Sys2Proof.Machine.execLaunchRecord s
  | .drawRecord => Sys2Proof.Machine.execDrawRecord s
  | .copyRecord => Sys2Proof.Machine.execCopyRecord s
  | .waitRecord => Sys2Proof.Machine.execWaitRecord s
  | .signalRecord => Sys2Proof.Machine.execSignalRecord s
  | .markRecord => Sys2Proof.Machine.execMarkRecord s
  | .waitTimeout => Sys2Proof.Machine.execWaitTimeout s
  | .queueAgeing => Sys2Proof.Machine.execQueueAgeing s
  | .wellheadAppend => Sys2Proof.Machine.execWellheadAppend s
  | .queueBind => Sys2Proof.Machine.execQueueBind s
  | .queueUnbind => Sys2Proof.Machine.execQueueUnbind s
  | .queueSuspend => Sys2Proof.Machine.execQueueSuspend s
  | .queueResume => Sys2Proof.Machine.execQueueResume s
  | .queueClear => Sys2Proof.Machine.execQueueClear s
  | .placementPass => Sys2Proof.Machine.execPlacementPass s
  | .completionEvent => Sys2Proof.Machine.execCompletionEvent s
  | .vgrowDeadlockCheck => Sys2Proof.Machine.execVgrowDeadlockCheck s
  | .vgrowRestore => Sys2Proof.Machine.execVgrowRestore s
  | .gangTimeout => Sys2Proof.Machine.execGangTimeout s
  | .promiseTimeout => Sys2Proof.Machine.execPromiseTimeout s
  | .sleepWake => Sys2Proof.Machine.execSleepWake s
  | .pageWalk => Sys2Proof.Machine.execPageWalk s
  | .walkResend => Sys2Proof.Machine.execWalkResend s
  | .dumpPageCopy => Sys2Proof.Machine.execDumpPageCopy s
  | .pktRd => Sys2Proof.Machine.execPktRd s
  | .pktWr => Sys2Proof.Machine.execPktWr s
  | .pktWrm => Sys2Proof.Machine.execPktWrm s
  | .pktNmc => Sys2Proof.Machine.execPktNmc s
  | .readReply => Sys2Proof.Machine.execReadReply s
  | .writeReply => Sys2Proof.Machine.execWriteReply s
  | .nmcReply => Sys2Proof.Machine.execNmcReply s
  | .stackTrainingStart => Sys2Proof.Machine.execStackTrainingStart s
  | .stackTrainingPass => Sys2Proof.Machine.execStackTrainingPass s
  | .stackTrainingFail => Sys2Proof.Machine.execStackTrainingFail s
  | .stackInterfaceFail => Sys2Proof.Machine.execStackInterfaceFail s
  | .nrcfgWrite => Sys2Proof.Machine.execNrcfgWrite s
  | .cecountWrite => Sys2Proof.Machine.execCecountWrite s
  | .uccountWrite => Sys2Proof.Machine.execUccountWrite s
  | .patWrite => Sys2Proof.Machine.execPatWrite s
  | .tierWorking => Sys2Proof.Machine.execTierWorking s
  | .autoAgeing => Sys2Proof.Machine.execAutoAgeing s
  | .tierCopyDone => Sys2Proof.Machine.execTierCopyDone s
  | .tmvJoin => Sys2Proof.Machine.execTmvJoin s
  | .sectionRequest => Sys2Proof.Machine.execSectionRequest s
  | .sectionLeave => Sys2Proof.Machine.execSectionLeave s
  | .chainWalkHop => Sys2Proof.Machine.execChainWalkHop s
  | .sectStarved => Sys2Proof.Machine.execSectStarved s
  | .waiterResend => Sys2Proof.Machine.execWaiterResend s
  | .streamBind => Sys2Proof.Machine.execStreamBind s
  | .streamUnbind => Sys2Proof.Machine.execStreamUnbind s
  | .primitiveAssembly => Sys2Proof.Machine.execPrimitiveAssembly s
  | .primitiveSetup => Sys2Proof.Machine.execPrimitiveSetup s
  | .sweep => Sys2Proof.Machine.execSweep s
  | .blend => Sys2Proof.Machine.execBlend s
  | .slotDeadline => Sys2Proof.Machine.execSlotDeadline s
  | .clockStep => Sys2Proof.Machine.execClockStep s
  | .thermalTrip => Sys2Proof.Machine.execThermalTrip s
  | .flitData => Sys2Proof.Machine.execFlitData s
  | .flitAck => Sys2Proof.Machine.execFlitAck s
  | .flitFlowControl => Sys2Proof.Machine.execFlitFlowControl s
  | .flitTick => Sys2Proof.Machine.execFlitTick s
  | .tickFlitSend => Sys2Proof.Machine.execTickFlitSend s
  | .linkReplayTimeout => Sys2Proof.Machine.execLinkReplayTimeout s
  | .linkEnable => Sys2Proof.Machine.execLinkEnable s
  | .linkDisable => Sys2Proof.Machine.execLinkDisable s
  | .linkTrainingPass => Sys2Proof.Machine.execLinkTrainingPass s
  | .linkTrainingFail => Sys2Proof.Machine.execLinkTrainingFail s
  | .laneFail => Sys2Proof.Machine.execLaneFail s
  | .hdmWrite => Sys2Proof.Machine.execHdmWrite s
  | .powerGood => Sys2Proof.Machine.execPowerGood s
  | .powerLoss => Sys2Proof.Machine.execPowerLoss s
  | .go => Sys2Proof.Machine.execGo s
  | .verify => Sys2Proof.Machine.execVerify s
  | .earlyEntry => Sys2Proof.Machine.execEarlyEntry s
  | .fullEntry => Sys2Proof.Machine.execFullEntry s
  | .claim => Sys2Proof.Machine.execClaim s
  | .handover => Sys2Proof.Machine.execHandover s
  | .accept => Sys2Proof.Machine.execAccept s
  | .crownRelease => Sys2Proof.Machine.execCrownRelease s
  | .handoverLapse => Sys2Proof.Machine.execHandoverLapse s
  | .crownVacancy => Sys2Proof.Machine.execCrownVacancy s
  | .devnoWrite => Sys2Proof.Machine.execDevnoWrite s
  | .attest => Sys2Proof.Machine.execAttest s
  | .cert => Sys2Proof.Machine.execCert s
  | .csrrd => Sys2Proof.Machine.execCsrrd s
  | .csrwr => Sys2Proof.Machine.execCsrwr s
  | .hubrd => Sys2Proof.Machine.execHubrd s
  | .hubwr => Sys2Proof.Machine.execHubwr s
  | .traceEnWrite => Sys2Proof.Machine.execTraceEnWrite s
  | .frameTimeout => Sys2Proof.Machine.execFrameTimeout s
  | .frameWrite => Sys2Proof.Machine.execFrameWrite s
  | .sampleTake => Sys2Proof.Machine.execSampleTake s
  | .replayDivergence => Sys2Proof.Machine.execReplayDivergence s
  | .stopArm => Sys2Proof.Machine.execStopArm s
  | .deviceStop => Sys2Proof.Machine.execDeviceStop s
  | .stopResume => Sys2Proof.Machine.execStopResume s
  | .registerWrite => Sys2Proof.Machine.execRegisterWrite s
  | .softError => Sys2Proof.Machine.execSoftError s
  | .cxlLinkRecovery => Sys2Proof.Machine.execCxlLinkRecovery s
  | .tlb2Lookup => Sys2Proof.Machine.execTlb2Lookup s

end Sys2Proof.Machine
end

