-- ==== Sys2Proof/Machine/Fetch.lean ====
section
/-! DEFINITION. What a step is about: the free agenda entry where none is given, how time passes, the word at a split's
place, and how an instruction word is laid where the next step issues it. -/
namespace Sys2Proof.Machine

/-- A turn that nothing names: the machine's own choice of what happens next, by draw number (log 11). -/
opaque freeTurn : Nat → Turn

/-- Whether a row of the opcode table is a device step, which an agenda may name; the others issue from clauses. -/
def isMove (i : Instr) : Bool := i.ctl.isNone

/-- The ticks at which something falls due that a running device does not miss: an armed stop (R524), the slot deadlines of
its streams (R242), and the 400 ticks that a wake from a tail line in device memory takes at most (R106). -/
def dueTicks (s : State) : List Nat :=
  (if s.dev.armed then [s.tick + (s.dev.stopTick.toNat - s.globalTick)] else []) ++
    s.streams.filterMap (fun e =>
      if e.2.bound && streamField s e.1 832 32 != 0 then some ((s.tick : Int) + (slotDeadline s e.1 e.2.slot - s.globalTick)).toNat
      else none) ++
    s.queues.flatMap (fun e => if e.2.state == .watching && !qHost s e.1 then e.2.wakes.map (· + 400) else [])

/-- The tick beyond which a running device does not go before what falls due is done, a heartbeat first (R55). -/
def horizon (s : State) : Nat := (dueTicks s).foldl min (s.hbTick + 256)

/-- Time passes; a running device misses nothing that falls due meanwhile (R55, R525). -/
def passTime (s : State) (dt : Nat) : State :=
  let slow := s.dev.slowTick && dt != 0
  let dt := if slow then dt - 1 else dt
  let s := if slow then { s with dev := { s.dev with slowTick := false } } else s
  { s with tick := if s.dev.stopped.isSome then s.tick + dt else max s.tick (min (s.tick + dt) (horizon s)) }

/-- Bytes that the host and the peers write into their own memory; watched lines wake their queues (R106). -/
def outside (s : State) (ws : List (Nat × Byte)) : State :=
  ws.foldl (fun s w => if keySpace w.1 = 2 || keySpace w.1 ≥ 8 then putBytes s w.1 [w.2] else s) s

/-- The turn of a step and the state from which it acts. -/
def nextTurn (s : State) : State × Act :=
  match s.agenda with
  | t :: rest => ({ outside (passTime s t.dt) t.host with agenda := rest, pick := t.pick }, t.act)
  | [] =>
    let t := freeTurn s.free
    ({ outside (passTime s t.dt) t.host with free := s.free + 1, pick := t.pick }, t.act)

/-- Steps a stopped device still makes: the tick's heartbeat falls due afterwards; links answer with their physical
layers only; the Dziwick port and power still act (R525). -/
def runsStopped (i : Instr) : Bool :=
  match i with
  | .stopResume => true
  | .stopArm => true
  | .powerLoss => true
  | .thermalTrip => true
  | .softError => true
  | _ => false

/-- The word at the place of a split's clause. -/
def wordAt (s : State) (r : SplitRef) : Option (BitVec 64) :=
  match (s.split r).clause with
  | none => none
  | some cl => cl.words[cl.pos]?

/-- The instruction of the split the step concerns: none without a running clause, or the word that is none (R275). -/
def fetched (s : State) : Option (Instr ⊕ BitVec 64) :=
  match (if (s.strand s.pick.ref).state == .resident && !(s.clu (coreCluster s.pick.ref.core)).stuck &&
      clusterUp s (coreCluster s.pick.ref.core) then
      wordAt s s.pick.ref else none) with
  | none => none
  | some w => match decode w with
    | .ok i => some (.inl i)
    | .error _ => some (.inr w)

/-- The split that stands for a fetch: core 0, slot 0, split 0. -/
def fetchRef : SplitRef := ⟨0, 0, 0⟩

/-- A strand whose split 0 runs a clause of one word. -/
def strandWith (w : BitVec 64) : Strand where
  state := .resident
  nregs := 256
  rmax := 256
  splits := [(0, { state := .ready, own := BitVec.allOnes 96, mask := BitVec.allOnes 96,
                   clause := some { h := 0, words := [w], pos := 0, yields := false, alone := none } })]

/-- A state in which the next step issues a word (log 14). -/
def placeWord (s : State) (w : BitVec 64) : State :=
  { s.setStrand fetchRef (strandWith w) with
    dev := { s.dev with state := .full }, agenda := { dt := 0, act := .issue, pick := { ref := fetchRef } } :: s.agenda }

end Sys2Proof.Machine
end

