-- ==== Sys2Proof/Machine/Step.lean ====
section
/-! DEFINITION. One step of the machine: the next turn's device step, or the next instruction of the split it names. -/
namespace Sys2Proof.Machine

/-- What an act does. -/
def perform (s : State) (a : Act) : Host.Outcome State Fault Refusal :=
  match a with
  | .move i =>
    if isMove i && (s.dev.stopped.isNone || runsStopped i) then exec i s else .next s
  | .issue =>
    if s.dev.stopped.isSome then .next s
    else match fetched s with
      | none => .next s
      | some (.inl i) => exec i s
      | some (.inr w) => .next (issueIllegal w s)

/-- One step. -/
def step (s : State) : Host.Outcome State Fault Refusal :=
  let t := nextTurn s
  perform t.1 t.2

/-- The state with an instruction word where the next step issues it. -/
def State.withFetchWord (s : State) (nbits w : Nat) : State := placeWord s (BitVec.ofNat 64 (w % 2 ^ nbits))

end Sys2Proof.Machine
end

