-- ==== Sys2Proof/Safety.lean ====
section
/-! DEFINITION. What a safe run is: the machine's steps all answer a next state, and the memory keeps its canonical
form. -/
namespace Sys2Proof.Machine

/-- A state whose memory lists what it must and nothing else. -/
def State.canonical (s : State) : Prop := s.mem.wf = true

/-- A state from which a step goes on. -/
def State.goesOn (s : State) : Prop := ∃ t, step s = .next t

/-- A state from which a number of steps all go on. -/
def State.safeFor (s : State) : Nat → Prop
  | 0 => True
  | n + 1 => ∃ t, step s = .next t ∧ t.safeFor n

end Sys2Proof.Machine
end

