-- ==== Sys2Proof/Certificates/Slice0/Obligations.lean ====
section
/-! DEFINITION. Claims about the machine. Of an instruction that issues from a clause most say that, when nothing precedes
it (no trap waits, no other split of the strand is in handler mode, no window holds it, its checks pass), `exec` answers the
state its own effect gives, moved on to the split's next place; of a device step, that it answers the state its effect
gives when its condition holds. The values are written here from the specification's own words. -/

namespace Sys2Proof.Claims

open Sys2Proof Sys2Proof.Machine

/-! What precedes an instruction, and how it ends. -/

/-- The state in which an instruction has its effect: the issuing split's, with the tick's high half kept when the
instruction reads %tick_lo (R268). -/
def entered (i : Instr) (s : State) : State := sampleTick i s s.pick.ref

/-- What the instruction sees there. -/
def seen (i : Instr) (c : Ctl) (s : State) : View := (entered i s).view s.pick.ref c

/-- Nothing precedes the instruction: no trap to take at this boundary (R99, R545) and none that waits for a grant of SLU.IN
(R224), no other split of the strand in handler mode and no awaited window (R97, R140), and no check of R275 or R162 stops
it. -/
def Ready (i : Instr) (c : Ctl) (s : State) : Prop :=
  lowestTrap (s.view s.pick.ref c).sp.takeable = none ∧ (s.view s.pick.ref c).sp.trapHeld = false ∧
  issueHeld (s.view s.pick.ref c).st s.pick.ref (s.view s.pick.ref c).pos = none ∧
  precheck i (s.view s.pick.ref c) = none

/-- The instruction is done with a state: the split goes on to its next place, or its clause ends. -/
def Finishes (i : Instr) (s u : State) : Prop := exec i s = .next (advance u s.pick.ref)

/-- The instruction waits in place under a stall reason (R285). -/
def Waits (i : Instr) (s : State) (why : Nat) (u : State) : Prop := exec i s = .next (holdIn u s.pick.ref why)

/-- A split whose instruction traps in a state: the trap names its place (R99, R101), and while a SLU.IN of the split waits
for a grant the trap waits with it under reason 10 (R224). -/
def trapped (u : State) (r : SplitRef) (t : TrapRec) : State :=
  if (u.split r).entering then
    holdIn (u.setSplit r { u.split r with prog := {}, traps := (u.split r).traps ++ [⟨t, none, false⟩] }) r 10
  else takeTrap u r t (u.split r).running.h (u.split r).running.pos none

/-- The instruction traps in a state. -/
def Traps (i : Instr) (s : State) (t : TrapRec) (u : State) : Prop := exec i s = .next (trapped u s.pick.ref t)

/-- The instruction moves control itself and leaves this state. -/
def Leaves (i : Instr) (s u : State) : Prop := exec i s = .next u

/-- A result of an operation's width in every effective lane of a destination (R331, R270), with the flags the lanes raise
(R36). -/
def written (s : State) (v : View) (w64 : Bool) (d : Operand) (x : Nat → DWord) (fl : Nat → Flags) : State :=
  raiseFlags (putLanesW s v.r w64 d v.eff ((List.range 96).map fun l => if v.eff.getLsbD l then x l else 0)) v.r
    (joinFlags ((List.range 96).map fun l => if v.eff.getLsbD l then fl l else noFlag))

/-- The same without flags. -/
def writtenPlain (s : State) (v : View) (w64 : Bool) (d : Operand) (x : Nat → DWord) : State :=
  written s v w64 d x (fun _ => noFlag)

end Sys2Proof.Claims

open Sys2Proof Sys2Proof.Machine Sys2Proof.Claims

/-! Encoding. -/

/-- O1. Decoding is the inverse of encoding: every well-formed instruction that issues from a clause has a word, and that
word decodes to it, with every operand at every value its field admits (R264-R275). A device step has no word. -/
def Obligations.DecodeOfEncode : Prop :=
  ∀ i : Instr, (i.wf = true → i.ctl.isSome = true → ∃ w, encode i = some w ∧ decode w = .ok i) ∧
    (i.ctl = none → encode i = none)

/-- O2. Words written out from the encodings of R264 to R275 and R475 decode to the instructions they stand for: the
worked example of R346, and one word of each format and of each family. No word is read beyond its encoding: what decodes is well formed and encodes to the word it was read from, so no
reserved code, no non-zero unused field and no unnamed bit that is 1 is accepted (R275); and every word whose opcode lies in
a row of the grid without opcodes is refused (R272). -/
def Obligations.DecodeWords : Prop :=
  (decode 0x210B86801007FFFB = .ok (.iaddi ⟨0, true, 3, true, 0⟩ .i32 false (.v 2) (.v 1) 0x3FFFB) ∧
  decode 0x790F0CC000000000 = .ok (.phase ⟨0, true, 7, false, 0⟩ .ar .clu) ∧
  decode 0x9007003A84020400 = .ok (.xcLoad ⟨0, false, 7, false, 0⟩ (some 0) 0 1) ∧
  decode 0x300F000010080600 = .ok (.fadd ⟨0, true, 7, false, 0⟩ .rne false (.v 2) (.v 2) (.v 3)) ∧
  decode 0x200F000200001234 = .ok (.movi ⟨0, true, 7, false, 0⟩ (.v 2) 0x1234)) ∧
  (∀ w i, decode w = .ok i → i.wf = true ∧ encode i = some w) ∧
  (∀ w : BitVec 64, (w.extractLsb' 60 4 = 5 ∨ w.extractLsb' 60 4 = 8 ∨ w.extractLsb' 60 4 = 14 ∨ w.extractLsb' 60 4 = 15) →
    decode w = .error .reservedCode)

/-! Steps, reset, what precedes an instruction and what follows it (04 R96-R101, 07 R130-R137, 15 R268-R275, 27 R531). -/

namespace Sys2Proof.Claims

/-- A split may issue its next instruction: the device runs, its cluster is up and not held by a stuck scheduler, its strand is in
its slot. -/
def MayIssue (s : State) : Prop :=
  s.dev.stopped = none ∧ (s.strand s.pick.ref).state = .resident ∧ clusterUp s (coreCluster s.pick.ref.core) = true ∧
    (s.clu (coreCluster s.pick.ref.core)).stuck = false

/-- The word at the place of a split in its clause. -/
def atPlace (s : State) (w : BitVec 64) : Prop :=
  ∃ cl, (s.split s.pick.ref).clause = some cl ∧ cl.words[cl.pos]? = some w

end Sys2Proof.Claims

/-- O3. A step runs the decoded instruction. The turn of a step is the agenda's first entry, after its ticks and what the host
writes meanwhile, or the machine's own choice when none is left. A step of a split that may issue runs the instruction that the
word at its place decodes to, and a word that decodes to none is issued as an illegal one; a step of the device runs the device
step that its turn names; and a word laid where the next step issues it is what that step runs. -/
def Obligations.StepRunsDecoded : Prop :=
  (∀ (s : State) (t : Turn) (rest : List Turn), s.agenda = t :: rest →
    nextTurn s = ({ outside (passTime s t.dt) t.host with agenda := rest, pick := t.pick }, t.act)) ∧
  (∀ (s u : State) (w : BitVec 64) (i : Instr), nextTurn s = (u, .issue) → MayIssue u → atPlace u w → decode w = .ok i →
    step s = exec i u) ∧
  (∀ (s u : State) (w : BitVec 64) (e : DecodeError), nextTurn s = (u, .issue) → MayIssue u → atPlace u w → decode w = .error e →
    step s = .next (issueIllegal w u)) ∧
  (∀ (s u : State) (i : Instr), nextTurn s = (u, .move i) → i.ctl = none → u.dev.stopped = none → step s = exec i u) ∧
  (∀ (s : State) (w : BitVec 64), s.dev.stopped = none → (s.clu 0).stuck = false →
    ∃ u, nextTurn (s.withFetchWord 64 w.toNat) = (u, .issue) ∧ MayIssue u ∧ atPlace u w ∧ ∀ i, decode w = .ok i →
      step (s.withFetchWord 64 w.toNat) = exec i u)

/-- O4. No instruction stops the machine: every instruction and device step answers a next state from every state, and so does
every step. -/
def Obligations.NeverStops : Prop :=
  (∀ (i : Instr) (s : State), ∃ t, exec i s = .next t) ∧ (∀ s : State, s.goesOn) ∧ ∀ (n : Nat) (s : State), s.safeFor n

/-- O5. What reset leaves, as far as the rules give it: no memory byte is listed, so global SRAM reads 0 (R164), no granule is
poisoned, every tagged word is Full (R70), no context, queue, stream or crew is there, every cluster and stack is off, no core
holds CROWN, no mailbox order is open, and no command, packet or awaited result is under way. That the tick starts at 0 is the
model's choice (log 3). -/
def Obligations.ResetState : Prop :=
  let s := State.reset
  (∀ k, s.mem.read k = 0) ∧ s.poison = [] ∧ s.emptyTags = [] ∧ s.tainted = [] ∧ s.contexts = [] ∧ s.queues = [] ∧ s.streams = [] ∧
    (∀ k, clusterUp s k = false ∧ (s.clu k).tenant = none) ∧ (∀ k, (s.stackTab.get {} k).state = .off) ∧ s.dev.state = .off ∧
    s.dev.holder = 0xFF ∧ s.dev.armed = false ∧ s.dev.stopped = none ∧ s.pkts = [] ∧ s.tagReqs = [] ∧ s.resv = [] ∧ s.tick = 0 ∧
    (∀ c slot, (s.strandAt c slot).state = .vacant ∧ (s.strandAt c slot).results = []) ∧ s.mem.wf = true

/-- O6. The memory keeps its canonical form: addresses strictly rising, nothing listed that an unlisted address reads as. Every
step keeps it. -/
def Obligations.MemoryInvariant : Prop := ∀ s t : State, s.canonical → step s = .next t → t.canonical

/-- O7. A trap is taken at an instruction boundary, the one of lowest code first (R99): in a Faulted context it waits, while
another split of the strand is in handler mode it waits (R97), while a SLU.IN of its split waits for a grant a trap of a later
instruction waits with it under reason 10 (R224), and otherwise it is taken, a late one with the place of its
instruction and the place it stopped at (R545). Without one, the end of a lookahead window holds the instruction under reason 2
and, where none does, another split in handler mode under reason 26 (R97, R140, R523). Whatever the instruction is, it has no effect then. The checks before an instruction's effect (R96, R162, R275): a form that is not well formed or names a vector register at
or above the strand's count traps ILLEGAL_OP; at user privilege SEG.LD, TLB.INV, a write of a CSR from 0x100 on, a read of
CTXSTAT and the steward's engine commands trap PRIVILEGE; a handle read as a source whose command still runs holds the
instruction under reason 7, and one that has not ended with OK traps HANDLE_ERR with the handle. An illegal word traps ILLEGAL_OP
in its place. -/
def Obligations.BeforeEffect : Prop :=
  (∀ (i : Instr) (c : Ctl) (s : State), i.ctl = some c →
    let r := s.pick.ref
    let v := s.view r c
    let other := v.st.splits.any (fun e => e.1 != r.split && e.2.hm)
    (∀ w, lowestTrap v.sp.takeable = some w → w ∈ v.sp.takeable ∧ (∀ x ∈ v.sp.takeable, w.trap.code ≤ x.trap.code) ∧
      ((s.ctx v.st.ctx).state = .faulted → exec i s = .next (holdIn s r 27)) ∧
      ((s.ctx v.st.ctx).state ≠ .faulted → other = true → exec i s = .next (holdIn s r 26)) ∧
      ((s.ctx v.st.ctx).state ≠ .faulted → other = false →
        let u := s.setSplit r { v.sp with traps := v.sp.traps.erase w }
        (w.site = none → exec i s = .next (takeTrap u r w.trap v.h v.pos none)) ∧
        (∀ pc pos, w.site = some (pc, pos) → exec i s = .next (takeTrap u r w.trap pc pos (some (v.h, v.pos)))))) ∧
    (lowestTrap v.sp.takeable = none → v.sp.takeable = []) ∧
    (v.sp.takeable = [] → v.sp.trapHeld = true → exec i s = .next (holdIn s r 10)) ∧
    (v.sp.takeable = [] → v.sp.trapHeld = false →
      ((∃ p ∈ v.st.results, p.split = r.split ∧ ∃ g, p.gate = some g ∧ g ≤ v.pos) → exec i s = .next (holdIn s r 2)) ∧
      ((∀ p ∈ v.st.results, p.split = r.split → ∀ g, p.gate = some g → v.pos < g) → other = true →
        exec i s = .next (holdIn s r 26)))) ∧
  (∀ (i : Instr) (c : Ctl) (s : State), i.ctl = some c →
    let r := s.pick.ref
    let v := s.view r c
    let legal := i.wf = true ∧ ∀ e ∈ i.fields, ∀ n, e.2 = .v n → n.toNat + e.1.span ≤ v.st.nregs
    lowestTrap v.sp.takeable = none → v.sp.trapHeld = false → issueHeld v.st r v.pos = none →
      (¬ legal → Traps i s { code := 0x01, lanes := v.eff } s) ∧
      (legal → Instr.privileged i = true → ctxStw s v.st.ctx = false → Traps i s { code := 0x03, lanes := v.eff } s) ∧
      (legal → (Instr.privileged i = false ∨ ctxStw s v.st.ctx = true) → v.eff ≠ 0 →
        (∀ h ∈ handleSources i v.st, (handleStatus s v.st.ctx h).1 = 6 → exec i s = .next (holdIn s r 7)) ∧
        (∀ h hs, handleSources i v.st = h :: hs → (handleStatus s v.st.ctx h).1 ≠ 0 →
          (∀ h' ∈ handleSources i v.st, (handleStatus s v.st.ctx h').1 ≠ 6) → Traps i s { code := 0x0A, lanes := v.eff, info := h } s))) ∧
  (∀ (i : Instr), Instr.privileged i = true ↔ (∃ c g a, i = .segLd c g a) ∨ (∃ c k, i = .tlbInv c k) ∨
    (∃ c a n, i = .csrw c a n ∧ 0x100 ≤ n.toNat) ∨ (∃ c d, i = .csrr c d 0x181) ∨ (∃ c h a b, i = .stwKeyspill c h a b) ∨
    (∃ c h a b, i = .stwDump c h a b)) ∧
  (∀ (w : BitVec 64) (s : State), let v := s.view s.pick.ref (Raw.ofWord w).ctl
    lowestTrap v.sp.takeable = none → v.sp.trapHeld = false → issueHeld v.st s.pick.ref v.pos = none →
    issueIllegal w s = trapped s s.pick.ref { code := 0x01, lanes := v.eff })

/-- O8. Taking a trap (R97, R98, R101). With a handler and outside handler mode, the split enters handler mode at TVEC with its
mask, lanes, registers, predicates and flags, its clause is over, and memory changes by nothing but the frame that its core
stores into its phase buffer, no byte of memory at once; the frame's header gives the code, the default RES, the split, the
place, the flags, the masks, the address, the information and the tick. Without a handler, or in handler mode, the context
becomes Faulted with the fault record and the trap stays pending. -/
def Obligations.TrapEntry : Prop :=
  (∀ (s : State) (r : SplitRef) (t : TrapRec) (pc : BitVec 48) (pos : Nat) (late : Option (BitVec 48 × Nat)),
    let u := takeTrap s r t pc pos late
    let sp := s.split r
    (ctxTvec s (s.strand r).ctx ≠ 0 → sp.hm = false →
      (u.split r).hm = true ∧ (u.split r).state = .handler ∧ (u.split r).pc = ctxTvec s (s.strand r).ctx ∧
      (u.split r).clause = none ∧ (u.split r).mask = sp.mask ∧ (u.split r).own = sp.own ∧ (u.split r).waits = sp.waits ∧
      (u.strand r).v = (s.strand r).v ∧ (u.strand r).s = (s.strand r).s ∧ (u.strand r).p = (s.strand r).p ∧
      (u.strand r).h = (s.strand r).h ∧ (u.strand r).flags = (s.strand r).flags ∧ u.mem = s.mem ∧ u.contexts = s.contexts) ∧
    ((ctxTvec s (s.strand r).ctx = 0 ∨ sp.hm = true) → (s.ctx (s.strand r).ctx).state ≠ .dumping →
      (u.ctx (s.strand r).ctx).state = .faulted ∧ (u.ctx (s.strand r).ctx).fault = some
        { code := t.code, core := r.core, slot := r.slot, split := r.split, pc := pc, tick := s.tick, addr := t.addr } ∧
      (u.split r).traps = sp.traps ++ [⟨t, if late.isSome then some (pc, pos) else none, false⟩] ∧ (u.split r).hm = sp.hm ∧
      (u.split r).pc = sp.pc ∧ u.mem = s.mem)) ∧
  (∀ (t : TrapRec) (split pos tick : Nat) (flags : Flags) (late : Option (BitVec 48 × Nat)) (pc : BitVec 48) (mask : LaneMask),
    t.code < 256 → split < 4 → pos < 24 → tick < 2 ^ 64 → t.addr < 2 ^ 64 → (∀ e, late = some e → e.2 < 32) →
    let x := BitVec.ofNat 512 (frameHeader t split pos flags late pc mask tick)
    x.extractLsb' 504 8 = BitVec.ofNat 8 t.code ∧ x.extractLsb' 500 2 = BitVec.ofNat 2 split ∧
      x.extractLsb' 495 5 = BitVec.ofNat 5 pos ∧ x.extractLsb' 490 5 = flags ∧ x.getLsbD 489 = late.isSome ∧
      x.extractLsb' 384 48 = pc ∧ x.extractLsb' 288 96 = t.lanes ∧ x.extractLsb' 192 96 = mask ∧
      x.extractLsb' 128 64 = BitVec.ofNat 64 t.addr ∧ x.extractLsb' 64 64 = t.info ∧ x.extractLsb' 0 64 = BitVec.ofNat 64 tick ∧
      x.extractLsb' 502 2 = (if t.code ∈ [0x04, 0x05, 0x07, 0x11, 0x16, 0x1B] then 0 else if t.code ∈ [0x02, 0x12] then 2 else 1))

/-- O9. After an instruction (R130, R270): inside its clause the split goes on to the next place, no longer waiting, and nothing else
changes; after
the last place, with no deferred entry of its own and no other split, its PC is the header after the clause, its temporaries
are gone, its lanes and its strand's registers and memory are as they were. -/
def Obligations.NextPlace : Prop :=
  (∀ (s : State) (r : SplitRef) (cl : Clause), (s.split r).clause = some cl → cl.alone = none → cl.pos + 1 < cl.words.length →
    advance s r = s.setSplit r { s.split r with
      clause := some { cl with pos := cl.pos + 1 }, prog := {}, stall := 0, since := s.runTick
      state := if (s.split r).hm then .handler else .ready }) ∧
  (∀ (s : State) (r : SplitRef) (cl : Clause), (s.split r).clause = some cl → cl.alone = none → cl.words.length ≤ cl.pos + 1 →
    topDefer (deferStack s r.core r.slot) r.split = none → (∀ k, k ≠ r.split → ((s.strand r).split k).state = .free) →
    let t := advance s r
    (t.split r).pc = cl.h + BitVec.ofNat 48 (8 * (cl.words.length + 1)) ∧ (t.split r).clause = none ∧ (t.split r).temps = [] ∧
      (t.split r).mask = (s.split r).mask ∧ (t.split r).own = (s.split r).own ∧ (t.split r).hm = (s.split r).hm ∧
      (t.strand r).v = (s.strand r).v ∧ (t.strand r).s = (s.strand r).s ∧ (t.strand r).p = (s.strand r).p ∧
      (t.strand r).h = (s.strand r).h ∧ (t.strand r).flags = (s.strand r).flags ∧ t.mem = s.mem)

/-- O10. Operands (R136, R137, R268, R270). An s source gives every lane one value, %s60 to %s62 the split's mask, p7 true; an
inline constant its sign-extended value, exact as FP32. A vector destination changes in the lanes of the mask only, a scalar one
takes the lowest lane's value and is unchanged without one, s60 to s62 set the mask within the split's lanes, a predicate changes
in the lanes of the mask and p7 never. -/
def Obligations.OperandForms : Prop :=
  (∀ (v : View) (l k : Nat) (n : BitVec 6), v.rd (.s n) l = v.rd (.s n) k ∧
    (60 ≤ n.toNat → n.toNat ≤ 62 → v.rd (.s n) l = v.sp.mask.extractLsb' (32 * (n.toNat - 60)) 32)) ∧
  (∀ (v : View) (l : Nat), v.rdP (.p 7) l = decide (l < 96) ∧ v.rd (.sp .zero) l = 0 ∧ v.rd (.sp .lane) l = BitVec.ofNat 32 l) ∧
  (∀ (v : View) (l : Nat) (k : BitVec 7), v.rd (.imm k) l = k.signExtend 32 ∧ v.rd64 (.imm k) l = k.signExtend 64 ∧
    ∀ ftz, v.rdF ftz (.imm k) l = intFVal k.toInt) ∧
  (∀ (s : State) (r : SplitRef) (n : BitVec 8) (m : LaneMask) (x : LaneVec) (k l : Nat), l < 96 →
    (((putLanes s r (.v n) m x).strand r).v.get [] k).getD l 0 =
      if k = n.toNat ∧ m.getLsbD l then x.getD l 0 else ((s.strand r).v.get [] k).getD l 0) ∧
  (∀ (s : State) (r : SplitRef) (n : BitVec 6) (m : LaneMask) (x : LaneVec), (m = 0 → (putLanes s r (.s n) m x).strand r = s.strand r) ∧
    (∀ l, m.getLsbD l = true → (∀ k, k < l → m.getLsbD k = false) → n.toNat < 60 → ∀ k,
      ((putLanes s r (.s n) m x).strand r).s.get 0 k = if k = n.toNat then x.getD l 0 else (s.strand r).s.get 0 k) ∧
    (∀ l, m.getLsbD l = true → (∀ k, k < l → m.getLsbD k = false) → 60 ≤ n.toNat → n.toNat ≤ 62 → ∀ b, b < 96 →
      ((putLanes s r (.s n) m x).split r).mask.getLsbD b = ((s.split r).own.getLsbD b &&
        (if b / 32 = n.toNat - 60 then (x.getD l 0).getLsbD (b % 32) else (s.split r).mask.getLsbD b)))) ∧
  (∀ (s : State) (r : SplitRef) (n : BitVec 3) (m : LaneMask) (x : LaneVec) (k : BitVec 3) (l : Nat), l < 96 →
    (((putLanes s r (.p n) m x).strand r).pred k).getLsbD l =
      if n ≠ 7 ∧ k = n ∧ m.getLsbD l then x.getD l 0 != 0 else ((s.strand r).pred k).getLsbD l)

/-! Integer arithmetic, logic and moves (17 R331-R378). -/

namespace Sys2Proof.Claims

/-- The least and the greatest number of an integer format (R26). -/
def leastOf : Fmt → Int
  | .i4 => -2 ^ 3 | .i8 => -2 ^ 7 | .i16 => -2 ^ 15 | .i32 => -2 ^ 31 | .i64 => -2 ^ 63
  | _ => 0
def greatestOf : Fmt → Int
  | .i4 => 2 ^ 3 - 1 | .n4 => 2 ^ 4 - 1 | .i8 => 2 ^ 7 - 1 | .n8 => 2 ^ 8 - 1 | .i16 => 2 ^ 15 - 1 | .n16 => 2 ^ 16 - 1
  | .i32 => 2 ^ 31 - 1 | .n32 => 2 ^ 32 - 1 | .i64 => 2 ^ 63 - 1 | .n64 => 2 ^ 64 - 1
  | _ => 0

/-- sat() of R26: clamped to the format's range. -/
def clamped (ty : Fmt) (x : Int) : Int := max (leastOf ty) (min (greatestOf ty) x)

/-- What an instruction of R332 writes for an exact integer x: clamped under SAT, else x mod 2^width. -/
def narrowed (ty : Fmt) (sat : Bool) (x : Int) : DWord :=
  BitVec.ofInt 64 ((if sat then clamped ty x else x) % (greatestOf ty - leastOf ty + 1))

/-- OF, under SAT, when the clamp changes the value (R331). -/
def overflowed (ty : Fmt) (sat : Bool) (x : Int) : Flags := if sat && clamped ty x != x then 0b00100 else 0

/-- The amount of a shift of a width (R357). -/
def amountOf (width : Nat) (clamp : Bool) (n : Nat) : Nat := if clamp then min n width else n % width

/-- The exact integer of each instruction that computes one, with its type, its SAT and its destination. -/
def integerOp : Instr → Option (Ctl × Fmt × Bool × Operand × (View → Nat → Int))
  | .iadd c ty sat d a b => some (c, ty, sat, d, fun v l => v.rdInt ty a l + v.rdInt ty b l)
  | .isub c ty sat d a b => some (c, ty, sat, d, fun v l => v.rdInt ty a l - v.rdInt ty b l)
  | .imul c ty sat d a b => some (c, ty, sat, d, fun v l => v.rdInt ty a l * v.rdInt ty b l)
  | .imulh c ty _ d a b => some (c, ty, false, d, fun v l => (v.rdInt ty a l * v.rdInt ty b l) / 2 ^ 32)
  | .imad c ty sat d a b e => some (c, ty, sat, d, fun v l => v.rdInt ty a l * v.rdInt ty b l + v.rdInt ty e l)
  | .imadw c ty _ d a b e => some (c, .i64, false, d, fun v l => v.rdInt ty a l * v.rdInt ty b l + (v.rd64 e l).toInt)
  | .iabs c ty sat d a => some (c, ty, sat, d, fun v l => if v.rdInt ty a l < 0 then -v.rdInt ty a l else v.rdInt ty a l)
  | .ineg c ty sat d a => some (c, ty, sat, d, fun v l => -v.rdInt ty a l)
  | .imin c ty _ d a b => some (c, ty, false, d, fun v l => if v.rdInt ty a l ≤ v.rdInt ty b l then v.rdInt ty a l else v.rdInt ty b l)
  | .imax c ty _ d a b => some (c, ty, false, d, fun v l => if v.rdInt ty a l ≤ v.rdInt ty b l then v.rdInt ty b l else v.rdInt ty a l)
  | .iclamp c ty _ d a b e => some (c, ty, false, d, fun v l => min (max (v.rdInt ty a l) (v.rdInt ty b l)) (v.rdInt ty e l))
  | .iaddi c ty sat d a imm => some (c, ty, sat, d, fun v l => v.rdInt ty a l + immInt ty imm)
  | .imuli c ty sat d a imm => some (c, ty, sat, d, fun v l => v.rdInt ty a l * immInt ty imm)
  | .cvti c dty sty sat d a => some (c, dty, sat, d, fun v l => v.rdInt sty a l)
  | .sar c w64 clamp d a b => some (c, if w64 then .i64 else .i32, false, d, fun v l =>
      (if w64 then (v.rd64 a l).toInt else (v.rd a l).toInt) / 2 ^ amountOf (if w64 then 64 else 32) clamp (v.rd b l).toNat)
  | .idp4 c sa sb sat d a b e => some (c, .i32, sat, d, fun v l =>
      let x (sg : Bool) (w : Word) (k : Nat) : Int := if sg then (w.extractLsb' (8 * k) 8).toInt else (w.extractLsb' (8 * k) 8).toNat
      (v.rd e l).toInt + x sa (v.rd a l) 0 * x sb (v.rd b l) 0 + x sa (v.rd a l) 1 * x sb (v.rd b l) 1 +
        x sa (v.rd a l) 2 * x sb (v.rd b l) 2 + x sa (v.rd a l) 3 * x sb (v.rd b l) 3)
  | .idp8 c sa sb sat d a b e => some (c, .i32, sat, d, fun v l =>
      let x (sg : Bool) (w : Word) (k : Nat) : Int := if sg then (w.extractLsb' (4 * k) 4).toInt else (w.extractLsb' (4 * k) 4).toNat
      ((List.range 8).map fun k => x sa (v.rd a l) k * x sb (v.rd b l) k).foldl (· + ·) (v.rd e l).toInt)
  | _ => none

/-- Bits [p + n − 1 : p] of a word, n of them clipped to the word (R367). -/
def clippedLen (p n : Nat) : Nat := if 32 ≤ p then 0 else min n (32 - p)

/-- The result of each instruction that moves or combines bits, with whether it is 64 bits wide, and its destination. -/
def bitOp : Instr → Option (Ctl × Bool × Operand × (View → Nat → DWord))
  | .shl c w64 clamp d a b => some (c, w64, d, fun v l =>
      BitVec.ofNat 64 ((v.rdW w64 a l).toNat * 2 ^ amountOf (if w64 then 64 else 32) clamp (v.rd b l).toNat))
  | .shr c w64 clamp d a b => some (c, w64, d, fun v l =>
      BitVec.ofNat 64 ((v.rdW w64 a l).toNat / 2 ^ amountOf (if w64 then 64 else 32) clamp (v.rd b l).toNat))
  | .rotl c w64 d a b => some (c, w64, d, fun v l =>
      if w64 then (v.rd64 a l).rotateLeft ((v.rd b l).toNat % 64)
      else ((v.rd a l).rotateLeft ((v.rd b l).toNat % 32)).setWidth 64)
  | .funsh c clamp right d a b e => some (c, false, d, fun v l =>
      let y := (v.rd b l).toNat * 2 ^ 32 + (v.rd a l).toNat
      let n := amountOf 32 clamp (v.rd e l).toNat
      if right then BitVec.ofNat 64 (y / 2 ^ n % 2 ^ 32) else BitVec.ofNat 64 (y * 2 ^ n / 2 ^ 32 % 2 ^ 32))
  | .popc c w64 d a => some (c, false, d, fun v l =>
      BitVec.ofNat 64 ((List.range (if w64 then 64 else 32)).countP fun i => (v.rdW w64 a l).getLsbD i))
  | .clz c w64 d a => some (c, false, d, fun v l =>
      let w := if w64 then 64 else 32
      BitVec.ofNat 64 (((List.range w).find? fun k => (v.rdW w64 a l).getLsbD (w - 1 - k)).getD w))
  | .ffs c w64 d a => some (c, false, d, fun v l =>
      match (List.range 64).find? fun i => (v.rdW w64 a l).getLsbD i with
      | some i => BitVec.ofNat 64 i
      | none => 0xFFFFFFFF)
  | .bfx c sx d a b e => some (c, false, d, fun v l =>
      let p := (v.rd b l).toNat % 256
      let n := clippedLen p ((v.rd e l).toNat % 256)
      let x := (v.rd a l).toNat / 2 ^ p % 2 ^ n
      if n = 0 then 0 else if sx then ((BitVec.ofNat n x).signExtend 32).setWidth 64 else BitVec.ofNat 64 x)
  | .bfi c d a b e => some (c, false, d, fun v l =>
      let p := (v.rd e l).toNat % 256
      let n := clippedLen p ((v.rd e l).toNat / 256 % 256)
      BitVec.ofNat 64 ((v.rd b l).toNat % 2 ^ p + (v.rd a l).toNat % 2 ^ n * 2 ^ p + (v.rd b l).toNat / 2 ^ (p + n) * 2 ^ (p + n)))
  | .movi c d imm => some (c, false, d, fun _ _ => BitVec.ofNat 64 imm.toNat)
  | .andi c d a imm => some (c, false, d, fun v l => (v.rd a l &&& imm.signExtend 32).setWidth 64)
  | .ori c d a imm => some (c, false, d, fun v l => (v.rd a l ||| imm.signExtend 32).setWidth 64)
  | .xori c d a imm => some (c, false, d, fun v l => (v.rd a l ^^^ imm.signExtend 32).setWidth 64)
  | .lea c sh d a b => some (c, false, d, fun v l =>
      BitVec.ofNat 64 (((v.rd a l).toNat + (v.rd b l).toNat * 2 ^ sh.toNat) % 2 ^ 32))
  | .leaw c sh d a b => some (c, true, d, fun v l => BitVec.ofInt 64 ((v.rd64 a l).toInt + (v.rd b l).toInt * 2 ^ sh.toNat))
  | .pack c ty pos d a b => some (c, false, d, fun v l =>
      let w := ty.width
      let p := w * pos.toNat
      BitVec.ofNat 64 ((v.rd b l).toNat % 2 ^ p + (v.rd a l).toNat % 2 ^ w * 2 ^ p +
        (v.rd b l).toNat / 2 ^ (p + w) * 2 ^ (p + w)))
  | _ => none

end Sys2Proof.Claims

/-- O11. Integer arithmetic: when nothing precedes it, an instruction of R333 to R338, R341 to R347, R360, R376, R377 or R378
is done with its exact integer in every effective lane of its destination, clamped to its type under SAT and otherwise
reduced modulo 2^width (R332), and raises OF exactly where a clamp changed a value; nothing else of the state changes. IADDW and ISUBW (R339, R340): the sum with the carry predicate, or the difference with the borrow predicate, modulo
2^32, then the carry out (the sum is 2^32 or more) or the borrow out (the difference is below 0) in the predicate. -/
def Obligations.IntegerArithmetic : Prop :=
  (∀ (i : Instr) (c : Ctl) (ty : Fmt) (sat : Bool) (d : Operand) (f : View → Nat → Int) (s : State),
    integerOp i = some (c, ty, sat, d, f) → i.wf = true → Ready i c s →
    Finishes i s (written (entered i s) (seen i c s) ty.is64 d (fun l => narrowed ty sat (f (seen i c s) l))
      (fun l => overflowed ty sat (f (seen i c s) l)))) ∧
  (∀ (c : Ctl) (ty : Fmt) (sat : Bool) (d a b e : Operand) (s : State), let i := Instr.iaddw c ty sat d a b e
    let v := seen i c s
    let sum := fun l => (v.rd a l).toNat + (v.rd b l).toNat + (if v.rdP e l then 1 else 0)
    Ready i c s → Finishes i s (putPred (writtenPlain (entered i s) v false d fun l => BitVec.ofNat 64 (sum l % 2 ^ 32)) v.r e v.eff
      fun l => decide (2 ^ 32 ≤ sum l))) ∧
  (∀ (c : Ctl) (ty : Fmt) (sat : Bool) (d a b e : Operand) (s : State), let i := Instr.isubw c ty sat d a b e
    let v := seen i c s
    let diff : Nat → Int := fun l => (v.rd a l).toNat - (v.rd b l).toNat - (if v.rdP e l then 1 else 0)
    Ready i c s → Finishes i s (putPred (writtenPlain (entered i s) v false d fun l => BitVec.ofInt 64 (diff l % 2 ^ 32)) v.r e v.eff
      fun l => decide (diff l < 0)))

/-- O12. Bitwise logic and moves, as the rules give them: AND, OR, XOR and ANDN write a and b, a or b, a xor b, a and (not b)
(R349-R352); SEL writes a where the predicate holds and b elsewhere (R371); MOV writes a (R372); all in every effective
lane, bit by bit and of 64 bits with W64, and nothing else of the state changes. -/
def Obligations.BitwiseLogicAndMoves : Prop :=
  ∀ (c : Ctl) (w64 : Bool) (d a b e : Operand) (s : State),
    let r := fun (i : Instr) (bit : View → Nat → Nat → Bool) => Ready i c s →
      ∃ x : Nat → DWord, (∀ l k, k < (if w64 then 64 else 32) → (x l).getLsbD k = bit (seen i c s) l k) ∧
        Finishes i s (writtenPlain (entered i s) (seen i c s) w64 d x)
    r (.iand c w64 d a b) (fun v l k => (v.rdW w64 a l).getLsbD k && (v.rdW w64 b l).getLsbD k) ∧
    r (.ior c w64 d a b) (fun v l k => (v.rdW w64 a l).getLsbD k || (v.rdW w64 b l).getLsbD k) ∧
    r (.ixor c w64 d a b) (fun v l k => (v.rdW w64 a l).getLsbD k != (v.rdW w64 b l).getLsbD k) ∧
    r (.andn c w64 d a b) (fun v l k => (v.rdW w64 a l).getLsbD k && !(v.rdW w64 b l).getLsbD k) ∧
    r (.sel c w64 d a b e) (fun v l k => if v.rdP e l then (v.rdW w64 a l).getLsbD k else (v.rdW w64 b l).getLsbD k) ∧
    r (.mov c w64 d a) (fun v l k => (v.rdW w64 a l).getLsbD k)

/-- O13. TRI, PLOP and BREV bit by bit: bit i of TRI's result is bit 4a + 2b + c of its table, for bits a, b and c of its
sources (R353); PLOP writes that bit for its three predicates (R413); bit i of BREV's result is bit w − 1 − i of its source
(R366). Shifts, counts, bit fields, immediate logic, addresses and packing: when nothing precedes it, an instruction of
R354 to R359, R361 to R365, R367, R368, R373 to R375 or R409 is done with the result of its rule in every effective lane of its
destination; it raises no flag, and nothing else of the state changes. -/
def Obligations.BitOperations : Prop :=
  (∀ (c : Ctl) (tt : BitVec 8) (d a b e : Operand) (s : State), let i := Instr.tri c tt d a b e
    Ready i c s → ∃ x : Nat → DWord,
      (∀ l k, k < 32 → (x l).getLsbD k = tt.getLsbD (4 * (((seen i c s).rd a l).getLsbD k).toNat +
        2 * (((seen i c s).rd b l).getLsbD k).toNat + (((seen i c s).rd e l).getLsbD k).toNat)) ∧
      Finishes i s (writtenPlain (entered i s) (seen i c s) false d x)) ∧
  (∀ (c : Ctl) (tt : BitVec 8) (d a b e : Operand) (s : State), let i := Instr.plop c tt d a b e
    Ready i c s → Finishes i s (putPred (entered i s) s.pick.ref d (seen i c s).eff fun l =>
      tt.getLsbD (4 * ((seen i c s).rdP a l).toNat + 2 * ((seen i c s).rdP b l).toNat + ((seen i c s).rdP e l).toNat))) ∧
  (∀ (c : Ctl) (w64 : Bool) (d a : Operand) (s : State), let i := Instr.brev c w64 d a
    Ready i c s → ∃ x : Nat → DWord,
      (∀ l k, k < (if w64 then 64 else 32) → (x l).getLsbD k = ((seen i c s).rdW w64 a l).getLsbD ((if w64 then 64 else 32) - 1 - k)) ∧
      Finishes i s (writtenPlain (entered i s) (seen i c s) w64 d x)) ∧
  (∀ (i : Instr) (c : Ctl) (w64 : Bool) (d : Operand) (f : View → Nat → DWord) (s : State),
    bitOp i = some (c, w64, d, f) → i.wf = true → Ready i c s →
    Finishes i s (writtenPlain (entered i s) (seen i c s) w64 d (f (seen i c s))))

/-! Comparison, predicates and floating point (02 R23-R39, 17 R369-R416). -/

namespace Sys2Proof.Claims

/-- A comparison of integers by a condition (R369). -/
def holdsInt : Cond → Int → Int → Bool
  | .eq, x, y => decide (x = y)
  | .ne, x, y => decide (x ≠ y)
  | .lt, x, y => decide (x < y)
  | .le, x, y => decide (x < y ∨ x = y)
  | .gt, x, y => decide (y < x)
  | .ge, x, y => decide (y < x ∨ x = y)
  | _, _, _ => true

/-- The bits [31:0], [63:32] and [95:64] of a mask in an s triple (R414). -/
def tripleWritten (s : State) (r : SplitRef) (n : BitVec 6) (m : LaneMask) : State :=
  let w := fun (s : State) (k : Nat) (x : Word) => s.setStrand r (putScalar (s.strand r) r.split k x)
  w (w (w s n.toNat (m.extractLsb' 0 32)) (n.toNat + 1) (m.extractLsb' 32 32)) (n.toNat + 2) (m.extractLsb' 64 32)

end Sys2Proof.Claims

/-- O14. ICMP, ICMPI and FCMP: when nothing precedes it, each completes for every operand, and writes the comparison of their sources in every effective lane of a predicate (R369, R370, R386):
integers by the type; FP32 with every ordered condition false and .ne true for a NaN, −0 equal to +0, and NV raised for a
signalling NaN, or for a quiet one under .lt, .le, .gt and .ge. -/
def Obligations.Comparisons : Prop :=
  (∀ (c : Ctl) (ty : Fmt) (cond : Cond) (d a b : Operand) (s : State), let i := Instr.icmp c ty cond d a b
    let v := seen i c s
    Ready i c s → exec (.icmp c ty cond d a b) s =
      .next (advance (putPred (entered i s) v.r d v.eff fun l => holdsInt cond (v.rdInt ty a l) (v.rdInt ty b l)) s.pick.ref)) ∧
  (∀ (c : Ctl) (ty : Fmt) (cond : Cond) (d a : Operand) (imm : BitVec 18) (s : State), let i := Instr.icmpi c ty cond d a imm
    let v := seen i c s
    Ready i c s → exec (.icmpi c ty cond d a imm) s =
      .next (advance (putPred (entered i s) v.r d v.eff fun l => holdsInt cond (v.rdInt ty a l) (immInt ty imm)) s.pick.ref)) ∧
  (∀ (c : Ctl) (ty : Fmt) (cond : Cond) (d a b : Operand) (s : State), let i := Instr.fcmp c ty cond d a b
    let v := seen i c s
    let un := fun l => (v.rdF false a l).isNan || (v.rdF false b l).isNan
    Ready i c s → ∃ p : Nat → Bool,
      (∀ l, un l = true → p l = (cond == .ne || cond == .unord)) ∧
      (∀ l, un l = false → cond = .ord → p l = true) ∧ (∀ l, un l = false → cond = .unord → p l = false) ∧
      (∀ l, un l = false → cond = .lt → p l = ltV false (v.rdF false a l) (v.rdF false b l)) ∧
      (∀ l, un l = false → cond = .gt → p l = ltV false (v.rdF false b l) (v.rdF false a l)) ∧
      (∀ l, un l = false → cond = .ge → p l = !ltV false (v.rdF false a l) (v.rdF false b l)) ∧
      (∀ l, un l = false → cond = .le → p l = !ltV false (v.rdF false b l) (v.rdF false a l)) ∧
      (∀ l, un l = false → cond = .eq → p l = (!ltV false (v.rdF false a l) (v.rdF false b l) && !ltV false (v.rdF false b l) (v.rdF false a l))) ∧
      (∀ l, un l = false → cond = .ne → p l = (ltV false (v.rdF false a l) (v.rdF false b l) || ltV false (v.rdF false b l) (v.rdF false a l))) ∧
      exec (.fcmp c ty cond d a b) s = .next (advance (raiseFlags (putPred (entered i s) v.r d v.eff p) v.r
        (if (lanesOf v.eff).any fun l => v.rdF false a l == .nan true || v.rdF false b l == .nan true ||
            (un l && (cond == .lt || cond == .le || cond == .gt || cond == .ge)) then 0b00001 else 0)) s.pick.ref))

/-- O15. VOTE and ELECT over the effective lanes E (R415, R416): all, any, alike, the mask of the lanes of E where the
predicate holds, their number; the elected lane is the lowest of E; with E empty nothing is written. PMOV by its three forms (R414) and FCLASS's ten classes, one bit each (R387). -/
def Obligations.PredicateOperations : Prop :=
  (∀ (c : Ctl) (form : VoteForm) (d a : Operand) (s : State), let i := Instr.vote c form d a
    let v := seen i c s
    let hit := fun l => v.eff.getLsbD l && v.rdP a l
    let n := (List.range 96).countP hit
    let m := (List.range 96).countP fun l => v.eff.getLsbD l
    i.wf = true → Ready i c s → Finishes i s (if v.eff = 0 then entered i s else
      match form, d with
      | .every, _ => putPred (entered i s) v.r d v.eff fun _ => n == m
      | .some, _ => putPred (entered i s) v.r d v.eff fun _ => n != 0
      | .alike, _ => putPred (entered i s) v.r d v.eff fun _ => n == m || n == 0
      | .bits, .s k => tripleWritten (entered i s) v.r k (v.rdMask a &&& v.eff)
      | .bits, _ => entered i s
      | .count, _ => putLanes (entered i s) v.r d v.eff (List.replicate 96 (BitVec.ofNat 32 n)))) ∧
  (∀ (c : Ctl) (d : Operand) (s : State), let i := Instr.elect c d
    let v := seen i c s
    Ready i c s → Finishes i s (putPred (entered i s) v.r d v.eff
      fun l => v.eff.getLsbD l && !((List.range l).any fun k => v.eff.getLsbD k))) ∧
  (∀ (c : Ctl) (n m : BitVec 3) (k : BitVec 6) (s : State),
    (let i := Instr.pmov c (.p n) (.p m)
     Ready i c s → Finishes i s (putPred (entered i s) s.pick.ref (.p n) (seen i c s).eff fun l => ((seen i c s).st.pred m).getLsbD l)) ∧
    (let i := Instr.pmov c (.p n) (.s k)
     let x := fun j => (seen i c s).rd (.s (k + BitVec.ofNat 6 j)) 0
     Ready i c s → Finishes i s (putPred (entered i s) s.pick.ref (.p n) (seen i c s).eff fun l => (x 2 ++ x 1 ++ x 0).getLsbD l)) ∧
    (let i := Instr.pmov c (.s k) (.p m)
     Ready i c s → Finishes i s (if (seen i c s).eff = 0 then entered i s
       else tripleWritten (entered i s) s.pick.ref k ((seen i c s).st.pred m)))) ∧
  (∀ (c : Ctl) (d a : Operand) (s : State), let i := Instr.fclass c d a
    Ready i c s → ∃ x : Nat → Word, Finishes i s (writtenPlain (entered i s) (seen i c s) false d fun l => (x l).setWidth 64) ∧
      ∀ l, let w := (seen i c s).rdFBits a l
        let e := w.extractLsb' 23 8
        let m := w.extractLsb' 0 23
        let neg := w.getLsbD 31
        x l = if e = 255 then (if m = 0 then (if neg then 0x001 else 0x080) else if m.getLsbD 22 then 0x200 else 0x100)
          else if e = 0 then (if m = 0 then (if neg then 0x008 else 0x010) else if neg then 0x004 else 0x020)
          else if neg then 0x002 else 0x040)

/-- O16. Floating-point arithmetic and conversion: when nothing precedes it, each of FADD, FSUB, FMUL, FFMA, FMIN, FMAX (R380-R385),
FRND, FSCALE, FCVT, FTOI, ITOF (R388-R392), FDOT2 (R408) and UNPACK (R410) completes for every operand: it is done with its exact
value rounded once (R379) in every effective lane of its destination and raises the flags of every such lane; nothing else of
the state changes. Packed halves: HADD2, HMUL2, HFMA2, HMIN2 and HMAX2 (R402-R407) complete with element 0 in bits [15:0] and
element 1 in bits [31:16], each computed and rounded on its own, with its own flags. -/
def Obligations.FloatArithmetic : Prop :=
  ∀ (c : Ctl) (rm : Rnd) (ftz : Bool) (d a b e : Operand) (s : State),
    let done := fun (i : Instr) (w64 : Bool) (f : View → Nat → Nat × Flags) => Ready i c s →
      exec i s = .next (advance (written (entered i s) (seen i c s) w64 d (fun l => BitVec.ofNat 64 (f (seen i c s) l).1)
        (fun l => (f (seen i c s) l).2)) s.pick.ref)
    let halves := fun (i : Instr) (f : View → Nat → Nat → Nat × Flags) => Ready i c s →
      exec i s = .next (advance (written (entered i s) (seen i c s) false d
        (fun l => ((BitVec.ofNat 16 (f (seen i c s) l 1).1 ++ BitVec.ofNat 16 (f (seen i c s) l 0).1 : Word)).setWidth 64)
        (fun l => (f (seen i c s) l 0).2 ||| (f (seen i c s) l 1).2)) s.pick.ref)
    done (.fadd c rm ftz d a b) false (fun v l => ff32.add rm ftz (v.rdF ftz a l) (v.rdF ftz b l)) ∧
    done (.fsub c rm ftz d a b) false (fun v l => ff32.add rm ftz (v.rdF ftz a l) (v.rdF ftz b l).negate) ∧
    done (.fmul c rm ftz d a b) false (fun v l => ff32.mul rm ftz (v.rdF ftz a l) (v.rdF ftz b l)) ∧
    done (.ffma c rm ftz d a b e) false (fun v l => ff32.fma rm ftz (v.rdF ftz a l) (v.rdF ftz b l) (v.rdF ftz e l)) ∧
    done (.fmin c ftz d a b) false (fun v l => ff32.minMax false (v.rdF ftz a l) (v.rdF ftz b l)) ∧
    done (.fmax c ftz d a b) false (fun v l => ff32.minMax true (v.rdF ftz a l) (v.rdF ftz b l)) ∧
    done (.frnd c rm ftz d a) false (fun v l => frndV rm (v.rdF ftz a l)) ∧
    done (.fscale c rm ftz d a b) false (fun v l => fscaleV rm ftz (v.rdF ftz a l) (v.rdInt .i32 b l)) ∧
    (∀ df sf sat, done (.fcvt c df sf rm sat ftz d a) false (fun v l => fcvtV df sf rm sat ftz (v.rdFmt sf ftz a l))) ∧
    (∀ ty, done (.ftoi c ty rm ftz d a) ty.is64 (fun v l => ftoiV ty rm (v.rdF ftz a l))) ∧
    (∀ ty, done (.itof c ty rm ftz d a) false (fun v l => ff32.put rm false (intFVal (v.rdInt ty a l)))) ∧
    (∀ bf, done (.fdot2 c bf rm d a b e) false (fun v l =>
      dot2V rm (v.rdHalf bf a l 0) (v.rdHalf bf b l 0) (v.rdHalf bf a l 1) (v.rdHalf bf b l 1) (v.rdF false e l))) ∧
    (∀ ty pos lut, done (.unpack c ty pos lut d a) false (fun v l =>
      unpackV ty (lut.map fun k => (v.st.cb.get 0 k.1.toNat, k.2))
        ((v.rd a l).toNat / 2 ^ (ty.width * pos.toNat) % 2 ^ ty.width))) ∧
    (∀ bf, halves (.hadd2 c bf rm d a b) (fun v l k => (halfFormat bf).add rm false (v.rdHalf bf a l k) (v.rdHalf bf b l k)) ∧
      halves (.hmul2 c bf rm d a b) (fun v l k => (halfFormat bf).mul rm false (v.rdHalf bf a l k) (v.rdHalf bf b l k)) ∧
      halves (.hfma2 c bf rm d a b e) (fun v l k =>
        (halfFormat bf).fma rm false (v.rdHalf bf a l k) (v.rdHalf bf b l k) (v.rdHalf bf e l k)) ∧
      halves (.hmin2 c bf d a b) (fun v l k => (halfFormat bf).minMax false (v.rdHalf bf a l k) (v.rdHalf bf b l k)) ∧
      halves (.hmax2 c bf d a b) (fun v l k => (halfFormat bf).minMax true (v.rdHalf bf a l k) (v.rdHalf bf b l k)))

/-- O17. Rounding to an integer (R31): m × 2^(−k) becomes the floor or the next integer; .rne takes the nearest, an even one
from a tie; .rtz the floor of the magnitude; .rdn and .rup the integer on their side; and the result is inexact exactly when
the value is no integer. Special values of FP32 (R25, R35, R379, R383): a NaN operand gives 0x7FC0_0000, with NV when it is signalling; ∞ − ∞ and
0 × ∞ give it with NV; 0 × ∞ + c sets NV even for a quiet NaN c; x − x gives +0, and −0 under .rdn; and the worked example of
R383 rounds as the specification shows. -/
def Obligations.FloatRounding : Prop :=
  (∀ (rm : Rnd) (neg : Bool) (m k : Nat), 0 < k →
    let q := (roundShift rm neg m k).1
    let f := m / 2 ^ k
    ((roundShift rm neg m k).2 = true ↔ m % 2 ^ k ≠ 0) ∧ (m % 2 ^ k = 0 → q = f) ∧
    (m % 2 ^ k ≠ 0 → match rm, neg with
      | .rtz, _ => q = f
      | .rdn, true => q = f + 1
      | .rdn, false => q = f
      | .rup, true => q = f
      | .rup, false => q = f + 1
      | .rne, _ => (2 * (m % 2 ^ k) < 2 ^ k → q = f) ∧ (2 ^ k < 2 * (m % 2 ^ k) → q = f + 1) ∧
          (2 * (m % 2 ^ k) = 2 ^ k → q % 2 = 0 ∧ (q = f ∨ q = f + 1)))) ∧
  (∀ rm ftz q x, (ff32.add rm ftz (.nan q) x).1 = 0x7FC00000 ∧ (ff32.add rm ftz x (.nan q)).1 = 0x7FC00000 ∧
    (ff32.mul rm ftz (.nan q) x).1 = 0x7FC00000 ∧ (ff32.mul rm ftz x (.nan q)).1 = 0x7FC00000 ∧
    (q = true → (ff32.add rm ftz (.nan q) x).2.getLsbD 0 = true ∧ (ff32.mul rm ftz (.nan q) x).2.getLsbD 0 = true)) ∧
  (∀ rm ftz n, ff32.add rm ftz (.inf n) (.inf (!n)) = (0x7FC00000, 0b00001)) ∧
  (∀ rm ftz n p e, ff32.mul rm ftz (.inf n) (.fin p 0 e) = (0x7FC00000, 0b00001)) ∧
  (∀ rm ftz n p e x, (ff32.fma rm ftz (.inf n) (.fin p 0 e) x).1 = 0x7FC00000 ∧
    (ff32.fma rm ftz (.inf n) (.fin p 0 e) x).2.getLsbD 0 = true) ∧
  (∀ rm ftz n m e, 0 < m → ff32.add rm ftz (.fin n m e) (FVal.fin n m e).negate =
    (if rm = .rdn then 0x80000000 else 0, 0)) ∧
  ff32.mul .rne false (ff32.decode 0x3F800800) (ff32.decode 0x3F800800) = (0x3F801000, 0b10000) ∧
  ff32.fma .rne false (ff32.decode 0x3F800800) (ff32.decode 0x3F800800) (ff32.decode 0xBF800000) = (0x3A000400, 0)

/-! Long-latency results, lanes and reductions (R50-R52, R140, R271, R393-R401, R411, R417-R422). -/

namespace Sys2Proof.Claims

/-- A long-latency result that is known when the instruction issues (R140, R271): the strand's list of awaited results gets
one more, with the instruction's slot, its destinations, lanes and values, and the place its window ends; no register changes
yet. -/
def awaiting (s : State) (v : View) (c : Ctl) (dst : List Operand) (lanes : LaneMask) (vals : List LaneVec) (fl : Flags) : State :=
  let s' : State := { s with nextId := s.nextId + 1 }
  let st := s.strand v.r
  s'.setStrand v.r { st with results := st.results ++ [
    { id := s.nextId, split := v.r.split, slot := c.slot, pc := v.h, pos := v.pos
      gate := if c.la = 15 then none else some (v.pos + c.la.toNat + 1), temps := true, dst := dst, lanes := lanes, vals := vals
      flags := fl, owed := 0, acq := none, lose := none, won := true, fence := 0, beat := 0, bad := [], fail := none, why := 0
      since := s.runTick }] }

/-- The same for the special-function unit: its result is marked as the unit's (R15). -/
def awaitingSfu (s : State) (v : View) (c : Ctl) (d : Operand) (f : Nat → Nat × Flags) : State :=
  let u := awaiting s v c [d] v.eff [(List.range 96).map fun l => BitVec.ofNat 32 (if v.eff.getLsbD l then (f l).1 else 0)]
    (joinFlags ((List.range 96).map fun l => if v.eff.getLsbD l then (f l).2 else 0))
  u.setStrand v.r { u.strand v.r with
    results := (u.strand v.r).results.map fun p => if p.id = s.nextId then { p with sfu := true } else p }

/-- Whether the special-function unit of the issuing split's scheduler still holds an instruction of a strand of its slots. -/
def unitBusy (s : State) : Bool :=
  (s.core s.pick.ref.core).slots.any fun e => e.1 / 6 == s.pick.ref.slot / 6 && e.2.results.any (·.sfu)

/-- The value and flags of a special function in a lane (R394-R401). -/
def specialOp : Instr → Option (Ctl × Operand × (View → Nat → Nat × Flags))
  | .frcp c ftz d a => some (c, d, fun v l => frcpV ftz (v.rdF ftz a l))
  | .frsq c ftz d a => some (c, d, fun v l => frsqV ftz (v.rdF ftz a l))
  | .fsqrt c ftz d a => some (c, d, fun v l => fsqrtV ftz (v.rdF ftz a l))
  | .fex2 c ftz d a => some (c, d, fun v l => fex2V (v.rdFBits a l) ftz (v.rdF ftz a l))
  | .flg2 c ftz d a => some (c, d, fun v l => flg2V (v.rdFBits a l) ftz (v.rdF ftz a l))
  | .fsin c ftz d a => some (c, d, fun v l => fsinV (v.rdFBits a l) ftz (v.rdF ftz a l))
  | .fcos c ftz d a => some (c, d, fun v l => fcosV (v.rdFBits a l) ftz (v.rdF ftz a l))
  | .ftanh c ftz d a => some (c, d, fun v l => ftanhV (v.rdFBits a l) ftz (v.rdF ftz a l))
  | _ => none

/-- The lane SHFL names, as R417's table of forms gives it; none when it leaves the strand. -/
def sourceLane (form : ShflForm) (l k : Nat) : Option Nat :=
  let j : Int := match form with
    | .pick => k
    | .back => (l : Int) - k
    | .fwd => l + k
    | .flip => (l ^^^ k : Nat)
    | .rot => ((l + k) % 96 : Nat)
  if j < 0 ∨ 96 ≤ j then none else some j.toNat

/-- A lane vector given lane by lane within a mask, 0 outside it. -/
def laneValues (m : LaneMask) (f : Nat → Word) : LaneVec := (List.range 96).map fun l => if m.getLsbD l then f l else 0

/-- The lanes of a mask, as a mask. -/
def lanesWhere (p : Nat → Bool) : LaneMask := maskWhere p

end Sys2Proof.Claims

/-- O18. Special functions: FRCP, FRSQ, FSQRT, FEX2, FLG2, FSIN, FCOS and FTANH are done with an awaited result that has the
function's value in every effective lane and the flags of those lanes (R393-R401); the destination does not change yet (R140).
While the unit of the scheduler is full, which it can only be while it holds an instruction, they wait at issue under reason 22
(R15; when it is full is the model's choice, log 144). Special operands of the special functions, the rows of R393's table: NaN, the infinities and the zeros of each sign, with
NV and DZ where the table has them. -/
def Obligations.SpecialFunctions : Prop :=
  (∀ (i : Instr) (c : Ctl) (d : Operand) (f : View → Nat → Nat × Flags) (s : State),
    specialOp i = some (c, d, f) → Ready i c s →
    (s.pick.flag = false ∨ unitBusy s = false → Finishes i s (awaitingSfu (entered i s) (seen i c s) c d (f (seen i c s)))) ∧
    (s.pick.flag = true → unitBusy s = true → Waits i s 22 (entered i s))) ∧
  (let nan := 0x7FC00000
  let inf := 0x7F800000
  let m := 0x80000000
  let nv : Flags := 0b00001
  let dz : Flags := 0b00010
  ∀ (ftz q : Bool) (w : Word) (e : Int),
    frcpV ftz (.nan q) = (nan, if q then nv else 0) ∧ frsqV ftz (.nan q) = (nan, if q then nv else 0) ∧
    fsqrtV ftz (.nan q) = (nan, if q then nv else 0) ∧ fex2V w ftz (.nan q) = (nan, if q then nv else 0) ∧
    flg2V w ftz (.nan q) = (nan, if q then nv else 0) ∧ fsinV w ftz (.nan q) = (nan, if q then nv else 0) ∧
    fcosV w ftz (.nan q) = (nan, if q then nv else 0) ∧ ftanhV w ftz (.nan q) = (nan, if q then nv else 0) ∧
    frcpV ftz (.inf true) = (m, 0) ∧ frsqV ftz (.inf true) = (nan, nv) ∧ fsqrtV ftz (.inf true) = (nan, nv) ∧
    fex2V w ftz (.inf true) = (0, 0) ∧ flg2V w ftz (.inf true) = (nan, nv) ∧ fsinV w ftz (.inf true) = (nan, nv) ∧
    fcosV w ftz (.inf true) = (nan, nv) ∧ ftanhV w ftz (.inf true) = (0xBF800000, 0) ∧
    frcpV ftz (.fin true 0 e) = (m + inf, dz) ∧ frsqV ftz (.fin true 0 e) = (m + inf, dz) ∧
    fsqrtV ftz (.fin true 0 e) = (m, 0) ∧ fex2V w ftz (.fin true 0 e) = (0x3F800000, 0) ∧
    flg2V w ftz (.fin true 0 e) = (m + inf, dz) ∧ fsinV w ftz (.fin true 0 e) = (m, 0) ∧
    fcosV w ftz (.fin true 0 e) = (0x3F800000, 0) ∧ ftanhV w ftz (.fin true 0 e) = (m, 0) ∧
    frcpV ftz (.fin false 0 e) = (inf, dz) ∧ frsqV ftz (.fin false 0 e) = (inf, dz) ∧
    fsqrtV ftz (.fin false 0 e) = (0, 0) ∧ fex2V w ftz (.fin false 0 e) = (0x3F800000, 0) ∧
    flg2V w ftz (.fin false 0 e) = (m + inf, dz) ∧ fsinV w ftz (.fin false 0 e) = (0, 0) ∧
    fcosV w ftz (.fin false 0 e) = (0x3F800000, 0) ∧ ftanhV w ftz (.fin false 0 e) = (0, 0) ∧
    frcpV ftz (.inf false) = (0, 0) ∧ frsqV ftz (.inf false) = (0, 0) ∧ fsqrtV ftz (.inf false) = (inf, 0) ∧
    fex2V w ftz (.inf false) = (inf, 0) ∧ flg2V w ftz (.inf false) = (inf, 0) ∧ fsinV w ftz (.inf false) = (nan, nv) ∧
    fcosV w ftz (.inf false) = (nan, nv) ∧ ftanhV w ftz (.inf false) = (0x3F800000, 0))

/-- O19. Moves between lanes: SHFL gives each effective lane the source of the lane its form names when the split holds it, its
own value where that lane leaves the strand, and 0 otherwise (R417); in PERM the highest lane that names a target stays, and a
lane that receives nothing keeps its register (R418; that a scalar destination takes the lowest effective lane's value when
that lane receives one is the model's reading, log 57); BCAST gives every effective lane the source of one lane of the split, or 0
(R419); MATCH writes each lane's group of equal values as a mask, or its leader, size and rank (R422). -/
def Obligations.LaneMoves : Prop :=
  (∀ (c : Ctl) (form : ShflForm) (d a b : Operand) (s : State), let i := Instr.shfl c form d a b
    let v := seen i c s
    Ready i c s → Finishes i s (awaiting (entered i s) v c [d] v.eff [laneValues v.eff fun l =>
      match sourceLane form l (v.rd b l).toNat with
      | none => v.rd a l
      | some j => if v.sp.mask.getLsbD j then v.rd a j else 0] 0)) ∧
  (∀ (c : Ctl) (d a b : Operand) (s : State), let i := Instr.perm c d a b
    let v := seen i c s
    let sender := fun j => (List.range 96).reverse.find? fun l => v.eff.getLsbD l && (v.rd b l).toNat == j
    let got := lanesWhere fun j => v.eff.getLsbD j && (sender j).isSome
    let first := lanesWhere fun j => v.eff.getLsbD j && !((List.range j).any fun k => v.eff.getLsbD k)
    Ready i c s → Finishes i s (awaiting (entered i s) v c [d] (match d with | .s _ => got &&& first | _ => got)
      [laneValues got fun j => match sender j with | some l => v.rd a l | none => 0] 0)) ∧
  (∀ (c : Ctl) (d a b : Operand) (s : State), let i := Instr.bcast c d a b
    let v := seen i c s
    let j := (v.rd b 0).toNat
    Ready i c s → Finishes i s (awaiting (entered i s) v c [d] v.eff
      [laneValues v.eff fun _ => if j < 96 ∧ v.sp.mask.getLsbD j = true then v.rd a j else 0] 0)) ∧
  (∀ (c : Ctl) (w64 : Bool) (d a : Operand) (s : State), let i := Instr.matchL c w64 false d a
    let v := seen i c s
    let group := fun l => lanesWhere fun j => v.eff.getLsbD j && v.rdW w64 a j == v.rdW w64 a l
    Ready i c s → Finishes i s (awaiting (entered i s) v c [d, d.after 1, d.after 2] v.eff
      [laneValues v.eff fun l => (group l).extractLsb' 0 32, laneValues v.eff fun l => (group l).extractLsb' 32 32,
       laneValues v.eff fun l => (group l).extractLsb' 64 32] 0)) ∧
  (∀ (c : Ctl) (w64 : Bool) (d a : Operand) (s : State), let i := Instr.matchL c w64 true d a
    let v := seen i c s
    let same := fun l j => v.eff.getLsbD j && v.rdW w64 a j == v.rdW w64 a l
    Ready i c s → Finishes i s (awaiting (entered i s) v c [d, d.after 1, d.after 2] v.eff
      [laneValues v.eff fun l => BitVec.ofNat 32 (((List.range 96).find? (same l)).getD 0),
       laneValues v.eff fun l => BitVec.ofNat 32 ((List.range 96).countP (same l)),
       laneValues v.eff fun l => BitVec.ofNat 32 ((List.range l).countP (same l))] 0))

/-- O20. Reductions (R50-R52, R420, R421): LRED writes the root of the fixed tree over 128 positions, in which an effective lane
holds its operand and every other position the identity; LSCAN combines, from the left, the aligned blocks that make up l + 1
positions, or l when exclusive; the identity where there are none. Integer reductions add up: the root of an integer add is the sum of its leaves modulo 2^32, of a logical reduction the
bitwise combination of its leaves, and a scan of an integer add over n positions the sum of the first n leaves (R50, R51). -/
def Obligations.Reductions : Prop :=
  (∀ (c : Ctl) (op : ROp) (ty : RTy) (ftz : Bool) (d a : Operand) (s : State), let i := Instr.lred c op ty ftz d a
    let v := seen i c s
    let leaf := fun l => if l < 96 ∧ v.eff.getLsbD l = true then v.rdRed ty a l else redIdentity op ty
    Ready i c s → v.eff ≠ 0 → Finishes i s (awaiting (entered i s) v c [d] v.eff
      [laneValues v.eff fun _ => (redTree op ty ftz leaf 7 0).1] (redTree op ty ftz leaf 7 0).2)) ∧
  (∀ (c : Ctl) (op : ROp) (ty : RTy) (ftz excl : Bool) (d a : Operand) (s : State), let i := Instr.lscan c op ty ftz excl d a
    let v := seen i c s
    let leaf := fun l => if l < 96 ∧ v.eff.getLsbD l = true then v.rdRed ty a l else redIdentity op ty
    let at_ := fun l => scanValue op ty ftz leaf (if excl then l else l + 1)
    Ready i c s → Finishes i s (awaiting (entered i s) v c [d] v.eff [laneValues v.eff fun l => (at_ l).1]
      (joinFlags ((List.range 96).map fun l => if v.eff.getLsbD l then (at_ l).2 else 0)))) ∧
  (∀ (op : ROp) (ty : RTy) (ftz : Bool) (leaf : Nat → Word) (j q : Nat), (redTree op ty ftz leaf (j + 1) q).1 =
    (redNode op ty ftz (redTree op ty ftz leaf j (2 * q)).1 (redTree op ty ftz leaf j (2 * q + 1)).1).1) ∧
  (∀ (ty : RTy) (ftz : Bool) (leaf : Nat → Word) (j q : Nat), ty ≠ .f32 → (redTree .add ty ftz leaf j q).1 =
    ((List.range (2 ^ j)).map fun k => leaf (q * 2 ^ j + k)).foldl (· + ·) 0) ∧
  (∀ (ty : RTy) (ftz : Bool) (leaf : Nat → Word) (j q k : Nat), (redTree .and ty ftz leaf j q).1.getLsbD k =
    (decide (k < 32) && (List.range (2 ^ j)).all fun n => (leaf (q * 2 ^ j + n)).getLsbD k)) ∧
  (∀ (ty : RTy) (ftz : Bool) (leaf : Nat → Word) (j q k : Nat), (redTree .or ty ftz leaf j q).1.getLsbD k =
    (List.range (2 ^ j)).any fun n => (leaf (q * 2 ^ j + n)).getLsbD k) ∧
  (∀ (ty : RTy) (ftz : Bool) (leaf : Nat → Word) (n : Nat), ty ≠ .f32 → n ≤ 128 → (scanValue .add ty ftz leaf n).1 =
    ((List.range n).map leaf).foldl (· + ·) 0)

/-- O21. FSTAT (R411): with an effective lane and no result of the strand awaited it writes the sticky flags, laid out by R36, in
every effective lane and clears them; while a result is awaited it waits under stall reason 3 and reads nothing; without an
effective lane it does neither. -/
def Obligations.FlagRead : Prop :=
  ∀ (c : Ctl) (d : Operand) (s : State), let i := Instr.fstat c d
    let v := seen i c s
    Ready i c s →
    (v.eff ≠ 0 → v.st.results = [] → Finishes i s (putLanes ((entered i s).setStrand v.r { v.st with flags := 0 }) v.r d v.eff
      (List.replicate 96 (v.st.flags.setWidth 32)))) ∧
    (v.eff ≠ 0 → v.st.results ≠ [] → Waits i s 3 (entered i s)) ∧
    (v.eff = 0 → Finishes i s (entered i s))

/-! What register instructions leave alone. -/

namespace Sys2Proof.Claims

/-- One register, or a pair. -/
def oneOrPair (w64 : Bool) (d : Operand) : List Operand := if w64 then [d, d.after 1] else [d]

/-- The registers that an instruction over registers alone may write when it issues: its destination, a pair when it is 64 bits
wide, and the carry or borrow predicate; a long-latency one writes none yet. -/
def mayWrite (i : Instr) : Option (List Operand) :=
  match i with
  | .iaddw _ _ _ d _ _ e => some [d, e]
  | .isubw _ _ _ d _ _ e => some [d, e]
  | .iand _ w64 d _ _ => some (oneOrPair w64 d)
  | .ior _ w64 d _ _ => some (oneOrPair w64 d)
  | .ixor _ w64 d _ _ => some (oneOrPair w64 d)
  | .andn _ w64 d _ _ => some (oneOrPair w64 d)
  | .tri _ _ d _ _ _ => some [d]
  | .sel _ w64 d _ _ _ => some (oneOrPair w64 d)
  | .mov _ w64 d _ => some (oneOrPair w64 d)
  | .brev _ w64 d _ => some (oneOrPair w64 d)
  | .icmp _ _ _ d _ _ => some [d]
  | .icmpi _ _ _ d _ _ => some [d]
  | .fcmp _ _ _ d _ _ => some [d]
  | .fclass _ d _ => some [d]
  | .plop _ _ d _ _ _ => some [d]
  | .elect _ d => some [d]
  | .fadd _ _ _ d _ _ => some [d]
  | .fsub _ _ _ d _ _ => some [d]
  | .fmul _ _ _ d _ _ => some [d]
  | .ffma _ _ _ d _ _ _ => some [d]
  | .fmin _ _ d _ _ => some [d]
  | .fmax _ _ d _ _ => some [d]
  | .frnd _ _ _ d _ => some [d]
  | .fscale _ _ _ d _ _ => some [d]
  | .fcvt _ _ _ _ _ _ d _ => some [d]
  | .ftoi _ ty _ _ d _ => some (oneOrPair ty.is64 d)
  | .itof _ _ _ _ d _ => some [d]
  | .fdot2 _ _ _ d _ _ _ => some [d]
  | .unpack _ _ _ _ d _ => some [d]
  | .hadd2 _ _ _ d _ _ => some [d]
  | .hmul2 _ _ _ d _ _ => some [d]
  | .hfma2 _ _ _ d _ _ _ => some [d]
  | .hmin2 _ _ d _ _ => some [d]
  | .hmax2 _ _ d _ _ => some [d]
  | .frcp _ _ _ _ => some []
  | .frsq _ _ _ _ => some []
  | .fsqrt _ _ _ _ => some []
  | .fex2 _ _ _ _ => some []
  | .flg2 _ _ _ _ => some []
  | .fsin _ _ _ _ => some []
  | .fcos _ _ _ _ => some []
  | .ftanh _ _ _ _ => some []
  | .shfl _ _ _ _ _ => some []
  | .perm _ _ _ _ => some []
  | .bcast _ _ _ _ => some []
  | .lred _ _ _ _ _ _ => some []
  | .lscan _ _ _ _ _ _ _ => some []
  | .matchL _ _ _ _ _ => some []
  | i => match integerOp i with
    | some (_, ty, _, d, _) => some (oneOrPair ty.is64 d)
    | none => (bitOp i).map fun e => oneOrPair e.2.1 e.2.2.1

/-- What an instruction leaves alone but the registers `ds`: every other register of its strand, its flags once raised, every other
strand, every accumulator tile and cascade, every context's identifiers, the tick, and every byte of memory in `kept` but those of
the strand's own deferred entries (R132), which the end of a clause may rewrite. -/
def Untouched (ds : List Operand) (s t : State) (kept : Nat → Prop) : Prop :=
  let r := s.pick.ref
  let a := s.strand r
  let b := t.strand r
  (∀ n, (∀ m, Operand.v m ∈ ds → m.toNat ≠ n) → b.v.get [] n = a.v.get [] n) ∧
  (∀ n, (∀ m, Operand.s m ∈ ds → m.toNat ≠ n) → b.s.get 0 n = a.s.get 0 n) ∧
  (∀ n, (∀ m, Operand.p m ∈ ds → m.toNat ≠ n) → b.p.get 0 n = a.p.get 0 n) ∧
  b.h = a.h ∧ b.cb = a.cb ∧ b.segs = a.segs ∧ b.gang = a.gang ∧ b.staged = a.staged ∧ b.held = a.held ∧ b.nregs = a.nregs ∧
  a.flags ||| b.flags = b.flags ∧
  (∀ c slot, (c, slot) ≠ (r.core, r.slot) → t.strandAt c slot = s.strandAt c slot) ∧
  (∀ c, (t.core c).tiles = (s.core c).tiles ∧ (t.core c).cascade = (s.core c).cascade) ∧
  (∀ x, (t.ctx x).tids = (s.ctx x).tids) ∧ t.tick = s.tick ∧
  (s.mem.wf = true → ∀ key, kept key → ¬ (deferKey r.core r.slot 0 ≤ key ∧ key < deferKey r.core r.slot a.deferHeight) →
    t.mem.read key = s.mem.read key)

end Sys2Proof.Claims

/-- O22. The frame of the instructions over registers alone, whether one is done, waits, or traps, in each of a strand's four
splits: every register but its destinations keeps its value, no flag is cleared, and every other strand, every accumulator tile,
every context's identifiers, the tick, and every byte of memory but those of the strand's own deferred entries, which the end of
a clause may rewrite, are as they were. Each of them completes: when nothing precedes it, and where it is a special function the
unit is not full, it answers the next place's state after a state in which nothing but its destinations changed and memory is as it
was. They are IADD to IDP8 of R333 to R378 (the additions, products, comparisons by ICMP and ICMPI, logic, shifts, counts, fields and
moves), FADD, FSUB, FMUL, FFMA, FMIN, FMAX, FCMP, FCLASS, FRND, FSCALE, FCVT, FTOI, ITOF, the special functions FRCP, FRSQ, FSQRT,
FEX2, FLG2, FSIN, FCOS and FTANH, HADD2, HMUL2, HFMA2, HMIN2, HMAX2, FDOT2, PACK, UNPACK, PLOP, ELECT, SHFL, PERM, BCAST, MATCH,
LRED and LSCAN. A store that passes its checks writes no register and no memory at
once, and a load none either where no granule has errors or another grade: its result and a stored byte come later. -/
def Obligations.RegisterFrame : Prop :=
  (∀ (i : Instr) (ds : List Operand) (s t : State), mayWrite i = some ds → s.pick.ref.split < 4 → exec i s = .next t →
    Untouched ds s t (fun _ => True)) ∧
  (∀ (i : Instr) (ds : List Operand) (c : Ctl) (s : State), mayWrite i = some ds → i.ctl = some c → Ready i c s →
    s.pick.flag = false ∨ unitBusy s = false →
    ∃ u, exec i s = .next (advance u s.pick.ref) ∧ Untouched ds s u (fun _ => True) ∧ u.mem = s.mem) ∧
  (∀ (c : Ctl) (sg : SegIx) (wd : Width) (a64 : Bool) (d a b : Operand) (s t : State) (ps : List Place), s.pick.ref.split < 4 →
    (Ready (.st c sg wd a64 d a b) c s → exec (.st c sg wd a64 d a b) s = .next t →
      (seen (.st c sg wd a64 d a b) c s).check sg { n := widthBytes wd, writes := true, needR := false, spaces := spacesAll, align := widthBytes wd }
        ((seen (.st c sg wd a64 d a b) c s).offsets a64 a b) = .ready ps →
      Untouched [] s t (fun _ => True)) ∧
    (∀ sx, Ready (.ld c sg wd sx a64 d a b) c s → exec (.ld c sg wd sx a64 d a b) s = .next t →
      (seen (.ld c sg wd sx a64 d a b) c s).check sg { n := widthBytes wd, writes := false, spaces := spacesAll, align := widthBytes wd }
        ((seen (.ld c sg wd sx a64 d a b) c s).offsets a64 a b) = .ready ps →
      Untouched [] s t (fun key => isDram key = false ∨ (s.flips = [] ∧ s.wgrade = []))))

/-! Memory: loads, stores, tagged words, ordering and atomics (03 R54-R73, 18 R424-R444). -/

namespace Sys2Proof.Claims

/-- What an ordinary access needs of its addresses (R425): n bytes, aligned to n. -/
def plain (n : Nat) (writes : Bool) : Need :=
  { n := n, writes := writes, needR := !writes, spaces := [0, 1, 2, 3, 8], align := n }

/-- The loads of the lanes of one instruction, in turn (R57): each lane's bytes, with the state that fills leave. -/
def loadedLanes (core n : Nat) : State → List Place → State × List (Nat × List Byte × Option LoadFail)
  | s, [] => (s, [])
  | s, p :: ps =>
    let (s, bs, f) := loadBytes s core p.key n p.via
    let (s, r) := loadedLanes core n s ps
    (s, (p.lane, bs, f) :: r)

/-- The number a lane loaded, its lowest byte first (R20); 0 for a lane that is not among them. -/
def loadedNat (xs : List (Nat × List Byte × Option LoadFail)) (l : Nat) : Nat :=
  match xs.find? (fun e => e.1 == l) with
  | some e => leNat e.2.1
  | none => 0

/-- A loaded number of n bytes, extended by sign or by zeros (R427). -/
def extended (n : Nat) (sx : Bool) (x : Nat) : DWord :=
  if sx then (BitVec.ofNat (8 * n) x).signExtend 64 else BitVec.ofNat 64 x

/-- Bytes put into a core's phase buffer at each of some places, in their order (R56). -/
def storedAll (s : State) (core : Nat) (bytes : Nat → List Byte) : List Place → State
  | [] => s
  | p :: ps => storedAll (s.setCore core ((s.core core).pushStore p.key (bytes p.lane) p.via)) core bytes ps

/-- The byte a core's phase buffer holds for a key, if it holds one: that of the youngest entry that covers it, an entry still
in Q_c being younger than a moved one (R57). -/
def bufferedByte (k : Core) (key : Nat) : Option Byte := coveringByte (k.moved ++ k.q) (key / 64) (key % 64)

/-- The issuing split has waited for its line drain (R65). -/
def Drained (i : Instr) (s : State) : Prop := ((entered i s).split s.pick.ref).prog.drained = true

/-- The bytes of an ordinary width (R274). -/
def bytesOf : Width → Nat
  | .b8 => 1
  | .b16 => 2
  | .b32 => 4
  | .b64 => 8
  | .b128 => 16

end Sys2Proof.Claims

/-- O23. Loads: when its checks pass for every effective lane and no lane's fill fails, LD leaves an awaited result with every
lane's bytes as its core sees them (R57), extended by sign or zeros, a pair for .b64 (R427); LDS loads once at a uniform
address and gives every effective lane the value, of up to four words (R430); LD.md, its lines drained, gives the metadata of
each lane's granule (R429). -/
def Obligations.Loads : Prop :=
  (∀ (c : Ctl) (sg : SegIx) (wd : Width) (sx a64 : Bool) (d a b : Operand) (s s' : State) (ps : List Place)
      (xs : List (Nat × List Byte × Option LoadFail)), let i := Instr.ld c sg wd sx a64 d a b
    let v := seen i c s
    let val := fun l => extended (bytesOf wd) sx (loadedNat xs l)
    i.wf = true → Ready i c s → v.check sg (plain (bytesOf wd) false) (v.offsets a64 a b) = .ready ps →
    loadedLanes v.r.core (bytesOf wd) (entered i s) ps = (s', xs) → (∀ x ∈ xs, x.2.2 = none) →
    Finishes i s (if wd = .b64 then
      awaiting s' v c [d, d.after 1] v.eff [laneValues v.eff fun l => (val l).extractLsb' 0 32, laneValues v.eff fun l => (val l).extractLsb' 32 32] 0
      else awaiting s' v c [d] v.eff [laneValues v.eff fun l => (val l).extractLsb' 0 32] 0)) ∧
  (∀ (c : Ctl) (sg : SegIx) (wd : Width) (sx a64 : Bool) (d a b : Operand) (s s' : State) (p : Place) (bs : List Byte),
    let i := Instr.lds c sg wd sx a64 d a b
    let v := seen i c s
    let low := (lowLane v.eff).getD 0
    let n := if bytesOf wd ≤ 4 then 1 else bytesOf wd / 4
    let word := fun k => if bytesOf wd ≤ 4 then (extended (bytesOf wd) sx (leNat bs)).extractLsb' 0 32 else BitVec.ofNat 32 (leNat bs / 2 ^ (32 * k))
    i.wf = true → Ready i c s → v.eff ≠ 0 → v.check sg (plain (bytesOf wd) false) [(low, v.offset a64 a b 0)] = .ready [p] →
    loadBytes (entered i s) v.r.core p.key (bytesOf wd) p.via = (s', bs, none) →
    Finishes i s (awaiting s' v c ((List.range n).map fun k => d.after k) v.eff
      ((List.range n).map fun k => laneValues v.eff fun _ => word k) 0)) ∧
  (∀ (c : Ctl) (sg : SegIx) (a64 : Bool) (d a b : Operand) (s : State) (ps : List Place), let i := Instr.ldMd c sg a64 d a b
    let v := seen i c s
    let t := entered i s
    Ready i c s → Drained i s → v.check sg { n := 4, writes := false, spaces := [1], align := 4 } (v.offsets a64 a b) = .ready ps →
    (∀ p ∈ ps, homeFail t v.r.core p = none ∧ (∀ w, t.wgrade.find (granOf p.key) = some w → w = p.via.grade)) →
    Finishes i s (awaiting (ps.foldl (fun u p => activate u (keyAddr p.key)) t) v c [d] v.eff [laneValues v.eff fun l => match ps.find? (fun p => p.lane == l) with
      | some p => BitVec.ofNat 32 ((leNat (leBytes 4 (metaRead t p.key p.via.grade))))
      | none => 0] 0))

/-- O24. Stores: when its checks pass for every effective lane, ST puts the low bytes of each lane's source, or its pair, into its
core's phase buffer, lane after lane, and is done (R56, R428); STS stores once at a uniform address, up to a quad (R431); ST.md,
its lines drained, writes the metadata of each lane's granule at its home; in symbol grade its checks do not pass (R429). Memory itself and every
other core stay as they are under ST and STS. -/
def Obligations.Stores : Prop :=
  (∀ (c : Ctl) (sg : SegIx) (wd : Width) (a64 : Bool) (d a b : Operand) (s : State) (ps : List Place),
    let i := Instr.st c sg wd a64 d a b
    let v := seen i c s
    let bytes := fun l => leBytes (bytesOf wd) (if wd = .b64 then v.rd64 d l else (v.rd d l).setWidth 64).toNat
    Ready i c s → v.check sg (plain (bytesOf wd) true) (v.offsets a64 a b) = .ready ps →
    Finishes i s (storedAll (entered i s) v.r.core bytes ps)) ∧
  (∀ (c : Ctl) (sg : SegIx) (wd : Width) (a64 : Bool) (d a b : Operand) (s : State) (ps : List Place),
    let i := Instr.sts c sg wd a64 d a b
    let v := seen i c s
    let x := if wd = .b128 then (v.rdQuad d).toNat else if wd = .b64 then (v.rd64 d 0).toNat else (v.rd d 0).toNat
    Ready i c s → v.eff ≠ 0 →
    v.check sg (plain (bytesOf wd) true) [((lowLane v.eff).getD 0, v.offset a64 a b 0)] = .ready ps →
    Finishes i s (storedAll (entered i s) v.r.core (fun _ => leBytes (bytesOf wd) x) ps)) ∧
  (∀ (c : Ctl) (sg : SegIx) (a64 : Bool) (d a b : Operand) (s : State) (ps : List Place), let i := Instr.stMd c sg a64 d a b
    let v := seen i c s
    Ready i c s → Drained i s →
    v.check sg { n := 4, writes := true, needR := false, spaces := [1], align := 4, side := true } (v.offsets a64 a b) = .ready ps →
    (∀ p ∈ ps, homeFail (entered i s) v.r.core p = none) →
    Finishes i s (ps.foldl (fun u p => if (homeFail u v.r.core p).isSome then u else metaWrite u p.key p.via.grade (v.rd d p.lane).toNat)
      (entered i s))) ∧
  (∀ (s : State) (core : Nat) (bytes : Nat → List Byte) (ps : List Place), let t := storedAll s core bytes ps
    t.mem = s.mem ∧ t.clusters = s.clusters ∧ ∀ k, k ≠ core → t.core k = s.core k)

/-- O25. The phase buffer (R55-R57): after a store of bytes within one line the buffer holds them at their addresses and, at every
other address, what it held before; it never passes 2048 entries when it did not before; the entries that have left it stay in
their order, and at most the oldest entry joins them. What a load sees (R57): a byte the phase buffer covers is the youngest such entry's; when every byte is covered nothing
else is read and nothing changes; otherwise the bytes not covered come from memory for the core's own slice, a poisoned one
failing (R516), and from the snapshot's copy of the line when it has one. -/
def Obligations.PhaseBuffer : Prop :=
  (∀ (k : Core) (key : Nat) (bs : List Byte) (via : Via), bs ≠ [] → key % 64 + bs.length ≤ 64 →
    let k' := k.pushStore key bs via
    (∀ a, bufferedByte k' a = if key ≤ a ∧ a < key + bs.length then bs[a - key]? else bufferedByte k a) ∧
    (k.q.length ≤ 2048 → k'.q.length ≤ 2048) ∧ (k'.moved = k.moved ∨ k'.moved = k.moved ++ k.q.take 1) ∧
    k'.slots = k.slots ∧ k'.snap = k.snap) ∧
  (∀ (s : State) (core key n : Nat) (via : Via), key % 64 + n ≤ 64 →
    ((∀ i, i < n → (bufferedByte (s.core core) (key + i)).isSome) →
      loadBytes s core key n via = (s, (List.range n).map fun i => (bufferedByte (s.core core) (key + i)).getD 0, none)) ∧
    (homeOf (64 * (key / 64)) = .slice core →
      let bad := ∃ i, i < n ∧ bufferedByte (s.core core) (key + i) = none ∧ key + i ∈ s.tainted
      let bs := (List.range n).map fun i => (bufferedByte (s.core core) (key + i)).getD (s.mem.read (key + i))
      (¬ bad → loadBytes s core key n via = (s, bs, none)) ∧ (bad → loadBytes s core key n via = (s, bs, some .uc))) ∧
    (∀ d, homeOf (64 * (key / 64)) ≠ .slice core → keySpace (64 * (key / 64)) ≠ 3 → via.cp ≠ 2 → (s.core core).snap.find (key / 64) = some d →
      loadBytes s core key n via = (s, (List.range n).map fun i =>
        (bufferedByte (s.core core) (key + i)).getD (d.extractLsb' (8 * ((key + i) % 64)) 8), none)))

/-- O26. Ordering moves (R55, R61, R62, R63, R140, R438): PHASE without an effective lane does nothing; PHASE.acq removes the
lines its scope covers from the core's snapshot at once; PHASE.rel at core scope is done at once; with its release over PHASE.rel
is done, and PHASE.ar after its acquire; SCFENCE is done, with its record, once its release is over and its heartbeat has come; a
delivery, a drop, a heartbeat, a completed release and a written result change the state as their moves say. -/
def Obligations.OrderingMoves : Prop :=
  (∀ (c : Ctl) (k : PhaseKind) (sc : Scope) (s : State), let i := Instr.phase c k sc
    let v := seen i c s
    let t := entered i s
    let spent := t.setSplit s.pick.ref { t.split s.pick.ref with prog := { (t.split s.pick.ref).prog with rel := 4, scope := none } }
    Ready i c s → (v.eff = 0 → Finishes i s t) ∧
      (v.eff ≠ 0 → k = .rel → (t.split s.pick.ref).prog.rel = 0 → realScope t v.r.core v.st sc = .core → Finishes i s spent) ∧
      (v.eff ≠ 0 → k = .acq → Finishes i s (acquire t v.r.core (realScope t v.r.core v.st sc))) ∧
      (v.eff ≠ 0 → (t.split s.pick.ref).prog.rel = 2 → (t.core v.r.core).refused = [] → k = .rel → Finishes i s spent) ∧
      (v.eff ≠ 0 → (t.split s.pick.ref).prog.rel = 2 → (t.core v.r.core).refused = [] → k = .ar →
        Finishes i s (acquire spent v.r.core (realScope spent v.r.core v.st sc)))) ∧
  (∀ (c : Ctl) (s : State) (n : Nat), let i := Instr.scfence c
    let v := seen i c s
    let t := entered i s
    let spent := t.setSplit s.pick.ref { t.split s.pick.ref with
      prog := { (t.split s.pick.ref).prog with fences := true, rel := 4, scope := none } }
    Ready i c s → (v.eff = 0 → Finishes i s t) ∧
      (v.eff ≠ 0 → (t.split s.pick.ref).prog.rel = 2 → (t.split s.pick.ref).prog.beat = some (some n) →
        (t.core v.r.core).refused = [] → Finishes i s (fenceRecord (acquire spent v.r.core .dev) v.r n))) ∧
  (∀ s k e, (s.core s.pick.a).moved.findIdx? (fun e => homeOf (64 * e.line) == s.pick.home) = some k →
    (s.core s.pick.a).moved[k]? = some e → keySpace (64 * e.line) = 0 → ∃ t, exec .deliver s = .next t ∧
      t.mem = s.mem.writeList (64 * e.line) ((List.range 64).map fun n =>
        if e.mask.getLsbD n then e.data.extractLsb' (8 * n) 8 else s.mem.read (64 * e.line + n)) ∧
      (∀ a, a ∈ t.tainted ↔ if 64 * e.line ≤ a ∧ a < 64 * e.line + 64 ∧ e.mask.getLsbD (a - 64 * e.line) = true
        then s.pick.flag = true else a ∈ s.tainted) ∧
      (t.core s.pick.a).moved = (s.core s.pick.a).moved.eraseIdx k) ∧
  (∀ s, exec .dropLine s = .next (s.setCore s.pick.a { s.core s.pick.a with
    snap := (s.core s.pick.a).snap.filter fun e => !([s.pick.b].contains e.1) })) ∧
  (∀ s, exec .cacheDrop s = .next (match s.clusters.find s.pick.a with
    | none => s
    | some x => s.setClu s.pick.a { x with dcache := x.dcache.del s.pick.b })) ∧
  (∀ s, s.hbTick + 256 ≤ s.tick → ∃ t, exec .heartbeat s = .next t ∧ t.hb = s.hb + 1 ∧ t.hbTick = s.hbTick + 256 ∧ t.mem = s.mem) ∧
  (∀ s, s.tick < s.hbTick + 256 → exec .heartbeat s = .next s) ∧
  (∀ s sc, (s.split s.pick.ref).prog.rel = 1 → (s.split s.pick.ref).prog.scope = some sc →
    (∀ e ∈ (s.core s.pick.ref.core).moved, inScope s.pick.ref.core sc (homeOf (64 * e.line)) = false) →
    ∃ t, exec .releaseComplete s = .next t ∧ (t.split s.pick.ref).prog.rel = 2) ∧
  (∀ s p, ((s.strandAt s.pick.a s.pick.b).results)[s.pick.c]? = some p → p.owed = 0 → p.fail = none → p.fence = 0 → p.acq = none →
    p.lose = none → exec .resultWrite s = .next (endPending (raiseFlags ((p.dst.zip p.vals).foldl
      (fun s e => if stillTakes p e.1 then putLanes s ⟨s.pick.a, s.pick.b, p.split⟩ e.1 p.lanes e.2 else s) s)
        ⟨s.pick.a, s.pick.b, p.split⟩ p.flags) s.pick.a s.pick.b p none))

namespace Sys2Proof.Claims

/-- The request of the lanes of some places (R66, R70): each with its key and what it carries. -/
def requested (ps : List Place) (arg want : Nat → DWord) : List ReqLane :=
  ps.map fun p => { lane := p.lane, addr := p.addr, key := p.key, arg := arg p.lane, want := want p.lane, canWrite := p.canWrite, via := p.via }

/-- A tagged load's result is awaited with the acquire of its scope, and its request is on its way (R433, R434, R437). -/
def taggedAwaiting (s : State) (v : View) (c : Ctl) (d : Operand) (op : TagOp) (acq : Option Scope) (ps : List Place) : State :=
  let u := (pendResult s v c [d] v.eff [List.replicate 96 0] 0 ps.length).1
  let u := u.setStrand v.r (updPending (u.strand v.r) s.nextId fun p => { p with acq := acq, why := 4 })
  { u with tagReqs := u.tagReqs ++ [{ target := { core := v.r.core, slot := v.r.slot, split := v.r.split, id := some s.nextId }
                                      op := op, lanes := requested ps (fun _ => 0) (fun _ => 0) }] }

/-- The tagged loads: kind, acquire, destination and the access they make. -/
def taggedLoadOp : Instr → Option (Ctl × TagOp × Option Scope × Operand × (View → Access))
  | .ldt c sg sc a64 d a b => some (c, .ldt, some sc, d, fun v => v.check sg { n := 4, writes := true, spaces := [0], align := 4 } (v.offsets a64 a b))
  | .ldtk c sg sc a64 d a b => some (c, .ldtk, some sc, d, fun v => v.check sg { n := 4, writes := false, spaces := [0], align := 4 } (v.offsets a64 a b))
  | .tagRd c sg a64 d a b => some (c, .rd, none, d, fun v => v.check sg { n := 4, writes := false, spaces := [0], align := 4 } (v.offsets a64 a b))
  | _ => none

/-- The tagged operations that wait in place: control fields, operation, stall reason of the wait, release, the access they make
and the words they carry. -/
def taggedStoreOp : Instr → Option (Ctl × TagOp × Nat × Option Scope × (View → Access) × (View → Nat → DWord))
  | .stt c sg sc a64 d a b => some (c, .stt, 4, some sc, fun v => v.check sg { n := 4, writes := true, spaces := [0], align := 4 } (v.offsets a64 a b),
      fun v l => (v.rd d l).setWidth 64)
  | .sttf c sg sc a64 d a b => some (c, .sttf, 4, some sc, fun v => v.check sg { n := 4, writes := true, spaces := [0], align := 4 } (v.offsets a64 a b),
      fun v l => (v.rd d l).setWidth 64)
  | .tagClr c sg a64 a b => some (c, .clr, 14, none, fun v => v.check sg { n := 4, writes := true, spaces := [0], align := 4 } (v.offsets a64 a b),
      fun _ _ => 0)
  | _ => none

/-- The request of an atomic instruction: its kind, whether it is 64 bits wide, its destinations, order, scope, the scope of a
acquire where no lane succeeds (R71, R72), its access and what each lane carries and expects. -/
structure AtomOp where
  c : Ctl
  kind : AtomKind
  w64 : Bool
  dst : List Operand
  o : Order
  sc : Scope
  lose : Option Scope
  check : View → Access
  arg : View → Nat → DWord
  want : View → Nat → DWord
  low : Bool
  one : Bool

/-- The atomics of R441 to R444. -/
def atomOp : Instr → Option AtomOp
  | .atom c sg op o sc w64 a64 d a b => some {
      c := c, kind := .rmw op, w64 := w64, dst := if w64 then [d, d.after 1] else [d], o := o, sc := sc, lose := none
      check := fun v => v.check sg { n := if w64 then 8 else 4, writes := true, spaces := [0, 1, 8], align := if w64 then 8 else 4 } (v.offsets a64 a (.imm 0))
      arg := fun v l => if op = .fadd then (v.rdFBits b l).setWidth 64 else v.rdW w64 b l
      want := fun _ _ => 0, low := false, one := false }
  | .acas c sg o sc w64 facq a64 d a b => some {
      c := c, kind := .cas, w64 := w64, dst := if w64 then [d, d.after 1] else [d], o := o, sc := sc, lose := if facq then some sc else none
      check := fun v => v.check sg { n := if w64 then 8 else 4, writes := true, cas := true, spaces := [0, 1, 8], align := if w64 then 8 else 4 } (v.offsets a64 a (.imm 0))
      arg := fun v l => v.rdW w64 (b.after (if w64 then 2 else 1)) l
      want := fun v l => v.rdW w64 b l, low := false, one := false }
  | .lr c sg o sc w64 a64 d a => some {
      c := c, kind := .lr, w64 := w64, dst := if w64 then [d, d.after 1] else [d], o := o, sc := sc, lose := none
      check := fun v => v.check sg { n := if w64 then 8 else 4, writes := false, spaces := [0, 1, 8], align := if w64 then 8 else 4 } (v.offsets a64 a (.imm 0))
      arg := fun _ _ => 0, want := fun _ _ => 0, low := true, one := false }
  | .sc c sg o sc w64 a64 d a b => some {
      c := c, kind := .sc, w64 := w64, dst := [d], o := o, sc := sc, lose := if o = .acq ∨ o = .ar then some sc else none
      check := fun v => v.check sg { n := if w64 then 8 else 4, writes := true, spaces := [0, 1, 8], align := if w64 then 8 else 4 } (v.offsets a64 a (.imm 0))
      arg := fun v l => v.rdW w64 b l, want := fun _ _ => 0, low := true, one := true }
  | _ => none

/-- The state in which an atomic's requests leave, once what its order asks for is over (R71): at once for .rlx and .acq; after
the release for .rel and .ar; after the release, the heartbeat and the acquire of a fence for .sc; at once when it has no lane. -/
def afterOrder (i : Instr) (x : AtomOp) (s : State) (ps : List Place) : Option State :=
  let t := entered i s
  let v := seen i x.c s
  let p := (t.split s.pick.ref).prog
  let spent := t.setSplit s.pick.ref { t.split s.pick.ref with
    prog := { p with rel := 4, scope := none, fences := p.fences || x.o == .sc } }
  if ps = [] then some t
  else if !p.drained || !(t.core v.r.core).refused.isEmpty then none
  else match x.o with
    | .rlx | .acq => some t
    | .rel | .ar => if p.rel = 2 then some spent else none
    | .sc => match p.rel, p.beat with
      | 2, some (some n) => some (fenceRecord (acquire spent v.r.core .dev) v.r n)
      | _, _ => none

end Sys2Proof.Claims

/-- O27. Tagged instructions (R64-R66, R432-R437): once its checks pass and its lines are drained, LDT, LDTK and TAG.rd leave an
awaited result and a request for the homes of their lanes' words; STT, STTF and TAG.clr wait in place for their acknowledgements
and are done when every effective lane has one; while one is missing they wait under reason 4, or 14 for TAG.clr. Tagged words at their home (R66, R67), where no lane waits at the word: LDT of a full word empties its tag and replies with
the word; LDTK of a full word replies with it and leaves the tag, the lane failing instead where the word was written with failed
parity (R516); STT of an empty word and STTF of any write the word and fill its
tag; TAG.rd replies 1 or 0; TAG.clr empties the tag; LDT or LDTK of an empty word, and STT of a full one, park when fewer than 1024
lanes wait at the home, and otherwise come again after 64 ticks. -/
def Obligations.TaggedInstructions : Prop :=
  (∀ (i : Instr) (c : Ctl) (op : TagOp) (acq : Option Scope) (d : Operand) (x : View → Access) (s : State) (p : Place) (ps : List Place),
    taggedLoadOp i = some (c, op, acq, d, x) → Ready i c s → Drained i s → x (seen i c s) = .ready (p :: ps) →
    Finishes i s (taggedAwaiting (entered i s) (seen i c s) c d op acq (p :: ps))) ∧
  (∀ (i : Instr) (c : Ctl) (op : TagOp) (why : Nat) (rel : Option Scope) (x : View → Access) (arg : View → Nat → DWord) (s : State),
    taggedStoreOp i = some (c, op, why, rel, x, arg) → Ready i c s →
    let v := seen i c s
    let p := ((entered i s).split s.pick.ref).prog
    (p.stage = 1 → p.lanes &&& v.eff = v.eff → Finishes i s (entered i s)) ∧
    (p.stage = 1 → p.lanes &&& v.eff ≠ v.eff → Waits i s why (entered i s)) ∧
    (p.stage ≠ 1 → x v = .ready [] → Drained i s → Finishes i s (entered i s))) ∧
  (∀ (s : State) (t : Target) (l : ReqLane), (∀ p ∈ s.parked, p.lane.key ≠ l.key) →
    let word := BitVec.ofNat 64 (s.mem.readNat l.key 4)
    let empty : State := { s with emptyTags := insertNat s.emptyTags (keyAddr l.key / 4) }
    let stored := putBytes s l.key (leBytes 4 l.arg.toNat)
    let full : State := { stored with emptyTags := stored.emptyTags.filter (· != keyAddr l.key / 4) }
    let parks := fun op => s.parked.countP (fun p => homeOf p.lane.key == homeOf l.key) + bcbParked s l.key < 1024 →
      tagLane t op s l = { s with parked := s.parked ++ [{ target := t, op := op, lane := l }] }
    let again := fun op => 1024 ≤ s.parked.countP (fun p => homeOf p.lane.key == homeOf l.key) + bcbParked s l.key →
      tagLane t op s l = { s with tagReqs := s.tagReqs ++ [{ target := t, op := op, lanes := [l], after := s.tick + 64 }] }
    let well := ∀ a ∈ s.tainted, a < l.key ∨ l.key + 4 ≤ a
    (keyAddr l.key / 4 ∉ s.emptyTags → (well → tagLane t .ldt s l = laneReply empty t l.lane l.key word ∧
        tagLane t .ldtk s l = laneReply s t l.lane l.key word) ∧
      (¬ well → tagLane t .ldt s l = laneFails s t l ∧ tagLane t .ldtk s l = laneFails s t l) ∧
      tagLane t .rd s l = laneReply s t l.lane l.key 1 ∧ (parks .stt ∧ again .stt)) ∧
    (keyAddr l.key / 4 ∈ s.emptyTags → tagLane t .stt s l = laneReply full t l.lane l.key 0 ∧
      tagLane t .rd s l = laneReply s t l.lane l.key 0 ∧
      (parks .ldt ∧ again .ldt) ∧ (parks .ldtk ∧ again .ldtk)) ∧
    tagLane t .sttf s l = laneReply full t l.lane l.key 0 ∧ tagLane t .clr s l = laneReply empty t l.lane l.key 0)

/-- O28. Atomic instructions (R70, R440-R444): with no effective lane nothing is sent; once its checks pass and its lines are
drained, and what its order asks for first is over (R71), an atomic sends one request to each service strand that owns one of its lines,
in ascending number, and its result is awaited from all of them, with the acquire of its order or, for .sc, the fence that follows
the replies, which after an ACAS waits on a lane's success; SC sends its lowest effective lane alone. -/
def Obligations.AtomicInstructions : Prop :=
  ∀ (i : Instr) (x : AtomOp) (s t : State) (ps : List Place), atomOp i = some x → Ready i x.c s →
    let v := seen i x.c s
    let sent := requested (if x.one then ps.take 1 else ps) (x.arg v) (x.want v)
    let reqs := splitRequests sent
    let u := (pendResult t v x.c x.dst v.eff (x.dst.map fun _ => List.replicate 96 0) 0 reqs.length).1
    let u := u.setStrand v.r (updPending (u.strand v.r) t.nextId fun p => { p with
      acq := if x.o = .acq ∨ x.o = .ar then some x.sc else none, lose := if sent = [] then none else x.lose, won := false, why := 13
      fence := if x.o ≠ .sc ∨ sent = [] then 0 else if x.kind = .cas then 5 else 1 })
    x.check v = .ready ps → afterOrder i x s ps = some t →
    Finishes i s (reqs.foldl (fun u e => u.setClu e.1 { u.clu e.1 with svc := (u.clu e.1).svc ++ [
      { target := { core := v.r.core, slot := v.r.slot, split := v.r.split, id := some t.nextId }, kind := x.kind, w64 := x.w64
        ctx := v.st.ctx, strand := v.st.number, first := if x.low then (lowLane v.eff).getD 0 else 0, lanes := e.2 }] }) u)

/-- O29. Atomic operations at a home in SRAM (R70-R73, R441-R444): a lane's old value is read, ATOM writes f(old, b), ACAS writes the
new value exactly when the old one is the expected one and the place may be written, LR records a reservation of the line for its
strand in place of any other it held, and SC writes and succeeds exactly when its strand holds a reservation of the line. Requests and replies on their way (R13, R66, R67, R70): behind no other of its core for that home, the lanes of a tagged request
that share a home are processed there together and leave it; a refused lane comes again once its 64 ticks are over; a service strand takes the head of its queue when its
homes answer and its arbiter lets it, performs its lanes in order and sends the reply; a reply, behind no other of its service strand to that core, reaches its strand's awaited
result. -/
def Obligations.AtomicsAtHome : Prop :=
  (∀ (s : State) (q : AtomReq) (l : ReqLane), keySpace l.key = 0 →
    let n := if q.w64 then 8 else 4
    let old := BitVec.ofNat 64 (s.mem.readNat l.key n)
    let wrote := fun x : DWord => putBytes s l.key (leBytes n x.toNat)
    (∀ op, q.kind = .rmw op → atomLane q s l = (wrote (atomApply op q.w64 old l.arg), { val := old, won := true })) ∧
    (q.kind = .cas → old ≠ l.want → atomLane q s l = (s, { val := old })) ∧
    (q.kind = .cas → old = l.want → l.canWrite = true → atomLane q s l = (wrote l.arg, { val := old, won := true })) ∧
    (q.kind = .cas → old = l.want → l.canWrite = false → atomLane q s l = (s, { val := old, code := some 0x06 })) ∧
    (q.kind = .lr → l.lane = q.first → ∃ t, atomLane q s l = (t, { val := old, won := true }) ∧ t.mem = s.mem ∧
      (q.target.core, q.target.slot, l.key / 64) ∈ t.resv ∧
      ∀ e ∈ t.resv, e.1 = q.target.core → e.2.1 = q.target.slot → e.2.2 = l.key / 64) ∧
    (q.kind = .sc → (q.target.core, q.target.slot, l.key / 64) ∈ s.resv → atomLane q s l = (wrote l.arg, { val := 1, won := true })) ∧
    (q.kind = .sc → (q.target.core, q.target.slot, l.key / 64) ∉ s.resv → atomLane q s l = (s, { val := 0 })) ∧
    (∀ b : DWord, (atomApply .add false old b).toNat = (old.toNat + b.toNat) % 2 ^ 32 ∧ atomApply .exch q.w64 old b = b ∧
      atomApply .and q.w64 old b = old &&& b ∧ atomApply .or q.w64 old b = old ||| b ∧ atomApply .xor q.w64 old b = old ^^^ b ∧
      (atomApply .umin q.w64 old b).toNat = min old.toNat b.toNat ∧ (atomApply .umax q.w64 old b).toNat = max old.toNat b.toNat)) ∧
  (∀ s q l, s.tagReqs[s.pick.a]? = some q → q.lanes[s.pick.b]? = some l → q.after = 0 →
    (∀ p ∈ s.tagReqs.take s.pick.a, p.after = 0 → p.target.core = q.target.core → ∀ k ∈ p.lanes, homeOf k.key ≠ homeOf l.key) →
    exec .taggedAtHome s = .next ((q.lanes.filter fun k => homeOf k.key == homeOf l.key).foldl (tagLane q.target q.op)
      { s with tagReqs :=
          if (q.lanes.filter fun k => !(homeOf k.key == homeOf l.key)).isEmpty then s.tagReqs.eraseIdx s.pick.a
          else s.tagReqs.set s.pick.a { q with lanes := q.lanes.filter fun k => !(homeOf k.key == homeOf l.key) } })) ∧
  (∀ s q, s.tagReqs[s.pick.a]? = some q → q.after ≠ 0 → q.after ≤ s.tick →
    exec .taggedResend s = .next { s with tagReqs := s.tagReqs.eraseIdx s.pick.a ++ [{ q with after := 0 }] }) ∧
  (∀ s q rest, (s.clu s.pick.a).svc = q :: rest → s.pick.a < 8 → atomServed s q = true →
    arbiterMay s s.pick.a q.ctx 3 0 q.target.core q.strand.toNat = true →
    let u := arbiterServe (s.setClu s.pick.a { s.clu s.pick.a with svc := rest }) s.pick.a q.ctx 3 0 q.target.core q.strand.toNat
    ∃ t reply, exec .serviceRequest s = .next t ∧ t = { (atomLanes q u q.lanes).1 with replies := (atomLanes q u q.lanes).1.replies ++ [reply] } ∧
      reply.target = q.target ∧ reply.vals = (atomLanes q u q.lanes).2.map fun e => (e.1.lane, e.1.key, e.2.val)) ∧
  (∀ s (a : AtomReply) id, s.replies[s.pick.a]? = some a → a.target.core < 4096 → a.target.id = some id →
    (∀ b ∈ s.replies.take s.pick.a, b.svc ≠ a.svc ∨ b.target.core ≠ a.target.core) →
    ∃ t, exec .atomicReply s = .next t ∧ t.replies = s.replies.eraseIdx s.pick.a ∧ t.mem = s.mem ∧
      (t.strandAt a.target.core a.target.slot).results =
        (s.strandAt a.target.core a.target.slot).results.map fun p => if p.id = id then p.reply a else p)

/-! Handles and byte-count barriers (05 R156-R162, 18 R445-R451). -/

namespace Sys2Proof.Claims

/-- A wait that begins when its instruction issues and holds its split after the clause (R285). -/
def waitingFor (s : State) (v : View) (k : WaitKind) : State := beginWait s v k

/-- The access of a barrier instruction: 16 bytes of SRAM, aligned to 16, at a uniform offset (R156, R451). -/
def barrierAccess (v : View) (sg : SegIx) (writes : Bool) (a : Operand) : Access :=
  v.check sg { n := 16, writes := writes, needR := !writes, spaces := [0], align := 16 } [((lowLane v.eff).getD 0, v.offset false a (.imm 0) 0)]

/-- The line of a barrier leaves the core's snapshot with its reply (R157). -/
def withoutLine (s : State) (core key : Nat) : State := dropSnap s core [key / 64]

/-- A state in which the issuing split's operation has gone to its home, as its progress says. -/
def sentOff (u : State) (i : Instr) (s : State) : State :=
  u.setSplit s.pick.ref { u.split s.pick.ref with prog := { ((entered i s).split s.pick.ref).prog with stage := 1 } }

/-- The state with every command of a handle's cluster that carries the handle asked to cancel (R162). -/
def askedToCancel (s : State) (h : DWord) : State :=
  let ask (q : EngCmd) : EngCmd := if q.handle = some h then { q with cancel := true } else q
  { s with cores := s.cores.map (fun e => if e.1 / 256 = handleClu h then (e.1, { e.2 with eng := e.2.eng.map ask }) else e) }

end Sys2Proof.Claims

/-- O30. Handle instructions (R161, R162, R446-R450). With no effective lane each does nothing. HWAIT begins the wait for its
command after its clause; HTEST writes the status code, 6 for a command under way and 7 for a stale handle; HCANCEL asks every
command of the handle's cluster that carries a pending handle to cancel; HMOV copies 64 bits either way, without a check; HPROM
waits for a promised tick still ahead, and at one that has passed goes on when the command ended well by that tick, traps
PROMISE_MISSED when it had not ended by then and HANDLE_ERR when it ended otherwise; a command under way has not ended, a stale
handle's has, and any other ended by the tick when its entry's tick lies not after it in the nearer direction; a promise met or missed while it waits ends the wait when its tick comes. -/
def Obligations.HandleInstructions : Prop :=
  (∀ (c : Ctl) (acq : Bool) (nt : Option Operand) (n : BitVec 4) (s : State), let i := Instr.hwait c acq nt (.h n)
    let v := seen i c s
    Ready i c s → Finishes i s (if v.eff = 0 then entered i s
      else waitingFor (entered i s) v (.handle (v.st.h.get 0 n.toNat) acq nt))) ∧
  (∀ (c : Ctl) (d : Operand) (n : BitVec 4) (s : State), let i := Instr.htest c d (.h n)
    let v := seen i c s
    Ready i c s → Finishes i s (if v.eff = 0 then entered i s else putLanes (entered i s) v.r d v.eff
      (List.replicate 96 (BitVec.ofNat 32 (handleStatus (entered i s) v.st.ctx (v.st.h.get 0 n.toNat)).1)))) ∧
  (∀ (c : Ctl) (n : BitVec 4) (s : State), let i := Instr.hcancel c (.h n)
    let v := seen i c s
    let h := v.st.h.get 0 n.toNat
    Ready i c s → ∃ u, Finishes i s u ∧ (v.eff = 0 ∨ (handleStatus (entered i s) v.st.ctx h).1 ≠ 6 → u = entered i s) ∧
      (v.eff ≠ 0 → (handleStatus (entered i s) v.st.ctx h).1 = 6 → u = askedToCancel (entered i s) h)) ∧
  (∀ (c : Ctl) (n : BitVec 4) (a : Operand) (s : State), let i := Instr.hmov c true (.h n) a
    let v := seen i c s
    let st := (entered i s).strand s.pick.ref
    Ready i c s → Finishes i s (if v.eff = 0 then entered i s
      else (entered i s).setStrand s.pick.ref { st with h := st.h.set n.toNat (v.rd64 a 0) })) ∧
  (∀ (c : Ctl) (d : Operand) (n : BitVec 4) (s : State), let i := Instr.hmov c false d (.h n)
    let v := seen i c s
    Ready i c s → Finishes i s (if v.eff = 0 then entered i s
      else putLanes64 (entered i s) v.r d v.eff (List.replicate 96 (v.st.h.get 0 n.toNat)))) ∧
  (∀ (c : Ctl) (n : BitVec 4) (s : State), let i := Instr.hprom c (.h n)
    let v := seen i c s
    let h := v.st.h.get 0 n.toNat
    let st := (handleStatus (entered i s) v.st.ctx h).1
    Ready i c s → (v.eff = 0 → Finishes i s (entered i s)) ∧
      (v.eff ≠ 0 → ptickReached (entered i s) h = false → Finishes i s (waitingFor (entered i s) v (.promise h))) ∧
      (v.eff ≠ 0 → ptickReached (entered i s) h = true → metPromise (entered i s) v.st.ctx h = true → st = 0 →
        Finishes i s (entered i s)) ∧
      (v.eff ≠ 0 → ptickReached (entered i s) h = true → metPromise (entered i s) v.st.ctx h = false →
        Traps i s { code := 0x09, lanes := v.eff, info := h } (entered i s)) ∧
      (v.eff ≠ 0 → ptickReached (entered i s) h = true → metPromise (entered i s) v.st.ctx h = true → st ≠ 0 →
        Traps i s { code := 0x0A, lanes := v.eff, info := h } (entered i s))) ∧
  (∀ (s : State) (x : Nat) (h : DWord), ((handleStatus s x h).1 = 6 → metPromise s x h = false) ∧
    ((handleStatus s x h).1 = 7 → metPromise s x h = true) ∧
    (∀ e, (handleStatus s x h).1 < 6 → (s.clu (handleClu h)).ctab.find (handleSerial h) = some e →
      (metPromise s x h = true ↔ ∃ n : Nat, n ≤ 2 ^ 39 ∧ handlePtick h % 2 ^ 40 = (e.at_ + n) % 2 ^ 40))) ∧
  (∀ s w h, ((s.split s.pick.ref).waits)[s.pick.a]? = some w → w.kind = .promise h → ptickReached s h = true →
    metPromise s (s.strand s.pick.ref).ctx h = false →
    exec .promiseTimeout s = .next (failWait s s.pick.ref w { code := 0x09, lanes := w.lanes, info := h }))

/-- O31. Barrier instructions (R156-R159, R451): with no effective lane each does nothing; once its checks pass and its line is
drained, BCB.INIT and BCB.EXP act on the barrier at its home, wait for the acknowledgement under reason 14 and are done with it,
BCB.ARR acts there after its release at .dev, BCB.TEST writes whether the
barrier's phase differs from the parity it names, with the counted acquire when it does, and BCB.WAIT begins the wait for that. A barrier's phase (R156, R158): BCB.INIT with a count of 1 or more leaves phase 0 with nothing arrived and that count
expected, now and at every reload; an arrival below the count adds up; one that reaches it turns the phase, clears what has
arrived and expects the reload value again. -/
def Obligations.BarrierInstructions : Prop :=
  (∀ (c : Ctl) (sg : SegIx) (d a b : Operand) (s : State) (p : Place) (ps : List Place),
    (let i := Instr.bcbInit c sg a b
     let v := seen i c s
     Ready i c s → (v.eff = 0 → Finishes i s (entered i s)) ∧
      (v.eff ≠ 0 → Drained i s → barrierAccess v sg true a = .ready (p :: ps) →
        (((entered i s).split s.pick.ref).prog.stage = 0 → Waits i s 14 (sentOff (bcbInit (entered i s) p.key (v.rd b 0).toNat) i s)) ∧
        (((entered i s).split s.pick.ref).prog.stage ≠ 0 → Finishes i s (withoutLine (entered i s) v.r.core p.key)))) ∧
    (let i := Instr.bcbExp c sg a b
     let v := seen i c s
     Ready i c s → (v.eff = 0 → Finishes i s (entered i s)) ∧
      (v.eff ≠ 0 → Drained i s → barrierAccess v sg true a = .ready (p :: ps) →
        (((entered i s).split s.pick.ref).prog.stage = 0 → Waits i s 14 (sentOff (bcbExpect (entered i s) p.key (v.rd b 0).toNat) i s)) ∧
        (((entered i s).split s.pick.ref).prog.stage ≠ 0 → Finishes i s (withoutLine (entered i s) v.r.core p.key)))) ∧
    (let i := Instr.bcbArr c sg a b
     let v := seen i c s
     let t := entered i s
     let spent := t.setSplit s.pick.ref { t.split s.pick.ref with prog := { (t.split s.pick.ref).prog with rel := 4, scope := none } }
     Ready i c s → (v.eff = 0 → Finishes i s t) ∧
      (v.eff ≠ 0 → Drained i s → barrierAccess v sg true a = .ready (p :: ps) → (t.split s.pick.ref).prog.rel = 2 →
        (t.core v.r.core).refused = [] → Finishes i s (withoutLine (bcbArrive spent p.key (v.rd b 0).toNat) v.r.core p.key))) ∧
    (let i := Instr.bcbTest c sg d a b
     let v := seen i c s
     let t := withoutLine (entered i s) v.r.core p.key
     let ended := (readBcb t p.key).ph != (v.rd b 0).getLsbD 0
     Ready i c s → (v.eff = 0 → Finishes i s (entered i s)) ∧
      (v.eff ≠ 0 → Drained i s → barrierAccess v sg false a = .ready (p :: ps) →
        Finishes i s (putLanes (if ended then countedAcquire t v.r.core (bcbRanges t p.key).last else t) v.r d v.eff
          (List.replicate 96 (if ended then 1 else 0))))) ∧
    (let i := Instr.bcbWait c sg a b
     let v := seen i c s
     Ready i c s → (v.eff = 0 → Finishes i s (entered i s)) ∧
      (v.eff ≠ 0 → Drained i s → barrierAccess v sg false a = .ready (p :: ps) →
        ∃ u w, Finishes i s (sendBcbWait u s.pick.ref w p.key ((v.rd b 0).getLsbD 0)) ∧
          u = waitingFor (entered i s) v (.bcb p.key ((v.rd b 0).getLsbD 0) (some (entered i s).tick) none) ∧
          (u.split s.pick.ref).waits = ((entered i s).split s.pick.ref).waits ++ [w]))) ∧
  (∀ (s : State) (key n : Nat), s.mem.wf = true → n < 2 ^ 32 →
    (n ≠ 0 → readBcb (bcbInit s key n) key = { ph := false, ovr := false, rcnt := 0, rld := n, arr := 0, exp := n }) ∧
    (let b := readBcb s key
     b.arr + n < 2 ^ 32 →
      (b.exp = 0 ∨ b.arr + n < b.exp → readBcb (bcbArrive s key n) key = { b with arr := b.arr + n }) ∧
      (b.exp ≠ 0 → b.exp ≤ b.arr + n → let b' := readBcb (bcbArrive s key n) key
        b'.ph = !b.ph ∧ b'.arr = 0 ∧ b'.exp = b.rld ∧ b'.rld = b.rld ∧ (b'.ovr = (b.ovr || decide (b.exp < b.arr + n))))))

/-! Tensor identifiers, gangs, codebooks, the matrix unit and the accumulators (18 R452-R469). -/

namespace Sys2Proof.Claims

/-- What the operands of an MMA form come to on the issuing core, whole tiles or a quadrant of a joint tile (R460, R461). -/
def opOf (i : Instr) (v : View) : Option (Except TrapRec (Option CascadeOp)) :=
  match i with
  | .mma _ sat shape d a => some (v.matrixOp .dense sat shape d a)
  | .mmaSp _ sat shape d a => some (v.matrixOp .sparse sat shape d a)
  | .mmaQ _ sat shape d a => some (v.matrixOp .quant sat shape d a)
  | _ => none

/-- The shape of an MMA form. -/
def shapeOf : Instr → Option Shape
  | .mma _ _ shape _ _ => some shape
  | .mmaSp _ _ shape _ _ => some shape
  | .mmaQ _ _ shape _ _ => some shape
  | _ => none

/-- What arrives at the cuff for a form and its operands: kind, saturation, the four quad values and the gang (R146, R461). -/
def callOf (i : Instr) (v : View) : Option GangCall :=
  match i with
  | .mma _ sat _ _ a => some { kind := .dense, sat := sat, quad := (List.range 4).map (fun k => v.rd (a.after k) 0), list := gangList v.st.gang }
  | .mmaSp _ sat _ _ a => some { kind := .sparse, sat := sat, quad := (List.range 4).map (fun k => v.rd (a.after k) 0), list := gangList v.st.gang }
  | .mmaQ _ sat _ _ a => some { kind := .quant, sat := sat, quad := (List.range 4).map (fun k => v.rd (a.after k) 0), list := gangList v.st.gang }
  | _ => none

/-- A step of a matrix operation on a core, from the codes of A and of B that it takes: each element of its block by the four
groups of a step (R41, R460); after the last step it retires. -/
def afterCascade (s : State) (c : Nat) (x : CascadeOp) (rest : List CascadeOp) (as_ bs : TileCodes) : State :=
  let r := x.results (s.core c) as_ bs
  let k := (s.core c).putBlock x.wide x.tile (fun i j => ((r.1.getD i []).getD j (0, 0)).1)
  let k := if x.tag = .q then k.putSums x.wide x.tile (fun i => (r.2.getD i (0, 0)).1) else k
  let fl := joinFlags (r.1.flatten.map (·.2)) ||| (if x.tag = .q then joinFlags (r.2.map (·.2)) else noFlag)
  let x := { x with step := x.step + 1, flags := x.flags ||| fl, fedA := x.fedA.del x.step, fedB := x.fedB.del x.step }
  let s := s.setCore c { k with cascade := x :: rest }
  if x.step < x.steps then s else retireCascade s c x

/-- The sequencer at whose head an operation stands may make a step (R93, R202): its context does not leave, its cluster is not
stuck, and no TMV has yet to write a tile of the operation. -/
def headMay (s : State) (c : Nat) (x : CascadeOp) : Prop :=
  (s.clu (coreCluster c)).leaving ≠ some x.ctx ∧ (s.clu (coreCluster c)).stuck = false ∧ joinOwed s c x = false

/-- The members of a gang that name a tile of A, and have not had it, for a step (R14). -/
def lackA (s : State) (c g : Nat) (x : CascadeOp) : List (Nat × CascadeOp) :=
  (gangOps s (coreCluster c) g).filter fun e => e.2.m0 == x.m0 && e.2.step ≤ x.step && (e.2.fedA.find x.step).isNone

/-- The places of a matrix instruction's ordinary accesses, none of which waits or traps (R425, R466). -/
def reaches (v : View) (seg n : Nat) (writes : Bool) (offs : List Nat) (ps : List Place) : Prop :=
  v.checkSeg seg { n := n, writes := writes, needR := !writes, spaces := [0, 1, 2, 3, 8], align := n }
    (offs.zipIdx.map fun e => (e.2, (e.1 : Int))) = .ready ps

/-- Rows of a block from row0 on that a tid's matrix has, and columns from col0 on (R466). -/
def rowsIn (x : BitVec 512) (wide : Bool) (row0 : Nat) : List Nat :=
  (List.range (if wide then 128 else 64)).filter fun i => row0 + i < (if tidRank x ≥ 2 then tidDim x 1 else 1)
def colsIn (x : BitVec 512) (wide : Bool) (col0 : Nat) : List Nat :=
  (List.range (if wide then 128 else 64)).filter fun j => col0 + j < tidDim x 0

/-- A tile or group with nothing pending in the sequencer (R17, R459). -/
def unowned (s : State) (v : View) (wide : Bool) (d : Operand) : Prop := (s.core v.r.core).owned wide (tileOf d) = false

end Sys2Proof.Claims

/-- O32. Tensor identifiers, gangs and codebooks (R453-R457): with no effective lane each does nothing. TID.LD reads 64 bytes at
a pair's offset of aux and installs them under its number, and the context's tid of that number is then what it read when V is
set and invalid when not; an unacceptable entry traps ILLEGAL_OP; TID.INV leaves a valid tid invalid and traps on an invalid one;
either traps TIER_STATE on a bound tid. GANG writes a legal list when no gang operation of the strand is pending, and traps on an
illegal one; CB.LD writes a codebook's 256 bits from eight registers. -/
def Obligations.TensorIdentifiers : Prop :=
  (∀ (c : Ctl) (a b : Operand) (s s' : State) (p : Place) (bs : List Byte), let i := Instr.tidLd c a b
    let v := seen i c s
    let n := (v.rd a 0).toNat
    let x := BitVec.ofNat 512 (leNat bs)
    Ready i c s → (v.eff = 0 → Finishes i s (entered i s)) ∧ (v.eff ≠ 0 → n ≥ 1024 → Traps i s { code := 0x01, lanes := v.eff } (entered i s)) ∧
      (v.eff ≠ 0 → n < 1024 → reaches v 7 64 false [(v.rd64 b 0).toNat] [p] → loadBytes (entered i s) v.r.core p.key 64 p.via = (s', bs, none) →
        (tidAccepted x (segBase (v.st.segs.get 0 3)) = false → Traps i s { code := 0x01, lanes := v.eff } s') ∧
        (tidAccepted x (segBase (v.st.segs.get 0 3)) = true → tierBound s' v.st.ctx n = true →
          Traps i s { code := 0x19, lanes := v.eff } s') ∧
        (tidAccepted x (segBase (v.st.segs.get 0 3)) = true → tierBound s' v.st.ctx n = false → ∃ t, Finishes i s t ∧ t.mem = s'.mem ∧
          t.cores = s'.cores ∧ (∀ m, m < 1024 → namedTid t v.st.ctx m =
            if m = n then (if x.getLsbD 511 then some x else none) else namedTid s' v.st.ctx m)))) ∧
  (∀ (c : Ctl) (a : Operand) (s : State), let i := Instr.tidInv c a
    let v := seen i c s
    let n := (v.rd a 0).toNat
    let t := entered i s
    Ready i c s → (v.eff = 0 → Finishes i s t) ∧
      (v.eff ≠ 0 → namedTid t v.st.ctx n = none → Traps i s { code := 0x01, lanes := v.eff } t) ∧
      (v.eff ≠ 0 → namedTid t v.st.ctx n ≠ none → tierBound t v.st.ctx n = true → Traps i s { code := 0x19, lanes := v.eff } t) ∧
      (v.eff ≠ 0 → namedTid t v.st.ctx n ≠ none → tierBound t v.st.ctx n = false → ∃ u, Finishes i s u ∧ u.mem = t.mem ∧
        u.cores = t.cores ∧ ∀ m, m < 1024 → namedTid u v.st.ctx m = if m = n then none else namedTid t v.st.ctx m)) ∧
  (∀ (c : Ctl) (a : Operand) (s : State), let i := Instr.gang c a
    let v := seen i c s
    let t := entered i s
    Ready i c s → (v.eff = 0 → Finishes i s t) ∧
      (v.eff ≠ 0 → gangLegal (v.rdQuad a) v.r.core v.r.slot = false → Traps i s { code := 0x01, lanes := v.eff } t) ∧
      (v.eff ≠ 0 → gangLegal (v.rdQuad a) v.r.core v.r.slot = true →
        (if (t.core v.r.core).cascade.any fun x => x.gang && x.ctx == v.st.ctx && x.strand == v.st.number then Waits i s 12 t
        else Finishes i s (writeGang t v.r.core v.r.slot (v.rdQuad a))))) ∧
  (∀ (c : Ctl) (n : BitVec 2) (a : Operand) (s : State), let i := Instr.cbLd c (.c n) a
    let v := seen i c s
    let word := fun k => (v.rd (a.after k) 0)
    let x : BitVec 256 := word 7 ++ word 6 ++ word 5 ++ word 4 ++ word 3 ++ word 2 ++ word 1 ++ word 0
    Ready i c s → Finishes i s (if v.eff = 0 then entered i s
      else (entered i s).setStrand v.r { v.st with cb := v.st.cb.set n.toNat x }))

/-- O33. Matrix operations (R460-R464): with no effective lane an MMA form does nothing. One over whole tiles whose operands
pass the issue checks enters the cascade sequencer at once, its tiles gaining an owner and the recorded tid and column, and goes
on; otherwise it traps as the check says. A joint one, checked alike, with its release at .clu done, arrives at the cuff: the
last member runs the operation on every member that holds a quadrant, a member before it waits. A cascade step makes one step of
the operation at the head of a sequencer, 32 values of k, and the last one retires it with its flags; a gang's operation takes the
tiles that a multicast has delivered, each read once for every member that names it, and waits while a receiver is full (R14); a
TMV's takes a batch of jet rows and leaves the sequencer after the last (R203). A cuff whose members have
been Resident for 65536 ticks since it began gives GANG_STALL to those that arrived. -/
def Obligations.MatrixInstructions : Prop :=
  (∀ (i : Instr) (c : Ctl) (s : State) (shape : Shape) (op : Except TrapRec (Option CascadeOp)), i.ctl = some c → shapeOf i = some shape →
    let v := seen i c s
    let t := entered i s
    opOf i v = some op → Ready i c s → (v.eff = 0 → Finishes i s t) ∧
      (v.eff ≠ 0 → (t.prog v.r).stage = 0 → shape ≠ .gang → match op with
        | .error e => Traps i s e t
        | .ok none => Finishes i s t
        | .ok (some x) => Finishes i s (enterCascade t v.r.core x)) ∧
      (v.eff ≠ 0 → shape = .gang → (t.prog v.r).stage = 2 → Finishes i s t)) ∧
  (∀ (i : Instr) (c : Ctl) (s : State) (x : Option CascadeOp) (call : GangCall), i.ctl = some c → shapeOf i = some .gang →
    let v := seen i c s
    let t := entered i s
    let u := arriveGang (t.setProg v.r { t.prog v.r with rel := 4, scope := none }) (coreCluster v.r.core) v.st.ctx call
      { core := v.r.core, slot := v.r.slot, split := v.r.split, op := x }
    opOf i v = some (.ok x) → callOf i v = some call → Ready i c s → v.eff ≠ 0 → (t.prog v.r).stage = 0 → 2 ≤ gangCount v.st.gang →
    (t.prog v.r).rel = 2 → (t.core v.r.core).refused = [] →
      ((u.prog v.r).stage = 2 → Finishes i s u) ∧ ((u.prog v.r).stage = 1 → Waits i s 11 u) ∧
      ((u.prog v.r).stage = 3 → Traps i s { code := 0x0C, lanes := v.eff } u) ∧
      ((u.prog v.r).stage = 4 → Traps i s { code := 0x0D, lanes := v.eff } u)) ∧
  (∀ (s : State) (x : CascadeOp) (rest : List CascadeOp), (s.core s.pick.a).cascade = x :: rest →
    headMay s s.pick.a x →
    (x.kind ≠ .tmv → x.group = none → exec .cascadeStep s =
      .next (afterCascade s s.pick.a x rest (x.tileA s s.pick.a x.step) (x.tileB s s.pick.a x.step))) ∧
    (∀ g, x.kind ≠ .tmv → x.group = some g → (feedA s s.pick.a g x = none → exec .cascadeStep s = .next s) ∧
      (∀ t, feedA s s.pick.a g x = some t → feedB t s.pick.a g x = none → exec .cascadeStep s = .next s) ∧
      (∀ t u y more, feedA s s.pick.a g x = some t → feedB t s.pick.a g x = some u → (u.core s.pick.a).cascade = y :: more →
        exec .cascadeStep s = .next (afterCascade u s.pick.a y more ((y.fedA.find x.step).getD []) ((y.fedB.find x.step).getD [])))) ∧
    (∀ j, x.kind = .tmv → ((s.tier x.ctx x.job.1).flight.find? fun j => j.id == x.job.2) = some j →
      let t := s.tier x.ctx x.job.1
      let next := j.nextBatch s t.entry t.block
      exec .cascadeStep s = .next (setJob (if next.hotDone then s.setCore s.pick.a { s.core s.pick.a with cascade := rest } else s)
        x.ctx x.job.1 next))) ∧
  (∀ (s : State) (c g : Nat) (x : CascadeOp), x.fedA.find x.step = none →
    ((∃ e ∈ lackA s c g x, Config.receiveSteps < e.2.fedA.length) → feedA s c g x = none) ∧
    ((∀ e ∈ lackA s c g x, e.2.fedA.length ≤ Config.receiveSteps) →
      ∃ t, feedA s c g x = some t ∧ t.mem = s.mem ∧ ∀ e ∈ lackA s c g x, ∀ y ∈ (t.core e.1).cascade,
        y.group = some g → (y.fedA.find x.step).isSome = true)) ∧
  (∀ (s : State) (x : Cuff), (s.clu s.pick.a).cuffs[s.pick.b]? = some x → x.failed = false → (retime s x).count ≥ 65536 →
    exec .gangTimeout s = .next (tellArrived (setCuffs s s.pick.a (dropAt (s.clu s.pick.a).cuffs s.pick.b)) x 4))

/-- O34. Accumulators (R465-R469): with no effective lane each does nothing, and one whose tile or group has owners waits in
place under reason 12. ACC.ZERO leaves its tiles cleared; ACC.LD fills the block with what its ordinary loads read, inside the
tid's dimensions and 0 elsewhere; ACC.ST stores nothing from a tile that is free; ACC.GET leaves an awaited result with a row's
accumulators in its lanes; ACC.PUT writes a row's from its lanes, the row sum too, and a free tile becomes one of tag F. -/
def Obligations.AccumulatorInstructions : Prop :=
  (∀ (c : Ctl) (wide : Bool) (d : Operand) (s : State), let i := Instr.accZero c wide d
    let v := seen i c s
    let t := entered i s
    Ready i c s → (v.eff = 0 → Finishes i s t) ∧ (v.eff ≠ 0 → ¬ unowned t v wide d → Waits i s 12 t) ∧
      (v.eff ≠ 0 → unowned t v wide d → ∃ k, Finishes i s (t.setCore v.r.core k) ∧ ∀ m n,
        m < (if wide then 128 else 64) → n < (if wide then 128 else 64) → k.acc (tileOf d) m n = 0 ∧ k.rowSum (tileOf d) m = 0 ∧
          (k.tile (tileOf d + 2 * (m / 64) + n / 64)).tag = .free)) ∧
  (∀ (c : Ctl) (wide : Bool) (d a : Operand) (s s' : State) (x : BitVec 512) (ps : List Place)
      (xs : List (Place × List Byte × Option LoadFail)), let i := Instr.accLd c wide d a
    let v := seen i c s
    let t := entered i s
    let word := (v.rd a 0).toNat
    let row0 := (v.rd (a.after 1) 0).toNat
    let col0 := (v.rd (a.after 2) 0).toNat
    let rso := (v.rd (a.after 3) 0).toNat
    let tag : TileTag := if word / 4096 % 4 = 0 then .f else if word / 4096 % 4 = 1 then .i else if word / 4096 % 4 = 2 then .l else .q
    let rows := rowsIn x wide row0
    let cols := colsIn x wide col0
    let cells := rows.flatMap fun m => cols.map fun n => (m, n)
    let sums := if tag = .q ∧ rso ≠ 0xFFFFFFFF then rows else []
    let got := cells.zip (xs.map fun e => e.2.1)
    let rgot := sums.zip ((xs.map fun e => e.2.1).drop cells.length)
    Ready i c s → (v.eff = 0 → Finishes i s t) ∧ (v.eff ≠ 0 → ¬ unowned t v wide d → Waits i s 12 t) ∧
      (v.eff ≠ 0 → unowned t v wide d → namedTid t v.st.ctx (word % 1024) = none → Traps i s { code := 0x01, lanes := v.eff } t) ∧
      (v.eff ≠ 0 → unowned t v wide d → namedTid t v.st.ctx (word % 1024) = some x → word / 1024 % 4 = 0 → word / 16384 = 0 →
        tidFmt x = (if tag = .i ∨ tag = .l then .i32 else .f32) →
        reaches v (tidSeg x) 4 false ((cells.map fun e => elemOff x (col0 + e.2) (row0 + e.1)) ++ sums.map fun m => rso + 4 * m) ps →
        eachPlace (loadPlace v.r.core 4) t ps = (s', xs) → (∀ e ∈ xs, e.2.2 = none) →
        ∃ k, Finishes i s (s'.setCore v.r.core k) ∧ ∀ m n, m < (if wide then 128 else 64) → n < (if wide then 128 else 64) →
          (k.acc (tileOf d) m n = match got.find? (fun e => e.1 = (m, n)) with
            | some e => BitVec.ofNat 32 (leNat e.2)
            | none => 0) ∧
          (k.rowSum (tileOf d) m = match rgot.find? (fun e => e.1 = m) with
            | some e => BitVec.ofNat 32 (leNat e.2)
            | none => 0) ∧ (k.tile (tileOf d + 2 * (m / 64) + n / 64)).tag = tag)) ∧
  (∀ (c : Ctl) (wide sat : Bool) (a b : Operand) (s : State) (x : BitVec 512), let i := Instr.accSt c wide sat a b
    let v := seen i c s
    let t := entered i s
    let row0 := (v.rd (b.after 1) 0).toNat
    let col0 := (v.rd (b.after 2) 0).toNat
    let tile := (t.core v.r.core).tile (tileOf a)
    Ready i c s → (v.eff = 0 → Finishes i s t) ∧ (v.eff ≠ 0 → ¬ unowned t v wide a → Waits i s 12 t) ∧
      (v.eff ≠ 0 → unowned t v wide a → namedTid t v.st.ctx (v.rd b 0).toNat = some x → tidKind x = 0 → tidFmt x ≠ .lut4 →
        tile.tag = .free → Finishes i s t) ∧
      (∀ (ps : List Place), v.eff ≠ 0 → unowned t v wide a → namedTid t v.st.ctx (v.rd b 0).toNat = some x → tidKind x = 0 →
        tidFmt x = .f32 → tile.tag = .f → tile.tid = none →
        let cells := (rowsIn x wide row0).flatMap fun m => (colsIn x wide col0).map fun n => (m, n)
        let word := fun e : Nat × Nat => (epilogue .f .f32 sat none (some 0) 0 ((t.core v.r.core).acc (tileOf a) e.1 e.2))
        v.checkSeg (tidSeg x) { n := 4, writes := true, needR := false, spaces := [0, 1, 2, 3, 8], align := 4 }
          ((cells.map fun e => elemOff x (col0 + e.2) (row0 + e.1)).zipIdx.map fun e => (e.2, (e.1 : Int))) = .ready ps →
        Finishes i s (raiseFlags ((ps.zip cells).foldl (fun u e => storePlace u v.r.core e.1 (leBytes 4 (word e.2).1)) t) v.r
          (joinFlags (cells.map fun e => (word e).2))))) ∧
  (∀ (c : Ctl) (wide : Bool) (d a b : Operand) (s : State), let i := Instr.accGet c wide d a b
    let v := seen i c s
    let t := entered i s
    let k := t.core v.r.core
    let row := (v.rd b 0).toNat % (if wide then 128 else 64)
    let lane := fun r l => if wide then (if r = 0 then k.acc (tileOf a) row l else if l < 32 then k.acc (tileOf a) row (96 + l)
        else if l = 32 then k.rowSum (tileOf a) row else 0)
      else if l < 64 then k.acc (tileOf a) row l else if l = 64 then k.rowSum (tileOf a) row else 0
    Ready i c s → (v.eff = 0 → Finishes i s t) ∧ (v.eff ≠ 0 → ¬ unowned t v wide a → Waits i s 12 t) ∧
      (v.eff ≠ 0 → unowned t v wide a → Finishes i s (if wide then awaiting t v c [d, d.after 1] v.eff [laneValues v.eff (lane 0), laneValues v.eff (lane 1)] 0
        else awaiting t v c [d] v.eff [laneValues v.eff (lane 0)] 0))) ∧
  (∀ (c : Ctl) (wide : Bool) (d a b : Operand) (s : State), let i := Instr.accPut c wide d a b
    let v := seen i c s
    let t := entered i s
    let row := (v.rd b 0).toNat % (if wide then 128 else 64)
    Ready i c s → (v.eff = 0 → Finishes i s t) ∧ (v.eff ≠ 0 → ¬ unowned t v wide d → Waits i s 12 t) ∧
      (v.eff ≠ 0 → unowned t v wide d → ∃ k, Finishes i s (t.setCore v.r.core k) ∧
        (∀ n, n < (if wide then 96 else 64) → k.acc (tileOf d) row n =
          if v.eff.getLsbD n then v.rd a n else (t.core v.r.core).acc (tileOf d) row n) ∧
        (∀ n, wide = true → n < 32 → k.acc (tileOf d) row (96 + n) =
          if v.eff.getLsbD n then v.rd (a.after 1) n else (t.core v.r.core).acc (tileOf d) row (96 + n)) ∧
        (∀ m n, m < (if wide then 128 else 64) → n < (if wide then 128 else 64) → m ≠ row →
          k.acc (tileOf d) m n = (t.core v.r.core).acc (tileOf d) m n) ∧
        k.rowSum (tileOf d) row = (if wide then (if v.eff.getLsbD 32 then v.rd (a.after 1) 32 else (t.core v.r.core).rowSum (tileOf d) row)
          else if v.eff.getLsbD 64 then v.rd a 64 else (t.core v.r.core).rowSum (tileOf d) row) ∧
        (∀ m n, m < (if wide then 128 else 64) → n < (if wide then 128 else 64) →
          let g := tileOf d + 2 * (m / 64) + n / 64
          (k.tile g).tag = if ((t.core v.r.core).tile g).tag = .free then .f else ((t.core v.r.core).tile g).tag)))

/-! Tiered matrices (11 R197-R208, 18 R470-R471). -/

namespace Sys2Proof.Claims

/-- The core's operation on a tid may take its turn at the tid's home (R199, R528). -/
def tierHasTurn (s : State) (v : View) (home : Nat) : Prop := arbiterMay s home v.st.ctx 5 0 v.r.core v.st.number.toNat = true

/-- The state in which an instruction's operation has its turn and is marked as arrived: a late trap finds its place by the mark
(R545). -/
def tierTurned (s : State) (v : View) (home : Nat) : State :=
  let t := (addMark v (arbiterServe s home v.st.ctx 5 0 v.r.core v.st.number.toNat)).1
  t.setProg v.r { t.prog v.r with stage := 1 }

/-- The instruction has arrived: it goes on when its operation has proceeded, and waits under reason 22 until then (R199). -/
def Arrived (i : Instr) (s : State) (v : View) (u : State) : Prop :=
  if (u.prog v.r).stage = 2 then Finishes i s u else Waits i s 22 u

/-- The state checks of R199 for a tid of a strand: invalid ILLEGAL_OP, not tiered or unbound or at another home TIER_STATE. -/
def tierFault (s : State) (v : View) (tid : Nat) : Option Nat :=
  match namedTid s v.st.ctx tid with
  | none => some 0x01
  | some x => if tidKind x ≠ 1 ∨ (s.tier v.st.ctx tid).state = .unbound then some 0x19
    else if cfgHome (s.tier v.st.ctx tid).block ≠ coreCluster v.r.core then some 0x19 else none

end Sys2Proof.Claims

/-- O35. TMV and FIRE.RD (R199, R201, R208, R470, R471): with no effective lane each does nothing; one that has arrived and whose
operation has proceeded goes on; one that names a tid in the wrong state traps as R199 says. A FIRE.RD of no rows whose tid is
bound at home, and a TMV whose checks pass and whose inputs are read, takes its turn, arrives at the tid with its mark, the TMV
owning its tile, and goes on once the operation has proceeded. -/
def Obligations.TieredInstructions : Prop :=
  (∀ (c : Ctl) (nocnt : Bool) (d a : Operand) (s : State), let i := Instr.tmv c nocnt d a
    let v := seen i c s
    let t := entered i s
    let word := (v.rd a 0).toNat
    let tid := word % 1024
    let ti := t.tier v.st.ctx tid
    let eb := if word.testBit 12 then 4 else 2
    Ready i c s → (v.eff = 0 → Finishes i s t) ∧ (v.eff ≠ 0 → (t.prog v.r).stage = 2 → Finishes i s t) ∧
      (v.eff ≠ 0 → (t.prog v.r).stage = 0 → word / 65536 = 0 → word / 8192 % 8 ≤ 2 → ∀ code, tierFault t v tid = some code →
        Traps i s { code := code, lanes := v.eff } t) ∧
      (∀ u xs, v.eff ≠ 0 → (t.prog v.r).stage = 0 → word / 65536 = 0 → word / 8192 % 8 ≤ 2 → tierFault t v tid = none →
        (ff32.decode (tidTheta ti.entry).toNat).isNan = false → (t.core v.r.core).tagFits false (tileOf d) .q = true → ti.flight.length < 256 →
        (∀ k, tmvInputs v t (word / 8192 % 8) eb (tierK ti.entry) (word / 1024 % 4 + 1) (v.rd (a.after 1) 0).toNat (v.rd (a.after 2) 0).toNat k = k u xs) →
        tierHasTurn u v (cfgHome ti.block) →
        let w := tierTurned u v (cfgHome ti.block)
        let w := w.setCore v.r.core ((w.core v.r.core).updTile (tileOf d) fun x => { x with tag := .q, owners := x.owners + 1 })
        Arrived i s v (tierArrive w v.st.ctx tid (.tmv {
          id := (arbiterServe u (cfgHome ti.block) v.st.ctx 5 0 v.r.core v.st.number.toNat).nextId, core := v.r.core, ctx := v.st.ctx
          strand := v.st.number, tile := tileOf d, xs := xs, f32 := word.testBit 12, n0 := (v.rd (a.after 3) 0).toNat, counting := !nocnt
          dev := v.st.segs.get 0 3, free := ((t.core v.r.core).tile (tileOf d)).tag == .free }))) ∧
      (v.eff ≠ 0 → (t.prog v.r).stage = 0 → word / 65536 = 0 → word / 8192 % 8 ≤ 2 → tierFault t v tid = none →
        (ff32.decode (tidTheta ti.entry).toNat).isNan = true → Traps i s { code := 0x19, lanes := v.eff } t)) ∧
  (∀ (c : Ctl) (a : Operand) (s : State) (ps : List Place), let i := Instr.fireRd c a
    let v := seen i c s
    let t := entered i s
    let tid := (v.rd a 0).toNat
    let home := cfgHome (t.tier v.st.ctx tid).block
    let n := (v.rd (a.after 2) 0).toNat
    let off := (v.rd (a.after 3) 0).toNat
    Ready i c s → (v.eff = 0 → Finishes i s t) ∧ (v.eff ≠ 0 → (t.prog v.r).stage = 2 → Finishes i s t) ∧
      (v.eff ≠ 0 → (t.prog v.r).stage = 0 → tid < 1024 → n ≤ 65536 → ∀ code, tierFault t v tid = some code →
        Traps i s { code := code, lanes := v.eff } t) ∧
      (v.eff ≠ 0 → (t.prog v.r).stage = 0 → tid < 1024 → n ≤ 65536 → tierFault t v tid = none → tierHasTurn t v home →
        v.checkSeg 0 { n := 2, writes := true, needR := false, spaces := [0, 1, 2, 3, 8], align := 2 }
          (((List.range n).map fun k => off + 2 * k).zipIdx.map fun e => (e.2, (e.1 : Int))) = .ready ps →
        Arrived i s v (tierArrive (tierTurned t v home) v.st.ctx tid (.fire {
          id := (arbiterServe t home v.st.ctx 5 0 v.r.core v.st.number.toNat).nextId, core := v.r.core, ctx := v.st.ctx
          strand := v.st.number, k0 := (v.rd (a.after 1) 0).toNat, n := n
          key := match ps.head? with | some p => p.key | none => 0
          dev := v.st.segs.get 0 3 }))))

/-- O36. The tier engine's own steps (R195, R196, R199, R201, R205, R206). When a quiescing tid has no TMV in flight and every
stack serves, the barrier operation at the head acts: a command, or an automatic ageing by ASH, which then completes; where a page
of its map must be waited for it waits. The next copy of a refresh or a migration is made and its row's map entry written, a
refresh going on to the next row with a slot. A TMV that has started asks the stacks for its partials; one all of whose partials
are in, its hot part whole, is joined, in order of the stacks, into its tile, which loses an owner, raises its flags (R37) and
leaves flight, with DATA_UC late when a row read uncorrectable; one that a base die refused leaves its tile as it is and ends in
GUARD (that it counted is the model's choice, log 154). A basin performs its piece, and its reply frees the tag for the request
that waits for one. The worked join (R203): with a hot part of 1.0 and parts of 2^-24 from stacks 0 and 3, the parts join the hot part in the
stacks' order, each sum rounded to nearest even, and the result is 1.0, no flag raised. -/
def Obligations.TierEngine : Prop :=
  (∀ (s : State) (c : TierCmd) (rest : List TierOp), let t := s.tier s.pick.a s.pick.b
    (t.state = .quiescing ∨ t.state = .refreshing) → t.working = none → t.flight = [] → t.waiting = .cmd c :: rest →
    (∀ i, i < 8 → stackServes s (i * 4096) = true) →
    let asked := match c.act with | .cfg b => { t with block := b } | _ => t
    let w : Tier := { t with state := if t.state = .refreshing then .refreshing else .working, waiting := rest, working := some c
                             status := 0, result := 0, copies := [] }
    (∀ u, tierHold s s.pick.a asked c.dev = some u → exec .tierWorking s = .next u) ∧
    (tierHold s s.pick.a asked c.dev = none → exec .tierWorking s = .next (if c.unbinds then tierComplete (s.setTier s.pick.a s.pick.b w) s.pick.a s.pick.b true
      else tierAfter (tierAct s s.pick.a w c).1 s.pick.a s.pick.b (tierAct s s.pick.a w c).2))) ∧
  (∀ (s : State) (dev : BitVec 128) (rest : List TierOp), let t := s.tier s.pick.a s.pick.b
    t.state = .quiescing → t.flight = [] → t.waiting = .ageing dev :: rest → (∀ i, i < 8 → stackServes s (i * 4096) = true) →
    tierHold s s.pick.a t dev = none →
    let w : Tier := { t with state := .working, waiting := rest, working := none, status := 0, result := 0 }
    let u := ageRows s s.pick.a w dev (cfgAsh t.block)
    exec .autoAgeing s = .next (tierComplete (u.1.setTier s.pick.a s.pick.b u.2) s.pick.a s.pick.b false)) ∧
  (∀ (s : State) (row : TierRow) (rest : List TierRow) (c : TierCmd), let t := s.tier s.pick.a s.pick.b
    t.copies = row :: rest → t.working = some c → (∀ i, i < 8 → stackServes s (i * 4096) = true) →
    (t.state = .working ∨ t.state = .refreshing) → tierHold s s.pick.a t c.dev = none →
    let u := enterRow s s.pick.a { t with copies := rest } c.dev row
    let w := match c.act with
      | .cfg _ => if u.2.status = 3 then u else refreshRun s.pick.a c.dev rest u.1 u.2
      | _ => u
    exec .tierCopyDone s = .next (tierAfter w.1 s.pick.a s.pick.b w.2)) ∧
  (∀ (s : State) (j : TmvJob), let t := s.tier s.pick.a s.pick.b
    let gone : Tier := { t with flight := t.flight.filter fun x => x.id != j.id }
    t.flight[s.pick.c]? = some j →
    (j.due ≠ [] → let u := sendDue s s.pick.a s.pick.b t j
      exec .tmvJoin s = .next (setJob u.1 s.pick.a s.pick.b u.2)) ∧
    (j.due = [] → tenantAt s j.core s.pick.a = true → j.hotDone = true → (∀ k ∈ j.pool, (j.parts.find (k.1 % 8)).isSome = true) →
      (∀ va, j.refused = some va → exec .tmvJoin s =
        .next (tierRun (failTmv (s.setTier s.pick.a s.pick.b gone) j 0x18 va) s.pick.a s.pick.b)) ∧
      (j.refused = none →
        let parts := ((List.range 8).filter fun i => j.pool.any fun k => k.1 % 8 == i).filterMap fun i => j.parts.find i
        let y := if j.worst.isSome then j.hot else joinParts j.hot parts
        let u := s.setCore j.core ((s.core j.core).updTile j.tile (tmvTile t.entry j y))
        let u := endMark (raiseStrand u j.core s.pick.a j.strand y.flags) j.core s.pick.a j.strand j.id
          (j.worst.map fun e => { code := 0x08, addr := e.2 })
        exec .tmvJoin s = .next (tierRun (u.setTier s.pick.a s.pick.b gone) s.pick.a s.pick.b)))) ∧
  (∀ (s : State) (p : Packet) (fn : Nat) (k0 k1 : Word) (first count : Nat) (ins outs : List (Nat × Nat)),
    s.pkts[s.pick.a]? = some p → p.kind = .nmc → pktMay s s.pick.a p = true → p.work = some (.bas fn k0 k1 first count ins outs) →
    pieceStopped s p = false → pktRefusal s p = none →
    let x := basPiece s fn k0 k1 first count ins outs
    exec .pktNmc s = .next { x.1 with pkts := setAt x.1.pkts s.pick.a { p with
      done := true, reply := [], status := if x.2.bad ≠ 0 then 2 else if x.2.ce then 1 else 0, index := x.2.first
      words := [BitVec.ofNat 32 x.2.bad, BitVec.ofNat 32 x.2.stat] } }) ∧
  (∀ (s : State) (p : Packet) (c id piece j : Nat) (q : EngCmd), s.pkts[s.pick.a]? = some p → p.kind = .nmc → p.done = true →
    p.back = .cmd c id piece → let t := dropPacket s s.pick.a p
    findCmd t c id = some j → (t.core c).eng[j]? = some q →
    let q := q.pieceDone p
    let u := setCmd t c j q
    exec .nmcReply s = .next (if q.settled && writesMay u c j then finishCmd u c j q false else u)) ∧
  (∀ (b0 b1 b2 : Option (Nat × Nat)), joinParts { vals := [[0x3F800000]], sums := [0], bad := b0 }
    [{ vals := [[0x33800000]], sums := [0], bad := b1 }, { vals := [[0x33800000]], sums := [0], bad := b2 }]
    = { vals := [[0x3F800000]], sums := [0], bad := b0 })

/-! The sampler, fragments and records (14 R251-R257, R316-R329). -/

namespace Sys2Proof.Claims

/-- The sampler instructions (R316-R319): control fields, index operand, destinations, whether a record is in order for the
instruction, and a lane's answer from its record. -/
structure SampleOp where
  c : Ctl
  idx : Operand
  dst : List Operand
  legal : Resource → Bool
  answer : View → State → Resource → List (Int × Int × Word) → Nat → State × Except SampleWait Answer

/-- SMP filters at the level of its last operand, SMPC compares with it at level 0, TLD reads one texel at that level, and RES.Q
gives the dimensions and the number of levels. -/
def sampleOp : Instr → Option SampleOp
  | .smp c d a b e => some {
      c := c, idx := a, dst := [d, d.after 1, d.after 2, d.after 3], legal := fun r => r.filtLegal && r.dim != 0 && r.filt != 4
      answer := fun v s r taps l => sampleLane v s b (v.rdFBits e l) none r taps l }
  | .smpc c d a b e => some {
      c := c, idx := a, dst := [d], legal := fun r => r.filtLegal && r.dim != 0 && r.filt == 4
      answer := fun v s r taps l => sampleLane v s b 0 (some (v.rdFBits e l)) r taps l }
  | .tld c d a b e => some {
      c := c, idx := a, dst := [d, d.after 1, d.after 2, d.after 3], legal := fun r => r.filtLegal && r.filt != 4
      answer := fun v s r _ l => loadLane v s b e r l }
  | .resQ c d a => some {
      c := c, idx := a, dst := [d, d.after 1, d.after 2, d.after 3], legal := fun _ => true
      answer := fun _ s r _ _ => (s, .ok [BitVec.ofNat 32 r.w, BitVec.ofNat 32 r.h, BitVec.ofNat 32 r.d, BitVec.ofNat 32 r.mips]) }
  | _ => none

/-- The word i of a lane's answer; 0 where there is none. -/
def answered (xs : List (Nat × Except SampleWait Answer)) (l i : Nat) : Word :=
  match xs.find? (fun e => e.1 == l) with
  | some (_, .ok ws) => ws.getD i 0
  | _ => 0

/-- The lanes' values put into what a strand stages, by a function of the lane. -/
def stagedLanes (s : State) (v : View) (f : Staged → Nat → Staged) : State :=
  s.setStrand v.r { s.strand v.r with staged := (lanesOf v.eff).foldl f (s.strand v.r).staged }

/-- A core's own operation on its cistern comes too late in a tick in which a thief was served already (R127). -/
def servedAlready (s : State) (c : Nat) : Prop := ∃ thief, (s.core c).stolen = some (s.tick, thief)

/-- The lanes' records pushed one after another (R125, R327); none when a push finds every cistern of the cluster full. -/
def pushAll (v : View) (x : Nat → BitVec 512) : State → List Nat → Option State
  | s, [] => some s
  | s, l :: ls => match pushCore s v.r.core v.st.ctx with
    | none => none
    | some c =>
      let u := raiseWork (pushRecord s c v.st.ctx (x l)) (coreCluster v.r.core) v.st.ctx 1
      pushAll v x (u.setProg v.r { u.prog v.r with lanes := (u.prog v.r).lanes ||| lanesWhere (· == l) }) ls

/-- The lanes' records divided one after another (R252, R321): what is kept stays with the lane, which is done, and what is split
off is pushed as a record of its own when it covers a sample and its draw stands; none when a push finds every cistern full. -/
def splitAll (v : View) (a : Operand) : State → List Nat → Option State
  | s, [] => some s
  | s, l :: ls => match ((s.strand v.r).staged.recs.find l).bind fun x => splitRecord x (v.rd a l).toNat with
    | none => splitAll v a s ls
    | some (kept, new) =>
      let u := s.setProg v.r { s.prog v.r with lanes := (s.prog v.r).lanes ||| lanesWhere (· == l) }
      let u := setRecord u v.r l kept
      if (ivMask0 new = 0 ∧ ivMask1 new = 0) ∨ (shadedDraw s v.st).isNone then splitAll v a u ls
      else match pushCore s v.r.core v.st.ctx with
        | none => none
        | some c => splitAll v a (pushRecord (countRecord u (coreCluster v.r.core) new) c v.st.ctx new) ls

end Sys2Proof.Claims

/-- O37. Sampling (R256, R316-R319), of SMP, SMPC, TLD and RES.Q: over n distinct indices a sampler instruction takes n - 1 cycles
of the arithmetic clock more, which are n - 1 times 1.9 GHz over the clock in ticks, rounded up (R19), waiting under reason 23;
then, when every effective lane has its answer, it leaves an awaited result with them, one register from SMPC and four from the
others, and %smpiter is the count. RES.Q's answer is the width, height, depth and number of levels. -/
def Obligations.SamplerInstructions : Prop :=
  (∀ (i : Instr) (o : SampleOp) (s s' : State) (xs : List (Nat × Except SampleWait Answer)), sampleOp i = some o →
    let v := seen i o.c s
    let t := entered i s
    let n := (distinctIndices v o.idx).length
    Ready i o.c s → (1 < n → (t.prog v.r).stage = 0 →
        Waits i s 23 (t.setProg v.r { t.prog v.r with stage := 1, tick := t.tick + (1900 * (n - 1) + s.dev.clockMHz - 1) / s.dev.clockMHz })) ∧
      ((n ≤ 1 ∨ ((t.prog v.r).stage ≠ 0 ∧ (t.prog v.r).tick ≤ t.tick)) → laneAnswers v o.idx o.legal (o.answer v) t (lanesOf v.eff) = (s', xs) →
        (∀ e ∈ xs, ∃ ws, e.2 = .ok ws) → ∃ u p, Finishes i s u ∧
          u.split v.r = (if n = 0 then s'.split v.r else { s'.split v.r with smpIter := n }) ∧
          (u.strand v.r).results = (s'.strand v.r).results ++ [p] ∧ p.dst = o.dst ∧ p.lanes = v.eff ∧ p.slot = o.c.slot ∧ p.owed = 0 ∧ p.why = 23 ∧
          p.vals = (List.range o.dst.length).map fun k => laneValues v.eff fun l => answered xs l k)) ∧
  (∀ (c : Ctl) (d a : Operand) (v : View) (s : State) (r : Resource) (k : Nat), ∃ o, sampleOp (.resQ c d a) = some o ∧
    o.answer v s r [] k = (s, .ok [BitVec.ofNat 32 r.w, BitVec.ofNat 32 r.h, BitVec.ofNat 32 r.d, BitVec.ofNat 32 r.mips]))

/-- O38. Fragments and vertices (R251, R252, R320-R325). In a strand of a fragment batch, VBARY leaves an awaited result with an
attribute of each lane's record at a view clamped to its range; where UNBIND has discarded the record's draw the value is free,
drawn with the number of this execution (the model's choice, log 157). VSPLIT divides the records of the lanes that are not
done and pushes what it splits off, or traps RECORD_ERR for those of generation 31 that divide, and waits under reason 22 when
a thief was served at this core in the tick (R127). VKILL clears mask bits, OUTC stages a colour and OUTZ a depth; in a strand
of a vertex batch OUTV stages a position or an attribute; in other strands each is done with nothing staged. -/
def Obligations.FragmentInstructions : Prop :=
  (∀ (c : Ctl) (d : Operand) (attr : BitVec 4) (b : Operand) (s : State), let i := Instr.vbary c d attr b
    let v := seen i c s
    let t : State := { entered i s with free := (entered i s).free + 1 }
    Ready i c s → Finishes i s (awaiting t v c [d] v.eff [laneValues v.eff fun l =>
      match (if v.st.isFragment then v.st.staged.recs.find l else none) with
      | none => 0
      | some x => if (shadedDraw t v.st).isNone then Config.freeWord (128 * (entered i s).free + l) else
        let view := max (ivLo x) (min (v.rd b l).toNat (ivHi x))
        attrAt (triangleOf (entered i s) (coreCluster v.r.core) x) (viewDist (entered i s) x view)
          (pixelX (ivX x) + if ivPair x then 32768 else 0) (rowY (ivY x)) attr.toNat] 0)) ∧
  (∀ (c : Ctl) (a : Operand) (s : State), let i := Instr.vsplit c a
    let v := seen i c s
    let t := entered i s
    let todo := v.eff &&& ~~~(t.prog v.r).lanes
    let deep := lanesWhere fun l => todo.getLsbD l && (match v.st.staged.recs.find l with
      | none => false
      | some x => ivGen x == 31 && (splitRecord x (v.rd a l).toNat).isSome)
    Ready i c s → (v.st.isFragment = false → Finishes i s (entered i s)) ∧
      (v.st.isFragment = true → deep ≠ 0 → Traps i s { code := 0x1A, lanes := deep } t) ∧
      (v.st.isFragment = true → deep = 0 → todo ≠ 0 → servedAlready t v.r.core →
        Waits i s 22 (t.setProg v.r { t.prog v.r with stage := 1 })) ∧
      (∀ u, v.st.isFragment = true → deep = 0 → (todo ≠ 0 → ¬ servedAlready t v.r.core) → splitAll v a t (lanesOf todo) = some u →
        Finishes i s u)) ∧
  (∀ (c : Ctl) (a : Operand) (s : State), let i := Instr.vkill c a
    let v := seen i c s
    let cut := fun m y => y - (y &&& m)
    Ready i c s → Finishes i s (if v.st.isFragment then (lanesOf v.eff).foldl (fun u l => match v.st.staged.recs.find l with
      | none => u
      | some x => setRecord u v.r l (ivPut (ivPut x 352 32 (cut (v.rd a l).toNat (ivMask0 x))) 320 32 (cut (v.rd a l).toNat (ivMask1 x)))) (entered i s)
      else entered i s)) ∧
  (∀ (c : Ctl) (a : Operand) (s : State), let i := Instr.outc c a
    let v := seen i c s
    Ready i c s → Finishes i s (if v.st.isFragment then stagedLanes (entered i s) v (fun x l => { x with vec := x.vec.set l (v.rd4 a l) })
      else entered i s)) ∧
  (∀ (c : Ctl) (a : Operand) (s : State), let i := Instr.outz c a
    let v := seen i c s
    Ready i c s → Finishes i s (if v.st.isFragment then
      stagedLanes (entered i s) v (fun x l => { x with depth := x.depth.set l (v.rdFBits a l) }) else entered i s)) ∧
  (∀ (c : Ctl) (which : Option (BitVec 4)) (a : Operand) (s : State), let i := Instr.outv c which a
    let v := seen i c s
    let put := fun (x : Staged) l => match which with
      | none => { x with vec := x.vec.set l (v.rd4 a l) }
      | some n => { x with attrs := x.attrs.set l ((x.attrs.get [] l).set n.toNat (v.rdFBits a l)) }
    Ready i c s → Finishes i s (if v.st.isVertex then stagedLanes (entered i s) v put else entered i s))

/-- O39. Records (R326-R329). REC.PUSH pushes the records of the lanes that have not pushed yet, in order, each raising the work
count by 1, or traps RECORD_ERR for lanes whose record is an interval record. A core's own push or pop comes before the thieves
of a tick: after one was served, it waits in that tick, under reason 22 or 24 (R127). REC.POP releases the start token once; lanes in
order take records until one finds none, and each that took one holds it and gets its sixteen words and true in pd, the others
false; with none taken it is done with pd false when the work count is 0 and waits under reason 24 when not. REC.DONE retires a
held record for each effective lane, and traps RECORD_ERR when it holds fewer. -/
def Obligations.RecordInstructions : Prop :=
  (∀ (c : Ctl) (a : Operand) (s : State), let i := Instr.recPush c a
    let v := seen i c s
    let bad := lanesWhere fun l => v.eff.getLsbD l && (v.rd (a.after 15) l).extractLsb' 24 8 == 0xF1
    Ready i c s → (bad ≠ 0 → Traps i s { code := 0x1A, lanes := bad } (entered i s)) ∧
      (bad = 0 → v.eff ≠ 0 → servedAlready (entered i s) v.r.core →
        Waits i s 22 ((entered i s).setProg v.r { (entered i s).prog v.r with stage := 1 })) ∧
      (∀ u, bad = 0 → (v.eff ≠ 0 → ¬ servedAlready (entered i s) v.r.core) → pushAll v (laneRecord v a) (entered i s) (lanesOf (v.eff &&& ~~~((entered i s).prog v.r).lanes)) = some u → Finishes i s u) ∧
      (∀ l k, k < 16 → (laneRecord v a l).extractLsb' (32 * k) 32 = v.rd (a.after k) l)) ∧
  (∀ (c : Ctl) (d e : Operand) (s s' : State) (got : List (Nat × BitVec 512)), let i := Instr.recPop c d e
    let v := seen i c s
    let t := entered i s
    let k := coreCluster v.r.core
    let st := t.strand v.r
    let late := v.eff ≠ 0 ∧ servedAlready t v.r.core
    let t := if st.token && v.eff != 0 then lowerWork (t.setStrand v.r { st with token := false }) k st.ctx 1 else t
    let won := lanesWhere fun l => got.any fun g => g.1 == l
    let word := fun n l => match got.find? (fun g => g.1 == l) with
      | some g => g.2.extractLsb' (32 * n) 32
      | none => 0
    Ready i c s → (late → Waits i s 24 ((entered i s).setProg v.r { (entered i s).prog v.r with stage := 1 })) ∧
      (¬ late → popLanes t v.r.core st.ctx st.number (lanesOf v.eff) = (s', got) →
      (got = [] → v.eff = 0 ∨ (s'.clu k).work.get 0 st.ctx = 0 → Finishes i s (awaiting s' v c [e] v.eff [laneValues 0 fun _ => 0] 0)) ∧
      (got = [] → v.eff ≠ 0 → (s'.clu k).work.get 0 st.ctx ≠ 0 → Waits i s 24 (s'.setProg v.r { s'.prog v.r with stage := 1 })) ∧
      (got ≠ [] →
        let u := s'.setStrand v.r { s'.strand v.r with held := (s'.strand v.r).held + got.length }
        Finishes i s (awaiting (awaiting u v c ((List.range 16).map d.after) won ((List.range 16).map fun n => laneValues won (word n)) 0)
          v c [e] v.eff [laneValues v.eff fun l => if won.getLsbD l then 1 else 0] 0)))) ∧
  (∀ (c : Ctl) (s : State), let i := Instr.recDone c
    let v := seen i c s
    let n := (lanesOf v.eff).length
    let st := (entered i s).strand v.r
    Ready i c s → (st.held < n → Traps i s { code := 0x1A, lanes := v.eff } (entered i s)) ∧
      (n ≤ st.held → Finishes i s (lowerWork ((entered i s).setStrand v.r { st with held := st.held - n }) (coreCluster v.r.core) st.ctx n)))

/-! Control flow, traps and the return from a handler (07 R130-R137, 16 R286-R299, 04 R97-R101). -/

namespace Sys2Proof.Claims

/-- The split goes on with some lanes at a target, its clause over; a target that is no code address waits there as an XLATE
trap (R285, R131). -/
def continuesAt (s : State) (r : SplitRef) (lanes : LaneMask) (target : Int) : State :=
  endClause (s.setSplit r { s.split r with
    mask := lanes
    traps := (s.split r).traps ++ (if 0 ≤ target ∧ target < 281474976710656 then []
      else [{ trap := { code := 0x05, lanes := lanes, addr := (target % 18446744073709551616).toNat }, site := none }]) })
    r (BitVec.ofInt 48 target)

/-- What a branch of the effective lanes does in a state (R131, R286, R287): nobody goes, all go, or the split divides, the taken
lanes into a free split index and, in handler mode or with none free, the others onto the deferred stack, which must have room. -/
def Branches (i : Instr) (s : State) (v : View) (before u : State) (target : Int) (rpc : BitVec 48) : Prop :=
  let others := v.sp.mask &&& ~~~v.eff
  (v.eff = 0 → Leaves i s (endClause u v.r v.next)) ∧
  (v.eff ≠ 0 → others = 0 → Leaves i s (continuesAt u v.r v.eff target)) ∧
  (∀ k, v.eff ≠ 0 → others ≠ 0 → v.sp.hm = false → freeSplit v.st = some k →
    Leaves i s (continuesAt (openSplit u v.r k ⟨target, v.eff⟩) v.r others (v.next.toNat))) ∧
  (v.eff ≠ 0 → others ≠ 0 → (v.sp.hm = true ∨ freeSplit v.st = none) → v.st.deferHeight < 64 →
    Leaves i s (continuesAt (pushDefer u v.r v.next rpc others) v.r v.eff target)) ∧
  (v.eff ≠ 0 → others ≠ 0 → (v.sp.hm = true ∨ freeSplit v.st = none) → 64 ≤ v.st.deferHeight →
    Traps i s { code := 0x12, lanes := v.eff } before)

/-- What a transfer to each effective lane's own target does (R135, R289): a misaligned or long target traps ILLEGAL_CLAUSE for
its lanes; otherwise the lanes whose guard is false, if any, go on at the next header, or with none the first election at its
target, and the other groups take free indices in order and then deferred entries, which must fit. -/
def Elects (i : Instr) (s : State) (v : View) (a : Operand) (before u : State) (rpc : BitVec 48) (isRet : Bool) : Prop :=
  let bad := lanesWhere fun l => v.eff.getLsbD l && ((v.rd64 a l).extractLsb' 0 3 != 0 || (v.rd64 a l).extractLsb' 48 16 != 0)
  let els := elect (fun l => v.rd64 a l) 96 v.eff
  let others := v.sp.mask &&& ~~~v.eff
  let t := traceTransfer u v els.length isRet
  (bad ≠ 0 → Traps i s { code := 0x02, lanes := bad } before) ∧
  (bad = 0 → ∀ g later, (if others = 0 ∧ els ≠ [] then els else (⟨v.next.toNat, others⟩ : Group) :: els) = g :: later →
    (deferNeed t v.r later.length ≤ 64 - v.st.deferHeight → Leaves i s (continuesAt (placeGroups t v.r rpc later) v.r g.lanes g.target)) ∧
    (64 - v.st.deferHeight < deferNeed t v.r later.length → Traps i s { code := 0x12, lanes := v.eff } before))

/-- The link of a call: the next header's address, in the effective lanes of a pair (R288, R290). -/
def linkWritten (s : State) (v : View) (d : Operand) : State :=
  if v.eff = 0 then s else putLanes64 s v.r d v.eff (List.replicate 96 (v.next.setWidth 64))

end Sys2Proof.Claims

/-- O40. Branches and calls (R131, R135, R286-R291): BRA, BR with its reconvergence place and CALL with its link go to a place
relative to the clause's header; BRX, RET and CALLX with its link go to each effective lane's own target. -/
def Obligations.BranchesAndCalls : Prop :=
  (∀ (c : Ctl) (imm : BitVec 32) (s : State), let i := Instr.bra c imm
    let v := seen i c s
    Ready i c s → Branches i s v (entered i s) (entered i s) (v.h.toNat + 8 * imm.toInt) 0) ∧
  (∀ (c : Ctl) (dist : BitVec 9) (imm : BitVec 32) (s : State), let i := Instr.br c dist imm
    let v := seen i c s
    Ready i c s → Branches i s v (entered i s) (entered i s) (v.h.toNat + 8 * imm.toInt)
      (if dist = 0 then 0 else v.next + 8 * dist.setWidth 48)) ∧
  (∀ (c : Ctl) (d : Operand) (imm : BitVec 32) (s : State), let i := Instr.call c d imm
    let v := seen i c s
    Ready i c s → Branches i s v (entered i s) (linkWritten (entered i s) v d) (v.h.toNat + 8 * imm.toInt) 0) ∧
  (∀ (c : Ctl) (a : Operand) (s : State), let i := Instr.brx c a
    let v := seen i c s
    Ready i c s → Elects i s v a (entered i s) (entered i s) 0 false) ∧
  (∀ (c : Ctl) (d a : Operand) (s : State), let i := Instr.callx c d a
    let v := seen i c s
    Ready i c s → Elects i s v a (entered i s) (linkWritten (entered i s) v d) v.next false) ∧
  (∀ (c : Ctl) (a : Operand) (s : State), let i := Instr.ret c a
    let v := seen i c s
    Ready i c s → Elects i s v a (entered i s) (entered i s) 0 true)

/-- O41. Ends of clauses, exits and sleeps (R292-R296): RECONV marks its split, but in handler mode, to park once the clause ends,
by the clause's header and the next one (R134); EXIT
takes its lanes, in handler mode every lane of the split, out, and the rest go on at the next header; YIELD ends its clause and
gives the scheduler up; SLEEP and SLEEPU begin a wait for a global tick still ahead, a count of 64 bits, which ends when the tick comes. -/
def Obligations.ExitsAndSleeps : Prop :=
  (∀ (c : Ctl) (s : State), let i := Instr.reconv c
    let v := seen i c s
    Ready i c s → Finishes i s (if v.eff ≠ 0 ∧ v.sp.hm = false then
      (entered i s).setSplit v.r { (entered i s).split v.r with reconv := some (v.h, v.next) } else entered i s)) ∧
  (∀ (c : Ctl) (s : State), let i := Instr.exit c
    let v := seen i c s
    let x := if v.sp.hm then v.sp.own else v.eff
    Ready i c s → Leaves i s (if x = 0 then endClause (entered i s) v.r v.next
      else if v.sp.own &&& ~~~x = 0 then exitLanes (entered i s) v.r x
      else endClause (exitLanes (entered i s) v.r x) v.r v.next)) ∧
  (∀ (c : Ctl) (s : State), let i := Instr.yield c
    let v := seen i c s
    let k := (entered i s).core v.r.core
    let q := k.sched.get {} (v.r.slot / 6)
    Ready i c s → Leaves i s (endClause (if v.eff = 0 then entered i s
      else (entered i s).setCore v.r.core { k with sched := k.sched.set (v.r.slot / 6) { q with gave := true } }) v.r v.next)) ∧
  (∀ (c : Ctl) (a : Operand) (s : State), let i := Instr.sleep c a
    let v := seen i c s
    Ready i c s → Finishes i s (if v.eff = 0 ∨ v.rd a 0 = 0 then entered i s
      else waitingFor (entered i s) v (.sleep ((entered i s).tick + (v.rd a 0).toNat)))) ∧
  (∀ (c : Ctl) (a : Operand) (s : State), let i := Instr.sleepu c a
    let v := seen i c s
    let now := (entered i s).tick % 18446744073709551616
    Ready i c s → Finishes i s (if v.eff = 0 ∨ (v.rd64 a 0).toNat ≤ now then entered i s
      else waitingFor (entered i s) v (.sleep ((entered i s).tick + ((v.rd64 a 0).toNat - now))))) ∧
  (∀ s w n, ((s.split s.pick.ref).waits)[s.pick.a]? = some w → w.kind = .sleep n → n ≤ s.tick →
    exec .sleepWake s = .next (endWait s s.pick.ref w))

/-- O42. Software traps and the return from a handler (R297-R299): TRAP raises SW with its number, BKPT raises BKPT, or first arms
the breakpoint stop that its context is set for, 64 ticks ahead, and waits until the device has stopped and resumed; with no
effective lane both do nothing. TRET outside handler mode traps ILLEGAL_OP; in it, it returns by the frame. What the return does
(R299): by a frame without deferred entries to drop, a split in handler mode leaves it with the frame's temporaries, mask within
its own lanes and flags; with RES 0 and no late trap it goes on at the frame's place, its header not waited on again, and with
RES 1 after it. Whatever RES says, the strand's flags become the frame's (R97). -/
def Obligations.TrapInstructions : Prop :=
  (∀ (c : Ctl) (imm : BitVec 8) (s : State), let i := Instr.trap c imm
    let v := seen i c s
    Ready i c s → (v.eff = 0 → Finishes i s (entered i s)) ∧
      (v.eff ≠ 0 → Traps i s { code := 0x14, lanes := v.eff, info := imm.setWidth 64 } (entered i s))) ∧
  (∀ (c : Ctl) (s : State), let i := Instr.bkpt c
    let v := seen i c s
    let t := entered i s
    let stops := t.dev.bkStop = true ∧ t.dev.bkCtx = v.st.ctx
    Ready i c s → (v.eff = 0 → Finishes i s t) ∧
      (v.eff ≠ 0 → (t.prog v.r).stage ≠ 1 → ¬ stops → Traps i s { code := 0x15, lanes := v.eff } t) ∧
      (v.eff ≠ 0 → (t.prog v.r).stage ≠ 1 → stops → t.dev.armed = false → t.dev.stopped = none →
        let u : State := { t with dev := { t.dev with stopTick := BitVec.ofNat 64 (t.tick + 64), armed := true, cause := 1 } }
        Waits i s 26 (u.setProg v.r { u.prog v.r with stage := 1 })) ∧
      (v.eff ≠ 0 → (t.prog v.r).stage = 1 → (t.dev.armed = true ∨ t.dev.stopped ≠ none) → Waits i s 26 t) ∧
      (v.eff ≠ 0 → (t.prog v.r).stage = 1 → t.dev.armed = false → t.dev.stopped = none → Traps i s { code := 0x15, lanes := v.eff } t)) ∧
  (∀ (c : Ctl) (s : State), let i := Instr.tret c
    let v := seen i c s
    Ready i c s → (v.sp.hm = false → Traps i s { code := 0x01, lanes := v.eff } (entered i s)) ∧
      (v.sp.hm = true → Leaves i s (handlerReturn (entered i s) v.r (readFrame (entered i s) v.r)))) ∧
  (∀ (s : State) (r : SplitRef) (f : List Byte), let t := handlerReturn s r f
    let sp := s.split r
    (∀ e ∈ deferStack s r.core r.slot, ¬ (e.spl = r.split ∧ e.hm = true)) → sp.hm = true → frameField f 489 1 = 0 →
    frameField f 502 2 ≤ 1 → (t.split r).hm = false ∧ (t.split r).state = .ready ∧ (t.split r).pc = BitVec.ofNat 48 (frameField f 384 64) ∧
      (t.split r).mask = BitVec.ofNat 96 (frameField f 192 96) &&& sp.own ∧ (t.split r).own = sp.own ∧
      (t.strand r).flags = BitVec.ofNat 5 (frameField f 490 5) ∧
      (t.split r).entry.pos = frameField f 495 5 + frameField f 502 2 ∧ (t.split r).entry.waits = false ∧
      (t.strand r).v = (s.strand r).v ∧ (t.strand r).s = (s.strand r).s ∧ (t.strand r).p = (s.strand r).p ∧ t.mem = s.mem ∧
      (∀ k l, k < 8 → l < 96 → ((t.split r).temps.get [] k).getD l 0 = BitVec.ofNat 32 (leNat ((f.drop (256 + 384 * k + 4 * l)).take 4))))

/-! Crews, barriers, growth and launches from a strand (07 R141-R154, 16 R300-R310). -/

namespace Sys2Proof.Claims

/-- Its release is over: the instruction's progress holds that (R61). -/
def releaseDone (s : State) (r : SplitRef) : State := s.setProg r { s.prog r with rel := 4, scope := none }

/-- The release that an instruction's order asks for is over, and no store of its core was refused. -/
def Released (s : State) (v : View) : Prop := (s.prog v.r).rel = 2 ∧ (s.core v.r.core).refused = []

/-- A strand arrives at an entry's barrier with a contribution, and its wait begins; a phase that every member has then reached
completes (R150-R152). -/
def arrivedAt (s : State) (v : View) (ent : Nat) (kind : BarKind) (o : BarOrder) (d : Option Operand) (val : Word) : State :=
  let k := coreCluster v.r.core
  let x := crewAt s k ent
  let ph : Phase := match x.phase with
    | some ph => ph
    | none => { kind := kind, arrived := [] }
  let ph := if ph.arrived.any (fun a => a.1 == (v.r.core, v.r.slot)) then ph else { ph with arrived := ph.arrived ++ [((v.r.core, v.r.slot), val)] }
  tryPhase (waitingFor (setCrew s k ent { x with phase := some ph }) v (.barrier (crewId k ent x.gen) (barAcquires o) d)) k ent

end Sys2Proof.Claims

/-- O43. Crews (R144, R300-R302): with no effective lane CNEW, CJOIN and CLEAVE do nothing. CNEW makes the strand the one member of
the lowest free entry's crew and writes the identifier, or all ones when the strand is in four crews or no entry is free; CJOIN
writes 0 for a crew that is not there, is full or has the strand, or when the strand is in four crews, and otherwise joins and
writes 1; CLEAVE writes 0 for a crew without the strand and otherwise leaves and writes 1. Barriers (R149-R154, R303, R304): with no effective lane BAR and BARP do nothing. One that names a crew its strand is not
in, or BAR.launch outside a co-resident launch, traps BARRIER_SCOPE. Otherwise, with the release of its order done when it has
one, the strand arrives, with its contribution from BARP, and waits after its clause; an arrival of another kind than an open
phase's traps ILLEGAL_OP. -/
def Obligations.CrewInstructions : Prop :=
  (∀ (c : Ctl) (d : Operand) (s : State), let i := Instr.cnew c d
    let v := seen i c s
    let t := entered i s
    let k := coreCluster v.r.core
    Ready i c s → (v.eff = 0 → Finishes i s t) ∧
      (v.eff ≠ 0 → (4 ≤ v.st.crews.length ∨ ∀ n, n < 1024 → (crewAt t k n).isFree = false) → Finishes i s (putAll t v.r d v.eff 0xFFFFFFFF)) ∧
      (∀ n, v.eff ≠ 0 → v.st.crews.length < 4 → n < 1024 → (crewAt t k n).isFree = true → (∀ m, m < n → (crewAt t k m).isFree = false) →
        let x := crewAt t k n
        let u := setCrew t k n { x with used := true, members := [(v.r.core, v.r.slot)], launch := none, phase := none }
        Finishes i s (putAll (u.setStrand v.r { u.strand v.r with crews := v.st.crews ++ [crewId k n x.gen] }) v.r d v.eff (crewId k n x.gen)))) ∧
  (∀ (c : Ctl) (d a : Operand) (s : State), let i := Instr.cjoin c d a
    let v := seen i c s
    let t := entered i s
    let k := coreCluster v.r.core
    Ready i c s → (v.eff = 0 → Finishes i s t) ∧
      (v.eff ≠ 0 → crewOf t k (v.rd a 0) = none → Finishes i s (putAll t v.r d v.eff 0)) ∧
      (∀ n, v.eff ≠ 0 → crewOf t k (v.rd a 0) = some n → let x := crewAt t k n
        (64 ≤ x.members.length ∨ 4 ≤ v.st.crews.length ∨ (v.r.core, v.r.slot) ∈ x.members → Finishes i s (putAll t v.r d v.eff 0)) ∧
        (x.members.length < 64 → v.st.crews.length < 4 → (v.r.core, v.r.slot) ∉ x.members → wideningCore x v.r.core = none →
          let u := setCrew t k n { x with members := x.members ++ [(v.r.core, v.r.slot)] }
          Finishes i s (putAll (u.setStrand v.r { u.strand v.r with crews := v.st.crews ++ [crewId k n x.gen] }) v.r d v.eff 1)))) ∧
  (∀ (c : Ctl) (d a : Operand) (s : State), let i := Instr.cleave c d a
    let v := seen i c s
    let t := entered i s
    let k := coreCluster v.r.core
    Ready i c s → (v.eff = 0 → Finishes i s t) ∧
      (v.eff ≠ 0 → namedCrew t v.r.core v.st (v.rd a 0) = none → Finishes i s (putAll t v.r d v.eff 0)) ∧
      (∀ n, v.eff ≠ 0 → namedCrew t v.r.core v.st (v.rd a 0) = some n → Finishes i s
        (if (v.r.core, v.r.slot) ∈ (crewAt t k n).members then leaveCrew (putAll t v.r d v.eff 1) k n v.r.core v.r.slot
        else putAll t v.r d v.eff 0))) ∧
  (∀ (i : Instr) (c : Ctl) (o : BarOrder) (id : View → Word) (kind : BarKind) (d : Option Operand) (val : View → Word) (s : State),
    ((∃ a, i = .bar c o (some a) ∧ id = (fun v => v.rd a 0) ∧ kind = .bar ∧ d = none ∧ val = fun _ => 0) ∨
      (∃ op ty ftz x a b, i = .barp c op ty ftz o x a b ∧ id = (fun v => v.rd b 0) ∧ kind = .barp op ty ftz ∧ d = some x ∧
        val = fun v => v.rdRed ty a 0)) →
    let v := seen i c s
    let t := entered i s
    let k := coreCluster v.r.core
    Ready i c s → (v.eff = 0 → Finishes i s t) ∧
      (v.eff ≠ 0 → (∀ n, namedCrew t v.r.core v.st (id v) = some n → (v.r.core, v.r.slot) ∉ (crewAt t k n).members) →
        Traps i s { code := 0x0B, lanes := v.eff } t) ∧
      (∀ n, v.eff ≠ 0 → namedCrew t v.r.core v.st (id v) = some n → (v.r.core, v.r.slot) ∈ (crewAt t k n).members →
        (barReleases o = true → Released t v) →
        let u := if barReleases o then releaseDone t v.r else t
        (∀ ph, (crewAt t k n).phase = some ph → ph.kind ≠ kind → Traps i s { code := 0x01, lanes := v.eff } u) ∧
        ((∀ ph, (crewAt t k n).phase = some ph → ph.kind = kind) → Finishes i s (arrivedAt u v n kind o d (val v))))) ∧
  (∀ (c : Ctl) (o : BarOrder) (s : State), let i := Instr.bar c o none
    let v := seen i c s
    let t := entered i s
    Ready i c s → (v.eff = 0 → Finishes i s t) ∧ (v.eff ≠ 0 → v.st.launch = none → Traps i s { code := 0x0B, lanes := v.eff } t) ∧
      (∀ n x, v.eff ≠ 0 → v.st.launch = some n → t.launch n = some x → x.bits.getLsbD 219 = true → (barReleases o = true → Released t v) →
        let u := if barReleases o then releaseDone t v.r else t
        let m := (v.r.core, v.st.number)
        Finishes i s (tryLaunchBar (waitingFor (u.setLaunch n { x with arrived := if x.arrived.contains m then x.arrived else x.arrived ++ [m] })
          v (.launchBar n (barAcquires o))) n)))

/-- O44. Growth and launches (R141, R142, R308-R310). VGROW to no more registers than the strand has, rounded up to 16, does
nothing, beyond its maximum traps REG_GROW, and otherwise begins its wait, granted from its issue on where the core's free
registers meet it and no older sleeper waits (when the registers are taken is the model's reading, log 163); VSHRINK, once no result is awaited, leaves the strand
with fewer registers, not below its first grant, and lets sleepers grow. A core that has issued nothing for 4096 ticks while
strands sleep on growth saves the youngest sleeper, once what R77 has it wait for is over and its registers are written, and a
saved one that comes first returns when its growth fits. LAUNCH, with
its release done and its record read and in order, hands it to a queue of its context and waits under reason 13; once accepted
it writes the launch number, and with a record out of order it traps RECORD_ERR. -/
def Obligations.GrowthAndLaunch : Prop :=
  (∀ (c : Ctl) (a : Operand) (s : State), let i := Instr.vgrow c a
    let v := seen i c s
    let n := ((v.rd a 0).toNat + 15) / 16 * 16
    Ready i c s → (v.eff = 0 ∨ n ≤ v.st.nregs → Finishes i s (entered i s)) ∧
      (v.eff ≠ 0 → v.st.nregs < n → (v.st.rmax + 15) / 16 * 16 < n → Traps i s { code := 0x13, lanes := v.eff } (entered i s)) ∧
      (∀ now : Bool, v.eff ≠ 0 → v.st.nregs < n → n ≤ (v.st.rmax + 15) / 16 * 16 →
        (now = true ↔ n - v.st.claimed ≤ freeRegisters (entered i s) v.r.core ∧
          ∀ e ∈ sleepers (entered i s) v.r.core, v.st.age < e.2.age ∨ (v.st.age = e.2.age ∧ v.r.slot ≤ e.1)) →
        Finishes i s (waitingFor (entered i s) v (.vgrow n now)))) ∧
  (∀ (c : Ctl) (a : Operand) (s : State), let i := Instr.vshrink c a
    let v := seen i c s
    let n := max (((v.rd a 0).toNat + 15) / 16 * 16) v.st.gStart
    Ready i c s → (v.eff = 0 → Finishes i s (entered i s)) ∧ (v.eff ≠ 0 → v.st.results ≠ [] → Waits i s 3 (entered i s)) ∧
      (v.eff ≠ 0 → v.st.results = [] → Finishes i s (if v.st.nregs ≤ n then entered i s
        else gainRoom (settleGrowth ((entered i s).setStrand v.r (v.st.resize n)) v.r.core) [v.r.core]))) ∧
  (∀ (c : Ctl) (d a b : Operand) (s s' : State) (p : Place) (ps : List Place) (bs : List Byte), let i := Instr.launch c d a b
    let v := seen i c s
    let t := entered i s
    let q := 64 * v.st.ctx + (v.rd b 0).toNat
    Ready i c s → (v.eff = 0 → Finishes i s t) ∧
      (v.eff ≠ 0 → (t.prog v.r).stage = 2 → Finishes i s (putAll t v.r d v.eff (BitVec.ofNat 32 ((t.prog v.r).nums.headD 0)))) ∧
      (v.eff ≠ 0 → (t.prog v.r).stage = 3 → Traps i s { code := 0x1A, lanes := v.eff } t) ∧
      (v.eff ≠ 0 → (t.prog v.r).stage = 0 → Released t v → (v.rd b 0).toNat < 64 →
        v.checkSeg 3 { n := 64, writes := false, spaces := [0, 1, 2, 3, 8], align := 64 } [(0, ((v.rd64 a 0).toNat : Int))] = .ready (p :: ps) →
        loadBytes (releaseDone t v.r) v.r.core p.key 64 p.via = (s', bs, none) → (s'.queue q).state ≠ .unbound → qDev s' q = true →
        let bits := BitVec.ofNat 512 (leNat bs)
        (recordCheck s' v.st.ctx bits ≠ none → Traps i s { code := 0x1A, lanes := v.eff } s') ∧
        (recordCheck s' v.st.ctx bits = none →
          let u := s'.setQueue q { s'.queue q with handed := (s'.queue q).handed ++
            [{ bits := bits, target := { core := v.r.core, slot := v.r.slot, split := v.r.split, id := none } }] }
          Waits i s 13 (u.setProg v.r { u.prog v.r with stage := 1 })))) ∧
  (∀ (s : State) (slot : Nat) (st : Strand), let c := s.pick.a
    let mine := fun t : Target => t.core == c && t.slot == slot
    growthStuck s c = true → ((sleepers s c).filter fun e => e.2.state == .resident).getLast? = some (slot, st) →
    (st.savable = false ∨ repliesIn s mine = false → exec .vgrowDeadlockCheck s = .next (stallOwed s fun i j => i == c && j == slot)) ∧
    (∀ s' at_, st.savable = true → repliesIn s mine = true → preemptOut s c slot st = (s', at_, .done) →
      let saved := saveStrand s'.runTick slot at_ (taggedOf s' c slot) st
      let u := settleGrowth (leaveSlot (s'.setStrandAt c slot saved) c slot) c
      exec .vgrowDeadlockCheck s = .next (syncWaiters (retimeCuffs (gainRoom u [c]) (coreCluster c))) ∧
        saved.state = .saved ∧ saved.v = st.v ∧ saved.s = st.s ∧ saved.p = st.p ∧ saved.crews = st.crews ∧ saved.nregs = st.nregs)) ∧
  (∀ (s t : State) (st : Strand) (rest : List (Nat × Strand)) (n : Nat), let c := s.pick.a
    sleepers s c = (s.pick.b, st) :: rest → st.growth = some n → st.state = .saved → max n st.claimed ≤ freeRegisters s c →
    takeSched s c s.pick.b st = some t →
    let back := returnStrand s.runTick s.pick.b st
    let u := grantGrowth (t.setStrandAt c s.pick.b back.1) c s.pick.b n
    exec .vgrowRestore s = .next (syncWaiters (retimeCuffs (settleGrowth { u with tagReqs := u.tagReqs ++ back.2 } c) (coreCluster c))))

/-! Sections (12 R209-R226, 16 R305-R307). -/

namespace Sys2Proof.Claims

/-- No two effective lanes name one key (R214). -/
def KeysDiffer (v : View) (a : Operand) : Prop := dupLanes v a = 0

end Sys2Proof.Claims

/-- O45. Section instructions SLU.IN, SLU.OUT and SLU.TRY (R214-R216, R305-R307): with no effective lane each does nothing, and for
SLU.IN and SLU.TRY lanes with equal keys trap SECT_DUP with the key of the lowest. SLU.IN sends each lane's request under a
number of its own and waits after its clause; SLU.OUT, its release at .dev done, waits while earlier requests of its core are on
their way to its keys' homes (R13), traps PERM for lanes that do not hold their key or already leave it, and otherwise sends
their leaves and waits for the acknowledgements; SLU.TRY sends its requests once and waits in place until every lane has its
answer, then writes who entered and whose key had been abandoned, with the acquire when any entered; where a sluice was full it
takes its grants back and traps KEYTAB_FULL for the lane that asked. The sluices' own steps (R213, R214, R220-R222). A request that has its turn is served: without room for its entry its
instruction traps KEYTAB_FULL; with .init on an entry that is neither held nor waited for, NEXT takes the request's number; a
request whose number is NEXT of an entry not held enters, and another waits, or with SLU.TRY is told no. A leave by the holder,
an abandoning one once its core's release is over, frees the entry, raises NEXT and grants the next waiter. A walk that comes
back to its own strand traps SECT_DEADLOCK, one at an entry without a holder ends, and one makes 16 hops at most. A waiter past
the limit traps SECT_STARVED. A refused request is sent again when its tick comes. A
move of the spill area that is held leaves the request where it is. -/
def Obligations.SectionInstructions : Prop :=
  (∀ (c : Ctl) (init : Bool) (d a b : Operand) (s : State), let i := Instr.sluIn c init d a b
    let v := seen i c s
    let t := entered i s
    Ready i c s → (v.eff = 0 → Finishes i s t) ∧ (∀ e, v.eff ≠ 0 → dupTrap v a = some e → Traps i s e t ∧ e.code = 0x10) ∧
      (v.eff ≠ 0 → KeysDiffer v a → let u : State := { t with nextId := t.nextId + 1 }
        Finishes i s (waitingFor (sendSects u v a b init false t.nextId) v
          (.sluIn t.nextId v.eff 0 ((lanesOf v.eff).map fun l => (l, v.rd64 a l)) d)))) ∧
  (∀ (c : Ctl) (a : Operand) (s : State), let i := Instr.sluOut c a
    let v := seen i c s
    let t := releaseDone (entered i s) v.r
    let owner := fun l => (⟨v.r.core, v.st.number, l⟩ : Owner)
    let going := fun l => (t.clu (keyHome (v.rd64 a l))).sectLeaves.any fun q => q.ctx == v.st.ctx && q.owner == owner l && q.key == v.rd64 a l
    let bad := lanesWhere fun l => v.eff.getLsbD l && (!holdsKey t v.st.ctx (owner l) (v.rd64 a l) || going l)
    let leave := fun (u : State) l => let w : State := { u with nextId := u.nextId + 1 }
      w.setClu (keyHome (v.rd64 a l)) { w.clu (keyHome (v.rd64 a l)) with
        sectLeaves := (w.clu (keyHome (v.rd64 a l))).sectLeaves ++
          [{ ctx := v.st.ctx, key := v.rd64 a l, owner := owner l, no := some u.nextId }] }
    let before := ∃ l q, v.eff.getLsbD l = true ∧ q ∈ (t.clu (keyHome (v.rd64 a l))).sectReqs ∧ q.w.owner.core = v.r.core ∧ q.after = 0
    Ready i c s → (v.eff = 0 → Finishes i s (entered i s)) ∧
      (v.eff ≠ 0 → Released (entered i s) v → before → Waits i s 10 t) ∧
      (v.eff ≠ 0 → Released (entered i s) v → ¬ before → bad ≠ 0 → Traps i s { code := 0x06, lanes := bad } t) ∧
      (v.eff ≠ 0 → Released (entered i s) v → ¬ before → bad = 0 →
        Finishes i s (waitingFor ((lanesOf v.eff).foldl leave t) v (.sluOut (popCount v.eff))))) ∧
  (∀ (c : Ctl) (d a b e : Operand) (s : State), let i := Instr.sluTry c d a b e
    let v := seen i c s
    let t := entered i s
    let p := t.prog v.r
    Ready i c s → (v.eff = 0 → Finishes i s t) ∧
      (∀ x, v.eff ≠ 0 → p.stage = 0 → dupTrap v a = some x → Traps i s x t) ∧
      (v.eff ≠ 0 → p.stage = 0 → KeysDiffer v a → 
        let u : State := { t with nextId := t.nextId + 1 }
        Waits i s 10 (sendSects (u.setProg v.r { p with stage := 1, ask := t.nextId }) v a b false true t.nextId)) ∧
      (v.eff ≠ 0 → p.stage = 1 → v.eff &&& ~~~p.lanes ≠ 0 → Waits i s 10 t) ∧
      (v.eff ≠ 0 → p.stage = 1 → v.eff &&& ~~~p.lanes = 0 →
        let u := putPred (putPred t v.r d v.eff fun l => p.won.getLsbD l) v.r e v.eff fun l => p.nums.contains l
        Finishes i s (if p.won = 0 then u else acquire u v.r.core .dev)) ∧
      (∀ x, v.eff ≠ 0 → p.stage = 2 → p.fail = some x →
        Traps i s x
          (undoEntry t v.st.ctx v.r.core v.st.number p.ask p.won (lanesWhere fun k => p.nums.contains k) ((lanesOf v.eff).map fun k => (k, v.rd64 a k))))) ∧
  (∀ (s : State) (q : SectReq), let k := s.pick.a
    let o := q.w.owner
    let gone := fun u : State => arbiterServe (u.setClu k { u.clu k with sectReqs := (u.clu k).sectReqs.eraseIdx u.pick.b }) k q.w.ctx 2 0
      o.core o.number.toNat
    (s.clu k).sectReqs[s.pick.b]? = some q → q.after = 0 → sectBehind (s.clu k) o.core q.no = false →
    arbiterMay s k q.w.ctx 2 0 o.core o.number.toNat = true →
    (∀ u, needEntry s k q.w.ctx q.w.key = (u, .error .held) → exec .sectionRequest s = .next u) ∧
    (∀ u, needEntry s k q.w.ctx q.w.key = (u, .error .full) → exec .sectionRequest s = .next (syncWaiters (failEntry (gone u) q.w
      { code := 0x11, lanes := 1#96 <<< o.lane, info := q.w.key }))) ∧
    (∀ u n e, needEntry s k q.w.ctx q.w.key = (u, .ok n) → ((gone u).clu k).keys[n]? = some e →
      let e := if q.init && e.held.isNone && !hasWaiters ((gone u).clu k) e then { e with next := q.w.seq } else e
      let u := (gone u).setClu k { (gone u).clu k with keys := ((gone u).clu k).keys.set n e }
      exec .sectionRequest s = .next (syncWaiters (
        if e.held = none ∧ e.next = q.w.seq then
          (if q.once then replyTry (holdEntry u k n e o) q.w true e.abn else replyGrant (holdEntry u k n e o) q.w e.abn)
        else if q.once then replyTry u q.w false false else attachWaiter u k q)))) ∧
  (∀ (s : State) (q : SectLeave) (n : Nat) (e : KeyEntry), let k := s.pick.a
    (s.clu k).sectLeaves[s.pick.b]? = some q →
    (match q.no with
      | some m => sectBehind (s.clu k) q.owner.core m = false
      | none => releaseOver s q.owner.core .dev = true) →
    findKey (s.clu k) q.ctx q.key = some n → (s.clu k).keys[n]? = some e → e.held = some q.owner →
    let t := s.setClu k { s.clu k with sectLeaves := (s.clu k).sectLeaves.eraseIdx s.pick.b }
    let t := if q.no = none then t else ackLeave t q.ctx q.owner
    exec .sectionLeave s = .next (syncWaiters (grantNext (t.setClu k { t.clu k with
      keys := (s.clu k).keys.set n { e with held := none, next := e.next + 1, abn := e.abn || q.no.isNone } }) k n))) ∧
  (∀ (s : State) (h : ChainWalk), let k := s.pick.a
    let gone := s.setClu k { s.clu k with chains := (s.clu k).chains.eraseIdx s.pick.b }
    let entry := (findKey (s.clu (keyHome h.cur)) h.ctx h.cur).bind fun n => (s.clu (keyHome h.cur)).keys[n]?
    (s.clu k).chains[s.pick.b]? = some h →
    (entry.bind (·.held) = none → exec .chainWalkHop s = .next gone) ∧
    (∀ o w, entry.bind (·.held) = some o → o.core = h.owner.core → o.number = h.owner.number →
      (s.clu k).waiters.find? (fun w => w.ask == h.ask && w.owner == h.owner) = some w →
      exec .chainWalkHop s = .next (syncWaiters (failEntry gone w { code := 0x0E, lanes := 1#96 <<< h.owner.lane, info := h.cur }))) ∧
    (∀ o n, entry.bind (·.held) = some o → (o.core ≠ h.owner.core ∨ o.number ≠ h.owner.number) → wantedKey s h.ctx o = some n →
      exec .chainWalkHop s = .next (if 16 ≤ h.hops + 1 then gone
        else s.setClu k { s.clu k with chains := (s.clu k).chains.set s.pick.b { h with cur := n, hops := h.hops + 1 } }))) ∧
  (∀ (s : State) (w : Waiter), let x := s.clu s.pick.a
    (x.waiters ++ (x.sectReqs.filter fun q => q.refused && !q.once).map (·.w))[s.pick.b]? = some w → 2 ^ ctxStarve s w.ctx < waiterTicks s w →
    exec .sectStarved s = .next (syncWaiters (failEntry s w { code := 0x0F, lanes := expiredLanes s w.ask, info := w.key }))) ∧
  (∀ (s : State) (q : SectReq), let k := s.pick.a
    (s.clu k).sectReqs[s.pick.b]? = some q → q.after ≠ 0 → q.after ≤ s.tick →
    let t : State := { s with nextId := s.nextId + 1 }
    exec .waiterResend s = .next (t.setClu k { t.clu k with
      sectReqs := (s.clu k).sectReqs.eraseIdx s.pick.b ++ [{ q with after := 0, no := s.nextId }] }))

/-! System registers, segments and translation invalidation (16 R311-R315). -/

/-- O46. System registers (R311-R315). CSRR leaves an awaited result with the register's value, and waits under reason 23 for
SMPITER while a sampler result of its split is awaited; CSRW has its effect, from 0x180 on after its release at .sys; SEG.LD puts
the value, closed when it breaks R165 or R166, into the strand's segment; TLB.INV drops the entries it names from every TLB and
waits under reason 28 until no access made through them is left. With no effective lane the last three do nothing. The
privileged registers read 0 at user privilege. -/
def Obligations.SystemRegisters : Prop :=
  (∀ (c : Ctl) (d : Operand) (n : BitVec 9) (s : State), let i := Instr.csrr c d n
    let v := seen i c s
    let sampling := n = 4 ∧ (v.st.results.any fun p => p.split == v.r.split && p.why == 23) = true
    Ready i c s → (sampling → Waits i s 23 (entered i s)) ∧
      (¬ sampling → Finishes i s (awaiting (entered i s) v c [d] v.eff [laneValues v.eff fun _ => csrValue v (entered i s) n.toNat] 0))) ∧
  (∀ (v : View) (s : State), csrValue v s 1 = v.st.number.setWidth 32 ∧ csrValue v s 2 = BitVec.ofNat 32 v.st.nregs ∧
    csrValue v s 5 = BitVec.ofNat 32 v.st.held ∧ csrValue v s 6 = BitVec.ofNat 32 v.st.ctx ∧
    (ctxStw s v.st.ctx = false → csrValue v s 0x100 = 0 ∧ csrValue v s 0x182 = 0 ∧ csrValue v s 0x183 = 0)) ∧
  (∀ (c : Ctl) (a : Operand) (n : BitVec 9) (s : State), let i := Instr.csrw c a n
    let v := seen i c s
    let t := entered i s
    let k := coreCluster v.r.core
    Ready i c s → (v.eff = 0 → Finishes i s t) ∧
      (v.eff ≠ 0 → n.toNat < 0x180 → Finishes i s (if n = 0x100 ∧ 16 ≤ (v.rd a 0).toNat ∧ (v.rd a 0).toNat ≤ 30 then
        t.setClu k { t.clu k with quantum := (v.rd a 0).toNat } else t)) ∧
      (v.eff ≠ 0 → 0x180 ≤ n.toNat → Released t v → let u := releaseDone t v.r
        let x := v.rd a 0
        Finishes i s (if n = 0x180 then ctxCommand u (x.extractLsb' 8 6).toNat (x.extractLsb' 0 4).toNat
          else if n = 0x182 then queueCommand u (64 * (x.extractLsb' 8 6).toNat + (x.extractLsb' 14 6).toNat) (x.extractLsb' 0 4).toNat
          else if n = 0x183 then streamCommand u (x.extractLsb' 8 8).toNat (x.extractLsb' 0 4).toNat else u))) ∧
  (∀ (c : Ctl) (sg : SegIx) (a : Operand) (s : State), let i := Instr.segLd c sg a
    let v := seen i c s
    let t := entered i s
    Ready i c s → Finishes i s (if v.eff = 0 then t else t.setStrand v.r { t.strand v.r with
      segs := (t.strand v.r).segs.set (segNum sg) (admitSeg (segNum sg) (t.strand v.r).window (v.rdQuad a)) })) ∧
  (∀ (c : Ctl) (k : TlbInv) (s : State), let i := Instr.tlbInv c k
    let v := seen i c s
    let t := entered i s
    Ready i c s → (v.eff = 0 → Finishes i s t) ∧
      (v.eff ≠ 0 → (t.prog v.r).stage = 0 → ∃ u, Waits i s 28 (u.setProg v.r { t.prog v.r with stage := 1 }) ∧
        u = invalidate t (v.dropped k).1 ∧ (∀ n, ∀ e ∈ (u.core n).tlb, (v.dropped k).1 e.ctx e.va e.size = false)) ∧
      (v.eff ≠ 0 → (t.prog v.r).stage ≠ 0 → accessesLeft t (v.dropped k).2 = true → Waits i s 28 t) ∧
      (v.eff ≠ 0 → (t.prog v.r).stage ≠ 0 → accessesLeft t (v.dropped k).2 = false → Finishes i s t))

/-! Commands of engines (18 R445, 19 R473-R482). -/

namespace Sys2Proof.Claims

/-- The copy and basin commands: control fields, engine, function number (R475), handle, and the two pairs. -/
def copyOrBasin : Instr → Option (Ctl × Nat × Nat × Option (BitVec 4) × BitVec 5 × BitVec 5)
  | .xcLoad c h a b => some (c, 0, 1, h, a, b)
  | .xcStore c h a b => some (c, 0, 2, h, a, b)
  | .xcMcast c h a b => some (c, 0, 3, h, a, b)
  | .xcGather c h a b => some (c, 0, 4, h, a, b)
  | .xcScatter c h a b => some (c, 0, 5, h, a, b)
  | .xcFill c h a b => some (c, 0, 6, h, a, b)
  | .xcPeer c h a b => some (c, 0, 7, h, a, b)
  | .xcCsum c h a b => some (c, 0, 8, h, a, b)
  | .basAxpby c h a b => some (c, 1, 1, h, a, b)
  | .basScal c h a b => some (c, 1, 2, h, a, b)
  | .basSgd c h a b => some (c, 1, 3, h, a, b)
  | .basMom c h a b => some (c, 1, 4, h, a, b)
  | .basSum c h a b => some (c, 1, 5, h, a, b)
  | .basFill c h a b => some (c, 1, 6, h, a, b)
  | .basCopy c h a b => some (c, 1, 7, h, a, b)
  | .basCvt c h a b => some (c, 1, 8, h, a, b)
  | .basStat c h a b => some (c, 1, 9, h, a, b)
  | _ => none

/-- Every engine command, with its engine number. -/
def engineCommand : Instr → Option (Ctl × Nat × Option (BitVec 4) × BitVec 5 × BitVec 5)
  | .tierCfg c h a b => some (c, 2, h, a, b)
  | .tierRank c h a b => some (c, 2, h, a, b)
  | .tierMig c h a b => some (c, 2, h, a, b)
  | .tierAge c h a b => some (c, 2, h, a, b)
  | .tierPin c h a b => some (c, 2, h, a, b)
  | .prsDraw c h a b => some (c, 3, h, a, b)
  | .prsFrame c h a b => some (c, 3, h, a, b)
  | .prsPresent c h a b => some (c, 3, h, a, b)
  | .prsReproj c h a b => some (c, 3, h, a, b)
  | .trcMark c h a b => some (c, 4, h, a, b)
  | .trcFlush c h a b => some (c, 4, h, a, b)
  | .trcSample c h a b => some (c, 4, h, a, b)
  | .stwKeyspill c h a b => some (c, 15, h, a, b)
  | .stwDump c h a b => some (c, 15, h, a, b)
  | i => (copyOrBasin i).map fun e => (e.1, e.2.1, e.2.2.2)

/-- The cluster can give the handle that a command asks for (R445). -/
def SerialFree (s : State) (v : View) (h : Option (BitVec 4)) : Prop := h = none ∨ serialHeld s (coreCluster v.r.core) = false

/-- The block of n bytes that a pair names, aligned as its entry says, is there and reads so (R473). -/
def BlockRead (v : View) (s : State) (x : DWord) (n align : Nat) (s' : State) (p : Place) (bs : List Byte) : Prop :=
  saddrOk x.toNat = true ∧
  (∃ ps, v.checkSeg (saddrSeg x.toNat) { n := n, writes := false, spaces := [0, 1, 2, 3, 8], align := align }
    [(0, (saddrOff x.toNat : Int))] = .ready (p :: ps)) ∧
  loadBytes s v.r.core p.key n p.via = (s', bs, none)

/-- The tier commands on a bound tid: pair A's tid and whether the pairs keep the rules of R479, and what is asked of it. -/
def tierAsked (i : Instr) (v : View) : Option (Ctl × Option (BitVec 4) × Nat × Bool × (BitVec 512 → Option TierAct)) :=
  match i with
  | .tierRank c h a b => some (c, h, (v.pairVal a).toNat, (v.pairVal a).toNat < 1024 && v.pairVal b == 0, fun _ => some .rank)
  | .tierMig c h a b => some (c, h, (v.pairVal a).toNat, (v.pairVal a).toNat < 1024 && v.pairVal b == 0, fun _ => some .mig)
  | .tierAge c h a b =>
    let x := v.pairVal a
    let n := (x.extractLsb' 16 5).toNat
    some (c, h, (x.extractLsb' 0 10).toNat, x.extractLsb' 10 6 == 0 && x.extractLsb' 21 43 == 0 && 1 ≤ n && n ≤ 16 && v.pairVal b == 0,
      fun _ => some (.age n))
  | .tierPin c h a b =>
    let x := v.pairVal a
    let y := (v.pairVal b).toNat
    let val := (x.extractLsb' 10 2).toNat
    let k0 := (x.extractLsb' 32 32).toNat
    some (c, h, (x.extractLsb' 0 10).toNat, x.extractLsb' 12 20 == 0 && val != 3 && 1 ≤ y && y < 2 ^ 32,
      fun e => if tierK e < k0 + y then none else some (.pin val k0 y))
  | _ => none

/-- A command with its handle given completes at once with a status and a result (R160, R161). -/
def answered1 (s : State) (v : View) (eng : Nat) (h : Option (BitVec 4)) (status : Nat) (result : Word) : State :=
  completeHandle (grantHandle v s eng h).1 (grantHandle v s eng h).2 status result

end Sys2Proof.Claims

/-- O47. Every engine command (R445): with no effective lane it does nothing; while the cluster cannot give the next handle that
it asks for, it waits in place under reason 22. Copy and basin commands (R445, R473, R475, R476, R478): when the core's engine has room, its block is read and keeps its
function's rules, it touches no hub memory, its destination's segment is not read-only, and its barrier, if it names one, passes
its checks, the handle is written and the command stands behind the core's earlier ones with its block and the place of it,
options, segments, barrier and handle; a block that breaks the rules traps ILLEGAL_OP, and a read-only destination, or hub memory,
traps PERM where the command names no barrier (R165, R425). The instructions are XC.LOAD, XC.STORE, XC.MCAST, XC.GATHER,
XC.SCATTER, XC.FILL, XC.PEER, XC.CSUM, BAS.AXPBY, BAS.SCAL, BAS.SGD, BAS.MOM, BAS.SUM, BAS.FILL, BAS.COPY, BAS.CVT and
BAS.STAT. -/
def Obligations.EngineCommands : Prop :=
  (∀ (i : Instr) (c : Ctl) (eng : Nat) (h : Option (BitVec 4)) (a b : BitVec 5) (s : State), engineCommand i = some (c, eng, h, a, b) →
    let v := seen i c s
    Ready i c s → (v.eff = 0 → Finishes i s (entered i s)) ∧
      (v.eff ≠ 0 → ¬ SerialFree (entered i s) v h → Waits i s 22 (entered i s))) ∧
  (∀ (i : Instr) (c : Ctl) (eng fn : Nat) (h : Option (BitVec 4)) (a b : BitVec 5) (s s' u : State) (p : Place) (bs : List Byte)
    (bar : Option Nat), copyOrBasin i = some (c, eng, fn, h, a, b) →
    let v := seen i c s
    let t := entered i s
    let q : EngCmd := {
      id := 0, eng := eng, fn := fn, block := bs, opts := v.pairVal b, handle := none, ctx := v.st.ctx, segs := v.st.segs
      scratch := v.st.scratch, blockAt := (v.pairVal a).toNat }
    let q := { q with acc := if eng = 0 ∧ fn = 8 then q.dst % 2 ^ 32 else 0 }
    let legal := if eng = 0 then xcLegal fn q else basLegal fn q
    Ready i c s → v.eff ≠ 0 → SerialFree t v h → (t.core v.r.core).eng.length < 64 → (eng = 1 → t.dev.state ≠ .early) →
    BlockRead v t (v.pairVal a) 32 32 s' p bs →
    (legal = false → Traps i s { code := 0x01, lanes := v.eff } s') ∧
    let barred := (∃ g, q.destSeg = some g ∧ segRo (v.st.segs.get 0 g) = true) ∨ (eng = 0 ∧ touchesHub s' v.st.ctx q = true)
    (legal = true → barred → (v.pairVal b).getLsbD 0 = false →
      Traps i s { code := 0x06, lanes := v.eff } (dropFaults s' v.r.core v.st.ctx [])) ∧
    (legal = true → ¬ barred → (∀ k, withBarrier v s' (v.pairVal b).toNat none k = k u bar) →
      ∃ w id, Finishes i s (w.setCore v.r.core { w.core v.r.core with
          eng := (w.core v.r.core).eng ++ [{ q with bar := bar, handle := (grantHandle v u eng h).2, id := id }] }) ∧
        w = { (grantHandle v u eng h).1 with nextId := id + 1 } ∧ id = (grantHandle v u eng h).1.nextId))

/-- O48. Tier commands (R198, R199, R479). RANK, MIG, AGE and PIN on a bound tid whose pairs keep the rules take their turn at the
tid's home, write the handle and arrive there; on a tid in the wrong state they trap as R199 says. TIER.CFG whose block breaks
the rules completes FAULT; one on a bound tid takes its turn and arrives; one that unbinds an unbound tid completes OK, and
otherwise the tid is refreshing, its first work the command. -/
def Obligations.TierCommands : Prop :=
  (∀ (i : Instr) (c : Ctl) (h : Option (BitVec 4)) (tid : Nat) (legal : Bool) (f : BitVec 512 → Option TierAct) (s : State),
    let v := seen i c s
    let t := entered i s
    tierAsked i v = some (c, h, tid, legal, f) → Ready i c s → v.eff ≠ 0 → SerialFree t v h →
    (legal = false → Traps i s { code := 0x01, lanes := v.eff } t) ∧
    (∀ code, legal = true → tierNamed t v.st.ctx tid = .error code → Traps i s { code := code, lanes := v.eff } t) ∧
    (∀ ti x, legal = true → tierNamed t v.st.ctx tid = .ok ti → f ti.entry = some x → tierHasTurn t v (cfgHome ti.block) →
      let u := grantHandle v (arbiterServe t (cfgHome ti.block) v.st.ctx 5 0 v.r.core v.st.number.toNat) 2 h
      Finishes i s (tierArrive u.1 v.st.ctx tid (.cmd { act := x, handle := u.2, dev := v.st.segs.get 0 3 })))) ∧
  (∀ (c : Ctl) (h : Option (BitVec 4)) (a b : BitVec 5) (s s' : State) (p : Place) (bs : List Byte), let i := Instr.tierCfg c h a b
    let v := seen i c s
    let x := BitVec.ofNat 512 (leNat bs)
    let served := arbiterServe s' (cfgHome x) v.st.ctx 5 0 v.r.core v.st.number.toNat
    Ready i c s → v.eff ≠ 0 → SerialFree (entered i s) v h → v.pairVal b = 0 → BlockRead v (entered i s) (v.pairVal a) 64 64 s' p bs →
    (cfgLegal s' v.st.ctx x = false → Finishes i s (answered1 s' v 2 h 3 0)) ∧
    (cfgLegal s' v.st.ctx x = true → tierHasTurn s' v (cfgHome x) → tierBound s' v.st.ctx (cfgTid x) = true →
      let u := grantHandle v served 2 h
      Finishes i s (tierArrive u.1 v.st.ctx (cfgTid x) (.cmd { act := .cfg x, handle := u.2, dev := v.st.segs.get 0 3 }))) ∧
    (cfgLegal s' v.st.ctx x = true → tierHasTurn s' v (cfgHome x) → tierBound s' v.st.ctx (cfgTid x) = false → cfgUnb x = true →
      Finishes i s (answered1 served v 2 h 0 0)) ∧
    (cfgLegal s' v.st.ctx x = true → tierHasTurn s' v (cfgHome x) → tierBound s' v.st.ctx (cfgTid x) = false → cfgUnb x = false →
      let u := grantHandle v served 2 h
      let cmd : TierCmd := { act := .cfg x, handle := u.2, dev := v.st.segs.get 0 3 }
      Finishes i s (u.1.setTier v.st.ctx (cfgTid x)
        { state := .refreshing, block := x, entry := tidOf u.1 v.st.ctx (cfgTid x), waiting := [.cmd cmd] })))

/-- O49. Presentation, trace and steward commands (R480-R482). On a stream that is unbound or another context's a PRS command
completes FAULT. PRS.DRAW, its programs' prefixes read, starts its draw, PRS.FRAME closes the stream's frame once its draws have completed, with the matrix it
names or the identity, PRS.PRESENT shows the closed frame, or completes with all ones when there is none, and PRS.REPROJ shows a
reprojection; both complete FAULT on a stream with a period. TRC.MARK appends its record, TRC.FLUSH closes the frame and waits for
the last closed one's writing, TRC.SAMPLE sets the context's sampling period. STW.KEYSPILL moves a context's spilled keys, and
STW.DUMP begins a dump; in a state that refuses it each completes FAULT. Where a home holds what PRS.DRAW reads, PRS.PRESENT or
PRS.REPROJ writes, or the STW functions read or move, the command is not accepted yet and waits under reason 22: that this is one
step at the acceptance is the model's choice (log 167). -/
def Obligations.PresentTraceSteward : Prop :=
  (∀ (c : Ctl) (h : Option (BitVec 4)) (a b : BitVec 5) (s s' : State) (p : Place) (bs : List Byte), let i := Instr.prsDraw c h a b
    let v := seen i c s
    let x := BitVec.ofNat 512 (leNat bs)
    let bad := (s'.stream (drawStream x)).bound = false ∨ streamCtx s' (drawStream x) ≠ v.st.ctx
    Ready i c s → v.eff ≠ 0 → SerialFree (entered i s) v h → BlockRead v (entered i s) (v.pairVal a) 64 16 s' p bs → v.pairVal b = 0 →
    drawLegal x = true → (bad → Finishes i s (answered1 s' v 3 h 3 0)) ∧
    (∀ w pre, drawPrefixes s' v.st.ctx x = (w, .ok pre) →
      Finishes i s (startDraw (grantHandle v w 3 h).1 v.st.ctx x pre none (grantHandle v w 3 h).2)) ∧
    (∀ w f, drawPrefixes s' v.st.ctx x = (w, .error f) → f ≠ .held → Finishes i s (answered1 w v 3 h 3 0)) ∧
    (∀ w, drawPrefixes s' v.st.ctx x = (w, .error .held) → Waits i s 22 w)) ∧
  (∀ (c : Ctl) (h : Option (BitVec 4)) (a b : BitVec 5) (s s' : State) (p : Place) (bs : List Byte), let i := Instr.prsFrame c h a b
    let v := seen i c s
    let n := (v.pairVal a).toNat
    let base := if v.pairVal b = 0 then entered i s else s'
    let m := if v.pairVal b = 0 then identity4 else (List.range 16).map fun k => BitVec.ofNat 32 (leNat ((bs.drop (4 * k)).take 4))
    let u := grantHandle v base 3 h
    let w := openPanel u.1 n
    Ready i c s → v.eff ≠ 0 → SerialFree (entered i s) v h → n < 256 →
    (v.pairVal b ≠ 0 → BlockRead v (entered i s) (v.pairVal b) 64 64 s' p bs) →
    Finishes i s (if (base.stream n).bound ∧ streamCtx base n = v.st.ctx then
      settleCloses (w.setStream n { w.stream n with xform := m, closes := (w.stream n).closes ++
        [{ handle := u.2, xform := m, draws := (w.stream n).draws }] }) n ((w.stream n).closes.length + 1)
      else completeHandle u.1 u.2 3 0)) ∧
  (∀ (c : Ctl) (h : Option (BitVec 4)) (a b : BitVec 5) (s : State), let i := Instr.prsPresent c h a b
    let v := seen i c s
    let t := entered i s
    let n := (v.pairVal a).toNat
    let good := (t.stream n).bound = true ∧ streamCtx t n = v.st.ctx ∧ streamField t n 832 32 = 0
    Ready i c s → v.eff ≠ 0 → SerialFree t v h → n < 256 → v.pairVal b = 0 →
    (¬ good → Finishes i s (answered1 t v 3 h 3 0)) ∧
    (good → (t.stream n).closed = none → Finishes i s (answered1 t v 3 h 0 0xFFFFFFFF)) ∧
    (∀ f w, good → (t.stream n).closed = some f → writePicture t n { pic := .frame f, tick := t.globalTick } = (w, none) →
      Finishes i s (showClosed (answered1 w v 3 h 0 (BitVec.ofNat 32 f.no)) n)) ∧
    (∀ f w x, good → (t.stream n).closed = some f → writePicture t n { pic := .frame f, tick := t.globalTick } = (w, some x) →
      if x = .held then Waits i s 22 w else Finishes i s (answered1 w v 3 h 3 0))) ∧
  (∀ (c : Ctl) (h : Option (BitVec 4)) (a b : BitVec 5) (s : State), let i := Instr.prsReproj c h a b
    let v := seen i c s
    let t := entered i s
    let n := (v.pairVal a).toNat
    let good := (t.stream n).bound = true ∧ streamCtx t n = v.st.ctx ∧ streamField t n 832 32 = 0 ∧ streamField t n 964 1 ≠ 0
    let job : ShowJob := { pic := reprojection (t.stream n) 1, tick := t.globalTick }
    Ready i c s → v.eff ≠ 0 → SerialFree t v h → n < 256 → v.pairVal b = 0 →
    (¬ good → Finishes i s (answered1 t v 3 h 3 0)) ∧
    (∀ w, good → writePicture t n job = (w, none) → Finishes i s (answered1 w v 3 h 0 (match (t.stream n).shown with
      | some f => BitVec.ofNat 32 f.no
      | none => 0xFFFFFFFF))) ∧
    (∀ w x, good → writePicture t n job = (w, some x) → if x = .held then Waits i s 22 w else Finishes i s (answered1 w v 3 h 3 0))) ∧
  (∀ (c : Ctl) (h : Option (BitVec 4)) (a b : BitVec 5) (s : State), let i := Instr.trcMark c h a b
    let v := seen i c s
    let u := grantHandle v (entered i s) 4 h
    Ready i c s → v.eff ≠ 0 → SerialFree (entered i s) v h → (v.pairVal a).toNat < 2 ^ 32 → v.pairVal b = 0 →
    Finishes i s (completeHandle (traceRecord u.1 (coreCluster v.r.core) 1
      ((v.pairVal a).toNat + v.st.ctx * 2 ^ 32 + v.r.core % 256 * 2 ^ 40 + v.st.number.toNat * 2 ^ 48)) u.2 0 0)) ∧
  (∀ (c : Ctl) (h : Option (BitVec 4)) (a b : BitVec 5) (s : State), let i := Instr.trcFlush c h a b
    let v := seen i c s
    let u := grantHandle v (entered i s) 4 h
    let k := coreCluster v.r.core
    let x := closeFrame (u.1.trace k)
    Ready i c s → v.eff ≠ 0 → SerialFree (entered i s) v h → v.pairVal a = 0 → v.pairVal b = 0 →
    Finishes i s (match x.closed.getLast? with
      | none => completeHandle u.1 u.2 0 0
      | some f => u.1.setTrace k { x with flushes := x.flushes ++ [(u.2, f.no)] })) ∧
  (∀ (c : Ctl) (h : Option (BitVec 4)) (a b : BitVec 5) (s : State), let i := Instr.trcSample c h a b
    let v := seen i c s
    let u := grantHandle v (entered i s) 4 h
    let k := coreCluster v.r.core
    let j := (v.pairVal a).toNat
    Ready i c s → v.eff ≠ 0 → SerialFree (entered i s) v h → v.pairVal b = 0 →
    ((j = 0 ∨ (8 ≤ j ∧ j ≤ 30)) → Finishes i s (completeHandle (u.1.setTrace k { u.1.trace k with
      period := (u.1.trace k).period.set v.st.ctx j, sampleAt := [(1024, u.1.runTick)] }) u.2 0 0)) ∧
    ((1 ≤ j ∧ j ≤ 7) ∨ 31 ≤ j → Traps i s { code := 0x01, lanes := v.eff } (entered i s))) ∧
  (∀ (c : Ctl) (h : Option (BitVec 4)) (a b : BitVec 5) (s : State), let i := Instr.stwKeyspill c h a b
    let v := seen i c s
    let t := entered i s
    let size := ((v.pairVal b).extractLsb' 0 5).toNat
    let x := ((v.pairVal b).extractLsb' 8 6).toNat
    Ready i c s → v.eff ≠ 0 → SerialFree t v h → (v.pairVal a).toNat < 2 ^ 48 → (v.pairVal a).extractLsb' 0 12 = 0 →
    (v.pairVal b).extractLsb' 5 3 = 0 → (v.pairVal b).extractLsb' 14 50 = 0 → (size = 0 ∨ (10 ≤ size ∧ size ≤ 26)) →
    let none_ := (t.ctx x).state = .free ∨ (t.ctx x).state = .dead
    (none_ → Finishes i s (answered1 t v 15 h 3 0)) ∧
    (∀ w status word, ¬ none_ → moveSpill t x (v.pairVal a).toNat size = (w, some (status, word)) →
      Finishes i s (answered1 w v 15 h status word)) ∧
    (∀ w, ¬ none_ → moveSpill t x (v.pairVal a).toNat size = (w, none) → Waits i s 22 w)) ∧
  (∀ (c : Ctl) (h : Option (BitVec 4)) (a b : BitVec 5) (s : State), let i := Instr.stwDump c h a b
    let v := seen i c s
    let t := entered i s
    let x := (v.pairVal a).toNat
    let buf := (v.pairVal b).toNat
    let u := grantHandle v t 15 h
    let may := (t.ctx x).state = .active ∨ (t.ctx x).state = .suspended ∨ (t.ctx x).state = .faulted
    Ready i c s → v.eff ≠ 0 → SerialFree t v h → x < 64 → buf < 2 ^ 48 → buf % 4096 = 0 →
    (¬ may → Finishes i s (completeHandle u.1 u.2 3 0)) ∧
    (∀ w, may → agentRead u.1 (hostKey buf) {} true 2 8 = (w, .error .held) → Waits i s 22 t) ∧
    (∀ w x, may → agentRead u.1 (hostKey buf) {} true 2 8 = (w, .error x) → x ≠ .held → Finishes i s (completeHandle w u.2 3 0)) ∧
    (∀ w bs ce, may → agentRead u.1 (hostKey buf) {} true 2 8 = (w, .ok (bs, ce)) → Finishes i s (beginDump w x (some buf) (leNat bs) u.2)))

/-! Steps of the engines, the base dies, the schedulers, the translation hardware and the stacks (02 R74, 09 R172-R181, 10
R182-R195, 07 R138-R139, 04 R100). -/

namespace Sys2Proof.Claims

/-- The state whose packet i has its reply: done, with a status and bytes (R187). -/
def repliedTo (s : State) (p : Packet) (status : Nat) (bytes : List Byte) : State :=
  { s with pkts := s.pkts.set s.pick.a { p with done := true, status := status, reply := bytes } }

/-- What becomes of a packet when a stack's interface fails: one for that stack that is not done replies UC, but for a basin's
(R183). -/
def lostPacket (n : Nat) (p : Packet) : Packet :=
  if p.stack = n ∧ p.done = false ∧ p.kind ≠ .nmc then { p with done := true, status := 2, reply := [] } else p

/-- The granules of a packet read in order: their bytes together and the worst outcome, 0 clean, 1 corrected, 2 uncorrectable
(R189). -/
def readAll (grade : Nat) : State → List Nat → State × List Byte × Nat
  | s, [] => (s, [], 0)
  | s, g :: gs =>
    let (s, b, x) := granRead s g grade
    let (s, bs, w) := readAll grade s gs
    (s, b ++ bs, max x.code w)

/-- The granules of a masked write, from the k-th on: each is read, merged under its 32 mask bits and written, and its line
leaves every cache; with the worst outcome (R190), UC where the bytes' parity failed (R516). -/
def mergeAll (p : Packet) (bad : Bool) : State → Nat → List Nat → State × Nat
  | s, _, [] => (s, 0)
  | s, k, g :: gs =>
    let x := granArrive s g p.grade (p.mask / 2 ^ (32 * k) % 2 ^ 32) ((p.data.drop (32 * k)).take 32) bad
    let y := mergeAll p bad (dropCachedAll x.1 (g / 2)) (k + 1) gs
    (y.1, max x.2.code y.2)

/-- A command with the bytes that a read of a granule gave it. -/
def withBytes (q : EngCmd) (key : Nat) (bs : List (Option Byte)) : EngCmd := { q with got := q.got.set key bs }

/-- The command whose step it is. -/
def AtCommand (s : State) (q : EngCmd) : Prop := (s.core s.pick.a).eng[s.pick.b]? = some q

/-- A packet with its reply answers a command that is still there; taken off, it leaves a state, its tag with the first request
that waited for one (R186), in which the command has a place. -/
def Answers (s : State) (p : Packet) (t : State) (c j pos : Nat) (q : EngCmd) : Prop :=
  s.pkts[s.pick.a]? = some p ∧ p.done = true ∧ t = dropPacket s s.pick.a p ∧ ∃ id, p.back = .cmd c id pos ∧
    findCmd t c id = some j ∧ (t.core c).eng[j]? = some q

/-- Where a command's next unit goes: of XC.MCAST a place of the cluster's SRAM, of another function its destination's. -/
def unitPlace (s : State) (q : EngCmd) (u : EngUnit) : EngPlace :=
  if q.fn = 3 then q.sram s s.pick.a u.off true else q.place s s.pick.a (saddrSeg q.dst) u.off u.data.length true

/-- A walk that is over leaves the FIFO's first request live, its leaf, when it was not invalidated meanwhile, in the TLB, and
those who waited for it told. -/
def walkDone (t : State) (w : Walk) (leaf : Option (BitVec 64)) : State :=
  let n := t.pick.a
  let x := t.clu n
  let u := t.setClu n { x with
    walks := startWalk (x.walks.eraseIdx t.pick.b)
    tlb2 := match leaf with
      | some e => if w.dead then x.tlb2 else tlbAdd 16384 x.tlb2 (tlbEntry w.ctx (w.page * 65536) e)
      | none => x.tlb2 }
  { u with cores := u.cores.map fun e => if coreCluster e.1 = n then (e.1, e.2.walked w leaf) else e }

/-- A dump with its pages listed goes on (R181): a page that a writer waits for comes first, or is free at once when it is not to
be copied any more; then the others in order, and then its end. -/
def dumpGoesOn (s : State) (x : Nat) (d : DumpJob) : Prop :=
  let y := s.ctx x
  let within := fun p q => q ≤ p * 65536 ∧ p * 65536 < q + (match walkLeaf s x (p * 65536) with
    | some e => leafBytes e.1
    | none => 65536)
  (∀ p ps q, y.dumpWant = p :: ps → d.todo.find? (fun q => decide (within p q)) = some q → exec .dumpPageCopy s = .next (copyPage s x q d)) ∧
  (∀ p ps, y.dumpWant = p :: ps → (∀ q ∈ d.todo, ¬ within p q) →
    exec .dumpPageCopy s = .next (clearDp (s.setCtx x { y with dumpWant := ps }) x (p * 65536))) ∧
  (∀ q rest, y.dumpWant = [] → d.todo = q :: rest → exec .dumpPageCopy s = .next (copyPage s x q d)) ∧
  (y.dumpWant = [] → d.todo = [] → exec .dumpPageCopy s = .next (finishDump s x d))

end Sys2Proof.Claims

/-- O50. Engine steps (R74, R175, R184, R194, R474, R477). A copy command takes the next unit of its source when its bytes are there,
asks for a granule of DRAM by a packet or for a page's translation when they are not, and stops with FAULT or GUARD when the unit
cannot be had and nothing of it is outstanding; a basin command sends its next piece, or stops with FAULT. Once the commands before it are done with their destinations, its next unit
is written at its home, or sent to its base die, none following one not yet acknowledged; bytes that were not read are left out, and a dump-protected
page holds it (R180).
When every byte is performed the command counts and completes; one asked to cancel may complete so. Packets at a base die (R183-R193): a packet that may be performed and breaks a rule, is for a failed stack or is refused by
its guard rows replies so and does nothing; otherwise RD replies its granules' bytes and the worst outcome, or their metadata,
WR writes whole granules and takes their lines out of every cluster's cache, WRM reads, merges and writes each granule; bytes
whose parity failed on the way leave the granule poisoned and are answered UC (R516). A read's
reply gives its command the granule's bytes, none of an uncorrectable one; a write's reply acknowledges it; FAULT and GUARD stop
the command. -/
def Obligations.EngineSteps : Prop :=
  (∀ (s : State) (q : EngCmd), AtCommand s q → q.stopped = false → q.rpos < q.total → q.eng ≠ 1 →
    let goes := fun x => exec .engineRead s = .next (setCmd s s.pick.a s.pick.b x)
    (∀ u, q.nextUnit s s.pick.a = .got u → goes (q.took s.pick.a u)) ∧
    (q.nextUnit s s.pick.a = .fault → q.units = [] → q.out = 0 → goes (q.stop 3 q.rpos)) ∧
    (q.nextUnit s s.pick.a = .guard → q.units = [] → q.out = 0 → goes (q.stop 5 q.rpos)) ∧
    (∀ page, q.nextUnit s s.pick.a = .ask page → exec .engineRead s = .next (askPages s s.pick.a q.ctx [page])) ∧
    (∀ key via, q.nextUnit s s.pick.a = .need key via → s.pkts.any (fun p => p.kind == .rd && p.back == .cmd s.pick.a q.id (keyAddr key)) = false →
      exec .engineRead s = .next (setCmd (sendPacket s {
        stack := stackOf (keyAddr key), agent := coreAgent s.pick.a, kind := .rd, addr := keyAddr key, dom := via.dom, grade := via.grade
        spans := [(keyAddr key / 32, 1, via.dom)], back := .cmd s.pick.a q.id (keyAddr key) }) s.pick.a s.pick.b { q with out := q.out + 1 }))) ∧
  (∀ (s : State) (q : EngCmd), AtCommand s q → q.stopped = false → q.rpos < q.total → q.eng = 1 → writesMay s s.pick.a s.pick.b = true →
    (∀ p n outs, q.piece s s.pick.a = .send p n outs → exec .engineRead s = .next (setCmd (sendPacket s p) s.pick.a s.pick.b { q with
      rpos := q.rpos + n, wpos := q.wpos + n, out := q.out + 1, ranges := outs.foldl (fun rs e => addRange e.1 e.2 rs) q.ranges })) ∧
    (q.piece s s.pick.a = .fault → exec .engineRead s = .next (setCmd s s.pick.a s.pick.b (q.stop 3 q.rpos))) ∧
    (∀ page, q.piece s s.pick.a = .ask page → exec .engineRead s = .next (askPages s s.pick.a q.ctx [page])) ∧
    (∀ va, q.piece s s.pick.a = .dump va → exec .engineRead s = .next (dumpStall s q.ctx va))) ∧
  (∀ (s : State) (q : EngCmd) (u : EngUnit) (us : List EngUnit), AtCommand s q → q.units = u :: us → q.stopped = false →
    writesMay s s.pick.a s.pick.b = true → q.writing s s.pick.a = false →
    (u.data.all Option.isNone = true → exec .engineWrite s = .next (setCmd s s.pick.a s.pick.b (q.wrote u none))) ∧
    (u.data.all Option.isNone = false →
      (∀ key via, unitPlace s q u = .at_ key via → isDram key = false →
        (homeReach s key = .ok →
          exec .engineWrite s = .next (setCmd (crossPeer (putUnit s key u.data s.pick.flag) key (.store (keyAddr key) via (u.data.map (·.getD 0))))
            s.pick.a s.pick.b (q.wrote u (some key)))) ∧
        (homeReach s key = .wait → exec .engineWrite s = .next s) ∧
        (homeReach s key = .down → exec .engineWrite s = .next (setCmd s s.pick.a s.pick.b (q.stop 3 u.pos)))) ∧
      (∀ key via, unitPlace s q u = .at_ key via → isDram key = true →
        exec .engineWrite s = .next (setCmd (sendPacket s (writePacket s.pick.a q u key via)) s.pick.a s.pick.b
          { q.wrote u (some key) with out := q.out + 1 })) ∧
      (unitPlace s q u = .fault → exec .engineWrite s = .next (setCmd s s.pick.a s.pick.b (q.stop 3 u.pos))) ∧
      (∀ va, unitPlace s q u = .dump va → exec .engineWrite s = .next (dumpStall s q.ctx va)) ∧
      (∀ page, unitPlace s q u = .ask page → exec .engineWrite s = .next (askPages s s.pick.a q.ctx [page])))) ∧
  (∀ (s : State) (q : EngCmd), AtCommand s q → writesMay s s.pick.a s.pick.b = true → q.out = 0 →
    (q.cancel = true → s.pick.flag = true → exec .engineCount s = .next (finishCmd s s.pick.a s.pick.b q true)) ∧
    ((q.cancel = false ∨ s.pick.flag = false) → (q.stopped = true ∨ (q.total ≤ q.rpos ∧ q.total ≤ q.wpos)) →
      exec .engineCount s = .next (finishCmd s s.pick.a s.pick.b q false))) ∧
  (∀ (s : State) (p : Packet) (st : Nat), s.pkts[s.pick.a]? = some p → pktMay s s.pick.a p = true → pktRefusal s p = some st →
    (p.kind = .rd → exec .pktRd s = .next (repliedTo s p st [])) ∧ (p.kind = .wr → exec .pktWr s = .next (repliedTo s p st [])) ∧
    (p.kind = .wrm → exec .pktWrm s = .next (repliedTo s p st []))) ∧
  (∀ (s : State) (p : Packet), s.pkts[s.pick.a]? = some p → pktMay s s.pick.a p = true → pktRefusal s p = none →
    let t := activate s p.addr
    (p.kind = .rd → p.md = false → let x := readAll p.grade s p.grans
      exec .pktRd s = .next (replyPacket x.1 s.pick.a p x.2.2 x.2.1)) ∧
    (p.kind = .rd → p.md = true →
      exec .pktRd s = .next (replyPacket t s.pick.a p 0 (p.grans.flatMap fun g => leBytes 4 (metaRead t (dramKey (32 * g)) p.grade)))) ∧
    (p.kind = .wr → s.pick.flag = false → exec .pktWr s = .next (replyPacket (p.grans.zipIdx.foldl (fun u e =>
      dropCachedAll (granWriteAll u e.1 p.grade ((p.data.drop (32 * e.2)).take 32)) (e.1 / 2)) s) s.pick.a p 0 [])) ∧
    (p.kind = .wr → s.pick.flag = true → exec .pktWr s = .next (replyPacket (p.grans.zipIdx.foldl (fun u e =>
      dropCachedAll (freshSide (granWriteAll u e.1 p.grade ((p.data.drop (32 * e.2)).take 32)) e.1 p.grade true) (e.1 / 2)) s) s.pick.a p 2 [])) ∧
    (p.kind = .wrm → p.md = true → exec .pktWrm s = .next (replyPacket (p.grans.zipIdx.foldl (fun u e =>
      metaWrite u (dramKey (32 * e.1)) p.grade (leNat ((p.data.drop (4 * e.2)).take 4))) s) s.pick.a p 0 [])) ∧
    (p.kind = .wrm → p.md = false → let x := mergeAll p s.pick.flag s 0 p.grans
      exec .pktWrm s = .next (replyPacket x.1 s.pick.a p x.2 []))) ∧
  (∀ (s t : State) (p : Packet) (c j pos : Nat) (q : EngCmd), Answers s p t c j pos q →
    let q := { q with out := q.out - 1 }
    (p.kind = .rd → exec .readReply s = .next (setCmd t c j (if p.status = 4 then q.stop 3 q.wpos
      else withBytes (q.note (if p.status = 1 then 1 else 0) 0) (dramKey p.addr)
        (if p.status = 3 then [] else if p.status = 2 then List.replicate 32 none else p.reply.map some)))) ∧
    (p.kind = .wr ∨ p.kind = .wrm → exec .writeReply s = .next (setCmd t c j (if p.status = 3 then q.stop 5 pos
      else if p.status = 4 then q.stop 3 pos else q.note p.status pos))))

/-- O51. Clauses and the watchdog (R97, R100, R138, R139): a scheduler whose clause has ended looks at its splits and, of those with
no other split of their strand in handler mode, starts the clause of the one it chooses, the others waiting under reason 21; a wait in place or of an awaited result that has lasted longer than the
context allows gets the WATCHDOG trap, and so does one after a clause, which then ends, but for SLU.IN, whose trap waits for its
grant (R224). -/
def Obligations.SchedulerSteps : Prop :=
  (∀ (s s' : State) (all es : List (SplitRef × BitVec 64 × List (BitVec 64))) (r : SplitRef) (h : BitVec 64) (ws : List (BitVec 64)),
    let c := s.pick.a
    let q := s.pick.b % 4
    let k := (s.core c).sched.get {} q
    k.busy = none → eligible s (schedSplits c q) = (s', all) → es = all.filter (fun e => !otherHandles s' e.1) → choose s' k es = some (r, h, ws) →
    let t := es.foldl (fun u e => if e.1 = r then u else holdHeader u e.1 21) s'
    let run := if 1 < es.length then (if k.last = some (r.slot, r.split) then k.run + 1 else 1) else 0
    exec .clauseIssue s = .next (startClause (t.setCore c { t.core c with sched := (t.core c).sched.set q {
      last := some (r.slot, r.split), run := run, gave := headYield h, busy := some (r.slot, r.split) } }) r h ws)) ∧
  (∀ (s : State), let r := s.pick.ref
    (s.strand r).state = .resident →
    (s.pick.a = 0 → exec .watchdog s = .next (dogInPlace s r)) ∧
    (∀ w, s.pick.a = 1 → ((s.split r).waits)[s.pick.b]? = some w → dogBites s (s.strand r).ctx w.kind.reason w.since = true →
      ((∀ ask left abn keys d, w.kind ≠ .sluIn ask left abn keys d) →
        exec .watchdog s = .next (failWait (withdrawArrival s r w) r w (dogTrap w.lanes))) ∧
      (∀ ask left abn keys d, w.kind = .sluIn ask left abn keys d →
        (s.split r).traps.any (fun x => x.trap.code == 0x16 && x.site == some (w.pc, w.pos)) = false →
        exec .watchdog s = .next (s.setSplit r { s.split r with
          traps := (s.split r).traps ++ [{ trap := dogTrap left, site := some (w.pc, w.pos) }] }))) ∧
    (∀ p, s.pick.a = 2 → (s.strand r).results[s.pick.b]? = some p → p.owed ≠ 0 → p.fail = none →
      dogBites s (s.strand r).ctx p.why p.since = true →
      let t : Target := { core := r.core, slot := r.slot, split := p.split, id := some p.id }
      exec .watchdog s = .next (withdrawTagged (s.setStrand r (updPending (s.strand r) p.id fun x => { x with
        owed := 0, fail := some (dogTrap (if lanesOwed s t = 0 then p.lanes else lanesOwed s t)) })) t))) ∧
  (∀ (s : State) (w : BitVec 64), let r := s.pick.ref
    let sp := s.split r
    atPlace s w → dogBites s (s.strand r).ctx sp.stall sp.since = true →
    (∀ x ∈ sp.traps, ¬ (x.trap.code = 0x16 ∧ x.site = none)) →
    ∃ x ∈ ((dogInPlace s r).split r).traps, x.trap.code = 0x16 ∧ x.site = none)

/-- O52. Translation and dumps (R172, R175, R178, R181, R527). A lookup at the second level installs what it hits; a miss joins the
walk of its page, or of a larger page that holds it, starts one, live below 64, or is refused for 64 ticks by a full FIFO, and is sent again when they have passed.
A walk that ends installs the leaf it found, when it was not invalidated meanwhile, tells the lookups, and a waiting walk becomes
live; one whose reads a home holds goes on. A dump protects its pages, begins its releases once no access under an old leaf is
left, takes its instant once they are over, with what they report (R543), then copies wanted pages first, the rest in order, and
ends with its protection lifted. Stacks (R182, R183, R192, R193): a stack that is Off trains when the firmware starts it, its LFSRs seeded unless it is in
test mode; it is Up when training passes and Failed, which is reported, when it fails; one in service whose interface fails is Failed, and every
packet for it but a basin's replies UC. NRCFG, CECOUNT, which brings a Degraded stack Up, UCCOUNT and PAT entries are written. -/
def Obligations.TranslationAndStackSteps : Prop :=
  (∀ (s : State) (l : Lookup), let c := s.pick.a
    let n := coreCluster c
    let x := s.clu n
    let set := fun (u : State) st => setLookup u c s.pick.b { l with stage := st }
    (s.core c).lookups[s.pick.b]? = some l → l.stage = .second → inFlight (s.core c) s.pick.b = true →
    (∀ leaf, tlbFind x.tlb2 l.ctx (l.page * 65536) = some leaf → exec .tlb2Lookup s = .next (s.setCore c { s.core c with
      tlb := tlbAdd 256 (s.core c).tlb (tlbEntry l.ctx (l.page * 65536) leaf), lookups := (s.core c).lookups.eraseIdx s.pick.b })) ∧
    (tlbFind x.tlb2 l.ctx (l.page * 65536) = none →
      (∀ w, x.walks.find? (fun w => w.covers s l.ctx (l.page * 65536)) = some w → exec .tlb2Lookup s = .next (set s (.walking w.page))) ∧
      (x.walks.find? (fun w => w.covers s l.ctx (l.page * 65536)) = none →
        (1024 ≤ x.walks.length - x.walks.countP (·.live) → exec .tlb2Lookup s = .next (set s (.refused (s.tick + 64)))) ∧
        (x.walks.length - x.walks.countP (·.live) < 1024 → exec .tlb2Lookup s = .next (set (s.setClu n { x with
          walks := x.walks ++ [{ ctx := l.ctx, page := l.page, live := x.walks.countP (·.live) < 64 }] }) (.walking l.page)))))) ∧
  (∀ (s : State) (l : Lookup) (t : Nat), (s.core s.pick.a).lookups[s.pick.b]? = some l → l.stage = .refused t → t ≤ s.tick →
    exec .walkResend s = .next (setLookup s s.pick.a s.pick.b { l with stage := .second })) ∧
  (∀ (s t : State) (w : Walk), (s.clu s.pick.a).walks[s.pick.b]? = some w → w.live = true →
    (walkRead s w.ctx (w.page * 65536) = (t, .held) → exec .pageWalk s = .next s) ∧
    (walkRead s w.ctx (w.page * 65536) = (t, .fault) → exec .pageWalk s = .next (walkDone t w none)) ∧
    (∀ e a, walkRead s w.ctx (w.page * 65536) = (t, .leaf e a) → exec .pageWalk s = .next (walkDone t w (some e)))) ∧
  (∀ (s : State) (d : DumpJob), let x := s.pick.a % 64
    let tenants := s.cores.keys.filter fun c => tenantAt s c x
    (s.ctx x).dump = some d → (s.ctx x).state = .dumping →
    (d.stage = 0 → exec .dumpPageCopy s = .next (protectPages s x)) ∧
    (d.stage = 1 → (accessesLeft s (some x) = true → exec .dumpPageCopy s = .next s) ∧
      (accessesLeft s (some x) = false → let t := tenants.foldl (fun u c => releaseMoves u c .sys) s
        exec .dumpPageCopy s = .next (t.setCtx x { t.ctx x with dump := some { d with stage := 2 } }))) ∧
    (d.stage = 2 → d.instant = none → ((∃ c ∈ tenants, releaseOver s c .sys = false) → exec .dumpPageCopy s = .next s) ∧
      ((∀ c ∈ tenants, releaseOver s c .sys = true) →
        let t := ((List.range 8).filter fun k => (s.clu k).tenant == some x).foldl (fun u k => faultRefused u k x) s
        exec .dumpPageCopy s = .next (t.setCtx x { t.ctx x with dump := some { d with instant := some t.tick } }))) ∧
    (d.stage = 2 → d.instant ≠ none → dumpGoesOn s x d) ∧
    (2 < d.stage → exec .dumpPageCopy s = .next (closeDump s x d d.status))) ∧
  (∀ s : State, let n := s.pick.a % 8
    let x := s.stack n
    (x.state = .off → (s.dev.state = .training ∨ s.serving = true) → ∃ u, exec .stackTrainingStart s = .next u ∧ (u.stack n).state = .training ∧
      (u.stack n).ce = x.ce ∧ (u.stack n).nrcfg = x.nrcfg ∧ u.mem = s.mem ∧ (∀ k, k ≠ n → u.stack k = s.stack k) ∧
      (x.nrcfg.getLsbD 31 = true → (u.stack n).lfsr = x.lfsr)) ∧
    (x.state = .training → exec .stackTrainingPass s = .next (s.setStack n { x with state := .up }) ∧
      exec .stackTrainingFail s = .next (s.setStack n { x with state := .failed, reported := some .failed })) ∧
    (x.state = .up ∨ x.state = .degraded → ∃ u, exec .stackInterfaceFail s = .next u ∧ u.stack n = { x with state := .failed } ∧
      u.mem = s.mem ∧ ∀ (k : Nat) (p : Packet), s.pkts[k]? = some p → u.pkts[k]? = some (lostPacket n p)) ∧
    (∃ u, exec .nrcfgWrite s = .next u ∧ (u.stack n).nrcfg = s.pick.word &&& 0xFFFFFFFF8000FFFF ∧ (u.stack n).state = x.state ∧
      u.mem = s.mem ∧ (∀ k, k ≠ n → u.stack k = s.stack k) ∧
      ((s.pick.word.getLsbD 31 = false ∨ x.nrcfg.getLsbD 31 = true) → (u.stack n).lfsr = x.lfsr)) ∧
    exec .cecountWrite s = .next (s.setStack n { x with ce := 0, ceTicks := [], state := if x.state = .degraded then .up else x.state }) ∧
    exec .uccountWrite s = .next (s.setStack n { x with uc := 0 }) ∧
    exec .patWrite s = .next { s with mem := s.mem.writeNat (hubKey (bdBase n + 0x4000 + 2 * (s.pick.b % 8192))) 2 (s.pick.c % 65536) })

/-! Contexts and tenancy (04 R88-R95). -/

namespace Sys2Proof.Claims

/-- A command's entry of a drained context: one under way is Cancelled (R102). -/
def cancelledEntry (x now : Nat) (e : CEntry) : CEntry := if e.ctx = x ∧ e.status = 6 then { e with status := 4, at_ := now } else e

/-- Every entry of a context that is under way Cancelled. -/
def commandsCancelled (s : State) (x : Nat) : State :=
  { s with clusters := s.clusters.map (fun c => (c.1, { c.2 with ctab := c.2.ctab.map (fun f => (f.1, cancelledEntry x s.tick f.2)) })) }

/-- A crew table entry without a crew, its generation kept (R143). -/
def emptyCrew (gen : BitVec 16) : Crew := { gen := gen }

end Sys2Proof.Claims

/-- O53. Context commands (R89, R90): each is refused with BUSY while its context is draining and with BADSTATE in a state that the
table does not list for it; otherwise BUILD makes a Free context Building, its queues Unbound, COMMIT makes a Building one Ready when its descriptor
is valid and answers BADDESC when not, SUSPEND suspends a Ready or Active one, whose clusters begin to leave, RESUME makes a
Suspended or Faulted one Ready, RESET and KILL begin its drain, a Building one being Dead at once and a Dumping one keeping the
latest such command (log 160), FREE clears a Dead one and its descriptor, and DUMP begins a dump. Target and result are kept for CTXSTAT. Tenancy (R90-R95, R102): a draining context with nothing under way, its spilled records removed and its queues emptied, is Ready
or Dead as its command chose, its commands Cancelled; a cluster whose quantum has ended begins to leave for the best other context, or gets a new quantum; a free cluster
chooses the best context and a tenant, a dumped one too, gives way to a strictly higher priority; a leaving cluster that is quiet
begins its releases and, once they are over, is free with its state saved in its context's block, or at once when the context is draining; and the context chosen for a free
cluster becomes its tenant with what its block holds, or an empty cluster. A copy that a home holds goes on, and one that meets a fault
makes the context Faulted. -/
def Obligations.ContextSteps : Prop :=
  (∀ s : State, let x := s.pick.a % 64
    let y := s.ctx x
    let ends := fun (m : Instr) (u : State) (code : Nat) => exec m s = .next { u with dev := { u.dev with ctxTarget := x, ctxResult := code } }
    (∀ m ∈ [Instr.ctxBuild, .ctxCommit, .ctxSuspend, .ctxResume, .ctxReset, .ctxKill, .ctxFree, .ctxDump],
      y.state = .draining → ends m s 4) ∧
    (y.state ≠ .draining →
      (if y.state = .free then ends .ctxBuild
          { s.setCtx x { state := .building } with queues := s.queues.filter fun e => e.1 / 64 != x } 0 else ends .ctxBuild s 1) ∧
      (if y.state ≠ .building then ends .ctxCommit s 1 else if ctxValid s x then ends .ctxCommit (setCtxState s x .ready) 0
        else ends .ctxCommit s 2) ∧
      (if y.state ∈ [.ready, .active] then ends .ctxSuspend (leaveClusters (setCtxState s x .suspended) x) 0 else ends .ctxSuspend s 1) ∧
      (if y.state ∈ [.suspended, .faulted] then ends .ctxResume (setCtxState (unstick s x) x .ready) 0 else ends .ctxResume s 1) ∧
      (if y.state ∈ [.ready, .active, .suspended, .faulted] then ends .ctxReset (beginDrain s x false) 0 ∧ ends .ctxKill (beginDrain s x true) 0
        else if y.state = .dumping then ends .ctxReset (s.setCtx x { y with held := some false }) 0 ∧
          ends .ctxKill (s.setCtx x { y with held := some true }) 0
        else ends .ctxReset s 1 ∧ (if y.state = .building then ends .ctxKill (setCtxState s x .dead) 0 else ends .ctxKill s 1)) ∧
      (if y.state = .dead then ends .ctxFree { s.setCtx x {} with mem := s.mem.writeList (hubKey (64 * x)) (List.replicate 64 0) } 0
        else ends .ctxFree s 1) ∧
      (if y.state ∈ [.active, .suspended, .faulted] then ends .ctxDump (beginDump s x none 0 none) 0 else ends .ctxDump s 1))) ∧
  (∀ s : State, let x := s.pick.a % 64
    (s.ctx x).state = .draining → drained s x = true →
    (∀ t, clearSpill s x (spillCount s x) = (t, true) → exec .drainComplete s = .next t) ∧
    (∀ t u, clearSpill s x (spillCount s x) = (t, false) → emptyQueues ((List.range 64).map fun i => 64 * x + i) t = (u, true) →
      exec .drainComplete s = .next u) ∧
    (∀ t u, clearSpill s x (spillCount s x) = (t, false) → emptyQueues ((List.range 64).map fun i => 64 * x + i) t = (u, false) →
      exec .drainComplete s = .next (setCtxState (commandsCancelled u x) x (if (s.ctx x).toDead then .dead else .ready)))) ∧
  (∀ (s : State) (t : Nat), let k := s.pick.a % 8
    let c := s.clu k
    c.tenant = some t → c.leaving = none → c.stuck = false → c.quantumEnd ≤ s.tick →
    (∀ b q, bestContext s k t = some (b, q) → b ≠ t → exec .quantumEnd s = .next (beginLeave s k t b)) ∧
    ((∀ b q, bestContext s k t = some (b, q) → b = t) → exec .quantumEnd s = .next (s.setClu k { c with quantumEnd := s.tick + 2 ^ c.quantum }))) ∧
  (∀ s : State, let k := s.pick.a % 8
    let c := s.clu k
    c.leaving = none → c.stuck = false →
    (∀ b q, c.tenant = none → c.coming = none → bestContext s k c.lastTenant = some (b, q) →
      exec .tenantChoice s = .next (s.setClu k { c with coming := some b })) ∧
    (∀ t p b q, c.tenant = some t → (if (s.ctx t).state = .dumping ∧ (s.ctx t).before = .active then p = (readyPrio s t).getD 0
        else standing s k t = some p) → bestContext s k t = some (b, q) →
      exec .tenantChoice s = .next (if p < q then beginLeave s k t b else s))) ∧
  (∀ (s : State) (x : Nat), let k := s.pick.a % 8
    let c := s.clu k
    let done := ∀ n ∈ coresOf s k, (s.core n).q = [] ∧ releaseOver s n .sys = true
    let begin := fun u => (coresOf s k).foldl (fun u n => releaseMoves u n .sys) u
    c.tenant = some x → c.leaving = some x → c.stuck = false →
    (clusterQuiet s k x = false → exec .switchOut s = .next (stallOwed s fun n _ => coreCluster n == k)) ∧
    (clusterQuiet s k x = true → c.swapping = false → exec .switchOut s = .next (begin (s.setClu k { c with swapping := true }))) ∧
    (clusterQuiet s k x = true → c.swapping = true → ¬ done → exec .switchOut s = .next (begin s)) ∧
    (clusterQuiet s k x = true → c.swapping = true → done →
      ((s.ctx x).state = .draining → exec .switchOut s = .next (endLeave s k x)) ∧
      ((s.ctx x).state ≠ .draining →
        (∀ t, saveOut s x k = (t, .wait) → exec .switchOut s = .next t) ∧
        (∀ t code addr, saveOut s x k = (t, .fail code addr) → exec .switchOut s = .next (saveFault t k x code addr true)) ∧
        (∀ t, saveOut s x k = (t, .done) → exec .switchOut s =
          .next (faultRefused (endLeave (saveCluster (recordsKept t x k) k x (clusterImage t x k).1) k x) k x))))) ∧
  (∀ (s : State) (x : Nat), let k := s.pick.a % 8
    let c := s.clu k
    let empty := fun u : State => clearCluster (u.setClu k { u.clu k with tenant := some x }) k
    c.tenant = none → c.coming = some x → c.stuck = false → c.leaving = none → (standing s k x).isSome = true →
    ((s.ctx x).saved.find k = none → exec .contextRestore s = .next (gainRoom (beginTenancy ((empty s).setClu k { (empty s).clu k with
      crews := c.crews.map (fun e => (e.1, emptyCrew e.2.gen)), cuffs := [], bcb := [] }) k x) ((List.range 256).map fun j => 256 * k + j))) ∧
    (∀ b, (s.ctx x).saved.find k = some b →
      (∀ u, copyIn x k (blockBase s x k) b.ranges s = (u, .inl .wait) → exec .contextRestore s = .next u) ∧
      (∀ u code addr, copyIn x k (blockBase s x k) b.ranges s = (u, .inl (.fail code addr)) →
        exec .contextRestore s = .next (saveFault u k x code addr false)) ∧
      (∀ u grans, copyIn x k (blockBase s x k) b.ranges s = (u, .inr grans) →
        exec .contextRestore s = .next (beginTenancy (loadCluster (empty u) k x b u.pick.bytes grans) k x))))

/-! The wellhead: queues, records, launches (05 R104-R128). -/

namespace Sys2Proof.Claims

/-- The head record of the chosen queue is one of a kind that keeps its rules: its number and bits, and the state that reading it
leaves (R110, R111). -/
def HeadIs (s : State) (kind : Nat) (t : State) (n : Nat) (bits : BitVec 512) : Prop :=
  let q := s.pick.a % 4096
  isChosen s q = true ∧ headRecord s q = (t, .ok bits) ∧ n = (t.queue q).head.toNat ∧ recKind bits = kind ∧ recordCheck t (q / 64) bits = none

/-- The step takes the record and the queue is brought up to date after it. -/
def Took (m : Instr) (s u : State) : Prop := exec m s = .next (settleQueue u (s.pick.a % 4096))

/-- The state with other pending events. -/
def eventAt (s : State) (es : List Event) : State := { s with events := es }

end Sys2Proof.Claims

/-- O54. Records (R110-R112, R116, R123, R124): the head record of the chosen queue is taken and runs: a LAUNCH is read, refused or
stands among the launches; a DRAW, its programs' prefixes read, starts its draw, or with a stream it may not name is a record
error; a COPY enters the copy engine of its core, for whose room it waits (log 165), or with a bad barrier completes with FAULT; a
WAIT whose event word has come completes with its acquire; a SIGNAL, its release at .dev over (R64), writes or adds to its event
word, sends its interrupt and completes; and a MARK is traced and completes (log 166 for a trace engine that is off). What a home
holds leaves the record at the head. -/
def Obligations.QueueRecords : Prop :=
  ∀ (s t : State) (n : Nat) (bits : BitVec 512), let q := s.pick.a % 4096
    let u := takeRecord t q
    let value := (bits.extractLsb' 384 64).toNat
    (HeadIs s 1 t n bits → (∀ w more, startLaunch t q n bits = (w, .takes more) → Took .launchRecord s (more (takeRecord w q))) ∧
      (∀ w, startLaunch t q n bits = (w, .waits) → exec .launchRecord s = .next w)) ∧
    (HeadIs s 2 t n bits → let k := lowestCluster t (q / 64)
      let str := (q % 64 * 256 + n) % 65536
      (arbiterMay t k (q / 64) 6 (drawStream bits) 0 str = false → exec .drawRecord s = .next t) ∧
      (arbiterMay t k (q / 64) 6 (drawStream bits) 0 str = true →
        (∀ w pre, drawPrefixes t (q / 64) bits = (w, .ok pre) → Took .drawRecord s
          (arbiterServe (startDraw (takeRecord w q) (q / 64) bits pre (some (q, n)) none) k (q / 64) 6 (drawStream bits) 0 str)) ∧
        (∀ w, drawPrefixes t (q / 64) bits = (w, .error .held) → exec .drawRecord s = .next w) ∧
        (∀ w f, drawPrefixes t (q / 64) bits = (w, .error f) → f ≠ .held → exec .drawRecord s = .next (recordError w q 2 n)))) ∧
    (HeadIs s 3 t n bits → let c : EngCmd := {
        id := 0, eng := 0, fn := if bits.getLsbD 303 then 6 else 1, block := copyBlock bits, opts := 0, handle := none, ctx := q / 64
        segs := (u.ctx (q / 64)).segs, scratch := 0, queue := some (q, n) }
      let full := 64 ≤ (t.core (copyCore t q)).eng.length
      (full → exec .copyRecord s = .next t) ∧ (¬ full → copyBarrier u q bits = none → Took .copyRecord s (finishRecord u c 3)) ∧
      (∀ bar, ¬ full → copyBarrier u q bits = some bar → Took .copyRecord s (acceptCmd u (copyCore u q) { c with bar := bar }))) ∧
    (HeadIs s 4 t n bits → (∀ w v, eventRead t q bits = (w, .ok v) →
        (value ≤ v → Took .waitRecord s (recordDone (acquireClusters (takeRecord w q) (q / 64)) q n)) ∧
        (v < value → exec .waitRecord s = .next w)) ∧
      (∀ w, eventRead t q bits = (w, .error .held) → exec .waitRecord s = .next w) ∧
      (∀ w f, eventRead t q bits = (w, .error f) → f ≠ .held → exec .waitRecord s = .next (recordError w q 4 n))) ∧
    (HeadIs s 5 t n bits → (∀ w, signalRelease t q = (w, false) → exec .signalRecord s = .next w) ∧
      (∀ w x y new, signalRelease t q = (w, true) →
        (if bits.getLsbD 383 then ∃ old, eventRead w q bits = (x, .ok old) ∧ new = old + value else x = w ∧ new = value) →
        recordWrite x q (eventSeg bits) (eventOff bits) (leBytes 8 new) = (y, none) → let z := takeRecord y q
        Took .signalRecord s (recordDone (if bits.getLsbD 382 then
          { z with dev := { z.dev with msix := z.dev.msix ++ [(bits.extractLsb' 371 11).toNat] } } else z) q n))) ∧
    (HeadIs s 6 t n bits → Took .markRecord s (recordDone (traceRecord u (lowestCluster u (q / 64)) 3
      (recTag bits + q / 64 * 2 ^ 32 + q % 64 * 2 ^ 40)) q n))

/-- O55. Queues (R104, R106-R108, R111-R113): a wake has the wellhead read a queue's TAIL again, and write a control block again that
a home held; a WAIT that has waited 2^TIMEOUT
ticks is a record error; a queue that could start for 2^20 ticks rises a level, up to PRIOMAX; the oldest record handed over is
written into the ring and TAIL moves on, when there is room, a fault of the ring being a record error and telling the LAUNCH; and BIND, UNBIND, SUSPEND, RESUME and CLEAR act as the table of R108
says, refused with BADSTATE where it does not list them, their target and result kept. Placement and completion (R119, R123): every 64 ticks the placement engines place fragment strands and then the launches'
crews, by priority; a dissolved crew whose release is over sets its bit in the event block, and then COUNT rises by 1, the
launch's record completing with its last crew. -/
def Obligations.QueueSteps : Prop :=
  (∀ s : State, let q := s.pick.a % 4096
    let x := s.queue q
    let ends := fun (m : Instr) (u : State) (code : Nat) => exec m s = .next { u with dev := { u.dev with qTarget := q, qResult := code } }
    (let w := if x.stale then putControl s q else s
      let y := w.queue q
      let armed := y.state = .watching ∧ y.wakes = [] ∧ y.watch ≠ [] ∧ qHost w q = false
      exec .wellheadWake s = .next (if armed then syncQueue w q else settleQueue w q)) ∧
    (∀ t u bits, x.waitSince = some t → x.state = .blocked → headRecord s q = (u, .ok bits) → recKind bits = 4 →
      (bits.extractLsb' 378 6).toNat ≠ 0 → t + 2 ^ (bits.extractLsb' 378 6).toNat ≤ u.tick →
      exec .waitTimeout s = .next (recordError u q 5 x.head.toNat)) ∧
    (∀ t, x.since = some t → x.state = .draining → t + 2 ^ 20 ≤ s.runTick →
      exec .queueAgeing s = .next (s.setQueue q { x with
        level := if qEffective s q < ctxPrioMax s (q / 64) then x.level + 1 else x.level, since := some s.runTick })) ∧
    (∀ h rest u w, x.handed = h :: rest → (x.appends - x.head).toNat < 2 ^ qLog s q →
      queueWrite s q (qRing s q + 64 * (x.appends.toNat % 2 ^ qLog s q)) (leBytes 64 h.bits.toNat) = (u, none) →
      queueWrite (u.setQueue q { u.queue q with appends := x.appends + 1 }) q (qCtrl u q) (leBytes 4 (x.appends.toNat + 1)) = (w, none) →
      exec .wellheadAppend s = .next (tellLaunch (w.setQueue q { w.queue q with handed := rest }) h.target 2 x.appends.toNat)) ∧
    (∀ h rest u f, x.handed = h :: rest → (x.appends - x.head).toNat < 2 ^ qLog s q →
      queueWrite s q (qRing s q + 64 * (x.appends.toNat % 2 ^ qLog s q)) (leBytes 64 h.bits.toNat) = (u, some f) → f ≠ .held →
      let w := tellLaunch (u.setQueue q { u.queue q with handed := rest, appends := x.appends }) h.target 3 0
      exec .wellheadAppend s = .next (if (w.queue q).state.serves then recordError w q 4 x.appends.toNat else w)) ∧
    (if x.state ≠ .unbound then ends .queueBind s 1 else if queueValid s q then ends .queueBind (syncQueue (putQueue s q { state := .idle }) q) 0
      else ends .queueBind s 2) ∧
    (if x.state = .unbound then ends .queueUnbind s 1 else if x.running ≠ [] then ends .queueUnbind s 4
      else ends .queueUnbind ((putQueue s q { x with state := .unbound }).setQueue q {}) 0) ∧
    (if x.state ∈ [.watching, .draining, .blocked] then ends .queueSuspend (putQueue s q { x with
        state := .suspended, byCtx := false, since := none, wakes := [], watch := [] }) 0
      else ends .queueSuspend s 1) ∧
    (if (x.state = .suspended ∧ (s.ctx (q / 64)).state.live = true) ∨ x.state = .error then
      ends .queueResume (syncQueue (putQueue s q { x with state := .watching, byCtx := false, watch := [] }) q) 0 else ends .queueResume s 1) ∧
    (if x.state ≠ .error then ends .queueClear s 1
      else let y : Queue := { x with state := .watching, watch := [] }
        ends .queueClear (syncQueue (putQueue s q (if x.errIdx = x.head then ({ y with head := y.head + 1 } : Queue).complete y.head.toNat else y)) q) 0)) ∧
  (∀ s : State, s.dev.passTick + 64 ≤ s.tick →
    let t := placeFragments { s with dev := { s.dev with passTick := s.tick / 64 * 64 } }
    exec .placementPass s = .next ((passOrder t).foldl (fun acc ln => passLaunch ln acc) (t, [])).1) ∧
  (∀ (s : State) (e : Event) (l : Launch), s.events[s.pick.a]? = some e → s.launch e.launch = some l →
    let blk := (l.bits.extractLsb' 368 48).toNat
    (∀ t w u, e.bitSet = false → releaseOver s e.core .dev = true → blockRead s l.ctx l.segs (blk + 64 + 8 * (e.crew / 64)) = (t, .ok w) →
      blockWrite t l.ctx l.segs (blk + 64 + 8 * (e.crew / 64)) (w ||| 2 ^ (e.crew % 64)) = (u, none) →
      exec .completionEvent s = .next (eventAt (faultDissolved u e.core l.ctx) (u.events.set s.pick.a { e with bitSet := true }))) ∧
    (∀ t n u, e.bitSet = true → blockRead s l.ctx l.segs blk = (t, .ok n) → blockWrite t l.ctx l.segs blk (n + 1) = (u, none) →
      let w : State := { u with events := u.events.eraseIdx s.pick.a }
      exec .completionEvent s = .next (if l.crews w ≤ l.count + 1 then
          recordDone { w with launches := w.launches.del e.launch } l.qid l.recNo
        else w.setLaunch e.launch { l with count := l.count + 1 })))

/-! Streams, rasterization, presentation, trace, the device stop (12 R228-R244, 26 R518-R529). -/

namespace Sys2Proof.Claims

/-- What a bound stream shows at a slot: its Closed frame, or a reprojection of the last one shown while a frame is open and the
stream asks for it, or that one again, or the constant fill (R242); and whether the slot shows a frame a second time. -/
def ShowsAt (s : State) (n : Nat) (p : Picture) (again : Bool) : Prop :=
  let x := s.stream n
  (∃ f, x.closed = some f ∧ p = .frame f ∧ again = false) ∨
  (x.closed = none ∧ again = true ∧
    if x.cur.isSome = true ∧ streamField s n 964 1 = 1 then p = reprojection x (x.slot - ((x.shown.map (·.slot)).getD 0))
    else p = match x.shown with | some f => .frame f | none => .fill)

/-- The oldest closed frame leaves a trace engine, whose flushes for it end with a status. -/
def frameGone (s : State) (k no status : Nat) : State := endTrace (endFlushes (dropClosed s k) k no status) k

/-- The stop registers after a write of STOPCTL (R524). -/
def armed (s : State) (w : BitVec 64) : State :=
  { s with dev := { s.dev with bkCtx := (w.extractLsb' 10 6).toNat, bkStop := w.getLsbD 1, armed := w.getLsbD 0
                               cause := if w.getLsbD 0 then 0 else s.dev.cause } }

end Sys2Proof.Claims

/-- O56. Streams and rasterization (R228, R232, R234, R236, R239, R242). BIND and UNBIND change a stream as its table says, their result
kept: BADSTATE, BADDESC or none. Once the stream's frame is cleared, the first draw not yet assembled takes the stream's next number for its next triangle once its
vertices are there, and each cluster that owns a touched band receives it; a culled or empty one only counts. Setup takes a
cluster's oldest primitive when it has room for its records and claims; the sweep takes its tiles in order, with early depth none
that an earlier draw has still to blend in (R238). An interval at blend that holds its section is tested, blended and retires. A
deadline shows the Closed frame, a reprojection, a repeat or the fill; an output that a home holds is written later, in order. -/
def Obligations.RasterAndPanelSteps : Prop :=
  (∀ s : State, let n := s.pick.a % 256
    let ends := fun (m : Instr) (u : State) (code : Nat) => exec m s = .next { u with dev := { u.dev with sTarget := n, sResult := code } }
    (if (s.stream n).bound = true then ends .streamBind s 1 else if streamValid s n = true then
      ends .streamBind (s.setStream n { bound := true, slot := firstSlot s n }) 0 else ends .streamBind s 2) ∧
    (if (s.stream n).bound = true then ends .streamUnbind (unbindStream s n) 0 else ends .streamUnbind s 1)) ∧
  (∀ (s₀ : State) (ds rest : List Nat) (d : Nat) (y : Draw) (a b c : Nat) (va vb vc : Vertex), let n := s₀.pick.a % 256
    let s := settleCloses (clearFrame s₀ n) n ((clearFrame s₀ n).stream n).closes.length
    let x := s.stream n
    (x.clears = true → exec .primitiveAssembly s₀ = .next s) ∧ (x.clears = false → x.draws = ds ++ d :: rest → (∀ e ∈ ds, ∀ z, s.draws.find e = some z → assembled z = true) →
    s.draws.find d = some y → assembled y = false → triangleIndices (drawTopo y.bits) y.next = [a, b, c] →
    s.verts.find? (fun e => e.1 == d && e.2.1 == a) = some (d, a, va) → s.verts.find? (fun e => e.1 == d && e.2.1 == b) = some (d, b, vb) →
    s.verts.find? (fun e => e.1 == d && e.2.1 == c) = some (d, c, vc) →
    let t := { s.setStream n { x with seq := (x.seq + 1) % 2 ^ 32 } with draws := s.draws.set d { y with next := y.next + 1 } }
    (clipScreen t n [va, vb, vc] = none → exec .primitiveAssembly s₀ =
      .next (settleDraw (t.setStream n ((t.stream n).updFrame y.frame (fun f => { f with disc := f.disc + 1 }))) d)) ∧
    (∀ tris, clipScreen t n [va, vb, vc] = some tris → exec .primitiveAssembly s₀ = .next (settleDraw
      (((touchedRows t n tris).foldl (fun acc r => insertNat acc (rowCluster r)) []).foldl (fun u k =>
        u.setClu k { u.clu k with prims := (u.clu k).prims ++ [{ draw := d, seq := x.seq, tris := tris }] }) t) d)))) ∧
  (∀ (s : State) (p : Prim) (rest : List Prim) (y : Draw), let k := s.pick.a % 8
    (s.clu k).prims = p :: rest → s.draws.find p.draw = some y →
    let tiles := reachedTiles s k y.stream p.tris
    (tiles = [] → exec .primitiveSetup s = .next (settleDraw (s.setClu k { s.clu k with prims := rest }) p.draw)) ∧
    (∀ ix t, tiles ≠ [] → freeSetups (s.clu k) p.tris.length = some ix → roomForClaims s k y.stream y.ctx tiles = (t, false) →
      exec .primitiveSetup s = .next t) ∧
    (∀ ix w, tiles ≠ [] → freeSetups (s.clu k) p.tris.length = some ix → roomForClaims s k y.stream y.ctx tiles = (w, true) →
      let t := tiles.foldl (fun u q => claimTile u k y.ctx (rasterKey y.stream q.1 q.2.1 q.2.2) p.seq) w
      exec .primitiveSetup s = .next (t.setClu k { t.clu k with
        prims := rest
        setups := (ix.zip p.tris).foldl (fun m e => m.set e.1 { draw := p.draw, seq := p.seq, verts := e.2 }) (t.clu k).setups
        sects := (t.clu k).sects ++ tiles.map (fun q => { ctx := y.ctx, draw := p.draw, seq := p.seq, key := rasterKey y.stream q.1 q.2.1 q.2.2 })
        sweeps := (t.clu k).sweeps ++ [{ draw := p.draw, seq := p.seq, recs := ix, tiles := tiles }] }))) ∧
  (∀ (s : State) (j : SweepJob) (js : List SweepJob) (y : Draw) (p : Nat × Nat × Nat) (rest : List (Nat × Nat × Nat)), let k := s.pick.a % 8
    (s.clu k).sweeps = j :: js → s.draws.find j.draw = some y → 
    let key := rasterKey y.stream p.1 p.2.1 p.2.2
    let queue := fun (t : State) (h : SweepJob) xs => let u := Machine.pushAll t k y.ctx xs
      if u.2 = [] then endTile u.1 k y.stream h p else setSweep u.1 k { h with now := some p, left := u.2 }
    let formed := fun (t : State) early => (j.recs.flatMap fun i => match (t.clu k).setups.find i with
      | none => []
      | some r => formIntervals t k y j.draw j.seq i r.verts early p).foldr insertInterval []
    (j.now = some p → exec .sweep s = .next (queue s j j.left)) ∧
    (j.now = none → j.tiles = p :: rest →
      (earlyDepth s y.stream = false → exec .sweep s = .next (queue s { j with tiles := rest } (formed s none))) ∧
      (earlyDepth s y.stream = true → (∃ r ∈ (s.clu k).sects, r.ctx = y.ctx ∧ r.key = key ∧ r.draw < j.draw) → exec .sweep s = .next s) ∧
      (∀ t z, earlyDepth s y.stream = true → (∀ r ∈ (s.clu k).sects, r.ctx = y.ctx → r.key = key → j.draw ≤ r.draw) →
        earlyTile s k y j.draw key p = (t, some (some z)) → exec .sweep s = .next (queue t { j with tiles := rest } (formed t (some z)))))) ∧
  (∀ (s : State) (b : BlendItem) (y : Draw), let k := s.pick.a % 8
    let out := fun (u : State) => retireRecord (u.setClu k { u.clu k with blendQ := dropAt (u.clu k).blendQ s.pick.b }) k b.draw b.ivl
    (s.clu k).blendQ[s.pick.b]? = some b → s.draws.find b.draw = some y →
    let todo := match b.left with
      | some xs => xs
      | none => intervalSamples b.ivl
    (todo = [] → exec .blend s = .next (out s)) ∧ (todo ≠ [] → sectionHeld s k b.ivl = false → exec .blend s = .next s) ∧
    (∀ t left, todo ≠ [] → sectionHeld s k b.ivl = true → blendSamples b k y.stream y.set (triangleOf s k b.ivl) todo s = (t, left) →
      exec .blend s = .next (if left = [] then out t
        else t.setClu k { t.clu k with blendQ := (t.clu k).blendQ.set s.pick.b { b with left := some left } }))) ∧
  (∀ (s : State) (p : Picture) (again : Bool), let n := s.pick.a % 256
    let x := s.stream n
    let due := x.bound = true ∧ streamField s n 832 32 ≠ 0 ∧ slotDeadline s n x.slot ≤ (s.globalTick : Int)
    (¬ due → exec .slotDeadline s = .next (writeShows n x.shows s)) ∧
    (due → ShowsAt s n p again →
      let u := if x.closed.isSome then showClosed s n
        else s.setStream n { x with cur := x.cur.map (fun g => { g with late := true }) }
      let w := u.setStream n { u.stream n with
        slot := x.slot + 1, shows := x.shows ++ [{ pic := p, again := again, slot := x.slot, tick := s.globalTick }] }
      exec .slotDeadline s = .next (writeShows n (w.stream n).shows w))) ∧
  (∀ (s t : State) (n : Nat) (j : ShowJob) (js : List ShowJob) (f : Option HomeFail), writePicture s n j = (t, f) →
    writeShows n (j :: js) s = (if f = some .held then t.setStream n { t.stream n with shows := j :: js } else writeShows n js t))

/-- O57. Trace and the stop (R518, R519, R522, R524, R525, R529). While a trace engine writes, a write of its block keeps the others of
its fields than RDIDX and EN; EN = 0 closes the open frame and begins the stop. A frame open for 2^20 ticks closes; the oldest
closed one is written into the ring and WRIDX rises, or with MODE ≠ 1 a full ring or a failed write loses it, LOST rising. A due
scheduler samples its next slot. STOPTICK and STOPCTL are written as they say, a passed tick stopping the device at once; the
armed tick stops it, STOPTICK reading when; a missing request of a replay stops it with cause 2; RESUME goes on. -/
def Obligations.TraceAndStopSteps : Prop :=
  (∀ s : State, let k := s.pick.a % 8
    let key := hubKey (traceBase k)
    let old := s.mem.readNat key 64
    let new := s.pick.wide.toNat
    let kept := { s with mem := s.mem.writeNat key 64 (putField old 336 32 (new / 2 ^ 336)) }
    (old.testBit 449 = true → new.testBit 449 = true → exec .traceEnWrite s = .next kept) ∧
    (old.testBit 449 = true → new.testBit 449 = false →
      exec .traceEnWrite s = .next (endTrace (kept.setTrace k { closeFrame (s.trace k) with stopping := true }) k)) ∧
    (old.testBit 449 = false →
      let bad := new / 2 ^ 458 % 32 < 4 ∨ 20 < new / 2 ^ 458 % 32 ∨ new / 2 ^ 456 % 4 = 3
      let set := fun (x : Nat) => ({ s with mem := s.mem.writeNat key 64 x } : State).setTrace k { s.trace k with seqs := [], turns := [], turnAt := [(0, s.runTick)] }
      exec .traceEnWrite s = .next (set (if bad then putField new 449 1 0 else new)))) ∧
  (∀ (s : State) (f : TraceFrame), let k := s.pick.a % 8
    (s.trace k).opened = some f → f.tick + 2 ^ 20 ≤ s.tick → exec .frameTimeout s = .next (s.setTrace k (closeFrame (s.trace k)))) ∧
  (∀ (s : State) (f : TraceFrame) (fs : List TraceFrame), let k := s.pick.a % 8
    (s.trace k).closed = f :: fs →
    let wr := traceCtl s k 368 32
    let a := traceCtl s k 464 48 + 4096 * (wr % 2 ^ traceCtl s k 458 5)
    let full := 2 ^ traceCtl s k 458 5 ≤ (wr + 2 ^ 32 - traceCtl s k 336 32) % 2 ^ 32
    let lost := fun (u : State) => frameGone (putTraceCtl u k 304 32 (min (2 ^ 32 - 1) (traceCtl u k 304 32 + 1))) k f.no 3
    (full → traceCtl s k 456 2 ≠ 1 → exec .frameWrite s = .next (lost s)) ∧
    (∀ t e, ¬ full → agentWrite s (if traceCtl s k 463 1 = 1 then hostKey a else dramKey a) {} true (spanFuel 4096) (frameImage k f) = (t, e) →
      (e = none → exec .frameWrite s = .next (frameGone (putTraceCtl t k 368 32 (wr + 1)) k f.no 0)) ∧
      (∀ x, e = some x → x ≠ .held → exec .frameWrite s = .next (lost t)))) ∧
  (∀ (s : State) (ctx slot : Nat), let c := s.pick.a % 2048
    let q := s.pick.b % 4
    let k := coreCluster c
    let x := s.trace k
    let ix := 4 * (c % 256) + q
    (s.clu k).tenant = some ctx → x.period.get 0 ctx ≠ 0 →
    let n := clockTicks s (2 ^ x.period.get 0 ctx)
    let due := x.sampleAt.get (x.sampleAt.get 0 1024) ix + n
    due ≤ s.runTick →
    let y := { x with sampleAt := x.sampleAt.set ix (if s.runTick < due + n then due else s.runTick) }
    (sampleSlot s c q ctx (x.lastSlot.get 5 ix) = none → exec .sampleTake s = .next (s.setTrace k y)) ∧
    (sampleSlot s c q ctx (x.lastSlot.get 5 ix) = some slot →
      let mark := 24 * (c % 256) + slot
      let z := { y with lastSlot := x.lastSlot.set ix slot, seen := x.seen.set mark s.runTick }
      ∀ p, samplePayload s c slot (x.seen.get 0 mark) = some p →
        (64 < z.now s.tick + sampleBytes z s.tick → exec .sampleTake s = .next (s.setTrace k { z with slost := z.slost + 1 })) ∧
        (z.now s.tick + sampleBytes z s.tick ≤ 64 → exec .sampleTake s = .next (traceRecord (s.setTrace k z) k 2 p)))) ∧
  (∀ (s : State) (d : Nat), let k := s.pick.a % 8
    let ctx := traceCtl s k 450 6
    replayNext s k ctx s.pick.b s.pick.c = some d → s.dev.stopped = none →
    (s.trace k).turnAt.get ((s.trace k).turnAt.get 0 0) (s.pick.b * 2 ^ 16 + s.pick.c) + 2 ^ 20 ≤ s.runTick →
    requestThere s k ctx s.pick.b (d / 2 ^ 32 % 2 ^ 8) (d / 2 ^ 16 % 2 ^ 16) = false →
    exec .replayDivergence s = .next (stopDevice s 2)) ∧
  (∀ s : State, (s.pick.a = 0 → exec .stopArm s = .next { s with dev := { s.dev with stopTick := s.pick.word } }) ∧
    (s.pick.a ≠ 0 → exec .stopArm s = .next (if s.pick.word.getLsbD 0 = true ∧ s.dev.stopped = none ∧ s.dev.stopTick.toNat ≤ s.globalTick then
      stopDevice (armed s s.pick.word) 0 else armed s s.pick.word))) ∧
  (∀ s : State, s.dev.armed = true → s.dev.stopped = none → s.dev.stopTick.toNat ≤ s.globalTick →
    exec .deviceStop s = .next { s with dev := { s.dev with stopped := some s.tick, armed := false, stopTick := BitVec.ofNat 64 s.tick } }) ∧
  (∀ (s : State) (t : Nat), s.dev.stopped = some t →
    exec .stopResume s = .next { s with dev := { s.dev with stopped := none, heldTicks := s.dev.heldTicks + (s.tick - t) } })

/-! Links (25 R505-R515). -/

namespace Sys2Proof.Claims

/-- The flit arrives at a port whose link carries traffic, whole and well formed (R507). -/
def Heard (s : State) (i : Nat) (f : Flit) : Prop :=
  s.pick.a % 24 = i ∧ s.pick.flit = some f ∧ f.crcOk = true ∧ f.resv = false ∧ f.vc ≤ 2 ∧ ((s.link i).state = .up ∨ (s.link i).state = .degraded)

/-- The flit that the bundle of a peer expects next in SEQ order at a port has arrived: it is taken and goes to the reorder stage,
which forgets a flit it has released or holds, and else releases, in BSEQ order, what it now can (R508, R510, R511). -/
def taken (s : State) (i p : Nat) (f : Flit) : State :=
  let t := s.setLink i { s.link i with rxSeq := (s.link i).rxSeq + 1 }
  let b := t.bundle p
  if 2 ^ 13 ≤ (f.bseq - b.rx.get 0 f.vc).toNat ∨ b.held.any (fun g => g.vc == f.vc && g.bseq == f.bseq) then t
  else
    let u : State := { t with bundles := t.bundles.set p { b with held := b.held ++ [f] } }
    flowControl (releaseHeld u p f.vc 64) p f.vc

/-- A port goes to a state with its counts of attempts and replays begun anew. -/
def linkGoes (s : State) (i : Nat) (st : LinkState) : State :=
  s.setLink i { s.link i with state := st, tries := 0, replays := 0, ackTick := s.tick }

/-- The state in which a port's peer has nothing left to send again. -/
def nothingLeft (s : State) (p : Nat) : State := { s with bundles := s.bundles.set p { s.bundle p with again := [] } }

end Sys2Proof.Claims

/-- O58. Links (R506-R513, R515, R538). A data flit frees what its ACK covers; the next one in SEQ with room is taken, every other is
dropped; an ack flit frees, XOFF and XON stop and start a VC, a tick flit of the master corrects the tick by at most one in 2^16
ticks. A port in Training that hears its own number is Isolated. Unacknowledged flits are sent again after 2048 ticks, the eighth
time in a row taking the link to Retraining. A port is enabled with a valid DEVNO only, SEQ starting at 0; passes Up or Degraded;
degrades when a lane fails; is Isolated by the third failed attempt, its flits going to the ports left, or the way there is lost;
and an Isolated one can be disabled. A host write through a window is performed at its DRAM home, or waits for a dump of the page
there, which is then wanted next. -/
def Obligations.LinkSteps : Prop :=
  (∀ (s : State) (i p : Nat) (f : Flit), Heard s i f → portPeer s i = some p →
    let t := takeAck s i f.ack
    (f.seq = (t.link i).rxSeq → heldCount (t.bundle p) f.vc < 64 → exec .flitData s = .next (taken t i p f)) ∧
    (f.seq ≠ (t.link i).rxSeq ∨ 64 ≤ heldCount (t.bundle p) f.vc → exec .flitData s = .next t)) ∧
  (∀ s : State, s.pick.flit = none → exec .flitData s =
    .next (flowControl (releaseHeld s (s.pick.b % 32) (s.pick.c % 3) 64) (s.pick.b % 32) (s.pick.c % 3))) ∧
  (∀ (s : State) (f : Flit), s.pick.flit = some f → (s.link (s.pick.a % 24)).state = .training → f.crcOk = true → f.resv = false →
    f.src.toNat = ownNumber s → exec .flitData s = .next (s.setLink (s.pick.a % 24) { s.link (s.pick.a % 24) with state := .isolated })) ∧
  (∀ (s : State) (i : Nat) (f : Flit), Heard s i f → exec .flitAck s = .next (takeAck s i f.ack)) ∧
  (∀ (s : State) (i : Nat) (f : Flit), Heard s i f →
    let t := takeAck s i f.ack
    ∃ q : List Nat, (s.pick.flag = true → q = insertNat (t.link i).xoffIn f.vc) ∧ (s.pick.flag = false → q = (t.link i).xoffIn.filter (· != f.vc)) ∧
      exec .flitFlowControl s = .next (portOpens (t.setLink i { t.link i with xoffIn := q }) i)) ∧
  (∀ (s : State) (i : Nat) (f : Flit), Heard s i f → tickMaster s ≠ ownNumber s → portPeer s i = some (tickMaster s) →
    s.dev.fixTick + 2 ^ 16 ≤ s.tick →
    (s.pick.b = 1 → s.tick < s.hbTick + 256 →
      exec .flitTick s = .next { s with tick := s.tick + 1, dev := { s.dev with fixTick := s.tick + 1 } }) ∧
    (s.pick.b = 2 → exec .flitTick s = .next { s with dev := { s.dev with slowTick := true, fixTick := s.tick } })) ∧
  (∀ s : State, let i := s.pick.a % 24
    (s.link i).state = .up ∨ (s.link i).state = .degraded → (s.link i).lastTick + 2 ^ 16 ≤ s.tick →
    exec .tickFlitSend s = .next (s.setLink i { s.link i with lastTick := s.tick })) ∧
  (∀ s : State, let i := s.pick.a % 24
    let x := s.link i
    (x.state = .up ∨ x.state = .degraded) → x.buffer ≠ [] → x.ackTick + 2048 ≤ s.tick →
    exec .linkReplayTimeout s = .next (if 8 ≤ x.replays + 1 then linkGoes s i .retraining
      else s.setLink i { x with replays := x.replays + 1, ackTick := s.tick })) ∧
  (∀ s : State, let i := s.pick.a % 25
    let t := s.setLink i { state := .training, ackTick := s.tick, lastTick := s.tick }
    (s.link i).state = .down →
    (i < 24 → s.dev.devno.getLsbD 31 = false → exec .linkEnable s = .next s) ∧
    (i = 24 → exec .linkEnable s = .next t) ∧
    (∀ p, i < 24 → s.dev.devno.getLsbD 31 = true → portPeer s i = some p →
      exec .linkEnable s = .next (if bundleLives s i = true then t else { t with bundles := t.bundles.del p }))) ∧
  (∀ s : State, let i := s.pick.a % 25
    ((s.link i).state = .isolated → exec .linkDisable s = .next (s.setLink i {})) ∧
    ((s.link i).state = .training ∨ (s.link i).state = .retraining → s.pick.flag = false → exec .linkTrainingPass s = .next (portOpens (linkGoes s i .up) i)) ∧
    ((s.link i).state = .training ∨ (s.link i).state = .retraining → s.pick.flag = true → i < 24 →
      exec .linkTrainingPass s = .next (portOpens (linkGoes s i .degraded) i)) ∧
    ((s.link i).state = .training ∨ (s.link i).state = .retraining →
      ((s.link i).tries < 2 → exec .linkTrainingFail s = .next (s.setLink i { s.link i with tries := (s.link i).tries + 1 })) ∧
      (∀ p, 2 ≤ (s.link i).tries → i < 24 → portPeer s i = some p →
        let t := s.setLink i { s.link i with state := .isolated, tries := 0 }
        exec .linkTrainingFail s = .next (if ∃ j ∈ bundlePorts t p, (t.link j).flows = true ∨ (t.link j).state = .retraining
          then failOver t i p else loseHome (nothingLeft t p) (.peer p))) ∧
      (2 ≤ (s.link i).tries → i = 24 → (∀ q ∈ s.queues.keys, (s.queue q).state = .unbound ∨ qHost s q = false) →
        exec .linkTrainingFail s = .next (loseHome (s.setLink i { s.link i with state := .isolated, tries := 0 }) .host)))) ∧
  (∀ s : State, (s.link (s.pick.a % 24)).state = .up →
    exec .laneFail s = .next (s.setLink (s.pick.a % 24) { s.link (s.pick.a % 24) with state := .degraded })) ∧
  (∀ s : State, (s.link 24).state = .up →
    exec .cxlLinkRecovery s = .next (s.setLink 24 { s.link 24 with state := .retraining, tries := 0 })) ∧
  (∀ (s u : State) (i host dev size : Nat), (s.link 24).state = .up →
    s.dev.hdm.find? (fun e => e.2.1 ≤ s.pick.a && s.pick.a < e.2.1 + e.2.2.2) = some (i, host, dev, size) →
    let pa := dev + (s.pick.a - host)
    let bs := s.pick.bytes.take (64 - pa % 64)
    (dumpHolds s pa = (u, true) → exec .hdmWrite s = .next u) ∧
    (dumpHolds s pa = (u, false) → ∀ t, agentWrite u (dramKey pa) {} true (spanFuel bs.length) bs = (t, none) →
      exec .hdmWrite s = .next t))

/-! Device states, the crown, the mailboxes (27 R531-R542, 10 R164, R188). -/

namespace Sys2Proof.Claims

/-- A step of a master that writes MGCMD with a command's number and no reserved bit: its path carries traffic, no command of a
higher master was taken in this tick, and no handover is overdue. -/
def Sends (s : State) (cmd arg : Nat) : Prop :=
  masterHere s s.pick.c = true ∧ crownPast s s.pick.c = false ∧ (s.dev.pend = 0xFF ∨ s.tick < s.dev.pendTick + 2 ^ 30) ∧
    (s.pick.word.extractLsb' 0 8).toNat = cmd ∧ s.pick.word.extractLsb' 8 24 = 0 ∧
    (s.pick.word.extractLsb' 32 32).toNat = arg

/-- The crown arbiter has taken the step's command. -/
def heard (s : State) : State := { s with dev := { s.dev with crownAt := some (s.tick, s.pick.c) } }

/-- The crown with another holder, a pending master, and RESULT, after a command. -/
def crowned (s : State) (holder pend : Nat) : State :=
  { s with dev := { s.dev with crownAt := some (s.tick, s.pick.c), holder := holder, pend := pend, result := 0 } }

/-- The state with RESULT. -/
def told (s : State) (result : Nat) : State := { s with dev := { s.dev with result := result } }

/-- The request of a mailbox that is served next, of an operation and with its length, in a device that serves requests. -/
def Asks (s : State) (op len : Nat) : Prop :=
  let i := s.pick.a % 3
  let x := s.box i
  boxTurn s i = true ∧ (x.cmd.extractLsb' 0 8).toNat = op ∧ x.len = len ∧ x.cmd.extractLsb' 32 32 = 0 ∧
    (s.dev.state = .training ∨ s.dev.state = .early ∨ s.dev.state = .full)

/-- The mailbox after its request: BUSY falls, SEQ, the code and the master are told, and with code 0 the reply and its length. -/
def replied (s : State) (i code : Nat) (bs : List Byte) : State :=
  let x := s.box i
  s.setBox i { x with
    busy := false, seq := (x.cmd.extractLsb' 8 8).toNat, code := code, from_ := x.master
    rlen := if code = 0 then bs.length else 0, rpl := if code = 0 ∧ bs ≠ [] then bs else x.rpl }

end Sys2Proof.Claims

/-- O59. Device states (R164, R188, R506, R531-R534, R536, R542). Power brings Off to ROM with SRAM zero and the host link training; GO of
the host in ROM starts verification; a valid image burns a counter bit and starts Training, an invalid one clears the window and
tells BADIMAGE; Training enters Early with a cluster up, Early enters Full with all clusters up and every stack Up or Failed; a
loss of power or a trip ends in Off, the burnt counter kept. The clock steps by 50 MHz up to its state's rate. Bits of a granule
flip and flip back. A master's write of a management register or of hub control space, or of a window, is performed. -/
def Obligations.DeviceStates : Prop :=
  (∀ s : State, s.dev.state = .off →
    exec .powerGood s = .next { s.setLink 24 { state := .training, ackTick := s.tick } with
      mem := s.mem.filter (fun e => keySpace e.1 != 0 && keySpace e.1 != 5), emptyTags := [], tainted := [], dev := { s.dev with state := .rom } }) ∧
  (∀ s : State, exec .powerLoss s = .next (powerOff s) ∧ (powerOff s).dev.state = .off ∧ (powerOff s).dev.otp = s.dev.otp ∧
    (s.dev.state ≠ .off → exec .thermalTrip s = .next (powerOff s))) ∧
  (∀ s : State, Sends s 1 0 → (s.pick.c = 0 → s.dev.state = .rom →
      exec .go s = .next { s with dev := { s.dev with crownAt := some (s.tick, 0), state := .verifying, result := 0 } }) ∧
    (s.pick.c = 0 → s.dev.state ≠ .rom → exec .go s = .next (told (heard s) 3)) ∧ (s.pick.c ≠ 0 → exec .go s = .next (told (heard s) 5))) ∧
  (∀ s : State, s.dev.state = .verifying →
    ∃ t, exec .verify s = .next t ∧
      (imageValid s = true → t.dev.state = .training ∧ t.dev.otp = min otpBits (s.dev.otp + 1) ∧
        t.mem = s.mem ∧ (t.dev.tree = none ↔ otpBits ≤ s.dev.otp) ∧ ∀ x, t.dev.tree = some x → x.boot = s.dev.otp ∧ x.leaf = 0) ∧
      (imageValid s = false → t = { s with
        mem := s.mem.filter (fun e => keySpace e.1 != 5), dev := { s.dev with state := .rom, result := 1 } })) ∧
  (∀ s : State, let ks := (List.range 8).filter (fun k => s.pick.a.testBit k)
    s.dev.state = .training → ks ≠ [] →
    exec .earlyEntry s = .next { s with dev := { s.dev with state := .early, upClusters := ks, clockMHz := 1200 } }) ∧
  (∀ s : State, s.dev.state = .early → (∀ n < 8, (s.stack n).state = .up ∨ (s.stack n).state = .failed) →
    exec .fullEntry s = .next { s with dev := { s.dev with state := .full, upClusters := [0, 1, 2, 3, 4, 5, 6, 7], clockMHz := 1900 } }) ∧
  (∀ s : State, let f := s.dev.clockMHz
    let top := if s.dev.state = .full then 1900 else 1200
    let goes := fun (x : Nat) => exec .clockStep s = .next { s with dev := { s.dev with clockMHz := x } }
    (s.pick.flag = true → goes (min top (f + 50))) ∧ (s.pick.flag = false → goes (if f ≤ 50 then f else f - 50))) ∧
  (∀ s : State, let g := s.pick.a % 2 ^ 34
    let x := s.flips.get 0 g ^^^ s.pick.wide.extractLsb' 0 288
    (x = 0 → exec .softError s = .next { s with flips := s.flips.del g }) ∧
    (x ≠ 0 → exec .softError s = .next { s with flips := s.flips.set g x })) ∧
  (∀ s : State, masterHere s s.pick.c = true →
    (s.pick.a = 1 → s.pick.b ≠ 8 ∨ crownPast s s.pick.c = false → exec .registerWrite s = .next (barWrite s s.pick.c s.pick.b s.pick.bytes)) ∧
    (s.pick.a = 0 → s.dev.state = .training ∨ s.dev.state = .early ∨ s.dev.state = .full →
      exec .registerWrite s = .next (masterHubWrite s s.pick.c s.pick.b s.pick.bytes)) ∧
    (2 ≤ s.pick.a → masterHere s 0 = true → exec .registerWrite s = .next (setWindow s s.pick.b s.pick.word.toNat s.pick.c s.pick.wide.toNat)))

/-- O60. The crown (R535, R537, R538). CLAIM by any master in Training or above takes an empty crown and is refused otherwise, with
BADSTATE in ROM or Verifying; HANDOVER by the holder names a successor, ACCEPT by that one takes the crown, RELEASE by the holder
empties it, each refused with NOTCROWN to another; a handover pending for 2^30 ticks lapses with TIMEOUT, the holder keeping the
crown; a holder whose path fails loses it. DEVNO is written by the holder while every peer port is Down. The mailboxes (R533, R539-R541). A request served in its turn is answered: ATTEST with a report signed by the next leaf, which is
then spent, EXHAUSTED when none is left and NOIDENTITY without a per-boot tree; CERT with the certificate; CSRRD and HUBRD with what
they read; CSRWR and HUBWR of the crown holder perform their write, and any other master's is told NOTCROWN; a number or an offset
out of range is told BADARG. -/
def Obligations.CrownSteps : Prop :=
  (∀ s : State, Sends s 2 0 →
    ((s.dev.state = .rom ∨ s.dev.state = .verifying) → exec .claim s = .next (told (heard s) 3)) ∧
    ((s.dev.state = .training ∨ s.dev.state = .early ∨ s.dev.state = .full) →
      (s.dev.holder = 0xFF → exec .claim s = .next (crowned s s.pick.c s.dev.pend)) ∧
      (s.dev.holder ≠ 0xFF → exec .claim s = .next (told (heard s) 2)))) ∧
  (∀ (s : State) (t : Nat), Sends s 3 t →
    (t = 0 ∨ t = 1 ∨ (0x20 ≤ t ∧ t ≤ 0x3F) → s.dev.holder = s.pick.c →
      exec .handover s = .next { s with dev := { s.dev with crownAt := some (s.tick, s.pick.c), pend := t, pendTick := s.tick, result := 0 } }) ∧
    (t = 0 ∨ t = 1 ∨ (0x20 ≤ t ∧ t ≤ 0x3F) → s.dev.holder ≠ s.pick.c → exec .handover s = .next (told (heard s) 2)) ∧
    (¬ (t = 0 ∨ t = 1 ∨ (0x20 ≤ t ∧ t ≤ 0x3F)) → exec .handover s = .next (told (heard s) 5))) ∧
  (∀ s : State, Sends s 4 0 →
    exec .accept s = .next (if s.dev.pend = s.pick.c then crowned s s.pick.c 0xFF else told (heard s) 2)) ∧
  (∀ s : State, Sends s 5 0 →
    exec .crownRelease s = .next (if s.dev.holder = s.pick.c then crowned s 0xFF 0xFF else told (heard s) 2)) ∧
  (∀ s : State, s.dev.pend ≠ 0xFF → s.dev.pendTick + 2 ^ 30 ≤ s.tick →
    exec .handoverLapse s = .next { s with dev := { s.dev with pend := 0xFF, result := 4 } }) ∧
  (∀ s : State, (s.dev.holder = 0 ∧ ((s.link 24).state = .isolated ∨ (s.link 24).state = .down)) ∨ (s.dev.holder = 1 ∧ s.pick.flag = true) →
    exec .crownVacancy s = .next { s with dev := { s.dev with holder := 0xFF, pend := 0xFF } }) ∧
  (∀ s : State, masterHere s s.pick.c = true →
    (s.dev.holder ≠ s.pick.c → exec .devnoWrite s = .next (told s 2)) ∧
    (s.dev.holder = s.pick.c → (∃ i < 24, (s.link i).state ≠ .down) → exec .devnoWrite s = .next (told s 3)) ∧
    (s.dev.holder = s.pick.c → (∀ i < 24, (s.link i).state = .down) → exec .devnoWrite s =
      .next { s with dev := { s.dev with devno := s.pick.word.extractLsb' 0 32 &&& 0x8000001F, result := 0 } })) ∧
  (∀ s : State, Asks s 1 32 →
    (s.dev.tree = none → exec .attest s = .next (replied s (s.pick.a % 3) 5 [])) ∧
    (∀ t, s.dev.tree = some t →
      (bootLeaves ≤ t.leaf → exec .attest s = .next (replied s (s.pick.a % 3) 4 [])) ∧
      (t.leaf < bootLeaves → let bs := reportBytes s t ((s.box (s.pick.a % 3)).bytes 0 32)
        exec .attest s = .next (replied { s with dev := { s.dev with tree := some { t with leaf := t.leaf + 1 } } } (s.pick.a % 3) 0
          (bs ++ fitBytes 1612 (Config.lmsSign t.seed t.leaf bs)))))) ∧
  (∀ s : State, Asks s 2 0 →
    (s.dev.tree = none → exec .cert s = .next (replied s (s.pick.a % 3) 5 [])) ∧
    (∀ t, s.dev.tree = some t → let bs := leBytes 4 t.boot ++ leBytes 32 t.hash.toNat ++ fitBytes 56 (Config.lmsPublic t.seed)
      exec .cert s = .next (replied s (s.pick.a % 3) 0 (fitBytes 60 Config.identityPublic ++ bs ++ fitBytes 2964 (Config.identitySign t.boot bs))))) ∧
  (∀ s : State, Asks s 3 2 → let n := leNat ((s.box (s.pick.a % 3)).bytes 0 2)
    exec .csrrd s = .next (if 0x180 ≤ n ∧ n ≤ 0x183 then replied s (s.pick.a % 3) 0 (leBytes 4 (stewardCsr s 0 n).toNat) else replied s (s.pick.a % 3) 3 [])) ∧
  (∀ s : State, Asks s 4 8 → let x := s.box (s.pick.a % 3)
    let n := leNat (x.bytes 0 2)
    let u := told (csrWrite s 0 n (BitVec.ofNat 32 (leNat (x.bytes 4 4)))) 0
    (s.dev.holder ≠ x.master → exec .csrwr s = .next (replied (told s 2) (s.pick.a % 3) 1 [])) ∧
    (s.dev.holder = x.master → exec .csrwr s = .next (if 0x180 ≤ n ∧ n ≤ 0x183 then
      replied u (s.pick.a % 3) 0 (leBytes 4 (stewardCsr u 0 n).toNat) else replied s (s.pick.a % 3) 3 []))) ∧
  (∀ s : State, Asks s 5 8 → let o := leNat ((s.box (s.pick.a % 3)).bytes 0 8)
    exec .hubrd s = .next (if boxOffset o = true then replied s (s.pick.a % 3) 0 (hubRead s o 8) else replied s (s.pick.a % 3) 3 [])) ∧
  (∀ s : State, Asks s 6 16 → let x := s.box (s.pick.a % 3)
    let o := leNat (x.bytes 0 8)
    exec .hubwr s = .next (if s.dev.holder ≠ x.master then replied (told s 2) (s.pick.a % 3) 1 []
      else if boxOffset o = true then replied (masterHubWrite s x.master o (x.bytes 8 8)) (s.pick.a % 3) 0 [] else replied s (s.pick.a % 3) 3 []))
end

