-- ==== Sys2Proof/Laws/Codes.lean ====
section
/-! SUPPORT. Every code of R267 and R274 reads back as what it stands for, and the regrouped fields of the formats. -/
namespace Sys2Proof.Laws

open Sys2Proof

@[simp] theorem fmt_code (x : Fmt) : Fmt.ofCode x.code = some x := by cases x <;> rfl
@[simp] theorem rnd_code (x : Rnd) : Rnd.ofCode x.code = x := by cases x <;> rfl
@[simp] theorem scope_code (x : Scope) : Scope.ofCode x.code = some x := by cases x <;> rfl
@[simp] theorem order_code (x : Order) : Order.ofCode x.code = some x := by cases x <;> rfl
@[simp] theorem segIx_code (x : SegIx) : SegIx.ofCode x.code = x := by cases x <;> rfl
@[simp] theorem width_code (x : Width) : Width.ofCode x.code = some x := by cases x <;> rfl
@[simp] theorem cond_code (x : Cond) : Cond.ofCode x.code = x := by cases x <;> rfl
@[simp] theorem rop_code (x : ROp) : ROp.ofCode x.code = some x := by cases x <;> rfl
@[simp] theorem rty_code (x : RTy) : RTy.ofCode x.code = x := by cases x <;> rfl
@[simp] theorem aop_code (x : AOp) : AOp.ofCode x.code = some x := by cases x <;> rfl
@[simp] theorem voteForm_code (x : VoteForm) : VoteForm.ofCode x.code = some x := by cases x <;> rfl
@[simp] theorem shflForm_code (x : ShflForm) : ShflForm.ofCode x.code = some x := by cases x <;> rfl
@[simp] theorem phaseKind_code (x : PhaseKind) : PhaseKind.ofCode x.code = some x := by cases x <;> rfl
@[simp] theorem barOrder_code (x : BarOrder) : BarOrder.ofCode x.code = some x := by cases x <;> rfl
@[simp] theorem shape_code (x : Shape) : Shape.ofCode x.code = some x := by cases x <;> rfl
@[simp] theorem special_code (x : Special) : Special.ofCode x.code = some x := by cases x <;> rfl

@[simp] theorem operand_code (o : Operand) : Operand.ofCode o.code = some o := by
  cases o with
  | sp x => cases x <;> rfl
  | v n => simp only [Operand.code, Operand.ofCode]; revert n; decide
  | s n => simp only [Operand.code, Operand.ofCode]; revert n; decide
  | t n => simp only [Operand.code, Operand.ofCode]; revert n; decide
  | p n => simp only [Operand.code, Operand.ofCode]; revert n; decide
  | h n => simp only [Operand.code, Operand.ofCode]; revert n; decide
  | a n => simp only [Operand.code, Operand.ofCode]; revert n; decide
  | c n => simp only [Operand.code, Operand.ofCode]; revert n; decide
  | imm k => simp only [Operand.code, Operand.ofCode]; revert k; decide

@[simp] theorem deInt_mod (ty : Fmt) (sat : Bool) : deInt (modInt ty sat) = some (ty, sat) := by
  cases ty <;> cases sat <;> rfl
@[simp] theorem deCmp_mod (ty : Fmt) (c : Cond) : deCmp (modCmp ty c) = some (ty, c) := by
  cases ty <;> cases c <;> rfl
@[simp] theorem deXcvt_mod (ty : Fmt) (rm : Rnd) (ftz : Bool) : deXcvt (modXcvt ty rm ftz) = some (ty, rm, ftz) := by
  cases ty <;> cases rm <;> cases ftz <;> rfl
@[simp] theorem deRed_mod (op : ROp) (ty : RTy) (ftz excl : Bool) :
    deRed (modRed op ty ftz excl) = some (op, ty, ftz) := by
  cases op <;> cases ty <;> cases ftz <;> cases excl <;> rfl
@[simp] theorem modRed_excl (op : ROp) (ty : RTy) (ftz excl : Bool) : (modRed op ty ftz excl)[1] = excl := by
  cases op <;> cases ty <;> cases ftz <;> cases excl <;> rfl
@[simp] theorem deRed_modBarp (op : ROp) (ty : RTy) (ftz : Bool) (o : BarOrder) :
    deRed (modBarp op ty ftz o) = some (op, ty, ftz) := by
  cases op <;> cases ty <;> cases ftz <;> cases o <;> rfl
@[simp] theorem modBarp_order (op : ROp) (ty : RTy) (ftz : Bool) (o : BarOrder) :
    BarOrder.ofCode ((modBarp op ty ftz o).extractLsb' 0 2) = some o := by
  cases op <;> cases ty <;> cases ftz <;> cases o <;> rfl
@[simp] theorem deMem_mod (sg : SegIx) (wd : Width) (sx md : Bool) : deMem (modMem sg wd sx md) = some (sg, wd) := by
  cases sg <;> cases wd <;> cases sx <;> cases md <;> rfl
@[simp] theorem modMem_sx (sg : SegIx) (wd : Width) (sx md : Bool) : (modMem sg wd sx md)[1] = sx := by
  cases sg <;> cases wd <;> cases sx <;> cases md <;> rfl
@[simp] theorem modMem_md (sg : SegIx) (wd : Width) (sx md : Bool) : (modMem sg wd sx md)[0] = md := by
  cases sg <;> cases wd <;> cases sx <;> cases md <;> rfl
@[simp] theorem modMem_seg (sg : SegIx) (wd : Width) (sx md : Bool) :
    SegIx.ofCode ((modMem sg wd sx md).extractLsb' 5 3) = sg := by
  cases sg <;> cases wd <;> cases sx <;> cases md <;> rfl
@[simp] theorem deTag_mod (sg : SegIx) (sc : Scope) (top : BitVec 2) : deTag (modTag sg sc top) = some (sg, sc) := by
  cases sg <;> cases sc <;> revert top <;> decide
@[simp] theorem modTag_seg (sg : SegIx) (sc : Scope) (top : BitVec 2) :
    SegIx.ofCode ((modTag sg sc top).extractLsb' 5 3) = sg := by
  cases sg <;> cases sc <;> revert top <;> decide
@[simp] theorem modTag_top (sg : SegIx) (sc : Scope) (top : BitVec 2) : (modTag sg sc top).extractLsb' 0 2 = top := by
  cases sg <;> cases sc <;> revert top <;> decide
@[simp] theorem modTag_low (sg : SegIx) (sc : Scope) (top : BitVec 2) : (modTag sg sc top)[0] = top[0] := by
  cases sg <;> cases sc <;> revert top <;> decide
@[simp] theorem dePhase_mod (k : PhaseKind) (sc : Scope) : dePhase (modPhase k sc) = some (k, sc) := by
  cases k <;> cases sc <;> rfl
@[simp] theorem deAtom_mod (sg : SegIx) (o : Order) (w64 : Bool) : deAtom (modAtom sg o w64) = some (sg, o) := by
  cases sg <;> cases o <;> cases w64 <;> rfl
@[simp] theorem modAtom_w64 (sg : SegIx) (o : Order) (w64 : Bool) : (modAtom sg o w64)[1] = w64 := by
  cases sg <;> cases o <;> cases w64 <;> rfl
@[simp] theorem deAtom_modCas (sg : SegIx) (o : Order) (w64 facq : Bool) :
    deAtom (modCas sg o w64 facq) = some (sg, o) := by
  cases sg <;> cases o <;> cases w64 <;> cases facq <;> rfl
@[simp] theorem modCas_w64 (sg : SegIx) (o : Order) (w64 facq : Bool) : (modCas sg o w64 facq)[1] = w64 := by
  cases sg <;> cases o <;> cases w64 <;> cases facq <;> rfl
@[simp] theorem modCas_facq (sg : SegIx) (o : Order) (w64 facq : Bool) : (modCas sg o w64 facq)[0] = facq := by
  cases sg <;> cases o <;> cases w64 <;> cases facq <;> rfl
@[simp] theorem deAtomX_mod (sc : Scope) (op : AOp) (a64 : Bool) : deAtomX (modxAtom sc op a64) = some (sc, op) := by
  cases sc <;> cases op <;> cases a64 <;> rfl
@[simp] theorem modxAtom_scope (sc : Scope) (op : AOp) (a64 : Bool) :
    Scope.ofCode ((modxAtom sc op a64).extractLsb' 6 3) = some sc := by
  cases sc <;> cases op <;> cases a64 <;> rfl
@[simp] theorem modxAtom_a64 (sc : Scope) (op : AOp) (a64 : Bool) : (modxAtom sc op a64)[1] = a64 := by
  cases sc <;> cases op <;> cases a64 <;> rfl
@[simp] theorem modxCas_scope (sc : Scope) (a64 : Bool) : Scope.ofCode ((modxCas sc a64).extractLsb' 6 3) = some sc := by
  cases sc <;> cases a64 <;> rfl
@[simp] theorem modxCas_a64 (sc : Scope) (a64 : Bool) : (modxCas sc a64)[5] = a64 := by
  cases sc <;> cases a64 <;> rfl
@[simp] theorem modxTop_a64 (a64 : Bool) : (modxTop a64)[8] = a64 := by cases a64 <;> rfl
@[simp] theorem modTop_top (x : Bool) : (modTop x)[7] = x := by cases x <;> rfl
@[simp] theorem modPair_top (x y : Bool) : (modPair x y)[7] = x := by cases x <;> cases y <;> rfl
@[simp] theorem modPair_next (x y : Bool) : (modPair x y)[6] = y := by cases x <;> cases y <;> rfl
@[simp] theorem modShift_w64 (x y z : Bool) : (modShift x y z)[7] = x := by cases x <;> cases y <;> cases z <;> rfl
@[simp] theorem modShift_clamp (x y z : Bool) : (modShift x y z)[6] = y := by
  cases x <;> cases y <;> cases z <;> rfl
@[simp] theorem modShift_dir (x y z : Bool) : (modShift x y z)[5] = z := by cases x <;> cases y <;> cases z <;> rfl
@[simp] theorem modDot_sa (x y z : Bool) : (modDot x y z)[7] = x := by cases x <;> cases y <;> cases z <;> rfl
@[simp] theorem modDot_sb (x y z : Bool) : (modDot x y z)[6] = y := by cases x <;> cases y <;> cases z <;> rfl
@[simp] theorem modDot_sat (x y z : Bool) : (modDot x y z)[5] = z := by cases x <;> cases y <;> cases z <;> rfl
@[simp] theorem modFlt_rm (rm : Rnd) (ftz : Bool) : Rnd.ofCode ((modFlt rm ftz).extractLsb' 1 2) = rm := by
  cases rm <;> cases ftz <;> rfl
@[simp] theorem modFlt_ftz (rm : Rnd) (ftz : Bool) : (modFlt rm ftz)[0] = ftz := by
  cases rm <;> cases ftz <;> rfl
@[simp] theorem modHalf_bf (bf : Bool) (rm : Rnd) : (modHalf bf rm)[7] = bf := by cases bf <;> cases rm <;> rfl
@[simp] theorem modHalf_rm (bf : Bool) (rm : Rnd) : Rnd.ofCode ((modHalf bf rm).extractLsb' 1 2) = rm := by
  cases bf <;> cases rm <;> rfl
@[simp] theorem modMma_sat (sat : Bool) (x : Shape) : (modMma sat x)[7] = sat := by cases sat <;> cases x <;> rfl
@[simp] theorem modMma_shape (sat : Bool) (x : Shape) : Shape.ofCode ((modMma sat x).extractLsb' 5 2) = some x := by
  cases sat <;> cases x <;> rfl
@[simp] theorem deOutv_mod (w : Option (BitVec 4)) : deOutv (modOutv w) = w := by
  cases w with
  | none => rfl
  | some k => revert k; decide
@[simp] theorem modBar_order (o : BarOrder) (x : Bool) : BarOrder.ofCode ((modBar o x).extractLsb' 6 2) = some o := by
  cases o <;> cases x <;> rfl
@[simp] theorem modBar_launch (o : BarOrder) (x : Bool) : (modBar o x)[5] = x := by cases o <;> cases x <;> rfl
@[simp] theorem deOpt_code (x : Option Operand) : deOpt x.isSome (optCode x) = some x := by cases x <;> simp [deOpt, optCode]
@[simp] theorem deOpt_code_none (x : Option Operand) : deOpt (!x.isNone) (optCode x) = some x := by
  cases x <;> simp [deOpt, optCode]
@[simp] theorem tlbInv_code (k : TlbInv) : TlbInv.ofCode k.mod k.aField k.bField = some k := by
  cases k <;> simp [TlbInv.ofCode, TlbInv.mod, TlbInv.aField, TlbInv.bField]
@[simp] theorem imm18_code (x : BitVec 18) : x.extractLsb' 9 9 ++ x.extractLsb' 0 9 = x := by
  apply BitVec.eq_of_getLsbD_eq; intro i hi; simp; grind
@[simp] theorem fmt_pos (ty : Fmt) (pos : BitVec 3) : Fmt.ofCode ((ty.code ++ pos).extractLsb' 3 5) = some ty := by
  cases ty <;> revert pos <;> decide
@[simp] theorem fmt_pos_low (ty : Fmt) (pos : BitVec 3) : (ty.code ++ pos).extractLsb' 0 3 = pos := by
  cases ty <;> revert pos <;> decide
@[simp] theorem top3 (x : BitVec 3) : (x ++ 0#5 : BitVec 8).extractLsb' 5 3 = x := by revert x; decide
@[simp] theorem rawK_d (c : Ctl) (opc : BitVec 8) (d : BitVec 9) (imm : BitVec 32) : (c.rawK opc d imm).kd = d := by
  apply BitVec.eq_of_getLsbD_eq; intro i hi; simp [Ctl.rawK, Raw.kd]; grind
@[simp] theorem rawK_imm (c : Ctl) (opc : BitVec 8) (d : BitVec 9) (imm : BitVec 32) : (c.rawK opc d imm).kimm = imm := by
  apply BitVec.eq_of_getLsbD_eq; intro i hi; simp [Ctl.rawK, Raw.kimm]; grind
@[simp] theorem attr_code (x : BitVec 4) : (28#5 ++ x : BitVec 9).extractLsb' 0 4 = x := by revert x; decide
@[simp] theorem pair_code (x : BitVec 5) : (4#3 ++ x ++ 0#1 : BitVec 9).extractLsb' 1 5 = x := by revert x; decide
@[simp] theorem handle_code (x : BitVec 4) : (21#5 ++ x : BitVec 9).extractLsb' 0 4 = x := by revert x; decide
@[simp] theorem rawK_opc (c : Ctl) (opc : BitVec 8) (d : BitVec 9) (imm : BitVec 32) : (c.rawK opc d imm).opc = opc := rfl
@[simp] theorem fmt_four (ty : Fmt) : Fmt.ofCode ((ty.code ++ 0#4 : BitVec 9).extractLsb' 4 5) = some ty := by
  cases ty <;> rfl
@[simp] theorem rawK_ctl (c : Ctl) (opc : BitVec 8) (d : BitVec 9) (imm : BitVec 32) : (c.rawK opc d imm).ctl = c := rfl

end Sys2Proof.Laws
end

