-- ==== Sys2Proof/Laws/Memory.lean ====
section
/-! SUPPORT. Tables and memory: what a read after a write gives, and that every write keeps the canonical form. -/
namespace Sys2Proof.Machine

@[simp] theorem Tab.get_set_self {α : Type} (t : Tab α) (d : α) (k : Nat) (v : α) : (t.set k v).get d k = v := by
  induction t with
  | nil => simp [Tab.set, Tab.get]
  | cons e r ih =>
    obtain ⟨k', v'⟩ := e
    simp only [Tab.set]
    split
    · simp [Tab.get]
    · split
      · simp [Tab.get]
      · simp [Tab.get, *]

theorem Tab.get_set_ne {α : Type} (t : Tab α) (d : α) {k k' : Nat} (v : α) (h : k' ≠ k) :
    (t.set k v).get d k' = t.get d k' := by
  induction t with
  | nil => simp [Tab.set, Tab.get, h]
  | cons e r ih =>
    obtain ⟨j, w⟩ := e
    simp only [Tab.set]
    split
    · subst_vars; simp [Tab.get, h]
    · split
      · simp [Tab.get, h]
      · simp [Tab.get, ih]

/-- A table read after a write. -/
theorem Tab.get_set {α : Type} (t : Tab α) (d : α) (k k' : Nat) (v : α) :
    (t.set k v).get d k' = if k' = k then v else t.get d k' := by
  split
  · subst_vars; simp
  · exact Tab.get_set_ne t d v ‹_›

@[simp] theorem Tab.find_set_self {α : Type} (t : Tab α) (k : Nat) (v : α) : (t.set k v).find k = some v := by
  induction t with
  | nil => simp [Tab.set, Tab.find]
  | cons e r ih =>
    obtain ⟨k', v'⟩ := e
    simp only [Tab.set]
    split
    · simp [Tab.find]
    · split
      · simp [Tab.find]
      · simp [Tab.find, *]

theorem Tab.find_set_ne {α : Type} (t : Tab α) {k k' : Nat} (v : α) (h : k' ≠ k) :
    (t.set k v).find k' = t.find k' := by
  induction t with
  | nil => simp [Tab.set, Tab.find, h]
  | cons e r ih =>
    obtain ⟨j, w⟩ := e
    simp only [Tab.set]
    split
    · subst_vars; simp [Tab.find, h]
    · split
      · simp [Tab.find, h]
      · simp [Tab.find, ih]

/-! Memory. -/

/-- The tail of a memory in canonical form is in canonical form. -/
theorem Memory.wf_tail {k : Nat} {v : Byte} {m : Memory} (h : Memory.wf ((k, v) :: m) = true) : m.wf = true := by
  simp only [Memory.wf, Bool.and_eq_true] at h; exact h.2

/-- Below the first entry of a memory in canonical form nothing is listed. -/
theorem Memory.read_below {m : Memory} {k : Nat} {v : Byte} {a : Nat} (h : Memory.wf ((k, v) :: m) = true) (ha : a ≤ k) :
    m.read a = unlisted a := by
  cases m with
  | nil => rfl
  | cons e r =>
    obtain ⟨j, w⟩ := e
    simp only [Memory.wf, Bool.and_eq_true, decide_eq_true_eq] at h
    have hlt : k < j := h.1.2
    simp only [Memory.read]
    rw [if_neg (by omega), if_pos (by omega)]

@[simp] theorem Memory.read_write_self (m : Memory) (a : Nat) (b : Byte) (h : m.wf = true) : (m.write a b).read a = b := by
  induction m with
  | nil => simp only [Memory.write]; split <;> simp_all [Memory.read]
  | cons e r ih =>
    obtain ⟨k, v⟩ := e
    simp only [Memory.write]
    split
    · subst_vars
      split
      · subst_vars; exact Memory.read_below h (Nat.le_refl _)
      · simp [Memory.read]
    · split
      · split
        · subst_vars; simp [Memory.read, *]
        · simp [Memory.read]
      · simp [Memory.read, *, ih (Memory.wf_tail h)]

theorem Memory.read_write_ne (m : Memory) {a a' : Nat} (b : Byte) (h : m.wf = true) (hn : a' ≠ a) :
    (m.write a b).read a' = m.read a' := by
  induction m with
  | nil => simp only [Memory.write]; split <;> simp [Memory.read, hn]
  | cons e r ih =>
    obtain ⟨k, v⟩ := e
    simp only [Memory.write]
    split
    · subst_vars
      split
      · simp only [Memory.read, hn, if_false]
        split
        · exact Memory.read_below h (by omega)
        · rfl
      · simp [Memory.read, hn]
    · split
      · split
        · rfl
        · simp only [Memory.read, hn, if_false]
          split
          · rw [if_neg (by omega), if_pos (by omega)]
          · rfl
      · simp [Memory.read, ih (Memory.wf_tail h)]

/-- One byte written: what every address reads as afterwards. -/
theorem Memory.read_write (m : Memory) (a a' : Nat) (b : Byte) (h : m.wf = true) :
    (m.write a b).read a' = if a' = a then b else m.read a' := by
  split
  · subst_vars; exact Memory.read_write_self m a' b h
  · exact Memory.read_write_ne m b h ‹_›

/-- What a canonical memory with a first entry needs of a new first entry. -/
theorem Memory.wf_cons {k : Nat} {v : Byte} {m : Memory} (hv : v ≠ unlisted k)
    (hk : ∀ j w r, m = (j, w) :: r → k < j) (hm : m.wf = true) : Memory.wf ((k, v) :: m) = true := by
  cases m with
  | nil => simp [Memory.wf, hv]
  | cons e r =>
    obtain ⟨j, w⟩ := e
    have := hk j w r rfl
    simp only [Memory.wf, Bool.and_eq_true] at hm ⊢
    simp [hv, this, hm]

/-- A write keeps the canonical form. -/
theorem Memory.write_wf (m : Memory) (a : Nat) (b : Byte) (h : m.wf = true) : (m.write a b).wf = true := by
  induction m with
  | nil =>
    simp only [Memory.write]
    split
    · rfl
    · exact Memory.wf_cons ‹_› (by intro j w r hr; cases hr) rfl
  | cons e r ih =>
    obtain ⟨k, v⟩ := e
    have ht := Memory.wf_tail h
    have hv : v ≠ unlisted k := by simp only [Memory.wf, Bool.and_eq_true, bne_iff_ne] at h; exact h.1.1
    have hlt : ∀ j w t, r = (j, w) :: t → k < j := by
      intro j w t hr; subst hr; simp only [Memory.wf, Bool.and_eq_true, decide_eq_true_eq] at h; exact h.1.2
    simp only [Memory.write]
    split
    · subst_vars
      split
      · exact ht
      · exact Memory.wf_cons ‹_› hlt ht
    · split
      · split
        · exact h
        · refine Memory.wf_cons ‹_› ?_ h
          intro j w t ht'; cases ht'; omega
      · refine Memory.wf_cons hv ?_ (ih ht)
        intro j w t hr
        cases r with
        | nil =>
          simp only [Memory.write] at hr
          split at hr
          · cases hr
          · cases hr; omega
        | cons e r' =>
          obtain ⟨q, u⟩ := e
          have hq := hlt q u r' rfl
          simp only [Memory.write] at hr
          split at hr
          · split at hr
            · have := Memory.wf_tail h
              subst_vars
              rename_i hz _
              simp only [Memory.wf, Bool.and_eq_true, decide_eq_true_eq] at this
              have := this.1.2
              omega
            · cases hr; omega
          · split at hr
            · split at hr
              · cases hr; omega
              · cases hr; omega
            · cases hr; omega

/-- Consecutive writes keep the canonical form. -/
theorem Memory.writeList_wf (m : Memory) (a : Nat) (bs : List Byte) (h : m.wf = true) : (m.writeList a bs).wf = true := by
  induction bs generalizing m a with
  | nil => exact h
  | cons b bs ih => exact ih _ _ (Memory.write_wf m a b h)

theorem Memory.writeNat_wf (m : Memory) (a n x : Nat) (h : m.wf = true) : (m.writeNat a n x).wf = true :=
  Memory.writeList_wf m a _ h

/-- A byte outside a written range reads as before. -/
theorem Memory.read_writeList_outside (m : Memory) (a a' : Nat) (bs : List Byte) (h : m.wf = true)
    (ho : a' < a ∨ a + bs.length ≤ a') : (m.writeList a bs).read a' = m.read a' := by
  induction bs generalizing m a with
  | nil => rfl
  | cons b bs ih =>
    simp only [List.length_cons] at ho
    rw [Memory.writeList, ih _ _ (Memory.write_wf m a b h) (by omega), Memory.read_write_ne m b h (by omega)]

/-- Byte i of a written range reads as written. -/
theorem Memory.read_writeList_inside (m : Memory) (a i : Nat) (bs : List Byte) (h : m.wf = true) (hi : i < bs.length) :
    (m.writeList a bs).read (a + i) = bs[i] := by
  induction bs generalizing m a i with
  | nil => simp at hi
  | cons b bs ih =>
    rw [Memory.writeList]
    cases i with
    | zero =>
      rw [Nat.add_zero, Memory.read_writeList_outside _ _ _ _ (Memory.write_wf m a b h) (by omega)]
      exact Memory.read_write_self m a b h
    | succ i =>
      simp only [List.length_cons] at hi
      have := ih (m.write a b) (a + 1) i (Memory.write_wf m a b h) (by omega)
      rw [show a + (i + 1) = a + 1 + i by omega, this]; rfl

/-- The memory of a reset machine lists nothing. -/
theorem Memory.empty_wf : Memory.wf [] = true := rfl

/-- The first entry of a canonical memory has the lowest address. -/
theorem Memory.wf_lt {r : Memory} {k : Nat} {v : Byte} (h : Memory.wf ((k, v) :: r) = true) {j : Nat} {w : Byte} (hm : (j, w) ∈ r) : k < j := by
  induction r generalizing k v with
  | nil => cases hm
  | cons f r' ih =>
    obtain ⟨i, x⟩ := f
    have hki : k < i := by simp only [Memory.wf, Bool.and_eq_true] at h; simpa using h.1.2
    rcases List.mem_cons.mp hm with e | e
    · cases e; exact hki
    · exact Nat.lt_trans hki (ih (Memory.wf_tail h) e)

/-- Leaving entries out of a canonical memory keeps the form. -/
theorem Memory.filter_wf (m : Memory) (p : Nat × Byte → Bool) (h : m.wf = true) : Memory.wf (m.filter p) = true := by
  induction m with
  | nil => rfl
  | cons e r ih =>
    obtain ⟨k, v⟩ := e
    have ht := Memory.wf_tail h
    simp only [List.filter_cons]
    split
    · have hv : v ≠ unlisted k := by simp only [Memory.wf, Bool.and_eq_true] at h; simpa using h.1.1
      refine Memory.wf_cons hv ?_ (ih ht)
      intro j w q hq
      exact Memory.wf_lt h (List.mem_filter.mp (hq ▸ List.mem_cons_self ..)).1
    · exact ih ht

end Sys2Proof.Machine
end

