-- ==== Sys2Proof/Laws/State.lean ====
section
/-! SUPPORT. Every field of the state after every update of one of its parts, and parts read after they are replaced. -/
namespace Sys2Proof.Machine

@[simp] theorem State.setCore_mem (s : State) (c : Nat) (k : Core) : (s.setCore c k).mem = s.mem := rfl
@[simp] theorem State.setCore_emptyTags (s : State) (c : Nat) (k : Core) : (s.setCore c k).emptyTags = s.emptyTags := rfl
@[simp] theorem State.setCore_tainted (s : State) (c : Nat) (k : Core) : (s.setCore c k).tainted = s.tainted := rfl
@[simp] theorem State.setCore_flips (s : State) (c : Nat) (k : Core) : (s.setCore c k).flips = s.flips := rfl
@[simp] theorem State.setCore_poison (s : State) (c : Nat) (k : Core) : (s.setCore c k).poison = s.poison := rfl
@[simp] theorem State.setCore_wgrade (s : State) (c : Nat) (k : Core) : (s.setCore c k).wgrade = s.wgrade := rfl
@[simp] theorem State.setCore_tick (s : State) (c : Nat) (k : Core) : (s.setCore c k).tick = s.tick := rfl
@[simp] theorem State.setCore_hb (s : State) (c : Nat) (k : Core) : (s.setCore c k).hb = s.hb := rfl
@[simp] theorem State.setCore_hbTick (s : State) (c : Nat) (k : Core) : (s.setCore c k).hbTick = s.hbTick := rfl
@[simp] theorem State.setCore_clusters (s : State) (c : Nat) (k : Core) : (s.setCore c k).clusters = s.clusters := rfl
@[simp] theorem State.setCore_stackTab (s : State) (c : Nat) (k : Core) : (s.setCore c k).stackTab = s.stackTab := rfl
@[simp] theorem State.setCore_contexts (s : State) (c : Nat) (k : Core) : (s.setCore c k).contexts = s.contexts := rfl
@[simp] theorem State.setCore_launches (s : State) (c : Nat) (k : Core) : (s.setCore c k).launches = s.launches := rfl
@[simp] theorem State.setCore_events (s : State) (c : Nat) (k : Core) : (s.setCore c k).events = s.events := rfl
@[simp] theorem State.setCore_verts (s : State) (c : Nat) (k : Core) : (s.setCore c k).verts = s.verts := rfl
@[simp] theorem State.setCore_draws (s : State) (c : Nat) (k : Core) : (s.setCore c k).draws = s.draws := rfl
@[simp] theorem State.setCore_nextDraw (s : State) (c : Nat) (k : Core) : (s.setCore c k).nextDraw = s.nextDraw := rfl
@[simp] theorem State.setCore_links (s : State) (c : Nat) (k : Core) : (s.setCore c k).links = s.links := rfl
@[simp] theorem State.setCore_bundles (s : State) (c : Nat) (k : Core) : (s.setCore c k).bundles = s.bundles := rfl
@[simp] theorem State.setCore_traces (s : State) (c : Nat) (k : Core) : (s.setCore c k).traces = s.traces := rfl
@[simp] theorem State.setCore_queues (s : State) (c : Nat) (k : Core) : (s.setCore c k).queues = s.queues := rfl
@[simp] theorem State.setCore_streams (s : State) (c : Nat) (k : Core) : (s.setCore c k).streams = s.streams := rfl
@[simp] theorem State.setCore_dev (s : State) (c : Nat) (k : Core) : (s.setCore c k).dev = s.dev := rfl
@[simp] theorem State.setCore_tagReqs (s : State) (c : Nat) (k : Core) : (s.setCore c k).tagReqs = s.tagReqs := rfl
@[simp] theorem State.setCore_parked (s : State) (c : Nat) (k : Core) : (s.setCore c k).parked = s.parked := rfl
@[simp] theorem State.setCore_replies (s : State) (c : Nat) (k : Core) : (s.setCore c k).replies = s.replies := rfl
@[simp] theorem State.setCore_resv (s : State) (c : Nat) (k : Core) : (s.setCore c k).resv = s.resv := rfl
@[simp] theorem State.setCore_pkts (s : State) (c : Nat) (k : Core) : (s.setCore c k).pkts = s.pkts := rfl
@[simp] theorem State.setCore_agenda (s : State) (c : Nat) (k : Core) : (s.setCore c k).agenda = s.agenda := rfl
@[simp] theorem State.setCore_pick (s : State) (c : Nat) (k : Core) : (s.setCore c k).pick = s.pick := rfl
@[simp] theorem State.setCore_free (s : State) (c : Nat) (k : Core) : (s.setCore c k).free = s.free := rfl
@[simp] theorem State.setCore_nextId (s : State) (c : Nat) (k : Core) : (s.setCore c k).nextId = s.nextId := rfl

@[simp] theorem State.setClu_mem (s : State) (i : Nat) (x : Cluster) : (s.setClu i x).mem = s.mem := rfl
@[simp] theorem State.setClu_emptyTags (s : State) (i : Nat) (x : Cluster) : (s.setClu i x).emptyTags = s.emptyTags := rfl
@[simp] theorem State.setClu_tainted (s : State) (i : Nat) (x : Cluster) : (s.setClu i x).tainted = s.tainted := rfl
@[simp] theorem State.setClu_flips (s : State) (i : Nat) (x : Cluster) : (s.setClu i x).flips = s.flips := rfl
@[simp] theorem State.setClu_poison (s : State) (i : Nat) (x : Cluster) : (s.setClu i x).poison = s.poison := rfl
@[simp] theorem State.setClu_wgrade (s : State) (i : Nat) (x : Cluster) : (s.setClu i x).wgrade = s.wgrade := rfl
@[simp] theorem State.setClu_tick (s : State) (i : Nat) (x : Cluster) : (s.setClu i x).tick = s.tick := rfl
@[simp] theorem State.setClu_hb (s : State) (i : Nat) (x : Cluster) : (s.setClu i x).hb = s.hb := rfl
@[simp] theorem State.setClu_hbTick (s : State) (i : Nat) (x : Cluster) : (s.setClu i x).hbTick = s.hbTick := rfl
@[simp] theorem State.setClu_cores (s : State) (i : Nat) (x : Cluster) : (s.setClu i x).cores = s.cores := rfl
@[simp] theorem State.setClu_stackTab (s : State) (i : Nat) (x : Cluster) : (s.setClu i x).stackTab = s.stackTab := rfl
@[simp] theorem State.setClu_contexts (s : State) (i : Nat) (x : Cluster) : (s.setClu i x).contexts = s.contexts := rfl
@[simp] theorem State.setClu_launches (s : State) (i : Nat) (x : Cluster) : (s.setClu i x).launches = s.launches := rfl
@[simp] theorem State.setClu_events (s : State) (i : Nat) (x : Cluster) : (s.setClu i x).events = s.events := rfl
@[simp] theorem State.setClu_verts (s : State) (i : Nat) (x : Cluster) : (s.setClu i x).verts = s.verts := rfl
@[simp] theorem State.setClu_draws (s : State) (i : Nat) (x : Cluster) : (s.setClu i x).draws = s.draws := rfl
@[simp] theorem State.setClu_nextDraw (s : State) (i : Nat) (x : Cluster) : (s.setClu i x).nextDraw = s.nextDraw := rfl
@[simp] theorem State.setClu_links (s : State) (i : Nat) (x : Cluster) : (s.setClu i x).links = s.links := rfl
@[simp] theorem State.setClu_bundles (s : State) (i : Nat) (x : Cluster) : (s.setClu i x).bundles = s.bundles := rfl
@[simp] theorem State.setClu_traces (s : State) (i : Nat) (x : Cluster) : (s.setClu i x).traces = s.traces := rfl
@[simp] theorem State.setClu_queues (s : State) (i : Nat) (x : Cluster) : (s.setClu i x).queues = s.queues := rfl
@[simp] theorem State.setClu_streams (s : State) (i : Nat) (x : Cluster) : (s.setClu i x).streams = s.streams := rfl
@[simp] theorem State.setClu_dev (s : State) (i : Nat) (x : Cluster) : (s.setClu i x).dev = s.dev := rfl
@[simp] theorem State.setClu_tagReqs (s : State) (i : Nat) (x : Cluster) : (s.setClu i x).tagReqs = s.tagReqs := rfl
@[simp] theorem State.setClu_parked (s : State) (i : Nat) (x : Cluster) : (s.setClu i x).parked = s.parked := rfl
@[simp] theorem State.setClu_replies (s : State) (i : Nat) (x : Cluster) : (s.setClu i x).replies = s.replies := rfl
@[simp] theorem State.setClu_resv (s : State) (i : Nat) (x : Cluster) : (s.setClu i x).resv = s.resv := rfl
@[simp] theorem State.setClu_pkts (s : State) (i : Nat) (x : Cluster) : (s.setClu i x).pkts = s.pkts := rfl
@[simp] theorem State.setClu_agenda (s : State) (i : Nat) (x : Cluster) : (s.setClu i x).agenda = s.agenda := rfl
@[simp] theorem State.setClu_pick (s : State) (i : Nat) (x : Cluster) : (s.setClu i x).pick = s.pick := rfl
@[simp] theorem State.setClu_free (s : State) (i : Nat) (x : Cluster) : (s.setClu i x).free = s.free := rfl
@[simp] theorem State.setClu_nextId (s : State) (i : Nat) (x : Cluster) : (s.setClu i x).nextId = s.nextId := rfl

@[simp] theorem State.setStack_mem (s : State) (i : Nat) (x : Stack) : (s.setStack i x).mem = s.mem := rfl
@[simp] theorem State.setStack_emptyTags (s : State) (i : Nat) (x : Stack) : (s.setStack i x).emptyTags = s.emptyTags := rfl
@[simp] theorem State.setStack_tainted (s : State) (i : Nat) (x : Stack) : (s.setStack i x).tainted = s.tainted := rfl
@[simp] theorem State.setStack_flips (s : State) (i : Nat) (x : Stack) : (s.setStack i x).flips = s.flips := rfl
@[simp] theorem State.setStack_poison (s : State) (i : Nat) (x : Stack) : (s.setStack i x).poison = s.poison := rfl
@[simp] theorem State.setStack_wgrade (s : State) (i : Nat) (x : Stack) : (s.setStack i x).wgrade = s.wgrade := rfl
@[simp] theorem State.setStack_tick (s : State) (i : Nat) (x : Stack) : (s.setStack i x).tick = s.tick := rfl
@[simp] theorem State.setStack_hb (s : State) (i : Nat) (x : Stack) : (s.setStack i x).hb = s.hb := rfl
@[simp] theorem State.setStack_hbTick (s : State) (i : Nat) (x : Stack) : (s.setStack i x).hbTick = s.hbTick := rfl
@[simp] theorem State.setStack_cores (s : State) (i : Nat) (x : Stack) : (s.setStack i x).cores = s.cores := rfl
@[simp] theorem State.setStack_clusters (s : State) (i : Nat) (x : Stack) : (s.setStack i x).clusters = s.clusters := rfl
@[simp] theorem State.setStack_contexts (s : State) (i : Nat) (x : Stack) : (s.setStack i x).contexts = s.contexts := rfl
@[simp] theorem State.setStack_launches (s : State) (i : Nat) (x : Stack) : (s.setStack i x).launches = s.launches := rfl
@[simp] theorem State.setStack_events (s : State) (i : Nat) (x : Stack) : (s.setStack i x).events = s.events := rfl
@[simp] theorem State.setStack_verts (s : State) (i : Nat) (x : Stack) : (s.setStack i x).verts = s.verts := rfl
@[simp] theorem State.setStack_draws (s : State) (i : Nat) (x : Stack) : (s.setStack i x).draws = s.draws := rfl
@[simp] theorem State.setStack_nextDraw (s : State) (i : Nat) (x : Stack) : (s.setStack i x).nextDraw = s.nextDraw := rfl
@[simp] theorem State.setStack_links (s : State) (i : Nat) (x : Stack) : (s.setStack i x).links = s.links := rfl
@[simp] theorem State.setStack_bundles (s : State) (i : Nat) (x : Stack) : (s.setStack i x).bundles = s.bundles := rfl
@[simp] theorem State.setStack_traces (s : State) (i : Nat) (x : Stack) : (s.setStack i x).traces = s.traces := rfl
@[simp] theorem State.setStack_queues (s : State) (i : Nat) (x : Stack) : (s.setStack i x).queues = s.queues := rfl
@[simp] theorem State.setStack_streams (s : State) (i : Nat) (x : Stack) : (s.setStack i x).streams = s.streams := rfl
@[simp] theorem State.setStack_dev (s : State) (i : Nat) (x : Stack) : (s.setStack i x).dev = s.dev := rfl
@[simp] theorem State.setStack_tagReqs (s : State) (i : Nat) (x : Stack) : (s.setStack i x).tagReqs = s.tagReqs := rfl
@[simp] theorem State.setStack_parked (s : State) (i : Nat) (x : Stack) : (s.setStack i x).parked = s.parked := rfl
@[simp] theorem State.setStack_replies (s : State) (i : Nat) (x : Stack) : (s.setStack i x).replies = s.replies := rfl
@[simp] theorem State.setStack_resv (s : State) (i : Nat) (x : Stack) : (s.setStack i x).resv = s.resv := rfl
@[simp] theorem State.setStack_pkts (s : State) (i : Nat) (x : Stack) : (s.setStack i x).pkts = s.pkts := rfl
@[simp] theorem State.setStack_agenda (s : State) (i : Nat) (x : Stack) : (s.setStack i x).agenda = s.agenda := rfl
@[simp] theorem State.setStack_pick (s : State) (i : Nat) (x : Stack) : (s.setStack i x).pick = s.pick := rfl
@[simp] theorem State.setStack_free (s : State) (i : Nat) (x : Stack) : (s.setStack i x).free = s.free := rfl
@[simp] theorem State.setStack_nextId (s : State) (i : Nat) (x : Stack) : (s.setStack i x).nextId = s.nextId := rfl

@[simp] theorem State.setCtx_mem (s : State) (i : Nat) (x : Context) : (s.setCtx i x).mem = s.mem := rfl
@[simp] theorem State.setCtx_emptyTags (s : State) (i : Nat) (x : Context) : (s.setCtx i x).emptyTags = s.emptyTags := rfl
@[simp] theorem State.setCtx_tainted (s : State) (i : Nat) (x : Context) : (s.setCtx i x).tainted = s.tainted := rfl
@[simp] theorem State.setCtx_flips (s : State) (i : Nat) (x : Context) : (s.setCtx i x).flips = s.flips := rfl
@[simp] theorem State.setCtx_poison (s : State) (i : Nat) (x : Context) : (s.setCtx i x).poison = s.poison := rfl
@[simp] theorem State.setCtx_wgrade (s : State) (i : Nat) (x : Context) : (s.setCtx i x).wgrade = s.wgrade := rfl
@[simp] theorem State.setCtx_tick (s : State) (i : Nat) (x : Context) : (s.setCtx i x).tick = s.tick := rfl
@[simp] theorem State.setCtx_hb (s : State) (i : Nat) (x : Context) : (s.setCtx i x).hb = s.hb := rfl
@[simp] theorem State.setCtx_hbTick (s : State) (i : Nat) (x : Context) : (s.setCtx i x).hbTick = s.hbTick := rfl
@[simp] theorem State.setCtx_cores (s : State) (i : Nat) (x : Context) : (s.setCtx i x).cores = s.cores := rfl
@[simp] theorem State.setCtx_clusters (s : State) (i : Nat) (x : Context) : (s.setCtx i x).clusters = s.clusters := rfl
@[simp] theorem State.setCtx_stackTab (s : State) (i : Nat) (x : Context) : (s.setCtx i x).stackTab = s.stackTab := rfl
@[simp] theorem State.setCtx_launches (s : State) (i : Nat) (x : Context) : (s.setCtx i x).launches = s.launches := rfl
@[simp] theorem State.setCtx_events (s : State) (i : Nat) (x : Context) : (s.setCtx i x).events = s.events := rfl
@[simp] theorem State.setCtx_verts (s : State) (i : Nat) (x : Context) : (s.setCtx i x).verts = s.verts := rfl
@[simp] theorem State.setCtx_draws (s : State) (i : Nat) (x : Context) : (s.setCtx i x).draws = s.draws := rfl
@[simp] theorem State.setCtx_nextDraw (s : State) (i : Nat) (x : Context) : (s.setCtx i x).nextDraw = s.nextDraw := rfl
@[simp] theorem State.setCtx_links (s : State) (i : Nat) (x : Context) : (s.setCtx i x).links = s.links := rfl
@[simp] theorem State.setCtx_bundles (s : State) (i : Nat) (x : Context) : (s.setCtx i x).bundles = s.bundles := rfl
@[simp] theorem State.setCtx_traces (s : State) (i : Nat) (x : Context) : (s.setCtx i x).traces = s.traces := rfl
@[simp] theorem State.setCtx_queues (s : State) (i : Nat) (x : Context) : (s.setCtx i x).queues = s.queues := rfl
@[simp] theorem State.setCtx_streams (s : State) (i : Nat) (x : Context) : (s.setCtx i x).streams = s.streams := rfl
@[simp] theorem State.setCtx_dev (s : State) (i : Nat) (x : Context) : (s.setCtx i x).dev = s.dev := rfl
@[simp] theorem State.setCtx_tagReqs (s : State) (i : Nat) (x : Context) : (s.setCtx i x).tagReqs = s.tagReqs := rfl
@[simp] theorem State.setCtx_parked (s : State) (i : Nat) (x : Context) : (s.setCtx i x).parked = s.parked := rfl
@[simp] theorem State.setCtx_replies (s : State) (i : Nat) (x : Context) : (s.setCtx i x).replies = s.replies := rfl
@[simp] theorem State.setCtx_resv (s : State) (i : Nat) (x : Context) : (s.setCtx i x).resv = s.resv := rfl
@[simp] theorem State.setCtx_pkts (s : State) (i : Nat) (x : Context) : (s.setCtx i x).pkts = s.pkts := rfl
@[simp] theorem State.setCtx_agenda (s : State) (i : Nat) (x : Context) : (s.setCtx i x).agenda = s.agenda := rfl
@[simp] theorem State.setCtx_pick (s : State) (i : Nat) (x : Context) : (s.setCtx i x).pick = s.pick := rfl
@[simp] theorem State.setCtx_free (s : State) (i : Nat) (x : Context) : (s.setCtx i x).free = s.free := rfl
@[simp] theorem State.setCtx_nextId (s : State) (i : Nat) (x : Context) : (s.setCtx i x).nextId = s.nextId := rfl

@[simp] theorem State.setTrace_mem (s : State) (i : Nat) (x : Trace) : (s.setTrace i x).mem = s.mem := rfl
@[simp] theorem State.setTrace_emptyTags (s : State) (i : Nat) (x : Trace) : (s.setTrace i x).emptyTags = s.emptyTags := rfl
@[simp] theorem State.setTrace_tainted (s : State) (i : Nat) (x : Trace) : (s.setTrace i x).tainted = s.tainted := rfl
@[simp] theorem State.setTrace_flips (s : State) (i : Nat) (x : Trace) : (s.setTrace i x).flips = s.flips := rfl
@[simp] theorem State.setTrace_poison (s : State) (i : Nat) (x : Trace) : (s.setTrace i x).poison = s.poison := rfl
@[simp] theorem State.setTrace_wgrade (s : State) (i : Nat) (x : Trace) : (s.setTrace i x).wgrade = s.wgrade := rfl
@[simp] theorem State.setTrace_tick (s : State) (i : Nat) (x : Trace) : (s.setTrace i x).tick = s.tick := rfl
@[simp] theorem State.setTrace_hb (s : State) (i : Nat) (x : Trace) : (s.setTrace i x).hb = s.hb := rfl
@[simp] theorem State.setTrace_hbTick (s : State) (i : Nat) (x : Trace) : (s.setTrace i x).hbTick = s.hbTick := rfl
@[simp] theorem State.setTrace_cores (s : State) (i : Nat) (x : Trace) : (s.setTrace i x).cores = s.cores := rfl
@[simp] theorem State.setTrace_clusters (s : State) (i : Nat) (x : Trace) : (s.setTrace i x).clusters = s.clusters := rfl
@[simp] theorem State.setTrace_stackTab (s : State) (i : Nat) (x : Trace) : (s.setTrace i x).stackTab = s.stackTab := rfl
@[simp] theorem State.setTrace_contexts (s : State) (i : Nat) (x : Trace) : (s.setTrace i x).contexts = s.contexts := rfl
@[simp] theorem State.setTrace_launches (s : State) (i : Nat) (x : Trace) : (s.setTrace i x).launches = s.launches := rfl
@[simp] theorem State.setTrace_events (s : State) (i : Nat) (x : Trace) : (s.setTrace i x).events = s.events := rfl
@[simp] theorem State.setTrace_verts (s : State) (i : Nat) (x : Trace) : (s.setTrace i x).verts = s.verts := rfl
@[simp] theorem State.setTrace_draws (s : State) (i : Nat) (x : Trace) : (s.setTrace i x).draws = s.draws := rfl
@[simp] theorem State.setTrace_nextDraw (s : State) (i : Nat) (x : Trace) : (s.setTrace i x).nextDraw = s.nextDraw := rfl
@[simp] theorem State.setTrace_links (s : State) (i : Nat) (x : Trace) : (s.setTrace i x).links = s.links := rfl
@[simp] theorem State.setTrace_bundles (s : State) (i : Nat) (x : Trace) : (s.setTrace i x).bundles = s.bundles := rfl
@[simp] theorem State.setTrace_queues (s : State) (i : Nat) (x : Trace) : (s.setTrace i x).queues = s.queues := rfl
@[simp] theorem State.setTrace_streams (s : State) (i : Nat) (x : Trace) : (s.setTrace i x).streams = s.streams := rfl
@[simp] theorem State.setTrace_dev (s : State) (i : Nat) (x : Trace) : (s.setTrace i x).dev = s.dev := rfl
@[simp] theorem State.setTrace_tagReqs (s : State) (i : Nat) (x : Trace) : (s.setTrace i x).tagReqs = s.tagReqs := rfl
@[simp] theorem State.setTrace_parked (s : State) (i : Nat) (x : Trace) : (s.setTrace i x).parked = s.parked := rfl
@[simp] theorem State.setTrace_replies (s : State) (i : Nat) (x : Trace) : (s.setTrace i x).replies = s.replies := rfl
@[simp] theorem State.setTrace_resv (s : State) (i : Nat) (x : Trace) : (s.setTrace i x).resv = s.resv := rfl
@[simp] theorem State.setTrace_pkts (s : State) (i : Nat) (x : Trace) : (s.setTrace i x).pkts = s.pkts := rfl
@[simp] theorem State.setTrace_agenda (s : State) (i : Nat) (x : Trace) : (s.setTrace i x).agenda = s.agenda := rfl
@[simp] theorem State.setTrace_pick (s : State) (i : Nat) (x : Trace) : (s.setTrace i x).pick = s.pick := rfl
@[simp] theorem State.setTrace_free (s : State) (i : Nat) (x : Trace) : (s.setTrace i x).free = s.free := rfl
@[simp] theorem State.setTrace_nextId (s : State) (i : Nat) (x : Trace) : (s.setTrace i x).nextId = s.nextId := rfl

@[simp] theorem State.setQueue_mem (s : State) (i : Nat) (x : Queue) : (s.setQueue i x).mem = s.mem := rfl
@[simp] theorem State.setQueue_emptyTags (s : State) (i : Nat) (x : Queue) : (s.setQueue i x).emptyTags = s.emptyTags := rfl
@[simp] theorem State.setQueue_tainted (s : State) (i : Nat) (x : Queue) : (s.setQueue i x).tainted = s.tainted := rfl
@[simp] theorem State.setQueue_flips (s : State) (i : Nat) (x : Queue) : (s.setQueue i x).flips = s.flips := rfl
@[simp] theorem State.setQueue_poison (s : State) (i : Nat) (x : Queue) : (s.setQueue i x).poison = s.poison := rfl
@[simp] theorem State.setQueue_wgrade (s : State) (i : Nat) (x : Queue) : (s.setQueue i x).wgrade = s.wgrade := rfl
@[simp] theorem State.setQueue_tick (s : State) (i : Nat) (x : Queue) : (s.setQueue i x).tick = s.tick := rfl
@[simp] theorem State.setQueue_hb (s : State) (i : Nat) (x : Queue) : (s.setQueue i x).hb = s.hb := rfl
@[simp] theorem State.setQueue_hbTick (s : State) (i : Nat) (x : Queue) : (s.setQueue i x).hbTick = s.hbTick := rfl
@[simp] theorem State.setQueue_cores (s : State) (i : Nat) (x : Queue) : (s.setQueue i x).cores = s.cores := rfl
@[simp] theorem State.setQueue_clusters (s : State) (i : Nat) (x : Queue) : (s.setQueue i x).clusters = s.clusters := rfl
@[simp] theorem State.setQueue_stackTab (s : State) (i : Nat) (x : Queue) : (s.setQueue i x).stackTab = s.stackTab := rfl
@[simp] theorem State.setQueue_contexts (s : State) (i : Nat) (x : Queue) : (s.setQueue i x).contexts = s.contexts := rfl
@[simp] theorem State.setQueue_launches (s : State) (i : Nat) (x : Queue) : (s.setQueue i x).launches = s.launches := rfl
@[simp] theorem State.setQueue_events (s : State) (i : Nat) (x : Queue) : (s.setQueue i x).events = s.events := rfl
@[simp] theorem State.setQueue_verts (s : State) (i : Nat) (x : Queue) : (s.setQueue i x).verts = s.verts := rfl
@[simp] theorem State.setQueue_draws (s : State) (i : Nat) (x : Queue) : (s.setQueue i x).draws = s.draws := rfl
@[simp] theorem State.setQueue_nextDraw (s : State) (i : Nat) (x : Queue) : (s.setQueue i x).nextDraw = s.nextDraw := rfl
@[simp] theorem State.setQueue_links (s : State) (i : Nat) (x : Queue) : (s.setQueue i x).links = s.links := rfl
@[simp] theorem State.setQueue_bundles (s : State) (i : Nat) (x : Queue) : (s.setQueue i x).bundles = s.bundles := rfl
@[simp] theorem State.setQueue_traces (s : State) (i : Nat) (x : Queue) : (s.setQueue i x).traces = s.traces := rfl
@[simp] theorem State.setQueue_streams (s : State) (i : Nat) (x : Queue) : (s.setQueue i x).streams = s.streams := rfl
@[simp] theorem State.setQueue_dev (s : State) (i : Nat) (x : Queue) : (s.setQueue i x).dev = s.dev := rfl
@[simp] theorem State.setQueue_tagReqs (s : State) (i : Nat) (x : Queue) : (s.setQueue i x).tagReqs = s.tagReqs := rfl
@[simp] theorem State.setQueue_parked (s : State) (i : Nat) (x : Queue) : (s.setQueue i x).parked = s.parked := rfl
@[simp] theorem State.setQueue_replies (s : State) (i : Nat) (x : Queue) : (s.setQueue i x).replies = s.replies := rfl
@[simp] theorem State.setQueue_resv (s : State) (i : Nat) (x : Queue) : (s.setQueue i x).resv = s.resv := rfl
@[simp] theorem State.setQueue_pkts (s : State) (i : Nat) (x : Queue) : (s.setQueue i x).pkts = s.pkts := rfl
@[simp] theorem State.setQueue_agenda (s : State) (i : Nat) (x : Queue) : (s.setQueue i x).agenda = s.agenda := rfl
@[simp] theorem State.setQueue_pick (s : State) (i : Nat) (x : Queue) : (s.setQueue i x).pick = s.pick := rfl
@[simp] theorem State.setQueue_free (s : State) (i : Nat) (x : Queue) : (s.setQueue i x).free = s.free := rfl
@[simp] theorem State.setQueue_nextId (s : State) (i : Nat) (x : Queue) : (s.setQueue i x).nextId = s.nextId := rfl

@[simp] theorem State.setStream_mem (s : State) (i : Nat) (x : Stream) : (s.setStream i x).mem = s.mem := rfl
@[simp] theorem State.setStream_emptyTags (s : State) (i : Nat) (x : Stream) : (s.setStream i x).emptyTags = s.emptyTags := rfl
@[simp] theorem State.setStream_tainted (s : State) (i : Nat) (x : Stream) : (s.setStream i x).tainted = s.tainted := rfl
@[simp] theorem State.setStream_flips (s : State) (i : Nat) (x : Stream) : (s.setStream i x).flips = s.flips := rfl
@[simp] theorem State.setStream_poison (s : State) (i : Nat) (x : Stream) : (s.setStream i x).poison = s.poison := rfl
@[simp] theorem State.setStream_wgrade (s : State) (i : Nat) (x : Stream) : (s.setStream i x).wgrade = s.wgrade := rfl
@[simp] theorem State.setStream_tick (s : State) (i : Nat) (x : Stream) : (s.setStream i x).tick = s.tick := rfl
@[simp] theorem State.setStream_hb (s : State) (i : Nat) (x : Stream) : (s.setStream i x).hb = s.hb := rfl
@[simp] theorem State.setStream_hbTick (s : State) (i : Nat) (x : Stream) : (s.setStream i x).hbTick = s.hbTick := rfl
@[simp] theorem State.setStream_cores (s : State) (i : Nat) (x : Stream) : (s.setStream i x).cores = s.cores := rfl
@[simp] theorem State.setStream_clusters (s : State) (i : Nat) (x : Stream) : (s.setStream i x).clusters = s.clusters := rfl
@[simp] theorem State.setStream_stackTab (s : State) (i : Nat) (x : Stream) : (s.setStream i x).stackTab = s.stackTab := rfl
@[simp] theorem State.setStream_contexts (s : State) (i : Nat) (x : Stream) : (s.setStream i x).contexts = s.contexts := rfl
@[simp] theorem State.setStream_launches (s : State) (i : Nat) (x : Stream) : (s.setStream i x).launches = s.launches := rfl
@[simp] theorem State.setStream_events (s : State) (i : Nat) (x : Stream) : (s.setStream i x).events = s.events := rfl
@[simp] theorem State.setStream_verts (s : State) (i : Nat) (x : Stream) : (s.setStream i x).verts = s.verts := rfl
@[simp] theorem State.setStream_draws (s : State) (i : Nat) (x : Stream) : (s.setStream i x).draws = s.draws := rfl
@[simp] theorem State.setStream_nextDraw (s : State) (i : Nat) (x : Stream) : (s.setStream i x).nextDraw = s.nextDraw := rfl
@[simp] theorem State.setStream_links (s : State) (i : Nat) (x : Stream) : (s.setStream i x).links = s.links := rfl
@[simp] theorem State.setStream_bundles (s : State) (i : Nat) (x : Stream) : (s.setStream i x).bundles = s.bundles := rfl
@[simp] theorem State.setStream_traces (s : State) (i : Nat) (x : Stream) : (s.setStream i x).traces = s.traces := rfl
@[simp] theorem State.setStream_queues (s : State) (i : Nat) (x : Stream) : (s.setStream i x).queues = s.queues := rfl
@[simp] theorem State.setStream_dev (s : State) (i : Nat) (x : Stream) : (s.setStream i x).dev = s.dev := rfl
@[simp] theorem State.setStream_tagReqs (s : State) (i : Nat) (x : Stream) : (s.setStream i x).tagReqs = s.tagReqs := rfl
@[simp] theorem State.setStream_parked (s : State) (i : Nat) (x : Stream) : (s.setStream i x).parked = s.parked := rfl
@[simp] theorem State.setStream_replies (s : State) (i : Nat) (x : Stream) : (s.setStream i x).replies = s.replies := rfl
@[simp] theorem State.setStream_resv (s : State) (i : Nat) (x : Stream) : (s.setStream i x).resv = s.resv := rfl
@[simp] theorem State.setStream_pkts (s : State) (i : Nat) (x : Stream) : (s.setStream i x).pkts = s.pkts := rfl
@[simp] theorem State.setStream_agenda (s : State) (i : Nat) (x : Stream) : (s.setStream i x).agenda = s.agenda := rfl
@[simp] theorem State.setStream_pick (s : State) (i : Nat) (x : Stream) : (s.setStream i x).pick = s.pick := rfl
@[simp] theorem State.setStream_free (s : State) (i : Nat) (x : Stream) : (s.setStream i x).free = s.free := rfl
@[simp] theorem State.setStream_nextId (s : State) (i : Nat) (x : Stream) : (s.setStream i x).nextId = s.nextId := rfl

@[simp] theorem State.setLaunch_mem (s : State) (i : Nat) (x : Launch) : (s.setLaunch i x).mem = s.mem := rfl
@[simp] theorem State.setLaunch_emptyTags (s : State) (i : Nat) (x : Launch) : (s.setLaunch i x).emptyTags = s.emptyTags := rfl
@[simp] theorem State.setLaunch_tainted (s : State) (i : Nat) (x : Launch) : (s.setLaunch i x).tainted = s.tainted := rfl
@[simp] theorem State.setLaunch_flips (s : State) (i : Nat) (x : Launch) : (s.setLaunch i x).flips = s.flips := rfl
@[simp] theorem State.setLaunch_poison (s : State) (i : Nat) (x : Launch) : (s.setLaunch i x).poison = s.poison := rfl
@[simp] theorem State.setLaunch_wgrade (s : State) (i : Nat) (x : Launch) : (s.setLaunch i x).wgrade = s.wgrade := rfl
@[simp] theorem State.setLaunch_tick (s : State) (i : Nat) (x : Launch) : (s.setLaunch i x).tick = s.tick := rfl
@[simp] theorem State.setLaunch_hb (s : State) (i : Nat) (x : Launch) : (s.setLaunch i x).hb = s.hb := rfl
@[simp] theorem State.setLaunch_hbTick (s : State) (i : Nat) (x : Launch) : (s.setLaunch i x).hbTick = s.hbTick := rfl
@[simp] theorem State.setLaunch_cores (s : State) (i : Nat) (x : Launch) : (s.setLaunch i x).cores = s.cores := rfl
@[simp] theorem State.setLaunch_clusters (s : State) (i : Nat) (x : Launch) : (s.setLaunch i x).clusters = s.clusters := rfl
@[simp] theorem State.setLaunch_stackTab (s : State) (i : Nat) (x : Launch) : (s.setLaunch i x).stackTab = s.stackTab := rfl
@[simp] theorem State.setLaunch_contexts (s : State) (i : Nat) (x : Launch) : (s.setLaunch i x).contexts = s.contexts := rfl
@[simp] theorem State.setLaunch_events (s : State) (i : Nat) (x : Launch) : (s.setLaunch i x).events = s.events := rfl
@[simp] theorem State.setLaunch_verts (s : State) (i : Nat) (x : Launch) : (s.setLaunch i x).verts = s.verts := rfl
@[simp] theorem State.setLaunch_draws (s : State) (i : Nat) (x : Launch) : (s.setLaunch i x).draws = s.draws := rfl
@[simp] theorem State.setLaunch_nextDraw (s : State) (i : Nat) (x : Launch) : (s.setLaunch i x).nextDraw = s.nextDraw := rfl
@[simp] theorem State.setLaunch_links (s : State) (i : Nat) (x : Launch) : (s.setLaunch i x).links = s.links := rfl
@[simp] theorem State.setLaunch_bundles (s : State) (i : Nat) (x : Launch) : (s.setLaunch i x).bundles = s.bundles := rfl
@[simp] theorem State.setLaunch_traces (s : State) (i : Nat) (x : Launch) : (s.setLaunch i x).traces = s.traces := rfl
@[simp] theorem State.setLaunch_queues (s : State) (i : Nat) (x : Launch) : (s.setLaunch i x).queues = s.queues := rfl
@[simp] theorem State.setLaunch_streams (s : State) (i : Nat) (x : Launch) : (s.setLaunch i x).streams = s.streams := rfl
@[simp] theorem State.setLaunch_dev (s : State) (i : Nat) (x : Launch) : (s.setLaunch i x).dev = s.dev := rfl
@[simp] theorem State.setLaunch_tagReqs (s : State) (i : Nat) (x : Launch) : (s.setLaunch i x).tagReqs = s.tagReqs := rfl
@[simp] theorem State.setLaunch_parked (s : State) (i : Nat) (x : Launch) : (s.setLaunch i x).parked = s.parked := rfl
@[simp] theorem State.setLaunch_replies (s : State) (i : Nat) (x : Launch) : (s.setLaunch i x).replies = s.replies := rfl
@[simp] theorem State.setLaunch_resv (s : State) (i : Nat) (x : Launch) : (s.setLaunch i x).resv = s.resv := rfl
@[simp] theorem State.setLaunch_pkts (s : State) (i : Nat) (x : Launch) : (s.setLaunch i x).pkts = s.pkts := rfl
@[simp] theorem State.setLaunch_agenda (s : State) (i : Nat) (x : Launch) : (s.setLaunch i x).agenda = s.agenda := rfl
@[simp] theorem State.setLaunch_pick (s : State) (i : Nat) (x : Launch) : (s.setLaunch i x).pick = s.pick := rfl
@[simp] theorem State.setLaunch_free (s : State) (i : Nat) (x : Launch) : (s.setLaunch i x).free = s.free := rfl
@[simp] theorem State.setLaunch_nextId (s : State) (i : Nat) (x : Launch) : (s.setLaunch i x).nextId = s.nextId := rfl

@[simp] theorem State.setLink_mem (s : State) (i : Nat) (x : Link) : (s.setLink i x).mem = s.mem := rfl
@[simp] theorem State.setLink_emptyTags (s : State) (i : Nat) (x : Link) : (s.setLink i x).emptyTags = s.emptyTags := rfl
@[simp] theorem State.setLink_tainted (s : State) (i : Nat) (x : Link) : (s.setLink i x).tainted = s.tainted := rfl
@[simp] theorem State.setLink_flips (s : State) (i : Nat) (x : Link) : (s.setLink i x).flips = s.flips := rfl
@[simp] theorem State.setLink_poison (s : State) (i : Nat) (x : Link) : (s.setLink i x).poison = s.poison := rfl
@[simp] theorem State.setLink_wgrade (s : State) (i : Nat) (x : Link) : (s.setLink i x).wgrade = s.wgrade := rfl
@[simp] theorem State.setLink_tick (s : State) (i : Nat) (x : Link) : (s.setLink i x).tick = s.tick := rfl
@[simp] theorem State.setLink_hb (s : State) (i : Nat) (x : Link) : (s.setLink i x).hb = s.hb := rfl
@[simp] theorem State.setLink_hbTick (s : State) (i : Nat) (x : Link) : (s.setLink i x).hbTick = s.hbTick := rfl
@[simp] theorem State.setLink_cores (s : State) (i : Nat) (x : Link) : (s.setLink i x).cores = s.cores := rfl
@[simp] theorem State.setLink_clusters (s : State) (i : Nat) (x : Link) : (s.setLink i x).clusters = s.clusters := rfl
@[simp] theorem State.setLink_stackTab (s : State) (i : Nat) (x : Link) : (s.setLink i x).stackTab = s.stackTab := rfl
@[simp] theorem State.setLink_contexts (s : State) (i : Nat) (x : Link) : (s.setLink i x).contexts = s.contexts := rfl
@[simp] theorem State.setLink_launches (s : State) (i : Nat) (x : Link) : (s.setLink i x).launches = s.launches := rfl
@[simp] theorem State.setLink_events (s : State) (i : Nat) (x : Link) : (s.setLink i x).events = s.events := rfl
@[simp] theorem State.setLink_verts (s : State) (i : Nat) (x : Link) : (s.setLink i x).verts = s.verts := rfl
@[simp] theorem State.setLink_draws (s : State) (i : Nat) (x : Link) : (s.setLink i x).draws = s.draws := rfl
@[simp] theorem State.setLink_nextDraw (s : State) (i : Nat) (x : Link) : (s.setLink i x).nextDraw = s.nextDraw := rfl
@[simp] theorem State.setLink_bundles (s : State) (i : Nat) (x : Link) : (s.setLink i x).bundles = s.bundles := rfl
@[simp] theorem State.setLink_traces (s : State) (i : Nat) (x : Link) : (s.setLink i x).traces = s.traces := rfl
@[simp] theorem State.setLink_queues (s : State) (i : Nat) (x : Link) : (s.setLink i x).queues = s.queues := rfl
@[simp] theorem State.setLink_streams (s : State) (i : Nat) (x : Link) : (s.setLink i x).streams = s.streams := rfl
@[simp] theorem State.setLink_dev (s : State) (i : Nat) (x : Link) : (s.setLink i x).dev = s.dev := rfl
@[simp] theorem State.setLink_tagReqs (s : State) (i : Nat) (x : Link) : (s.setLink i x).tagReqs = s.tagReqs := rfl
@[simp] theorem State.setLink_parked (s : State) (i : Nat) (x : Link) : (s.setLink i x).parked = s.parked := rfl
@[simp] theorem State.setLink_replies (s : State) (i : Nat) (x : Link) : (s.setLink i x).replies = s.replies := rfl
@[simp] theorem State.setLink_resv (s : State) (i : Nat) (x : Link) : (s.setLink i x).resv = s.resv := rfl
@[simp] theorem State.setLink_pkts (s : State) (i : Nat) (x : Link) : (s.setLink i x).pkts = s.pkts := rfl
@[simp] theorem State.setLink_agenda (s : State) (i : Nat) (x : Link) : (s.setLink i x).agenda = s.agenda := rfl
@[simp] theorem State.setLink_pick (s : State) (i : Nat) (x : Link) : (s.setLink i x).pick = s.pick := rfl
@[simp] theorem State.setLink_free (s : State) (i : Nat) (x : Link) : (s.setLink i x).free = s.free := rfl
@[simp] theorem State.setLink_nextId (s : State) (i : Nat) (x : Link) : (s.setLink i x).nextId = s.nextId := rfl

@[simp] theorem State.setStrandAt_mem (s : State) (c slot : Nat) (x : Strand) : (s.setStrandAt c slot x).mem = s.mem := rfl
@[simp] theorem State.setStrandAt_emptyTags (s : State) (c slot : Nat) (x : Strand) : (s.setStrandAt c slot x).emptyTags = s.emptyTags := rfl
@[simp] theorem State.setStrandAt_tainted (s : State) (c slot : Nat) (x : Strand) : (s.setStrandAt c slot x).tainted = s.tainted := rfl
@[simp] theorem State.setStrandAt_flips (s : State) (c slot : Nat) (x : Strand) : (s.setStrandAt c slot x).flips = s.flips := rfl
@[simp] theorem State.setStrandAt_poison (s : State) (c slot : Nat) (x : Strand) : (s.setStrandAt c slot x).poison = s.poison := rfl
@[simp] theorem State.setStrandAt_wgrade (s : State) (c slot : Nat) (x : Strand) : (s.setStrandAt c slot x).wgrade = s.wgrade := rfl
@[simp] theorem State.setStrandAt_tick (s : State) (c slot : Nat) (x : Strand) : (s.setStrandAt c slot x).tick = s.tick := rfl
@[simp] theorem State.setStrandAt_hb (s : State) (c slot : Nat) (x : Strand) : (s.setStrandAt c slot x).hb = s.hb := rfl
@[simp] theorem State.setStrandAt_hbTick (s : State) (c slot : Nat) (x : Strand) : (s.setStrandAt c slot x).hbTick = s.hbTick := rfl
@[simp] theorem State.setStrandAt_clusters (s : State) (c slot : Nat) (x : Strand) : (s.setStrandAt c slot x).clusters = s.clusters := rfl
@[simp] theorem State.setStrandAt_stackTab (s : State) (c slot : Nat) (x : Strand) : (s.setStrandAt c slot x).stackTab = s.stackTab := rfl
@[simp] theorem State.setStrandAt_contexts (s : State) (c slot : Nat) (x : Strand) : (s.setStrandAt c slot x).contexts = s.contexts := rfl
@[simp] theorem State.setStrandAt_launches (s : State) (c slot : Nat) (x : Strand) : (s.setStrandAt c slot x).launches = s.launches := rfl
@[simp] theorem State.setStrandAt_events (s : State) (c slot : Nat) (x : Strand) : (s.setStrandAt c slot x).events = s.events := rfl
@[simp] theorem State.setStrandAt_verts (s : State) (c slot : Nat) (x : Strand) : (s.setStrandAt c slot x).verts = s.verts := rfl
@[simp] theorem State.setStrandAt_draws (s : State) (c slot : Nat) (x : Strand) : (s.setStrandAt c slot x).draws = s.draws := rfl
@[simp] theorem State.setStrandAt_nextDraw (s : State) (c slot : Nat) (x : Strand) : (s.setStrandAt c slot x).nextDraw = s.nextDraw := rfl
@[simp] theorem State.setStrandAt_links (s : State) (c slot : Nat) (x : Strand) : (s.setStrandAt c slot x).links = s.links := rfl
@[simp] theorem State.setStrandAt_bundles (s : State) (c slot : Nat) (x : Strand) : (s.setStrandAt c slot x).bundles = s.bundles := rfl
@[simp] theorem State.setStrandAt_traces (s : State) (c slot : Nat) (x : Strand) : (s.setStrandAt c slot x).traces = s.traces := rfl
@[simp] theorem State.setStrandAt_queues (s : State) (c slot : Nat) (x : Strand) : (s.setStrandAt c slot x).queues = s.queues := rfl
@[simp] theorem State.setStrandAt_streams (s : State) (c slot : Nat) (x : Strand) : (s.setStrandAt c slot x).streams = s.streams := rfl
@[simp] theorem State.setStrandAt_dev (s : State) (c slot : Nat) (x : Strand) : (s.setStrandAt c slot x).dev = s.dev := rfl
@[simp] theorem State.setStrandAt_tagReqs (s : State) (c slot : Nat) (x : Strand) : (s.setStrandAt c slot x).tagReqs = s.tagReqs := rfl
@[simp] theorem State.setStrandAt_parked (s : State) (c slot : Nat) (x : Strand) : (s.setStrandAt c slot x).parked = s.parked := rfl
@[simp] theorem State.setStrandAt_replies (s : State) (c slot : Nat) (x : Strand) : (s.setStrandAt c slot x).replies = s.replies := rfl
@[simp] theorem State.setStrandAt_resv (s : State) (c slot : Nat) (x : Strand) : (s.setStrandAt c slot x).resv = s.resv := rfl
@[simp] theorem State.setStrandAt_pkts (s : State) (c slot : Nat) (x : Strand) : (s.setStrandAt c slot x).pkts = s.pkts := rfl
@[simp] theorem State.setStrandAt_agenda (s : State) (c slot : Nat) (x : Strand) : (s.setStrandAt c slot x).agenda = s.agenda := rfl
@[simp] theorem State.setStrandAt_pick (s : State) (c slot : Nat) (x : Strand) : (s.setStrandAt c slot x).pick = s.pick := rfl
@[simp] theorem State.setStrandAt_free (s : State) (c slot : Nat) (x : Strand) : (s.setStrandAt c slot x).free = s.free := rfl
@[simp] theorem State.setStrandAt_nextId (s : State) (c slot : Nat) (x : Strand) : (s.setStrandAt c slot x).nextId = s.nextId := rfl

@[simp] theorem State.setStrand_mem (s : State) (r : SplitRef) (x : Strand) : (s.setStrand r x).mem = s.mem := rfl
@[simp] theorem State.setStrand_emptyTags (s : State) (r : SplitRef) (x : Strand) : (s.setStrand r x).emptyTags = s.emptyTags := rfl
@[simp] theorem State.setStrand_tainted (s : State) (r : SplitRef) (x : Strand) : (s.setStrand r x).tainted = s.tainted := rfl
@[simp] theorem State.setStrand_flips (s : State) (r : SplitRef) (x : Strand) : (s.setStrand r x).flips = s.flips := rfl
@[simp] theorem State.setStrand_poison (s : State) (r : SplitRef) (x : Strand) : (s.setStrand r x).poison = s.poison := rfl
@[simp] theorem State.setStrand_wgrade (s : State) (r : SplitRef) (x : Strand) : (s.setStrand r x).wgrade = s.wgrade := rfl
@[simp] theorem State.setStrand_tick (s : State) (r : SplitRef) (x : Strand) : (s.setStrand r x).tick = s.tick := rfl
@[simp] theorem State.setStrand_hb (s : State) (r : SplitRef) (x : Strand) : (s.setStrand r x).hb = s.hb := rfl
@[simp] theorem State.setStrand_hbTick (s : State) (r : SplitRef) (x : Strand) : (s.setStrand r x).hbTick = s.hbTick := rfl
@[simp] theorem State.setStrand_clusters (s : State) (r : SplitRef) (x : Strand) : (s.setStrand r x).clusters = s.clusters := rfl
@[simp] theorem State.setStrand_stackTab (s : State) (r : SplitRef) (x : Strand) : (s.setStrand r x).stackTab = s.stackTab := rfl
@[simp] theorem State.setStrand_contexts (s : State) (r : SplitRef) (x : Strand) : (s.setStrand r x).contexts = s.contexts := rfl
@[simp] theorem State.setStrand_launches (s : State) (r : SplitRef) (x : Strand) : (s.setStrand r x).launches = s.launches := rfl
@[simp] theorem State.setStrand_events (s : State) (r : SplitRef) (x : Strand) : (s.setStrand r x).events = s.events := rfl
@[simp] theorem State.setStrand_verts (s : State) (r : SplitRef) (x : Strand) : (s.setStrand r x).verts = s.verts := rfl
@[simp] theorem State.setStrand_draws (s : State) (r : SplitRef) (x : Strand) : (s.setStrand r x).draws = s.draws := rfl
@[simp] theorem State.setStrand_nextDraw (s : State) (r : SplitRef) (x : Strand) : (s.setStrand r x).nextDraw = s.nextDraw := rfl
@[simp] theorem State.setStrand_links (s : State) (r : SplitRef) (x : Strand) : (s.setStrand r x).links = s.links := rfl
@[simp] theorem State.setStrand_bundles (s : State) (r : SplitRef) (x : Strand) : (s.setStrand r x).bundles = s.bundles := rfl
@[simp] theorem State.setStrand_traces (s : State) (r : SplitRef) (x : Strand) : (s.setStrand r x).traces = s.traces := rfl
@[simp] theorem State.setStrand_queues (s : State) (r : SplitRef) (x : Strand) : (s.setStrand r x).queues = s.queues := rfl
@[simp] theorem State.setStrand_streams (s : State) (r : SplitRef) (x : Strand) : (s.setStrand r x).streams = s.streams := rfl
@[simp] theorem State.setStrand_dev (s : State) (r : SplitRef) (x : Strand) : (s.setStrand r x).dev = s.dev := rfl
@[simp] theorem State.setStrand_tagReqs (s : State) (r : SplitRef) (x : Strand) : (s.setStrand r x).tagReqs = s.tagReqs := rfl
@[simp] theorem State.setStrand_parked (s : State) (r : SplitRef) (x : Strand) : (s.setStrand r x).parked = s.parked := rfl
@[simp] theorem State.setStrand_replies (s : State) (r : SplitRef) (x : Strand) : (s.setStrand r x).replies = s.replies := rfl
@[simp] theorem State.setStrand_resv (s : State) (r : SplitRef) (x : Strand) : (s.setStrand r x).resv = s.resv := rfl
@[simp] theorem State.setStrand_pkts (s : State) (r : SplitRef) (x : Strand) : (s.setStrand r x).pkts = s.pkts := rfl
@[simp] theorem State.setStrand_agenda (s : State) (r : SplitRef) (x : Strand) : (s.setStrand r x).agenda = s.agenda := rfl
@[simp] theorem State.setStrand_pick (s : State) (r : SplitRef) (x : Strand) : (s.setStrand r x).pick = s.pick := rfl
@[simp] theorem State.setStrand_free (s : State) (r : SplitRef) (x : Strand) : (s.setStrand r x).free = s.free := rfl
@[simp] theorem State.setStrand_nextId (s : State) (r : SplitRef) (x : Strand) : (s.setStrand r x).nextId = s.nextId := rfl

@[simp] theorem State.setSplit_mem (s : State) (r : SplitRef) (x : Split) : (s.setSplit r x).mem = s.mem := rfl
@[simp] theorem State.setSplit_emptyTags (s : State) (r : SplitRef) (x : Split) : (s.setSplit r x).emptyTags = s.emptyTags := rfl
@[simp] theorem State.setSplit_tainted (s : State) (r : SplitRef) (x : Split) : (s.setSplit r x).tainted = s.tainted := rfl
@[simp] theorem State.setSplit_flips (s : State) (r : SplitRef) (x : Split) : (s.setSplit r x).flips = s.flips := rfl
@[simp] theorem State.setSplit_poison (s : State) (r : SplitRef) (x : Split) : (s.setSplit r x).poison = s.poison := rfl
@[simp] theorem State.setSplit_wgrade (s : State) (r : SplitRef) (x : Split) : (s.setSplit r x).wgrade = s.wgrade := rfl
@[simp] theorem State.setSplit_tick (s : State) (r : SplitRef) (x : Split) : (s.setSplit r x).tick = s.tick := rfl
@[simp] theorem State.setSplit_hb (s : State) (r : SplitRef) (x : Split) : (s.setSplit r x).hb = s.hb := rfl
@[simp] theorem State.setSplit_hbTick (s : State) (r : SplitRef) (x : Split) : (s.setSplit r x).hbTick = s.hbTick := rfl
@[simp] theorem State.setSplit_clusters (s : State) (r : SplitRef) (x : Split) : (s.setSplit r x).clusters = s.clusters := rfl
@[simp] theorem State.setSplit_stackTab (s : State) (r : SplitRef) (x : Split) : (s.setSplit r x).stackTab = s.stackTab := rfl
@[simp] theorem State.setSplit_contexts (s : State) (r : SplitRef) (x : Split) : (s.setSplit r x).contexts = s.contexts := rfl
@[simp] theorem State.setSplit_launches (s : State) (r : SplitRef) (x : Split) : (s.setSplit r x).launches = s.launches := rfl
@[simp] theorem State.setSplit_events (s : State) (r : SplitRef) (x : Split) : (s.setSplit r x).events = s.events := rfl
@[simp] theorem State.setSplit_verts (s : State) (r : SplitRef) (x : Split) : (s.setSplit r x).verts = s.verts := rfl
@[simp] theorem State.setSplit_draws (s : State) (r : SplitRef) (x : Split) : (s.setSplit r x).draws = s.draws := rfl
@[simp] theorem State.setSplit_nextDraw (s : State) (r : SplitRef) (x : Split) : (s.setSplit r x).nextDraw = s.nextDraw := rfl
@[simp] theorem State.setSplit_links (s : State) (r : SplitRef) (x : Split) : (s.setSplit r x).links = s.links := rfl
@[simp] theorem State.setSplit_bundles (s : State) (r : SplitRef) (x : Split) : (s.setSplit r x).bundles = s.bundles := rfl
@[simp] theorem State.setSplit_traces (s : State) (r : SplitRef) (x : Split) : (s.setSplit r x).traces = s.traces := rfl
@[simp] theorem State.setSplit_queues (s : State) (r : SplitRef) (x : Split) : (s.setSplit r x).queues = s.queues := rfl
@[simp] theorem State.setSplit_streams (s : State) (r : SplitRef) (x : Split) : (s.setSplit r x).streams = s.streams := rfl
@[simp] theorem State.setSplit_dev (s : State) (r : SplitRef) (x : Split) : (s.setSplit r x).dev = s.dev := rfl
@[simp] theorem State.setSplit_tagReqs (s : State) (r : SplitRef) (x : Split) : (s.setSplit r x).tagReqs = s.tagReqs := rfl
@[simp] theorem State.setSplit_parked (s : State) (r : SplitRef) (x : Split) : (s.setSplit r x).parked = s.parked := rfl
@[simp] theorem State.setSplit_replies (s : State) (r : SplitRef) (x : Split) : (s.setSplit r x).replies = s.replies := rfl
@[simp] theorem State.setSplit_resv (s : State) (r : SplitRef) (x : Split) : (s.setSplit r x).resv = s.resv := rfl
@[simp] theorem State.setSplit_pkts (s : State) (r : SplitRef) (x : Split) : (s.setSplit r x).pkts = s.pkts := rfl
@[simp] theorem State.setSplit_agenda (s : State) (r : SplitRef) (x : Split) : (s.setSplit r x).agenda = s.agenda := rfl
@[simp] theorem State.setSplit_pick (s : State) (r : SplitRef) (x : Split) : (s.setSplit r x).pick = s.pick := rfl
@[simp] theorem State.setSplit_free (s : State) (r : SplitRef) (x : Split) : (s.setSplit r x).free = s.free := rfl
@[simp] theorem State.setSplit_nextId (s : State) (r : SplitRef) (x : Split) : (s.setSplit r x).nextId = s.nextId := rfl

@[simp] theorem State.draw_mem (s : State) : s.draw.1.mem = s.mem := rfl
@[simp] theorem State.draw_emptyTags (s : State) : s.draw.1.emptyTags = s.emptyTags := rfl
@[simp] theorem State.draw_tainted (s : State) : s.draw.1.tainted = s.tainted := rfl
@[simp] theorem State.draw_flips (s : State) : s.draw.1.flips = s.flips := rfl
@[simp] theorem State.draw_poison (s : State) : s.draw.1.poison = s.poison := rfl
@[simp] theorem State.draw_wgrade (s : State) : s.draw.1.wgrade = s.wgrade := rfl
@[simp] theorem State.draw_tick (s : State) : s.draw.1.tick = s.tick := rfl
@[simp] theorem State.draw_hb (s : State) : s.draw.1.hb = s.hb := rfl
@[simp] theorem State.draw_hbTick (s : State) : s.draw.1.hbTick = s.hbTick := rfl
@[simp] theorem State.draw_cores (s : State) : s.draw.1.cores = s.cores := rfl
@[simp] theorem State.draw_clusters (s : State) : s.draw.1.clusters = s.clusters := rfl
@[simp] theorem State.draw_stackTab (s : State) : s.draw.1.stackTab = s.stackTab := rfl
@[simp] theorem State.draw_contexts (s : State) : s.draw.1.contexts = s.contexts := rfl
@[simp] theorem State.draw_launches (s : State) : s.draw.1.launches = s.launches := rfl
@[simp] theorem State.draw_events (s : State) : s.draw.1.events = s.events := rfl
@[simp] theorem State.draw_verts (s : State) : s.draw.1.verts = s.verts := rfl
@[simp] theorem State.draw_draws (s : State) : s.draw.1.draws = s.draws := rfl
@[simp] theorem State.draw_nextDraw (s : State) : s.draw.1.nextDraw = s.nextDraw := rfl
@[simp] theorem State.draw_links (s : State) : s.draw.1.links = s.links := rfl
@[simp] theorem State.draw_bundles (s : State) : s.draw.1.bundles = s.bundles := rfl
@[simp] theorem State.draw_traces (s : State) : s.draw.1.traces = s.traces := rfl
@[simp] theorem State.draw_queues (s : State) : s.draw.1.queues = s.queues := rfl
@[simp] theorem State.draw_streams (s : State) : s.draw.1.streams = s.streams := rfl
@[simp] theorem State.draw_dev (s : State) : s.draw.1.dev = s.dev := rfl
@[simp] theorem State.draw_tagReqs (s : State) : s.draw.1.tagReqs = s.tagReqs := rfl
@[simp] theorem State.draw_parked (s : State) : s.draw.1.parked = s.parked := rfl
@[simp] theorem State.draw_replies (s : State) : s.draw.1.replies = s.replies := rfl
@[simp] theorem State.draw_resv (s : State) : s.draw.1.resv = s.resv := rfl
@[simp] theorem State.draw_pkts (s : State) : s.draw.1.pkts = s.pkts := rfl
@[simp] theorem State.draw_agenda (s : State) : s.draw.1.agenda = s.agenda := rfl
@[simp] theorem State.draw_pick (s : State) : s.draw.1.pick = s.pick := rfl
@[simp] theorem State.draw_nextId (s : State) : s.draw.1.nextId = s.nextId := rfl

@[simp] theorem State.fresh_mem (s : State) : s.fresh.1.mem = s.mem := rfl
@[simp] theorem State.fresh_emptyTags (s : State) : s.fresh.1.emptyTags = s.emptyTags := rfl
@[simp] theorem State.fresh_tainted (s : State) : s.fresh.1.tainted = s.tainted := rfl
@[simp] theorem State.fresh_flips (s : State) : s.fresh.1.flips = s.flips := rfl
@[simp] theorem State.fresh_poison (s : State) : s.fresh.1.poison = s.poison := rfl
@[simp] theorem State.fresh_wgrade (s : State) : s.fresh.1.wgrade = s.wgrade := rfl
@[simp] theorem State.fresh_tick (s : State) : s.fresh.1.tick = s.tick := rfl
@[simp] theorem State.fresh_hb (s : State) : s.fresh.1.hb = s.hb := rfl
@[simp] theorem State.fresh_hbTick (s : State) : s.fresh.1.hbTick = s.hbTick := rfl
@[simp] theorem State.fresh_cores (s : State) : s.fresh.1.cores = s.cores := rfl
@[simp] theorem State.fresh_clusters (s : State) : s.fresh.1.clusters = s.clusters := rfl
@[simp] theorem State.fresh_stackTab (s : State) : s.fresh.1.stackTab = s.stackTab := rfl
@[simp] theorem State.fresh_contexts (s : State) : s.fresh.1.contexts = s.contexts := rfl
@[simp] theorem State.fresh_launches (s : State) : s.fresh.1.launches = s.launches := rfl
@[simp] theorem State.fresh_events (s : State) : s.fresh.1.events = s.events := rfl
@[simp] theorem State.fresh_verts (s : State) : s.fresh.1.verts = s.verts := rfl
@[simp] theorem State.fresh_draws (s : State) : s.fresh.1.draws = s.draws := rfl
@[simp] theorem State.fresh_nextDraw (s : State) : s.fresh.1.nextDraw = s.nextDraw := rfl
@[simp] theorem State.fresh_links (s : State) : s.fresh.1.links = s.links := rfl
@[simp] theorem State.fresh_bundles (s : State) : s.fresh.1.bundles = s.bundles := rfl
@[simp] theorem State.fresh_traces (s : State) : s.fresh.1.traces = s.traces := rfl
@[simp] theorem State.fresh_queues (s : State) : s.fresh.1.queues = s.queues := rfl
@[simp] theorem State.fresh_streams (s : State) : s.fresh.1.streams = s.streams := rfl
@[simp] theorem State.fresh_dev (s : State) : s.fresh.1.dev = s.dev := rfl
@[simp] theorem State.fresh_tagReqs (s : State) : s.fresh.1.tagReqs = s.tagReqs := rfl
@[simp] theorem State.fresh_parked (s : State) : s.fresh.1.parked = s.parked := rfl
@[simp] theorem State.fresh_replies (s : State) : s.fresh.1.replies = s.replies := rfl
@[simp] theorem State.fresh_resv (s : State) : s.fresh.1.resv = s.resv := rfl
@[simp] theorem State.fresh_pkts (s : State) : s.fresh.1.pkts = s.pkts := rfl
@[simp] theorem State.fresh_agenda (s : State) : s.fresh.1.agenda = s.agenda := rfl
@[simp] theorem State.fresh_pick (s : State) : s.fresh.1.pick = s.pick := rfl
@[simp] theorem State.fresh_free (s : State) : s.fresh.1.free = s.free := rfl

@[simp] theorem State.core_setCore (s : State) (i : Nat) (x : Core) : (s.setCore i x).core i = x := Tab.get_set_self _ _ _ _
theorem State.core_setCore_ne (s : State) {i j : Nat} (x : Core) (h : j ≠ i) : (s.setCore i x).core j = s.core j :=
  Tab.get_set_ne _ _ _ h
@[simp] theorem State.clu_setCore (s : State) (i j : Nat) (x : Core) : (s.setCore i x).clu j = s.clu j := rfl
@[simp] theorem State.stack_setCore (s : State) (i j : Nat) (x : Core) : (s.setCore i x).stack j = s.stack j := rfl
@[simp] theorem State.ctx_setCore (s : State) (i j : Nat) (x : Core) : (s.setCore i x).ctx j = s.ctx j := rfl
@[simp] theorem State.trace_setCore (s : State) (i j : Nat) (x : Core) : (s.setCore i x).trace j = s.trace j := rfl
@[simp] theorem State.queue_setCore (s : State) (i j : Nat) (x : Core) : (s.setCore i x).queue j = s.queue j := rfl
@[simp] theorem State.stream_setCore (s : State) (i j : Nat) (x : Core) : (s.setCore i x).stream j = s.stream j := rfl
@[simp] theorem State.link_setCore (s : State) (i j : Nat) (x : Core) : (s.setCore i x).link j = s.link j := rfl
@[simp] theorem State.clu_setClu (s : State) (i : Nat) (x : Cluster) : (s.setClu i x).clu i = x := Tab.get_set_self _ _ _ _
theorem State.clu_setClu_ne (s : State) {i j : Nat} (x : Cluster) (h : j ≠ i) : (s.setClu i x).clu j = s.clu j :=
  Tab.get_set_ne _ _ _ h
@[simp] theorem State.core_setClu (s : State) (i j : Nat) (x : Cluster) : (s.setClu i x).core j = s.core j := rfl
@[simp] theorem State.stack_setClu (s : State) (i j : Nat) (x : Cluster) : (s.setClu i x).stack j = s.stack j := rfl
@[simp] theorem State.ctx_setClu (s : State) (i j : Nat) (x : Cluster) : (s.setClu i x).ctx j = s.ctx j := rfl
@[simp] theorem State.trace_setClu (s : State) (i j : Nat) (x : Cluster) : (s.setClu i x).trace j = s.trace j := rfl
@[simp] theorem State.queue_setClu (s : State) (i j : Nat) (x : Cluster) : (s.setClu i x).queue j = s.queue j := rfl
@[simp] theorem State.stream_setClu (s : State) (i j : Nat) (x : Cluster) : (s.setClu i x).stream j = s.stream j := rfl
@[simp] theorem State.link_setClu (s : State) (i j : Nat) (x : Cluster) : (s.setClu i x).link j = s.link j := rfl
@[simp] theorem State.stack_setStack (s : State) (i : Nat) (x : Stack) : (s.setStack i x).stack i = x := Tab.get_set_self _ _ _ _
theorem State.stack_setStack_ne (s : State) {i j : Nat} (x : Stack) (h : j ≠ i) : (s.setStack i x).stack j = s.stack j :=
  Tab.get_set_ne _ _ _ h
@[simp] theorem State.core_setStack (s : State) (i j : Nat) (x : Stack) : (s.setStack i x).core j = s.core j := rfl
@[simp] theorem State.clu_setStack (s : State) (i j : Nat) (x : Stack) : (s.setStack i x).clu j = s.clu j := rfl
@[simp] theorem State.ctx_setStack (s : State) (i j : Nat) (x : Stack) : (s.setStack i x).ctx j = s.ctx j := rfl
@[simp] theorem State.trace_setStack (s : State) (i j : Nat) (x : Stack) : (s.setStack i x).trace j = s.trace j := rfl
@[simp] theorem State.queue_setStack (s : State) (i j : Nat) (x : Stack) : (s.setStack i x).queue j = s.queue j := rfl
@[simp] theorem State.stream_setStack (s : State) (i j : Nat) (x : Stack) : (s.setStack i x).stream j = s.stream j := rfl
@[simp] theorem State.link_setStack (s : State) (i j : Nat) (x : Stack) : (s.setStack i x).link j = s.link j := rfl
@[simp] theorem State.ctx_setCtx (s : State) (i : Nat) (x : Context) : (s.setCtx i x).ctx i = x := Tab.get_set_self _ _ _ _
theorem State.ctx_setCtx_ne (s : State) {i j : Nat} (x : Context) (h : j ≠ i) : (s.setCtx i x).ctx j = s.ctx j :=
  Tab.get_set_ne _ _ _ h
@[simp] theorem State.core_setCtx (s : State) (i j : Nat) (x : Context) : (s.setCtx i x).core j = s.core j := rfl
@[simp] theorem State.clu_setCtx (s : State) (i j : Nat) (x : Context) : (s.setCtx i x).clu j = s.clu j := rfl
@[simp] theorem State.stack_setCtx (s : State) (i j : Nat) (x : Context) : (s.setCtx i x).stack j = s.stack j := rfl
@[simp] theorem State.trace_setCtx (s : State) (i j : Nat) (x : Context) : (s.setCtx i x).trace j = s.trace j := rfl
@[simp] theorem State.queue_setCtx (s : State) (i j : Nat) (x : Context) : (s.setCtx i x).queue j = s.queue j := rfl
@[simp] theorem State.stream_setCtx (s : State) (i j : Nat) (x : Context) : (s.setCtx i x).stream j = s.stream j := rfl
@[simp] theorem State.link_setCtx (s : State) (i j : Nat) (x : Context) : (s.setCtx i x).link j = s.link j := rfl
@[simp] theorem State.trace_setTrace (s : State) (i : Nat) (x : Trace) : (s.setTrace i x).trace i = x := Tab.get_set_self _ _ _ _
theorem State.trace_setTrace_ne (s : State) {i j : Nat} (x : Trace) (h : j ≠ i) : (s.setTrace i x).trace j = s.trace j :=
  Tab.get_set_ne _ _ _ h
@[simp] theorem State.core_setTrace (s : State) (i j : Nat) (x : Trace) : (s.setTrace i x).core j = s.core j := rfl
@[simp] theorem State.clu_setTrace (s : State) (i j : Nat) (x : Trace) : (s.setTrace i x).clu j = s.clu j := rfl
@[simp] theorem State.stack_setTrace (s : State) (i j : Nat) (x : Trace) : (s.setTrace i x).stack j = s.stack j := rfl
@[simp] theorem State.ctx_setTrace (s : State) (i j : Nat) (x : Trace) : (s.setTrace i x).ctx j = s.ctx j := rfl
@[simp] theorem State.queue_setTrace (s : State) (i j : Nat) (x : Trace) : (s.setTrace i x).queue j = s.queue j := rfl
@[simp] theorem State.stream_setTrace (s : State) (i j : Nat) (x : Trace) : (s.setTrace i x).stream j = s.stream j := rfl
@[simp] theorem State.link_setTrace (s : State) (i j : Nat) (x : Trace) : (s.setTrace i x).link j = s.link j := rfl
@[simp] theorem State.queue_setQueue (s : State) (i : Nat) (x : Queue) : (s.setQueue i x).queue i = x := Tab.get_set_self _ _ _ _
theorem State.queue_setQueue_ne (s : State) {i j : Nat} (x : Queue) (h : j ≠ i) : (s.setQueue i x).queue j = s.queue j :=
  Tab.get_set_ne _ _ _ h
@[simp] theorem State.core_setQueue (s : State) (i j : Nat) (x : Queue) : (s.setQueue i x).core j = s.core j := rfl
@[simp] theorem State.clu_setQueue (s : State) (i j : Nat) (x : Queue) : (s.setQueue i x).clu j = s.clu j := rfl
@[simp] theorem State.stack_setQueue (s : State) (i j : Nat) (x : Queue) : (s.setQueue i x).stack j = s.stack j := rfl
@[simp] theorem State.ctx_setQueue (s : State) (i j : Nat) (x : Queue) : (s.setQueue i x).ctx j = s.ctx j := rfl
@[simp] theorem State.trace_setQueue (s : State) (i j : Nat) (x : Queue) : (s.setQueue i x).trace j = s.trace j := rfl
@[simp] theorem State.stream_setQueue (s : State) (i j : Nat) (x : Queue) : (s.setQueue i x).stream j = s.stream j := rfl
@[simp] theorem State.link_setQueue (s : State) (i j : Nat) (x : Queue) : (s.setQueue i x).link j = s.link j := rfl
@[simp] theorem State.stream_setStream (s : State) (i : Nat) (x : Stream) : (s.setStream i x).stream i = x := Tab.get_set_self _ _ _ _
theorem State.stream_setStream_ne (s : State) {i j : Nat} (x : Stream) (h : j ≠ i) : (s.setStream i x).stream j = s.stream j :=
  Tab.get_set_ne _ _ _ h
@[simp] theorem State.core_setStream (s : State) (i j : Nat) (x : Stream) : (s.setStream i x).core j = s.core j := rfl
@[simp] theorem State.clu_setStream (s : State) (i j : Nat) (x : Stream) : (s.setStream i x).clu j = s.clu j := rfl
@[simp] theorem State.stack_setStream (s : State) (i j : Nat) (x : Stream) : (s.setStream i x).stack j = s.stack j := rfl
@[simp] theorem State.ctx_setStream (s : State) (i j : Nat) (x : Stream) : (s.setStream i x).ctx j = s.ctx j := rfl
@[simp] theorem State.trace_setStream (s : State) (i j : Nat) (x : Stream) : (s.setStream i x).trace j = s.trace j := rfl
@[simp] theorem State.queue_setStream (s : State) (i j : Nat) (x : Stream) : (s.setStream i x).queue j = s.queue j := rfl
@[simp] theorem State.link_setStream (s : State) (i j : Nat) (x : Stream) : (s.setStream i x).link j = s.link j := rfl
@[simp] theorem State.link_setLink (s : State) (i : Nat) (x : Link) : (s.setLink i x).link i = x := Tab.get_set_self _ _ _ _
theorem State.link_setLink_ne (s : State) {i j : Nat} (x : Link) (h : j ≠ i) : (s.setLink i x).link j = s.link j :=
  Tab.get_set_ne _ _ _ h
@[simp] theorem State.core_setLink (s : State) (i j : Nat) (x : Link) : (s.setLink i x).core j = s.core j := rfl
@[simp] theorem State.clu_setLink (s : State) (i j : Nat) (x : Link) : (s.setLink i x).clu j = s.clu j := rfl
@[simp] theorem State.stack_setLink (s : State) (i j : Nat) (x : Link) : (s.setLink i x).stack j = s.stack j := rfl
@[simp] theorem State.ctx_setLink (s : State) (i j : Nat) (x : Link) : (s.setLink i x).ctx j = s.ctx j := rfl
@[simp] theorem State.trace_setLink (s : State) (i j : Nat) (x : Link) : (s.setLink i x).trace j = s.trace j := rfl
@[simp] theorem State.queue_setLink (s : State) (i j : Nat) (x : Link) : (s.setLink i x).queue j = s.queue j := rfl
@[simp] theorem State.stream_setLink (s : State) (i j : Nat) (x : Link) : (s.setLink i x).stream j = s.stream j := rfl
@[simp] theorem State.strandAt_setClu (s : State) (i c slot : Nat) (x : Cluster) : (s.setClu i x).strandAt c slot = s.strandAt c slot := rfl
@[simp] theorem State.strand_setClu (s : State) (i : Nat) (r : SplitRef) (x : Cluster) : (s.setClu i x).strand r = s.strand r := rfl
@[simp] theorem State.split_setClu (s : State) (i : Nat) (r : SplitRef) (x : Cluster) : (s.setClu i x).split r = s.split r := rfl
@[simp] theorem State.clu_setStrandAt (s : State) (j : Nat) (c slot : Nat) (x : Strand) : (s.setStrandAt c slot x).clu j = s.clu j := rfl
@[simp] theorem State.clu_setStrand (s : State) (j : Nat) (r : SplitRef) (x : Strand) : (s.setStrand r x).clu j = s.clu j := rfl
@[simp] theorem State.clu_setSplit (s : State) (j : Nat) (r : SplitRef) (x : Split) : (s.setSplit r x).clu j = s.clu j := rfl
@[simp] theorem State.strandAt_setStack (s : State) (i c slot : Nat) (x : Stack) : (s.setStack i x).strandAt c slot = s.strandAt c slot := rfl
@[simp] theorem State.strand_setStack (s : State) (i : Nat) (r : SplitRef) (x : Stack) : (s.setStack i x).strand r = s.strand r := rfl
@[simp] theorem State.split_setStack (s : State) (i : Nat) (r : SplitRef) (x : Stack) : (s.setStack i x).split r = s.split r := rfl
@[simp] theorem State.stack_setStrandAt (s : State) (j : Nat) (c slot : Nat) (x : Strand) : (s.setStrandAt c slot x).stack j = s.stack j := rfl
@[simp] theorem State.stack_setStrand (s : State) (j : Nat) (r : SplitRef) (x : Strand) : (s.setStrand r x).stack j = s.stack j := rfl
@[simp] theorem State.stack_setSplit (s : State) (j : Nat) (r : SplitRef) (x : Split) : (s.setSplit r x).stack j = s.stack j := rfl
@[simp] theorem State.strandAt_setCtx (s : State) (i c slot : Nat) (x : Context) : (s.setCtx i x).strandAt c slot = s.strandAt c slot := rfl
@[simp] theorem State.strand_setCtx (s : State) (i : Nat) (r : SplitRef) (x : Context) : (s.setCtx i x).strand r = s.strand r := rfl
@[simp] theorem State.split_setCtx (s : State) (i : Nat) (r : SplitRef) (x : Context) : (s.setCtx i x).split r = s.split r := rfl
@[simp] theorem State.ctx_setStrandAt (s : State) (j : Nat) (c slot : Nat) (x : Strand) : (s.setStrandAt c slot x).ctx j = s.ctx j := rfl
@[simp] theorem State.ctx_setStrand (s : State) (j : Nat) (r : SplitRef) (x : Strand) : (s.setStrand r x).ctx j = s.ctx j := rfl
@[simp] theorem State.ctx_setSplit (s : State) (j : Nat) (r : SplitRef) (x : Split) : (s.setSplit r x).ctx j = s.ctx j := rfl
@[simp] theorem State.strandAt_setTrace (s : State) (i c slot : Nat) (x : Trace) : (s.setTrace i x).strandAt c slot = s.strandAt c slot := rfl
@[simp] theorem State.strand_setTrace (s : State) (i : Nat) (r : SplitRef) (x : Trace) : (s.setTrace i x).strand r = s.strand r := rfl
@[simp] theorem State.split_setTrace (s : State) (i : Nat) (r : SplitRef) (x : Trace) : (s.setTrace i x).split r = s.split r := rfl
@[simp] theorem State.trace_setStrandAt (s : State) (j : Nat) (c slot : Nat) (x : Strand) : (s.setStrandAt c slot x).trace j = s.trace j := rfl
@[simp] theorem State.trace_setStrand (s : State) (j : Nat) (r : SplitRef) (x : Strand) : (s.setStrand r x).trace j = s.trace j := rfl
@[simp] theorem State.trace_setSplit (s : State) (j : Nat) (r : SplitRef) (x : Split) : (s.setSplit r x).trace j = s.trace j := rfl
@[simp] theorem State.strandAt_setQueue (s : State) (i c slot : Nat) (x : Queue) : (s.setQueue i x).strandAt c slot = s.strandAt c slot := rfl
@[simp] theorem State.strand_setQueue (s : State) (i : Nat) (r : SplitRef) (x : Queue) : (s.setQueue i x).strand r = s.strand r := rfl
@[simp] theorem State.split_setQueue (s : State) (i : Nat) (r : SplitRef) (x : Queue) : (s.setQueue i x).split r = s.split r := rfl
@[simp] theorem State.queue_setStrandAt (s : State) (j : Nat) (c slot : Nat) (x : Strand) : (s.setStrandAt c slot x).queue j = s.queue j := rfl
@[simp] theorem State.queue_setStrand (s : State) (j : Nat) (r : SplitRef) (x : Strand) : (s.setStrand r x).queue j = s.queue j := rfl
@[simp] theorem State.queue_setSplit (s : State) (j : Nat) (r : SplitRef) (x : Split) : (s.setSplit r x).queue j = s.queue j := rfl
@[simp] theorem State.strandAt_setStream (s : State) (i c slot : Nat) (x : Stream) : (s.setStream i x).strandAt c slot = s.strandAt c slot := rfl
@[simp] theorem State.strand_setStream (s : State) (i : Nat) (r : SplitRef) (x : Stream) : (s.setStream i x).strand r = s.strand r := rfl
@[simp] theorem State.split_setStream (s : State) (i : Nat) (r : SplitRef) (x : Stream) : (s.setStream i x).split r = s.split r := rfl
@[simp] theorem State.stream_setStrandAt (s : State) (j : Nat) (c slot : Nat) (x : Strand) : (s.setStrandAt c slot x).stream j = s.stream j := rfl
@[simp] theorem State.stream_setStrand (s : State) (j : Nat) (r : SplitRef) (x : Strand) : (s.setStrand r x).stream j = s.stream j := rfl
@[simp] theorem State.stream_setSplit (s : State) (j : Nat) (r : SplitRef) (x : Split) : (s.setSplit r x).stream j = s.stream j := rfl
@[simp] theorem State.strandAt_setLink (s : State) (i c slot : Nat) (x : Link) : (s.setLink i x).strandAt c slot = s.strandAt c slot := rfl
@[simp] theorem State.strand_setLink (s : State) (i : Nat) (r : SplitRef) (x : Link) : (s.setLink i x).strand r = s.strand r := rfl
@[simp] theorem State.split_setLink (s : State) (i : Nat) (r : SplitRef) (x : Link) : (s.setLink i x).split r = s.split r := rfl
@[simp] theorem State.link_setStrandAt (s : State) (j : Nat) (c slot : Nat) (x : Strand) : (s.setStrandAt c slot x).link j = s.link j := rfl
@[simp] theorem State.link_setStrand (s : State) (j : Nat) (r : SplitRef) (x : Strand) : (s.setStrand r x).link j = s.link j := rfl
@[simp] theorem State.link_setSplit (s : State) (j : Nat) (r : SplitRef) (x : Split) : (s.setSplit r x).link j = s.link j := rfl

/-! Strands and splits. -/

@[simp] theorem State.strandAt_setStrandAt (s : State) (c slot : Nat) (x : Strand) :
    (s.setStrandAt c slot x).strandAt c slot = x := by simp [State.strandAt, State.setStrandAt]

@[simp] theorem State.strand_setStrand (s : State) (r : SplitRef) (x : Strand) : (s.setStrand r x).strand r = x := by
  simp [State.strand, State.setStrand]

theorem State.strandAt_setStrandAt_ne (s : State) {c slot c' slot' : Nat} (x : Strand) (h : c' ≠ c ∨ slot' ≠ slot) :
    (s.setStrandAt c slot x).strandAt c' slot' = s.strandAt c' slot' := by
  simp only [State.strandAt, State.setStrandAt, State.core, State.setCore]
  by_cases hc : c' = c
  · subst hc
    rw [Tab.get_set_self]
    exact Tab.get_set_ne _ _ _ (by omega)
  · rw [Tab.get_set_ne _ _ _ hc]

theorem State.strandAt_setStrand_ne (s : State) {r : SplitRef} {c slot : Nat} (x : Strand) (h : c ≠ r.core ∨ slot ≠ r.slot) :
    (s.setStrand r x).strandAt c slot = s.strandAt c slot := State.strandAt_setStrandAt_ne s x h

@[simp] theorem Strand.split_setSplit (st : Strand) (i : Nat) (x : Split) : (st.setSplit i x).split i = x :=
  Tab.get_set_self _ _ _ _

theorem Strand.split_setSplit_ne (st : Strand) {i j : Nat} (x : Split) (h : j ≠ i) : (st.setSplit i x).split j = st.split j :=
  Tab.get_set_ne _ _ _ h

@[simp] theorem State.strand_setSplit (s : State) (r : SplitRef) (x : Split) :
    (s.setSplit r x).strand r = (s.strand r).setSplit r.split x := State.strand_setStrand _ _ _

@[simp] theorem State.split_setSplit (s : State) (r : SplitRef) (x : Split) : (s.setSplit r x).split r = x := by
  simp [State.split]

@[simp] theorem State.split_setStrand (s : State) (r : SplitRef) (x : Strand) :
    (s.setStrand r x).split r = x.split r.split := by simp [State.split]

/-- What replacing a strand leaves of its core: everything but the slots. -/
theorem State.core_setStrandAt (s : State) (c slot c' : Nat) (x : Strand) :
    (s.setStrandAt c slot x).core c' =
      if c' = c then { s.core c with slots := (s.core c).slots.set slot x } else s.core c' := by
  simp only [State.setStrandAt, State.core, State.setCore, Tab.get_set]

@[simp] theorem Strand.setSplit_state (st : Strand) (i : Nat) (x : Split) : (st.setSplit i x).state = st.state := rfl
@[simp] theorem Strand.setSplit_ctx (st : Strand) (i : Nat) (x : Split) : (st.setSplit i x).ctx = st.ctx := rfl
@[simp] theorem Strand.setSplit_number (st : Strand) (i : Nat) (x : Split) : (st.setSplit i x).number = st.number := rfl
@[simp] theorem Strand.setSplit_launch (st : Strand) (i : Nat) (x : Split) : (st.setSplit i x).launch = st.launch := rfl
@[simp] theorem Strand.setSplit_crewIx (st : Strand) (i : Nat) (x : Split) : (st.setSplit i x).crewIx = st.crewIx := rfl
@[simp] theorem Strand.setSplit_home (st : Strand) (i : Nat) (x : Split) : (st.setSplit i x).home = st.home := rfl
@[simp] theorem Strand.setSplit_placed (st : Strand) (i : Nat) (x : Split) : (st.setSplit i x).placed = st.placed := rfl
@[simp] theorem Strand.setSplit_crews (st : Strand) (i : Nat) (x : Split) : (st.setSplit i x).crews = st.crews := rfl
@[simp] theorem Strand.setSplit_kind (st : Strand) (i : Nat) (x : Split) : (st.setSplit i x).kind = st.kind := rfl
@[simp] theorem Strand.setSplit_age (st : Strand) (i : Nat) (x : Split) : (st.setSplit i x).age = st.age := rfl
@[simp] theorem Strand.setSplit_nregs (st : Strand) (i : Nat) (x : Split) : (st.setSplit i x).nregs = st.nregs := rfl
@[simp] theorem Strand.setSplit_gStart (st : Strand) (i : Nat) (x : Split) : (st.setSplit i x).gStart = st.gStart := rfl
@[simp] theorem Strand.setSplit_rmax (st : Strand) (i : Nat) (x : Split) : (st.setSplit i x).rmax = st.rmax := rfl
@[simp] theorem Strand.setSplit_scratch (st : Strand) (i : Nat) (x : Split) : (st.setSplit i x).scratch = st.scratch := rfl
@[simp] theorem Strand.setSplit_window (st : Strand) (i : Nat) (x : Split) : (st.setSplit i x).window = st.window := rfl
@[simp] theorem Strand.setSplit_v (st : Strand) (i : Nat) (x : Split) : (st.setSplit i x).v = st.v := rfl
@[simp] theorem Strand.setSplit_s (st : Strand) (i : Nat) (x : Split) : (st.setSplit i x).s = st.s := rfl
@[simp] theorem Strand.setSplit_p (st : Strand) (i : Nat) (x : Split) : (st.setSplit i x).p = st.p := rfl
@[simp] theorem Strand.setSplit_h (st : Strand) (i : Nat) (x : Split) : (st.setSplit i x).h = st.h := rfl
@[simp] theorem Strand.setSplit_cb (st : Strand) (i : Nat) (x : Split) : (st.setSplit i x).cb = st.cb := rfl
@[simp] theorem Strand.setSplit_gang (st : Strand) (i : Nat) (x : Split) : (st.setSplit i x).gang = st.gang := rfl
@[simp] theorem Strand.setSplit_formed (st : Strand) (i : Nat) (x : Split) : (st.setSplit i x).formed = st.formed := rfl
@[simp] theorem Strand.setSplit_flags (st : Strand) (i : Nat) (x : Split) : (st.setSplit i x).flags = st.flags := rfl
@[simp] theorem Strand.setSplit_segs (st : Strand) (i : Nat) (x : Split) : (st.setSplit i x).segs = st.segs := rfl
@[simp] theorem Strand.setSplit_results (st : Strand) (i : Nat) (x : Split) : (st.setSplit i x).results = st.results := rfl
@[simp] theorem Strand.setSplit_marks (st : Strand) (i : Nat) (x : Split) : (st.setSplit i x).marks = st.marks := rfl
@[simp] theorem Strand.setSplit_staged (st : Strand) (i : Nat) (x : Split) : (st.setSplit i x).staged = st.staged := rfl
@[simp] theorem Strand.setSplit_held (st : Strand) (i : Nat) (x : Split) : (st.setSplit i x).held = st.held := rfl
@[simp] theorem Strand.setSplit_token (st : Strand) (i : Nat) (x : Split) : (st.setSplit i x).token = st.token := rfl
@[simp] theorem Strand.setSplit_lastIssue (st : Strand) (i : Nat) (x : Split) : (st.setSplit i x).lastIssue = st.lastIssue := rfl
@[simp] theorem Strand.setSplit_slotWas (st : Strand) (i : Nat) (x : Split) : (st.setSplit i x).slotWas = st.slotWas := rfl
@[simp] theorem Strand.setSplit_grew (st : Strand) (i : Nat) (x : Split) : (st.setSplit i x).grew = st.grew := rfl

end Sys2Proof.Machine
end

