-- ==== Sys2Proof/Laws/Frame.lean ====
section
/-! SUPPORT. What the end of an instruction leaves alone: moving a split on, holding it in place and taking a trap change no
register, no other strand, no tile and no memory but the strand's own deferred entries. -/
namespace Sys2Proof.Machine

/-- The registers of a strand and what else only instructions of their own change. -/
def Strand.regs (st : Strand) := (st.v, st.s, st.p, st.h, st.cb, st.gang, st.formed, st.flags, st.segs, st.staged, st.held, st.nregs, st.ctx)

/-- The units of a core that a split's own progress does not touch. -/
def Core.units (k : Core) := (k.tiles, k.cascade, k.snap, k.cistern, k.eng)

/-- A key outside a strand's deferred entries. -/
def OutsideDefers (s : State) (c slot key : Nat) : Prop :=
  ¬ (deferKey c slot 0 ≤ key ∧ key < deferKey c slot (s.strandAt c slot).deferHeight)

/-- From s to t nothing changes but the splits, windows and deferred entries of one strand, its core's scheduler and phase
buffer, trace, and whether its context is faulted. -/
structure Undisturbed (c slot : Nat) (s t : State) : Prop where
  regs : (t.strandAt c slot).regs = (s.strandAt c slot).regs
  others : ∀ c' slot', c' ≠ c ∨ slot' ≠ slot → t.strandAt c' slot' = s.strandAt c' slot'
  units : ∀ c', (t.core c').units = (s.core c').units
  tids : ∀ x, (t.ctx x).tids = (s.ctx x).tids
  tick : t.tick = s.tick
  height : (t.strandAt c slot).deferHeight ≤ (s.strandAt c slot).deferHeight
  wf : s.mem.wf = true → t.mem.wf = true
  mem : s.mem.wf = true → ∀ key, OutsideDefers s c slot key → t.mem.read key = s.mem.read key

theorem deferKey_mono (c slot : Nat) {m n : Nat} (h : m ≤ n) : deferKey c slot m ≤ deferKey c slot n := by
  simp only [deferKey, sramKey]; omega

theorem Undisturbed.refl (c slot : Nat) (s : State) : Undisturbed c slot s s :=
  ⟨rfl, fun _ _ _ => rfl, fun _ => rfl, fun _ => rfl, rfl, Nat.le_refl _, id, fun _ _ _ => rfl⟩

theorem Undisturbed.trans {c slot : Nat} {s t u : State} (a : Undisturbed c slot s t) (b : Undisturbed c slot t u) : Undisturbed c slot s u where
  regs := b.regs.trans a.regs
  others c' n h := (b.others c' n h).trans (a.others c' n h)
  units c' := (b.units c').trans (a.units c')
  tids x := (b.tids x).trans (a.tids x)
  tick := b.tick.trans a.tick
  height := Nat.le_trans b.height a.height
  wf h := b.wf (a.wf h)
  mem h key hk := (b.mem (a.wf h) key (fun e => hk ⟨e.1, Nat.lt_of_lt_of_le e.2 (deferKey_mono c slot a.height)⟩)).trans (a.mem h key hk)

/-- A strand replaced by one with the same registers and no more deferred entries. -/
theorem kept_setStrandAt (s : State) (c slot : Nat) (x : Strand) (h : x.regs = (s.strandAt c slot).regs)
    (hh : x.deferHeight ≤ (s.strandAt c slot).deferHeight) : Undisturbed c slot s (s.setStrandAt c slot x) where
  regs := by simpa using h
  others c' n hn := State.strandAt_setStrandAt_ne s x hn
  units c' := by
    by_cases hc : c' = c
    · subst hc; simp [State.setStrandAt, Core.units]
    · simp [State.setStrandAt, State.core_setCore_ne s _ hc]
  tids _ := rfl
  tick := rfl
  height := by simpa using hh
  wf := id
  mem _ _ _ := rfl

theorem Strand.regs_setSplit (st : Strand) (i : Nat) (sp : Split) : (st.setSplit i sp).regs = st.regs := rfl

theorem Strand.split_setSplit_eq (st : Strand) (i j : Nat) (sp : Split) : (st.setSplit i sp).split j = if j = i then sp else st.split j :=
  Tab.get_set _ _ _ _ _

theorem Strand.deferHeight_setSplit (st : Strand) (i : Nat) (sp : Split) (h : sp.ndef ≤ (st.split i).ndef) :
    (st.setSplit i sp).deferHeight ≤ st.deferHeight := by
  have key : ∀ j, ((st.setSplit i sp).split j).ndef ≤ (st.split j).ndef := by
    intro j; rw [Strand.split_setSplit_eq]; split
    · subst_vars; exact h
    · exact Nat.le_refl _
  have h0 := key 0; have h1 := key 1; have h2 := key 2; have h3 := key 3
  simp [Strand.deferHeight, List.range, List.range.loop]; omega

/-- A split replaced by one with no more deferred entries. -/
theorem kept_setSplit (s : State) (r : SplitRef) (sp : Split) (h : sp.ndef ≤ (s.split r).ndef) : Undisturbed r.core r.slot s (s.setSplit r sp) :=
  kept_setStrandAt s r.core r.slot _ (Strand.regs_setSplit _ _ _) (Strand.deferHeight_setSplit _ _ _ h)

/-- A core replaced by one with the same strands and units. -/
theorem kept_setCore (s : State) (c slot c' : Nat) (k : Core) (h : k.slots = (s.core c').slots) (hu : k.units = (s.core c').units) :
    Undisturbed c slot s (s.setCore c' k) := by
  have hs : ∀ a b, (s.setCore c' k).strandAt a b = s.strandAt a b := by
    intro a b
    by_cases ha : a = c'
    · subst ha; simp [State.strandAt, h]
    · simp [State.strandAt, State.core_setCore_ne s k ha]
  refine ⟨by rw [hs], fun a b _ => hs a b, ?_, fun _ => rfl, rfl, Nat.le_of_eq (by rw [hs]), id, fun _ _ _ => rfl⟩
  intro a
  by_cases ha : a = c'
  · subst ha; simpa using hu
  · simp [State.core_setCore_ne s k ha]

theorem kept_freeSched (s : State) (r : SplitRef) (c slot : Nat) : Undisturbed c slot s (freeSched s r) := by
  simp only [freeSched]; split
  · exact kept_setCore s c slot _ _ rfl rfl
  · exact Undisturbed.refl _ _ _

theorem Strand.split_closeWindows (st : Strand) (i j : Nat) : (st.closeWindows i).split j = st.split j := rfl

/-- States that differ in trace engines, queues, clusters, reservations and contexts' standing alone. -/
theorem kept_of_parts {c slot : Nat} {s t : State} (hc : t.cores = s.cores) (ht : ∀ x, (t.ctx x).tids = (s.ctx x).tids) (hk : t.tick = s.tick)
    (hm : t.mem = s.mem) : Undisturbed c slot s t := by
  have hcore : ∀ a, t.core a = s.core a := fun a => by simp [State.core, hc]
  have hs : ∀ a b, t.strandAt a b = s.strandAt a b := fun a b => by simp [State.strandAt, hcore]
  exact ⟨by rw [hs], fun a b _ => hs a b, fun a => by rw [hcore], ht, hk, Nat.le_of_eq (by rw [hs]), fun h => by rw [hm]; exact h,
    fun _ _ _ => by rw [hm]⟩

theorem traceRecord_parts (s : State) (k kind x : Nat) : (traceRecord s k kind x).cores = s.cores ∧ (traceRecord s k kind x).contexts = s.contexts ∧
    (traceRecord s k kind x).tick = s.tick ∧ (traceRecord s k kind x).mem = s.mem := by
  simp only [traceRecord, acceptRecord]
  repeat' split
  all_goals simp

theorem kept_traceRecord (s : State) (k kind x c slot : Nat) : Undisturbed c slot s (traceRecord s k kind x) := by
  obtain ⟨h1, h2, h3, h4⟩ := traceRecord_parts s k kind x
  exact kept_of_parts h1 (fun y => by simp [State.ctx, h2]) h3 h4

theorem kept_contextFaults (s : State) (x : Nat) (f : FaultRec) (c slot : Nat) : Undisturbed c slot s (contextFaults s x f) := by
  refine kept_of_parts rfl ?_ rfl rfl
  intro y
  have h : ∀ c : Context, c.tids = (s.ctx x).tids → ((s.setCtx x c).ctx y).tids = (s.ctx y).tids := by
    intro c hc
    by_cases hy : y = x
    · subst hy; simpa using hc
    · rw [State.ctx_setCtx_ne s c hy]
  exact h _ (by split <;> rfl)

/-! Deferred entries. -/

theorem leBytes_length (n x : Nat) : (leBytes n x).length = n := by
  induction n generalizing x with
  | zero => rfl
  | succ n ih => simp [leBytes, ih]

theorem putBytes_parts (s : State) (key : Nat) (bs : List Byte) : (putBytes s key bs).cores = s.cores ∧
    (putBytes s key bs).contexts = s.contexts ∧ (putBytes s key bs).tick = s.tick ∧ (putBytes s key bs).mem = s.mem.writeList key bs := by
  simp only [putBytes, sendWakes]; split <;> simp

theorem kept_putBytes (s : State) (c slot n : Nat) (bs : List Byte) (hb : bs.length = 32) (h : n < (s.strandAt c slot).deferHeight) :
    Undisturbed c slot s (putBytes s (deferKey c slot n) bs) := by
  obtain ⟨h1, h2, h3, h4⟩ := putBytes_parts s (deferKey c slot n) bs
  generalize putBytes s (deferKey c slot n) bs = t at h1 h2 h3 h4
  have hcore : ∀ a, t.core a = s.core a := fun a => by simp only [State.core, h1]
  have hs : ∀ a b, t.strandAt a b = s.strandAt a b := fun a b => by simp only [State.strandAt, hcore]
  refine ⟨by rw [hs], fun a b _ => hs a b, fun a => by rw [hcore], fun x => by simp only [State.ctx, h2], h3,
    Nat.le_of_eq (by rw [hs]), fun hw => by rw [h4]; exact Memory.writeList_wf _ _ _ hw, fun hw key hk => ?_⟩
  rw [h4]
  refine Memory.read_writeList_outside _ _ _ _ hw ?_
  rw [hb]
  simp only [OutsideDefers, deferKey, sramKey] at hk ⊢
  omega

theorem putBytes_strandAt (s : State) (key : Nat) (bs : List Byte) (a b : Nat) : (putBytes s key bs).strandAt a b = s.strandAt a b := by
  simp only [State.strandAt, State.core, (putBytes_parts s key bs).1]

theorem putDefers_fold (c slot : Nat) (xs : List (Defer × Nat)) (s : State) (hx : ∀ e ∈ xs, e.2 < (s.strandAt c slot).deferHeight) :
    Undisturbed c slot s (xs.foldl (fun s e => putBytes s (deferKey c slot e.2) (leBytes 32 e.1.bits)) s) := by
  induction xs generalizing s with
  | nil => exact Undisturbed.refl _ _ _
  | cons e es ih =>
    rw [List.foldl_cons]
    have hb : (leBytes 32 e.1.bits).length = 32 := leBytes_length _ _
    generalize leBytes 32 e.1.bits = bs at hb
    have one := kept_putBytes s c slot e.2 bs hb (hx e (List.mem_cons_self ..))
    have hs := putBytes_strandAt s (deferKey c slot e.2) bs c slot
    generalize putBytes s (deferKey c slot e.2) bs = t at one hs
    exact Undisturbed.trans one (ih t fun f hf => by rw [hs]; exact hx f (List.mem_cons_of_mem _ hf))

theorem kept_putDefers (s : State) (c slot : Nat) (es : List Defer) (h : es.length ≤ (s.strandAt c slot).deferHeight) :
    Undisturbed c slot s (putDefers s c slot es) := by
  refine putDefers_fold c slot _ s ?_
  intro e he
  have := List.snd_lt_of_mem_zipIdx he
  omega

theorem putDefers_strandAt (s : State) (c slot : Nat) (es : List Defer) (a b : Nat) :
    (putDefers s c slot es).strandAt a b = s.strandAt a b := by
  unfold putDefers
  generalize es.zipIdx = xs
  induction xs generalizing s with
  | nil => rfl
  | cons e es ih =>
    rw [List.foldl_cons, ih]
    simp only [State.strandAt, State.core, (putBytes_parts _ _ _).1]

theorem deferStack_length (s : State) (c slot : Nat) : (deferStack s c slot).length = (s.strandAt c slot).deferHeight := by
  simp [deferStack]

theorem kept_deferBoundary (s : State) (r : SplitRef) : Undisturbed r.core r.slot s (deferBoundary s r) := by
  simp only [deferBoundary]
  split
  · exact Undisturbed.refl _ _ _
  · split
    · exact Undisturbed.refl _ _ _
    · split
      · exact Undisturbed.refl _ _ _
      · split
        · refine Undisturbed.trans (kept_putDefers s _ _ _ (by simp [setAt, deferStack_length])) (kept_setSplit _ _ _ ?_)
          simp [State.split, State.strand, putDefers_strandAt]
        · refine Undisturbed.trans (kept_putDefers s _ _ _ ?_) (kept_setSplit _ _ _ ?_)
          · rw [← deferStack_length]; exact List.length_eraseIdx_le ..
          · simp [State.split, State.strand, putDefers_strandAt]

theorem kept_mergeInto (s : State) (c slot lo hi : Nat) (h1 : lo < 4) (h2 : hi < 4) (hn : lo ≠ hi) : Undisturbed c slot s (mergeInto s c slot lo hi) := by
  refine Undisturbed.trans (kept_putDefers s c slot _ (by simp [deferStack_length])) (kept_setStrandAt _ _ _ _ ?_ ?_)
  · generalize (putDefers s c slot _).strandAt c slot = st; rfl
  generalize (putDefers s c slot _).strandAt c slot = st
  simp only [Strand.deferHeight, Strand.split, Strand.setSplit, Tab.get_set, List.range, List.range.loop, List.map, List.sum_cons, List.sum_nil]
  rcases lo with _ | _ | _ | _ | lo <;> rcases hi with _ | _ | _ | _ | hi <;> first | omega | (simp; omega) | simp at *

theorem mergePair_lt {st : Strand} {i lo hi : Nat} (hi4 : i < 4) (h : mergePair st i = some (lo, hi)) : lo < 4 ∧ hi < 4 ∧ lo ≠ hi := by
  simp only [mergePair] at h
  split at h
  · cases h
  · split at h
    · cases h
    · rename_i j hj
      have hm := List.mem_of_find?_eq_some hj
      have hp := List.find?_some hj
      simp at hm hp
      simp at h
      omega

theorem kept_mergeBoundary (s : State) (c slot n i : Nat) (hi : i < 4) : Undisturbed c slot s (mergeBoundary s c slot n i) := by
  induction n generalizing s i with
  | zero => exact Undisturbed.refl _ _ _
  | succ n ih =>
    simp only [mergeBoundary]
    split
    · exact Undisturbed.refl _ _ _
    · rename_i lo hi' h
      obtain ⟨a, b, e⟩ := mergePair_lt hi h
      exact Undisturbed.trans (kept_mergeInto s c slot lo hi' a b e) (ih _ _ a)

theorem kept_foldl {α : Type} (c slot : Nat) (f : State → α → State) (xs : List α) (h : ∀ s, ∀ x ∈ xs, Undisturbed c slot s (f s x)) (s : State) :
    Undisturbed c slot s (xs.foldl f s) := by
  induction xs generalizing s with
  | nil => exact Undisturbed.refl _ _ _
  | cons x xs ih => exact Undisturbed.trans (h s x (List.mem_cons_self ..)) (ih (fun t y hy => h t y (List.mem_cons_of_mem _ hy)) _)

theorem kept_reconvBoundary (s : State) (c slot : Nat) : Undisturbed c slot s (reconvBoundary s c slot) := by
  simp only [reconvBoundary]
  split
  · exact Undisturbed.refl _ _ _
  · rename_i i rest hl
    split
    · have hp : (i :: rest).Pairwise (· < ·) := by rw [← hl]; exact List.Pairwise.filter _ List.pairwise_lt_range
      have hm : ∀ j ∈ i :: rest, j < 4 := by
        intro j hj; rw [← hl] at hj; simpa using (List.mem_filter.mp hj).1
      refine Undisturbed.trans (Undisturbed.trans (kept_foldl c slot _ _ (fun t j _ => kept_setSplit t ⟨c, slot, j⟩ _ (by exact Nat.le_refl _)) s)
        (kept_foldl c slot _ _ (fun t j hj => ?_) _)) (kept_deferBoundary _ ⟨c, slot, i⟩)
      exact kept_mergeInto t c slot i j (hm i (List.mem_cons_self ..)) (hm j (List.mem_cons_of_mem _ hj))
        (Nat.ne_of_lt ((List.pairwise_cons.mp hp).1 j hj))
    · exact Undisturbed.refl _ _ _

theorem kept_endClause (s : State) (r : SplitRef) (pc : BitVec 48) (hr : r.split < 4) : Undisturbed r.core r.slot s (endClause s r pc) := by
  simp only [endClause]
  have first : ∀ sp : Split, sp.ndef = ((s.strand r).split r.split).ndef →
      Undisturbed r.core r.slot s (freeSched (s.setStrand r (((s.strand r).closeWindows r.split).setSplit r.split sp)) r) := by
    intro sp hsp
    refine Undisturbed.trans (kept_setStrandAt s r.core r.slot _ (by exact rfl) ?_) (kept_freeSched _ _ _ _)
    exact Strand.deferHeight_setSplit ((s.strand r).closeWindows r.split) r.split sp (Nat.le_of_eq hsp)
  have rest : ∀ u, Undisturbed r.core r.slot s u →
      Undisturbed r.core r.slot s (mergeBoundary (if (((s.strand r).split r.split).reconv.isSome && !((s.strand r).split r.split).hm) = true
        then u else deferBoundary u r) r.core r.slot 4 r.split) := by
    intro u hu
    refine Undisturbed.trans hu ?_
    split
    · exact kept_mergeBoundary _ _ _ _ _ hr
    · exact Undisturbed.trans (kept_deferBoundary _ _) (kept_mergeBoundary _ _ _ _ _ hr)
  split
  · exact Undisturbed.trans (first _ (by exact rfl)) (kept_reconvBoundary _ _ _)
  · exact rest _ (first _ (by exact rfl))

theorem kept_resumeAt (s : State) (r : SplitRef) (pc : BitVec 48) (pos : Nat) (hr : r.split < 4) : Undisturbed r.core r.slot s (resumeAt s r pc pos) := by
  simp only [resumeAt]; split
  · exact kept_endClause s r pc hr
  · exact Undisturbed.trans (kept_setSplit s r _ (by exact Nat.le_refl _)) (kept_freeSched _ _ _ _)

/-- A split moved on. -/
theorem kept_advance (s : State) (r : SplitRef) (hr : r.split < 4) : Undisturbed r.core r.slot s (advance s r) := by
  simp only [advance]
  split
  · exact Undisturbed.refl _ _ _
  · split
    · exact kept_resumeAt s r _ _ hr
    · split
      · exact kept_setSplit s r _ (by exact Nat.le_refl _)
      · exact kept_endClause s r _ hr

/-- A split held in place. -/
theorem kept_holdIn (s : State) (r : SplitRef) (why : Nat) : Undisturbed r.core r.slot s (holdIn s r why) := kept_setSplit s r _ (by exact Nat.le_refl _)

theorem pushStore_parts (k : Core) (key : Nat) (bs : List Byte) (via : Via) :
    (k.pushStore key bs via).slots = k.slots ∧ (k.pushStore key bs via).units = k.units := by
  simp only [Core.pushStore]; repeat' split
  all_goals exact ⟨rfl, rfl⟩

theorem storeSpan_parts (via : Via) (n : Nat) (k : Core) (key : Nat) (bs : List Byte) :
    (storeSpan k key via n bs).slots = k.slots ∧ (storeSpan k key via n bs).units = k.units := by
  induction n generalizing k key bs with
  | zero => exact ⟨rfl, rfl⟩
  | succ n ih =>
    simp only [storeSpan]; split
    · exact ⟨rfl, rfl⟩
    · obtain ⟨a, b⟩ := ih (k.pushStore key (bs.take (64 - key % 64)) via) (key + (64 - key % 64)) (bs.drop (64 - key % 64))
      obtain ⟨c, d⟩ := pushStore_parts k key (bs.take (64 - key % 64)) via
      exact ⟨a.trans c, b.trans d⟩

/-- A trap taken. -/
theorem kept_takeTrap (s : State) (r : SplitRef) (t : TrapRec) (pc : BitVec 48) (pos : Nat) (late : Option (BitVec 48 × Nat)) :
    Undisturbed r.core r.slot s (takeTrap s r t pc pos late) := by
  simp only [takeTrap]
  split
  · exact Undisturbed.trans (kept_setSplit s r _ (by exact Nat.le_refl _)) (kept_contextFaults _ _ _ _ _)
  · refine Undisturbed.trans ?_ (kept_freeSched _ _ _ _)
    have a := kept_traceRecord s (coreCluster r.core) 4 (pc.toNat / 8 * 2 ^ 19 + t.code * 2 ^ 14 + r.core % 256 * 2 ^ 6 + r.slot * 2) r.core r.slot
    generalize hg : traceRecord s (coreCluster r.core) 4 (pc.toNat / 8 * 2 ^ 19 + t.code * 2 ^ 14 + r.core % 256 * 2 ^ 6 + r.slot * 2) = u at a
    have hk := storeSpan_parts { ctx := (s.strand r).ctx } 64 (u.core r.core) (frameKey r.core r.slot)
      (frameBytes (frameHeader t r.split pos (s.strand r).flags late pc ((s.strand r).split r.split).mask s.tick)
        (match late with | none => 0 | some (rpc, _) => rpc.toNat) ((s.strand r).split r.split).temps)
    have b := kept_setCore u r.core r.slot r.core _ hk.1 hk.2
    refine Undisturbed.trans (Undisturbed.trans a b) ?_
    have hu : u.strandAt r.core r.slot = s.strandAt r.core r.slot := by
      have := (traceRecord_parts s (coreCluster r.core) 4 (pc.toNat / 8 * 2 ^ 19 + t.code * 2 ^ 14 + r.core % 256 * 2 ^ 6 + r.slot * 2)).1
      rw [hg] at this; simp [State.strandAt, State.core, this]
    refine kept_setStrandAt _ _ _ _ ?_ ?_
    · simp [State.strandAt, hk.1] at hu ⊢; rw [hu]; rfl
    · refine Nat.le_trans (Strand.deferHeight_setSplit _ _ _ (Nat.le_refl _)) ?_
      simp [State.strandAt, hk.1] at hu ⊢; rw [hu]; exact Nat.le_refl _

/-! Results written. -/

theorem Strand.deferHeight_same (st : Strand) (i : Nat) (sp : Split) (h : sp.ndef = (st.split i).ndef) :
    (st.setSplit i sp).deferHeight = st.deferHeight := by
  have key : ∀ j, ((st.setSplit i sp).split j).ndef = (st.split j).ndef := by
    intro j; rw [Strand.split_setSplit_eq]; split
    · subst_vars; exact h
    · rfl
  simp [Strand.deferHeight, List.range, List.range.loop, key]

/-- A destination written: the registers of its own bank and number alone change, and for s60 to s62 the mask. -/
structure Strand.Only (ds : List Operand) (a b : Strand) : Prop where
  v : ∀ n, (∀ m, Operand.v m ∈ ds → m.toNat ≠ n) → b.v.get [] n = a.v.get [] n
  s : ∀ n, (∀ m, Operand.s m ∈ ds → m.toNat ≠ n) → b.s.get 0 n = a.s.get 0 n
  p : ∀ n, (∀ m, Operand.p m ∈ ds → m.toNat ≠ n) → b.p.get 0 n = a.p.get 0 n
  rest : (b.h, b.cb, b.gang, b.formed, b.segs, b.staged, b.held, b.nregs, b.ctx) = (a.h, a.cb, a.gang, a.formed, a.segs, a.staged, a.held, a.nregs, a.ctx)
  flags : a.flags ||| b.flags = b.flags
  height : b.deferHeight = a.deferHeight

theorem Strand.Only.refl (ds : List Operand) (a : Strand) : Strand.Only ds a a :=
  ⟨fun _ _ => rfl, fun _ _ => rfl, fun _ _ => rfl, rfl, by simp, rfl⟩

theorem Strand.Only.trans {ds : List Operand} {a b c : Strand} (x : Strand.Only ds a b) (y : Strand.Only ds b c) : Strand.Only ds a c where
  v n h := (y.v n h).trans (x.v n h)
  s n h := (y.s n h).trans (x.s n h)
  p n h := (y.p n h).trans (x.p n h)
  rest := y.rest.trans x.rest
  flags := by rw [← y.flags, ← BitVec.or_assoc, x.flags]
  height := y.height.trans x.height

theorem putScalar_only (ds : List Operand) (st : Strand) (i : Nat) (n : BitVec 6) (x : Word) (h : Operand.s n ∈ ds) :
    Strand.Only ds st (putScalar st i n.toNat x) := by
  simp only [putScalar]
  split
  · refine ⟨fun _ _ => rfl, fun _ _ => rfl, fun _ _ => rfl, rfl, by simp [Strand.setSplit], Strand.deferHeight_same _ _ _ rfl⟩
  · refine ⟨fun _ _ => rfl, fun k hk => ?_, fun _ _ => rfl, rfl, by simp, rfl⟩
    exact Tab.get_set_ne _ _ _ (hk n h).symm

/-- One destination of a strand written. -/
theorem Strand.put_only (ds : List Operand) (st : Strand) (i : Nat) (o : Operand) (m : LaneMask) (x : LaneVec) (h : o ∈ ds) :
    Strand.Only ds st (st.put i o m x) := by
  cases o with
  | v n => exact ⟨fun k hk => Tab.get_set_ne _ _ _ (hk n h).symm, fun _ _ => rfl, fun _ _ => rfl, rfl, by simp [Strand.put], rfl⟩
  | t n => exact ⟨fun _ _ => rfl, fun _ _ => rfl, fun _ _ => rfl, rfl, by simp [Strand.put, Strand.setSplit], Strand.deferHeight_same _ _ _ rfl⟩
  | s n =>
    simp only [Strand.put]; split
    · exact Strand.Only.refl _ _
    · exact putScalar_only ds st i n _ h
  | p n =>
    simp only [Strand.put]; split
    · exact Strand.Only.refl _ _
    · exact ⟨fun _ _ => rfl, fun _ _ => rfl, fun k hk => Tab.get_set_ne _ _ _ (hk n h).symm, rfl, by simp, rfl⟩
  | _ => exact Strand.Only.refl _ _

/-- From s to t one strand's registers among some destinations changed, and nothing else but what `Undisturbed` allows. -/
structure Wrote (ds : List Operand) (c slot : Nat) (s t : State) : Prop where
  only : Strand.Only ds (s.strandAt c slot) (t.strandAt c slot)
  others : ∀ c' slot', c' ≠ c ∨ slot' ≠ slot → t.strandAt c' slot' = s.strandAt c' slot'
  units : ∀ c', (t.core c').units = (s.core c').units
  tids : ∀ x, (t.ctx x).tids = (s.ctx x).tids
  tick : t.tick = s.tick
  mem : t.mem = s.mem

theorem Wrote.refl (ds : List Operand) (c slot : Nat) (s : State) : Wrote ds c slot s s :=
  ⟨Strand.Only.refl _ _, fun _ _ _ => rfl, fun _ => rfl, fun _ => rfl, rfl, rfl⟩

theorem Wrote.trans {ds : List Operand} {c slot : Nat} {s t u : State} (a : Wrote ds c slot s t) (b : Wrote ds c slot t u) :
    Wrote ds c slot s u where
  only := a.only.trans b.only
  others c' n h := (b.others c' n h).trans (a.others c' n h)
  units c' := (b.units c').trans (a.units c')
  tids x := (b.tids x).trans (a.tids x)
  tick := b.tick.trans a.tick
  mem := b.mem.trans a.mem

theorem wrote_setStrandAt (ds : List Operand) (s : State) (c slot : Nat) (x : Strand) (h : Strand.Only ds (s.strandAt c slot) x) :
    Wrote ds c slot s (s.setStrandAt c slot x) where
  only := by simpa using h
  others c' n hn := State.strandAt_setStrandAt_ne s x hn
  units c' := by
    by_cases hc : c' = c
    · subst hc; simp [State.setStrandAt, Core.units]
    · simp [State.setStrandAt, State.core_setCore_ne s _ hc]
  tids _ := rfl
  tick := rfl
  mem := rfl

/-- A destination written in lanes. -/
theorem wrote_putLanes (ds : List Operand) (s : State) (r : SplitRef) (o : Operand) (m : LaneMask) (x : LaneVec) (h : o ∈ ds) :
    Wrote ds r.core r.slot s (putLanes s r o m x) := wrote_setStrandAt ds s r.core r.slot _ (Strand.put_only ds _ _ o m x h)

/-- A destination of the operation's width written. -/
theorem wrote_putLanesW (ds : List Operand) (s : State) (r : SplitRef) (w64 : Bool) (o : Operand) (m : LaneMask) (x : List DWord)
    (h : o ∈ ds) (h2 : w64 = true → o.after 1 ∈ ds) : Wrote ds r.core r.slot s (putLanesW s r w64 o m x) := by
  simp only [putLanesW]; split
  · exact Wrote.trans (wrote_putLanes ds s r o m _ h) (wrote_putLanes ds _ r _ m _ (h2 ‹_›))
  · exact wrote_putLanes ds s r o m _ h

/-- Flags raised. -/
theorem wrote_raiseFlags (ds : List Operand) (s : State) (r : SplitRef) (f : Flags) : Wrote ds r.core r.slot s (raiseFlags s r f) :=
  wrote_setStrandAt ds s r.core r.slot _ ⟨fun _ _ => rfl, fun _ _ => rfl, fun _ _ => rfl, rfl, by simp [State.strand, ← BitVec.or_assoc], rfl⟩

/-- The shared effect of a per-lane instruction. -/
theorem wrote_perLane (ds : List Operand) (v : View) (s : State) (w64 : Bool) (d : Operand) (f : Nat → Nat × Flags) (h : d ∈ ds)
    (h2 : w64 = true → d.after 1 ∈ ds) : Wrote ds v.r.core v.r.slot s (perLane v s w64 d f) :=
  Wrote.trans (wrote_putLanesW ds s v.r w64 d _ _ h h2) (wrote_raiseFlags ds _ _ _)

/-- A result known at issue is only promised. -/
theorem wrote_pend (ds : List Operand) (s : State) (v : View) (c : Ctl) (dst : List Operand) (lanes : LaneMask) (vals : List LaneVec)
    (flags : Flags) : Wrote ds v.r.core v.r.slot s (pend s v c dst lanes vals flags) := by
  have f : Wrote ds v.r.core v.r.slot s s.fresh.1 :=
    ⟨Strand.Only.refl _ _, fun _ _ _ => rfl, fun _ => rfl, fun _ => rfl, rfl, rfl⟩
  refine Wrote.trans f (wrote_setStrandAt ds s.fresh.1 v.r.core v.r.slot _ ?_)
  exact ⟨fun _ _ => rfl, fun _ _ => rfl, fun _ _ => rfl, rfl, BitVec.or_self, rfl⟩

/-! Whole instructions. -/

/-- The frame of an instruction over registers: destinations among `ds` and what `Undisturbed` allows. -/
structure Framed (ds : List Operand) (kept : Nat → Prop) (c slot : Nat) (s t : State) : Prop where
  vs : ∀ n, (∀ m, Operand.v m ∈ ds → m.toNat ≠ n) → (t.strandAt c slot).v.get [] n = (s.strandAt c slot).v.get [] n
  ss : ∀ n, (∀ m, Operand.s m ∈ ds → m.toNat ≠ n) → (t.strandAt c slot).s.get 0 n = (s.strandAt c slot).s.get 0 n
  ps : ∀ n, (∀ m, Operand.p m ∈ ds → m.toNat ≠ n) → (t.strandAt c slot).p.get 0 n = (s.strandAt c slot).p.get 0 n
  rest : ((t.strandAt c slot).h, (t.strandAt c slot).cb, (t.strandAt c slot).gang, (t.strandAt c slot).formed, (t.strandAt c slot).segs,
      (t.strandAt c slot).staged, (t.strandAt c slot).held, (t.strandAt c slot).nregs, (t.strandAt c slot).ctx) =
    ((s.strandAt c slot).h, (s.strandAt c slot).cb, (s.strandAt c slot).gang, (s.strandAt c slot).formed, (s.strandAt c slot).segs,
      (s.strandAt c slot).staged, (s.strandAt c slot).held, (s.strandAt c slot).nregs, (s.strandAt c slot).ctx)
  flags : (s.strandAt c slot).flags ||| (t.strandAt c slot).flags = (t.strandAt c slot).flags
  others : ∀ c' slot', c' ≠ c ∨ slot' ≠ slot → t.strandAt c' slot' = s.strandAt c' slot'
  tiles : ∀ c', (t.core c').tiles = (s.core c').tiles ∧ (t.core c').cascade = (s.core c').cascade
  tids : ∀ x, (t.ctx x).tids = (s.ctx x).tids
  tick : t.tick = s.tick
  height : (t.strandAt c slot).deferHeight ≤ (s.strandAt c slot).deferHeight
  wf : s.mem.wf = true → t.mem.wf = true
  mem : s.mem.wf = true → ∀ key, kept key → OutsideDefers s c slot key → t.mem.read key = s.mem.read key

theorem Framed.trans {ds : List Operand} {kept : Nat → Prop} {c slot : Nat} {s t u : State} (a : Framed ds kept c slot s t) (b : Framed ds kept c slot t u) :
    Framed ds kept c slot s u where
  vs n h := (b.vs n h).trans (a.vs n h)
  ss n h := (b.ss n h).trans (a.ss n h)
  ps n h := (b.ps n h).trans (a.ps n h)
  rest := b.rest.trans a.rest
  flags := by rw [← b.flags, ← BitVec.or_assoc, a.flags]
  others c' n h := (b.others c' n h).trans (a.others c' n h)
  tiles c' := ⟨(b.tiles c').1.trans (a.tiles c').1, (b.tiles c').2.trans (a.tiles c').2⟩
  tids x := (b.tids x).trans (a.tids x)
  tick := b.tick.trans a.tick
  height := Nat.le_trans b.height a.height
  wf h := b.wf (a.wf h)
  mem h key kk hk := (b.mem (a.wf h) key kk (fun e => hk ⟨e.1, Nat.lt_of_lt_of_le e.2 (deferKey_mono c slot a.height)⟩)).trans (a.mem h key kk hk)

theorem Undisturbed.framed {c slot : Nat} {s t : State} (a : Undisturbed c slot s t) (ds : List Operand) (kept : Nat → Prop) : Framed ds kept c slot s t := by
  have h := a.regs
  simp only [Strand.regs, Prod.mk.injEq] at h
  obtain ⟨h1, h2, h3, h4, h5, h6, h7, h8, h9, h10, h11, h12, h13⟩ := h
  exact ⟨fun n _ => by rw [h1], fun n _ => by rw [h2], fun n _ => by rw [h3], by simp only [*], by rw [h8]; simp,
    a.others, fun c' => by have := a.units c'; simp only [Core.units, Prod.mk.injEq] at this; exact ⟨this.1, this.2.1⟩, a.tids, a.tick,
    a.height, a.wf, fun h key _ => a.mem h key⟩

theorem Wrote.framed {ds : List Operand} {c slot : Nat} {s t : State} (a : Wrote ds c slot s t) (kept : Nat → Prop) : Framed ds kept c slot s t :=
  ⟨a.only.v, a.only.s, a.only.p, a.only.rest, a.only.flags, a.others,
    fun c' => by have := a.units c'; simp only [Core.units, Prod.mk.injEq] at this; exact ⟨this.1, this.2.1⟩, a.tids, a.tick,
    Nat.le_of_eq a.only.height, fun h => by rw [a.mem]; exact h, fun _ _ _ _ => by rw [a.mem]⟩

/-- What the frame asks of an instruction's own effect. -/
def Res.Within (ds : List Operand) (kept : Nat → Prop) (c slot : Nat) (s : State) : Res → Prop
  | .done t => Framed ds kept c slot s t
  | .stay _ t => Framed ds kept c slot s t
  | .trap _ t => Framed ds kept c slot s t
  | .moved t => Framed ds kept c slot s t

theorem settle_framed {ds : List Operand} {kept : Nat → Prop} {s : State} {r : SplitRef} {x : Res} (hr : r.split < 4) (h : Res.Within ds kept r.core r.slot s x) :
    Framed ds kept r.core r.slot s (settle s r x) := by
  cases x with
  | done t => exact Framed.trans h ((kept_advance t r hr).framed ds kept)
  | stay why t => exact Framed.trans h ((kept_holdIn t r why).framed ds kept)
  | trap e t =>
    simp only [settle]; split
    · exact Framed.trans h ((Undisturbed.trans (kept_setSplit t r _ (by exact Nat.le_refl _)) (kept_holdIn _ r 10)).framed ds kept)
    · exact Framed.trans h ((kept_takeTrap t r e _ _ _).framed ds kept)
  | moved t => exact h

/-- An instruction whose own effect keeps the frame keeps it however it ends: done, waiting, or in a trap. -/
theorem run_framed {ds : List Operand} {kept : Nat → Prop} {i : Instr} {c : Ctl} {s t : State} {body : View → State → Res} (hr : s.pick.ref.split < 4)
    (hb : ∀ v u, v.r = s.pick.ref → u.pick = s.pick → Res.Within ds kept s.pick.ref.core s.pick.ref.slot u (body v u)) (h : run i c s body = .next t) :
    Framed ds kept s.pick.ref.core s.pick.ref.slot s t := by
  have e : t = issueStep i c s body := by simpa [run] using h.symm
  subst e
  have tick : Undisturbed s.pick.ref.core s.pick.ref.slot s (sampleTick i s s.pick.ref) := by
    simp only [sampleTick]; split
    · exact kept_setSplit s s.pick.ref _ (by exact Nat.le_refl _)
    · exact Undisturbed.refl _ _ _
  have pick : (sampleTick i s s.pick.ref).pick = s.pick := by simp only [sampleTick]; split <;> rfl
  simp only [issueStep, atBoundary]
  split
  · split
    · exact (kept_holdIn s _ _).framed ds kept
    · split
      · exact (kept_holdIn s _ _).framed ds kept
      · simp only [takeWaiting]
        split
        · exact (Undisturbed.trans (kept_setSplit s s.pick.ref _ (by exact Nat.le_refl _)) (kept_takeTrap _ _ _ _ _ _)).framed ds kept
        · exact (Undisturbed.trans (kept_setSplit s s.pick.ref _ (by exact Nat.le_refl _)) (kept_takeTrap _ _ _ _ _ _)).framed ds kept
  · split
    · exact (kept_holdIn s _ _).framed ds kept
    · split
      · exact (kept_holdIn s _ _).framed ds kept
      · exact settle_framed hr ((Undisturbed.refl _ _ _).framed ds kept)
      · exact Framed.trans (tick.framed ds kept) (settle_framed hr (hb _ _ rfl pick))

/-! Loads. -/

/-- What reading at a home or through a snapshot leaves alone: strands, tiles, contexts, the tick, every byte outside DRAM, and
all of memory where no granule has errors or another grade. -/
structure Loaded (s t : State) : Prop where
  slots : ∀ a, (t.core a).slots = (s.core a).slots
  tiles : ∀ a, (t.core a).tiles = (s.core a).tiles ∧ (t.core a).cascade = (s.core a).cascade
  contexts : t.contexts = s.contexts
  tick : t.tick = s.tick
  wf : s.mem.wf = true → t.mem.wf = true
  clean : s.flips = [] → s.wgrade = [] → t.flips = [] ∧ t.wgrade = [] ∧ t.mem = s.mem
  far : s.mem.wf = true → ∀ key, isDram key = false → t.mem.read key = s.mem.read key

theorem Loaded.refl (s : State) : Loaded s s :=
  ⟨fun _ => rfl, fun _ => ⟨rfl, rfl⟩, rfl, rfl, id, fun a b => ⟨a, b, rfl⟩, fun _ _ _ => rfl⟩

theorem Loaded.trans {s t u : State} (a : Loaded s t) (b : Loaded t u) : Loaded s u where
  slots c := (b.slots c).trans (a.slots c)
  tiles c := ⟨(b.tiles c).1.trans (a.tiles c).1, (b.tiles c).2.trans (a.tiles c).2⟩
  contexts := b.contexts.trans a.contexts
  tick := b.tick.trans a.tick
  wf h := b.wf (a.wf h)
  clean h1 h2 := by
    obtain ⟨x, y, z⟩ := a.clean h1 h2
    obtain ⟨x', y', z'⟩ := b.clean x y
    exact ⟨x', y', z'.trans z⟩
  far h key hk := (b.far (a.wf h) key hk).trans (a.far h key hk)

/-- States with the same cores, contexts, tick, memory, and errors. -/
theorem loaded_of_parts {s t : State} (h1 : t.cores = s.cores) (h2 : t.contexts = s.contexts) (h3 : t.tick = s.tick) (h4 : t.mem = s.mem)
    (h5 : t.flips = s.flips) (h6 : t.wgrade = s.wgrade) : Loaded s t :=
  ⟨fun a => by simp only [State.core, h1], fun a => by simp [State.core, h1], h2, h3, fun h => by rw [h4]; exact h,
    fun a b => ⟨h5.trans a, h6.trans b, h4⟩, fun _ _ _ => by rw [h4]⟩

theorem loaded_setCore (s : State) (c : Nat) (k : Core) (h1 : k.slots = (s.core c).slots) (h2 : k.tiles = (s.core c).tiles)
    (h3 : k.cascade = (s.core c).cascade) : Loaded s (s.setCore c k) := by
  refine ⟨fun a => ?_, fun a => ?_, rfl, rfl, id, fun a b => ⟨a, b, rfl⟩, fun _ _ _ => rfl⟩
  · by_cases ha : a = c
    · subst ha; simpa using h1
    · rw [State.core_setCore_ne s k ha]
  · by_cases ha : a = c
    · subst ha; simpa using ⟨h2, h3⟩
    · rw [State.core_setCore_ne s k ha]; exact ⟨rfl, rfl⟩

theorem loaded_sendFlit (s : State) (p vc tag : Nat) (b : PeerOp) : Loaded s (sendFlit s p vc tag b) := by
  simp only [sendFlit]; split
  · exact Loaded.refl _
  · exact loaded_of_parts rfl rfl rfl rfl rfl rfl

theorem loaded_crossPeer (s : State) (key : Nat) (b : PeerOp) : Loaded s (crossPeer s key b) := by
  simp only [crossPeer]; split
  · exact loaded_sendFlit _ _ _ _ _
  · exact Loaded.refl _

theorem popCount_zero (w : Nat) : popCount (0 : BitVec w) = 0 := by
  simp [popCount]

theorem eccVerdict_zero (grade : Nat) : eccVerdict 0 grade = some .ok := by
  have h1 : ∀ w, popCount (0#w) = 0 := popCount_zero
  rcases grade with _ | _ | g
  · simp [eccVerdict, h1]
  · simp [eccVerdict, h1]
  · have h : wrongSymbols 0 = 0 := by decide
    simp only [eccVerdict, h]

theorem loaded_setStack (s : State) (n : Nat) (x : Stack) : Loaded s (s.setStack n x) := loaded_of_parts rfl rfl rfl rfl rfl rfl

theorem loaded_countCe (s : State) (g : Nat) : Loaded s (countCe s g) := loaded_setStack _ _ _
theorem loaded_countUc (s : State) (g : Nat) : Loaded s (countUc s g) := loaded_setStack _ _ _
theorem loaded_activate (s : State) (pa : Nat) : Loaded s (activate s pa) := loaded_setStack _ _ _

theorem clearFlips_parts (s : State) (g grade : Nat) : (clearFlips s g grade).cores = s.cores ∧ (clearFlips s g grade).contexts = s.contexts ∧
    (clearFlips s g grade).tick = s.tick ∧ (clearFlips s g grade).mem = s.mem := by
  simp only [clearFlips, State.setFlips]; split <;> exact ⟨rfl, rfl, rfl, rfl⟩

/-- A granule corrected, and its bytes replaced, while it has errors or another grade. -/
theorem loaded_gran {s : State} {g : Nat} (grade : Nat) (hg : 32 * g + 32 ≤ 2 ^ 64) (bs : List Byte) (hb : bs.length = 32)
    (hd : s.flips = [] → s.wgrade = [] → False) :
    Loaded s { clearFlips s g grade with mem := s.mem.writeList (dramKey (32 * g)) bs } := by
  obtain ⟨h1, h2, h3, h4⟩ := clearFlips_parts s g grade
  refine ⟨fun a => by simp only [State.core, h1], fun a => by simp [State.core, h1], h2, h3, fun h => Memory.writeList_wf _ _ _ h,
    fun a b => (hd a b).elim, fun h key hk => ?_⟩
  refine Memory.read_writeList_outside _ _ _ _ h ?_
  rw [hb]
  simp only [isDram, keySpace, spaceSize, dramKey] at hk ⊢
  simp at hk
  omega

theorem loaded_clearFlips {s : State} {g grade : Nat} (hd : s.flips = [] → False) : Loaded s (clearFlips s g grade) := by
  obtain ⟨h1, h2, h3, h4⟩ := clearFlips_parts s g grade
  exact ⟨fun a => by simp only [State.core, h1], fun a => by simp [State.core, h1], h2, h3, fun h => by rw [h4]; exact h,
    fun a _ => (hd a).elim, fun _ _ _ => by rw [h4]⟩

theorem turnBytes_length (bs : List Byte) (d : BitVec 256) : (turnBytes bs d).length = bs.length := by simp [turnBytes]

theorem readList_length (m : Memory) (a n : Nat) : (m.readList a n).length = n := by
  induction n generalizing a with
  | zero => rfl
  | succ n ih => simp [Memory.readList, ih]

theorem loaded_granOpen {s : State} {g : Nat} (grade : Nat) (hg : 32 * g + 32 ≤ 2 ^ 64) (hd : s.flips = [] → s.wgrade = [] → False) :
    Loaded s (granOpen s g grade).1 := by
  have draw : Loaded s s.draw.1 := loaded_of_parts rfl rfl rfl rfl rfl rfl
  simp only [granOpen]
  split
  · exact draw
  · exact Loaded.trans (Loaded.trans draw (loaded_gran grade hg _ (by simp [freeBytes]) hd)) (loaded_countCe _ _)
  · exact Loaded.trans draw (loaded_countUc _ _)

theorem loaded_granBeyond {s : State} {g : Nat} (grade : Nat) (hg : 32 * g + 32 ≤ 2 ^ 64) (hd : s.flips = [] → s.wgrade = [] → False) :
    Loaded s (granBeyond s g grade).1 := by
  simp only [granBeyond]
  split
  · exact Loaded.refl _
  · exact Loaded.trans (loaded_gran grade hg _ (by simp [turnBytes_length, storedBytes, readList_length]) hd) (loaded_countCe _ _)
  · exact loaded_countUc _ _

/-- A granule that is not poisoned and has no flipped bit has its check bits right. -/
theorem wrongBits_zero {s : State} {g grade : Nat} (hp : isPoisoned s g grade = false) (hf : s.flips = []) : wrongBits s g grade = 0 := by
  have f0 : s.flips.get 0 g = 0 := by rw [hf]; rfl
  simp only [wrongBits, f0]
  by_cases h : (grade = 2 && s.poison.contains g) = true
  · exfalso
    simp only [isPoisoned, wrongBits, f0, h, if_true] at hp
    simp only [Bool.and_eq_true, decide_eq_true_eq] at h
    rw [if_pos h.1] at hp
    revert hp
    decide
  · rw [if_neg h]

/-- A granule read. -/
theorem loaded_granRead (s : State) (g grade : Nat) (hg : 32 * g + 32 ≤ 2 ^ 64) : Loaded s (granRead s g grade).1 := by
  simp only [granRead]
  refine Loaded.trans (loaded_activate s (32 * g)) ?_
  generalize activate s (32 * g) = s
  split
  · rename_i h
    refine loaded_granOpen grade hg fun _ b => ?_
    simp [otherGrade, b, Tab.find] at h
  · split
    · exact loaded_countUc _ _
    · rename_i hp
      have low : eccVerdict (wrongBits s g grade) grade ≠ some .ok → s.flips = [] → False := by
        intro h a; rw [wrongBits_zero (by simpa using hp) a] at h; exact h (eccVerdict_zero grade)
      split
      · exact Loaded.refl _
      · rename_i h
        exact Loaded.trans (loaded_clearFlips (low (by rw [h]; simp))) (loaded_countCe _ _)
      · exact loaded_countUc _ _
      · rename_i h
        exact loaded_granBeyond grade hg fun a _ => low (by rw [h]; simp) a

theorem loaded_readHomeLine (s : State) (c line : Nat) (via : Via) : Loaded s (readHomeLine s c line via).1 := by
  simp only [readHomeLine]
  repeat' split
  all_goals first
    | exact Loaded.refl _
    | exact loaded_crossPeer _ _ _
    | exact Loaded.trans (loaded_granRead _ _ _ (by simp [granOf, keyAddr, spaceSize]; omega))
        (loaded_granRead _ _ _ (by simp [granOf, keyAddr, spaceSize]; omega))

theorem loaded_cacheLine (s : State) (k line : Nat) (d : BitVec 512) : Loaded s (cacheLine s k line d) := by
  simp only [cacheLine]; split <;> exact loaded_of_parts rfl rfl rfl rfl rfl rfl

theorem loaded_dropCached (s : State) (k line : Nat) : Loaded s (dropCached s k line) := by
  simp only [dropCached]; split
  · exact Loaded.refl _
  · exact loaded_of_parts rfl rfl rfl rfl rfl rfl

theorem loaded_fillLine (s : State) (c line : Nat) (via : Via) : Loaded s (fillLine s c line via).1 := by
  simp only [fillLine]
  have h := loaded_readHomeLine s c line via
  split
  · exact loaded_setCore s c _ rfl rfl rfl
  · split
    · rename_i e; rw [e] at h; exact h
    · rename_i e; rw [e] at h
      refine Loaded.trans h ?_
      split
      · split
        · exact Loaded.trans (loaded_cacheLine _ _ _ _) (loaded_setCore _ c _ (by exact rfl) (by exact rfl) (by exact rfl))
        · exact Loaded.trans (loaded_dropCached _ _ _) (loaded_setCore _ c _ (by exact rfl) (by exact rfl) (by exact rfl))
      · exact loaded_setCore _ c _ (by exact rfl) (by exact rfl) (by exact rfl)

theorem loaded_baseLine (s : State) (c line : Nat) (via : Via) : Loaded s (baseLine s c line via).1 := by
  simp only [baseLine]
  repeat' split
  all_goals first
    | exact Loaded.refl _
    | exact loaded_fillLine _ _ _ _

/-- A load through a core. -/
theorem loaded_loadBytes (s : State) (c key n : Nat) (via : Via) : Loaded s (loadBytes s c key n via).1 := by
  simp only [loadBytes]; split
  · exact Loaded.refl _
  · exact loaded_baseLine _ _ _ _

theorem loaded_eachPlace (c n : Nat) (s : State) (ps : List Place) : Loaded s (eachPlace (loadPlace c n) s ps).1 := by
  induction ps generalizing s with
  | nil => exact Loaded.refl _
  | cons p ps ih => exact Loaded.trans (loaded_loadBytes s c p.key n p.via) (ih _)

/-- A load keeps the frame, memory where no granule has errors or another grade. -/
theorem Loaded.framed {s t : State} (a : Loaded s t) (ds : List Operand) (c slot : Nat) :
    Framed ds (fun key => isDram key = false ∨ (s.flips = [] ∧ s.wgrade = [])) c slot s t := by
  have hs : ∀ x y, t.strandAt x y = s.strandAt x y := fun x y => by simp only [State.strandAt, a.slots]
  refine ⟨fun _ _ => by rw [hs], fun _ _ => by rw [hs], fun _ _ => by rw [hs], by rw [hs], by rw [hs]; exact BitVec.or_self, fun x y _ => hs x y,
    a.tiles, fun x => by simp only [State.ctx, a.contexts], a.tick, Nat.le_of_eq (by rw [hs]), a.wf, fun hw key hk _ => ?_⟩
  rcases hk with h | ⟨h1, h2⟩
  · exact a.far hw key h
  · rw [(a.clean h1 h2).2.2]

end Sys2Proof.Machine
end

