-- ==== Sys2Proof/Laws/Issue.lean ====
section
/-! SUPPORT. What the issue of an instruction comes to, once for all instructions: its effect when nothing precedes it, and
otherwise a trap or a wait. -/
namespace Sys2Proof.Machine

/-- With nothing before it, an instruction has its effect. -/
theorem run_ready (i : Instr) (c : Ctl) (s : State) (body : View → State → Res)
    (h0 : (s.view s.pick.ref c).sp.trapHeld = false) (h1 : lowestTrap (s.view s.pick.ref c).sp.takeable = none)
    (h2 : issueHeld (s.view s.pick.ref c).st s.pick.ref (s.view s.pick.ref c).pos = none)
    (h3 : precheck i (s.view s.pick.ref c) = none) :
    run i c s body = .next (settle (sampleTick i s s.pick.ref) s.pick.ref
      (body ((sampleTick i s s.pick.ref).view s.pick.ref c) (sampleTick i s s.pick.ref))) := by
  simp only [run, issueStep, atBoundary, h0, h1, h2, h3, Bool.false_eq_true, if_false]

/-- A failed check traps, where no SLU.IN waits. -/
theorem run_trap (i : Instr) (c : Ctl) (s : State) (body : View → State → Res) (t : TrapRec)
    (h0 : (s.view s.pick.ref c).sp.trapHeld = false) (h1 : lowestTrap (s.view s.pick.ref c).sp.takeable = none)
    (h2 : issueHeld (s.view s.pick.ref c).st s.pick.ref (s.view s.pick.ref c).pos = none)
    (h3 : precheck i (s.view s.pick.ref c) = some (.inr t)) (h4 : (s.split s.pick.ref).entering = false) :
    run i c s body = .next (takeTrap s s.pick.ref t (s.split s.pick.ref).running.h (s.split s.pick.ref).running.pos none) := by
  simp only [run, issueStep, atBoundary, h0, h1, h2, h3, h4, settle, Bool.false_eq_true, if_false]

/-- A handle that still runs is waited for. -/
theorem run_wait (i : Instr) (c : Ctl) (s : State) (body : View → State → Res) (why : Nat)
    (h0 : (s.view s.pick.ref c).sp.trapHeld = false) (h1 : lowestTrap (s.view s.pick.ref c).sp.takeable = none)
    (h2 : issueHeld (s.view s.pick.ref c).st s.pick.ref (s.view s.pick.ref c).pos = none)
    (h3 : precheck i (s.view s.pick.ref c) = some (.inl why)) :
    run i c s body = .next (holdIn s s.pick.ref why) := by
  simp only [run, issueStep, atBoundary, h0, h1, h2, h3, Bool.false_eq_true, if_false]

end Sys2Proof.Machine
end

