-- ==== Sys2Proof/Laws/PerInstr.lean ====
section
/-! SUPPORT. One lemma per instruction: the fields of its word read back as the instruction (R264-R275). A device step
has no word. -/
namespace Sys2Proof.Laws.EncodedForm
set_option Elab.async false

open Sys2Proof

/-- The fields an instruction is encoded in read back as the instruction. -/
def Statement (i : Instr) : Prop := i.wf = true → ∀ r, encodeRaw i = some r → r.instr = some i

theorem fcvt_wf {c : Ctl} {df sf : Fmt} {rm : Rnd} {sat ftz : Bool} {d a : Operand}
    (h : (Instr.fcvt c df sf rm sat ftz d a).wf = true) : df.isFloat = true ∧ sf.isFloat = true := by
  simp only [Instr.wf, Instr.combOk, Bool.and_eq_true] at h; exact ⟨h.2.1.1, h.2.1.2⟩

theorem unpack_wf {c : Ctl} {ty : Fmt} {pos : BitVec 3} {lut : Option (BitVec 2 × Bool)} {d a : Operand}
    (h : (Instr.unpack c ty pos lut d a).wf = true) : lut.isSome = (ty == .lut4) := by
  simp only [Instr.wf, Instr.combOk, Bool.and_eq_true] at h; simpa using h.2.2

theorem deCvt_mod (df sf : Fmt) (rm : Rnd) (h : df.isFloat = true) (h2 : sf.isFloat = true) :
    deCvt (modCvt df sf rm) = some (df, sf, rm) := by
  cases df <;> first | cases h | skip
  all_goals cases sf <;> first | cases h2 | skip
  all_goals cases rm <;> rfl

theorem sat_ftz (x y : Bool) : (BitVec.ofBool x ++ BitVec.ofBool y ++ 0#7 : BitVec 9)[8] = x ∧
    (BitVec.ofBool x ++ BitVec.ofBool y ++ 0#7 : BitVec 9)[7] = y := by
  cases x <;> cases y <;> exact ⟨rfl, rfl⟩

theorem lut_code (x : BitVec 2 × Bool) :
    ((lutB (some x)).extractLsb' 0 2, (lutC (some x))[0]) = x := by
  obtain ⟨k, e⟩ := x; cases e <;> revert k <;> decide

theorem iadd (c : Ctl) (ty : Fmt) (sat : Bool) (d a b : Operand) : Statement (.iadd c ty sat d a b) := by
  rintro - _ ⟨⟩
  simp [Raw.instr, Raw.row0, Ctl.raw]
theorem isub (c : Ctl) (ty : Fmt) (sat : Bool) (d a b : Operand) : Statement (.isub c ty sat d a b) := by
  rintro - _ ⟨⟩
  simp [Raw.instr, Raw.row0, Ctl.raw]
theorem imul (c : Ctl) (ty : Fmt) (sat : Bool) (d a b : Operand) : Statement (.imul c ty sat d a b) := by
  rintro - _ ⟨⟩
  simp [Raw.instr, Raw.row0, Ctl.raw]
theorem imulh (c : Ctl) (ty : Fmt) (sat : Bool) (d a b : Operand) : Statement (.imulh c ty sat d a b) := by
  rintro - _ ⟨⟩
  simp [Raw.instr, Raw.row0, Ctl.raw]
theorem imad (c : Ctl) (ty : Fmt) (sat : Bool) (d a b e : Operand) : Statement (.imad c ty sat d a b e) := by
  rintro - _ ⟨⟩
  simp [Raw.instr, Raw.row0, Ctl.raw]
theorem imadw (c : Ctl) (ty : Fmt) (sat : Bool) (d a b e : Operand) : Statement (.imadw c ty sat d a b e) := by
  rintro - _ ⟨⟩
  simp [Raw.instr, Raw.row0, Ctl.raw]
theorem iaddw (c : Ctl) (ty : Fmt) (sat : Bool) (d a b e : Operand) : Statement (.iaddw c ty sat d a b e) := by
  rintro - _ ⟨⟩
  simp [Raw.instr, Raw.row0, Ctl.raw]
theorem isubw (c : Ctl) (ty : Fmt) (sat : Bool) (d a b e : Operand) : Statement (.isubw c ty sat d a b e) := by
  rintro - _ ⟨⟩
  simp [Raw.instr, Raw.row0, Ctl.raw]
theorem iabs (c : Ctl) (ty : Fmt) (sat : Bool) (d a : Operand) : Statement (.iabs c ty sat d a) := by
  rintro - _ ⟨⟩
  simp [Raw.instr, Raw.row0, Ctl.raw]
theorem ineg (c : Ctl) (ty : Fmt) (sat : Bool) (d a : Operand) : Statement (.ineg c ty sat d a) := by
  rintro - _ ⟨⟩
  simp [Raw.instr, Raw.row0, Ctl.raw]
theorem imin (c : Ctl) (ty : Fmt) (sat : Bool) (d a b : Operand) : Statement (.imin c ty sat d a b) := by
  rintro - _ ⟨⟩
  simp [Raw.instr, Raw.row0, Ctl.raw]
theorem imax (c : Ctl) (ty : Fmt) (sat : Bool) (d a b : Operand) : Statement (.imax c ty sat d a b) := by
  rintro - _ ⟨⟩
  simp [Raw.instr, Raw.row0, Ctl.raw]
theorem iclamp (c : Ctl) (ty : Fmt) (sat : Bool) (d a b e : Operand) : Statement (.iclamp c ty sat d a b e) := by
  rintro - _ ⟨⟩
  simp [Raw.instr, Raw.row0, Ctl.raw]
theorem iand (c : Ctl) (w64 : Bool) (d a b : Operand) : Statement (.iand c w64 d a b) := by
  rintro - _ ⟨⟩
  simp [Raw.instr, Raw.row0, Ctl.raw]
theorem ior (c : Ctl) (w64 : Bool) (d a b : Operand) : Statement (.ior c w64 d a b) := by
  rintro - _ ⟨⟩
  simp [Raw.instr, Raw.row0, Ctl.raw]
theorem ixor (c : Ctl) (w64 : Bool) (d a b : Operand) : Statement (.ixor c w64 d a b) := by
  rintro - _ ⟨⟩
  simp [Raw.instr, Raw.row0, Ctl.raw]
theorem andn (c : Ctl) (w64 : Bool) (d a b : Operand) : Statement (.andn c w64 d a b) := by
  rintro - _ ⟨⟩
  simp [Raw.instr, Raw.row1, Ctl.raw]
theorem tri (c : Ctl) (tt : BitVec 8) (d a b e : Operand) : Statement (.tri c tt d a b e) := by
  rintro - _ ⟨⟩
  simp [Raw.instr, Raw.row1, Ctl.raw]
theorem shl (c : Ctl) (w64 clamp : Bool) (d a b : Operand) : Statement (.shl c w64 clamp d a b) := by
  rintro - _ ⟨⟩
  simp [Raw.instr, Raw.row1, Ctl.raw]
theorem shr (c : Ctl) (w64 clamp : Bool) (d a b : Operand) : Statement (.shr c w64 clamp d a b) := by
  rintro - _ ⟨⟩
  simp [Raw.instr, Raw.row1, Ctl.raw]
theorem sar (c : Ctl) (w64 clamp : Bool) (d a b : Operand) : Statement (.sar c w64 clamp d a b) := by
  rintro - _ ⟨⟩
  simp [Raw.instr, Raw.row1, Ctl.raw]
theorem rotl (c : Ctl) (w64 : Bool) (d a b : Operand) : Statement (.rotl c w64 d a b) := by
  rintro - _ ⟨⟩
  simp [Raw.instr, Raw.row1, Ctl.raw]
theorem funsh (c : Ctl) (clamp right : Bool) (d a b e : Operand) : Statement (.funsh c clamp right d a b e) := by
  rintro - _ ⟨⟩
  simp [Raw.instr, Raw.row1, Ctl.raw]
theorem popc (c : Ctl) (w64 : Bool) (d a : Operand) : Statement (.popc c w64 d a) := by
  rintro - _ ⟨⟩
  simp [Raw.instr, Raw.row1, Ctl.raw]
theorem clz (c : Ctl) (w64 : Bool) (d a : Operand) : Statement (.clz c w64 d a) := by
  rintro - _ ⟨⟩
  simp [Raw.instr, Raw.row1, Ctl.raw]
theorem ffs (c : Ctl) (w64 : Bool) (d a : Operand) : Statement (.ffs c w64 d a) := by
  rintro - _ ⟨⟩
  simp [Raw.instr, Raw.row1, Ctl.raw]
theorem brev (c : Ctl) (w64 : Bool) (d a : Operand) : Statement (.brev c w64 d a) := by
  rintro - _ ⟨⟩
  simp [Raw.instr, Raw.row1, Ctl.raw]
theorem bfx (c : Ctl) (sx : Bool) (d a b e : Operand) : Statement (.bfx c sx d a b e) := by
  rintro - _ ⟨⟩
  simp [Raw.instr, Raw.row1, Ctl.raw]
theorem bfi (c : Ctl) (d a b e : Operand) : Statement (.bfi c d a b e) := by
  rintro - _ ⟨⟩
  simp [Raw.instr, Raw.row1, Ctl.raw]
theorem icmp (c : Ctl) (ty : Fmt) (cond : Cond) (d a b : Operand) : Statement (.icmp c ty cond d a b) := by
  rintro - _ ⟨⟩
  simp [Raw.instr, Raw.row1, Ctl.raw]
theorem sel (c : Ctl) (w64 : Bool) (d a b e : Operand) : Statement (.sel c w64 d a b e) := by
  rintro - _ ⟨⟩
  simp [Raw.instr, Raw.row1, Ctl.raw]
theorem mov (c : Ctl) (w64 : Bool) (d a : Operand) : Statement (.mov c w64 d a) := by
  rintro - _ ⟨⟩
  simp [Raw.instr, Raw.row1, Ctl.raw]
theorem movi (c : Ctl) (d : Operand) (imm : BitVec 32) : Statement (.movi c d imm) := by
  rintro - _ ⟨⟩
  simp [Raw.instr, Raw.row2]
theorem iaddi (c : Ctl) (ty : Fmt) (sat : Bool) (d a : Operand) (imm : BitVec 18) : Statement (.iaddi c ty sat d a imm) := by
  rintro - _ ⟨⟩
  simp [Raw.instr, Raw.row2, Ctl.raw]
theorem imuli (c : Ctl) (ty : Fmt) (sat : Bool) (d a : Operand) (imm : BitVec 18) : Statement (.imuli c ty sat d a imm) := by
  rintro - _ ⟨⟩
  simp [Raw.instr, Raw.row2, Ctl.raw]
theorem andi (c : Ctl) (d a : Operand) (imm : BitVec 18) : Statement (.andi c d a imm) := by
  rintro - _ ⟨⟩
  simp [Raw.instr, Raw.row2, Ctl.raw]
theorem ori (c : Ctl) (d a : Operand) (imm : BitVec 18) : Statement (.ori c d a imm) := by
  rintro - _ ⟨⟩
  simp [Raw.instr, Raw.row2, Ctl.raw]
theorem xori (c : Ctl) (d a : Operand) (imm : BitVec 18) : Statement (.xori c d a imm) := by
  rintro - _ ⟨⟩
  simp [Raw.instr, Raw.row2, Ctl.raw]
theorem icmpi (c : Ctl) (ty : Fmt) (cond : Cond) (d a : Operand) (imm : BitVec 18) : Statement (.icmpi c ty cond d a imm) := by
  rintro - _ ⟨⟩
  simp [Raw.instr, Raw.row2, Ctl.raw]
theorem lea (c : Ctl) (sh : BitVec 3) (d a b : Operand) : Statement (.lea c sh d a b) := by
  rintro - _ ⟨⟩
  simp [Raw.instr, Raw.row2, Ctl.raw]
theorem leaw (c : Ctl) (sh : BitVec 3) (d a b : Operand) : Statement (.leaw c sh d a b) := by
  rintro - _ ⟨⟩
  simp [Raw.instr, Raw.row2, Ctl.raw]
theorem cvti (c : Ctl) (dty sty : Fmt) (sat : Bool) (d a : Operand) : Statement (.cvti c dty sty sat d a) := by
  rintro - _ ⟨⟩
  simp [Raw.instr, Raw.row2, Ctl.raw]
theorem idp4 (c : Ctl) (sa sb sat : Bool) (d a b e : Operand) : Statement (.idp4 c sa sb sat d a b e) := by
  rintro - _ ⟨⟩
  simp [Raw.instr, Raw.row2, Ctl.raw]
theorem idp8 (c : Ctl) (sa sb sat : Bool) (d a b e : Operand) : Statement (.idp8 c sa sb sat d a b e) := by
  rintro - _ ⟨⟩
  simp [Raw.instr, Raw.row2, Ctl.raw]
theorem fadd (c : Ctl) (rm : Rnd) (ftz : Bool) (d a b : Operand) : Statement (.fadd c rm ftz d a b) := by
  rintro - _ ⟨⟩
  simp [Raw.instr, Raw.row3, Ctl.raw]
theorem fsub (c : Ctl) (rm : Rnd) (ftz : Bool) (d a b : Operand) : Statement (.fsub c rm ftz d a b) := by
  rintro - _ ⟨⟩
  simp [Raw.instr, Raw.row3, Ctl.raw]
theorem fmul (c : Ctl) (rm : Rnd) (ftz : Bool) (d a b : Operand) : Statement (.fmul c rm ftz d a b) := by
  rintro - _ ⟨⟩
  simp [Raw.instr, Raw.row3, Ctl.raw]
theorem ffma (c : Ctl) (rm : Rnd) (ftz : Bool) (d a b e : Operand) : Statement (.ffma c rm ftz d a b e) := by
  rintro - _ ⟨⟩
  simp [Raw.instr, Raw.row3, Ctl.raw]
theorem fmin (c : Ctl) (ftz : Bool) (d a b : Operand) : Statement (.fmin c ftz d a b) := by
  rintro - _ ⟨⟩
  simp [Raw.instr, Raw.row3, Ctl.raw]
theorem fmax (c : Ctl) (ftz : Bool) (d a b : Operand) : Statement (.fmax c ftz d a b) := by
  rintro - _ ⟨⟩
  simp [Raw.instr, Raw.row3, Ctl.raw]
theorem fcmp (c : Ctl) (ty : Fmt) (cond : Cond) (d a b : Operand) : Statement (.fcmp c ty cond d a b) := by
  rintro - _ ⟨⟩
  simp [Raw.instr, Raw.row3, Ctl.raw]
theorem fclass (c : Ctl) (d a : Operand) : Statement (.fclass c d a) := by
  rintro - _ ⟨⟩
  simp [Raw.instr, Raw.row3, Ctl.raw]
theorem frnd (c : Ctl) (rm : Rnd) (ftz : Bool) (d a : Operand) : Statement (.frnd c rm ftz d a) := by
  rintro - _ ⟨⟩
  simp [Raw.instr, Raw.row3, Ctl.raw]
theorem fcvt (c : Ctl) (df sf : Fmt) (rm : Rnd) (sat ftz : Bool) (d a : Operand) : Statement (.fcvt c df sf rm sat ftz d a) := by
  rintro h _ ⟨⟩
  have h2 := (fcvt_wf h)
  simp [Raw.instr, Raw.row3, Ctl.raw, deCvt_mod df sf rm h2.1 h2.2, sat_ftz]
theorem ftoi (c : Ctl) (ty : Fmt) (rm : Rnd) (ftz : Bool) (d a : Operand) : Statement (.ftoi c ty rm ftz d a) := by
  rintro - _ ⟨⟩
  simp [Raw.instr, Raw.row3, Ctl.raw]
theorem itof (c : Ctl) (ty : Fmt) (rm : Rnd) (ftz : Bool) (d a : Operand) : Statement (.itof c ty rm ftz d a) := by
  rintro - _ ⟨⟩
  simp [Raw.instr, Raw.row3, Ctl.raw]
theorem fscale (c : Ctl) (rm : Rnd) (ftz : Bool) (d a b : Operand) : Statement (.fscale c rm ftz d a b) := by
  rintro - _ ⟨⟩
  simp [Raw.instr, Raw.row3, Ctl.raw]
theorem frcp (c : Ctl) (ftz : Bool) (d a : Operand) : Statement (.frcp c ftz d a) := by
  rintro - _ ⟨⟩
  simp [Raw.instr, Raw.row3, Ctl.raw]
theorem frsq (c : Ctl) (ftz : Bool) (d a : Operand) : Statement (.frsq c ftz d a) := by
  rintro - _ ⟨⟩
  simp [Raw.instr, Raw.row3, Ctl.raw]
theorem fsqrt (c : Ctl) (ftz : Bool) (d a : Operand) : Statement (.fsqrt c ftz d a) := by
  rintro - _ ⟨⟩
  simp [Raw.instr, Raw.row3, Ctl.raw]
theorem fex2 (c : Ctl) (ftz : Bool) (d a : Operand) : Statement (.fex2 c ftz d a) := by
  rintro - _ ⟨⟩
  simp [Raw.instr, Raw.row4, Ctl.raw]
theorem flg2 (c : Ctl) (ftz : Bool) (d a : Operand) : Statement (.flg2 c ftz d a) := by
  rintro - _ ⟨⟩
  simp [Raw.instr, Raw.row4, Ctl.raw]
theorem fsin (c : Ctl) (ftz : Bool) (d a : Operand) : Statement (.fsin c ftz d a) := by
  rintro - _ ⟨⟩
  simp [Raw.instr, Raw.row4, Ctl.raw]
theorem fcos (c : Ctl) (ftz : Bool) (d a : Operand) : Statement (.fcos c ftz d a) := by
  rintro - _ ⟨⟩
  simp [Raw.instr, Raw.row4, Ctl.raw]
theorem ftanh (c : Ctl) (ftz : Bool) (d a : Operand) : Statement (.ftanh c ftz d a) := by
  rintro - _ ⟨⟩
  simp [Raw.instr, Raw.row4, Ctl.raw]
theorem hadd2 (c : Ctl) (bf : Bool) (rm : Rnd) (d a b : Operand) : Statement (.hadd2 c bf rm d a b) := by
  rintro - _ ⟨⟩
  simp [Raw.instr, Raw.row4, Ctl.raw]
theorem hmul2 (c : Ctl) (bf : Bool) (rm : Rnd) (d a b : Operand) : Statement (.hmul2 c bf rm d a b) := by
  rintro - _ ⟨⟩
  simp [Raw.instr, Raw.row4, Ctl.raw]
theorem hfma2 (c : Ctl) (bf : Bool) (rm : Rnd) (d a b e : Operand) : Statement (.hfma2 c bf rm d a b e) := by
  rintro - _ ⟨⟩
  simp [Raw.instr, Raw.row4, Ctl.raw]
theorem hmin2 (c : Ctl) (bf : Bool) (d a b : Operand) : Statement (.hmin2 c bf d a b) := by
  rintro - _ ⟨⟩
  simp [Raw.instr, Raw.row4, Ctl.raw]
theorem hmax2 (c : Ctl) (bf : Bool) (d a b : Operand) : Statement (.hmax2 c bf d a b) := by
  rintro - _ ⟨⟩
  simp [Raw.instr, Raw.row4, Ctl.raw]
theorem pack (c : Ctl) (ty : Fmt) (pos : BitVec 3) (d a b : Operand) : Statement (.pack c ty pos d a b) := by
  rintro - _ ⟨⟩
  simp [Raw.instr, Raw.row4, Ctl.raw]
theorem unpack (c : Ctl) (ty : Fmt) (pos : BitVec 3) (lut : Option (BitVec 2 × Bool)) (d a : Operand) : Statement (.unpack c ty pos lut d a) := by
  rintro h _ ⟨⟩
  have h2 := (unpack_wf h)
  have h3 : deLut ty (lutB lut) (lutC lut) = lut := by
    cases lut with
    | none => simp at h2; simp [deLut, h2]
    | some x => simp at h2; simp [deLut, h2, lut_code x]
  simp [Raw.instr, Raw.row4, Ctl.raw, h3]
theorem fdot2 (c : Ctl) (bf : Bool) (rm : Rnd) (d a b e : Operand) : Statement (.fdot2 c bf rm d a b e) := by
  rintro - _ ⟨⟩
  simp [Raw.instr, Raw.row4, Ctl.raw]
theorem fstat (c : Ctl) (d : Operand) : Statement (.fstat c d) := by
  rintro - _ ⟨⟩
  simp [Raw.instr, Raw.row4, Ctl.raw]
theorem plop (c : Ctl) (tt : BitVec 8) (d a b e : Operand) : Statement (.plop c tt d a b e) := by
  rintro - _ ⟨⟩
  simp [Raw.instr, Raw.row6, Ctl.raw]
theorem pmov (c : Ctl) (d a : Operand) : Statement (.pmov c d a) := by
  rintro - _ ⟨⟩
  simp [Raw.instr, Raw.row6, Ctl.raw]
theorem vote (c : Ctl) (form : VoteForm) (d a : Operand) : Statement (.vote c form d a) := by
  rintro - _ ⟨⟩
  simp [Raw.instr, Raw.row6, Ctl.raw]
theorem elect (c : Ctl) (d : Operand) : Statement (.elect c d) := by
  rintro - _ ⟨⟩
  simp [Raw.instr, Raw.row6, Ctl.raw]
theorem shfl (c : Ctl) (form : ShflForm) (d a b : Operand) : Statement (.shfl c form d a b) := by
  rintro - _ ⟨⟩
  simp [Raw.instr, Raw.row6, Ctl.raw]
theorem perm (c : Ctl) (d a b : Operand) : Statement (.perm c d a b) := by
  rintro - _ ⟨⟩
  simp [Raw.instr, Raw.row6, Ctl.raw]
theorem bcast (c : Ctl) (d a b : Operand) : Statement (.bcast c d a b) := by
  rintro - _ ⟨⟩
  simp [Raw.instr, Raw.row6, Ctl.raw]
theorem lred (c : Ctl) (op : ROp) (ty : RTy) (ftz : Bool) (d a : Operand) : Statement (.lred c op ty ftz d a) := by
  rintro - _ ⟨⟩
  simp [Raw.instr, Raw.row6, Ctl.raw]
theorem lscan (c : Ctl) (op : ROp) (ty : RTy) (ftz excl : Bool) (d a : Operand) : Statement (.lscan c op ty ftz excl d a) := by
  rintro - _ ⟨⟩
  simp [Raw.instr, Raw.row6, Ctl.raw]
theorem matchL (c : Ctl) (w64 rank : Bool) (d a : Operand) : Statement (.matchL c w64 rank d a) := by
  rintro - _ ⟨⟩
  simp [Raw.instr, Raw.row6, Ctl.raw]
theorem ld (c : Ctl) (sg : SegIx) (wd : Width) (sx a64 : Bool) (d a b : Operand) : Statement (.ld c sg wd sx a64 d a b) := by
  rintro - _ ⟨⟩
  simp [Raw.instr, Raw.row7, Ctl.raw]
theorem st (c : Ctl) (sg : SegIx) (wd : Width) (a64 : Bool) (d a b : Operand) : Statement (.st c sg wd a64 d a b) := by
  rintro - _ ⟨⟩
  simp [Raw.instr, Raw.row7, Ctl.raw]
theorem ldMd (c : Ctl) (sg : SegIx) (a64 : Bool) (d a b : Operand) : Statement (.ldMd c sg a64 d a b) := by
  rintro - _ ⟨⟩
  simp [Raw.instr, Raw.row7, Ctl.raw]
theorem stMd (c : Ctl) (sg : SegIx) (a64 : Bool) (d a b : Operand) : Statement (.stMd c sg a64 d a b) := by
  rintro - _ ⟨⟩
  simp [Raw.instr, Raw.row7, Ctl.raw]
theorem lds (c : Ctl) (sg : SegIx) (wd : Width) (sx a64 : Bool) (d a b : Operand) : Statement (.lds c sg wd sx a64 d a b) := by
  rintro - _ ⟨⟩
  simp [Raw.instr, Raw.row7, Ctl.raw]
theorem sts (c : Ctl) (sg : SegIx) (wd : Width) (a64 : Bool) (d a b : Operand) : Statement (.sts c sg wd a64 d a b) := by
  rintro - _ ⟨⟩
  simp [Raw.instr, Raw.row7, Ctl.raw]
theorem ldt (c : Ctl) (sg : SegIx) (sc : Scope) (a64 : Bool) (d a b : Operand) : Statement (.ldt c sg sc a64 d a b) := by
  rintro - _ ⟨⟩
  simp [Raw.instr, Raw.row7, Ctl.raw]
theorem ldtk (c : Ctl) (sg : SegIx) (sc : Scope) (a64 : Bool) (d a b : Operand) : Statement (.ldtk c sg sc a64 d a b) := by
  rintro - _ ⟨⟩
  simp [Raw.instr, Raw.row7, Ctl.raw]
theorem stt (c : Ctl) (sg : SegIx) (sc : Scope) (a64 : Bool) (d a b : Operand) : Statement (.stt c sg sc a64 d a b) := by
  rintro - _ ⟨⟩
  simp [Raw.instr, Raw.row7, Ctl.raw]
theorem sttf (c : Ctl) (sg : SegIx) (sc : Scope) (a64 : Bool) (d a b : Operand) : Statement (.sttf c sg sc a64 d a b) := by
  rintro - _ ⟨⟩
  simp [Raw.instr, Raw.row7, Ctl.raw]
theorem tagRd (c : Ctl) (sg : SegIx) (a64 : Bool) (d a b : Operand) : Statement (.tagRd c sg a64 d a b) := by
  rintro - _ ⟨⟩
  simp [Raw.instr, Raw.row7, Ctl.raw]
theorem tagClr (c : Ctl) (sg : SegIx) (a64 : Bool) (a b : Operand) : Statement (.tagClr c sg a64 a b) := by
  rintro - _ ⟨⟩
  simp [Raw.instr, Raw.row7, Ctl.raw]
theorem phase (c : Ctl) (k : PhaseKind) (sc : Scope) : Statement (.phase c k sc) := by
  rintro - _ ⟨⟩
  simp [Raw.instr, Raw.row7, Ctl.raw]
theorem scfence (c : Ctl) : Statement (.scfence c) := by
  rintro - _ ⟨⟩
  simp [Raw.instr, Raw.row7, Ctl.raw]
theorem atom (c : Ctl) (sg : SegIx) (op : AOp) (o : Order) (sc : Scope) (w64 a64 : Bool) (d a b : Operand) : Statement (.atom c sg op o sc w64 a64 d a b) := by
  rintro - _ ⟨⟩
  simp [Raw.instr, Raw.row7, Ctl.raw]
theorem acas (c : Ctl) (sg : SegIx) (o : Order) (sc : Scope) (w64 facq a64 : Bool) (d a b : Operand) : Statement (.acas c sg o sc w64 facq a64 d a b) := by
  rintro - _ ⟨⟩
  simp [Raw.instr, Raw.row7, Ctl.raw]
theorem lr (c : Ctl) (sg : SegIx) (o : Order) (sc : Scope) (w64 a64 : Bool) (d a : Operand) : Statement (.lr c sg o sc w64 a64 d a) := by
  rintro - _ ⟨⟩
  simp [Raw.instr, Raw.row7, Ctl.raw]
theorem sc (c : Ctl) (sg : SegIx) (o : Order) (sc : Scope) (w64 a64 : Bool) (d a b : Operand) : Statement (.sc c sg o sc w64 a64 d a b) := by
  rintro - _ ⟨⟩
  simp [Raw.instr, Raw.row7, Ctl.raw]
theorem hwait (c : Ctl) (acq : Bool) (nt : Option Operand) (a : Operand) : Statement (.hwait c acq nt a) := by
  rintro - _ ⟨⟩
  simp [Raw.instr, Raw.row9, Ctl.raw]
theorem htest (c : Ctl) (d a : Operand) : Statement (.htest c d a) := by
  rintro - _ ⟨⟩
  simp [Raw.instr, Raw.row9, Ctl.raw]
theorem hcancel (c : Ctl) (a : Operand) : Statement (.hcancel c a) := by
  rintro - _ ⟨⟩
  simp [Raw.instr, Raw.row9, Ctl.raw]
theorem hmov (c : Ctl) (toH : Bool) (d a : Operand) : Statement (.hmov c toH d a) := by
  rintro - _ ⟨⟩
  simp [Raw.instr, Raw.row9, Ctl.raw]
theorem hprom (c : Ctl) (a : Operand) : Statement (.hprom c a) := by
  rintro - _ ⟨⟩
  simp [Raw.instr, Raw.row9, Ctl.raw]
theorem bcbInit (c : Ctl) (sg : SegIx) (a b : Operand) : Statement (.bcbInit c sg a b) := by
  rintro - _ ⟨⟩
  simp [Raw.instr, Raw.row9, Ctl.raw]
theorem bcbExp (c : Ctl) (sg : SegIx) (a b : Operand) : Statement (.bcbExp c sg a b) := by
  rintro - _ ⟨⟩
  simp [Raw.instr, Raw.row9, Ctl.raw]
theorem bcbArr (c : Ctl) (sg : SegIx) (a b : Operand) : Statement (.bcbArr c sg a b) := by
  rintro - _ ⟨⟩
  simp [Raw.instr, Raw.row9, Ctl.raw]
theorem bcbWait (c : Ctl) (sg : SegIx) (a b : Operand) : Statement (.bcbWait c sg a b) := by
  rintro - _ ⟨⟩
  simp [Raw.instr, Raw.row9, Ctl.raw]
theorem bcbTest (c : Ctl) (sg : SegIx) (d a b : Operand) : Statement (.bcbTest c sg d a b) := by
  rintro - _ ⟨⟩
  simp [Raw.instr, Raw.row9, Ctl.raw]
theorem tidLd (c : Ctl) (a b : Operand) : Statement (.tidLd c a b) := by
  rintro - _ ⟨⟩
  simp [Raw.instr, Raw.rowA, Ctl.raw]
theorem tidInv (c : Ctl) (a : Operand) : Statement (.tidInv c a) := by
  rintro - _ ⟨⟩
  simp [Raw.instr, Raw.rowA, Ctl.raw]
theorem gang (c : Ctl) (a : Operand) : Statement (.gang c a) := by
  rintro - _ ⟨⟩
  simp [Raw.instr, Raw.rowA, Ctl.raw]
theorem cbLd (c : Ctl) (d a : Operand) : Statement (.cbLd c d a) := by
  rintro - _ ⟨⟩
  simp [Raw.instr, Raw.rowA, Ctl.raw]
theorem mma (c : Ctl) (sat : Bool) (shape : Shape) (d a : Operand) : Statement (.mma c sat shape d a) := by
  rintro - _ ⟨⟩
  simp [Raw.instr, Raw.rowA, Ctl.raw]
theorem mmaSp (c : Ctl) (sat : Bool) (shape : Shape) (d a : Operand) : Statement (.mmaSp c sat shape d a) := by
  rintro - _ ⟨⟩
  simp [Raw.instr, Raw.rowA, Ctl.raw]
theorem mmaQ (c : Ctl) (sat : Bool) (shape : Shape) (d a : Operand) : Statement (.mmaQ c sat shape d a) := by
  rintro - _ ⟨⟩
  simp [Raw.instr, Raw.rowA, Ctl.raw]
theorem accZero (c : Ctl) (wide : Bool) (d : Operand) : Statement (.accZero c wide d) := by
  rintro - _ ⟨⟩
  simp [Raw.instr, Raw.rowA, Ctl.raw]
theorem accLd (c : Ctl) (wide : Bool) (d a : Operand) : Statement (.accLd c wide d a) := by
  rintro - _ ⟨⟩
  simp [Raw.instr, Raw.rowA, Ctl.raw]
theorem accSt (c : Ctl) (wide sat : Bool) (a b : Operand) : Statement (.accSt c wide sat a b) := by
  rintro - _ ⟨⟩
  simp [Raw.instr, Raw.rowA, Ctl.raw]
theorem accGet (c : Ctl) (wide : Bool) (d a b : Operand) : Statement (.accGet c wide d a b) := by
  rintro - _ ⟨⟩
  simp [Raw.instr, Raw.rowA, Ctl.raw]
theorem accPut (c : Ctl) (wide : Bool) (d a b : Operand) : Statement (.accPut c wide d a b) := by
  rintro - _ ⟨⟩
  simp [Raw.instr, Raw.rowA, Ctl.raw]
theorem tmv (c : Ctl) (nocnt : Bool) (d a : Operand) : Statement (.tmv c nocnt d a) := by
  rintro - _ ⟨⟩
  simp [Raw.instr, Raw.rowA, Ctl.raw]
theorem fireRd (c : Ctl) (a : Operand) : Statement (.fireRd c a) := by
  rintro - _ ⟨⟩
  simp [Raw.instr, Raw.rowA, Ctl.raw]
theorem smp (c : Ctl) (d a b e : Operand) : Statement (.smp c d a b e) := by
  rintro - _ ⟨⟩
  simp [Raw.instr, Raw.rowB, Ctl.raw]
theorem smpc (c : Ctl) (d a b e : Operand) : Statement (.smpc c d a b e) := by
  rintro - _ ⟨⟩
  simp [Raw.instr, Raw.rowB, Ctl.raw]
theorem tld (c : Ctl) (d a b e : Operand) : Statement (.tld c d a b e) := by
  rintro - _ ⟨⟩
  simp [Raw.instr, Raw.rowB, Ctl.raw]
theorem resQ (c : Ctl) (d a : Operand) : Statement (.resQ c d a) := by
  rintro - _ ⟨⟩
  simp [Raw.instr, Raw.rowB, Ctl.raw]
theorem vbary (c : Ctl) (d : Operand) (attr : BitVec 4) (b : Operand) : Statement (.vbary c d attr b) := by
  rintro - _ ⟨⟩
  simp [Raw.instr, Raw.rowB, Ctl.raw]
theorem vsplit (c : Ctl) (a : Operand) : Statement (.vsplit c a) := by
  rintro - _ ⟨⟩
  simp [Raw.instr, Raw.rowB, Ctl.raw]
theorem vkill (c : Ctl) (a : Operand) : Statement (.vkill c a) := by
  rintro - _ ⟨⟩
  simp [Raw.instr, Raw.rowB, Ctl.raw]
theorem outc (c : Ctl) (a : Operand) : Statement (.outc c a) := by
  rintro - _ ⟨⟩
  simp [Raw.instr, Raw.rowB, Ctl.raw]
theorem outz (c : Ctl) (a : Operand) : Statement (.outz c a) := by
  rintro - _ ⟨⟩
  simp [Raw.instr, Raw.rowB, Ctl.raw]
theorem outv (c : Ctl) (which : Option (BitVec 4)) (a : Operand) : Statement (.outv c which a) := by
  rintro - _ ⟨⟩
  simp [Raw.instr, Raw.rowB, Ctl.raw]
theorem recPush (c : Ctl) (a : Operand) : Statement (.recPush c a) := by
  rintro - _ ⟨⟩
  simp [Raw.instr, Raw.rowB, Ctl.raw]
theorem recPop (c : Ctl) (d e : Operand) : Statement (.recPop c d e) := by
  rintro - _ ⟨⟩
  simp [Raw.instr, Raw.rowB, Ctl.raw]
theorem recDone (c : Ctl) : Statement (.recDone c) := by
  rintro - _ ⟨⟩
  simp [Raw.instr, Raw.rowB, Ctl.raw]
theorem bra (c : Ctl) (imm : BitVec 32) : Statement (.bra c imm) := by
  rintro - _ ⟨⟩
  simp [Raw.instr, Raw.rowC]
theorem br (c : Ctl) (dist : BitVec 9) (imm : BitVec 32) : Statement (.br c dist imm) := by
  rintro - _ ⟨⟩
  simp [Raw.instr, Raw.rowC]
theorem brx (c : Ctl) (a : Operand) : Statement (.brx c a) := by
  rintro - _ ⟨⟩
  simp [Raw.instr, Raw.rowC, Ctl.raw]
theorem call (c : Ctl) (d : Operand) (imm : BitVec 32) : Statement (.call c d imm) := by
  rintro - _ ⟨⟩
  simp [Raw.instr, Raw.rowC]
theorem callx (c : Ctl) (d a : Operand) : Statement (.callx c d a) := by
  rintro - _ ⟨⟩
  simp [Raw.instr, Raw.rowC, Ctl.raw]
theorem ret (c : Ctl) (a : Operand) : Statement (.ret c a) := by
  rintro - _ ⟨⟩
  simp [Raw.instr, Raw.rowC, Ctl.raw]
theorem reconv (c : Ctl) : Statement (.reconv c) := by
  rintro - _ ⟨⟩
  simp [Raw.instr, Raw.rowC, Ctl.raw]
theorem exit (c : Ctl) : Statement (.exit c) := by
  rintro - _ ⟨⟩
  simp [Raw.instr, Raw.rowC, Ctl.raw]
theorem yield (c : Ctl) : Statement (.yield c) := by
  rintro - _ ⟨⟩
  simp [Raw.instr, Raw.rowC, Ctl.raw]
theorem sleep (c : Ctl) (a : Operand) : Statement (.sleep c a) := by
  rintro - _ ⟨⟩
  simp [Raw.instr, Raw.rowC, Ctl.raw]
theorem sleepu (c : Ctl) (a : Operand) : Statement (.sleepu c a) := by
  rintro - _ ⟨⟩
  simp [Raw.instr, Raw.rowC, Ctl.raw]
theorem trap (c : Ctl) (imm : BitVec 8) : Statement (.trap c imm) := by
  rintro - _ ⟨⟩
  simp [Raw.instr, Raw.rowC, Ctl.raw]
theorem bkpt (c : Ctl) : Statement (.bkpt c) := by
  rintro - _ ⟨⟩
  simp [Raw.instr, Raw.rowC, Ctl.raw]
theorem tret (c : Ctl) : Statement (.tret c) := by
  rintro - _ ⟨⟩
  simp [Raw.instr, Raw.rowC, Ctl.raw]
theorem cjoin (c : Ctl) (d a : Operand) : Statement (.cjoin c d a) := by
  rintro - _ ⟨⟩
  simp [Raw.instr, Raw.rowC, Ctl.raw]
theorem cleave (c : Ctl) (d a : Operand) : Statement (.cleave c d a) := by
  rintro - _ ⟨⟩
  simp [Raw.instr, Raw.rowC, Ctl.raw]
theorem cnew (c : Ctl) (d : Operand) : Statement (.cnew c d) := by
  rintro - _ ⟨⟩
  simp [Raw.instr, Raw.rowD, Ctl.raw]
theorem bar (c : Ctl) (o : BarOrder) (crew : Option Operand) : Statement (.bar c o crew) := by
  rintro - _ ⟨⟩
  simp [Raw.instr, Raw.rowD, Ctl.raw]
theorem barp (c : Ctl) (op : ROp) (ty : RTy) (ftz : Bool) (o : BarOrder) (d a b : Operand) : Statement (.barp c op ty ftz o d a b) := by
  rintro - _ ⟨⟩
  simp [Raw.instr, Raw.rowD, Ctl.raw]
theorem sluIn (c : Ctl) (init : Bool) (d a b : Operand) : Statement (.sluIn c init d a b) := by
  rintro - _ ⟨⟩
  simp [Raw.instr, Raw.rowD, Ctl.raw]
theorem sluOut (c : Ctl) (a : Operand) : Statement (.sluOut c a) := by
  rintro - _ ⟨⟩
  simp [Raw.instr, Raw.rowD, Ctl.raw]
theorem sluTry (c : Ctl) (d a b e : Operand) : Statement (.sluTry c d a b e) := by
  rintro - _ ⟨⟩
  simp [Raw.instr, Raw.rowD, Ctl.raw]
theorem vgrow (c : Ctl) (a : Operand) : Statement (.vgrow c a) := by
  rintro - _ ⟨⟩
  simp [Raw.instr, Raw.rowD, Ctl.raw]
theorem vshrink (c : Ctl) (a : Operand) : Statement (.vshrink c a) := by
  rintro - _ ⟨⟩
  simp [Raw.instr, Raw.rowD, Ctl.raw]
theorem launch (c : Ctl) (d a b : Operand) : Statement (.launch c d a b) := by
  rintro - _ ⟨⟩
  simp [Raw.instr, Raw.rowD, Ctl.raw]
theorem csrr (c : Ctl) (d : Operand) (num : BitVec 9) : Statement (.csrr c d num) := by
  rintro - _ ⟨⟩
  simp [Raw.instr, Raw.rowD, Ctl.raw]
theorem csrw (c : Ctl) (a : Operand) (num : BitVec 9) : Statement (.csrw c a num) := by
  rintro - _ ⟨⟩
  simp [Raw.instr, Raw.rowD, Ctl.raw]
theorem segLd (c : Ctl) (sg : SegIx) (a : Operand) : Statement (.segLd c sg a) := by
  rintro - _ ⟨⟩
  simp [Raw.instr, Raw.rowD, Ctl.raw]
theorem tlbInv (c : Ctl) (k : TlbInv) : Statement (.tlbInv c k) := by
  rintro - _ ⟨⟩
  simp [Raw.instr, Raw.rowD, Ctl.raw]
theorem xcLoad (c : Ctl) (h : Option (BitVec 4)) (a b : BitVec 5) : Statement (.xcLoad c h a b) := by
  rintro - _ ⟨⟩
  cases h <;> simp [Raw.instr, Raw.row9, Raw.cop, Ctl.rawCop, Operand.code]
theorem xcStore (c : Ctl) (h : Option (BitVec 4)) (a b : BitVec 5) : Statement (.xcStore c h a b) := by
  rintro - _ ⟨⟩
  cases h <;> simp [Raw.instr, Raw.row9, Raw.cop, Ctl.rawCop, Operand.code]
theorem xcMcast (c : Ctl) (h : Option (BitVec 4)) (a b : BitVec 5) : Statement (.xcMcast c h a b) := by
  rintro - _ ⟨⟩
  cases h <;> simp [Raw.instr, Raw.row9, Raw.cop, Ctl.rawCop, Operand.code]
theorem xcGather (c : Ctl) (h : Option (BitVec 4)) (a b : BitVec 5) : Statement (.xcGather c h a b) := by
  rintro - _ ⟨⟩
  cases h <;> simp [Raw.instr, Raw.row9, Raw.cop, Ctl.rawCop, Operand.code]
theorem xcScatter (c : Ctl) (h : Option (BitVec 4)) (a b : BitVec 5) : Statement (.xcScatter c h a b) := by
  rintro - _ ⟨⟩
  cases h <;> simp [Raw.instr, Raw.row9, Raw.cop, Ctl.rawCop, Operand.code]
theorem xcFill (c : Ctl) (h : Option (BitVec 4)) (a b : BitVec 5) : Statement (.xcFill c h a b) := by
  rintro - _ ⟨⟩
  cases h <;> simp [Raw.instr, Raw.row9, Raw.cop, Ctl.rawCop, Operand.code]
theorem xcPeer (c : Ctl) (h : Option (BitVec 4)) (a b : BitVec 5) : Statement (.xcPeer c h a b) := by
  rintro - _ ⟨⟩
  cases h <;> simp [Raw.instr, Raw.row9, Raw.cop, Ctl.rawCop, Operand.code]
theorem xcCsum (c : Ctl) (h : Option (BitVec 4)) (a b : BitVec 5) : Statement (.xcCsum c h a b) := by
  rintro - _ ⟨⟩
  cases h <;> simp [Raw.instr, Raw.row9, Raw.cop, Ctl.rawCop, Operand.code]
theorem basAxpby (c : Ctl) (h : Option (BitVec 4)) (a b : BitVec 5) : Statement (.basAxpby c h a b) := by
  rintro - _ ⟨⟩
  cases h <;> simp [Raw.instr, Raw.row9, Raw.cop, Ctl.rawCop, Operand.code]
theorem basScal (c : Ctl) (h : Option (BitVec 4)) (a b : BitVec 5) : Statement (.basScal c h a b) := by
  rintro - _ ⟨⟩
  cases h <;> simp [Raw.instr, Raw.row9, Raw.cop, Ctl.rawCop, Operand.code]
theorem basSgd (c : Ctl) (h : Option (BitVec 4)) (a b : BitVec 5) : Statement (.basSgd c h a b) := by
  rintro - _ ⟨⟩
  cases h <;> simp [Raw.instr, Raw.row9, Raw.cop, Ctl.rawCop, Operand.code]
theorem basMom (c : Ctl) (h : Option (BitVec 4)) (a b : BitVec 5) : Statement (.basMom c h a b) := by
  rintro - _ ⟨⟩
  cases h <;> simp [Raw.instr, Raw.row9, Raw.cop, Ctl.rawCop, Operand.code]
theorem basSum (c : Ctl) (h : Option (BitVec 4)) (a b : BitVec 5) : Statement (.basSum c h a b) := by
  rintro - _ ⟨⟩
  cases h <;> simp [Raw.instr, Raw.row9, Raw.cop, Ctl.rawCop, Operand.code]
theorem basFill (c : Ctl) (h : Option (BitVec 4)) (a b : BitVec 5) : Statement (.basFill c h a b) := by
  rintro - _ ⟨⟩
  cases h <;> simp [Raw.instr, Raw.row9, Raw.cop, Ctl.rawCop, Operand.code]
theorem basCopy (c : Ctl) (h : Option (BitVec 4)) (a b : BitVec 5) : Statement (.basCopy c h a b) := by
  rintro - _ ⟨⟩
  cases h <;> simp [Raw.instr, Raw.row9, Raw.cop, Ctl.rawCop, Operand.code]
theorem basCvt (c : Ctl) (h : Option (BitVec 4)) (a b : BitVec 5) : Statement (.basCvt c h a b) := by
  rintro - _ ⟨⟩
  cases h <;> simp [Raw.instr, Raw.row9, Raw.cop, Ctl.rawCop, Operand.code]
theorem basStat (c : Ctl) (h : Option (BitVec 4)) (a b : BitVec 5) : Statement (.basStat c h a b) := by
  rintro - _ ⟨⟩
  cases h <;> simp [Raw.instr, Raw.row9, Raw.cop, Ctl.rawCop, Operand.code]
theorem tierCfg (c : Ctl) (h : Option (BitVec 4)) (a b : BitVec 5) : Statement (.tierCfg c h a b) := by
  rintro - _ ⟨⟩
  cases h <;> simp [Raw.instr, Raw.row9, Raw.cop, Ctl.rawCop, Operand.code]
theorem tierRank (c : Ctl) (h : Option (BitVec 4)) (a b : BitVec 5) : Statement (.tierRank c h a b) := by
  rintro - _ ⟨⟩
  cases h <;> simp [Raw.instr, Raw.row9, Raw.cop, Ctl.rawCop, Operand.code]
theorem tierMig (c : Ctl) (h : Option (BitVec 4)) (a b : BitVec 5) : Statement (.tierMig c h a b) := by
  rintro - _ ⟨⟩
  cases h <;> simp [Raw.instr, Raw.row9, Raw.cop, Ctl.rawCop, Operand.code]
theorem tierAge (c : Ctl) (h : Option (BitVec 4)) (a b : BitVec 5) : Statement (.tierAge c h a b) := by
  rintro - _ ⟨⟩
  cases h <;> simp [Raw.instr, Raw.row9, Raw.cop, Ctl.rawCop, Operand.code]
theorem tierPin (c : Ctl) (h : Option (BitVec 4)) (a b : BitVec 5) : Statement (.tierPin c h a b) := by
  rintro - _ ⟨⟩
  cases h <;> simp [Raw.instr, Raw.row9, Raw.cop, Ctl.rawCop, Operand.code]
theorem prsDraw (c : Ctl) (h : Option (BitVec 4)) (a b : BitVec 5) : Statement (.prsDraw c h a b) := by
  rintro - _ ⟨⟩
  cases h <;> simp [Raw.instr, Raw.row9, Raw.cop, Ctl.rawCop, Operand.code]
theorem prsFrame (c : Ctl) (h : Option (BitVec 4)) (a b : BitVec 5) : Statement (.prsFrame c h a b) := by
  rintro - _ ⟨⟩
  cases h <;> simp [Raw.instr, Raw.row9, Raw.cop, Ctl.rawCop, Operand.code]
theorem prsPresent (c : Ctl) (h : Option (BitVec 4)) (a b : BitVec 5) : Statement (.prsPresent c h a b) := by
  rintro - _ ⟨⟩
  cases h <;> simp [Raw.instr, Raw.row9, Raw.cop, Ctl.rawCop, Operand.code]
theorem prsReproj (c : Ctl) (h : Option (BitVec 4)) (a b : BitVec 5) : Statement (.prsReproj c h a b) := by
  rintro - _ ⟨⟩
  cases h <;> simp [Raw.instr, Raw.row9, Raw.cop, Ctl.rawCop, Operand.code]
theorem trcMark (c : Ctl) (h : Option (BitVec 4)) (a b : BitVec 5) : Statement (.trcMark c h a b) := by
  rintro - _ ⟨⟩
  cases h <;> simp [Raw.instr, Raw.row9, Raw.cop, Ctl.rawCop, Operand.code]
theorem trcFlush (c : Ctl) (h : Option (BitVec 4)) (a b : BitVec 5) : Statement (.trcFlush c h a b) := by
  rintro - _ ⟨⟩
  cases h <;> simp [Raw.instr, Raw.row9, Raw.cop, Ctl.rawCop, Operand.code]
theorem trcSample (c : Ctl) (h : Option (BitVec 4)) (a b : BitVec 5) : Statement (.trcSample c h a b) := by
  rintro - _ ⟨⟩
  cases h <;> simp [Raw.instr, Raw.row9, Raw.cop, Ctl.rawCop, Operand.code]
theorem stwKeyspill (c : Ctl) (h : Option (BitVec 4)) (a b : BitVec 5) : Statement (.stwKeyspill c h a b) := by
  rintro - _ ⟨⟩
  cases h <;> simp [Raw.instr, Raw.row9, Raw.cop, Ctl.rawCop, Operand.code]
theorem stwDump (c : Ctl) (h : Option (BitVec 4)) (a b : BitVec 5) : Statement (.stwDump c h a b) := by
  rintro - _ ⟨⟩
  cases h <;> simp [Raw.instr, Raw.row9, Raw.cop, Ctl.rawCop, Operand.code]
theorem deliver : Statement .deliver := fun _ _ h => by cases h
theorem dropLine : Statement .dropLine := fun _ _ h => by cases h
theorem cacheDrop : Statement .cacheDrop := fun _ _ h => by cases h
theorem heartbeat : Statement .heartbeat := fun _ _ h => by cases h
theorem releaseComplete : Statement .releaseComplete := fun _ _ h => by cases h
theorem taggedAtHome : Statement .taggedAtHome := fun _ _ h => by cases h
theorem taggedResend : Statement .taggedResend := fun _ _ h => by cases h
theorem serviceRequest : Statement .serviceRequest := fun _ _ h => by cases h
theorem atomicReply : Statement .atomicReply := fun _ _ h => by cases h
theorem engineRead : Statement .engineRead := fun _ _ h => by cases h
theorem engineWrite : Statement .engineWrite := fun _ _ h => by cases h
theorem engineCount : Statement .engineCount := fun _ _ h => by cases h
theorem cascadeStep : Statement .cascadeStep := fun _ _ h => by cases h
theorem clauseIssue : Statement .clauseIssue := fun _ _ h => by cases h
theorem resultWrite : Statement .resultWrite := fun _ _ h => by cases h
theorem watchdog : Statement .watchdog := fun _ _ h => by cases h
theorem ctxBuild : Statement .ctxBuild := fun _ _ h => by cases h
theorem ctxCommit : Statement .ctxCommit := fun _ _ h => by cases h
theorem ctxSuspend : Statement .ctxSuspend := fun _ _ h => by cases h
theorem ctxResume : Statement .ctxResume := fun _ _ h => by cases h
theorem ctxReset : Statement .ctxReset := fun _ _ h => by cases h
theorem ctxKill : Statement .ctxKill := fun _ _ h => by cases h
theorem ctxFree : Statement .ctxFree := fun _ _ h => by cases h
theorem ctxDump : Statement .ctxDump := fun _ _ h => by cases h
theorem drainComplete : Statement .drainComplete := fun _ _ h => by cases h
theorem quantumEnd : Statement .quantumEnd := fun _ _ h => by cases h
theorem tenantChoice : Statement .tenantChoice := fun _ _ h => by cases h
theorem switchOut : Statement .switchOut := fun _ _ h => by cases h
theorem contextRestore : Statement .contextRestore := fun _ _ h => by cases h
theorem wellheadWake : Statement .wellheadWake := fun _ _ h => by cases h
theorem launchRecord : Statement .launchRecord := fun _ _ h => by cases h
theorem drawRecord : Statement .drawRecord := fun _ _ h => by cases h
theorem copyRecord : Statement .copyRecord := fun _ _ h => by cases h
theorem waitRecord : Statement .waitRecord := fun _ _ h => by cases h
theorem signalRecord : Statement .signalRecord := fun _ _ h => by cases h
theorem markRecord : Statement .markRecord := fun _ _ h => by cases h
theorem waitTimeout : Statement .waitTimeout := fun _ _ h => by cases h
theorem queueAgeing : Statement .queueAgeing := fun _ _ h => by cases h
theorem wellheadAppend : Statement .wellheadAppend := fun _ _ h => by cases h
theorem queueBind : Statement .queueBind := fun _ _ h => by cases h
theorem queueUnbind : Statement .queueUnbind := fun _ _ h => by cases h
theorem queueSuspend : Statement .queueSuspend := fun _ _ h => by cases h
theorem queueResume : Statement .queueResume := fun _ _ h => by cases h
theorem queueClear : Statement .queueClear := fun _ _ h => by cases h
theorem placementPass : Statement .placementPass := fun _ _ h => by cases h
theorem completionEvent : Statement .completionEvent := fun _ _ h => by cases h
theorem vgrowDeadlockCheck : Statement .vgrowDeadlockCheck := fun _ _ h => by cases h
theorem vgrowRestore : Statement .vgrowRestore := fun _ _ h => by cases h
theorem gangTimeout : Statement .gangTimeout := fun _ _ h => by cases h
theorem promiseTimeout : Statement .promiseTimeout := fun _ _ h => by cases h
theorem sleepWake : Statement .sleepWake := fun _ _ h => by cases h
theorem pageWalk : Statement .pageWalk := fun _ _ h => by cases h
theorem walkResend : Statement .walkResend := fun _ _ h => by cases h
theorem dumpPageCopy : Statement .dumpPageCopy := fun _ _ h => by cases h
theorem pktRd : Statement .pktRd := fun _ _ h => by cases h
theorem pktWr : Statement .pktWr := fun _ _ h => by cases h
theorem pktWrm : Statement .pktWrm := fun _ _ h => by cases h
theorem pktNmc : Statement .pktNmc := fun _ _ h => by cases h
theorem readReply : Statement .readReply := fun _ _ h => by cases h
theorem writeReply : Statement .writeReply := fun _ _ h => by cases h
theorem nmcReply : Statement .nmcReply := fun _ _ h => by cases h
theorem stackTrainingStart : Statement .stackTrainingStart := fun _ _ h => by cases h
theorem stackTrainingPass : Statement .stackTrainingPass := fun _ _ h => by cases h
theorem stackTrainingFail : Statement .stackTrainingFail := fun _ _ h => by cases h
theorem stackInterfaceFail : Statement .stackInterfaceFail := fun _ _ h => by cases h
theorem nrcfgWrite : Statement .nrcfgWrite := fun _ _ h => by cases h
theorem cecountWrite : Statement .cecountWrite := fun _ _ h => by cases h
theorem uccountWrite : Statement .uccountWrite := fun _ _ h => by cases h
theorem patWrite : Statement .patWrite := fun _ _ h => by cases h
theorem tierWorking : Statement .tierWorking := fun _ _ h => by cases h
theorem autoAgeing : Statement .autoAgeing := fun _ _ h => by cases h
theorem tierCopyDone : Statement .tierCopyDone := fun _ _ h => by cases h
theorem tmvJoin : Statement .tmvJoin := fun _ _ h => by cases h
theorem sectionRequest : Statement .sectionRequest := fun _ _ h => by cases h
theorem sectionLeave : Statement .sectionLeave := fun _ _ h => by cases h
theorem chainWalkHop : Statement .chainWalkHop := fun _ _ h => by cases h
theorem sectStarved : Statement .sectStarved := fun _ _ h => by cases h
theorem waiterResend : Statement .waiterResend := fun _ _ h => by cases h
theorem streamBind : Statement .streamBind := fun _ _ h => by cases h
theorem streamUnbind : Statement .streamUnbind := fun _ _ h => by cases h
theorem primitiveAssembly : Statement .primitiveAssembly := fun _ _ h => by cases h
theorem primitiveSetup : Statement .primitiveSetup := fun _ _ h => by cases h
theorem sweep : Statement .sweep := fun _ _ h => by cases h
theorem blend : Statement .blend := fun _ _ h => by cases h
theorem slotDeadline : Statement .slotDeadline := fun _ _ h => by cases h
theorem clockStep : Statement .clockStep := fun _ _ h => by cases h
theorem thermalTrip : Statement .thermalTrip := fun _ _ h => by cases h
theorem flitData : Statement .flitData := fun _ _ h => by cases h
theorem flitAck : Statement .flitAck := fun _ _ h => by cases h
theorem flitFlowControl : Statement .flitFlowControl := fun _ _ h => by cases h
theorem flitTick : Statement .flitTick := fun _ _ h => by cases h
theorem tickFlitSend : Statement .tickFlitSend := fun _ _ h => by cases h
theorem linkReplayTimeout : Statement .linkReplayTimeout := fun _ _ h => by cases h
theorem linkEnable : Statement .linkEnable := fun _ _ h => by cases h
theorem linkDisable : Statement .linkDisable := fun _ _ h => by cases h
theorem linkTrainingPass : Statement .linkTrainingPass := fun _ _ h => by cases h
theorem linkTrainingFail : Statement .linkTrainingFail := fun _ _ h => by cases h
theorem laneFail : Statement .laneFail := fun _ _ h => by cases h
theorem hdmWrite : Statement .hdmWrite := fun _ _ h => by cases h
theorem powerGood : Statement .powerGood := fun _ _ h => by cases h
theorem powerLoss : Statement .powerLoss := fun _ _ h => by cases h
theorem go : Statement .go := fun _ _ h => by cases h
theorem verify : Statement .verify := fun _ _ h => by cases h
theorem earlyEntry : Statement .earlyEntry := fun _ _ h => by cases h
theorem fullEntry : Statement .fullEntry := fun _ _ h => by cases h
theorem claim : Statement .claim := fun _ _ h => by cases h
theorem handover : Statement .handover := fun _ _ h => by cases h
theorem accept : Statement .accept := fun _ _ h => by cases h
theorem crownRelease : Statement .crownRelease := fun _ _ h => by cases h
theorem handoverLapse : Statement .handoverLapse := fun _ _ h => by cases h
theorem crownVacancy : Statement .crownVacancy := fun _ _ h => by cases h
theorem devnoWrite : Statement .devnoWrite := fun _ _ h => by cases h
theorem attest : Statement .attest := fun _ _ h => by cases h
theorem cert : Statement .cert := fun _ _ h => by cases h
theorem csrrd : Statement .csrrd := fun _ _ h => by cases h
theorem csrwr : Statement .csrwr := fun _ _ h => by cases h
theorem hubrd : Statement .hubrd := fun _ _ h => by cases h
theorem hubwr : Statement .hubwr := fun _ _ h => by cases h
theorem traceEnWrite : Statement .traceEnWrite := fun _ _ h => by cases h
theorem frameTimeout : Statement .frameTimeout := fun _ _ h => by cases h
theorem frameWrite : Statement .frameWrite := fun _ _ h => by cases h
theorem sampleTake : Statement .sampleTake := fun _ _ h => by cases h
theorem replayDivergence : Statement .replayDivergence := fun _ _ h => by cases h
theorem stopArm : Statement .stopArm := fun _ _ h => by cases h
theorem deviceStop : Statement .deviceStop := fun _ _ h => by cases h
theorem stopResume : Statement .stopResume := fun _ _ h => by cases h
theorem registerWrite : Statement .registerWrite := fun _ _ h => by cases h
theorem softError : Statement .softError := fun _ _ h => by cases h
theorem cxlLinkRecovery : Statement .cxlLinkRecovery := fun _ _ h => by cases h
theorem tlb2Lookup : Statement .tlb2Lookup := fun _ _ h => by cases h

end Sys2Proof.Laws.EncodedForm
end

