-- ==== Sys2Proof/Tests/Slice0.lean ====
section
/-! SUPPORT. Tests: ill-formed instructions are refused; words written out field by field from the encodings of the
specification decode to their instructions; single steps give the specification's own worked values; and for each statement
with hypotheses a concrete state and operands meet them. -/
namespace Sys2Proof.Tests
set_option Elab.async false
open Sys2Proof Sys2Proof.Machine Sys2Proof.Claims

/-- Unguarded, not last in its clause, with no slot. -/
def u : Ctl := ⟨0, false, 7, false, 0⟩

/-! Well-formedness: one ill-formed term for each check (R269, R271, R274, R284, R330, R423). -/

/-- A kind of field refuses a code of the wrong kind, a misaligned index, or an index whose run leaves the file. -/
theorem test_kinds_refuse :
    Kind.ok .valSrc (.p 0) = false ∧ Kind.ok .uniSrc (.v 0) = false ∧ Kind.ok .uniSrc (.sp .lane) = false ∧
    Kind.ok .valDst (.imm 0) = false ∧ Kind.ok .pred (.s 0) = false ∧ Kind.ok .predNot7 (.p 7) = false ∧
    Kind.ok .predTriple (.s 62) = false ∧ Kind.ok .handle (.s 0) = false ∧ Kind.ok .tile (.v 0) = false ∧
    Kind.ok .tileGroup (.a 1) = false ∧ Kind.ok .codebook (.a 0) = false ∧ Kind.ok .pair (.s 1) = false ∧
    Kind.ok .pair (.imm 0) = false ∧ Kind.ok .pairImm (.v 3) = false ∧ Kind.ok .quad (.v 2) = false ∧
    Kind.ok .sReg (.v 0) = false ∧ Kind.ok .sOrV (.t 0) = false ∧ Kind.ok .sPair (.v 0) = false ∧
    Kind.ok .sQuad (.s 2) = false ∧ Kind.ok .sOctet (.s 56) = false ∧ Kind.ok .sTriple (.s 62) = false ∧
    Kind.ok (.vRun 3) (.v 254) = false ∧ Kind.ok (.wide true) (.t 0) = false ∧ Kind.ok (.wide false) (.p 0) = false ∧
    Kind.ok (.wideDst true) (.imm 0) = false ∧ Kind.ok (.wideDst false) (.sp .zero) = false := by decide

/-- The same kinds accept the operands at the ends of their ranges. -/
theorem test_kinds_accept :
    Kind.ok .valSrc (.h 15) = true ∧ Kind.ok .uniSrc (.sp .clu) = true ∧ Kind.ok .valDst (.t 7) = true ∧
    Kind.ok .predTriple (.s 61) = true ∧ Kind.ok .tileGroup (.a 4) = true ∧ Kind.ok .pair (.v 254) = true ∧
    Kind.ok .sQuad (.s 60) = true ∧ Kind.ok .sOctet (.s 48) = true ∧ Kind.ok (.vRun 3) (.v 253) = true := by decide

/-- LA or SLOT on an instruction that is not long-latency (R271). -/
theorem test_wf_slot : Instr.wf (.iadd ⟨1, false, 7, false, 0⟩ .i32 false (.v 0) (.v 1) (.v 2)) = false ∧
    Instr.wf (.iadd ⟨0, false, 7, false, 1⟩ .i32 false (.v 0) (.v 1) (.v 2)) = false ∧
    Instr.wf (.frcp ⟨1, false, 7, false, 1⟩ false (.v 0) (.v 1)) = true := by decide

/-- A field of the wrong kind. -/
theorem test_wf_field : Instr.wf (.iadd u .i32 false (.p 0) (.v 1) (.v 2)) = false ∧
    Instr.wf (.iadd u .i64 false (.v 1) (.v 2) (.v 4)) = false ∧ Instr.wf (.bcast u (.v 0) (.v 1) (.v 2)) = false ∧
    Instr.wf (.acas u .glb .rlx .dev true false false (.v 0) (.v 2) (.v 2)) = false ∧ Instr.wf (.recPop u (.v 241) (.p 0)) = false ∧
    Instr.wf (.tmv u false (.v 0) (.s 0)) = false := by decide

/-- TYPE, COND and modifier combinations that an entry refuses, one for each check. -/
theorem test_wf_combination : Instr.wf (.iadd u .i16 false (.v 0) (.v 1) (.v 2)) = false ∧
    Instr.wf (.imad u .i64 false (.v 0) (.v 2) (.v 4) (.v 6)) = false ∧ Instr.wf (.imulh u .i32 true (.v 0) (.v 2) (.v 4)) = false ∧
    Instr.wf (.iaddw u .i32 false (.v 0) (.v 1) (.v 2) (.p 0)) = false ∧ Instr.wf (.iabs u .n32 false (.v 0) (.v 1)) = false ∧
    Instr.wf (.imin u .i32 true (.v 0) (.v 1) (.v 2)) = false ∧ Instr.wf (.icmp u .i32 .ord (.p 0) (.v 1) (.v 2)) = false ∧
    Instr.wf (.cvti u .f32 .i32 false (.v 0) (.v 1)) = false ∧ Instr.wf (.fcmp u .i32 .lt (.p 0) (.v 1) (.v 2)) = false ∧
    Instr.wf (.fcvt u .lut4 .f32 .rne false false (.v 0) (.v 1)) = false ∧
    Instr.wf (.fcvt u .f32 .e4m3 .rne false false (.v 0) (.imm 17)) = false ∧
    Instr.wf (.ftoi u .f16 .rne false (.v 0) (.v 1)) = false ∧ Instr.wf (.itof u .i32 .rne true (.v 0) (.v 1)) = false ∧
    Instr.wf (.pack u .i8 4 (.v 0) (.v 1) (.v 2)) = false ∧ Instr.wf (.unpack u .lut4 0 none (.v 0) (.v 1)) = false ∧
    Instr.wf (.pmov u (.s 0) (.s 3)) = false ∧ Instr.wf (.lred u .add .b32 false (.v 0) (.v 1)) = false ∧
    Instr.wf (.lred u .add .i32 true (.v 0) (.v 1)) = false := by decide

theorem test_wf_memory_combination : Instr.wf (.ld u .glb .b128 false false (.v 0) (.v 1) (.v 2)) = false ∧
    Instr.wf (.ld u .glb .b32 true false (.v 0) (.v 1) (.v 2)) = false ∧ Instr.wf (.st u .glb .b128 false (.v 0) (.v 1) (.v 2)) = false ∧
    Instr.wf (.ldMd u .loc false (.v 0) (.v 1) (.v 2)) = false ∧ Instr.wf (.stMd u .glb false (.v 0) (.v 1) (.v 2)) = false ∧
    Instr.wf (.lds u .glb .b32 true false (.s 0) (.s 1) (.s 2)) = false ∧
    Instr.wf (.atom u .glb .fadd .rlx .dev true false (.v 0) (.v 2) (.v 4)) = false ∧ Instr.wf (.mmaQ u true .tile (.a 0) (.s 0)) = false ∧
    Instr.wf (.sluTry u (.p 1) (.v 0) (.v 2) (.p 1)) = false := by decide

/-! Words written out from R264 to R275 and the tables of R284, R330, R423 and R475. -/

/-- A word by its fields (R264, R265): OPC, LA, E, PG, PN, SLOT, MOD, D, A, B, C. -/
def word (opc la e pg pn slot mod d a b c : Nat) : BitVec 64 :=
  BitVec.ofNat 64 (opc * 2 ^ 56 + la * 2 ^ 52 + e * 2 ^ 51 + pg * 2 ^ 48 + pn * 2 ^ 47 + slot * 2 ^ 44 + mod * 2 ^ 36 + d * 2 ^ 27 +
    a * 2 ^ 18 + b * 2 ^ 9 + c)

/-- An unguarded word of format A, not last, without slot. -/
def wordA (opc mod d a b c : Nat) : BitVec 64 := word opc 0 0 7 0 0 mod d a b c

/-- The words that do not decode to the instruction beside them. -/
def misread (l : List (BitVec 64 × Instr)) : List (BitVec 64) :=
  (l.filter fun e => match decode e.1 with
    | .ok i => i != e.2
    | .error _ => true).map Prod.fst

/-- The words that the specification prints: R346, R383, R305, R287, R438, R442 and R475. -/
theorem test_decode_printed_words : misread
    [(0x210B86801007FFFB, .iaddi ⟨0, true, 3, true, 0⟩ .i32 false (.v 2) (.v 1) 0x3FFFB),
     (0x33070020502C180D, .ffma u .rtz false (.v 10) (.v 11) (.v 12) (.v 13)),
     (0x790F0CC000000000, .phase ⟨0, true, 7, false, 0⟩ .ar .clu),
     (0x7C0F1480300C1000, .acas ⟨0, true, 7, false, 1⟩ .glb .rel .dev false false false (.v 6) (.v 3) (.v 8)),
     (0x9007003A84020400, .xcLoad u (some 0) 0 1), (0x9007002004020400, .xcLoad u none 0 1),
     (0x9007013A84020420, .basStat u (some 0) 0 1), (0x900700BA84020440, .tierPin u (some 0) 0 1),
     (0x9007009A84020460, .prsReproj u (some 0) 0 1), (0x9007007A84020480, .trcSample u (some 0) 0 1),
     (0x9007005A840205E0, .stwDump u (some 0) 0 1)] = [] := by decide

/-- Integer instructions (R330): v1 in D, sources v2, v3, v4, or pairs v2:v3 to v8:v9. -/
theorem test_decode_integer : misread
    [(wordA 0x00 (13 * 8) 1 2 3 0, .iadd u .i32 false (.v 1) (.v 2) (.v 3)),
     (wordA 0x01 (14 * 8 + 4) 1 2 0x107 0, .isub u .n32 true (.v 1) (.v 2) (.s 7)),
     (wordA 0x02 (15 * 8) 2 4 0x1C1 0, .imul u .i64 false (.v 2) (.v 4) (.imm 1)),
     (wordA 0x03 (14 * 8) 0x140 2 0x1FF 0, .imulh u .n32 false (.t 0) (.v 2) (.imm 63)),
     (wordA 0x04 (13 * 8 + 4) 1 2 3 0x180, .imad u .i32 true (.v 1) (.v 2) (.v 3) (.imm 64)),
     (wordA 0x05 (13 * 8) 2 3 4 6, .imadw u .i32 false (.v 2) (.v 3) (.v 4) (.v 6)),
     (wordA 0x06 (14 * 8) 1 2 3 0x14F, .iaddw u .n32 false (.v 1) (.v 2) (.v 3) (.p 7)),
     (wordA 0x07 (14 * 8) 1 2 3 0x148, .isubw u .n32 false (.v 1) (.v 2) (.v 3) (.p 0)),
     (wordA 0x08 (13 * 8) 1 0x16C 0 0, .iabs u .i32 false (.v 1) (.sp .lane)),
     (wordA 0x09 (15 * 8) 0x102 0x104 0 0, .ineg u .i64 false (.s 2) (.s 4)),
     (wordA 0x0A (16 * 8) 2 4 6 0, .imin u .n64 false (.v 2) (.v 4) (.v 6)),
     (wordA 0x0B (13 * 8) 1 2 0x17A 0, .imax u .i32 false (.v 1) (.v 2) (.sp .zero)),
     (wordA 0x0C (13 * 8) 1 2 3 4, .iclamp u .i32 false (.v 1) (.v 2) (.v 3) (.v 4)),
     (wordA 0x29 (9 * 8 + 4) 1 2 0 (13 * 16), .cvti u .i8 .i32 true (.v 1) (.v 2)),
     (wordA 0x2A 0xC0 1 2 3 4, .idp4 u true true false (.v 1) (.v 2) (.v 3) (.v 4)),
     (wordA 0x2B 0x60 1 2 3 4, .idp8 u false true true (.v 1) (.v 2) (.v 3) (.v 4))] = [] := by decide

theorem test_decode_bits : misread
    [(wordA 0x0D 0x80 2 4 6 0, .iand u true (.v 2) (.v 4) (.v 6)), (wordA 0x0E 0 1 2 3 0, .ior u false (.v 1) (.v 2) (.v 3)),
     (wordA 0x0F 0 1 2 3 0, .ixor u false (.v 1) (.v 2) (.v 3)), (wordA 0x10 0 1 2 3 0, .andn u false (.v 1) (.v 2) (.v 3)),
     (wordA 0x11 0xE8 1 2 3 4, .tri u 0xE8 (.v 1) (.v 2) (.v 3) (.v 4)), (wordA 0x12 0x40 1 2 3 0, .shl u false true (.v 1) (.v 2) (.v 3)),
     (wordA 0x13 0xC0 2 4 3 0, .shr u true true (.v 2) (.v 4) (.v 3)), (wordA 0x14 0 1 2 3 0, .sar u false false (.v 1) (.v 2) (.v 3)),
     (wordA 0x15 0x80 2 4 3 0, .rotl u true (.v 2) (.v 4) (.v 3)), (wordA 0x16 0x20 1 2 3 4, .funsh u false true (.v 1) (.v 2) (.v 3) (.v 4)),
     (wordA 0x17 0x80 1 2 0 0, .popc u true (.v 1) (.v 2)), (wordA 0x18 0 1 2 0 0, .clz u false (.v 1) (.v 2)),
     (wordA 0x19 0 1 2 0 0, .ffs u false (.v 1) (.v 2)), (wordA 0x1A 0x80 2 4 0 0, .brev u true (.v 2) (.v 4)),
     (wordA 0x1B 0x80 1 2 3 4, .bfx u true (.v 1) (.v 2) (.v 3) (.v 4)), (wordA 0x1C 0 1 2 3 4, .bfi u (.v 1) (.v 2) (.v 3) (.v 4)),
     (wordA 0x1D (14 * 8 + 2) 0x14A 2 3 0, .icmp u .n32 .lt (.p 2) (.v 2) (.v 3)),
     (wordA 0x1E 0 1 2 3 0x14C, .sel u false (.v 1) (.v 2) (.v 3) (.p 4)), (wordA 0x1F 0x80 2 0x102 0 0, .mov u true (.v 2) (.s 2))] = [] := by decide

/-- K and B forms (R265): MOVI's IMM32 in the low half with D at [40:32], an IMM18 in the low 18 bits. -/
theorem test_decode_immediates : misread
    [(BitVec.ofNat 64 (0x20 * 2 ^ 56 + 7 * 2 ^ 48 + 0x13F * 2 ^ 32 + 0xDEADBEEF), .movi u (.s 63) 0xDEADBEEF),
     (BitVec.ofNat 64 (0x22 * 2 ^ 56 + 7 * 2 ^ 48 + 13 * 8 * 2 ^ 36 + 1 * 2 ^ 27 + 2 * 2 ^ 18 + 0x20000), .imuli u .i32 false (.v 1) (.v 2) 0x20000),
     (BitVec.ofNat 64 (0x23 * 2 ^ 56 + 7 * 2 ^ 48 + 1 * 2 ^ 27 + 2 * 2 ^ 18 + 0xFF), .andi u (.v 1) (.v 2) 0xFF),
     (BitVec.ofNat 64 (0x24 * 2 ^ 56 + 7 * 2 ^ 48 + 1 * 2 ^ 27 + 2 * 2 ^ 18 + 1), .ori u (.v 1) (.v 2) 1),
     (BitVec.ofNat 64 (0x25 * 2 ^ 56 + 7 * 2 ^ 48 + 1 * 2 ^ 27 + 2 * 2 ^ 18 + 0x3FFFF), .xori u (.v 1) (.v 2) 0x3FFFF),
     (BitVec.ofNat 64 (0x26 * 2 ^ 56 + 7 * 2 ^ 48 + (13 * 8 + 5) * 2 ^ 36 + 0x14B * 2 ^ 27 + 2 * 2 ^ 18 + 1000), .icmpi u .i32 .ge (.p 3) (.v 2) 1000),
     (wordA 0x27 0xE0 1 2 3 0, .lea u 7 (.v 1) (.v 2) (.v 3)), (wordA 0x28 0x20 2 4 3 0, .leaw u 1 (.v 2) (.v 4) (.v 3))] = [] := by decide

theorem test_decode_float : misread
    [(wordA 0x30 0 1 2 3 0, .fadd u .rne false (.v 1) (.v 2) (.v 3)), (wordA 0x31 5 1 2 3 0, .fsub u .rdn true (.v 1) (.v 2) (.v 3)),
     (wordA 0x32 6 1 2 3 0, .fmul u .rup false (.v 1) (.v 2) (.v 3)), (wordA 0x34 0 1 2 3 0, .fmin u false (.v 1) (.v 2) (.v 3)),
     (wordA 0x35 1 1 2 3 0, .fmax u true (.v 1) (.v 2) (.v 3)), (wordA 0x36 7 0x14D 3 3 0, .fcmp u .f32 .unord (.p 5) (.v 3) (.v 3)),
     (wordA 0x37 0 1 2 0 0, .fclass u (.v 1) (.v 2)), (wordA 0x38 4 1 2 0 0, .frnd u .rdn false (.v 1) (.v 2)),
     (wordA 0x39 (3 * 32 + 1 * 4 + 1) 1 2 0 0x180, .fcvt u .e4m3 .f16 .rtz true true (.v 1) (.v 2)),
     (wordA 0x3A (13 * 8 + 2) 1 2 0 0, .ftoi u .i32 .rtz false (.v 1) (.v 2)), (wordA 0x3B (16 * 8) 1 2 0 0, .itof u .n64 .rne false (.v 1) (.v 2)),
     (wordA 0x3C 0 1 2 0x1B8 0, .fscale u .rne false (.v 1) (.v 2) (.imm 0x78)),
     (word 0x3D 3 0 7 0 1 0 1 2 0 0, .frcp ⟨3, false, 7, false, 1⟩ false (.v 1) (.v 2)), (wordA 0x3E 1 1 2 0 0, .frsq u true (.v 1) (.v 2)),
     (wordA 0x3F 0 1 2 0 0, .fsqrt u false (.v 1) (.v 2)), (wordA 0x40 0 1 2 0 0, .fex2 u false (.v 1) (.v 2)),
     (wordA 0x41 0 1 2 0 0, .flg2 u false (.v 1) (.v 2)), (wordA 0x42 0 1 2 0 0, .fsin u false (.v 1) (.v 2)),
     (wordA 0x43 0 1 2 0 0, .fcos u false (.v 1) (.v 2)), (word 0x44 15 0 7 0 7 0 1 2 0 0, .ftanh ⟨15, false, 7, false, 7⟩ false (.v 1) (.v 2))] = [] := by decide

theorem test_decode_halves : misread
    [(wordA 0x45 0x80 1 2 3 0, .hadd2 u true .rne (.v 1) (.v 2) (.v 3)), (wordA 0x46 2 1 2 3 0, .hmul2 u false .rtz (.v 1) (.v 2) (.v 3)),
     (wordA 0x47 0 1 2 3 4, .hfma2 u false .rne (.v 1) (.v 2) (.v 3) (.v 4)), (wordA 0x48 0 1 2 3 0, .hmin2 u false (.v 1) (.v 2) (.v 3)),
     (wordA 0x49 0x80 1 2 3 0, .hmax2 u true (.v 1) (.v 2) (.v 3)), (wordA 0x4A (9 * 8 + 3) 1 2 3 0, .pack u .i8 3 (.v 1) (.v 2) (.v 3)),
     (wordA 0x4B (6 * 8 + 3) 5 2 0x169 0x1C3, .unpack u .lut4 3 (some (1, true)) (.v 5) (.v 2)),
     (wordA 0x4B (12 * 8 + 1) 5 2 0 0, .unpack u .n16 1 none (.v 5) (.v 2)), (wordA 0x4C 0x84 1 2 3 4, .fdot2 u true .rdn (.v 1) (.v 2) (.v 3) (.v 4)),
     (wordA 0x4D 0 0x10C 0 0 0, .fstat u (.s 12))] = [] := by decide

theorem test_decode_lanes : misread
    [(wordA 0x60 0x80 0x14B 0x149 0x14A 0x14F, .plop u 0x80 (.p 3) (.p 1) (.p 2) (.p 7)), (wordA 0x61 0 0x114 0x14B 0 0, .pmov u (.s 20) (.p 3)),
     (wordA 0x62 0x80 0x118 0x14A 0 0, .vote u .count (.s 24) (.p 2)), (wordA 0x62 0x60 0x118 0x14A 0 0, .vote u .bits (.s 24) (.p 2)),
     (wordA 0x63 0 0x14E 0 0 0, .elect u (.p 6)), (word 0x64 1 0 7 0 2 0x60 4 3 0x1D0 0, .shfl ⟨1, false, 7, false, 2⟩ .flip (.v 4) (.v 3) (.imm 16)),
     (wordA 0x65 0 1 2 3 0, .perm u (.v 1) (.v 2) (.v 3)), (wordA 0x66 0 5 5 0x1C0 0, .bcast u (.v 5) (.v 5) (.imm 0)),
     (wordA 0x67 (2 * 32 + 1 * 8) 0x10E 6 0 0, .lred u .max .n32 false (.s 14) (.v 6)),
     (wordA 0x68 (2 * 8 + 4 + 2) 11 10 0 0, .lscan u .add .f32 true true (.v 11) (.v 10)),
     (wordA 0x69 0x40 40 2 0 0, .matchL u false true (.v 40) (.v 2))] = [] := by decide

theorem test_decode_memory : misread
    [(word 0x70 2 0 7 0 3 (2 * 32 + 0 * 4 + 2) 4 5 0x1C8 0, .ld ⟨2, false, 7, false, 3⟩ .glb .b8 true false (.v 4) (.v 5) (.imm 8)),
     (wordA 0x70 (6 * 32 + 2 * 4 + 1) 4 6 0x17A 0x100, .ldMd u .heap true (.v 4) (.v 6) (.sp .zero)),
     (wordA 0x71 (3 * 32 + 3 * 4) 4 6 0x17A 0x100, .st u .dev .b64 true (.v 4) (.v 6) (.sp .zero)),
     (wordA 0x71 (7 * 32 + 2 * 4 + 1) 4 6 0x17A 0, .stMd u .aux false (.v 4) (.v 6) (.sp .zero)),
     (wordA 0x72 (0 * 32 + 4 * 4) 0x104 0x100 0x1C0 0, .lds u .loc .b128 false false (.s 4) (.s 0) (.imm 0)),
     (wordA 0x73 (1 * 32 + 4 * 4) 0x104 0x100 0x1C0 0, .sts u .clu .b128 false (.s 4) (.s 0) (.imm 0)),
     (wordA 0x74 (2 * 32 + 0 * 4) 4 5 6 0, .ldt u .glb .dev false (.v 4) (.v 5) (.v 6)), (wordA 0x75 (1 * 32 + 3 * 4) 4 5 6 0, .ldtk u .clu .clu false (.v 4) (.v 5) (.v 6)),
     (wordA 0x76 (2 * 32 + 4 * 4) 4 5 6 0, .stt u .glb .sys false (.v 4) (.v 5) (.v 6)), (wordA 0x77 (1 * 32 + 3 * 4) 6 3 0x1C0 0, .sttf u .clu .clu false (.v 6) (.v 3) (.imm 0)),
     (wordA 0x78 (2 * 32) 4 5 6 0, .tagRd u .glb false (.v 4) (.v 5) (.v 6)), (wordA 0x78 (2 * 32 + 1) 0 5 6 0, .tagClr u .glb false (.v 5) (.v 6)),
     (wordA 0x7A 0 0 0 0 0, .scfence u),
     (wordA 0x7B (2 * 32 + 3 * 4) 7 4 0x1C1 (4 * 64 + 8 * 4 + 2), .atom u .glb .exch .ar .sys false true (.v 7) (.v 4) (.imm 1)),
     (wordA 0x7D (2 * 32 + 1 * 4 + 2) 8 4 0 (3 * 64), .lr u .glb .acq .clu true false (.v 8) (.v 4)),
     (wordA 0x7E (3 * 32 + 4 * 4) 7 4 5 0, .sc u .dev .sc .dev false false (.v 7) (.v 4) (.v 5))] = [] := by decide

theorem test_decode_handles : misread
    [(wordA 0x91 0xC0 1 0x155 0 0, .hwait u true (some (.v 1)) (.h 5)), (wordA 0x91 0 0 0x155 0 0, .hwait u false none (.h 5)),
     (wordA 0x92 0 0x10D 0x155 0 0, .htest u (.s 13) (.h 5)), (wordA 0x93 0 0 0x155 0 0, .hcancel u (.h 5)),
     (wordA 0x94 0 0x114 0x155 0 0, .hmov u false (.s 20) (.h 5)), (wordA 0x94 0x80 0x155 0x114 0 0, .hmov u true (.h 5) (.s 20)),
     (wordA 0x95 0 0 0x15F 0 0, .hprom u (.h 15)), (wordA 0x96 (2 * 32) 0 0x100 0x101 0, .bcbInit u .glb (.s 0) (.s 1)),
     (wordA 0x97 (1 * 32) 0 0x100 0x101 0, .bcbExp u .clu (.s 0) (.s 1)), (wordA 0x98 (1 * 32) 0 0x100 0x1C8 0, .bcbArr u .clu (.s 0) (.imm 8)),
     (wordA 0x99 (1 * 32) 0 0x100 0x1C1 0, .bcbWait u .clu (.s 0) (.imm 1)), (wordA 0x9A (1 * 32) 0x102 0x100 0x1C0 0, .bcbTest u .clu (.s 2) (.s 0) (.imm 0))] = [] := by decide

theorem test_decode_matrix : misread
    [(wordA 0xA0 0 0 0x1C5 0x102 0, .tidLd u (.imm 5) (.s 2)), (wordA 0xA1 0 0 0x1C5 0 0, .tidInv u (.imm 5)), (wordA 0xA2 0 0 0x108 0 0, .gang u (.s 8)),
     (wordA 0xA3 0 0x16B 0x130 0 0, .cbLd u (.c 3) (.s 48)), (wordA 0xA4 0xC0 0x160 0x108 0 0, .mma u true .gang (.a 0) (.s 8)),
     (wordA 0xA5 0 0x167 0x108 0 0, .mmaSp u false .tile (.a 7) (.s 8)), (wordA 0xA6 0x20 0x164 0x108 0 0, .mmaQ u false .wide (.a 4) (.s 8)),
     (wordA 0xA7 0x80 0x164 0 0 0, .accZero u true (.a 4)), (wordA 0xA8 0 0x161 0x108 0 0, .accLd u false (.a 1) (.s 8)),
     (wordA 0xA9 0x40 0 0x161 0x108 0, .accSt u false true (.a 1) (.s 8)), (wordA 0xAA 0 3 0x161 0x1C7 0, .accGet u false (.v 3) (.a 1) (.imm 7)),
     (wordA 0xAB 0 0x161 3 0x1C7 0, .accPut u false (.a 1) (.v 3) (.imm 7)), (wordA 0xAC 0x80 0x161 0x108 0 0, .tmv u true (.a 1) (.s 8)),
     (wordA 0xAD 0 0 0x108 0 0, .fireRd u (.s 8))] = [] := by decide

theorem test_decode_graphics : misread
    [(wordA 0xB0 0 4 1 8 2, .smp u (.v 4) (.v 1) (.v 8) (.v 2)), (wordA 0xB1 0 4 1 8 2, .smpc u (.v 4) (.v 1) (.v 8) (.v 2)),
     (wordA 0xB2 0 252 1 8 2, .tld u (.v 252) (.v 1) (.v 8) (.v 2)), (wordA 0xB3 0 4 0x1C2 0 0, .resQ u (.v 4) (.imm 2)),
     (wordA 0xB4 0 4 0x1CF 0x173 0, .vbary u (.v 4) 15 (.sp .vlo)), (wordA 0xB5 0 0 2 0 0, .vsplit u (.v 2)), (wordA 0xB6 0 0 2 0 0, .vkill u (.v 2)),
     (wordA 0xB7 0 0 8 0 0, .outc u (.v 8)), (wordA 0xB8 0 0 8 0 0, .outz u (.v 8)), (wordA 0xB9 0x80 0 8 0 0, .outv u none (.v 8)),
     (wordA 0xB9 (15 * 8) 0 8 0 0, .outv u (some 15) (.v 8)), (wordA 0xBA 0 0 240 0 0, .recPush u (.v 240)),
     (wordA 0xBB 0 240 0 0 0x149, .recPop u (.v 240) (.p 1)), (wordA 0xBC 0 0 0 0 0, .recDone u)] = [] := by decide

/-- Control (R284); BR is the word of R287, with the reconvergence distance in [40:32]; SLU.IN the word of R305. -/
theorem test_decode_control : misread
    [(BitVec.ofNat 64 (0xC0 * 2 ^ 56 + 7 * 2 ^ 48 + 0xFFFFFFFE), .bra u 0xFFFFFFFE), (0xC109001800000010, .br ⟨0, true, 1, false, 0⟩ 24 16),
     (wordA 0xC2 0 0 2 0 0, .brx u (.v 2)), (BitVec.ofNat 64 (0xC3 * 2 ^ 56 + 7 * 2 ^ 48 + 0x132 * 2 ^ 32 + 16), .call u (.s 50) 16),
     (wordA 0xC4 0 2 4 0 0, .callx u (.v 2) (.v 4)), (wordA 0xC5 0 0 0x132 0 0, .ret u (.s 50)), (wordA 0xC6 0 0 0 0 0, .reconv u),
     (word 0xC7 0 1 4 0 0 0 0 0 0 0, .exit ⟨0, true, 4, false, 0⟩), (wordA 0xC8 0 0 0 0 0, .yield u), (wordA 0xC9 0 0 0x1E0 0 0, .sleep u (.imm 32)),
     (wordA 0xCA 0 0 0x10A 0 0, .sleepu u (.s 10)), (wordA 0xCB 0x2A 0 0 0 0, .trap u 0x2A), (wordA 0xCC 0 0 0 0 0, .bkpt u), (wordA 0xCD 0 0 0 0 0, .tret u),
     (wordA 0xCE 0 0x10D 0x10C 0 0, .cjoin u (.s 13) (.s 12)), (wordA 0xCF 0 0x10D 0x10C 0 0, .cleave u (.s 13) (.s 12)), (wordA 0xD0 0 0x10C 0 0 0, .cnew u (.s 12)),
     (wordA 0xD1 0x40 0 0x10C 0 0, .bar u .rel (some (.s 12))), (wordA 0xD1 0xA0 0 0 0 0, .bar u .acq none),
     (wordA 0xD2 (2 * 32 + 1 * 8 + 1) 5 0x101 0x10C 0, .barp u .max .n32 false .rel (.v 5) (.s 1) (.s 12))] = [] := by decide

theorem test_decode_system : misread
    [(0xD307000A50100C00, .sluIn u false (.p 2) (.v 4) (.v 6)), (wordA 0xD3 0x80 0x149 4 6 0, .sluIn u true (.p 1) (.v 4) (.v 6)),
     (wordA 0xD4 0 0 4 0 0, .sluOut u (.v 4)), (wordA 0xD5 0 0x149 4 6 0x14A, .sluTry u (.p 1) (.v 4) (.v 6) (.p 2)),
     (wordA 0xD6 0 0 0x1E0 0 0, .vgrow u (.imm 32)), (wordA 0xD7 0 0 0x1D0 0 0, .vshrink u (.imm 16)),
     (wordA 0xD8 0 0x108 0x104 0x1C3 0, .launch u (.s 8) (.s 4) (.imm 3)), (wordA 0xD9 0 0x108 0 0x181 0, .csrr u (.s 8) 0x181),
     (wordA 0xDA 0 0 0x108 0x182 0, .csrw u (.s 8) 0x182), (wordA 0xDB (7 * 32) 0 0x108 0 0, .segLd u .aux (.s 8)),
     (wordA 0xDC 0 0 0x108 0x10A 0, .tlbInv u (.page (.s 8) (.s 10))), (wordA 0xDC 0x40 0 0 0x10A 0, .tlbInv u (.ctx (.s 10))),
     (wordA 0xDC 0x80 0 0 0 0, .tlbInv u .all)] = [] := by decide

/-- Engine commands (R475): FN7 at [43:37], RPLY at 36, the handle in D, two even scalar pairs, ENG at [8:5]. -/
theorem test_decode_commands : misread
    [(wordA 0x90 (2 * 2 + 1) 0x153 0x104 0x106 0, .xcStore u (some 3) 2 3), (wordA 0x90 (3 * 2) 0 0x104 0x106 0, .xcMcast u none 2 3),
     (wordA 0x90 (4 * 2) 0 0x104 0x106 0, .xcGather u none 2 3), (wordA 0x90 (5 * 2) 0 0x104 0x106 0, .xcScatter u none 2 3),
     (wordA 0x90 (6 * 2) 0 0x104 0x106 0, .xcFill u none 2 3), (wordA 0x90 (7 * 2) 0 0x104 0x106 0, .xcPeer u none 2 3),
     (wordA 0x90 (8 * 2) 0 0x104 0x106 0, .xcCsum u none 2 3), (wordA 0x90 (1 * 2) 0 0x104 0x106 32, .basAxpby u none 2 3),
     (wordA 0x90 (2 * 2) 0 0x104 0x106 32, .basScal u none 2 3), (wordA 0x90 (3 * 2) 0 0x104 0x106 32, .basSgd u none 2 3),
     (wordA 0x90 (4 * 2) 0 0x104 0x106 32, .basMom u none 2 3), (wordA 0x90 (5 * 2) 0 0x104 0x106 32, .basSum u none 2 3),
     (wordA 0x90 (6 * 2) 0 0x104 0x106 32, .basFill u none 2 3), (wordA 0x90 (7 * 2) 0 0x104 0x106 32, .basCopy u none 2 3),
     (wordA 0x90 (8 * 2) 0 0x104 0x106 32, .basCvt u none 2 3), (wordA 0x90 (1 * 2) 0 0x104 0x106 64, .tierCfg u none 2 3),
     (wordA 0x90 (2 * 2) 0 0x104 0x106 64, .tierRank u none 2 3), (wordA 0x90 (3 * 2) 0 0x104 0x106 64, .tierMig u none 2 3),
     (wordA 0x90 (4 * 2) 0 0x104 0x106 64, .tierAge u none 2 3), (wordA 0x90 (1 * 2) 0 0x104 0x106 96, .prsDraw u none 2 3),
     (wordA 0x90 (2 * 2) 0 0x104 0x106 96, .prsFrame u none 2 3), (wordA 0x90 (3 * 2) 0 0x104 0x106 96, .prsPresent u none 2 3),
     (wordA 0x90 (1 * 2) 0 0x104 0x106 128, .trcMark u none 2 3), (wordA 0x90 (2 * 2) 0 0x104 0x106 128, .trcFlush u none 2 3),
     (wordA 0x90 (1 * 2) 0 0x104 0x106 480, .stwKeyspill u none 2 3)] = [] := by decide

/-- What is no instruction (R272, R273, R275): a reserved opcode, engine, function or special, an unnamed bit that is 1, an
unused field that is not 0, a reserved code. -/
theorem test_decode_refuses : ([wordA 0x2C 0 1 2 3 0, wordA 0x50 0 0 0 0 0, wordA 0xFF 0 0 0 0 0, wordA 0x90 2 0 0x104 0x106 160,
    wordA 0x90 (9 * 2) 0 0x104 0x106 0, wordA 0x00 (13 * 8) 1 0x17B 3 0, wordA 0x00 (13 * 8 + 1) 1 2 3 0, wordA 0x00 (13 * 8) 1 2 3 4,
    wordA 0x79 0 0 0 0 0, wordA 0x7B (5 * 4) 7 4 5 0, wordA 0x64 (5 * 32) 1 2 3 0, wordA 0x3D 2 1 2 0 0, wordA 0x34 2 1 2 3 0,
    wordA 0xD1 0xC0 0 0x10C 0 0, wordA 0xC7 1 0 0 0 0, wordA 0x4B (9 * 8) 1 2 0x168 0x1C2, wordA 0xB4 0 4 0x1D0 2 0].filter fun w =>
      match decode w with
      | .ok _ => true
      | .error _ => false) = [] := by decide

/-- The host's word: two well-formed words and one that is none. -/
theorem test_decodeTableWord : decodeTableWord 64 0x33070020502C180D = some (.ffma u .rtz false (.v 10) (.v 11) (.v 12) (.v 13)) ∧
    decodeTableWord 64 0x5000000000000000 = none := by decide

/-! Small states. -/

/-- Split 0 of slot 0 of core 0 owns the 96 lanes and issues next. -/
def here : State := { placeWord State.reset 0 with agenda := [] }

/-- The same with its strand changed. -/
def strandIs (f : Strand → Strand) : State := here.setStrand fetchRef (f (here.strand fetchRef))

/-- The same with its split changed. -/
def splitIs (f : Split → Split) : State := here.setSplit fetchRef (f (here.split fetchRef))

/-- The same in an active context, with these bytes of memory. The descriptor of context 0 lies in the first 64 bytes of hub
control space. -/
def activeWith (s : State) (cells : List Host.Cell) : State := { s with contexts := [(0, { state := .active })], mem := cells }

/-- Memory that holds a descriptor with TVEC 0x1000 (bits [447:400]). -/
def handlerAt : List Host.Cell := [(hubKey 51, 0x10)]

/-- The same with no lane effective. -/
def idle : State := splitIs fun x => { x with mask := 0 }

/-- A clause of n words of which the first issues. -/
def clauseOf (n : Nat) : Clause := { h := 0x40, words := List.replicate n 0, pos := 0, yields := false, alone := none }

/-- No trap of the split waits to be taken, nor for a grant of SLU.IN. -/
abbrev Unstopped (s : State) (c : Ctl) : Prop :=
  lowestTrap (s.view fetchRef c).sp.takeable = none ∧ (s.view fetchRef c).sp.trapHeld = false

theorem witness_StepRunsDecoded : (let s := placeWord State.reset 0x33070020502C180D
    (∃ t, s.agenda = [t]) ∧ MayIssue (nextTurn s).1 ∧ atPlace (nextTurn s).1 0x33070020502C180D ∧ nextTurn s = ((nextTurn s).1, .issue) ∧
      decode 0x33070020502C180D = .ok (.ffma u .rtz false (.v 10) (.v 11) (.v 12) (.v 13)) ∧ s.dev.stopped = none ∧ (s.clu 0).stuck = false) ∧
    (let s := placeWord State.reset 0x5000000000000000
     nextTurn s = ((nextTurn s).1, .issue) ∧ MayIssue (nextTurn s).1 ∧ atPlace (nextTurn s).1 0x5000000000000000 ∧
      decode 0x5000000000000000 = .error .reservedCode) ∧
    (let s : State := { agenda := [{ dt := 0, act := .move .heartbeat, pick := {} }] }
     nextTurn s = ((nextTurn s).1, .move .heartbeat) ∧ Instr.ctl .heartbeat = none ∧ (nextTurn s).1.dev.stopped = none) :=
  ⟨⟨⟨_, rfl⟩, by unfold MayIssue; decide, ⟨_, rfl, rfl⟩, rfl, by rfl, rfl, rfl⟩,
   ⟨rfl, by unfold MayIssue; decide, ⟨_, rfl, rfl⟩, by rfl⟩, ⟨rfl, rfl, rfl⟩⟩

theorem witness_MemoryInvariant : let s : State := { agenda := [{ dt := 0, act := .move .dropLine, pick := {} }] }
    s.canonical ∧ ∃ t, step s = .next t := ⟨rfl, _, rfl⟩

/-- Two pending traps of which 3 has the lower code, a late one. -/
def trapped : State := splitIs fun x => { x with traps := [⟨{ code := 5 }, none, false⟩, ⟨{ code := 3 }, some (0x40, 2), false⟩] }

/-- A split in handler mode beside the issuing one. -/
def beside (s : State) : State := s.setSplit ⟨0, 0, 1⟩ { state := .handler, hm := true }

/-- The strand's handle h0 names a command of cluster 0 whose entry has a status. -/
def withHandle (status : Nat) : State :=
  let s := strandIs fun x => { x with h := [(0, 0x0100000000000000)] }
  { s with clusters := [(0, { ctab := [(0, { handle := 0x0100000000000000, ctx := 0, status := status, result := 7 })] })] }

set_option maxRecDepth 100000 in
theorem witness_BeforeEffect_trap : Instr.ctl (.recDone u) = some u ∧
    lowestTrap ((trapped.view fetchRef u).sp.takeable) = some ⟨{ code := 3 }, some (0x40, 2), false⟩ ∧
    (({ trapped with contexts := [(0, { state := .faulted })] } : State).ctx 0).state = .faulted ∧
    (trapped.ctx 0).state ≠ .faulted ∧ (trapped.view fetchRef u).st.splits.any (fun e => e.1 != 0 && e.2.hm) = false ∧
    lowestTrap (((beside trapped).view fetchRef u).sp.takeable) = some ⟨{ code := 3 }, some (0x40, 2), false⟩ ∧
    ((beside trapped).view fetchRef u).st.splits.any (fun e => e.1 != 0 && e.2.hm) = true ∧
    ((beside here).view fetchRef u).sp.takeable = [] ∧
    lowestTrap (((splitIs fun x => { x with traps := [⟨{ code := 5 }, none, false⟩] }).view fetchRef u).sp.takeable) = some ⟨{ code := 5 }, none, false⟩ := by decide +kernel

/-- A result awaited from place 0 on. -/
def awaited (gate : Option Nat) (why : Nat) : Pending :=
  { id := 0, split := 0, slot := 1, pc := 0, pos := 0, gate := gate, temps := true, dst := [.v 5], lanes := 1, vals := [List.replicate 96 3],
    flags := 0, owed := 0, acq := none, lose := none, won := true, fence := 0, beat := 0, bad := [], fail := none, why := why, since := 0 }

theorem witness_BeforeEffect_window : let s := strandIs fun x => { x with results := [awaited (some 0) 0] }
    (s.view fetchRef u).sp.takeable = [] ∧ (s.view fetchRef u).st.splits.any (fun e => e.1 != 0 && e.2.hm) = false ∧
    (∃ p ∈ (s.view fetchRef u).st.results, p.split = 0 ∧ ∃ g, p.gate = some g ∧ g ≤ (s.view fetchRef u).pos) :=
  ⟨by decide, by decide, _, List.mem_singleton.mpr rfl, rfl, 0, rfl, by decide⟩

/-- A split whose SLU.IN waits for lane 0, with an instruction of its clause that has trapped. -/
def atDoor : State := splitIs fun x => { x with
  waits := [{ kind := .sluIn 1 1 0 [(0, 9)] (.v 7), pc := 0x40, pos := 0, lanes := 1, since := 0, hm := false }]
  traps := [⟨{ code := 5 }, none, false⟩] }

theorem witness_BeforeEffect_held : (atDoor.view fetchRef u).sp.takeable = [] ∧ (atDoor.view fetchRef u).sp.trapHeld = true := by decide

set_option maxRecDepth 100000 in
theorem witness_BeforeEffect_checks : (∀ s ∈ [here, withHandle 6, withHandle 3], lowestTrap (s.view fetchRef u).sp.takeable = none ∧ (s.view fetchRef u).sp.trapHeld = false ∧
      issueHeld (s.view fetchRef u).st fetchRef (s.view fetchRef u).pos = none ∧ (s.view fetchRef u).eff ≠ 0) ∧
    Instr.wf (.iadd u .i32 false (.p 0) (.v 1) (.v 2)) = false ∧
    (∀ e ∈ Instr.fields (.tlbInv u .all), ∀ n, e.2 = .v n → n.toNat + e.1.span ≤ (here.view fetchRef u).st.nregs) ∧
    Instr.wf (.tlbInv u .all) = true ∧ Instr.privileged (.tlbInv u .all) = true ∧ ctxStw here 0 = false ∧
    (let i := Instr.mov u false (.s 0) (.h 0)
     i.wf = true ∧ Instr.privileged i = false ∧ handleSources i ((withHandle 6).view fetchRef u).st = [0x0100000000000000] ∧
      (∀ e ∈ i.fields, ∀ n, e.2 = .v n → n.toNat + e.1.span ≤ ((withHandle 6).view fetchRef u).st.nregs) ∧
      (handleStatus (withHandle 6) 0 0x0100000000000000).1 = 6 ∧ (handleStatus (withHandle 3) 0 0x0100000000000000).1 = 3) := by decide +kernel

set_option maxRecDepth 100000 in
theorem witness_TrapEntry : (let s := activeWith here handlerAt
      ctxTvec s (s.strand fetchRef).ctx ≠ 0 ∧ (s.split fetchRef).hm = false) ∧
    (ctxTvec here (here.strand fetchRef).ctx = 0 ∧ (here.ctx 0).state ≠ .dumping) ∧
    (let s := activeWith (splitIs fun x => { x with hm := true }) handlerAt
     (s.split fetchRef).hm = true ∧ (s.ctx 0).state ≠ .dumping) ∧
    ((255 : Nat) < 256 ∧ (3 : Nat) < 4 ∧ (23 : Nat) < 24 ∧ (2 ^ 64 - 1 : Nat) < 2 ^ 64 ∧ (31 : Nat) < 32) := by decide +kernel

theorem witness_NextPlace : (let s := splitIs fun x => { x with clause := some (clauseOf 2) }
      (s.split fetchRef).clause = some (clauseOf 2) ∧ (clauseOf 2).alone = none ∧ (clauseOf 2).pos + 1 < (clauseOf 2).words.length) ∧
    (let s := splitIs fun x => { x with clause := some (clauseOf 1) }
     (s.split fetchRef).clause = some (clauseOf 1) ∧ (clauseOf 1).words.length ≤ (clauseOf 1).pos + 1 ∧
      topDefer (deferStack s 0 0) 0 = none ∧ ∀ k, k ≠ 0 → ((s.strand fetchRef).split k).state = .free) :=
  ⟨by decide, by decide, by decide, by decide, fun k hk => by
    show (Split.state (if k = 0 then _ else _)) = _
    rw [if_neg hk]; rfl⟩

theorem witness_OperandForms : (60 ≤ (60 : BitVec 6).toNat ∧ (62 : BitVec 6).toNat ≤ 62 ∧ (95 : Nat) < 96) ∧
    (let m : LaneMask := BitVec.ofNat 96 (2 ^ 95)
     m.getLsbD 95 = true ∧ (∀ k, k < 95 → m.getLsbD k = false) ∧ (59 : BitVec 6).toNat < 60) := by decide +kernel

/-! Integer, floating-point, lane and predicate instructions: the specification's own values, and witnesses. -/

/-- The state after an instruction. -/
def after (i : Instr) (s : State) : State :=
  match exec i s with
  | .next t => t
  | .fault _ => s
  | .refused _ => s

/-- The strand's vector registers v1, v2, ... hold one value each in every lane. -/
def holding (xs : List Word) : State :=
  strandIs fun x => { x with v := xs.zipIdx.map fun e => (e.2 + 1, List.replicate 96 e.1) }

/-- A lane of a vector register. -/
def lane (s : State) (n l : Nat) : Word := ((s.strand fetchRef).v.get [] n).getD l 0

/-- R334: with .n32.sat, 3 - 5 gives 0 and sets OF. -/
theorem test_isub_saturates : let t := after (.isub u .n32 true (.v 9) (.v 1) (.v 2)) (holding [3, 5])
    lane t 9 0 = 0 ∧ lane t 9 95 = 0 ∧ (t.strand fetchRef).flags = 0b00100 := by decide +kernel

/-- R341: without .sat, 0x8000_0000 stays; with it, 0x7FFF_FFFF. -/
theorem test_iabs_most_negative : lane (after (.iabs u .i32 false (.v 9) (.v 1)) (holding [0x80000000])) 9 3 = 0x80000000 ∧
    lane (after (.iabs u .i32 true (.v 9) (.v 1)) (holding [0x80000000])) 9 3 = 0x7FFFFFFF := by decide +kernel

/-- R336: with .i32, -1 × 1 gives 0xFFFF_FFFF; with .n32, 0. -/
theorem test_imulh_sign : lane (after (.imulh u .i32 false (.v 9) (.v 1) (.v 2)) (holding [0xFFFFFFFF, 1])) 9 0 = 0xFFFFFFFF ∧
    lane (after (.imulh u .n32 false (.v 9) (.v 1) (.v 2)) (holding [0xFFFFFFFF, 1])) 9 0 = 0 := by decide +kernel

/-- R339's chain, low word: 0xFFFF_FFFF + 1 gives 0 and a carry; the source is also the destination. -/
theorem test_iaddw_carry : let t := after (.iaddw u .n32 false (.v 1) (.v 1) (.v 2) (.p 1)) (holding [0xFFFFFFFF, 1])
    lane t 1 95 = 0 ∧ ((t.strand fetchRef).pred 1).getLsbD 95 = true := by decide +kernel

/-- R376: CVTI.i8.i32 of -1 writes 0x0000_00FF, and CVTI.n8.i32.sat writes 0 and sets OF. -/
theorem test_cvti_narrow : lane (after (.cvti u .i8 .i32 false (.v 9) (.v 1)) (holding [0xFFFFFFFF])) 9 0 = 0xFF ∧
    (let t := after (.cvti u .n8 .i32 true (.v 9) (.v 1)) (holding [0xFFFFFFFF])
     lane t 9 0 = 0 ∧ (t.strand fetchRef).flags = 0b00100) := by decide +kernel

/-- R381: x - x gives +0, and -0 under .rdn; R385: FMAX(-0, +0) is +0. -/
theorem test_float_zeros : lane (after (.fsub u .rne false (.v 9) (.v 1) (.v 1)) (holding [0x3F800000])) 9 0 = 0 ∧
    lane (after (.fsub u .rdn false (.v 9) (.v 1) (.v 1)) (holding [0x3F800000])) 9 0 = 0x80000000 ∧
    lane (after (.fmax u false (.v 9) (.v 1) (.v 2)) (holding [0x80000000, 0])) 9 0 = 0 := by decide +kernel

/-- R388: FRND.rne of -0.3 gives -0.0. -/
theorem test_frnd_sign : lane (after (.frnd u .rne false (.v 9) (.v 1)) (holding [0xBE99999A])) 9 0 = 0x80000000 := by decide +kernel

/-- R421: LSCAN.add.i32 over lanes 0, 1 and 3 holding 5, 7 and 9 gives 5, 12 and 21 there. -/
theorem test_lscan_lanes : (((after (.lscan u .add .i32 false false (.v 9) (.v 1))
      (strandIs fun x => { x with v := [(1, [5, 7, 100, 9])], splits := [(0, { here.split fetchRef with mask := 0b1011 })] })).strand
        fetchRef).results.map fun p => (p.lanes, (p.vals.map fun l => l.take 4))) = [(0b1011, [[5, 12, 0, 21]])] := by decide +kernel

/-- Instructions over registers, as their statements take them. -/
def integers : List Instr :=
  [.iadd u .i32 true (.v 2) (.v 4) (.v 6), .isub u .n64 true (.v 2) (.v 4) (.v 6), .imul u .i64 false (.v 254) (.v 4) (.imm 64),
   .imulh u .n32 false (.s 59) (.v 4) (.v 6), .imad u .i32 false (.t 7) (.v 4) (.v 6) (.v 8), .imadw u .n32 false (.v 2) (.v 4) (.v 6) (.v 8),
   .iabs u .i32 true (.v 2) (.v 4), .ineg u .i64 true (.v 2) (.v 4), .imin u .n32 false (.v 2) (.v 4) (.v 6), .imax u .i32 false (.v 2) (.v 4) (.v 6),
   .iclamp u .i32 false (.v 2) (.v 4) (.v 6) (.v 8), .sar u false true (.v 2) (.v 4) (.v 6), .iaddi u .n32 true (.v 2) (.v 4) 0x3FFFF,
   .imuli u .i32 false (.v 2) (.v 4) 0x20000, .cvti u .i4 .n64 true (.v 2) (.v 4), .idp4 u true true true (.v 2) (.v 4) (.v 6) (.v 8),
   .idp8 u false true false (.v 2) (.v 4) (.v 6) (.v 8)]

def bits : List Instr :=
  [.shl u true true (.v 2) (.v 4) (.v 6), .shr u false false (.v 2) (.v 4) (.v 6), .rotl u true (.v 2) (.v 4) (.v 6),
   .funsh u true true (.v 2) (.v 4) (.v 6) (.v 8), .popc u true (.v 2) (.v 4), .clz u false (.v 2) (.v 4), .ffs u false (.v 2) (.v 4),
   .bfx u true (.v 2) (.v 4) (.v 6) (.v 8), .bfi u (.v 2) (.v 4) (.v 6) (.v 8), .movi u (.s 62) 7, .andi u (.v 2) (.v 4) 0x3FFFF,
   .ori u (.v 2) (.v 4) 1, .xori u (.v 2) (.v 4) 1, .lea u 7 (.v 2) (.v 4) (.v 6), .leaw u 0 (.v 2) (.v 4) (.v 6), .pack u .i4 7 (.v 2) (.v 4) (.v 6)]

def floats : List Instr :=
  [.fadd u .rup true (.v 2) (.v 4) (.v 6), .fsub u .rdn false (.v 2) (.v 4) (.v 6), .fmul u .rtz false (.v 2) (.v 4) (.v 6),
   .ffma u .rne false (.v 2) (.v 4) (.v 6) (.v 8), .fmin u true (.v 2) (.v 4) (.v 6), .fmax u false (.v 2) (.v 4) (.v 6), .frnd u .rup false (.v 2) (.v 4),
   .fscale u .rne false (.v 2) (.v 4) (.v 6), .fcvt u .lns6 .f32 .rne true true (.v 2) (.v 4), .ftoi u .i64 .rtz false (.v 2) (.v 4),
   .itof u .n64 .rne false (.v 2) (.v 4), .fdot2 u true .rne (.v 2) (.v 4) (.v 6) (.v 8), .unpack u .lut4 7 (some (3, true)) (.v 2) (.v 4)]

def halves : List Instr :=
  [.hadd2 u true .rne (.v 2) (.v 4) (.v 6), .hmul2 u false .rup (.v 2) (.v 4) (.v 6), .hfma2 u false .rne (.v 2) (.v 4) (.v 6) (.v 8),
   .hmin2 u true (.v 2) (.v 4) (.v 6), .hmax2 u false (.v 2) (.v 4) (.v 6)]

def specials : List Instr :=
  [.frcp u true (.v 2) (.v 4), .frsq u false (.v 2) (.v 4), .fsqrt u false (.v 2) (.v 4), .fex2 u false (.v 2) (.v 4), .flg2 u false (.v 2) (.v 4),
   .fsin u false (.v 2) (.v 4), .fcos u false (.v 2) (.v 4), .ftanh u true (.v 2) (.v 4)]

def pairwise : List Instr :=
  [.iaddw u .n32 false (.v 2) (.v 4) (.v 6) (.p 7), .isubw u .n32 false (.v 2) (.v 4) (.v 6) (.p 0), .iand u true (.v 2) (.v 4) (.v 6),
   .ior u false (.v 2) (.v 4) (.v 6), .ixor u false (.s 60) (.v 4) (.v 6), .andn u false (.v 2) (.v 4) (.v 6), .sel u false (.v 2) (.v 4) (.v 6) (.p 7),
   .mov u true (.v 2) (.v 4), .tri u 0xE8 (.v 2) (.v 4) (.v 6) (.v 8), .plop u 0xFF (.p 7) (.p 1) (.p 2) (.p 3), .brev u true (.v 2) (.v 4),
   .icmp u .n64 .ge (.p 6) (.v 2) (.v 4), .icmpi u .i32 .ne (.p 7) (.v 2) 0x20000, .fcmp u .f32 .unord (.p 0) (.v 2) (.v 4), .fclass u (.v 2) (.v 4),
   .elect u (.p 6)]

def crossing : List Instr :=
  [.shfl u .rot (.v 2) (.v 4) (.v 6), .perm u (.s 3) (.v 4) (.v 6), .bcast u (.v 2) (.v 4) (.s 6), .matchL u true false (.v 253) (.v 4),
   .matchL u false true (.v 2) (.v 4), .lred u .xor .b32 false (.v 2) (.v 4), .lscan u .add .f32 true true (.v 2) (.v 4)]

/-- IntegerArithmetic, BitwiseLogicAndMoves, BitOperations, Comparisons, PredicateOperations, FloatArithmetic, SpecialFunctions,
LaneMoves and Reductions: nothing precedes these instructions, with every lane effective and with none. -/
theorem witness_register_instructions : ∀ s ∈ [here, idle], ∀ i ∈ integers ++ bits ++ floats ++ halves ++ specials ++ pairwise ++ crossing ++
    [.vote u .every (.p 0) (.p 1), .vote u .some (.p 0) (.p 1), .vote u .alike (.p 0) (.p 1), .vote u .bits (.s 61) (.p 1),
     .vote u .count (.v 2) (.p 1), .pmov u (.p 1) (.p 2), .pmov u (.p 1) (.s 61), .pmov u (.s 0) (.p 2), .fstat u (.s 3)],
    i.wf = true ∧ Unstopped s u ∧
      issueHeld (s.view fetchRef u).st fetchRef (s.view fetchRef u).pos = none ∧ precheck i (s.view fetchRef u) = none := by decide +kernel

theorem witness_tables : (∀ i ∈ integers, (integerOp i).isSome = true) ∧ (∀ i ∈ bits, (bitOp i).isSome = true) ∧
    (∀ i ∈ specials, (specialOp i).isSome = true) ∧
    (∀ i ∈ integers ++ bits ++ floats ++ halves ++ specials ++ pairwise ++ crossing, (mayWrite i).isSome = true) := by decide +kernel

/-- FloatRounding, Reductions and FlagRead: the values at which their clauses meet. -/
theorem witness_rounding : (0 < 1 ∧ 3 % 2 ^ 1 ≠ 0 ∧ 2 * (3 % 2 ^ 1) = 2 ^ 1) ∧ (2 * (5 % 2 ^ 2) < 2 ^ 2) ∧ (2 ^ 2 < 2 * (7 % 2 ^ 2)) ∧
    (8 % 2 ^ 2 = 0) ∧ ((RTy.n32 ≠ RTy.f32) ∧ (128 : Nat) ≤ 128) ∧ (here.view fetchRef u).eff ≠ 0 ∧ (idle.view fetchRef u).eff = 0 ∧
    (here.view fetchRef u).st.results = [] ∧
    ((strandIs fun x => { x with results := [awaited none 0] }).view fetchRef u).st.results ≠ [] ∧
    (let s := strandIs fun x => { x with results := [awaited none 0] }
     issueHeld (s.view fetchRef u).st fetchRef (s.view fetchRef u).pos = none ∧ precheck (.fstat u (.s 3)) (s.view fetchRef u) = none) := by decide +kernel


/-! Memory. -/

/-- Segments clu, glb, dev and aux open from 0 on; addresses in v4, v6 and s0 to s3 are 0. Virtual addresses below 64 KiB map to DRAM from 0 on
at SEC-DED grade, readable and writable (R171); every stack is up, and domain 0 owns stack 0's first stripe (R193). -/
def open_ (s : State) : State :=
  let st := s.strand fetchRef
  let s := s.setStrand fetchRef { st with segs := [1, 2, 3, 7].map fun k => (k, 0x1000000000000) }
  let s := s.setCore 0 { s.core 0 with tlb := [{ ctx := 0, va := 0, size := 65536, leaf := 0xCC80000000000000 }] }
  { s with stackTab := (List.range 8).map fun k => (k, { state := .up }), mem := [(hubKey (bdBase 0 + 0x4001), 0x80)] }

def mapped : State := open_ here

/-- The split's progress changed. -/
def progIs (s : State) (p : Prog) : State := s.setSplit fetchRef { s.split fetchRef with prog := p }

/-- The places of an access that may be made. -/
def placesOf : Access → List Place
  | .ready ps => ps
  | .trap _ _ => []
  | .wait _ => []

/-- Memory instructions, as the statements take them: nothing precedes them, with every lane effective and with none. -/
theorem witness_memory_instructions : ∀ s ∈ [mapped, idle], ∀ i ∈
    ([.ld u .dev .b64 false false (.v 8) (.v 4) (.v 6), .ld u .glb .b8 true false (.v 8) (.v 4) (.v 6), .lds u .glb .b128 false false (.s 8) (.s 0) (.s 1),
      .ldMd u .dev false (.v 8) (.v 4) (.v 6), .st u .glb .b64 false (.v 8) (.v 4) (.v 6), .sts u .glb .b128 false (.s 8) (.s 0) (.s 1),
      .stMd u .dev false (.v 8) (.v 4) (.v 6), .phase u .acq .clu, .phase u .ar .dev, .phase u .rel .core, .scfence u] : List Instr),
    i.wf = true ∧ Unstopped s u ∧
      issueHeld (s.view fetchRef u).st fetchRef (s.view fetchRef u).pos = none ∧ precheck i (s.view fetchRef u) = none := by decide +kernel

/-- Accesses whose checks pass for every effective lane: the widest and the narrowest, in SRAM and in DRAM. -/
theorem witness_accesses : let v := mapped.view fetchRef u
    (∀ e ∈ [(SegIx.dev, Width.b64, false), (SegIx.glb, Width.b8, false), (SegIx.glb, Width.b64, true)],
      v.check e.1 (plain (bytesOf e.2.1) e.2.2) (v.offsets false (.v 4) (.v 6)) =
        .ready (placesOf (v.check e.1 (plain (bytesOf e.2.1) e.2.2) (v.offsets false (.v 4) (.v 6))))) ∧
    (∀ w ∈ [false, true], v.check .glb (plain 16 w) [((lowLane v.eff).getD 0, v.offset false (.s 0) (.s 1) 0)] =
      .ready (placesOf (v.check .glb (plain 16 w) [((lowLane v.eff).getD 0, v.offset false (.s 0) (.s 1) 0)]))) ∧
    (∀ w ∈ [false, true], v.check .dev { n := 4, writes := w, needR := !w, spaces := [1], align := 4, side := w } (v.offsets false (.v 4) (.v 6)) =
      .ready (placesOf (v.check .dev { n := 4, writes := w, needR := !w, spaces := [1], align := 4, side := w } (v.offsets false (.v 4) (.v 6))))) := by decide +kernel

def lsd : Instr := .ld u .dev .b64 false false (.v 8) (.v 4) (.v 6)
def lsq : Instr := .lds u .glb .b128 false false (.s 8) (.s 0) (.s 1)
def ssq : Instr := .sts u .glb .b128 false (.s 8) (.s 0) (.s 1)

/-- The places of a DRAM load, a DRAM metadata access and a uniform quad. -/
def lanePlaces : List Place := placesOf ((mapped.view fetchRef u).check .dev (plain 8 false) ((mapped.view fetchRef u).offsets false (.v 4) (.v 6)))
def mdPlaces (w : Bool) : List Place := placesOf ((mapped.view fetchRef u).check .dev { n := 4, writes := w, needR := !w, spaces := [1], align := 4, side := w }
  ((mapped.view fetchRef u).offsets false (.v 4) (.v 6)))
def quadPlaces (w : Bool) : List Place := placesOf ((mapped.view fetchRef u).check .glb (plain 16 w) [(0, (mapped.view fetchRef u).offset false (.s 0) (.s 1) 0)])

set_option maxRecDepth 100000 in
/-- Loads, Stores and the store and load of RegisterFrame: what their lanes need beyond the checks. -/
theorem witness_Loads_Stores : (∀ x ∈ (loadedLanes 0 8 (entered lsd mapped) lanePlaces).2, x.2.2 = none) ∧
    (seen lsq u mapped).eff ≠ 0 ∧
    quadPlaces false = [⟨0, 0, 0, {}, true⟩] ∧ (loadBytes (entered lsq mapped) 0 0 16 {}).2 = (List.replicate 16 0, none) ∧
    (let s := progIs mapped { drained := true }
     Drained (.ldMd u .dev false (.v 8) (.v 4) (.v 6)) s ∧ Drained (.stMd u .dev false (.v 8) (.v 4) (.v 6)) s) ∧
    (∀ p ∈ mdPlaces false, homeFail mapped 0 p = none ∧ mapped.wgrade.find (granOf p.key) = none) ∧
    (∀ p ∈ mdPlaces true, homeFail mapped 0 p = none) ∧ mdPlaces true ≠ [] ∧
    (∃ t, exec lsd mapped = .next t) ∧ mapped.pick.ref.split < 4 ∧ mapped.flips = [] ∧ mapped.wgrade = [] := by
  refine ⟨?_, ?_, ?_, ?_, ⟨rfl, rfl⟩, ?_, ?_, ?_, ⟨_, rfl⟩, ?_, rfl, rfl⟩ <;> decide +kernel

/-- A core whose buffer covers byte 0 of its own slice and whose snapshot has line 0 and line 0x14000 of core 1's slice. -/
def buffered : State := here.setCore 0 { here.core 0 with
  q := [{ line := 0, mask := 1, data := 0x5A, via := {} }], moved := [{ line := 0, mask := 1, data := 0x77, via := {} }],
  snap := [(0x5000, 0x1234)] }

theorem witness_PhaseBuffer : ([0xFF] : List Byte) ≠ [] ∧ 63 % 64 + ([0xFF] : List Byte).length ≤ 64 ∧ (buffered.core 0).q.length ≤ 2048 ∧
    (∀ i, i < 1 → (bufferedByte (buffered.core 0) (0 + i)).isSome = true) ∧ homeOf (64 * (0 / 64)) = .slice 0 ∧
    homeOf (64 * (0x140000 / 64)) ≠ .slice 0 ∧ keySpace (64 * (0x140000 / 64)) ≠ 3 ∧ (buffered.core 0).snap.find (0x140000 / 64) = some 0x1234 := by
  decide +kernel

/-- PhaseBuffer's clause for a core's own slice: byte 5 is poisoned and not buffered, and no other byte is. -/
theorem witness_PhaseBuffer_poison : let s := { buffered with tainted := [5] }
    homeOf (64 * (0 / 64)) = .slice 0 ∧
    (∃ i, i < 4 ∧ bufferedByte (s.core 0) (4 + i) = none ∧ 4 + i ∈ s.tainted) ∧
    ¬ (∃ i, i < 4 ∧ bufferedByte (s.core 0) (0 + i) = none ∧ 0 + i ∈ s.tainted) := by decide +kernel

/-- R516: a delivery whose parity fails poisons the byte it writes, and one that does not makes it good. -/
theorem test_deliver_parity : ∀ bad ∈ [false, true],
    (let s := { buffered with tainted := [0, 1], pick := { buffered.pick with home := .slice 0, flag := bad } }
     ∃ t, exec .deliver s = .next t ∧ t.mem.read 0 = 0x77 ∧ t.tainted = if bad then [0, 1] else [1]) := by
  simp only [List.mem_cons, List.not_mem_nil, or_false, forall_eq_or_imp, forall_eq]
  refine ⟨⟨_, rfl, ?_, ?_⟩, ⟨_, rfl, ?_, ?_⟩⟩ <;> decide +kernel

set_option maxRecDepth 100000 in
/-- OrderingMoves: an entry to deliver, a heartbeat that is due at its first tick and one that is not at the tick before, a release that
is over, and a result whose replies are in. -/
theorem witness_OrderingMoves : (mapped.view fetchRef u).eff ≠ 0 ∧ (idle.view fetchRef u).eff = 0 ∧
    (let s := progIs mapped { rel := 2, beat := some (some 7) }
     (s.split fetchRef).prog.rel = 2 ∧ (s.split fetchRef).prog.beat = some (some 7) ∧ (s.core 0).refused = []) ∧
    (let s := { buffered with pick := { buffered.pick with home := .slice 0 } }
     (s.core s.pick.a).moved.findIdx? (fun e => homeOf (64 * e.line) == s.pick.home) = some 0 ∧
      (s.core s.pick.a).moved[0]? = some { line := 0, mask := 1, data := 0x77, via := {} } ∧ keySpace (64 * 0) = 0) ∧
    (({ here with tick := 256 } : State).hbTick + 256 ≤ 256 ∧ 255 < ({ here with tick := 255 } : State).hbTick + 256) ∧
    (let s := progIs here { rel := 1, scope := some .core }
     (s.split fetchRef).prog.rel = 1 ∧ (s.split fetchRef).prog.scope = some .core ∧
      (∀ e ∈ (s.core 0).moved, inScope 0 .core (homeOf (64 * e.line)) = false)) ∧
    (let s := strandIs fun x => { x with results := [awaited none 0] }
     ((s.strandAt s.pick.a s.pick.b).results)[s.pick.c]? = some (awaited none 0) ∧ (awaited none 0).owed = 0 ∧ (awaited none 0).fail = none ∧
      (awaited none 0).fence = 0 ∧ (awaited none 0).acq = none ∧ (awaited none 0).lose = none) := by decide +kernel

/-! Tagged words and atomics. -/

def drained : State := progIs mapped { drained := true }

set_option maxRecDepth 100000 in
theorem witness_TaggedInstructions : (∀ i ∈ ([.ldt u .glb .dev false (.v 8) (.v 4) (.v 6), .ldtk u .glb .dev false (.v 8) (.v 4) (.v 6),
      .tagRd u .glb false (.v 8) (.v 4) (.v 6)] : List Instr), ∃ e, taggedLoadOp i = some e ∧ i.wf = true ∧ precheck i (drained.view fetchRef u) = none ∧
        ∃ p ps, e.2.2.2.2 (seen i u drained) = .ready (p :: ps)) ∧
    (∀ i ∈ ([.stt u .glb .dev false (.v 8) (.v 4) (.v 6), .sttf u .glb .dev false (.v 8) (.v 4) (.v 6), .tagClr u .glb false (.v 4) (.v 6)] : List Instr),
      ∃ e, taggedStoreOp i = some e ∧ precheck i (drained.view fetchRef u) = none ∧
        precheck i ((progIs idle { drained := true }).view fetchRef u) = none ∧ e.2.2.2.2.1 (seen i u (progIs idle { drained := true })) = .ready []) ∧
    (let p : Prog := { stage := 1, lanes := BitVec.allOnes 96 }
     p.lanes &&& (mapped.view fetchRef u).eff = (mapped.view fetchRef u).eff ∧ (0 : LaneMask) &&& (mapped.view fetchRef u).eff ≠ (mapped.view fetchRef u).eff) := by
  refine ⟨?_, ?_, by decide +kernel⟩ <;> simp only [List.mem_cons, List.not_mem_nil, or_false, forall_eq_or_imp, forall_eq]
  · exact ⟨⟨_, rfl, by decide, by decide +kernel, _, _, rfl⟩, ⟨_, rfl, by decide, by decide +kernel, _, _, rfl⟩, ⟨_, rfl, by decide, by decide +kernel, _, _, rfl⟩⟩
  · exact ⟨⟨_, rfl, by decide +kernel, by decide +kernel, rfl⟩, ⟨_, rfl, by decide +kernel, by decide +kernel, rfl⟩, ⟨_, rfl, by decide +kernel, by decide +kernel, rfl⟩⟩

/-- A word of SRAM, and its lane in a request. -/
def wordLane : ReqLane := { lane := 95, addr := 64, key := 64, arg := 9, want := 5 }
def asker : Target := ⟨0, 0, 0, none⟩

/-- A home at which n lanes already wait at other words. -/
def crowded (n : Nat) (empty : List Nat) : State :=
  { here with emptyTags := empty, parked := List.replicate n { target := asker, op := .ldt, lane := { wordLane with key := 128 } } }

set_option maxRecDepth 100000 in
/-- TaggedInstructions at the word's home: full and empty, one below and at 1024 waiting lanes. -/
theorem witness_tagged_words : (∀ n ∈ [1023, 1024], ∀ e ∈ [[], [16]], ∀ p ∈ (crowded n e).parked, p.lane.key ≠ wordLane.key) ∧
    keyAddr wordLane.key / 4 = 16 ∧
    (crowded 1023 []).parked.countP (fun p => homeOf p.lane.key == homeOf wordLane.key) + bcbParked (crowded 1023 []) wordLane.key < 1024 ∧
    1024 ≤ (crowded 1024 []).parked.countP (fun p => homeOf p.lane.key == homeOf wordLane.key) + bcbParked (crowded 1024 []) wordLane.key := by
  decide +kernel

/-- TaggedInstructions at a full word: poisoned in its last byte, and poisoned on either side of it. -/
theorem witness_tagged_poison : let s : State := { here with tainted := [67] }
    let near : State := { here with tainted := [63, 68] }
    ¬ (∀ a ∈ s.tainted, a < wordLane.key ∨ wordLane.key + 4 ≤ a) ∧ (∀ a ∈ near.tainted, a < wordLane.key ∨ wordLane.key + 4 ≤ a) := by
  decide +kernel

set_option maxRecDepth 100000 in
/-- AtomicInstructions: every form and order, its checks passing and what its order asks for over. -/
theorem witness_AtomicInstructions : (∀ s ∈ [drained, progIs mapped { drained := true, rel := 2, beat := some (some 3) }], ∀ i ∈
      ([.atom u .glb .fadd .rlx .dev false false (.v 8) (.v 4) (.v 6), .atom u .dev .add .acq .sys true false (.v 8) (.v 4) (.v 6),
        .acas u .glb .rlx .dev true true false (.v 8) (.v 4) (.v 12), .lr u .glb .acq .dev false false (.v 8) (.v 4),
        .sc u .glb .rlx .dev true false (.v 8) (.v 4) (.v 6)] : List Instr),
      i.wf = true ∧ precheck i (s.view fetchRef u) = none ∧ ∃ x, atomOp i = some x ∧ ∃ ps t, x.check (seen i x.c s) = .ready ps ∧ afterOrder i x s ps = some t) ∧
    (let s := progIs mapped { drained := true, rel := 2, beat := some (some 3) }
     ∀ i ∈ ([.atom u .glb .add .rel .dev false false (.v 8) (.v 4) (.v 6), .atom u .glb .add .ar .dev false false (.v 8) (.v 4) (.v 6),
        .sc u .glb .sc .dev false false (.v 8) (.v 4) (.v 6)] : List Instr),
      ∃ x, atomOp i = some x ∧ ∃ ps t, x.check (seen i x.c s) = .ready ps ∧ afterOrder i x s ps = some t) ∧
    (∃ x, atomOp (.atom u .glb .add .sc .dev false false (.v 8) (.v 4) (.v 6)) = some x ∧ x.check (seen (.atom u .glb .add .sc .dev false false (.v 8) (.v 4) (.v 6)) x.c idle) =
      .ready [] ∧ ∃ t, afterOrder (.atom u .glb .add .sc .dev false false (.v 8) (.v 4) (.v 6)) x idle [] = some t) := by
  refine ⟨?_, ?_, ⟨_, rfl, rfl, Option.isSome_iff_exists.mp rfl⟩⟩ <;> simp only [List.mem_cons, List.not_mem_nil, or_false, forall_eq_or_imp, forall_eq]
  · exact ⟨⟨⟨by decide, by decide +kernel, _, rfl, _, _, rfl, rfl⟩, ⟨by decide, by decide +kernel, _, rfl, _, _, rfl, rfl⟩,
      ⟨by decide, by decide +kernel, _, rfl, _, _, rfl, rfl⟩, ⟨by decide, by decide +kernel, _, rfl, _, _, rfl, rfl⟩, ⟨by decide, by decide +kernel, _, rfl, _, _, rfl, rfl⟩⟩,
      ⟨by decide, by decide +kernel, _, rfl, _, _, rfl, rfl⟩, ⟨by decide, by decide +kernel, _, rfl, _, _, rfl, rfl⟩,
      ⟨by decide, by decide +kernel, _, rfl, _, _, rfl, rfl⟩, ⟨by decide, by decide +kernel, _, rfl, _, _, rfl, rfl⟩, ⟨by decide, by decide +kernel, _, rfl, _, _, rfl, rfl⟩⟩
  · exact ⟨⟨_, rfl, _, _, rfl, rfl⟩, ⟨_, rfl, _, _, rfl, rfl⟩, ⟨_, rfl, _, _, rfl, rfl⟩⟩

/-- An atomic request for the word, whose memory holds 5. -/
def atomAt (k : AtomKind) (w : Bool) : AtomReq := { target := ⟨0, 0, 0, some 4⟩, kind := k, w64 := w, ctx := 0, strand := 0, first := 95, lanes := [wordLane] }
def fives (resv : List (Nat × Nat × Nat)) : State := { here with mem := [(64, 5)], resv := resv }

/-- A tagged request on its way, one refused lane whose 64 ticks are over, an atomic request at the head of a service queue, a reply. -/
def onTheWay (after : Nat) (k : AtomKind) : State :=
  { strandIs (fun x => { x with results := [{ awaited none 13 with id := 4, owed := 1 }] }) with
    tick := after, tagReqs := [{ target := asker, op := .ldt, lanes := [wordLane, { wordLane with key := 0x140000 }], after := after }],
    clusters := [(7, { svc := [atomAt k false] })], replies := [{ target := ⟨0, 0, 0, some 4⟩, vals := [(95, 64, 5)], bad := [], won := true, svc := 7 }] }

set_option maxRecDepth 100000 in
theorem witness_AtomicsAtHome : keySpace wordLane.key = 0 ∧ BitVec.ofNat 64 ((fives []).mem.readNat wordLane.key 8) = wordLane.want ∧
    BitVec.ofNat 64 (here.mem.readNat wordLane.key 4) ≠ wordLane.want ∧ wordLane.canWrite = true ∧ ({ wordLane with canWrite := false } : ReqLane).canWrite = false ∧
    wordLane.lane = (atomAt .lr true).first ∧ ((0, 0, wordLane.key / 64) ∈ (fives [(0, 0, 1)]).resv) ∧ ((0, 0, wordLane.key / 64) ∉ (fives [(0, 0, 0)]).resv) ∧
    (∃ q, (onTheWay 0 .sc).tagReqs[0]? = some q ∧ q.lanes[0]? = some wordLane ∧ q.after = 0) ∧
    (let s := onTheWay 64 .sc
     (∃ q, s.tagReqs[0]? = some q ∧ q.lanes[0]? = some wordLane ∧ q.after ≤ s.tick ∧ q.after ≠ 0) ∧ (s.clu 7).svc = [atomAt .sc false] ∧ (7 : Nat) < 8 ∧
      atomServed s (atomAt .sc false) = true ∧ arbiterMay s 7 0 3 0 0 0 = true ∧
      (∃ a, s.replies[0]? = some a ∧ a.target.core < 4096 ∧ a.target.id = some 4)) := by
  refine ⟨?_, ?_, ?_, ?_, ?_, ?_, ?_, ?_, ⟨_, rfl, rfl, rfl⟩, ⟨_, rfl, rfl, by decide, by decide⟩, ?_, ?_, ?_, ?_, ⟨_, rfl, by decide, rfl⟩⟩ <;> decide +kernel

/-! Handles and byte-count barriers. -/

/-- The strand's handle h0 names a command of cluster 0 with a status; its promise is tick 5. -/
def promised (status tick : Nat) : State :=
  let s := strandIs fun x => { x with h := [(0, 0x0100000000000005)] }
  let cmd : EngCmd := { id := 0, eng := 0, fn := 1, block := [], opts := 0, handle := some 0x0100000000000005, ctx := 0, segs := [], scratch := 0 }
  { s with tick := tick, clusters := [(0, { ctab := [(0, { handle := 0x0100000000000005, ctx := 0, status := status, result := 7 })] })],
           cores := s.cores.map fun e => (e.1, { e.2 with eng := [cmd] }) }

/-- A wait for h0's promise. -/
def promiseWait (status tick : Nat) : State :=
  let s := promised status tick
  s.setSplit fetchRef { s.split fetchRef with state := .waiting, waits := [{ kind := .promise 0x0100000000000005, pc := 0, pos := 0, lanes := 1, since := 0, hm := false }] }

theorem witness_HandleInstructions : (∀ s ∈ [promised 6 4, promised 0 5, promised 3 5, { idle with tick := 5 }], ∀ i ∈
      ([.hwait u true (some (.v 9)) (.h 0), .hwait u false none (.h 15), .htest u (.s 3) (.h 0), .hcancel u (.h 0), .hmov u true (.h 15) (.s 2),
        .hmov u false (.s 2) (.h 15), .hprom u (.h 0)] : List Instr),
      i.wf = true ∧ precheck i (s.view fetchRef u) = none ∧ Unstopped s u) ∧
    (handleStatus (promised 6 4) 0 0x0100000000000005).1 = 6 ∧ (handleStatus (promised 0 5) 0 0x0100000000000005).1 = 0 ∧
    (handleStatus (promised 3 5) 0 0x0100000000000005).1 = 3 ∧ (handleStatus (promised 6 4) 0 0).1 ≠ 6 ∧
    ptickReached (promised 6 4) 0x0100000000000005 = false ∧ ptickReached (promised 6 5) 0x0100000000000005 = true ∧
    (let s := promiseWait 6 5
     (∃ w, ((s.split s.pick.ref).waits)[s.pick.a]? = some w ∧ w.kind = .promise 0x0100000000000005) ∧
      metPromise s (s.strand s.pick.ref).ctx 0x0100000000000005 = false) ∧
    metPromise (promised 0 5) 0 0x0100000000000005 = true ∧ metPromise (promised 3 5) 0 0x0100000000000005 = true ∧
    (handleStatus (promised 6 4) 0 0x0100000000010005).1 = 7 ∧
    (∃ e, ((promised 3 5).clu (handleClu 0x0100000000000005)).ctab.find (handleSerial 0x0100000000000005) = some e ∧ e.at_ = 0) := by
  refine ⟨?_, ?_, ?_, ?_, ?_, ?_, ?_, ⟨⟨_, rfl, rfl⟩, ?_⟩, ?_, ?_, ?_, ⟨_, rfl, rfl⟩⟩ <;> decide +kernel

/-- BCB instructions: the drain over, the access made, the release over. -/
theorem witness_BarrierInstructions : ((mapped.split fetchRef).prog.stage = 0) ∧
    (∀ s ∈ [progIs mapped { drained := true, rel := 2 }, progIs mapped { drained := true, rel := 2, stage := 1 }],
     (∀ i ∈ ([.bcbInit u .glb (.s 0) (.imm 8), .bcbExp u .glb (.s 0) (.imm 8), .bcbArr u .glb (.s 0) (.imm 8), .bcbWait u .glb (.s 0) (.imm 1),
         .bcbTest u .glb (.v 2) (.s 0) (.imm 0)] : List Instr), i.wf = true ∧ precheck i (s.view fetchRef u) = none ∧ precheck i (idle.view fetchRef u) = none) ∧
      (∀ w ∈ [false, true], barrierAccess (s.view fetchRef u) .glb w (.s 0) = .ready [⟨0, 0, 0, {}, true⟩]) ∧
      (s.view fetchRef u).eff ≠ 0 ∧ Drained (.bcbInit u .glb (.s 0) (.imm 8)) s ∧ (s.core 0).refused = []) := by
  refine ⟨rfl, ?_⟩
  simp only [List.mem_cons, List.not_mem_nil, or_false, forall_eq_or_imp, forall_eq]
  exact ⟨⟨by decide +kernel, by decide +kernel, by decide +kernel, rfl, rfl⟩, ⟨by decide +kernel, by decide +kernel, by decide +kernel, rfl, rfl⟩⟩

/-- A barrier at address 0 that expects 8 bytes of which 3 have arrived. -/
def barrier : State := bcbArrive (bcbInit here 0 8) 0 3

/-- Its phase's arrivals: one below the count, one that reaches it, one that passes it, and at the largest count. -/
theorem witness_barrier_phase : barrier.mem.wf = true ∧ (8 : Nat) ≠ 0 ∧ (2 ^ 32 - 1 : Nat) < 2 ^ 32 ∧ (readBcb barrier 0).exp = 8 ∧ (readBcb barrier 0).arr = 3 ∧
    (readBcb here 0).exp = 0 := by decide +kernel

/-! Tensors and the matrix unit. -/

/-- A valid table entry of rank 2 (R452): kind, format code, segment, dimensions 2 by 2, stride of dimension 1. -/
def entry (kind fmt seg stride : Nat) : BitVec 512 :=
  1#1 ++ BitVec.ofNat 2 kind ++ BitVec.ofNat 5 fmt ++ 1#2 ++ BitVec.ofNat 3 seg ++ 0#48 ++ 2#24 ++ 2#24 ++ 0#48 ++ BitVec.ofNat 32 stride ++ 0#323

/-- Tids of context 0 over SRAM: 0 FP16, 1 FP32, 2 TIERED BF16 in dev, 3 E4M3 with metadata 5, 4 I4, 5 metadata, 6 I32. -/
def tensorsOf (s : State) : State := s.setCtx 0 { s.ctx 0 with tids :=
  [(0, entry 0 1 2 4), (1, entry 0 0 2 8), (2, entry 1 2 3 4), (3, entry 0 3 2 2 ||| BitVec.ofNat 512 (2 ^ 134 + 5 * 2 ^ 124)), (4, entry 0 7 2 1),
   (5, entry 2 14 2 64), (6, entry 0 13 2 8)] }

/-- The quad at s0 holds a word of tid numbers. -/
def tensors (word : Word) : State := let s := tensorsOf mapped; s.setStrand fetchRef { s.strand fetchRef with s := [(0, word)] }

/-- The same with accumulator tiles of a tag, owned by n operations. -/
def tiled (word : Word) (tag : TileTag) (n : Nat) : State :=
  let s := tensors word
  s.setCore 0 { s.core 0 with tiles := (List.range 8).map fun k => (k, { tag := tag, owners := n }) }

/-- Tid 9 bound at a tier engine. -/
def bound (s : State) : State := s.setCtx 0 { s.ctx 0 with tiers := [(0, { state := .bound }), (1, { state := .bound })] }

/-- What TID.LD reads from virtual address 0: an acceptable entry, and one whose reserved bits are not 0. -/
def entryAt (bits : Nat) : State := { tensors 1 with mem := (tensors 1).mem.writeNat (dramKey 0) 64 (entry 0 0 2 8 ||| BitVec.ofNat 512 bits).toNat }

def tensorForms : List Instr :=
  [.tidLd u (.s 0) (.s 8), .tidInv u (.s 0), .gang u (.s 0), .cbLd u (.c 3) (.s 0), .mma u true .tile (.a 7) (.s 0), .mma u false .wide (.a 4) (.s 0),
   .mmaSp u false .tile (.a 0) (.s 0), .mmaQ u false .wide (.a 0) (.s 0), .mma u false .gang (.a 0) (.s 0), .accZero u true (.a 4), .accLd u true (.a 0) (.s 0),
   .accSt u false true (.a 0) (.s 0), .accGet u true (.v 8) (.a 4) (.s 4), .accPut u false (.a 7) (.v 8) (.s 4)]

/-- Nothing precedes the instructions, with every lane effective and with none; what each kind of tid, tile and list comes to. -/
theorem witness_TensorIdentifiers : (∀ s ∈ [tensors 0, idle], ∀ i ∈ tensorForms, i.wf = true ∧ Unstopped s u ∧
      issueHeld (s.view fetchRef u).st fetchRef (s.view fetchRef u).pos = none ∧ precheck i (s.view fetchRef u) = none) ∧
    1023 < 1024 ∧ namedTid (tensors 0) 0 1 ≠ none ∧ namedTid (tensors 0) 0 9 = none ∧ tierBound (tensors 0) 0 1 = false ∧
    tierBound (bound (tensors 1)) 0 1 = true ∧
    gangLegal 0 0 0 = true ∧ gangLegal (BitVec.ofNat 128 (2 * 2 ^ 125 + 32 * 2 ^ 13)) 0 0 = true ∧ gangLegal (BitVec.ofNat 128 (2 ^ 125)) 0 0 = false := by
  decide +kernel

def auxPlaces (s : State) : List Place :=
  placesOf ((s.view fetchRef u).checkSeg 7 { n := 64, writes := false, needR := true, spaces := [0, 1, 2, 3, 8], align := 64 } [(0, 0)])

/-- TID.LD: the entry read, acceptable and not. -/
theorem witness_entry_read : (auxPlaces (entryAt 0)).map (·.key) = [dramKey 0] ∧ (auxPlaces (entryAt 1)).map (·.key) = [dramKey 0] ∧
    (∀ e ∈ [(0, true), (1, false)], tidAccepted (BitVec.ofNat 512 ((entryAt e.1).mem.readNat (dramKey 0) 64)) 0 = e.2) ∧
    segBase (((entryAt 0).strand fetchRef).segs.get 0 3) = 0 := by decide +kernel

/-- A quad whose first word is tids 0 and 0, 3 and 3, 4 and 4 and so on. -/
def pairOf (a b : Nat) : Word := BitVec.ofNat 32 (a + 1024 * b)

/-- A gang of cores 0 and 1 of the cluster, slot 0 of each. -/
def twoCores (q : Nat) : BitVec 128 := BitVec.ofNat 128 (2 * 2 ^ 125 + q * 2 ^ 122 + 32 * 2 ^ 13)
def ganged (s : State) : State :=
  let s := s.setStrand fetchRef { s.strand fetchRef with gang := twoCores 0 }
  let s := s.setStrand ⟨1, 0, 0⟩ { s.strand fetchRef with gang := twoCores 1 }
  s.setSplit fetchRef { s.split fetchRef with prog := { rel := 2 } }

def mmaOf (shape : Shape) : Instr := .mma u false shape (.a 0) (.s 0)
def opIn (s : State) : Option CascadeOp := match opOf (mmaOf .wide) (seen (mmaOf .wide) u s) with | some (.ok x) => x | _ => none
def someOp : CascadeOp :=
  { kind := .dense, sat := false, gang := false, ctx := 0, strand := 0, tile := 0, wide := false, m0 := 0, n0 := 0, k0 := 0, steps := 2,
    ta := entry 0 1 2 4, tb := entry 0 1 2 4, md := 0, book := 0, segs := [], scratch := 0 }
def callIn (s : State) : Option GangCall := callOf (mmaOf .gang) (seen (mmaOf .gang) u s)
def firstArrival (s : State) : State :=
  match callIn s with
  | some c => s.setClu 0 { s.clu 0 with cuffs := [{ ctx := 0, call := c, members := [(0, 0), (1, 0)], arrived := [{ core := 1, slot := 0, split := 0, op := none }], count := 65535, mark := some 0 }] }
  | none => s

/-- What the operands of a form come to: an operation, a trap. -/
def operandsAre (i : Instr) (s : State) : Option Bool :=
  match opOf i (seen i u s) with
  | some (.ok (some _)) => some true
  | some (.error _) => some false
  | _ => none

theorem witness_MatrixInstructions : operandsAre (mmaOf .wide) (tensors 0) = some true ∧ operandsAre (mmaOf .tile) (tensors 9) = some false ∧
    operandsAre (.mmaSp u false .tile (.a 7) (.s 0)) (tensors (pairOf 3 3)) = some true ∧
    operandsAre (.mmaQ u false .tile (.a 0) (.s 0)) (tensors (pairOf 3 4)) = some true ∧
    (∀ s ∈ [tensors 0, ganged (tensors 0)], (seen (mmaOf .gang) u s).eff ≠ 0 ∧ (s.prog fetchRef).stage = 0 ∧ (s.core 0).refused = []) ∧
    (let s := ganged (tensors 0)
     2 ≤ gangCount (seen (mmaOf .gang) u s).st.gang ∧ (s.prog fetchRef).rel = 2 ∧ operandsAre (mmaOf .gang) s = some true ∧
      (callOf (mmaOf .gang) (seen (mmaOf .gang) u s)).isSome = true) ∧
    (let s := (tensors 0).setCore 0 { (tensors 0).core 0 with cascade := [someOp] }
     (s.core s.pick.a).cascade = [someOp] ∧ headMay s 0 someOp ∧ someOp.kind ≠ .tmv ∧ someOp.group = none) ∧
    (let s := firstArrival (ganged (tensors 0))
     ((s.clu s.pick.a).cuffs[s.pick.b]?).any (fun x => !x.failed && (retime { s with tick := 1 } x).count ≥ 65536 && (retime s x).count < 65536) = true) := by
  unfold headMay; decide +kernel

/-- Cores 0 and 1 with an operation of gang 5 each, whose receivers hold these steps of A and of B on core 1. -/
def fedOp (a b : Tab TileCodes) : CascadeOp := { someOp with group := some 5, fedA := a, fedB := b }
def gangAt (a b : Tab TileCodes) : State :=
  { tensors 0 with cores := [(0, { cascade := [fedOp [] []] }), (1, { cascade := [fedOp a b] })] }

/-- More steps than a receiver holds. -/
def full (n : Nat) : Tab TileCodes := (List.range (n + 1)).map fun k => (k + 1, [])

theorem full_lacks (n : Nat) : (full n).find 0 = none := by
  unfold full
  generalize List.range (n + 1) = l
  induction l with
  | nil => rfl
  | cons k l ih => rw [List.map_cons, Tab.find, if_neg (by omega)]; exact ih

theorem full_length (n : Nat) : n < (full n).length := by simp [full]

theorem gang_ops (a b : Tab TileCodes) : gangOps (gangAt a b) 0 5 = [(0, fedOp [] []), (1, fedOp a b)] := by
  simp [gangOps, gangAt, fedOp, coreCluster]

theorem full_refused (n : Nat) (h : n = Config.receiveSteps) : hasRoomFor (full n) = false := by
  have := full_length n
  unfold hasRoomFor; exact decide_eq_false (by omega)

theorem fed_once (a : Tab TileCodes) (h : a.find 0 = none) :
    lackA (gangAt a []) 0 5 (fedOp [] []) = [(0, fedOp [] []), (1, fedOp a [])] := by
  rw [lackA, show coreCluster 0 = 0 from rfl, gang_ops]
  simp [fedOp, someOp, h, Tab.find]

/-- Receivers with room, one without for A or for B, and steps that have been delivered. -/
theorem witness_receivers : headMay (gangAt [] []) 0 (fedOp [] []) ∧ (fedOp [] []).fedA.find 0 = none ∧
    (∃ e ∈ lackA (gangAt (full Config.receiveSteps) []) 0 5 (fedOp [] []), Config.receiveSteps < e.2.fedA.length) ∧
    (∀ e ∈ lackA (gangAt [] []) 0 5 (fedOp [] []), e.2.fedA.length ≤ Config.receiveSteps) ∧
    feedA (gangAt (full Config.receiveSteps) []) 0 5 (fedOp [] []) = none ∧
    feedA (gangAt [] []) 0 5 (fedOp [(0, [])] []) = some (gangAt [] []) ∧
    feedB (gangAt [] (full Config.receiveSteps)) 0 5 (fedOp [(0, [])] []) = none ∧
    feedB (gangAt [] []) 0 5 (fedOp [] [(0, [])]) = some (gangAt [] []) ∧
    ((feedA (gangAt [] []) 0 5 (fedOp [] [])).bind fun t => (feedB t 0 5 (fedOp [] [])).map fun w => (w.core 0).cascade.length) = some 1 := by
  refine ⟨by unfold headMay; decide +kernel, rfl, ?_, ?_, ?_, rfl, ?_, rfl, by decide +kernel⟩
  · rw [fed_once _ (full_lacks _)]
    exact ⟨_, List.mem_cons_of_mem _ (List.mem_singleton.mpr rfl), full_length _⟩
  · rw [fed_once _ rfl]; simp [fedOp]
  · rw [feedA, show coreCluster 0 = 0 from rfl, gang_ops]
    simp [fedOp, someOp, full_lacks, full_refused, Tab.find]
  · rw [feedB, show coreCluster 0 = 0 from rfl, gang_ops]
    simp [fedOp, someOp, full_lacks, full_refused, Tab.find]

/-- A TMV of one batch at the head. -/
def tmvAt : State :=
  let j : TmvJob := { id := 7, core := 0, ctx := 0, strand := 0, tile := 0, xs := [], f32 := false, n0 := 0, counting := false, dev := 0, free := false }
  let s := (tensors 0).setCore 0 { (tensors 0).core 0 with cascade := [{ someOp with kind := .tmv, job := (2, 7) }] }
  s.setCtx 0 { s.ctx 0 with tiers := [(2, { state := .bound, flight := [j] })] }

theorem witness_tmv_step : headMay tmvAt 0 { someOp with kind := .tmv, job := (2, 7) } ∧
    (((tmvAt.tier 0 2).flight.find? fun j => j.id == 7).isSome = true) := by unfold headMay; decide +kernel

/-- Offsets of the cells of a 2 by 2 block with rows 8 bytes apart, and of two row sums 256 bytes on. -/
def blockOffs (sums : Bool) : List Nat := [0, 4, 8, 12] ++ (if sums then [256, 260] else [])
def blockPlaces (writes : Bool) (sums : Bool) : List Place :=
  placesOf (((tiled 1 .free 0).view fetchRef u).checkSeg 2 { n := 4, writes := writes, needR := !writes, spaces := [0, 1, 2, 3, 8], align := 4 }
    ((blockOffs sums).zipIdx.map fun e => (e.2, (e.1 : Int))))

/-- An ACC.LD's word of tid 1, tag F, or tag Q with row sums at 256. -/
def accWord (tag : Nat) : State := let s := tiled (BitVec.ofNat 32 (1 + 4096 * tag)) .free 0
  s.setStrand fetchRef { s.strand fetchRef with s := [(0, BitVec.ofNat 32 (1 + 4096 * tag)), (3, 256)] }

theorem witness_AccumulatorInstructions : (∀ s ∈ [tiled 1 .free 0, tiled 1 .f 0], ∀ w ∈ [false, true], unowned s (s.view fetchRef u) w (.a 4)) ∧
    (∀ w ∈ [false, true], ¬ unowned (tiled 1 .f 1) ((tiled 1 .f 1).view fetchRef u) w (.a 4)) ∧ namedTid (tiled 9 .f 0) 0 9 = none ∧
    (namedTid (tiled 1 .f 0) 0 1 = some (entry 0 0 2 8) ∧ tidFmt (entry 0 0 2 8) = .f32 ∧ tidKind (entry 0 0 2 8) = 0 ∧ tidSeg (entry 0 0 2 8) = 2) ∧
    ((blockPlaces false true).length = 6 ∧ (blockPlaces true false).length = 4 ∧
      ∀ e ∈ (eachPlace (loadPlace 0 4) (accWord 3) (blockPlaces false true)).2, e.2.2 = none) ∧
    (let t := (tiled 1 .free 0).core 0
     (t.tile 0).tag = .free ∧ (t.tile 0).tid = none ∧ (((tiled 1 .f 0).core 0).tile 0).tag = .f) := by
  refine ⟨?_, ?_, ?_, ?_, ?_, ?_⟩ <;> (try unfold unowned) <;> decide +kernel

/-! Tiered matrices. -/

/-- A small block for tid 2 with a home cluster, and tid 2 bound under it; a TMV with three rows in the pool. -/
def block2 (home : Nat) : BitVec 512 := BitVec.ofNat 512 (home * 2 ^ 425 + 2 * 2 ^ 366)
def job (due : List Nat) (pool : List Nat) : TmvJob :=
  { id := 0, core := 0, ctx := 0, strand := 0, tile := 0, xs := [[0, 0]], f32 := false, n0 := 0, counting := false, dev := 0x1000000000000, free := true
    due := due, pool := pool.map fun k => (k, []), hotDone := true, parts := pool.map fun k => (k % 8, { vals := [[0, 0]], sums := [0], bad := none }) }
def tierAt (f : Tier → Tier) (word : Word) : State :=
  let s := tensors word
  let s := s.setClu 0 { s.clu 0 with tenant := some 0 }
  let s := s.setCtx 0 { s.ctx 0 with tiers := [(2, f { state := .bound, block := block2 0, entry := entry 1 2 3 4 })] }
  { s with pick := { s.pick with a := 0, b := 2 } }
def tierPlain (word : Word) : State := tierAt id word

theorem witness_TieredInstructions : (∀ s ∈ [tierPlain 2, idle, progIs (tierPlain 2) { stage := 2 }], ∀ i ∈ ([.tmv u true (.a 7) (.s 0), .fireRd u (.s 0)] : List Instr),
      i.wf = true ∧ precheck i (s.view fetchRef u) = none ∧ Unstopped s u) ∧
    (let v := (tierPlain 2).view fetchRef u
     tierFault (tierPlain 2) v 2 = none ∧ tierFault (tierPlain 2) v 9 = some 0x01 ∧ tierFault (tierPlain 2) v 1 = some 0x19 ∧
      tierFault (tierAt (fun t => { t with block := block2 1 }) 2) v 2 = some 0x19 ∧
      tierFault (tierAt (fun t => { t with state := .unbound }) 2) v 2 = some 0x19) ∧
    (0x4002 / 65536 = 0 ∧ 0x4002 / 8192 % 8 ≤ 2 ∧ (0x7FC00000 : Nat) < 2 ^ 32 ∧ (ff32.decode 0x7FC00000).isNan = true ∧
      (ff32.decode (tidTheta (entry 1 2 3 4)).toNat).isNan = false) ∧
    (let s := tierPlain 0x4002
     (s.core 0).tagFits false 7 .q = true ∧ ((s.tier 0 2).flight.length < 256) ∧ tierHasTurn s (s.view fetchRef u) 0) ∧
    ((tierPlain 2).view fetchRef u).checkSeg 0 { n := 2, writes := true, needR := false, spaces := [0, 1, 2, 3, 8], align := 2 } [] = .ready [] := by
  refine ⟨by decide +kernel, by decide +kernel, by decide +kernel, ⟨?_, ?_, ?_⟩, ?_⟩ <;> (try unfold tierHasTurn) <;> decide +kernel

set_option maxRecDepth 100000 in
/-- TMV's inputs are read: two BF16 codes at 0 of glb. -/
theorem witness_tmv_inputs : let s := tierPlain 0x4002
    ∃ u' xs, ∀ k, tmvInputs (s.view fetchRef u) s 2 2 2 1 0 0 k = k u' xs := ⟨_, _, fun _ => rfl⟩

def tierCmd (act : TierAct) : TierCmd := { act := act, handle := none, dev := 0x1000000000000 }
def tierPkt (done : Bool) (back : Back) : Packet :=
  { stack := 0, agent := 0, tag := some 0, kind := .nmc, addr := 0, dom := 0, grade := 1, work := some (.bas 0 0 0 0 1 [(0, 0)] [(0, 0)]), back := back, spans := [], done := done }
def tierCmdAt : State := mapped.setCore 0 { mapped.core 0 with eng := [{ id := 5, eng := 3, fn := 0, block := [], opts := 0, handle := none, ctx := 0, segs := [], scratch := 0 }] }

theorem witness_TierEngine : (∀ c ∈ ([.rank, .mig] : List TierAct), let s := tierAt (fun t => { t with state := .quiescing, waiting := [.cmd (tierCmd c)] }) 2
      let t := s.tier s.pick.a s.pick.b
      t.state = .quiescing ∧ t.flight = [] ∧ t.waiting = [.cmd (tierCmd c)] ∧ tierHold s s.pick.a t (tierCmd c).dev = none ∧ t.working = none) ∧
    (∀ i, i < 8 → stackServes mapped (i * 4096) = true ∧ stackServes (tierPlain 2) (i * 4096) = true) ∧
    (let s := tierAt (fun t => { t with state := .quiescing, waiting := [.ageing 0x1000000000000] }) 2
     let t := s.tier s.pick.a s.pick.b
     t.state = .quiescing ∧ t.flight = [] ∧ t.waiting = [.ageing 0x1000000000000] ∧ tierHold s s.pick.a t 0x1000000000000 = none) ∧
    (∀ st ∈ [TierState.working, .refreshing], let s := tierAt (fun t => { t with state := st, working := some (tierCmd .mig), copies := [⟨0, 0, none⟩] }) 2
      let t := s.tier s.pick.a s.pick.b
      tierHold s s.pick.a t (tierCmd .mig).dev = none ∧ t.copies = [⟨0, 0, none⟩] ∧ t.working = some (tierCmd .mig) ∧ (t.state = .working ∨ t.state = .refreshing)) ∧
    (let s := tierAt (fun t => { t with flight := [job [] [3, 8]] }) 2
     let t := s.tier s.pick.a s.pick.b
     t.flight[s.pick.c]? = some (job [] [3, 8]) ∧ (job [] [3, 8]).due = [] ∧ tenantAt s 0 s.pick.a = true ∧ (job [] [3, 8]).hotDone = true ∧
      (∀ k ∈ (job [] [3, 8]).pool, ((job [] [3, 8]).parts.find (k.1 % 8)).isSome = true) ∧ (job [] [3, 8]).refused = none) ∧
    ((job [0] [3, 8]).due ≠ [] ∧ ({ job [] [3, 8] with refused := some 64 } : TmvJob).refused = some 64) ∧
    (let s : State := { mapped with pkts := [tierPkt false (.tmv 0 2 0)] }
     (s.pkts[s.pick.a]? = some (tierPkt false (.tmv 0 2 0))) ∧ pktMay s s.pick.a (tierPkt false (.tmv 0 2 0)) = true ∧
      pieceStopped s (tierPkt false (.tmv 0 2 0)) = false ∧ pktRefusal s (tierPkt false (.tmv 0 2 0)) = none) ∧
    (let s : State := { tierCmdAt with pkts := [tierPkt true (.cmd 0 5 0)] }
     let t := dropPacket s s.pick.a (tierPkt true (.cmd 0 5 0))
     s.pkts[s.pick.a]? = some (tierPkt true (.cmd 0 5 0)) ∧ findCmd t 0 5 = some 0 ∧ ((t.core 0).eng[0]?).isSome = true) := by decide +kernel

/-- Tid 2 quiesces for a command, and a stack that holds its tables does not serve. -/
def tierWaits : State := { tierAt (fun t => { t with state := .quiescing, waiting := [.cmd (tierCmd .rank)] }) 2 with stackTab := [] }

theorem witness_tier_hold : tierHold tierWaits 0 (tierWaits.tier 0 2) (tierCmd .rank).dev = some tierWaits := by decide +kernel

/-! Sampler, fragments, records. -/

/-- Index 0 of the heap names a 1D FP32 resource of one level and of a filter (R254). -/
def sampled (filt : Nat) : State :=
  let s := mapped.setStrand fetchRef { mapped.strand fetchRef with segs := (6, 0x1000000000000) :: (mapped.strand fetchRef).segs }
  { s with mem := s.mem.writeNat (dramKey 0) 64 (1#4 ++ 7#4 ++ 0#39 ++ 1#4 ++ BitVec.ofNat 3 filt ++ 0#458 : BitVec 512).toNat }

def samplers : List Instr := [.smp u (.v 8) (.v 4) (.v 12) (.v 16), .smpc u (.v 8) (.v 4) (.v 12) (.v 16), .tld u (.v 8) (.v 4) (.v 12) (.v 16), .resQ u (.v 8) (.v 4)]

/-- The lanes' answers of a sampler instruction, and whether each is one. -/
def lanesAnswered (i : Instr) (s : State) : Option Bool := (sampleOp i).map fun o =>
  (laneAnswers (seen i u s) o.idx o.legal (o.answer (seen i u s)) s (lanesOf (seen i u s).eff)).2.all fun e => match e.2 with
    | .ok _ => true
    | .error _ => false

/-- Lanes 0 and 1 index different resources. -/
def twoIndices : State := let s := sampled 0; s.setStrand fetchRef { s.strand fetchRef with v := [(4, 0#32 :: List.replicate 95 1#32)] }

theorem witness_SamplerInstructions : (∀ s ∈ [sampled 0, idle, twoIndices], ∀ i ∈ samplers, i.wf = true ∧ (sampleOp i).isSome = true ∧ precheck i (s.view fetchRef u) = none ∧
      Unstopped s u ∧ issueHeld (s.view fetchRef u).st fetchRef (s.view fetchRef u).pos = none) ∧
    ((distinctIndices (twoIndices.view fetchRef u) (.v 4)).length = 2 ∧ (twoIndices.prog fetchRef).stage = 0 ∧
      (distinctIndices ((sampled 0).view fetchRef u) (.v 4)).length = 1 ∧ (distinctIndices (idle.view fetchRef u) (.v 4)).length = 0) ∧
    ((progIs twoIndices { stage := 1, tick := 0 }).prog fetchRef).stage ≠ 0 ∧
    (∀ e ∈ [((.smp u (.v 8) (.v 4) (.v 12) (.v 16) : Instr), 0), (.smpc u (.v 8) (.v 4) (.v 12) (.v 16), 4), (.tld u (.v 8) (.v 4) (.v 12) (.v 16), 0),
      (.resQ u (.v 8) (.v 4), 0)], lanesAnswered e.1 (sampled e.2) = some true) := by decide +kernel

/-- Lane 0 of a strand of a kind holds an interval record of views 0 to 40 and of a generation. -/
def batch (kind : StrandKind) (gen : Nat) : State :=
  let s := mapped
  let s := s.setStrand fetchRef { s.strand fetchRef with kind := kind, v := [(4, List.replicate 96 20)]
                                                         staged := { recs := [(0, ivPut (ivPut (ivPut 0 436 7 40) 430 5 gen) 352 32 0x3FF)] } }
  s.setSplit fetchRef { s.split fetchRef with mask := 1 }

/-- The same, with the draw that the batch shades. -/
def drawn (gen : Nat) : State := { batch (.fragment 0) gen with draws := [(0, { ctx := 0, stream := 0, frame := 0, set := 0, bits := 0, vpre := 0, fpre := 0 })] }

/-- A state in whose tick core 3 has been served at the cistern of core 0. -/
def robbed (s : State) : State := s.setCore 0 { s.core 0 with stolen := some (s.tick, 3) }

def fragments : List Instr := [.vbary u (.v 8) 15 (.v 4), .vsplit u (.v 4), .vkill u (.v 4), .outc u (.v 4), .outz u (.v 4), .outv u none (.v 4), .outv u (some 15) (.v 4)]

def deepLanes (s : State) : LaneMask := let v := s.view fetchRef u
  lanesWhere fun l => v.eff.getLsbD l && (match v.st.staged.recs.find l with | none => false | some x => ivGen x == 31 && (splitRecord x (v.rd (.v 4) l).toNat).isSome)

theorem witness_FragmentInstructions : (∀ s ∈ [batch .plain 0, drawn 30, robbed (drawn 30), batch (.fragment 0) 30, batch (.fragment 0) 31, batch (.vertex 0 0) 0, idle], ∀ i ∈ fragments, i.wf = true ∧
      precheck i (s.view fetchRef u) = none ∧ Unstopped s u ∧
      issueHeld (s.view fetchRef u).st fetchRef (s.view fetchRef u).pos = none) ∧
    (shadedDraw (drawn 30) ((drawn 30).view fetchRef u).st ≠ none ∧ shadedDraw (batch (.fragment 0) 30) ((drawn 30).view fetchRef u).st = none) ∧
    servedAlready (robbed (drawn 30)) 0 ∧ ¬ servedAlready (drawn 30) 0 ∧
    (let s := drawn 30
     (s.strand fetchRef).isFragment = true ∧ deepLanes s = 0 ∧ (splitAll (s.view fetchRef u) (.v 4) s (lanesOf (s.view fetchRef u).eff)).isSome = true) ∧
    (deepLanes (batch (.fragment 0) 31) ≠ 0 ∧ ((batch .plain 0).strand fetchRef).isFragment = false ∧ ((batch (.vertex 0 0) 0).strand fetchRef).isVertex = true) := by
  refine ⟨by decide +kernel, by decide +kernel, ⟨3, rfl⟩, fun ⟨_, h⟩ => (nomatch (rfl : ((drawn 30).core 0).stolen = none).symm.trans h), by decide +kernel, by decide +kernel⟩

/-- Records to push whose word 15's top byte is a value; n records in the core's cistern; work and held counts. -/
def pushing (tag : Word) : State := let s := mapped; s.setStrand fetchRef { s.strand fetchRef with v := [(23, List.replicate 96 (tag <<< 24))] }
def cistern (n work held : Nat) : State :=
  let s := mapped.setCore 0 { mapped.core 0 with cistern := (List.range n).map fun k => (0, BitVec.ofNat 512 k) }
  let s := s.setClu 0 { s.clu 0 with work := [(0, work)] }
  s.setStrand fetchRef { s.strand fetchRef with held := held, token := true }

theorem witness_RecordInstructions : (∀ s ∈ [pushing 0, robbed (pushing 0), robbed (cistern 2 3 95), pushing 0xF1, cistern 2 3 95, cistern 0 1 96, cistern 0 2 96, idle], ∀ i ∈ ([.recPush u (.v 8), .recPop u (.v 8) (.p 1), .recDone u] : List Instr),
      i.wf = true ∧ precheck i (s.view fetchRef u) = none ∧ Unstopped s u) ∧
    (let v := (pushing 0).view fetchRef u
     (v.rd ((Operand.v 8).after 15) 0).extractLsb' 24 8 ≠ 0xF1 ∧ (((pushing 0xF1).view fetchRef u).rd ((Operand.v 8).after 15) 0).extractLsb' 24 8 = 0xF1 ∧
      (pushAll v (laneRecord v (.v 8)) (pushing 0) (lanesOf (v.eff &&& ~~~((pushing 0).prog fetchRef).lanes))).isSome = true) ∧
    (let got (s : State) := popLanes s 0 0 0 (lanesOf (s.view fetchRef u).eff)
     (got (cistern 2 3 95)).2.length = 2 ∧ (got (cistern 0 1 96)).2 = [] ∧ (((got (lowerWork (cistern 0 1 96) 0 0 1)).1).clu 0).work.get 0 0 = 0 ∧
      (((got (lowerWork (cistern 0 2 96) 0 0 1)).1).clu 0).work.get 0 0 = 1) ∧
    (((cistern 2 3 95).strand fetchRef).held < (lanesOf (here.view fetchRef u).eff).length ∧
      (lanesOf (here.view fetchRef u).eff).length ≤ ((cistern 0 1 96).strand fetchRef).held) := by decide +kernel

/-! Control flow and traps. -/

/-- A split at header 0x40 with some lanes masked, guarded by p1 (lanes 0 and 1), beside n other splits, with a deferred height. -/
def guarded : Ctl := { u with pg := 1 }
def flowing (mask : LaneMask) (others ndef : Nat) (hm : Bool) : State :=
  let s := mapped
  let s := s.setStrand fetchRef { s.strand fetchRef with p := [(1, 3)], v := [(4, 0x48 :: List.replicate 95 0x50)] }
  let s := (List.range others).foldl (fun s k => s.setSplit ⟨0, 0, k + 1⟩ { state := .parked }) s
  s.setSplit fetchRef { s.split fetchRef with mask := mask, own := BitVec.allOnes 96, ndef := ndef, hm := hm }

def jumps (c : Ctl) : List Instr :=
  [.bra c (-1), .br c 511 7, .call c (.s 8) 0x7FFFFFFF, .brx c (.v 4), .callx c (.v 8) (.v 4), .ret c (.v 4)]

theorem witness_BranchesAndCalls : (∀ s ∈ [flowing 3 0 0 false, flowing 7 0 0 false, flowing 7 3 63 false, flowing 7 3 64 false, flowing 7 0 0 true, flowing 4 0 0 false], ∀ i ∈ jumps guarded,
      i.wf = true ∧ precheck i (s.view fetchRef guarded) = none ∧ Unstopped s guarded ∧
        issueHeld (s.view fetchRef guarded).st fetchRef (s.view fetchRef guarded).pos = none) ∧
    (let v (s : State) := s.view fetchRef guarded
     (v (flowing 3 0 0 false)).eff = 3 ∧ (v (flowing 3 0 0 false)).sp.mask &&& ~~~(v (flowing 3 0 0 false)).eff = 0 ∧
      (v (flowing 7 0 0 false)).sp.mask &&& ~~~(v (flowing 7 0 0 false)).eff = 4 ∧ freeSplit (v (flowing 7 0 0 false)).st = some 1 ∧
      freeSplit (v (flowing 7 3 63 false)).st = none ∧ (v (flowing 7 3 63 false)).st.deferHeight < 64 ∧ 64 ≤ (v (flowing 7 3 64 false)).st.deferHeight ∧
      (v (flowing 4 0 0 false)).eff = 0 ∧ (v (flowing 7 0 0 true)).sp.hm = true ∧
      (elect (fun l => (v (flowing 7 0 0 false)).rd64 (.v 4) l) 96 3).length = 2 ∧
      deferNeed (traceTransfer (flowing 7 3 63 false) (v (flowing 7 3 63 false)) 2 false) fetchRef 2 = 2 ∧
      deferNeed (traceTransfer (flowing 7 0 0 false) (v (flowing 7 0 0 false)) 2 false) fetchRef 2 = 0) := by decide +kernel

/-- A split that sleeps until tick 5. -/
def asleep (tick : Nat) : State :=
  { here with tick := tick }.setSplit fetchRef { here.split fetchRef with state := .waiting, waits := [{ kind := .sleep 5, pc := 0, pos := 0, lanes := 1, since := 0, hm := false }] }

/-- s0 holds the largest count. -/
def counting (x : Word) : State := strandIs fun st => { st with s := [(0, x)] }

theorem witness_ExitsAndSleeps : (∀ s ∈ [here, idle, counting 0xFFFFFFFF, counting 0, splitIs fun x => { x with hm := true, own := 7, mask := 3 }], ∀ i ∈
      ([.reconv u, .exit u, .yield u, .sleep u (.s 0), .sleepu u (.s 0)] : List Instr), i.wf = true ∧ precheck i (s.view fetchRef u) = none ∧
        Unstopped s u ∧ issueHeld (s.view fetchRef u).st fetchRef (s.view fetchRef u).pos = none) ∧
    ((counting 0).view fetchRef u).rd (.s 0) 0 = 0 ∧ ((counting 5).view fetchRef u).rd64 (.s 0) 0 = 5 ∧
    (∃ w, (((asleep 5).split fetchRef).waits)[(asleep 5).pick.a]? = some w ∧ w.kind = .sleep 5) ∧ 5 ≤ (asleep 5).tick := by
  refine ⟨by decide +kernel, by decide +kernel, by decide +kernel, ⟨_, rfl, rfl⟩, by decide⟩

def stopping (armed : Bool) (stage : Nat) : State :=
  let s := progIs mapped { stage := stage }
  { s with dev := { s.dev with bkStop := true, bkCtx := 0, armed := armed } }

/-- A frame of zeros, and one that returns after the trap. -/
def zeros : List Byte := List.replicate 4096 0

theorem witness_TrapInstructions : (∀ s ∈ [here, idle, stopping false 0, stopping true 1, stopping false 1, splitIs fun x => { x with hm := true }], ∀ i ∈
      ([.trap u 255, .bkpt u, .tret u] : List Instr), i.wf = true ∧ precheck i (s.view fetchRef u) = none ∧ Unstopped s u) ∧
    ((here.dev.bkStop = false) ∧ (stopping false 0).dev.bkStop = true ∧ (stopping false 0).dev.bkCtx = 0 ∧ (stopping false 0).dev.armed = false ∧
      (stopping false 0).dev.stopped = none ∧ (stopping true 1).dev.armed = true ∧ ((stopping true 1).prog fetchRef).stage = 1) ∧
    (deferStack here 0 0 = [] ∧ frameField zeros 489 1 = 0 ∧ frameField zeros 502 2 ≤ 1) := by decide +kernel

/-! Crews, growth and launches. -/

/-- Entry 0 of cluster 0's crew table holds a crew with members; s0 names it. -/
def crewed (x : Crew) (id : Word) : State :=
  let s := progIs mapped { rel := 2 }
  let s := s.setClu 0 { s.clu 0 with crews := [(0, x)] }
  s.setStrand fetchRef { s.strand fetchRef with s := [(0, id)] }
def crew0 (members : List (Nat × Nat)) (phase : Option Phase) : Crew := { used := true, members := members, phase := phase }
def others (n : Nat) : List (Nat × Nat) := (List.range n).map fun k => (1 + k / 32, k % 32)

/-- The strand belongs to a co-resident launch 3. -/
def launched (bit : Nat) : State :=
  let s := progIs mapped { rel := 2 }
  { s.setStrand fetchRef { s.strand fetchRef with launch := some 3 } with
    launches := [(3, { ctx := 0, qid := 0, recNo := 0, bits := BitVec.ofNat 512 (bit * 2 ^ 219), segs := [] })] }

def fourCrews (s : State) : State := s.setStrand fetchRef { s.strand fetchRef with crews := [1, 2, 3, 4] }

def crewForms : List Instr := [.cnew u (.v 8), .cjoin u (.v 8) (.s 0), .cleave u (.v 8) (.s 0), .bar u .ar (some (.s 0)),
  .barp u .add .f32 true .acq (.v 8) (.s 4) (.s 0), .bar u .rel none]

theorem witness_CrewInstructions : (∀ s ∈ [idle, fourCrews mapped, crewed (crew0 (others 63) none) 0x10000, crewed (crew0 (others 64) none) 0x10000, crewed (crew0 [(0, 0)] none) 0x10000, launched 1],
      ∀ i ∈ crewForms, i.wf = true ∧ precheck i (s.view fetchRef u) = none ∧ Unstopped s u ∧
        issueHeld (s.view fetchRef u).st fetchRef (s.view fetchRef u).pos = none) ∧
    ((crewAt (crewed (crew0 [] none) 0) 0 0).isFree = false ∧ (crewAt (crewed (crew0 [] none) 0) 0 1).isFree = true ∧ (crewAt mapped 0 1023).isFree = true) ∧
    (crewOf mapped 0 0x10000 = none ∧ crewOf (crewed (crew0 [] none) 0) 0 0x10000 = some 0 ∧ wideningCore (crew0 (others 63) none) 0 = none) ∧
    (namedCrew mapped 0 (mapped.strand fetchRef) 0 = none ∧ (let s := crewed (crew0 [(0, 0)] none) 0x10000
      namedCrew s 0 (s.strand fetchRef) 0x10000 = some 0 ∧ (0, 0) ∈ (crewAt s 0 0).members ∧ Released s (s.view fetchRef u) ∧ (crewAt s 0 0).phase = none)) ∧
    (let ph : Phase := { kind := .barp .add .f32 false, arrived := [] }
     (crewAt (crewed (crew0 [(0, 0)] (some ph)) 0x10000) 0 0).phase = some ph ∧ ph.kind ≠ .bar) ∧
    ((mapped.strand fetchRef).launch = none ∧ (launched 1).launch 3 ≠ none ∧ (((launched 1).launch 3).map fun x => x.bits.getLsbD 219) = some true) := by
  refine ⟨by decide +kernel, by decide +kernel, by decide +kernel, ⟨by decide +kernel, by decide +kernel, by decide +kernel, ⟨rfl, rfl⟩, rfl⟩, by decide +kernel, by decide +kernel⟩

/-- The strand has n registers, at most m, and s0 holds a word. -/
def growing (n m : Nat) (x : Word) : State := let s := progIs mapped { rel := 2 }
  s.setStrand fetchRef { s.strand fetchRef with nregs := n, rmax := m, gStart := 16, s := [(0, x)] }

/-- Page tables at DRAM 0x100000 map virtual address 0 to DRAM 1 GiB and 4 GiB to DRAM 0 for context 0, whose save area begins at 0; every cluster may
run it, and domain 0 owns the first stripe of every stack (R88, R169-R171, R193). -/
def tabled (s : State) : State :=
  let s : State := { s with stackTab := (List.range 8).map (fun k => (k, { state := .up })), mem := (List.range 8).foldl (fun m n => m.write (hubKey (bdBase n + 0x4001)) 0x80) s.mem }
  { s with mem := (((s.mem.writeNat (hubKey 0) 64 (0#12 ++ 255#8 ++ 0#108 ++ 0x100000#40 ++ 0#344).toNat).writeNat (dramKey 0x100000) 8 0x8000000000108000).writeNat
      (dramKey 0x108000) 8 0xEC80000000004000).writeNat (dramKey 0x108200) 8 0xEC80000000000000 }

/-- Slot 0 of core 0 sleeps on growth to n; in a state. -/
def sleeper (state : StrandState) (n : Nat) (tick : Nat) : State :=
  let s := { tabled here with tick := tick }
  let s := s.setSplit fetchRef { s.split fetchRef with state := .waiting, clause := none, waits := [{ kind := .vgrow n false, pc := 0, pos := 0, lanes := 1, since := 0, hm := false }] }
  s.setStrand fetchRef { s.strand fetchRef with state := state }

/-- LAUNCH's record at offset 0 of dev has a kind; queue 0 is bound with QDEV set. -/
def launching (kind : Nat) (stage : Nat) : State :=
  let s := progIs mapped { rel := 2, stage := stage, nums := [7] }
  let s := s.setQueue 0 { s.queue 0 with state := .watching }
  { s with mem := (s.mem.writeNat (dramKey 0) 64 (BitVec.ofNat 512 (kind * 2 ^ 56)).toNat).writeNat (hubKey 0x1000) 64 (0#15 ++ 1#1 ++ 0#496).toNat }

def launchInstr : Instr := .launch u (.v 8) (.s 0) (.s 4)
def launchPlaces (s : State) : List Place :=
  placesOf ((s.view fetchRef u).checkSeg 3 { n := 64, writes := false, spaces := [0, 1, 2, 3, 8], align := 64 } [(0, 0)])

/-- The sleeper's growth: a strand that may be saved, its registers written, one that owes a reply, and one that comes first. -/
theorem witness_growth_break : (let s := sleeper .resident 512 4097
      (s.strand fetchRef).savable = true ∧ repliesIn s (fun t => t.core == 0 && t.slot == 0) = true ∧ (preemptOut s 0 0 (s.strand fetchRef)).2 = (0, .done)) ∧
    ((strandIs fun x => { x with results := [{ awaited none 13 with owed := 1 }] }).strand fetchRef).savable = false ∧
    (let s := sleeper .saved 48 0
     (takeSched s 0 0 (s.strand fetchRef)).isSome = true ∧ max 48 (s.strand fetchRef).claimed ≤ freeRegisters s 0) ∧
    (let s := growing 32 48 48
     48 - (s.strand fetchRef).claimed ≤ freeRegisters s 0 ∧ sleepers s 0 = []) := by decide +kernel

theorem witness_GrowthAndLaunch : (∀ s ∈ [growing 32 48 0, growing 32 48 48, growing 32 48 49, idle, launching 6 0], ∀ i ∈ ([.vgrow u (.s 0), .vshrink u (.s 0), launchInstr] : List Instr),
      i.wf = true ∧ precheck i (s.view fetchRef u) = none ∧ Unstopped s u) ∧
    ((32 + 15) / 16 * 16 ≤ 32 ∧ (48 + 15) / 16 * 16 = 48 ∧ (48 + 15) / 16 * 16 < (49 + 15) / 16 * 16) ∧
    ((growing 32 48 0).strand fetchRef).results = [] ∧ ((strandIs fun x => { x with results := [awaited none 0] }).strand fetchRef).results ≠ [] ∧
    (∀ k ∈ [6, 0], Released (launching k 0) ((launching k 0).view fetchRef u)) ∧
    ((launchPlaces (launching 6 0)).map (·.key) = [dramKey 0] ∧ ((launching 6 0).queue 0).state ≠ .unbound ∧ qDev (launching 6 0) 0 = true ∧
      recordCheck (launching 6 0) 0 (BitVec.ofNat 512 ((launching 6 0).mem.readNat (dramKey 0) 64)) = none ∧
      recordCheck (launching 0 0) 0 (BitVec.ofNat 512 ((launching 0 0).mem.readNat (dramKey 0) 64)) ≠ none) ∧
    (growthStuck (sleeper .resident 512 4097) 0 = true ∧ growthStuck (sleeper .resident 512 4096) 0 = false) ∧
    (((sleepers (sleeper .resident 512 4097) 0).filter fun e => e.2.state == .resident).getLast?.map fun e => e.1) = some 0 ∧
    ((sleepers (sleeper .saved 48 0) 0).map (fun e => (e.1, e.2.growth, e.2.state, max 48 e.2.nregs)) = [(0, some 48, .saved, ((here.strand fetchRef).nregs))] ∧
      48 ≤ (here.strand fetchRef).nregs ∧ (here.strand fetchRef).nregs ≤ freeRegisters (sleeper .saved 48 0) 0) := by
  refine ⟨by decide +kernel, by decide, by decide +kernel, by decide +kernel, ?_, by decide +kernel, by decide +kernel, ?_, ?_⟩
  · intro k hk; simp only [List.mem_cons, List.not_mem_nil, or_false] at hk; rcases hk with rfl | rfl <;> exact ⟨rfl, rfl⟩
  · decide +kernel
  · decide +kernel

/-! Sections. -/

/-- Lanes 0 and 1 of slot 0; v4 holds a key for each lane. -/
def keyed (k0 k1 : Word) (p : Prog) (own : Bool) : State :=
  let s := progIs mapped p
  let s := s.setSplit fetchRef { s.split fetchRef with mask := 3 }
  let s := s.setStrand fetchRef { s.strand fetchRef with v := [(4, k0 :: List.replicate 95 k1)] }
  let e (k : Word) (l : Nat) : KeyEntry := { ctx := 0, key := k.setWidth 64, held := some ⟨0, 0, l⟩ }
  if own then
    let s := s.setClu (keyHome (k0.setWidth 64)) { s.clu (keyHome (k0.setWidth 64)) with keys := [e k0 0] }
    s.setClu (keyHome (k1.setWidth 64)) { s.clu (keyHome (k1.setWidth 64)) with keys := (s.clu (keyHome (k1.setWidth 64))).keys ++ [e k1 1] }
  else s

def sectForms : List Instr := [.sluIn u true (.p 1) (.v 4) (.v 8), .sluOut u (.v 4), .sluTry u (.p 1) (.v 4) (.v 8) (.p 2)]

def leavers (s : State) : LaneMask := let v := s.view fetchRef u
  lanesWhere fun l => v.eff.getLsbD l && !holdsKey s v.st.ctx ⟨v.r.core, v.st.number, l⟩ (v.rd64 (.v 4) l)

theorem witness_SectionInstructions : (∀ s ∈ [keyed 1 2 {} false, keyed 1 1 {} false, keyed 1 2 { rel := 2 } true, keyed 1 2 { stage := 1, lanes := 1 } false, keyed 1 2 { stage := 1, lanes := 3, won := 2 } false,
      keyed 1 2 { stage := 2, lanes := 1 } false, idle], ∀ i ∈ sectForms, i.wf = true ∧ precheck i (s.view fetchRef u) = none ∧ Unstopped s u) ∧
    (KeysDiffer ((keyed 1 2 {} false).view fetchRef u) (.v 4) ∧ (dupTrap ((keyed 1 1 {} false).view fetchRef u) (.v 4)).isSome = true ∧
      ((keyed 1 2 {} false).view fetchRef u).eff = 3) ∧
    (Released (keyed 1 2 { rel := 2 } true) ((keyed 1 2 { rel := 2 } true).view fetchRef u) ∧ leavers (keyed 1 2 { rel := 2 } true) = 0 ∧
      leavers (keyed 1 2 { rel := 2 } false) = 3) ∧
    lowLane ((3 : LaneMask) &&& ~~~(1 : LaneMask)) = some 1 := by
  refine ⟨by decide +kernel, ⟨?_, by decide +kernel, by decide +kernel⟩, ⟨⟨rfl, rfl⟩, by decide +kernel, by decide +kernel⟩, by decide +kernel⟩
  unfold KeysDiffer
  decide +kernel

/-- What lane 1 of a core waits with for a key, by its instruction's number; its request for key 1 at cluster 0's sluice, the key's
entry, a leave, a walk. -/
def waiter (key : DWord) (core : Nat) : Waiter := { ctx := 0, key := key, seq := 6, owner := ⟨core, core, 1⟩, ask := 8, mark := some 0 }
def request (after : Nat) : SectReq := { w := { ctx := 0, key := 1, seq := 5, owner := ⟨0, 0, 1⟩, ask := 8 }, init := true, once := false, no := 3, after := after }
def keyEntry (held : Option Owner) : KeyEntry := { ctx := 0, key := 1, held := held }
def leave (no : Option Nat) : SectLeave := { ctx := 0, key := 1, owner := ⟨0, 0, 1⟩, no := no }
def walk (hops : Nat) : ChainWalk := { ctx := 0, owner := ⟨0, 0, 1⟩, ask := 8, cur := 1, hops := hops }
def sluice (tick after : Nat) (held : Option Owner) (w : List Waiter) (hops n : Nat) : State :=
  let k := keyHome 1
  let s := { mapped with tick := tick, pick := { mapped.pick with a := k } }
  let full := (List.range n).map fun m => ({ ctx := 0, key := BitVec.ofNat 64 (100 + m), held := some ⟨0, 0, 0⟩ } : KeyEntry)
  s.setClu k { s.clu k with sectReqs := [request after], sectLeaves := [leave none, leave (some 5)], chains := [walk hops], waiters := w
                            keys := full ++ (if n = 0 then [keyEntry held] else []) }

theorem witness_section_steps : (let s := sluice 0 0 none [] 0 0
     (s.clu s.pick.a).sectReqs[s.pick.b]? = some (request 0) ∧ sectBehind (s.clu s.pick.a) 0 3 = false ∧
      arbiterMay s s.pick.a 0 2 0 0 0 = true ∧ (needEntry s s.pick.a 0 1).2.toOption = some 0 ∧ ((needEntry s s.pick.a 0 1).1.clu s.pick.a).keys[0]? = some (keyEntry none)) ∧
    (let s := sluice 0 0 (some ⟨0, 0, 1⟩) [] 0 0
     (s.clu s.pick.a).sectLeaves[0]? = some (leave none) ∧ (s.clu s.pick.a).sectLeaves[1]? = some (leave (some 5)) ∧
      sectBehind ({ s.clu s.pick.a with sectReqs := [] } : Cluster) 0 5 = false ∧ releaseOver s 0 .dev = true ∧ findKey (s.clu s.pick.a) 0 1 = some 0 ∧
      (s.clu s.pick.a).keys[0]? = some (keyEntry (some ⟨0, 0, 1⟩))) ∧
    (let s := sluice 0 0 (some ⟨0, 0, 5⟩) [waiter 3 1, { waiter 2 0 with owner := ⟨0, 0, 1⟩ }] 15 0
     (s.clu s.pick.a).chains[s.pick.b]? = some (walk 15) ∧ (∃ o, (keyEntry (some ⟨0, 0, 5⟩)).held = some o ∧ o.core = (walk 15).owner.core ∧ o.number = (walk 15).owner.number) ∧
      (s.clu s.pick.a).waiters.find? (fun w => w.ask == (walk 15).ask && w.owner == (walk 15).owner) = some { waiter 2 0 with owner := ⟨0, 0, 1⟩ }) ∧
    (let s := sluice 0 0 (some ⟨1, 1, 5⟩) [waiter 3 1] 14 0
     wantedKey s 0 ⟨1, 1, 5⟩ = some 3 ∧ (⟨1, 1, 5⟩ : Owner).core ≠ (walk 14).owner.core ∧ 16 ≤ (walk 15).hops + 1 ∧ ¬ 16 ≤ (walk 14).hops + 1) ∧
    (let s := sluice 16777217 0 none [waiter 3 1] 0 0
     (let x := s.clu s.pick.a
      (x.waiters ++ (x.sectReqs.filter fun q => q.refused && !q.once).map (·.w))[s.pick.b]? = some (waiter 3 1)) ∧ 2 ^ ctxStarve s 0 < waiterTicks s (waiter 3 1) ∧
      ¬ 2 ^ ctxStarve s 0 < waiterTicks { s with tick := 16777216 } (waiter 3 1)) ∧
    (let s := sluice 256 256 none [] 0 0
     (s.clu s.pick.a).sectReqs[s.pick.b]? = some (request 256) ∧ (256 : Nat) ≠ 0 ∧ 256 ≤ s.tick) := by
  refine ⟨by decide +kernel, by decide +kernel, ⟨by decide +kernel, ⟨_, rfl, rfl, rfl⟩, by decide +kernel⟩, by decide +kernel, by decide +kernel, by decide +kernel⟩

/-- A table of 8192 held entries has no room for another key, and without mapped pages none is spilled. -/
theorem witness_full_sluice : (match (needEntry (sluice 0 0 none [] 0 8192) (keyHome 1) 0 1).2 with
    | .error .full => true
    | _ => false) = true := by decide +kernel

/-! System registers, segments, translations. -/

/-- In an active context with STW (bit 489 of its descriptor), a word in s0, and the release over. -/
def system (x : Word) (rel : Nat) (stage : Nat) : State :=
  let s := activeWith (progIs mapped { rel := rel, stage := stage }) (mapped.mem.writeNat (hubKey 0) 64 (0#22 ++ 1#1 ++ 0#489).toNat)
  s.setStrand fetchRef { s.strand fetchRef with s := [(0, x)] }

/-- A sampler result of the split is awaited. -/
def sampling : State := strandIs fun x => { x with results := [{ awaited none 23 with pos := 9 }] }

/-- A packet is on its way. -/
def leftBehind : State := { system 0 2 1 with pkts := [tierPkt false (.tmv 0 2 0)] }

theorem witness_SystemRegisters : ctxStw (system 0 2 0) 0 = true ∧ ctxStw here 0 = false ∧
    (∀ s ∈ [system 0x1E 2 0, system 0x0F 0 0, system 0x1F05 2 0], ∀ i ∈ ([.csrr u (.v 8) 4, .csrr u (.v 8) 0x1FF, .csrw u (.s 0) 0x100, .csrw u (.s 0) 0x17F, .csrw u (.s 0) 0x180,
        .csrw u (.s 0) 0x182, .csrw u (.s 0) 0x183, .csrw u (.s 0) 0x1FF, .segLd u .aux (.s 0), .segLd u .loc (.s 4), .tlbInv u .all, .tlbInv u (.ctx (.s 0)), .tlbInv u (.page (.s 0) (.s 4))] : List Instr),
      i.wf = true ∧ precheck i (s.view fetchRef u) = none ∧ Unstopped s u ∧
        issueHeld (s.view fetchRef u).st fetchRef (s.view fetchRef u).pos = none) ∧
    (sampling.strand fetchRef).results.any (fun p => p.split == 0 && p.why == 23) = true ∧
    (precheck (.csrr u (.v 8) 4) (sampling.view fetchRef u) = none ∧ issueHeld (sampling.view fetchRef u).st fetchRef (sampling.view fetchRef u).pos = none) ∧
    ((16 : Nat) ≤ 16 ∧ (30 : Nat) ≤ 30 ∧ (0x17F : BitVec 9).toNat < 0x180 ∧ 0x180 ≤ (0x180 : BitVec 9).toNat) ∧
    ((system 0 2 0).prog fetchRef).stage = 0 ∧ accessesLeft mapped (((system 0 2 1).view fetchRef u).dropped .all).2 = false ∧
    accessesLeft leftBehind ((leftBehind.view fetchRef u).dropped .all).2 = true ∧ (leftBehind.prog fetchRef).stage ≠ 0 := by
  decide +kernel

/-! Engine commands. -/

/-- In a privileged active context. Pair 0 is glb offset 0, where a block stands; pair 1 holds the options. -/
def engineAt (block opts : Nat) : State :=
  let s := system 0 0 0
  let s := { s with mem := (s.mem.writeNat 0 64 block).writeNat (hubKey 0) 64 (0#12 ++ 255#8 ++ 0#2 ++ 1#1 ++ 0#489).toNat, dev := { s.dev with state := .full } }
  s.setStrand fetchRef { s.strand fetchRef with s := [(1, 0x20000), (2, BitVec.ofNat 32 opts), (3, BitVec.ofNat 32 (opts / 2 ^ 32))] }

/-- A copy of 4 bytes within glb, a fill, a checksum, a move to every cluster, a gather, a copy to a peer, and a basin block of one element. -/
def copyBlock : Nat := 0x2000000000100 + 0x2000000000200 * 2 ^ 64 + 4 * 2 ^ 192
def fillBlock : Nat := 0x2000000000100 + 0x2A * 2 ^ 64 + 4 * 2 ^ 192
def csumBlock : Nat := 0x2000000000200 * 2 ^ 64 + 4 * 2 ^ 192
def mcastBlock : Nat := copyBlock + 7 * 2 ^ 240
def gatherBlock : Nat := copyBlock + 0x2000000000300 * 2 ^ 128 + 2 * 2 ^ 224
def peerBlock : Nat := 0x5000000000100 + 0x2000000000200 * 2 ^ 64 + 4 * 2 ^ 192
def basinBlock : Nat := 0x10000 + 2 ^ 192
def cvtBlock : Nat := 2 ^ 192

def engineForms : List (Instr × Nat × Nat) :=
  [(.xcLoad u (some 3) 0 1, copyBlock, 0), (.xcStore u none 0 1, copyBlock, 0), (.xcMcast u none 0 1, mcastBlock, 0), (.xcGather u none 0 1, gatherBlock, 0),
   (.xcScatter u none 0 1, gatherBlock, 0), (.xcFill u (some 15) 0 1, fillBlock, 0x401), (.xcPeer u none 0 1, peerBlock, 0), (.xcCsum u none 0 1, csumBlock, 0),
   (.basAxpby u none 0 1, basinBlock, 0), (.basScal u none 0 1, basinBlock, 0), (.basSgd u none 0 1, basinBlock, 2 ^ 32), (.basMom u (some 0) 0 1, basinBlock, 2 ^ 32),
   (.basSum u none 0 1, basinBlock, 2 ^ 32), (.basFill u none 0 1, cvtBlock, 0), (.basCopy u none 0 1, basinBlock, 0), (.basCvt u none 0 1, basinBlock, 2 ^ 32),
   (.basStat u none 0 1, basinBlock, 0)]

/-- Whether the block of a copy or basin command keeps its function's rules where it stands. -/
def legalAt (e : Instr × Nat × Nat) : Option Bool := (copyOrBasin e.1).map fun x =>
  let s := engineAt e.2.1 e.2.2
  let bs := leBytes 32 (s.mem.readNat 0 32)
  let v := s.view fetchRef u
  let q : EngCmd := { id := 0, eng := x.2.1, fn := x.2.2.1, block := bs, opts := v.pairVal 1, handle := none, ctx := 0, segs := v.st.segs, scratch := 0 }
  if x.2.1 = 0 then xcLegal x.2.2.1 q && !touchesHub s 0 q else basLegal x.2.2.1 q

def otherCommands : List Instr :=
  [.tierCfg u none 0 2, .tierRank u none 0 1, .tierMig u none 0 1, .tierAge u none 0 1, .tierPin u none 0 1, .prsDraw u none 0 2, .prsFrame u none 2 0, .prsPresent u none 2 2,
   .prsReproj u none 2 2, .trcMark u none 2 2, .trcFlush u none 2 2, .trcSample u none 2 2, .stwKeyspill u none 2 2, .stwDump u none 2 2]

/-- Every serial of cluster 0 names a command under way. -/
def crowdedTable : State := let s := engineAt copyBlock 0
  s.setClu 0 { s.clu 0 with ctab := [(0, { handle := 0, ctx := 0, status := 6, result := 0 })], nextSerial := 0 }

/-- A copy whose destination's segment is read-only, and one whose source is hub control space. -/
def readOnlyCopy : State := let s := engineAt copyBlock 0
  s.setStrand fetchRef { s.strand fetchRef with segs := (2, 0x1000080000000) :: ((s.strand fetchRef).segs.filter fun e => e.1 != 2) }
def hubCopy : State := engineAt (0x2000000000100 + 0x7000000000000 * 2 ^ 64 + 4 * 2 ^ 192) 0

/-- Whether XC.LOAD's destination is barred: its segment read-only, or a side in hub memory. -/
def barredAt (s : State) : Bool × Bool :=
  let v := s.view fetchRef u
  let q : EngCmd := { id := 0, eng := 0, fn := 1, block := leBytes 32 (s.mem.readNat 0 32), opts := v.pairVal 1, handle := none, ctx := 0, segs := v.st.segs, scratch := 0 }
  (xcLegal 1 q && (match q.destSeg with | some g => segRo (v.st.segs.get 0 g) | none => false), xcLegal 1 q && touchesHub s 0 q)

theorem witness_barred : barredAt readOnlyCopy = (true, false) ∧ barredAt hubCopy = (false, true) ∧ barredAt (engineAt copyBlock 0) = (false, false) ∧
    ((hubCopy.view fetchRef u).pairVal 1).getLsbD 0 = false := by decide +kernel

theorem witness_EngineCommands : (∀ e ∈ engineForms, e.1.wf = true ∧ precheck e.1 ((engineAt e.2.1 e.2.2).view fetchRef u) = none ∧ legalAt e = some true) ∧
    (∀ i ∈ otherCommands, i.wf = true ∧ precheck i ((engineAt 0 0).view fetchRef u) = none ∧ precheck i (crowdedTable.view fetchRef u) = none) ∧
    legalAt (.xcLoad u none 0 1, peerBlock, 2) = some false ∧
    (let s := engineAt copyBlock 0
     Unstopped s u ∧ (s.view fetchRef u).eff ≠ 0 ∧ SerialFree s (s.view fetchRef u) (some 3) ∧ (s.core 0).eng.length < 64 ∧ s.dev.state ≠ .early) ∧
    ¬ SerialFree crowdedTable (crowdedTable.view fetchRef u) (some 3) := by
  refine ⟨by decide +kernel, by decide +kernel, by decide +kernel, ⟨by decide +kernel, by decide +kernel, .inr ?_, by decide +kernel, by decide +kernel⟩, ?_⟩
  · decide +kernel
  · rintro (h | h)
    · cases h
    · exact absurd h (by decide +kernel)

/-- The block that pair 0 names is read: 32 bytes, and 64 aligned as the two entries say. -/
theorem witness_block_read : (∀ n ∈ [(32, 32), (64, 64), (64, 16)], let s := engineAt copyBlock 0
      saddrOk ((s.view fetchRef u).pairVal 0).toNat = true ∧
      (placesOf ((s.view fetchRef u).checkSeg 2 { n := n.1, writes := false, spaces := [0, 1, 2, 3, 8], align := n.2 } [(0, 0)])).map (·.key) = [0] ∧
      (loadBytes s 0 0 n.1 {}).2 = (leBytes n.1 copyBlock, none)) ∧
    saddrSeg ((engineAt copyBlock 0).view fetchRef u |>.pairVal 0).toNat = 2 := by decide +kernel

/-- Tid 2 is TIERED, bound or not; pair 0 holds a value, pair 1 another. -/
def tierWith (f : Tier → Tier) (a b : DWord) : State :=
  let s := engineAt 0 0
  let s := s.setCtx 0 { s.ctx 0 with tids := [(1, entry 0 0 2 8), (2, entry 1 2 3 4)], tiers := [(2, f { state := .bound, block := block2 0, entry := entry 1 2 3 4 })] }
  s.setStrand fetchRef { s.strand fetchRef with s := [(0, a.setWidth 32), (1, (a >>> 32).setWidth 32), (2, b.setWidth 32), (3, (b >>> 32).setWidth 32)] }

def tierOutcome (i : Instr) (s : State) : Option (Nat × Bool) := match tierAsked i (s.view fetchRef u) with
  | some (_, _, tid, legal, f) => some (if legal then (match tierNamed s 0 tid with | .ok ti => if (f ti.entry).isSome then 0 else 99 | .error c => c) else 98, arbiterMay s 0 0 5 0 0 0)
  | none => none

/-- TIER.CFG's block at glb offset 0 names tid 2; a rule is broken, or UNB is set. -/
def cfgAt (bad : Nat) (unb : Nat) (st : TierState) : State :=
  let s := tierWith (fun t => { t with state := st }) 0x2000000000000 0
  { s with mem := s.mem.writeNat 0 64 (2 * 2 ^ 366 + unb * 2 ^ 424 + bad) }
def cfgBlock (s : State) : BitVec 512 := BitVec.ofNat 512 (s.mem.readNat 0 64)

theorem witness_TierCommands :
    (tierOutcome (.tierRank u none 0 1) (tierWith id 2 0) = some (0, true) ∧ tierOutcome (.tierMig u none 0 1) (tierWith id 2 0) = some (0, true) ∧
      tierOutcome (.tierAge u none 0 1) (tierWith id 0x100002 0) = some (0, true) ∧ tierOutcome (.tierPin u none 0 1) (tierWith id 0x0000000000000802 2) = some (0, true) ∧
      tierOutcome (.tierAge u none 0 1) (tierWith id 0x110002 0) = some (98, true) ∧ tierOutcome (.tierRank u none 0 1) (tierWith id 1 0) = some (0x19, true) ∧
      tierOutcome (.tierMig u none 0 1) (tierWith (fun t => { t with state := .unbound }) 2 0) = some (0x19, true) ∧
      tierOutcome (.tierRank u none 0 1) (tierWith id 1023 0) = some (0x01, true)) ∧
    (∀ e ∈ [(1, 0, TierState.bound, false, true, false), (0, 0, .bound, true, true, false), (0, 1, .unbound, true, false, true), (0, 0, .unbound, true, false, false)],
      let s := cfgAt e.1 e.2.1 e.2.2.1
      (s.view fetchRef u).pairVal 1 = 0 ∧ cfgLegal s 0 (cfgBlock s) = e.2.2.2.1 ∧ tierBound s 0 (cfgTid (cfgBlock s)) = e.2.2.2.2.1 ∧ cfgUnb (cfgBlock s) = e.2.2.2.2.2 ∧ cfgTid (cfgBlock s) = 2) := by
  refine ⟨⟨?_, ?_, ?_, ?_, ?_, ?_, ?_, ?_⟩, by decide +kernel⟩ <;> decide +kernel

/-- Stream 0 is bound to context 0, one pixel of one view, shown from segment dev with HINTERVAL h; a frame is closed or not. -/
def streaming (a b : DWord) (closed : Bool) (h : Nat) : State :=
  let s := tierWith id a b
  let s := s.setStream 0 { s.stream 0 with bound := true, closed := if closed then some { no := 4, set := 0 } else none, nextNo := 5, shown := some { no := 3, set := 1 } }
  { s with links := [(24, { state := .up })], mem := s.mem.writeNat (hubKey 0x80000) 128 (1 * 2 ^ 964 + 3 * 2 ^ 613 + h * 2 ^ 832 + 0x8000 * 2 ^ 565) }

def drawAt : State := let s := streaming 0x2000000000000 0 false 0
  { s with mem := s.mem.writeNat 0 64 (2 ^ 57 + 2 ^ 336) }

/-- The same over page tables, with the prefix of both programs at virtual 4 GiB; one stack may be off. -/
def programmed (regs : Nat) (serving : Bool) : State :=
  let s := tabled drawAt
  let s := { s with mem := (s.mem.writeNat 0 64 (2 ^ 57 + 2 ^ 336 + (2 ^ 32 + 128) * 2 ^ 416 + (2 ^ 32 + 128) * 2 ^ 464)).writeNat (dramKey 0) 8 regs }
  if serving then s else { s with stackTab := [] }

/-- What reading the prefixes comes to: read, held, refused. -/
def prefixesOf (s : State) : Nat := match drawPrefixes s 0 (BitVec.ofNat 512 (s.mem.readNat 0 64)) with
  | (_, .ok _) => 0
  | (_, .error .held) => 1
  | (_, .error _) => 2

/-- Context 0's spilled keys over page tables, one stack of which may be off: a move's outcome. -/
def spillMoved (size : Nat) (serving : Bool) : Option (Nat × Word) :=
  let s := setSpill (tabled here) 0 0x1000 size
  (moveSpill (if serving then s else { s with stackTab := [] }) 0 0x3000 10).2

/-- What reading a dump's length at host address 4096 comes to over a link in a state. -/
def lengthRead (l : LinkState) : Nat :=
  let s := streaming 0 0x1000 true 0
  let s := { s with links := [(24, { state := l })] }
  match agentRead (grantHandle (s.view fetchRef u) s 15 none).1 (hostKey 0x1000) {} true 2 8 with
  | (_, .ok _) => 0
  | (_, .error .held) => 1
  | (_, .error _) => 2

/-- Stream 0 over page tables, one stack of which may be off, with its output at a virtual address. -/
def pictured (at_ : Nat) (serving : Bool) : State :=
  let s := tabled (streaming 0 0 true 0)
  let s := { s with mem := s.mem.writeNat (hubKey 0x80000) 128 (1 * 2 ^ 964 + 3 * 2 ^ 613 + at_ * 2 ^ 565) }
  if serving then s else { s with stackTab := [] }

/-- What writing its picture, or a reprojection, comes to. -/
def pictureWritten (again : Bool) (s : State) : Nat :=
  match writePicture s 0 { pic := if again then reprojection (s.stream 0) 1 else .frame { no := 4, set := 0 }, tick := s.globalTick } with
  | (_, none) => 0
  | (_, some .held) => 1
  | (_, some _) => 2

def goodStream (s : State) : Bool := (s.stream 0).bound && streamCtx s 0 == 0 && streamField s 0 832 32 == 0

theorem witness_PresentTraceSteward :
    (goodStream (streaming 0 0 true 0) = true ∧ goodStream (streaming 0 0 true 1) = false ∧ ((streaming 0 0 true 0).stream 0).closed = some { no := 4, set := 0 } ∧
      ((streaming 0 0 false 0).stream 0).closed = none ∧ streamField (streaming 0 0 true 0) 0 964 1 ≠ 0) ∧
    ([programmed 2 true, programmed 2 false, programmed 0 true].map prefixesOf = [0, 1, 2]) ∧
    (∀ again ∈ [false, true], [pictured (2 ^ 32 + 0x8000) true, pictured (2 ^ 32 + 0x8000) false, pictured (2 ^ 40) true].map (pictureWritten again) = [0, 1, 2]) ∧
    ([LinkState.up, .retraining, .isolated].map lengthRead = [0, 1, 2]) ∧
    (spillMoved 0 true = some (0, 0) ∧ spillMoved 10 false = none) ∧
    (∀ s ∈ [streaming 0 0 true 0, streaming 7 0 true 0], ((s.view fetchRef u).pairVal 0).toNat < 256 ∧ (s.view fetchRef u).pairVal 1 = 0) ∧
    drawLegal (BitVec.ofNat 512 (drawAt.mem.readNat 0 64)) = true ∧
    (let s := streaming 0x3000 0xA true 0
     ((s.view fetchRef u).pairVal 0).toNat < 2 ^ 48 ∧ ((s.view fetchRef u).pairVal 0).extractLsb' 0 12 = 0 ∧ (s.ctx 0).state = .active ∧
      ((s.view fetchRef u).pairVal 1).extractLsb' 5 3 = 0 ∧ ((s.view fetchRef u).pairVal 1).extractLsb' 0 5 = 10) ∧
    (let s := streaming 0 0x1000 true 0
     (s.ctx 0).state = .active ∧ (s.ctx 63).state = .free ∧ ((s.view fetchRef u).pairVal 1).toNat % 4096 = 0) := by
  decide +kernel

/-! Engines, packets, schedulers, translations, stacks. -/

/-- Page tables at DRAM 0 map virtual address 0 to DRAM 0 (R169-R171). -/
def paged (s : State) : State :=
  { s with mem := (s.mem.writeNat (dramKey 0) 8 0x8000000000008000).writeNat (dramKey 0x8000) 8 0xEC80000000000000, dev := { s.dev with state := .full } }

/-- A command of core 0 over glb and dev: bytes from dst, src, length. -/
def command (eng fn : Nat) (block : Nat) : EngCmd :=
  { id := 1, eng := eng, fn := fn, block := leBytes 32 block, opts := 0, handle := none, ctx := 0, segs := (mapped.strand fetchRef).segs, scratch := 0 }
def withCmd (q : EngCmd) (pkts : List Packet) : State :=
  let s := paged mapped
  { s.setCore 0 { s.core 0 with eng := [q] } with pkts := pkts }
/-- The same with virtual page 0 untranslated, or protected by a dump. -/
def untranslated (q : EngCmd) : State := let s := withCmd q []; s.setCore 0 { s.core 0 with tlb := [] }
def protectedPage (q : EngCmd) : State := let s := withCmd q []; s.setCore 0 { s.core 0 with tlb := [{ ctx := 0, va := 0, size := 65536, leaf := 0xCC80400000000000 }] }

def fromDram : Nat := 0x2000000000100 + 0x3000000000200 * 2 ^ 64 + 40 * 2 ^ 192
def toDram : Nat := 0x3000000000200 + 0x2000000000100 * 2 ^ 64 + 40 * 2 ^ 192
def unit (off : Nat) (bs : List (Option Byte)) : EngUnit := { pos := 0, off := off, data := bs }

/-- What the next unit of a command comes to: got, to be fetched, fault, guard, wait. -/
def unitIs (q : EngCmd) (s : State := withCmd q []) : Nat := match q.nextUnit s 0 with
  | .got _ => 0 | .need _ _ => 1 | .fault => 2 | .guard => 3 | .wait => 4 | .ask _ => 5
def placeIs (q : EngCmd) (off n : Nat) (s : State := withCmd q []) : Nat := match q.place s 0 (saddrSeg q.dst) off n true with
  | .at_ key _ => if isDram key then 1 else 0 | .fault => 2 | .dump _ => 3 | .ask _ => 5
def pieceIs (q : EngCmd) (s : State := withCmd q []) : Nat := match q.piece s 0 with
  | .send _ _ _ => 0 | .fault => 2 | .dump _ => 3 | .ask _ => 5

theorem witness_EngineSteps_read : unitIs (command 0 2 toDram) = 0 ∧ unitIs (command 0 1 fromDram) = 1 ∧
    unitIs { command 0 1 fromDram with got := [(dramKey 0x200, [])] } = 3 ∧ unitIs { command 0 1 fromDram with segs := [] } = 2 ∧
    unitIs (command 0 1 fromDram) (untranslated (command 0 1 fromDram)) = 5 ∧
    (∀ q ∈ [command 0 2 toDram, command 0 1 fromDram, { command 0 1 fromDram with segs := [] }], q.rpos < q.total ∧ q.stopped = false ∧ q.eng ≠ 1 ∧ q.units = [] ∧ q.out = 0) ∧
    (let q := command 1 6 basinBlock
     q.rpos < q.total ∧ writesMay (withCmd q []) 0 0 = true ∧ pieceIs { q with block := leBytes 32 (0x200 * 2 ^ 48 + 2 ^ 192) } = 0 ∧
      pieceIs { q with block := leBytes 32 (0x200 * 2 ^ 48 + 2 ^ 192) } (untranslated q) = 5 ∧ pieceIs { q with block := leBytes 32 (0x200 * 2 ^ 48 + 2 ^ 192) } (protectedPage q) = 3 ∧
      pieceIs { q with segs := [], block := leBytes 32 (0x200 * 2 ^ 48 + 2 ^ 192) } = 2) := by decide +kernel

theorem witness_EngineSteps_write : (let q := { command 0 2 toDram with units := [unit 0x200 [some 1, none]] }
     placeIs q 0x200 2 = 1 ∧ q.units = [unit 0x200 [some 1, none]] ∧ (unit 0x200 [some 1, none]).data.all Option.isNone = false ∧ q.writing (withCmd q []) 0 = false ∧
      writesMay (withCmd q []) 0 0 = true) ∧
    (let q := { command 0 1 fromDram with units := [unit 0x100 [some 1]] }
     placeIs q 0x100 1 = 0 ∧ homeReach (withCmd q []) 0x100 = .ok ∧ q.fn ≠ 3) ∧
    (placeIs (command 0 2 toDram) 0x200 2 (untranslated (command 0 2 toDram)) = 5 ∧ placeIs (command 0 2 toDram) 0x200 2 (protectedPage (command 0 2 toDram)) = 3) ∧
    placeIs { command 0 1 fromDram with segs := [] } 0x100 1 = 2 ∧ (unit 0 [none, none]).data.all Option.isNone = true ∧
    (let q := { command 0 1 fromDram with rpos := 40, wpos := 40 }
     q.total ≤ q.rpos ∧ q.total ≤ q.wpos ∧ q.out = 0 ∧ q.bar = none) ∧
    (match unitPlace (withCmd (command 0 3 fromDram) []) { command 0 3 fromDram with units := [unit 0x100 [some 1]] } (unit 0x100 [some 1]) with | .at_ key _ => !isDram key | _ => false) = true ∧
    ({ command 0 1 fromDram with stopped := true, cancel := true }).cancel = true := by decide +kernel

/-- R14, R476: one unit of XC.MCAST to cores 1 to 3 is counted three times and is written to each core's slice (R4, R168). -/
theorem test_mcast_read_once : let q := (command 0 3 (fromDram + 1 * 2 ^ 232 + 3 * 2 ^ 240)).took 0 (unit 0x100 [some 7, some 8])
    q.rpos = 6 ∧ q.units.map (·.off) = [0x140100, 0x280100, 0x3C0100] ∧ (∀ u ∈ q.units, u.data = [some 7, some 8]) := by decide +kernel

/-- R516: the bytes a unit writes over a failed parity are poisoned; the one it leaves keeps its mark. -/
theorem test_putUnit_parity : let s := { here with tainted := [0x101, 0x102] }
    (putUnit s 0x100 [some 1, none, some 3] true).tainted = [0x100, 0x101, 0x102] ∧
    (putUnit s 0x100 [some 1, none, some 3] false).tainted = [0x101] ∧
    (putUnit s 0x100 [some 1, none, some 3] true).mem.read 0x102 = 3 := by decide +kernel

/-- A packet of a kind for a granule, at a state of its stack; done or not. -/
def packet (kind : PktKind) (md : Bool) (len : Nat) (done : Bool) (status : Nat) : Packet :=
  { stack := 0, agent := coreAgent 0, tag := some 0, kind := kind, addr := 0x200, len := len, dom := 0, grade := 1, md := md, mask := 2 ^ 32 - 1, data := List.replicate 256 7
    back := .cmd 0 1 (dramKey 0x200), spans := [(0x200 / 32, len % 8 + 1, 0)], done := done, status := status, reply := List.replicate 32 9 }
def pktAt (p : Packet) : State := withCmd (command 0 1 fromDram) [p]

theorem witness_EngineSteps_packets : (∀ k ∈ [PktKind.rd, .wr, .wrm], ∀ md ∈ [false, true], (pktAt (packet k md 7 false 0)).pkts[0]? = some (packet k md 7 false 0) ∧
      pktMay (pktAt (packet k md 7 false 0)) 0 (packet k md 7 false 0) = true ∧ pktRefusal (pktAt (packet k md 7 false 0)) (packet k md 7 false 0) = none) ∧
    pktRefusal (pktAt (packet .rd false 8 false 0)) (packet .rd false 8 false 0) = some 4 ∧
    pktRefusal (pktAt (packet .rd false 0 false 0)) { packet .rd false 0 false 0 with dom := 1, spans := [(16, 1, 1)] } = some 3 ∧
    (∀ k ∈ [PktKind.rd, .wr, .wrm], ∀ st ∈ [0, 1, 2, 3, 4], let p := packet k false 0 true st
      findCmd { pktAt p with pkts := [] } 0 1 = some 0 ∧ ((pktAt p).core 0).eng[0]? = some (command 0 1 fromDram) ∧ p.done = true) := by decide +kernel

/-- A clause of one instruction at virtual address 0 before split 0, in an executable page. -/
def atClause (wdog : Nat) (tick : Nat) : State :=
  let s := mapped.setSplit fetchRef { state := .ready, mask := 1, own := 1, pc := 0 }
  let s := s.setCore 0 { s.core 0 with tlb := [{ ctx := 0, va := 0, size := 65536, leaf := 0xCE80000000000000 }] }
  let s := s.setClu 0 { s.clu 0 with tenant := some 0 }
  { s with tick := tick, mem := (((s.mem.writeNat (dramKey 0) 8 0xF010000000000000).writeNat (dramKey 8) 8 0x0008000000000000).writeNat (hubKey 0) 64 (wdog * 2 ^ 477)) }

/-- A wait after a clause, under a reason that the watchdog counts; and one in place. -/
def waitingSince (kind : WaitKind) (tick : Nat) : State :=
  (atClause 4 tick).setSplit fetchRef { (atClause 4 tick).split fetchRef with state := .waiting, waits := [{ kind := kind, pc := 0, pos := 0, lanes := 1, since := 0, hm := false }] }
def stalledSince (tick : Nat) : State :=
  (atClause 4 tick).setSplit fetchRef { (atClause 4 tick).split fetchRef with clause := some (clauseOf 1), stall := 6, since := 0 }

theorem witness_SchedulerSteps : (let s := atClause 0 0
      ((s.core 0).sched.get {} 0).busy = none ∧ (eligible s (schedSplits 0 0)).2.map (·.1) = [fetchRef] ∧
        ((choose (eligible s (schedSplits 0 0)).1 ((s.core 0).sched.get {} 0) (eligible s (schedSplits 0 0)).2).map (·.1)) = some fetchRef) ∧
    (let s := waitingSince (.barrier 0 false none) 17
     (s.strand fetchRef).state = .resident ∧ dogBites s 0 (WaitKind.reason (.barrier 0 false none)) 0 = true ∧ dogBites (waitingSince (.barrier 0 false none) 16) 0 (WaitKind.reason (.barrier 0 false none)) 0 = false) ∧
    (let k : WaitKind := .sluIn 1 1 0 [(0, 9)] (.v 7)
     dogBites (waitingSince k 17) 0 k.reason 0 = true ∧ ((waitingSince k 17).split fetchRef).traps = []) ∧
    (let s := { strandIs (fun x => { x with results := [{ awaited none 13 with owed := 1 }] }) with tick := 17, mem := (atClause 4 0).mem }
     (s.strand fetchRef).state = .resident ∧ dogBites s 0 13 0 = true) ∧
    (let s := stalledSince 17
     (s.split fetchRef).clause = some (clauseOf 1) ∧ (clauseOf 1).words[0]? = some 0 ∧ dogBites s 0 (s.split fetchRef).stall (s.split fetchRef).since = true ∧ (s.split fetchRef).traps = []) := by decide +kernel

/-- A lookup of core 0 at a stage; the second level and the walks of cluster 0. -/
def lookup (stage : LookupStage) : Lookup := { ctx := 0, page := 0, stage := stage }
def looking (stage : LookupStage) (tlb2 : List TlbEntry) (walks : List Walk) : State :=
  let s := paged mapped
  let s := s.setCore 0 { s.core 0 with lookups := [lookup stage], tlb := [] }
  { s.setClu 0 { s.clu 0 with tlb2 := tlb2, walks := walks } with tick := 64 }
def walks (n live : Nat) : List Walk := (List.range n).map fun k => { ctx := 0, page := k + 1, live := k < live }

/-- Context 0 is being dumped, before or after its instant, with pages to copy or none. -/
def dumping (stage : Nat) (instant : Option Nat) (todo want : List Nat) : State :=
  let s := paged mapped
  s.setCtx 0 { s.ctx 0 with state := .dumping, dumpWant := want, dump := some { stage := stage, instant := instant, todo := todo } }
/-- Core 0 runs context 0 with a store moved and not delivered, or none. -/
def tenanted (s : State) (moved : List QLine) : State :=
  let s := s.setClu 0 { s.clu 0 with tenant := some 0 }
  s.setCore 0 { s.core 0 with moved := moved }
def aStore : QLine := { line := 1, mask := 1, data := 0, via := {} }

def stackIs (st : StackState) (nrcfg : DWord) : State := { mapped with stackTab := [(0, { state := st, nrcfg := nrcfg })], dev := { mapped.dev with state := .training } }

/-- No table maps anything. -/
def unmapped : State := { looking .second [] [] with mem := mapped.mem }

theorem witness_TranslationAndStackSteps : (let e : TlbEntry := { ctx := 0, va := 0, size := 65536, leaf := 0xCC80000000000000 }
      tlbFind ((looking .second [e] []).clu 0).tlb2 0 0 = some 0xCC80000000000000 ∧ tlbFind ((looking .second [] []).clu 0).tlb2 0 0 = none) ∧
    (((looking .second [] []).core 0).lookups[0]? = some (lookup .second) ∧ inFlight ((looking .second [] []).core 0) 0 = true ∧
      ((looking (.refused 64) [] []).core 0).lookups[0]? = some (lookup (.refused 64)) ∧ 64 ≤ (looking (.refused 64) [] []).tick) ∧
    (let w : Walk := { ctx := 0, page := 0, live := true }
     ([w].any (fun w => w.ctx == 0 && w.page == 0 && !w.dead) = true ∧ (walks 1087 64).any (fun w => w.ctx == 0 && w.page == 0 && !w.dead) = false ∧
      (walks 1087 64).length - (walks 1087 64).countP (·.live) < 1024 ∧ 1024 ≤ (walks 1088 64).length - (walks 1088 64).countP (·.live)) ∧
      ((looking (.walking 0) [] [w]).clu 0).walks[0]? = some w ∧ stackServes (looking (.walking 0) [] [w]) (ctxRoot (looking (.walking 0) [] [w]) 0) = true ∧
      ((walkLeaf (looking (.walking 0) [] [w]) 0 0).map (·.1)) = some 0xEC80000000000000) ∧
    (∀ e ∈ [(0, none, [], []), (1, none, [], []), (2, none, [], []), (2, some 0, [0], []), (2, some 0, [], []), (2, some 0, [0], [3]), (2, some 0, [], [3]), (3, none, [], [])],
      let s := dumping e.1 e.2.1 e.2.2.1 e.2.2.2
      (s.ctx 0).state = .dumping ∧ (s.ctx 0).dump = some { stage := e.1, instant := e.2.1, todo := e.2.2.1 } ∧ (s.ctx 0).dumpWant = e.2.2.2) ∧
    (accessesLeft (dumping 1 none [] []) (some 0) = false ∧ accessesLeft { dumping 1 none [] [] with pkts := [packet .rd false 0 false 0] } (some 0) = true ∧
      tenantAt (tenanted (dumping 2 none [] []) []) 0 0 = true ∧ releaseOver (tenanted (dumping 2 none [] []) []) 0 .sys = true ∧
      releaseOver (tenanted (dumping 2 none [] []) [aStore]) 0 .sys = false) ∧
    (([0] : List Nat).find? (fun q => decide (q ≤ 3 * 65536) && decide (3 * 65536 < q + (match walkLeaf (dumping 2 (some 0) [0] [3]) 0 (3 * 65536) with | some e => leafBytes e.1 | none => 65536))) = some 0) ∧
    ([({ looking .second [] [] with stackTab := [] } : State), unmapped, looking .second [] []].map (fun s => match (walkRead s 0 0).2 with | .held => 0 | .fault => 1 | .leaf _ _ => 2) = [0, 1, 2]) ∧
    (let s : State := { stackIs .up 0 with pkts := [packet .rd false 0 false 0, packet .nmc false 0 false 0] }
     (s.stack 0).state = .up ∧ s.pkts[0]? = some (packet .rd false 0 false 0) ∧ lostPacket 0 (packet .rd false 0 false 0) ≠ packet .rd false 0 false 0 ∧
      lostPacket 0 (packet .nmc false 0 false 0) = packet .nmc false 0 false 0) ∧
    (((stackIs .off 0x80000000).stack 0).state = .off ∧ (stackIs .off 0).dev.state = .training ∧ ((stackIs .off 0x80000000).stack 0).nrcfg.getLsbD 31 = true ∧
      ((stackIs .training 0).stack 0).state = .training ∧ ((stackIs .degraded 0).stack 0).state = .degraded) := by decide +kernel

/-! Contexts and tenancy. -/

/-- Context 0 in a state; its descriptor allows every cluster, and its page tables at DRAM 0x100000 map 4 GiB to DRAM 0. -/
def context (st : CtxState) (f : Context → Context) : State :=
  let s := { mapped with dev := { mapped.dev with state := .full } }
  let s := { s with contexts := [(0, f { state := st })], mem := (List.range 8).foldl (fun m n => m.write (hubKey (bdBase n + 0x4001)) 0x80) s.mem }
  { s with mem := ((s.mem.writeNat (hubKey 0) 64 (0#12 ++ 255#8 ++ 0#108 ++ 0x100000#40 ++ 0#344).toNat).writeNat (dramKey 0x100000) 8 0x8000000000108000).writeNat (dramKey 0x108200) 8 0xEC80000000000000 }

/-- Cluster 0 with a tenant, the context that leaves or comes, and the rest. -/
def tenancy (s : State) (tenant leaving coming : Option Nat) (swapping : Bool) : State :=
  s.setClu 0 { s.clu 0 with tenant := tenant, leaving := leaving, coming := coming, swapping := swapping, stuck := false }

/-- Context 1 is Ready beside it with a queue that drains, at a priority. -/
def rival (s : State) (prio : Nat) : State :=
  let s := s.setCtx 1 { s.ctx 1 with state := .ready }
  let s := s.setQueue 64 { s.queue 64 with state := .draining }
  { s with mem := (s.mem.writeNat (hubKey 64) 64 (1#6 ++ 0#6 ++ 255#8 ++ 3#2 ++ 0#490).toNat).writeNat (hubKey (0x1000 + 64 * 64)) 64 (0#12 ++ BitVec.ofNat 2 prio ++ 0#498).toNat }

def allStates : List CtxState := [.free, .building, .ready, .active, .suspended, .faulted, .draining, .dead, .dumping]

/-- Context 0 leaves cluster 0, and nothing is left to be released; what copying its block out comes to: done, held, failed. -/
def leaving (st : CtxState) (sw : Bool) : State := { tenancy (context st id) (some 0) (some 0) none sw with cores := [] }
def copied (s : State) : Nat := match (saveOut s 0 0).2 with
  | .done => 0
  | .wait => 1
  | .fail _ _ => 2
/-- The GiB where cluster 0's block lies maps to DRAM 1 GiB, of which domain 0 owns the stripes 16 to 23. -/
def withArea (s : State) : State :=
  let s := { s with mem := (List.range 8).foldl (fun m n => m.writeNat (hubKey (bdBase n + 0x4020)) 16 0x80008000800080008000800080008000) s.mem }
  { s with mem := (s.mem.writeNat (dramKey 0x108000) 8 0xEC80000000004000).writeNat (dramKey 0x108038) 8 0xEC80000000004000 }
def unserved (s : State) : State := { s with stackTab := [] }
def unpaged (s : State) : State := { s with mem := s.mem.writeNat (dramKey 0x100000) 8 0 }

/-- Context 0 comes to cluster 0 with a block, which holds ranges or nothing. -/
def arriving (blocks : Tab SavedCluster) : State :=
  let s := tenancy (context .ready fun x => { x with saved := blocks }) none none (some 0) false
  s.setQueue 0 { s.queue 0 with state := .draining }
def copiedIn (s : State) : Nat := match (copyIn 0 0 (blockBase s 0 0) [(0, 32)] s).2 with
  | .inr _ => 0
  | .inl .wait => 1
  | .inl _ => 2

/-- Context 0 drains; it may have spilled keys or a queue bound, over stacks that serve or do not. -/
def drains (size : Nat) (queue : Bool) : State :=
  let s := setSpill (context .draining id) 0 0x1000 size
  if queue then s.setQueue 0 { s.queue 0 with state := .idle } else s

theorem witness_copied : copied (withArea (leaving .suspended true)) = 0 ∧ copied (unserved (leaving .suspended true)) = 1 ∧ copied (unpaged (leaving .suspended true)) = 2 ∧
    copiedIn (withArea (arriving [])) = 0 ∧ copiedIn (unserved (arriving [])) = 1 ∧ copiedIn (unpaged (arriving [])) = 2 := by
  refine ⟨?_, ?_, ?_, ?_, ?_, ?_⟩ <;> decide +kernel

theorem witness_drained : (clearSpill (drains 0 false) 0 (spillCount (drains 0 false) 0)).2 = false ∧ (clearSpill (unserved (drains 1 false)) 0 (spillCount (drains 1 false) 0)).2 = true ∧
    (emptyQueues ((List.range 64).map fun i => 64 * 0 + i) (drains 0 false)).2 = false ∧ (emptyQueues ((List.range 64).map fun i => 64 * 0 + i) (unserved (drains 0 true))).2 = true ∧
    Sys2Proof.Machine.drained (drains 1 true) 0 = true := by decide +kernel

theorem witness_ContextSteps : (∀ st ∈ allStates, ((context st id).ctx 0).state = st) ∧ ctxValid (context .building id) 0 = true ∧
    ctxValid { context .building id with mem := [(hubKey 0, 1)] } 0 = false ∧
    (Sys2Proof.Machine.drained (context .draining fun x => { x with toDead := true }) 0 = true ∧ ((context .draining fun x => { x with toDead := true }).ctx 0).toDead = true) ∧
    (let s := tenancy (context .active id) (some 0) none none false
     (s.clu 0).quantumEnd ≤ s.tick ∧ (s.clu 0).leaving = none ∧ (s.clu 0).tenant = some 0 ∧ (bestContext s 0 0).map (·.1) = some 0 ∧ (standing s 0 0).isSome = true ∧
      bestContext (rival s 2) 0 0 = some (1, 2)) ∧
    (let s := rival (tenancy (context .suspended id) none none none false) 0
     bestContext s 0 (s.clu 0).lastTenant = some (1, 0) ∧ (s.clu 0).tenant = none ∧ (s.clu 0).coming = none) ∧
    (∀ st ∈ [CtxState.active, .draining], ∀ sw ∈ [false, true], let s := tenancy (context st id) (some 0) (some 0) none sw
      clusterQuiet { s with cores := [] } 0 0 = true ∧ (s.clu 0).swapping = sw ∧
        ∀ n ∈ coresOf { s with cores := [] } 0, (s.core n).q = [] ∧ releaseOver s n .sys = true) ∧
    (let s := tenancy (tenanted (context .suspended id) [aStore]) (some 0) (some 0) none true
     clusterQuiet { s with cores := [] } 0 0 = true ∧ releaseOver s 0 .sys = false) ∧
    (let s := tenancy { context .suspended id with replies := [{ svc := 0, target := { core := 0, slot := 0, split := 0, id := none }, vals := [], bad := [], won := false }] } (some 0) (some 0) none false
     clusterQuiet s 0 0 = false) ∧
    (let s := tenancy (context .dumping fun x => { x with before := .active }) (some 0) none none false
     (s.ctx 0).before = .active ∧ (readyPrio s 0).getD 0 = 0 ∧ bestContext (rival s 2) 0 0 = some (1, 2)) ∧
    (let s := tenancy (context .ready fun x => { x with saved := [(0, { since := 1 })] }) none none (some 0) false
     let s := s.setQueue 0 { s.queue 0 with state := .draining }
     (standing s 0 0).isSome = true ∧ ((s.ctx 0).saved.find 0) = some { since := 1 } ∧ ((context .ready id).ctx 0).saved.find 0 = none) := by
  decide +kernel

/-! Queues and records. -/

/-- Queue 0, in host memory with 16 records at 0x1000, drains; TAIL is 1, and a record lies at HEAD. -/
def queued (rec : BitVec 512) (f : Queue → Queue) : State :=
  let s := context .active id
  let s := { s with links := [(24, { state := .up })] }
  let s := s.setCtx 0 { s.ctx 0 with segs := (mapped.strand fetchRef).segs }
  let s := s.setQueue 0 (f { s.queue 0 with state := .draining, tail := 1 })
  let s := s.setStream 0 { s.stream 0 with bound := true }
  { s with mem := (((s.mem.writeNat (hubKey 0x1000) 64 (0#14 ++ 1#1 ++ 0#1 ++ 4#5 ++ 0#43 ++ 0x1000#48 ++ 0#400).toNat).writeNat (hostKey 0x1000) 64 rec.toNat).writeNat (hostKey 0) 4 1).writeNat (dramKey 0) 1 1 }

/-- Records: a launch, a draw with programs at 4 GiB, a copy with a barrier, a wait and a signal on a word of glb, a mark. -/
def launchRec : BitVec 512 := BitVec.ofNat 512 (2 ^ 56 + 2 ^ 296 + 2 ^ 285 + 2 ^ 276 + 255 * 2 ^ 238)
def drawRec : BitVec 512 := BitVec.ofNat 512 (2 ^ 57 + 2 ^ 336 + 0x100000080 * 2 ^ 464 + 0x100000080 * 2 ^ 416)
def copyRec (bar : Nat) : BitVec 512 := BitVec.ofNat 512 (3 * 2 ^ 56 + 2 ^ 352 + bar * 2 ^ 304)
def waitRec (val tmo : Nat) (seg : Nat := 2) (off : Nat := 0) : BitVec 512 := BitVec.ofNat 512 (4 * 2 ^ 56 + seg * 2 ^ 509 + off * 2 ^ 448 + val * 2 ^ 384 + tmo * 2 ^ 378)
def signalRec (bits : Nat) (seg : Nat := 2) : BitVec 512 := BitVec.ofNat 512 (5 * 2 ^ 56 + seg * 2 ^ 509 + 7 * 2 ^ 384 + bits * 2 ^ 382)
def markRec : BitVec 512 := BitVec.ofNat 512 (6 * 2 ^ 56 + 5)

/-- The head record of the queue, read and in order. -/
def headIs (kind : Nat) (rec : BitVec 512) : Bool :=
  let s := queued rec id
  isChosen s 0 && (match headRecord s 0 with | (t, .ok bits) => bits == rec && recKind bits == kind && recordCheck t 0 bits == none | _ => false)

/-- The state after a record is taken. -/
def taken (rec : BitVec 512) : State := takeRecord (headRecord (queued rec id) 0).1 0

theorem witness_QueueRecords : headIs 1 launchRec = true ∧ headIs 2 drawRec = true ∧ headIs 3 (copyRec 0) = true ∧ headIs 3 (copyRec 1) = false ∧ headIs 3 (copyRec 16) = true ∧
    headIs 4 (waitRec 0 40) = true ∧ headIs 5 (signalRec 3) = true ∧ headIs 6 markRec = true := by decide +kernel

/-- The state in which the head record has been read, its stacks serving or not. -/
def atRecord (rec : BitVec 512) (serving : Bool := true) : State := (headRecord (if serving then queued rec id else unserved (queued rec id)) 0).1

/-- What a record comes to: it runs, waits at the head, is in error. -/
def launchBegins (s : State) : Nat := match startLaunch s 0 0 launchRec with
  | (_, .takes _) => 0
  | (_, .waits) => 1
  | _ => 2
def drawBegins (s : State) (rec : BitVec 512) : Nat := match drawPrefixes s 0 rec with
  | (_, .ok _) => 0
  | (_, .error .held) => 1
  | (_, .error _) => 2
def eventReads (s : State) (rec : BitVec 512) : Nat := match eventRead s 0 rec with
  | (_, .ok _) => 0
  | (_, .error .held) => 1
  | (_, .error _) => 2
def eventWritten (s : State) (rec : BitVec 512) : Nat := match recordWrite (signalRelease s 0).1 0 (eventSeg rec) (eventOff rec) (leBytes 8 7) with
  | (_, none) => 0
  | (_, some .held) => 1
  | (_, some _) => 2

/-- Core 0 of the queue's context has a store that is not delivered. -/
def undelivered : State := tenanted (atRecord (signalRec 0)) [aStore]

theorem witness_record_effects : (launchBegins (atRecord launchRec) = 0 ∧ launchBegins (atRecord launchRec false) = 1) ∧
    (drawBegins (atRecord drawRec) drawRec = 0 ∧ drawBegins (atRecord drawRec false) drawRec = 1 ∧ drawBegins (unpaged (atRecord drawRec)) drawRec = 2) ∧
    arbiterMay (atRecord drawRec) (lowestCluster (atRecord drawRec) 0) 0 6 (drawStream drawRec) 0 0 = true ∧
    ((taken (copyRec 0)).core (copyCore (taken (copyRec 0)) 0)).eng.length < 64 ∧ copyBarrier (taken (copyRec 0)) 0 (copyRec 0) = some none ∧
    copyBarrier (taken (copyRec 16)) 0 (copyRec 16) = some (some 16) ∧ copyBarrier (taken (copyRec (2 ^ 47))) 0 (copyRec (2 ^ 47)) = none ∧
    (match eventRead (atRecord (waitRec 0 0)) 0 (waitRec 0 0) with | (_, .ok v) => v == 0 | _ => false) = true ∧
    (eventReads (atRecord (waitRec 1 0)) (waitRec 1 0) = 0 ∧ eventReads (atRecord (waitRec 0 0 3) false) (waitRec 0 0 3) = 1 ∧ eventReads (atRecord (waitRec 0 0 4)) (waitRec 0 0 4) = 2) ∧
    ((signalRelease (atRecord (signalRec 3)) 0).2 = true ∧ (signalRelease undelivered 0).2 = false ∧ eventWritten (atRecord (signalRec 3)) (signalRec 3) = 0) := by
  decide +kernel

/-- A queue's states; a WAIT at its head since tick 0; a record handed over; launches and an event. -/
def blocked (tick : Nat) : State := { queued (waitRec 1 16) (fun x => { x with state := .blocked, waitSince := some 0 }) with tick := tick }
def aged (tick : Nat) : State := { queued markRec (fun x => { x with since := some 0 }) with tick := tick }
def handing (n : Word) : State := queued markRec (fun x => { x with appends := n, handed := [{ bits := markRec, target := ⟨0, 0, 0, none⟩ }] })
def theLaunch : Launch := { ctx := 0, qid := 0, recNo := 0, bits := launchRec, segs := [(3, 0x1000000000000)], ready := true, next := 1 }
def finishing (bitSet : Bool) : State :=
  let s := paged mapped
  { s with events := [{ launch := 3, crew := 0, core := 0, bitSet := bitSet }], launches := [(3, theLaunch)] }
def queueStates : List QState := [.unbound, .idle, .watching, .draining, .blocked, .suspended, .error]

/-- Queue 0 lies in its context's memory and watches a line, its control block to be written again or not. -/
def armedQueue (stale : Bool) : State :=
  let s := queued markRec fun x => { x with state := .watching, watch := [0], wakes := [], stale := stale }
  { s with mem := s.mem.writeNat (hubKey 0x1000) 64 (0#16 ++ 4#5 ++ 0#43 ++ 0x100001000#48 ++ 0x100002000#48 ++ 0#352).toNat }
/-- The host port has failed. -/
def isolated (s : State) : State := { s with links := [(24, { state := .isolated })] }

theorem witness_QueueSteps : (∀ st ∈ queueStates, ((queued markRec fun x => { x with state := st }).queue 0).state = st) ∧
    (headIs 4 (waitRec 1 16) = true ∧ ((blocked 65536).queue 0).waitSince = some 0 ∧ 0 + 2 ^ ((waitRec 1 16).extractLsb' 378 6).toNat ≤ (blocked 65536).tick ∧
      ¬ 0 + 2 ^ ((waitRec 1 16).extractLsb' 378 6).toNat ≤ (blocked 65535).tick) ∧
    (((aged (2 ^ 20)).queue 0).since = some 0 ∧ 0 + 2 ^ 20 ≤ (aged (2 ^ 20)).runTick) ∧
    ((((handing 15).queue 0).appends - ((handing 15).queue 0).head).toNat < 2 ^ qLog (handing 15) 0 ∧ ¬ (((handing 16).queue 0).appends - ((handing 16).queue 0).head).toNat < 2 ^ qLog (handing 16) 0 ∧
      (queueWrite (handing 15) 0 (qRing (handing 15) 0 + 64 * 15) (leBytes 64 markRec.toNat)).2 = none ∧ (queueWrite (handing 15) 0 (qCtrl (handing 15) 0) (leBytes 4 16)).2 = none ∧ (queueWrite (isolated (handing 15)) 0 (qRing (handing 15) 0 + 64 * 15) (leBytes 64 markRec.toNat)).2 = some .link) ∧
    (∀ st ∈ [false, true], ((armedQueue st).queue 0).stale = st ∧ (let w := if st then putControl (armedQueue st) 0 else armedQueue st; let y := w.queue 0; y.state = .watching ∧ y.wakes = [] ∧ y.watch ≠ [] ∧ qHost w 0 = false)) ∧
    queueValid (queued markRec id) 0 = true ∧ ({ here with tick := 64 } : State).dev.passTick + 64 ≤ 64 ∧
    (∀ b ∈ [false, true], (finishing b).events[0]? = some { launch := 3, crew := 0, core := 0, bitSet := b } ∧ (finishing b).launch 3 = some theLaunch ∧ releaseOver (finishing b) 0 .dev = true) ∧
    (match blockRead (finishing true) 0 theLaunch.segs 64 with | (_, .ok w) => w == 0 | _ => false) = true ∧
    (match blockWrite (finishing true) 0 theLaunch.segs 64 1 with | (_, none) => true | _ => false) = true ∧
    theLaunch.crews (finishing true) ≤ theLaunch.count + 1 := by decide +kernel

/-! Streams, rasterization, trace, the stop. -/

/-- Stream 0 shows one pixel of one view; draw 7 is one triangle that covers it, or lies beyond it. -/
def corner (x y : Word) : Vertex := { pos := [x, y, 0x3F000000, 0x3F800000], attrs := [] }
def theDraw : Draw := { ctx := 0, stream := 0, frame := 5, set := 0, bits := BitVec.ofNat 512 (2 ^ 57 + 3 * 2 ^ 336), vpre := 0, fpre := 0 }
def scene (off : Bool) (f : Stream → Stream) : State :=
  let s := streaming 0 0 false 0
  let one : Word := if off then 0x40A00000 else 0x40400000
  let low : Word := if off then 0x40800000 else 0xBF800000
  let s := { s with draws := [(7, theDraw)], verts := [(7, 0, corner low low), (7, 1, corner one low), (7, 2, corner low one)] }
  s.setStream 0 (f { s.stream 0 with draws := [7], cur := some { no := 5, set := 0 } })

def prim (s : State) : Prim := match clipScreen s 0 [corner 0xBF800000 0xBF800000, corner 0x40400000 0xBF800000, corner 0xBF800000 0x40400000] with
  | some t => { draw := 7, seq := 0, tris := t }
  | none => { draw := 7, seq := 0, tris := [] }

/-- The state after setup, with a sweep, and an interval at blend. -/
def atSetup (p : Prim) : State := let s := scene false id; s.setClu 0 { s.clu 0 with prims := [p] }
def atSweep : State := match exec .primitiveSetup (atSetup (prim (scene false id))) with
  | .next t => t
  | _ => {}
def interval (m : Nat) : BitVec 512 := ivPut (ivPut 0 352 32 m) 384 32 0
def blendAt (m : Nat) : State := let s := atSweep
  s.setClu 0 { s.clu 0 with blendQ := [{ ctx := 0, draw := 7, ivl := ivPut (interval m) 288 32 (rasterKey 0 0 0 0), colour := none, depth := none }] }

theorem witness_RasterAndPanelSteps : ((streaming 0 0 false 0).stream 0).bound = true ∧ streamValid (streaming 0 0 false 0) 1 = false ∧ streamValid (streaming 0 0 false 0) 0 = true ∧
    (assembled theDraw = false ∧ assembled { theDraw with next := 1 } = true ∧ triangleIndices (drawTopo theDraw.bits) theDraw.next = [0, 1, 2]) ∧
    ((clipScreen (scene false id) 0 [corner 0xBF800000 0xBF800000, corner 0x40400000 0xBF800000, corner 0xBF800000 0x40400000]).isSome = true ∧
      clipScreen (scene false id) 0 [corner 0x7FC00000 0, corner 0 0, corner 0 0] = none) := by decide +kernel

/-- The sluice of cluster 0 has no record left. -/
def recordless (s : State) : State := s.setClu 0 { s.clu 0 with keys := [{ ctx := 0, key := 1, ras := true, claims := List.replicate 16384 0 }] }

def blendLeft (s : State) : List (Nat × Nat) :=
  (blendSamples { ctx := 0, draw := 7, ivl := interval 1, colour := none, depth := none } 0 0 0 (triangleOf s 0 (interval 1)) (intervalSamples (interval 1)) s).2

/-- The stream tests depth early, over page tables; an earlier draw has a section in the tile. -/
def early (s : State) : State := let s := tabled s
  { s with mem := s.mem.writeNat (hubKey 0x80000) 128 (s.mem.readNat (hubKey 0x80000) 128 + 2 ^ 947 + 2 ^ 968) }
def earlyReads (s : State) : Nat := match (earlyTile s 0 theDraw 7 (rasterKey 0 0 0 0) (0, 0, 0)).2 with
  | some (some _) => 0
  | none => 1
  | some none => 2
def olderSect (s : State) : State := s.setClu 0 { s.clu 0 with sects := { ctx := 0, draw := 3, seq := 0, key := rasterKey 0 0 0 0 } :: (s.clu 0).sects }

theorem witness_raster : (let s := atSetup (prim (scene false id))
      (s.clu 0).prims = [prim (scene false id)] ∧ reachedTiles s 0 0 (prim (scene false id)).tris = [(0, 0, 0)] ∧ reachedTiles s 0 0 [] = [] ∧
      (freeSetups (s.clu 0) (prim (scene false id)).tris.length).isSome = true ∧ (roomForClaims s 0 0 0 [(0, 0, 0)]).2 = true ∧ (roomForClaims (recordless s) 0 0 0 [(0, 0, 0)]).2 = false) ∧
    ((atSweep.clu 0).sweeps.map (fun j => (j.draw, j.now, j.tiles)) = [(7, none, [(0, 0, 0)])] ∧ earlyDepth atSweep 0 = false) ∧
    (intervalSamples (interval 0) = [] ∧ intervalSamples (interval 1) ≠ [] ∧ sectionHeld (blendAt 1) 0 (ivPut (interval 1) 288 32 (rasterKey 0 0 0 0)) = true ∧
      blendLeft (blendAt 1) = [] ∧ blendLeft (unserved (tabled (blendAt 1))) ≠ []) := by
  decide +kernel

theorem witness_early :    (earlyReads (early atSweep) = 0 ∧ earlyReads (unserved (early atSweep)) = 1 ∧ earlyDepth (early atSweep) 0 = true) ∧
    (let s := olderSect (early atSweep)
     (s.clu 0).sects.any (fun r => decide (r.ctx = 0 ∧ r.key = rasterKey 0 0 0 0 ∧ r.draw < 7)) = true ∧ ((early atSweep).clu 0).sects.all (fun r => r.ctx != 0 || r.key != rasterKey 0 0 0 0 || decide (7 ≤ r.draw)) = true) := by decide +kernel

/-- Stream 0's frame is being cleared, over stacks that serve or do not. -/
def clearing (serving : Bool) : State :=
  let s := tabled (scene false fun x => { x with cur := some { no := 5, set := 0, clearing := true } })
  if serving then s else unserved s

theorem witness_clearing : ((clearFrame (clearing true) 0).stream 0).clears = false ∧ ((clearFrame (clearing false) 0).stream 0).clears = true := by decide +kernel

/-- A stream with a period; a frame is closed, or one is open, or none. -/
def slotAt (closed : Bool) (cur : Option Frame) (tick : Nat) : State := { (streaming 0 0 closed 64).setStream 0 { (streaming 0 0 closed 64).stream 0 with cur := cur } with tick := tick }

theorem witness_slots : ((slotAt true none 0).stream 0).bound = true ∧ streamField (slotAt true none 0) 0 832 32 ≠ 0 ∧ slotDeadline (slotAt true none 0) 0 0 ≤ (0 : Int) ∧
    ¬ slotDeadline (slotAt true none 63) 0 1 ≤ (63 : Int) ∧ ((slotAt true none 0).stream 0).closed = some { no := 4, set := 0 } ∧
    ShowsAt (slotAt true none 0) 0 (.frame { no := 4, set := 0 }) false ∧ ShowsAt (slotAt false none 0) 0 (.frame { no := 3, set := 1 }) true ∧
    ShowsAt (slotAt false (some { no := 5, set := 0 }) 0) 0 (reprojection ((slotAt false none 0).stream 0) 0) true ∧
    (writePicture (slotAt false none 0) 0 { pic := .frame { no := 3, set := 1 }, again := true }).2 ≠ some .held ∧
    (writePicture (pictured (2 ^ 32 + 0x8000) false) 0 { pic := .frame { no := 3, set := 1 }, again := true }).2 = some .held ∧
    ((slotAt true none 0).stream 0).clears = false := by
  refine ⟨?_, ?_, ?_, ?_, ?_, .inl ⟨_, rfl, rfl, rfl⟩, .inr ⟨rfl, rfl, ?_⟩, .inr ⟨rfl, rfl, ?_⟩, ?_, ?_, ?_⟩ <;> decide +kernel

/-- Cluster 0's trace control block: EN, MODE, RINGLOG2 4, WRIDX, RDIDX and context 0, in device memory at 0x10000; frames. -/
def tracing (en mode wr rd : Nat) (f : Trace → Trace) : State :=
  let s := paged { mapped with dev := { mapped.dev with clockMHz := 1900 } }
  let s := s.setClu 0 { s.clu 0 with tenant := some 0 }
  (s.setTrace 0 (f (s.trace 0))).mem |> fun m => { s.setTrace 0 (f (s.trace 0)) with
    mem := m.writeNat (hubKey (traceBase 0)) 64 (0x10000 * 2 ^ 464 + 4 * 2 ^ 458 + mode * 2 ^ 456 + en * 2 ^ 449 + 255 * 2 ^ 441 + wr * 2 ^ 368 + rd * 2 ^ 336 + 0x20000 * 2 ^ 256 + 2 ^ 224) }
def frame (tick : Nat) : TraceFrame := { tick := tick, last := tick, no := 0, lost := 0, slost := 0, isRec := false, unal := false, bytes := [] }

/-- In replay of a log of one decision: cluster 0's tier arbiter, core 0, strand 5. -/
def replaying : State := let s := tracing 1 2 0 0 id
  { s with tick := 2 ^ 20, mem := (s.mem.writeNat (dramKey (0x20000 + 14)) 2 41).writeNat (dramKey (0x20000 + 32)) 9 (0x10 + 256 * (5 * 2 ^ 56 + 5 * 2 ^ 16)) }

theorem witness_TraceAndStopSteps : (((tracing 1 1 0 0 id).mem.readNat (hubKey (traceBase 0)) 64).testBit 449 = true ∧ ((tracing 0 1 0 0 id).mem.readNat (hubKey (traceBase 0)) 64).testBit 449 = false) ∧
    ((tracing 1 0 0 0 fun x => { x with opened := some (frame 0) }).trace 0).opened = some (frame 0) ∧
    (let s := tracing 1 0 16 0 fun x => { x with closed := [frame 0] }
     (s.trace 0).closed = [frame 0] ∧ 2 ^ traceCtl s 0 458 5 ≤ (traceCtl s 0 368 32 + 2 ^ 32 - traceCtl s 0 336 32) % 2 ^ 32 ∧ traceCtl s 0 456 2 ≠ 1) ∧
    (let s := tracing 1 0 15 0 fun x => { x with closed := [frame 0] }
     ¬ 2 ^ traceCtl s 0 458 5 ≤ (traceCtl s 0 368 32 + 2 ^ 32 - traceCtl s 0 336 32) % 2 ^ 32) ∧
    (let s := { tracing 1 0 0 0 (fun x => { x with period := [(0, 8)] }) with tick := 256 }
     (s.clu 0).tenant = some 0 ∧ (s.trace 0).period.get 0 0 ≠ 0 ∧ (s.trace 0).sampleAt.get ((s.trace 0).sampleAt.get 0 1024) 0 + clockTicks s (2 ^ 8) ≤ s.runTick ∧ sampleSlot s 0 0 0 5 = some 0 ∧ sampleSlot s 0 1 0 5 = none ∧
      (samplePayload s 0 0 0).isSome = true ∧ (s.trace 0).now s.tick + sampleBytes (s.trace 0) s.tick ≤ 64 ∧
      64 < ({ s.trace 0 with accepted := (256, 60) } : Trace).now 256 + sampleBytes { s.trace 0 with accepted := (256, 60) } 256) ∧
    (replayNext replaying 0 0 5 0 = some (5 * 2 ^ 56 + 5 * 2 ^ 16) ∧ replaying.dev.stopped = none ∧ replaying.runTick = 2 ^ 20 ∧ requestThere replaying 0 0 5 0 5 = false) ∧
    (let s : State := { here with dev := { here.dev with armed := true, stopTick := 5 }, tick := 5 }
     s.dev.armed = true ∧ s.dev.stopped = none ∧ s.dev.stopTick.toNat ≤ s.tick) := by decide +kernel

/-! Links. -/

/-- Device 9 has one peer, 5, at ports 3 and 4. -/
def linked (f : Link) : State := { (here.setLink 3 f) with
  mem := here.mem.writeNat (hubKey (0x200000 + 40)) 3 24, tick := 2 ^ 17, hbTick := 2 ^ 17, dev := { here.dev with devno := 0x80000009 } }
def running : Link := { state := .up, rxSeq := 7, txSeq := 3, buffer := [{ vc := 0, seq := 1, body := .reply 0 [] }, { vc := 0, seq := 2, body := .reply 0 [] }] }
def flit (seq : BitVec 14) : Flit := { vc := 1, seq := seq, ack := 1, src := 5, body := .reply 0 [] }
def hears (f : Flit) : State := { linked running with pick := { a := 3, flit := some f } }

theorem witness_LinkSteps : (Heard (hears (flit 7)) 3 (flit 7) ∧ portPeer (hears (flit 7)) 3 = some 5 ∧
      (flit 7).seq = ((takeAck (hears (flit 7)) 3 1).link 3).rxSeq ∧ heldCount ((takeAck (hears (flit 7)) 3 1).bundle 5) 1 < 64 ∧
      (flit 8).seq ≠ ((takeAck (hears (flit 8)) 3 1).link 3).rxSeq) := by
  refine ⟨⟨?_, ?_, ?_, ?_, ?_, ?_⟩, ?_, ?_, ?_, ?_⟩ <;> decide +kernel

theorem witness_link_flits : (linked running).pick.flit = none ∧
    (let s := { linked { state := .training } with pick := { a := 3, flit := some { flit 0 with src := 9 } } }
     (s.link 3).state = .training ∧ ({ flit 0 with src := 9 } : Flit).src.toNat = ownNumber s) ∧
    (let s := { hears (flit 7) with pick := { a := 3, flit := some (flit 7), b := 1 } }
     tickMaster s ≠ ownNumber s ∧ portPeer s 3 = some (tickMaster s) ∧ s.dev.fixTick + 2 ^ 16 ≤ s.tick ∧ s.tick < s.hbTick + 256) ∧
    (let s := hears (flit 7)
     (s.link 3).lastTick + 2 ^ 16 ≤ s.tick ∧ (s.link 3).buffer ≠ [] ∧ (s.link 3).ackTick + 2048 ≤ s.tick ∧ (s.link 3).replays + 1 < 8) ∧
    8 ≤ ({ running with replays := 7 } : Link).replays + 1 := by decide +kernel

theorem witness_link_ports :
    (let s := { linked {} with pick := { a := 3 } }
     (s.link 3).state = .down ∧ s.dev.devno.getLsbD 31 = true ∧ portPeer s 3 = some 5 ∧ bundleLives s 3 = false ∧
     (s.link 24).state = .down ∧ here.dev.devno.getLsbD 31 = false) ∧
    bundleLives ((linked {}).setLink 4 running) 3 = true ∧
    (((linked { state := .isolated }).link 3).state = .isolated ∧ ((linked { state := .training }).link 3).state = .training ∧
      ((linked { state := .retraining, tries := 2 }).link 3).state = .retraining) ∧
    (let t := ((linked { state := .isolated }).setLink 4 running)
     (∃ j ∈ bundlePorts t 5, (t.link j).flows = true)) ∧
    (let t := linked { state := .isolated }
     ¬ (∃ j ∈ bundlePorts t 5, (t.link j).flows = true) ∧ ¬ (∃ j ∈ bundlePorts t 5, (t.link j).state = .retraining)) ∧
    ((here.setLink 24 running).link 24).state = .up := by decide +kernel

/-- A window on the first GiB of DRAM; three bytes for it. -/
def windowed : State := { paged mapped with links := [(24, running)], dev := { here.dev with hdm := [(0, 0x40000000, 0, 0x40000000)] }, pick := { a := 0x40000040, bytes := [1, 2, 3] } }

/-- The same while a context is dumped whose tables lie in a stack that does not serve. -/
def windowedDump : State := let s := unserved (dumping 2 (some 0) [] [])
  { s with links := windowed.links, dev := windowed.dev, pick := windowed.pick }
/-- Queue 0 lies in the context's memory; the host port retrains for the third time. -/
def hostTraining : State := { armedQueue false with links := [(24, { state := .retraining, tries := 2 })], pick := { a := 24 } }

theorem witness_host_port : (hostTraining.link 24).state = .retraining ∧ 2 ≤ (hostTraining.link 24).tries ∧
    ∀ q ∈ hostTraining.queues.keys, (hostTraining.queue q).state = .unbound ∨ qHost hostTraining q = false := by decide +kernel

theorem witness_hdm : ((windowed.link 24).state = .up ∧ (windowedDump.link 24).state = .up) ∧ (windowed.dev.hdm.find? (fun e => e.2.1 ≤ windowed.pick.a && windowed.pick.a < e.2.1 + e.2.2.2) = some (0, 0x40000000, 0, 0x40000000)) ∧
    (dumpHolds windowed 0x40).2 = false ∧ (dumpHolds windowedDump 0x40).2 = true ∧ (agentWrite windowed (dramKey 0x40) {} true (spanFuel 3) [1, 2, 3]).2 = none := by decide +kernel

/-! Device states, the crown, the mailboxes. -/

def device (st : DState) (p : Pick) (f : Device → Device) : State := { here with dev := f { here.dev with state := st }, pick := p }
/-- A device whose host link carries traffic. -/
def hosted (st : DState) (p : Pick) (f : Device → Device) : State := (device st p f).setLink 24 running
def mgcmd (cmd arg c : Nat) : Pick := { word := BitVec.ofNat 64 (arg * 2 ^ 32 + cmd), c := c }

/-- An image shorter than a signature is never valid; a longer one is what its signature says. -/
theorem witness_DeviceStates : ((device .off {} id).dev.state = .off ∧ (device .rom {} id).dev.state ≠ .off) ∧
    (Sends (hosted .rom (mgcmd 1 0 0) id) 1 0 ∧ (mgcmd 1 0 0).c = 0 ∧ (mgcmd 1 0 1).c ≠ 0 ∧ Sends (device .full (mgcmd 1 0 1) id) 1 0) ∧
    imageValid (device .verifying {} id) = false ∧
    ([0, 1, 2, 3, 4, 5, 6, 7].filter (fun k => (5 : Nat).testBit k)) ≠ [] ∧
    ((State.reset.stack 0).state ≠ .up ∧ ∀ n < 8, ((here.setStack n { state := .failed }).stack n).state = .failed) ∧
    ((here.flips.get 0 0 ^^^ (0#512).extractLsb' 0 288) = 0 ∧ (here.flips.get 0 0 ^^^ (1#512).extractLsb' 0 288) ≠ 0) := by
  refine ⟨?_, ⟨⟨?_, ?_, ?_, ?_, ?_, ?_⟩, ?_, ?_, ⟨?_, ?_, ?_, ?_, ?_, ?_⟩⟩, ?_, ?_, ?_, ?_⟩ <;> decide +kernel

theorem witness_image : imageValid (device .verifying {} fun d => { d with imglen := 2965 }) =
    (let s := device .verifying {} fun d => { d with imglen := 2965 }
     Config.hssValid (signedBytes s) ((imageBytes s).drop 1)) := rfl

theorem witness_crown : Sends (device .rom (mgcmd 2 0 1) id) 2 0 ∧ Sends (device .full (mgcmd 3 0x3F 1) fun d => { d with holder := 1 }) 3 0x3F ∧
    Sends (device .full (mgcmd 3 2 1) id) 3 2 ∧ Sends (device .early (mgcmd 4 0 1) fun d => { d with pend := 1 }) 4 0 ∧
    Sends (device .training (mgcmd 5 0 1) fun d => { d with holder := 1 }) 5 0 := by
  refine ⟨⟨?_, ?_, ?_, ?_, ?_, ?_⟩, ⟨?_, ?_, ?_, ?_, ?_, ?_⟩, ⟨?_, ?_, ?_, ?_, ?_, ?_⟩, ⟨?_, ?_, ?_, ?_, ?_, ?_⟩, ⟨?_, ?_, ?_, ?_, ?_, ?_⟩⟩ <;> decide +kernel

theorem witness_CrownSteps :
    (let s := { device .full {} fun d => { d with pend := 1, pendTick := 0 } with tick := 2 ^ 30 }
     s.dev.pend ≠ 0xFF ∧ s.dev.pendTick + 2 ^ 30 ≤ s.tick) ∧
    (let s := device .full { c := 1 } fun d => { d with holder := 0 }
     s.dev.holder = 0 ∧ (s.link 24).state = .down ∧ s.dev.holder ≠ s.pick.c) ∧
    (let s := device .full { c := 1 } fun d => { d with holder := 1 }
     s.dev.holder = s.pick.c ∧ (∀ i < 24, (s.link i).state = .down) ∧ ((s.setLink 23 running).link 23).state ≠ .down) := by decide +kernel

/-- Mailbox 1 holds a request of master 1 with its bytes; the per-boot tree has spent some leaves, or is absent. -/
def asked (op len : Nat) (tree : Option Nat) (holder : Nat) (req : List Byte) : State :=
  device .full { a := 1 } fun d => { d with
    holder := holder, tree := tree.map fun n => { boot := 0, hash := 0, seed := 0, leaf := n }
    boxes := [(1, { busy := true, cmd := BitVec.ofNat 64 (len * 2 ^ 16 + 7 * 2 ^ 8 + op), master := 1, req := req.zipIdx.map fun e => (e.2, e.1) })] }

theorem witness_mailboxes : Asks (asked 1 32 none 0xFF []) 1 32 ∧ Asks (asked 2 0 (some 0) 0xFF []) 2 0 ∧ Asks (asked 3 2 none 0xFF [0x80, 1]) 3 2 ∧
    Asks (asked 4 8 none 1 [0x81, 1]) 4 8 ∧ Asks (asked 5 8 none 1 []) 5 8 ∧ Asks (asked 6 16 none 1 []) 6 16 := by
  refine ⟨⟨?_, ?_, ?_, ?_, ?_⟩, ⟨?_, ?_, ?_, ?_, ?_⟩, ⟨?_, ?_, ?_, ?_, ?_⟩, ⟨?_, ?_, ?_, ?_, ?_⟩, ⟨?_, ?_, ?_, ?_, ?_⟩, ⟨?_, ?_, ?_, ?_, ?_⟩⟩ <;> decide +kernel

theorem witness_tree : ((asked 1 32 none 0xFF []).dev.tree = none ∧ ∃ t, (asked 1 32 (some 32767) 0xFF []).dev.tree = some t ∧ t.leaf < bootLeaves) ∧
    (∃ t, (asked 1 32 (some 32768) 0xFF []).dev.tree = some t ∧ bootLeaves ≤ t.leaf) :=
  ⟨⟨rfl, _, rfl, by decide⟩, _, rfl, by decide⟩

theorem witness_registerWrite :
    (let s := hosted .full { a := 1, b := 8 } id
     masterHere s s.pick.c = true ∧ s.pick.a = 1 ∧ crownPast s s.pick.c = false) ∧
    (let s := hosted .full { a := 0, c := 1 } id
     masterHere s s.pick.c = true ∧ s.pick.a = 0 ∧ s.dev.state = .full) ∧
    (let s := hosted .full { a := 2, c := 1 } id
     masterHere s s.pick.c = true ∧ 2 ≤ s.pick.a ∧ masterHere s 0 = true) ∧
    masterHere (hosted .full { c := 0x25 } id) 0x25 = false ∧ crownPast (heard (hosted .full { c := 1 } id)) 0 = true := by decide +kernel
end Sys2Proof.Tests
end

section
/-! PROOFS. How an instruction is done, and the shared effect of R331 as the statements write it: a value and flags in every
effective lane of a destination. -/
namespace Sys2Proof.Proofs

open Sys2Proof Sys2Proof.Machine Sys2Proof.Claims

/-- With nothing before it, an instruction whose own effect is done finishes with that effect's state. -/
theorem finishes_of_run {i : Instr} {c : Ctl} {s u : State} {body : View → State → Res} (hrun : exec i s = run i c s body)
    (hready : Ready i c s) (hbody : body (seen i c s) (entered i s) = .done u) : Finishes i s u := by
  obtain ⟨htrap, hheld, hissue, hcheck⟩ := hready
  have hbody' : body ((sampleTick i s s.pick.ref).view s.pick.ref c) (sampleTick i s s.pick.ref) = .done u := hbody
  rw [Finishes, hrun, run_ready i c s body hheld htrap hissue hcheck, hbody', settle]

/-- The model's per-lane effect, from its value and its flags in each lane. -/
theorem perLane_eq_written {v : View} {s : State} {w64 : Bool} {d : Operand} {f : Nat → Nat × Flags} {x : Nat → DWord} {fl : Nat → Flags}
    (hx : ∀ l, BitVec.ofNat 64 (f l).1 = x l) (hfl : ∀ l, (f l).2 = fl l) : perLane v s w64 d f = written s v w64 d x fl := by
  simp only [perLane, written, List.map_map, Function.comp_def, apply_ite Prod.fst, apply_ite Prod.snd,
    apply_ite (BitVec.ofNat 64), hx, hfl, BitVec.ofNat_eq_ofNat]

theorem bitLanes_eq_writtenPlain (v : View) (s : State) (w64 : Bool) (d : Operand) (f : Nat → DWord) :
    bitLanes v s w64 d f = writtenPlain s v w64 d f :=
  perLane_eq_written (fun l => by simp) fun _ => rfl

/-- A 32-bit destination takes the low words only. -/
theorem written_congr_low {s : State} {v : View} {d : Operand} {x y : Nat → DWord} {fl : Nat → Flags}
    (h : ∀ l, (x l).setWidth 32 = (y l).setWidth 32) : written s v false d x fl = written s v false d y fl := by
  simp only [written, putLanesW, Bool.false_eq_true, if_false, List.map_map, Function.comp_def, apply_ite (BitVec.setWidth 32), h]

/-- A result without flags may be stated bit by bit. -/
theorem finishes_bitLanes {i : Instr} {c : Ctl} {w64 : Bool} {d : Operand} {g : View → Nat → DWord} {s : State}
    {bit : Nat → Nat → Bool} (hrun : exec i s = run i c s fun v u => .done (bitLanes v u w64 d (g v)))
    (hbit : ∀ l k, k < (if w64 then 64 else 32) → (g (seen i c s) l).getLsbD k = bit l k) (hready : Ready i c s) :
    ∃ x : Nat → DWord, (∀ l k, k < (if w64 then 64 else 32) → (x l).getLsbD k = bit l k) ∧
      Finishes i s (writtenPlain (entered i s) (seen i c s) w64 d x) :=
  ⟨g (seen i c s), hbit, finishes_of_run hrun hready (by rw [bitLanes_eq_writtenPlain])⟩

theorem lt_64_of_lt_width {w64 : Bool} {k : Nat} (h : k < (if w64 then 64 else 32)) : k < 64 := by
  split at h <;> omega

end Sys2Proof.Proofs
end

section
/-! PROOFS. Integer arithmetic (R332 to R347, R360, R376 to R378): the model's formats are the ranges of R26, so its wrapping and
saturating are the statement's, and every instruction of the family is that effect of its exact integer. -/
namespace Sys2Proof.Proofs

open Sys2Proof Sys2Proof.Machine Sys2Proof.Claims

/-! The formats of R21 and R26. -/

theorem intRange_eq {ty : Fmt} (h : ty.isInt = true) : intRange ty = (leastOf ty, greatestOf ty) := by
  revert h; cases ty <;> decide

theorem two_pow_intWidth {ty : Fmt} (h : ty.isInt = true) : ((2 ^ intWidth ty : Nat) : Int) = greatestOf ty - leastOf ty + 1 := by
  revert h; cases ty <;> decide

theorem leastOf_le_greatestOf (ty : Fmt) : leastOf ty ≤ greatestOf ty := by
  cases ty <;> decide

/-- The model's clamp is sat() of R26, and it says whether the value changed. -/
theorem clampInt_eq {ty : Fmt} (h : ty.isInt = true) (x : Int) : clampInt ty x = (clamped ty x, clamped ty x != x) := by
  have hle := leastOf_le_greatestOf ty
  simp only [clampInt, intRange_eq h]
  split
  · have hc : clamped ty x = leastOf ty := by simp only [clamped]; omega
    rw [hc, bne_iff_ne.mpr (by omega)]
  · split
    · have hc : clamped ty x = greatestOf ty := by simp only [clamped]; omega
      rw [hc, bne_iff_ne.mpr (by omega)]
    · have hc : clamped ty x = x := by simp only [clamped]; omega
      rw [hc, bne_self_eq_false]

theorem ofNat_toNat_emod {m : Int} (hm : 0 < m) (y : Int) : BitVec.ofNat 64 (y % m).toNat = BitVec.ofInt 64 (y % m) := by
  rw [← BitVec.ofInt_natCast, Int.toNat_of_nonneg (Int.emod_nonneg y (Int.ne_of_gt hm))]

theorem putInt_code {ty : Fmt} (h : ty.isInt = true) (sat : Bool) (x : Int) :
    BitVec.ofNat 64 (putInt ty sat x).1 = narrowed ty sat x := by
  have hpos : 0 < greatestOf ty - leastOf ty + 1 := by have := leastOf_le_greatestOf ty; omega
  cases sat <;> simp only [putInt, narrowed, clampInt_eq h, two_pow_intWidth h, Bool.false_eq_true, if_true, if_false]
  · exact ofNat_toNat_emod hpos x
  · exact ofNat_toNat_emod hpos (clamped ty x)

theorem putInt_flags {ty : Fmt} (h : ty.isInt = true) (sat : Bool) (x : Int) : (putInt ty sat x).2 = overflowed ty sat x := by
  cases sat
  · rfl
  · simp only [putInt, overflowed, clampInt_eq h, if_true, Bool.true_and]; rfl

/-! The effect of R332. -/

theorem intLanes_eq_written {ty : Fmt} (h : ty.isInt = true) (v : View) (s : State) (sat : Bool) (d : Operand) (f : Nat → Int) :
    intLanes v s ty sat d f =
      written s v ty.is64 d (fun l => narrowed ty sat (f l)) (fun l => overflowed ty sat (f l)) :=
  perLane_eq_written (fun l => putInt_code h sat (f l)) fun l => putInt_flags h sat (f l)

theorem intLanes_eq_writtenPlain (v : View) (s : State) (d : Operand) (f : Nat → Int) :
    intLanes v s .n32 false d f = writtenPlain s v false d fun l => BitVec.ofInt 64 (f l % 2 ^ 32) :=
  intLanes_eq_written (ty := .n32) rfl v s false d f

/-! Sources read as integers. -/

/-- A signed format reads a code as the two's complement number of its bits (R26). -/
theorem intValue_toNat_eq_toInt {ty : Fmt} (h : Machine.Fmt.signed ty = true) {w : Nat} (hw : intWidth ty = w) (x : BitVec w) :
    intValue ty x.toNat = x.toInt := by
  subst hw
  have hpos : 0 < intWidth ty := by cases ty <;> decide
  have hpow : 2 * 2 ^ (intWidth ty - 1) = 2 ^ intWidth ty := by rw [← Nat.pow_succ']; congr 1; omega
  have hlt := x.isLt
  simp only [intValue, h, Nat.mod_eq_of_lt x.isLt, BitVec.toInt, Bool.true_and, decide_eq_true_eq]
  split <;> split <;> omega

theorem rdInt_i32 (v : View) (o : Operand) (l : Nat) : v.rdInt .i32 o l = (v.rd o l).toInt := by
  rw [← intValue_toNat_eq_toInt (ty := .i32) rfl (w := 32) rfl, View.rdInt]
  simp only [View.rdW, Fmt.is64, Bool.false_eq_true, if_false, BitVec.toNat_setWidth_of_le (by decide : 32 ≤ 64)]

theorem rdInt_i64 (v : View) (o : Operand) (l : Nat) : v.rdInt .i64 o l = (v.rd64 o l).toInt :=
  intValue_toNat_eq_toInt (ty := .i64) rfl rfl _

/-! The instructions. -/

theorem natAbs_eq_ite (x : Int) : (x.natAbs : Int) = if x < 0 then -x else x := by
  split <;> omega

theorem packedDot_eq_foldl (w n : Nat) (sa sb : Bool) (a b : Word) (x : Int) : packedDot w n sa sb a b x =
    ((List.range n).map fun k => (if sa then (a.extractLsb' (w * k) w).toInt else (a.extractLsb' (w * k) w).toNat) *
      (if sb then (b.extractLsb' (w * k) w).toInt else (b.extractLsb' (w * k) w).toNat)).foldl (· + ·) x := by
  rw [packedDot, List.foldl_map]

/-- Every instruction of the family is the effect of R332 on its exact integer. -/
theorem exec_of_integerOp {i : Instr} {c : Ctl} {ty : Fmt} {sat : Bool} {d : Operand} {f : View → Nat → Int}
    (h : integerOp i = some (c, ty, sat, d, f)) (s : State) :
    exec i s = run i c s fun v u => .done (intLanes v u ty sat d (f v)) := by
  cases i with
  | iadd | isub | imul | imulh | imad | ineg | imin | imax | iclamp | iaddi | imuli | cvti => cases h; rfl
  | imadw => cases h; simp only [← rdInt_i64]; rfl
  | iabs => cases h; simp only [← natAbs_eq_ite]; rfl
  | sar _ w64 =>
    cases h
    cases w64
    · simp only [← rdInt_i32, Bool.false_eq_true, if_false]; rfl
    · simp only [← rdInt_i64, if_true]; rfl
  | idp4 => cases h; simp only [← rdInt_i32]; rfl
  | idp8 => cases h; simp only [← rdInt_i32, ← packedDot_eq_foldl]; rfl
  | _ => cases h

theorem isInt_of_isWordInt {ty : Fmt} (h : ty.isWordInt = true) : ty.isInt = true := by
  revert h; cases ty <;> decide

theorem isInt_of_is32Int {ty : Fmt} (h : ty.is32Int = true) : ty.isInt = true := by
  revert h; cases ty <;> decide

theorem combOk_of_wf {i : Instr} (h : i.wf = true) : i.combOk = true := by
  rw [Instr.wf, Bool.and_eq_true] at h
  exact h.2

/-- The type an instruction of the family computes in is an integer format (R332, R376). -/
theorem isInt_of_integerOp {i : Instr} {c : Ctl} {ty : Fmt} {sat : Bool} {d : Operand} {f : View → Nat → Int}
    (h : integerOp i = some (c, ty, sat, d, f)) (hwf : i.wf = true) : ty.isInt = true := by
  have hcomb := combOk_of_wf hwf
  cases i with
  | iadd | isub | imul | iaddi | imuli => cases h; exact isInt_of_isWordInt hcomb
  | imad => cases h; exact isInt_of_is32Int hcomb
  | imulh => cases h; exact isInt_of_is32Int (Bool.and_eq_true_iff.mp hcomb).1
  | imin | imax | iclamp => cases h; exact isInt_of_isWordInt (Bool.and_eq_true_iff.mp hcomb).1
  | iabs | ineg =>
    cases h
    rcases Bool.or_eq_true_iff.mp hcomb with he | he
    · rw [eq_of_beq he]; rfl
    · rw [eq_of_beq he]; rfl
  | cvti => cases h; exact (Bool.and_eq_true_iff.mp hcomb).1
  | sar _ w64 => cases h; cases w64 <;> rfl
  | imadw | idp4 | idp8 => cases h; rfl
  | _ => cases h

/-- Settles O11: the table of exact integers is what the model computes, and IADDW and ISUBW add their predicate. -/
theorem integerArithmetic : Obligations.IntegerArithmetic := by
  refine ⟨fun i c ty sat d f s hop hwf hready => ?table, fun c ty sat d a b e s hready => ?iaddw,
    fun c ty sat d a b e s hready => ?isubw⟩
  case table =>
    rw [← intLanes_eq_written (isInt_of_integerOp hop hwf)]
    exact finishes_of_run (exec_of_integerOp hop s) hready rfl
  case iaddw =>
    rw [← bitLanes_eq_writtenPlain]
    exact finishes_of_run (c := c) rfl hready rfl
  case isubw =>
    rw [← intLanes_eq_writtenPlain]
    exact finishes_of_run (c := c) rfl hready rfl

end Sys2Proof.Proofs
end

section
/-! PROOFS. Logic, moves and bit operations (R348 to R375, R409, R413): the model computes on bit vectors, the statements on
numbers or bit by bit. -/
namespace Sys2Proof.Proofs

open Sys2Proof Sys2Proof.Machine Sys2Proof.Claims

/-! Logic and moves. -/

/-- Settles O12: each bit of the model's word is the rule's bit. -/
theorem bitwiseLogicAndMoves : Obligations.BitwiseLogicAndMoves := by
  intro c w64 d a b e s
  refine ⟨finishes_bitLanes rfl fun l k _ => ?and, finishes_bitLanes rfl fun l k _ => ?or, finishes_bitLanes rfl fun l k _ => ?xor,
    finishes_bitLanes rfl fun l k hk => ?andn, finishes_bitLanes rfl fun l k _ => ?sel, finishes_bitLanes rfl fun l k _ => ?mov⟩
  case and => exact BitVec.getLsbD_and
  case or => exact BitVec.getLsbD_or
  case xor => exact BitVec.getLsbD_xor
  case andn => rw [BitVec.getLsbD_and, BitVec.getLsbD_not, decide_eq_true (lt_64_of_lt_width hk), Bool.true_and]
  case sel => exact apply_ite (BitVec.getLsbD · k) _ _ _
  case mov => rfl

/-! Numbers and bits. -/

/-- A number put together bit by bit has those bits. -/
theorem testBit_foldr_range (p : Nat → Bool) (n k : Nat) :
    ((List.range n).foldr (fun i acc => 2 * acc + (p i).toNat) 0).testBit k = (decide (k < n) && p k) := by
  induction n generalizing p k with
  | zero => simp
  | succ n ih =>
    rw [List.range_succ_eq_map, List.foldr_cons, List.foldr_map]
    have hlow : (p 0).toNat < 2 ^ 1 := Bool.toNat_lt _
    rw [← Nat.pow_one 2, Nat.testBit_two_pow_mul_add _ hlow]
    cases k with
    | zero => cases p 0 <;> simp
    | succ k => simpa using ih (p ∘ Nat.succ) k

/-- Bit k of TRI's word is the table's bit for bit k of each source (R353). -/
theorem getLsbD_triWord (tt : BitVec 8) (a b e : Word) {k : Nat} (hk : k < 32) :
    (triWord tt a b e).getLsbD k = truth tt (a.getLsbD k) (b.getLsbD k) (e.getLsbD k) := by
  simp only [triWord, BitVec.getLsbD_ofNat, testBit_foldr_range, hk, decide_true, Bool.true_and]

theorem shiftLeft_eq_ofNat {w : Nat} (x : BitVec w) (n : Nat) : x <<< n = BitVec.ofNat w (x.toNat * 2 ^ n) := by
  apply BitVec.eq_of_toNat_eq
  simp [Nat.shiftLeft_eq]

theorem ushiftRight_eq_ofNat {w : Nat} (x : BitVec w) (n : Nat) : x >>> n = BitVec.ofNat w (x.toNat / 2 ^ n) := by
  apply BitVec.eq_of_toNat_eq
  have := Nat.div_le_self x.toNat (2 ^ n)
  simp [Nat.shiftRight_eq_div_pow, Nat.mod_eq_of_lt (Nat.lt_of_le_of_lt this x.isLt)]

theorem toNat_append_words (a b : Word) : (b ++ a).toNat = b.toNat * 2 ^ 32 + a.toNat := by
  rw [BitVec.toNat_append, ← Nat.shiftLeft_add_eq_or_of_lt a.isLt, Nat.shiftLeft_eq]

/-- FUNSH to the left: the high word of the pair shifted left (R362). -/
theorem funnelLeft_eq_ofNat (y : DWord) (n : Nat) : (y <<< n) >>> 32 = BitVec.ofNat 64 (y.toNat * 2 ^ n / 2 ^ 32 % 2 ^ 32) := by
  rw [shiftLeft_eq_ofNat, ushiftRight_eq_ofNat, BitVec.toNat_ofNat]
  congr 1
  omega

/-- FUNSH to the right: the low word of the pair shifted right (R362). -/
theorem funnelRight_low (y : DWord) (n : Nat) :
    (y >>> n).setWidth 32 = (BitVec.ofNat 64 (y.toNat / 2 ^ n % 2 ^ 32)).setWidth 32 := by
  apply BitVec.eq_of_toNat_eq
  simp [Nat.shiftRight_eq_div_pow]

theorem rdW_getLsbD_of_ge {w64 : Bool} {k : Nat} (v : View) (a : Operand) (l : Nat) (h : (if w64 then 64 else 32) ≤ k) :
    (v.rdW w64 a l).getLsbD k = false := by
  cases w64
  · simp only [View.rdW, Bool.false_eq_true, if_false, BitVec.getLsbD_setWidth] at h ⊢
    rw [BitVec.getLsbD_of_ge _ _ h, Bool.and_false]
  · exact BitVec.getLsbD_of_ge _ _ h

theorem toNat_rdW_lt (v : View) (w64 : Bool) (a : Operand) (l : Nat) : (v.rdW w64 a l).toNat < 2 ^ (if w64 then 64 else 32) := by
  cases w64
  · simp only [View.rdW, Bool.false_eq_true, if_false, BitVec.toNat_setWidth_of_le (by decide : 32 ≤ 64)]
    exact (v.rd a l).isLt
  · exact BitVec.isLt _

theorem getLsbD_reverse_of_lt {w k : Nat} (x : BitVec w) (hk : k < w) : x.reverse.getLsbD k = x.getLsbD (w - 1 - k) := by
  rw [BitVec.getLsbD_reverse, BitVec.getMsbD, decide_eq_true hk, Bool.true_and]

theorem getLsbD_brev (v : View) (w64 : Bool) (a : Operand) (l : Nat) {k : Nat} (hk : k < (if w64 then 64 else 32)) :
    (if w64 then (v.rd64 a l).reverse else (v.rd a l).reverse.setWidth 64).getLsbD k =
      (v.rdW w64 a l).getLsbD ((if w64 then 64 else 32) - 1 - k) := by
  cases w64
  · have h32 : k < 32 := hk
    simp only [View.rdW, Bool.false_eq_true, if_false, BitVec.getLsbD_setWidth, getLsbD_reverse_of_lt _ h32,
      decide_eq_true (show k < 64 by omega), decide_eq_true (show 32 - 1 - k < 64 by omega)]
  · exact getLsbD_reverse_of_lt _ hk

/-- The one bits of a value are among its low bits when the others are zero. -/
theorem popCount_eq_countP {w n : Nat} (x : BitVec w) (hn : n ≤ w) (hx : ∀ k, n ≤ k → x.getLsbD k = false) :
    popCount x = (List.range n).countP fun i => x.getLsbD i := by
  obtain ⟨m, rfl⟩ := Nat.exists_eq_add_of_le hn
  rw [popCount, List.range_add, List.countP_append, List.countP_map]
  simp [hx, Function.comp_def]

/-- The leading zeros of a value of a width: the first one bit from the top (R364). -/
theorem width_sub_bitLen_eq_find {w n : Nat} (x : BitVec w) (hx : x.toNat < 2 ^ n) :
    n - bitLen x.toNat = ((List.range n).find? fun k => x.getLsbD (n - 1 - k)).getD n := by
  simp only [BitVec.getLsbD]
  generalize x.toNat = m at hx
  by_cases hm : m = 0
  · subst hm
    have hnone : ((List.range n).find? fun k => Nat.testBit 0 (n - 1 - k)) = none := by simp
    rw [hnone, bitLen, if_pos rfl, Option.getD_none, Nat.sub_zero]
  · have hlog : m.log2 < n := (Nat.log2_lt hm).mpr hx
    have hfind : ((List.range n).find? fun k => m.testBit (n - 1 - k)) = some (n - 1 - m.log2) := by
      rw [List.find?_range_eq_some]
      refine ⟨?_, List.mem_range.mpr (by omega), fun j hj => ?_⟩
      · rw [show n - 1 - (n - 1 - m.log2) = m.log2 by omega]
        exact Nat.testBit_log2 hm
      · have hlt : m < 2 ^ (n - 1 - j) := Nat.lt_of_lt_of_le Nat.lt_log2_self (Nat.pow_le_pow_right (by decide) (by omega))
        rw [Nat.testBit_lt_two_pow hlt, Bool.not_false]
    rw [hfind, bitLen, if_neg hm, Option.getD_some]
    omega

/-- Bit k of a number with a field of another: the field's bits in its place, the number's own elsewhere. -/
theorem testBit_insertField (a b p n k : Nat) :
    (b % 2 ^ p + a % 2 ^ n * 2 ^ p + b / 2 ^ (p + n) * 2 ^ (p + n)).testBit k =
      if p ≤ k ∧ k < p + n then a.testBit (k - p) else b.testBit k := by
  have hfield : a % 2 ^ n < 2 ^ n := Nat.mod_lt _ (Nat.two_pow_pos n)
  have hlow : b % 2 ^ p < 2 ^ p := Nat.mod_lt _ (Nat.two_pow_pos p)
  have hsum : b % 2 ^ p + a % 2 ^ n * 2 ^ p + b / 2 ^ (p + n) * 2 ^ (p + n) =
      2 ^ p * (2 ^ n * (b / 2 ^ (p + n)) + a % 2 ^ n) + b % 2 ^ p := by
    rw [Nat.pow_add, Nat.mul_add, Nat.mul_comm (a % 2 ^ n), Nat.mul_comm (b / _), Nat.mul_assoc]
    omega
  rw [hsum, Nat.testBit_two_pow_mul_add _ hlow, Nat.testBit_two_pow_mul_add _ hfield]
  by_cases hp : k < p
  · simp [hp, show ¬ p ≤ k by omega]
  · by_cases hn : k < p + n
    · simp [hp, hn, show p ≤ k by omega, show k - p < n by omega]
    · simp [hp, hn, show ¬ k - p < n by omega, Nat.testBit_div_two_pow, show k - p - n + (p + n) = k by omega]

/-- A word with a field of another, through the mask of the field (R368, R409). -/
theorem insertField_eq_ofNat (a b : Word) {p n : Nat} (h : n = 0 ∨ p + n ≤ 32) :
    ((b &&& ~~~(BitVec.ofNat 32 ((2 ^ n - 1) * 2 ^ p))) ||| (a <<< p &&& BitVec.ofNat 32 ((2 ^ n - 1) * 2 ^ p))).setWidth 64 =
      BitVec.ofNat 64 (b.toNat % 2 ^ p + a.toNat % 2 ^ n * 2 ^ p + b.toNat / 2 ^ (p + n) * 2 ^ (p + n)) := by
  have hmask : ∀ k, (BitVec.ofNat 32 ((2 ^ n - 1) * 2 ^ p)).getLsbD k = decide (p ≤ k ∧ k < p + n) := by
    intro k
    simp only [BitVec.getLsbD_ofNat, Nat.testBit_mul_two_pow, Nat.testBit_two_pow_sub_one, ← Bool.decide_and, decide_eq_decide]
    omega
  refine BitVec.eq_of_getLsbD_eq fun k hk => ?_
  simp only [BitVec.getLsbD_ofNat, testBit_insertField, BitVec.getLsbD_setWidth, BitVec.getLsbD_or, BitVec.getLsbD_and,
    BitVec.getLsbD_not, BitVec.getLsbD_shiftLeft, hmask, hk, decide_true, Bool.true_and]
  by_cases hin : p ≤ k ∧ k < p + n
  · have h32 : k < 32 := by omega
    simp [hin, h32, BitVec.getLsbD]
  · by_cases h32 : k < 32
    · simp [hin, h32, BitVec.getLsbD]
    · simp [hin, h32, BitVec.testBit_toNat, BitVec.getLsbD_of_ge b k (by omega)]

theorem ofInt_emod_eq_setWidth (z : Int) : BitVec.ofInt 64 (z % 2 ^ 32) = (BitVec.ofInt 32 z).setWidth 64 := by
  apply BitVec.eq_of_toNat_eq
  simp only [BitVec.toNat_ofInt, BitVec.toNat_setWidth]
  omega

/-- A field's number as two's complement. -/
theorem toInt_ofNat_eq_ite {n x : Nat} (hn : n ≠ 0) (hx : x < 2 ^ n) :
    (BitVec.ofNat n x).toInt = if x.testBit (n - 1) then (x : Int) - 2 ^ n else x := by
  rw [BitVec.toInt_eq_msb_cond, BitVec.msb_eq_getLsbD_last, BitVec.getLsbD_ofNat, BitVec.toNat_ofNat, Nat.mod_eq_of_lt hx,
    decide_eq_true (by omega), Bool.true_and]
  norm_cast

/-- A field of n bits, its sign extended or not (R367). -/
theorem extendField_eq (sx : Bool) {n x : Nat} (hn : n ≤ 32) (hx : x < 2 ^ n) :
    BitVec.ofInt 64 ((if n = 0 then 0 else if sx && x.testBit (n - 1) then (x : Int) - 2 ^ n else x) % 2 ^ 32) =
      if n = 0 then 0 else if sx then ((BitVec.ofNat n x).signExtend 32).setWidth 64 else BitVec.ofNat 64 x := by
  by_cases h0 : n = 0
  · simp [h0]
  · cases sx
    · have hlt : x < 2 ^ 32 := Nat.lt_of_lt_of_le hx (Nat.pow_le_pow_right (by decide) hn)
      simp only [h0, if_false, Bool.false_and, Bool.false_eq_true]
      rw [Int.emod_eq_of_lt (by omega) (by omega), BitVec.ofInt_natCast]
    · simp only [h0, if_false, Bool.true_and, if_true]
      rw [← toInt_ofNat_eq_ite h0 hx, ofInt_emod_eq_setWidth, BitVec.signExtend]

/-- LEA's sum wraps at 32 bits (R374). -/
theorem setWidth_lea (a b : Word) (n : Nat) :
    (a + b <<< n).setWidth 64 = BitVec.ofNat 64 ((a.toNat + b.toNat * 2 ^ n) % 2 ^ 32) := by
  apply BitVec.eq_of_toNat_eq
  simp [Nat.shiftLeft_eq]

/-- LEAW's sum is that of the numbers, modulo 2^64 (R375). -/
theorem add_signExtend_shiftLeft (a : DWord) (b : Word) (n : Nat) :
    a + b.signExtend 64 <<< n = BitVec.ofInt 64 (a.toInt + b.toInt * 2 ^ n) := by
  have hpow : BitVec.ofInt 64 (2 ^ n) = BitVec.twoPow 64 n := by
    apply BitVec.eq_of_toNat_eq
    rw [BitVec.toNat_twoPow, ← BitVec.toNat_ofNat, ← BitVec.ofInt_natCast, Int.natCast_pow, Int.cast_ofNat_Int]
  rw [BitVec.ofInt_add, BitVec.ofInt_toInt, BitVec.ofInt_mul, BitVec.signExtend, BitVec.shiftLeft_eq_mul_twoPow, hpow]

/-! The instructions whose result is one value per lane. -/

/-- An instruction's effect may be replaced by an equal one. -/
theorem exec_done_congr {i : Instr} {c : Ctl} {s : State} {p q : View → State → State}
    (hrun : exec i s = run i c s fun v u => .done (p v u)) (h : ∀ v u, p v u = q v u) :
    exec i s = run i c s fun v u => .done (q v u) := by
  simpa only [h] using hrun

/-- An instruction done with bit results is done with any values equal to them. -/
theorem exec_eq_writtenPlain {i : Instr} {c : Ctl} {s : State} {w64 : Bool} {d : Operand} {g f : View → Nat → DWord}
    (hrun : exec i s = run i c s fun v u => .done (bitLanes v u w64 d (g v))) (hval : ∀ v l, g v l = f v l) :
    exec i s = run i c s fun v u => .done (writtenPlain u v w64 d (f v)) :=
  exec_done_congr hrun fun _ _ => (bitLanes_eq_writtenPlain ..).trans (congrArg _ (funext (hval _)))

/-- Of a 32-bit result only the low words matter. -/
theorem exec_eq_writtenPlain_of_low {i : Instr} {c : Ctl} {s : State} {d : Operand} {g f : View → Nat → DWord}
    (hrun : exec i s = run i c s fun v u => .done (bitLanes v u false d (g v)))
    (hval : ∀ v l, (g v l).setWidth 32 = (f v l).setWidth 32) :
    exec i s = run i c s fun v u => .done (writtenPlain u v false d (f v)) :=
  exec_done_congr hrun fun _ _ => (bitLanes_eq_writtenPlain ..).trans (written_congr_low (hval _))

/-- An instruction done with wrapped 32-bit integers is done with any values equal to them. -/
theorem exec_eq_writtenPlain_of_int {i : Instr} {c : Ctl} {s : State} {d : Operand} {g : View → Nat → Int} {f : View → Nat → DWord}
    (hrun : exec i s = run i c s fun v u => .done (intLanes v u .n32 false d (g v)))
    (hval : ∀ v l, BitVec.ofInt 64 (g v l % 2 ^ 32) = f v l) :
    exec i s = run i c s fun v u => .done (writtenPlain u v false d (f v)) :=
  exec_done_congr hrun fun _ _ => (intLanes_eq_writtenPlain ..).trans (congrArg _ (funext (hval _)))

theorem fieldLen_le (p n : Nat) : fieldLen p n ≤ 32 := by
  simp only [fieldLen]; split <;> omega

/-- A clipped field ends within the word, or is empty (R367). -/
theorem fieldLen_fits (p n : Nat) : fieldLen p n = 0 ∨ p + fieldLen p n ≤ 32 := by
  simp only [fieldLen]; split <;> omega

/-- The element PACK writes lies within the word (R409). -/
theorem packField_fits {ty : Fmt} {pos : Nat} (h : pos < 32 / ty.width) : ty.width * pos + ty.width ≤ 32 := by
  rw [← Nat.mul_succ]
  exact Nat.le_trans (Nat.mul_le_mul_left _ h) (Nat.mul_div_le 32 ty.width)

/-- Every instruction of the table writes the result of its rule. -/
theorem exec_of_bitOp {i : Instr} {c : Ctl} {w64 : Bool} {d : Operand} {f : View → Nat → DWord}
    (h : bitOp i = some (c, w64, d, f)) (hwf : i.wf = true) (s : State) :
    exec i s = run i c s fun v u => .done (writtenPlain u v w64 d (f v)) := by
  cases i with
  | shl => cases h; exact exec_eq_writtenPlain rfl fun v l => shiftLeft_eq_ofNat _ _
  | shr => cases h; exact exec_eq_writtenPlain rfl fun v l => ushiftRight_eq_ofNat _ _
  | rotl _ w64 =>
    cases h
    refine exec_eq_writtenPlain rfl fun v l => ?_
    simp only [BitVec.rotateLeft_mod_eq_rotateLeft]
  | funsh _ _ right =>
    cases h
    cases right
    · refine exec_eq_writtenPlain rfl fun v l => ?_
      simp only [Bool.false_eq_true, if_false, ← toNat_append_words]
      exact funnelLeft_eq_ofNat _ _
    · refine exec_eq_writtenPlain_of_low rfl fun v l => ?_
      simp only [if_true, BitVec.setWidth_eq, ← toNat_append_words]
      exact funnelRight_low _ _
  | popc _ w64 =>
    cases h
    refine exec_eq_writtenPlain rfl fun v l => ?_
    rw [popCount_eq_countP _ (by split <;> decide) fun k => rdW_getLsbD_of_ge v _ l]
  | clz _ w64 =>
    cases h
    refine exec_eq_writtenPlain rfl fun v l => ?_
    rw [opWidth, width_sub_bitLen_eq_find _ (toNat_rdW_lt v w64 _ l)]
  | ffs | andi | ori | xori => cases h; exact exec_eq_writtenPlain rfl fun v l => rfl
  | bfx =>
    cases h
    exact exec_eq_writtenPlain_of_int rfl fun v l => extendField_eq _ (fieldLen_le _ _) (Nat.mod_lt _ (Nat.two_pow_pos _))
  | bfi =>
    cases h
    exact exec_eq_writtenPlain rfl fun v l => insertField_eq_ofNat _ _ (fieldLen_fits _ _)
  | movi => cases h; exact exec_eq_writtenPlain rfl fun v l => (BitVec.ofNat_toNat ..).symm
  | lea => cases h; exact exec_eq_writtenPlain rfl fun v l => setWidth_lea _ _ _
  | leaw => cases h; exact exec_eq_writtenPlain rfl fun v l => add_signExtend_shiftLeft _ _ _
  | pack _ ty pos =>
    cases h
    have hpos : pos.toNat < 32 / ty.width := of_decide_eq_true (Bool.and_eq_true_iff.mp (combOk_of_wf hwf)).2
    exact exec_eq_writtenPlain rfl fun v l => insertField_eq_ofNat _ _ (.inr (packField_fits hpos))
  | _ => cases h

/-- Settles O13: TRI and BREV bit by bit, PLOP by its table, and the others by the value each writes. -/
theorem bitOperations : Obligations.BitOperations := by
  refine ⟨fun c tt d a b e s hready => ?tri, fun c tt d a b e s hready => ?plop, fun c w64 d a s hready => ?brev,
    fun i c w64 d f s hop hwf hready => ?others⟩
  case tri =>
    refine finishes_bitLanes (w64 := false) rfl (fun l k hk => ?_) hready
    have h32 : k < 32 := hk
    rw [BitVec.getLsbD_setWidth, decide_eq_true (by omega), Bool.true_and, getLsbD_triWord _ _ _ _ h32, truth]
  case plop => exact finishes_of_run (c := c) rfl hready rfl
  case brev => exact finishes_bitLanes rfl (fun l k hk => getLsbD_brev _ w64 a l hk) hready
  case others => exact finishes_of_run (exec_of_bitOp hop hwf s) hready rfl

end Sys2Proof.Proofs
end

section
/-! PROOFS. General facts about conditionals, equality tests and lists that the proofs below use. -/
namespace Sys2Proof.Proofs

/-- A conditional with an equivalent condition and equal branches. -/
theorem ite_of_iff {α : Sort _} {p q : Prop} [Decidable p] [Decidable q] {x y u v : α} (h : p ↔ q) (hx : x = u) (hy : y = v) :
    (if p then x else y) = if q then u else v := by
  subst hx hy
  by_cases hp : p
  · rw [if_pos hp, if_pos (h.mp hp)]
  · rw [if_neg hp, if_neg fun hq => hp (h.mpr hq)]

/-- The Boolean test of equality is its decision. -/
theorem beq_decide {α : Type _} [DecidableEq α] [BEq α] [LawfulBEq α] (x y : α) : (x == y) = decide (x = y) := by
  by_cases h : x = y
  · rw [decide_eq_true h, beq_iff_eq.mpr h]
  · rw [decide_eq_false h, beq_eq_false_iff_ne.mpr h]

theorem find?_congr {α : Type _} {f g : α → Bool} {xs : List α} (h : ∀ x ∈ xs, f x = g x) : xs.find? f = xs.find? g := by
  induction xs with
  | nil => rfl
  | cons x xs ih =>
    rw [List.find?_cons, List.find?_cons, h x List.mem_cons_self, ih fun y hy => h y (List.mem_cons_of_mem _ hy)]

/-- Induction on a list from its last element. -/
theorem snoc_induction {α : Type _} {motive : List α → Prop} (nil : motive []) (snoc : ∀ xs x, motive xs → motive (xs ++ [x]))
    (xs : List α) : motive xs := by
  rw [← List.reverse_reverse xs]
  induction xs.reverse with
  | nil => exact nil
  | cons x xs ih =>
    rw [List.reverse_cons]
    exact snoc _ x ih

theorem map_swap_zip {α β : Type _} (xs : List α) (ys : List β) : (xs.zip ys).map Prod.swap = ys.zip xs := by
  induction xs generalizing ys with
  | nil => rw [List.zip_nil_left, List.zip_nil_right, List.map_nil]
  | cons x xs ih =>
    cases ys with
    | nil => rw [List.zip_nil_left, List.zip_nil_right, List.map_nil]
    | cons y ys => exact congrArg (List.cons (y, x)) (ih ys)

theorem foldl_congr_mem {α β : Type _} {f g : α → β → α} {xs : List β} (h : ∀ a, ∀ x ∈ xs, f a x = g a x) (a : α) :
    xs.foldl f a = xs.foldl g a := by
  induction xs generalizing a with
  | nil => rfl
  | cons x xs ih =>
    rw [List.foldl_cons, List.foldl_cons, h a x List.mem_cons_self]
    exact ih (fun b y hy => h b y (List.mem_cons_of_mem _ hy)) _

end Sys2Proof.Proofs
end

section
/-! PROOFS. Words and instructions (O1): the fields of every encoded instruction read back as the instruction, and a word holds
its fields. -/
namespace Sys2Proof.Proofs
set_option Elab.async false

open Sys2Proof Sys2Proof.Laws

/-- The fields of every encoded instruction read back as it: its own lemma of `EncodedForm`. -/
theorem encodedForm (i : Instr) : EncodedForm.Statement i := by
  cases i with
  | iadd => apply EncodedForm.iadd
  | isub => apply EncodedForm.isub
  | imul => apply EncodedForm.imul
  | imulh => apply EncodedForm.imulh
  | imad => apply EncodedForm.imad
  | imadw => apply EncodedForm.imadw
  | iaddw => apply EncodedForm.iaddw
  | isubw => apply EncodedForm.isubw
  | iabs => apply EncodedForm.iabs
  | ineg => apply EncodedForm.ineg
  | imin => apply EncodedForm.imin
  | imax => apply EncodedForm.imax
  | iclamp => apply EncodedForm.iclamp
  | iand => apply EncodedForm.iand
  | ior => apply EncodedForm.ior
  | ixor => apply EncodedForm.ixor
  | andn => apply EncodedForm.andn
  | tri => apply EncodedForm.tri
  | shl => apply EncodedForm.shl
  | shr => apply EncodedForm.shr
  | sar => apply EncodedForm.sar
  | rotl => apply EncodedForm.rotl
  | funsh => apply EncodedForm.funsh
  | popc => apply EncodedForm.popc
  | clz => apply EncodedForm.clz
  | ffs => apply EncodedForm.ffs
  | brev => apply EncodedForm.brev
  | bfx => apply EncodedForm.bfx
  | bfi => apply EncodedForm.bfi
  | icmp => apply EncodedForm.icmp
  | sel => apply EncodedForm.sel
  | mov => apply EncodedForm.mov
  | movi => apply EncodedForm.movi
  | iaddi => apply EncodedForm.iaddi
  | imuli => apply EncodedForm.imuli
  | andi => apply EncodedForm.andi
  | ori => apply EncodedForm.ori
  | xori => apply EncodedForm.xori
  | icmpi => apply EncodedForm.icmpi
  | lea => apply EncodedForm.lea
  | leaw => apply EncodedForm.leaw
  | cvti => apply EncodedForm.cvti
  | idp4 => apply EncodedForm.idp4
  | idp8 => apply EncodedForm.idp8
  | fadd => apply EncodedForm.fadd
  | fsub => apply EncodedForm.fsub
  | fmul => apply EncodedForm.fmul
  | ffma => apply EncodedForm.ffma
  | fmin => apply EncodedForm.fmin
  | fmax => apply EncodedForm.fmax
  | fcmp => apply EncodedForm.fcmp
  | fclass => apply EncodedForm.fclass
  | frnd => apply EncodedForm.frnd
  | fcvt => apply EncodedForm.fcvt
  | ftoi => apply EncodedForm.ftoi
  | itof => apply EncodedForm.itof
  | fscale => apply EncodedForm.fscale
  | frcp => apply EncodedForm.frcp
  | frsq => apply EncodedForm.frsq
  | fsqrt => apply EncodedForm.fsqrt
  | fex2 => apply EncodedForm.fex2
  | flg2 => apply EncodedForm.flg2
  | fsin => apply EncodedForm.fsin
  | fcos => apply EncodedForm.fcos
  | ftanh => apply EncodedForm.ftanh
  | hadd2 => apply EncodedForm.hadd2
  | hmul2 => apply EncodedForm.hmul2
  | hfma2 => apply EncodedForm.hfma2
  | hmin2 => apply EncodedForm.hmin2
  | hmax2 => apply EncodedForm.hmax2
  | pack => apply EncodedForm.pack
  | unpack => apply EncodedForm.unpack
  | fdot2 => apply EncodedForm.fdot2
  | fstat => apply EncodedForm.fstat
  | plop => apply EncodedForm.plop
  | pmov => apply EncodedForm.pmov
  | vote => apply EncodedForm.vote
  | elect => apply EncodedForm.elect
  | shfl => apply EncodedForm.shfl
  | perm => apply EncodedForm.perm
  | bcast => apply EncodedForm.bcast
  | lred => apply EncodedForm.lred
  | lscan => apply EncodedForm.lscan
  | matchL => apply EncodedForm.matchL
  | ld => apply EncodedForm.ld
  | st => apply EncodedForm.st
  | ldMd => apply EncodedForm.ldMd
  | stMd => apply EncodedForm.stMd
  | lds => apply EncodedForm.lds
  | sts => apply EncodedForm.sts
  | ldt => apply EncodedForm.ldt
  | ldtk => apply EncodedForm.ldtk
  | stt => apply EncodedForm.stt
  | sttf => apply EncodedForm.sttf
  | tagRd => apply EncodedForm.tagRd
  | tagClr => apply EncodedForm.tagClr
  | phase => apply EncodedForm.phase
  | scfence => apply EncodedForm.scfence
  | atom => apply EncodedForm.atom
  | acas => apply EncodedForm.acas
  | lr => apply EncodedForm.lr
  | sc => apply EncodedForm.sc
  | hwait => apply EncodedForm.hwait
  | htest => apply EncodedForm.htest
  | hcancel => apply EncodedForm.hcancel
  | hmov => apply EncodedForm.hmov
  | hprom => apply EncodedForm.hprom
  | bcbInit => apply EncodedForm.bcbInit
  | bcbExp => apply EncodedForm.bcbExp
  | bcbArr => apply EncodedForm.bcbArr
  | bcbWait => apply EncodedForm.bcbWait
  | bcbTest => apply EncodedForm.bcbTest
  | tidLd => apply EncodedForm.tidLd
  | tidInv => apply EncodedForm.tidInv
  | gang => apply EncodedForm.gang
  | cbLd => apply EncodedForm.cbLd
  | mma => apply EncodedForm.mma
  | mmaSp => apply EncodedForm.mmaSp
  | mmaQ => apply EncodedForm.mmaQ
  | accZero => apply EncodedForm.accZero
  | accLd => apply EncodedForm.accLd
  | accSt => apply EncodedForm.accSt
  | accGet => apply EncodedForm.accGet
  | accPut => apply EncodedForm.accPut
  | tmv => apply EncodedForm.tmv
  | fireRd => apply EncodedForm.fireRd
  | smp => apply EncodedForm.smp
  | smpc => apply EncodedForm.smpc
  | tld => apply EncodedForm.tld
  | resQ => apply EncodedForm.resQ
  | vbary => apply EncodedForm.vbary
  | vsplit => apply EncodedForm.vsplit
  | vkill => apply EncodedForm.vkill
  | outc => apply EncodedForm.outc
  | outz => apply EncodedForm.outz
  | outv => apply EncodedForm.outv
  | recPush => apply EncodedForm.recPush
  | recPop => apply EncodedForm.recPop
  | recDone => apply EncodedForm.recDone
  | bra => apply EncodedForm.bra
  | br => apply EncodedForm.br
  | brx => apply EncodedForm.brx
  | call => apply EncodedForm.call
  | callx => apply EncodedForm.callx
  | ret => apply EncodedForm.ret
  | reconv => apply EncodedForm.reconv
  | exit => apply EncodedForm.exit
  | yield => apply EncodedForm.yield
  | sleep => apply EncodedForm.sleep
  | sleepu => apply EncodedForm.sleepu
  | trap => apply EncodedForm.trap
  | bkpt => apply EncodedForm.bkpt
  | tret => apply EncodedForm.tret
  | cjoin => apply EncodedForm.cjoin
  | cleave => apply EncodedForm.cleave
  | cnew => apply EncodedForm.cnew
  | bar => apply EncodedForm.bar
  | barp => apply EncodedForm.barp
  | sluIn => apply EncodedForm.sluIn
  | sluOut => apply EncodedForm.sluOut
  | sluTry => apply EncodedForm.sluTry
  | vgrow => apply EncodedForm.vgrow
  | vshrink => apply EncodedForm.vshrink
  | launch => apply EncodedForm.launch
  | csrr => apply EncodedForm.csrr
  | csrw => apply EncodedForm.csrw
  | segLd => apply EncodedForm.segLd
  | tlbInv => apply EncodedForm.tlbInv
  | xcLoad => apply EncodedForm.xcLoad
  | xcStore => apply EncodedForm.xcStore
  | xcMcast => apply EncodedForm.xcMcast
  | xcGather => apply EncodedForm.xcGather
  | xcScatter => apply EncodedForm.xcScatter
  | xcFill => apply EncodedForm.xcFill
  | xcPeer => apply EncodedForm.xcPeer
  | xcCsum => apply EncodedForm.xcCsum
  | basAxpby => apply EncodedForm.basAxpby
  | basScal => apply EncodedForm.basScal
  | basSgd => apply EncodedForm.basSgd
  | basMom => apply EncodedForm.basMom
  | basSum => apply EncodedForm.basSum
  | basFill => apply EncodedForm.basFill
  | basCopy => apply EncodedForm.basCopy
  | basCvt => apply EncodedForm.basCvt
  | basStat => apply EncodedForm.basStat
  | tierCfg => apply EncodedForm.tierCfg
  | tierRank => apply EncodedForm.tierRank
  | tierMig => apply EncodedForm.tierMig
  | tierAge => apply EncodedForm.tierAge
  | tierPin => apply EncodedForm.tierPin
  | prsDraw => apply EncodedForm.prsDraw
  | prsFrame => apply EncodedForm.prsFrame
  | prsPresent => apply EncodedForm.prsPresent
  | prsReproj => apply EncodedForm.prsReproj
  | trcMark => apply EncodedForm.trcMark
  | trcFlush => apply EncodedForm.trcFlush
  | trcSample => apply EncodedForm.trcSample
  | stwKeyspill => apply EncodedForm.stwKeyspill
  | stwDump => apply EncodedForm.stwDump
  | deliver => apply EncodedForm.deliver
  | dropLine => apply EncodedForm.dropLine
  | cacheDrop => apply EncodedForm.cacheDrop
  | heartbeat => apply EncodedForm.heartbeat
  | releaseComplete => apply EncodedForm.releaseComplete
  | taggedAtHome => apply EncodedForm.taggedAtHome
  | taggedResend => apply EncodedForm.taggedResend
  | serviceRequest => apply EncodedForm.serviceRequest
  | atomicReply => apply EncodedForm.atomicReply
  | engineRead => apply EncodedForm.engineRead
  | engineWrite => apply EncodedForm.engineWrite
  | engineCount => apply EncodedForm.engineCount
  | cascadeStep => apply EncodedForm.cascadeStep
  | clauseIssue => apply EncodedForm.clauseIssue
  | resultWrite => apply EncodedForm.resultWrite
  | watchdog => apply EncodedForm.watchdog
  | ctxBuild => apply EncodedForm.ctxBuild
  | ctxCommit => apply EncodedForm.ctxCommit
  | ctxSuspend => apply EncodedForm.ctxSuspend
  | ctxResume => apply EncodedForm.ctxResume
  | ctxReset => apply EncodedForm.ctxReset
  | ctxKill => apply EncodedForm.ctxKill
  | ctxFree => apply EncodedForm.ctxFree
  | ctxDump => apply EncodedForm.ctxDump
  | drainComplete => apply EncodedForm.drainComplete
  | quantumEnd => apply EncodedForm.quantumEnd
  | tenantChoice => apply EncodedForm.tenantChoice
  | switchOut => apply EncodedForm.switchOut
  | contextRestore => apply EncodedForm.contextRestore
  | wellheadWake => apply EncodedForm.wellheadWake
  | launchRecord => apply EncodedForm.launchRecord
  | drawRecord => apply EncodedForm.drawRecord
  | copyRecord => apply EncodedForm.copyRecord
  | waitRecord => apply EncodedForm.waitRecord
  | signalRecord => apply EncodedForm.signalRecord
  | markRecord => apply EncodedForm.markRecord
  | waitTimeout => apply EncodedForm.waitTimeout
  | queueAgeing => apply EncodedForm.queueAgeing
  | wellheadAppend => apply EncodedForm.wellheadAppend
  | queueBind => apply EncodedForm.queueBind
  | queueUnbind => apply EncodedForm.queueUnbind
  | queueSuspend => apply EncodedForm.queueSuspend
  | queueResume => apply EncodedForm.queueResume
  | queueClear => apply EncodedForm.queueClear
  | placementPass => apply EncodedForm.placementPass
  | completionEvent => apply EncodedForm.completionEvent
  | vgrowDeadlockCheck => apply EncodedForm.vgrowDeadlockCheck
  | vgrowRestore => apply EncodedForm.vgrowRestore
  | gangTimeout => apply EncodedForm.gangTimeout
  | promiseTimeout => apply EncodedForm.promiseTimeout
  | sleepWake => apply EncodedForm.sleepWake
  | pageWalk => apply EncodedForm.pageWalk
  | walkResend => apply EncodedForm.walkResend
  | dumpPageCopy => apply EncodedForm.dumpPageCopy
  | pktRd => apply EncodedForm.pktRd
  | pktWr => apply EncodedForm.pktWr
  | pktWrm => apply EncodedForm.pktWrm
  | pktNmc => apply EncodedForm.pktNmc
  | readReply => apply EncodedForm.readReply
  | writeReply => apply EncodedForm.writeReply
  | nmcReply => apply EncodedForm.nmcReply
  | stackTrainingStart => apply EncodedForm.stackTrainingStart
  | stackTrainingPass => apply EncodedForm.stackTrainingPass
  | stackTrainingFail => apply EncodedForm.stackTrainingFail
  | stackInterfaceFail => apply EncodedForm.stackInterfaceFail
  | nrcfgWrite => apply EncodedForm.nrcfgWrite
  | cecountWrite => apply EncodedForm.cecountWrite
  | uccountWrite => apply EncodedForm.uccountWrite
  | patWrite => apply EncodedForm.patWrite
  | tierWorking => apply EncodedForm.tierWorking
  | autoAgeing => apply EncodedForm.autoAgeing
  | tierCopyDone => apply EncodedForm.tierCopyDone
  | tmvJoin => apply EncodedForm.tmvJoin
  | sectionRequest => apply EncodedForm.sectionRequest
  | sectionLeave => apply EncodedForm.sectionLeave
  | chainWalkHop => apply EncodedForm.chainWalkHop
  | sectStarved => apply EncodedForm.sectStarved
  | waiterResend => apply EncodedForm.waiterResend
  | streamBind => apply EncodedForm.streamBind
  | streamUnbind => apply EncodedForm.streamUnbind
  | primitiveAssembly => apply EncodedForm.primitiveAssembly
  | primitiveSetup => apply EncodedForm.primitiveSetup
  | sweep => apply EncodedForm.sweep
  | blend => apply EncodedForm.blend
  | slotDeadline => apply EncodedForm.slotDeadline
  | clockStep => apply EncodedForm.clockStep
  | thermalTrip => apply EncodedForm.thermalTrip
  | flitData => apply EncodedForm.flitData
  | flitAck => apply EncodedForm.flitAck
  | flitFlowControl => apply EncodedForm.flitFlowControl
  | flitTick => apply EncodedForm.flitTick
  | tickFlitSend => apply EncodedForm.tickFlitSend
  | linkReplayTimeout => apply EncodedForm.linkReplayTimeout
  | linkEnable => apply EncodedForm.linkEnable
  | linkDisable => apply EncodedForm.linkDisable
  | linkTrainingPass => apply EncodedForm.linkTrainingPass
  | linkTrainingFail => apply EncodedForm.linkTrainingFail
  | laneFail => apply EncodedForm.laneFail
  | hdmWrite => apply EncodedForm.hdmWrite
  | powerGood => apply EncodedForm.powerGood
  | powerLoss => apply EncodedForm.powerLoss
  | go => apply EncodedForm.go
  | verify => apply EncodedForm.verify
  | earlyEntry => apply EncodedForm.earlyEntry
  | fullEntry => apply EncodedForm.fullEntry
  | claim => apply EncodedForm.claim
  | handover => apply EncodedForm.handover
  | accept => apply EncodedForm.accept
  | crownRelease => apply EncodedForm.crownRelease
  | handoverLapse => apply EncodedForm.handoverLapse
  | crownVacancy => apply EncodedForm.crownVacancy
  | devnoWrite => apply EncodedForm.devnoWrite
  | attest => apply EncodedForm.attest
  | cert => apply EncodedForm.cert
  | csrrd => apply EncodedForm.csrrd
  | csrwr => apply EncodedForm.csrwr
  | hubrd => apply EncodedForm.hubrd
  | hubwr => apply EncodedForm.hubwr
  | traceEnWrite => apply EncodedForm.traceEnWrite
  | frameTimeout => apply EncodedForm.frameTimeout
  | frameWrite => apply EncodedForm.frameWrite
  | sampleTake => apply EncodedForm.sampleTake
  | replayDivergence => apply EncodedForm.replayDivergence
  | stopArm => apply EncodedForm.stopArm
  | deviceStop => apply EncodedForm.deviceStop
  | stopResume => apply EncodedForm.stopResume
  | registerWrite => apply EncodedForm.registerWrite
  | softError => apply EncodedForm.softError
  | cxlLinkRecovery => apply EncodedForm.cxlLinkRecovery
  | tlb2Lookup => apply EncodedForm.tlb2Lookup

/-- An instruction has a word exactly when it issues from a clause. -/
theorem isSome_encodeRaw (i : Instr) : (encodeRaw i).isSome = i.ctl.isSome := by cases i <;> rfl

/-- Bit i of a word, by the field it lies in (R264), the lowest field first. -/
theorem getLsbD_word (r : Raw) (i : Nat) : r.word.getLsbD i =
    if i < 9 then r.c.getLsbD i else if i - 9 < 9 then r.b.getLsbD (i - 9) else if i - 18 < 9 then r.a.getLsbD (i - 18)
    else if i - 27 < 9 then r.d.getLsbD (i - 27) else if i - 36 < 8 then r.mod.getLsbD (i - 36)
    else if i - 44 < 3 then r.ctl.slot.getLsbD (i - 44) else if i - 47 < 1 then decide (i - 47 = 0) && r.ctl.pn
    else if i - 48 < 3 then r.ctl.pg.getLsbD (i - 48) else if i - 51 < 1 then decide (i - 51 = 0) && r.ctl.last
    else if i - 52 < 4 then r.ctl.la.getLsbD (i - 52) else r.opc.getLsbD (i - 56) := by
  unfold Raw.word
  repeat rw [BitVec.getLsbD_append]
  simp only [BitVec.getLsbD_ofBool, Nat.sub_sub]

/-- A word holds its fields: each is read back from its place. -/
theorem ofWord_word (r : Raw) : Raw.ofWord r.word = r := by
  obtain ⟨opc, ⟨la, last, pg, pn, slot⟩, mod, d, a, b, c⟩ := r
  simp only [Raw.ofWord, Raw.mk.injEq, Ctl.mk.injEq]
  refine ⟨?_, ⟨?_, ?_, ?_, ?_, ?_⟩, ?_, ?_, ?_, ?_, ?_⟩
  case refine_3 => rw [getLsbD_word]; rfl
  case refine_5 => rw [getLsbD_word]; rfl
  all_goals
    apply BitVec.eq_of_getLsbD_eq
    intro i hi
    rw [BitVec.getLsbD_extractLsb', decide_eq_true hi, getLsbD_word]
    grind

theorem decode_encode {i : Instr} {w : BitVec 64} (hwf : i.wf = true) (h : encode i = some w) : decode w = .ok i := by
  obtain ⟨r, hr, rfl⟩ := Option.map_eq_some_iff.mp h
  rw [decode, ofWord_word, encodedForm i hwf r hr]
  simp [hwf, h]

/-- Settles O1: an encoded instruction's fields lie in its word, and each instruction's fields read back as it. -/
theorem decodeOfEncode : Obligations.DecodeOfEncode := by
  intro i
  refine ⟨fun hwf hctl => ?_, fun hctl => ?_⟩
  · have hraw : (encodeRaw i).isSome = true := by rw [isSome_encodeRaw, hctl]
    obtain ⟨r, hr⟩ := Option.isSome_iff_exists.mp hraw
    have hword : encode i = some r.word := by rw [encode, hr]; rfl
    exact ⟨r.word, hword, decode_encode hwf hword⟩
  · have hraw : (encodeRaw i).isSome = false := by rw [isSome_encodeRaw, hctl]; rfl
    rw [encode, Option.isSome_eq_false_iff.mp hraw |> Option.isNone_iff_eq_none.mp]
    rfl

end Sys2Proof.Proofs
end

section
/-! PROOFS. What a word decodes to, what a step runs, and what reset leaves (O2, O3, O5). -/
namespace Sys2Proof.Proofs
set_option Elab.async false

open Sys2Proof Sys2Proof.Machine Sys2Proof.Claims

/-- A word is accepted only as a well-formed instruction whose word it is (R275). -/
theorem wf_and_encode_of_decode {w : BitVec 64} {i : Instr} (h : decode w = .ok i) : i.wf = true ∧ encode i = some w := by
  unfold decode at h
  split at h
  · cases h
  · split at h
    · cases h
    · split at h
      · cases h
        exact ⟨by simpa using ‹¬(!i.wf) = true›, ‹_›⟩
      · cases h

/-- The rows 5, 8, E and F of the grid hold no opcodes (R272). -/
theorem instr_emptyRow {r : Raw} (h : r.opc.extractLsb' 4 4 = 5 ∨ r.opc.extractLsb' 4 4 = 8 ∨ r.opc.extractLsb' 4 4 = 14 ∨
    r.opc.extractLsb' 4 4 = 15) : r.instr = none := by
  rcases h with h | h | h | h <;> simp [Raw.instr, h]

theorem opc_row (w : BitVec 64) : (Raw.ofWord w).opc.extractLsb' 4 4 = w.extractLsb' 60 4 := by
  apply BitVec.eq_of_getLsbD_eq
  intro k hk
  have h8 : 4 + k < 8 := by omega
  simp [Raw.ofWord, hk, h8, ← Nat.add_assoc]

/-- Settles O2: the five words by evaluation, the others by what `decode` checks and by the row of the opcode. -/
theorem decodeWords : Obligations.DecodeWords := by
  refine ⟨⟨rfl, rfl, rfl, rfl, rfl⟩, fun w i h => wf_and_encode_of_decode h, fun w h => ?_⟩
  rw [decode, instr_emptyRow (by rwa [opc_row])]

/-- The word at a split's place, as `atPlace` has it. -/
theorem wordAt_of_atPlace {u : State} {w : BitVec 64} (h : atPlace u w) : wordAt u u.pick.ref = some w := by
  obtain ⟨cl, hcl, hw⟩ := h
  rw [wordAt, hcl]
  exact hw

theorem perform_issue {u : State} {w : BitVec 64} (hmay : MayIssue u) (hw : atPlace u w) :
    perform u .issue = match decode w with | .ok i => exec i u | .error _ => .next (issueIllegal w u) := by
  obtain ⟨hstop, hres, hup, hstuck⟩ := hmay
  have hword := wordAt_of_atPlace hw
  cases hd : decode w <;> simp [perform, fetched, hstop, hres, hup, hstuck, hword, hd]

/-- With no ticks to pass and nothing stopped, time stands. -/
theorem passTime_zero {s : State} (hstop : s.dev.stopped = none) : passTime s 0 = s := by
  have htick : max s.tick (min (s.tick + 0) (horizon s)) = s.tick := by omega
  simp only [passTime, hstop, Bool.and_eq_true, bne_self_eq_false, Bool.and_false, Bool.false_eq_true, if_false, Option.isSome_none, htick]

/-- The state from which a word laid for the next step issues. -/
def laidOut (s : State) (w : BitVec 64) : State := { placeWord s w with agenda := s.agenda, pick := { ref := fetchRef } }

theorem laidOut_strand (s : State) (w : BitVec 64) : (laidOut s w).strand fetchRef = strandWith w :=
  State.strand_setStrand s fetchRef (strandWith w)

theorem laidOut_stuck (s : State) (w : BitVec 64) :
    ((laidOut s w).clu (coreCluster (laidOut s w).pick.ref.core)).stuck = (s.clu 0).stuck := by
  rw [show coreCluster (laidOut s w).pick.ref.core = 0 from Nat.zero_div 256]
  rfl

/-- A word laid for the next step is what the turn then finds. -/
theorem nextTurn_placeWord {s : State} (w : BitVec 64) (hstop : s.dev.stopped = none) :
    nextTurn (placeWord s w) = (laidOut s w, .issue) := by
  have ha : (placeWord s w).agenda = { dt := 0, act := .issue, pick := { ref := fetchRef } } :: s.agenda := rfl
  rw [nextTurn, ha]
  simp only [passTime_zero (s := placeWord s w) hstop]
  rfl

/-- Settles O3: the agenda gives the turn, and the word at the split's place the instruction. -/
theorem stepRunsDecoded : Obligations.StepRunsDecoded := by
  refine ⟨?turn, ?decoded, ?illegal, ?device, ?laid⟩
  case turn =>
    intro s t rest h
    rw [nextTurn, h]
  case decoded =>
    intro s u w i ht hmay hw hd
    rw [step, ht, perform_issue hmay hw, hd]
  case illegal =>
    intro s u w e ht hmay hw hd
    rw [step, ht, perform_issue hmay hw, hd]
  case device =>
    intro s u i ht hc hstop
    rw [step, ht]
    simp [perform, isMove, hc, hstop]
  case laid =>
    intro s w hstop hstuck
    have hlaid : s.withFetchWord 64 w.toNat = placeWord s w := by
      rw [State.withFetchWord, Nat.mod_eq_of_lt w.isLt, BitVec.ofNat_toNat, BitVec.setWidth_eq]
    have hst := laidOut_strand s w
    have hmay : MayIssue (laidOut s w) := ⟨hstop, congrArg Strand.state hst, rfl, laidOut_stuck s w ▸ hstuck⟩
    have hw : atPlace (laidOut s w) w := ⟨_, congrArg (fun st : Strand => (st.split 0).clause) hst, rfl⟩
    rw [hlaid]
    refine ⟨_, nextTurn_placeWord w hstop, hmay, hw, fun i hd => ?_⟩
    rw [step, nextTurn_placeWord w hstop, perform_issue hmay hw, hd]

/-- Settles O5: every part of the reset state is empty. -/
theorem resetState : Obligations.ResetState := by
  refine ⟨fun _ => rfl, rfl, rfl, rfl, rfl, rfl, rfl, fun _ => ⟨rfl, rfl⟩, fun _ => rfl, rfl, rfl, rfl, rfl, rfl, rfl, rfl, rfl,
    fun _ _ => ⟨rfl, rfl⟩, rfl⟩

end Sys2Proof.Proofs
end

section
/-! PROOFS. What comes before an instruction's effect (O7): the trap of lowest code, what holds the instruction, and its checks. -/
namespace Sys2Proof.Proofs
set_option Elab.async false

open Sys2Proof Sys2Proof.Machine Sys2Proof.Claims

@[simp] theorem view_s (s : State) (r : SplitRef) (c : Ctl) : (s.view r c).s = s := rfl
@[simp] theorem view_r (s : State) (r : SplitRef) (c : Ctl) : (s.view r c).r = r := rfl

/-- Every instruction that issues from a clause does so by `run`. -/
theorem exec_eq_run {i : Instr} {c : Ctl} (h : i.ctl = some c) (s : State) : ∃ body, exec i s = run i c s body := by
  cases i <;> cases h <;> exact ⟨_, rfl⟩

theorem lowestTrap_eq_none {ts : List WaitingTrap} : lowestTrap ts = none ↔ ts = [] := by
  cases ts with
  | nil => simp [lowestTrap]
  | cons t r =>
    simp only [lowestTrap, reduceCtorEq, iff_false]
    split
    · simp
    · split <;> simp

/-- The trap taken first is one that waits, and none that waits has a lower code (R99). -/
theorem lowestTrap_least {ts : List WaitingTrap} {w : WaitingTrap} (h : lowestTrap ts = some w) :
    w ∈ ts ∧ ∀ x ∈ ts, w.trap.code ≤ x.trap.code := by
  induction ts generalizing w with
  | nil => cases h
  | cons t r ih =>
    rw [lowestTrap] at h
    split at h
    · next hr =>
      cases h
      simp [lowestTrap_eq_none.mp hr]
    · next t' hr =>
      obtain ⟨hmem, hle⟩ := ih hr
      split at h
      · cases h
        exact ⟨List.mem_cons_of_mem _ hmem, List.forall_mem_cons.mpr ⟨by omega, hle⟩⟩
      · cases h
        exact ⟨List.mem_cons_self .., List.forall_mem_cons.mpr ⟨Nat.le_refl _, fun x hx => by have := hle x hx; omega⟩⟩

/-- A result whose window ends at or before the place holds the instruction (R140). -/
theorem issueHeld_of_window {st : Strand} {r : SplitRef} {pos : Nat}
    (h : ∃ p ∈ st.results, p.split = r.split ∧ ∃ g, p.gate = some g ∧ g ≤ pos) : issueHeld st r pos = some 2 := by
  obtain ⟨p, hp, hsplit, g, hg, hle⟩ := h
  refine if_pos (List.any_eq_true.mpr ⟨p, hp, ?_⟩)
  simp [hsplit, hg, hle]

/-- Where no window ends there, another split in handler mode does (R97). -/
theorem issueHeld_of_handler {st : Strand} {r : SplitRef} {pos : Nat}
    (h : ∀ p ∈ st.results, p.split = r.split → ∀ g, p.gate = some g → pos < g)
    (hother : st.splits.any (fun e => e.1 != r.split && e.2.hm) = true) : issueHeld st r pos = some 26 := by
  have hno : st.results.any (fun p => p.split == r.split && (match p.gate with | some g => g ≤ pos | none => false)) = false := by
    refine List.any_eq_false.mpr fun p hp => ?_
    cases hg : p.gate with
    | none => simp
    | some g =>
      intro hc
      simp only [Bool.and_eq_true, beq_iff_eq, decide_eq_true_eq] at hc
      have := h p hp hc.1 g hg
      omega
  exact (if_neg (ne_true_of_eq_false hno)).trans (if_pos hother)

/-- A failed check traps, also where a SLU.IN of the split waits for a grant. -/
theorem settle_trap (s : State) (r : SplitRef) (t : TrapRec) : settle s r (.trap t s) = trapped s r t := rfl

section
variable {i : Instr} {c : Ctl} {s : State} (hctl : i.ctl = some c)
include hctl

/-- A trap that waits is what the step is about. -/
theorem exec_takes {w : WaitingTrap} (hw : lowestTrap (s.view s.pick.ref c).sp.takeable = some w) : exec i s = .next
    (if (s.ctx (s.view s.pick.ref c).st.ctx).state == .faulted then holdIn s s.pick.ref 27
    else if (s.view s.pick.ref c).st.splits.any (fun e => e.1 != s.pick.ref.split && e.2.hm) then holdIn s s.pick.ref 26
    else takeWaiting (s.setSplit s.pick.ref { (s.view s.pick.ref c).sp with traps := (s.view s.pick.ref c).sp.traps.erase w })
      s.pick.ref w (s.view s.pick.ref c).h (s.view s.pick.ref c).pos) := by
  obtain ⟨body, hrun⟩ := exec_eq_run hctl s
  simp only [hrun, run, issueStep, atBoundary, hw]

/-- What holds an instruction where no trap is taken. -/
theorem exec_held {why : Nat} (hw : lowestTrap (s.view s.pick.ref c).sp.takeable = none)
    (hheld : (if (s.view s.pick.ref c).sp.trapHeld then some 10
      else issueHeld (s.view s.pick.ref c).st s.pick.ref (s.view s.pick.ref c).pos) = some why) :
    exec i s = .next (holdIn s s.pick.ref why) := by
  obtain ⟨body, hrun⟩ := exec_eq_run hctl s
  simp only [hrun, run, issueStep, atBoundary, hw, hheld]

/-- A failed check of an instruction that neither a trap nor a wait precedes. -/
theorem exec_checked {x : Nat ⊕ TrapRec} (hw : lowestTrap (s.view s.pick.ref c).sp.takeable = none)
    (hheld : (s.view s.pick.ref c).sp.trapHeld = false)
    (hissue : issueHeld (s.view s.pick.ref c).st s.pick.ref (s.view s.pick.ref c).pos = none)
    (hcheck : precheck i (s.view s.pick.ref c) = some x) :
    exec i s = .next (match x with | .inl why => holdIn s s.pick.ref why | .inr t => trapped s s.pick.ref t) := by
  obtain ⟨body, hrun⟩ := exec_eq_run hctl s
  cases x <;> simp [hrun, run, issueStep, atBoundary, hw, hheld, hissue, hcheck, settle_trap]

end

/-- The word is one of an instruction and names no register at or above the strand's count (R270, R275). -/
def Legal (i : Instr) (st : Strand) : Prop := i.wf = true ∧ ∀ e ∈ i.fields, ∀ n, e.2 = .v n → n.toNat + e.1.span ≤ st.nregs

theorem legal_iff {i : Instr} {st : Strand} : Legal i st ↔ (!i.wf || beyondCount i st) = false := by
  have hfield : beyondCount i st = false ↔ ∀ e ∈ i.fields, ∀ n, e.2 = .v n → n.toNat + e.1.span ≤ st.nregs := by
    rw [beyondCount, List.any_eq_false]
    refine forall₂_congr fun e _ => ?_
    obtain ⟨k, o⟩ := e
    cases o <;> simp
  rw [Legal, Bool.or_eq_false_iff, hfield, Bool.not_eq_false']

/-- The handles read as sources, with their statuses, when a lane is effective. -/
theorem precheck_legal {i : Instr} {v : View} (hlegal : Legal i v.st)
    (hpriv : Instr.privileged i = false ∨ ctxStw v.s v.st.ctx = true) (heff : v.eff ≠ 0) : precheck i v =
      if ((handleSources i v.st).map (fun h => (h, (handleStatus v.s v.st.ctx h).1))).any (fun e => e.2 == 6) then some (.inl 7)
      else match ((handleSources i v.st).map (fun h => (h, (handleStatus v.s v.st.ctx h).1))).find? (fun e => e.2 != 0) with
        | some (h, _) => some (.inr { code := trapHandleErr, lanes := v.eff, info := h })
        | none => none := by
  have hp : (Instr.privileged i && !isSteward v.s v.st) = false := by rcases hpriv with h | h <;> simp [h, isSteward]
  rw [precheck, legal_iff.mp hlegal, hp, if_neg heff]
  rfl

/-- The privileged instructions (R96). -/
theorem privileged_iff (i : Instr) : Instr.privileged i = true ↔ (∃ c g a, i = .segLd c g a) ∨ (∃ c k, i = .tlbInv c k) ∨
    (∃ c a n, i = .csrw c a n ∧ 0x100 ≤ n.toNat) ∨ (∃ c d, i = .csrr c d 0x181) ∨ (∃ c h a b, i = .stwKeyspill c h a b) ∨
    (∃ c h a b, i = .stwDump c h a b) := by
  constructor
  · intro h
    cases i with
    | segLd c g a => exact .inl ⟨c, g, a, rfl⟩
    | tlbInv c k => exact .inr (.inl ⟨c, k, rfl⟩)
    | stwKeyspill c n a b => exact .inr (.inr (.inr (.inr (.inl ⟨c, n, a, b, rfl⟩))))
    | stwDump c n a b => exact .inr (.inr (.inr (.inr (.inr ⟨c, n, a, b, rfl⟩))))
    | csrw c a n => exact .inr (.inr (.inl ⟨c, a, n, rfl, of_decide_eq_true h⟩))
    | csrr c d n => exact .inr (.inr (.inr (.inl ⟨c, d, by rw [eq_of_beq h]⟩)))
    | _ => cases h
  · rintro (⟨c, g, a, rfl⟩ | ⟨c, k, rfl⟩ | ⟨c, a, n, rfl, hn⟩ | ⟨c, d, rfl⟩ | ⟨c, h, a, b, rfl⟩ | ⟨c, h, a, b, rfl⟩)
    case inr.inr.inl => exact decide_eq_true hn
    all_goals rfl

/-- Settles O7: `atBoundary` for the traps and holds, `precheck` for the checks. -/
theorem beforeEffect : Obligations.BeforeEffect := by
  refine ⟨fun i c s hctl => ⟨fun w hw => ?lowest, lowestTrap_eq_none.mp, fun hnone hheld => ?grant, fun hnone hheld => ?held⟩,
    fun i c s hctl hw hheld hissue => ⟨fun hlegal => ?illegal, fun hlegal hpriv hstw => ?privilege,
      fun hlegal hpriv heff => ⟨fun h hh hrun => ?running, fun h hs hhs herr hnot => ?failed⟩⟩,
    privileged_iff, fun w s hw hheld hissue => ?word⟩
  case lowest =>
    obtain ⟨hmem, hle⟩ := lowestTrap_least hw
    have hexec := exec_takes hctl hw
    refine ⟨hmem, hle, fun hf => ?_, fun hf ho => ?_, fun hf ho => ⟨fun hsite => ?_, fun pc pos hsite => ?_⟩⟩
    · rw [hexec, if_pos (by simp [hf])]
    · rw [hexec, if_neg (by simp [hf]), if_pos ho]
    all_goals
      rw [hexec, if_neg (by simp [hf]), if_neg (by rw [ho]; simp), takeWaiting, hsite]
  case grant =>
    exact exec_held hctl (lowestTrap_eq_none.mpr hnone) (by rw [if_pos hheld])
  case held =>
    refine ⟨fun hwin => ?_, fun hwin ho => ?_⟩
    · exact exec_held hctl (lowestTrap_eq_none.mpr hnone) (by rw [hheld]; exact issueHeld_of_window hwin)
    · exact exec_held hctl (lowestTrap_eq_none.mpr hnone) (by rw [hheld]; exact issueHeld_of_handler hwin ho)
  case illegal =>
    have hbad : (!i.wf || beyondCount i (s.view s.pick.ref c).st) = true := by
      rw [← Bool.not_eq_false, ← legal_iff]; exact hlegal
    exact exec_checked hctl hw hheld hissue (x := .inr _) (by rw [precheck, if_pos hbad]; rfl)
  case privilege =>
    have hp : (Instr.privileged i && !isSteward (s.view s.pick.ref c).s (s.view s.pick.ref c).st) = true := by
      rw [hpriv, isSteward, view_s, hstw]; rfl
    exact exec_checked hctl hw hheld hissue (x := .inr _) (by
      rw [precheck, if_neg (by rw [legal_iff.mp hlegal]; simp), if_pos hp]; rfl)
  case running =>
    refine exec_checked hctl hw hheld hissue (x := .inl 7) ?_
    rw [precheck_legal hlegal hpriv heff, if_pos]
    exact List.any_eq_true.mpr ⟨_, List.mem_map_of_mem hh, by simpa using hrun⟩
  case failed =>
    refine exec_checked hctl hw hheld hissue (x := .inr _) ?_
    rw [precheck_legal hlegal hpriv heff, if_neg, hhs, List.map_cons, List.find?_cons_of_pos (by simpa using herr)]
    · rfl
    · simpa using hnot
  case word =>
    simp only [issueIllegal, atBoundary, hw, hheld, hissue, settle_trap, Bool.false_eq_true, if_false]
    rfl

end Sys2Proof.Proofs
end

section
/-! PROOFS. Taking a trap (O8): what becomes of the split, its strand and its context, and the fields of the frame's header. -/
namespace Sys2Proof.Proofs
set_option Elab.async false

open Sys2Proof Sys2Proof.Machine Sys2Proof.Claims

/-- Giving up a scheduler changes its core's schedulers alone. -/
theorem freeSched_eq (s : State) (r : SplitRef) : ∃ x, freeSched s r = s.setCore r.core { s.core r.core with sched := x } ∨ freeSched s r = s := by
  unfold freeSched
  dsimp only
  split
  · exact ⟨_, .inl rfl⟩
  · exact ⟨[], .inr rfl⟩

@[simp] theorem freeSched_mem (s : State) (r : SplitRef) : (freeSched s r).mem = s.mem := by
  obtain ⟨x, h | h⟩ := freeSched_eq s r <;> rw [h]; rfl

@[simp] theorem freeSched_contexts (s : State) (r : SplitRef) : (freeSched s r).contexts = s.contexts := by
  obtain ⟨x, h | h⟩ := freeSched_eq s r <;> rw [h]; rfl

@[simp] theorem freeSched_strandAt (s : State) (r : SplitRef) (c slot : Nat) : (freeSched s r).strandAt c slot = s.strandAt c slot := by
  obtain ⟨x, h | h⟩ := freeSched_eq s r
  · rw [h]
    by_cases hc : c = r.core
    · subst hc; simp [State.strandAt]
    · simp [State.strandAt, State.core_setCore_ne s _ hc]
  · rw [h]

@[simp] theorem freeSched_strand (s : State) (r q : SplitRef) : (freeSched s r).strand q = s.strand q := freeSched_strandAt s r _ _

@[simp] theorem freeSched_split (s : State) (r q : SplitRef) : (freeSched s r).split q = s.split q := by simp [State.split]

/-- A split that enters handler mode at a place (R97). -/
def Handler (sp : Split) (tvec : BitVec 48) : Split :=
  { sp with pc := tvec, state := .handler, hm := true, clause := none, temps := [], tickHi := none, prog := {}, entry := {}, stall := 0,
            traps := sp.traps.map (fun w => { w with kept := true }) }

section
variable {s : State} {r : SplitRef} (t : TrapRec) (pc : BitVec 48) (pos : Nat) (late : Option (BitVec 48 × Nat))

/-- With a handler and outside handler mode the split enters handler mode, and its strand, the memory and the contexts keep
the rest: the frame goes into the core's phase buffer. -/
theorem takeTrap_enters (htvec : ctxTvec s (s.strand r).ctx ≠ 0) (hhm : (s.split r).hm = false) :
    (takeTrap s r t pc pos late).strand r =
      ((s.strand r).closeWindows r.split).setSplit r.split (Handler (s.split r) (ctxTvec s (s.strand r).ctx)) ∧
    (takeTrap s r t pc pos late).mem = s.mem ∧ (takeTrap s r t pc pos late).contexts = s.contexts := by
  have hno : (ctxTvec s (s.strand r).ctx = 0 || ((s.strand r).split r.split).hm) = false := by
    rw [decide_eq_false htvec]
    exact hhm
  obtain ⟨-, hctx, -, hmem⟩ := traceRecord_parts s (coreCluster r.core) 4
    (pc.toNat / 8 * 2 ^ 19 + t.code * 2 ^ 14 + r.core % 256 * 2 ^ 6 + r.slot * 2)
  unfold takeTrap
  simp only [hno, Bool.false_eq_true, if_false]
  refine ⟨?_, ?_, ?_⟩
  · simp only [freeSched_strand, State.strand_setStrand]
    rfl
  · simp only [freeSched_mem, State.setStrand_mem, State.setCore_mem, hmem]
  · simp only [freeSched_contexts, State.setStrand_contexts, State.setCore_contexts, hctx]

/-- Without a usable handler the trap stays pending and the context faults. -/
theorem takeTrap_faults (h : ctxTvec s (s.strand r).ctx = 0 ∨ (s.split r).hm = true) : takeTrap s r t pc pos late =
    contextFaults (s.setSplit r { s.split r with
      prog := {}, traps := (s.split r).traps ++ [{ trap := t, site := if late.isSome then some (pc, pos) else none }] }) (s.strand r).ctx
      { code := t.code, core := r.core, slot := r.slot, split := r.split, pc := pc, tick := s.tick, addr := t.addr } := by
  have hyes : (ctxTvec s (s.strand r).ctx = 0 || ((s.strand r).split r.split).hm) = true := by
    rcases h with h | h
    · rw [decide_eq_true h, Bool.true_or]
    · exact Bool.or_eq_true_iff.mpr (.inr h)
  unfold takeTrap
  simp only [hyes, if_true]
  rfl

end

/-- A fault of a context that is not being dumped: its state and its record; the strands and the memory are as they were. -/
theorem contextFaults_ctx {s : State} {x : Nat} (f : FaultRec) (h : (s.ctx x).state ≠ .dumping) :
    ((contextFaults s x f).ctx x).state = .faulted ∧ ((contextFaults s x f).ctx x).fault = some f := by
  have hset : (contextFaults s x f).ctx x =
      { s.ctx x with fault := some f, records := (s.ctx x).records ++ [f], state := .faulted } := by
    have hd : ((s.ctx x).state == .dumping) = false := by simpa using h
    simp only [contextFaults, hd, Bool.false_eq_true, if_false]
    exact State.ctx_setCtx _ _ _
  rw [hset]
  exact ⟨rfl, rfl⟩

theorem contextFaults_strand (s : State) (x : Nat) (f : FaultRec) (r : SplitRef) : (contextFaults s x f).strand r = s.strand r := rfl

/-- The field of a number between two places. -/
theorem extract_field {x hi f lo a n : Nat} (hx : x = 2 ^ a * (2 ^ n * hi + f) + lo) (hf : f < 2 ^ n) (hlo : lo < 2 ^ a) (ha : a + n ≤ 512) :
    (BitVec.ofNat 512 x).extractLsb' a n = BitVec.ofNat n f := by
  apply BitVec.eq_of_getLsbD_eq
  intro i hi
  have h512 : a + i < 512 := by omega
  rw [BitVec.getLsbD_extractLsb', BitVec.getLsbD_ofNat, BitVec.getLsbD_ofNat, decide_eq_true h512, hx,
    Nat.testBit_two_pow_mul_add _ hlo, if_neg (by omega), Nat.add_sub_cancel_left, Nat.testBit_two_pow_mul_add _ hf, if_pos hi]
  simp

/-- The default RES of each code (R99). -/
theorem defaultRes_eq (code : Nat) : defaultRes code =
    if code ∈ [0x04, 0x05, 0x07, 0x11, 0x16, 0x1B] then 0 else if code ∈ [0x02, 0x12] then 2 else 1 := by
  have hdef : defaultRes code = if code = 0x02 || code = 0x12 then 2
      else if code = 0x04 || code = 0x05 || code = 0x07 || code = 0x11 || code = 0x16 || code = 0x1B then 0 else 1 := rfl
  by_cases h2 : code ∈ [0x02, 0x12]
  · simp only [List.mem_cons, List.not_mem_nil, or_false] at h2
    rcases h2 with rfl | rfl <;> rfl
  · simp only [List.mem_cons, List.not_mem_nil, or_false, not_or] at h2
    simp [hdef, h2, or_assoc]

/-- The sum of a frame header's fields at their places (R101). -/
def headerSum (code res split pos flags late rpos pc lanes mask addr info tick : Nat) : Nat :=
  code * 2 ^ 504 + res * 2 ^ 502 + split * 2 ^ 500 + pos * 2 ^ 495 + flags * 2 ^ 490 + (late * 2 ^ 489 + rpos * 2 ^ 484) + pc * 2 ^ 384 +
    lanes * 2 ^ 288 + mask * 2 ^ 192 + addr * 2 ^ 128 + info * 2 ^ 64 + tick

set_option exponentiation.threshold 520 in
/-- No field of the header reaches into another. -/
theorem headerSum_fields {code res split pos flags late rpos pc lanes mask addr info tick : Nat} (hcode : code < 2 ^ 8) (hres : res < 2 ^ 2)
    (hsplit : split < 2 ^ 2) (hpos : pos < 2 ^ 5) (hflags : flags < 2 ^ 5) (hlate : late < 2 ^ 1) (hrpos : rpos < 2 ^ 5) (hpc : pc < 2 ^ 48)
    (hlanes : lanes < 2 ^ 96) (hmask : mask < 2 ^ 96) (haddr : addr < 2 ^ 64) (hinfo : info < 2 ^ 64) (htick : tick < 2 ^ 64) :
    let x := headerSum code res split pos flags late rpos pc lanes mask addr info tick
    let field := fun a n => (BitVec.ofNat 512 x).extractLsb' a n
    field 504 8 = BitVec.ofNat 8 code ∧ field 502 2 = BitVec.ofNat 2 res ∧ field 500 2 = BitVec.ofNat 2 split ∧ field 495 5 = BitVec.ofNat 5 pos ∧
      field 490 5 = BitVec.ofNat 5 flags ∧ field 489 1 = BitVec.ofNat 1 late ∧ field 384 48 = BitVec.ofNat 48 pc ∧
      field 288 96 = BitVec.ofNat 96 lanes ∧ field 192 96 = BitVec.ofNat 96 mask ∧ field 128 64 = BitVec.ofNat 64 addr ∧
      field 64 64 = BitVec.ofNat 64 info ∧ field 0 64 = BitVec.ofNat 64 tick := by
  intro x field
  have hx : x = code * 2 ^ 504 + res * 2 ^ 502 + split * 2 ^ 500 + pos * 2 ^ 495 + flags * 2 ^ 490 + (late * 2 ^ 489 + rpos * 2 ^ 484) +
    pc * 2 ^ 384 + lanes * 2 ^ 288 + mask * 2 ^ 192 + addr * 2 ^ 128 + info * 2 ^ 64 + tick := rfl
  have hfield : ∀ a n f, x = 2 ^ a * (2 ^ n * (x / 2 ^ (a + n)) + f) + x % 2 ^ a → f < 2 ^ n → a + n ≤ 512 → field a n = BitVec.ofNat n f :=
    fun a n f hsum hf ha => extract_field hsum hf (Nat.mod_lt _ (Nat.two_pow_pos _)) ha
  refine ⟨hfield _ _ _ ?_ hcode ?_, hfield _ _ _ ?_ hres ?_, hfield _ _ _ ?_ hsplit ?_, hfield _ _ _ ?_ hpos ?_, hfield _ _ _ ?_ hflags ?_,
    hfield _ _ _ ?_ hlate ?_, hfield _ _ _ ?_ hpc ?_, hfield _ _ _ ?_ hlanes ?_, hfield _ _ _ ?_ hmask ?_, hfield _ _ _ ?_ haddr ?_,
    hfield _ _ _ ?_ hinfo ?_, hfield _ _ _ ?_ htick ?_⟩
  all_goals omega

theorem frameHeader_eq {t : TrapRec} {split pos tick : Nat} {flags : Flags} (late : Option (BitVec 48 × Nat)) {pc : BitVec 48}
    {mask : LaneMask} (htick : tick < 2 ^ 64) (haddr : t.addr < 2 ^ 64) : frameHeader t split pos flags late pc mask tick =
      headerSum t.code (defaultRes t.code) split pos flags.toNat late.isSome.toNat ((late.map (·.2)).getD 0) pc.toNat t.lanes.toNat
        mask.toNat t.addr t.info.toNat tick := by
  unfold frameHeader headerSum
  rw [Nat.mod_eq_of_lt htick, Nat.mod_eq_of_lt haddr]
  cases late with
  | none => simp only [Option.isSome_none, Bool.toNat_false, Option.map_none, Option.getD_none, Nat.zero_mul]
  | some e => simp only [Option.isSome_some, Bool.toNat_true, Option.map_some, Option.getD_some, Nat.one_mul]

/-- Settles O8: `takeTrap` by its two cases, and the header by its fields. -/
theorem trapEntry : Obligations.TrapEntry := by
  refine ⟨fun s r t pc pos late => ⟨fun htvec hhm => ?enters, fun h hd => ?faults⟩, ?header⟩
  case enters =>
    obtain ⟨hst, hmem, hctx⟩ := takeTrap_enters t pc pos late htvec hhm
    have hsp : (takeTrap s r t pc pos late).split r = Handler (s.split r) (ctxTvec s (s.strand r).ctx) := by
      rw [State.split, hst]
      exact Strand.split_setSplit _ _ _
    simp only [hsp, hst, hmem, hctx]
    exact ⟨rfl, rfl, rfl, rfl, rfl, rfl, rfl, rfl, rfl, rfl, rfl, rfl, trivial, trivial⟩
  case faults =>
    have hu := takeTrap_faults t pc pos late h
    obtain ⟨hstate, hfault⟩ := contextFaults_ctx (s := s.setSplit r { s.split r with
      prog := {}, traps := (s.split r).traps ++ [{ trap := t, site := if late.isSome then some (pc, pos) else none }] })
      (x := (s.strand r).ctx) { code := t.code, core := r.core, slot := r.slot, split := r.split, pc := pc, tick := s.tick, addr := t.addr } hd
    have hsp : (takeTrap s r t pc pos late).split r = { s.split r with
        prog := {}, traps := (s.split r).traps ++ [{ trap := t, site := if late.isSome then some (pc, pos) else none }] } := by
      rw [hu]
      exact State.split_setSplit _ _ _
    exact ⟨hu ▸ hstate, hu ▸ hfault, by rw [hsp], by rw [hsp], by rw [hsp], by rw [hu]; rfl⟩
  case header =>
    intro t split pos tick flags late pc mask hcode hsplit hpos htick haddr hlate
    have hsum : frameHeader t split pos flags late pc mask tick = headerSum t.code (defaultRes t.code) split pos flags.toNat
        late.isSome.toNat ((late.map (·.2)).getD 0) pc.toNat t.lanes.toNat mask.toNat t.addr t.info.toNat tick :=
      frameHeader_eq late htick haddr
    have hres := defaultRes_eq t.code
    have hresult : defaultRes t.code < 2 ^ 2 := by
      rw [hres]
      split
      · omega
      · split <;> omega
    have hrpos : (late.map (·.2)).getD 0 < 2 ^ 5 := by
      cases late with
      | none => simp
      | some e => exact hlate e rfl
    obtain ⟨h1, h2, h3, h4, h5, h6, h7, h8, h9, h10, h11, h12⟩ := headerSum_fields (code := t.code) (res := defaultRes t.code) (split := split)
      (pos := pos) (addr := t.addr) (tick := tick) hcode hresult hsplit (by omega) flags.isLt
      (late.isSome.toNat_lt) hrpos pc.isLt t.lanes.isLt mask.isLt haddr t.info.isLt htick
    simp only [BitVec.ofNat_toNat, BitVec.setWidth_eq] at h5 h7 h8 h9 h11
    have hbit : (BitVec.ofNat 512 (frameHeader t split pos flags late pc mask tick)).getLsbD 489 = late.isSome := by
      have := congrArg (·.getLsbD 0) h6
      rw [hsum]
      cases late <;> simpa using this
    intro x
    simp only [x, hbit]
    rw [hsum]
    refine ⟨h1, h3, h4, h5, trivial, h7, h8, h9, h10, h11, h12, ?_⟩
    refine h2.trans ?_
    rw [hres]
    split
    · rfl
    · split <;> rfl

end Sys2Proof.Proofs
end

section
/-! PROOFS. Going on after an instruction (O9), and operands (O10). -/
namespace Sys2Proof.Proofs
set_option Elab.async false

open Sys2Proof Sys2Proof.Machine Sys2Proof.Claims

theorem advance_within {s : State} {r : SplitRef} {cl : Clause} (hcl : (s.split r).clause = some cl) (halone : cl.alone = none)
    (hpos : cl.pos + 1 < cl.words.length) : advance s r = s.setSplit r { s.split r with
      clause := some { cl with pos := cl.pos + 1 }, prog := {}, stall := 0, since := s.runTick
      state := if (s.split r).hm then .handler else .ready } := by
  unfold advance
  simp only [hcl, halone, hpos, if_true]

theorem advance_last {s : State} {r : SplitRef} {cl : Clause} (hcl : (s.split r).clause = some cl) (halone : cl.alone = none)
    (hpos : cl.words.length ≤ cl.pos + 1) : advance s r = endClause s r (nextHeader cl.h cl.words.length) := by
  unfold advance
  simp only [hcl, halone, if_neg (Nat.not_lt.mpr hpos)]

/-- No split merges where every other one is Free. -/
theorem mergeBoundary_alone {s : State} {c slot i : Nat} (n : Nat) (h : ∀ k, k ≠ i → ((s.strandAt c slot).split k).state = .free) :
    mergeBoundary s c slot n i = s := by
  cases n with
  | zero => rfl
  | succ n =>
    have hnone : (List.range 4).find? (fun j => j != i && ((s.strandAt c slot).split j).mergeable &&
        ((s.strandAt c slot).split j).pc == ((s.strandAt c slot).split i).pc) = none := by
      refine List.find?_eq_none.mpr fun j _ => ?_
      by_cases hj : j = i
      · simp [hj]
      · simp [Split.mergeable, h j hj]
    have hpair : mergePair (s.strandAt c slot) i = none := by
      unfold mergePair
      simp only [hnone, ite_self]
    simp only [mergeBoundary, hpair]

theorem deferBoundary_none {s : State} {r : SplitRef} (h : topDefer (deferStack s r.core r.slot) r.split = none) : deferBoundary s r = s := by
  unfold deferBoundary
  simp only [h]

theorem deferStack_congr {s t : State} {c slot : Nat} (hmem : t.mem = s.mem)
    (hheight : (t.strandAt c slot).deferHeight = (s.strandAt c slot).deferHeight) : deferStack t c slot = deferStack s c slot := by
  unfold deferStack
  rw [hmem, hheight]

/-- A split replaced by one with as many deferred entries, none of its own on the stack. -/
theorem deferBoundary_setSplit {s : State} {r : SplitRef} {sp : Split} (hn : sp.ndef = (s.split r).ndef)
    (hd : topDefer (deferStack s r.core r.slot) r.split = none) : deferBoundary (s.setSplit r sp) r = s.setSplit r sp := by
  refine deferBoundary_none ?_
  have hheight : ((s.setSplit r sp).strandAt r.core r.slot).deferHeight = (s.strandAt r.core r.slot).deferHeight :=
    (congrArg Strand.deferHeight (State.strand_setSplit s r sp)).trans (Strand.deferHeight_same _ _ _ hn)
  rw [deferStack_congr (s := s) (by rfl) hheight, hd]

/-- Of two writes of one key the second stands. -/
theorem tab_set_set {α : Type} (t : Tab α) (k : Nat) (v w : α) : (t.set k v).set k w = t.set k w := by
  induction t with
  | nil => simp [Tab.set]
  | cons e rest ih =>
    obtain ⟨j, x⟩ := e
    simp only [Tab.set]
    split
    · simp [Tab.set]
    · split
      · simp [Tab.set]
      · simp [Tab.set, *]

theorem setSplit_setSplit (st : Strand) (i : Nat) (a b : Split) : (st.setSplit i a).setSplit i b = st.setSplit i b := by
  simp only [Strand.setSplit, tab_set_set]

/-- Of a strand all of whose other splits are Free, one at most is live. -/
theorem live_alone {st : Strand} {i : Nat} (h : ∀ k, k ≠ i → (st.split k).state = .free) :
    (List.range 4).filter (fun j => (st.split j).state != .free) = [] ∨
    (List.range 4).filter (fun j => (st.split j).state != .free) = [i] := by
  have hsub : ∀ x ∈ (List.range 4).filter (fun j => (st.split j).state != .free), x = i := by
    intro x hx
    refine Classical.byContradiction fun hne => ?_
    simp [h x hne] at hx
  have hnodup : ((List.range 4).filter (fun j => (st.split j).state != .free)).Nodup := List.nodup_range.filter _
  generalize (List.range 4).filter (fun j => (st.split j).state != .free) = l at hsub hnodup
  match l with
  | [] => exact .inl rfl
  | [x] => exact .inr (by rw [hsub x (List.mem_singleton_self x)])
  | x :: y :: _ =>
    have hxy : x = y := (hsub x (by simp)).trans (hsub y (by simp)).symm
    simp [hxy] at hnodup

/-- A lone parked split becomes Ready where it is (R134). -/
theorem reconvBoundary_alone {s : State} {r : SplitRef} (h : ∀ k, k ≠ r.split → ((s.strand r).split k).state = .free)
    (hd : topDefer (deferStack s r.core r.slot) r.split = none) : reconvBoundary s r.core r.slot = s ∨
      reconvBoundary s r.core r.slot = s.setSplit r { s.split r with state := .ready, stall := 0, reconv := none } := by
  unfold reconvBoundary
  dsimp only
  rcases live_alone (st := s.strandAt r.core r.slot) h with hl | hl
  · simp only [hl]
    exact .inl trivial
  · simp only [hl]
    split
    · right
      simp only [List.foldl_cons, List.foldl_nil, List.all_cons, List.all_nil, Bool.and_true, beq_self_eq_true, if_true]
      exact deferBoundary_setSplit rfl hd
    · exact .inl rfl

/-- The end of a clause where no other split and no deferred entry is there to merge with or resume (R130). -/
theorem endClause_alone {s : State} {r : SplitRef} (pc : BitVec 48) (h : ∀ k, k ≠ r.split → ((s.strand r).split k).state = .free)
    (hd : topDefer (deferStack s r.core r.slot) r.split = none) :
    ∃ state stall reconv, (endClause s r pc).strand r = ((s.strand r).closeWindows r.split).setSplit r.split { s.split r with
        pc := pc, clause := none, temps := [], tickHi := none, prog := {}, entry := {}, state := state, stall := stall, since := s.runTick,
        reconv := reconv } ∧ (endClause s r pc).mem = s.mem := by
  unfold endClause
  dsimp only
  generalize hE : freeSched _ r = e
  have hest := (congrArg (·.strand r) hE).symm.trans ((freeSched_strand _ r r).trans (State.strand_setStrand _ _ _))
  have hemem : e.mem = s.mem := (congrArg State.mem hE).symm.trans (freeSched_mem _ r)
  have hefree : ∀ k, k ≠ r.split → ((e.strand r).split k).state = .free := fun k hk => by
    simp only [hest, Strand.split_setSplit_ne _ _ hk]
    exact h k hk
  have hed : topDefer (deferStack e r.core r.slot) r.split = none := by
    rw [deferStack_congr hemem ?_, hd]
    exact (congrArg Strand.deferHeight hest).trans (Strand.deferHeight_same _ _ _ rfl)
  have hmerge := mergeBoundary_alone 4 hefree
  split
  · rcases reconvBoundary_alone hefree hed with hrec | hrec
    · rw [hrec]
      exact ⟨_, _, _, hest, hemem⟩
    · rw [hrec, State.strand_setSplit, State.split, hest]
      simp only [Strand.split_setSplit, setSplit_setSplit]
      exact ⟨_, _, _, rfl, hemem⟩
  · rw [deferBoundary_none hed, ite_self, hmerge]
    exact ⟨_, _, _, hest, hemem⟩

/-- Settles O9: within a clause by `advance_within`, at its end by `endClause_alone`. -/
theorem nextPlace : Obligations.NextPlace := by
  refine ⟨fun s r cl hcl halone hpos => advance_within hcl halone hpos, fun s r cl hcl halone hpos hd h => ?_⟩
  obtain ⟨state, stall, reconv, hst, hmem⟩ := endClause_alone (nextHeader cl.h cl.words.length) h hd
  intro t
  have ht : t = endClause s r (nextHeader cl.h cl.words.length) := advance_last hcl halone hpos
  rw [← ht] at hst hmem
  have hsp : t.split r = _ := (congrArg (·.split r.split) hst).trans (Strand.split_setSplit _ _ _)
  rw [hsp, hst]
  exact ⟨rfl, rfl, rfl, rfl, rfl, rfl, rfl, rfl, rfl, rfl, rfl, hmem⟩

/-- Reading a register after a write: by lane where it is the one written. -/
theorem getD_blendLanes (m : LaneMask) (x old : LaneVec) {l : Nat} (hl : l < 96) :
    (blendLanes m x old).getD l 0 = if m.getLsbD l then x.getD l 0 else old.getD l 0 := by
  simp [blendLanes, List.getD_eq_getElem?_getD, hl]

theorem lowLane_zero : lowLane 0 = none := by
  simp [lowLane]

theorem lowLane_eq {m : LaneMask} {l : Nat} (hl : m.getLsbD l = true) (hlow : ∀ k, k < l → m.getLsbD k = false) : lowLane m = some l := by
  refine List.find?_range_eq_some.mpr ⟨hl, List.mem_range.mpr (BitVec.lt_of_getLsbD hl), fun k hk => ?_⟩
  rw [hlow k hk]
  rfl

/-- Bit l of the number whose bits are a predicate's values. -/
theorem testBit_bitsOf (n l : Nat) (p : Nat → Bool) :
    ((List.range n).foldr (fun l acc => 2 * acc + (if p l then 1 else 0)) 0).testBit l = (decide (l < n) && p l) := by
  induction n generalizing p l with
  | zero => simp
  | succ n ih =>
    rw [List.range_succ_eq_map, List.foldr_cons, List.foldr_map]
    cases l with
    | zero => cases h : p 0 <;> simp [h]
    | succ l =>
      have hdiv : (2 * (List.range n).foldr (fun l acc => 2 * acc + (if p l.succ then 1 else 0)) 0 + (if p 0 then 1 else 0)) / 2 =
          (List.range n).foldr (fun l acc => 2 * acc + (if p l.succ then 1 else 0)) 0 := by
        split <;> omega
      rw [Nat.testBit_succ, hdiv, ih l fun l => p l.succ]
      simp

/-- A written predicate, lane by lane. -/
theorem getLsbD_maskWhere (p : Nat → Bool) {l : Nat} (hl : l < 96) : (maskWhere p).getLsbD l = p l := by
  rw [maskWhere, BitVec.getLsbD_ofNat, testBit_bitsOf]
  simp [hl]

/-- The 32 lanes that one of %s60 to %s62 shows. -/
theorem getLsbD_hole {w b : Nat} (hb : b < 96) : (BitVec.ofNat 96 ((2 ^ 32 - 1) * 2 ^ (32 * w))).getLsbD b = decide (b / 32 = w) := by
  rw [BitVec.getLsbD_ofNat, decide_eq_true hb, Bool.true_and, Nat.mul_comm, Nat.testBit_two_pow_mul, Nat.testBit_two_pow_sub_one]
  rw [Bool.eq_iff_iff]
  simp only [Bool.and_eq_true, decide_eq_true_eq]
  omega

/-- Settles O10. -/
theorem operandForms : Obligations.OperandForms := by
  refine ⟨fun v l k n => ⟨rfl, fun h60 h62 => ?scalarMask⟩, fun v l => ⟨?predTrue, rfl, rfl⟩, fun v l k => ⟨rfl, rfl, fun _ => rfl⟩,
    fun s r n m x k l hl => ?vector, fun s r n m x => ⟨fun hm => ?unchanged, fun l hl hlow h60 k => ?scalar, fun l hl hlow h60 h62 b hb => ?mask⟩,
    fun s r n m x k l hl => ?predicate⟩
  case scalarMask => exact if_pos ⟨h60, h62⟩
  case predTrue => exact BitVec.getLsbD_allOnes
  case vector =>
    simp only [putLanes, State.strand_setStrand, Strand.put, Tab.get_set]
    split
    · next hk => rw [getD_blendLanes _ _ _ hl]; simp [hk]
    · next hk => simp [hk]
  case unchanged =>
    subst hm
    simp only [putLanes, State.strand_setStrand, Strand.put, lowLane_zero]
  case scalar =>
    have hno : ¬(60 ≤ n.toNat ∧ n.toNat ≤ 62) := by omega
    simp only [putLanes, State.strand_setStrand, Strand.put, lowLane_eq hl hlow, putScalar, hno, if_false, Tab.get_set]
  case mask =>
    simp only [putLanes, State.split_setStrand, Strand.put, lowLane_eq hl hlow, putScalar, and_self, h60, h62, if_true, Strand.split_setSplit]
    rw [BitVec.getLsbD_and, BitVec.getLsbD_or, BitVec.getLsbD_and, BitVec.getLsbD_and, BitVec.getLsbD_not, getLsbD_hole hb, BitVec.getLsbD_shiftLeft,
      BitVec.getLsbD_setWidth]
    rw [Bool.and_comm]
    congr 1
    by_cases hw : b / 32 = n.toNat - 60
    · have hge : ¬b < 32 * (n.toNat - 60) := by omega
      have hmod : b - 32 * (n.toNat - 60) = b % 32 := by omega
      have hlt : b % 32 < 96 := by omega
      simp [hw, hb, hge, hmod, hlt]
    · simp [hw, hb]
      rfl
  case predicate =>
    simp only [putLanes, State.strand_setStrand, Strand.put]
    split
    · next h7 => simp [h7]
    · next h7 =>
      by_cases hk7 : k = 7
      · have hkn : k ≠ n := fun h => h7 (h ▸ hk7)
        rw [if_neg fun h => hkn h.2.1]
        simp only [Strand.pred, hk7, if_true]
      · simp only [Strand.pred, hk7, if_false, Tab.get_set]
        split
        · next hkn =>
          have hkn : k = n := BitVec.eq_of_toNat_eq hkn
          simp only [getLsbD_maskWhere _ hl, hkn, ne_eq, h7, not_false_eq_true, true_and]
        · next hkn =>
          have hkn : k ≠ n := fun h => hkn (h ▸ rfl)
          rw [if_neg fun h => hkn h.2.1]

end Sys2Proof.Proofs
end

section
/-! PROOFS. How an instruction ends that nothing precedes, and the comparisons (O14). -/
namespace Sys2Proof.Proofs
set_option Elab.async false

open Sys2Proof Sys2Proof.Machine Sys2Proof.Claims

/-! How an instruction ends. -/

section
variable {i : Instr} {c : Ctl} {s u : State} {body : View → State → Res}

/-- With nothing before it, an instruction comes to its own effect. -/
theorem exec_of_ready (hrun : exec i s = run i c s body) (hready : Ready i c s) :
    exec i s = .next (settle (entered i s) s.pick.ref (body (seen i c s) (entered i s))) := by
  obtain ⟨htrap, hheld, hissue, hcheck⟩ := hready
  rw [hrun, run_ready i c s body hheld htrap hissue hcheck]
  rfl

theorem waits_of_run {why : Nat} (hrun : exec i s = run i c s body) (hready : Ready i c s)
    (hbody : body (seen i c s) (entered i s) = .stay why u) : Waits i s why u := by
  rw [Waits, exec_of_ready hrun hready, hbody]
  rfl

theorem leaves_of_run (hrun : exec i s = run i c s body) (hready : Ready i c s)
    (hbody : body (seen i c s) (entered i s) = .moved u) : Leaves i s u := by
  rw [Leaves, exec_of_ready hrun hready, hbody]
  rfl

/-- A trap of the instruction's own effect, in a state that left the split's place as it was. -/
theorem traps_of_run {t : TrapRec} (hrun : exec i s = run i c s body) (hready : Ready i c s)
    (hbody : body (seen i c s) (entered i s) = .trap t u)
    (hplace : (u.split s.pick.ref).running = ((entered i s).split s.pick.ref).running) : Traps i s t u := by
  rw [Traps, exec_of_ready hrun hready, hbody]
  simp only [settle, trapped, hplace]

/-- A trap that changes nothing before. -/
theorem traps_of_run_entered {t : TrapRec} (hrun : exec i s = run i c s body) (hready : Ready i c s)
    (hbody : body (seen i c s) (entered i s) = .trap t (entered i s)) : Traps i s t (entered i s) :=
  traps_of_run hrun hready hbody rfl

/-- What has passed its checks is well formed (R275). -/
theorem wf_of_ready (hready : Ready i c s) : i.wf = true := by
  obtain ⟨-, -, -, hcheck⟩ := hready
  refine Classical.byContradiction fun hwf => ?_
  rw [precheck, Bool.eq_false_iff.mpr hwf] at hcheck
  cases hcheck

end

/-! Flags that lanes raise together. -/

theorem foldl_or_flagIf {α : Type} (p : α → Bool) (f a : Flags) (ls : List α) :
    (ls.map fun l => flagIf (p l) f).foldl (· ||| ·) a = a ||| flagIf (ls.any p) f := by
  induction ls generalizing a with
  | nil => simp [flagIf, noFlag]
  | cons l ls ih =>
    rw [List.map_cons, List.foldl_cons, ih, List.any_cons]
    cases p l <;> cases ls.any p <;> simp [flagIf, noFlag, BitVec.or_assoc]

theorem joinFlags_flagIf {α : Type} (p : α → Bool) (f : Flags) (ls : List α) :
    joinFlags (ls.map fun l => flagIf (p l) f) = flagIf (ls.any p) f := by
  rw [joinFlags, foldl_or_flagIf, noFlag]
  exact BitVec.zero_or

/-! Comparisons. -/

/-- The model's comparison is the condition's, for the conditions of R369. -/
theorem condInt_eq_holdsInt {cond : Cond} (h : cond.isOrder = true) (x y : Int) : condInt cond x y = holdsInt cond x y := by
  cases cond with
  | eq | lt | gt => rfl
  | ne => simp only [condInt, holdsInt, bne, beq_decide, decide_not]
  | le => exact decide_eq_decide.mpr Int.le_iff_lt_or_eq
  | ge => exact decide_eq_decide.mpr (Int.le_iff_lt_or_eq.trans (or_congr_right eq_comm))
  | ord | unord => cases h

/-- FCMP raises NV for a signalling NaN, and for a quiet one under a condition of order (R386). -/
theorem fcmpV_flags (cond : Cond) (a b : FVal) : (fcmpV cond a b).2 =
    flagIf (a == .nan true || b == .nan true ||
      ((a.isNan || b.isNan) && (cond == .lt || cond == .le || cond == .gt || cond == .ge))) flagNV := by
  have hor : ∀ p q : Bool, flagIf p flagNV ||| flagIf q flagNV = flagIf (q || p) flagNV := by decide
  simp only [fcmpV, snanFlag, hor, List.any_cons, List.any_nil, Bool.or_false]
  cases cond <;> rfl

/-- A NaN makes every ordered condition false and `.ne` and `.unord` true (R386). -/
theorem fcmpV_unordered {cond : Cond} {a b : FVal} (h : (a.isNan || b.isNan) = true) :
    (fcmpV cond a b).1 = (cond == .ne || cond == .unord) := by
  simp only [fcmpV, h]
  cases cond <;> rfl

/-- Settles O14: the conditions on integers, and FCMP's on exact values with its flags. -/
theorem comparisons : Obligations.Comparisons := by
  refine ⟨fun c ty cond d a b s hready => ?icmp, fun c ty cond d a imm s hready => ?icmpi, fun c ty cond d a b s hready => ?fcmp⟩
  case icmp =>
    have hcond := (Bool.and_eq_true_iff.mp (combOk_of_wf (wf_of_ready hready))).2
    simp only [← condInt_eq_holdsInt hcond]
    exact finishes_of_run (c := c) rfl hready rfl
  case icmpi =>
    have hcond := (Bool.and_eq_true_iff.mp (combOk_of_wf (wf_of_ready hready))).2
    simp only [← condInt_eq_holdsInt hcond]
    exact finishes_of_run (c := c) rfl hready rfl
  case fcmp =>
    refine ⟨fun l => (fcmpV cond ((seen (.fcmp c ty cond d a b) c s).rdF false a l) ((seen (.fcmp c ty cond d a b) c s).rdF false b l)).1,
      fun l => fcmpV_unordered, ?_, ?_, ?_, ?_, ?_, ?_, ?_, ?_, ?_⟩
    case refine_9 =>
      refine finishes_of_run (c := c) rfl hready ?_
      simp only [fcmpV_flags, joinFlags_flagIf]
      rfl
    all_goals
      rintro l hun rfl
      simp only [fcmpV, hun, Bool.not_false, Bool.true_and, Bool.false_or]

end Sys2Proof.Proofs
end

section
/-! PROOFS. Predicate operations (O15): VOTE and ELECT over the effective lanes, PMOV's three forms, FCLASS's ten classes. -/
namespace Sys2Proof.Proofs
set_option Elab.async false

open Sys2Proof Sys2Proof.Machine Sys2Proof.Claims

/-! Masks and their counts. -/

theorem rdP_eq_getLsbD (v : View) (a : Operand) (l : Nat) : v.rdP a l = (v.rdMask a).getLsbD l := by
  cases a <;> simp [View.rdP, View.rdMask]

theorem popCount_eq_countP_lanes (m : LaneMask) : popCount m = (List.range 96).countP fun l => m.getLsbD l := rfl

/-- A mask is empty exactly when it has no lane. -/
theorem popCount_eq_zero_iff {w : Nat} {m : BitVec w} : popCount m = 0 ↔ m = 0 := by
  rw [popCount, List.countP_eq_zero]
  constructor
  · intro h
    refine BitVec.eq_of_getLsbD_eq fun l hl => ?_
    simpa using h l (List.mem_range.mpr hl)
  · rintro rfl
    simp

/-- A part of a mask with as many lanes is the whole. -/
theorem popCount_and_eq_iff {w : Nat} {x m : BitVec w} : popCount (x &&& m) = popCount m ↔ x &&& m = m := by
  refine ⟨fun h => BitVec.eq_of_getLsbD_eq fun l hl => ?_, fun h => by rw [h]⟩
  have hsplit := List.countP_eq_countP_filter_add (List.range w) (fun l => m.getLsbD l) fun l => x.getLsbD l
  rw [List.countP_filter, List.countP_filter] at hsplit
  have hin : (List.range w).countP (fun l => m.getLsbD l && x.getLsbD l) = popCount (x &&& m) := by
    simp only [popCount, BitVec.getLsbD_and, Bool.and_comm]
  have hout : (List.range w).countP (fun l => m.getLsbD l && !x.getLsbD l) = 0 := by
    have hm : (List.range w).countP (fun l => m.getLsbD l) = popCount m := rfl
    rw [← hin, ← hm] at h
    simp only [Bool.and_comm] at hsplit h ⊢
    omega
  have hl' := List.countP_eq_zero.mp hout l (List.mem_range.mpr hl)
  rw [BitVec.getLsbD_and]
  cases hm : m.getLsbD l <;> cases hx : x.getLsbD l <;> simp_all

/-- The lowest lane of a mask: it is in the mask, and none below it is. -/
theorem lowLane_beq (m : LaneMask) (l : Nat) :
    (lowLane m == some l) = (m.getLsbD l && !((List.range l).any fun k => m.getLsbD k)) := by
  rw [Bool.eq_iff_iff, beq_iff_eq, lowLane, List.find?_range_eq_some]
  simp only [Bool.and_eq_true, Bool.not_eq_true', List.any_eq_false, List.mem_range]
  constructor
  · rintro ⟨hl, -, hbelow⟩
    exact ⟨hl, fun k hk => by simpa using hbelow k hk⟩
  · rintro ⟨hl, hbelow⟩
    exact ⟨hl, BitVec.lt_of_getLsbD hl, fun k hk => by simpa using hbelow k hk⟩

/-! The classes of FCLASS. -/

/-- The fields of an FP32 code as numbers. -/
theorem decode_ff32 (w : Word) : ff32.decode w.toNat =
    (if w.extractLsb' 23 8 = 255 then
      (if w.extractLsb' 0 23 = 0 then .inf (w.getLsbD 31) else .nan (!(w.extractLsb' 0 23).getLsbD 22))
    else if w.extractLsb' 23 8 = 0 then .fin (w.getLsbD 31) (w.extractLsb' 0 23).toNat (-149)
    else .fin (w.getLsbD 31) ((w.extractLsb' 0 23).toNat + 2 ^ 23) ((w.extractLsb' 23 8).toNat - 127 - 23)) := by
  have hlt := w.isLt
  have he : (w.extractLsb' 23 8).toNat = w.toNat % 2 ^ 31 / 2 ^ 23 := by
    rw [BitVec.extractLsb'_toNat, Nat.shiftRight_eq_div_pow]; omega
  have hm : (w.extractLsb' 0 23).toNat = w.toNat % 2 ^ 31 % 2 ^ 23 := by
    rw [BitVec.extractLsb'_toNat, Nat.shiftRight_eq_div_pow]; omega
  have hneg : (w.toNat / 2 ^ 31 % 2 == 1) = w.getLsbD 31 := by
    rw [BitVec.getLsbD, Nat.testBit_eq_decide_div_mod_eq, beq_decide]
  have hquiet : (w.extractLsb' 0 23).getLsbD 22 = !(w.toNat % 2 ^ 31 % 2 ^ 23 / 2 ^ 22 == 0) := by
    rw [BitVec.getLsbD, hm, Nat.testBit_eq_decide_div_mod_eq, beq_decide, ← decide_not, decide_eq_decide]
    omega
  have he255 : w.extractLsb' 23 8 = 255 ↔ 0x7F7FFFFF < w.toNat % 2 ^ 31 := by
    rw [← BitVec.toNat_inj, he, show (255 : BitVec 8).toNat = 255 from rfl]; omega
  have he0 : w.extractLsb' 23 8 = 0 ↔ w.toNat % 2 ^ 31 / 2 ^ 23 = 0 := by
    rw [← BitVec.toNat_inj, he]; rfl
  have hm0 : w.extractLsb' 0 23 = 0 ↔ w.toNat % 2 ^ 31 % 2 ^ 23 = 0 := by
    rw [← BitVec.toNat_inj, hm]; rfl
  simp only [FFormat.decode, ff32, he255, he0, hm0, hneg, hquiet, hm, he, Nat.reduceSub, Bool.true_and, Bool.not_not]
  split
  · have hinf : (w.toNat % 2 ^ 31 == 0x7F7FFFFF + 1) = decide (w.toNat % 2 ^ 31 % 2 ^ 23 = 0) := by
      rw [beq_decide, decide_eq_decide]; omega
    simp only [hinf, decide_eq_true_eq]
  · simp only [beq_iff_eq]
    rfl

/-- A code's class, by its exponent and mantissa fields (R387). -/
theorem fclassV_eq (w : Word) : fclassV w =
    if w.extractLsb' 23 8 = 255 then
      (if w.extractLsb' 0 23 = 0 then (if w.getLsbD 31 then 0x001 else 0x080)
      else if (w.extractLsb' 0 23).getLsbD 22 then 0x200 else 0x100)
    else if w.extractLsb' 23 8 = 0 then
      (if w.extractLsb' 0 23 = 0 then (if w.getLsbD 31 then 0x008 else 0x010) else if w.getLsbD 31 then 0x004 else 0x020)
    else if w.getLsbD 31 then 0x002 else 0x040 := by
  have hm0 : (w.extractLsb' 0 23).toNat = 0 ↔ w.extractLsb' 0 23 = 0 := by
    rw [← BitVec.toNat_inj]; rfl
  have hlt := (w.extractLsb' 0 23).isLt
  rw [fclassV, decode_ff32]
  by_cases he255 : w.extractLsb' 23 8 = 255
  · by_cases hm : w.extractLsb' 0 23 = 0
    · rw [if_pos he255, if_pos hm, if_pos he255, if_pos hm]
      cases w.getLsbD 31 <;> rfl
    · rw [if_pos he255, if_neg hm, if_pos he255, if_neg hm]
      cases (w.extractLsb' 0 23).getLsbD 22 <;> rfl
  · rw [if_neg he255, if_neg he255]
    by_cases he0 : w.extractLsb' 23 8 = 0
    · rw [if_pos he0, if_pos he0]
      simp only [hm0, hlt, if_true]
      by_cases hm : w.extractLsb' 0 23 = 0
      · rw [if_pos hm, if_pos hm]
        cases w.getLsbD 31 <;> rfl
      · rw [if_neg hm, if_neg hm]
        cases w.getLsbD 31 <;> rfl
    · rw [if_neg he0, if_neg he0]
      simp only [show ¬ (w.extractLsb' 0 23).toNat + 2 ^ 23 = 0 by omega, show ¬ (w.extractLsb' 0 23).toNat + 2 ^ 23 < 2 ^ 23 by omega,
        if_false]
      cases w.getLsbD 31 <;> rfl

/-! The instructions. -/

/-- A triple written through its operand (R414). -/
theorem putTriple_s (s : State) (r : SplitRef) (k : BitVec 6) (m : LaneMask) : putTriple s r (.s k) m = tripleWritten s r k m := rfl

/-- VOTE's forms over the lanes of E where the predicate holds (R415). -/
theorem finishes_vote {c : Ctl} {form : VoteForm} {d a : Operand} {s : State} (hready : Ready (.vote c form d a) c s) :
    Finishes (.vote c form d a) s (
      let v := seen (.vote c form d a) c s
      let u := entered (.vote c form d a) s
      let hit := v.rdMask a &&& v.eff
      if v.eff = 0 then u else match form with
      | .every => putPred u v.r d v.eff fun _ => hit == v.eff
      | .some => putPred u v.r d v.eff fun _ => hit != 0
      | .alike => putPred u v.r d v.eff fun _ => hit == v.eff || hit == 0
      | .bits => putTriple u v.r d hit
      | .count => putAll u v.r d v.eff (BitVec.ofNat 32 (popCount hit))) := by
  refine finishes_of_run (c := c) rfl hready ?_
  by_cases heff : (seen (.vote c form d a) c s).eff = 0
  · exact (if_pos heff).trans (congrArg Res.done (if_pos heff).symm)
  · refine (if_neg heff).trans (Eq.trans ?_ (congrArg Res.done (if_neg heff).symm))
    cases form <;> rfl

/-- Settles O15: the votes by the counts of their lanes, the lowest lane, and the three moves and the classes as they read. -/
theorem predicateOperations : Obligations.PredicateOperations := by
  refine ⟨fun c form d a s => ?vote, fun c d s hready => ?elect, fun c n m k s => ⟨?ofPred, ?ofTriple, ?toTriple⟩,
    fun c d a s hready => ?fclass⟩
  case vote =>
    intro i v hit n m _ hready
    have hn : n = popCount (v.rdMask a &&& v.eff) := by
      simp only [n, hit, popCount_eq_countP_lanes, BitVec.getLsbD_and, rdP_eq_getLsbD, Bool.and_comm]
    have hall : (n == m) = (v.rdMask a &&& v.eff == v.eff) := by
      rw [hn, Bool.eq_iff_iff, beq_iff_eq, beq_iff_eq]
      exact popCount_and_eq_iff
    have hnone : (n == 0) = (v.rdMask a &&& v.eff == 0) := by
      rw [hn, Bool.eq_iff_iff, beq_iff_eq, beq_iff_eq]
      exact popCount_eq_zero_iff
    have hdone := finishes_vote hready
    rw [hall, bne, hnone, hn]
    cases form with
    | bits => cases d <;> exact hdone
    | every | some | alike | count => exact hdone
  case elect =>
    simp only [← lowLane_beq]
    exact finishes_of_run (c := c) rfl hready rfl
  case ofPred => exact fun hready => finishes_of_run (c := c) rfl hready rfl
  case ofTriple =>
    intro i x hready
    have hx : x 2 ++ x 1 ++ x 0 = (seen i c s).rdTriple (.s k) := by
      simp only [x, View.rdTriple, Operand.after, BitVec.add_zero]
    rw [hx]
    exact finishes_of_run (c := c) rfl hready rfl
  case toTriple => exact fun hready => finishes_of_run (c := c) rfl hready rfl
  case fclass =>
    refine ⟨fun l => fclassV ((seen (.fclass c d a) c s).rdFBits a l), ?_, fun l => fclassV_eq _⟩
    refine finishes_of_run (c := c) rfl hready ?_
    rw [bitLanes_eq_writtenPlain]

end Sys2Proof.Proofs
end

section
/-! PROOFS. Floating point (O16, O17): every instruction writes its rounded value and raises its flags lane by lane; rounding to
an integer, and the special values of FP32. -/
namespace Sys2Proof.Proofs
set_option Elab.async false

open Sys2Proof Sys2Proof.Machine Sys2Proof.Claims

/-! Arithmetic and conversion. -/

section
variable {i : Instr} {c : Ctl} {s : State} {d : Operand}

/-- An instruction of one value and flags per lane is done with them. -/
theorem exec_eq_written {w64 : Bool} {f : View → Nat → Nat × Flags}
    (hrun : exec i s = run i c s fun v u => .done (perLane v u w64 d (f v))) (hready : Ready i c s) :
    exec i s = .next (advance (written (entered i s) (seen i c s) w64 d (fun l => BitVec.ofNat 64 (f (seen i c s) l).1)
      (fun l => (f (seen i c s) l).2)) s.pick.ref) :=
  finishes_of_run hrun hready (congrArg Res.done (perLane_eq_written (fun _ => rfl) fun _ => rfl))

/-- Two halves as a word: element 0 below, element 1 above (R402). -/
theorem ofNat_halves (x y : Nat) : BitVec.ofNat 64 (x % 2 ^ 16 + 2 ^ 16 * (y % 2 ^ 16)) =
    (BitVec.ofNat 16 y ++ BitVec.ofNat 16 x : Word).setWidth 64 := by
  apply BitVec.eq_of_toNat_eq
  rw [BitVec.toNat_setWidth, BitVec.toNat_append, BitVec.toNat_ofNat, BitVec.toNat_ofNat, BitVec.toNat_ofNat,
    ← Nat.shiftLeft_add_eq_or_of_lt (Nat.mod_lt _ (by decide)), Nat.shiftLeft_eq]
  omega

/-- A packed-half instruction is done with both elements, each with its own flags. -/
theorem exec_eq_writtenHalves {f : View → Nat → Nat → Nat × Flags}
    (hrun : exec i s = run i c s fun v u => .done (halfLanes v u d (f v))) (hready : Ready i c s) :
    exec i s = .next (advance (written (entered i s) (seen i c s) false d
      (fun l => ((BitVec.ofNat 16 (f (seen i c s) l 1).1 ++ BitVec.ofNat 16 (f (seen i c s) l 0).1 : Word)).setWidth 64)
      (fun l => (f (seen i c s) l 0).2 ||| (f (seen i c s) l 1).2)) s.pick.ref) :=
  finishes_of_run hrun hready (congrArg Res.done (perLane_eq_written (fun _ => ofNat_halves _ _) fun _ => rfl))

end

/-- Settles O16: each instruction's value and flags per lane are its rule's. -/
theorem floatArithmetic : Obligations.FloatArithmetic := by
  intro c rm ftz d a b e s done halves
  have hdone : ∀ i w64 f, exec i s = run i c s (fun v u => .done (perLane v u w64 d (f v))) → done i w64 f :=
    fun i w64 f => exec_eq_written
  have hhalves : ∀ i f, exec i s = run i c s (fun v u => .done (halfLanes v u d (f v))) → halves i f :=
    fun i f => exec_eq_writtenHalves
  clear_value done halves
  exact ⟨hdone _ _ _ rfl, hdone _ _ _ rfl, hdone _ _ _ rfl, hdone _ _ _ rfl, hdone _ _ _ rfl, hdone _ _ _ rfl,
    hdone _ _ _ rfl, hdone _ _ _ rfl, fun df sf sat => hdone _ _ _ rfl, fun ty => hdone _ _ _ rfl, fun ty => hdone _ _ _ rfl,
    fun bf => hdone _ _ _ rfl, fun ty pos lut => hdone _ _ _ rfl,
    fun bf => ⟨hhalves _ _ rfl, hhalves _ _ rfl, hhalves _ _ rfl, hhalves _ _ rfl, hhalves _ _ rfl⟩⟩

/-! Rounding to an integer (R31). -/

theorem lt_two_pow_bitLen (m : Nat) : m < 2 ^ bitLen m := by
  rw [bitLen]
  split
  · next h => rw [h]; decide
  · exact Nat.lt_log2_self

/-- Whether a mode rounds the magnitude m × 2^(−k) up (R31). -/
def roundsUp (rm : Rnd) (neg : Bool) (m k : Nat) : Bool :=
  match rm with
  | .rne => decide (2 ^ k < 2 * (m % 2 ^ k)) || (decide (2 * (m % 2 ^ k) = 2 ^ k) && decide (m / 2 ^ k % 2 = 1))
  | .rtz => false
  | .rdn => neg && decide (m % 2 ^ k ≠ 0)
  | .rup => !neg && decide (m % 2 ^ k ≠ 0)

/-- Rounding a shift to the right: the floor, or one more where the mode says so. -/
theorem roundShift_pos (rm : Rnd) (neg : Bool) (m : Nat) {k : Nat} (hk : 0 < k) : roundShift rm neg m k =
    (if roundsUp rm neg m k then m / 2 ^ k + 1 else m / 2 ^ k, decide (m % 2 ^ k ≠ 0)) := by
  obtain ⟨j, rfl⟩ := Nat.exists_eq_succ_of_ne_zero (Nat.ne_of_gt hk)
  have hkpos : ¬ ((j.succ : Nat) : Int) ≤ 0 := by omega
  have hpow : 2 ^ j.succ = 2 * 2 ^ j := Nat.pow_succ'
  rw [roundShift, if_neg hkpos]
  simp only [Int.toNat_natCast, Nat.succ_sub_one]
  by_cases hfar : bitLen m < j.succ
  · have hm : m < 2 ^ j := Nat.lt_of_lt_of_le (lt_two_pow_bitLen m) (Nat.pow_le_pow_right (by decide) (by omega))
    have hlt : m < 2 ^ j.succ := by omega
    have hnot : ¬ 2 ^ j.succ < 2 * m := by omega
    have hne : ¬ 2 * m = 2 ^ j.succ := by omega
    simp only [hfar, decide_true, if_true]
    cases rm <;> simp [bne, beq_decide, roundsUp, Nat.mod_eq_of_lt hlt, Nat.div_eq_of_lt hlt, hnot, hne]
  · have habove : decide (m % 2 ^ j.succ > 2 ^ j) = decide (2 ^ j.succ < 2 * (m % 2 ^ j.succ)) := by
      rw [decide_eq_decide]; omega
    have hhalf : (m % 2 ^ j.succ == 2 ^ j) = decide (2 * (m % 2 ^ j.succ) = 2 ^ j.succ) := by
      rw [beq_decide, decide_eq_decide]; omega
    simp only [hfar, decide_false, if_false, Nat.shiftRight_eq_div_pow, Bool.not_false, Bool.true_and, habove,
      hhalf, bne, beq_decide, ← decide_not]
    cases rm <;> rfl

/-! Special values of FP32. -/

/-- A flag word with NV in it. -/
theorem getLsbD_or_flagNV (x y : Flags) (h : x.getLsbD 0 = true ∨ y.getLsbD 0 = true) : (x ||| y).getLsbD 0 = true := by
  rw [BitVec.getLsbD_or]
  rcases h with h | h <;> simp [h]

/-- A signalling operand raises NV (R25). -/
theorem snanFlag_signalling (xs : List FVal) : snanFlag (.nan true :: xs) = flagNV := by
  simp [snanFlag, flagIf]

/-- Without a NaN none is raised. -/
theorem snanFlag_eq_zero {xs : List FVal} (h : ∀ x ∈ xs, x.isNan = false) : snanFlag xs = 0 := by
  have hany : xs.any (· == .nan true) = false := by
    refine List.any_eq_false.mpr fun x hx => ?_
    have := h x hx
    cases x <;> simp_all [FVal.isNan]
  rw [snanFlag, hany]
  rfl

theorem sumV_nan (rm : Rnd) (q : Bool) (x : FVal) : sumV rm [.nan q, x] = (.nan false, false) := rfl

theorem sumV_nan_right (rm : Rnd) (q : Bool) (x : FVal) : sumV rm [x, .nan q] = (.nan false, false) := by
  simp [sumV]

theorem mulV_nan_right (q : Bool) (x : FVal) : ∃ r, mulV x (.nan q) = (.nan r, false) := by
  cases x <;> exact ⟨_, rfl⟩

/-- A number and its negation have the exact sum 0, signed by R35. -/
theorem sumV_negate (rm : Rnd) (n : Bool) {m : Nat} (hm : 0 < m) (e : Int) :
    sumV rm [.fin n m e, .fin (!n) m e] = (.fin (rm == .rdn) 0 0, false) := by
  obtain ⟨j, rfl⟩ := Nat.exists_eq_succ_of_ne_zero (Nat.ne_of_gt hm)
  have hmin : minExpo [.fin n j.succ e, .fin (!n) j.succ e] = e := by
    simp [minExpo, FVal.expo]
  have hneg : ∀ b : Bool, (FVal.fin b j.succ e).scaled e = if b then -(j.succ : Int) else j.succ := by
    intro b
    simp [FVal.scaled]
  simp only [sumV, sumFin, hmin, List.foldl_cons, List.foldl_nil, hneg]
  cases n
  · have hzero : (j.succ : Int) + -(j.succ : Int) = 0 := Int.add_right_neg _
    simp [FVal.isNeg, -Nat.succ_eq_add_one, -Int.natCast_add, hzero]
  · have hzero : -(j.succ : Int) + (j.succ : Int) = 0 := Int.add_left_neg _
    simp [FVal.isNeg, -Nat.succ_eq_add_one, -Int.natCast_add, hzero]

/-- Settles O17. -/
theorem floatRounding : Obligations.FloatRounding := by
  refine ⟨fun rm neg m k hk => ?rounding, fun rm ftz q x => ?nan, fun rm ftz n => ?infinities, fun rm ftz n p e => ?zeroTimes,
    fun rm ftz n p e x => ?fused, fun rm ftz n m e hm => ?cancel, ?mulExample, ?fmaExample⟩
  case rounding =>
    intro q f
    have hround := roundShift_pos rm neg m hk
    have hq := congrArg Prod.fst hround
    change q = _ at hq
    refine ⟨by rw [hround]; exact decide_eq_true_iff, fun hz => ?_, fun hnz => ?_⟩
    · rw [hq]
      have hpow := Nat.two_pow_pos k
      cases rm <;> simp [roundsUp, hz, f, Nat.ne_of_lt hpow]
    · cases rm with
      | rtz => exact hq
      | rdn | rup => cases neg <;> simpa [roundsUp, hnz] using hq
      | rne =>
        refine ⟨fun hlow => ?_, fun hhigh => ?_, fun htie => ?_⟩
        · simpa [roundsUp, Nat.lt_asymm hlow, Nat.ne_of_lt hlow] using hq
        · simpa [roundsUp, hhigh] using hq
        · have hodd : q = if f % 2 = 1 then f + 1 else f := by simpa [roundsUp, htie] using hq
          split at hodd <;> omega
  case nan =>
    obtain ⟨r, hr⟩ := mulV_nan_right q x
    refine ⟨?_, ?_, ?_, ?_, fun hq => ⟨?_, ?_⟩⟩
    · rw [FFormat.add, sumV_nan]; rfl
    · rw [FFormat.add, sumV_nan_right]; rfl
    · rfl
    · rw [FFormat.mul, hr]; rfl
    · subst hq
      exact getLsbD_or_flagNV _ _ (.inr (by rw [snanFlag_signalling]; rfl))
    · subst hq
      exact getLsbD_or_flagNV _ _ (.inr (by rw [snanFlag_signalling]; rfl))
  case infinities => cases n <;> rfl
  case zeroTimes =>
    rw [FFormat.mul, snanFlag_eq_zero (by simp [FVal.isNan])]
    rfl
  case fused =>
    rw [FFormat.fma, show mulV (.inf n) (.fin p 0 e) = (.nan false, true) from rfl]
    refine ⟨?_, ?_⟩
    · simp only [sumV_nan]; rfl
    · refine getLsbD_or_flagNV _ _ (.inl (getLsbD_or_flagNV _ _ (.inr ?_)))
      rw [Bool.true_or]
      rfl
  case cancel =>
    rw [FVal.negate, FFormat.add, sumV_negate rm n hm, snanFlag_eq_zero (by simp [FVal.isNan])]
    cases rm <;> rfl
  case mulExample => decide
  case fmaExample => decide

end Sys2Proof.Proofs
end

section
/-! PROOFS. Long-latency instructions (O18, O19): their results are awaited; the special functions' special operands; the moves
between lanes. -/
namespace Sys2Proof.Proofs
set_option Elab.async false

open Sys2Proof Sys2Proof.Machine Sys2Proof.Claims

/-! Awaited results. -/

/-- A result known at issue joins the strand's awaited ones (R140, R271). -/
theorem pend_eq_awaiting (s : State) (v : View) (c : Ctl) (dst : List Operand) (lanes : LaneMask) (vals : List LaneVec)
    (fl : Flags) : pend s v c dst lanes vals fl = awaiting s v c dst lanes vals fl := by
  simp only [awaiting, Nat.add_right_comm v.pos c.la.toNat 1]
  rfl

/-- The special-function unit marks its own (R15). -/
theorem sfuPend_eq_awaitingSfu (v : View) (s : State) (c : Ctl) (d : Operand) (f : Nat → Nat × Flags) :
    sfuPend v s c d f = awaitingSfu s v c d f := by
  have hpend := pend_eq_awaiting s v c [d] v.eff
    [(List.range 96).map fun l => BitVec.ofNat 32 (if v.eff.getLsbD l then (f l).1 else 0)]
    (joinFlags ((List.range 96).map fun l => if v.eff.getLsbD l then (f l).2 else noFlag))
  rw [pend] at hpend
  simp only [sfuPend, List.map_map, Function.comp_def, apply_ite Prod.fst, apply_ite Prod.snd, awaitingSfu, noFlag] at hpend ⊢
  simp only [hpend, updPending]
  rfl

/-- An entry that a lookup finds is one of the table. -/
theorem any_of_get {α : Type} {t : Tab α} {d : α} {k : Nat} {p : Nat × α → Bool} (hd : p (k, d) = false)
    (h : p (k, t.get d k) = true) : t.any p = true := by
  induction t with
  | nil => rw [Tab.get, hd] at h; cases h
  | cons e r ih =>
    rw [List.any_cons]
    rw [Tab.get] at h
    split at h
    · next hk => rw [hk] at h; simp [h]
    · simp [ih h]

/-- Replacing an entry by one alike for a condition leaves whether any meets it. -/
theorem any_set {α : Type} {t : Tab α} {d v : α} {k : Nat} {p : Nat × α → Bool} (hd : p (k, d) = false)
    (hv : p (k, v) = p (k, t.get d k)) : (t.set k v).any p = t.any p := by
  induction t with
  | nil => rw [Tab.set, List.any_cons, hv, Tab.get, hd, Bool.false_or]
  | cons e r ih =>
    obtain ⟨k', v'⟩ := e
    rw [Tab.set]
    split
    · next hk =>
      subst hk
      rw [Tab.get, if_pos rfl] at hv
      rw [List.any_cons, List.any_cons, hv]
    · next hk =>
      split
      · rw [List.any_cons]
        cases hp : p (k, v)
        · rw [Bool.false_or]
        · rw [Bool.true_or, any_of_get hd (hv ▸ hp)]
      · rw [Tab.get, if_neg hk] at hv
        rw [List.any_cons, List.any_cons, ih hv]

/-! What an instruction sees of its strand: entering keeps all but the tick's high half. -/

theorem entered_eq (i : Instr) (s : State) :
    entered i s = s ∨ ∃ x, entered i s = s.setSplit s.pick.ref { s.split s.pick.ref with tickHi := x } := by
  rw [entered, sampleTick]
  split
  · exact .inr ⟨_, rfl⟩
  · exact .inl rfl

/-- Whether the unit holds an instruction does not change on entering (R15). -/
theorem sfuHolds_entered (i : Instr) (s : State) : sfuHolds (entered i s) s.pick.ref = unitBusy s := by
  rcases entered_eq i s with h | ⟨x, h⟩
  · rw [h]; rfl
  · rw [h, sfuHolds, unitBusy, State.setSplit, State.setStrand, State.setStrandAt, State.core_setCore]
    exact any_set (d := {}) (by simp) rfl

/-! Special functions. -/

theorem sfuRun_eq (v : View) (s : State) (c : Ctl) (d : Operand) (f : Nat → Nat × Flags) : sfuRun v s c d f =
    if s.pick.flag && sfuHolds s v.r then .stay 22 s else .done (awaitingSfu s v c d f) := by
  rw [sfuRun, sfuPend_eq_awaitingSfu]

theorem exec_of_specialOp {i : Instr} {c : Ctl} {d : Operand} {f : View → Nat → Nat × Flags}
    (h : specialOp i = some (c, d, f)) (s : State) : exec i s = run i c s fun v u => sfuRun v u c d (f v) := by
  cases i with
  | frcp | frsq | fsqrt | fex2 | flg2 | fsin | fcos | ftanh => cases h; rfl
  | _ => cases h

theorem pick_entered (i : Instr) (s : State) : (entered i s).pick = s.pick := by
  rcases entered_eq i s with h | ⟨x, h⟩ <;> rw [h]
  rfl

theorem fxOf_zero (e : Int) : fxOf 0 e = 0 := by
  rw [fxOf]
  split <;> simp

/-- The turn of no angle: sine leaves the zero it was given, cosine gives 1. -/
theorem turnsV_zero (fn : Nat) (w : Word) (ftz neg isCos : Bool) (zeroCode : Nat) :
    turnsV fn w ftz neg isCos 0 zeroCode = if isCos then (smallFloat (if neg then -1 else 1), noFlag) else (zeroCode, noFlag) := by
  cases isCos <;> cases neg <;> simp [turnsV]

theorem smallFloat_one : smallFloat 1 = 0x3F800000 := by decide
theorem smallFloat_neg_one : smallFloat (-1) = 0xBF800000 := by decide

theorem fsinV_zero (w : Word) (ftz n : Bool) (e : Int) : fsinV w ftz (.fin n 0 e) = (ff32.sign n, 0) := by
  rw [fsinV, fxOf_zero, Nat.zero_mod, turnsV_zero]
  rfl

theorem fcosV_zero (w : Word) (ftz n : Bool) (e : Int) : fcosV w ftz (.fin n 0 e) = (0x3F800000, 0) := by
  rw [fcosV, fxOf_zero, Nat.zero_mod, turnsV_zero]
  exact congrArg (·, noFlag) smallFloat_one

/-- Settles O18. -/
theorem specialFunctions : Obligations.SpecialFunctions := by
  refine ⟨fun i c d f s hop hready => ⟨fun hfree => ?done, fun hflag hbusy => ?full⟩, ?table⟩
  case done =>
    refine finishes_of_run (exec_of_specialOp hop s) hready ?_
    have hno : ((entered i s).pick.flag && sfuHolds (entered i s) s.pick.ref) = false := by
      rw [pick_entered, sfuHolds_entered, Bool.and_eq_false_iff]
      exact hfree
    rw [sfuRun_eq]
    exact if_neg (ne_true_of_eq_false hno)
  case full =>
    refine waits_of_run (exec_of_specialOp hop s) hready ?_
    have hfull : ((entered i s).pick.flag && sfuHolds (entered i s) s.pick.ref) = true := by
      rw [pick_entered, sfuHolds_entered, hflag, hbusy]
      rfl
    rw [sfuRun_eq]
    exact if_pos hfull
  case table =>
    intro nan inf m nv dz ftz q w e
    have hnan : nanResult q = (nan, if q then nv else 0) := rfl
    have hinvalid : nanResult true = (nan, nv) := rfl
    refine ⟨hnan, hnan, hnan, hnan, hnan, hnan, hnan, hnan, ?_⟩
    refine ⟨rfl, hinvalid, hinvalid, rfl, hinvalid, hinvalid, hinvalid, congrArg (·, noFlag) smallFloat_neg_one, ?_⟩
    refine ⟨rfl, rfl, rfl, congrArg (·, noFlag) smallFloat_one, rfl, fsinV_zero .., fcosV_zero .., rfl, ?_⟩
    refine ⟨rfl, rfl, rfl, congrArg (·, noFlag) smallFloat_one, rfl, fsinV_zero .., fcosV_zero .., rfl, ?_⟩
    exact ⟨rfl, rfl, rfl, rfl, rfl, hinvalid, hinvalid, congrArg (·, noFlag) smallFloat_one⟩

/-! Moves between lanes. -/

theorem laneOf_natCast (j : Nat) :
    (if (j : Int) < 0 ∨ 96 ≤ (j : Int) then none else some (j : Int).toNat) = if j < 96 then some j else none := by
  by_cases h : j < 96
  · rw [if_neg (by omega), if_pos h, Int.toNat_natCast]
  · rw [if_pos (by omega), if_neg h]

theorem shflLane_eq_sourceLane (form : ShflForm) (l k : Nat) : shflLane form l k = sourceLane form l k := by
  cases form with
  | back =>
    by_cases h : k ≤ l
    · simp only [shflLane, sourceLane, if_pos h, ← Int.ofNat_sub h, laneOf_natCast]
    · simp [shflLane, sourceLane, h]
  | pick | flip | rot => exact (laneOf_natCast _).symm
  | fwd => simp only [shflLane, sourceLane, ← Int.natCast_add, laneOf_natCast]

/-- The highest lane of those that send to a lane (R418). -/
theorem permSource_eq_find (v : View) (b : Operand) (j : Nat) :
    permSource v b j = (List.range 96).reverse.find? fun l => v.eff.getLsbD l && (v.rd b l).toNat == j := by
  rw [permSource, lanesOf, ← List.filter_reverse, List.find?_filter]
  simp only [Bool.decide_and, Bool.decide_eq_true]

theorem laneValues_congr {m : LaneMask} {f g : Nat → Word} (h : ∀ l < 96, f l = g l) : laneValues m f = laneValues m g :=
  List.map_congr_left fun l hl => by rw [h l (List.mem_range.mp hl)]

/-- The lowest lane of the mask of a condition is the first that meets it. -/
theorem lowLane_maskWhere (p : Nat → Bool) : lowLane (maskWhere p) = (List.range 96).find? p :=
  find?_congr fun _ hl => getLsbD_maskWhere _ (List.mem_range.mp hl)

theorem popCount_maskWhere (p : Nat → Bool) : popCount (maskWhere p) = (List.range 96).countP p :=
  List.countP_congr fun l hl => by rw [getLsbD_maskWhere _ (List.mem_range.mp hl)]

/-- A lane's rank: the lanes below it that meet the condition. -/
theorem countP_lanesOf_maskWhere (p : Nat → Bool) {l : Nat} (hl : l < 96) :
    (lanesOf (maskWhere p)).countP (· < l) = (List.range l).countP p := by
  obtain ⟨n, hn⟩ := Nat.exists_eq_add_of_le (Nat.le_of_lt hl)
  have hbelow : (List.range l).countP (fun k => decide (k < l) && (maskWhere p).getLsbD k) = (List.range l).countP p :=
    List.countP_congr fun k hk => by
      have hk := List.mem_range.mp hk
      rw [getLsbD_maskWhere _ (Nat.lt_trans hk hl), decide_eq_true hk, Bool.true_and]
  have hrange : List.range 96 = List.range l ++ (List.range n).map (l + ·) := by rw [← List.range_add, ← hn]
  rw [lanesOf, List.countP_filter, hrange, List.countP_append, List.countP_map, hbelow]
  have hnone : ∀ k ∈ List.range n, ¬ (((fun k => decide (k < l) && (maskWhere p).getLsbD k) ∘ (l + ·)) k = true) := fun k _ h => by
    have hlt : l + k < l := of_decide_eq_true (Bool.and_eq_true_iff.mp h).1
    omega
  rw [List.countP_eq_zero.mpr hnone, Nat.add_zero]

/-- Settles O19. -/
theorem laneMoves : Obligations.LaneMoves := by
  refine ⟨fun c form d a b s => ?shfl, fun c d a b s => ?perm, fun c d a b s => ?bcast, fun c w64 d a s => ?groups,
    fun c w64 d a s => ?ranks⟩
  case shfl =>
    intro i v hready
    simp only [← shflLane_eq_sourceLane, ← pend_eq_awaiting]
    exact finishes_of_run (c := c) rfl hready rfl
  case perm =>
    intro i v sender got first hready
    have hsender : permSource (seen i c s) b = sender := funext fun j => permSource_eq_find _ b j
    have hfirst : maskWhere (fun j => lowLane (seen i c s).eff == some j) = first := by
      simp only [lowLane_beq]
      rfl
    rw [← pend_eq_awaiting]
    refine finishes_of_run (c := c) rfl hready ?_
    simp only [hsender, hfirst]
    cases d with
    | s n => rfl
    | _ => simp only [BitVec.and_allOnes]; rfl
  case bcast =>
    intro i v j hready
    rw [← pend_eq_awaiting]
    refine finishes_of_run (c := c) rfl hready ?_
    simp only [Bool.and_eq_true, decide_eq_true_eq]
    rfl
  case groups =>
    intro i v group hready
    rw [← pend_eq_awaiting]
    exact finishes_of_run (c := c) rfl hready rfl
  case ranks =>
    intro i v same hready
    have hlow : ∀ l, lowLane (matchGroup v w64 a l) = (List.range 96).find? (same l) := fun l => lowLane_maskWhere _
    have hsize : ∀ l, popCount (matchGroup v w64 a l) = (List.range 96).countP (same l) := fun l => popCount_maskWhere _
    have hrank : ∀ l < 96, (lanesOf (matchGroup v w64 a l)).countP (· < l) = (List.range l).countP (same l) :=
      fun l hl => countP_lanesOf_maskWhere _ hl
    have hranks : (laneValues v.eff fun l => BitVec.ofNat 32 ((List.range l).countP (same l))) =
        laneValues v.eff fun l => BitVec.ofNat 32 ((lanesOf (matchGroup v w64 a l)).countP (· < l)) :=
      laneValues_congr fun l hl => by rw [hrank l hl]
    rw [hranks, ← pend_eq_awaiting]
    simp only [← hlow, ← hsize]
    exact finishes_of_run (c := c) rfl hready rfl

end Sys2Proof.Proofs
end

section
/-! PROOFS. Reductions and scans by the fixed tree (O20), and FSTAT (O21). -/
namespace Sys2Proof.Proofs
set_option Elab.async false

open Sys2Proof Sys2Proof.Machine Sys2Proof.Claims

/-! Sums of words. -/

/-- The sum of the words of a list, modulo 2^32. -/
def wordSum (xs : List Word) : Word := xs.foldl (· + ·) 0

@[simp] theorem wordSum_nil : wordSum [] = 0 := rfl

theorem wordSum_append (xs ys : List Word) : wordSum (xs ++ ys) = wordSum xs + wordSum ys := by
  have hzero : ∀ x : Word, x + 0 = x := BitVec.add_zero
  rw [wordSum, List.foldl_append, ← hzero (List.foldl _ 0 xs), List.foldl_assoc]
  rfl

theorem wordSum_cons (x : Word) (xs : List Word) : wordSum (x :: xs) = x + wordSum xs := by
  rw [← List.singleton_append, wordSum_append, wordSum, List.foldl_cons, List.foldl_nil,
    show (0 : Word) + x = x from BitVec.zero_add x]

/-! The tree. -/

/-- A block of the tree twice as long is its two halves. -/
theorem map_range_two_pow_succ {α : Type} (f : Nat → α) (j q : Nat) :
    (List.range (2 ^ (j + 1))).map (fun k => f (q * 2 ^ (j + 1) + k)) =
      (List.range (2 ^ j)).map (fun k => f (2 * q * 2 ^ j + k)) ++
        (List.range (2 ^ j)).map fun k => f ((2 * q + 1) * 2 ^ j + k) := by
  have hdouble : q * 2 ^ (j + 1) = 2 * q * 2 ^ j := by rw [Nat.pow_succ', ← Nat.mul_assoc, Nat.mul_comm q 2]
  have hlow : ∀ k, q * 2 ^ (j + 1) + k = 2 * q * 2 ^ j + k := fun k => by rw [hdouble]
  have hhigh : ∀ k, q * 2 ^ (j + 1) + (2 ^ j + k) = (2 * q + 1) * 2 ^ j + k := fun k => by
    rw [hdouble, Nat.add_mul (2 * q) 1, Nat.one_mul, Nat.add_assoc]
  rw [show 2 ^ (j + 1) = 2 ^ j + 2 ^ j by rw [Nat.pow_succ, Nat.mul_two], List.range_add, List.map_append, List.map_map]
  simp only [Function.comp_def, ← Nat.two_mul, ← Nat.pow_succ', ← hlow, ← hhigh]

theorem redNode_add {ty : RTy} (h : ty ≠ .f32) (ftz : Bool) (x y : Word) : redNode .add ty ftz x y = (x + y, noFlag) := by
  cases ty with
  | f32 => exact absurd rfl h
  | _ => rfl

/-- A sum by the tree is the sum of its leaves (R50). -/
theorem redTree_add {ty : RTy} (h : ty ≠ .f32) (ftz : Bool) (leaf : Nat → Word) (j q : Nat) :
    (redTree .add ty ftz leaf j q).1 = wordSum ((List.range (2 ^ j)).map fun k => leaf (q * 2 ^ j + k)) := by
  induction j generalizing q with
  | zero => simp [redTree, wordSum]
  | succ j ih => rw [redTree, redJoin, redNode_add h, ih, ih, map_range_two_pow_succ leaf, wordSum_append]

theorem redTree_and (ty : RTy) (ftz : Bool) (leaf : Nat → Word) (j q k : Nat) : (redTree .and ty ftz leaf j q).1.getLsbD k =
    (decide (k < 32) && (List.range (2 ^ j)).all fun n => (leaf (q * 2 ^ j + n)).getLsbD k) := by
  induction j generalizing q with
  | zero =>
    have hlt : (leaf q).getLsbD k = true → k < 32 := BitVec.lt_of_getLsbD
    cases hk : (leaf q).getLsbD k <;> simp_all [redTree]
  | succ j ih =>
    have hnode : (redTree .and ty ftz leaf (j + 1) q).1 =
        (redTree .and ty ftz leaf j (2 * q)).1 &&& (redTree .and ty ftz leaf j (2 * q + 1)).1 := by cases ty <;> rfl
    have hall := congrArg (fun l => l.all id) (map_range_two_pow_succ (fun n => (leaf n).getLsbD k) j q)
    simp only [List.all_append, List.all_map, Function.comp_def, id] at hall
    rw [hnode, BitVec.getLsbD_and, ih, ih, hall]
    cases decide (k < 32) <;> simp

theorem redTree_or (ty : RTy) (ftz : Bool) (leaf : Nat → Word) (j q k : Nat) : (redTree .or ty ftz leaf j q).1.getLsbD k =
    (List.range (2 ^ j)).any fun n => (leaf (q * 2 ^ j + n)).getLsbD k := by
  induction j generalizing q with
  | zero => simp [redTree]
  | succ j ih =>
    have hnode : (redTree .or ty ftz leaf (j + 1) q).1 =
        (redTree .or ty ftz leaf j (2 * q)).1 ||| (redTree .or ty ftz leaf j (2 * q + 1)).1 := by cases ty <;> rfl
    have hany := congrArg (fun l => l.any id) (map_range_two_pow_succ (fun n => (leaf n).getLsbD k) j q)
    simp only [List.any_append, List.any_map, Function.comp_def, id] at hany
    rw [hnode, BitVec.getLsbD_or, ih, ih, hany]

/-! Scans. -/

/-- The blocks of a scan combined are their sums added. -/
theorem foldl_redJoin_add {ty : RTy} (h : ty ≠ .f32) (ftz : Bool) (x : Word × Flags) (xs : List (Word × Flags)) :
    (xs.foldl (redJoin .add ty ftz) x).1 = x.1 + wordSum (xs.map (·.1)) := by
  induction xs generalizing x with
  | nil => simp
  | cons y ys ih =>
    rw [List.foldl_cons, ih, redJoin, redNode_add h, List.map_cons, wordSum_cons, BitVec.add_assoc]

/-- The blocks below a level, from a position aligned to it, cover the number's low bits (R51). -/
theorem wordSum_scanBlocks {ty : RTy} (h : ty ≠ .f32) (ftz : Bool) (leaf : Nat → Word) (n j q : Nat) :
    wordSum ((scanBlocks n j (q * 2 ^ j)).map fun b => (redTree .add ty ftz leaf b.1 b.2).1) =
      wordSum ((List.range (n % 2 ^ j)).map fun k => leaf (q * 2 ^ j + k)) := by
  induction j generalizing q with
  | zero => simp [scanBlocks, Nat.mod_one]
  | succ j ih =>
    have hlow : q * 2 ^ (j + 1) = 2 * q * 2 ^ j := by rw [Nat.pow_succ', ← Nat.mul_assoc, Nat.mul_comm q 2]
    have hhigh : q * 2 ^ (j + 1) + 2 ^ j = (2 * q + 1) * 2 ^ j := by rw [hlow, Nat.add_mul (2 * q) 1, Nat.one_mul]
    rw [scanBlocks, Nat.mod_pow_succ, Nat.testBit_eq_decide_div_mod_eq]
    rcases Nat.mod_two_eq_zero_or_one (n / 2 ^ j) with hbit | hbit
    · rw [if_neg (by simp [hbit]), hbit, hlow, ih, Nat.mul_zero, Nat.add_zero]
    · rw [if_pos (by simp [hbit]), hbit, Nat.mul_one, Nat.add_comm (n % _), List.range_add, List.map_append, List.map_map,
        wordSum_append, List.map_cons, wordSum_cons, hhigh, ih, hlow, Nat.mul_div_cancel _ (Nat.two_pow_pos j), redTree_add h]
      simp only [Function.comp_def, ← Nat.add_assoc, ← hlow, ← hhigh]

/-- A scan of an addition is the sum of the leaves it covers (R51). -/
theorem scanValue_add {ty : RTy} (h : ty ≠ .f32) (ftz : Bool) (leaf : Nat → Word) {n : Nat} (hn : n ≤ 128) :
    (scanValue .add ty ftz leaf n).1 = wordSum ((List.range n).map leaf) := by
  have hblocks := wordSum_scanBlocks h ftz leaf n 8 0
  rw [Nat.mod_eq_of_lt (show n < 2 ^ 8 by omega)] at hblocks
  simp only [Nat.zero_mul, Nat.zero_add] at hblocks
  rw [← hblocks, scanValue]
  cases scanBlocks n 8 0 with
  | nil => cases ty with
    | f32 => exact absurd rfl h
    | _ => rfl
  | cons b bs =>
    rw [List.map_cons, List.map_cons, wordSum_cons]
    simp only [foldl_redJoin_add h, List.map_map, Function.comp_def]

/-! The instructions. -/

theorem leaf_eq_ite (v : View) (op : ROp) (ty : RTy) (a : Operand) : v.leaf op ty a =
    fun l => if l < 96 ∧ v.eff.getLsbD l = true then v.rdRed ty a l else redIdentity op ty := by
  funext l
  simp only [View.leaf, Bool.and_eq_true, decide_eq_true_eq]

/-- Settles O20: the tree by its levels, and sums, conjunctions and disjunctions of its leaves. -/
theorem reductions : Obligations.Reductions := by
  refine ⟨fun c op ty ftz d a s => ?lred, fun c op ty ftz excl d a s => ?lscan, fun op ty ftz leaf j q => rfl,
    fun ty ftz leaf j q h => redTree_add h ftz leaf j q, redTree_and, redTree_or, fun ty ftz leaf n h => scanValue_add h ftz leaf⟩
  case lred =>
    intro i v leaf hready heff
    rw [← pend_eq_awaiting, show leaf = v.leaf op ty a from (leaf_eq_ite v op ty a).symm]
    exact finishes_of_run (c := c) rfl hready (if_neg heff)
  case lscan =>
    intro i v leaf at_ hready
    have hleaf : leaf = v.leaf op ty a := (leaf_eq_ite v op ty a).symm
    rw [← pend_eq_awaiting]
    refine finishes_of_run (c := c) rfl hready ?_
    simp only [List.map_map, Function.comp_def, apply_ite Prod.fst, apply_ite Prod.snd, at_, hleaf]
    rfl

/-- Settles O21: the flags are read once no result is awaited. -/
theorem flagRead : Obligations.FlagRead := by
  intro c d s i v hready
  refine ⟨fun heff hres => ?read, fun heff hres => ?wait, fun heff => ?none⟩
  case read =>
    refine finishes_of_run (c := c) rfl hready ((if_neg heff).trans (if_neg ?_))
    have hempty : (seen i c s).st.results = [] := hres
    simp [hempty]
  case wait =>
    refine waits_of_run (c := c) rfl hready ((if_neg heff).trans (if_pos ?_))
    have hsome : (seen i c s).st.results ≠ [] := hres
    simpa using hsome
  case none => exact finishes_of_run (c := c) rfl hready (if_pos heff)

end Sys2Proof.Proofs
end

section
/-! PROOFS. The frame of register instructions (O22): each writes its destinations alone, and so does what follows it. -/
namespace Sys2Proof.Proofs
set_option Elab.async false

open Sys2Proof Sys2Proof.Machine Sys2Proof.Claims

/-! What an instruction's own effect writes. -/

/-- The instruction's own effect writes its destinations alone and is done, or waits for a full special-function unit. -/
def Effects (i : Instr) (ds : List Operand) : Prop :=
  ∃ c body, i.ctl = some c ∧ (∀ s, exec i s = run i c s body) ∧ ∀ v u,
    (u.pick.flag = true ∧ sfuHolds u v.r = true ∧ body v u = .stay 22 u) ∨
    ∃ w, body v u = .done w ∧ Wrote ds v.r.core v.r.slot u w

section
variable {i : Instr} {c : Ctl} {d : Operand} (hctl : i.ctl = some c)
include hctl

theorem effects_of_wrote {ds : List Operand} {f : View → State → State} (hrun : ∀ s, exec i s = run i c s fun v u => .done (f v u))
    (h : ∀ v u, Wrote ds v.r.core v.r.slot u (f v u)) : Effects i ds :=
  ⟨c, _, hctl, hrun, fun v u => .inr ⟨_, rfl, h v u⟩⟩

/-- One value and flags per lane. -/
theorem effects_perLane {w64 : Bool} {f : View → Nat → Nat × Flags}
    (hrun : ∀ s, exec i s = run i c s fun v u => .done (perLane v u w64 d (f v))) : Effects i (oneOrPair w64 d) := by
  refine effects_of_wrote hctl hrun fun v u => wrote_perLane _ v u w64 d _ ?_ ?_
  · cases w64 <;> exact List.mem_cons_self ..
  · rintro rfl
    exact List.mem_cons_of_mem _ (List.mem_cons_self ..)

/-- A predicate in the effective lanes. -/
theorem effects_putPred {p : View → Nat → Bool} (hrun : ∀ s, exec i s = run i c s fun v u => .done (putPred u v.r d v.eff (p v))) :
    Effects i [d] :=
  effects_of_wrote hctl hrun fun _ _ => wrote_putLanes _ _ _ _ _ _ (List.mem_cons_self ..)

/-- A 32-bit result with a carry or borrow predicate. -/
theorem effects_carry {e : Operand} {f : View → Nat → Nat × Flags} {p : View → Nat → Bool}
    (hrun : ∀ s, exec i s = run i c s fun v u => .done (putPred (perLane v u false d (f v)) v.r e v.eff (p v))) :
    Effects i [d, e] := by
  refine effects_of_wrote hctl hrun fun v u => Wrote.trans (t := perLane v u false d (f v)) ?_ ?_
  · exact wrote_perLane _ v u false d _ (List.mem_cons_self ..) fun h => by cases h
  · exact wrote_putLanes _ _ _ _ _ _ (List.mem_cons_of_mem _ (List.mem_cons_self ..))

/-- A result known at issue is awaited. -/
theorem effects_pend {dst : List Operand} {lanes : View → LaneMask} {vals : View → List LaneVec} {fl : View → Flags}
    (hrun : ∀ s, exec i s = run i c s fun v u => .done (pend u v c dst (lanes v) (vals v) (fl v))) : Effects i [] :=
  effects_of_wrote hctl hrun fun _ _ => wrote_pend _ _ _ _ _ _ _ _

/-- A special function. -/
theorem effects_sfuRun {f : View → Nat → Nat × Flags} (hrun : ∀ s, exec i s = run i c s fun v u => sfuRun v u c d (f v)) :
    Effects i [] := by
  refine ⟨c, _, hctl, hrun, fun v u => ?_⟩
  by_cases hfull : (u.pick.flag && sfuHolds u v.r) = true
  · obtain ⟨hflag, hholds⟩ := Bool.and_eq_true_iff.mp hfull
    exact .inl ⟨hflag, hholds, if_pos hfull⟩
  · refine .inr ⟨_, if_neg hfull, Wrote.trans (wrote_pend [] u v c [d] v.eff
      [((List.range 96).map fun l => if v.eff.getLsbD l then f v l else (0, noFlag)).map fun x => BitVec.ofNat 32 x.1]
      (joinFlags (((List.range 96).map fun l => if v.eff.getLsbD l then f v l else (0, noFlag)).map (·.2)))) ?_⟩
    exact wrote_setStrandAt _ _ _ _ _ ⟨fun _ _ => rfl, fun _ _ => rfl, fun _ _ => rfl, rfl, BitVec.or_self, rfl⟩

end

/-- The instructions over registers alone write their destinations alone. -/
theorem effects_of_mayWrite {i : Instr} {ds : List Operand} (h : mayWrite i = some ds) : Effects i ds := by
  cases i with
  | iaddw | isubw => cases h; exact effects_carry rfl fun _ => rfl
  | icmp | icmpi | plop | elect => cases h; exact effects_putPred rfl fun _ => rfl
  | fcmp =>
    cases h
    exact effects_of_wrote rfl (fun _ => rfl) fun v u =>
      (wrote_putLanes _ _ _ _ _ _ (List.mem_cons_self ..)).trans (wrote_raiseFlags _ _ _ _)
  | frcp | frsq | fsqrt | fex2 | flg2 | fsin | fcos | ftanh => cases h; exact effects_sfuRun rfl fun _ => rfl
  | shfl | perm | bcast | lscan | matchL => cases h; exact effects_pend rfl fun _ => rfl
  | lred =>
    cases h
    refine ⟨_, _, rfl, fun _ => rfl, fun v u => .inr ?_⟩
    by_cases heff : v.eff = 0
    · exact ⟨_, if_pos heff, wrote_pend _ _ _ _ _ _ _ _⟩
    · exact ⟨_, if_neg heff, wrote_pend _ _ _ _ _ _ _ _⟩
  | sar _ w64 => cases h; cases w64 <;> exact effects_perLane rfl fun _ => rfl
  | iand | ior | ixor | andn | sel | mov | brev | ftoi | iadd | isub | imul | imulh | imad | iabs | ineg | imin | imax | iclamp | iaddi
  | imuli | cvti | shl | shr | rotl | leaw | imadw => cases h; exact effects_perLane rfl fun _ => rfl
  | tri | fclass | fadd | fsub | fmul | ffma | fmin | fmax | frnd | fscale | fcvt | itof | fdot2 | unpack | hadd2 | hmul2 | hfma2
  | hmin2 | hmax2 | funsh | popc | clz | ffs | bfx | bfi | movi | andi | ori | xori | lea | pack | idp4 | idp8 =>
    cases h; exact effects_perLane (w64 := false) rfl fun _ => rfl
  | _ => cases h

/-! The frame. -/

theorem untouched_of_framed {ds : List Operand} {kept : Nat → Prop} {s t : State}
    (h : Framed ds kept s.pick.ref.core s.pick.ref.slot s t) : Untouched ds s t kept := by
  obtain ⟨hv, hs, hp, hrest, hflags, hothers, htiles, htids, htick, -, -, hmem⟩ := h
  simp only [Prod.mk.injEq] at hrest
  obtain ⟨hh, hcb, hgang, -, hsegs, hstaged, hheld, hnregs, -⟩ := hrest
  refine ⟨hv, hs, hp, hh, hcb, hsegs, hgang, hstaged, hheld, hnregs, hflags, fun c slot hne => hothers c slot ?_, htiles, htids, htick, hmem⟩
  refine Classical.byContradiction fun hsame => ?_
  rw [not_or, Classical.not_not, Classical.not_not] at hsame
  exact hne (Prod.ext hsame.1 hsame.2)

/-- Entering changes at most the tick's high half that the split keeps. -/
theorem undisturbed_entered (i : Instr) (s : State) : Undisturbed s.pick.ref.core s.pick.ref.slot s (entered i s) := by
  rcases entered_eq i s with h | ⟨x, h⟩
  · rw [h]; exact Undisturbed.refl _ _ _
  · rw [h]; exact kept_setSplit s _ _ (Nat.le_refl _)

theorem mem_entered (i : Instr) (s : State) : (entered i s).mem = s.mem := by
  rcases entered_eq i s with h | ⟨x, h⟩ <;> rw [h]
  rfl

/-- What an instruction's own effect wrote, seen from before it. -/
theorem framed_of_wrote {ds : List Operand} (kept : Nat → Prop) {i : Instr} {s u : State}
    (h : Wrote ds s.pick.ref.core s.pick.ref.slot (entered i s) u) : Framed ds kept s.pick.ref.core s.pick.ref.slot s u :=
  ((undisturbed_entered i s).framed ds kept).trans (h.framed kept)

/-- However it ends, an instruction over registers keeps the frame. -/
theorem framed_of_mayWrite {i : Instr} {ds : List Operand} {s t : State} (h : mayWrite i = some ds) (hsplit : s.pick.ref.split < 4)
    (ht : exec i s = .next t) : Framed ds (fun _ => True) s.pick.ref.core s.pick.ref.slot s t := by
  obtain ⟨c, body, -, hrun, hbody⟩ := effects_of_mayWrite h
  refine run_framed hsplit (fun v u hv _ => ?_) ((hrun s).symm.trans ht)
  rw [← hv]
  rcases hbody v u with ⟨-, -, hstay⟩ | ⟨w, hdone, hwrote⟩
  · rw [hstay]; exact (Wrote.refl _ _ _ _).framed _
  · rw [hdone]; exact hwrote.framed _

/-- With nothing before it and a unit that is not full, it completes. -/
theorem completes_of_mayWrite {i : Instr} {ds : List Operand} {c : Ctl} {s : State} (h : mayWrite i = some ds) (hctl : i.ctl = some c)
    (hready : Ready i c s) (hfree : s.pick.flag = false ∨ unitBusy s = false) :
    ∃ u, exec i s = .next (advance u s.pick.ref) ∧ Untouched ds s u (fun _ => True) ∧ u.mem = s.mem := by
  obtain ⟨c', body, hctl', hrun, hbody⟩ := effects_of_mayWrite h
  obtain rfl : c' = c := Option.some.inj (hctl'.symm.trans hctl)
  rcases hbody (seen i c' s) (entered i s) with ⟨hflag, hholds, -⟩ | ⟨u, hdone, hwrote⟩
  · rw [pick_entered] at hflag
    have hbusy : unitBusy s = true := (sfuHolds_entered i s).symm.trans hholds
    rcases hfree with hf | hf
    · rw [hf] at hflag; cases hflag
    · rw [hf] at hbusy; cases hbusy
  · exact ⟨u, finishes_of_run (hrun s) hready hdone, untouched_of_framed (framed_of_wrote _ hwrote),
      hwrote.mem.trans (mem_entered i s)⟩

/-! Stores and loads. -/

theorem undisturbed_storePlace (c slot : Nat) (s : State) (p : Place) (bs : List Byte) :
    Undisturbed c slot s (storePlace s c p bs) := by
  obtain ⟨hslots, hunits⟩ := pushStore_parts (s.core c) p.key bs p.via
  exact kept_setCore s c slot c _ hslots hunits

theorem wrote_pendFail (s : State) (v : View) (c : Ctl) (t : TrapRec) : Wrote [] v.r.core v.r.slot s (pendFail s v c t) :=
  Wrote.trans (wrote_pend [] s v c [] v.eff [] noFlag)
    (wrote_setStrandAt _ _ _ _ _ ⟨fun _ _ => rfl, fun _ _ => rfl, fun _ _ => rfl, rfl, BitVec.or_self, rfl⟩)

/-- The loads of an instruction keep the frame, where no granule has errors or another grade. -/
theorem within_loadAll {v : View} {s : State} {c : Ctl} {n : Nat} {ps : List Place} {k : State → List (Place × List Byte) → Res}
    (hk : ∀ u xs, ∃ w, k u xs = .done w ∧ Wrote [] v.r.core v.r.slot u w) :
    Res.Within [] (fun key => isDram key = false ∨ (s.flips = [] ∧ s.wgrade = [])) v.r.core v.r.slot s (loadAll v s c n ps k) := by
  have hload := (loaded_eachPlace v.r.core n s ps).framed [] v.r.core v.r.slot
  unfold loadAll
  dsimp only
  split
  · exact (Wrote.refl _ _ _ _).framed _
  · split
    · exact hload.trans ((wrote_pendFail _ v c _).framed _)
    · obtain ⟨w, hdone, hwrote⟩ := hk (eachPlace (loadPlace v.r.core n) s ps).1
        ((eachPlace (loadPlace v.r.core n) s ps).2.map fun e => (e.1, e.2.1))
      rw [hdone]
      exact hload.trans (hwrote.framed _)

/-- With nothing before it, an instruction whose own effect keeps the frame keeps it. -/
theorem untouched_of_within {i : Instr} {c : Ctl} {s t : State} {body : View → State → Res} {kept : Nat → Prop}
    (hrun : exec i s = run i c s body) (hready : Ready i c s) (hsplit : s.pick.ref.split < 4) (ht : exec i s = .next t)
    (hbody : Res.Within [] kept s.pick.ref.core s.pick.ref.slot (entered i s) (body (seen i c s) (entered i s))) :
    Untouched [] s t kept := by
  rw [exec_of_ready hrun hready] at ht
  cases ht
  exact untouched_of_framed (((undisturbed_entered i s).framed [] kept).trans (settle_framed hsplit hbody))

theorem flips_entered (i : Instr) (s : State) : (entered i s).flips = s.flips := by
  rcases entered_eq i s with h | ⟨x, h⟩ <;> rw [h]
  rfl

theorem wgrade_entered (i : Instr) (s : State) : (entered i s).wgrade = s.wgrade := by
  rcases entered_eq i s with h | ⟨x, h⟩ <;> rw [h]
  rfl

/-- Settles O22. -/
theorem registerFrame : Obligations.RegisterFrame := by
  refine ⟨fun i ds s t h hsplit ht => untouched_of_framed (framed_of_mayWrite h hsplit ht), fun i ds c s => completes_of_mayWrite,
    fun c sg wd a64 d a b s t ps hsplit => ⟨fun hready ht hcheck => ?store, fun sx hready ht hcheck => ?load⟩⟩
  case store =>
    refine untouched_of_within (c := c) rfl hready hsplit ht ?_
    simp only [hcheck, withAccess]
    exact (kept_foldl _ _ _ _ (fun u p _ => undisturbed_storePlace _ _ u p _) _).framed _ _
  case load =>
    refine untouched_of_within (c := c) rfl hready hsplit ht ?_
    simp only [hcheck, withAccess]
    rw [← flips_entered (.ld c sg wd sx a64 d a b) s, ← wgrade_entered (.ld c sg wd sx a64 d a b) s]
    refine within_loadAll fun u xs => ?_
    split
    · exact ⟨_, rfl, wrote_pend _ _ _ _ _ _ _ _⟩
    · exact ⟨_, rfl, wrote_pend _ _ _ _ _ _ _ _⟩

end Sys2Proof.Proofs
end

section
/-! PROOFS. Loads and stores (O23, O24): what a core sees at issue is an awaited result; what it stores enters its phase buffer. -/
namespace Sys2Proof.Proofs
set_option Elab.async false

open Sys2Proof Sys2Proof.Machine Sys2Proof.Claims

/-! Loaded numbers. -/

theorem widthBytes_eq_bytesOf (wd : Width) : widthBytes wd = bytesOf wd := by cases wd <;> rfl

theorem bytesOf_pos (wd : Width) : 0 < bytesOf wd := by cases wd <;> decide

theorem leNat_lt (bs : List Byte) : leNat bs < 2 ^ (8 * bs.length) := by
  induction bs with
  | nil => decide
  | cons b bs ih =>
    have hb := b.isLt
    have hpow : 2 ^ (8 * (b :: bs).length) = 256 * 2 ^ (8 * bs.length) := by
      rw [List.length_cons, Nat.mul_add, Nat.pow_add, Nat.mul_comm]
    rw [leNat, hpow]
    omega

/-- A loaded number extended by its sign or by zeros (R427). -/
theorem extendLoad_eq_extended {n : Nat} (hn : 0 < n) (sx : Bool) {x : Nat} (hx : x < 2 ^ (8 * n)) :
    extendLoad n sx x = extended n sx x := by
  cases sx
  · rfl
  · have hval := toInt_ofNat_eq_ite (show 8 * n ≠ 0 by omega) hx
    rw [extended, if_pos rfl, BitVec.signExtend, hval, extendLoad, Bool.true_and]
    split
    · rfl
    · rw [BitVec.ofInt_natCast]

theorem loadBytes_length (s : State) (c key n : Nat) (via : Via) : (loadBytes s c key n via).2.1.length = n := by
  simp only [loadBytes]
  split <;> simp

/-! The loads of an instruction. -/

/-- The loads of lanes, as the statements list them. -/
theorem loadedLanes_eq (core n : Nat) (s : State) (ps : List Place) : loadedLanes core n s ps =
    ((eachPlace (loadPlace core n) s ps).1, (eachPlace (loadPlace core n) s ps).2.map fun e => (e.1.lane, e.2)) := by
  induction ps generalizing s with
  | nil => rfl
  | cons p ps ih => simp only [loadedLanes, eachPlace, loadPlace, ih, List.map_cons]

theorem length_of_mem_eachPlace {core n : Nat} {s : State} {ps : List Place} {e : Place × (List Byte × Option LoadFail)}
    (he : e ∈ (eachPlace (loadPlace core n) s ps).2) : e.2.1.length = n := by
  induction ps generalizing s with
  | nil => cases he
  | cons p ps ih =>
    rcases List.mem_cons.mp he with rfl | he
    · exact loadBytes_length s core p.key n p.via
    · exact ih he

/-- Loads none of which fails go on with their bytes. -/
theorem loadAll_of_none {v : View} {s s' : State} {c : Ctl} {n : Nat} {ps : List Place}
    {xs : List (Place × (List Byte × Option LoadFail))} {k : State → List (Place × List Byte) → Res}
    (hload : eachPlace (loadPlace v.r.core n) s ps = (s', xs)) (hok : ∀ e ∈ xs, e.2.2 = none) :
    loadAll v s c n ps k = k s' (xs.map fun e => (e.1, e.2.1)) := by
  have hbad : xs.filterMap (fun e => e.2.2.map fun f => (e.1, f)) = [] :=
    List.filterMap_eq_nil_iff.mpr fun e he => by rw [hok e he]; rfl
  rw [loadAll, hload]
  simp only [hbad]
  rfl

/-- The number of a lane, as the statements find it. -/
theorem laneNat_eq_loadedNat (xs : List (Place × (List Byte × Option LoadFail))) (l : Nat) :
    laneNat (xs.map fun e => (e.1, e.2.1)) l = loadedNat (xs.map fun e => (e.1.lane, e.2)) l := by
  rw [laneNat, loadedNat, List.find?_map, List.find?_map]
  simp only [Function.comp_def]
  cases xs.find? fun e => e.1.lane == l <;> rfl

theorem loadedNat_lt {n : Nat} {xs : List (Nat × List Byte × Option LoadFail)} (h : ∀ e ∈ xs, e.2.1.length = n) (l : Nat) :
    loadedNat xs l < 2 ^ (8 * n) := by
  rw [loadedNat]
  split
  · next e he =>
    have hlt := leNat_lt e.2.1
    rwa [h e (List.mem_of_find?_eq_some he)] at hlt
  · exact Nat.two_pow_pos _

theorem lowWords_vecOf64 (m : LaneMask) (f : Nat → DWord) : lowWords (vecOf64 m f) = laneValues m fun l => (f l).extractLsb' 0 32 := by
  simp only [lowWords, vecOf64, laneValues, List.map_map, Function.comp_def, apply_ite (BitVec.extractLsb' 0 32)]
  rfl

theorem highWords_vecOf64 (m : LaneMask) (f : Nat → DWord) : highWords (vecOf64 m f) = laneValues m fun l => (f l).extractLsb' 32 32 := by
  simp only [highWords, vecOf64, laneValues, List.map_map, Function.comp_def, apply_ite (BitVec.extractLsb' 32 32)]
  rfl

/-! Metadata at home. -/

/-- An activation changes the random state and the refresh marks of one stack. -/
theorem stack_activate (s : State) (pa i : Nat) :
    ∃ a b, (activate s pa).stack i = { s.stack i with lfsr := a, refreshed := b } := by
  by_cases hi : i = pa / 2 ^ 12 % 8
  · subst hi
    exact ⟨_, _, State.stack_setStack _ _ _⟩
  · exact ⟨_, _, State.stack_setStack_ne _ _ hi⟩

theorem stackState_activate (s : State) (pa i : Nat) : ((activate s pa).stack i).state = (s.stack i).state := by
  obtain ⟨a, b, h⟩ := stack_activate s pa i
  rw [h]

theorem homeFail_activate (s : State) (pa c : Nat) (p : Place) : homeFail (activate s pa) c p = homeFail s c p := by
  simp only [homeFail, stackServes, stackFailed, stackState_activate]
  rfl

/-- Metadata read of places that are up and of one grade. -/
theorem eachPlace_metaPlace {c : Nat} {s : State} {ps : List Place}
    (h : ∀ p ∈ ps, homeFail s c p = none ∧ ∀ w, s.wgrade.find (granOf p.key) = some w → w = p.via.grade) :
    eachPlace (metaPlace c) s ps = (ps.foldl (fun u p => activate u (keyAddr p.key)) s,
      ps.map fun p => (p, (leBytes 4 (metaRead s p.key p.via.grade), none))) := by
  induction ps generalizing s with
  | nil => rfl
  | cons p ps ih =>
    obtain ⟨⟨hfail, hgrade⟩, hrest⟩ := List.forall_mem_cons.mp h
    have hone : otherGrade (activate s (keyAddr p.key)) (granOf p.key) p.via.grade = false := by
      have hw : (activate s (keyAddr p.key)).wgrade = s.wgrade := rfl
      rw [otherGrade, hw]
      cases hfind : s.wgrade.find (granOf p.key) with
      | none => rfl
      | some w => simp [hgrade w hfind]
    have hp : metaPlace c s p =
        (activate s (keyAddr p.key), (leBytes 4 (metaRead s p.key p.via.grade), none)) := by
      simp only [metaPlace, hfail, hone, Bool.false_eq_true, if_false]
      rfl
    have hnext : ∀ q ∈ ps, homeFail (activate s (keyAddr p.key)) c q = none ∧
        ∀ w, (activate s (keyAddr p.key)).wgrade.find (granOf q.key) = some w → w = q.via.grade :=
      fun q hq => ⟨(homeFail_activate s _ c q).trans (hrest q hq).1, (hrest q hq).2⟩
    rw [eachPlace, hp]
    simp only [ih hnext, List.foldl_cons, List.map_cons]
    rfl

/-- A split that has waited for its drain goes on (R65). -/
theorem drainThen_of_drained {i : Instr} {s : State} (h : Drained i s) (c : Ctl) (lines : List Nat) (why : Nat) (k : State → Res) :
    drainThen (seen i c s) (entered i s) lines why k = k (entered i s) := if_pos h

/-- Settles O23. -/
theorem loads : Obligations.Loads := by
  refine ⟨fun c sg wd sx a64 d a b s s' ps xs => ?ld, fun c sg wd sx a64 d a b s s' p bs => ?lds, fun c sg a64 d a b s ps => ?ldMd⟩
  case ld =>
    intro i v val _ hready hcheck hload hok
    rw [loadedLanes_eq] at hload
    obtain ⟨hstate, hxs⟩ := Prod.mk.inj hload
    have hfine : ∀ e ∈ (eachPlace (loadPlace v.r.core (bytesOf wd)) (entered i s) ps).2, e.2.2 = none := fun e he =>
      hok _ (hxs ▸ List.mem_map_of_mem he)
    have hlen : ∀ e ∈ xs, e.2.1.length = bytesOf wd := by
      rw [← hxs]
      intro e he
      obtain ⟨e', he', rfl⟩ := List.mem_map.mp he
      exact length_of_mem_eachPlace he'
    have hval : ∀ l, val l = extendLoad (bytesOf wd) sx (loadedNat xs l) := fun l =>
      (extendLoad_eq_extended (bytesOf_pos wd) sx (loadedNat_lt hlen l)).symm
    simp only [hval, ← pend_eq_awaiting]
    refine finishes_of_run (c := c) rfl hready ?_
    simp only [widthBytes_eq_bytesOf]
    have hplaces : (seen i c s).check sg { n := bytesOf wd, writes := false, spaces := spacesAll, align := bytesOf wd }
        ((seen i c s).offsets a64 a b) = .ready ps := hcheck
    rw [hplaces, withAccess, loadAll_of_none (Prod.ext hstate rfl) hfine]
    simp only [laneNat_eq_loadedNat, lowWords_vecOf64, highWords_vecOf64]
    simp only [hxs]
    rfl
  case lds =>
    intro i v low n word _ hready heff hcheck hload
    have hlen : bs.length = bytesOf wd := by
      rw [← loadBytes_length (entered i s) v.r.core p.key (bytesOf wd) p.via, hload]
    have hnum : leNat bs < 2 ^ (8 * bytesOf wd) := hlen ▸ leNat_lt bs
    have hload1 : eachPlace (loadPlace v.r.core (bytesOf wd)) (entered i s) [p] = (s', [(p, (bs, none))]) := by
      simp only [eachPlace, loadPlace, hload]
    simp only [word, ← extendLoad_eq_extended (bytesOf_pos wd) sx hnum, ← pend_eq_awaiting]
    refine finishes_of_run (c := c) rfl hready ((if_neg heff).trans ?_)
    simp only [widthBytes_eq_bytesOf]
    have hplaces : (seen i c s).check sg { n := bytesOf wd, writes := false, spaces := spacesAll, align := bytesOf wd }
        [((lowLane (seen i c s).eff).getD 0, (seen i c s).offset a64 a b 0)] = .ready [p] := hcheck
    rw [hplaces, withAccess, loadAll_of_none hload1 (by simp)]
    by_cases h4 : bytesOf wd ≤ 4
    · simp only [n, h4, if_true]
      rfl
    · simp only [n, h4, if_false, List.map_map, List.length_map, List.length_range]
      rfl
  case ldMd =>
    intro i v t hready hdrained hcheck hfine
    rw [← pend_eq_awaiting]
    refine finishes_of_run (c := c) rfl hready ?_
    have hplaces : (seen i c s).check sg { n := 4, writes := false, spaces := spacesDram, align := 4 }
        ((seen i c s).offsets a64 a b) = .ready ps := hcheck
    rw [hplaces, withAccess, drainThen_of_drained hdrained]
    have hread := eachPlace_metaPlace (c := (seen i c s).r.core) hfine
    rw [hread]
    have hbad : (ps.map fun p => (p, (leBytes 4 (metaRead t p.key p.via.grade), (none : Option LoadFail)))).filterMap
        (fun e => e.2.2.map fun f => (e.1, f)) = [] := List.filterMap_eq_nil_iff.mpr fun e he => by
      obtain ⟨p, -, rfl⟩ := List.mem_map.mp he
      rfl
    have hnum : ∀ l, BitVec.ofNat 32 (laneNat ((ps.map fun p => (p, (leBytes 4 (metaRead t p.key p.via.grade), (none : Option LoadFail)))).map
        fun e => (e.1, e.2.1)) l) = match ps.find? (fun p => p.lane == l) with
          | some p => BitVec.ofNat 32 (leNat (leBytes 4 (metaRead t p.key p.via.grade)))
          | none => 0 := fun l => by
      rw [laneNat, List.find?_map, List.find?_map]
      simp only [Function.comp_def]
      cases ps.find? fun p => p.lane == l <;> rfl
    simp only [hbad, hnum]
    rfl

/-! Stores. -/

/-- Stores at places, in their order, enter the phase buffer. -/
theorem foldl_storePlace_eq_storedAll (core : Nat) (bytes : Nat → List Byte) (ps : List Place) (s : State) :
    ps.foldl (fun s p => storePlace s core p (bytes p.lane)) s = storedAll s core bytes ps := by
  induction ps generalizing s with
  | nil => rfl
  | cons p ps ih => exact ih _

/-- Stores leave memory, the clusters and every other core as they were. -/
theorem storedAll_parts (core : Nat) (bytes : Nat → List Byte) (ps : List Place) (s : State) :
    (storedAll s core bytes ps).mem = s.mem ∧ (storedAll s core bytes ps).clusters = s.clusters ∧
      ∀ k, k ≠ core → (storedAll s core bytes ps).core k = s.core k := by
  induction ps generalizing s with
  | nil => exact ⟨rfl, rfl, fun _ _ => rfl⟩
  | cons p ps ih =>
    obtain ⟨hmem, hclu, hcore⟩ := ih (s.setCore core ((s.core core).pushStore p.key (bytes p.lane) p.via))
    exact ⟨hmem, hclu, fun k hk => (hcore k hk).trans (State.core_setCore_ne s _ hk)⟩

/-- Settles O24. -/
theorem stores : Obligations.Stores := by
  refine ⟨fun c sg wd a64 d a b s ps => ?st, fun c sg wd a64 d a b s ps => ?sts, fun c sg a64 d a b s ps => ?stMd,
    fun s core bytes ps => storedAll_parts core bytes ps s⟩
  case st =>
    intro i v bytes hready hcheck
    rw [← foldl_storePlace_eq_storedAll]
    refine finishes_of_run (c := c) rfl hready ?_
    simp only [widthBytes_eq_bytesOf]
    have hplaces : (seen i c s).check sg { n := bytesOf wd, writes := true, needR := false, spaces := spacesAll, align := bytesOf wd }
        ((seen i c s).offsets a64 a b) = .ready ps := hcheck
    rw [hplaces, withAccess]
    simp only [View.rdW, decide_eq_true_eq]
    rfl
  case sts =>
    intro i v x hready heff hcheck
    rw [← foldl_storePlace_eq_storedAll]
    refine finishes_of_run (c := c) rfl hready ((if_neg heff).trans ?_)
    simp only [widthBytes_eq_bytesOf]
    have hplaces : (seen i c s).check sg { n := bytesOf wd, writes := true, needR := false, spaces := spacesAll, align := bytesOf wd }
        [((lowLane (seen i c s).eff).getD 0, (seen i c s).offset a64 a b 0)] = .ready ps := hcheck
    have hx : (if bytesOf wd = 16 then ((seen i c s).rdQuad d).toNat else ((seen i c s).rdW (wd = .b64) d 0).toNat) = x := by
      cases wd with
      | b64 | b128 => rfl
      | b8 | b16 | b32 => exact BitVec.toNat_setWidth_of_le (by decide : 32 ≤ 64)
    rw [hplaces, withAccess, hx]
  case stMd =>
    intro i v hready hdrained hcheck hfine
    refine finishes_of_run (c := c) rfl hready ?_
    have hplaces : (seen i c s).check sg { n := 4, writes := true, needR := false, spaces := spacesDram, align := 4, side := true }
        ((seen i c s).offsets a64 a b) = .ready ps := hcheck
    have hbad : ps.filterMap (fun p => (homeFail (entered i s) (seen i c s).r.core p).map fun f => (p, f)) = [] :=
      List.filterMap_eq_nil_iff.mpr fun p hp => by rw [show homeFail (entered i s) (seen i c s).r.core p = none from hfine p hp]; rfl
    rw [hplaces, withAccess, drainThen_of_drained hdrained]
    simp only [hbad]
    rfl

end Sys2Proof.Proofs
end

section
/-! PROOFS. The phase buffer (O25): bytes of an entry, what a store adds, and what a load takes from it. -/
namespace Sys2Proof.Proofs
set_option Elab.async false

open Sys2Proof Sys2Proof.Machine Sys2Proof.Claims

/-! Bytes of a number, lowest first. -/

theorem testBit_leNat (bs : List Byte) (i : Nat) : (leNat bs).testBit i = (bs.getD (i / 8) 0).getLsbD (i % 8) := by
  induction bs generalizing i with
  | nil => simp [leNat]
  | cons b bs ih =>
    rw [leNat, Nat.add_comm, show 256 = 2 ^ 8 from rfl, Nat.testBit_two_pow_mul_add _ b.isLt]
    by_cases h : i < 8
    · rw [if_pos h, Nat.div_eq_of_lt h, Nat.mod_eq_of_lt h]
      rfl
    · have hdiv : i / 8 = (i - 8) / 8 + 1 := by omega
      have hmod : i % 8 = (i - 8) % 8 := by omega
      rw [if_neg h, ih, hdiv, hmod, List.getD_cons_succ]

theorem getLsbD_lineByte (d : BitVec 512) (j : Nat) {t : Nat} (ht : t < 8) : (lineByte d j).getLsbD t = d.getLsbD (8 * j + t) := by
  simp [lineByte, ht]

/-- The bits of a byte's place in a line. -/
theorem byteBit_div_mod {j t : Nat} (ht : t < 8) : (8 * j + t) / 8 = j ∧ (8 * j + t) % 8 = t := by omega

/-- Byte j of a line of bytes. -/
theorem lineByte_lineOfBytes (bs : List Byte) {j : Nat} (hj : j < 64) : lineByte (lineOfBytes bs) j = bs.getD j 0 := by
  refine BitVec.eq_of_getLsbD_eq fun t ht => ?_
  obtain ⟨hdiv, hmod⟩ := byteBit_div_mod (j := j) ht
  rw [getLsbD_lineByte _ _ ht, lineOfBytes, BitVec.getLsbD_ofNat, testBit_leNat, hdiv, hmod, decide_eq_true (by omega), Bool.true_and]

/-- Byte j of a line with bytes laid at a place. -/
theorem lineByte_dataAt (bs : List Byte) {o j : Nat} (ho : o ≤ j) (hj : j < 64) : lineByte (dataAt o bs) j = bs.getD (j - o) 0 := by
  refine BitVec.eq_of_getLsbD_eq fun t ht => ?_
  obtain ⟨hdiv, hmod⟩ := byteBit_div_mod (j := j - o) ht
  have hplace : 8 * j + t - 8 * o = 8 * (j - o) + t := by omega
  rw [getLsbD_lineByte _ _ ht, dataAt, BitVec.getLsbD_ofNat, Nat.testBit_mul_two_pow, hplace, testBit_leNat, hdiv, hmod,
    decide_eq_true (by omega), decide_eq_true (by omega), Bool.true_and, Bool.true_and]

/-- The bytes a mask covers. -/
theorem getLsbD_maskAt {o n j : Nat} (hj : j < 64) : (maskAt o n).getLsbD j = decide (o ≤ j ∧ j < o + n) := by
  rw [maskAt, BitVec.getLsbD_ofNat, Nat.testBit_mul_two_pow, Nat.testBit_two_pow_sub_one, decide_eq_true hj, Bool.true_and, ← Bool.decide_and,
    decide_eq_decide]
  omega

theorem getLsbD_bitMask (m : BitVec 64) {j t : Nat} (hj : j < 64) (ht : t < 8) : (bitMask m).getLsbD (8 * j + t) = m.getLsbD j := by
  obtain ⟨hdiv, hmod⟩ := byteBit_div_mod (j := j) ht
  rw [bitMask, BitVec.getLsbD_ofNat, testBit_leNat, hdiv, hmod, decide_eq_true (by omega), Bool.true_and, List.getD_eq_getElem?_getD,
    List.getElem?_map, List.getElem?_range hj, Option.map_some, Option.getD_some]
  have hones : ∀ t < 8, (255 : Byte).getLsbD t = true := by decide
  cases m.getLsbD j
  · simp
  · simpa using hones t ht

/-- Byte j of an entry with bytes over its own. -/
theorem lineByte_merge (e : QLine) (m : BitVec 64) (d : BitVec 512) {j : Nat} (hj : j < 64) :
    lineByte (e.merge m d).data j = if m.getLsbD j then lineByte d j else lineByte e.data j := by
  refine BitVec.eq_of_getLsbD_eq fun t ht => ?_
  have hlt : 8 * j + t < 512 := by omega
  rw [getLsbD_lineByte _ _ ht, QLine.merge]
  simp only [BitVec.getLsbD_or, BitVec.getLsbD_and, BitVec.getLsbD_not, getLsbD_bitMask m hj ht, hlt, decide_true, Bool.true_and]
  cases m.getLsbD j <;> simp [getLsbD_lineByte _ _ ht]

/-! The youngest entry that covers a byte. -/

theorem coveringByte_append (es : List QLine) (e : QLine) (line o : Nat) : coveringByte (es ++ [e]) line o =
    if e.line = line ∧ e.mask.getLsbD o = true then some (lineByte e.data o) else coveringByte es line o := by
  rw [coveringByte, List.reverse_append, List.reverse_singleton, List.singleton_append, List.find?_cons]
  by_cases h : e.line = line ∧ e.mask.getLsbD o = true
  · simp [h]
  · rw [if_neg h]
    have hno : (decide (e.line = line) && e.mask.getLsbD o) = false := by
      rw [← Bool.not_eq_true, Bool.and_eq_true, decide_eq_true_iff]
      exact h
    rw [hno]
    rfl

/-- A store's bytes lie at their addresses of the line. -/
theorem covers_iff {key n a : Nat} (hn : key % 64 + n ≤ 64) :
    (key / 64 = a / 64 ∧ (maskAt (key % 64) n).getLsbD (a % 64) = true) ↔ key ≤ a ∧ a < key + n := by
  rw [getLsbD_maskAt (Nat.mod_lt _ (by decide)), decide_eq_true_iff]
  omega

theorem lineByte_stored {key a : Nat} {bs : List Byte} (hn : key % 64 + bs.length ≤ 64) (ha : key ≤ a ∧ a < key + bs.length) :
    some (lineByte (dataAt (key % 64) bs) (a % 64)) = bs[a - key]? := by
  have hoff : a % 64 - key % 64 = a - key := by omega
  rw [lineByte_dataAt bs (by omega) (by omega), hoff, List.getD_eq_getElem?_getD, List.getElem?_eq_getElem (by omega), Option.getD_some]

/-- A new entry behind the others. -/
theorem coveringByte_stored (es : List QLine) {key : Nat} {bs : List Byte} (via : Via) (hn : key % 64 + bs.length ≤ 64) (a : Nat) :
    coveringByte (es ++ [⟨lineOf key, maskAt (key % 64) bs.length, dataAt (key % 64) bs, via⟩]) (a / 64) (a % 64) =
      if key ≤ a ∧ a < key + bs.length then bs[a - key]? else coveringByte es (a / 64) (a % 64) := by
  rw [coveringByte_append]
  by_cases ha : key ≤ a ∧ a < key + bs.length
  · rw [if_pos ha, ← lineByte_stored hn ha]
    exact if_pos ((covers_iff hn).mpr ha)
  · rw [if_neg ha]
    exact if_neg fun h => ha ((covers_iff hn).mp h)

/-- Bytes merged into the youngest entry. -/
theorem coveringByte_merged (es : List QLine) (e : QLine) {key : Nat} {bs : List Byte} (via : Via) (hline : e.line = lineOf key)
    (hn : key % 64 + bs.length ≤ 64) (a : Nat) :
    coveringByte (es ++ [{ e.merge (maskAt (key % 64) bs.length) (dataAt (key % 64) bs) with via := via }]) (a / 64) (a % 64) =
      if key ≤ a ∧ a < key + bs.length then bs[a - key]? else coveringByte (es ++ [e]) (a / 64) (a % 64) := by
  rw [coveringByte_append, coveringByte_append]
  have hmerge : (e.merge (maskAt (key % 64) bs.length) (dataAt (key % 64) bs)).line = e.line ∧
      (e.merge (maskAt (key % 64) bs.length) (dataAt (key % 64) bs)).mask = e.mask ||| maskAt (key % 64) bs.length := ⟨rfl, rfl⟩
  obtain ⟨hl, hm⟩ := hmerge
  simp only [hl, hm, lineByte_merge e _ _ (Nat.mod_lt a (by decide : 0 < 64)), BitVec.getLsbD_or]
  by_cases ha : key ≤ a ∧ a < key + bs.length
  · obtain ⟨hat, hbit⟩ := (covers_iff hn).mpr ha
    rw [if_pos ⟨hline.trans hat, by rw [hbit, Bool.or_true]⟩, if_pos hbit, if_pos ha, lineByte_stored hn ha]
  · rw [if_neg ha]
    by_cases hat : e.line = a / 64
    · have hbit : (maskAt (key % 64) bs.length).getLsbD (a % 64) = false := by
        refine Classical.byContradiction fun hc => ?_
        exact ha ((covers_iff hn).mp ⟨hline.symm.trans hat, by simpa using hc⟩)
      simp [hbit]
    · simp [hat]

/-! The buffer after a store. -/

section
variable (k : Core) (key : Nat) (bs : List Byte) (via : Via)

/-- What a store does to the buffer: the youngest entry takes the bytes when it has the line, and a new one joins otherwise, the
oldest one leaving a full buffer. -/
theorem pushStore_cases :
    (∃ es e, k.q = es ++ [e] ∧ e.line = lineOf key ∧ k.pushStore key bs via =
      { k with q := es ++ [{ e.merge (maskAt (key % 64) bs.length) (dataAt (key % 64) bs) with via := via }] }) ∨
    (queueLimit ≤ k.q.length ∧ k.pushStore key bs via = { k with
      moved := k.moved ++ k.q.take 1
      q := k.q.drop 1 ++ [⟨lineOf key, maskAt (key % 64) bs.length, dataAt (key % 64) bs, via⟩] }) ∨
    (k.q.length < queueLimit ∧ k.pushStore key bs via = { k with
      q := k.q ++ [⟨lineOf key, maskAt (key % 64) bs.length, dataAt (key % 64) bs, via⟩] }) := by
  simp only [Core.pushStore]
  cases hlast : k.q.getLast? with
  | none =>
    rw [List.getLast?_eq_none_iff] at hlast
    exact .inr (.inr ⟨by rw [hlast]; decide, by rw [hlast]; rfl⟩)
  | some e =>
    obtain ⟨es, hes⟩ := List.getLast?_eq_some_iff.mp hlast
    have hdrop : k.q.dropLast = es := by rw [hes, List.dropLast_concat]
    by_cases hline : e.line = lineOf key
    · refine .inl ⟨k.q.dropLast, e, by rw [hdrop, hes], hline, ?_⟩
      simp only [if_pos hline]
    · simp only [if_neg hline]
      by_cases hfull : k.q.length ≥ queueLimit
      · exact .inr (.inl ⟨hfull, if_pos hfull⟩)
      · exact .inr (.inr ⟨Nat.not_le.mp hfull, if_neg hfull⟩)

theorem bufferedByte_pushStore (hn : key % 64 + bs.length ≤ 64) (a : Nat) : bufferedByte (k.pushStore key bs via) a =
    if key ≤ a ∧ a < key + bs.length then bs[a - key]? else bufferedByte k a := by
  simp only [bufferedByte]
  rcases pushStore_cases k key bs via with ⟨es, e, hq, hline, h⟩ | ⟨-, h⟩ | ⟨-, h⟩
  · rw [h, hq]
    simp only [← List.append_assoc]
    exact coveringByte_merged _ e via hline hn a
  · rw [h]
    have hsame : k.moved ++ k.q.take 1 ++ k.q.drop 1 = k.moved ++ k.q := by rw [List.append_assoc, List.take_append_drop]
    simp only [← List.append_assoc, hsame]
    exact coveringByte_stored _ via hn a
  · rw [h]
    simp only [← List.append_assoc]
    exact coveringByte_stored _ via hn a

theorem pushStore_length (h : k.q.length ≤ 2048) : (k.pushStore key bs via).q.length ≤ 2048 := by
  rcases pushStore_cases k key bs via with ⟨es, e, hq, -, hk⟩ | ⟨hfull, hk⟩ | ⟨hroom, hk⟩
  · rw [hk]; simpa [hq] using h
  · rw [queueLimit] at hfull
    rw [hk]
    simp only [List.length_append, List.length_drop, List.length_singleton]
    omega
  · rw [queueLimit] at hroom
    rw [hk]
    simp only [List.length_append, List.length_singleton]
    omega

theorem pushStore_moved : (k.pushStore key bs via).moved = k.moved ∨ (k.pushStore key bs via).moved = k.moved ++ k.q.take 1 := by
  rcases pushStore_cases k key bs via with ⟨_, _, -, -, h⟩ | ⟨-, h⟩ | ⟨-, h⟩ <;> rw [h]
  · exact .inl rfl
  · exact .inr rfl
  · exact .inl rfl

theorem pushStore_snap : (k.pushStore key bs via).snap = k.snap := by
  rcases pushStore_cases k key bs via with ⟨_, _, -, -, h⟩ | ⟨-, h⟩ | ⟨-, h⟩ <;> rw [h]

end

/-! What a load sees. -/

theorem readList_eq_map (m : Memory) (a n : Nat) : m.readList a n = (List.range n).map fun i => m.read (a + i) := by
  induction n generalizing a with
  | zero => rfl
  | succ n ih =>
    rw [Memory.readList, ih, List.range_succ_eq_map, List.map_cons, List.map_map]
    simp only [Function.comp_def, Nat.add_assoc, Nat.succ_eq_add_one, Nat.add_comm 1, Nat.add_zero]

theorem zipIdx_map_range {α β : Type} (f : Nat → α) (g : α × Nat → β) (n : Nat) :
    ((List.range n).map f).zipIdx.map g = (List.range n).map fun i => g (f i, i) := by
  refine List.ext_getElem (by simp) fun i h1 h2 => ?_
  simp

theorem any_zipIdx_map_range {α : Type} (f : Nat → α) (p : α × Nat → Bool) (n : Nat) :
    ((List.range n).map f).zipIdx.any p = (List.range n).any fun i => p (f i, i) := by
  have h := congrArg (fun l => l.any id) (zipIdx_map_range f p n)
  simpa only [List.any_map, Function.comp_def, id] using h

/-- A load within one line, byte by byte: from the buffer where it covers all, and otherwise from the line behind it (R57). -/
theorem loadBytes_eq (s : State) (core : Nat) {key n : Nat} (via : Via) (hn : key % 64 + n ≤ 64) : loadBytes s core key n via =
    if ∀ i < n, (bufferedByte (s.core core) (key + i)).isSome then
      (s, (List.range n).map fun i => (bufferedByte (s.core core) (key + i)).getD 0, none)
    else
      ((baseLine s core (key / 64) via).1,
        (List.range n).map fun i => (bufferedByte (s.core core) (key + i)).getD (lineByte (baseLine s core (key / 64) via).2.1 (key % 64 + i)),
        if ownSlice core (key / 64) = true ∧
            ∃ i < n, bufferedByte (s.core core) (key + i) = none ∧ key + i ∈ (baseLine s core (key / 64) via).1.tainted
          then some .uc else (baseLine s core (key / 64) via).2.2) := by
  have hbyte : ∀ i ∈ List.range n, coveringByte ((s.core core).moved ++ (s.core core).q) (lineOf key) (key % 64 + i) =
      bufferedByte (s.core core) (key + i) := fun i hi => by
    have hi := List.mem_range.mp hi
    rw [bufferedByte, lineOf, show (key + i) / 64 = key / 64 by omega, show (key + i) % 64 = key % 64 + i by omega]
  have hspoiled : ∀ (u : State) i, spoiled u (key + i) 1 = true ↔ key + i ∈ u.tainted := fun u i => by
    rw [spoiled, List.any_eq_true]
    constructor
    · rintro ⟨a, ha, hrange⟩
      rw [Bool.and_eq_true, decide_eq_true_iff, decide_eq_true_iff] at hrange
      rwa [show key + i = a by omega]
    · exact fun h => ⟨_, h, by simp⟩
  have hall : ((List.range n).map fun i => bufferedByte (s.core core) (key + i)).all Option.isSome = true ↔
      ∀ i < n, (bufferedByte (s.core core) (key + i)).isSome := by
    simp only [List.all_map, List.all_eq_true, List.mem_range, Function.comp_def]
  have hany : ∀ u : State, ((((List.range n).map fun i => bufferedByte (s.core core) (key + i)).zipIdx.any fun e =>
      e.1.isNone && spoiled u (key + e.2) 1) = true) ↔
      ∃ i < n, bufferedByte (s.core core) (key + i) = none ∧ key + i ∈ u.tainted := fun u => by
    rw [any_zipIdx_map_range]
    simp only [List.any_eq_true, List.mem_range, Bool.and_eq_true, Option.isNone_iff_eq_none, hspoiled]
  rw [loadBytes]
  simp only [List.map_congr_left hbyte, hall, zipIdx_map_range, List.map_map, Function.comp_def, Bool.and_eq_true, hany]
  rfl

theorem ownSlice_iff (c line : Nat) : ownSlice c line = true ↔ homeOf (64 * line) = .slice c := by
  rw [ownSlice]
  split
  · next c' h => rw [h, beq_iff_eq, Home.slice.injEq]
  · next h => exact iff_of_false Bool.false_ne_true (h c)

/-- The line behind the buffer: its home for the core's own slice (R57). -/
theorem baseLine_own {s : State} {core line : Nat} (via : Via) (h : homeOf (64 * line) = .slice core) :
    baseLine s core line via = (s, lineOfBytes (s.mem.readList (64 * line) 64), none) :=
  if_pos ((ownSlice_iff core line).mpr h)

/-- Elsewhere the snapshot's copy, where it has one. -/
theorem baseLine_snap {s : State} {core line : Nat} {via : Via} {d : BitVec 512} (hown : homeOf (64 * line) ≠ .slice core)
    (hhub : keySpace (64 * line) ≠ 3) (hcp : via.cp ≠ 2) (hd : (s.core core).snap.find line = some d) :
    baseLine s core line via = (s, d, none) := by
  rw [baseLine, if_neg (mt (ownSlice_iff core line).mp hown), if_neg hhub, if_neg (by simpa using hcp), hd]

theorem lineByte_readList (m : Memory) (a : Nat) {j : Nat} (hj : j < 64) :
    lineByte (lineOfBytes (m.readList a 64)) j = m.read (a + j) := by
  rw [lineByte_lineOfBytes _ hj, readList_eq_map, List.getD_eq_getElem?_getD, List.getElem?_map, List.getElem?_range hj]
  rfl

/-- Settles O25. -/
theorem phaseBuffer : Obligations.PhaseBuffer := by
  refine ⟨fun k key bs via _ hn => ⟨bufferedByte_pushStore k key bs via hn, pushStore_length k key bs via,
    pushStore_moved k key bs via, (pushStore_parts k key bs via).1, pushStore_snap k key bs via⟩,
    fun s core key n via hn => ⟨fun hall => ?covered, fun hown => ?own, fun d hown hhub hcp hd => ?snapshot⟩⟩
  case covered => rw [loadBytes_eq s core via hn, if_pos hall]
  case own =>
    intro bad bs
    have hbs : ((List.range n).map fun i => (bufferedByte (s.core core) (key + i)).getD
        (lineByte (lineOfBytes (s.mem.readList (64 * (key / 64)) 64)) (key % 64 + i))) = bs := by
      refine List.map_congr_left fun i hi => ?_
      have hi := List.mem_range.mp hi
      rw [lineByte_readList _ _ (by omega), show 64 * (key / 64) + (key % 64 + i) = key + i by omega]
    by_cases hall : ∀ i < n, (bufferedByte (s.core core) (key + i)).isSome
    · have hgood : ¬ bad := by
        rintro ⟨i, hi, hnone, -⟩
        have := hall i hi
        rw [hnone] at this
        cases this
      refine ⟨fun _ => ?_, fun hbad => absurd hbad hgood⟩
      rw [loadBytes_eq s core via hn, if_pos hall]
      refine congrArg (fun l => (s, l, none)) (List.map_congr_left fun i hi => ?_)
      obtain ⟨x, hx⟩ := Option.isSome_iff_exists.mp (hall i (List.mem_range.mp hi))
      rw [hx]
      rfl
    · have hload := loadBytes_eq s core via hn
      rw [if_neg hall, baseLine_own via hown] at hload
      simp only [hbs, (ownSlice_iff core (key / 64)).mpr hown, true_and] at hload
      exact ⟨fun hgood => hload.trans (by rw [if_neg hgood]), fun hbad => hload.trans (by rw [if_pos hbad])⟩
  case snapshot =>
    have hno : ¬ (ownSlice core (key / 64) = true) := mt (ownSlice_iff core _).mp hown
    rw [loadBytes_eq s core via hn, baseLine_snap hown hhub hcp hd]
    by_cases hall : ∀ i < n, (bufferedByte (s.core core) (key + i)).isSome
    · rw [if_pos hall]
      refine congrArg (fun l => (s, l, none)) (List.map_congr_left fun i hi => ?_)
      obtain ⟨x, hx⟩ := Option.isSome_iff_exists.mp (hall i (List.mem_range.mp hi))
      rw [hx]
      rfl
    · rw [if_neg hall, if_neg (fun h => hno h.1)]
      refine congrArg (fun l => (s, l, none)) (List.map_congr_left fun i hi => ?_)
      rw [lineByte, show (key + i) % 64 = key % 64 + i by have := List.mem_range.mp hi; omega]

end Sys2Proof.Proofs
end

section
/-! PROOFS. Ordering moves (O26): releases, acquires, fences, and the moves of the ordering machine. -/
namespace Sys2Proof.Proofs
set_option Elab.async false

open Sys2Proof Sys2Proof.Machine Sys2Proof.Claims

/-! Releases. -/

theorem prog_setProg (s : State) (r : SplitRef) (p : Prog) : (s.setProg r p).prog r = p := by
  rw [State.prog, State.setProg, State.split_setSplit]

theorem setCore_setCore (s : State) (c : Nat) (x y : Core) : (s.setCore c x).setCore c y = s.setCore c y := by
  simp only [State.setCore, tab_set_set]

theorem setStrandAt_setStrandAt (s : State) (c slot : Nat) (x y : Strand) :
    (s.setStrandAt c slot x).setStrandAt c slot y = s.setStrandAt c slot y := by
  simp only [State.setStrandAt, State.core_setCore, setCore_setCore, tab_set_set]

theorem state_setSplit_setSplit (s : State) (r : SplitRef) (x y : Split) : (s.setSplit r x).setSplit r y = s.setSplit r y := by
  simp only [State.setSplit, State.setStrand, State.strand, State.strandAt_setStrandAt, setStrandAt_setStrandAt, setSplit_setSplit]

theorem setProg_setProg (s : State) (r : SplitRef) (p q : Prog) : (s.setProg r p).setProg r q = s.setProg r q := by
  simp only [State.setProg, State.split_setSplit, state_setSplit_setSplit]

/-- No refused store is reported where none is kept. -/
theorem refusedTrap_of_nil {s : State} {c : Nat} (h : (s.core c).refused = []) (ctx : Nat) (covers : Nat → Bool) :
    refusedTrap s c ctx covers = none := by
  rw [refusedTrap]
  simp only [h, List.findIdx?_nil]

/-- None is reported by a scope that covers no home. -/
theorem refusedTrap_of_covers {s : State} {covers : Nat → Bool} (h : ∀ a, covers a = false) (c ctx : Nat) :
    refusedTrap s c ctx covers = none := by
  rw [refusedTrap]
  have hnone : (s.core c).refused.findIdx? (fun e => e.1 == ctx && covers e.2) = none :=
    List.findIdx?_eq_none_iff.mpr fun e _ => by rw [h, Bool.and_false]
  simp only [hnone]

theorem inScope_core (c : Nat) (h : Home) : inScope c .core h = false := rfl

/-- A release that is over goes on with what follows it (R61). -/
theorem releaseThen_over {v : View} {s : State} (sc : Scope) (why : Nat) (k : State → Res) (hrel : (s.prog v.r).rel = 2)
    (href : (s.core v.r.core).refused = []) :
    releaseThen v s sc why k = k (s.setProg v.r { s.prog v.r with rel := 4, scope := none }) := by
  rw [releaseThen, hrel]
  simp only [releasedThen, refusedTrap_of_nil href]

/-- A release at core scope is over at once. -/
theorem releaseThen_core {v : View} {s : State} {sc : Scope} (why : Nat) (k : State → Res) (hrel : (s.prog v.r).rel = 0)
    (hsc : realScope s v.r.core v.st sc = .core) :
    releaseThen v s sc why k = k (s.setProg v.r { s.prog v.r with rel := 4, scope := none }) := by
  have hlost : ((s.core v.r.core).moved.any fun e => inScope v.r.core .core (homeOf (64 * e.line)) &&
      homeReach s (64 * e.line) == .down) = false := List.any_eq_false.mpr fun e _ => by rw [inScope_core]; simp
  have hover : releaseOver s v.r.core .core = true := List.all_eq_true.mpr fun e _ => by rw [inScope_core]; rfl
  rw [releaseThen, hrel]
  simp only [hsc, releaseMoves, hlost, hover, Bool.false_eq_true, if_false, if_true, releasedThen,
    refusedTrap_of_covers (fun a => inScope_core _ _)]

/-! What the moves leave of memory and of the heartbeat. -/

/-- Memory and the last heartbeat's tick are as they were. -/
def Still (s t : State) : Prop := t.mem = s.mem ∧ t.hbTick = s.hbTick

theorem Still.refl (s : State) : Still s s := ⟨rfl, rfl⟩

theorem Still.trans {s t u : State} (a : Still s t) (b : Still t u) : Still s u := ⟨b.1.trans a.1, b.2.trans a.2⟩

/-- A fold of moves that leave them leaves them. -/
theorem still_foldl {α : Type} {f : State → α → State} (h : ∀ s x, Still s (f s x)) (xs : List α) (s : State) :
    Still s (xs.foldl f s) := by
  induction xs generalizing s with
  | nil => exact Still.refl s
  | cons x xs ih => exact (h s x).trans (ih _)

theorem still_acquire (s : State) (c : Nat) (sc : Scope) : Still s (acquire s c sc) := by
  cases sc <;> exact ⟨rfl, rfl⟩

theorem still_releaseMoves (s : State) (c : Nat) (sc : Scope) : Still s (releaseMoves s c sc) := by
  cases sc <;> exact ⟨rfl, rfl⟩

theorem still_refusedTrap {s u : State} {c ctx : Nat} {covers : Nat → Bool} {t : TrapRec}
    (h : refusedTrap s c ctx covers = some (t, u)) : Still s u := by
  rw [refusedTrap] at h
  split at h
  · cases h
  · cases h; exact ⟨rfl, rfl⟩

theorem still_traceRecord (s : State) (k kind x : Nat) : Still s (traceRecord s k kind x) := by
  simp only [traceRecord, acceptRecord]
  repeat' split
  all_goals exact ⟨rfl, rfl⟩

theorem still_writePending (s : State) (c slot : Nat) (p : Pending) : Still s (writePending s c slot p) := by
  have hacq : ∀ sc : Option Scope, Still s (match sc with
      | some sc => acquire s c (realScope s c (s.strandAt c slot) sc)
      | none => s) := fun sc => by
    cases sc with
    | none => exact Still.refl s
    | some sc => exact still_acquire s c _
  have hfence : ∀ u : State, Still u (if p.fence = 4 then fenceRecord (acquire u c .dev) ⟨c, slot, p.split⟩ p.beat else u) := fun u => by
    split
    · exact (still_acquire u c .dev).trans (still_traceRecord ..)
    · exact Still.refl u
  have hput : ∀ (u : State) (e : Operand × LaneVec),
      Still u (if stillTakes p e.1 then putLanes u ⟨c, slot, p.split⟩ e.1 p.lanes e.2 else u) := fun u e => by
    split <;> exact ⟨rfl, rfl⟩
  exact (((hacq _).trans (hfence _)).trans (still_foldl hput _ _)).trans ⟨rfl, rfl⟩

theorem still_advancePending (s : State) (c slot : Nat) (p : Pending) : Still s (advancePending s c slot p) := by
  have hfenced : Still s (fenceReleased s c slot p) := by
    rw [fenceReleased]
    split
    · next h => exact (still_refusedTrap h).trans ⟨rfl, rfl⟩
    · exact ⟨rfl, rfl⟩
  simp only [advancePending]
  split
  · exact ⟨rfl, rfl⟩
  · split
    · exact (still_releaseMoves s c .sys).trans ⟨rfl, rfl⟩
    · split
      · split
        · exact hfenced
        · exact Still.refl s
      · exact Still.refl s
      · exact still_writePending s c slot p

theorem still_settleFences (s : State) : Still s (settleFences s) :=
  still_foldl (fun s c => still_foldl (fun s e => still_foldl (fun s p => by
    split
    · exact still_advancePending s c e.1 p
    · exact Still.refl s) _ s) _ s) _ s

/-! Bytes of a line, and lists of addresses. -/

theorem getD_leBytes {n i : Nat} (hi : i < n) (x : Nat) : (leBytes n x).getD i 0 = BitVec.ofNat 8 (x / 2 ^ (8 * i)) := by
  induction n generalizing i x with
  | zero => omega
  | succ n ih =>
    cases i with
    | zero => rw [Nat.mul_zero, Nat.pow_zero, Nat.div_one]; rfl
    | succ i =>
      rw [leBytes, List.getD_cons_succ, ih (by omega), Nat.div_div_eq_div_mul]
      congr 2
      rw [show 8 * (i + 1) = 8 + 8 * i by omega, Nat.pow_add]

theorem getD_bytesOfLine (d : BitVec 512) {i : Nat} (hi : i < 64) : (bytesOfLine d).getD i 0 = d.extractLsb' (8 * i) 8 := by
  rw [bytesOfLine, getD_leBytes hi]
  apply BitVec.eq_of_toNat_eq
  rw [BitVec.extractLsb'_toNat, BitVec.toNat_ofNat, Nat.shiftRight_eq_div_pow]

theorem mem_insertNat {xs : List Nat} {k a : Nat} : a ∈ insertNat xs k ↔ a = k ∨ a ∈ xs := by
  induction xs with
  | nil => simp [insertNat]
  | cons x r ih =>
    rw [insertNat]
    split
    · next h => subst h; simp
    · split
      · simp
      · rw [List.mem_cons, List.mem_cons, ih, or_left_comm]

theorem mem_foldl_insertNat {ks xs : List Nat} {a : Nat} : a ∈ ks.foldl insertNat xs ↔ a ∈ ks ∨ a ∈ xs := by
  induction ks generalizing xs with
  | nil => simp
  | cons k ks ih => rw [List.foldl_cons, ih, mem_insertNat, List.mem_cons, or_left_comm, or_assoc]

/-! A delivery to SRAM. -/

/-- SRAM is always reached. -/
theorem homeReach_sram {key : Nat} (h : keySpace key = 0) (s : State) : homeReach s key = .ok := by
  have hhome : homeOf key = .slice (256 * (keyAddr key / regionSize) + keyAddr key % regionSize / sliceSize) ∨
      homeOf key = .pool (keyAddr key / regionSize) ((keyAddr key % regionSize - poolOffset) / 64 % 64) := by
    rw [homeOf, h]
    by_cases ho : keyAddr key % regionSize < poolOffset
    · exact .inl (if_pos ho)
    · exact .inr (if_neg ho)
  rcases hhome with hh | hh <;> rw [homeReach, hh]

/-- A line of bytes merged into memory (R55). -/
theorem mergeBytes_line (m : Memory) (key : Nat) (mask : BitVec 64) (d : BitVec 512) :
    mergeBytes mask.toNat (bytesOfLine d) (m.readList key 64) = (List.range 64).map fun n =>
      if mask.getLsbD n then d.extractLsb' (8 * n) 8 else m.read (key + n) := by
  rw [mergeBytes, readList_length]
  refine List.map_congr_left fun n hn => ?_
  have hn := List.mem_range.mp hn
  rw [getD_bytesOfLine d hn, readList_eq_map, List.getD_eq_getElem?_getD, List.getElem?_map, List.getElem?_range hn]
  rfl

/-- The bytes marked poisoned or no longer so (R516). -/
theorem mem_markBytes_tainted {key : Nat} (hkey : keySpace key = 0) (s : State) (mask : BitVec 64) (bad : Bool) (a : Nat) :
    a ∈ (markBytes s key 64 mask.toNat bad).tainted ↔
      if key ≤ a ∧ a < key + 64 ∧ mask.getLsbD (a - key) = true then bad = true else a ∈ s.tainted := by
  have hks : a ∈ ((List.range 64).filter fun i => mask.toNat.testBit i).map (fun i => key + i) ↔
      key ≤ a ∧ a < key + 64 ∧ mask.getLsbD (a - key) = true := by
    simp only [List.mem_map, List.mem_filter, List.mem_range]
    constructor
    · rintro ⟨i, ⟨hi, hbit⟩, rfl⟩
      exact ⟨by omega, by omega, by rw [Nat.add_sub_cancel_left]; exact hbit⟩
    · rintro ⟨h1, h2, h3⟩
      exact ⟨a - key, ⟨by omega, h3⟩, by omega⟩
  have hrest : a ∈ s.tainted.filter (fun a => !(((List.range 64).filter fun i => mask.toNat.testBit i).map (fun i => key + i)).contains a) ↔
      a ∈ s.tainted ∧ ¬ (key ≤ a ∧ a < key + 64 ∧ mask.getLsbD (a - key) = true) := by
    rw [List.mem_filter, Bool.not_eq_true', ← Bool.not_eq_true, List.contains_iff_mem, hks]
  simp only [markBytes, hkey]
  cases bad
  · simp only [Bool.false_and, Bool.false_eq_true, if_false, hrest]
    split <;> simp_all
  · simp only [beq_self_eq_true, Bool.and_self, if_true, mem_foldl_insertNat, hks, hrest]
    split <;> simp_all

theorem markBytes_parts (s : State) (key n mask : Nat) (bad : Bool) :
    (markBytes s key n mask bad).mem = s.mem ∧ (markBytes s key n mask bad).cores = s.cores := ⟨rfl, rfl⟩

theorem sendWakes_parts (s : State) (a b : Nat) :
    (sendWakes s a b).mem = s.mem ∧ (sendWakes s a b).tainted = s.tainted ∧ (sendWakes s a b).cores = s.cores := by
  rw [sendWakes]
  split <;> exact ⟨rfl, rfl, rfl⟩

/-- An entry performed at a home in SRAM: its bytes, their marks, and the channel it came from as it was. -/
theorem performEntry_sram {s : State} {e : QLine} (hkey : keySpace (64 * e.line) = 0) (c : Nat) (bad : Bool) :
    (performEntry s c e bad).mem = s.mem.writeList (64 * e.line) ((List.range 64).map fun n =>
      if e.mask.getLsbD n then e.data.extractLsb' (8 * n) 8 else s.mem.read (64 * e.line + n)) ∧
    (∀ a, a ∈ (performEntry s c e bad).tainted ↔ if 64 * e.line ≤ a ∧ a < 64 * e.line + 64 ∧ e.mask.getLsbD (a - 64 * e.line) = true
      then bad = true else a ∈ s.tainted) ∧
    ((performEntry s c e bad).core c).moved = (s.core c).moved := by
  have hdram : isDram (64 * e.line) = false := by rw [isDram, hkey]; rfl
  have hpeer : ¬ keySpace (64 * e.line) ≥ 8 := by omega
  have hhub : ¬ keySpace (64 * e.line) = 3 := by omega
  obtain ⟨hmem, htaint, hcores⟩ := sendWakes_parts
    (clearResv { s with mem := s.mem.writeList (64 * e.line) (mergeBytes e.mask.toNat (bytesOfLine e.data) (s.mem.readList (64 * e.line) 64)) } e.line)
    e.line e.line
  rw [mergeBytes_line] at hmem htaint hcores
  simp only [performEntry, hdram, Bool.false_and, Bool.false_eq_true, if_false, if_neg hhub, crossPeer, if_neg hpeer, mergeBytes_line]
  simp only [clearResv] at hmem htaint hcores
  simp only [clearResv]
  generalize sendWakes _ _ _ = u at hmem htaint hcores ⊢
  have hmark := mem_markBytes_tainted hkey u e.mask bad
  rw [htaint] at hmark
  obtain ⟨hmem', hcores'⟩ := markBytes_parts u (64 * e.line) 64 e.mask.toNat bad
  generalize markBytes u (64 * e.line) 64 e.mask.toNat bad = w at hmark hmem' hcores' ⊢
  have hcore : w.core c = s.core c := by rw [State.core, hcores', hcores, State.core]
  rw [hcore]
  split
  · exact ⟨hmem'.trans hmem, hmark, congrArg Core.moved hcore⟩
  · exact ⟨hmem'.trans hmem, hmark, by rw [State.core_setCore]⟩

/-- The head entry of a channel to SRAM, delivered. -/
theorem deliverHead_sram {s : State} {c k : Nat} {h : Home} {e : QLine}
    (hk : (s.core c).moved.findIdx? (fun e => homeOf (64 * e.line) == h) = some k) (he : (s.core c).moved[k]? = some e)
    (hkey : keySpace (64 * e.line) = 0) (bad : Bool) :
    deliverHead s c h bad = performEntry (s.setCore c { s.core c with moved := (s.core c).moved.eraseIdx k }) c e bad := by
  have hdram : isDram (64 * e.line) = false := by rw [isDram, hkey]; rfl
  have hwait : (Reach.ok == Reach.wait) = false := rfl
  have hdown : (Reach.ok == Reach.down) = false := rfl
  simp only [deliverHead, hk, he, hdram, homeReach_sram hkey, hwait, hdown, Bool.false_and, Bool.false_eq_true, if_false, dropAt]

/-- A result that owes nothing and orders nothing is written to its destinations. -/
theorem advancePending_plain {p : Pending} (hfail : p.fail = none) (hfence : p.fence = 0) (hacq : p.acq = none) (hlose : p.lose = none)
    (s : State) (c slot : Nat) : advancePending s c slot p = endPending (raiseFlags ((p.dst.zip p.vals).foldl
      (fun s e => if stillTakes p e.1 then putLanes s ⟨c, slot, p.split⟩ e.1 p.lanes e.2 else s) s) ⟨c, slot, p.split⟩ p.flags) c slot p none := by
  have hnot : (decide (p.fence = 1) || (decide (p.fence = 5) && p.won)) = false := by rw [hfence]; rfl
  rw [advancePending, hfail]
  simp only [hfence, writePending, hacq, hlose, ite_self]
  rfl

/-- What a release leaves of the split that it was for. -/
def relSpent (s : State) (r : SplitRef) : State := s.setProg r { s.prog r with rel := 4, scope := none }

section
variable {c : Ctl} {k : PhaseKind} {sc : Scope} {s : State}

theorem phase_none (hready : Ready (.phase c k sc) c s) (heff : (seen (.phase c k sc) c s).eff = 0) :
    Finishes (.phase c k sc) s (entered (.phase c k sc) s) := finishes_of_run (c := c) rfl hready (if_pos heff)

theorem phase_acq (hready : Ready (.phase c .acq sc) c s) (heff : (seen (.phase c .acq sc) c s).eff ≠ 0) :
    Finishes (.phase c .acq sc) s (acquireAt (entered (.phase c .acq sc) s) (seen (.phase c .acq sc) c s) sc) :=
  finishes_of_run (c := c) rfl hready (if_neg heff)

theorem phase_rel_core (hready : Ready (.phase c .rel sc) c s) (heff : (seen (.phase c .rel sc) c s).eff ≠ 0)
    (hrel : ((entered (.phase c .rel sc) s).prog s.pick.ref).rel = 0)
    (hsc : realScope (entered (.phase c .rel sc) s) s.pick.ref.core (seen (.phase c .rel sc) c s).st sc = .core) :
    Finishes (.phase c .rel sc) s (relSpent (entered (.phase c .rel sc) s) s.pick.ref) :=
  finishes_of_run (c := c) rfl hready ((if_neg heff).trans (releaseThen_core 16 _ hrel hsc))

theorem phase_rel_over (hready : Ready (.phase c .rel sc) c s) (heff : (seen (.phase c .rel sc) c s).eff ≠ 0)
    (hrel : ((entered (.phase c .rel sc) s).prog s.pick.ref).rel = 2)
    (href : ((entered (.phase c .rel sc) s).core s.pick.ref.core).refused = []) :
    Finishes (.phase c .rel sc) s (relSpent (entered (.phase c .rel sc) s) s.pick.ref) :=
  finishes_of_run (c := c) rfl hready ((if_neg heff).trans (releaseThen_over sc 16 _ hrel href))

theorem phase_ar_over (hready : Ready (.phase c .ar sc) c s) (heff : (seen (.phase c .ar sc) c s).eff ≠ 0)
    (hrel : ((entered (.phase c .ar sc) s).prog s.pick.ref).rel = 2)
    (href : ((entered (.phase c .ar sc) s).core s.pick.ref.core).refused = []) :
    Finishes (.phase c .ar sc) s
      (acquireAt (relSpent (entered (.phase c .ar sc) s) s.pick.ref) (seen (.phase c .ar sc) c s) sc) :=
  finishes_of_run (c := c) rfl hready ((if_neg heff).trans (releaseThen_over sc 16 _ hrel href))

end

/-- SCFENCE's first half, its release over: the fence is marked and its heartbeat looked for (R68). -/
theorem fenceThen_over {v : View} {s : State} {n : Nat} (k : Nat → State → Res) (hrel : (s.prog v.r).rel = 2)
    (hbeat : (s.prog v.r).beat = some (some n)) (href : (s.core v.r.core).refused = []) :
    fenceThen v s k = k n (relSpent (s.setProg v.r { s.prog v.r with fences := true }) v.r) := by
  have hprog := prog_setProg s v.r { s.prog v.r with fences := true }
  have href' : ((s.setProg v.r { s.prog v.r with fences := true }).core v.r.core).refused = [] := by
    rw [State.setProg, State.setSplit, State.setStrand, State.setStrandAt, State.core_setCore]
    exact href
  have hbeat' : ((relSpent (s.setProg v.r { s.prog v.r with fences := true }) v.r).prog v.r).beat = some (some n) := by
    rw [relSpent, prog_setProg, hprog]
    exact hbeat
  rw [fenceThen, releaseThen_over .sys 16 _ (by rw [hprog]; exact hrel) href', beatThen]
  rw [relSpent] at hbeat' ⊢
  rw [hbeat']

theorem relSpent_setProg (s : State) (r : SplitRef) (p : Prog) :
    relSpent (s.setProg r p) r = s.setProg r { p with rel := 4, scope := none } := by
  rw [relSpent, setProg_setProg, prog_setProg]

theorem scfence_over {c : Ctl} {s : State} {n : Nat} (hready : Ready (.scfence c) c s) (heff : (seen (.scfence c) c s).eff ≠ 0)
    (hrel : ((entered (.scfence c) s).prog s.pick.ref).rel = 2)
    (hbeat : ((entered (.scfence c) s).prog s.pick.ref).beat = some (some n))
    (href : ((entered (.scfence c) s).core s.pick.ref.core).refused = []) :
    Finishes (.scfence c) s (fenceRecord (acquireAt ((entered (.scfence c) s).setProg s.pick.ref
      { (entered (.scfence c) s).prog s.pick.ref with fences := true, rel := 4, scope := none }) (seen (.scfence c) c s) .dev)
        s.pick.ref n) := by
  refine finishes_of_run (c := c) rfl hready ((if_neg heff).trans ?_)
  refine (fenceThen_over (v := seen (.scfence c) c s) (s := entered (.scfence c) s) _ hrel hbeat href).trans ?_
  rw [relSpent_setProg]
  rfl

/-- A release whose moved entries are all acknowledged is over (R61). -/
theorem releaseComplete_over {s : State} {sc : Scope} (hrel : (s.prog s.pick.ref).rel = 1)
    (hsc : (s.prog s.pick.ref).scope = some sc) (hover : releaseOver s s.pick.ref.core sc = true) :
    ∃ t, exec .releaseComplete s = .next t ∧ (t.prog s.pick.ref).rel = 2 := by
  refine ⟨s.setProg s.pick.ref { s.prog s.pick.ref with
    rel := 2, beat := if (s.prog s.pick.ref).fences then some none else (s.prog s.pick.ref).beat }, ?_, ?_⟩
  · simp only [exec, execReleaseComplete, hrel, hsc, hover, if_true]
  · rw [prog_setProg]

/-- Writing a result's destinations does not change the step that does it. -/
theorem foldl_putLanes_pick {s : State} (p : Pending) (es : List (Operand × LaneVec)) {u : State} (hpick : u.pick = s.pick) :
    es.foldl (fun u e => if stillTakes p e.1 then putLanes u ⟨s.pick.a, s.pick.b, p.split⟩ e.1 p.lanes e.2 else u) u =
      es.foldl (fun u e => if stillTakes p e.1 then putLanes u ⟨u.pick.a, u.pick.b, p.split⟩ e.1 p.lanes e.2 else u) u := by
  induction es generalizing u with
  | nil => rfl
  | cons e es ih =>
    rw [List.foldl_cons, List.foldl_cons, hpick]
    refine ih ?_
    split
    · exact hpick
    · exact hpick

/-- Settles O26. -/
theorem orderingMoves : Obligations.OrderingMoves := by
  refine ⟨fun c k sc s => ?phase, fun c s n => ?fence, fun s k e hk he hkey => ?deliver, fun s => rfl, fun s => rfl,
    fun s htick => ?beat, fun s htick => if_pos htick, fun s sc hrel hsc hover => ?release,
    fun s p hp howed hfail hfence hacq hlose => ?result⟩
  case phase =>
    intro i v t spent hready
    have hspent : spent = relSpent t s.pick.ref := rfl
    rw [hspent]
    refine ⟨phase_none hready, fun heff hk hrel hsc => ?_, fun heff hk => ?_, fun heff hrel href hk => ?_, fun heff hrel href hk => ?_⟩
    all_goals subst hk
    · exact phase_rel_core hready heff hrel hsc
    · exact phase_acq hready heff
    · exact phase_rel_over hready heff hrel href
    · exact phase_ar_over hready heff hrel href
  case fence =>
    exact fun hready => ⟨fun heff => finishes_of_run (c := c) rfl hready (if_pos heff),
      fun heff hrel hbeat href => scfence_over hready heff hrel hbeat href⟩
  case deliver =>
    refine ⟨_, rfl, ?_⟩
    rw [deliverHead_sram hk he hkey]
    obtain ⟨hmem, htaint, hmoved⟩ := performEntry_sram (s := s.setCore s.pick.a { s.core s.pick.a with
      moved := (s.core s.pick.a).moved.eraseIdx k }) hkey s.pick.a s.pick.flag
    exact ⟨hmem, htaint, hmoved.trans (by rw [State.core_setCore])⟩
  case beat =>
    obtain ⟨hmem, htick⟩ := still_settleFences s
    exact ⟨_, if_neg (by omega), rfl, congrArg (· + 256) htick, hmem⟩
  case release => exact releaseComplete_over hrel hsc (List.all_eq_true.mpr fun e he => by rw [hover e he]; rfl)
  case result =>
    simp only [exec, execResultWrite, hp, howed, bne_self_eq_false, Bool.false_eq_true, if_false]
    rw [advancePending_plain hfail hfence hacq hlose, foldl_putLanes_pick p _ rfl]

end Sys2Proof.Proofs
end

section
/-! PROOFS. Tagged words and atomics (O27 to O29): what their instructions send, and what their homes do. -/
namespace Sys2Proof.Proofs
set_option Elab.async false

open Sys2Proof Sys2Proof.Machine Sys2Proof.Claims

/-! Tagged instructions. -/

theorem vecOf_zero (f : Nat → Word) : vecOf 0 f = List.replicate 96 0 := by
  refine List.eq_replicate_iff.mpr ⟨by rw [vecOf, List.length_map, List.length_range], fun w hw => ?_⟩
  obtain ⟨l, -, rfl⟩ := List.mem_map.mp hw
  exact if_neg fun h => absurd (h.symm.trans BitVec.getLsbD_zero) Bool.noConfusion

theorem reqLanes_eq_requested (ps : List Place) (arg : Nat → DWord) : reqLanes ps arg = requested ps arg fun _ => 0 := rfl

/-- A tagged load whose checks pass and whose lines are drained leaves its result awaited and its request on its way. -/
theorem taggedLoad_ready {v : View} {s : State} (hdrained : (s.prog v.r).drained = true) (c : Ctl) (op : TagOp) (acq : Option Scope)
    (p : Place) (ps : List Place) (d : Operand) :
    taggedLoad v s c op acq (.ready (p :: ps)) d = .done (taggedAwaiting s v c d op acq (p :: ps)) := by
  rw [taggedLoad, withAccess, drainThen, if_pos hdrained, vecOf_zero]
  rfl

theorem exec_of_taggedLoadOp {i : Instr} {c : Ctl} {op : TagOp} {acq : Option Scope} {d : Operand} {x : View → Access}
    (h : taggedLoadOp i = some (c, op, acq, d, x)) (s : State) : exec i s = run i c s fun v u => taggedLoad v u c op acq (x v) d := by
  cases i with
  | ldt | ldtk | tagRd => cases h; rfl
  | _ => cases h

theorem exec_of_taggedStoreOp {i : Instr} {c : Ctl} {op : TagOp} {why : Nat} {rel : Option Scope} {x : View → Access}
    {arg : View → Nat → DWord} (h : taggedStoreOp i = some (c, op, why, rel, x, arg)) (s : State) :
    exec i s = run i c s fun v u => taggedStore v u op rel why (x v) (arg v) := by
  cases i with
  | stt | sttf | tagClr => cases h; rfl
  | _ => cases h

/-! Tagged words at their home. -/

theorem parked_laneReply (s : State) (t : Target) (l key : Nat) (x : DWord) : (laneReply s t l key x).parked = s.parked := by
  rw [laneReply]
  cases t.id <;> rfl

theorem parked_putBytes (s : State) (key : Nat) (bs : List Byte) : (putBytes s key bs).parked = s.parked := by
  simp only [putBytes, sendWakes]
  split <;> rfl

/-- Where no lane waits at the word, none is woken (R67). -/
theorem wakeWord_none {s : State} {key : Nat} (h : ∀ p ∈ s.parked, p.lane.key ≠ key) (fuel : Nat) : wakeWord s key fuel = s := by
  have hnone : ∀ ops, firstParked s key ops = none := fun ops => by
    rw [firstParked, List.findIdx?_eq_none_iff]
    intro p hp
    rw [beq_false_of_ne (h p hp), Bool.false_and]
  cases fuel with
  | zero => rfl
  | succ fuel =>
    rw [wakeWord]
    split <;> simp only [hnone]

theorem isFull_iff (s : State) (key : Nat) : isFull s key = true ↔ keyAddr key / 4 ∉ s.emptyTags := by
  rw [isFull, Bool.not_eq_true', ← Bool.not_eq_true, List.contains_iff_mem]

/-- A span without a byte of failed parity (R516). -/
theorem spoiled_eq_false_iff (s : State) (key n : Nat) : spoiled s key n = false ↔ ∀ a ∈ s.tainted, a < key ∨ key + n ≤ a := by
  rw [spoiled, List.any_eq_false]
  refine forall₂_congr fun a _ => ?_
  rw [Bool.and_eq_true, decide_eq_true_iff, decide_eq_true_iff]
  omega

section
variable {s : State} {l : ReqLane} (hpark : ∀ p ∈ s.parked, p.lane.key ≠ l.key) (t : Target)
include hpark

/-- A word's waiters are looked at after a reply; with none nothing more happens. -/
theorem wakeWord_laneReply {u : State} (hu : u.parked = s.parked) (x : DWord) (fuel : Nat) :
    wakeWord (laneReply u t l.lane l.key x) l.key fuel = laneReply u t l.lane l.key x :=
  wakeWord_none (fun p hp => hpark p (by rwa [parked_laneReply, hu] at hp)) fuel

theorem tagLane_full (hfull : isFull s l.key = true) :
    (spoiled s l.key 4 = false →
      tagLane t .ldt s l = laneReply (setEmpty s l.key) t l.lane l.key (BitVec.ofNat 64 (s.mem.readNat l.key 4)) ∧
      tagLane t .ldtk s l = laneReply s t l.lane l.key (BitVec.ofNat 64 (s.mem.readNat l.key 4))) ∧
    (spoiled s l.key 4 = true → tagLane t .ldt s l = laneFails s t l ∧ tagLane t .ldtk s l = laneFails s t l) ∧
    tagLane t .rd s l = laneReply s t l.lane l.key 1 ∧ tagLane t .stt s l = parkLane s t .stt l := by
  have hread : ∀ op, (op == TagOp.ldt || op == TagOp.ldtk) = true → (spoiled s l.key 4 = true → tagLane t op s l = laneFails s t l) :=
    fun op hop hbad => if_pos (by rw [hop, hfull, hbad]; rfl)
  refine ⟨fun hgood => ⟨?ldt, ?ldtk⟩, fun hbad => ⟨hread .ldt rfl hbad, hread .ldtk rfl hbad⟩, ?rd, ?stt⟩
  case ldt =>
    simp only [tagLane, hfull, hgood, Bool.and_false, Bool.false_eq_true, if_false]
    exact wakeWord_laneReply hpark t (u := setEmpty s l.key) rfl _ _
  case ldtk => simp only [tagLane, hfull, hgood, Bool.and_false, Bool.false_eq_true, if_false]
  case rd =>
    simp only [tagLane, hfull]
    exact if_neg Bool.false_ne_true
  case stt =>
    simp only [tagLane, hfull]
    exact if_neg Bool.false_ne_true

theorem tagLane_empty (hempty : isFull s l.key = false) :
    tagLane t .stt s l =
      laneReply (setFull (putBytes s l.key (leBytes 4 l.arg.toNat)) l.key) t l.lane l.key 0 ∧
    tagLane t .rd s l = laneReply s t l.lane l.key 0 ∧
    tagLane t .ldt s l = parkLane s t .ldt l ∧ tagLane t .ldtk s l = parkLane s t .ldtk l := by
  refine ⟨?_, ?_, ?_, ?_⟩ <;>
    simp only [tagLane, hempty, Bool.and_false, Bool.false_and, Bool.false_eq_true, if_false]
  exact wakeWord_laneReply hpark t (u := setFull (putBytes s l.key (leBytes 4 l.arg.toNat)) l.key) (parked_putBytes s _ _) _ _

theorem tagLane_sttf : tagLane t .sttf s l =
    laneReply (setFull (putBytes s l.key (leBytes 4 l.arg.toNat)) l.key) t l.lane l.key 0 := by
  have hno : ((TagOp.sttf == TagOp.ldt || TagOp.sttf == TagOp.ldtk) && isFull s l.key && spoiled s l.key 4) = false := rfl
  simp only [tagLane, hno, Bool.false_eq_true, if_false]
  exact wakeWord_laneReply hpark t (u := setFull (putBytes s l.key (leBytes 4 l.arg.toNat)) l.key) (parked_putBytes s _ _) _ _

theorem tagLane_clr : tagLane t .clr s l = laneReply (setEmpty s l.key) t l.lane l.key 0 := by
  have hno : ((TagOp.clr == TagOp.ldt || TagOp.clr == TagOp.ldtk) && isFull s l.key && spoiled s l.key 4) = false := rfl
  simp only [tagLane, hno, Bool.false_eq_true, if_false]
  exact wakeWord_laneReply hpark t (u := setEmpty s l.key) rfl _ _

end

/-- Settles O27. -/
theorem taggedInstructions : Obligations.TaggedInstructions := by
  refine ⟨fun i c op acq d x s p ps hop hready hdrained hplaces => ?load, fun i c op why rel x arg s hop hready => ?store,
    fun s t l hpark => ?home⟩
  case load =>
    refine finishes_of_run (exec_of_taggedLoadOp hop s) hready ?_
    rw [hplaces]
    exact taggedLoad_ready (v := seen i c s) (s := entered i s) hdrained c op acq p ps d
  case store =>
    intro v p
    have hrun := exec_of_taggedStoreOp hop s
    refine ⟨fun hstage hall => ?_, fun hstage hsome => ?_, fun hstage hplaces hdrained => ?_⟩
    · exact finishes_of_run hrun hready ((if_pos hstage).trans (if_pos hall))
    · exact waits_of_run hrun hready ((if_pos hstage).trans (if_neg hsome))
    · refine finishes_of_run hrun hready ((if_neg hstage).trans ?_)
      rw [hplaces, withAccess, drainThen_of_drained hdrained]
      rfl
  case home =>
    intro word empty stored full parks again well
    have hwell : well ↔ spoiled s l.key 4 = false := (spoiled_eq_false_iff s l.key 4).symm
    have hparks : ∀ op, tagLane t op s l = parkLane s t op l → parks op ∧ again op := fun op h =>
      ⟨fun hroom => h.trans (if_pos hroom), fun hfull => h.trans (if_neg (Nat.not_lt.mpr hfull))⟩
    refine ⟨fun hin => ?_, fun hin => ?_, tagLane_sttf hpark t, tagLane_clr hpark t⟩
    · obtain ⟨hgood, hbad, hrd, hstt⟩ := tagLane_full hpark t ((isFull_iff s l.key).mpr hin)
      exact ⟨fun h => hgood (hwell.mp h), fun h => hbad (by simpa using mt hwell.mpr h), hrd, hparks .stt hstt⟩
    · obtain ⟨hstt, hrd, hldt, hldtk⟩ := tagLane_empty hpark t (by simpa using mt (isFull_iff s l.key).mp (not_not_intro hin))
      exact ⟨hstt, hrd, hparks .ldt hldt, hparks .ldtk hldtk⟩

/-! Atomic instructions. -/

/-- What an order asks for first is over: the requests go (R71). -/
theorem atomThen_ready {i : Instr} {x : AtomOp} {s t : State} {ps : List Place} (hafter : afterOrder i x s ps = some t)
    (send : State → List Place → State) :
    atomThen (seen i x.c s) (entered i s) (.ready ps) x.o x.sc send = .done (send t ps) := by
  rw [atomThen, withAccess]
  unfold afterOrder at hafter
  by_cases hnone : ps = []
  · subst hnone
    cases (if_pos rfl).symm.trans hafter
    rfl
  · rw [if_neg hnone] at hafter
    rw [if_neg (by simpa using hnone)]
    obtain ⟨hgo, hafter⟩ := (Option.ite_none_left_eq_some).mp hafter
    obtain ⟨hdrained, href⟩ := not_or.mp (mt (Bool.or_eq_true _ _).mpr hgo)
    have hdrained : ((entered i s).split s.pick.ref).prog.drained = true := by simpa using hdrained
    have href : ((entered i s).core (seen i x.c s).r.core).refused = [] := by simpa using href
    rw [drainThen_of_drained (i := i) (s := s) hdrained]
    have hrelease : ((entered i s).prog s.pick.ref).rel = 2 → (x.o == .sc) = false →
        some ((entered i s).setProg s.pick.ref { (entered i s).prog s.pick.ref with
          rel := 4, scope := none, fences := ((entered i s).prog s.pick.ref).fences || x.o == .sc }) = some t →
        releaseThen (seen i x.c s) (entered i s) x.sc 16 (fun u => .done (send u ps)) = .done (send t ps) := by
      intro hrel hsc ht
      rw [hsc, Bool.or_false] at ht
      cases ht
      exact releaseThen_over x.sc 16 _ hrel href
    cases ho : x.o with
    | rlx | acq =>
      rw [ho] at hafter
      cases hafter
      rfl
    | rel | ar =>
      simp only [ho] at hafter
      obtain ⟨hrel, hafter⟩ := (Option.ite_none_right_eq_some).mp hafter
      exact hrelease hrel (by rw [ho]; rfl) (by rw [ho]; exact hafter)
    | sc =>
      simp only [ho] at hafter
      split at hafter
      case h_2 => cases hafter
      case h_1 n hrel hbeat =>
        cases hafter
        refine (fenceThen_over (v := seen i x.c s) (s := entered i s) _ hrel hbeat href).trans ?_
        rw [relSpent_setProg, ← Bool.or_true ((entered i s).prog s.pick.ref).fences]
        rfl

theorem exec_of_atomOp {i : Instr} {x : AtomOp} (h : atomOp i = some x) (s : State) : exec i s = run i x.c s fun v u =>
    atomThen v u (x.check v) x.o x.sc fun u ps => atomSend v u x.c x.kind x.w64 x.dst x.o x.sc x.lose
      (if x.low then (lowLane v.eff).getD 0 else 0) (requested (if x.one then ps.take 1 else ps) (x.arg v) (x.want v)) := by
  cases i with
  | atom c sg op o sc w64 a64 d a b =>
    cases h
    cases op <;> rfl
  | acas c sg o sc w64 facq a64 d a b =>
    cases h
    have hwant : ∀ (v : View) (ps : List Place), (reqLanes ps fun l => v.rdW w64 (b.after (if w64 then 2 else 1)) l).map
        (fun r => { r with want := v.rdW w64 b r.lane }) =
          requested ps (fun l => v.rdW w64 (b.after (if w64 then 2 else 1)) l) fun l => v.rdW w64 b l :=
      fun v ps => List.map_map
    show execAcas c sg o sc w64 facq a64 d a b s = _
    simp only [execAcas, hwant]
    rfl
  | lr => cases h; rfl
  | sc c sg o sc w64 a64 d a b =>
    cases h
    have hlose : orderAcquire o sc = if o = .acq ∨ o = .ar then some sc else none := by cases o <;> rfl
    show execSc c sg o sc w64 a64 d a b s = _
    simp only [execSc, hlose]
    rfl
  | _ => cases h

/-- Settles O28. -/
theorem atomicInstructions : Obligations.AtomicInstructions := by
  intro i x s t ps hop hready v sent reqs u u' hplaces hafter
  refine finishes_of_run (exec_of_atomOp hop s) hready ?_
  rw [hplaces]
  refine (atomThen_ready hafter _).trans (congrArg Res.done ?_)
  have hfence : (if sent.isEmpty then 0 else fenceDue x.kind x.o) =
      if x.o ≠ .sc ∨ sent = [] then 0 else if x.kind = .cas then 5 else 1 := by
    cases sent <;> cases x.o <;> simp [fenceDue]
  have hacq : orderAcquire x.o x.sc = if x.o = .acq ∨ x.o = .ar then some x.sc else none := by
    cases x.o <;> simp [orderAcquire]
  have hlose : (if sent.isEmpty then none else x.lose) = if sent = [] then none else x.lose := by
    cases sent <;> rfl
  show atomSend v t x.c x.kind x.w64 x.dst x.o x.sc x.lose _ sent = _
  simp only [atomSend, vecOf_zero, enqueueAtom, hfence, hacq, hlose]
  rfl

/-- A state whose SRAM byte at 0 was written with failed parity (R516). -/
def poisonedHome : State := { ({} : State) with tainted := [0] }

/-- An atomic add that one lane makes at that byte. -/
def poisonedLane : ReqLane := { lane := 0, addr := 0, key := 0, arg := 0 }

def poisonedAdd : AtomReq :=
  { target := { core := 0, slot := 0, split := 0, id := none }, kind := .rmw .add, w64 := false, ctx := 0, strand := 0
    first := 0, lanes := [poisonedLane] }

/-- Refutes O29: where a byte of the place was written with failed parity, the read at the home fails (R516), so ATOM does
not write and its lane reports DATA_UC; the statement has no hypothesis that excludes it. -/
theorem not_atomicsAtHome : ¬ Obligations.AtomicsAtHome := by
  intro ⟨hlane, _⟩
  have hbad : (atomLane poisonedAdd poisonedHome poisonedLane).2.won = false := by decide
  have hsays := (hlane poisonedHome poisonedAdd poisonedLane rfl).1 .add rfl
  rw [hsays] at hbad
  exact absurd hbad (by decide)

end Sys2Proof.Proofs
end

section
/-! PROOFS. Handles and byte-count barriers (O30, O31). -/
namespace Sys2Proof.Proofs
set_option Elab.async false

open Sys2Proof Sys2Proof.Machine Sys2Proof.Claims

/-! Promised ticks (R161, R162). -/

/-- Two ticks of 40 bits apart, the second not after the first in the nearer direction. -/
theorem nearer_iff {a p : Nat} (hp : p < 2 ^ 40) :
    ((a + 2 ^ 40 - p) % 2 ^ 40 = 0 ∨ 2 ^ 39 ≤ (a + 2 ^ 40 - p) % 2 ^ 40) ↔ ∃ n : Nat, n ≤ 2 ^ 39 ∧ p % 2 ^ 40 = (a + n) % 2 ^ 40 := by
  constructor
  · intro h
    exact ⟨(2 ^ 40 - (a + 2 ^ 40 - p) % 2 ^ 40) % 2 ^ 40, by omega, by omega⟩
  · rintro ⟨n, hn, h⟩
    omega

theorem metPromise_running {s : State} {x : Nat} {h : DWord} (hst : (handleStatus s x h).1 = 6) : metPromise s x h = false := by
  simp only [metPromise, hst]

theorem metPromise_stale {s : State} {x : Nat} {h : DWord} (hst : (handleStatus s x h).1 = 7) : metPromise s x h = true := by
  simp only [metPromise, hst]

theorem metPromise_ended {s : State} {x : Nat} {h : DWord} {e : CEntry} (hst : (handleStatus s x h).1 < 6)
    (he : (s.clu (handleClu h)).ctab.find (handleSerial h) = some e) :
    metPromise s x h = true ↔ ∃ n : Nat, n ≤ 2 ^ 39 ∧ handlePtick h % 2 ^ 40 = (e.at_ + n) % 2 ^ 40 := by
  have hptick : handlePtick h < 2 ^ 40 := (h.extractLsb' 0 40).isLt
  rw [← nearer_iff hptick, metPromise]
  split
  case h_1 h6 => omega
  case h_2 h7 => omega
  case h_3 => simp [he]

theorem not_not_of_true {b : Bool} (h : b = true) : ¬ (!b) = true := by rw [h]; decide

theorem not_bne_of_eq {a b : Nat} (h : a = b) : ¬ (a != b) = true := by rw [h, bne_self_eq_false]; decide

/-- Settles O30. -/
theorem handleInstructions : Obligations.HandleInstructions := by
  refine ⟨fun c acq nt n s => ?hwait, fun c d n s => ?htest, fun c n s => ?hcancel, fun c n a s => ?toHandle, fun c d n s => ?fromHandle,
    fun c n s => ?hprom, fun s x h => ⟨metPromise_running, metPromise_stale, fun e => metPromise_ended⟩, fun s w h hw hk hreached hmet => ?timeout⟩
  case hwait => exact fun hready => finishes_of_run (c := c) rfl hready rfl
  case htest => exact fun hready => finishes_of_run (c := c) rfl hready rfl
  case hcancel =>
    intro i v h hready
    refine ⟨if v.eff = 0 then entered i s else cancelHandle (entered i s) v.st.ctx h, finishes_of_run (c := c) rfl hready rfl,
      fun hnone => ?_, fun heff hrun => ?_⟩
    · by_cases heff : v.eff = 0
      · exact if_pos heff
      · exact (if_neg heff).trans (if_neg (hnone.resolve_left heff))
    · exact (if_neg heff).trans (if_pos hrun)
  case toHandle => exact fun hready => finishes_of_run (c := c) rfl hready rfl
  case fromHandle => exact fun hready => finishes_of_run (c := c) rfl hready rfl
  case hprom =>
    intro i v h st hready
    have hrun : exec i s = run i c s _ := rfl
    refine ⟨fun heff => finishes_of_run hrun hready (if_pos heff), fun heff hahead => ?_, fun heff hpast hmet hst => ?_,
      fun heff hpast hmet => ?_, fun heff hpast hmet hst => ?_⟩
    · exact finishes_of_run hrun hready ((if_neg heff).trans (if_pos ((Bool.not_eq_true' _).mpr hahead)))
    · exact finishes_of_run hrun hready ((if_neg heff).trans ((if_neg (not_not_of_true hpast)).trans
        ((if_neg (not_not_of_true hmet)).trans (if_neg (not_bne_of_eq hst)))))
    · exact traps_of_run_entered hrun hready ((if_neg heff).trans ((if_neg (not_not_of_true hpast)).trans
        (if_pos ((Bool.not_eq_true' _).mpr hmet))))
    · exact traps_of_run_entered hrun hready ((if_neg heff).trans ((if_neg (not_not_of_true hpast)).trans
        ((if_neg (not_not_of_true hmet)).trans (if_pos (bne_iff_ne.mpr hst)))))
  case timeout =>
    simp only [exec, execPromiseTimeout, hw, hk, hreached, hmet, promiseOver]
    rfl

/-! Barrier instructions. -/

theorem withBcb_none {v : View} {s : State} (heff : v.eff = 0) (sg : SegIx) (writes : Bool) (a : Operand) (k : State → Nat → Res) :
    withBcb v s sg writes a k = .done s := if_pos heff

theorem withBcb_ready {i : Instr} {c : Ctl} {s : State} {sg : SegIx} {writes : Bool} {a : Operand} {p : Place} {ps : List Place}
    (heff : (seen i c s).eff ≠ 0) (hdrained : Drained i s) (hcheck : barrierAccess (seen i c s) sg writes a = .ready (p :: ps))
    (k : State → Nat → Res) : withBcb (seen i c s) (entered i s) sg writes a k = k (entered i s) p.key := by
  refine (if_neg heff).trans ?_
  refine (congrArg (withAccess _ _ · _) hcheck).trans ?_
  rw [withAccess]
  exact drainThen_of_drained hdrained c _ 16 _

section
variable {i : Instr} {c : Ctl} {s : State} {p : Place}

theorem ackThen_first (hstage : ((entered i s).split s.pick.ref).prog.stage = 0) (act : State → State) :
    ackThen (seen i c s) (entered i s) p.key act = .stay 14 (sentOff (act (entered i s)) i s) := if_pos hstage

theorem ackThen_acknowledged (hstage : ((entered i s).split s.pick.ref).prog.stage ≠ 0) (act : State → State) :
    ackThen (seen i c s) (entered i s) p.key act = .done (withoutLine (entered i s) (seen i c s).r.core p.key) := if_neg hstage

end

/-! A barrier's phases at its home (R156, R158). -/

/-- Fields that fit: what a barrier's 128 bits give back (R156). -/
def Bcb.Fits (b : Bcb) : Prop := b.rcnt < 16 ∧ b.rld < 2 ^ 32 ∧ b.arr < 2 ^ 32 ∧ b.exp < 2 ^ 32

theorem Bcb.ofNat_toNat {b : Bcb} (h : Bcb.Fits b) : Bcb.ofNat b.toNat = b := by
  obtain ⟨ph, ovr, rcnt, rld, arr, exp⟩ := b
  obtain ⟨hrcnt, hrld, harr, hexp⟩ : rcnt < 16 ∧ rld < 2 ^ 32 ∧ arr < 2 ^ 32 ∧ exp < 2 ^ 32 := h
  simp only [Bcb.ofNat, Bcb.toNat, Nat.testBit_eq_decide_div_mod_eq, Bcb.mk.injEq]
  cases ph <;> cases ovr <;> refine ⟨?_, ?_, ?_, ?_, ?_, ?_⟩ <;> simp <;> omega

theorem fits_readBcb (s : State) (key : Nat) : Bcb.Fits (readBcb s key) :=
  ⟨Nat.mod_lt _ (by decide), Nat.mod_lt _ (by decide), Nat.mod_lt _ (by decide), Nat.mod_lt _ (by decide)⟩

theorem Bcb.toNat_lt {b : Bcb} (h : Bcb.Fits b) : b.toNat < 2 ^ 128 := by
  obtain ⟨hrcnt, hrld, harr, hexp⟩ := h
  rw [Bcb.toNat]
  split <;> split <;> omega

theorem leNat_leBytes (n x : Nat) : leNat (leBytes n x) = x % 2 ^ (8 * n) := by
  induction n generalizing x with
  | zero => rw [Nat.mul_zero, Nat.pow_zero, Nat.mod_one]; rfl
  | succ n ih =>
    rw [leBytes, leNat, ih, BitVec.toNat_ofNat, Nat.mul_succ, Nat.add_comm (8 * n), Nat.pow_add, Nat.mod_mul]

theorem readList_writeList {m : Memory} (h : m.wf = true) (a : Nat) (bs : List Byte) :
    (m.writeList a bs).readList a bs.length = bs := by
  rw [readList_eq_map]
  refine List.ext_getElem (by simp) fun i hi hi' => ?_
  rw [List.getElem_map, List.getElem_range, Memory.read_writeList_inside m a i bs h hi']

theorem readBcb_putBytes {s : State} {key : Nat} {b : Bcb} (hwf : s.mem.wf = true) (h : Bcb.Fits b) :
    readBcb (putBytes s key (leBytes 16 b.toNat)) key = b := by
  have hread := readList_writeList hwf key (leBytes 16 b.toNat)
  rw [leBytes_length] at hread
  have hmem : (putBytes s key (leBytes 16 b.toNat)).mem = s.mem.writeList key (leBytes 16 b.toNat) := by
    rw [putBytes, (sendWakes_parts s _ _).1]
  rw [readBcb, Memory.readNat, hmem, hread, leNat_leBytes, Nat.mod_eq_of_lt (Bcb.toNat_lt h), Bcb.ofNat_toNat h]

theorem readBcb_congr {s t : State} (h : t.mem = s.mem) (key : Nat) : readBcb t key = readBcb s key := by
  rw [readBcb, readBcb, h]

theorem mem_wakeBcb_setBcbRanges (s : State) (key : Nat) (x : BcbRanges) (parity : Option Bool)
    (ranges : Option (List (Nat × Nat))) : (wakeBcb (setBcbRanges s key x) key parity ranges).mem = s.mem := rfl

theorem fits_settle {b : Bcb} (h : Bcb.Fits b) (x : BcbRanges) : Bcb.Fits (b.settle x).1 := by
  obtain ⟨hrcnt, hrld, harr, hexp⟩ := h
  rw [Bcb.settle]
  split
  · exact ⟨Nat.succ_pos 15, hrld, Nat.two_pow_pos 32, hrld⟩
  · exact ⟨hrcnt, hrld, harr, hexp⟩

/-- A barrier after an update is written whole, whether its phase completes or not. -/
theorem mem_settleBcb (s : State) (key : Nat) (b : Bcb) :
    (settleBcb s key b).mem = (putBytes s key (leBytes 16 (b.settle (bcbRanges s key)).1.toNat)).mem := by
  by_cases hdone : (decide (b.exp ≠ 0) && decide (b.arr ≥ b.exp)) = true
  · simp only [settleBcb, Bcb.settle, if_pos hdone, mem_wakeBcb_setBcbRanges]
  · simp only [settleBcb, Bcb.settle, if_neg hdone]

theorem readBcb_settleBcb {s : State} {key : Nat} {b : Bcb} (hwf : s.mem.wf = true) (h : Bcb.Fits b) :
    readBcb (settleBcb s key b) key = (b.settle (bcbRanges s key)).1 :=
  (readBcb_congr (mem_settleBcb s key b) key).trans (readBcb_putBytes hwf (fits_settle h _))

section
variable {i : Instr} {c : Ctl} {sg : SegIx} {a b : Operand} {s : State} {p : Place} {ps : List Place}

/-- BCB.INIT and BCB.EXP act at the home and wait for its acknowledgement (R158). -/
theorem ends_of_ack {act : View → State → Nat → State}
    (hrun : exec i s = run i c s fun v u => withBcb v u sg true a fun u key => ackThen v u key fun t => act v t key)
    (hready : Ready i c s) (heff : (seen i c s).eff ≠ 0) (hdrained : Drained i s)
    (hcheck : barrierAccess (seen i c s) sg true a = .ready (p :: ps)) :
    (((entered i s).split s.pick.ref).prog.stage = 0 → Waits i s 14 (sentOff (act (seen i c s) (entered i s) p.key) i s)) ∧
    (((entered i s).split s.pick.ref).prog.stage ≠ 0 →
      Finishes i s (withoutLine (entered i s) (seen i c s).r.core p.key)) :=
  ⟨fun hstage => waits_of_run hrun hready ((withBcb_ready heff hdrained hcheck _).trans (ackThen_first hstage _)),
   fun hstage => finishes_of_run hrun hready ((withBcb_ready heff hdrained hcheck _).trans (ackThen_acknowledged hstage _))⟩

theorem bcbArr_ends (hready : Ready (.bcbArr c sg a b) c s) (heff : (seen (.bcbArr c sg a b) c s).eff ≠ 0)
    (hdrained : Drained (.bcbArr c sg a b) s)
    (hcheck : barrierAccess (seen (.bcbArr c sg a b) c s) sg true a = .ready (p :: ps))
    (hrel : ((entered (.bcbArr c sg a b) s).prog s.pick.ref).rel = 2)
    (href : ((entered (.bcbArr c sg a b) s).core (seen (.bcbArr c sg a b) c s).r.core).refused = []) :
    Finishes (.bcbArr c sg a b) s (withoutLine (bcbArrive (relSpent (entered (.bcbArr c sg a b) s) s.pick.ref) p.key
      ((seen (.bcbArr c sg a b) c s).rd b 0).toNat) (seen (.bcbArr c sg a b) c s).r.core p.key) :=
  finishes_of_run rfl hready ((withBcb_ready heff hdrained hcheck _).trans (releaseThen_over .dev 16 _ hrel href))

theorem bcbWait_ends (hready : Ready (.bcbWait c sg a b) c s) (heff : (seen (.bcbWait c sg a b) c s).eff ≠ 0)
    (hdrained : Drained (.bcbWait c sg a b) s)
    (hcheck : barrierAccess (seen (.bcbWait c sg a b) c s) sg false a = .ready (p :: ps)) :
    ∃ u w, Finishes (.bcbWait c sg a b) s
        (sendBcbWait u s.pick.ref w p.key (((seen (.bcbWait c sg a b) c s).rd b 0).getLsbD 0)) ∧
      u = waitingFor (entered (.bcbWait c sg a b) s) (seen (.bcbWait c sg a b) c s)
        (.bcb p.key (((seen (.bcbWait c sg a b) c s).rd b 0).getLsbD 0) (some (entered (.bcbWait c sg a b) s).tick) none) ∧
      (u.split s.pick.ref).waits = ((entered (.bcbWait c sg a b) s).split s.pick.ref).waits ++ [w] := by
  have hwaits : ∀ (u : State) (v : View) (k : WaitKind), ((beginWait u v k).split v.r).waits = (u.split v.r).waits ++
      [{ kind := k, pc := v.h, pos := v.pos, lanes := v.eff, since := u.runTick, hm := (u.split v.r).hm }] := fun u v k => by
    rw [beginWait, State.split_setSplit]
  refine ⟨_, _, finishes_of_run rfl hready ((withBcb_ready heff hdrained hcheck _).trans ?_), rfl, hwaits _ _ _⟩
  dsimp only
  rw [hwaits, List.getLast?_append]
  rfl

end

section
variable {s : State} {key n : Nat} (hwf : s.mem.wf = true)
include hwf

theorem readBcb_bcbInit (hn : n ≠ 0) (hlt : n < 2 ^ 32) :
    readBcb (bcbInit s key n) key = { ph := false, ovr := false, rcnt := 0, rld := n, arr := 0, exp := n } := by
  have hwf' : (wakeBcb (setBcbRanges s key { opened := [], last := some [] }) key none none).mem.wf = true := by
    rw [mem_wakeBcb_setBcbRanges]
    exact hwf
  refine (readBcb_settleBcb hwf' ⟨Nat.succ_pos 15, hlt, Nat.two_pow_pos 32, hlt⟩).trans ?_
  rw [Bcb.settle, if_neg (by simp only [Bool.and_eq_true, decide_eq_true_eq]; omega)]

theorem readBcb_bcbArrive (hlt : (readBcb s key).arr + n < 2 ^ 32) : readBcb (bcbArrive s key n) key =
    (Bcb.settle { readBcb s key with arr := (readBcb s key).arr + n } (bcbRanges s key)).1 := by
  obtain ⟨hrcnt, hrld, -, hexp⟩ := fits_readBcb s key
  have hsum : sat32 ((readBcb s key).arr + n) = (readBcb s key).arr + n := Nat.min_eq_left (by omega)
  simp only [bcbArrive, hsum]
  exact readBcb_settleBcb hwf ⟨hrcnt, hrld, hlt, hexp⟩

end

/-- Settles O31. -/
theorem barrierInstructions : Obligations.BarrierInstructions := by
  refine ⟨fun c sg d a b s p ps => ⟨?init, ?exp, ?arr, ?test, ?wait⟩, fun s key n hwf hn => ⟨?first, ?arrival⟩⟩
  case init =>
    exact fun hready => ⟨fun heff => finishes_of_run (c := c) rfl hready (withBcb_none heff ..), fun heff hdrained hcheck =>
      ends_of_ack (act := fun v u key => bcbInit u key (v.rd b 0).toNat) rfl hready heff hdrained hcheck⟩
  case exp =>
    exact fun hready => ⟨fun heff => finishes_of_run (c := c) rfl hready (withBcb_none heff ..), fun heff hdrained hcheck =>
      ends_of_ack (act := fun v u key => bcbExpect u key (v.rd b 0).toNat) rfl hready heff hdrained hcheck⟩
  case arr =>
    exact fun hready => ⟨fun heff => finishes_of_run (c := c) rfl hready (withBcb_none heff ..), fun heff hdrained hcheck hrel href =>
      bcbArr_ends hready heff hdrained hcheck hrel href⟩
  case test =>
    exact fun hready => ⟨fun heff => finishes_of_run (c := c) rfl hready (withBcb_none heff ..), fun heff hdrained hcheck =>
      finishes_of_run (c := c) rfl hready (withBcb_ready heff hdrained hcheck _)⟩
  case wait =>
    exact fun hready => ⟨fun heff => finishes_of_run (c := c) rfl hready (withBcb_none heff ..), fun heff hdrained hcheck =>
      bcbWait_ends hready heff hdrained hcheck⟩
  case first => exact fun hpos => readBcb_bcbInit hwf hpos hn
  case arrival =>
    intro b hlt
    rw [readBcb_bcbArrive hwf hlt]
    refine ⟨fun hbelow => ?_, fun hexp hreach => ?_⟩
    · rw [Bcb.settle, if_neg (by simp only [Bool.and_eq_true, decide_eq_true_eq]; show ¬ (b.exp ≠ 0 ∧ b.exp ≤ b.arr + n); omega)]
    · rw [Bcb.settle, if_pos (by simp only [Bool.and_eq_true, decide_eq_true_eq]; exact ⟨hexp, hreach⟩)]
      exact ⟨rfl, rfl, rfl, rfl, rfl⟩

end Sys2Proof.Proofs
end

section
/-! PROOFS. Tensor identifiers, gangs and codebooks (O32). -/
namespace Sys2Proof.Proofs
set_option Elab.async false

open Sys2Proof Sys2Proof.Machine Sys2Proof.Claims

/-- A load leaves every split as it is. -/
theorem split_of_loaded {s t : State} (h : Loaded s t) (r : SplitRef) : t.split r = s.split r := by
  simp only [State.split, State.strand, State.strandAt, h.slots]

/-- Ordinary loads in place whose checks pass and of which none fails give their bytes (R466). -/
theorem loadInPlace_ready {v : View} {s s' : State} {seg n : Nat} {offs : List Nat} {ps : List Place}
    {xs : List (Place × List Byte × Option LoadFail)} (hcheck : reaches v seg n false offs ps)
    (hload : eachPlace (loadPlace v.r.core n) s ps = (s', xs)) (hok : ∀ e ∈ xs, e.2.2 = none) (k : State → List (List Byte) → Res) :
    loadInPlace v s seg n n offs k = k s' (xs.map fun e => e.2.1) := by
  have hbad : xs.filterMap (fun e => e.2.2.map fun f => (e.1, f)) = [] :=
    List.filterMap_eq_nil_iff.mpr fun e he => by rw [hok e he]; rfl
  have hcheck' : v.checkSeg seg { n := n, writes := false, spaces := spacesAll, align := n } (numbered offs) = .ready ps := hcheck
  rw [loadInPlace, hcheck']
  simp only [Access.whole, withAccess, hload, hbad]
  rfl

/-! The context's table of tids (R454, R455). -/

theorem tab_get_del {α : Type} (t : Tab α) (d : α) (k k' : Nat) : (t.del k).get d k' = if k' = k then d else t.get d k' := by
  induction t with
  | nil => exact (ite_self d).symm
  | cons e t ih =>
    obtain ⟨j, v⟩ := e
    by_cases hj : j = k
    · subst hj
      have hdel : Tab.del ((j, v) :: t) j = Tab.del t j := List.filter_cons_of_neg (by simp)
      rw [hdel, ih, Tab.get]
      split <;> rfl
    · have hdel : Tab.del ((j, v) :: t) k = (j, v) :: Tab.del t k := List.filter_cons_of_pos (by simpa using hj)
      rw [hdel, Tab.get, Tab.get, ih]
      by_cases hkj : k' = j
      · rw [if_pos hkj, if_pos hkj, if_neg (hkj ▸ hj)]
      · rw [if_neg hkj, if_neg hkj]

theorem namedTid_eq (s : State) (ctx n : Nat) : namedTid s ctx n =
    if n < 1024 && tidValid ((s.ctx ctx).tids.get 0 n) then some ((s.ctx ctx).tids.get 0 n) else none := rfl

/-- What a number names after an entry was installed under one. -/
theorem namedTid_installTid (s : State) (ctx n : Nat) (x : BitVec 512) {m : Nat} (hm : m < 1024) :
    namedTid (installTid s ctx n x) ctx m = if m = n then (if x.getLsbD 511 then some x else none) else namedTid s ctx m := by
  rw [namedTid_eq, namedTid_eq, installTid, State.ctx_setCtx]
  have hget : (if tidValid x then ((s.ctx ctx).tids.set n x) else (s.ctx ctx).tids.del n).get 0 m =
      if m = n then (if tidValid x then x else 0) else (s.ctx ctx).tids.get 0 m := by
    split
    · exact Tab.get_set ..
    · exact tab_get_del ..
  dsimp only
  rw [hget]
  by_cases hmn : m = n
  · have hzero : tidValid 0 = false := BitVec.getLsbD_zero
    simp only [if_pos hmn, hm, decide_true, Bool.true_and]
    by_cases hx : tidValid x = true
    · rw [if_pos hx, if_pos hx]
      exact (if_pos hx).symm
    · rw [if_neg hx, hzero]
      exact (if_neg hx).symm
  · simp only [if_neg hmn]

/-! Codebooks (R457). -/

theorem leNat_append (xs ys : List Byte) : leNat (xs ++ ys) = leNat xs + 2 ^ (8 * xs.length) * leNat ys := by
  induction xs with
  | nil => rw [List.nil_append, List.length_nil, leNat]; omega
  | cons b xs ih =>
    rw [List.cons_append, leNat, leNat, ih, List.length_cons, Nat.mul_succ, Nat.pow_add]
    rw [Nat.mul_add 256, ← Nat.add_assoc, ← Nat.mul_assoc 256, Nat.mul_comm 256 (2 ^ _)]

/-- The bytes of eight words are their concatenation, the first one lowest. -/
theorem ofNat_leNat_words (w : Nat → Word) : BitVec.ofNat 256 (leNat ((List.range 8).flatMap fun i => leBytes 4 (w i).toNat)) =
    w 7 ++ w 6 ++ w 5 ++ w 4 ++ w 3 ++ w 2 ++ w 1 ++ w 0 := by
  have hword : ∀ (x : Word) (bs : List Byte), leNat (leBytes 4 x.toNat ++ bs) = x.toNat + 2 ^ 32 * leNat bs := fun x bs => by
    rw [leNat_append, leNat_leBytes, leBytes_length, Nat.mod_eq_of_lt x.isLt]
  have happend : ∀ {k : Nat} (a : BitVec k) (b : Word), (a ++ b).toNat = b.toNat + 2 ^ 32 * a.toNat := fun a b => by
    rw [BitVec.toNat_append, ← Nat.shiftLeft_add_eq_or_of_lt b.isLt, Nat.shiftLeft_eq]
    omega
  refine BitVec.eq_of_toNat_eq ?_
  simp only [List.range, List.range.loop, List.flatMap_cons, List.flatMap_nil, hword, happend, leNat, BitVec.toNat_ofNat]
  omega

/-- Settles O32. -/
theorem tensorIdentifiers : Obligations.TensorIdentifiers := by
  refine ⟨fun c a b s s' p bs => ?load, fun c a s => ?inv, fun c a s => ?gang, fun c n a s => ?codebook⟩
  case load =>
    intro i v n x hready
    have hrun : exec i s = run i c s _ := rfl
    refine ⟨fun heff => finishes_of_run hrun hready (if_pos heff),
      fun heff hn => traps_of_run_entered hrun hready ((if_neg heff).trans (if_pos hn)), fun heff hn hreach hload => ?_⟩
    have hplaces : eachPlace (loadPlace v.r.core 64) (entered i s) [p] = (s', [(p, bs, none)]) := by
      simp only [eachPlace, loadPlace, hload]
    have hbody : ∀ k : State → List (List Byte) → Res,
        loadInPlace v (entered i s) 7 64 64 [(v.rd64 b 0).toNat] k = k s' [bs] := fun k =>
      loadInPlace_ready hreach hplaces (fun e he => by rw [List.mem_singleton.mp he]) k
    have hloaded : Loaded (entered i s) s' := by
      have h := loaded_loadBytes (entered i s) v.r.core p.key 64 p.via
      rwa [hload] at h
    have hplace : (s'.split s.pick.ref).running = ((entered i s).split s.pick.ref).running :=
      congrArg Split.running (split_of_loaded hloaded s.pick.ref)
    have hflat : [bs].flatten = bs := List.append_nil bs
    refine ⟨fun hbad => traps_of_run (t := { code := 1, lanes := v.eff }) hrun hready ?_ hplace,
      fun hgood hbound => traps_of_run (t := { code := 0x19, lanes := v.eff }) hrun hready ?_ hplace,
      fun hgood hfree => ⟨installTid s' v.st.ctx n x, finishes_of_run hrun hready ?_, rfl, rfl, fun m hm =>
        namedTid_installTid s' v.st.ctx n x hm⟩⟩
    all_goals
      refine (if_neg heff).trans ((if_neg (Nat.not_le.mpr hn)).trans ((hbody _).trans ?_))
      simp only [hflat]
    · exact if_pos ((Bool.not_eq_true' _).mpr hbad)
    · exact (if_neg (not_not_of_true hgood)).trans (if_pos hbound)
    · exact (if_neg (not_not_of_true hgood)).trans (if_neg (by rw [hfree]; decide))
  case inv =>
    intro i v n t hready
    have hrun : exec i s = run i c s _ := rfl
    refine ⟨fun heff => finishes_of_run hrun hready (if_pos heff), fun heff hnone => ?_, fun heff hsome hbound => ?_,
      fun heff hsome hfree => ?_⟩
    · refine traps_of_run_entered hrun hready ((if_neg heff).trans ?_)
      simp only [v, t, n] at hnone
      rw [hnone]
      rfl
    · obtain ⟨y, hy⟩ := Option.ne_none_iff_exists'.mp hsome
      refine traps_of_run_entered hrun hready ((if_neg heff).trans ?_)
      simp only [v, t, n] at hy
      rw [hy]
      exact if_pos hbound
    · obtain ⟨y, hy⟩ := Option.ne_none_iff_exists'.mp hsome
      refine ⟨installTid t v.st.ctx n 0, finishes_of_run hrun hready ((if_neg heff).trans ?_), rfl, rfl, fun m hm => ?_⟩
      · simp only [v, t, n] at hy
        rw [hy]
        exact if_neg (by rw [hfree]; decide)
      · have hzero : (0 : BitVec 512).getLsbD 511 = false := BitVec.getLsbD_zero
        rw [namedTid_installTid t v.st.ctx n 0 hm, hzero]
        exact ite_of_iff Iff.rfl (if_neg Bool.false_ne_true) rfl
  case gang =>
    intro i v t hready
    have hrun : exec i s = run i c s _ := rfl
    refine ⟨fun heff => finishes_of_run hrun hready (if_pos heff), fun heff hlegal => ?_, fun heff hlegal => ?_⟩
    · exact traps_of_run_entered hrun hready ((if_neg heff).trans (if_pos ((Bool.not_eq_true' _).mpr hlegal)))
    · split
      case isTrue hbusy => exact waits_of_run hrun hready ((if_neg heff).trans ((if_neg (not_not_of_true hlegal)).trans (if_pos hbusy)))
      case isFalse hfree => exact finishes_of_run hrun hready ((if_neg heff).trans ((if_neg (not_not_of_true hlegal)).trans (if_neg hfree)))
  case codebook =>
    intro i v word x hready
    refine finishes_of_run (c := c) rfl hready ?_
    dsimp only
    rw [ofNat_leNat_words]

end Sys2Proof.Proofs
end

section
/-! PROOFS. Control flow: branches and calls (O40), exits and sleeps (O41), software traps and returns (O42). -/
namespace Sys2Proof.Proofs
set_option Elab.async false

open Sys2Proof Sys2Proof.Machine Sys2Proof.Claims

/-! Branches (R131, R286-R288). -/

/-- A target of the statements' form: a code address is below 2^48. -/
theorem goOn_eq_continuesAt (s : State) (r : SplitRef) (target : Int) (lanes : LaneMask) :
    goOn s r ⟨target, lanes⟩ = continuesAt s r lanes target := by
  have htrap : targetTrap ⟨target, lanes⟩ = if 0 ≤ target ∧ target < 281474976710656 then []
      else [{ trap := { code := 0x05, lanes := lanes, addr := (target % 18446744073709551616).toNat }, site := none }] := by
    rw [targetTrap]
    exact ite_of_iff (by rw [Bool.and_eq_true, decide_eq_true_iff, decide_eq_true_iff]; rfl) rfl rfl
  rw [goOn, continuesAt, htrap]

/-- The trap of a transfer leaves the state as it was before the link (R99, R288). -/
theorem linked_self (s : State) (go : State → Res) (h : ∀ t u, go s = .trap t u → u = s) : linked s s go = go s := by
  rw [linked]
  split
  case h_1 t u hgo => rw [hgo, h t u hgo]
  case h_2 => rfl

section
variable {v : View} {s : State} {target : Int} {rpc : BitVec 48}

theorem branch_none (heff : v.eff = 0) : branch v s target rpc = .moved (endClause s v.r v.next) := if_pos heff

theorem branch_all (heff : v.eff ≠ 0) (hothers : v.sp.mask &&& ~~~v.eff = 0) :
    branch v s target rpc = .moved (continuesAt s v.r v.eff target) := by
  rw [branch, if_neg heff, if_pos hothers, goOn_eq_continuesAt]

theorem branch_divides {k : Nat} (heff : v.eff ≠ 0) (hothers : v.sp.mask &&& ~~~v.eff ≠ 0) (hhm : v.sp.hm = false)
    (hfree : freeSplit v.st = some k) : branch v s target rpc =
      .moved (continuesAt (openSplit s v.r k ⟨target, v.eff⟩) v.r (v.sp.mask &&& ~~~v.eff) v.next.toNat) := by
  rw [branch, if_neg heff, if_neg hothers]
  simp only [hhm, Bool.false_eq_true, if_false, hfree, goOn_eq_continuesAt]

theorem branch_defers (heff : v.eff ≠ 0) (hothers : v.sp.mask &&& ~~~v.eff ≠ 0) (hno : v.sp.hm = true ∨ freeSplit v.st = none) :
    branch v s target rpc = if deferRoom v.st = 0 then .trap { code := 0x12, lanes := v.eff } s
      else .moved (continuesAt (pushDefer s v.r v.next rpc (v.sp.mask &&& ~~~v.eff)) v.r v.eff target) := by
  have hnone : (if v.sp.hm then none else freeSplit v.st) = none := by
    rcases hno with h | h
    · rw [h, if_pos rfl]
    · rw [h, ite_self]
  rw [branch, if_neg heff, if_neg hothers]
  simp only [hnone, goOn_eq_continuesAt]
  rfl

end

theorem trap_branch {v : View} {s u : State} {target : Int} {rpc : BitVec 48} {t : TrapRec} (h : branch v s target rpc = .trap t u) :
    u = s := by
  by_cases heff : v.eff = 0
  · rw [branch_none heff] at h
    cases h
  by_cases hothers : v.sp.mask &&& ~~~v.eff = 0
  · rw [branch_all heff hothers] at h
    cases h
  by_cases hno : v.sp.hm = true ∨ freeSplit v.st = none
  · rw [branch_defers heff hothers hno] at h
    split at h <;> cases h
    rfl
  · obtain ⟨hhm, hfree⟩ := not_or.mp hno
    obtain ⟨k, hk⟩ := Option.ne_none_iff_exists'.mp hfree
    rw [branch_divides heff hothers (by simpa using hhm) hk] at h
    cases h

theorem linked_branch (v : View) (s : State) (target : Int) (rpc : BitVec 48) :
    linked s s (fun t => branch v t target rpc) = branch v s target rpc := linked_self _ _ fun _ _ h => trap_branch h

theorem branches_of_run {i : Instr} {c : Ctl} {s : State} {link : View → State → State} {goal : View → Int} {rpc : View → BitVec 48}
    (hrun : exec i s = run i c s fun v t => linked t (link v t) fun t => branch v t (goal v) (rpc v)) (hready : Ready i c s) :
    Branches i s (seen i c s) (entered i s) (link (seen i c s) (entered i s)) (goal (seen i c s)) (rpc (seen i c s)) := by
  refine ⟨fun heff => ?_, fun heff hothers => ?_, fun k heff hothers hhm hfree => ?_, fun heff hothers hno hroom => ?_,
    fun heff hothers hno hfull => ?_⟩
  · exact leaves_of_run hrun hready (by rw [linked, branch_none heff])
  · exact leaves_of_run hrun hready (by rw [linked, branch_all heff hothers])
  · exact leaves_of_run hrun hready (by rw [linked, branch_divides heff hothers hhm hfree])
  · have hsome : deferRoom (seen i c s).st ≠ 0 := by rw [deferRoom]; omega
    exact leaves_of_run hrun hready (by rw [linked, branch_defers heff hothers hno, if_neg hsome])
  · have hnone : deferRoom (seen i c s).st = 0 := by rw [deferRoom]; omega
    exact traps_of_run_entered hrun hready (by rw [linked, branch_defers heff hothers hno, if_pos hnone])

/-! Transfers to each lane's own target (R135, R289-R291). -/

theorem transfer_cons {v : View} {s : State} {rpc : BitVec 48} (g : Group) (later : List Group) : transfer v s rpc (g :: later) =
    if 64 - v.st.deferHeight < deferNeed s v.r later.length then .trap { code := 0x12, lanes := v.eff } s
    else .moved (continuesAt (placeGroups s v.r rpc later) v.r g.lanes g.target) := by
  rw [transfer, ← goOn_eq_continuesAt]
  rfl

/-- The groups of a transfer: the lanes whose guard is false first, where some are or no lane elects (R135). -/
theorem groups_eq (f : LaneMask) (g : Group) (els : List Group) :
    (if f = 0 && !els.isEmpty then [] else [g]) ++ els = if f = 0 ∧ els ≠ [] then els else g :: els := by
  by_cases h : f = 0 ∧ els ≠ []
  · rw [if_pos h, if_pos (by simpa using h)]
    rfl
  · rw [if_neg h, if_neg (by simpa using h)]
    rfl

theorem elects_of_run {i : Instr} {c : Ctl} {s : State} {a : Operand} {rpc : View → BitVec 48} {isRet : Bool} {link : View → State → State}
    (hrun : exec i s = run i c s fun v t => electTransfer v t a (rpc v) isRet (link v)) (hready : Ready i c s) :
    Elects i s (seen i c s) a (entered i s) (link (seen i c s) (entered i s)) (rpc (seen i c s)) isRet := by
  unfold Elects
  intro bad els others t
  have hgood : bad = 0 → ∀ g later, (if others = 0 ∧ els ≠ [] then els else (⟨(seen i c s).next.toNat, others⟩ : Group) :: els) = g :: later →
      electTransfer (seen i c s) (entered i s) a (rpc (seen i c s)) isRet (link (seen i c s)) =
        linked (entered i s) t fun t => transfer (seen i c s) t (rpc (seen i c s)) (g :: later) := by
    intro hbad g later hgroups
    rw [← hgroups, ← groups_eq]
    exact if_neg (by rw [bne_iff_ne]; exact not_not_intro hbad)
  refine ⟨fun hbad => ?_, fun hbad g later hgroups => ⟨fun hfit => ?_, fun hfull => ?_⟩⟩
  · exact traps_of_run_entered hrun hready (if_pos (bne_iff_ne.mpr hbad))
  · refine leaves_of_run hrun hready ((hgood hbad g later hgroups).trans ?_)
    rw [linked, transfer_cons, if_neg (Nat.not_lt.mpr hfit)]
  · refine traps_of_run_entered hrun hready ((hgood hbad g later hgroups).trans ?_)
    rw [linked, transfer_cons, if_pos hfull]

/-- Settles O40. -/
theorem branchesAndCalls : Obligations.BranchesAndCalls := by
  refine ⟨fun c imm s hready => ?bra, fun c dist imm s hready => ?br, fun c d imm s hready => ?call, fun c a s hready => ?brx,
    fun c d a s hready => ?callx, fun c a s hready => ?ret⟩
  case bra =>
    refine branches_of_run (link := fun _ t => t) (goal := fun v => relTarget v imm) (rpc := fun _ => 0) ?_ hready
    simp only [linked_branch]
    rfl
  case br =>
    have hrpc : ∀ v : View, (if dist = 0 then 0 else v.next + BitVec.ofNat 48 (8 * dist.toNat)) =
        if dist = 0 then 0 else v.next + 8 * dist.setWidth 48 := fun v => by
      refine ite_of_iff Iff.rfl rfl (congrArg _ (BitVec.eq_of_toNat_eq ?_))
      rw [BitVec.toNat_ofNat, BitVec.toNat_mul, BitVec.toNat_setWidth]
      have := dist.isLt
      show _ = 8 * _ % _
      omega
    refine branches_of_run (link := fun _ t => t) (goal := fun v => relTarget v imm)
      (rpc := fun v => if dist = 0 then 0 else v.next + 8 * dist.setWidth 48) ?_ hready
    simp only [linked_branch, ← hrpc]
    rfl
  case call =>
    exact branches_of_run (link := fun v t => linkWritten t v d) (goal := fun v => relTarget v imm) (rpc := fun _ => 0) rfl hready
  case brx => exact elects_of_run (link := fun _ t => t) (rpc := fun _ => 0) rfl hready
  case callx => exact elects_of_run (link := fun v t => linkWritten t v d) (rpc := fun v => v.next) rfl hready
  case ret => exact elects_of_run (link := fun _ t => t) (rpc := fun _ => 0) rfl hready

/-- Settles O41. -/
theorem exitsAndSleeps : Obligations.ExitsAndSleeps := by
  refine ⟨fun c s => ?reconv, fun c s => ?exit, fun c s => ?yield, fun c a s => ?sleep, fun c a s => ?sleepu,
    fun s w n hw hk hcome => ?wake⟩
  case reconv =>
    refine fun hready => finishes_of_run (c := c) rfl hready (congrArg Res.done ?_)
    by_cases heff : (seen (.reconv c) c s).eff = 0
    · rw [if_pos (by rw [heff]; rfl), if_neg (fun h => h.1 heff)]
    · by_cases hhm : (seen (.reconv c) c s).sp.hm = true
      · rw [if_pos (by rw [hhm, Bool.or_true]), if_neg (by rw [hhm]; exact fun h => Bool.noConfusion h.2)]
      · rw [if_neg (by rw [Bool.or_eq_true, decide_eq_true_iff]; exact not_or.mpr ⟨heff, hhm⟩), if_pos ⟨heff, by simpa using hhm⟩]
  case exit =>
    intro i v x hready
    refine leaves_of_run (c := c) rfl hready ?_
    rw [apply_ite Res.moved, apply_ite Res.moved]
  case yield => exact fun hready => leaves_of_run (c := c) rfl hready rfl
  case sleep =>
    refine fun hready => finishes_of_run (c := c) rfl hready (congrArg Res.done ?_)
    refine ite_of_iff ?_ rfl rfl
    rw [Bool.or_eq_true, decide_eq_true_iff, decide_eq_true_iff]
    exact or_congr Iff.rfl ⟨fun h => BitVec.eq_of_toNat_eq h, fun h => congrArg BitVec.toNat h⟩
  case sleepu =>
    refine fun hready => finishes_of_run (c := c) rfl hready (congrArg Res.done ?_)
    refine ite_of_iff ?_ rfl rfl
    rw [Bool.or_eq_true, decide_eq_true_iff, decide_eq_true_iff]
    rfl
  case wake =>
    simp only [exec, execSleepWake, hw, hk]
    exact if_neg (Nat.not_lt.mpr hcome)

/-! The return from a handler (R299). -/

/-- Without entries of the split pushed in handler mode none is dropped (R132). -/
theorem dropHandlerDefers_none {s : State} {r : SplitRef} (h : ∀ e ∈ deferStack s r.core r.slot, ¬ (e.spl = r.split ∧ e.hm = true)) :
    dropHandlerDefers s r = s := by
  have hmine : (deferStack s r.core r.slot).filter (fun e => e.spl == r.split && e.hm) = [] :=
    List.filter_eq_nil_iff.mpr fun e he => by simpa using h e he
  rw [dropHandlerDefers]
  exact if_pos (by rw [hmine]; rfl)

theorem deferStack_setFlags (s : State) (r : SplitRef) (fl : Flags) :
    deferStack (s.setStrand r { s.strand r with flags := fl }) r.core r.slot = deferStack s r.core r.slot :=
  deferStack_congr rfl ((congrArg Strand.deferHeight (State.strand_setStrand s r _)).trans rfl)

theorem tab_get_map_range' {α : Type} (d : α) (f : Nat → α) (a n k : Nat) :
    Tab.get ((List.range' a n).map fun i => (i, f i)) d k = if a ≤ k ∧ k < a + n then f k else d := by
  induction n generalizing a with
  | zero => rw [if_neg (by omega)]; rfl
  | succ n ih =>
    rw [List.range'_succ, List.map_cons, Tab.get, ih]
    by_cases hk : k = a
    · rw [if_pos hk, if_pos (by omega), hk]
    · rw [if_neg hk]
      exact ite_of_iff (by omega) rfl rfl

theorem tab_get_map_range {α : Type} (d : α) (f : Nat → α) (n k : Nat) :
    Tab.get ((List.range n).map fun i => (i, f i)) d k = if k < n then f k else d := by
  rw [List.range_eq_range', tab_get_map_range']
  exact ite_of_iff (by omega) rfl rfl

theorem getD_frameTemps (f : List Byte) {k l : Nat} (hk : k < 8) (hl : l < 96) :
    ((frameTemps f).get [] k).getD l 0 = BitVec.ofNat 32 (leNat ((f.drop (256 + 384 * k + 4 * l)).take 4)) := by
  rw [frameTemps, tab_get_map_range, if_pos hk]
  simp [hl]

/-- The split that leaves handler mode by a frame: its place is the frame's, RES after it, its header not waited on again. -/
def Returned (sp : Split) (f : List Byte) : Split :=
  { sp with
    mask := BitVec.ofNat 96 (frameField f 192 96) &&& sp.own, hm := false, state := .ready, clause := none, temps := frameTemps f
    tickHi := none, prog := {}, stall := 0, pc := BitVec.ofNat 48 (frameField f 384 64)
    traps := sp.traps ++ targetTrap ⟨frameField f 384 64, BitVec.ofNat 96 (frameField f 192 96) &&& sp.own⟩
    entry := { pos := frameField f 495 5 + frameField f 502 2, waits := false, keep := true, alone := none } }

theorem handlerReturn_eq {s : State} {r : SplitRef} {f : List Byte}
    (hdefer : ∀ e ∈ deferStack s r.core r.slot, ¬ (e.spl = r.split ∧ e.hm = true)) (hhm : (s.split r).hm = true)
    (hlate : frameField f 489 1 = 0) (hres : frameField f 502 2 ≤ 1) : handlerReturn s r f =
      freeSched ((s.setStrand r { s.strand r with flags := frameFlags f }).setSplit r (Returned (s.split r) f)) r := by
  have hdefer' : ∀ e ∈ deferStack (s.setStrand r { s.strand r with flags := frameFlags f }) r.core r.slot,
      ¬ (e.spl = r.split ∧ e.hm = true) := by rwa [deferStack_setFlags]
  have hsplit : ({ s.strand r with flags := frameFlags f } : Strand).split r.split = s.split r := rfl
  simp only [handlerReturn, dropHandlerDefers_none hdefer', State.strand_setStrand, hsplit, hhm, hlate]
  have hcases : frameField f 502 2 = 0 ∨ frameField f 502 2 = 1 := by omega
  rcases hcases with h | h
  · simp only [h, Returned]
    rfl
  · simp only [h, Returned]
    rfl

/-! Breakpoints (R298, R524). -/

theorem bkpt_arms {v : View} {t : State} (hstops : t.dev.bkStop = true ∧ t.dev.bkCtx = v.st.ctx) (harmed : t.dev.armed = false)
    (hrunning : t.dev.stopped = none) : (t.dev.bkStop && decide (t.dev.bkCtx = v.st.ctx) && !t.dev.armed && t.dev.stopped.isNone) = true := by
  simp [hstops.1, hstops.2, harmed, hrunning]

theorem bkpt_waits {d : Device} (h : d.armed = true ∨ d.stopped ≠ none) : (d.armed || d.stopped.isSome) = true := by
  rw [Bool.or_eq_true, Option.isSome_iff_ne_none]
  exact h

theorem bkpt_resumed {d : Device} (harmed : d.armed = false) (hrunning : d.stopped = none) : ¬ (d.armed || d.stopped.isSome) = true := by
  rw [harmed, hrunning]
  decide

/-- Settles O42. -/
theorem trapInstructions : Obligations.TrapInstructions := by
  refine ⟨fun c imm s hready => ⟨fun heff => ?none, fun heff => ?trap⟩, fun c s => ?bkpt, fun c s hready => ⟨fun hhm => ?outside, fun hhm => ?inside⟩,
    fun s r f => ?returns⟩
  case none => exact finishes_of_run (c := c) rfl hready (if_pos heff)
  case trap => exact traps_of_run_entered (c := c) rfl hready (if_neg heff)
  case bkpt =>
    intro i v t stops hready
    have hrun : exec i s = run i c s _ := rfl
    refine ⟨fun heff => finishes_of_run hrun hready (if_pos heff), fun heff hstage hno => ?_, fun heff hstage hstops harmed hrunning => ?_,
      fun heff hstage hheld => ?_, fun heff hstage harmed hrunning => ?_⟩
    · refine traps_of_run_entered hrun hready ((if_neg heff).trans ((if_neg hstage).trans (if_neg fun h => hno ?_)))
      simp only [Bool.and_eq_true, decide_eq_true_eq] at h
      exact h.1.1
    · exact waits_of_run hrun hready ((if_neg heff).trans ((if_neg hstage).trans (if_pos (bkpt_arms hstops harmed hrunning))))
    · exact waits_of_run hrun hready ((if_neg heff).trans ((if_pos hstage).trans (if_pos (bkpt_waits hheld))))
    · exact traps_of_run_entered hrun hready ((if_neg heff).trans ((if_pos hstage).trans (if_neg (bkpt_resumed harmed hrunning))))
  case outside => exact traps_of_run_entered (c := c) rfl hready (if_pos ((Bool.not_eq_true' _).mpr hhm))
  case inside => exact leaves_of_run (c := c) rfl hready (if_neg (not_not_of_true hhm))
  case returns =>
    intro t sp hdefer hhm hlate hres
    have ht : t = _ := handlerReturn_eq hdefer hhm hlate hres
    have hsplit : t.split r = Returned (s.split r) f := by rw [ht, freeSched_split, State.split_setSplit]
    have hstrand : t.strand r = ({ s.strand r with flags := frameFlags f } : Strand).setSplit r.split (Returned (s.split r) f) := by
      rw [ht, freeSched_strand, State.strand_setSplit, State.strand_setStrand]
    rw [hsplit, hstrand]
    refine ⟨rfl, rfl, rfl, rfl, rfl, rfl, rfl, rfl, rfl, rfl, rfl, ?_, fun k l hk hl => getD_frameTemps f hk hl⟩
    rw [ht, freeSched_mem]
    rfl

end Sys2Proof.Proofs
end

section
/-! PROOFS. Sampler instructions (O37), fragments (O38) and records (O39). -/
namespace Sys2Proof.Proofs
set_option Elab.async false

open Sys2Proof Sys2Proof.Machine Sys2Proof.Claims

/-! Sampling. -/

/-- An awaited result whose number the machine gives out again: no run makes one, but the statement speaks of every state. -/
def numberedAgain : Pending where
  id := 0
  split := 1
  slot := 0
  pc := 0
  pos := 0
  gate := none
  temps := true
  dst := []
  lanes := 0
  vals := []
  flags := 0
  owed := 1
  acq := none
  lose := none
  won := true
  fence := 0
  beat := 0
  bad := []
  fail := none
  why := 0
  since := 0

/-- A strand without effective lanes that awaits that result. -/
def samplerState : State := ({} : State).setStrandAt 0 0 { nregs := 256, results := [numberedAgain] }

def queryCtl : Ctl := ⟨0, false, 7, false, 0⟩

/-- RES.Q there. -/
def queryInstr : Instr := .resQ queryCtl (.v 8) (.v 4)

theorem ready_query : Ready queryInstr queryCtl samplerState := by
  refine ⟨?_, ?_, ?_, ?_⟩ <;> decide

/-- The state that RES.Q leaves there: the result it awaits, and the reason of the earlier one of the same number, are of the
sampler. -/
theorem exec_query : ∃ t, exec queryInstr samplerState = .next t ∧ (t.strand samplerState.pick.ref).results.map Pending.why = [23, 23] :=
  ⟨_, rfl, by decide⟩

theorem advance_without_clause {s : State} {r : SplitRef} (h : (s.split r).clause = none) : advance s r = s := by
  unfold advance
  simp only [h]

/-- Refutes O37: the instruction marks every result of the strand that has its number, so an earlier one of that number does not
stay as it was; the statement does not exclude such a state. -/
theorem not_samplerInstructions : ¬ Obligations.SamplerInstructions := by
  intro ⟨hsampler, _⟩
  obtain ⟨-, hanswers⟩ := hsampler queryInstr _ samplerState samplerState [] rfl ready_query
  obtain ⟨u, p, hfinish, hsplit, hresults, -⟩ := hanswers (.inl (by decide)) rfl (fun e he => nomatch he)
  have hclause : (u.split samplerState.pick.ref).clause = none := by
    have hplace := congrArg Split.clause hsplit
    exact hplace.trans (by decide)
  obtain ⟨t, ht, hwhy⟩ := exec_query
  rw [Finishes, advance_without_clause hclause, ht] at hfinish
  cases hfinish
  have hkept := congrArg (List.map Pending.why) hresults
  have hearlier : (samplerState.strand samplerState.pick.ref).results.map Pending.why = [0] := by decide
  rw [List.map_append] at hkept
  have hfalse := hkept.symm.trans hwhy
  rw [show (samplerState.strand (seen queryInstr queryCtl samplerState).r).results.map Pending.why = [0] from hearlier] at hfalse
  exact absurd (List.cons.inj hfalse).1 (by decide)

/-! Fragments and vertices. -/

theorem stolenNow_iff (s : State) (c : Nat) : stolenNow s c = true ↔ servedAlready s c := by
  rw [stolenNow, servedAlready]
  cases h : (s.core c).stolen with
  | none => simp
  | some e =>
    obtain ⟨t, thief⟩ := e
    simp

/-- VSPLIT divides the lanes' records as the statement does, where no push is held. -/
theorem splitLanes_of_splitAll {v : View} {a : Operand} {s u : State} {ls : List Nat} (h : splitAll v a s ls = some u) :
    splitLanes v a s ls = .done u := by
  induction ls generalizing s with
  | nil => cases h; rfl
  | cons l ls ih =>
    cases hsplit : ((s.strand v.r).staged.recs.find l).bind fun x => splitRecord x (v.rd a l).toNat with
    | none =>
      simp only [splitAll, hsplit] at h
      simp only [splitLanes, hsplit]
      exact ih h
    | some e =>
      simp only [splitAll, hsplit] at h
      simp only [splitLanes, hsplit]
      split at h
      case isTrue hnothing =>
        rw [if_pos (by simpa using hnothing)]
        exact ih h
      case isFalse hsome =>
        rw [if_neg (by simpa using hsome)]
        cases hcore : pushCore s v.r.core v.st.ctx with
        | none => simp only [hcore] at h; cases h
        | some core =>
          simp only [hcore] at h
          exact ih h

/-- What the lanes stage one after another in one field. -/
theorem foldl_vec (f : Nat → List Word) (ls : List Nat) (x : Staged) : ls.foldl (fun x l => { x with vec := x.vec.set l (f l) }) x =
    { x with vec := ls.foldl (fun t l => t.set l (f l)) x.vec } := by
  induction ls generalizing x with
  | nil => rfl
  | cons l ls ih => exact ih _

theorem foldl_depth (f : Nat → Word) (ls : List Nat) (x : Staged) : ls.foldl (fun x l => { x with depth := x.depth.set l (f l) }) x =
    { x with depth := ls.foldl (fun t l => t.set l (f l)) x.depth } := by
  induction ls generalizing x with
  | nil => rfl
  | cons l ls ih => exact ih _

theorem foldl_attrs (n : Nat) (f : Nat → Word) (ls : List Nat) (x : Staged) :
    ls.foldl (fun x l => { x with attrs := x.attrs.set l ((x.attrs.get [] l).set n (f l)) }) x =
      { x with attrs := ls.foldl (fun t l => t.set l ((t.get [] l).set n (f l))) x.attrs } := by
  induction ls generalizing x with
  | nil => rfl
  | cons l ls ih => exact ih _

/-- Settles O38. -/
theorem fragmentInstructions : Obligations.FragmentInstructions := by
  refine ⟨fun c d attr b s => ?vbary, fun c a s => ?vsplit, fun c a s => ?vkill, fun c a s => ?outc, fun c a s => ?outz,
    fun c which a s => ?outv⟩
  case vbary =>
    refine fun hready => finishes_of_run (c := c) rfl hready (congrArg Res.done ((pend_eq_awaiting ..).trans ?_))
    rfl
  case vsplit =>
    intro i v t todo deep hready
    have hrun : exec i s = run i c s _ := rfl
    refine ⟨fun hno => finishes_of_run hrun hready (if_pos ((Bool.not_eq_true' _).mpr hno)), fun hfrag hdeep => ?_,
      fun hfrag hdeep htodo hserved => ?_, fun u hfrag hdeep hfree hall => ?_⟩
    · exact traps_of_run_entered hrun hready ((if_neg (not_not_of_true hfrag)).trans (if_pos (bne_iff_ne.mpr hdeep)))
    · refine waits_of_run hrun hready ((if_neg (not_not_of_true hfrag)).trans ((if_neg ?_).trans (if_pos ?_)))
      · exact fun h => bne_iff_ne.mp h hdeep
      · exact Bool.and_eq_true_iff.mpr ⟨bne_iff_ne.mpr htodo, (stolenNow_iff _ _).mpr hserved⟩
    · refine finishes_of_run hrun hready ((if_neg (not_not_of_true hfrag)).trans ((if_neg ?_).trans ((if_neg ?_).trans
        (splitLanes_of_splitAll hall))))
      · exact fun h => bne_iff_ne.mp h hdeep
      · exact fun h => have ⟨h1, h2⟩ := Bool.and_eq_true_iff.mp h; hfree (bne_iff_ne.mp h1) ((stolenNow_iff _ _).mp h2)
  case vkill =>
    intro i v cut hready
    refine finishes_of_run (c := c) rfl hready ?_
    by_cases hfrag : v.st.isFragment = true
    · exact (if_neg (not_not_of_true hfrag)).trans (congrArg Res.done (if_pos hfrag).symm)
    · exact (if_pos ((Bool.not_eq_true' _).mpr (Bool.eq_false_iff.mpr hfrag))).trans (congrArg Res.done (if_neg hfrag).symm)
  case outc =>
    refine fun hready => finishes_of_run (c := c) rfl hready (congrArg Res.done (ite_of_iff Iff.rfl ?_ rfl))
    rw [stagedLanes, foldl_vec]
    rfl
  case outz =>
    refine fun hready => finishes_of_run (c := c) rfl hready (congrArg Res.done (ite_of_iff Iff.rfl ?_ rfl))
    rw [stagedLanes, foldl_depth]
    rfl
  case outv =>
    intro i v put hready
    refine finishes_of_run (c := c) rfl hready (congrArg Res.done (ite_of_iff Iff.rfl ?_ rfl))
    cases which with
    | none =>
      refine Eq.trans ?_ (congrArg (fun x => (entered i s).setStrand v.r { (entered i s).strand v.r with staged := x })
        (foldl_vec (fun l => v.rd4 a l) (lanesOf v.eff) _).symm)
      rfl
    | some n =>
      refine Eq.trans ?_ (congrArg (fun x => (entered i s).setStrand v.r { (entered i s).strand v.r with staged := x })
        (foldl_attrs n.toNat (fun l => v.rdFBits a l) (lanesOf v.eff) _).symm)
      rfl

/-! Records. -/

/-- The sum of words at their places is below the place after the last, and gives back each of them. -/
theorem sum_words (w : Nat → Word) (n : Nat) :
    (List.range n).foldl (fun acc i => acc + (w i).toNat * 2 ^ (32 * i)) 0 < 2 ^ (32 * n) ∧
    ∀ k < n, (List.range n).foldl (fun acc i => acc + (w i).toNat * 2 ^ (32 * i)) 0 / 2 ^ (32 * k) % 2 ^ 32 = (w k).toNat := by
  induction n with
  | zero => exact ⟨Nat.one_pos, fun k hk => absurd hk (Nat.not_lt_zero k)⟩
  | succ n ih =>
    obtain ⟨hlt, hwords⟩ := ih
    rw [List.range_succ, List.foldl_append]
    generalize (List.range n).foldl (fun acc i => acc + (w i).toNat * 2 ^ (32 * i)) 0 = x at hlt hwords
    show x + (w n).toNat * 2 ^ (32 * n) < _ ∧ ∀ k < n + 1, (x + (w n).toNat * 2 ^ (32 * n)) / 2 ^ (32 * k) % 2 ^ 32 = _
    have hw := (w n).isLt
    refine ⟨?_, fun k hk => ?_⟩
    · rw [Nat.mul_succ, Nat.pow_add]
      exact Nat.lt_of_lt_of_le (Nat.add_lt_add_right hlt _) (by
        rw [Nat.add_comm, ← Nat.succ_mul, Nat.mul_comm]
        exact Nat.mul_le_mul_left _ hw)
    · rcases Nat.lt_succ_iff_lt_or_eq.mp hk with hk | rfl
      · rw [← hwords k hk]
        obtain ⟨j, rfl⟩ := Nat.exists_eq_add_of_lt hk
        have hsplit : (w (k + j + 1)).toNat * 2 ^ (32 * (k + j + 1)) = 2 ^ (32 * k) * (2 ^ 32 * ((w (k + j + 1)).toNat * 2 ^ (32 * j))) := by
          rw [show 32 * (k + j + 1) = 32 * k + (32 + 32 * j) by omega, Nat.pow_add, Nat.pow_add, Nat.mul_left_comm, Nat.mul_left_comm (w _).toNat]
        rw [hsplit, Nat.add_mul_div_left _ _ (Nat.two_pow_pos _), Nat.add_mul_mod_self_left]
      · rw [Nat.add_mul_div_right _ _ (Nat.two_pow_pos _), Nat.div_eq_of_lt hlt, Nat.zero_add, Nat.mod_eq_of_lt hw]

theorem laneRecord_word (v : View) (a : Operand) (l : Nat) {k : Nat} (hk : k < 16) :
    (laneRecord v a l).extractLsb' (32 * k) 32 = v.rd (a.after k) l := by
  obtain ⟨hlt, hwords⟩ := sum_words (fun i => v.rd (a.after i) l) 16
  have hmod := Nat.mod_eq_of_lt hlt
  rw [show 32 * 16 = 512 from rfl] at hmod
  refine BitVec.eq_of_toNat_eq ?_
  rw [BitVec.extractLsb'_toNat, laneRecord, BitVec.toNat_ofNat, hmod, Nat.shiftRight_eq_div_pow, hwords k hk]

theorem iv_eq_extractLsb' (x : BitVec 512) (lo w : Nat) : iv x lo w = (x.extractLsb' lo w).toNat := by
  rw [iv, BitVec.extractLsb'_toNat, Nat.shiftRight_eq_div_pow]

theorem isInterval_laneRecord (v : View) (a : Operand) (l : Nat) :
    isInterval (laneRecord v a l) = ((v.rd (a.after 15) l).extractLsb' 24 8 == 0xF1) := by
  have hnested : ((laneRecord v a l).extractLsb' (32 * 15) 32).extractLsb' 24 8 = (laneRecord v a l).extractLsb' 504 8 := by
    ext i hi
    simp only [BitVec.getElem_extractLsb', BitVec.getLsbD_extractLsb']
    rw [decide_eq_true (by omega), Bool.true_and]
    congr 1
    omega
  rw [← laneRecord_word v a l (by decide), hnested, isInterval, iv_eq_extractLsb', Bool.eq_iff_iff, beq_iff_eq, beq_iff_eq,
    ← BitVec.toNat_inj]
  rfl

/-- REC.PUSH pushes the lanes' records as the statement does, where no push is held. -/
theorem pushLanes_of_pushAll {v : View} {a : Operand} {s u : State} {ls : List Nat} (h : Claims.pushAll v (laneRecord v a) s ls = some u) :
    pushLanes v a s ls = .done u := by
  induction ls generalizing s with
  | nil => cases h; rfl
  | cons l ls ih =>
    cases hcore : pushCore s v.r.core v.st.ctx with
    | none => simp only [Claims.pushAll, hcore] at h; cases h
    | some core =>
      simp only [Claims.pushAll, hcore] at h
      simp only [pushLanes, hcore]
      exact ih h

/-- The word n of the record that a lane took (R328). -/
def takenWord (got : List (Nat × BitVec 512)) (n l : Nat) : Word :=
  ((got.find? fun g => g.1 == l).map fun g => g.2.extractLsb' (32 * n) 32).getD 0

/-- What REC.POP does with the records that its lanes took. -/
def popEnds (v : View) (c : Ctl) (d e : Operand) (k ctx : Nat) (x : State × List (Nat × BitVec 512)) : Res :=
  let won := maskWhere (fun l => x.2.any (fun g => g.1 == l))
  if x.2.isEmpty then
    if v.eff = 0 || workCount x.1 k ctx = 0 then .done (pend x.1 v c [e] v.eff [vecOf 0 fun _ => 0] noFlag)
    else .stay 24 (x.1.setProg v.r { x.1.prog v.r with stage := 1 })
  else
    let s := x.1.setStrand v.r { x.1.strand v.r with held := (x.1.strand v.r).held + x.2.length }
    let s := pend s v c ((List.range 16).map d.after) won ((List.range 16).map (fun i => vecOf won fun l => takenWord x.2 i l)) noFlag
    .done (pend s v c [e] v.eff [vecOf v.eff fun l => if won.getLsbD l then 1 else 0] noFlag)

theorem exec_recPop (c : Ctl) (d e : Operand) (s : State) : exec (.recPop c d e) s = run (.recPop c d e) c s fun v s =>
    if v.eff != 0 && stolenNow s v.r.core then .stay 24 (s.setProg v.r { s.prog v.r with stage := 1 })
    else popEnds v c d e (coreCluster v.r.core) (s.strand v.r).ctx (popLanes
      (if (s.strand v.r).token && v.eff != 0 then
        lowerWork (s.setStrand v.r { s.strand v.r with token := false }) (coreCluster v.r.core) (s.strand v.r).ctx 1 else s)
      v.r.core (s.strand v.r).ctx (s.strand v.r).number (lanesOf v.eff)) := by
  have hword : takenWord = fun got i l => match got.find? (fun g => g.1 == l) with
      | some (_, x) => BitVec.ofNat 32 (iv x (32 * i) 32)
      | none => 0 := by
    funext got i l
    rw [takenWord]
    cases got.find? (fun g => g.1 == l) with
    | none => rfl
    | some g =>
      show _ = BitVec.ofNat 32 (iv g.2 (32 * i) 32)
      rw [iv_eq_extractLsb', BitVec.ofNat_toNat, BitVec.setWidth_eq]
      rfl
  simp only [popEnds, hword]
  rfl

/-- Settles O39. -/
theorem recordInstructions : Obligations.RecordInstructions := by
  refine ⟨fun c a s => ?push, fun c d e s s' got => ?pop, fun c s => ?done⟩
  case push =>
    intro i v bad hready
    have hrun : exec i s = run i c s _ := rfl
    have hbads : (maskWhere fun l => v.eff.getLsbD l && isInterval (laneRecord v a l)) = bad := by
      simp only [isInterval_laneRecord]
      rfl
    refine ⟨fun hbad => traps_of_run_entered hrun hready ?_, fun hbad heff hserved => waits_of_run hrun hready ?_,
      fun u hbad hfree hall => finishes_of_run hrun hready ?_, fun l k hk => laneRecord_word v a l hk⟩
    all_goals dsimp only; rw [hbads]
    · exact if_pos (bne_iff_ne.mpr hbad)
    · exact (if_neg fun h => bne_iff_ne.mp h hbad).trans
        (if_pos (Bool.and_eq_true_iff.mpr ⟨bne_iff_ne.mpr heff, (stolenNow_iff _ _).mpr hserved⟩))
    · refine (if_neg fun h => bne_iff_ne.mp h hbad).trans ((if_neg fun h => ?_).trans (pushLanes_of_pushAll hall))
      obtain ⟨heff, hserved⟩ := Bool.and_eq_true_iff.mp h
      exact hfree (bne_iff_ne.mp heff) ((stolenNow_iff _ _).mp hserved)
  case pop =>
    intro i v t k st late t' won word hready
    have hrun := exec_recPop c d e s
    have hlate : (v.eff != 0 && stolenNow (entered i s) v.r.core) = true ↔ late := by
      rw [Bool.and_eq_true, bne_iff_ne, stolenNow_iff]
    refine ⟨fun h => waits_of_run hrun hready (if_pos (hlate.mpr h)), fun hno hpop => ?_⟩
    have hword : ∀ n, (fun l => takenWord got n l) = word n := fun n => funext fun l => by
      simp only [takenWord, word]
      cases got.find? (fun g => g.1 == l) <;> rfl
    have hrest : popEnds v c d e k st.ctx (popLanes t' v.r.core st.ctx st.number (lanesOf v.eff)) =
        popEnds v c d e k st.ctx (s', got) := by rw [hpop]
    refine ⟨fun hgot hover => finishes_of_run hrun hready ((if_neg (mt hlate.mp hno)).trans (hrest.trans ?_)),
      fun hgot heff hwork => waits_of_run hrun hready ((if_neg (mt hlate.mp hno)).trans (hrest.trans ?_)),
      fun hgot => finishes_of_run hrun hready ((if_neg (mt hlate.mp hno)).trans (hrest.trans ?_))⟩
    · refine (if_pos (by rw [hgot]; rfl)).trans ((if_pos ?_).trans (congrArg Res.done (pend_eq_awaiting ..)))
      rwa [Bool.or_eq_true, decide_eq_true_iff, decide_eq_true_iff]
    · refine (if_pos (by rw [hgot]; rfl)).trans (if_neg ?_)
      rw [Bool.or_eq_true, decide_eq_true_iff, decide_eq_true_iff]
      exact not_or.mpr ⟨heff, hwork⟩
    · refine (if_neg (by rwa [List.isEmpty_iff])).trans (congrArg Res.done ?_)
      simp only [hword, pend_eq_awaiting]
      rfl
  case done =>
    intro i v n st hready
    have hrun : exec i s = run i c s _ := rfl
    exact ⟨fun hless => traps_of_run_entered hrun hready (if_pos hless), fun henough =>
      finishes_of_run hrun hready (if_neg (Nat.not_lt.mpr henough))⟩

end Sys2Proof.Proofs
end

section
/-! PROOFS. Growth and launches (O44). -/
namespace Sys2Proof.Proofs
set_option Elab.async false

open Sys2Proof Sys2Proof.Machine Sys2Proof.Claims

theorem growsNow_iff (s : State) (r : SplitRef) (n : Nat) : growsNow s r n = true ↔
    n - (s.strand r).claimed ≤ freeRegisters s r.core ∧
      ∀ e ∈ sleepers s r.core, (s.strand r).age < e.2.age ∨ ((s.strand r).age = e.2.age ∧ r.slot ≤ e.1) := by
  rw [growsNow, Bool.and_eq_true, decide_eq_true_iff, List.all_eq_true]
  refine and_congr Iff.rfl (forall₂_congr fun e _ => ?_)
  rw [Bool.or_eq_true, Bool.and_eq_true, decide_eq_true_iff, decide_eq_true_iff, beq_iff_eq]

section
variable {c : Ctl} {s : State}

theorem vgrow_ends {a : Operand} (hready : Ready (.vgrow c a) c s) :
    let v := seen (.vgrow c a) c s
    let n := roundRegs (v.rd a 0).toNat
    (v.eff = 0 ∨ n ≤ v.st.nregs → Finishes (.vgrow c a) s (entered (.vgrow c a) s)) ∧
    (v.eff ≠ 0 → v.st.nregs < n → roundRegs v.st.rmax < n →
      Traps (.vgrow c a) s { code := 0x13, lanes := v.eff } (entered (.vgrow c a) s)) ∧
    (v.eff ≠ 0 → v.st.nregs < n → n ≤ roundRegs v.st.rmax →
      Finishes (.vgrow c a) s (waitingFor (entered (.vgrow c a) s) v (.vgrow n (growsNow (entered (.vgrow c a) s) v.r n)))) := by
  intro v n
  have hrun : exec (.vgrow c a) s = run (.vgrow c a) c s _ := rfl
  have hmore : v.eff ≠ 0 → v.st.nregs < n → ¬ (decide (v.eff = 0) || decide (n ≤ v.st.nregs)) = true := fun heff hn => by
    rw [Bool.or_eq_true, decide_eq_true_iff, decide_eq_true_iff]
    exact not_or.mpr ⟨heff, Nat.not_le.mpr hn⟩
  refine ⟨fun h => finishes_of_run hrun hready (if_pos ?_), fun heff hn hmax => ?_, fun heff hn hmax => ?_⟩
  · rwa [Bool.or_eq_true, decide_eq_true_iff, decide_eq_true_iff]
  · exact traps_of_run_entered hrun hready ((if_neg (hmore heff hn)).trans (if_pos hmax))
  · exact finishes_of_run hrun hready ((if_neg (hmore heff hn)).trans (if_neg (Nat.not_lt.mpr hmax)))

theorem vshrink_ends {a : Operand} (hready : Ready (.vshrink c a) c s) :
    let v := seen (.vshrink c a) c s
    let t := entered (.vshrink c a) s
    let n := max (roundRegs (v.rd a 0).toNat) v.st.gStart
    (v.eff = 0 → Finishes (.vshrink c a) s t) ∧ (v.eff ≠ 0 → v.st.results ≠ [] → Waits (.vshrink c a) s 3 t) ∧
    (v.eff ≠ 0 → v.st.results = [] → Finishes (.vshrink c a) s (if v.st.nregs ≤ n then t
      else gainRoom (settleGrowth (t.setStrand v.r (v.st.resize n)) v.r.core) [v.r.core])) := by
  intro v t n
  have hrun : exec (.vshrink c a) s = run (.vshrink c a) c s _ := rfl
  refine ⟨fun heff => finishes_of_run hrun hready (if_pos heff), fun heff hsome => ?_, fun heff hnone => ?_⟩
  · exact waits_of_run hrun hready ((if_neg heff).trans (if_pos (by simpa using hsome)))
  · have hres : ¬ (!v.st.results.isEmpty) = true := by rw [hnone]; decide
    refine finishes_of_run hrun hready ((if_neg heff).trans ((if_neg hres).trans ?_))
    by_cases hn : v.st.nregs ≤ n
    · rw [if_pos hn]
      exact if_pos (Nat.le_min.mpr ⟨Nat.le_refl _, hn⟩)
    · rw [if_neg hn]
      have hmin : min v.st.nregs n = n := Nat.min_eq_right (by omega)
      refine (if_neg (show ¬ v.st.nregs ≤ min v.st.nregs n by omega)).trans ?_
      exact congrArg (fun m => Res.done (gainRoom (settleGrowth (t.setStrand v.r (v.st.resize m)) v.r.core) [v.r.core])) hmin

/-- What LAUNCH does with the record it has read (R113, R310). -/
def launchHanded (v : View) (s : State) (bits : BitVec 512) (b : Operand) : Res :=
  let q := 64 * v.st.ctx + (v.rd b 0).toNat % 64
  if (v.rd b 0).toNat ≥ 64 || (s.queue q).state == .unbound || !qDev s q || (recordCheck s v.st.ctx bits).isSome then
    .trap { code := 0x1A, lanes := v.eff } s
  else
    let u := s.setQueue q { s.queue q with handed := (s.queue q).handed ++
      [{ bits := bits, target := { core := v.r.core, slot := v.r.slot, split := v.r.split, id := none } }] }
    .stay 13 (u.setProg v.r { u.prog v.r with stage := 1 })

theorem launchHanded_eq {v : View} {s : State} {b : Operand} (bits : BitVec 512) (hb : (v.rd b 0).toNat < 64)
    (hbound : (s.queue (64 * v.st.ctx + (v.rd b 0).toNat)).state ≠ .unbound) (hdev : qDev s (64 * v.st.ctx + (v.rd b 0).toNat) = true) :
    launchHanded v s bits b = if recordCheck s v.st.ctx bits ≠ none then .trap { code := 0x1A, lanes := v.eff } s
      else
        let q := 64 * v.st.ctx + (v.rd b 0).toNat
        let u := s.setQueue q { s.queue q with handed := (s.queue q).handed ++
          [{ bits := bits, target := { core := v.r.core, slot := v.r.slot, split := v.r.split, id := none } }] }
        .stay 13 (u.setProg v.r { u.prog v.r with stage := 1 }) := by
  rw [launchHanded, Nat.mod_eq_of_lt hb]
  refine ite_of_iff ?_ rfl rfl
  have hlow : ¬ 64 ≤ (v.rd b 0).toNat := Nat.not_le.mpr hb
  have hstate : ((s.queue (64 * v.st.ctx + (v.rd b 0).toNat)).state == .unbound) = false := beq_false_of_ne hbound
  rw [decide_eq_false hlow, hstate, hdev, Option.ne_none_iff_isSome]
  rfl

theorem launch_body {d a b : Operand} {s' : State} {p : Place} {ps : List Place} {bs : List Byte}
    (heff : (seen (.launch c d a b) c s).eff ≠ 0) (hstage : ((entered (.launch c d a b) s).prog s.pick.ref).stage = 0)
    (hreleased : Released (entered (.launch c d a b) s) (seen (.launch c d a b) c s))
    (hcheck : (seen (.launch c d a b) c s).checkSeg 3 { n := 64, writes := false, spaces := [0, 1, 2, 3, 8], align := 64 }
      [(0, (((seen (.launch c d a b) c s).rd64 a 0).toNat : Int))] = .ready (p :: ps))
    (hload : loadBytes (relSpent (entered (.launch c d a b) s) s.pick.ref) s.pick.ref.core p.key 64 p.via = (s', bs, none)) :
    ∃ body, exec (.launch c d a b) s = run (.launch c d a b) c s body ∧
      body (seen (.launch c d a b) c s) (entered (.launch c d a b) s) =
        launchHanded (seen (.launch c d a b) c s) s' (BitVec.ofNat 512 (leNat bs)) b := by
  refine ⟨_, rfl, (if_neg heff).trans ?_⟩
  have hcheck' : ((seen (.launch c d a b) c s).checkSeg 3 { n := 64, writes := false, spaces := spacesAll, align := 64 }
      (numbered [((seen (.launch c d a b) c s).rd64 a 0).toNat])) = .ready (p :: ps) := hcheck
  obtain ⟨hrel, href⟩ := hreleased
  have hstage' : ((entered (.launch c d a b) s).prog (seen (.launch c d a b) c s).r).stage = 0 := hstage
  simp only [hstage']
  rw [releaseThen_over (v := seen (.launch c d a b) c s) .dev 16 _ hrel href]
  simp only [hcheck', Access.whole, withAccess]
  have hload' : loadBytes ((entered (.launch c d a b) s).setProg (seen (.launch c d a b) c s).r
      { (entered (.launch c d a b) s).prog (seen (.launch c d a b) c s).r with rel := 4, scope := none })
      (seen (.launch c d a b) c s).r.core p.key 64 p.via = (s', bs, none) := hload
  rw [hload']
  rfl

theorem launch_ends {d a b : Operand} (hready : Ready (.launch c d a b) c s) :
    let v := seen (.launch c d a b) c s
    let t := entered (.launch c d a b) s
    (v.eff = 0 → Finishes (.launch c d a b) s t) ∧
    (v.eff ≠ 0 → (t.prog v.r).stage = 2 →
      Finishes (.launch c d a b) s (putAll t v.r d v.eff (BitVec.ofNat 32 ((t.prog v.r).nums.headD 0)))) ∧
    (v.eff ≠ 0 → (t.prog v.r).stage = 3 → Traps (.launch c d a b) s { code := 0x1A, lanes := v.eff } t) := by
  intro v t
  have hrun : exec (.launch c d a b) s = run (.launch c d a b) c s _ := rfl
  refine ⟨fun heff => finishes_of_run hrun hready (if_pos heff), fun heff hstage => finishes_of_run hrun hready ((if_neg heff).trans ?_),
    fun heff hstage => traps_of_run_entered hrun hready ((if_neg heff).trans ?_)⟩
  · simp only [v, t] at hstage
    simp only [hstage]
    rfl
  · simp only [v, t] at hstage
    simp only [hstage]
    rfl

end

/-! Deadlock of growth (R142). -/

section
variable {s : State} {slot : Nat} {st : Strand} (hstuck : growthStuck s s.pick.a = true)
  (hlast : ((sleepers s s.pick.a).filter fun e => e.2.state == .resident).getLast? = some (slot, st))
include hstuck hlast

theorem deadlockCheck_owed (h : st.savable = false ∨ repliesIn s (fun t => t.core == s.pick.a && t.slot == slot) = false) :
    exec .vgrowDeadlockCheck s = .next (stallOwed s fun i j => i == s.pick.a && j == slot) := by
  have howed : (!st.savable || !repliesIn s (fun t => t.core == s.pick.a && t.slot == slot)) = true := by
    rcases h with h | h
    · rw [h]; rfl
    · rw [h, Bool.not_false, Bool.or_true]
  simp only [exec, execVgrowDeadlockCheck, hstuck, hlast, howed, Bool.not_true, Bool.false_eq_true, if_false, if_true]

theorem deadlockCheck_saves {s' : State} {at_ : Nat} (hsave : st.savable = true)
    (hreplies : repliesIn s (fun t => t.core == s.pick.a && t.slot == slot) = true)
    (hout : preemptOut s s.pick.a slot st = (s', at_, .done)) :
    exec .vgrowDeadlockCheck s = .next (syncWaiters (retimeCuffs (gainRoom (settleGrowth (leaveSlot (s'.setStrandAt s.pick.a slot
      (saveStrand s'.runTick slot at_ (taggedOf s' s.pick.a slot) st)) s.pick.a slot) s.pick.a) [s.pick.a]) (coreCluster s.pick.a))) := by
  simp only [exec, execVgrowDeadlockCheck, hstuck, hlast, hsave, hreplies, hout, Bool.not_true, Bool.or_self, Bool.false_eq_true, if_false]

end

theorem restore_returns {s t : State} {st : Strand} {rest : List (Nat × Strand)} {n : Nat}
    (hfirst : sleepers s s.pick.a = (s.pick.b, st) :: rest) (hgrow : st.growth = some n) (hsaved : st.state = .saved)
    (hroom : max n st.claimed ≤ freeRegisters s s.pick.a) (hsched : takeSched s s.pick.a s.pick.b st = some t) :
    exec .vgrowRestore s = .next (syncWaiters (retimeCuffs (settleGrowth
      { grantGrowth (t.setStrandAt s.pick.a s.pick.b (returnStrand s.runTick s.pick.b st).1) s.pick.a s.pick.b n with
        tagReqs := (grantGrowth (t.setStrandAt s.pick.a s.pick.b (returnStrand s.runTick s.pick.b st).1) s.pick.a s.pick.b n).tagReqs ++
          (returnStrand s.runTick s.pick.b st).2 } s.pick.a) (coreCluster s.pick.a))) := by
  have hstate : (st.state == .saved) = true := by rw [hsaved]; rfl
  simp only [exec, execVgrowRestore, hfirst, hgrow, hsched, hstate, hroom, decide_true, Bool.and_self, if_true]

/-- Settles O44. -/
theorem growthAndLaunch : Obligations.GrowthAndLaunch := by
  refine ⟨fun c a s => ?vgrow, fun c a s => ?vshrink, fun c d a b s s' p ps bs => ?launch, fun s slot st => ?stuck,
    fun s t st rest n => ?restore⟩
  case vgrow =>
    intro i v n hready
    obtain ⟨hnone, hmax, hwait⟩ := vgrow_ends hready
    refine ⟨hnone, hmax, fun now heff hn hle hnow => ?_⟩
    have heq : now = growsNow (entered i s) v.r n := Bool.eq_iff_iff.mpr (hnow.trans (growsNow_iff _ _ _).symm)
    rw [heq]
    exact hwait heff hn hle
  case vshrink => exact vshrink_ends
  case launch =>
    intro i v t q hready
    obtain ⟨hnone, hdone, hbad⟩ := launch_ends hready
    refine ⟨hnone, hdone, hbad, fun heff hstage hreleased hb hcheck hload hbound hdev => ?_⟩
    obtain ⟨body, hrun, hbody⟩ := launch_body heff hstage hreleased hcheck hload
    rw [launchHanded_eq _ hb hbound hdev] at hbody
    refine ⟨fun hbad => traps_of_run hrun hready (hbody.trans (if_pos hbad)) ?_, fun hgood =>
      waits_of_run hrun hready (hbody.trans (if_neg (not_not_intro hgood)))⟩
    have hloaded := loaded_loadBytes (relSpent t s.pick.ref) s.pick.ref.core p.key 64 p.via
    rw [show loadBytes (relSpent t s.pick.ref) s.pick.ref.core p.key 64 p.via = (s', bs, none) from hload] at hloaded
    have hsplit : s'.split s.pick.ref = (relSpent t s.pick.ref).split s.pick.ref := split_of_loaded hloaded s.pick.ref
    rw [hsplit, relSpent, State.setProg, State.split_setSplit]
    rfl
  case stuck =>
    intro c mine hstuck hlast
    exact ⟨deadlockCheck_owed hstuck hlast, fun s' at_ hsave hreplies hout =>
      ⟨deadlockCheck_saves hstuck hlast hsave hreplies hout, rfl, rfl, rfl, rfl, rfl, rfl⟩⟩
  case restore =>
    intro c hfirst hgrow hsaved hroom hsched
    exact restore_returns hfirst hgrow hsaved hroom hsched

end Sys2Proof.Proofs
end

section
/-! PROOFS. Sections: their instructions and the sluices' own steps (O45). -/
namespace Sys2Proof.Proofs
set_option Elab.async false

open Sys2Proof Sys2Proof.Machine Sys2Proof.Claims

/-! Every split stays at its place while grants are taken back. -/

/-- The splits of two states stand at the same places of the same clauses. -/
def SamePlaces (s t : State) : Prop := ∀ r, (t.split r).running = (s.split r).running

theorem SamePlaces.refl (s : State) : SamePlaces s s := fun _ => rfl

theorem SamePlaces.trans {s t u : State} (a : SamePlaces s t) (b : SamePlaces t u) : SamePlaces s u := fun r => (b r).trans (a r)

theorem running_mapSplits {f : Split → Split} (hf : ∀ sp, (f sp).running = sp.running) (st : Strand) (j : Nat) :
    (({ st with splits := st.splits.map fun e => (e.1, f e.2) } : Strand).split j).running = (st.split j).running := by
  show (Tab.get (st.splits.map fun e => (e.1, f e.2)) {} j).running = (Tab.get st.splits {} j).running
  induction st.splits with
  | nil => rfl
  | cons e t ih =>
    rw [List.map_cons, Tab.get, Tab.get]
    split
    · exact hf e.2
    · exact ih

theorem samePlaces_setKept {s : State} {core : Nat} {p : Kept} {st : Strand}
    (h : ∀ j, (st.split j).running = ((keptStrand s core p).split j).running) : SamePlaces s (setKept s core p st) := by
  intro r
  cases p with
  | slot i =>
    by_cases hr : r.core = core ∧ r.slot = i
    · obtain ⟨rfl, rfl⟩ := hr
      have hst : (s.setStrandAt r.core r.slot st).split r = st.split r.split := by
        rw [State.split, State.strand, State.strandAt_setStrandAt]
      exact (congrArg Split.running hst).trans (h r.split)
    · have hst : (s.setStrandAt core i st).strand r = s.strand r :=
        State.strandAt_setStrandAt_ne s st (Decidable.not_and_iff_or_not.mp hr)
      exact congrArg (fun x : Strand => (x.split r.split).running) hst
  | saved i =>
    have hst : (s.setCore core { s.core core with away := setAt (s.core core).away i st }).strandAt r.core r.slot = s.strandAt r.core r.slot := by
      by_cases hr : r.core = core
      · rw [State.strandAt, State.strandAt, hr, State.core_setCore]
      · rw [State.strandAt, State.strandAt, State.core_setCore_ne s _ hr]
    exact congrArg (fun x : Strand => (x.split r.split).running) hst

theorem samePlaces_replyGrant (s : State) (w : Waiter) (abn : Bool) : SamePlaces s (replyGrant s w abn) := by
  rw [replyGrant, ownerStrand]
  cases findStrand s w.owner.core w.ctx w.owner.number with
  | none => exact SamePlaces.refl s
  | some p => exact samePlaces_setKept fun j => running_mapSplits (f := fun sp => { sp with
      waits := sp.waits.map fun x => if x.asks w.ask then x.granted w.owner.lane abn else x }) (fun _ => rfl) _ j

theorem samePlaces_grantNext (s : State) (k i : Nat) : SamePlaces s (grantNext s k i) := by
  rw [grantNext]
  split
  · exact SamePlaces.refl s
  · split
    · exact SamePlaces.refl s
    · split
      · exact SamePlaces.refl s
      · split
        · exact SamePlaces.refl s
        · exact samePlaces_replyGrant _ _ _

theorem samePlaces_ungrant (s : State) (ctx core : Nat) (number : BitVec 16) (lane : Nat) (key : DWord) (abn : Bool) :
    SamePlaces s (ungrant s ctx core number lane key abn) := by
  rw [ungrant]
  split
  · exact SamePlaces.refl s
  · split
    · exact SamePlaces.refl s
    · split
      · exact samePlaces_grantNext _ _ _
      · exact SamePlaces.refl s

theorem samePlaces_undoEntry (s : State) (ctx core : Nat) (number : BitVec 16) (ask : Nat) (granted abn : LaneMask) (keys : List (Nat × DWord)) :
    SamePlaces s (undoEntry s ctx core number ask granted abn keys) := by
  rw [undoEntry]
  have hstart : SamePlaces s (withdrawAsk s ask) := fun _ => rfl
  generalize withdrawAsk s ask = u at hstart
  induction keys generalizing u with
  | nil => exact hstart
  | cons e keys ih =>
    refine ih _ (hstart.trans ?_)
    dsimp only
    split
    · exact samePlaces_ungrant _ _ _ _ _ _ _
    · exact SamePlaces.refl u

/-! SLU.IN. -/

theorem dupTrap_none {v : View} {a : Operand} (h : KeysDiffer v a) : dupTrap v a = none := by
  have hdup : dupLanes v a = 0 := h
  rw [dupTrap]
  simp only [hdup, lowLane_zero]

theorem code_of_dupTrap {v : View} {a : Operand} {e : TrapRec} (h : dupTrap v a = some e) : e.code = 0x10 := by
  rw [dupTrap] at h
  cases hlow : lowLane (dupLanes v a) with
  | none => simp only [hlow] at h; cases h
  | some l => simp only [hlow] at h; cases h; rfl

theorem sluIn_ends {c : Ctl} {init : Bool} {d a b : Operand} {s : State} (hready : Ready (.sluIn c init d a b) c s) :
    let i := Instr.sluIn c init d a b
    let v := seen i c s
    let t := entered i s
    (v.eff = 0 → Finishes i s t) ∧ (∀ e, v.eff ≠ 0 → dupTrap v a = some e → Traps i s e t ∧ e.code = 0x10) ∧
      (v.eff ≠ 0 → KeysDiffer v a → Finishes i s (waitingFor (sendSects { t with nextId := t.nextId + 1 } v a b init false t.nextId) v
          (.sluIn t.nextId v.eff 0 ((lanesOf v.eff).map fun l => (l, v.rd64 a l)) d))) := by
  intro i v t
  have hrun : exec i s = run i c s _ := rfl
  refine ⟨fun heff => finishes_of_run hrun hready (if_pos heff),
    fun e heff hdup => ⟨traps_of_run_entered hrun hready ((if_neg heff).trans ?_), code_of_dupTrap hdup⟩,
    fun heff hdiffer => finishes_of_run hrun hready ((if_neg heff).trans ?_)⟩
  · simp only [v] at hdup
    simp only [hdup]
  · have hdup := dupTrap_none hdiffer
    simp only [v] at hdup
    simp only [hdup]
    rfl

/-! SLU.TRY. -/

theorem covers_iff_none_left {m p : LaneMask} : p &&& m = m ↔ m &&& ~~~p = 0 := by
  constructor
  · intro h
    ext i hi
    have := congrArg (fun x : LaneMask => x[i]) h
    simp at this ⊢
    exact this
  · intro h
    ext i hi
    have := congrArg (fun x : LaneMask => x[i]) h
    simp at this ⊢
    exact this

section
variable {c : Ctl} {d a b e : Operand} {s : State} (hready : Ready (.sluTry c d a b e) c s)
include hready

theorem sluTry_asks (heff : (seen (.sluTry c d a b e) c s).eff ≠ 0) (hstage : ((entered (.sluTry c d a b e) s).prog s.pick.ref).stage = 0) :
    let i := Instr.sluTry c d a b e
    let v := seen i c s
    let t := entered i s
    (∀ x, dupTrap v a = some x → Traps i s x t) ∧
    (KeysDiffer v a → Waits i s 10 (sendSects (({ t with nextId := t.nextId + 1 } : State).setProg v.r
      { t.prog v.r with stage := 1, ask := t.nextId }) v a b false true t.nextId)) := by
  intro i v t
  have hrun : exec i s = run i c s _ := rfl
  have hstage' : ((entered (.sluTry c d a b e) s).prog (seen (.sluTry c d a b e) c s).r).stage = 0 := hstage
  refine ⟨fun x hdup => traps_of_run_entered hrun hready ((if_neg heff).trans ?_),
    fun hdiffer => waits_of_run hrun hready ((if_neg heff).trans ?_)⟩
  · simp only [v] at hdup
    simp only [i, hstage', hdup]
  · have hdup := dupTrap_none hdiffer
    simp only [v] at hdup
    simp only [i, hstage', hdup]
    rfl

theorem sluTry_answers (heff : (seen (.sluTry c d a b e) c s).eff ≠ 0) (hstage : ((entered (.sluTry c d a b e) s).prog s.pick.ref).stage = 1) :
    let i := Instr.sluTry c d a b e
    let v := seen i c s
    let t := entered i s
    let p := t.prog v.r
    (v.eff &&& ~~~p.lanes ≠ 0 → Waits i s 10 t) ∧
    (v.eff &&& ~~~p.lanes = 0 →
      let u := putPred (putPred t v.r d v.eff fun l => p.won.getLsbD l) v.r e v.eff fun l => p.nums.contains l
      Finishes i s (if p.won = 0 then u else acquire u v.r.core .dev)) := by
  intro i v t p
  have hrun : exec i s = run i c s _ := rfl
  have hstage' : ((entered (.sluTry c d a b e) s).prog (seen (.sluTry c d a b e) c s).r).stage = 1 := hstage
  refine ⟨fun hleft => waits_of_run hrun hready ((if_neg heff).trans ?_),
    fun hnone => finishes_of_run hrun hready ((if_neg heff).trans ?_)⟩
  · simp only [i, hstage']
    exact if_pos (bne_iff_ne.mpr (mt covers_iff_none_left.mp hleft))
  · simp only [i, hstage']
    exact if_neg fun h => bne_iff_ne.mp h (covers_iff_none_left.mpr hnone)

theorem sluTry_fails (heff : (seen (.sluTry c d a b e) c s).eff ≠ 0) (hstage : ((entered (.sluTry c d a b e) s).prog s.pick.ref).stage = 2)
    {x : TrapRec} (hfail : ((entered (.sluTry c d a b e) s).prog s.pick.ref).fail = some x) :
    let i := Instr.sluTry c d a b e
    let v := seen i c s
    let t := entered i s
    let p := t.prog v.r
    Traps i s x (undoEntry t v.st.ctx v.r.core v.st.number p.ask p.won (lanesWhere fun k => p.nums.contains k)
      ((lanesOf v.eff).map fun k => (k, v.rd64 a k))) := by
  intro i v t p
  have hrun : exec i s = run i c s _ := rfl
  have hstage' : ((entered (.sluTry c d a b e) s).prog (seen (.sluTry c d a b e) c s).r).stage = 2 := hstage
  have hfail' : ((entered (.sluTry c d a b e) s).prog (seen (.sluTry c d a b e) c s).r).fail = some x := hfail
  refine traps_of_run hrun hready ((if_neg heff).trans ?_) (samePlaces_undoEntry _ _ _ _ _ _ _ _ _)
  simp only [i, hstage', hfail']
  rfl

end

/-! SLU.OUT. -/

theorem mem_lanesOf {m : LaneMask} {l : Nat} : l ∈ lanesOf m ↔ m.getLsbD l = true := by
  rw [lanesOf, List.mem_filter, List.mem_range]
  exact and_iff_right_of_imp fun h => by
    refine Classical.byContradiction fun hl => ?_
    rw [BitVec.getLsbD_of_ge _ _ (Nat.le_of_not_lt hl)] at h
    cases h

theorem maskWhere_eq_zero_iff {p : Nat → Bool} : maskWhere p = 0 ↔ ∀ l < 96, p l = false := by
  constructor
  · intro h l hl
    rw [← getLsbD_maskWhere p hl, h]
    exact BitVec.getLsbD_zero
  · intro h
    refine BitVec.eq_of_getLsbD_eq fun l hl => ?_
    rw [getLsbD_maskWhere p hl, h l hl]
    exact BitVec.getLsbD_zero.symm

/-- The lanes of a mask that fail a test, as SLU.OUT gathers them. -/
theorem failing_lanes (v : View) (a : Operand) (f : Nat × DWord → Bool) :
    (maskWhere fun l => ((laneKeys v a).filter f).any fun e => e.1 == l) = lanesWhere fun l => v.eff.getLsbD l && f (l, v.rd64 a l) := by
  refine BitVec.eq_of_getLsbD_eq fun l hl => ?_
  rw [lanesWhere, getLsbD_maskWhere _ hl, getLsbD_maskWhere _ hl, Bool.eq_iff_iff, List.any_eq_true, Bool.and_eq_true]
  constructor
  · rintro ⟨e, he, hel⟩
    obtain ⟨he, hf⟩ := List.mem_filter.mp he
    obtain ⟨k, hk, rfl⟩ := List.mem_map.mp he
    obtain rfl : k = l := beq_iff_eq.mp hel
    exact ⟨mem_lanesOf.mp hk, hf⟩
  · rintro ⟨heff, hf⟩
    exact ⟨(l, v.rd64 a l), List.mem_filter.mpr ⟨List.mem_map.mpr ⟨l, mem_lanesOf.mpr heff, rfl⟩, hf⟩, beq_self_eq_true l⟩

theorem failing_isEmpty (v : View) (a : Operand) (f : Nat × DWord → Bool) :
    ((laneKeys v a).filter f).isEmpty = true ↔ (lanesWhere fun l => v.eff.getLsbD l && f (l, v.rd64 a l)) = 0 := by
  rw [← failing_lanes, maskWhere_eq_zero_iff, List.isEmpty_iff]
  constructor
  · intro h l hl
    rw [h]
    rfl
  · intro h
    refine List.eq_nil_iff_forall_not_mem.mpr fun e he => ?_
    obtain ⟨k, hk, rfl⟩ := List.mem_map.mp (List.mem_filter.mp he).1
    have hlt : k < 96 := List.mem_range.mp (List.mem_filter.mp hk).1
    exact absurd (List.any_eq_true.mpr ⟨_, he, beq_self_eq_true k⟩) (by rw [h k hlt]; decide)

/-- What SLU.OUT does once its release is over (R13, R215). -/
def sluOutLeaves (v : View) (a : Operand) (s : State) : Res :=
  if asksBefore s v.r.core ((laneKeys v a).map (·.2)) then .stay 10 s
  else
    let bad := (laneKeys v a).filter (fun e => !holdsKey s v.st.ctx ⟨v.r.core, v.st.number, e.1⟩ e.2 ||
      leaving s v.st.ctx ⟨v.r.core, v.st.number, e.1⟩ e.2)
    if !bad.isEmpty then .trap { code := 0x06, lanes := maskWhere (fun l => bad.any (fun e => e.1 == l)) } s
    else .done (beginWait ((laneKeys v a).foldl (fun s e =>
      ({ s with nextId := s.nextId + 1 } : State).setClu (keyHome e.2) { s.clu (keyHome e.2) with
        sectLeaves := (s.clu (keyHome e.2)).sectLeaves ++
          [{ ctx := v.st.ctx, key := e.2, owner := ⟨v.r.core, v.st.number, e.1⟩, no := some s.nextId }] }) s)
      v (.sluOut (popCount v.eff)))

theorem asksBefore_iff (s : State) (v : View) (a : Operand) : asksBefore s v.r.core ((laneKeys v a).map (·.2)) = true ↔
    ∃ l q, v.eff.getLsbD l = true ∧ q ∈ (s.clu (keyHome (v.rd64 a l))).sectReqs ∧ q.w.owner.core = v.r.core ∧ q.after = 0 := by
  rw [asksBefore, List.any_eq_true]
  constructor
  · rintro ⟨key, hkey, hany⟩
    obtain ⟨e, he, rfl⟩ := List.mem_map.mp hkey
    obtain ⟨l, hl, rfl⟩ := List.mem_map.mp he
    obtain ⟨q, hq, hcore⟩ := List.any_eq_true.mp hany
    rw [Bool.and_eq_true, beq_iff_eq, beq_iff_eq] at hcore
    exact ⟨l, q, mem_lanesOf.mp hl, hq, hcore⟩
  · rintro ⟨l, q, hl, hq, hcore⟩
    refine ⟨v.rd64 a l, List.mem_map.mpr ⟨(l, v.rd64 a l), List.mem_map.mpr ⟨l, mem_lanesOf.mpr hl, rfl⟩, rfl⟩,
      List.any_eq_true.mpr ⟨q, hq, ?_⟩⟩
    rwa [Bool.and_eq_true, beq_iff_eq, beq_iff_eq]

section
variable {c : Ctl} {a : Operand} {s : State} (hready : Ready (.sluOut c a) c s)
include hready

theorem sluOut_released (heff : (seen (.sluOut c a) c s).eff ≠ 0) (hreleased : Released (entered (.sluOut c a) s) (seen (.sluOut c a) c s)) :
    let i := Instr.sluOut c a
    let v := seen i c s
    let t := releaseDone (entered i s) v.r
    let before := asksBefore t v.r.core ((laneKeys v a).map (·.2)) = true
    let bad := lanesWhere fun l => v.eff.getLsbD l && (!holdsKey t v.st.ctx ⟨v.r.core, v.st.number, l⟩ (v.rd64 a l) ||
      leaving t v.st.ctx ⟨v.r.core, v.st.number, l⟩ (v.rd64 a l))
    (before → Waits i s 10 t) ∧ (¬ before → bad ≠ 0 → Traps i s { code := 0x06, lanes := bad } t) ∧
    (¬ before → bad = 0 → Finishes i s (waitingFor ((lanesOf v.eff).foldl (fun s l =>
      ({ s with nextId := s.nextId + 1 } : State).setClu (keyHome (v.rd64 a l)) { s.clu (keyHome (v.rd64 a l)) with
        sectLeaves := (s.clu (keyHome (v.rd64 a l))).sectLeaves ++
          [{ ctx := v.st.ctx, key := v.rd64 a l, owner := ⟨v.r.core, v.st.number, l⟩, no := some s.nextId }] }) t)
      v (.sluOut (popCount v.eff)))) := by
  intro i v t before bad
  have hrun : exec i s = run i c s fun v u => if v.eff = 0 then .done u else releaseThen v u .dev 16 (sluOutLeaves v a) := rfl
  obtain ⟨hrel, href⟩ := hreleased
  have hover : releaseThen v (entered i s) .dev 16 (sluOutLeaves v a) = sluOutLeaves v a t :=
    releaseThen_over .dev 16 _ hrel href
  have hempty := failing_isEmpty v a fun e => !holdsKey t v.st.ctx ⟨v.r.core, v.st.number, e.1⟩ e.2 ||
    leaving t v.st.ctx ⟨v.r.core, v.st.number, e.1⟩ e.2
  refine ⟨fun hbefore => waits_of_run hrun hready ((if_neg heff).trans (hover.trans (if_pos hbefore))),
    fun hno hbad => traps_of_run hrun hready ((if_neg heff).trans (hover.trans ((if_neg hno).trans ((if_pos ?_).trans ?_)))) ?_,
    fun hno hgood => finishes_of_run hrun hready ((if_neg heff).trans (hover.trans ((if_neg hno).trans ((if_neg ?_).trans ?_))))⟩
  · rw [Bool.not_eq_true']
    exact Bool.eq_false_iff.mpr (mt hempty.mp hbad)
  · rw [failing_lanes]
  · show ((releaseDone (entered i s) v.r).split v.r).running = _
    rw [releaseDone, State.setProg, State.split_setSplit]
    rfl
  · exact not_not_of_true (hempty.mpr hgood)
  · rw [laneKeys, List.foldl_map]
    rfl

end

/-! The sluices' own steps. -/

section
variable {s : State} {q : SectReq} (hq : (s.clu s.pick.a).sectReqs[s.pick.b]? = some q)
include hq

section
variable (hafter : q.after = 0) (hbehind : sectBehind (s.clu s.pick.a) q.w.owner.core q.no = false)
  (hmay : arbiterMay s s.pick.a q.w.ctx 2 0 q.w.owner.core q.w.owner.number.toNat = true)
include hafter hbehind hmay

theorem sectionRequest_held {u : State} (hneed : needEntry s s.pick.a q.w.ctx q.w.key = (u, .error .held)) :
    exec .sectionRequest s = .next u := by
  simp only [exec, execSectionRequest, hq, hafter, hbehind, hmay, hneed, bne_self_eq_false, Bool.not_true, Bool.or_self, Bool.false_eq_true,
    if_false]

theorem sectionRequest_full {u : State} (hneed : needEntry s s.pick.a q.w.ctx q.w.key = (u, .error .full)) :
    exec .sectionRequest s = .next (syncWaiters (failEntry (arbiterServe (takeSect u s.pick.a u.pick.b) s.pick.a q.w.ctx 2 0
      q.w.owner.core q.w.owner.number.toNat) q.w { code := 0x11, lanes := 1#96 <<< q.w.owner.lane, info := q.w.key })) := by
  simp only [exec, execSectionRequest, hq, hafter, hbehind, hmay, hneed, bne_self_eq_false, Bool.not_true, Bool.or_self, Bool.false_eq_true,
    if_false, trapKeytabFull]

theorem sectionRequest_served {u : State} {n : Nat} (hneed : needEntry s s.pick.a q.w.ctx q.w.key = (u, .ok n)) :
    exec .sectionRequest s = .next (syncWaiters (serveSect (arbiterServe (takeSect u s.pick.a u.pick.b) s.pick.a q.w.ctx 2 0
      q.w.owner.core q.w.owner.number.toNat) s.pick.a n q)) := by
  simp only [exec, execSectionRequest, hq, hafter, hbehind, hmay, hneed, bne_self_eq_false, Bool.not_true, Bool.or_self, Bool.false_eq_true,
    if_false]

end

theorem waiterResend_due (hrefused : q.after ≠ 0) (hdue : q.after ≤ s.tick) : exec .waiterResend s =
    .next (({ s with nextId := s.nextId + 1 } : State).setClu s.pick.a { s.clu s.pick.a with
      sectReqs := (s.clu s.pick.a).sectReqs.eraseIdx s.pick.b ++ [{ q with after := 0, no := s.nextId }] }) := by
  have hcond : (decide (q.after = 0) || decide (s.tick < q.after)) = false := by
    rw [decide_eq_false hrefused, decide_eq_false (Nat.not_lt.mpr hdue)]
    rfl
  simp only [exec, execWaiterResend, hq, hcond, Bool.false_eq_true, if_false]
  rfl

end

/-- A request at an entry (R214, R216). -/
theorem serveSect_eq {s : State} {k n : Nat} {e : KeyEntry} (he : (s.clu k).keys[n]? = some e) (q : SectReq) :
    let e := if q.init && e.held.isNone && !hasWaiters (s.clu k) e then { e with next := q.w.seq } else e
    let u := s.setClu k { s.clu k with keys := (s.clu k).keys.set n e }
    serveSect s k n q = if e.held = none ∧ e.next = q.w.seq then
        (if q.once then replyTry (holdEntry u k n e q.w.owner) q.w true e.abn else replyGrant (holdEntry u k n e q.w.owner) q.w e.abn)
      else if q.once then replyTry u q.w false false else attachWaiter u k q := by
  intro e' u
  rw [serveSect]
  simp only [he]
  refine ite_of_iff ?_ rfl rfl
  rw [Bool.and_eq_true, Option.isNone_iff_eq_none, decide_eq_true_iff]

theorem clu_setKept (s : State) (core : Nat) (p : Kept) (st : Strand) (k : Nat) : (setKept s core p st).clu k = s.clu k := by
  cases p <;> rfl

theorem clu_ackLeave (s : State) (ctx : Nat) (o : Owner) (k : Nat) : (ackLeave s ctx o).clu k = s.clu k := by
  rw [ackLeave]
  split
  · rfl
  · exact clu_setKept _ _ _ _ _

theorem pick_ackLeave (s : State) (ctx : Nat) (o : Owner) : (ackLeave s ctx o).pick = s.pick := by
  rw [ackLeave]
  split
  · rfl
  · cases ‹Kept› <;> rfl

theorem sectionLeave_held {s : State} {q : SectLeave} {n : Nat} {e : KeyEntry} (hq : (s.clu s.pick.a).sectLeaves[s.pick.b]? = some q)
    (hmay : leaveMay s (s.clu s.pick.a) q = true) (hn : findKey (s.clu s.pick.a) q.ctx q.key = some n)
    (he : (s.clu s.pick.a).keys[n]? = some e) (hheld : e.held = some q.owner) :
    let gone := s.setClu s.pick.a { s.clu s.pick.a with sectLeaves := (s.clu s.pick.a).sectLeaves.eraseIdx s.pick.b }
    let t := if q.no = none then gone else ackLeave gone q.ctx q.owner
    exec .sectionLeave s = .next (syncWaiters (grantNext (t.setClu s.pick.a { t.clu s.pick.a with
      keys := (s.clu s.pick.a).keys.set n { e with held := none, next := e.next + 1, abn := e.abn || q.no.isNone } }) s.pick.a n)) := by
  intro gone t
  have hclu : t.clu s.pick.a = { s.clu s.pick.a with sectLeaves := (s.clu s.pick.a).sectLeaves.eraseIdx s.pick.b } := by
    have hgone : gone.clu s.pick.a = _ := State.clu_setClu s s.pick.a _
    show (if q.no = none then gone else ackLeave gone q.ctx q.owner).clu s.pick.a = _
    split
    · exact hgone
    · rw [clu_ackLeave, hgone]
  have ht : (if q.no.isNone then gone else ackLeave gone q.ctx q.owner) = t := ite_of_iff Option.isNone_iff_eq_none rfl rfl
  have hfound : findKey { s.clu s.pick.a with sectLeaves := (s.clu s.pick.a).sectLeaves.eraseIdx s.pick.b } q.ctx q.key = some n := hn
  have hown : (e.held != some q.owner) = false := by rw [hheld, bne_self_eq_false]
  simp only [gone] at ht
  simp only [exec, execSectionLeave, hq, hmay, dropAt, hfound, he, hown, ht, hclu, setAt, Bool.not_true, Bool.false_eq_true, if_false]

/-- The holder of the entry that a walk looks at. -/
def walkEntry (s : State) (h : ChainWalk) : Option KeyEntry :=
  (findKey (s.clu (keyHome h.cur)) h.ctx h.cur).bind fun n => (s.clu (keyHome h.cur)).keys[n]?

section
variable {s : State} {h : ChainWalk} (hh : (s.clu s.pick.a).chains[s.pick.b]? = some h)
include hh

theorem chainWalkHop_ends (hnone : (walkEntry s h).bind (·.held) = none) : exec .chainWalkHop s =
    .next (s.setClu s.pick.a { s.clu s.pick.a with chains := (s.clu s.pick.a).chains.eraseIdx s.pick.b }) := by
  rw [walkEntry] at hnone
  simp only [exec, execChainWalkHop, hh, dropAt]
  cases hentry : (findKey (s.clu (keyHome h.cur)) h.ctx h.cur).bind fun n => (s.clu (keyHome h.cur)).keys[n]? with
  | none => simp only
  | some e =>
    rw [hentry] at hnone
    have hheld : e.held = none := hnone
    simp only [hheld]

theorem chainWalkHop_deadlock {o : Owner} {w : Waiter} (ho : (walkEntry s h).bind (·.held) = some o) (hcore : o.core = h.owner.core)
    (hnumber : o.number = h.owner.number) (hw : (s.clu s.pick.a).waiters.find? (fun w => w.ask == h.ask && w.owner == h.owner) = some w) :
    exec .chainWalkHop s = .next (syncWaiters (failEntry
      (s.setClu s.pick.a { s.clu s.pick.a with chains := (s.clu s.pick.a).chains.eraseIdx s.pick.b }) w
      { code := 0x0E, lanes := 1#96 <<< h.owner.lane, info := h.cur })) := by
  obtain ⟨e, hentry, hheld⟩ := Option.bind_eq_some_iff.mp ho
  rw [walkEntry] at hentry
  simp only [exec, execChainWalkHop, hh, dropAt, hentry, hheld, hcore, hnumber, decide_true, Bool.and_self, if_true, hw, trapSectDeadlock]

theorem chainWalkHop_moves {o : Owner} {n : DWord} (ho : (walkEntry s h).bind (·.held) = some o)
    (hother : o.core ≠ h.owner.core ∨ o.number ≠ h.owner.number) (hn : wantedKey s h.ctx o = some n) :
    exec .chainWalkHop s = .next (if 16 ≤ h.hops + 1
      then s.setClu s.pick.a { s.clu s.pick.a with chains := (s.clu s.pick.a).chains.eraseIdx s.pick.b }
      else s.setClu s.pick.a { s.clu s.pick.a with
        chains := (s.clu s.pick.a).chains.set s.pick.b { h with cur := n, hops := h.hops + 1 } }) := by
  obtain ⟨e, hentry, hheld⟩ := Option.bind_eq_some_iff.mp ho
  rw [walkEntry] at hentry
  have hno : (decide (o.core = h.owner.core) && decide (o.number = h.owner.number)) = false := by
    rw [Bool.and_eq_false_iff, decide_eq_false_iff_not, decide_eq_false_iff_not]
    exact hother
  simp only [exec, execChainWalkHop, hh, dropAt, setAt, hentry, hheld, hno, Bool.false_eq_true, if_false, hn]
  split <;> rfl

end

theorem sectStarved_expires {s : State} {w : Waiter} (hw : (counting (s.clu s.pick.a))[s.pick.b]? = some w)
    (hlate : 2 ^ ctxStarve s w.ctx < waiterTicks s w) : exec .sectStarved s = .next (syncWaiters (failEntry s w
      { code := 0x0F, lanes := expiredLanes s w.ask, info := w.key })) := by
  have hstarved : starved s w.ctx (waiterTicks s w) = true := decide_eq_true hlate
  simp only [exec, execSectStarved, hw, hstarved, Bool.not_true, Bool.false_eq_true, if_false, trapSectStarved]

/-- Settles O45. -/
theorem sectionInstructions : Obligations.SectionInstructions := by
  refine ⟨fun c init d a b s => sluIn_ends, fun c a s => ?out, fun c d a b e s => ?attempt, fun s q => ?request, fun s q n e => ?leave,
    fun s h => ?walk, fun s w => ?starved, fun s q => ?resend⟩
  case out =>
    intro i v t owner going bad leave before hready
    refine ⟨fun heff => finishes_of_run (c := c) rfl hready (if_pos heff), fun heff hreleased hbefore => ?_,
      fun heff hreleased hno => ?_, fun heff hreleased hno => ?_⟩
    · exact (sluOut_released hready heff hreleased).1 ((asksBefore_iff t v a).mpr hbefore)
    · exact (sluOut_released hready heff hreleased).2.1 (mt (asksBefore_iff t v a).mp hno)
    · exact (sluOut_released hready heff hreleased).2.2 (mt (asksBefore_iff t v a).mp hno)
  case attempt =>
    intro i v t p hready
    exact ⟨fun heff => finishes_of_run (c := c) rfl hready (if_pos heff), fun x heff hstage => (sluTry_asks hready heff hstage).1 x,
      fun heff hstage => (sluTry_asks hready heff hstage).2, fun heff hstage => (sluTry_answers hready heff hstage).1,
      fun heff hstage => (sluTry_answers hready heff hstage).2, fun x heff hstage hfail => sluTry_fails hready heff hstage hfail⟩
  case request =>
    intro k o gone hq hafter hbehind hmay
    refine ⟨fun u => sectionRequest_held hq hafter hbehind hmay, fun u => sectionRequest_full hq hafter hbehind hmay, fun u n e hneed he => ?_⟩
    refine (sectionRequest_served hq hafter hbehind hmay hneed).trans ?_
    exact congrArg (fun x => Host.Outcome.next (syncWaiters x)) (serveSect_eq he q)
  case leave =>
    intro k hq hmay hn he hheld
    refine sectionLeave_held hq ?_ hn he hheld
    rw [leaveMay]
    cases hno : q.no with
    | none =>
      simp only [hno] at hmay
      exact hmay
    | some m =>
      simp only [hno] at hmay
      exact (Bool.not_eq_true' _).mpr hmay
  case walk =>
    intro k gone entry hh
    exact ⟨chainWalkHop_ends hh, fun o w ho hcore hnumber hw => chainWalkHop_deadlock hh ho hcore hnumber hw,
      fun o n ho hother hn => chainWalkHop_moves hh ho hother hn⟩
  case starved => exact fun hw hlate => sectStarved_expires hw hlate
  case resend => exact fun hq hrefused hdue => waiterResend_due hq hrefused hdue

end Sys2Proof.Proofs
end

section
/-! PROOFS. System registers, segments and translation invalidation (O46). -/
namespace Sys2Proof.Proofs
set_option Elab.async false

open Sys2Proof Sys2Proof.Machine Sys2Proof.Claims

/-- A mapped table at a key: the mapped value, or the default. -/
theorem tab_get_map {α β : Type} (t : Tab α) (f : Nat → α → β) (d : β) (k : Nat) :
    Tab.get (t.map fun e => (e.1, f e.1 e.2)) d k = (t.find k).elim d (f k) := by
  induction t with
  | nil => rfl
  | cons e t ih =>
    obtain ⟨j, x⟩ := e
    rw [List.map_cons, Tab.get, Tab.find]
    by_cases hk : k = j
    · subst hk
      rw [if_pos rfl, if_pos rfl]
      rfl
    · rw [if_neg hk, if_neg hk]
      exact ih

/-- An invalidation leaves no entry that it names in a core's TLB (R178). -/
theorem not_hit_of_invalidate (s : State) (hit : Nat → Nat → Nat → Bool) (n : Nat) {e : TlbEntry}
    (he : e ∈ ((invalidate s hit).core n).tlb) : hit e.ctx e.va e.size = false := by
  rw [State.core, invalidate] at he
  have hget := tab_get_map s.cores (fun _ (x : Core) => { x with
    tlb := x.tlb.filter (fun e => !hit e.ctx e.va e.size), lookups := x.lookups.filter (fun l => !hit l.ctx (l.page * 2 ^ 16) (2 ^ 16)) }) {} n
  dsimp only at he hget
  rw [hget] at he
  cases hfind : s.cores.find n with
  | none => rw [hfind] at he; cases he
  | some x =>
    rw [hfind] at he
    simpa using (List.mem_filter.mp he).2

/-- A CSR below 0x180 that CSRW writes: the quantum (R311). -/
theorem csrWrite_low {n : BitVec 9} (h : n.toNat < 0x180) (s : State) (k : Nat) (x : Word) : csrWrite s k n.toNat x =
    if n = 0x100 ∧ 16 ≤ x.toNat ∧ x.toNat ≤ 30 then s.setClu k { s.clu k with quantum := x.toNat } else s := by
  by_cases hn : n = 0x100
  · subst hn
    refine ite_of_iff ?_ rfl rfl
    rw [Bool.and_eq_true, decide_eq_true_iff, decide_eq_true_iff]
    exact (and_iff_right rfl).symm
  · rw [if_neg fun h => hn h.1]
    unfold csrWrite
    split
    case h_1 heq => exact absurd (BitVec.eq_of_toNat_eq heq) hn
    case h_2 heq => omega
    case h_3 heq => omega
    case h_4 heq => omega
    case h_5 => rfl

theorem csrWrite_high {n : BitVec 9} (h : 0x180 ≤ n.toNat) (s : State) (k : Nat) (x : Word) : csrWrite s k n.toNat x =
    if n = 0x180 then ctxCommand s (x.extractLsb' 8 6).toNat (x.extractLsb' 0 4).toNat
    else if n = 0x182 then queueCommand s (64 * (x.extractLsb' 8 6).toNat + (x.extractLsb' 14 6).toNat) (x.extractLsb' 0 4).toNat
    else if n = 0x183 then streamCommand s (x.extractLsb' 8 8).toNat (x.extractLsb' 0 4).toNat else s := by
  by_cases h0 : n = 0x180
  · subst h0; rfl
  by_cases h2 : n = 0x182
  · subst h2; rfl
  by_cases h3 : n = 0x183
  · subst h3; rfl
  rw [if_neg h0, if_neg h2, if_neg h3]
  unfold csrWrite
  split
  case h_1 heq => omega
  case h_2 heq => exact absurd (BitVec.eq_of_toNat_eq heq) h0
  case h_3 heq => exact absurd (BitVec.eq_of_toNat_eq heq) h2
  case h_4 heq => exact absurd (BitVec.eq_of_toNat_eq heq) h3
  case h_5 => rfl

/-- A privileged register reads 0 at user privilege (R311). -/
theorem csrValue_user {v : View} {s : State} (h : ctxStw s v.st.ctx = false) : csrValue v s 0x100 = 0 ∧ csrValue v s 0x182 = 0 ∧
    csrValue v s 0x183 = 0 := by
  have huser : isSteward s v.st = false := h
  refine ⟨?_, ?_, ?_⟩ <;> simp only [csrValue, huser] <;> rfl

/-- Settles O46. -/
theorem systemRegisters : Obligations.SystemRegisters := by
  refine ⟨fun c d n s => ?csrr, fun v s => ⟨?number, rfl, rfl, rfl, csrValue_user⟩, fun c a n s => ?csrw, fun c sg a s => ?segLd,
    fun c k s => ?tlbInv⟩
  case csrr =>
    intro i v sampling hready
    have hrun : exec i s = run i c s _ := rfl
    have hcond : (decide (n = 4) && v.st.results.any fun p => p.split == v.r.split && p.why == 23) = true ↔ sampling := by
      rw [Bool.and_eq_true, decide_eq_true_iff]
    refine ⟨fun h => waits_of_run hrun hready (if_pos (hcond.mpr h)), fun h => finishes_of_run hrun hready
      ((if_neg (mt hcond.mp h)).trans (congrArg Res.done ?_))⟩
    rw [pend_eq_awaiting]
    rfl
  case number => exact BitVec.eq_of_toNat_eq (by rw [BitVec.toNat_setWidth]; rfl)
  case csrw =>
    intro i v t k hready
    have hrun : exec i s = run i c s _ := rfl
    refine ⟨fun heff => finishes_of_run hrun hready (if_pos heff), fun heff hlow => ?_, fun heff hhigh hreleased => ?_⟩
    · refine finishes_of_run hrun hready ((if_neg heff).trans ((if_neg (Nat.not_le.mpr hlow)).trans (congrArg Res.done ?_)))
      exact csrWrite_low hlow _ _ _
    · obtain ⟨hrel, href⟩ := hreleased
      refine finishes_of_run hrun hready ((if_neg heff).trans ((if_pos hhigh).trans ((releaseThen_over .sys 28 _ hrel href).trans
        (congrArg Res.done ?_))))
      exact csrWrite_high hhigh _ _ _
  case segLd =>
    intro i v t hready
    refine finishes_of_run (c := c) rfl hready ?_
    by_cases heff : v.eff = 0
    · exact (if_pos heff).trans (congrArg Res.done (if_pos heff).symm)
    · exact (if_neg heff).trans (congrArg Res.done (if_neg heff).symm)
  case tlbInv =>
    intro i v t hready
    have hrun : exec i s = run i c s _ := rfl
    refine ⟨fun heff => finishes_of_run hrun hready (if_pos heff), fun heff hstage => ⟨_, ?_, rfl, fun n e he => not_hit_of_invalidate t _ n he⟩,
      fun heff hstage hleft => ?_, fun heff hstage hnone => ?_⟩
    · exact waits_of_run hrun hready ((if_neg heff).trans (if_pos hstage))
    · exact waits_of_run hrun hready ((if_neg heff).trans ((if_neg hstage).trans (if_pos hleft)))
    · exact finishes_of_run hrun hready ((if_neg heff).trans ((if_neg hstage).trans (if_neg (Bool.eq_false_iff.mp hnone))))

end Sys2Proof.Proofs
end

section
/-! PROOFS. Engine commands (O47): the room they wait for, their block, their barrier, and the command that stands behind its core's earlier ones. -/
namespace Sys2Proof.Proofs
set_option Elab.async false

open Sys2Proof Sys2Proof.Machine Sys2Proof.Claims

/-! What every command waits for (R445). -/

theorem withRoom_nothing {v : View} (heff : v.eff = 0) (s : State) (full : Bool) (h : Option (BitVec 4)) (k : State → Res) :
    withRoom v s full h k = .done s := if_pos heff

theorem withRoom_waits {v : View} {s : State} {h : Option (BitVec 4)} (heff : v.eff ≠ 0) (hserial : ¬ SerialFree s v h) (full : Bool)
    (k : State → Res) : withRoom v s full h k = .stay 22 s := by
  obtain ⟨hasked, hheld⟩ := not_or.mp hserial
  have hwait : (full || (h.isSome && serialHeld s (coreCluster v.r.core))) = true := by
    rw [Option.isSome_iff_ne_none.mpr hasked, Bool.not_eq_false _ |>.mp hheld, Bool.and_self, Bool.or_true]
  exact (if_neg heff).trans (if_pos hwait)

theorem withRoom_enters {v : View} {s : State} {h : Option (BitVec 4)} {full : Bool} (heff : v.eff ≠ 0) (hserial : SerialFree s v h)
    (hroom : full = false) (k : State → Res) : withRoom v s full h k = k s := by
  have hgo : ¬ (full || (h.isSome && serialHeld s (coreCluster v.r.core))) = true := by
    rw [hroom, Bool.false_or, Bool.not_eq_true]
    rcases hserial with rfl | hfree
    · rfl
    · rw [hfree, Bool.and_false]
  exact (if_neg heff).trans (if_neg hgo)

/-! The block that a pair names (R473). -/

theorem withBlock_read {v : View} {s s' : State} {x : DWord} {n align : Nat} {p : Place} {bs : List Byte}
    (hblock : BlockRead v s x n align s' p bs) (k : State → Place → List Byte → Res) : withBlock v s x.toNat n align k = k s' p bs := by
  obtain ⟨hok, ⟨ps, hcheck⟩, hload⟩ := hblock
  have hcheck' : v.checkSeg (saddrSeg x.toNat) { n := n, writes := false, spaces := spacesAll, align := align }
      (numbered [saddrOff x.toNat]) = .ready (p :: ps) := hcheck
  rw [withBlock, hok, hcheck']
  simp only [Access.whole, withAccess, hload, Bool.not_true, Bool.false_eq_true, if_false]

/-- Reading a block leaves every split as it was. -/
theorem split_of_blockRead {v : View} {s s' : State} {x : DWord} {n align : Nat} {p : Place} {bs : List Byte}
    (hblock : BlockRead v s x n align s' p bs) (r : SplitRef) : s'.split r = s.split r := by
  obtain ⟨-, -, hload⟩ := hblock
  have hloaded := loaded_loadBytes s v.r.core p.key n p.via
  rw [hload] at hloaded
  exact split_of_loaded hloaded r

/-- Faults dropped from a core's lookups leave every split as it was. -/
theorem split_dropFaults (s : State) (c x : Nat) (pages : List Nat) (r : SplitRef) : (dropFaults s c x pages).split r = s.split r := by
  simp only [dropFaults, State.split, State.strand, State.strandAt]
  by_cases hcore : r.core = c
  · rw [hcore, State.core_setCore]
  · rw [State.core_setCore_ne _ _ hcore]

/-! The barrier that options name (R156, R165, R425). -/

/-- Without a barrier the destination's trap is taken, and nothing of it is asked for. -/
theorem withBarrier_barred {v : View} {opts : Nat} (hopts : opts.testBit 0 = false) (s : State) {t : TrapRec} (hcode : t.code ≠ trapDumpWp)
    (k : State → Option Nat → Res) : withBarrier v s opts (some t) k = .trap t (dropFaults s v.r.core v.st.ctx []) := by
  simp only [withBarrier, hopts, Bool.not_false, if_true]
  exact if_neg hcode

/-! Copy and basin commands. -/

/-- The rules of a function of the copy or basin engine. -/
def copLegal (eng fn : Nat) : EngCmd → Bool := if eng = 0 then xcLegal fn else basLegal fn

theorem exec_of_copyOrBasin {i : Instr} {c : Ctl} {eng fn : Nat} {h : Option (BitVec 4)} {a b : BitVec 5}
    (hi : copyOrBasin i = some (c, eng, fn, h, a, b)) (s : State) :
    exec i s = run i c s fun v s => copIssue v s eng fn h a b (copLegal eng fn) := by
  unfold copyOrBasin at hi
  split at hi <;> cases hi <;> rfl

/-- What a body that asks for room first answers while there is nothing to do or no room (R445). -/
def AsksRoom (h : Option (BitVec 4)) (body : View → State → Res) : Prop :=
  ∀ v s, (v.eff = 0 → body v s = .done s) ∧ (v.eff ≠ 0 → ¬ SerialFree s v h → body v s = .stay 22 s)

/-- Every engine command asks for room first. -/
theorem exec_of_engineCommand {i : Instr} {c : Ctl} {eng : Nat} {h : Option (BitVec 4)} {a b : BitVec 5}
    (hi : engineCommand i = some (c, eng, h, a, b)) (s : State) :
    ∃ body, exec i s = run i c s body ∧ AsksRoom h body := by
  unfold engineCommand at hi
  split at hi
  case h_15 =>
    obtain ⟨⟨c', eng', fn, h', a', b'⟩, hcop, heq⟩ := Option.map_eq_some_iff.mp hi
    cases heq
    exact ⟨_, exec_of_copyOrBasin hcop s, fun v s => ⟨fun heff => withRoom_nothing heff _ _ _ _, fun heff hserial => withRoom_waits heff hserial _ _⟩⟩
  all_goals
    cases hi
    exact ⟨_, rfl, fun v s => ⟨fun heff => withRoom_nothing heff _ _ _ _, fun heff hserial => withRoom_waits heff hserial _ _⟩⟩

/-! A command that enters its core's engine (R74, R445). -/

section
variable {eng fn : Nat} {v : View} {t s' u : State} {h : Option (BitVec 4)} {a b : BitVec 5} {p : Place} {bs : List Byte}

/-- A command as its pairs and its block give it, not yet accepted. -/
def commandOf (v : View) (eng fn : Nat) (a b : BitVec 5) (bs : List Byte) : EngCmd :=
  let q : EngCmd := {
    id := 0, eng := eng, fn := fn, block := bs, opts := v.pairVal b, handle := none, ctx := v.st.ctx, segs := v.st.segs
    scratch := v.st.scratch, blockAt := (v.pairVal a).toNat }
  { q with acc := if eng = 0 ∧ fn = 8 then q.dst % 2 ^ 32 else 0 }

/-- A command that its destination bars: a read-only segment (R165), or hub memory (R425). -/
def Barred (v : View) (s : State) (q : EngCmd) : Prop :=
  (∃ g, q.destSeg = some g ∧ segRo (v.st.segs.get 0 g) = true) ∨ (q.eng = 0 ∧ touchesHub s v.st.ctx q = true)

theorem destTrap_of_barred {q : EngCmd} (hbarred : Barred v s' q) : destTrap s' v q = some { code := trapPerm, lanes := v.eff } := by
  unfold destTrap
  rcases hbarred with ⟨g, hseg, hro⟩ | ⟨heng, hhub⟩
  · rw [hseg]
    exact if_pos (Bool.or_eq_true_iff.mpr (.inl hro))
  · rw [heng, hhub]
    exact if_pos (Bool.or_true _)

theorem destTrap_of_not_barred {q : EngCmd} (hfree : ¬ Barred v s' q) : destTrap s' v q = none := by
  obtain ⟨hro, hhub⟩ := not_or.mp hfree
  unfold destTrap
  refine if_neg fun h => ?_
  rcases Bool.or_eq_true_iff.mp h with h | h
  · cases hseg : q.destSeg with
    | none => rw [hseg] at h; cases h
    | some g => exact hro ⟨g, hseg, by rw [hseg] at h; exact h⟩
  · obtain ⟨heng, htouch⟩ := Bool.and_eq_true_iff.mp h
    exact hhub ⟨beq_iff_eq.mp heng, htouch⟩

/-- What becomes of a command whose block is read. -/
def commandEnds (v : View) (s : State) (eng : Nat) (h : Option (BitVec 4)) (b : BitVec 5) (legal : EngCmd → Bool) (q : EngCmd) : Res :=
  if !legal q then .trap v.illegal s
  else withBarrier v s (v.pairVal b).toNat (destTrap s v q) fun s bar =>
    .done (acceptCmd (grantHandle v s eng h).1 v.r.core { q with bar := bar, handle := (grantHandle v s eng h).2 })

theorem copIssue_read (legal : EngCmd → Bool) (heff : v.eff ≠ 0) (hserial : SerialFree t v h) (hlen : (t.core v.r.core).eng.length < 64)
    (hearly : eng = 1 → t.dev.state ≠ .early) (hblock : BlockRead v t (v.pairVal a) 32 32 s' p bs) :
    copIssue v t eng fn h a b legal = commandEnds v s' eng h b legal (commandOf v eng fn a b bs) := by
  have hroom : ((t.core v.r.core).eng.length ≥ 64 || (eng = 1 && t.dev.state == .early)) = false := by
    simpa [hlen] using hearly
  refine (withRoom_enters heff hserial hroom _).trans ((withBlock_read hblock _).trans ?_)
  simp only [Bool.and_eq_true, decide_eq_true_eq]
  rfl

end

/-- Settles O47. -/
theorem engineCommands : Obligations.EngineCommands := by
  refine ⟨fun i c eng h a b s hi => ?room, fun i c eng fn h a b s s' u p bs bar hi => ?copy⟩
  case room =>
    intro v hready
    obtain ⟨body, hrun, hbody⟩ := exec_of_engineCommand hi s
    obtain ⟨hnone, hwait⟩ := hbody v (entered i s)
    exact ⟨fun heff => finishes_of_run hrun hready (hnone heff), fun heff hserial => waits_of_run hrun hready (hwait heff hserial)⟩
  case copy =>
    intro v t q q' legal hready heff hserial hlen hearly hblock
    have hrun := exec_of_copyOrBasin hi s
    have hread := copIssue_read (fn := fn) (b := b) (copLegal eng fn) heff hserial hlen hearly hblock
    have hlegal : legal = copLegal eng fn (commandOf v eng fn a b bs) := (apply_ite (fun f : EngCmd → Bool => f q') (eng = 0) _ _).symm
    refine ⟨fun hbad => ?_, fun hgood hbarred hopts => ?_, fun hgood hfree hbar => ?_⟩
    · refine traps_of_run hrun hready (hread.trans (if_pos ?_)) (congrArg Split.running (split_of_blockRead hblock _))
      rw [← hlegal, hbad]
      rfl
    · have hgo := not_not_of_true (hlegal.symm.trans hgood)
      refine traps_of_run hrun hready (hread.trans ((if_neg hgo).trans ?_)) (congrArg Split.running
        ((split_dropFaults _ _ _ _ _).trans (split_of_blockRead hblock _)))
      rw [destTrap_of_barred (q := commandOf v eng fn a b bs) hbarred]
      exact withBarrier_barred hopts s' (by show (0x06 : Nat) ≠ trapDumpWp; decide) _
    · have hgo := not_not_of_true (hlegal.symm.trans hgood)
      refine ⟨_, _, finishes_of_run hrun hready (hread.trans ((if_neg hgo).trans ?_)), rfl, rfl⟩
      rw [destTrap_of_not_barred (q := commandOf v eng fn a b bs) hfree]
      exact hbar _

end Sys2Proof.Proofs
end

section
/-! PROOFS. Tier commands (O48). -/
namespace Sys2Proof.Proofs
set_option Elab.async false

open Sys2Proof Sys2Proof.Machine Sys2Proof.Claims

/-! The pairs of a tier command (R479). -/

theorem toNat_extractLsb' (x : DWord) (o n : Nat) : (x.extractLsb' o n).toNat = x.toNat / 2 ^ o % 2 ^ n := by
  rw [BitVec.extractLsb'_toNat, Nat.shiftRight_eq_div_pow]

theorem extractLsb'_eq_zero (x : DWord) (o n : Nat) : (x.extractLsb' o n == 0) = (x.toNat / 2 ^ o % 2 ^ n == 0) := by
  rw [Bool.eq_iff_iff, beq_iff_eq, beq_iff_eq, ← toNat_extractLsb', ← BitVec.toNat_inj]
  rfl

/-- What a tier command on a tid comes to once there is room. -/
def tierAskedEnds (v : View) (s : State) (h : Option (BitVec 4)) (tid : Nat) (legal : Bool) (act : BitVec 512 → Option TierAct) : Res :=
  if !legal then .trap v.illegal s
  else match tierNamed s v.st.ctx tid with
    | .error code => .trap { code := code, lanes := v.eff } s
    | .ok t => (act t.entry).elim (.trap v.illegal s) fun x => sendTier v s h (cfgHome t.block) tid x

theorem tierCommand_enters {v : View} {s : State} {h : Option (BitVec 4)} {b tid : Nat} {ok legal : Bool} {act : BitVec 512 → Option TierAct}
    (heff : v.eff ≠ 0) (hserial : SerialFree s v h) (hlegal : legal = (ok && b == 0 && decide (tid < 1024))) :
    tierCommand v s h b tid ok act = tierAskedEnds v s h tid legal act := by
  have hnot : (!ok || b != 0 || decide (tid > 1023)) = !legal := by
    rw [hlegal, Bool.not_and, Bool.not_and, ← decide_not, bne]
    congr 2
    exact propext (by omega)
  refine (withRoom_enters heff hserial rfl _).trans ?_
  rw [hnot, tierAskedEnds]
  congr 1
  cases tierNamed s v.st.ctx tid with
  | error code => rfl
  | ok t =>
    dsimp only
    cases act t.entry <;> rfl

theorem pairVal_eq_zero (x : DWord) : (x == 0) = (x.toNat == 0) := by
  rw [Bool.eq_iff_iff, beq_iff_eq, beq_iff_eq, ← BitVec.toNat_inj]
  rfl

/-- The tier commands on a tid, by what each asks for. -/
theorem exec_of_tierAsked {i : Instr} {c : Ctl} {h : Option (BitVec 4)} {tid : Nat} {legal : Bool} {act : BitVec 512 → Option TierAct}
    {v : View} (hi : tierAsked i v = some (c, h, tid, legal, act)) (s t : State) (heff : v.eff ≠ 0) (hserial : SerialFree t v h) :
    ∃ body, exec i s = run i c s body ∧ body v t = tierAskedEnds v t h tid legal act := by
  unfold tierAsked at hi
  split at hi
  case h_1 c h a b =>
    cases hi
    refine ⟨_, rfl, tierCommand_enters heff hserial ?_⟩
    rw [pairVal_eq_zero, Bool.true_and, Bool.and_comm]
  case h_2 c h a b =>
    cases hi
    refine ⟨_, rfl, tierCommand_enters heff hserial ?_⟩
    rw [pairVal_eq_zero, Bool.true_and, Bool.and_comm]
  case h_3 c h a b =>
    have hx := (v.pairVal a).isLt
    cases hi
    simp only [toNat_extractLsb', extractLsb'_eq_zero, Nat.pow_zero, Nat.div_one]
    refine ⟨fun v s => _, rfl, tierCommand_enters heff hserial ?_⟩
    have hhigh : (v.pairVal a).toNat / 2 ^ 21 % 2 ^ 43 = (v.pairVal a).toNat / 2 ^ 21 := Nat.mod_eq_of_lt (by omega)
    have htid : (v.pairVal a).toNat % 2 ^ 10 < 1024 := Nat.mod_lt _ (by decide)
    rw [pairVal_eq_zero, hhigh, decide_eq_true htid, Bool.and_true] <;> rfl
  case h_4 c h a b =>
    have hx := (v.pairVal a).isLt
    cases hi
    simp only [toNat_extractLsb', extractLsb'_eq_zero, Nat.pow_zero, Nat.div_one]
    have hpin : (v.pairVal a).toNat / 2 ^ 32 % 2 ^ 32 = (v.pairVal a).toNat / 2 ^ 32 := Nat.mod_eq_of_lt (by omega)
    have htid : (v.pairVal a).toNat % 2 ^ 10 < 1024 := Nat.mod_lt _ (by decide)
    rw [hpin]
    refine ⟨fun v s => _, rfl, tierCommand_enters heff hserial ?_⟩
    have hrows : (decide (1 ≤ (v.pairVal b).toNat) && decide ((v.pairVal b).toNat < 2 ^ 32)) =
        ((v.pairVal b).toNat / 2 ^ 32 == 0 && (v.pairVal b).toNat != 0) := by
      rw [Bool.eq_iff_iff]
      simp only [Bool.and_eq_true, decide_eq_true_eq, beq_iff_eq, bne_iff_ne]
      omega
    simp only [htid, decide_true, beq_self_eq_true, Bool.and_true, Bool.and_assoc, hrows] <;> rfl
  case h_5 => cases hi

/-- An operation that has its turn at its tid's home (R199, R528). -/
abbrev turned (v : View) (s : State) (home : Nat) : State := arbiterServe s home v.st.ctx 5 0 v.r.core v.st.number.toNat

theorem sendTier_turn {v : View} {s : State} {home : Nat} (hturn : tierHasTurn s v home) (h : Option (BitVec 4)) (tid : Nat) (act : TierAct) :
    sendTier v s h home tid act = .done (tierArrive (grantHandle v (turned v s home) 2 h).1 v.st.ctx tid
      (.cmd { act := act, handle := (grantHandle v (turned v s home) 2 h).2, dev := v.st.segs.get 0 3 })) :=
  if_neg (not_not_of_true hturn)

/-- What TIER.CFG comes to once its block is read (R198, R199). -/
def cfgEnds (v : View) (s : State) (h : Option (BitVec 4)) (x : BitVec 512) : Res :=
  if !cfgLegal s v.st.ctx x then .done (answered1 s v 2 h 3 0)
  else if tierBound s v.st.ctx (cfgTid x) then sendTier v s h (cfgHome x) (cfgTid x) (.cfg x)
  else tierTurn v s (cfgHome x) fun s =>
    if cfgUnb x then .done (answered1 s v 2 h 0 0)
    else .done ((grantHandle v s 2 h).1.setTier v.st.ctx (cfgTid x)
      {
        state := .refreshing, block := x, entry := tidOf (grantHandle v s 2 h).1 v.st.ctx (cfgTid x)
        waiting := [.cmd { act := .cfg x, handle := (grantHandle v s 2 h).2, dev := v.st.segs.get 0 3 }] })

/-- Settles O48. -/
theorem tierCommands : Obligations.TierCommands := by
  refine ⟨fun i c h tid legal act s => ?onTid, fun c h a b s s' p bs => ?cfg⟩
  case onTid =>
    intro v t hi hready heff hserial
    obtain ⟨body, hrun, hbody⟩ := exec_of_tierAsked hi s t heff hserial
    refine ⟨fun hbad => traps_of_run_entered hrun hready (hbody.trans (if_pos (by rw [hbad]; rfl))), fun code hgood hnamed =>
      traps_of_run_entered hrun hready (hbody.trans ((if_neg (not_not_of_true hgood)).trans ?_)), fun ti x hgood hnamed hact hturn =>
      finishes_of_run hrun hready (hbody.trans ((if_neg (not_not_of_true hgood)).trans ?_))⟩
    · rw [hnamed]
    · simp only [hnamed, hact]
      exact sendTier_turn hturn h tid x
  case cfg =>
    intro i v x served hready heff hserial hpair hblock
    have hends : ∀ u, cfgEnds v s' h x = .done u → Finishes i s u := fun u hu => finishes_of_run rfl hready
      ((withRoom_enters heff hserial rfl _).trans ((if_neg fun hne => absurd hpair (bne_iff_ne.mp hne)).trans ((withBlock_read hblock _).trans hu)))
    refine ⟨fun hbad => hends _ (if_pos (by rw [hbad]; rfl)), fun hgood hturn hbound => hends _ ?_, fun hgood hturn hbound hunb => hends _ ?_,
      fun hgood hturn hbound hunb => hends _ ?_⟩
    · exact (if_neg (not_not_of_true hgood)).trans ((if_pos hbound).trans (sendTier_turn hturn h (cfgTid x) (.cfg x)))
    · exact (if_neg (not_not_of_true hgood)).trans ((if_neg (Bool.eq_false_iff.mp hbound)).trans
        ((if_neg (not_not_of_true hturn)).trans (if_pos hunb)))
    · exact (if_neg (not_not_of_true hgood)).trans ((if_neg (Bool.eq_false_iff.mp hbound)).trans
        ((if_neg (not_not_of_true hturn)).trans (if_neg (Bool.eq_false_iff.mp hunb))))

end Sys2Proof.Proofs
end

section
/-! PROOFS. Presentation, trace and steward commands (O49). -/
namespace Sys2Proof.Proofs
set_option Elab.async false

open Sys2Proof Sys2Proof.Machine Sys2Proof.Claims

/-! Commands of the presentation engine (R480). -/

section
variable {v : View} {s w : State} {h : Option (BitVec 4)} {n : Nat}

/-- A stream that is unbound or another context's (R228). -/
theorem streamGood_iff : streamGood v s n = true ↔ (s.stream n).bound = true ∧ streamCtx s n = v.st.ctx := by
  rw [streamGood, Bool.and_eq_true, beq_iff_eq]

/-- PRS.DRAW once its block is read: its prefixes, and what they come to. -/
def drawEnds (v : View) (h : Option (BitVec 4)) (x : BitVec 512) : State × Except HomeFail (BitVec 1024 × BitVec 1024) → Res
  | (s, .error .held) => .stay 22 s
  | (s, .error _) => .done (answered1 s v 3 h 3 0)
  | (s, .ok pre) => .done (startDraw (grantHandle v s 3 h).1 v.st.ctx x pre none (grantHandle v s 3 h).2)

theorem drawPrefixes_bad {x : BitVec 512} (hbad : (s.stream (drawStream x)).bound = false ∨ streamCtx s (drawStream x) ≠ v.st.ctx) :
    drawPrefixes s v.st.ctx x = (s, .error .fault) := by
  refine if_pos ?_
  rcases hbad with hbad | hbad
  · rw [hbad]; rfl
  · rw [bne_iff_ne.mpr hbad, Bool.or_true]

/-- PRS.FRAME's matrix is known: its stream's frame closes, or FAULT. -/
def frameEnds (v : View) (s : State) (h : Option (BitVec 4)) (n : Nat) (m : List Word) : Res :=
  if n ≥ 256 then .trap v.illegal s
  else if !streamGood v s n then prsAnswer v s h 3 0
  else prsTake v s h fun s hd =>
    let s := openPanel s n
    let x := s.stream n
    let s := s.setStream n { x with xform := m, closes := x.closes ++ [{ handle := hd, xform := m, draws := x.draws }] }
    settleCloses s n (x.closes.length + 1)

theorem frameEnds_done (hn : n < 256) (m : List Word) : frameEnds v s h n m = .done
    (if (s.stream n).bound ∧ streamCtx s n = v.st.ctx then
      settleCloses ((openPanel (grantHandle v s 3 h).1 n).setStream n { (openPanel (grantHandle v s 3 h).1 n).stream n with
        xform := m, closes := ((openPanel (grantHandle v s 3 h).1 n).stream n).closes ++ [{
          handle := (grantHandle v s 3 h).2, xform := m, draws := ((openPanel (grantHandle v s 3 h).1 n).stream n).draws }] }) n
        (((openPanel (grantHandle v s 3 h).1 n).stream n).closes.length + 1)
      else answered1 s v 3 h 3 0) := by
  refine (if_neg (Nat.not_le.mpr hn)).trans ?_
  by_cases hgood : streamGood v s n = true
  · exact (if_neg (not_not_of_true hgood)).trans (congrArg Res.done (if_pos (streamGood_iff.mp hgood)).symm)
  · exact (if_pos (by simpa using hgood)).trans (congrArg Res.done (if_neg fun h => hgood (streamGood_iff.mpr h)).symm)

/-- An output on demand, written or not. -/
def outputEnds (v : View) (h : Option (BitVec 4)) (n : Nat) (res : Nat) (after : State → Nat → State) : State × Option HomeFail → Res
  | (s, some .held) => .stay 22 s
  | (s, some _) => .done (answered1 s v 3 h 3 0)
  | (s, none) => .done (after (answered1 s v 3 h 0 (BitVec.ofNat 32 res)) n)

/-- A command on demand whose pairs are in order (R480). -/
def demandEnds (v : View) (s : State) (h : Option (BitVec 4)) (n : Nat) (refuse : Bool) (pic : Option Picture) (res : Nat)
    (after : State → Nat → State) : Res :=
  if !streamGood v s n || streamField s n 832 32 != 0 || refuse then .done (answered1 s v 3 h 3 0)
  else pic.elim (.done (answered1 s v 3 h 0 (BitVec.ofNat 32 res))) fun p =>
    outputEnds v h n res after (writePicture s n { pic := p, tick := s.globalTick })

/-- Whether a command on demand may show: a stream of the strand's context without a period. -/
def MayShow (v : View) (s : State) (n : Nat) (refuse : Bool) : Prop :=
  (s.stream n).bound = true ∧ streamCtx s n = v.st.ctx ∧ streamField s n 832 32 = 0 ∧ refuse = false

theorem mayShow_iff {refuse : Bool} :
    (!streamGood v s n || streamField s n 832 32 != 0 || refuse) = false ↔ MayShow v s n refuse := by
  rw [MayShow, ← and_assoc, ← streamGood_iff, Bool.or_eq_false_iff, Bool.or_eq_false_iff, Bool.not_eq_false', bne_eq_false_iff_eq, and_assoc]

theorem demandEnds_refused {refuse : Bool} (hbad : ¬ MayShow v s n refuse) (pic : Option Picture) (res : Nat)
    (after : State → Nat → State) : demandEnds v s h n refuse pic res after = .done (answered1 s v 3 h 3 0) :=
  if_pos (Bool.not_eq_false _ |>.mp fun hmay => hbad (mayShow_iff.mp hmay))

theorem demandEnds_nothing {refuse : Bool} (hmay : MayShow v s n refuse) (res : Nat)
    (after : State → Nat → State) : demandEnds v s h n refuse none res after = .done (answered1 s v 3 h 0 (BitVec.ofNat 32 res)) :=
  if_neg (Bool.eq_false_iff.mp (mayShow_iff.mpr hmay))

theorem demandEnds_written {refuse : Bool} {p : Picture} {u : State × Option HomeFail} (hmay : MayShow v s n refuse)
    (hwrite : writePicture s n { pic := p, tick := s.globalTick } = u) (res : Nat) (after : State → Nat → State) :
    demandEnds v s h n refuse (some p) res after = outputEnds v h n res after u :=
  (if_neg (Bool.eq_false_iff.mp (mayShow_iff.mpr hmay))).trans (congrArg (outputEnds v h n res after) hwrite)

theorem prsOnDemand_enters {a b : BitVec 5} {refuse : Nat → Bool} {pic : Nat → Option Picture} {res : Nat → Nat}
    {after : State → Nat → State} (heff : v.eff ≠ 0) (hserial : SerialFree s v h) (hn : (v.pairVal a).toNat < 256) (hpair : v.pairVal b = 0) :
    prsOnDemand v s h a b refuse pic res after =
      demandEnds v s h (v.pairVal a).toNat (refuse (v.pairVal a).toNat) (pic (v.pairVal a).toNat) (res (v.pairVal a).toNat) after := by
  have hpairs : ¬ ((v.pairVal a).toNat ≥ 256 || v.pairVal b != 0) = true := by
    rw [hpair, decide_eq_false (Nat.not_le.mpr hn)]
    decide
  refine (withRoom_enters heff hserial rfl _).trans ((if_neg hpairs).trans ?_)
  rw [demandEnds]
  congr 1
  cases pic (v.pairVal a).toNat with
  | none => rfl
  | some p =>
    dsimp only [Option.elim]
    rcases writePicture s (v.pairVal a).toNat { pic := p, tick := s.globalTick } with ⟨u, _ | _ | _⟩ <;> rfl

end

/-! The commands as runs of what they come to. -/

section
variable (c : Ctl) (h : Option (BitVec 4)) (a b : BitVec 5) (s : State)

theorem exec_prsDraw : exec (.prsDraw c h a b) s = run (.prsDraw c h a b) c s fun v s => withRoom v s false h fun s =>
    withBlock v s (v.pairVal a).toNat 64 16 fun s _ bs =>
      if v.pairVal b != 0 || !drawLegal (BitVec.ofNat 512 (leNat bs)) then .trap v.illegal s
      else drawEnds v h (BitVec.ofNat 512 (leNat bs)) (drawPrefixes s v.st.ctx (BitVec.ofNat 512 (leNat bs))) := rfl

theorem exec_prsFrame : exec (.prsFrame c h a b) s = run (.prsFrame c h a b) c s fun v s => withRoom v s false h fun s =>
    if v.pairVal b = 0 then frameEnds v s h (v.pairVal a).toNat identity4
    else withBlock v s (v.pairVal b).toNat 64 64 fun s _ bs =>
      frameEnds v s h (v.pairVal a).toNat ((List.range 16).map fun i => BitVec.ofNat 32 (leNat ((bs.drop (4 * i)).take 4))) := rfl

/-- STW.KEYSPILL with pairs in order: what moving a context's keys comes to (R482). -/
def spillEnds (v : View) (h : Option (BitVec 4)) : State × Option (Nat × Word) → Res
  | (s, none) => .stay 22 s
  | (s, some (status, word)) => .done (answered1 s v 15 h status word)

/-- STW.DUMP with pairs in order: the read of its buffer's length (R482, R527). -/
def dumpEnds (s : State) (x buf : Nat) (hd : Option DWord) : State × Except HomeFail (List Byte × Bool) → Res
  | (_, .error .held) => .stay 22 s
  | (s, .error _) => .done (completeHandle s hd 3 0)
  | (s, .ok (bs, _)) => .done (beginDump s x (some buf) (leNat bs) hd)

theorem exec_stwKeyspill : exec (.stwKeyspill c h a b) s = run (.stwKeyspill c h a b) c s fun v s => withRoom v s false h fun s =>
    if (v.pairVal a).toNat ≥ 2 ^ 48 || (v.pairVal a).toNat % 4096 != 0 || (v.pairVal b).toNat / 32 % 8 != 0 ||
        (v.pairVal b).toNat / 2 ^ 14 != 0 || !((v.pairVal b).toNat % 32 == 0 || (10 ≤ (v.pairVal b).toNat % 32 &&
          (v.pairVal b).toNat % 32 ≤ 26)) then .trap v.illegal s
    else if (s.ctx ((v.pairVal b).toNat / 2 ^ 8 % 64)).state == .free || (s.ctx ((v.pairVal b).toNat / 2 ^ 8 % 64)).state == .dead then
      .done (answered1 s v 15 h 3 0)
    else spillEnds v h (moveSpill s ((v.pairVal b).toNat / 2 ^ 8 % 64) (v.pairVal a).toNat ((v.pairVal b).toNat % 32)) := rfl

theorem exec_stwDump : exec (.stwDump c h a b) s = run (.stwDump c h a b) c s fun v s => withRoom v s false h fun s =>
    if (v.pairVal a).toNat ≥ 64 || (v.pairVal b).toNat ≥ 2 ^ 48 || (v.pairVal b).toNat % 4096 != 0 then .trap v.illegal s
    else if !((s.ctx (v.pairVal a).toNat).state == .active || (s.ctx (v.pairVal a).toNat).state == .suspended ||
        (s.ctx (v.pairVal a).toNat).state == .faulted) then
      .done (completeHandle (grantHandle v s 15 h).1 (grantHandle v s 15 h).2 3 0)
    else dumpEnds s (v.pairVal a).toNat (v.pairVal b).toNat (grantHandle v s 15 h).2
      (agentRead (grantHandle v s 15 h).1 (hostKey (v.pairVal b).toNat) {} true 2 8) := rfl

end

/-! What follows once a command has room. -/

section
variable {i : Instr} {c : Ctl} {s u : State} {r : Res}

/-- The instruction comes to an answer of its body. -/
def ComesTo (i : Instr) (s : State) (r : Res) : Prop := exec i s = .next (settle (entered i s) s.pick.ref r)

theorem comesTo_of_room {h : Option (BitVec 4)} {k : View → State → Res} (hrun : exec i s = run i c s fun v s => withRoom v s false h (k v))
    (hready : Ready i c s) (heff : (seen i c s).eff ≠ 0) (hserial : SerialFree (entered i s) (seen i c s) h) :
    ComesTo i s (k (seen i c s) (entered i s)) :=
  (exec_of_ready hrun hready).trans (by rw [withRoom_enters heff hserial rfl])

theorem ComesTo.finishes (hto : ComesTo i s r) (hr : r = .done u) : Finishes i s u := by subst hr; exact hto

theorem ComesTo.waits {why : Nat} (hto : ComesTo i s r) (hr : r = .stay why u) : Waits i s why u := by subst hr; exact hto

theorem ComesTo.traps {x : TrapRec} (hto : ComesTo i s r) (hr : r = .trap x (entered i s)) : Traps i s x (entered i s) := by subst hr; exact hto

end

theorem comesTo_of_demand {i : Instr} {c : Ctl} {s : State} {h : Option (BitVec 4)} {a b : BitVec 5} {refuse : State → Nat → Bool}
    {pic : State → Nat → Option Picture} {res : State → Nat → Nat} {after : State → Nat → State}
    (hrun : exec i s = run i c s fun v s => prsOnDemand v s h a b (refuse s) (pic s) (res s) after) (hready : Ready i c s)
    (heff : (seen i c s).eff ≠ 0) (hserial : SerialFree (entered i s) (seen i c s) h) (hn : ((seen i c s).pairVal a).toNat < 256)
    (hpair : (seen i c s).pairVal b = 0) :
    ComesTo i s (demandEnds (seen i c s) (entered i s) h ((seen i c s).pairVal a).toNat (refuse (entered i s) ((seen i c s).pairVal a).toNat)
      (pic (entered i s) ((seen i c s).pairVal a).toNat) (res (entered i s) ((seen i c s).pairVal a).toNat) after) :=
  (exec_of_ready hrun hready).trans (by rw [prsOnDemand_enters heff hserial hn hpair])

/-- A trace command whose pairs are in order is accepted (R481); one whose pairs are not traps. -/
theorem comesTo_of_trace {i : Instr} {c : Ctl} {s : State} {h : Option (BitVec 4)} {legal : View → Bool}
    {go : View → State → Option DWord → State} (hrun : exec i s = run i c s fun v s => trcAccept v s h (legal v) (go v)) (hready : Ready i c s)
    (heff : (seen i c s).eff ≠ 0) (hserial : SerialFree (entered i s) (seen i c s) h) :
    ComesTo i s (if !legal (seen i c s) then .trap (seen i c s).illegal (entered i s)
      else .done (go (seen i c s) (grantHandle (seen i c s) (entered i s) 4 h).1 (grantHandle (seen i c s) (entered i s) 4 h).2)) :=
  comesTo_of_room hrun hready heff hserial

/-- The pairs of STW.KEYSPILL that its rules allow (R482). -/
theorem spillPairs_legal {x y : DWord} (hbase : x.toNat < 2 ^ 48) (halign : x.extractLsb' 0 12 = 0) (hfield : y.extractLsb' 5 3 = 0)
    (hhigh : y.extractLsb' 14 50 = 0) (hsize : y.toNat % 32 = 0 ∨ (10 ≤ y.toNat % 32 ∧ y.toNat % 32 ≤ 26)) :
    (decide (x.toNat ≥ 2 ^ 48) || x.toNat % 4096 != 0 || y.toNat / 32 % 8 != 0 || y.toNat / 2 ^ 14 != 0 ||
      !(y.toNat % 32 == 0 || (decide (10 ≤ y.toNat % 32) && decide (y.toNat % 32 ≤ 26)))) = false := by
  have hy := y.isLt
  have hal := congrArg BitVec.toNat halign
  have hfi := congrArg BitVec.toNat hfield
  have hhi := congrArg BitVec.toNat hhigh
  rw [toNat_extractLsb'] at hal hfi hhi
  simp only [BitVec.ofNat_eq_ofNat, BitVec.toNat_ofNat, Nat.zero_mod] at hal hfi hhi
  simp only [Bool.or_eq_false_iff, decide_eq_false_iff_not, bne_eq_false_iff_eq, Bool.not_eq_false', Bool.or_eq_true, Bool.and_eq_true,
    decide_eq_true_eq, beq_iff_eq]
  omega

/-- Settles O49. -/
theorem presentTraceSteward : Obligations.PresentTraceSteward := by
  refine ⟨fun c h a b s s' p bs => ?draw, fun c h a b s s' p bs => ?frame, fun c h a b s => ?present, fun c h a b s => ?reproj,
    fun c h a b s => ?mark, fun c h a b s => ?flush, fun c h a b s => ?sample, fun c h a b s => ?keyspill, fun c h a b s => ?dump⟩
  case draw =>
    intro i v x bad hready heff hserial hblock hpair hlegal
    have hto := comesTo_of_room (exec_prsDraw c h a b s) hready heff hserial
    rw [withBlock_read hblock, if_neg (by rw [hpair, hlegal]; decide)] at hto
    refine ⟨fun hbad => hto.finishes (congrArg (drawEnds v h x) (drawPrefixes_bad hbad)), fun w pre hpre => hto.finishes (congrArg _ hpre),
      fun w f hpre hf => hto.finishes ((congrArg _ hpre).trans ?_), fun w hpre => hto.waits (congrArg _ hpre)⟩
    cases f
    case held => exact absurd rfl hf
    all_goals rfl
  case frame =>
    intro i v n base m u w hready heff hserial hn hblock
    have hto := comesTo_of_room (exec_prsFrame c h a b s) hready heff hserial
    refine hto.finishes ?_
    by_cases hb : v.pairVal b = 0
    · have hbase : base = entered i s := if_pos hb
      have hm : m = identity4 := if_pos hb
      simp only [w, u, hbase, hm]
      exact (if_pos hb).trans (frameEnds_done hn identity4)
    · have hbase : base = s' := if_neg hb
      have hm : m = _ := if_neg hb
      simp only [w, u, hbase, hm]
      exact (if_neg hb).trans ((withBlock_read (hblock hb) _).trans (frameEnds_done hn _))
  case present =>
    intro i v t n good hready heff hserial hn hpair
    have hrun : exec i s = run i c s fun v s => prsOnDemand v s h a b (fun _ => false) (fun n => (s.stream n).closed.map .frame)
      (fun n => frameWord (s.stream n).closed) showClosed := rfl
    have hto : ComesTo i s (demandEnds v t h n false ((t.stream n).closed.map .frame) (frameWord (t.stream n).closed) showClosed) :=
      comesTo_of_demand hrun hready heff hserial hn hpair
    have hmay : MayShow v t n false ↔ good := by simp only [MayShow, good, and_true]
    refine ⟨fun hbad => hto.finishes (demandEnds_refused (mt hmay.mp hbad) _ _ _), fun hgood hnone => hto.finishes ?_,
      fun f w hgood hframe hwrite => hto.finishes ?_, fun f w x hgood hframe hwrite => ?_⟩
    · simp only [hnone]
      exact demandEnds_nothing (hmay.mpr hgood) _ _
    · simp only [hframe]
      exact demandEnds_written (hmay.mpr hgood) hwrite _ _
    · simp only [hframe] at hto
      have hto : ComesTo i s (outputEnds v h n f.no showClosed (w, some x)) := demandEnds_written (hmay.mpr hgood) hwrite _ _ ▸ hto
      cases x
      case held => exact hto
      all_goals exact hto
  case reproj =>
    intro i v t n good job hready heff hserial hn hpair
    have hrun : exec i s = run i c s fun v s => prsOnDemand v s h a b (fun n => streamField s n 964 1 == 0)
      (fun n => some (reprojection (s.stream n) 1)) (fun n => frameWord (s.stream n).shown) (fun s _ => s) := rfl
    have hto : ComesTo i s (demandEnds v t h n (streamField t n 964 1 == 0) (some (reprojection (t.stream n) 1))
      (frameWord (t.stream n).shown) fun s _ => s) := comesTo_of_demand hrun hready heff hserial hn hpair
    have hmay : MayShow v t n (streamField t n 964 1 == 0) ↔ good := by simp only [MayShow, good, beq_eq_false_iff_ne]
    refine ⟨fun hbad => hto.finishes (demandEnds_refused (mt hmay.mp hbad) _ _ _), fun w hgood hwrite => hto.finishes ?_,
      fun w x hgood hwrite => ?_⟩
    · refine (demandEnds_written (hmay.mpr hgood) hwrite _ _).trans (congrArg Res.done (congrArg _ ?_))
      cases (t.stream n).shown <;> rfl
    · have hto : ComesTo i s (outputEnds v h n (frameWord (t.stream n).shown) (fun s _ => s) (w, some x)) :=
        demandEnds_written (hmay.mpr hgood) hwrite _ _ ▸ hto
      cases x
      case held => exact hto
      all_goals exact hto
  case mark =>
    intro i v u hready heff hserial htag hpair
    have hrun : exec i s = run i c s fun v s => trcAccept v s h ((v.pairVal a).toNat < 2 ^ 32 && v.pairVal b == 0) _ := rfl
    refine (comesTo_of_trace hrun hready heff hserial).finishes (if_neg (not_not_of_true ?_))
    exact Bool.and_eq_true_iff.mpr ⟨decide_eq_true htag, beq_iff_eq.mpr hpair⟩
  case flush =>
    intro i v u k x hready heff hserial hpairA hpairB
    have hrun : exec i s = run i c s fun v s => trcAccept v s h (v.pairVal a == 0 && v.pairVal b == 0) _ := rfl
    refine (comesTo_of_trace hrun hready heff hserial).finishes ((if_neg (not_not_of_true ?_)).trans ?_)
    · exact Bool.and_eq_true_iff.mpr ⟨beq_iff_eq.mpr hpairA, beq_iff_eq.mpr hpairB⟩
    · rfl
  case sample =>
    intro i v u k j hready heff hserial hpair
    have hrun : exec i s = run i c s fun v s => trcAccept v s h
      (((v.pairVal a).toNat == 0 || (8 ≤ (v.pairVal a).toNat && (v.pairVal a).toNat ≤ 30)) && v.pairVal b == 0) _ := rfl
    have hto := comesTo_of_trace hrun hready heff hserial
    have hlegal : ((j == 0 || (decide (8 ≤ j) && decide (j ≤ 30))) && v.pairVal b == 0) = true ↔ j = 0 ∨ (8 ≤ j ∧ j ≤ 30) := by
      simp [hpair]
    refine ⟨fun hgood => hto.finishes (if_neg (not_not_of_true (hlegal.mpr hgood))), fun hbad => hto.traps (if_pos ?_)⟩
    exact (Bool.not_eq_true' _).mpr (Bool.eq_false_iff.mpr fun hgood => absurd (hlegal.mp hgood) (by omega))
  case keyspill =>
    intro i v t size x hready heff hserial hbase halign hfield hhigh hsize none_
    have hto := comesTo_of_room (exec_stwKeyspill c h a b s) hready heff hserial
    have hsz : (v.pairVal b).toNat % 32 = size := by
      have hcut := toNat_extractLsb' (v.pairVal b) 0 5
      rw [Nat.pow_zero, Nat.div_one] at hcut
      exact hcut.symm
    have hx : (v.pairVal b).toNat / 2 ^ 8 % 64 = x := (toNat_extractLsb' (v.pairVal b) 8 6).symm
    rw [spillPairs_legal hbase halign hfield hhigh (hsz ▸ hsize), if_neg Bool.false_ne_true, hsz, hx] at hto
    have hnone : ((t.ctx x).state == .free || (t.ctx x).state == .dead) = true ↔ none_ := by
      simp only [none_, Bool.or_eq_true, beq_iff_eq]
    exact ⟨fun h => hto.finishes (if_pos (hnone.mpr h)), fun w status word h hmove => hto.finishes ((if_neg (mt hnone.mp h)).trans
      (congrArg (spillEnds v _) hmove)), fun w h hmove => hto.waits ((if_neg (mt hnone.mp h)).trans (congrArg (spillEnds v _) hmove))⟩
  case dump =>
    intro i v t x buf u may hready heff hserial hx hbuf halign
    have hto := comesTo_of_room (exec_stwDump c h a b s) hready heff hserial
    have hpairs : ¬ (decide (x ≥ 64) || decide (buf ≥ 2 ^ 48) || buf % 4096 != 0) = true := by
      simp only [Bool.or_eq_true, decide_eq_true_eq, bne_iff_ne]
      omega
    rw [if_neg hpairs] at hto
    have hmay : (!((t.ctx x).state == .active || (t.ctx x).state == .suspended || (t.ctx x).state == .faulted)) = true ↔ ¬ may := by
      simp only [may, Bool.not_eq_true', Bool.eq_false_iff, ne_eq, Bool.or_eq_true, beq_iff_eq, or_assoc]
    refine ⟨fun hbad => hto.finishes (if_pos (hmay.mpr hbad)), fun w hmay' hread => hto.waits ?_, fun w f hmay' hread hf => hto.finishes ?_,
      fun w bs ce hmay' hread => hto.finishes ?_⟩
    all_goals refine (if_neg fun hnot => hmay.mp hnot hmay').trans ((congrArg (dumpEnds t x buf u.2) hread).trans ?_)
    · rfl
    · cases f
      case held => exact absurd rfl hf
      all_goals rfl
    · rfl

end Sys2Proof.Proofs
end

section
/-! PROOFS. Engine steps (O50): reading, writing and counting of commands; packets at a base die and their replies. -/
namespace Sys2Proof.Proofs
set_option Elab.async false

open Sys2Proof Sys2Proof.Machine Sys2Proof.Claims

/-! Reading the next unit or piece (R74, R194). -/

section
variable {s : State} {q : EngCmd}

theorem engineRead_copy (hat : AtCommand s q) (hgo : q.stopped = false) (hmore : q.rpos < q.total) (hcopy : q.eng ≠ 1) :
    (∀ u, q.nextUnit s s.pick.a = .got u → exec .engineRead s = .next (setCmd s s.pick.a s.pick.b (q.took s.pick.a u))) ∧
    (q.nextUnit s s.pick.a = .fault → q.units = [] → q.out = 0 →
      exec .engineRead s = .next (setCmd s s.pick.a s.pick.b (q.stop 3 q.rpos))) ∧
    (q.nextUnit s s.pick.a = .guard → q.units = [] → q.out = 0 →
      exec .engineRead s = .next (setCmd s s.pick.a s.pick.b (q.stop 5 q.rpos))) ∧
    (∀ page, q.nextUnit s s.pick.a = .ask page → exec .engineRead s = .next (askPages s s.pick.a q.ctx [page])) ∧
    (∀ key via, q.nextUnit s s.pick.a = .need key via → s.pkts.any (fun p => p.kind == .rd && p.back == .cmd s.pick.a q.id (keyAddr key)) = false →
      exec .engineRead s = .next (setCmd (sendPacket s {
        stack := stackOf (keyAddr key), agent := coreAgent s.pick.a, kind := .rd, addr := keyAddr key, dom := via.dom, grade := via.grade
        spans := [(keyAddr key / 32, 1, via.dom)], back := .cmd s.pick.a q.id (keyAddr key) }) s.pick.a s.pick.b { q with out := q.out + 1 })) := by
  have hat' : (s.core s.pick.a).eng[s.pick.b]? = some q := hat
  have hguard : (q.stopped || decide (q.rpos ≥ q.total)) = false := by
    rw [hgo, Bool.false_or, decide_eq_false_iff_not]
    omega
  refine ⟨fun u h => ?_, fun h hunits hout => ?_, fun h hunits hout => ?_, fun page h => ?_, fun key via h hnone => ?_⟩
  case refine_2 | refine_3 =>
    simp only [exec, execEngineRead, hat', hguard, hcopy, h, hunits, hout, List.isEmpty_nil, decide_true, Bool.and_self, Bool.false_eq_true,
      if_false, if_true]
  case refine_5 =>
    simp only [exec, execEngineRead, hat', hguard, hcopy, h, hnone, Bool.false_eq_true, if_false]
  all_goals simp only [exec, execEngineRead, hat', hguard, hcopy, h, Bool.false_eq_true, if_false]

theorem engineRead_basin (hat : AtCommand s q) (hgo : q.stopped = false) (hmore : q.rpos < q.total) (hbasin : q.eng = 1)
    (hmay : writesMay s s.pick.a s.pick.b = true) :
    (∀ p n outs, q.piece s s.pick.a = .send p n outs → exec .engineRead s = .next (setCmd (sendPacket s p) s.pick.a s.pick.b { q with
      rpos := q.rpos + n, wpos := q.wpos + n, out := q.out + 1, ranges := outs.foldl (fun rs e => addRange e.1 e.2 rs) q.ranges })) ∧
    (q.piece s s.pick.a = .fault → exec .engineRead s = .next (setCmd s s.pick.a s.pick.b (q.stop 3 q.rpos))) ∧
    (∀ page, q.piece s s.pick.a = .ask page → exec .engineRead s = .next (askPages s s.pick.a q.ctx [page])) ∧
    (∀ va, q.piece s s.pick.a = .dump va → exec .engineRead s = .next (dumpStall s q.ctx va)) := by
  have hat' : (s.core s.pick.a).eng[s.pick.b]? = some q := hat
  have hguard : (q.stopped || decide (q.rpos ≥ q.total)) = false := by
    rw [hgo, Bool.false_or, decide_eq_false_iff_not]
    omega
  refine ⟨fun p n outs h => ?_, fun h => ?_, fun page h => ?_, fun va h => ?_⟩
  all_goals simp only [exec, execEngineRead, hat', hguard, hbasin, hmay, h, Bool.not_true, Bool.false_eq_true, if_false, if_true]

/-! Writing the next unit (R74, R180, R477). -/

/-- What becomes of a unit with bytes to write, by the place it goes to. -/
def unitEnds (s : State) (q : EngCmd) (u : EngUnit) : EngPlace → State
  | .fault => setCmd s s.pick.a s.pick.b (q.stop 3 u.pos)
  | .dump va => dumpStall s q.ctx va
  | .ask page => askPages s s.pick.a q.ctx [page]
  | .at_ key via =>
    if isDram key then setCmd (sendPacket s (writePacket s.pick.a q u key via)) s.pick.a s.pick.b { q.wrote u (some key) with out := q.out + 1 }
    else match homeReach s key with
      | .wait => s
      | .down => setCmd s s.pick.a s.pick.b (q.stop 3 u.pos)
      | .ok => setCmd (crossPeer (putUnit s key u.data s.pick.flag) key (.store (keyAddr key) via (u.data.map (·.getD 0)))) s.pick.a s.pick.b
          (q.wrote u (some key))

theorem engineWrite_unit {u : EngUnit} {us : List EngUnit} (hat : AtCommand s q) (hunits : q.units = u :: us) (hgo : q.stopped = false)
    (hmay : writesMay s s.pick.a s.pick.b = true) (hfree : q.writing s s.pick.a = false) :
    exec .engineWrite s = .next (if u.data.all Option.isNone then setCmd s s.pick.a s.pick.b (q.wrote u none)
      else unitEnds s q u (unitPlace s q u)) := by
  have hat' : (s.core s.pick.a).eng[s.pick.b]? = some q := hat
  simp only [exec, execEngineWrite, hat', hunits, hgo, hmay, hfree, Bool.not_true, Bool.or_self, Bool.false_eq_true, if_false]
  split
  · rfl
  · have hplace : (if q.fn = xcMcast then q.sram s s.pick.a u.off true
        else q.place s s.pick.a (saddrSeg q.dst) u.off u.data.length true) = unitPlace s q u := rfl
    rw [hplace]
    cases unitPlace s q u with
    | at_ key via =>
      simp only [unitEnds]
      split
      · rfl
      · cases homeReach s key <;> rfl
    | fault => rfl
    | dump va => rfl
    | ask page => rfl

/-! Completion (R74, R162). -/

theorem engineCount_ends (hat : AtCommand s q) (hmay : writesMay s s.pick.a s.pick.b = true) (hout : q.out = 0) :
    (q.cancel = true → s.pick.flag = true → exec .engineCount s = .next (finishCmd s s.pick.a s.pick.b q true)) ∧
    ((q.cancel = false ∨ s.pick.flag = false) → (q.stopped = true ∨ (q.total ≤ q.rpos ∧ q.total ≤ q.wpos)) →
      exec .engineCount s = .next (finishCmd s s.pick.a s.pick.b q false)) := by
  have hat' : (s.core s.pick.a).eng[s.pick.b]? = some q := hat
  refine ⟨fun hcancel hflag => ?_, fun hkeep hdone => ?_⟩
  · simp only [exec, execEngineCount, hat', hcancel, hflag, hout, hmay, decide_true, Bool.and_self, if_true]
  · have hnot : (q.cancel && s.pick.flag) = false := by
      rcases hkeep with h | h
      · rw [h, Bool.false_and]
      · rw [h, Bool.and_false]
    have hsettled : q.settled = true := by
      rw [EngCmd.settled, hout]
      simpa using hdone
    simp only [exec, execEngineCount, hat', hnot, hsettled, hmay, Bool.false_and, Bool.and_self, Bool.false_eq_true, if_false, if_true]

end

/-! Packets at a base die (R187-R193). -/

section
variable {s : State} {p : Packet}

theorem packet_refused {st : Nat} (hat : s.pkts[s.pick.a]? = some p) (hmay : pktMay s s.pick.a p = true) (hbad : pktRefusal s p = some st) :
    (p.kind = .rd → exec .pktRd s = .next (repliedTo s p st [])) ∧ (p.kind = .wr → exec .pktWr s = .next (repliedTo s p st [])) ∧
    (p.kind = .wrm → exec .pktWrm s = .next (repliedTo s p st [])) := by
  refine ⟨fun hkind => ?_, fun hkind => ?_, fun hkind => ?_⟩
  all_goals
    simp only [exec, execPktRd, execPktWr, execPktWrm, hat, hkind, hmay, hbad, bne_self_eq_false, Bool.not_true, Bool.or_self,
      Bool.false_eq_true, if_false]
    rfl

/-- Granules read in order from a start add their bytes and their outcome to what was there. -/
theorem foldl_granRead (grade : Nat) (gs : List Nat) (s : State) (bs : List Byte) (st : Nat) :
    gs.foldl (fun acc g => ((granRead acc.1 g grade).1, acc.2.1 ++ (granRead acc.1 g grade).2.1, max acc.2.2 (granRead acc.1 g grade).2.2.code))
      (s, bs, st) = ((readAll grade s gs).1, bs ++ (readAll grade s gs).2.1, max st (readAll grade s gs).2.2) := by
  induction gs generalizing s bs st with
  | nil => simp only [List.foldl_nil, readAll, List.append_nil, Nat.max_zero]
  | cons g gs ih => simp only [List.foldl_cons, ih, readAll, List.append_assoc, Nat.max_assoc]

/-- Masked writes of granules in order from a start add their outcome to what was there. -/
theorem foldl_granArrive (p : Packet) (bad : Bool) (gs : List Nat) (k : Nat) (s : State) (st : Nat) :
    (gs.zipIdx k).foldl (fun acc e => (dropCachedAll (granArrive acc.1 e.1 p.grade (p.mask / 2 ^ (32 * e.2) % 2 ^ 32)
        ((p.data.drop (32 * e.2)).take 32) bad).1 (e.1 / 2), max acc.2 (granArrive acc.1 e.1 p.grade (p.mask / 2 ^ (32 * e.2) % 2 ^ 32)
        ((p.data.drop (32 * e.2)).take 32) bad).2.code)) (s, st) = ((mergeAll p bad s k gs).1, max st (mergeAll p bad s k gs).2) := by
  induction gs generalizing k s st with
  | nil => simp only [List.zipIdx_nil, List.foldl_nil, mergeAll, Nat.max_zero]
  | cons g gs ih => simp only [List.zipIdx_cons, List.foldl_cons, ih, mergeAll, Nat.max_assoc]

/-- A whole granule arrives (R190, R516). -/
theorem granArrive_whole (s : State) (g grade : Nat) (bs : List Byte) (bad : Bool) : (granArrive s g grade (2 ^ 32 - 1) bs bad).1 =
    if bad then freshSide (granWriteAll s g grade bs) g grade true else granWriteAll s g grade bs := by
  cases bad <;> rfl

/-- Metadata words written in order leave an outcome of 0. -/
theorem foldl_metaWrite (p : Packet) (gs : List (Nat × Nat)) (s : State) (st : Nat) :
    gs.foldl (fun acc e => (metaWrite acc.1 (dramKey (32 * e.1)) p.grade (leNat ((p.data.drop (4 * e.2)).take 4)), acc.2)) (s, st) =
      (gs.foldl (fun u e => metaWrite u (dramKey (32 * e.1)) p.grade (leNat ((p.data.drop (4 * e.2)).take 4))) s, st) := by
  induction gs generalizing s with
  | nil => rfl
  | cons g gs ih => exact ih _

theorem packet_performed (hat : s.pkts[s.pick.a]? = some p) (hmay : pktMay s s.pick.a p = true) (hgood : pktRefusal s p = none) :
    (p.kind = .rd → p.md = false → exec .pktRd s = .next (replyPacket (readAll p.grade s p.grans).1 s.pick.a p
      (readAll p.grade s p.grans).2.2 (readAll p.grade s p.grans).2.1)) ∧
    (p.kind = .rd → p.md = true → exec .pktRd s = .next (replyPacket (activate s p.addr) s.pick.a p 0
      (p.grans.flatMap fun g => leBytes 4 (metaRead (activate s p.addr) (dramKey (32 * g)) p.grade)))) ∧
    (p.kind = .wr → s.pick.flag = false → exec .pktWr s = .next (replyPacket (p.grans.zipIdx.foldl (fun u e =>
      dropCachedAll (granWriteAll u e.1 p.grade ((p.data.drop (32 * e.2)).take 32)) (e.1 / 2)) s) s.pick.a p 0 [])) ∧
    (p.kind = .wr → s.pick.flag = true → exec .pktWr s = .next (replyPacket (p.grans.zipIdx.foldl (fun u e =>
      dropCachedAll (freshSide (granWriteAll u e.1 p.grade ((p.data.drop (32 * e.2)).take 32)) e.1 p.grade true) (e.1 / 2)) s)
        s.pick.a p 2 [])) ∧
    (p.kind = .wrm → p.md = true → exec .pktWrm s = .next (replyPacket (p.grans.zipIdx.foldl (fun u e =>
      metaWrite u (dramKey (32 * e.1)) p.grade (leNat ((p.data.drop (4 * e.2)).take 4))) s) s.pick.a p 0 [])) ∧
    (p.kind = .wrm → p.md = false → exec .pktWrm s = .next (replyPacket (mergeAll p s.pick.flag s 0 p.grans).1 s.pick.a p
      (mergeAll p s.pick.flag s 0 p.grans).2 [])) := by
  refine ⟨fun hkind hmd => ?_, fun hkind hmd => ?_, fun hkind hflag => ?_, fun hkind hflag => ?_, fun hkind hmd => ?_, fun hkind hmd => ?_⟩
  all_goals simp only [exec, execPktRd, execPktWr, execPktWrm, hat, hkind, hmay, hgood, bne_self_eq_false, Bool.not_true, Bool.or_self,
    Bool.false_eq_true, if_false]
  · simp only [hmd, Bool.false_eq_true, if_false, foldl_granRead, List.nil_append, Nat.zero_max]
  · simp only [hmd, if_true]
    rfl
  · simp only [hflag, granArrive_whole, Bool.false_eq_true, if_false]
    rfl
  · simp only [hflag, granArrive_whole, if_true]
    rfl
  · simp only [hmd, if_true, foldl_metaWrite]
  · simp only [hmd, Bool.false_eq_true, if_false, foldl_granArrive, Nat.zero_max]

end

/-! Replies (R186, R187). -/

theorem got_note (q : EngCmd) (st at_ : Nat) : (q.note st at_).got = q.got := by
  unfold EngCmd.note
  split
  · rfl
  · split <;> rfl

section
variable {s t : State} {p : Packet} {c j pos : Nat} {q : EngCmd}

/-- What a read's reply makes of its command. -/
def readAnswered (q : EngCmd) (p : Packet) : EngCmd :=
  if p.status = 4 then q.stop 3 q.wpos
  else withBytes (q.note (if p.status = 1 then 1 else 0) 0) (dramKey p.addr)
    (if p.status = 3 then [] else if p.status = 2 then List.replicate 32 none else p.reply.map some)

/-- What a write's reply makes of its command. -/
def writeAnswered (q : EngCmd) (p : Packet) (pos : Nat) : EngCmd :=
  if p.status = 3 then q.stop 5 pos else if p.status = 4 then q.stop 3 pos else q.note p.status pos

theorem readReply_answers (hanswers : Answers s p t c j pos q) (hkind : p.kind = .rd) :
    exec .readReply s = .next (setCmd t c j (readAnswered { q with out := q.out - 1 } p)) := by
  obtain ⟨hat, hdone, rfl, id, hback, hfind, hcmd⟩ := hanswers
  simp only [exec, execReadReply, hat, hdone, hkind, hback, hfind, hcmd, bne_self_eq_false, Bool.not_true, Bool.or_self,
    Bool.false_eq_true, if_false, readAnswered, withBytes, got_note]
  rfl

theorem writeReply_answers (hanswers : Answers s p t c j pos q) (hkind : p.kind = .wr ∨ p.kind = .wrm) :
    exec .writeReply s = .next (setCmd t c j (writeAnswered { q with out := q.out - 1 } p pos)) := by
  obtain ⟨hat, hdone, rfl, id, hback, hfind, hcmd⟩ := hanswers
  have hwrite : (p.kind != .wr && p.kind != .wrm) = false := by
    rcases hkind with h | h <;> rw [h] <;> rfl
  simp only [exec, execWriteReply, hat, hdone, hwrite, hback, hfind, hcmd, Bool.not_true, Bool.or_self, Bool.false_eq_true, if_false]
  rfl

end

/-- Settles O50. -/
theorem engineSteps : Obligations.EngineSteps := by
  refine ⟨fun s q hat hgo hmore hcopy => engineRead_copy hat hgo hmore hcopy,
    fun s q hat hgo hmore hbasin hmay => engineRead_basin hat hgo hmore hbasin hmay,
    fun s q u us hat hunits hgo hmay hfree => ?write, fun s q hat hmay hout => engineCount_ends hat hmay hout,
    fun s p st hat hmay hbad => packet_refused hat hmay hbad, fun s p hat hmay hgood => packet_performed hat hmay hgood,
    fun s t p c j pos q hanswers => ⟨readReply_answers hanswers, writeReply_answers hanswers⟩⟩
  have hunit := engineWrite_unit hat hunits hgo hmay hfree
  refine ⟨fun hnone => hunit.trans (congrArg Host.Outcome.next (if_pos hnone)), fun hsome => ?_⟩
  have hends : exec .engineWrite s = .next (unitEnds s q u (unitPlace s q u)) :=
    hunit.trans (congrArg Host.Outcome.next (if_neg (Bool.eq_false_iff.mp hsome)))
  refine ⟨fun key via hplace hdram => ⟨fun hreach => ?_, fun hreach => ?_, fun hreach => ?_⟩, fun key via hplace hdram => ?_, fun hplace => ?_,
    fun va hplace => ?_, fun page hplace => ?_⟩
  all_goals rw [hends, hplace]
  case refine_1 | refine_2 | refine_3 => simp only [unitEnds, hdram, hreach, Bool.false_eq_true, if_false]
  case refine_4 => simp only [unitEnds, hdram, if_true]
  all_goals rfl

end Sys2Proof.Proofs
end

section
/-! PROOFS. Clauses and the watchdog (O51). -/
namespace Sys2Proof.Proofs
set_option Elab.async false

open Sys2Proof Sys2Proof.Machine Sys2Proof.Claims

/-! The scheduler's choice (R139). -/

theorem clauseIssue_chooses {s s' : State} {all es : List (SplitRef × BitVec 64 × List (BitVec 64))} {r : SplitRef} {h : BitVec 64}
    {ws : List (BitVec 64)} (hfree : ((s.core s.pick.a).sched.get {} (s.pick.b % 4)).busy = none)
    (hlook : eligible s (schedSplits s.pick.a (s.pick.b % 4)) = (s', all)) (hes : es = all.filter fun e => !otherHandles s' e.1)
    (hchoose : choose s' ((s.core s.pick.a).sched.get {} (s.pick.b % 4)) es = some (r, h, ws)) :
    exec .clauseIssue s = .next (startClause
      ((es.foldl (fun u e => if e.1 = r then u else holdHeader u e.1 21) s').setCore s.pick.a
        { (es.foldl (fun u e => if e.1 = r then u else holdHeader u e.1 21) s').core s.pick.a with
          sched := ((es.foldl (fun u e => if e.1 = r then u else holdHeader u e.1 21) s').core s.pick.a).sched.set (s.pick.b % 4) {
            last := some (r.slot, r.split)
            run := if 1 < es.length then
              (if ((s.core s.pick.a).sched.get {} (s.pick.b % 4)).last = some (r.slot, r.split) then
                ((s.core s.pick.a).sched.get {} (s.pick.b % 4)).run + 1 else 1) else 0
            gave := headYield h, busy := some (r.slot, r.split) } }) r h ws) := by
  subst hes
  simp only [exec, execClauseIssue, hfree, hlook, hchoose, gt_iff_lt, beq_iff_eq, decide_eq_true_eq]

/-! The watchdog (R100). -/

section
variable {s : State} {r : SplitRef}

theorem dogAfter_fails {w : Wait} (hbites : dogBites s (s.strand r).ctx w.kind.reason w.since = true)
    (hkind : ∀ ask left abn keys d, w.kind ≠ .sluIn ask left abn keys d) :
    dogAfter s r w = failWait (withdrawArrival s r w) r w (dogTrap w.lanes) := by
  refine (if_neg (not_not_of_true hbites)).trans ?_
  split
  · next hslu => exact (hkind _ _ _ _ _ hslu).elim
  · rfl

/-- A section's entry is not given up; its trap waits for the grant (R224). -/
theorem dogAfter_sluIn {w : Wait} {ask : Nat} {left abn : LaneMask} {keys : List (Nat × DWord)} {d : Operand}
    (hbites : dogBites s (s.strand r).ctx w.kind.reason w.since = true) (hkind : w.kind = .sluIn ask left abn keys d)
    (hnone : (s.split r).traps.any (fun x => x.trap.code == 0x16 && x.site == some (w.pc, w.pos)) = false) :
    dogAfter s r w = s.setSplit r { s.split r with
      traps := (s.split r).traps ++ [{ trap := dogTrap left, site := some (w.pc, w.pos) }] } := by
  refine (if_neg (not_not_of_true hbites)).trans ?_
  rw [hkind]
  exact if_neg (Bool.eq_false_iff.mp hnone)

theorem dogPending_fails {p : Pending} (howed : p.owed ≠ 0) (hfail : p.fail = none) (hbites : dogBites s (s.strand r).ctx p.why p.since = true) :
    dogPending s r p = withdrawTagged (s.setStrand r (updPending (s.strand r) p.id fun x => { x with
      owed := 0
      fail := some (dogTrap (if lanesOwed s { core := r.core, slot := r.slot, split := p.split, id := some p.id } = 0 then p.lanes
        else lanesOwed s { core := r.core, slot := r.slot, split := p.split, id := some p.id })) }))
      { core := r.core, slot := r.slot, split := p.split, id := some p.id } := by
  have hgo : ¬ (decide (p.owed = 0) || p.fail.isSome || !dogBites s (s.strand r).ctx p.why p.since) = true := by
    rw [hbites, hfail, decide_eq_false howed]
    decide
  exact if_neg hgo

/-- What withdraws an instruction's requests leaves its split as it is. -/
theorem split_withdrawn (s t : State) (hcores : t.cores = s.cores) (r : SplitRef) : t.split r = s.split r := by
  simp only [State.split, State.strand, State.strandAt, State.core, hcores]

/-- A wait in place that has lasted too long gives its split a trap (R100). -/
theorem split_dogInPlace {cl : Clause} {w : BitVec 64} (hclause : (s.split r).clause = some cl) (hword : cl.words[cl.pos]? = some w)
    (hbites : dogBites s (s.strand r).ctx (s.split r).stall (s.split r).since = true)
    (hnone : ∀ x ∈ (s.split r).traps, ¬ (x.trap.code = 0x16 ∧ x.site = none)) :
    ∃ lanes, (dogInPlace s r).split r = { s.split r with traps := (s.split r).traps ++ [{ trap := dogTrap lanes, site := none }] } := by
  have hplace : ((s.strand r).split r.split).clause.bind (fun cl => cl.words[cl.pos]?) = some w := by
    rw [show ((s.strand r).split r.split).clause = some cl from hclause]
    exact hword
  have hnone' : (s.split r).traps.any (fun x => x.trap.code == trapWatchdog && x.site.isNone) = false := by
    refine List.any_eq_false.mpr fun x hx htrap => hnone x hx ?_
    obtain ⟨hcode, hsite⟩ := Bool.and_eq_true_iff.mp htrap
    exact ⟨beq_iff_eq.mp hcode, Option.isNone_iff_eq_none.mp hsite⟩
  have hgo : ¬ (!dogBites s (s.strand r).ctx ((s.strand r).split r.split).stall ((s.strand r).split r.split).since ||
      ((s.strand r).split r.split).traps.any (fun x => x.trap.code == trapWatchdog && x.site.isNone)) = true := fun h =>
    (Bool.or_eq_true_iff.mp h).elim (not_not_of_true hbites) (Bool.eq_false_iff.mp hnone')
  unfold dogInPlace
  simp only [hplace]
  refine ⟨if lanesOwed s { core := r.core, slot := r.slot, split := r.split, id := none } = 0 then (s.view r (Raw.ofWord w).ctl).eff
    else lanesOwed s { core := r.core, slot := r.slot, split := r.split, id := none }, ?_⟩
  rw [if_neg hgo]
  refine Eq.trans (split_withdrawn (s.setSplit r _) _ ?_ r) (State.split_setSplit ..)
  dsimp only
  split <;> split <;> rfl

end

/-- Settles O51. -/
theorem schedulerSteps : Obligations.SchedulerSteps := by
  refine ⟨fun s s' all es r h ws => ?choice, fun s => ?dog, fun s w => ?inPlace⟩
  case choice =>
    intro c q k hfree hlook hes hchoose
    exact clauseIssue_chooses hfree hlook hes hchoose
  case dog =>
    intro r hresident
    have hhere : ((s.strand s.pick.ref).state != .resident) = false := by
      rw [show (s.strand s.pick.ref).state = .resident from hresident]
      rfl
    refine ⟨fun ha => ?_, fun w ha hw hbites => ⟨fun hkind => ?_, fun ask left abn keys d hkind hnone => ?_⟩,
      fun p ha hp howed hfail hbites => ?_⟩
    · simp only [exec, execWatchdog, hhere, ha, Bool.false_eq_true, if_false]
      rfl
    · rw [← dogAfter_fails hbites hkind]
      simp only [exec, execWatchdog, hhere, ha, Bool.false_eq_true, if_false]
      simp only [r] at hw
      simp only [hw]
      rfl
    · rw [← dogAfter_sluIn hbites hkind hnone]
      simp only [exec, execWatchdog, hhere, ha, Bool.false_eq_true, if_false]
      simp only [r] at hw
      simp only [hw]
      rfl
    · refine Eq.trans ?_ (congrArg Host.Outcome.next (dogPending_fails howed hfail hbites))
      simp only [exec, execWatchdog, hhere, ha, Bool.false_eq_true, if_false]
      simp only [r] at hp
      simp only [hp]
      rfl
  case inPlace =>
    intro r sp hplace hbites hnone
    obtain ⟨cl, hclause, hword⟩ := hplace
    obtain ⟨lanes, hsplit⟩ := split_dogInPlace hclause hword hbites hnone
    rw [hsplit]
    exact ⟨_, List.mem_append_right _ (List.mem_singleton.mpr rfl), rfl, rfl⟩

end Sys2Proof.Proofs
end

section
/-! PROOFS. Lookups, walks, dumps and stacks (O52). -/
namespace Sys2Proof.Proofs
set_option Elab.async false

open Sys2Proof Sys2Proof.Machine Sys2Proof.Claims

/-! Lookups and walks (R172, R175, R178). -/

section
variable {s : State} {l : Lookup} (hat : (s.core s.pick.a).lookups[s.pick.b]? = some l)
include hat

theorem tlb2Lookup_hits {leaf : BitVec 64} (hstage : l.stage = .second) (hflight : inFlight (s.core s.pick.a) s.pick.b = true)
    (hhit : tlbFind (s.clu (coreCluster s.pick.a)).tlb2 l.ctx (l.page * 65536) = some leaf) :
    exec .tlb2Lookup s = .next (s.setCore s.pick.a { s.core s.pick.a with
      tlb := tlbAdd 256 (s.core s.pick.a).tlb (tlbEntry l.ctx (l.page * 65536) leaf)
      lookups := (s.core s.pick.a).lookups.eraseIdx s.pick.b }) := by
  have hgo : (l.stage != .second || !inFlight (s.core s.pick.a) s.pick.b) = false := by
    rw [hstage, hflight]
    rfl
  simp only [exec, execTlb2Lookup, hat, hgo, Bool.false_eq_true, if_false, hhit, Nat.reducePow]
  rfl

/-- Where a miss goes: the walk that covers it, a full FIFO's refusal, or a walk of its own (R175). -/
def missEnds (s : State) (l : Lookup) : State :=
  let x := s.clu (coreCluster s.pick.a)
  match x.walks.find? (fun w => w.covers s l.ctx (l.page * 65536)) with
  | some w => setLookup s s.pick.a s.pick.b { l with stage := .walking w.page }
  | none =>
    if 1024 ≤ x.walks.length - x.walks.countP (·.live) then setLookup s s.pick.a s.pick.b { l with stage := .refused (s.tick + 64) }
    else setLookup (s.setClu (coreCluster s.pick.a) { x with
      walks := x.walks ++ [{ ctx := l.ctx, page := l.page, live := x.walks.countP (·.live) < 64 }] }) s.pick.a s.pick.b
        { l with stage := .walking l.page }

theorem tlb2Lookup_misses (hstage : l.stage = .second) (hflight : inFlight (s.core s.pick.a) s.pick.b = true)
    (hmiss : tlbFind (s.clu (coreCluster s.pick.a)).tlb2 l.ctx (l.page * 65536) = none) :
    exec .tlb2Lookup s = .next (missEnds s l) := by
  have hgo : (l.stage != .second || !inFlight (s.core s.pick.a) s.pick.b) = false := by
    rw [hstage, hflight]
    rfl
  simp only [exec, execTlb2Lookup, hat, hgo, Bool.false_eq_true, if_false, hmiss, Nat.reducePow, missEnds]
  cases (s.clu (coreCluster s.pick.a)).walks.find? (fun w => w.covers s l.ctx (l.page * 65536)) with
  | some w => rfl
  | none => exact (apply_ite Host.Outcome.next _ _ _).symm

theorem walkResend_due {t : Nat} (hstage : l.stage = .refused t) (hdue : t ≤ s.tick) :
    exec .walkResend s = .next (setLookup s s.pick.a s.pick.b { l with stage := .second }) := by
  simp only [exec, execWalkResend, hat, hstage, if_neg (Nat.not_lt.mpr hdue)]

end

/-- A walk that ends, as its reads go (R172). -/
theorem pageWalk_ends {s t : State} {w : Walk} (hat : (s.clu s.pick.a).walks[s.pick.b]? = some w) (hlive : w.live = true) :
    (walkRead s w.ctx (w.page * 65536) = (t, .held) → exec .pageWalk s = .next s) ∧
    (walkRead s w.ctx (w.page * 65536) = (t, .fault) → exec .pageWalk s = .next (walkDone t w none)) ∧
    (∀ e a, walkRead s w.ctx (w.page * 65536) = (t, .leaf e a) → exec .pageWalk s = .next (walkDone t w (some e))) := by
  refine ⟨fun h => ?_, fun h => ?_, fun e a h => ?_⟩
  all_goals simp only [exec, execPageWalk, hat, hlive, Bool.not_true, Bool.false_eq_true, if_false, Nat.reducePow, h]
  all_goals rfl

/-! Dumps (R181, R527, R543). -/

section
variable {s : State} {d : DumpJob} (hdump : (s.ctx (s.pick.a % 64)).dump = some d) (hstate : (s.ctx (s.pick.a % 64)).state = .dumping)
include hdump hstate

/-- A dump's stages, each with its step. -/
theorem dumpPageCopy_stage :
    (d.stage = 0 → exec .dumpPageCopy s = .next (protectPages s (s.pick.a % 64))) ∧
    (d.stage = 1 → exec .dumpPageCopy s = .next (dumpReleases s (s.pick.a % 64) d)) ∧
    (d.stage = 2 → d.instant = none → exec .dumpPageCopy s = .next (dumpInstant s (s.pick.a % 64) d)) ∧
    (d.stage = 2 → d.instant ≠ none → exec .dumpPageCopy s = .next (dumpNext s (s.pick.a % 64) d)) ∧
    (2 < d.stage → exec .dumpPageCopy s = .next (closeDump s (s.pick.a % 64) d d.status)) := by
  have hhere : ((s.ctx (s.pick.a % 64)).state != .dumping) = false := by
    rw [hstate]
    rfl
  refine ⟨fun hstage => ?_, fun hstage => ?_, fun hstage hinstant => ?_, fun hstage hinstant => ?_, fun hstage => ?_⟩
  · simp only [exec, execDumpPageCopy, hdump, hhere, Bool.false_eq_true, if_false, hstage]
  · simp only [exec, execDumpPageCopy, hdump, hhere, Bool.false_eq_true, if_false, hstage]
  · simp only [exec, execDumpPageCopy, hdump, hhere, Bool.false_eq_true, if_false, hstage, hinstant, Option.isNone_none, if_true]
  · have hsome : d.instant.isNone = false := Option.isNone_eq_false_iff.mpr (Option.isSome_iff_ne_none.mpr hinstant)
    simp only [exec, execDumpPageCopy, hdump, hhere, Bool.false_eq_true, if_false, hstage, hsome]
  · obtain ⟨k, hk⟩ := Nat.exists_eq_add_of_lt hstage
    simp only [exec, execDumpPageCopy, hdump, hhere, Bool.false_eq_true, if_false]
    split
    · omega
    · omega
    · omega
    · rfl

end

section
variable (s : State) (x : Nat) (d : DumpJob)

/-- The cores of a context's tenants. -/
def tenantCores (s : State) (x : Nat) : List Nat := s.cores.keys.filter fun c => tenantAt s c x

theorem dumpReleases_eq : (accessesLeft s (some x) = true → dumpReleases s x d = s) ∧
    (accessesLeft s (some x) = false → dumpReleases s x d =
      ((tenantCores s x).foldl (fun u c => releaseMoves u c .sys) s).setCtx x
        { ((tenantCores s x).foldl (fun u c => releaseMoves u c .sys) s).ctx x with dump := some { d with stage := 2 } }) :=
  ⟨fun h => if_pos h, fun h => if_neg (Bool.eq_false_iff.mp h)⟩

theorem releasing_iff : s.cores.keys.any (fun c => tenantAt s c x && !releaseOver s c .sys) = true ↔
    ∃ c ∈ tenantCores s x, releaseOver s c .sys = false := by
  simp only [tenantCores, List.any_eq_true, List.mem_filter, Bool.and_eq_true, Bool.not_eq_true', and_assoc]

theorem dumpInstant_eq : ((∃ c ∈ tenantCores s x, releaseOver s c .sys = false) → dumpInstant s x d = s) ∧
    ((∀ c ∈ tenantCores s x, releaseOver s c .sys = true) → dumpInstant s x d =
      (((List.range 8).filter fun k => (s.clu k).tenant == some x).foldl (fun u k => faultRefused u k x) s).setCtx x
        { (((List.range 8).filter fun k => (s.clu k).tenant == some x).foldl (fun u k => faultRefused u k x) s).ctx x with
          dump := some { d with instant := some (((List.range 8).filter fun k => (s.clu k).tenant == some x).foldl
            (fun u k => faultRefused u k x) s).tick } }) := by
  refine ⟨fun h => if_pos ((releasing_iff s x).mpr h), fun h => if_neg fun hany => ?_⟩
  obtain ⟨c, hc, hnot⟩ := (releasing_iff s x).mp hany
  exact Bool.false_ne_true (hnot.symm.trans (h c hc))

end

/-- A dump with its instant taken goes on (R181). -/
theorem dumpGoesOn_of_next {s : State} {x : Nat} {d : DumpJob} (hnext : exec .dumpPageCopy s = .next (dumpNext s x d)) :
    dumpGoesOn s x d := by
  unfold dumpNext at hnext
  refine ⟨fun p ps q hwant hfind => ?_, fun p ps hwant hnone => ?_, fun q rest hwant htodo => ?_, fun hwant htodo => ?_⟩
  all_goals simp only [hwant, Nat.reducePow] at hnext
  case refine_1 =>
    cases hleaf : walkLeaf s x (p * 65536) with
    | none =>
      simp only [hleaf, Bool.decide_and] at hfind hnext
      simpa only [hfind] using hnext
    | some e =>
      simp only [hleaf, Bool.decide_and] at hfind hnext
      simpa only [hfind] using hnext
  case refine_2 =>
    cases hleaf : walkLeaf s x (p * 65536) with
    | none =>
      simp only [hleaf, ← Bool.decide_and] at hnone hnext
      rw [List.find?_eq_none.mpr fun q hq h => hnone q hq (of_decide_eq_true h)] at hnext
      exact hnext
    | some e =>
      simp only [hleaf, ← Bool.decide_and] at hnone hnext
      rw [List.find?_eq_none.mpr fun q hq h => hnone q hq (of_decide_eq_true h)] at hnext
      exact hnext
  case refine_3 => simpa only [htodo] using hnext
  case refine_4 => simpa only [htodo] using hnext

/-! Stacks (R182, R183, R192, R193). -/

section
variable (s : State) (n : Nat)

theorem training_starts (hoff : (s.stack (s.pick.a % 8)).state = .off) (hserve : s.dev.state = .training ∨ s.serving = true) :
    exec .stackTrainingStart s = .next (s.draw.1.setStack (s.pick.a % 8) { s.stack (s.pick.a % 8) with
      state := .training
      lfsr := if (s.stack (s.pick.a % 8)).nrcfg.getLsbD 31 then (s.stack (s.pick.a % 8)).lfsr
        else (List.range 32).map fun ch => (ch, lfsrSeed (Config.freeWord (32 * s.draw.2 + ch)).toNat 0) }) := by
  have hgo : ((s.stack (s.pick.a % 8)).state != .off || !(s.dev.state == .training || s.serving)) = false := by
    rw [hoff]
    rcases hserve with h | h <;> rw [h]
    · rfl
    · rw [Bool.or_true]
      rfl
  simp only [exec, execStackTrainingStart, hgo, Bool.false_eq_true, if_false]

theorem training_ends (htrain : (s.stack (s.pick.a % 8)).state = .training) :
    exec .stackTrainingPass s = .next (s.setStack (s.pick.a % 8) { s.stack (s.pick.a % 8) with state := .up }) ∧
      exec .stackTrainingFail s = .next (s.setStack (s.pick.a % 8) { s.stack (s.pick.a % 8) with
        state := .failed, reported := some .failed }) := by
  simp only [exec, execStackTrainingPass, execStackTrainingFail, htrain, beq_self_eq_true, if_true, and_self]

theorem interface_fails (hserving : (s.stack (s.pick.a % 8)).state = .up ∨ (s.stack (s.pick.a % 8)).state = .degraded) :
    exec .stackInterfaceFail s = .next { s.setStack (s.pick.a % 8) { s.stack (s.pick.a % 8) with state := .failed } with
      pkts := s.pkts.map (lostPacket (s.pick.a % 8)) } := by
  have hgo : (!((s.stack (s.pick.a % 8)).state == .up || (s.stack (s.pick.a % 8)).state == .degraded)) = false := by
    rcases hserving with h | h <;> rw [h] <;> rfl
  have hlost : (fun p : Packet => if p.stack = s.pick.a % 8 && !p.done && (match p.kind with | .nmc => false | _ => true) then
      { p with done := true, status := stUc, reply := [] } else p) = lostPacket (s.pick.a % 8) := by
    funext p
    rw [lostPacket]
    congr 1
    cases p.kind <;> simp
  simp only [exec, execStackInterfaceFail, hgo, Bool.false_eq_true, if_false]
  exact congrArg (fun f => Host.Outcome.next { s.setStack (s.pick.a % 8) { s.stack (s.pick.a % 8) with state := .failed } with
    pkts := s.pkts.map f }) hlost

end

/-- Settles O52. -/
theorem translationAndStackSteps : Obligations.TranslationAndStackSteps := by
  refine ⟨fun s l => ?lookup, fun s l t hat hstage hdue => walkResend_due hat hstage hdue, fun s t w hat hlive => pageWalk_ends hat hlive,
    fun s d => ?dump, fun s => ?stack⟩
  case lookup =>
    intro c n x set hat hstage hflight
    refine ⟨fun leaf hhit => tlb2Lookup_hits hat hstage hflight hhit, fun hmiss => ?_⟩
    have hends := tlb2Lookup_misses hat hstage hflight hmiss
    unfold missEnds at hends
    refine ⟨fun w hfind => ?_, fun hnone => ⟨fun hfull => ?_, fun hroom => ?_⟩⟩
    · simp only [x, n, c] at hfind
      simpa only [hfind] using hends
    · simp only [x, n, c] at hnone hfull
      simpa only [hnone, if_pos hfull] using hends
    · simp only [x, n, c] at hnone hroom
      simpa only [hnone, if_neg (Nat.not_le.mpr hroom)] using hends
  case dump =>
    intro x tenants hdump hstate
    obtain ⟨h0, h1, h2, h3, h4⟩ := dumpPageCopy_stage hdump hstate
    obtain ⟨hwait, hgo⟩ := dumpReleases_eq s x d
    obtain ⟨hstay, htake⟩ := dumpInstant_eq s x d
    exact ⟨h0, fun hs => ⟨fun h => (h1 hs).trans (congrArg Host.Outcome.next (hwait h)), fun h =>
      (h1 hs).trans (congrArg Host.Outcome.next (hgo h))⟩, fun hs hi => ⟨fun h => (h2 hs hi).trans (congrArg Host.Outcome.next (hstay h)), fun h =>
      (h2 hs hi).trans (congrArg Host.Outcome.next (htake h))⟩, fun hs hi => dumpGoesOn_of_next (h3 hs hi), h4⟩
  case stack =>
    intro n x
    refine ⟨fun hoff hserve => ⟨_, training_starts s hoff hserve, ?_⟩, fun htrain => training_ends s htrain, fun hserving =>
      ⟨_, interface_fails s hserving, ?_⟩, ⟨_, rfl, ?_⟩, ?_, rfl, rfl⟩
    · rw [State.stack_setStack]
      exact ⟨rfl, rfl, rfl, rfl, fun k hk => State.stack_setStack_ne _ _ hk, fun htest => if_pos htest⟩
    · refine ⟨State.stack_setStack .., rfl, fun k p hp => ?_⟩
      rw [List.getElem?_map, hp]
      rfl
    · rw [writeNrcfg, State.stack_setStack]
      refine ⟨rfl, rfl, rfl, fun k hk => State.stack_setStack_ne _ _ hk, fun hkeep => if_neg fun hseed => ?_⟩
      obtain ⟨hset, hclear⟩ := Bool.and_eq_true_iff.mp hseed
      rw [BitVec.getLsbD_and] at hset
      rcases hkeep with h | h
      · rw [h] at hset
        exact Bool.false_ne_true hset
      · rw [show (s.stack n).nrcfg.getLsbD 31 = true from h] at hclear
        exact Bool.false_ne_true hclear
    · show Host.Outcome.next (writeCecount s n) = _
      simp only [writeCecount, beq_iff_eq]
      rfl

end Sys2Proof.Proofs
end

section
/-! PROOFS. Context commands and tenancy (O53). -/
namespace Sys2Proof.Proofs
set_option Elab.async false

open Sys2Proof Sys2Proof.Machine Sys2Proof.Claims

/-! The commands of CTXCMD (R89, R90). -/

section
variable (s : State) (x : Nat)

/-- A command is refused with BUSY while its context drains. -/
theorem ctxAct_draining (h : (s.ctx x).state = .draining) {cmd : Nat} (hcmd : 1 ≤ cmd ∧ cmd ≤ 8) : ctxAct s x cmd = (s, 4) := by
  have hdefined : ¬ (cmd = 0 || cmd > 8) = true := by
    simp only [Bool.or_eq_true, decide_eq_true_eq]
    omega
  exact (if_neg hdefined).trans (if_pos h)

variable {s x}
variable (h : (s.ctx x).state ≠ .draining)
include h

theorem ctxAct_build : ctxAct s x 1 = if (s.ctx x).state = .free then
    ({ s.setCtx x { state := .building } with queues := s.queues.filter fun e => e.1 / 64 != x }, 0) else (s, 1) := by
  refine (if_neg h).trans ?_
  simp only [List.contains_iff_mem, List.mem_singleton]

theorem ctxAct_commit : ctxAct s x 2 = if (s.ctx x).state ≠ .building then (s, 1)
    else if ctxValid s x then (setCtxState s x .ready, 0) else (s, 2) := by
  refine (if_neg h).trans ?_
  simp only [Bool.not_eq_true', Bool.eq_false_iff, ne_eq, List.contains_iff_mem, List.mem_singleton]

theorem ctxAct_suspend : ctxAct s x 3 = if (s.ctx x).state ∈ [.ready, .active] then (leaveClusters (setCtxState s x .suspended) x, 0)
    else (s, 1) := by
  refine (if_neg h).trans ?_
  simp only [List.contains_iff_mem]

theorem ctxAct_resume : ctxAct s x 4 = if (s.ctx x).state ∈ [.suspended, .faulted] then (setCtxState (unstick s x) x .ready, 0)
    else (s, 1) := by
  refine (if_neg h).trans ?_
  simp only [List.contains_iff_mem]

theorem ctxAct_reset : ctxAct s x 5 = if (s.ctx x).state ∈ [.ready, .active, .suspended, .faulted] then (beginDrain s x false, 0)
    else if (s.ctx x).state = .dumping then (s.setCtx x { s.ctx x with held := some false }, 0) else (s, 1) := by
  refine (if_neg h).trans ?_
  simp only [List.contains_iff_mem, List.mem_singleton]

theorem ctxAct_kill : ctxAct s x 6 = if (s.ctx x).state = .building then (setCtxState s x .dead, 0)
    else if (s.ctx x).state ∈ [.ready, .active, .suspended, .faulted] then (beginDrain s x true, 0)
    else if (s.ctx x).state = .dumping then (s.setCtx x { s.ctx x with held := some true }, 0) else (s, 1) := by
  refine (if_neg h).trans ?_
  simp only [List.contains_iff_mem, List.mem_singleton]

theorem ctxAct_free : ctxAct s x 7 = if (s.ctx x).state = .dead then
    ({ s.setCtx x {} with mem := s.mem.writeList (hubKey (64 * x)) (List.replicate 64 0) }, 0) else (s, 1) := by
  refine (if_neg h).trans ?_
  simp only [List.contains_iff_mem, List.mem_singleton]

theorem ctxAct_dump : ctxAct s x 8 = if (s.ctx x).state ∈ [.active, .suspended, .faulted] then (beginDump s x none 0 none, 0)
    else (s, 1) := by
  refine (if_neg h).trans ?_
  simp only [List.contains_iff_mem]

end

/-- A write of CTXCMD keeps its target and its result. -/
def commanded (x : Nat) (r : State × Nat) : State := { r.1 with dev := { r.1.dev with ctxTarget := x, ctxResult := r.2 } }

/-- What a command ends with, its target and result kept (R89). -/
abbrev EndsWith (s : State) (x : Nat) (m : Instr) (u : State) (code : Nat) : Prop :=
  exec m s = .next { u with dev := { u.dev with ctxTarget := x, ctxResult := code } }

theorem endsWith_ite {m : Instr} {s : State} {x : Nat} {p : Prop} [Decidable p] {u w : State} {i j : Nat}
    (h : exec m s = .next (commanded x (if p then (u, i) else (w, j)))) : if p then EndsWith s x m u i else EndsWith s x m w j := by
  split
  · next hp =>
    rw [if_pos hp] at h
    exact h
  · next hp =>
    rw [if_neg hp] at h
    exact h

theorem endsWith_ite_ite {m : Instr} {s : State} {x : Nat} {p q : Prop} [Decidable p] [Decidable q] {t u w : State} {i j k : Nat}
    (h : exec m s = .next (commanded x (if p then (t, i) else if q then (u, j) else (w, k)))) :
    if p then EndsWith s x m t i else if q then EndsWith s x m u j else EndsWith s x m w k := by
  by_cases hp : p
  · rw [if_pos hp] at h ⊢
    exact h
  · rw [if_neg hp] at h ⊢
    exact endsWith_ite h

theorem ctxCommand_eq (s : State) (x cmd : Nat) : ctxCommand s x cmd = commanded x (ctxAct s x cmd) := rfl

/-! The end of a drain (R102). -/

theorem commandsCancelled_eq (s : State) (x : Nat) : ({ s with clusters := s.clusters.map (fun e => (e.1, { e.2 with
    ctab := e.2.ctab.map (fun f => if f.2.ctx = x && f.2.status = 6 then (f.1, { f.2 with status := 4, at_ := s.tick }) else f) })) } : State) =
      commandsCancelled s x := by
  have hentry : (fun f : Nat × CEntry => if f.2.ctx = x && f.2.status = 6 then (f.1, { f.2 with status := 4, at_ := s.tick }) else f) =
      fun f => (f.1, cancelledEntry x s.tick f.2) := by
    funext f
    rw [cancelledEntry]
    by_cases hmine : f.2.ctx = x ∧ f.2.status = 6
    · rw [if_pos hmine, if_pos (by rw [hmine.1, hmine.2]; simp)]
    · rw [if_neg hmine, if_neg (by simpa using hmine)]
  rw [hentry]
  rfl

section
variable {s : State} (hstate : (s.ctx (s.pick.a % 64)).state = .draining) (hdrained : drained s (s.pick.a % 64) = true)
include hstate hdrained

theorem drainComplete_ends :
    (∀ t, clearSpill s (s.pick.a % 64) (spillCount s (s.pick.a % 64)) = (t, true) → exec .drainComplete s = .next t) ∧
    (∀ t u, clearSpill s (s.pick.a % 64) (spillCount s (s.pick.a % 64)) = (t, false) →
      emptyQueues ((List.range 64).map fun i => 64 * (s.pick.a % 64) + i) t = (u, true) → exec .drainComplete s = .next u) ∧
    (∀ t u, clearSpill s (s.pick.a % 64) (spillCount s (s.pick.a % 64)) = (t, false) →
      emptyQueues ((List.range 64).map fun i => 64 * (s.pick.a % 64) + i) t = (u, false) →
      exec .drainComplete s = .next (setCtxState (commandsCancelled u (s.pick.a % 64)) (s.pick.a % 64)
        (if (s.ctx (s.pick.a % 64)).toDead then .dead else .ready))) := by
  have hgo : ((s.ctx (s.pick.a % 64)).state != .draining || !drained s (s.pick.a % 64)) = false := by
    rw [hstate, hdrained]
    rfl
  refine ⟨fun t hspill => ?_, fun t u hspill hqueues => ?_, fun t u hspill hqueues => ?_⟩
  · simp only [exec, execDrainComplete, hgo, Bool.false_eq_true, if_false, hspill]
  · simp only [exec, execDrainComplete, hgo, Bool.false_eq_true, if_false, hspill, hqueues]
  · simp only [exec, execDrainComplete, hgo, Bool.false_eq_true, if_false, hspill, hqueues, commandsCancelled_eq]

end

/-! The choice of a tenant (R92). -/

theorem quantumEnd_ends {s : State} {t : Nat} (htenant : (s.clu (s.pick.a % 8)).tenant = some t)
    (hstay : (s.clu (s.pick.a % 8)).leaving = none) (hfree : (s.clu (s.pick.a % 8)).stuck = false)
    (hdue : (s.clu (s.pick.a % 8)).quantumEnd ≤ s.tick) :
    (∀ b q, bestContext s (s.pick.a % 8) t = some (b, q) → b ≠ t → exec .quantumEnd s = .next (beginLeave s (s.pick.a % 8) t b)) ∧
    ((∀ b q, bestContext s (s.pick.a % 8) t = some (b, q) → b = t) → exec .quantumEnd s = .next (s.setClu (s.pick.a % 8)
      { s.clu (s.pick.a % 8) with quantumEnd := s.tick + 2 ^ (s.clu (s.pick.a % 8)).quantum })) := by
  have hgo : ((s.clu (s.pick.a % 8)).leaving.isSome || (s.clu (s.pick.a % 8)).stuck ||
      decide (s.tick < (s.clu (s.pick.a % 8)).quantumEnd)) = false := by
    rw [hstay, hfree, decide_eq_false (Nat.not_lt.mpr hdue)]
    rfl
  refine ⟨fun b q hbest hother => ?_, fun hsame => ?_⟩
  · simp only [exec, execQuantumEnd, htenant, hgo, Bool.false_eq_true, if_false, hbest, if_neg hother]
  · simp only [exec, execQuantumEnd, htenant, hgo, Bool.false_eq_true, if_false]
    cases hbest : bestContext s (s.pick.a % 8) t with
    | none => rfl
    | some e => exact if_pos (hsame e.1 e.2 hbest)

theorem tenantPrio_eq_some {s : State} {k t p : Nat} (h : if (s.ctx t).state = .dumping ∧ (s.ctx t).before = .active then
    p = (readyPrio s t).getD 0 else standing s k t = some p) : tenantPrio s k t = some p := by
  rw [tenantPrio]
  split at h
  · next hdump =>
    rw [hdump.1, hdump.2, h]
    rfl
  · next hdump =>
    refine (if_neg ?_).trans h
    simpa using hdump

theorem tenantChoice_ends {s : State} (hstay : (s.clu (s.pick.a % 8)).leaving = none) (hfree : (s.clu (s.pick.a % 8)).stuck = false) :
    (∀ b q, (s.clu (s.pick.a % 8)).tenant = none → (s.clu (s.pick.a % 8)).coming = none →
      bestContext s (s.pick.a % 8) (s.clu (s.pick.a % 8)).lastTenant = some (b, q) →
      exec .tenantChoice s = .next (s.setClu (s.pick.a % 8) { s.clu (s.pick.a % 8) with coming := some b })) ∧
    (∀ t p b q, (s.clu (s.pick.a % 8)).tenant = some t → tenantPrio s (s.pick.a % 8) t = some p → bestContext s (s.pick.a % 8) t = some (b, q) →
      exec .tenantChoice s = .next (if p < q then beginLeave s (s.pick.a % 8) t b else s)) := by
  have hgo : ((s.clu (s.pick.a % 8)).leaving.isSome || (s.clu (s.pick.a % 8)).stuck) = false := by
    rw [hstay, hfree]
    rfl
  refine ⟨fun b q htenant hcoming hbest => ?_, fun t p b q htenant hprio hbest => ?_⟩
  · simp only [exec, execTenantChoice, hgo, Bool.false_eq_true, if_false, htenant, hcoming, Option.isSome_none, hbest]
  · simp only [exec, execTenantChoice, hgo, Bool.false_eq_true, if_false, htenant, hprio, hbest, gt_iff_lt]
    exact (apply_ite Host.Outcome.next _ _ _).symm

/-! Switching out and in (R93-R95). -/

/-- Every core of a cluster has sent its stores and is done with its release (R93). -/
def LeaveDone (s : State) (k : Nat) : Prop := ∀ n ∈ coresOf s k, (s.core n).q = [] ∧ releaseOver s n .sys = true

theorem leaveDone_iff (s : State) (k : Nat) :
    (coresOf s k).all (fun i => (s.core i).q.isEmpty && releaseOver s i .sys) = true ↔ LeaveDone s k := by
  simp only [LeaveDone, List.all_eq_true, Bool.and_eq_true, List.isEmpty_iff]

section
variable {s : State} {x : Nat} (htenant : (s.clu (s.pick.a % 8)).tenant = some x) (hleaving : (s.clu (s.pick.a % 8)).leaving = some x)
  (hfree : (s.clu (s.pick.a % 8)).stuck = false)
include htenant hleaving hfree

/-- The releases of a cluster's cores begin. -/
def releasesBegun (s u : State) : State := (coresOf s (s.pick.a % 8)).foldl (fun u n => releaseMoves u n .sys) u

theorem switchOut_waits :
    (clusterQuiet s (s.pick.a % 8) x = false →
      exec .switchOut s = .next (stallOwed s fun n _ => coreCluster n == s.pick.a % 8)) ∧
    (clusterQuiet s (s.pick.a % 8) x = true → (s.clu (s.pick.a % 8)).swapping = false → exec .switchOut s =
      .next (releasesBegun s (s.setClu (s.pick.a % 8) { s.clu (s.pick.a % 8) with swapping := true }))) ∧
    (clusterQuiet s (s.pick.a % 8) x = true → (s.clu (s.pick.a % 8)).swapping = true → ¬ LeaveDone s (s.pick.a % 8) →
      exec .switchOut s = .next (releasesBegun s s)) := by
  refine ⟨fun hquiet => ?_, fun hquiet hswap => ?_, fun hquiet hswap hdone => ?_⟩
  · simp only [exec, execSwitchOut, htenant, hleaving, hfree, hquiet, ne_eq, not_true_eq_false, decide_false, Bool.or_self,
      Bool.not_false, Bool.false_eq_true, if_false, if_true]
  · simp only [exec, execSwitchOut, htenant, hleaving, hfree, hquiet, hswap, ne_eq, not_true_eq_false, decide_false, Bool.or_self,
      Bool.not_false, Bool.not_true, Bool.false_eq_true, if_false, if_true]
    rfl
  · have hnot := Bool.eq_false_iff.mpr (mt (leaveDone_iff s _).mp hdone)
    simp only [exec, execSwitchOut, htenant, hleaving, hfree, hquiet, hswap, hnot, ne_eq, not_true_eq_false, decide_false, Bool.or_self,
      Bool.not_false, Bool.not_true, Bool.false_eq_true, if_false, if_true]
    rfl

theorem switchOut_done (hquiet : clusterQuiet s (s.pick.a % 8) x = true) (hswap : (s.clu (s.pick.a % 8)).swapping = true)
    (hdone : LeaveDone s (s.pick.a % 8)) :
    ((s.ctx x).state = .draining → exec .switchOut s = .next (endLeave s (s.pick.a % 8) x)) ∧
    ((s.ctx x).state ≠ .draining →
      (∀ t, saveOut s x (s.pick.a % 8) = (t, .wait) → exec .switchOut s = .next t) ∧
      (∀ t code addr, saveOut s x (s.pick.a % 8) = (t, .fail code addr) →
        exec .switchOut s = .next (saveFault t (s.pick.a % 8) x code addr true)) ∧
      (∀ t, saveOut s x (s.pick.a % 8) = (t, .done) → exec .switchOut s = .next (faultRefused (endLeave (saveCluster
        (recordsKept t x (s.pick.a % 8)) (s.pick.a % 8) x (clusterImage t x (s.pick.a % 8)).1) (s.pick.a % 8) x) (s.pick.a % 8) x))) := by
  have hall := (leaveDone_iff s _).mpr hdone
  refine ⟨fun hdrain => ?_, fun hkeep => ⟨fun t hsave => ?_, fun t code addr hsave => ?_, fun t hsave => ?_⟩⟩
  · simp only [exec, execSwitchOut, htenant, hleaving, hfree, hquiet, hswap, hall, hdrain, beq_self_eq_true, ne_eq, not_true_eq_false,
      decide_false, Bool.or_self, Bool.not_true, Bool.false_eq_true, if_false, if_true]
  all_goals
    have hnot : ((s.ctx x).state == .draining) = false := beq_eq_false_iff_ne.mpr hkeep
    simp only [exec, execSwitchOut, htenant, hleaving, hfree, hquiet, hswap, hall, hnot, hsave, ne_eq, not_true_eq_false,
      decide_false, Bool.or_self, Bool.not_true, Bool.false_eq_true, if_false]

end

section
variable {s : State} {x : Nat} (htenant : (s.clu (s.pick.a % 8)).tenant = none) (hcoming : (s.clu (s.pick.a % 8)).coming = some x)
  (hfree : (s.clu (s.pick.a % 8)).stuck = false) (hstay : (s.clu (s.pick.a % 8)).leaving = none)
  (hstanding : (standing s (s.pick.a % 8) x).isSome = true)
include htenant hcoming hfree hstay hstanding

/-- A cluster's memory as its new tenant finds it (R164). -/
def emptied (u : State) (k x : Nat) : State := clearCluster (u.setClu k { u.clu k with tenant := some x }) k

theorem contextRestore_empty (hnone : (s.ctx x).saved.find (s.pick.a % 8) = none) : exec .contextRestore s = .next (gainRoom
    (beginTenancy ((emptied s (s.pick.a % 8) x).setClu (s.pick.a % 8) { (emptied s (s.pick.a % 8) x).clu (s.pick.a % 8) with
      crews := (s.clu (s.pick.a % 8)).crews.map (fun e => (e.1, emptyCrew e.2.gen)), cuffs := [], bcb := [] }) (s.pick.a % 8) x)
    ((List.range 256).map fun j => 256 * (s.pick.a % 8) + j)) := by
  have hsome := Option.isNone_eq_false_iff.mpr hstanding
  simp only [exec, execContextRestore, htenant, hcoming, hfree, hstay, hsome, hnone, Option.isSome_none, Bool.or_self, Bool.false_eq_true,
    if_false, gainCluster, emptied, emptyCrew]

theorem contextRestore_saved {b : SavedCluster} (hsaved : (s.ctx x).saved.find (s.pick.a % 8) = some b) :
    (∀ u, copyIn x (s.pick.a % 8) (blockBase s x (s.pick.a % 8)) b.ranges s = (u, .inl .wait) → exec .contextRestore s = .next u) ∧
    (∀ u code addr, copyIn x (s.pick.a % 8) (blockBase s x (s.pick.a % 8)) b.ranges s = (u, .inl (.fail code addr)) →
      exec .contextRestore s = .next (saveFault u (s.pick.a % 8) x code addr false)) ∧
    (∀ u grans, copyIn x (s.pick.a % 8) (blockBase s x (s.pick.a % 8)) b.ranges s = (u, .inr grans) → exec .contextRestore s =
      .next (beginTenancy (loadCluster (emptied u (s.pick.a % 8) x) (s.pick.a % 8) x b u.pick.bytes grans) (s.pick.a % 8) x)) := by
  have hsome := Option.isNone_eq_false_iff.mpr hstanding
  refine ⟨fun u hcopy => ?_, fun u code addr hcopy => ?_, fun u grans hcopy => ?_⟩
  all_goals simp only [exec, execContextRestore, htenant, hcoming, hfree, hstay, hsome, hsaved, hcopy, Option.isSome_none, Bool.or_self,
    Bool.false_eq_true, if_false]
  rfl

end

/-- Settles O53. -/
theorem contextSteps : Obligations.ContextSteps := by
  refine ⟨fun s => ⟨fun m hm hdrain => ?busy, fun hstate => ?commands⟩, fun s hstate hdrained => drainComplete_ends hstate hdrained,
    fun s t htenant hstay hfree hdue => quantumEnd_ends htenant hstay hfree hdue, fun s hstay hfree => ?choice, fun s x => ?out, fun s x => ?restore⟩
  case busy =>
    have hends (cmd : Nat) (hcmd : 1 ≤ cmd ∧ cmd ≤ 8) : ctxCommand s (s.pick.a % 64) cmd = commanded (s.pick.a % 64) (s, 4) :=
      congrArg (commanded _) (ctxAct_draining s _ hdrain hcmd)
    simp only [List.mem_cons, List.not_mem_nil, or_false] at hm
    rcases hm with rfl | rfl | rfl | rfl | rfl | rfl | rfl | rfl
    · exact congrArg Host.Outcome.next (hends 1 (by decide))
    · exact congrArg Host.Outcome.next (hends 2 (by decide))
    · exact congrArg Host.Outcome.next (hends 3 (by decide))
    · exact congrArg Host.Outcome.next (hends 4 (by decide))
    · exact congrArg Host.Outcome.next (hends 5 (by decide))
    · exact congrArg Host.Outcome.next (hends 6 (by decide))
    · exact congrArg Host.Outcome.next (hends 7 (by decide))
    · exact congrArg Host.Outcome.next (hends 8 (by decide))
  case commands =>
    have hends {m : Instr} {cmd : Nat} {r : State × Nat} (hm : exec m s = .next (ctxCommand s (s.pick.a % 64) cmd))
        (hr : ctxAct s (s.pick.a % 64) cmd = r) : exec m s = .next (commanded (s.pick.a % 64) r) := hr ▸ hm
    have hbuild := endsWith_ite (hends (m := .ctxBuild) (cmd := 1) rfl (ctxAct_build hstate))
    have hcommit := endsWith_ite_ite (hends (m := .ctxCommit) (cmd := 2) rfl (ctxAct_commit hstate))
    have hsuspend := endsWith_ite (hends (m := .ctxSuspend) (cmd := 3) rfl (ctxAct_suspend hstate))
    have hresume := endsWith_ite (hends (m := .ctxResume) (cmd := 4) rfl (ctxAct_resume hstate))
    have hreset := endsWith_ite_ite (hends (m := .ctxReset) (cmd := 5) rfl (ctxAct_reset hstate))
    have hkill := hends (m := .ctxKill) (cmd := 6) rfl (ctxAct_kill hstate)
    have hfree := endsWith_ite (hends (m := .ctxFree) (cmd := 7) rfl (ctxAct_free hstate))
    have hdump := endsWith_ite (hends (m := .ctxDump) (cmd := 8) rfl (ctxAct_dump hstate))
    refine ⟨hbuild, hcommit, hsuspend, hresume, ?_, hfree, hdump⟩
    by_cases hruns : (s.ctx (s.pick.a % 64)).state ∈ [CtxState.ready, .active, .suspended, .faulted]
    · have hbuilt : (s.ctx (s.pick.a % 64)).state ≠ .building := fun h => by rw [h] at hruns; exact absurd hruns (by decide)
      rw [if_pos hruns] at hreset ⊢
      rw [if_neg hbuilt, if_pos hruns] at hkill
      exact ⟨hreset, hkill⟩
    rw [if_neg hruns] at hreset hkill ⊢
    by_cases hdumping : (s.ctx (s.pick.a % 64)).state = .dumping
    · have hbuilt : (s.ctx (s.pick.a % 64)).state ≠ .building := fun h => by rw [h] at hdumping; cases hdumping
      rw [if_pos hdumping] at hreset ⊢
      rw [if_neg hbuilt, if_pos hdumping] at hkill
      exact ⟨hreset, hkill⟩
    rw [if_neg hdumping] at hreset hkill ⊢
    exact ⟨hreset, endsWith_ite hkill⟩
  case choice =>
    obtain ⟨hcomes, hgives⟩ := tenantChoice_ends hstay hfree
    exact ⟨hcomes, fun t p b q htenant hprio hbest => hgives t p b q htenant (tenantPrio_eq_some hprio) hbest⟩
  case out =>
    intro k c done begin htenant hleaving hfree
    obtain ⟨hnoisy, hstart, hgoing⟩ := switchOut_waits htenant hleaving hfree
    exact ⟨hnoisy, hstart, hgoing, fun hquiet hswap hdone => switchOut_done htenant hleaving hfree hquiet hswap hdone⟩
  case restore =>
    intro k c empty htenant hcoming hfree hstay hstanding
    exact ⟨contextRestore_empty htenant hcoming hfree hstay hstanding, fun b hsaved =>
      contextRestore_saved htenant hcoming hfree hstay hstanding hsaved⟩

end Sys2Proof.Proofs
end

section
/-! PROOFS. Records at the head of a queue (O54). -/
namespace Sys2Proof.Proofs
set_option Elab.async false

open Sys2Proof Sys2Proof.Machine Sys2Proof.Claims

/-- What the start of a record leaves (R110, R112). -/
def beganEnds (q n : Nat) : State × Began → State
  | (s, .takes more) => settleQueue (more (takeRecord s q)) q
  | (s, .waits) => s
  | (s, .bad e) => recordError s q e n

section
variable {s t : State} {kind n : Nat} {bits : BitVec 512}

/-- A record that heads the chosen queue is started. -/
theorem startRecord_head (hhead : HeadIs s kind t n bits) (act : State → Nat → BitVec 512 → State × Began) :
    startRecord s kind act = .next (beganEnds (s.pick.a % 4096) n (act t n bits)) := by
  obtain ⟨hchosen, hread, hn, hkind, hcheck⟩ := hhead
  have hgo : (recKind bits != kind || (recordCheck t (s.pick.a % 4096 / 64) bits).isSome) = false := by
    rw [hkind, hcheck, bne_self_eq_false]
    rfl
  simp only [startRecord, hchosen, hread, hgo, Bool.not_true, Bool.false_eq_true, if_false, ← hn]
  rcases act t n bits with ⟨u, more | _ | e⟩ <;> rfl

/-- A record whose start is known, taken. -/
theorem took_of_start {m : Instr} {act : State → Nat → BitVec 512 → State × Began} {u : State} {more : State → State}
    (hexec : exec m s = startRecord s kind act) (hhead : HeadIs s kind t n bits) (hact : act t n bits = (u, .takes more)) :
    Took m s (more (takeRecord u (s.pick.a % 4096))) := by
  rw [Took, hexec, startRecord_head hhead, hact]
  rfl

/-- A record that stays at the head. -/
theorem waits_of_start {m : Instr} {act : State → Nat → BitVec 512 → State × Began} {u : State}
    (hexec : exec m s = startRecord s kind act) (hhead : HeadIs s kind t n bits) (hact : act t n bits = (u, .waits)) :
    exec m s = .next u := by
  rw [hexec, startRecord_head hhead, hact]
  rfl

/-- A record in error (R112). -/
theorem bad_of_start {m : Instr} {act : State → Nat → BitVec 512 → State × Began} {u : State} {e : Nat}
    (hexec : exec m s = startRecord s kind act) (hhead : HeadIs s kind t n bits) (hact : act t n bits = (u, .bad e)) :
    exec m s = .next (recordError u (s.pick.a % 4096) e n) := by
  rw [hexec, startRecord_head hhead, hact]
  rfl

end

/-! Each kind's start. -/

/-- The start of a DRAW that has its turn, by its prefixes (R228). -/
def drawStart (q n k : Nat) (bits : BitVec 512) : State × Except HomeFail (BitVec 1024 × BitVec 1024) → State × Began
  | (s, .error .held) => (s, .waits)
  | (s, .error _) => (s, .bad errBadField)
  | (s, .ok pre) => (s, .takes fun s => arbiterServe (startDraw s (q / 64) bits pre (some (q, n)) none) k (q / 64) 6 (drawStream bits) 0
      ((q % 64 * 256 + n) % 65536))

/-- The start of a WAIT, by its event word. -/
def waitStart (q n value : Nat) : State × Except HomeFail Nat → State × Began
  | (s, .ok v) => (s, if v ≥ value then .takes (fun s => recordDone (acquireClusters s (q / 64)) q n) else .waits)
  | (s, .error .held) => (s, .waits)
  | (s, .error _) => (s, .bad errFault)

/-- The start of a SIGNAL: its write's outcome (R110). -/
def signalWritten (q n : Nat) (bits : BitVec 512) : State × Option HomeFail → State × Began
  | (s, some .held) => (s, .waits)
  | (s, some _) => (s, .bad errFault)
  | (s, none) => (s, .takes fun s => recordDone (sendInterrupt s bits) q n)

/-- The start of a SIGNAL whose release is over: the value that it writes. -/
def signalValued (q n : Nat) (bits : BitVec 512) : State × Except HomeFail Nat → State × Began
  | (s, .error .held) => (s, .waits)
  | (s, .error _) => (s, .bad errFault)
  | (s, .ok v) => signalWritten q n bits (recordWrite s q (eventSeg bits) (eventOff bits) (leBytes 8 v))

/-- The start of a SIGNAL: its release (R64). -/
def signalStart (q n : Nat) (bits : BitVec 512) : State × Bool → State × Began
  | (s, false) => (s, .waits)
  | (s, true) => signalValued q n bits (signalValue s q bits)

/-- The value that a SIGNAL writes: its own, or the word's sum with it. -/
theorem signalValue_eq {w x : State} {q new : Nat} {bits : BitVec 512}
    (h : if bits.getLsbD 383 then ∃ old, eventRead w q bits = (x, .ok old) ∧ new = old + iv bits 384 64 else x = w ∧ new = iv bits 384 64) :
    signalValue w q bits = (x, .ok new) := by
  unfold signalValue
  split at h
  · next hadd =>
    obtain ⟨old, hread, rfl⟩ := h
    rw [hadd, hread]
    rfl
  · next hplain =>
    obtain ⟨rfl, rfl⟩ := h
    rw [Bool.eq_false_iff.mpr hplain]
    rfl

section
variable (s : State)

theorem exec_signalRecord : exec .signalRecord s = startRecord s 5 fun t n bits =>
    signalStart (s.pick.a % 4096) n bits (signalRelease t (s.pick.a % 4096)) := rfl

theorem exec_launchRecord : exec .launchRecord s = startRecord s 1 fun t n bits => startLaunch t (s.pick.a % 4096) n bits := rfl

theorem exec_copyRecord : exec .copyRecord s = startRecord s 3 fun t n bits =>
    if (t.core (copyCore t (s.pick.a % 4096))).eng.length ≥ 64 then (t, .waits)
    else (t, .takes fun u => (copyBarrier u (s.pick.a % 4096) bits).elim
      (finishRecord u (copyCmd u (s.pick.a % 4096) n bits) 3) fun bar => acceptCmd u (copyCore u (s.pick.a % 4096))
        { copyCmd u (s.pick.a % 4096) n bits with bar := bar }) := by
  rw [show exec .copyRecord s = execCopyRecord s from rfl, execCopyRecord]
  refine congrArg (startRecord s 3) ?_
  funext t n bits
  split
  · rfl
  · refine congrArg (fun more => (t, Began.takes more)) ?_
    funext u
    cases copyBarrier u (s.pick.a % 4096) bits <;> rfl

theorem exec_markRecord : exec .markRecord s = startRecord s 6 fun t n bits => (t, .takes fun u =>
    recordDone (traceRecord u (lowestCluster u (s.pick.a % 4096 / 64)) 3
      (recTag bits + s.pick.a % 4096 / 64 * 2 ^ 32 + s.pick.a % 4096 % 64 * 2 ^ 40)) (s.pick.a % 4096) n) := rfl

theorem exec_drawRecord : exec .drawRecord s = startRecord s 2 fun t n bits =>
    if !arbiterMay t (lowestCluster t (s.pick.a % 4096 / 64)) (s.pick.a % 4096 / 64) 6 (drawStream bits) 0
        ((s.pick.a % 4096 % 64 * 256 + n) % 65536) then (t, .waits)
    else drawStart (s.pick.a % 4096) n (lowestCluster t (s.pick.a % 4096 / 64)) bits (drawPrefixes t (s.pick.a % 4096 / 64) bits) := rfl

theorem exec_waitRecord : exec .waitRecord s = startRecord s 4 fun t n bits =>
    waitStart (s.pick.a % 4096) n (iv bits 384 64) (eventRead t (s.pick.a % 4096) bits) := rfl

end

/-- Settles O54. -/
theorem queueRecords : Obligations.QueueRecords := by
  intro s t n bits q u value
  have hvalue : iv bits 384 64 = value := iv_eq_extractLsb' ..
  refine ⟨fun hhead => ⟨fun w more hstart => took_of_start (exec_launchRecord s) hhead hstart, fun w hstart =>
      waits_of_start (exec_launchRecord s) hhead hstart⟩,
    fun hhead => ?draw, fun hhead => ?copy, fun hhead => ?wait, fun hhead => ?signal, 
    fun hhead => ?mark⟩
  case draw =>
    intro k str
    have hexec := exec_drawRecord s
    refine ⟨fun hturn => waits_of_start hexec hhead (if_pos ((Bool.not_eq_true' _).mpr hturn)), fun hturn => ⟨fun w pre hpre => ?_, fun w hpre => ?_,
      fun w f hpre hf => ?_⟩⟩
    · have htook := took_of_start hexec hhead ((if_neg (not_not_of_true hturn)).trans (congrArg (drawStart q n k bits) hpre))
      exact htook
    · exact waits_of_start hexec hhead ((if_neg (not_not_of_true hturn)).trans (congrArg (drawStart q n k bits) hpre))
    · refine bad_of_start hexec hhead ((if_neg (not_not_of_true hturn)).trans ((congrArg (drawStart q n k bits) hpre).trans ?_))
      cases f
      case held => exact absurd rfl hf
      all_goals rfl
  case copy =>
    intro c full
    have hexec := exec_copyRecord s
    refine ⟨fun hfull => waits_of_start hexec hhead (if_pos hfull), fun hroom hnone => ?_, fun bar hroom hsome => ?_⟩
    · have htook := took_of_start hexec hhead (if_neg hroom)
      simp only [q, u] at hnone
      simp only [hnone] at htook
      exact htook
    · have htook := took_of_start hexec hhead (if_neg hroom)
      simp only [q, u] at hsome
      simp only [hsome] at htook
      exact htook
  case wait =>
    have hexec := exec_waitRecord s
    refine ⟨fun w v hread => ⟨fun hcome => ?_, fun hwait => ?_⟩, fun w hread => ?_, fun w f hread hf => ?_⟩
    · have htook := took_of_start hexec hhead ((congrArg (waitStart q n _) hread).trans (congrArg (Prod.mk w) (if_pos (hvalue ▸ hcome))))
      exact htook
    · exact waits_of_start hexec hhead ((congrArg (waitStart q n _) hread).trans (congrArg (Prod.mk w)
        (if_neg (Nat.not_le.mpr (hvalue ▸ hwait)))))
    · exact waits_of_start hexec hhead (congrArg (waitStart q n _) hread)
    · refine bad_of_start hexec hhead ((congrArg (waitStart q n _) hread).trans ?_)
      cases f
      case held => exact absurd rfl hf
      all_goals rfl
  case signal =>
    have hexec := exec_signalRecord s
    refine ⟨fun w hrel => waits_of_start hexec hhead (congrArg (signalStart q n bits) hrel), fun w x y new hrel hnew hwrite => ?_⟩
    rw [← hvalue] at hnew
    have hintr : iv bits 371 11 = (bits.extractLsb' 371 11).toNat := iv_eq_extractLsb' ..
    have htook := took_of_start hexec hhead ((congrArg (signalStart q n bits) hrel).trans ((congrArg (signalValued q n bits)
      (signalValue_eq hnew)).trans (congrArg (signalWritten q n bits) hwrite)))
    rw [sendInterrupt, hintr] at htook
    exact htook
  case mark =>
    have htook := took_of_start (exec_markRecord s) hhead rfl
    exact htook

end Sys2Proof.Proofs
end

section
/-! PROOFS. Queue commands, placement and completion (O55). -/
namespace Sys2Proof.Proofs
set_option Elab.async false

open Sys2Proof Sys2Proof.Machine Sys2Proof.Claims

/-! A command's register keeps its target and its result (R107, R228). -/

section
variable {m : Instr} {s t u w : State} {f : State → Nat → State} {p q : Prop} [Decidable p] [Decidable q] {i j k : Nat}

theorem next_ite (h : exec m s = .next (f (if p then (u, i) else (w, j)).1 (if p then (u, i) else (w, j)).2)) :
    if p then exec m s = .next (f u i) else exec m s = .next (f w j) := by
  split
  · next hp =>
    rw [if_pos hp] at h
    exact h
  · next hp =>
    rw [if_neg hp] at h
    exact h

theorem next_ite_ite {r : State × Nat} (h : exec m s = .next (f r.1 r.2))
    (hr : r = if p then (t, i) else if q then (u, j) else (w, k)) :
    if p then exec m s = .next (f t i) else if q then exec m s = .next (f u j) else exec m s = .next (f w k) := by
  subst hr
  by_cases hp : p
  · rw [if_pos hp] at h ⊢
    exact h
  · rw [if_neg hp] at h ⊢
    exact next_ite h

end

/-! Queue commands (R107, R108). -/

/-- A write of QCMD keeps its target and its result. -/
def queued (q : Nat) (u : State) (code : Nat) : State := { u with dev := { u.dev with qTarget := q, qResult := code } }

section
variable (s : State) (q : Nat)

theorem queueAct_bind : queueAct s q 1 = if (s.queue q).state ≠ .unbound then (s, 1)
    else if queueValid s q then (syncQueue (putQueue s q { state := .idle }) q, 0) else (s, 2) := by
  simp only [queueAct, bne_iff_ne]
  cases queueValid s q <;> rfl

theorem queueAct_unbind : queueAct s q 2 = if (s.queue q).state = .unbound then (s, 1) else if (s.queue q).running ≠ [] then (s, 4)
    else ((putQueue s q { s.queue q with state := .unbound }).setQueue q {}, 0) := by
  simp only [queueAct, beq_iff_eq, Bool.not_eq_true', List.isEmpty_eq_false_iff]

theorem serves_iff {x : QState} : x.serves = true ↔ x ∈ [QState.watching, .draining, .blocked] := by
  cases x <;> decide

theorem queueAct_suspend : queueAct s q 3 = if (s.queue q).state ∈ [QState.watching, .draining, .blocked] then
    (putQueue s q { s.queue q with state := .suspended, byCtx := false, since := none, wakes := [], watch := [] }, 0) else (s, 1) := by
  simp only [queueAct, serves_iff]

theorem queueAct_resume : queueAct s q 4 =
    if ((s.queue q).state = .suspended ∧ (s.ctx (q / 64)).state.live = true) ∨ (s.queue q).state = .error then
      (syncQueue (putQueue s q { s.queue q with state := .watching, byCtx := false, watch := [] }) q, 0) else (s, 1) := by
  simp only [queueAct, Bool.or_eq_true, Bool.and_eq_true, beq_iff_eq]

/-- A queue in error goes on, past the record in error if that is still its head (R108). -/
def clearedQueue (x : Queue) : Queue :=
  if x.errIdx = x.head then ({ x with state := .watching, watch := [], head := x.head + 1 } : Queue).complete x.head.toNat
  else { x with state := .watching, watch := [] }

theorem queueAct_clear : queueAct s q 5 = if (s.queue q).state ≠ .error then (s, 1)
    else (syncQueue (putQueue s q (clearedQueue (s.queue q))) q, 0) := by
  simp only [queueAct, beq_iff_eq, ite_not, clearedQueue]

end

/-! The wellhead's own steps (R104, R106, R111-R113). -/

section
variable (s : State)

/-- Whether a queue only watches: nothing has woken it, and its watch lies in device memory (R106). -/
def armedQueue (w : State) (q : Nat) : Prop :=
  (w.queue q).state = .watching ∧ (w.queue q).wakes = [] ∧ (w.queue q).watch ≠ [] ∧ qHost w q = false

theorem armedQueue_iff (w : State) (q : Nat) :
    ((w.queue q).state == .watching && (w.queue q).wakes.isEmpty && !(w.queue q).watch.isEmpty && !qHost w q) = true ↔ armedQueue w q := by
  simp only [armedQueue, Bool.and_eq_true, beq_iff_eq, List.isEmpty_iff, Bool.not_eq_true', List.isEmpty_eq_false_iff, and_assoc]

/-- A queue whose control block a home held, written again. -/
def rewritten (s : State) (q : Nat) : State := if (s.queue q).stale then putControl s q else s

theorem wellheadWake_ends :
    (armedQueue (rewritten s (s.pick.a % 4096)) (s.pick.a % 4096) →
      exec .wellheadWake s = .next (syncQueue (rewritten s (s.pick.a % 4096)) (s.pick.a % 4096))) ∧
    (¬ armedQueue (rewritten s (s.pick.a % 4096)) (s.pick.a % 4096) →
      exec .wellheadWake s = .next (settleQueue (rewritten s (s.pick.a % 4096)) (s.pick.a % 4096))) := by
  rw [show exec .wellheadWake s = execWellheadWake s from rfl, execWellheadWake]
  exact ⟨fun h => if_pos ((armedQueue_iff _ _).mpr h), fun h => if_neg (mt (armedQueue_iff _ _).mp h)⟩

theorem waitTimeout_due {t : Nat} {u : State} {bits : BitVec 512} (hsince : (s.queue (s.pick.a % 4096)).waitSince = some t)
    (hstate : (s.queue (s.pick.a % 4096)).state = .blocked) (hhead : headRecord s (s.pick.a % 4096) = (u, .ok bits))
    (hkind : recKind bits = 4) (hlimit : iv bits 378 6 ≠ 0) (hdue : t + 2 ^ iv bits 378 6 ≤ u.tick) :
    exec .waitTimeout s = .next (recordError u (s.pick.a % 4096) 5 (s.queue (s.pick.a % 4096)).head.toNat) := by
  simp only [exec, execWaitTimeout, hsince, hstate, hhead, hkind, bne_iff_ne.mpr hlimit, hdue, decide_true, Bool.and_self, if_true]
  rfl

theorem queueAgeing_due {t : Nat} (hsince : (s.queue (s.pick.a % 4096)).since = some t)
    (hstate : (s.queue (s.pick.a % 4096)).state = .draining) (hdue : t + 2 ^ 20 ≤ s.runTick) :
    exec .queueAgeing s = .next (s.setQueue (s.pick.a % 4096) { s.queue (s.pick.a % 4096) with
      level := if qEffective s (s.pick.a % 4096) < ctxPrioMax s (s.pick.a % 4096 / 64) then (s.queue (s.pick.a % 4096)).level + 1
        else (s.queue (s.pick.a % 4096)).level
      since := some s.runTick }) := by
  have hgo : ((s.queue (s.pick.a % 4096)).state != .draining || decide (s.runTick < t + 2 ^ 20)) = false := by
    rw [hstate, decide_eq_false (Nat.not_lt.mpr hdue)]
    rfl
  simp only [exec, execQueueAgeing, hsince, hgo, Bool.false_eq_true, if_false]

section
variable {s} {h : Handover} {rest : List Handover} {u w : State} (hhanded : (s.queue (s.pick.a % 4096)).handed = h :: rest)
  (hroom : ((s.queue (s.pick.a % 4096)).appends - (s.queue (s.pick.a % 4096)).head).toNat < 2 ^ qLog s (s.pick.a % 4096))
include hhanded hroom

theorem wellheadAppend_written
    (hring : queueWrite s (s.pick.a % 4096) (qRing s (s.pick.a % 4096) + 64 * ((s.queue (s.pick.a % 4096)).appends.toNat %
      2 ^ qLog s (s.pick.a % 4096))) (leBytes 64 h.bits.toNat) = (u, none))
    (htail : queueWrite (u.setQueue (s.pick.a % 4096) { u.queue (s.pick.a % 4096) with appends := (s.queue (s.pick.a % 4096)).appends + 1 })
      (s.pick.a % 4096) (qCtrl u (s.pick.a % 4096)) (leBytes 4 ((s.queue (s.pick.a % 4096)).appends.toNat + 1)) = (w, none)) :
    exec .wellheadAppend s = .next (tellLaunch (w.setQueue (s.pick.a % 4096) { w.queue (s.pick.a % 4096) with handed := rest }) h.target 2
      (s.queue (s.pick.a % 4096)).appends.toNat) := by
  simp only [exec, execWellheadAppend, hhanded, if_neg (Nat.not_le.mpr hroom), ge_iff_le, hring, htail]

theorem wellheadAppend_lost {f : HomeFail}
    (hring : queueWrite s (s.pick.a % 4096) (qRing s (s.pick.a % 4096) + 64 * ((s.queue (s.pick.a % 4096)).appends.toNat %
      2 ^ qLog s (s.pick.a % 4096))) (leBytes 64 h.bits.toNat) = (u, some f)) (hf : f ≠ .held)
    (hw : w = tellLaunch (u.setQueue (s.pick.a % 4096) { u.queue (s.pick.a % 4096) with
      handed := rest, appends := (s.queue (s.pick.a % 4096)).appends }) h.target 3 0) :
    exec .wellheadAppend s = .next (if (w.queue (s.pick.a % 4096)).state.serves then
      recordError w (s.pick.a % 4096) 4 (s.queue (s.pick.a % 4096)).appends.toNat else w) := by
  subst hw
  simp only [exec, execWellheadAppend, hhanded, if_neg (Nat.not_le.mpr hroom), ge_iff_le, hring]
  cases f
  case held => exact absurd rfl hf
  all_goals rfl

end

/-! Placement and completion (R119, R123). -/

theorem placementPass_due (hdue : s.dev.passTick + 64 ≤ s.tick) : exec .placementPass s = .next
    ((passOrder (placeFragments { s with dev := { s.dev with passTick := s.tick / 64 * 64 } })).foldl (fun acc ln => passLaunch ln acc)
      (placeFragments { s with dev := { s.dev with passTick := s.tick / 64 * 64 } }, [])).1 :=
  if_neg (Nat.not_lt.mpr hdue)

section
variable {s} {e : Event} {l : Launch} (hevent : s.events[s.pick.a]? = some e) (hlaunch : s.launch e.launch = some l)
include hevent hlaunch

theorem completionEvent_bit {t u : State} {w : Nat} (hbit : e.bitSet = false) (hover : releaseOver s e.core .dev = true)
    (hread : blockRead s l.ctx l.segs (iv l.bits 368 48 + 64 + 8 * (e.crew / 64)) = (t, .ok w))
    (hwrite : blockWrite t l.ctx l.segs (iv l.bits 368 48 + 64 + 8 * (e.crew / 64)) (w ||| 2 ^ (e.crew % 64)) = (u, none)) :
    exec .completionEvent s =
      .next (eventAt (faultDissolved u e.core l.ctx) (u.events.set s.pick.a { e with bitSet := true })) := by
  simp only [exec, execCompletionEvent, hevent, hlaunch, hbit, hover, hread, hwrite, Bool.not_false, Bool.not_true, Bool.false_eq_true,
    if_false, if_true]
  rfl

theorem completionEvent_count {t u w : State} {n : Nat} (hbit : e.bitSet = true)
    (hread : blockRead s l.ctx l.segs (iv l.bits 368 48) = (t, .ok n)) (hwrite : blockWrite t l.ctx l.segs (iv l.bits 368 48) (n + 1) = (u, none))
    (hw : w = { u with events := u.events.eraseIdx s.pick.a }) :
    exec .completionEvent s = .next (if l.crews w ≤ l.count + 1 then
      recordDone { w with launches := w.launches.del e.launch } l.qid l.recNo else w.setLaunch e.launch { l with count := l.count + 1 }) := by
  subst hw
  simp only [exec, execCompletionEvent, hevent, hlaunch, hbit, hread, hwrite, Bool.not_true, Bool.false_eq_true, if_false, ge_iff_le]
  rfl

end
end

/-- Settles O55. -/
theorem queueSteps : Obligations.QueueSteps := by
  refine ⟨fun s => ?queue, fun s hdue => placementPass_due s hdue, fun s e l hevent hlaunch => ?event⟩
  case queue =>
    intro q x ends
    have hends {m : Instr} {cmd : Nat} (hm : exec m s = .next (queueCommand s q cmd)) :
        exec m s = .next (queued q (queueAct s q cmd).1 (queueAct s q cmd).2) := hm
    refine ⟨?wake, fun t u bits hsince hstate hhead hkind hlimit hdue => ?timeout, fun t hsince hstate hdue => queueAgeing_due s hsince hstate hdue,
      fun h rest u w hhanded hroom hring htail => wellheadAppend_written hhanded hroom hring htail,
      fun h rest u f hhanded hroom hring hf => wellheadAppend_lost hhanded hroom hring hf rfl, ?bind, ?unbind, ?suspend, ?resume, ?clear⟩
    case wake =>
      obtain ⟨hsync, hsettle⟩ := wellheadWake_ends s
      intro w y armed
      by_cases h : armed
      · rw [if_pos h]
        exact hsync h
      · rw [if_neg h]
        exact hsettle h
    case timeout =>
      have hiv : iv bits 378 6 = (bits.extractLsb' 378 6).toNat := iv_eq_extractLsb' ..
      rw [← hiv] at hlimit hdue
      exact waitTimeout_due s hsince hstate hhead hkind hlimit hdue
    case bind => exact next_ite_ite (f := queued q) (hends (m := .queueBind) (cmd := 1) rfl) (queueAct_bind s q)
    case unbind => exact next_ite_ite (f := queued q) (hends (m := .queueUnbind) (cmd := 2) rfl) (queueAct_unbind s q)
    case suspend =>
      have h := hends (m := .queueSuspend) (cmd := 3) rfl
      rw [queueAct_suspend] at h
      exact next_ite (f := queued q) h
    case resume =>
      have h := hends (m := .queueResume) (cmd := 4) rfl
      rw [queueAct_resume] at h
      exact next_ite (f := queued q) h
    case clear =>
      have h := hends (m := .queueClear) (cmd := 5) rfl
      rw [queueAct_clear] at h
      exact next_ite (f := queued q) h
  case event =>
    intro blk
    have hblk : iv l.bits 368 48 = blk := iv_eq_extractLsb' ..
    rw [← hblk]
    exact ⟨fun t w u hbit hover hread hwrite => completionEvent_bit hevent hlaunch hbit hover hread hwrite, fun t n u hbit hread hwrite =>
      completionEvent_count hevent hlaunch hbit hread hwrite rfl⟩

end Sys2Proof.Proofs
end

section
/-! PROOFS. What the operations on memory keep: the turn's operands, and the canonical form of memory. One lemma per operation, each
of a state that was reached from s₀. -/
namespace Sys2Proof.Proofs
set_option Elab.async false

open Sys2Proof Sys2Proof.Machine Sys2Proof.Claims

/-- A state reached from s₀ with the operands of the turn that s₀ has, whose memory has the canonical form where that of s₀ does. -/
structure Keeps (s₀ s : State) : Prop where
  pick : s.pick = s₀.pick
  canonical : s₀.canonical → s.canonical

theorem clearFlips_pick (s : State) (g grade : Nat) : (clearFlips s g grade).pick = s.pick := by
  unfold clearFlips
  split <;> rfl

namespace Keeps

variable {s₀ s t : State}

theorem refl (s : State) : Keeps s s := ⟨rfl, id⟩

/-- Other parts of the state changed. -/
theorem same (h : Keeps s₀ s) (hpick : t.pick = s.pick := by rfl) (hmem : t.mem = s.mem := by rfl) : Keeps s₀ t :=
  ⟨hpick.trans h.pick, fun hc => by rw [State.canonical, hmem]; exact h.canonical hc⟩

/-- Bytes written anywhere. -/
theorem written (h : Keeps s₀ s) (a : Nat) (bs : List Byte) : Keeps s₀ { s with mem := s.mem.writeList a bs } :=
  ⟨h.pick, fun hc => Memory.writeList_wf _ _ _ (h.canonical hc)⟩

theorem writtenNat (h : Keeps s₀ s) (a n x : Nat) : Keeps s₀ { s with mem := s.mem.writeNat a n x } :=
  ⟨h.pick, fun hc => Memory.writeNat_wf _ _ _ _ (h.canonical hc)⟩

/-- Bytes left out. -/
theorem filtered (h : Keeps s₀ s) (p : Nat × Byte → Bool) : Keeps s₀ { s with mem := s.mem.filter p } :=
  ⟨h.pick, fun hc => Memory.filter_wf _ _ (h.canonical hc)⟩

/-- The state of a pair that an equation names. -/
theorem of_eq {α : Type} {p : State × α} {x : α} (h : Keeps s₀ p.1) (e : p = (t, x)) : Keeps s₀ t := by
  rw [e] at h
  exact h

theorem ite {p : Prop} [Decidable p] (hs : Keeps s₀ s) (ht : Keeps s₀ t) : Keeps s₀ (if p then s else t) := by
  split
  · exact hs
  · exact ht

theorem foldl {α : Type} {f : State → α → State} (hf : ∀ u x, Keeps s₀ u → Keeps s₀ (f u x)) (xs : List α) (h : Keeps s₀ s) :
    Keeps s₀ (xs.foldl f s) := by
  induction xs generalizing s with
  | nil => exact h
  | cons x xs ih => exact ih (hf _ x h)

variable (h : Keeps s₀ s)
include h

/-! Granules (R187-R193). -/

theorem after_setTrace (k : Nat) (x : Trace) : Keeps s₀ (s.setTrace k x) := h.same

theorem after_activate (pa : Nat) : Keeps s₀ (activate s pa) := h.same

theorem after_setFlips (g : Nat) (p : BitVec 288) : Keeps s₀ (s.setFlips g p) := h.same

theorem after_clearFlips (g grade : Nat) : Keeps s₀ (clearFlips s g grade) := by
  have hflips := h.after_setFlips g (s.flips.get 0 g &&& BitVec.ofNat 288 ((metaMask grade + (if grade = 2 then 0 else 2 ^ poisonBit grade)) * 2 ^ 256))
  unfold clearFlips
  exact .ite hflips.same hflips

theorem after_freshSide (g grade : Nat) (poisoned : Bool) : Keeps s₀ (freshSide s g grade poisoned) := by
  unfold freshSide
  exact (Keeps.ite (h.after_clearFlips _ _) ((h.after_clearFlips _ _).after_setFlips _ _)).same

theorem after_countCe (g : Nat) : Keeps s₀ (countCe s g) := h.same

theorem after_countUc (g : Nat) : Keeps s₀ (countUc s g) := h.same

/-- A corrected granule's bytes written back. -/
theorem after_correction (g grade : Nat) (bs : List Byte) :
    Keeps s₀ (countCe { clearFlips s g grade with mem := s.mem.writeList (dramKey (32 * g)) bs } g) :=
  ⟨(clearFlips_pick s g grade).trans h.pick, fun hc => Memory.writeList_wf _ _ _ (h.canonical hc)⟩

theorem after_draw : Keeps s₀ s.draw.1 := h.same

theorem after_granOpen (g grade : Nat) : Keeps s₀ (granOpen s g grade).1 := by
  have hdraw := h.after_draw
  unfold granOpen
  dsimp only
  split
  · exact hdraw
  · exact hdraw.after_correction g grade _
  · exact hdraw.after_countUc g

theorem after_granBeyond (g grade : Nat) : Keeps s₀ (granBeyond s g grade).1 := by
  unfold granBeyond
  dsimp only
  split
  · exact h
  · exact h.after_correction g grade _
  · exact h.after_countUc g

theorem after_granRead (g grade : Nat) : Keeps s₀ (granRead s g grade).1 := by
  have hact := h.after_activate (32 * g)
  unfold granRead
  dsimp only
  split
  · exact hact.after_granOpen g grade
  · split
    · exact hact.after_countUc g
    · split
      · exact hact
      · exact (hact.after_clearFlips g grade).after_countCe g
      · exact hact.after_countUc g
      · exact hact.after_granBeyond g grade

theorem after_sendWakes (first last : Nat) : Keeps s₀ (sendWakes s first last) := by
  unfold sendWakes
  exact .ite h.same h

theorem after_putBytes (key : Nat) (bs : List Byte) : Keeps s₀ (putBytes s key bs) :=
  ((h.after_sendWakes (lineOf key) (lineOf (key + (bs.length - 1)))).written key bs).same

theorem after_granWriteAll (g grade : Nat) (bs : List Byte) : Keeps s₀ (granWriteAll s g grade bs) := by
  unfold granWriteAll
  have hfresh := (h.after_activate (32 * g)).after_freshSide g grade false
  exact hfresh.same.after_putBytes _ _

theorem after_granWrite (g grade mask : Nat) (bs : List Byte) : Keeps s₀ (granWrite s g grade mask bs).1 := by
  unfold granWrite
  split
  · exact h
  · split
    · exact h.after_granWriteAll _ _ _
    · split
      · next hread => exact (((h.after_granRead g grade).of_eq hread).after_freshSide _ _ _).after_putBytes _ _
      · next hread => exact (((h.after_granRead g grade).of_eq hread).after_clearFlips _ _).after_putBytes _ _

theorem after_dropCachedAll (line : Nat) : Keeps s₀ (dropCachedAll s line) := h.same

/-! Hub control space and peers. -/

theorem after_hubMerge (off mask : Nat) (bs : List Byte) : Keeps s₀ (hubMerge s off mask bs) := h.written _ _

theorem after_writeNrcfg (st : Nat) (val : BitVec 64) : Keeps s₀ (writeNrcfg s st val) := h.same

theorem after_writeCecount (st : Nat) : Keeps s₀ (writeCecount s st) := h.same

theorem after_writeUccount (st : Nat) : Keeps s₀ (writeUccount s st) := h.same

theorem after_endTrace (k : Nat) : Keeps s₀ (endTrace s k) := by
  unfold endTrace
  exact .ite (h.writtenNat _ _ _).same h

theorem after_writeTraceCtl (k new : Nat) : Keeps s₀ (writeTraceCtl s k new) := by
  unfold writeTraceCtl
  refine .ite (.ite (h.writtenNat _ _ _) ?_) ?_
  · exact after_endTrace (after_setTrace (h.writtenNat _ _ _) _ _) k
  · exact after_setTrace (h.writtenNat _ _ _) _ _

theorem after_hubWrite (off mask : Nat) (bs : List Byte) : Keeps s₀ (hubWrite s off mask bs) := by
  have hmerge := fun m => h.after_hubMerge off m bs
  unfold hubWrite
  split
  · split
    · exact hmerge _
    · exact hmerge _
    · exact hmerge _
    · exact h
  · refine .ite (.ite (hmerge _) h) (.ite (.ite h (hmerge _)) (.ite (.ite ?_ (.ite (hmerge _) h)) (.ite (hmerge _) (.ite ?_ h))))
    · have hnrcfg := Keeps.ite (p := mask % 2 ^ 8 = 0) h (h.after_writeNrcfg ((off - 0x100000) / 0x10000) (BitVec.ofNat 64
        (leNat ((mergeBytes mask bs (bdBytes (s.stack ((off - 0x100000) / 0x10000)) ++ List.replicate 32 0)).take 8))))
      have hce := Keeps.ite (p := mask / 2 ^ 16 % 2 ^ 8 = 0) hnrcfg (hnrcfg.after_writeCecount ((off - 0x100000) / 0x10000))
      exact .ite hce (hce.after_writeUccount _)
    · exact h.after_writeTraceCtl _ _

theorem after_sendFlit (p vc tag : Nat) (body : PeerOp) : Keeps s₀ (sendFlit s p vc tag body) := by
  unfold sendFlit
  dsimp only
  split
  · exact h
  · exact h.same

theorem after_crossPeer (key : Nat) (body : PeerOp) : Keeps s₀ (crossPeer s key body) := by
  unfold crossPeer
  exact .ite (h.after_sendFlit _ _ _ _) h

/-! Table walks (R169-R173, R180). -/

theorem after_tableRead (pa : Nat) : Keeps s₀ (tableRead s pa).1 := by
  have hread := h.after_granRead (pa / 32) ((s.wgrade.find (pa / 32)).getD 1)
  unfold tableRead
  split
  · exact h
  · split
    · exact h
    · split
      · exact h
      · split
        · next heq => exact hread.of_eq heq
        · next heq => exact hread.of_eq heq

theorem after_tableThen (pa : Nat) {k : State → BitVec 64 → State × WalkEnd} (hk : ∀ u e, Keeps s₀ u → Keeps s₀ (k u e).1) :
    Keeps s₀ (tableThen s pa k).1 := by
  unfold tableThen
  split
  · next heq => exact (h.after_tableRead pa).of_eq heq
  · next heq => exact hk _ _ ((h.after_tableRead pa).of_eq heq)

theorem after_walkRead (x va : Nat) : Keeps s₀ (walkRead s x va).1 := by
  unfold walkRead
  refine h.after_tableThen _ fun u e hu => ?_
  split
  · exact hu
  · refine hu.after_tableThen _ fun v f hv => ?_
    split
    · exact hv
    · split
      · exact hv
      · exact hv.after_tableThen _ fun w g hw => hw

theorem after_invalidate (hit : Nat → Nat → Nat → Bool) : Keeps s₀ (invalidate s hit) := h.same

theorem after_tableWrite (pa : Nat) (e : BitVec 64) : Keeps s₀ (tableWrite s pa e) := by
  unfold tableWrite
  exact .ite h ((h.after_granWrite _ _ _ _).after_dropCachedAll _)

theorem after_putDp (x va : Nat) (on : Bool) : Keeps s₀ (putDp s x va on) := by
  have hwalk := h.after_walkRead x va
  unfold putDp
  split
  · next heq =>
    refine after_invalidate (Keeps.foldl (fun u i hu => ?_) _ (hwalk.of_eq heq)) _
    split
    · next hread => exact ((hu.after_tableRead _).of_eq hread).after_tableWrite _ _
    · next hread => exact (hu.after_tableRead _).of_eq hread
  · next heq => exact hwalk.of_eq heq

theorem after_dumpStall (x va : Nat) : Keeps s₀ (dumpStall s x va) := .ite h.same (h.after_putDp _ _ _)

/-! Agents (R74, R184). -/

theorem after_agentRead (key : Nat) (via : Via) (sys : Bool) (fuel n : Nat) : Keeps s₀ (agentRead s key via sys fuel n).1 := by
  induction fuel generalizing s key n with
  | zero => exact h
  | succ fuel ih =>
    unfold agentRead
    split
    · exact h
    · split
      · exact h
      · dsimp only
        split
        · have hread := h.after_granRead (granOf key) via.grade
          split
          · next heq => exact hread.of_eq heq
          · next heq =>
            have hrest := ih (hread.of_eq heq) (key + min n (32 - key % 32)) (n - min n (32 - key % 32))
            split
            · next hnext => exact hrest.of_eq hnext
            · exact hrest
        · split
          · exact h
          · have hrest := ih (h.after_crossPeer key (.load (keyAddr key) (min n (32 - key % 32)) via)) (key + min n (32 - key % 32))
              (n - min n (32 - key % 32))
            split
            · next hnext => exact hrest.of_eq hnext
            · exact hrest

theorem after_agentWrite (key : Nat) (via : Via) (sys : Bool) (fuel : Nat) (bs : List Byte) :
    Keeps s₀ (agentWrite s key via sys fuel bs).1 := by
  induction fuel generalizing s key bs with
  | zero => exact h
  | succ fuel ih =>
    unfold agentWrite
    split
    · exact h
    · split
      · exact h
      · dsimp only
        split
        · split
          · next heq => exact (h.after_granWrite _ _ _ _).of_eq heq
          · next heq => exact ih (((h.after_granWrite _ _ _ _).of_eq heq).after_dropCachedAll _) _ _
        · split
          · exact ih (h.after_hubWrite _ _ _) _ _
          · exact ih ((h.after_putBytes _ _).after_crossPeer _ _) _ _

theorem after_touchPage (k : Option Nat) (ctx va : Nat) : Keeps s₀ (touchPage s k ctx va) := by
  have hwalk := h.after_walkRead ctx va
  unfold touchPage
  split
  · exact hwalk
  · split
    · exact h
    · split
      · next heq => exact (hwalk.of_eq heq).same
      · next heq => exact hwalk.of_eq heq

/-! Blend (R239). -/

theorem after_blendPlace (k n va : Nat) : Keeps s₀ (blendPlace s k n va).1 := by
  have htouch := h.after_touchPage (some k) (streamCtx s n) va
  unfold blendPlace
  dsimp only
  split
  · exact htouch
  · exact htouch.after_dumpStall _ _
  · exact htouch
  · split
    · exact htouch
    · exact htouch
    · exact htouch

theorem after_blendAt (n : Nat) (zp cp : Nat × Via) (z : Word) (colour : Option (List Word)) : Keeps s₀ (blendAt s n zp cp z colour) := by
  have hread := h.after_agentRead zp.1 zp.2 false 2 4
  unfold blendAt
  dsimp only
  split
  · next heq => exact hread.of_eq heq
  · next u zd ce heq =>
    have hu := hread.of_eq heq
    have hdepth := Keeps.ite (p := streamField u n 967 1 = 1) (hu.after_agentWrite zp.1 zp.2 false 2 (leBytes 4 z.toNat)) hu
    split
    · exact hu
    · split
      · exact hdepth
      · split
        · next hcolour => exact (hdepth.after_agentRead _ _ _ _ _).of_eq hcolour
        · next hcolour => exact ((hdepth.after_agentRead _ _ _ _ _).of_eq hcolour).after_agentWrite _ _ _ _ _

theorem after_blendSample (k n set x y v : Nat) (z : Word) (colour : Option (List Word)) :
    Keeps s₀ (blendSample s k n set x y v z colour).1 := by
  have hdepth := h.after_blendPlace k n (depthVa s n set x y v)
  unfold blendSample
  split
  · next heq => exact hdepth.of_eq heq
  · next u zp heq =>
    have hcolour := (hdepth.of_eq heq).after_blendPlace k n (colourVa u n set x y v)
    split
    · next hc => exact hcolour.of_eq hc
    · next hc =>
      split
      · exact (hcolour.of_eq hc).after_blendAt _ _ _ _ _
      · exact hcolour.of_eq hc

theorem after_blendSamples (b : BlendItem) (k n set : Nat) (t : List ScreenVertex) (xs : List (Nat × Nat)) :
    Keeps s₀ (blendSamples b k n set t xs s).1 := by
  induction xs generalizing s with
  | nil => exact h
  | cons x xs ih =>
    unfold blendSamples
    dsimp only
    split
    · next heq => exact (h.after_blendSample _ _ _ _ _ _ _ _).of_eq heq
    · next heq => exact ih ((h.after_blendSample _ _ _ _ _ _ _ _).of_eq heq)

end Keeps

end Sys2Proof.Proofs
end

section
/-! PROOFS. Streams, rasterization, blend and deadlines (O56). -/
namespace Sys2Proof.Proofs
set_option Elab.async false

open Sys2Proof Sys2Proof.Machine Sys2Proof.Claims

/-! Assembly (R232). -/

/-- A stream's frame cleared as far as it goes, and its closes settled (R241). -/
def readyToAssemble (s : State) (n : Nat) : State := settleCloses (clearFrame s n) n ((clearFrame s n).stream n).closes.length

/-- A triangle is assembled: the stream's next number, and the draw's next triangle. -/
def triangleTaken (s : State) (n d : Nat) (y : Draw) : State :=
  { s.setStream n { s.stream n with seq := ((s.stream n).seq + 1) % 2 ^ 32 } with draws := s.draws.set d { y with next := y.next + 1 } }

/-- A triangle on the screen is delivered to the clusters that own a touched band, or discarded (R232, R233). -/
def triangleEnds (t : State) (n d seq : Nat) (y : Draw) : Option (List (List ScreenVertex)) → State
  | none => settleDraw (t.setStream n ((t.stream n).updFrame y.frame (fun f => { f with disc := f.disc + 1 }))) d
  | some tris => settleDraw (((touchedRows t n tris).foldl (fun acc r => insertNat acc (rowCluster r)) []).foldl (fun u k =>
      u.setClu k { u.clu k with prims := (u.clu k).prims ++ [{ draw := d, seq := seq, tris := tris }] }) t) d

theorem assembly_clears {s₀ : State} (h : ((readyToAssemble s₀ (s₀.pick.a % 256)).stream (s₀.pick.a % 256)).clears = true) :
    exec .primitiveAssembly s₀ = .next (readyToAssemble s₀ (s₀.pick.a % 256)) := if_pos h

section
variable {s₀ s : State} {ds rest : List Nat} {d : Nat} {y : Draw} {a b c : Nat} {va vb vc : Vertex}

theorem find_first {f : Nat → Bool} (hds : ∀ e ∈ ds, f e = false) (hd : f d = true) : (ds ++ d :: rest).find? f = some d := by
  rw [List.find?_append, List.find?_eq_none.mpr fun e he => Bool.eq_false_iff.mp (hds e he), List.find?_cons_of_pos hd]
  rfl

theorem assembly_takes (hs : s = readyToAssemble s₀ (s₀.pick.a % 256)) (hclear : (s.stream (s₀.pick.a % 256)).clears = false)
    (hdraws : (s.stream (s₀.pick.a % 256)).draws = ds ++ d :: rest)
    (hds : ∀ e ∈ ds, ∀ z, s.draws.find e = some z → assembled z = true) (hd : s.draws.find d = some y) (hnot : assembled y = false)
    (htri : triangleIndices (drawTopo y.bits) y.next = [a, b, c])
    (ha : s.verts.find? (fun e => e.1 == d && e.2.1 == a) = some (d, a, va))
    (hb : s.verts.find? (fun e => e.1 == d && e.2.1 == b) = some (d, b, vb))
    (hc : s.verts.find? (fun e => e.1 == d && e.2.1 == c) = some (d, c, vc)) :
    exec .primitiveAssembly s₀ = .next (triangleEnds (triangleTaken s (s₀.pick.a % 256) d y) (s₀.pick.a % 256) d
      (s.stream (s₀.pick.a % 256)).seq y (clipScreen (triangleTaken s (s₀.pick.a % 256) d y) (s₀.pick.a % 256) [va, vb, vc])) := by
  rw [show exec .primitiveAssembly s₀ = execPrimitiveAssembly s₀ from rfl, execPrimitiveAssembly]
  have hready : settleCloses (clearFrame s₀ (s₀.pick.a % 256)) (s₀.pick.a % 256)
    ((clearFrame s₀ (s₀.pick.a % 256)).stream (s₀.pick.a % 256)).closes.length = s := hs.symm
  simp only [hready, hclear, Bool.false_eq_true, if_false]
  have hearlier : ∀ e ∈ ds, (match s.draws.find e with | some z => !assembled z | none => false) = false := by
    intro e he
    cases hz : s.draws.find e with
    | none => rfl
    | some z => simp only [hds e he z hz, Bool.not_true]
  have hthis : (match s.draws.find d with | some z => !assembled z | none => false) = true := by simp only [hd, hnot, Bool.not_false]
  split
  · next hnone =>
    rw [hdraws] at hnone
    exact absurd (hnone.symm.trans (find_first hearlier hthis)) (Option.some_ne_none d).symm
  · next e hsome =>
    rw [hdraws] at hsome
    obtain rfl : e = d := Option.some.inj (hsome.symm.trans (find_first hearlier hthis))
    simp only [hd, htri, List.filterMap_cons, List.filterMap_nil, ha, hb, hc, Option.map_some]
    refine (if_neg (Nat.lt_irrefl 3)).trans ?_
    have htaken : triangleTaken s (s₀.pick.a % 256) e y = { s.setStream (s₀.pick.a % 256) { s.stream (s₀.pick.a % 256) with
      seq := ((s.stream (s₀.pick.a % 256)).seq + 1) % 2 ^ 32 } with
      draws := (s.setStream (s₀.pick.a % 256) { s.stream (s₀.pick.a % 256) with
        seq := ((s.stream (s₀.pick.a % 256)).seq + 1) % 2 ^ 32 }).draws.set e { y with next := y.next + 1 } } := rfl
    dsimp only at htaken
    rw [← htaken]
    cases clipScreen (triangleTaken s (s₀.pick.a % 256) e y) (s₀.pick.a % 256) [va, vb, vc] with
    | none => rfl
    | some tris => rfl

end

/-! Setup (R234, R226). -/

/-- A primitive with room is set up: its claims, its setup records and the sweep to come. -/
def primSetUp (w : State) (k : Nat) (p : Prim) (rest : List Prim) (y : Draw) (tiles : List (Nat × Nat × Nat)) (ix : List Nat) : State :=
  let t := tiles.foldl (fun u q => claimTile u k y.ctx (rasterKey y.stream q.1 q.2.1 q.2.2) p.seq) w
  t.setClu k { t.clu k with
    prims := rest
    setups := (ix.zip p.tris).foldl (fun m e => m.set e.1 { draw := p.draw, seq := p.seq, verts := e.2 }) (t.clu k).setups
    sects := (t.clu k).sects ++ tiles.map (fun q => { ctx := y.ctx, draw := p.draw, seq := p.seq, key := rasterKey y.stream q.1 q.2.1 q.2.2 })
    sweeps := (t.clu k).sweeps ++ [{ draw := p.draw, seq := p.seq, recs := ix, tiles := tiles }] }

theorem primitiveSetup_ends {s : State} {p : Prim} {rest : List Prim} {y : Draw} {tiles : List (Nat × Nat × Nat)}
    (hprims : (s.clu (s.pick.a % 8)).prims = p :: rest) (hdraw : s.draws.find p.draw = some y)
    (htiles : tiles = reachedTiles s (s.pick.a % 8) y.stream p.tris) :
    (tiles = [] → exec .primitiveSetup s =
      .next (settleDraw (s.setClu (s.pick.a % 8) { s.clu (s.pick.a % 8) with prims := rest }) p.draw)) ∧
    (∀ ix t, tiles ≠ [] → freeSetups (s.clu (s.pick.a % 8)) p.tris.length = some ix →
      roomForClaims s (s.pick.a % 8) y.stream y.ctx tiles = (t, false) → exec .primitiveSetup s = .next t) ∧
    (∀ ix w, tiles ≠ [] → freeSetups (s.clu (s.pick.a % 8)) p.tris.length = some ix →
      roomForClaims s (s.pick.a % 8) y.stream y.ctx tiles = (w, true) →
      exec .primitiveSetup s = .next (primSetUp w (s.pick.a % 8) p rest y tiles ix)) := by
  subst htiles
  refine ⟨fun hnone => ?_, fun ix t hsome hfree hroom => ?_, fun ix w hsome hfree hroom => ?_⟩
  · simp only [exec, execPrimitiveSetup, hprims, hdraw, hnone, List.isEmpty_nil, if_true]
  · have hgo := List.isEmpty_eq_false_iff.mpr hsome
    simp only [exec, execPrimitiveSetup, hprims, hdraw, hgo, Bool.false_eq_true, if_false, hfree, hroom]
  · have hgo := List.isEmpty_eq_false_iff.mpr hsome
    simp only [exec, execPrimitiveSetup, hprims, hdraw, hgo, Bool.false_eq_true, if_false, hfree, hroom, primSetUp]

/-! The sweep (R236, R238, R247). -/

/-- The records of a tile that a cluster's setup records form, in order. -/
def tileRecords (t : State) (k : Nat) (y : Draw) (j : SweepJob) (p : Nat × Nat × Nat) (early : Option (List ((Nat × Nat) × Word))) :
    List (Nat × BitVec 512) :=
  (j.recs.flatMap fun i => ((t.clu k).setups.find i).elim [] fun r => formIntervals t k y j.draw j.seq i r.verts early p).foldr insertInterval []

theorem queueTile_eq (s : State) (k : Nat) (y : Draw) (j : SweepJob) (p : Nat × Nat × Nat) (xs : List (Nat × BitVec 512)) :
    queueTile s k y j p xs = if (Machine.pushAll s k y.ctx xs).2 = [] then endTile (Machine.pushAll s k y.ctx xs).1 k y.stream j p
      else setSweep (Machine.pushAll s k y.ctx xs).1 k { j with now := some p, left := (Machine.pushAll s k y.ctx xs).2 } := by
  unfold queueTile
  rcases Machine.pushAll s k y.ctx xs with ⟨u, _ | ⟨e, left⟩⟩ <;> rfl

/-- A draw before this one has still to blend in the tile (R238). -/
def BlendsBefore (s : State) (k : Nat) (y : Draw) (j : SweepJob) (key : Nat) : Prop :=
  ∃ r ∈ (s.clu k).sects, r.ctx = y.ctx ∧ r.key = key ∧ r.draw < j.draw

theorem blendsBefore_iff (s : State) (k : Nat) (y : Draw) (j : SweepJob) (key : Nat) :
    (s.clu k).sects.any (fun r => r.ctx == y.ctx && r.key == key && r.draw < j.draw) = true ↔ BlendsBefore s k y j key := by
  simp only [BlendsBefore, List.any_eq_true, Bool.and_eq_true, beq_iff_eq, decide_eq_true_eq, and_assoc]

section
variable {s : State} {j : SweepJob} {js : List SweepJob} {y : Draw} {p : Nat × Nat × Nat} {rest : List (Nat × Nat × Nat)}
  (hsweep : (s.clu (s.pick.a % 8)).sweeps = j :: js) (hdraw : s.draws.find j.draw = some y)
include hsweep hdraw

theorem sweep_goesOn (hnow : j.now = some p) : exec .sweep s = .next (queueTile s (s.pick.a % 8) y j p j.left) := by
  simp only [exec, execSweep, hsweep, hdraw, hnow]

theorem sweep_waits (hnow : j.now = none) (htiles : j.tiles = p :: rest) (hearly : earlyDepth s y.stream = true)
    (hbefore : BlendsBefore s (s.pick.a % 8) y j (rasterKey y.stream p.1 p.2.1 p.2.2)) : exec .sweep s = .next s := by
  have hany := (blendsBefore_iff _ _ _ _ _).mpr hbefore
  simp only [exec, execSweep, hsweep, hdraw, hnow, htiles, hearly, hany, Bool.and_self, if_true]

theorem sweep_forms {t : State} {early : Option (List ((Nat × Nat) × Word))} (hnow : j.now = none) (htiles : j.tiles = p :: rest)
    (hfree : earlyDepth s y.stream = true → ¬ BlendsBefore s (s.pick.a % 8) y j (rasterKey y.stream p.1 p.2.1 p.2.2))
    (htile : earlyTile s (s.pick.a % 8) y j.draw (rasterKey y.stream p.1 p.2.1 p.2.2) p = (t, some early)) :
    exec .sweep s = .next (queueTile t (s.pick.a % 8) y { j with tiles := rest } p (tileRecords t (s.pick.a % 8) y j p early)) := by
  have hgo : ¬ (earlyDepth s y.stream && (s.clu (s.pick.a % 8)).sects.any (fun r => r.ctx == y.ctx &&
      r.key == rasterKey y.stream p.1 p.2.1 p.2.2 && r.draw < j.draw)) = true := fun h =>
    hfree (Bool.and_eq_true_iff.mp h).1 ((blendsBefore_iff _ _ _ _ _).mp (Bool.and_eq_true_iff.mp h).2)
  have hrecords : tileRecords t (s.pick.a % 8) y j p early = (j.recs.flatMap (fun i => match (t.clu (s.pick.a % 8)).setups.find i with
      | none => []
      | some r => formIntervals t (s.pick.a % 8) y j.draw j.seq i r.verts early p)).foldr insertInterval [] := by
    rw [tileRecords]
    congr 2
    funext i
    cases (t.clu (s.pick.a % 8)).setups.find i <;> rfl
  rw [hrecords]
  simp only [exec, execSweep, hsweep, hdraw, hnow, htiles, if_neg hgo, htile] <;> rfl

end

/-! Blend (R239, R240). -/

/-- An interval that has been blended leaves the queue and retires (R253). -/
def blended (u : State) (k i : Nat) (b : BlendItem) : State :=
  retireRecord (u.setClu k { u.clu k with blendQ := dropAt (u.clu k).blendQ i }) k b.draw b.ivl

section
variable {s : State} {b : BlendItem} {y : Draw} {todo : List (Nat × Nat)} (hat : (s.clu (s.pick.a % 8)).blendQ[s.pick.b]? = some b)
  (hdraw : s.draws.find b.draw = some y) (htodo : todo = b.left.getD (intervalSamples b.ivl))
include hat hdraw htodo

theorem blend_ends :
    (todo = [] → exec .blend s = .next (blended s (s.pick.a % 8) s.pick.b b)) ∧
    (todo ≠ [] → sectionHeld s (s.pick.a % 8) b.ivl = false → exec .blend s = .next s) ∧
    (∀ t left, todo ≠ [] → sectionHeld s (s.pick.a % 8) b.ivl = true →
      blendSamples b (s.pick.a % 8) y.stream y.set (triangleOf s (s.pick.a % 8) b.ivl) todo s = (t, left) →
      exec .blend s = .next (if left = [] then blended t (s.pick.a % 8) s.pick.b b
        else t.setClu (s.pick.a % 8) { t.clu (s.pick.a % 8) with
          blendQ := (t.clu (s.pick.a % 8)).blendQ.set s.pick.b { b with left := some left } })) := by
  subst htodo
  refine ⟨fun hnone => ?_, fun hsome hheld => ?_, fun t left hsome hheld hblend => ?_⟩
  · simp only [exec, execBlend, hat, hdraw, hnone, List.isEmpty_nil, if_true, blended]
  · have hgo := List.isEmpty_eq_false_iff.mpr hsome
    simp only [exec, execBlend, hat, hdraw, hgo, hheld, Bool.not_false, Bool.false_eq_true, if_false, if_true]
  · have hgo := List.isEmpty_eq_false_iff.mpr hsome
    have hpick := (((Keeps.refl s).after_blendSamples b (s.pick.a % 8) y.stream y.set _ _).of_eq hblend).pick
    simp only [exec, execBlend, hat, hdraw, hgo, hheld, hblend, Bool.not_true, Bool.false_eq_true, if_false, blended]
    cases left with
    | nil => simp only [hpick, if_true]
    | cons x xs => simp only [hpick, if_false, reduceCtorEq, setAt]

end

/-! Deadlines (R242). -/

/-- A slot's deadline is due. -/
def SlotDue (s : State) (n : Nat) : Prop :=
  (s.stream n).bound = true ∧ streamField s n 832 32 ≠ 0 ∧ slotDeadline s n (s.stream n).slot ≤ (s.globalTick : Int)

theorem slotDue_iff (s : State) (n : Nat) : ((s.stream n).bound && streamField s n 832 32 != 0 &&
    decide (slotDeadline s n (s.stream n).slot ≤ (s.globalTick : Int))) = true ↔ SlotDue s n := by
  simp only [SlotDue, Bool.and_eq_true, bne_iff_ne, decide_eq_true_eq, and_assoc]

/-- What a slot shows is what the stream chooses. -/
theorem slotChoice_of_showsAt {s : State} {n : Nat} {p : Picture} {again : Bool} (hshows : ShowsAt s n p again) :
    slotChoice (s.stream n) (streamField s n 964 1 == 1) = (p, again) := by
  unfold slotChoice
  rcases hshows with ⟨f, hclosed, rfl, rfl⟩ | ⟨hclosed, rfl, hpicture⟩
  · rw [hclosed]
  · rw [hclosed]
    dsimp only
    split at hpicture
    · next hmoves =>
      rw [if_pos (Bool.and_eq_true_iff.mpr ⟨hmoves.1, beq_iff_eq.mpr hmoves.2⟩), hpicture]
    · next hmoves =>
      rw [if_neg fun h => hmoves ⟨(Bool.and_eq_true_iff.mp h).1, beq_iff_eq.mp (Bool.and_eq_true_iff.mp h).2⟩, hpicture]
      cases (s.stream n).shown <;> rfl

theorem globalTick_passSlot (s : State) (n : Nat) : (passSlot s n).globalTick = s.globalTick := by
  simp only [passSlot, showClosed]
  cases (s.stream n).closed <;> rfl

/-- A slot passes with its picture to show. -/
def slotPassed (s : State) (n : Nat) (p : Picture) (again : Bool) : State :=
  (passSlot s n).setStream n { (passSlot s n).stream n with
    slot := (s.stream n).slot + 1
    shows := (s.stream n).shows ++ [{ pic := p, again := again, slot := (s.stream n).slot, tick := s.globalTick }] }

theorem slotDeadline_ends (s : State) :
    (¬ SlotDue s (s.pick.a % 256) →
      exec .slotDeadline s = .next (writeShows (s.pick.a % 256) (s.stream (s.pick.a % 256)).shows s)) ∧
    (∀ p again, SlotDue s (s.pick.a % 256) → ShowsAt s (s.pick.a % 256) p again → exec .slotDeadline s = .next (writeShows (s.pick.a % 256)
      ((slotPassed s (s.pick.a % 256) p again).stream (s.pick.a % 256)).shows (slotPassed s (s.pick.a % 256) p again))) := by
  refine ⟨fun hdue => ?_, fun p again hdue hshows => ?_⟩
  · have hgo := Bool.eq_false_iff.mpr (mt (slotDue_iff s _).mp hdue)
    simp only [exec, execSlotDeadline, hgo, Bool.not_false, if_true]
  · have hgo := (slotDue_iff s _).mpr hdue
    simp only [exec, execSlotDeadline, hgo, Bool.not_true, Bool.false_eq_true, if_false, slotChoice_of_showsAt hshows, globalTick_passSlot,
      slotPassed]

/-- Outputs are written in order, until a home holds one. -/
theorem writeShows_cons {s t : State} {n : Nat} {j : ShowJob} {js : List ShowJob} {f : Option HomeFail} (h : writePicture s n j = (t, f)) :
    writeShows n (j :: js) s = (if f = some .held then t.setStream n { t.stream n with shows := j :: js } else writeShows n js t) := by
  rw [writeShows, h]
  rcases f with _ | f
  · rfl
  · cases f <;> rfl

/-! Streams (R228). -/

/-- A write of SCMD keeps its target and its result. -/
def streamed (n : Nat) (u : State) (code : Nat) : State := { u with dev := { u.dev with sTarget := n, sResult := code } }

/-- Settles O56. -/
theorem rasterAndPanelSteps : Obligations.RasterAndPanelSteps := by
  refine ⟨fun s => ⟨?bind, ?unbind⟩, fun s₀ ds rest d y a b c va vb vc => ?assembly, fun s p rest y => ?setup, fun s j js y p rest => ?sweep,
    fun s b y => ?blend, fun s p again => ?slot, fun s t n j js f h => writeShows_cons h⟩
  case bind =>
    have hends : exec .streamBind s = .next (streamed (s.pick.a % 256) (bindStream s (s.pick.a % 256)).1 (bindStream s (s.pick.a % 256)).2) := rfl
    refine next_ite_ite (f := streamed (s.pick.a % 256)) hends ?_
    simp only [bindStream, Bool.not_eq_true', Bool.eq_false_iff, ite_not, ne_eq]
  case unbind =>
    have hends : exec .streamUnbind s = .next (streamed (s.pick.a % 256)
      (if (s.stream (s.pick.a % 256)).bound then (unbindStream s (s.pick.a % 256), 0) else (s, 1)).1
      (if (s.stream (s.pick.a % 256)).bound then (unbindStream s (s.pick.a % 256), 0) else (s, 1)).2) := rfl
    exact next_ite (f := streamed (s.pick.a % 256)) hends
  case assembly =>
    intro n s x
    refine ⟨fun hclears => assembly_clears hclears, fun hclear hdraws hds hd hnot htri ha hb hc => ?_⟩
    have htakes := assembly_takes (s := s) rfl hclear hdraws hds hd hnot htri ha hb hc
    intro t
    refine ⟨fun hclip => ?_, fun tris hclip => ?_⟩
    · exact htakes.trans (congrArg (fun r => Host.Outcome.next (triangleEnds t n d x.seq y r)) hclip)
    · exact htakes.trans (congrArg (fun r => Host.Outcome.next (triangleEnds t n d x.seq y r)) hclip)
  case setup =>
    intro k hprims hdraw tiles
    exact primitiveSetup_ends hprims hdraw rfl
  case sweep =>
    intro k hsweep hdraw key queue formed
    have hqueue : ∀ t h xs, queue t h xs = queueTile t k y h p xs := fun t h xs => (queueTile_eq t k y h p xs).symm
    have hformed : ∀ t early, formed t early = tileRecords t k y j p early := by
      intro t early
      simp only [formed, tileRecords]
      congr 2
      funext i
      cases (t.clu k).setups.find i <;> rfl
    refine ⟨fun hnow => ?_, fun hnow htiles => ⟨fun hlate => ?_, fun hearly hbefore => ?_, fun t z hearly hnobefore htile => ?_⟩⟩
    · exact (sweep_goesOn hsweep hdraw hnow).trans (congrArg Host.Outcome.next (hqueue _ _ _).symm)
    · rw [hqueue, hformed]
      refine sweep_forms hsweep hdraw hnow htiles (fun h => absurd (hlate.symm.trans h) Bool.false_ne_true) ?_
      rw [earlyTile, hlate]
      rfl
    · exact sweep_waits hsweep hdraw hnow htiles hearly hbefore
    · rw [hqueue, hformed]
      refine sweep_forms hsweep hdraw hnow htiles (fun _ hbefore => ?_) htile
      obtain ⟨r, hr, hctx, hkey, hlt⟩ := hbefore
      exact absurd hlt (Nat.not_lt.mpr (hnobefore r hr hctx hkey))
  case blend =>
    intro k out hat hdraw todo
    have htodo : todo = b.left.getD (intervalSamples b.ivl) := by
      simp only [todo]
      cases b.left <;> rfl
    exact blend_ends hat hdraw htodo
  case slot =>
    intro n x due
    obtain ⟨hkeep, hpass⟩ := slotDeadline_ends s
    exact ⟨hkeep, fun hdue hshows => hpass p again hdue hshows⟩

end Sys2Proof.Proofs
end

section
/-! PROOFS. Trace frames, samples, stops and replay (O57). -/
namespace Sys2Proof.Proofs
set_option Elab.async false

open Sys2Proof Sys2Proof.Machine Sys2Proof.Claims

theorem setTrace_setTrace (s : State) (k : Nat) (x y : Trace) : (s.setTrace k x).setTrace k y = s.setTrace k y := by
  simp only [State.setTrace, tab_set_set]

/-! The trace control block and frames (R518, R519). -/

/-- A trace control block's new value. -/
def traceBlock (s : State) (k x : Nat) : State := { s with mem := s.mem.writeNat (hubKey (traceBase k)) 64 x }

theorem writeTraceCtl_running {s : State} {k : Nat} (new : Nat) (hrun : (s.mem.readNat (hubKey (traceBase k)) 64).testBit 449 = true) :
    writeTraceCtl s k new = if new.testBit 449 then
        traceBlock s k (putField (s.mem.readNat (hubKey (traceBase k)) 64) 336 32 (new / 2 ^ 336))
      else endTrace ((traceBlock s k (putField (s.mem.readNat (hubKey (traceBase k)) 64) 336 32 (new / 2 ^ 336))).setTrace k
        { closeFrame (s.trace k) with stopping := true }) k := by
  rw [writeTraceCtl]
  dsimp only
  rw [if_pos hrun]
  rfl

theorem settingBad_iff (logf mode : Nat) :
    (decide (logf < 4) || decide (logf > 20) || mode == 3) = true ↔ logf < 4 ∨ 20 < logf ∨ mode = 3 := by
  simp only [Bool.or_eq_true, decide_eq_true_eq, beq_iff_eq, or_assoc, gt_iff_lt]

theorem writeTraceCtl_setting {s : State} {k : Nat} (new : Nat) (hrun : (s.mem.readNat (hubKey (traceBase k)) 64).testBit 449 = false) :
    writeTraceCtl s k new = (traceBlock s k (if new / 2 ^ 458 % 32 < 4 ∨ 20 < new / 2 ^ 458 % 32 ∨ new / 2 ^ 456 % 4 = 3 then
      putField new 449 1 0 else new)).setTrace k { s.trace k with seqs := [], turns := [], turnAt := [(0, s.runTick)] } := by
  rw [writeTraceCtl]
  dsimp only
  rw [if_neg (Bool.eq_false_iff.mp hrun)]
  simp only [settingBad_iff, traceBlock, State.trace, State.runTick]

section
variable {s : State} {f : TraceFrame} {fs : List TraceFrame} (hclosed : (s.trace (s.pick.a % 8)).closed = f :: fs)

/-- A frame that the ring does not take is lost, LOST rising (R519). -/
def frameLost (u : State) (k : Nat) (f : TraceFrame) : State :=
  frameGone (putTraceCtl u k 304 32 (min (2 ^ 32 - 1) (traceCtl u k 304 32 + 1))) k f.no 3

/-- The ring of a cluster's trace engine is full (R519). -/
def RingFull (s : State) (k : Nat) : Prop :=
  2 ^ traceCtl s k 458 5 ≤ (traceCtl s k 368 32 + 2 ^ 32 - traceCtl s k 336 32) % 2 ^ 32

/-- The place of the next frame in the ring (R519). -/
def ringKey (s : State) (k : Nat) : Nat :=
  let a := traceCtl s k 464 48 + 4096 * (traceCtl s k 368 32 % 2 ^ traceCtl s k 458 5)
  if traceCtl s k 463 1 = 1 then hostKey a else dramKey a

include hclosed

theorem frameWrite_full (hfull : RingFull s (s.pick.a % 8)) (hmode : traceCtl s (s.pick.a % 8) 456 2 ≠ 1) :
    exec .frameWrite s = .next (frameLost s (s.pick.a % 8) f) := by
  have hring : decide (2 ^ traceCtl s (s.pick.a % 8) 458 5 ≤ (traceCtl s (s.pick.a % 8) 368 32 + 2 ^ 32 -
    traceCtl s (s.pick.a % 8) 336 32) % 2 ^ 32) = true := decide_eq_true hfull
  simp only [exec, execFrameWrite, hclosed, ge_iff_le, hring, if_true, if_neg hmode, frameLost, frameGone]

theorem frameWrite_written {t : State} {e : Option HomeFail} (hroom : ¬ RingFull s (s.pick.a % 8))
    (hwrite : agentWrite s (ringKey s (s.pick.a % 8)) {} true (spanFuel 4096) (frameImage (s.pick.a % 8) f) = (t, e)) :
    (e = none → exec .frameWrite s = .next (frameGone (putTraceCtl t (s.pick.a % 8) 368 32 (traceCtl s (s.pick.a % 8) 368 32 + 1))
      (s.pick.a % 8) f.no 0)) ∧
    (∀ x, e = some x → x ≠ .held → exec .frameWrite s = .next (frameLost t (s.pick.a % 8) f)) := by
  have hring : decide (2 ^ traceCtl s (s.pick.a % 8) 458 5 ≤ (traceCtl s (s.pick.a % 8) 368 32 + 2 ^ 32 -
    traceCtl s (s.pick.a % 8) 336 32) % 2 ^ 32) = false := decide_eq_false hroom
  rw [ringKey] at hwrite
  refine ⟨?_, ?_⟩
  · rintro rfl
    simp only [exec, execFrameWrite, hclosed, ge_iff_le, hring, Bool.false_eq_true, if_false, hwrite, frameGone]
  · rintro x rfl hx
    simp only [exec, execFrameWrite, hclosed, ge_iff_le, hring, Bool.false_eq_true, if_false, hwrite, frameLost, frameGone]

end

/-! Samples (R522). -/

/-- A scheduler's sample is taken for its period. -/
def sampleDone (s : State) (x : Trace) (ix ctx : Nat) : Trace :=
  let n := clockTicks s (2 ^ x.period.get 0 ctx)
  let due := x.sampleAt.get (x.sampleAt.get 0 1024) ix + n
  { x with sampleAt := x.sampleAt.set ix (if s.runTick < due + n then due else s.runTick) }

section
variable {s : State} {c q ctx ix k : Nat} {x : Trace} (hc : c = s.pick.a % 2048) (hq : q = s.pick.b % 4) (hk : k = coreCluster c)
  (hx : x = s.trace k) (hix : ix = 4 * (c % 256) + q) (htenant : (s.clu k).tenant = some ctx) (hperiod : x.period.get 0 ctx ≠ 0)
  (hdue : x.sampleAt.get (x.sampleAt.get 0 1024) ix + clockTicks s (2 ^ x.period.get 0 ctx) ≤ s.runTick)
include hc hq hk hx hix htenant hperiod hdue

theorem sampleTake_noSlot (hslot : sampleSlot s c q ctx (x.lastSlot.get 5 ix) = none) :
    exec .sampleTake s = .next (s.setTrace k (sampleDone s x ix ctx)) := by
  subst hc hq hk hx hix
  have hgo := Bool.or_eq_false_iff.mpr ⟨decide_eq_false hperiod, decide_eq_false (Nat.not_lt.mpr hdue)⟩
  simp only [exec, execSampleTake, htenant, hgo, Bool.false_eq_true, if_false, hslot, sampleDone]

theorem sampleTake_slot {slot p : Nat} (hslot : sampleSlot s c q ctx (x.lastSlot.get 5 ix) = some slot)
    (hp : samplePayload s c slot (x.seen.get 0 (24 * (c % 256) + slot)) = some p) {z : Trace}
    (hz : z = { sampleDone s x ix ctx with lastSlot := x.lastSlot.set ix slot, seen := x.seen.set (24 * (c % 256) + slot) s.runTick }) :
    (64 < z.now s.tick + sampleBytes z s.tick → exec .sampleTake s = .next (s.setTrace k { z with slost := z.slost + 1 })) ∧
    (z.now s.tick + sampleBytes z s.tick ≤ 64 → exec .sampleTake s = .next (traceRecord (s.setTrace k z) k 2 p)) := by
  subst hc hq hk hx hix
  have hgo := Bool.or_eq_false_iff.mpr ⟨decide_eq_false hperiod, decide_eq_false (Nat.not_lt.mpr hdue)⟩
  have hrun : exec .sampleTake s = .next (if z.now s.tick + sampleBytes z s.tick > 64
      then (s.setTrace (coreCluster (s.pick.a % 2048)) z).setTrace (coreCluster (s.pick.a % 2048)) { z with slost := z.slost + 1 }
      else traceRecord (s.setTrace (coreCluster (s.pick.a % 2048)) z) (coreCluster (s.pick.a % 2048)) 2 p) := by
    subst hz
    simp only [exec, execSampleTake, htenant, hgo, Bool.false_eq_true, if_false, hslot, hp, sampleDone]
    exact (apply_ite Host.Outcome.next _ _ _).symm
  refine ⟨fun hmany => ?_, fun hfew => ?_⟩
  · rw [hrun, if_pos hmany, setTrace_setTrace]
  · rw [hrun, if_neg (Nat.not_lt.mpr hfew)]

end

/-! Stops and replay (R524, R525, R529). -/

theorem replayDivergence_stops {s : State} {d : Nat}
    (hnext : replayNext s (s.pick.a % 8) (traceCtl s (s.pick.a % 8) 450 6) s.pick.b s.pick.c = some d) (hstop : s.dev.stopped = none)
    (hlate : (s.trace (s.pick.a % 8)).turnAt.get ((s.trace (s.pick.a % 8)).turnAt.get 0 0) (s.pick.b * 2 ^ 16 + s.pick.c) + 2 ^ 20 ≤ s.runTick)
    (hmissing : requestThere s (s.pick.a % 8) (traceCtl s (s.pick.a % 8) 450 6) s.pick.b (d / 2 ^ 32 % 2 ^ 8) (d / 2 ^ 16 % 2 ^ 16) = false) :
    exec .replayDivergence s = .next (stopDevice s 2) := by
  have hearly := decide_eq_false (Nat.not_lt.mpr hlate)
  simp only [exec, execReplayDivergence, hnext, hstop, Option.isSome_none, hearly, hmissing, Bool.or_self, Bool.false_eq_true, if_false]

theorem stopArm_control {s : State} (h : s.pick.a ≠ 0) :
    exec .stopArm s = .next (if s.pick.word.getLsbD 0 = true ∧ s.dev.stopped = none ∧ s.dev.stopTick.toNat ≤ s.globalTick then
      stopDevice (armed s s.pick.word) 0 else armed s s.pick.word) := by
  have hrun : exec .stopArm s = if (s.pick.word.getLsbD 0 && s.dev.stopped.isNone && decide (s.dev.stopTick.toNat ≤ s.globalTick)) = true
    then .next (stopDevice (armed s s.pick.word) 0) else .next (armed s s.pick.word) := if_neg h
  rw [hrun, ← apply_ite Host.Outcome.next]
  simp only [Bool.and_eq_true, decide_eq_true_eq, Option.isNone_iff_eq_none, and_assoc]

theorem deviceStop_stops {s : State} (harmed : s.dev.armed = true) (hstop : s.dev.stopped = none)
    (htick : s.dev.stopTick.toNat ≤ s.globalTick) : exec .deviceStop s = .next (stopDevice s s.dev.cause) := by
  have hearly := decide_eq_false (Nat.not_lt.mpr htick)
  simp only [exec, execDeviceStop, harmed, hstop, hearly, Bool.not_true, Option.isSome_none, Bool.or_self, Bool.false_eq_true, if_false]

/-- Settles O57. -/
theorem traceAndStopSteps : Obligations.TraceAndStopSteps := by
  refine ⟨fun s => ⟨fun hrun hgo => ?_, fun hrun hend => ?_, fun hrun => ?_⟩, fun s f hopen hlate => ?_,
    fun s f fs hclosed => ⟨fun hfull hmode => frameWrite_full hclosed hfull hmode, fun t e hroom hwrite => ?_⟩,
    fun s ctx slot htenant hperiod hdue => ⟨fun hslot => ?_, fun hslot p hp => ?_⟩,
    fun s d hnext hstop hlate hmissing => replayDivergence_stops hnext hstop hlate hmissing,
    fun s => ⟨fun h => if_pos h, fun h => stopArm_control h⟩, fun s harmed hstop htick => deviceStop_stops harmed hstop htick, fun s t hstop => ?_⟩
  · exact congrArg Host.Outcome.next ((writeTraceCtl_running _ hrun).trans (if_pos hgo))
  · exact congrArg Host.Outcome.next ((writeTraceCtl_running _ hrun).trans (if_neg (Bool.eq_false_iff.mp hend)))
  · exact congrArg Host.Outcome.next (writeTraceCtl_setting _ hrun)
  · simp only [exec, execFrameTimeout, hopen, if_neg (Nat.not_lt.mpr hlate)]
  · exact frameWrite_written hclosed hroom hwrite
  · exact sampleTake_noSlot rfl rfl rfl rfl rfl htenant hperiod hdue hslot
  · exact sampleTake_slot rfl rfl rfl rfl rfl htenant hperiod hdue hslot hp rfl
  · simp only [exec, execStopResume, hstop]

end Sys2Proof.Proofs
end

section
/-! PROOFS. Links: flits, credits, replay, training and isolation (O58). -/
namespace Sys2Proof.Proofs
set_option Elab.async false

open Sys2Proof Sys2Proof.Machine Sys2Proof.Claims

/-! What the links leave as it is. -/

/-- Neither memory nor the turn's operands changed. -/
structure SameMemPick (s t : State) : Prop where
  mem : t.mem = s.mem
  pick : t.pick = s.pick

namespace SameMemPick

variable {s t u : State}

theorem refl (s : State) : SameMemPick s s := ⟨rfl, rfl⟩

theorem trans (h : SameMemPick s t) (h' : SameMemPick t u) : SameMemPick s u := ⟨h'.mem.trans h.mem, h'.pick.trans h.pick⟩

theorem bundlePorts_eq (h : SameMemPick s t) (p : Nat) : bundlePorts t p = bundlePorts s p := by
  simp only [bundlePorts, h.mem]

theorem portPeer_eq (h : SameMemPick s t) (i : Nat) : portPeer t i = portPeer s i := by
  simp only [portPeer, h.bundlePorts_eq]

theorem qHost_eq (h : SameMemPick s t) (q : Nat) : qHost t q = qHost s q := by
  simp only [qHost, qField, h.mem]

theorem of_setLink (s : State) (i : Nat) (x : Link) : SameMemPick s (s.setLink i x) := ⟨rfl, rfl⟩

theorem of_resendFlit {p : Nat} {f : Flit} (h : resendFlit s p f = some t) : SameMemPick s t := by
  rw [resendFlit] at h
  obtain ⟨j, -, rfl⟩ := Option.map_eq_some_iff.mp h
  exact of_setLink ..

theorem of_foldl {α β : Type} {f : State × β → α → State × β} (hf : ∀ acc x, SameMemPick acc.1 (f acc x).1) (xs : List α)
    (acc : State × β) : SameMemPick acc.1 (xs.foldl f acc).1 := by
  induction xs generalizing acc with
  | nil => exact refl _
  | cons x xs ih => exact trans (hf acc x) (ih _)

theorem of_resendLeft (s : State) (p : Nat) : SameMemPick s (resendLeft s p) := by
  unfold resendLeft
  split
  next t left hall =>
    have h : SameMemPick s (t, left).1 := by
      rw [← hall]
      refine of_foldl (fun acc f => ?_) _ (s, [])
      split
      · next hresend => exact of_resendFlit hresend
      · exact refl _
    exact ⟨h.mem, h.pick⟩

theorem of_portOpens (s : State) (i : Nat) : SameMemPick s (portOpens s i) := by
  unfold portOpens
  split
  · split
    · exact refl s
    · exact of_resendLeft ..
  · exact refl s

theorem of_takeAck (s : State) (i : Nat) (a : BitVec 14) : SameMemPick s (takeAck s i a) := by
  unfold takeAck
  dsimp only
  split
  · exact refl s
  · exact (of_setLink ..).trans (of_portOpens ..)

end SameMemPick

/-! Flits (R507-R511, R538). -/

/-- A link that carries traffic is Up or Degraded. -/
theorem flows_iff (x : Link) : x.flows = true ↔ x.state = .up ∨ x.state = .degraded := by
  simp only [Link.flows, Bool.or_eq_true, beq_iff_eq]

section
variable {s : State} {i p : Nat} {f : Flit} (h : Heard s i f)
include h

theorem heard_good : flitBad s i f = false := by
  obtain ⟨-, -, hcrc, hresv, hvc, hup⟩ := h
  simp only [flitBad, hcrc, hresv, (flows_iff _).mpr hup, Bool.not_true, gt_iff_lt, Nat.not_lt.mpr hvc, decide_false, Bool.or_self]

theorem heard_other : sameNumber s i f = false := by
  obtain ⟨-, -, -, -, -, hup⟩ := h
  have hstate : ((s.link i).state == .training) = false := by
    rcases hup with hup | hup <;> rw [hup] <;> rfl
  simp only [sameNumber, hstate, Bool.false_and]

theorem flitData_next (hpeer : portPeer s i = some p) :
    exec .flitData s = .next (if f.seq = ((takeAck s i f.ack).link i).rxSeq ∧ heldCount ((takeAck s i f.ack).bundle p) f.vc < 64
      then taken (takeAck s i f.ack) i p f else takeAck s i f.ack) := by
  have hgood := heard_good h
  have hother := heard_other h
  obtain ⟨rfl, hflit, -, -, -, -⟩ := h
  have hp := ((SameMemPick.of_takeAck s (s.pick.a % 24) f.ack).portPeer_eq (s.pick.a % 24)).trans hpeer
  simp only [exec, execFlitData, hflit, hother, hgood, hp, Bool.false_eq_true, if_false]
  generalize takeAck s (s.pick.a % 24) f.ack = t
  have hguard : (f.seq != (t.link (s.pick.a % 24)).rxSeq || decide (heldCount (t.bundle p) f.vc ≥ 64)) = true ↔
      ¬ (f.seq = (t.link (s.pick.a % 24)).rxSeq ∧ heldCount (t.bundle p) f.vc < 64) := by
    simp only [Bool.or_eq_true, bne_iff_ne, decide_eq_true_eq, Decidable.not_and_iff_or_not, Nat.not_lt, ge_iff_le, ne_eq]
  have htaken : acceptFlit t (s.pick.a % 24) p f = taken t (s.pick.a % 24) p f := by
    simp only [acceptFlit, taken, Bool.or_eq_true, decide_eq_true_eq, ge_iff_le]
  by_cases hnext : f.seq = (t.link (s.pick.a % 24)).rxSeq ∧ heldCount (t.bundle p) f.vc < 64
  · rw [if_neg (fun hg => hguard.mp hg hnext), if_pos hnext, htaken]
  · rw [if_pos (hguard.mpr hnext), if_neg hnext]

theorem flitAck_frees : exec .flitAck s = .next (takeAck s i f.ack) := by
  have hgood := heard_good h
  obtain ⟨rfl, hflit, -, -, -, -⟩ := h
  simp only [exec, execFlitAck, hflit, hgood, Bool.false_eq_true, if_false]

theorem flitFlowControl_sets :
    exec .flitFlowControl s = .next (portOpens ((takeAck s i f.ack).setLink i { (takeAck s i f.ack).link i with
      xoffIn := if s.pick.flag then insertNat ((takeAck s i f.ack).link i).xoffIn f.vc
        else ((takeAck s i f.ack).link i).xoffIn.filter (· != f.vc) }) i) := by
  have hgood := heard_good h
  obtain ⟨rfl, hflit, -, -, -, -⟩ := h
  simp only [exec, execFlitFlowControl, hflit, hgood, Bool.false_eq_true, if_false, (SameMemPick.of_takeAck s _ f.ack).pick]

theorem flitTick_corrects (hmaster : tickMaster s ≠ ownNumber s) (hpeer : portPeer s i = some (tickMaster s))
    (hfix : s.dev.fixTick + 2 ^ 16 ≤ s.tick) :
    (s.pick.b = 1 → s.tick < s.hbTick + 256 →
      exec .flitTick s = .next { s with tick := s.tick + 1, dev := { s.dev with fixTick := s.tick + 1 } }) ∧
    (s.pick.b = 2 → exec .flitTick s = .next { s with dev := { s.dev with slowTick := true, fixTick := s.tick } }) := by
  have hgood := heard_good h
  obtain ⟨rfl, hflit, -, -, -, -⟩ := h
  have hgo : (flitBad s (s.pick.a % 24) f || tickMaster s == ownNumber s || portPeer s (s.pick.a % 24) != some (tickMaster s) ||
      decide (s.tick < s.dev.fixTick + 2 ^ 16)) = false := by
    simp only [hgood, hpeer, beq_eq_false_iff_ne.mpr hmaster, bne_self_eq_false, decide_eq_false (Nat.not_lt.mpr hfix), Bool.or_self]
  refine ⟨fun hb hbeat => ?_, fun hb => ?_⟩
  · simp only [exec, execFlitTick, hflit, hgo, Bool.false_eq_true, if_false, hb, ge_iff_le, if_neg (Nat.not_le.mpr hbeat)]
  · simp only [exec, execFlitTick, hflit, hgo, Bool.false_eq_true, if_false, hb]

end

theorem flitData_ownNumber {s : State} {f : Flit} (hflit : s.pick.flit = some f) (hstate : (s.link (s.pick.a % 24)).state = .training)
    (hcrc : f.crcOk = true) (hresv : f.resv = false) (hsrc : f.src.toNat = ownNumber s) :
    exec .flitData s = .next (s.setLink (s.pick.a % 24) { s.link (s.pick.a % 24) with state := .isolated }) := by
  have hsame : sameNumber s (s.pick.a % 24) f = true := by
    simp only [sameNumber, hstate, hcrc, hresv, hsrc, beq_self_eq_true, Bool.not_false, Bool.and_self]
  simp only [exec, execFlitData, hflit, hsame, if_true]

/-! Replay and training (R508, R511-R513). -/

section
variable {s : State} {i p : Nat}

theorem linkReplayTimeout_resends (hi : i = s.pick.a % 24) (hup : (s.link i).state = .up ∨ (s.link i).state = .degraded)
    (hbuffer : (s.link i).buffer ≠ []) (hlate : (s.link i).ackTick + 2048 ≤ s.tick) :
    exec .linkReplayTimeout s = .next (if 8 ≤ (s.link i).replays + 1 then linkGoes s i .retraining
      else s.setLink i { s.link i with replays := (s.link i).replays + 1, ackTick := s.tick }) := by
  subst hi
  have hgo : (!(s.link (s.pick.a % 24)).flows || (s.link (s.pick.a % 24)).buffer.isEmpty ||
      decide (s.tick < (s.link (s.pick.a % 24)).ackTick + 2048)) = false := by
    simp only [(flows_iff _).mpr hup, List.isEmpty_eq_false_iff.mpr hbuffer, decide_eq_false (Nat.not_lt.mpr hlate), Bool.not_true, Bool.or_self]
  simp only [exec, execLinkReplayTimeout, hgo, Bool.false_eq_true, if_false, ge_iff_le, linkGoes]
  exact (apply_ite Host.Outcome.next _ _ _).symm

theorem tickFlitSend_sends (hi : i = s.pick.a % 24) (hup : (s.link i).state = .up ∨ (s.link i).state = .degraded)
    (hlate : (s.link i).lastTick + 2 ^ 16 ≤ s.tick) :
    exec .tickFlitSend s = .next (s.setLink i { s.link i with lastTick := s.tick }) := by
  subst hi
  have hgo : ((s.link (s.pick.a % 24)).flows && decide (s.tick ≥ (s.link (s.pick.a % 24)).lastTick + 2 ^ 16)) = true := by
    rw [(flows_iff _).mpr hup, Bool.true_and]
    exact decide_eq_true hlate
  simp only [exec, execTickFlitSend, hgo, if_true]

/-- A port begins to train anew. -/
def linkTrains (s : State) (i : Nat) : State := s.setLink i { state := .training, ackTick := s.tick, lastTick := s.tick }

theorem linkEnable_ends (hi : i = s.pick.a % 25) (hdown : (s.link i).state = .down) :
    (i < 24 → s.dev.devno.getLsbD 31 = false → exec .linkEnable s = .next s) ∧
    (i = 24 → exec .linkEnable s = .next (linkTrains s i)) ∧
    (∀ p, i < 24 → s.dev.devno.getLsbD 31 = true → portPeer s i = some p → exec .linkEnable s =
      .next (if bundleLives s i = true then linkTrains s i else { linkTrains s i with bundles := (linkTrains s i).bundles.del p })) := by
  subst hi
  have hstate : ((s.link (s.pick.a % 25)).state != .down) = false := by rw [hdown]; rfl
  refine ⟨fun hpeer hno => ?_, fun hhost => ?_, fun p hpeer hno hp => ?_⟩
  · simp only [exec, execLinkEnable, hstate, hpeer, hno, decide_true, Bool.not_false, Bool.and_self, Bool.or_true, if_true]
  · have hnot : ¬ s.pick.a % 25 < 24 := by omega
    simp only [exec, execLinkEnable, hstate, hnot, decide_false, Bool.false_and, Bool.or_self, Bool.false_eq_true, if_false, linkTrains]
  · simp only [exec, execLinkEnable, hstate, hpeer, hno, hp, decide_true, Bool.not_true, Bool.and_false, Bool.or_self, Bool.false_eq_true,
      if_false, if_true, linkTrains]

variable (hi : i = s.pick.a % 25) (htraining : (s.link i).state = .training ∨ (s.link i).state = .retraining)
include hi htraining

omit hi in
theorem trains : ((s.link i).state == .training || (s.link i).state == .retraining) = true := by
  rcases htraining with h | h <;> rw [h] <;> rfl

theorem linkTrainingPass_goes (hpass : s.pick.flag = true → i < 24) :
    exec .linkTrainingPass s = .next (portOpens (linkGoes s i (if s.pick.flag then .degraded else .up)) i) := by
  have htrains := trains htraining
  subst hi
  have hhost : (decide (s.pick.a % 25 = hostPort) && s.pick.flag) = false := by
    cases hflag : s.pick.flag with
    | false => exact Bool.and_false _
    | true => exact (Bool.and_true _).trans (decide_eq_false (Nat.ne_of_lt (hpass hflag)))
  simp only [exec, execLinkTrainingPass, htrains, hhost, Bool.not_true, Bool.or_self, Bool.false_eq_true, if_false, linkGoes]

theorem linkTrainingFail_tries (htries : (s.link i).tries < 2) :
    exec .linkTrainingFail s = .next (s.setLink i { s.link i with tries := (s.link i).tries + 1 }) := by
  have htrains := trains htraining
  subst hi
  simp only [exec, execLinkTrainingFail, htrains, Bool.not_true, Bool.false_eq_true, if_false, if_pos (show
    (s.link (s.pick.a % 25)).tries + 1 < 3 from Nat.succ_lt_succ htries)]

/-- A port is Isolated. -/
def linkIsolated (s : State) (i : Nat) : State := s.setLink i { s.link i with state := .isolated, tries := 0 }

theorem linkTrainingFail_peer (htries : 2 ≤ (s.link i).tries) (hpeer : i < 24) (hp : portPeer s i = some p) :
    exec .linkTrainingFail s = .next (if ∃ j ∈ bundlePorts (linkIsolated s i) p, ((linkIsolated s i).link j).flows = true ∨
        ((linkIsolated s i).link j).state = .retraining
      then failOver (linkIsolated s i) i p else loseHome (nothingLeft (linkIsolated s i) p) (.peer p)) := by
  have htrains := trains htraining
  subst hi
  have hthird : ¬ (s.link (s.pick.a % 25)).tries + 1 < 3 := by omega
  have hport : ¬ s.pick.a % 25 = hostPort := Nat.ne_of_lt hpeer
  have hp' := ((SameMemPick.of_setLink s (s.pick.a % 25) { s.link (s.pick.a % 25) with state := .isolated, tries := 0 }).portPeer_eq
    (s.pick.a % 25)).trans hp
  simp only [exec, execLinkTrainingFail, htrains, hthird, hport, hp', Bool.not_true, Bool.false_eq_true, if_false, nothingLeft, linkIsolated,
    List.any_eq_true, Bool.or_eq_true, beq_iff_eq]
  exact (apply_ite Host.Outcome.next _ _ _).symm

theorem linkTrainingFail_host (htries : 2 ≤ (s.link i).tries) (hhost : i = 24)
    (hqueues : ∀ q ∈ s.queues.keys, (s.queue q).state = .unbound ∨ qHost s q = false) :
    exec .linkTrainingFail s = .next (loseHome (linkIsolated s i) .host) := by
  have htrains := trains htraining
  subst hi
  have hthird : ¬ (s.link (s.pick.a % 25)).tries + 1 < 3 := by omega
  have hport : s.pick.a % 25 = hostPort := hhost
  simp only [exec, execLinkTrainingFail, htrains, hthird, Bool.not_true, Bool.false_eq_true, if_false, if_pos hport]
  refine congrArg Host.Outcome.next (List.foldlRecOn (motive := fun t => t = loseHome (linkIsolated s (s.pick.a % 25)) .host) _ _ rfl ?_)
  rintro t rfl q hq
  refine if_neg fun h => ?_
  obtain ⟨hbound, hring⟩ := Bool.and_eq_true_iff.mp h
  rcases hqueues q hq with hunbound | hdevice
  · exact bne_iff_ne.mp hbound hunbound
  · exact Bool.false_ne_true (hdevice.symm.trans hring)

end

/-! Host writes through a window (R506). -/

theorem hdmWrite_ends {s u : State} {i host dev size : Nat} (hup : (s.link 24).state = .up)
    (hwindow : s.dev.hdm.find? (fun e => e.2.1 ≤ s.pick.a && s.pick.a < e.2.1 + e.2.2.2) = some (i, host, dev, size)) :
    let pa := dev + (s.pick.a - host)
    let bs := s.pick.bytes.take (64 - pa % 64)
    (dumpHolds s pa = (u, true) → exec .hdmWrite s = .next u) ∧
    (dumpHolds s pa = (u, false) → ∀ t, agentWrite u (dramKey pa) {} true (spanFuel bs.length) bs = (t, none) →
      exec .hdmWrite s = .next t) := by
  intro pa bs
  have hplace : (if (s.link hostPort).flows then windowAddr s s.pick.a else none) = some pa := by
    refine (if_pos ((flows_iff _).mpr (.inl hup))).trans ?_
    rw [windowAddr, hwindow]
    rfl
  refine ⟨fun hdump => ?_, fun hdump t hwrite => ?_⟩
  · simp only [exec, execHdmWrite, hplace, hdump]
  · simp only [exec, execHdmWrite, hplace, hdump, show agentWrite u (dramKey pa) {} true (spanFuel (s.pick.bytes.take (64 - pa % 64)).length)
      (s.pick.bytes.take (64 - pa % 64)) = (t, none) from hwrite]

/-- Settles O58. -/
theorem linkSteps : Obligations.LinkSteps := by
  refine ⟨fun s i p f h hpeer => ⟨fun hseq hroom => ?_, fun hno => ?_⟩, fun s hflit => ?_,
    fun s f hflit hstate hcrc hresv hsrc => flitData_ownNumber hflit hstate hcrc hresv hsrc, fun s i f h => flitAck_frees h,
    fun s i f h => ⟨_, fun hoff => ?_, fun hon => ?_, flitFlowControl_sets h⟩, fun s i f h hmaster hpeer hfix => flitTick_corrects h hmaster hpeer hfix,
    fun s hup hlate => tickFlitSend_sends rfl hup hlate, fun s hup hbuffer hlate => linkReplayTimeout_resends rfl hup hbuffer hlate,
    fun s hdown => linkEnable_ends rfl hdown,
    fun s => ⟨fun hstate => ?_, fun ht hflag => ?_, fun ht hflag hport => ?_, fun ht => ⟨fun htries => linkTrainingFail_tries rfl ht htries,
      fun p htries hport hp => linkTrainingFail_peer rfl ht htries hport hp, fun htries hport hq => linkTrainingFail_host rfl ht htries hport hq⟩⟩,
    fun s hup => ?_, fun s hup => ?_, fun s u i host dev size hup hwindow => hdmWrite_ends hup hwindow⟩
  · exact (flitData_next h hpeer).trans (congrArg Host.Outcome.next (if_pos ⟨hseq, hroom⟩))
  · refine (flitData_next h hpeer).trans (congrArg Host.Outcome.next (if_neg fun hyes => ?_))
    rcases hno with hno | hno
    · exact hno hyes.1
    · exact Nat.not_lt.mpr hno hyes.2
  · simp only [exec, execFlitData, hflit]
  · exact if_pos hoff
  · exact if_neg (Bool.eq_false_iff.mp hon)
  · exact congrArg Host.Outcome.next (if_pos (beq_iff_eq.mpr hstate))
  · rw [linkTrainingPass_goes rfl ht fun h => absurd (hflag.symm.trans h) Bool.false_ne_true, hflag]
    rfl
  · rw [linkTrainingPass_goes rfl ht fun _ => hport, hflag]
    rfl
  · exact congrArg Host.Outcome.next (if_pos (beq_iff_eq.mpr hup))
  · exact congrArg Host.Outcome.next (if_pos (beq_iff_eq.mpr hup))

end Sys2Proof.Proofs
end

section
/-! PROOFS. Device states, the clock, bit errors and writes from outside (O59). -/
namespace Sys2Proof.Proofs
set_option Elab.async false

open Sys2Proof Sys2Proof.Machine Sys2Proof.Claims

/-! MGCMD (R535, R537). -/

section
variable {s : State} {cmd arg : Nat} (h : Sends s cmd arg)
include h

theorem sends_taken : crownStep s cmd = mgCommand (heard s) s.pick.c s.pick.word := by
  obtain ⟨hhere, hpast, hdue, hcmd, -, -⟩ := h
  have hlapse : lapse s = s := by
    refine if_pos ((Bool.or_eq_true _ _).mpr ?_)
    exact hdue.imp (decide_eq_true ·) (decide_eq_true ·)
  have hgo : (!masterHere s s.pick.c || crownPast s s.pick.c || (s.pick.word.extractLsb' 0 8).toNat != cmd) = false := by
    simp only [hhere, hpast, hcmd, bne_self_eq_false, Bool.not_true, Bool.or_self]
  rw [crownStep, hgo, crownTakes, hlapse]
  rfl

/-- The effect of a legal command of MGCMD (R535, R537). -/
def crownActs (t : State) (m arg : Nat) : Nat → State
  | 1 => if t.dev.state == .rom then { t with dev := { t.dev with state := .verifying, result := 0 } } else told t 3
  | 2 =>
    if t.dev.state == .off || t.dev.state == .rom || t.dev.state == .verifying then told t 3
    else if t.dev.holder = 0xFF then { t with dev := { t.dev with holder := m, result := 0 } } else told t 2
  | 3 => if t.dev.holder = m then { t with dev := { t.dev with pend := arg, pendTick := t.tick, result := 0 } } else told t 2
  | 4 => if t.dev.pend = m then { t with dev := { t.dev with holder := m, pend := 0xFF, result := 0 } } else told t 2
  | _ => if t.dev.holder = m then { t with dev := { t.dev with holder := 0xFF, pend := 0xFF, result := 0 } } else told t 2

/-- A command with a listed number and no argument that it does not take is legal, but for a HANDOVER to no master and a GO of
another master than the host (R537). -/
theorem sends_commanded (hknown : 1 ≤ cmd ∧ cmd ≤ 5) (harg : cmd = 3 ∨ arg = 0) :
    crownStep s cmd = if (cmd = 3 ∧ isMaster arg = false) ∨ (cmd = 1 ∧ s.pick.c ≠ 0) then told (heard s) 5
      else crownActs (heard s) s.pick.c arg cmd := by
  have htaken := sends_taken h
  obtain ⟨-, -, -, hcmd, hzero, harg'⟩ := h
  have hsmall : decide (cmd = 0) = false := decide_eq_false (by omega)
  have hlarge : decide (cmd > 5) = false := decide_eq_false (by omega)
  have hother : (cmd != 3 && arg != 0) = false := by
    rcases harg with rfl | rfl
    · rfl
    · exact Bool.and_false _
  have hbad : ((cmd == 3 && !isMaster arg) || (cmd == 1 && s.pick.c != 0)) = true ↔
      (cmd = 3 ∧ isMaster arg = false) ∨ (cmd = 1 ∧ s.pick.c ≠ 0) := by
    simp only [Bool.or_eq_true, Bool.and_eq_true, beq_iff_eq, Bool.not_eq_true', bne_iff_ne, ne_eq]
  rw [htaken, mgCommand]
  simp only [hcmd, hzero, harg', hsmall, hlarge, hother, bne_self_eq_false, Bool.false_or, hbad]
  refine ite_of_iff Iff.rfl rfl ?_
  have hcases : cmd = 1 ∨ cmd = 2 ∨ cmd = 3 ∨ cmd = 4 ∨ cmd = 5 := by omega
  rcases hcases with rfl | rfl | rfl | rfl | rfl
  all_goals exact rfl

end

/-- GO (R537). -/
theorem go_ends {s : State} (h : Sends s 1 0) :
    (s.pick.c = 0 → s.dev.state = .rom →
      exec .go s = .next { s with dev := { s.dev with crownAt := some (s.tick, 0), state := .verifying, result := 0 } }) ∧
    (s.pick.c = 0 → s.dev.state ≠ .rom → exec .go s = .next (told (heard s) 3)) ∧
    (s.pick.c ≠ 0 → exec .go s = .next (told (heard s) 5)) := by
  have hrun : exec .go s = _ := congrArg Host.Outcome.next (sends_commanded h (by decide) (.inr rfl))
  have hlegal (hhost : s.pick.c = 0) : ¬ ((1 = 3 ∧ isMaster 0 = false) ∨ (1 = 1 ∧ s.pick.c ≠ 0)) := by
    rintro (⟨h, -⟩ | ⟨-, h⟩)
    · exact absurd h (by decide)
    · exact h hhost
  refine ⟨fun hhost hrom => ?_, fun hhost hrom => ?_, fun hhost => ?_⟩
  · refine hrun.trans (congrArg Host.Outcome.next ((if_neg (hlegal hhost)).trans ((if_pos (beq_iff_eq.mpr hrom)).trans ?_)))
    rw [heard, hhost]
  · exact hrun.trans (congrArg Host.Outcome.next ((if_neg (hlegal hhost)).trans (if_neg (mt beq_iff_eq.mp hrom))))
  · exact hrun.trans (congrArg Host.Outcome.next (if_pos (.inr ⟨rfl, hhost⟩)))

/-! Firmware (R532, R533). -/

theorem verify_ends {s : State} (hstate : s.dev.state = .verifying) :
    ∃ t, exec .verify s = .next t ∧
      (imageValid s = true → t.dev.state = .training ∧ t.dev.otp = min otpBits (s.dev.otp + 1) ∧
        t.mem = s.mem ∧ (t.dev.tree = none ↔ otpBits ≤ s.dev.otp) ∧ ∀ x, t.dev.tree = some x → x.boot = s.dev.otp ∧ x.leaf = 0) ∧
      (imageValid s = false → t = { s with
        mem := s.mem.filter (fun e => keySpace e.1 != 5), dev := { s.dev with state := .rom, result := 1 } }) := by
  have hgo : (s.dev.state != .verifying) = false := by rw [hstate]; rfl
  rcases Bool.eq_false_or_eq_true (imageValid s) with hvalid | hvalid
  · simp only [exec, execVerify, hgo, hvalid, Bool.false_eq_true, if_false, if_true]
    refine ⟨_, rfl, fun _ => ⟨rfl, rfl, rfl, ?_, fun x hx => ?_⟩, fun h => absurd h.symm Bool.false_ne_true⟩
    · by_cases hleft : s.dev.otp < otpBits
      · simp only [if_pos hleft, reduceCtorEq, Nat.not_le.mpr hleft]
      · simp only [if_neg hleft, Nat.not_lt.mp hleft]
    · by_cases hleft : s.dev.otp < otpBits
      · simp only [if_pos hleft, Option.some.injEq] at hx
        subst hx
        exact ⟨rfl, rfl⟩
      · simp only [if_neg hleft, reduceCtorEq] at hx
  · simp only [exec, execVerify, hgo, hvalid, Bool.false_eq_true, if_false]
    exact ⟨_, rfl, False.elim, fun _ => rfl⟩

theorem earlyEntry_enters {s : State} (hstate : s.dev.state = .training)
    (hup : (List.range 8).filter (fun k => s.pick.a.testBit k) ≠ []) :
    exec .earlyEntry s = .next { s with dev := { s.dev with
      state := .early, upClusters := (List.range 8).filter (fun k => s.pick.a.testBit k), clockMHz := 1200 } } := by
  have hgo : (s.dev.state != .training || ((List.range 8).filter (fun k => s.pick.a.testBit k)).isEmpty) = false := by
    rw [hstate, List.isEmpty_eq_false_iff.mpr hup]
    rfl
  simp only [exec, execEarlyEntry, hgo, Bool.false_eq_true, if_false]

theorem fullEntry_enters {s : State} (hstate : s.dev.state = .early)
    (hstacks : ∀ n < 8, (s.stack n).state = .up ∨ (s.stack n).state = .failed) :
    exec .fullEntry s = .next { s with dev := { s.dev with state := .full, upClusters := [0, 1, 2, 3, 4, 5, 6, 7], clockMHz := 1900 } } := by
  have hall : (List.range 8).all (fun i => (s.stack i).state == .up || (s.stack i).state == .failed) = true := by
    simp only [List.all_eq_true, List.mem_range, Bool.or_eq_true, beq_iff_eq]
    exact hstacks
  have hgo : (s.dev.state != .early || !(List.range 8).all (fun i => (s.stack i).state == .up || (s.stack i).state == .failed)) = false := by
    rw [hstate, hall]
    rfl
  simp only [exec, execFullEntry, hgo, Bool.false_eq_true, if_false]
  rfl

/-! The clock and bit errors (R542, R188). -/

theorem clockStep_goes (s : State) :
    (s.pick.flag = true → exec .clockStep s = .next { s with dev := { s.dev with
      clockMHz := min (if s.dev.state = .full then 1900 else 1200) (s.dev.clockMHz + 50) } }) ∧
    (s.pick.flag = false → exec .clockStep s = .next { s with dev := { s.dev with
      clockMHz := if s.dev.clockMHz ≤ 50 then s.dev.clockMHz else s.dev.clockMHz - 50 } }) := by
  refine ⟨fun hflag => ?_, fun hflag => ?_⟩
  · simp only [exec, execClockStep, hflag, if_true, beq_iff_eq]
  · simp only [exec, execClockStep, hflag, Bool.false_eq_true, if_false, gt_iff_lt, ← Nat.not_le, ite_not]

/-! Writes of registers (R88, R506, R536). -/

theorem boxesReady_iff (s : State) : boxesReady s = true ↔ s.dev.state = .training ∨ s.dev.state = .early ∨ s.dev.state = .full := by
  simp only [boxesReady, State.serving, Bool.or_eq_true, beq_iff_eq]

theorem registerWrite_ends {s : State} (hhere : masterHere s s.pick.c = true) :
    (s.pick.a = 1 → s.pick.b ≠ 8 ∨ crownPast s s.pick.c = false → exec .registerWrite s = .next (barWrite s s.pick.c s.pick.b s.pick.bytes)) ∧
    (s.pick.a = 0 → s.dev.state = .training ∨ s.dev.state = .early ∨ s.dev.state = .full →
      exec .registerWrite s = .next (masterHubWrite s s.pick.c s.pick.b s.pick.bytes)) ∧
    (2 ≤ s.pick.a → masterHere s 0 = true → exec .registerWrite s = .next (setWindow s s.pick.b s.pick.word.toNat s.pick.c s.pick.wide.toNat)) := by
  refine ⟨fun ha hturn => ?_, fun ha hstate => ?_, fun ha hhost => ?_⟩
  · have hgo : (masterHere s s.pick.c && !(s.pick.b == 8 && crownPast s s.pick.c)) = true := by
      rw [hhere, Bool.true_and, Bool.not_eq_true', Bool.and_eq_false_iff]
      exact hturn.imp_left beq_eq_false_iff_ne.mpr
    simp only [exec, execRegisterWrite, ha, hgo, if_true]
  · have hgo : (masterHere s s.pick.c && boxesReady s) = true := by rw [hhere, (boxesReady_iff s).mpr hstate]; rfl
    simp only [exec, execRegisterWrite, ha, hgo, if_true]
  · obtain ⟨n, hn⟩ := Nat.exists_eq_add_of_le' ha
    simp only [exec, execRegisterWrite, hn, hhost, if_true]

/-- Settles O59. -/
theorem deviceStates : Obligations.DeviceStates := by
  refine ⟨fun s hoff => ?_, fun s => ⟨rfl, rfl, rfl, fun hon => ?_⟩, fun s h => go_ends h, fun s hstate => verify_ends hstate,
    fun s hstate hup => earlyEntry_enters hstate hup, fun s hstate hstacks => fullEntry_enters hstate hstacks, fun s => clockStep_goes s,
    fun s => ⟨fun hnone => ?_, fun hsome => ?_⟩, fun s hhere => registerWrite_ends hhere⟩
  · exact if_neg fun h => bne_iff_ne.mp h hoff
  · exact congrArg Host.Outcome.next (if_neg (mt beq_iff_eq.mp hon))
  · exact congrArg (fun m => Host.Outcome.next { s with flips := m }) (if_pos hnone)
  · exact congrArg (fun m => Host.Outcome.next { s with flips := m }) (if_neg hsome)

end Sys2Proof.Proofs
end

section
/-! PROOFS. The crown and the mailboxes (O60). -/
namespace Sys2Proof.Proofs
set_option Elab.async false

open Sys2Proof Sys2Proof.Machine Sys2Proof.Claims

/-! Commands of the crown (R535, R537). -/

theorem isMaster_iff (m : Nat) : isMaster m = true ↔ m = 0 ∨ m = 1 ∨ (0x20 ≤ m ∧ m ≤ 0x3F) := by
  simp only [isMaster, Bool.or_eq_true, Bool.and_eq_true, decide_eq_true_eq]
  omega

section
variable {s : State}

/-- A command without an argument that is no GO is legal. -/
theorem sends_legal {cmd : Nat} (h : Sends s cmd 0) (hcmd : cmd = 2 ∨ cmd = 4 ∨ cmd = 5) :
    crownStep s cmd = crownActs (heard s) s.pick.c 0 cmd := by
  rw [sends_commanded h (by omega) (.inr rfl), if_neg]
  rintro (⟨h, -⟩ | ⟨h, -⟩) <;> omega

theorem claim_ends (h : Sends s 2 0) :
    ((s.dev.state = .rom ∨ s.dev.state = .verifying) → exec .claim s = .next (told (heard s) 3)) ∧
    ((s.dev.state = .training ∨ s.dev.state = .early ∨ s.dev.state = .full) →
      (s.dev.holder = 0xFF → exec .claim s = .next (crowned s s.pick.c s.dev.pend)) ∧
      (s.dev.holder ≠ 0xFF → exec .claim s = .next (told (heard s) 2))) := by
  have hrun : exec .claim s = .next (crownActs (heard s) s.pick.c 0 2) := congrArg Host.Outcome.next (sends_legal h (by decide))
  refine ⟨fun hearly => ?_, fun hready => ?_⟩
  · have hgo : ((heard s).dev.state == .off || (heard s).dev.state == .rom || (heard s).dev.state == .verifying) = true := by
      rcases hearly with hstate | hstate <;>
        rw [show (heard s).dev.state = s.dev.state from rfl, hstate] <;> rfl
    exact hrun.trans (congrArg Host.Outcome.next (if_pos hgo))
  · have hgo : ¬ ((heard s).dev.state == .off || (heard s).dev.state == .rom || (heard s).dev.state == .verifying) = true := by
      rcases hready with hstate | hstate | hstate <;>
        rw [show (heard s).dev.state = s.dev.state from rfl, hstate] <;> decide
    refine ⟨fun hfree => ?_, fun hheld => ?_⟩
    · exact hrun.trans (congrArg Host.Outcome.next ((if_neg hgo).trans (if_pos hfree)))
    · exact hrun.trans (congrArg Host.Outcome.next ((if_neg hgo).trans (if_neg hheld)))

theorem handover_ends {t : Nat} (h : Sends s 3 t) :
    (isMaster t = true → exec .handover s = .next (crownActs (heard s) s.pick.c t 3)) ∧
    (isMaster t = false → exec .handover s = .next (told (heard s) 5)) := by
  have hrun : exec .handover s = _ := congrArg Host.Outcome.next (sends_commanded h (by decide) (.inl rfl))
  refine ⟨fun hmaster => hrun.trans (congrArg Host.Outcome.next (if_neg ?_)),
    fun hno => hrun.trans (congrArg Host.Outcome.next (if_pos (.inl ⟨rfl, hno⟩)))⟩
  rintro (⟨-, hno⟩ | ⟨hgo, -⟩)
  · exact absurd (hno.symm.trans hmaster) Bool.false_ne_true
  · exact absurd hgo (by decide)

theorem handoverLapse_lapses (hpend : s.dev.pend ≠ 0xFF) (hdue : s.dev.pendTick + 2 ^ 30 ≤ s.tick) :
    exec .handoverLapse s = .next { s with dev := { s.dev with pend := 0xFF, result := 4 } } := by
  refine congrArg Host.Outcome.next (if_neg fun h => ?_)
  rcases (Bool.or_eq_true _ _).mp h with h | h
  · exact hpend (of_decide_eq_true h)
  · exact Nat.not_lt.mpr hdue (of_decide_eq_true h)

theorem crownVacancy_vacates (h : (s.dev.holder = 0 ∧ ((s.link 24).state = .isolated ∨ (s.link 24).state = .down)) ∨
    (s.dev.holder = 1 ∧ s.pick.flag = true)) :
    exec .crownVacancy s = .next { s with dev := { s.dev with holder := 0xFF, pend := 0xFF } } := by
  refine if_pos ?_
  rcases h with ⟨hhost, hlink⟩ | ⟨hbmc, hflag⟩
  · rw [hhost]
    exact (Bool.or_eq_true _ _).mpr (hlink.imp beq_iff_eq.mpr beq_iff_eq.mpr)
  · rw [hbmc]
    exact hflag

theorem devnoWrite_ends (hhere : masterHere s s.pick.c = true) :
    (s.dev.holder ≠ s.pick.c → exec .devnoWrite s = .next (told s 2)) ∧
    (s.dev.holder = s.pick.c → (∃ i < 24, (s.link i).state ≠ .down) → exec .devnoWrite s = .next (told s 3)) ∧
    (s.dev.holder = s.pick.c → (∀ i < 24, (s.link i).state = .down) → exec .devnoWrite s =
      .next { s with dev := { s.dev with devno := s.pick.word.extractLsb' 0 32 &&& 0x8000001F, result := 0 } }) := by
  have hrun : exec .devnoWrite s = .next (writeDevno s s.pick.c (s.pick.word.extractLsb' 0 32)) := congrArg Host.Outcome.next (if_pos hhere)
  have hany : (List.range 24).any (fun i => (s.link i).state != .down) = true ↔ ∃ i < 24, (s.link i).state ≠ .down := by
    simp only [List.any_eq_true, List.mem_range, bne_iff_ne, ne_eq]
  refine ⟨fun hno => ?_, fun hholder hlink => ?_, fun hholder hlink => ?_⟩
  · exact hrun.trans (congrArg Host.Outcome.next (if_pos (bne_iff_ne.mpr hno)))
  · exact hrun.trans (congrArg Host.Outcome.next ((if_neg fun h => bne_iff_ne.mp h hholder).trans (if_pos (hany.mpr hlink))))
  · refine hrun.trans (congrArg Host.Outcome.next ((if_neg fun h => bne_iff_ne.mp h hholder).trans (if_neg fun h => ?_)))
    obtain ⟨i, hi, hup⟩ := hany.mp h
    exact hup (hlink i hi)

end

/-! Mailboxes (R539-R541). -/

/-- A served request is answered. -/
theorem answer_eq (s : State) (i code : Nat) (bs : List Byte) : answer s i code bs = replied s i code bs := by
  simp only [answer, replied, Bool.and_eq_true, decide_eq_true_eq, Bool.not_eq_true', List.isEmpty_eq_false_iff, ne_eq]

theorem serveBox_serves {s t : State} {op len code : Nat} {bs : List Byte} {act : State → Mailbox → State × Nat × List Byte}
    (h : Asks s op len) (hact : act s (s.box (s.pick.a % 3)) = (t, code, bs)) :
    serveBox s op len act = .next (replied t (s.pick.a % 3) code bs) := by
  obtain ⟨hturn, hop, hlen, hzero, hready⟩ := h
  have hgo : (!boxTurn s (s.pick.a % 3) || ((s.box (s.pick.a % 3)).cmd.extractLsb' 0 8).toNat != op) = false := by
    simp only [hturn, hop, bne_self_eq_false, Bool.not_true, Bool.or_self]
  have hgood : ((s.box (s.pick.a % 3)).len != len || (s.box (s.pick.a % 3)).cmd.extractLsb' 32 32 != 0) = false := by
    simp only [hlen, hzero, bne_self_eq_false, Bool.or_self]
  simp only [serveBox, hgo, hgood, (boxesReady_iff s).mpr hready, hact, Bool.not_true, Bool.false_eq_true, if_false, answer_eq]

section
variable {s : State}

theorem attest_ends (h : Asks s 1 32) :
    (s.dev.tree = none → exec .attest s = .next (replied s (s.pick.a % 3) 5 [])) ∧
    (∀ t, s.dev.tree = some t →
      (bootLeaves ≤ t.leaf → exec .attest s = .next (replied s (s.pick.a % 3) 4 [])) ∧
      (t.leaf < bootLeaves → let bs := reportBytes s t ((s.box (s.pick.a % 3)).bytes 0 32)
        exec .attest s = .next (replied { s with dev := { s.dev with tree := some { t with leaf := t.leaf + 1 } } } (s.pick.a % 3) 0
          (bs ++ fitBytes 1612 (Config.lmsSign t.seed t.leaf bs))))) := by
  rw [show exec .attest s = execAttest s from rfl, execAttest]
  refine ⟨fun htree => serveBox_serves h ?_, fun t htree => ⟨fun hspent => serveBox_serves h ?_, fun hleft => serveBox_serves h ?_⟩⟩
  · simp only [htree, codeNoIdentity]
  · simp only [htree, ge_iff_le, if_pos hspent, codeExhausted]
  · simp only [htree, ge_iff_le, if_neg (Nat.not_le.mpr hleft), codeOk]

theorem cert_ends (h : Asks s 2 0) :
    (s.dev.tree = none → exec .cert s = .next (replied s (s.pick.a % 3) 5 [])) ∧
    (∀ t, s.dev.tree = some t → let bs := leBytes 4 t.boot ++ leBytes 32 t.hash.toNat ++ fitBytes 56 (Config.lmsPublic t.seed)
      exec .cert s = .next (replied s (s.pick.a % 3) 0 (fitBytes 60 Config.identityPublic ++ bs ++ fitBytes 2964 (Config.identitySign t.boot bs)))) := by
  rw [show exec .cert s = execCert s from rfl, execCert]
  refine ⟨fun htree => serveBox_serves h ?_, fun t htree => serveBox_serves h ?_⟩
  · simp only [htree, codeNoIdentity]
  · simp only [htree, codeOk]

theorem boxCsr_iff (n : Nat) : boxCsr n = true ↔ 0x180 ≤ n ∧ n ≤ 0x183 := by
  simp only [boxCsr, Bool.and_eq_true, decide_eq_true_eq]

theorem csrrd_ends (h : Asks s 3 2) : let n := leNat ((s.box (s.pick.a % 3)).bytes 0 2)
    exec .csrrd s = .next (if 0x180 ≤ n ∧ n ≤ 0x183 then replied s (s.pick.a % 3) 0 (leBytes 4 (stewardCsr s 0 n).toNat)
      else replied s (s.pick.a % 3) 3 []) := by
  intro n
  rw [show exec .csrrd s = execCsrrd s from rfl, execCsrrd]
  split
  · next hcsr => exact serveBox_serves h (if_pos ((boxCsr_iff n).mpr hcsr))
  · next hcsr => exact serveBox_serves h (if_neg (mt (boxCsr_iff n).mp hcsr))

theorem csrwr_ends (h : Asks s 4 8) : let x := s.box (s.pick.a % 3)
    let n := leNat (x.bytes 0 2)
    let u := told (csrWrite s 0 n (BitVec.ofNat 32 (leNat (x.bytes 4 4)))) 0
    (s.dev.holder ≠ x.master → exec .csrwr s = .next (replied (told s 2) (s.pick.a % 3) 1 [])) ∧
    (s.dev.holder = x.master → exec .csrwr s = .next (if 0x180 ≤ n ∧ n ≤ 0x183 then
      replied u (s.pick.a % 3) 0 (leBytes 4 (stewardCsr u 0 n).toNat) else replied s (s.pick.a % 3) 3 [])) := by
  intro x n u
  rw [show exec .csrwr s = execCsrwr s from rfl, execCsrwr]
  refine ⟨fun hno => serveBox_serves h (if_pos (bne_iff_ne.mpr hno)), fun hholder => ?_⟩
  have hthis : ¬ (s.dev.holder != x.master) = true := fun hne => bne_iff_ne.mp hne hholder
  split
  · next hcsr =>
    have hgo : ¬ (!boxCsr n) = true := not_not_of_true ((boxCsr_iff n).mpr hcsr)
    exact serveBox_serves h ((if_neg hthis).trans (if_neg hgo))
  · next hcsr =>
    have hgo : (!boxCsr n) = true := (Bool.not_eq_true' _).mpr (Bool.eq_false_iff.mpr (mt (boxCsr_iff n).mp hcsr))
    exact serveBox_serves h ((if_neg hthis).trans (if_pos hgo))

theorem hubrd_ends (h : Asks s 5 8) : let o := leNat ((s.box (s.pick.a % 3)).bytes 0 8)
    exec .hubrd s = .next (if boxOffset o = true then replied s (s.pick.a % 3) 0 (hubRead s o 8) else replied s (s.pick.a % 3) 3 []) := by
  intro o
  rw [show exec .hubrd s = execHubrd s from rfl, execHubrd]
  split
  · next ho => exact serveBox_serves h (if_pos ho)
  · next ho => exact serveBox_serves h (if_neg ho)

theorem hubwr_ends (h : Asks s 6 16) : let x := s.box (s.pick.a % 3)
    let o := leNat (x.bytes 0 8)
    exec .hubwr s = .next (if s.dev.holder ≠ x.master then replied (told s 2) (s.pick.a % 3) 1 []
      else if boxOffset o = true then replied (masterHubWrite s x.master o (x.bytes 8 8)) (s.pick.a % 3) 0 []
      else replied s (s.pick.a % 3) 3 []) := by
  intro x o
  rw [show exec .hubwr s = execHubwr s from rfl, execHubwr]
  split
  · next hno => exact serveBox_serves h (if_pos (bne_iff_ne.mpr hno))
  · next hholder =>
    have hthis : ¬ (s.dev.holder != x.master) = true := fun hne => hholder (bne_iff_ne.mp hne)
    split
    · next ho => exact serveBox_serves h ((if_neg hthis).trans (if_neg (not_not_of_true ho)))
    · next ho => exact serveBox_serves h ((if_neg hthis).trans (if_pos ((Bool.not_eq_true' _).mpr (Bool.eq_false_iff.mpr ho))))

end

/-- Settles O60. -/
theorem crownSteps : Obligations.CrownSteps := by
  refine ⟨fun s h => claim_ends h, fun s t h => ⟨fun ht hholder => ?_, fun ht hholder => ?_, fun ht => ?_⟩, fun s h => ?_, fun s h => ?_,
    fun s hpend hdue => handoverLapse_lapses hpend hdue, fun s h => crownVacancy_vacates h, fun s hhere => devnoWrite_ends hhere,
    fun s h => attest_ends h, fun s h => cert_ends h, fun s h => csrrd_ends h, fun s h => csrwr_ends h, fun s h => hubrd_ends h,
    fun s h => hubwr_ends h⟩
  · exact ((handover_ends h).1 ((isMaster_iff t).mpr ht)).trans (congrArg Host.Outcome.next (if_pos hholder))
  · exact ((handover_ends h).1 ((isMaster_iff t).mpr ht)).trans (congrArg Host.Outcome.next (if_neg hholder))
  · exact (handover_ends h).2 (Bool.eq_false_iff.mpr (mt (isMaster_iff t).mp ht))
  · exact congrArg Host.Outcome.next (sends_legal h (by decide))
  · exact congrArg Host.Outcome.next (sends_legal h (by decide))

end Sys2Proof.Proofs
end

section
/-! PROOFS. MMA forms, the cuff latch and the cascade (O33). -/
namespace Sys2Proof.Proofs
set_option Elab.async false

open Sys2Proof Sys2Proof.Machine Sys2Proof.Claims

/-! Issue (R460-R464). -/

/-- An MMA form, with its kind, its operands and what it runs. -/
structure MmaForm (i : Instr) (c : Ctl) (kind : MmaKind) (sat : Bool) (shape : Shape) (d a : Operand) : Prop where
  run : ∀ s, exec i s = run i c s fun v s => matrixIssue v s kind sat shape d a
  op : ∀ v, opOf i v = some (v.matrixOp kind sat shape d a)
  call : ∀ v, callOf i v = some { kind := kind, sat := sat, quad := (List.range 4).map (fun k => v.rd (a.after k) 0), list := gangList v.st.gang }

theorem mmaForm_of_shape {i : Instr} {c : Ctl} {shape : Shape} (hctl : i.ctl = some c) (hshape : shapeOf i = some shape) :
    ∃ kind sat d a, MmaForm i c kind sat shape d a := by
  unfold shapeOf at hshape
  split at hshape
  · cases hctl
    cases hshape
    exact ⟨.dense, _, _, _, ⟨fun _ => rfl, fun _ => rfl, fun _ => rfl⟩⟩
  · cases hctl
    cases hshape
    exact ⟨.sparse, _, _, _, ⟨fun _ => rfl, fun _ => rfl, fun _ => rfl⟩⟩
  · cases hctl
    cases hshape
    exact ⟨.quant, _, _, _, ⟨fun _ => rfl, fun _ => rfl, fun _ => rfl⟩⟩
  · cases hshape

/-- The operation of whole tiles goes on, or traps as its check says (R460). -/
def IssuesWhole (i : Instr) (c : Ctl) (s : State) (op : Except TrapRec (Option CascadeOp)) : Prop :=
  match op with
  | .error e => Traps i s e (entered i s)
  | .ok none => Finishes i s (entered i s)
  | .ok (some x) => Finishes i s (enterCascade (entered i s) (seen i c s).r.core x)

/-- What issuing an operation over whole tiles comes to. -/
def wholeIssue (t : State) (core : Nat) : Except TrapRec (Option CascadeOp) → Res
  | .error e => .trap e t
  | .ok none => .done t
  | .ok (some x) => .done (enterCascade t core x)

section
variable {i : Instr} {c : Ctl} {kind : MmaKind} {sat : Bool} {shape : Shape} {d a : Operand} {s : State}
  (hform : MmaForm i c kind sat shape d a) (hready : Ready i c s)
include hform hready

theorem mma_nothing (heff : (seen i c s).eff = 0) : Finishes i s (entered i s) :=
  finishes_of_run (hform.run s) hready (if_pos heff)

theorem mma_whole {op : Except TrapRec (Option CascadeOp)} (hop : (seen i c s).matrixOp kind sat shape d a = op)
    (heff : (seen i c s).eff ≠ 0) (hstage : ((entered i s).prog (seen i c s).r).stage = 0) (hshape : shape ≠ .gang) :
    IssuesWhole i c s op := by
  have hgang : ¬ (shape == .gang && gangCount (seen i c s).st.gang < 2) = true := fun h =>
    hshape (beq_iff_eq.mp (Bool.and_eq_true_iff.mp h).1)
  have hbody : matrixIssue (seen i c s) (entered i s) kind sat shape d a = wholeIssue (entered i s) (seen i c s).r.core op := by
    rw [matrixIssue, if_neg heff, if_neg (not_not_intro hstage), if_neg hgang]
    simp only [hop]
    cases op with
    | error e => rfl
    | ok x =>
      cases shape with
      | gang => exact absurd rfl hshape
      | tile => cases x <;> rfl
      | wide => cases x <;> rfl
  cases op with
  | error e => exact traps_of_run_entered (hform.run s) hready hbody
  | ok x =>
    cases x with
    | none => exact finishes_of_run (hform.run s) hready hbody
    | some x => exact finishes_of_run (hform.run s) hready hbody

theorem mma_arrived (heff : (seen i c s).eff ≠ 0) (hstage : ((entered i s).prog (seen i c s).r).stage = 2) :
    Finishes i s (entered i s) := by
  refine finishes_of_run (hform.run s) hready ?_
  rw [matrixIssue, if_neg heff, if_pos (by rw [hstage]; decide), gangOutcome, hstage]
  rfl

end

/-! The cuff latch moves no split. -/

theorem samePlaces_setSplit {s : State} {r : SplitRef} {x : Split} (h : x.running = (s.split r).running) : SamePlaces s (s.setSplit r x) := by
  refine samePlaces_setKept (core := r.core) (p := .slot r.slot) (st := (s.strand r).setSplit r.split x) fun j => ?_
  by_cases hj : j = r.split
  · subst hj
    exact (congrArg Split.running (Strand.split_setSplit ..)).trans h
  · exact congrArg Split.running (Strand.split_setSplit_ne _ _ hj)

theorem samePlaces_setProg (s : State) (r : SplitRef) (p : Prog) : SamePlaces s (s.setProg r p) := samePlaces_setSplit rfl

theorem samePlaces_setCore {s : State} {c : Nat} {k : Core} (h : k.slots = (s.core c).slots) : SamePlaces s (s.setCore c k) := by
  intro r
  have hst : (s.setCore c k).strandAt r.core r.slot = s.strandAt r.core r.slot := by
    by_cases hr : r.core = c
    · rw [State.strandAt, State.strandAt, hr, State.core_setCore, h]
    · rw [State.strandAt, State.strandAt, State.core_setCore_ne s _ hr]
  exact congrArg (fun x : Strand => (x.split r.split).running) hst

theorem slots_updGroup (k : Core) (wide : Bool) (t : Nat) (f : Tile → Tile) : (k.updGroup wide t f).slots = k.slots := by
  rw [Core.updGroup]
  exact List.foldlRecOn (motive := fun m : Core => m.slots = k.slots) _ _ rfl fun m hm _ _ => hm

theorem samePlaces_enterCascade (s : State) (c : Nat) (x : CascadeOp) : SamePlaces s (enterCascade s c x) :=
  samePlaces_setCore (slots_updGroup ..)

theorem samePlaces_setArrival (s : State) (a : GangArrival) (stage : Nat) : SamePlaces s (setArrival s a stage) :=
  samePlaces_setSplit rfl

theorem samePlaces_foldl {α : Type} {f : State → α → State} (hf : ∀ s x, SamePlaces s (f s x)) (xs : List α) (s : State) :
    SamePlaces s (xs.foldl f s) := by
  induction xs generalizing s with
  | nil => exact SamePlaces.refl s
  | cons x xs ih => exact (hf s x).trans (ih _)

theorem samePlaces_tellArrived (s : State) (x : Cuff) (stage : Nat) : SamePlaces s (tellArrived s x stage) :=
  samePlaces_foldl (fun t a => samePlaces_setArrival t a stage) _ s

theorem samePlaces_setCuffs (s : State) (k : Nat) (xs : List Cuff) : SamePlaces s (setCuffs s k xs) := fun _ => rfl

theorem samePlaces_runGang (s : State) (x : Cuff) : SamePlaces s (runGang s x) := by
  have hfresh : SamePlaces s s.fresh.1 := fun _ => rfl
  refine hfresh.trans (samePlaces_foldl (fun t a => SamePlaces.trans ?_ (samePlaces_setArrival _ _ _)) _ _)
  split
  · exact samePlaces_enterCascade _ _ _
  · exact SamePlaces.refl t

theorem samePlaces_arriveGang (s : State) (k ctx : Nat) (call : GangCall) (a : GangArrival) : SamePlaces s (arriveGang s k ctx call a) := by
  have hcuffs (xs : List Cuff) : SamePlaces s (setCuffs s k xs) := samePlaces_setCuffs s k xs
  have harrival (t : State) (h : SamePlaces s t) (stage : Nat) : SamePlaces s (setArrival t a stage) := h.trans (samePlaces_setArrival t a stage)
  unfold arriveGang
  dsimp only
  split
  · split
    · exact SamePlaces.refl s
    · split
      · exact harrival _ (hcuffs _) 3
      · split
        · exact harrival _ ((samePlaces_tellArrived s _ 3).trans (samePlaces_setCuffs _ k _)) 3
        · split
          · exact (hcuffs _).trans (samePlaces_runGang _ _)
          · exact harrival _ (hcuffs _) 1
  · split
    · exact harrival s (SamePlaces.refl s) 4
    · exact harrival _ (hcuffs _) 1

/-- What an arrived member does, by the stage that its arrival left it (R146). -/
def GoesAsTold (i : Instr) (c : Ctl) (s u : State) : Prop :=
  ((u.prog (seen i c s).r).stage = 2 → Finishes i s u) ∧ ((u.prog (seen i c s).r).stage = 1 → Waits i s 11 u) ∧
    ((u.prog (seen i c s).r).stage = 3 → Traps i s { code := 0x0C, lanes := (seen i c s).eff } u) ∧
    ((u.prog (seen i c s).r).stage = 4 → Traps i s { code := 0x0D, lanes := (seen i c s).eff } u)

theorem goesAsTold {i : Instr} {c : Ctl} {s u : State} {body : View → State → Res} (hrun : exec i s = run i c s body)
    (hready : Ready i c s) (hbody : body (seen i c s) (entered i s) = gangOutcome (seen i c s) u) (hplaces : SamePlaces (entered i s) u) :
    GoesAsTold i c s u := by
  rw [gangOutcome] at hbody
  refine ⟨fun h => ?_, fun h => ?_, fun h => ?_, fun h => ?_⟩
  · exact finishes_of_run hrun hready (by rw [hbody, h]; rfl)
  · exact waits_of_run hrun hready (by rw [hbody, h]; rfl)
  · exact traps_of_run hrun hready (by rw [hbody, h]; rfl) (hplaces s.pick.ref)
  · exact traps_of_run hrun hready (by rw [hbody, h]; rfl) (hplaces s.pick.ref)

/-- What a member brings to the cuff: its call, and itself with its operation (R146, R461). -/
def callAt (v : View) (kind : MmaKind) (sat : Bool) (a : Operand) : GangCall :=
  { kind := kind, sat := sat, quad := (List.range 4).map (fun k => v.rd (a.after k) 0), list := gangList v.st.gang }
def arrivalAt (v : View) (x : Option CascadeOp) : GangArrival := { core := v.r.core, slot := v.r.slot, split := v.r.split, op := x }

/-- A member that arrives at the cuff goes on as its stage says (R146). -/
theorem mma_arrives {i : Instr} {c : Ctl} {kind : MmaKind} {sat : Bool} {d a : Operand} {s u : State} {x : Option CascadeOp}
    (hform : MmaForm i c kind sat .gang d a) (hready : Ready i c s)
    (hop : (seen i c s).matrixOp kind sat .gang d a = .ok x) (heff : (seen i c s).eff ≠ 0)
    (hstage : ((entered i s).prog (seen i c s).r).stage = 0) (hcount : 2 ≤ gangCount (seen i c s).st.gang)
    (hrel : ((entered i s).prog (seen i c s).r).rel = 2) (href : ((entered i s).core (seen i c s).r.core).refused = [])
    (hu : u = arriveGang ((entered i s).setProg (seen i c s).r { (entered i s).prog (seen i c s).r with rel := 4, scope := none })
      (coreCluster (seen i c s).r.core) (seen i c s).st.ctx (callAt (seen i c s) kind sat a) (arrivalAt (seen i c s) x)) :
    GoesAsTold i c s u := by
  have hgang : ¬ (Shape.gang == .gang && decide (gangCount (seen i c s).st.gang < 2)) = true := fun h =>
    Nat.not_lt.mpr hcount (of_decide_eq_true (Bool.and_eq_true_iff.mp h).2)
  have hplaces : SamePlaces (entered i s) u := by
    rw [hu]
    exact (samePlaces_setProg _ _ _).trans (samePlaces_arriveGang _ _ _ _ _)
  refine goesAsTold (hform.run s) hready ?_ hplaces
  have hover := releaseThen_over (v := seen i c s) .clu 16 (fun t => gangOutcome (seen i c s) (arriveGang t
    (coreCluster (seen i c s).r.core) (seen i c s).st.ctx (callAt (seen i c s) kind sat a) (arrivalAt (seen i c s) x))) hrel href
  rw [← hu] at hover
  rw [matrixIssue, if_neg heff, if_neg (not_not_intro hstage), if_neg hgang, hop]
  exact hover

/-! The cascade (R14, R203, R460). -/

section
variable {s : State} {x : CascadeOp} {rest : List CascadeOp} (hhead : (s.core s.pick.a).cascade = x :: rest) (hmay : headMay s s.pick.a x)
include hhead hmay

omit hhead in
theorem headMay_go : ((s.clu (coreCluster s.pick.a)).leaving == some x.ctx || (s.clu (coreCluster s.pick.a)).stuck || joinOwed s s.pick.a x) =
    false := by
  obtain ⟨hstays, hstuck, hjoin⟩ := hmay
  rw [hstuck, hjoin, beq_eq_false_iff_ne.mpr hstays]
  rfl

theorem cascadeStep_matrix (hkind : x.kind ≠ .tmv) : exec .cascadeStep s = .next (matrixStep s s.pick.a x) := by
  have hgo := headMay_go hmay
  have hmatrix : (x.kind == .tmv) = false := beq_eq_false_iff_ne.mpr hkind
  simp only [exec, execCascadeStep, hhead, hgo, hmatrix, Bool.false_eq_true, if_false]

theorem cascadeStep_tmv {j : TmvJob} (hkind : x.kind = .tmv)
    (hjob : ((s.tier x.ctx x.job.1).flight.find? fun j => j.id == x.job.2) = some j) :
    exec .cascadeStep s = .next (setJob (if (j.nextBatch s (s.tier x.ctx x.job.1).entry (s.tier x.ctx x.job.1).block).hotDone
      then s.setCore s.pick.a { s.core s.pick.a with cascade := rest } else s) x.ctx x.job.1
        (j.nextBatch s (s.tier x.ctx x.job.1).entry (s.tier x.ctx x.job.1).block)) := by
  have hgo := headMay_go hmay
  have htmv : (x.kind == .tmv) = true := beq_iff_eq.mpr hkind
  simp only [exec, execCascadeStep, hhead, hgo, htmv, Bool.false_eq_true, if_false, if_true, tmvStep, hjob, List.drop_succ_cons, List.drop_zero]

end

/-- A step with its codes is made on the operation at the head. -/
theorem matrixStep_codes {s u : State} {c : Nat} {x y : CascadeOp} {more : List CascadeOp} {as_ bs : TileCodes}
    (hcodes : stepCodes s c x = some (u, as_, bs)) (hhead : (u.core c).cascade = y :: more) :
    matrixStep s c x = afterCascade u c y more as_ bs := by
  rw [matrixStep, hcodes]
  dsimp only
  rw [hhead]
  rfl

theorem matrixStep_held {s : State} {c : Nat} {x : CascadeOp} (hcodes : stepCodes s c x = none) : matrixStep s c x = s := by
  rw [matrixStep, hcodes]

/-! Multicast (R14). -/

theorem feedA_held {s : State} {c g : Nat} {x : CascadeOp} (hnew : x.fedA.find x.step = none)
    (hfull : ∃ e ∈ lackA s c g x, Config.receiveSteps < e.2.fedA.length) : feedA s c g x = none := by
  obtain ⟨e, he, hlen⟩ := hfull
  have hall : ((lackA s c g x).all fun e => hasRoomFor e.2.fedA) = false :=
    List.all_eq_false.mpr ⟨e, he, by simpa [hasRoomFor] using hlen⟩
  rw [feedA, hnew]
  exact if_neg (Bool.eq_false_iff.mp hall)

/-- A tile of A delivered to every member of a list. -/
def deliverA (s : State) (g : Nat) (x : CascadeOp) (dst : List (Nat × CascadeOp)) : State :=
  dst.foldl (fun t e => t.setCore e.1 ((t.core e.1).mapGang g (fun y =>
    { y with fedA := y.fedA.set x.step (e.2.tileA s e.1 x.step) }))) s

theorem feedA_delivers {s : State} {c g : Nat} {x : CascadeOp} (hnew : x.fedA.find x.step = none)
    (hroom : ∀ e ∈ lackA s c g x, e.2.fedA.length ≤ Config.receiveSteps) : feedA s c g x = some (deliverA s g x (lackA s c g x)) := by
  have hall : ((lackA s c g x).all fun e => hasRoomFor e.2.fedA) = true :=
    List.all_eq_true.mpr fun e he => decide_eq_true (hroom e he)
  rw [feedA, hnew]
  exact if_pos hall

/-- Every operation of a gang in a core's sequencer has a tile of A for a step. -/
def HasTile (t : State) (c g step : Nat) : Prop := ∀ y ∈ (t.core c).cascade, y.group = some g → (y.fedA.find step).isSome = true

theorem hasTile_mapGang (k : Core) (g step : Nat) (tile : TileCodes) :
    ∀ y ∈ (k.mapGang g fun y => { y with fedA := y.fedA.set step tile }).cascade, y.group = some g → (y.fedA.find step).isSome = true := by
  intro y hy hgroup
  obtain ⟨z, -, rfl⟩ := List.mem_map.mp hy
  split
  · rw [Tab.find_set_self]
    rfl
  · next hz =>
    rw [if_neg hz] at hgroup
    exact absurd (beq_iff_eq.mpr hgroup) hz

theorem hasTile_deliver {s t : State} {c g : Nat} {x : CascadeOp} (e : Nat × CascadeOp) (h : HasTile t c g x.step ∨ c = e.1) :
    HasTile (t.setCore e.1 ((t.core e.1).mapGang g (fun y => { y with fedA := y.fedA.set x.step (e.2.tileA s e.1 x.step) }))) c g x.step := by
  intro y hy
  by_cases hc : c = e.1
  · subst hc
    rw [State.core_setCore] at hy
    exact hasTile_mapGang _ _ _ _ y hy
  · rw [State.core_setCore_ne _ _ hc] at hy
    exact (h.resolve_right hc) y hy

theorem deliverA_hasTile (s : State) (g : Nat) (x : CascadeOp) (dst : List (Nat × CascadeOp)) :
    (deliverA s g x dst).mem = s.mem ∧ ∀ e ∈ dst, HasTile (deliverA s g x dst) e.1 g x.step := by
  have hmem : (deliverA s g x dst).mem = s.mem := List.foldlRecOn (motive := fun t : State => t.mem = s.mem) _ _ rfl fun t ht _ _ => ht
  refine ⟨hmem, ?_⟩
  have hall : ∀ (es : List (Nat × CascadeOp)) (t : State) (c : Nat), HasTile t c g x.step ∨ (∃ e ∈ es, c = e.1) →
      HasTile (es.foldl (fun t e => t.setCore e.1 ((t.core e.1).mapGang g (fun y =>
        { y with fedA := y.fedA.set x.step (e.2.tileA s e.1 x.step) }))) t) c g x.step := by
    intro es
    induction es with
    | nil => rintro t c (h | ⟨e, he, -⟩)
             · exact h
             · cases he
    | cons e es ih =>
      rintro t c h
      refine ih _ c ?_
      rcases h with h | ⟨f, hf, hc⟩
      · exact .inl (hasTile_deliver e (.inl h))
      · rcases List.mem_cons.mp hf with rfl | hf
        · exact .inl (hasTile_deliver f (.inr hc))
        · exact .inr ⟨f, hf, hc⟩
  exact fun e he => hall dst s e.1 (.inr ⟨e, he, rfl⟩)

/-- Settles O33. -/
theorem matrixInstructions : Obligations.MatrixInstructions := by
  refine ⟨fun i c s shape op hctl hshape => ?issue, fun i c s x call hctl hshape => ?joint, fun s x rest hhead hmay => ?cascade,
    fun s c g x hnew => ?feed, fun s x hcuff hfailed hcount => ?timeout⟩
  case issue =>
    intro v t hop hready
    obtain ⟨kind, sat, d, a, hform⟩ := mmaForm_of_shape hctl hshape
    have hop' := Option.some.inj ((hform.op v).symm.trans hop)
    refine ⟨fun heff => mma_nothing hform hready heff, fun heff hstage hgang => ?_, fun heff _ hstage => mma_arrived hform hready heff hstage⟩
    have hissue := mma_whole hform hready hop' heff hstage hgang
    match op, hissue with
    | .error e, hissue => exact hissue
    | .ok none, hissue => exact hissue
    | .ok (some x), hissue => exact hissue
  case joint =>
    intro v t u hop hcall hready heff hstage hcount hrel href
    obtain ⟨kind, sat, d, a, hform⟩ := mmaForm_of_shape hctl hshape
    have hop' := Option.some.inj ((hform.op v).symm.trans hop)
    have hcall' := Option.some.inj ((hform.call v).symm.trans hcall)
    exact mma_arrives hform hready hop' heff hstage hcount hrel href (by simp only [u, ← hcall', callAt, arrivalAt, t, v])
  case cascade =>
    refine ⟨fun hkind hgroup => ?_, fun g hkind hgroup => ⟨fun hA => ?_, fun t hA hB => ?_, fun t u y more hA hB hy => ?_⟩,
      fun j hkind hjob => cascadeStep_tmv hhead hmay hkind hjob⟩
    · have hcodes : stepCodes s s.pick.a x = some (s, x.tileA s s.pick.a x.step, x.tileB s s.pick.a x.step) := by rw [stepCodes, hgroup]
      rw [cascadeStep_matrix hhead hmay hkind, matrixStep_codes hcodes hhead]
    · have hcodes : stepCodes s s.pick.a x = none := by simp only [stepCodes, hgroup, hA]
      rw [cascadeStep_matrix hhead hmay hkind, matrixStep_held hcodes]
    · have hcodes : stepCodes s s.pick.a x = none := by simp only [stepCodes, hgroup, hA, hB]
      rw [cascadeStep_matrix hhead hmay hkind, matrixStep_held hcodes]
    · have hcodes : stepCodes s s.pick.a x = some (u, (y.fedA.find x.step).getD [], (y.fedB.find x.step).getD []) := by
        simp only [stepCodes, hgroup, hA, hB, hy]
      rw [cascadeStep_matrix hhead hmay hkind, matrixStep_codes hcodes hy]
  case feed =>
    refine ⟨fun hfull => feedA_held hnew hfull, fun hroom => ⟨_, feedA_delivers hnew hroom, ?_⟩⟩
    obtain ⟨hmem, htiles⟩ := deliverA_hasTile s g x (lackA s c g x)
    exact ⟨hmem, htiles⟩
  case timeout =>
    have hgo : (x.failed || decide ((retime s x).count < gangTimeout)) = false := by
      rw [hfailed, Bool.false_or]
      exact decide_eq_false (Nat.not_lt.mpr hcount)
    simp only [exec, execGangTimeout, hcuff, hgo, Bool.false_eq_true, if_false]

end Sys2Proof.Proofs
end

section
/-! PROOFS. The accumulator instructions (O34). -/
namespace Sys2Proof.Proofs
set_option Elab.async false

open Sys2Proof Sys2Proof.Machine Sys2Proof.Claims

/-! Tiles and groups (R459). -/

theorem tile_updTile (k : Core) (u w : Nat) (f : Tile → Tile) : (k.updTile u f).tile w = if w = u then f (k.tile u) else k.tile w :=
  Tab.get_set _ _ _ _ _

theorem nodup_groupTiles (wide : Bool) (t : Nat) : (groupTiles wide t).Nodup := by
  cases wide
  · exact List.pairwise_singleton _ t
  · simp [groupTiles]

/-- Tiles of a list changed, each by its own number. -/
theorem tile_foldl_updTile (g : Nat → Tile → Tile) {us : List Nat} (hus : us.Nodup) (k : Core) (w : Nat) :
    (us.foldl (fun k u => k.updTile u (g u)) k).tile w = if w ∈ us then g w (k.tile w) else k.tile w := by
  induction us generalizing k with
  | nil => rfl
  | cons u us ih =>
    obtain ⟨hu, hus⟩ := List.nodup_cons.mp hus
    rw [List.foldl_cons, ih hus, tile_updTile]
    by_cases hw : w = u
    · subst hw
      rw [if_neg hu, if_pos rfl, if_pos List.mem_cons_self]
    · simp only [List.mem_cons, hw, false_or, if_false]

theorem tile_updGroup (k : Core) (wide : Bool) (t w : Nat) (f : Tile → Tile) :
    (k.updGroup wide t f).tile w = if w ∈ groupTiles wide t then f (k.tile w) else k.tile w :=
  tile_foldl_updTile (fun _ => f) (nodup_groupTiles wide t) k w

/-- The tile of a group that holds an element. -/
def elemTile (t m n : Nat) : Nat := t + 2 * (m / 64) + n / 64

section
variable {wide : Bool} {m n : Nat} (hm : m < groupSize wide) (hn : n < groupSize wide)
include hm hn

theorem elemTile_mem (t : Nat) : elemTile t m n ∈ groupTiles wide t := by
  cases wide
  · have : m / 64 = 0 ∧ n / 64 = 0 := ⟨Nat.div_eq_of_lt hm, Nat.div_eq_of_lt hn⟩
    simp [groupTiles, elemTile, this]
  · have : m / 64 < 2 ∧ n / 64 < 2 := ⟨Nat.div_lt_of_lt_mul hm, Nat.div_lt_of_lt_mul hn⟩
    simp only [groupTiles, elemTile, if_true, List.mem_cons, List.not_mem_nil, or_false]
    omega

theorem elemTile_place (t : Nat) : (elemTile t m n - t) / 2 = m / 64 ∧ (elemTile t m n - t) % 2 = n / 64 := by
  have : n / 64 < 2 := by
    cases wide
    · exact Nat.lt_of_le_of_lt (Nat.le_of_eq (Nat.div_eq_of_lt hn)) (by decide)
    · exact Nat.div_lt_of_lt_mul hn
  rw [elemTile]
  omega

end

theorem acc_eq (k : Core) (t m n : Nat) : k.acc t m n = ((k.tile (elemTile t m n)).rows.get [] (m % 64)).getD (n % 64) 0 := rfl

theorem rowSum_eq (k : Core) (t m : Nat) : k.rowSum t m = (k.tile (elemTile t m 0)).sums.get 0 (m % 64) := rfl

/-- What a table made from a list of numbers gives. -/
theorem get_numbered {α : Type} (g : Nat → α) (d : α) {xs : List Nat} {i : Nat} (hi : i ∈ xs) :
    Tab.get (xs.map fun j => (j, g j)) d i = g i := by
  induction xs with
  | nil => cases hi
  | cons x xs ih =>
    rw [List.map_cons, Tab.get]
    by_cases hx : i = x
    · rw [if_pos hx, hx]
    · rw [if_neg hx]
      exact ih ((List.mem_cons.mp hi).resolve_left hx)

theorem groupSize_pos (wide : Bool) : 0 < groupSize wide := by
  cases wide <;> decide

/-! A block and its row sums replaced (R44, R466). -/

section
variable {wide : Bool} {m n : Nat} (hm : m < groupSize wide) (hn : n < groupSize wide) (k : Core) (t : Nat)
include hm hn

theorem acc_putBlock (f : Nat → Nat → Word) : (k.putBlock wide t f).acc t m n = f m n := by
  have htile := tile_foldl_updTile (fun u x => { x with
    rows := (List.range 64).map fun i => (i, (List.range 64).map fun j => f ((u - t) / 2 * 64 + i) ((u - t) % 2 * 64 + j)) })
    (nodup_groupTiles wide t) k (elemTile t m n)
  rw [if_pos (elemTile_mem hm hn t)] at htile
  obtain ⟨hrow, hcol⟩ := elemTile_place hm hn t
  have hm64 : m % 64 < 64 := Nat.mod_lt _ (by decide)
  have hn64 : n % 64 < 64 := Nat.mod_lt _ (by decide)
  have hrows := congrArg Tile.rows htile
  rw [acc_eq, Core.putBlock, hrows, get_numbered _ _ (List.mem_range.mpr hm64), List.getD_eq_getElem?_getD, List.getElem?_map,
    List.getElem?_range hn64, hrow, hcol, Option.map_some, Option.getD_some]
  congr 1 <;> omega

theorem tag_putBlock (f : Nat → Nat → Word) : ((k.putBlock wide t f).tile (elemTile t m n)).tag = (k.tile (elemTile t m n)).tag := by
  have htile := tile_foldl_updTile (fun u x => { x with
    rows := (List.range 64).map fun i => (i, (List.range 64).map fun j => f ((u - t) / 2 * 64 + i) ((u - t) % 2 * 64 + j)) })
    (nodup_groupTiles wide t) k (elemTile t m n)
  rw [if_pos (elemTile_mem hm hn t)] at htile
  have htag := congrArg Tile.tag htile
  exact htag

theorem tile_putSums (f : Nat → Word) : (k.putSums wide t f).tile (elemTile t m n) = { k.tile (elemTile t m n) with
    sums := if n / 64 = 1 then [] else (List.range 64).map fun i => (i, f (m / 64 * 64 + i)) } := by
  have htile := tile_foldl_updTile (fun u x => { x with
    sums := if (u - t) % 2 = 1 then [] else (List.range 64).map fun i => (i, f ((u - t) / 2 * 64 + i)) })
    (nodup_groupTiles wide t) k (elemTile t m n)
  obtain ⟨hrow, hcol⟩ := elemTile_place hm hn t
  rw [if_pos (elemTile_mem hm hn t), hrow, hcol] at htile
  exact htile

theorem acc_putSums (f : Nat → Word) : (k.putSums wide t f).acc t m n = k.acc t m n := by
  rw [acc_eq, tile_putSums hm hn, acc_eq]

omit hn in
theorem rowSum_putSums (f : Nat → Word) : (k.putSums wide t f).rowSum t m = f m := by
  have hm64 : m % 64 < 64 := Nat.mod_lt _ (by decide)
  rw [rowSum_eq, tile_putSums hm (groupSize_pos wide), if_neg (by decide), get_numbered _ _ (List.mem_range.mpr hm64)]
  congr 1
  omega

end

/-! Lanes written into a row (R469). -/

/-- A word written where a lane of ACC.PUT names it: a column of a row, the row's sum, or nowhere (R468). -/
def laneWrite (t row : Nat) (k : Core) (x : Word) : AccLane → Core
  | .none_ => k
  | .sum => k.updTile (t + 2 * (row / 64)) (fun u => { u with sums := u.sums.set (row % 64) x })
  | .col j => k.updTile (elemTile t row j) (fun z =>
      { z with rows := z.rows.set (row % 64) ((List.range 64).map fun e => if e = j % 64 then x else (z.rows.get [] (row % 64)).getD e 0) })

/-- One lane of a register of ACC.PUT written into a row. -/
def putLane (v : View) (wide : Bool) (t row : Nat) (a : Operand) (r : Nat) (k : Core) (l : Nat) : Core :=
  laneWrite t row k (v.rd (a.after r) l) (accLane wide r l)

theorem putRow_eq (k : Core) (v : View) (wide : Bool) (t row : Nat) (a : Operand) :
    putRow k v wide t row a = (List.range (if wide then 2 else 1)).foldl (fun k r => (lanesOf v.eff).foldl (putLane v wide t row a r) k) k :=
  rfl

/-- What a list of steps leaves of a value that at most one of them sets. -/
theorem foldl_sets {α β : Type} {f : α → Nat → α} {val : α → β} {p : Nat → Prop} {x : Nat → β} [DecidablePred p] {ls : List Nat}
    (hstep : ∀ k, ∀ l ∈ ls, val (f k l) = if p l then x l else val k) (k : α) :
    ((∀ l ∈ ls, ¬ p l) → val (ls.foldl f k) = val k) ∧
    (∀ l ∈ ls, p l → (∀ l' ∈ ls, p l' → l' = l) → val (ls.foldl f k) = x l) := by
  induction ls generalizing k with
  | nil => exact ⟨fun _ => rfl, fun l hl => absurd hl List.not_mem_nil⟩
  | cons j ls ih =>
    have ih := ih fun k l hl => hstep k l (List.mem_cons_of_mem j hl)
    have hj := hstep k j List.mem_cons_self
    refine ⟨fun hnone => ?_, fun l hl hp huniq => ?_⟩
    · rw [List.foldl_cons, (ih (f k j)).1 fun l hl => hnone l (List.mem_cons_of_mem j hl), hj, if_neg (hnone j List.mem_cons_self)]
    · rw [List.foldl_cons]
      by_cases hrest : ∃ l' ∈ ls, p l'
      · obtain ⟨l', hl', hp'⟩ := hrest
        obtain rfl := huniq l' (List.mem_cons_of_mem j hl') hp'
        exact (ih (f k j)).2 l' hl' hp' fun l hl => huniq l (List.mem_cons_of_mem j hl)
      · obtain rfl : l = j := (List.mem_cons.mp hl).resolve_right fun h => hrest ⟨l, h, hp⟩
        rw [(ih (f k l)).1 fun l' hl' hp' => hrest ⟨l', hl', hp'⟩, hj, if_pos hp]

theorem accLane_col_iff {wide : Bool} {r l j : Nat} (hl : l < 96) : accLane wide r l = .col j ↔
    (wide = false ∧ l < 64 ∧ l = j) ∨ (wide = true ∧ r = 0 ∧ l = j) ∨ (wide = true ∧ r ≠ 0 ∧ l < 32 ∧ 96 + l = j) := by
  unfold accLane
  cases wide with
  | false =>
    simp only [Bool.not_false, if_true, true_and, Bool.false_eq_true, false_and, or_false]
    split
    · next h => simp only [AccLane.col.injEq, h, true_and]
    · next h => split <;> simp [h]
  | true =>
    simp only [Bool.not_true, Bool.false_eq_true, if_false, true_and, reduceCtorEq, false_and, false_or]
    split
    · next h => simp only [AccLane.col.injEq, h, true_and, ne_eq, not_true_eq_false, false_and, or_false]
    · next h =>
      split
      · next hlow => simp only [AccLane.col.injEq, h, hlow, false_and, false_or, ne_eq, not_false_eq_true, true_and]
      · next hlow => split <;> simp [h, hlow]

theorem accLane_sum_iff (wide : Bool) (r l : Nat) : accLane wide r l = .sum ↔
    (wide = false ∧ l = 64) ∨ (wide = true ∧ r ≠ 0 ∧ l = 32) := by
  unfold accLane
  cases wide with
  | false =>
    simp only [Bool.not_false, if_true, true_and, Bool.false_eq_true, false_and, or_false]
    split
    · next h => simp only [reduceCtorEq, false_iff]; omega
    · split <;> simp_all
  | true =>
    simp only [Bool.not_true, Bool.false_eq_true, if_false, true_and, reduceCtorEq, false_and, false_or]
    split
    · next h => simp [h]
    · split
      · simp only [reduceCtorEq, false_iff]; omega
      · split <;> simp_all

/-- Two elements of a group share their place only when they are the same. -/
theorem elem_inj {wide : Bool} {m n m' n' : Nat} (hn : n < groupSize wide) (hn' : n' < groupSize wide) (t : Nat) :
    elemTile t m n = elemTile t m' n' ∧ m % 64 = m' % 64 ∧ n % 64 = n' % 64 ↔ m = m' ∧ n = n' := by
  have hlt : ∀ i, i < groupSize wide → i / 64 < 2 := fun i hi => by
    cases wide
    · exact Nat.lt_of_le_of_lt (Nat.le_of_eq (Nat.div_eq_of_lt hi)) (by decide)
    · exact Nat.div_lt_of_lt_mul hi
  have := hlt n hn
  have := hlt n' hn'
  rw [elemTile, elemTile]
  omega

/-- One element of a tile replaced. -/
def putElem (k : Core) (t m n : Nat) (x : Word) : Core :=
  k.updTile (elemTile t m n) fun z =>
    { z with rows := z.rows.set (m % 64) ((List.range 64).map fun e => if e = n % 64 then x else (z.rows.get [] (m % 64)).getD e 0) }

theorem acc_putElem {wide : Bool} (k : Core) (t : Nat) {m n m' n' : Nat} (hn : n < groupSize wide) (hn' : n' < groupSize wide) (x : Word) :
    (putElem k t m n x).acc t m' n' = if m' = m ∧ n' = n then x else k.acc t m' n' := by
  have hsame := elem_inj hn' hn (m := m') (m' := m) t
  rw [acc_eq, acc_eq, putElem, tile_updTile]
  by_cases htile : elemTile t m' n' = elemTile t m n
  · rw [if_pos htile, htile, Tab.get_set]
    by_cases hrow : m' % 64 = m % 64
    · have hcol : n' % 64 < 64 := Nat.mod_lt _ (by decide)
      rw [if_pos hrow, hrow, List.getD_eq_getElem?_getD, List.getElem?_map, List.getElem?_range hcol, Option.map_some, Option.getD_some]
      refine ite_of_iff ?_ rfl rfl
      rw [← hsame]
      exact ⟨fun h => ⟨htile, hrow, h⟩, fun h => h.2.2⟩
    · rw [if_neg hrow, if_neg fun h => hrow (hsame.mpr h).2.1]
  · rw [if_neg htile, if_neg fun h => htile (hsame.mpr h).1]

/-- What one lane of ACC.PUT changes: an element, the row's sum, or nothing (R468). -/
theorem putLane_eq (v : View) (wide : Bool) (t row : Nat) (a : Operand) (r : Nat) (k : Core) (l : Nat) :
    (accLane wide r l = .none_ → putLane v wide t row a r k l = k) ∧
    (∀ j, accLane wide r l = .col j → putLane v wide t row a r k l = putElem k t row j (v.rd (a.after r) l)) ∧
    (accLane wide r l = .sum → putLane v wide t row a r k l =
      k.updTile (t + 2 * (row / 64)) fun u => { u with sums := u.sums.set (row % 64) (v.rd (a.after r) l) }) :=
  ⟨fun h => congrArg (laneWrite t row k _) h, fun _ h => congrArg (laneWrite t row k _) h, fun h => congrArg (laneWrite t row k _) h⟩

section
variable (v : View) {wide : Bool} (t : Nat) {row : Nat} (a : Operand) (r : Nat) (k : Core) (l : Nat)

theorem acc_putLane {m n : Nat} (hn : n < groupSize wide) (hl : l < 96) :
    (putLane v wide t row a r k l).acc t m n = if m = row ∧ accLane wide r l = .col n then v.rd (a.after r) l else k.acc t m n := by
  obtain ⟨hnone, hcol, hsum⟩ := putLane_eq v wide t row a r k l
  cases hlane : accLane wide r l with
  | none_ => rw [hnone hlane, if_neg fun h => AccLane.noConfusion h.2]
  | col j =>
    have hj : j < groupSize wide := by
      rcases (accLane_col_iff hl).mp hlane with ⟨rfl, hlt, rfl⟩ | ⟨rfl, -, rfl⟩ | ⟨rfl, -, hlt, rfl⟩
      · exact hlt
      · exact Nat.lt_trans hl (by decide)
      · exact Nat.add_lt_add_left hlt 96
    rw [hcol j hlane, acc_putElem k t hj hn]
    exact ite_of_iff (and_congr_right fun _ => ⟨fun h => congrArg AccLane.col h.symm, fun h => (AccLane.col.inj h).symm⟩) rfl rfl
  | sum =>
    rw [hsum hlane, if_neg fun h => AccLane.noConfusion h.2, acc_eq, acc_eq, tile_updTile]
    split
    · next h => rw [h]
    · rfl

theorem tag_putLane (w : Nat) : ((putLane v wide t row a r k l).tile w).tag = (k.tile w).tag := by
  obtain ⟨hnone, hcol, hsum⟩ := putLane_eq v wide t row a r k l
  cases hlane : accLane wide r l with
  | none_ => rw [hnone hlane]
  | col j =>
    rw [hcol j hlane, putElem, tile_updTile]
    split
    · next h => rw [h]
    · rfl
  | sum =>
    rw [hsum hlane, tile_updTile]
    split
    · next h => rw [h]
    · rfl

theorem rowSum_putLane : (putLane v wide t row a r k l).rowSum t row =
    if accLane wide r l = .sum then v.rd (a.after r) l else k.rowSum t row := by
  obtain ⟨hnone, hcol, hsum⟩ := putLane_eq v wide t row a r k l
  cases hlane : accLane wide r l with
  | none_ => rw [hnone hlane, if_neg AccLane.noConfusion]
  | col j =>
    rw [hcol j hlane, if_neg AccLane.noConfusion, rowSum_eq, rowSum_eq, putElem, tile_updTile]
    split
    · next h => rw [h]
    · rfl
  | sum =>
    rw [hsum hlane, if_pos rfl, Core.rowSum, tile_updTile, if_pos rfl]
    exact Tab.get_set_self _ _ _ _

/-- A register's lanes written into a row. -/
def putLanesOf (v : View) (wide : Bool) (t row : Nat) (a : Operand) (r : Nat) (k : Core) : Core := (lanesOf v.eff).foldl (putLane v wide t row a r) k

theorem lt_of_mem_lanesOf {m : LaneMask} {l : Nat} (h : l ∈ lanesOf m) : l < 96 := BitVec.lt_of_getLsbD (mem_lanesOf.mp h)

omit l in
/-- An element that no lane of the register names keeps its value, and one that a lane names takes the lane's. -/
theorem acc_putLanesOf {m n : Nat} (hn : n < groupSize wide) :
    ((∀ l ∈ lanesOf v.eff, ¬ (m = row ∧ accLane wide r l = .col n)) → (putLanesOf v wide t row a r k).acc t m n = k.acc t m n) ∧
    (∀ l ∈ lanesOf v.eff, m = row → accLane wide r l = .col n → (putLanesOf v wide t row a r k).acc t m n = v.rd (a.after r) l) := by
  obtain ⟨hkeep, hset⟩ := foldl_sets (val := fun k : Core => k.acc t m n) (p := fun l => m = row ∧ accLane wide r l = .col n)
    (x := fun l => v.rd (a.after r) l) (fun k l hl => acc_putLane v t a r k l hn (lt_of_mem_lanesOf hl)) k
  refine ⟨hkeep, fun l hl hm hlane => hset l hl ⟨hm, hlane⟩ fun l' hl' h => ?_⟩
  have := (accLane_col_iff (lt_of_mem_lanesOf hl)).mp hlane
  have := (accLane_col_iff (lt_of_mem_lanesOf hl')).mp h.2
  omega

omit l in
theorem rowSum_putLanesOf :
    ((∀ l ∈ lanesOf v.eff, accLane wide r l ≠ .sum) → (putLanesOf v wide t row a r k).rowSum t row = k.rowSum t row) ∧
    (∀ l ∈ lanesOf v.eff, accLane wide r l = .sum → (putLanesOf v wide t row a r k).rowSum t row = v.rd (a.after r) l) := by
  obtain ⟨hkeep, hset⟩ := foldl_sets (val := fun k : Core => k.rowSum t row) (p := fun l => accLane wide r l = .sum)
    (x := fun l => v.rd (a.after r) l) (fun k l _ => rowSum_putLane v t a r k l) k (ls := lanesOf v.eff)
  refine ⟨hkeep, fun l hl hlane => hset l hl hlane fun l' hl' h => ?_⟩
  rcases (accLane_sum_iff _ _ _).mp hlane with ⟨hwide, rfl⟩ | ⟨hwide, -, rfl⟩ <;>
    rcases (accLane_sum_iff _ _ _).mp h with ⟨hwide', rfl⟩ | ⟨hwide', -, rfl⟩
  · rfl
  · exact absurd (hwide.symm.trans hwide') Bool.false_ne_true
  · exact absurd (hwide'.symm.trans hwide) Bool.false_ne_true
  · rfl

omit l in
theorem tag_putLanesOf (w : Nat) : ((putLanesOf v wide t row a r k).tile w).tag = (k.tile w).tag :=
  List.foldlRecOn (motive := fun u : Core => (u.tile w).tag = (k.tile w).tag) _ _ rfl fun u hu l _ => (tag_putLane v t a r u l w).trans hu

end

theorem putRow_narrow (k : Core) (v : View) (t row : Nat) (a : Operand) : putRow k v false t row a = putLanesOf v false t row a 0 k := rfl

theorem putRow_wide (k : Core) (v : View) (t row : Nat) (a : Operand) :
    putRow k v true t row a = putLanesOf v true t row a 1 (putLanesOf v true t row a 0 k) := rfl

theorem after_zero (o : Operand) : o.after 0 = o := by
  cases o <;> simp [Operand.after]

/-! The instructions. -/

section
variable {i : Instr} {c : Ctl} {s : State} {wide : Bool} {d : Operand} {body : View → Nat → State → Res}
  (hrun : exec i s = run i c s fun v s => whenOwned v s wide d (body v)) (hready : Ready i c s)
include hrun hready

theorem acc_nothing (heff : (seen i c s).eff = 0) : Finishes i s (entered i s) := finishes_of_run hrun hready (if_pos heff)

theorem acc_waits (heff : (seen i c s).eff ≠ 0) (howned : ¬ unowned (entered i s) (seen i c s) wide d) : Waits i s 12 (entered i s) :=
  waits_of_run hrun hready ((if_neg heff).trans (if_pos (eq_true_of_ne_false howned)))

omit hrun hready in
theorem acc_goes (heff : (seen i c s).eff ≠ 0) (howned : unowned (entered i s) (seen i c s) wide d) :
    whenOwned (seen i c s) (entered i s) wide d (body (seen i c s)) = body (seen i c s) (tileOf d) (entered i s) :=
  (if_neg heff).trans (if_neg (Bool.eq_false_iff.mp howned))

end

/-- ACC.ZERO (R465): a group reset holds nothing. -/
theorem zeroed (k : Core) (wide : Bool) (t : Nat) {m n : Nat} (hm : m < groupSize wide) (hn : n < groupSize wide) :
    (k.updGroup wide t fun _ => {}).acc t m n = 0 ∧ (k.updGroup wide t fun _ => {}).rowSum t m = 0 ∧
      ((k.updGroup wide t fun _ => {}).tile (elemTile t m n)).tag = .free := by
  have hsum := elemTile_mem hm (groupSize_pos wide) t
  have helem := elemTile_mem hm hn t
  refine ⟨?_, ?_, ?_⟩
  · rw [acc_eq, tile_updGroup, if_pos helem]
    rfl
  · rw [rowSum_eq, tile_updGroup, if_pos hsum]
    rfl
  · rw [tile_updGroup, if_pos helem]

/-- ACC.LD (R466): the block and the row sums are those loaded, and every tile has the tag. -/
theorem loaded_block (k : Core) (wide : Bool) (t : Nat) (tag : TileTag) (f : Nat → Nat → Word) (g : Nat → Word) {m n : Nat}
    (hm : m < groupSize wide) (hn : n < groupSize wide) {u : Core}
    (hu : u = ((k.updGroup wide t fun _ => { tag := tag }).putBlock wide t f).putSums wide t g) :
    u.acc t m n = f m n ∧ u.rowSum t m = g m ∧ (u.tile (elemTile t m n)).tag = tag := by
  subst hu
  refine ⟨(acc_putSums hm hn _ t g).trans (acc_putBlock hm hn _ t f), rowSum_putSums hm _ t g, ?_⟩
  rw [tile_putSums hm hn]
  refine (tag_putBlock hm hn _ t f).trans ?_
  rw [tile_updGroup, if_pos (elemTile_mem hm hn t)]

/-- ACC.PUT (R469): the tiles of the group that are free get tag F. -/
def tagged (k : Core) (wide : Bool) (t : Nat) : Core := k.updGroup wide t fun u => { u with tag := if u.tag = .free then .f else u.tag }

section
variable (k : Core) (wide : Bool) (t : Nat)

theorem acc_tagged (m n : Nat) : (tagged k wide t).acc t m n = k.acc t m n := by
  rw [acc_eq, acc_eq, tagged, tile_updGroup]
  split <;> rfl

theorem rowSum_tagged (m : Nat) : (tagged k wide t).rowSum t m = k.rowSum t m := by
  rw [rowSum_eq, rowSum_eq, tagged, tile_updGroup]
  split <;> rfl

theorem tag_tagged {m n : Nat} (hm : m < groupSize wide) (hn : n < groupSize wide) : ((tagged k wide t).tile (elemTile t m n)).tag =
    if (k.tile (elemTile t m n)).tag = .free then .f else (k.tile (elemTile t m n)).tag := by
  rw [tagged, tile_updGroup, if_pos (elemTile_mem hm hn t)]

end

/-- A row written from lanes, in a tile (R469). -/
theorem putRow_tile (k : Core) (v : View) (t : Nat) {row : Nat} (a : Operand) :
    (∀ n, n < 64 → (putRow k v false t row a).acc t row n = if v.eff.getLsbD n then v.rd a n else k.acc t row n) ∧
    (∀ m n, n < 64 → m ≠ row → (putRow k v false t row a).acc t m n = k.acc t m n) ∧
    (putRow k v false t row a).rowSum t row = (if v.eff.getLsbD 64 then v.rd a 64 else k.rowSum t row) ∧
    (∀ w, ((putRow k v false t row a).tile w).tag = (k.tile w).tag) := by
  rw [putRow_narrow]
  refine ⟨fun n hn => ?_, fun m n hn hm => ?_, ?_, tag_putLanesOf v t a 0 k⟩
  · obtain ⟨hkeep, hset⟩ := acc_putLanesOf v t a 0 k (row := row) (m := row) (wide := false) hn
    have hlane : accLane false 0 n = .col n := (accLane_col_iff (by omega)).mpr (.inl ⟨rfl, hn, rfl⟩)
    split
    · next heff => exact (hset n (mem_lanesOf.mpr heff) rfl hlane).trans (by rw [after_zero])
    · next heff =>
      refine hkeep fun l hl h => heff ?_
      have := (accLane_col_iff (lt_of_mem_lanesOf hl)).mp h.2
      obtain rfl : l = n := by omega
      exact mem_lanesOf.mp hl
  · exact (acc_putLanesOf v t a 0 k (wide := false) hn).1 fun l _ h => hm h.1
  · obtain ⟨hkeep, hset⟩ := rowSum_putLanesOf v t a 0 k (row := row) (wide := false)
    split
    · next heff => exact (hset 64 (mem_lanesOf.mpr heff) rfl).trans (by rw [after_zero])
    · next heff =>
      refine hkeep fun l hl h => heff ?_
      rcases (accLane_sum_iff _ _ _).mp h with ⟨-, rfl⟩ | ⟨h, -⟩
      · exact mem_lanesOf.mp hl
      · cases h

/-- A row written from lanes, in a group (R469): two registers, of which the second holds the last 32 columns and the row's sum. -/
theorem putRow_group (k : Core) (v : View) (t : Nat) {row : Nat} (a : Operand) :
    (∀ n, n < 96 → (putRow k v true t row a).acc t row n = if v.eff.getLsbD n then v.rd a n else k.acc t row n) ∧
    (∀ n, n < 32 → (putRow k v true t row a).acc t row (96 + n) = if v.eff.getLsbD n then v.rd (a.after 1) n else k.acc t row (96 + n)) ∧
    (∀ m n, n < 128 → m ≠ row → (putRow k v true t row a).acc t m n = k.acc t m n) ∧
    (putRow k v true t row a).rowSum t row = (if v.eff.getLsbD 32 then v.rd (a.after 1) 32 else k.rowSum t row) ∧
    (∀ w, ((putRow k v true t row a).tile w).tag = (k.tile w).tag) := by
  rw [putRow_wide]
  have hfirst := fun (m n : Nat) (hn : n < 128) => acc_putLanesOf v t a 0 k (row := row) (m := m) (wide := true) hn
  have hsecond := fun (m n : Nat) (hn : n < 128) => acc_putLanesOf v t a 1 (putLanesOf v true t row a 0 k) (row := row) (m := m) (wide := true) hn
  refine ⟨fun n hn => ?_, fun n hn => ?_, fun m n hn hm => ?_, ?_, fun w => ?_⟩
  · have hlow : (putLanesOf v true t row a 1 (putLanesOf v true t row a 0 k)).acc t row n = (putLanesOf v true t row a 0 k).acc t row n := by
      refine (hsecond row n (by omega)).1 fun l hl h => ?_
      rcases (accLane_col_iff (lt_of_mem_lanesOf hl)).mp h.2 with ⟨hwide, -⟩ | ⟨-, hr, -⟩ | ⟨-, -, -, hcol⟩
      · cases hwide
      · cases hr
      · omega
    rw [hlow]
    split
    · next heff => exact ((hfirst row n (by omega)).2 n (mem_lanesOf.mpr heff) rfl rfl).trans (by rw [after_zero])
    · next heff =>
      refine (hfirst row n (by omega)).1 fun l hl h => heff ?_
      obtain rfl : l = n := AccLane.col.inj h.2
      exact mem_lanesOf.mp hl
  · have hhigh : (putLanesOf v true t row a 0 k).acc t row (96 + n) = k.acc t row (96 + n) := by
      refine (hfirst row (96 + n) (by omega)).1 fun l hl h => ?_
      obtain rfl : l = 96 + n := AccLane.col.inj h.2
      exact Nat.not_lt.mpr (Nat.le_add_right 96 n) (lt_of_mem_lanesOf hl)
    rw [← hhigh]
    have hlane : accLane true 1 n = .col (96 + n) := if_pos hn
    split
    · next heff => exact (hsecond row (96 + n) (by omega)).2 n (mem_lanesOf.mpr heff) rfl hlane
    · next heff =>
      refine (hsecond row (96 + n) (by omega)).1 fun l hl h => heff ?_
      have := (accLane_col_iff (lt_of_mem_lanesOf hl)).mp h.2
      obtain rfl : l = n := by omega
      exact mem_lanesOf.mp hl
  · exact ((hsecond m n hn).1 fun l _ h => hm h.1).trans ((hfirst m n hn).1 fun l _ h => hm h.1)
  · obtain ⟨hkeep, hset⟩ := rowSum_putLanesOf v t a 1 (putLanesOf v true t row a 0 k) (row := row) (wide := true)
    have hnone : (putLanesOf v true t row a 0 k).rowSum t row = k.rowSum t row :=
      (rowSum_putLanesOf v t a 0 k (row := row) (wide := true)).1 fun l _ h => by cases h
    rw [← hnone]
    split
    · next heff => exact hset 32 (mem_lanesOf.mpr heff) rfl
    · next heff =>
      refine hkeep fun l hl h => heff ?_
      rcases (accLane_sum_iff _ _ _).mp h with ⟨h, -⟩ | ⟨-, -, rfl⟩
      · cases h
      · exact mem_lanesOf.mp hl
  · exact (tag_putLanesOf v t a 1 _ w).trans (tag_putLanesOf v t a 0 k w)

/-! ACC.LD and ACC.ST (R466, R467). -/

theorem tagOfCode_eq (n : Nat) : tagOfCode (n % 4) = if n % 4 = 0 then .f else if n % 4 = 1 then .i else if n % 4 = 2 then .l else .q := by
  have : n % 4 < 4 := Nat.mod_lt _ (by decide)
  generalize n % 4 = k at this
  match k, this with
  | 0, _ => rfl
  | 1, _ => rfl
  | 2, _ => rfl
  | 3, _ => rfl

/-- The value loaded for an item, 0 where none was. -/
theorem wordOf_eq {α : Type} [DecidableEq α] (xs : List (α × List Byte)) (k : α) :
    wordOf xs k = (xs.find? fun e => e.1 = k).elim 0 fun e => BitVec.ofNat 32 (leNat e.2) := by
  rw [wordOf]
  cases xs.find? fun e => e.1 = k <;> rfl

/-- What a row stores in a tid of a format wider than four bits. -/
theorem rowStores_wide {x : BitVec 512} (hwidth : (tidFmt x).width ≠ 4) (row col0 : Nat) (codes : List Nat) :
    rowStores x row col0 codes = codes.zipIdx.map fun e => { off := elemOff x (col0 + e.2) row, code := e.1, low := true, high := true } := by
  rw [rowStores, if_neg hwidth]

/-- The columns of a block that a tid has are the first ones. -/
theorem colsIn_eq (x : BitVec 512) (wide : Bool) (col0 : Nat) :
    colsIn x wide col0 = List.range (min (if wide then 128 else 64) (tidDim x 0 - col0)) := by
  rw [colsIn]
  generalize (if wide then 128 else 64) = n
  induction n with
  | zero => simp
  | succ n ih =>
    rw [List.range_succ, List.filter_append, ih, List.filter_cons, List.filter_nil]
    by_cases h : col0 + n < tidDim x 0
    · have hmin : min (n + 1) (tidDim x 0 - col0) = min n (tidDim x 0 - col0) + 1 := by omega
      have hn : min n (tidDim x 0 - col0) = n := by omega
      rw [hmin, List.range_succ, hn]
      simp [h]
    · have hmin : min (n + 1) (tidDim x 0 - col0) = min n (tidDim x 0 - col0) := by omega
      rw [hmin]
      simp [h]

theorem zipIdx_range_map {α : Type} (f : Nat → α) (n : Nat) : ((List.range n).map f).zipIdx = (List.range n).map fun j => (f j, j) := by
  refine List.ext_getElem (by simp) fun i h₁ h₂ => ?_
  simp

/-- A store that covers its bytes wholly reads none (R467). -/
def AccFull (b : AccByte) : Prop := b.low = true ∧ b.high = true

theorem oldBytes_full {v : View} {s : State} {es : List (AccByte × Place)} (hfull : ∀ e ∈ es, AccFull e.1) :
    oldBytes v s es = (s, es.map fun e => (e.1, e.2, []), none) := by
  induction es using snoc_induction with
  | nil => rfl
  | snoc es e ih =>
    obtain ⟨hlow, hhigh⟩ := hfull e (List.mem_append_right _ (List.mem_singleton_self e))
    have ih := ih fun d hd => hfull d (List.mem_append_left _ hd)
    rw [oldBytes] at ih ⊢
    rw [List.foldl_append, ih, List.foldl_cons, List.foldl_nil, List.map_append]
    simp only [hlow, hhigh, Bool.and_self, if_true]
    rfl

theorem bytes_full {b : AccByte} (hfull : AccFull b) (n : Nat) (old : List Byte) : b.bytes n old = leBytes n b.code := by
  rw [AccByte.bytes, hfull.1, hfull.2]
  rfl

/-- Stores that cover their bytes wholly, without row sums, are made one after another (R467). -/
theorem accStores_full {v : View} {s : State} {x : BitVec 512} {stores : List AccByte} {ps : List Place} {fl : Flags}
    (hfull : ∀ b ∈ stores, AccFull b) (hcheck : v.checkSeg (tidSeg x) { n := fmtBytes (tidFmt x), writes := true, needR := false
                                                                        spaces := spacesAll, align := fmtBytes (tidFmt x) }
      (numbered (stores.map (·.off))) = .ready ps) :
    accStores v s x stores [] fl = .done (raiseFlags ((ps.zip stores).foldl (fun u e =>
      storePlace u v.r.core e.1 (leBytes (fmtBytes (tidFmt x)) e.2.code)) s) v.r fl) := by
  have hhalf : (stores.any fun b => !(b.low && b.high)) = false :=
    List.any_eq_false.mpr fun b hb => by rw [(hfull b hb).1, (hfull b hb).2]; decide
  have hnosums : v.checkSeg (tidSeg x) { n := 4, writes := true, needR := false, spaces := spacesAll, align := 4 }
      (numbered (([] : List (Nat × Word)).map (·.1))) = .ready [] := rfl
  have hzip : ∀ e ∈ stores.zip ps, AccFull e.1 := fun e he => hfull e.1 (List.of_mem_zip he).1
  have hstores : ((stores.zip ps).map fun e => (e.1, e.2, ([] : List Byte))).foldl (fun u e =>
      storePlace u v.r.core e.2.1 (e.1.bytes (fmtBytes (tidFmt x)) e.2.2)) s =
      (ps.zip stores).foldl (fun u e => storePlace u v.r.core e.1 (leBytes (fmtBytes (tidFmt x)) e.2.code)) s := by
    rw [← map_swap_zip ps stores, List.map_map, List.foldl_map]
    refine foldl_congr_mem (fun u e he => ?_) _
    exact congrArg _ (bytes_full (hfull e.2 (List.of_mem_zip he).2) _ _)
  rw [accStores]
  simp only [hhalf, hcheck, hnosums, Access.whole, withAccess, oldBytes_full hzip, hstores]
  rfl

theorem namedTid_lt {s : State} {ctx n : Nat} {x : BitVec 512} (h : namedTid s ctx n = some x) : n < 1024 := by
  refine Classical.byContradiction fun hn => ?_
  rw [namedTid_eq, decide_eq_false hn] at h
  cases h


/-- A value of a block stored whole at its element's offset (R467). -/
def elemStore (x : BitVec 512) (row0 col0 : Nat) (code : Nat × Nat → Nat) (e : Nat × Nat) : AccByte :=
  { off := elemOff x (col0 + e.2) (row0 + e.1), code := code e, low := true, high := true }

/-- The elements of a block, row by row. -/
def elemsOf (rows cols : List Nat) : List (Nat × Nat) := rows.flatMap fun m => cols.map fun n => (m, n)

theorem flatMap_map_elemsOf {α : Type} (rows cols : List Nat) (f : Nat × Nat → α) :
    (rows.flatMap fun m => cols.map fun n => f (m, n)) = (elemsOf rows cols).map f := by
  rw [elemsOf, List.map_flatMap]
  simp only [List.map_map]
  rfl

/-- The stores of a block into a tid of a format wider than four bits are those of its elements (R467). -/
theorem rowStores_elemsOf {x : BitVec 512} (hwidth : (tidFmt x).width ≠ 4) (wide : Bool) (rows : List Nat) (row0 col0 : Nat)
    (code : Nat × Nat → Nat) : (rows.flatMap fun m => if (colsIn x wide col0).isEmpty then []
      else rowStores x (row0 + m) col0 ((colsIn x wide col0).map fun n => code (m, n))) =
    (elemsOf rows (colsIn x wide col0)).map (elemStore x row0 col0 code) := by
  rw [← flatMap_map_elemsOf]
  refine congrArg rows.flatMap (funext fun m => ?_)
  rw [rowStores_wide hwidth, colsIn_eq]
  generalize min (if wide then 128 else 64) (tidDim x 0 - col0) = n
  rw [zipIdx_range_map, List.map_map]
  split
  · next hempty => rw [List.isEmpty_iff.mp hempty]; rfl
  · rfl


/-- Every instruction over accumulators waits for the tile or group that it names (R17, R465-R469). -/
theorem acc_guards {i : Instr} {c : Ctl} {s : State} {wide : Bool} {d : Operand} {body : View → Nat → State → Res}
    (hrun : exec i s = run i c s fun v s => whenOwned v s wide d (body v)) (hready : Ready i c s) {P : Prop}
    (hgoes : (seen i c s).eff ≠ 0 → unowned (entered i s) (seen i c s) wide d → P) :
    ((seen i c s).eff = 0 → Finishes i s (entered i s)) ∧
      ((seen i c s).eff ≠ 0 → ¬ unowned (entered i s) (seen i c s) wide d → Waits i s 12 (entered i s)) ∧
      ((seen i c s).eff ≠ 0 → unowned (entered i s) (seen i c s) wide d → P) :=
  ⟨acc_nothing hrun hready, acc_waits hrun hready, hgoes⟩

theorem acc_finishes {i : Instr} {c : Ctl} {s u : State} {wide : Bool} {d : Operand} {body : View → Nat → State → Res}
    (hrun : exec i s = run i c s fun v s => whenOwned v s wide d (body v)) (hready : Ready i c s) (heff : (seen i c s).eff ≠ 0)
    (howned : unowned (entered i s) (seen i c s) wide d) (hbody : body (seen i c s) (tileOf d) (entered i s) = .done u) :
    Finishes i s u :=
  finishes_of_run hrun hready ((acc_goes heff howned).trans hbody)

theorem acc_traps {i : Instr} {c : Ctl} {s : State} {wide : Bool} {d : Operand} {body : View → Nat → State → Res} {tr : TrapRec}
    (hrun : exec i s = run i c s fun v s => whenOwned v s wide d (body v)) (hready : Ready i c s) (heff : (seen i c s).eff ≠ 0)
    (howned : unowned (entered i s) (seen i c s) wide d)
    (hbody : body (seen i c s) (tileOf d) (entered i s) = .trap tr (entered i s)) : Traps i s tr (entered i s) :=
  traps_of_run_entered hrun hready ((acc_goes heff howned).trans hbody)

/-- The value that a lane of ACC.GET receives (R468). -/
def laneVal (k : Core) (t row : Nat) : AccLane → Word
  | .col j => k.acc t row j
  | .sum => k.rowSum t row
  | .none_ => 0

theorem laneVal_accLane (wide : Bool) (r l : Nat) (k : Core) (t row : Nat) : laneVal k t row (accLane wide r l) =
    if wide then (if r = 0 then k.acc t row l else if l < 32 then k.acc t row (96 + l) else if l = 32 then k.rowSum t row else 0)
      else if l < 64 then k.acc t row l else if l = 64 then k.rowSum t row else 0 := by
  cases wide
  · simp only [accLane, Bool.not_false, if_true, Bool.false_eq_true, if_false, apply_ite (laneVal k t row)]
    rfl
  · simp only [accLane, Bool.not_true, if_true, Bool.false_eq_true, if_false, apply_ite (laneVal k t row)]
    rfl

theorem accLd_unnamed {c : Ctl} {wide : Bool} {d a : Operand} {s : State} {i : Instr} (hi : i = .accLd c wide d a) {v : View}
    (hv : v = seen i c s) {t : State} (ht : t = entered i s) (hready : Ready i c s) (heff : v.eff ≠ 0) (howned : unowned t v wide d)
    (hnone : namedTid t v.st.ctx ((v.rd a 0).toNat % 2 ^ 10) = none) : Traps i s v.illegal t := by
  subst hi hv ht
  refine acc_traps rfl hready heff howned ?_
  simp only [hnone]

/-- ACC.LD of what its ordinary loads read (R466). -/
theorem accLd_finishes {c : Ctl} {wide : Bool} {d a : Operand} {s s' : State} {x : BitVec 512} {ps : List Place}
    {xs : List (Place × List Byte × Option LoadFail)} {i : Instr} (hi : i = .accLd c wide d a) {v : View} (hv : v = seen i c s)
    {t : State} (ht : t = entered i s)
    (hready : Ready i c s) (heff : v.eff ≠ 0) (howned : unowned t v wide d) {w row0 col0 rso : Nat} (hw : (v.rd a 0).toNat = w)
    (hrow : (v.rd (a.after 1) 0).toNat = row0) (hcol : (v.rd (a.after 2) 0).toNat = col0) (hrso : (v.rd (a.after 3) 0).toNat = rso)
    {tag : TileTag} (htag : tagOfCode (w / 2 ^ 12 % 4) = tag) (hx : namedTid t v.st.ctx (w % 2 ^ 10) = some x)
    (hzero : w / 2 ^ 10 % 4 = 0) (hhigh : w / 2 ^ 14 = 0) (hfmt : tidFmt x = if tag = .i ∨ tag = .l then .i32 else .f32)
    {cells : List (Nat × Nat)} (hcells : cells = elemsOf (rowsIn x wide row0) (colsIn x wide col0)) {sums : List Nat}
    (hsums : sums = if tag = .q ∧ rso ≠ 0xFFFFFFFF then rowsIn x wide row0 else [])
    (hreach : reaches v (tidSeg x) 4 false ((cells.map fun e => elemOff x (col0 + e.2) (row0 + e.1)) ++ sums.map fun m => rso + 4 * m) ps)
    (hload : eachPlace (loadPlace v.r.core 4) t ps = (s', xs)) (hok : ∀ e ∈ xs, e.2.2 = none) :
    Finishes i s (s'.setCore v.r.core ((((s'.core v.r.core).updGroup wide (tileOf d) fun _ => { tag := tag }).putBlock wide (tileOf d)
      fun m n => wordOf (cells.zip (xs.map fun e => e.2.1)) (m, n)).putSums wide (tileOf d)
        fun m => wordOf (sums.zip ((xs.map fun e => e.2.1).drop cells.length)) m)) := by
  subst hi hv ht
  refine acc_finishes rfl hready heff howned ?_
  have hwant : (tidFmt x != if tag == .i || tag == .l then .i32 else .f32) = false := by
    rw [hfmt]
    cases tag <;> rfl
  have hsums' : (if tag == .q && rso != noRso then blockRows x wide row0 else []) = sums := by
    rw [hsums]
    cases tag <;> simp [noRso]
    rfl
  simp only [hw, hrow, hcol, hrso, htag, hx, hzero, hhigh, hwant, bne_self_eq_false, Bool.or_self, Bool.false_eq_true, if_false, hsums']
  rw [show (blockRows x wide row0).flatMap (fun i => (blockCols x wide col0).map fun j => (i, j)) = cells from hcells.symm,
    loadInPlace_ready hreach hload hok]

/-- ACC.ST of a tile of tag F into an FP32 tid, without a scale: every element goes through the epilogue and is stored (R467). -/
theorem accSt_finishes {c : Ctl} {wide sat : Bool} {a b : Operand} {s : State} {x : BitVec 512} {ps : List Place}
    {i : Instr} (hi : i = .accSt c wide sat a b) {v : View} (hv : v = seen i c s) {t : State} (ht : t = entered i s)
    (hready : Ready i c s) (heff : v.eff ≠ 0) (howned : unowned t v wide a) (hx : namedTid t v.st.ctx (v.rd b 0).toNat = some x)
    (hkind : tidKind x = 0) (hfmt : tidFmt x = .f32) (htag : ((t.core v.r.core).tile (tileOf a)).tag = .f)
    (htid : ((t.core v.r.core).tile (tileOf a)).tid = none) {row0 col0 : Nat} (hrow : (v.rd (b.after 1) 0).toNat = row0)
    (hcol : (v.rd (b.after 2) 0).toNat = col0) {word : Nat × Nat → Nat × Flags}
    (hword : word = fun e => epilogue .f .f32 sat none (some 0) 0 ((t.core v.r.core).acc (tileOf a) e.1 e.2))
    {cells : List (Nat × Nat)} (hcells : cells = elemsOf (rowsIn x wide row0) (colsIn x wide col0))
    (hcheck : v.checkSeg (tidSeg x) { n := 4, writes := true, needR := false, spaces := [0, 1, 2, 3, 8], align := 4 }
      (numbered (cells.map fun e => elemOff x (col0 + e.2) (row0 + e.1))) = .ready ps) :
    Finishes i s (raiseFlags ((ps.zip cells).foldl (fun u e => storePlace u v.r.core e.1 (leBytes 4 (word e.2).1)) t) v.r
      (joinFlags (cells.map fun e => (word e).2))) := by
  subst hi hv ht
  refine acc_finishes rfl hready heff howned ?_
  have hlt := namedTid_lt hx
  have hlow : ((seen (.accSt c wide sat a b) c s).rd b 0).toNat % 2 ^ 10 = ((seen (.accSt c wide sat a b) c s).rd b 0).toNat := Nat.mod_eq_of_lt hlt
  have hhigh : ((seen (.accSt c wide sat a b) c s).rd b 0).toNat / 2 ^ 10 = 0 := Nat.div_eq_of_lt hlt
  simp only [hlow, hhigh, hx, hkind, hfmt, htag, htid, hrow, hcol, withScales, bne_self_eq_false, Bool.false_and, Bool.or_false]
  refine (if_neg (by decide)).trans ((if_neg (by decide)).trans ?_)
  have hvals : ∀ {α : Type} (f : Nat × Flags → α), ((rowsIn x wide row0).flatMap fun m => (colsIn x wide col0).map fun n => f (word (m, n))) =
      cells.map fun e => f (word e) := fun f => by rw [hcells, ← flatMap_map_elemsOf]
  have hwidth : (tidFmt x).width ≠ 4 := by rw [hfmt]; decide
  have hstores := rowStores_elemsOf hwidth wide (rowsIn x wide row0) row0 col0 fun e => (word e).1
  rw [← hcells] at hstores
  have hfull : ∀ e ∈ cells.map (elemStore x row0 col0 fun e => (word e).1), AccFull e := fun e he => by
    obtain ⟨e, -, rfl⟩ := List.mem_map.mp he
    exact ⟨rfl, rfl⟩
  have hdone := accStores_full (v := seen (.accSt c wide sat a b) c s) (s := entered (.accSt c wide sat a b) s)
    (fl := joinFlags (cells.map fun e => (word e).2)) (x := x) (ps := ps) hfull (by
      rw [hfmt, List.map_map]
      exact hcheck)
  rw [List.zip_map_right, List.foldl_map, hfmt] at hdone
  simp only [List.flatMap_map, List.map_map]
  refine Eq.trans ?_ hdone
  rw [← hstores, ← hvals fun w => w.2, hword]
  rfl

theorem accSt_free {c : Ctl} {wide sat : Bool} {a b : Operand} {s : State} {x : BitVec 512} {i : Instr}
    (hi : i = .accSt c wide sat a b) {v : View} (hv : v = seen i c s) {t : State} (ht : t = entered i s) (hready : Ready i c s)
    (heff : v.eff ≠ 0) (howned : unowned t v wide a) (hx : namedTid t v.st.ctx (v.rd b 0).toNat = some x) (hkind : tidKind x = 0)
    (hfmt : tidFmt x ≠ .lut4) (htag : ((t.core v.r.core).tile (tileOf a)).tag = .free) : Finishes i s t := by
  subst hi hv ht
  refine acc_finishes rfl hready heff howned ?_
  have hlt := namedTid_lt hx
  have hlow : ((seen (.accSt c wide sat a b) c s).rd b 0).toNat % 2 ^ 10 = ((seen (.accSt c wide sat a b) c s).rd b 0).toNat := Nat.mod_eq_of_lt hlt
  have hhigh : ((seen (.accSt c wide sat a b) c s).rd b 0).toNat / 2 ^ 10 = 0 := Nat.div_eq_of_lt hlt
  have hlut : (tidFmt x == .lut4) = false := beq_eq_false_iff_ne.mpr hfmt
  simp only [hlow, hhigh, hx, hkind, hlut, htag, bne_self_eq_false, Bool.false_and, Bool.or_false, Bool.false_eq_true, if_false,
    show (TileTag.free == TileTag.l) = false from rfl, show (TileTag.free == TileTag.free) = true from rfl, if_true]

theorem accGet_finishes {c : Ctl} {wide : Bool} {d a b : Operand} {s : State} {i : Instr} (hi : i = .accGet c wide d a b)
    {v : View} (hv : v = seen i c s) {t : State} (ht : t = entered i s) (hready : Ready i c s) (heff : v.eff ≠ 0)
    (howned : unowned t v wide a) {lane : Nat → Nat → Word}
    (hlane : ∀ r l, lane r l = laneVal (t.core v.r.core) (tileOf a) (accRow wide (v.rd b 0)) (accLane wide r l)) :
    Finishes i s (if wide then awaiting t v c [d, d.after 1] v.eff [laneValues v.eff (lane 0), laneValues v.eff (lane 1)] 0
      else awaiting t v c [d] v.eff [laneValues v.eff (lane 0)] 0) := by
  obtain rfl : lane = fun r l => laneVal (t.core v.r.core) (tileOf a) (accRow wide (v.rd b 0)) (accLane wide r l) :=
    funext fun r => funext fun l => hlane r l
  subst hi hv ht
  rw [← pend_eq_awaiting, ← pend_eq_awaiting]
  exact acc_finishes rfl hready heff howned rfl

theorem accPut_finishes {c : Ctl} {wide : Bool} {d a b : Operand} {s : State} {i : Instr} (hi : i = .accPut c wide d a b)
    {v : View} (hv : v = seen i c s) {t : State} (ht : t = entered i s) (hready : Ready i c s) (heff : v.eff ≠ 0)
    (howned : unowned t v wide d) : Finishes i s (t.setCore v.r.core
      (tagged (putRow (t.core v.r.core) v wide (tileOf d) (accRow wide (v.rd b 0)) a) wide (tileOf d))) := by
  subst hi hv ht
  exact acc_finishes rfl hready heff howned rfl

/-- ACC.PUT: what the tiles hold then (R469). -/
theorem accPut_tiles (k : Core) (v : View) (wide : Bool) (t row : Nat) (a : Operand) :
    let u := tagged (putRow k v wide t row a) wide t
    (∀ n, n < (if wide then 96 else 64) → u.acc t row n = if v.eff.getLsbD n then v.rd a n else k.acc t row n) ∧
    (∀ n, wide = true → n < 32 → u.acc t row (96 + n) = if v.eff.getLsbD n then v.rd (a.after 1) n else k.acc t row (96 + n)) ∧
    (∀ m n, m < groupSize wide → n < groupSize wide → m ≠ row → u.acc t m n = k.acc t m n) ∧
    u.rowSum t row = (if wide then (if v.eff.getLsbD 32 then v.rd (a.after 1) 32 else k.rowSum t row)
      else if v.eff.getLsbD 64 then v.rd a 64 else k.rowSum t row) ∧
    (∀ m n, m < groupSize wide → n < groupSize wide → (u.tile (elemTile t m n)).tag =
      if (k.tile (elemTile t m n)).tag = .free then .f else (k.tile (elemTile t m n)).tag) := by
  simp only [acc_tagged, rowSum_tagged]
  cases wide with
  | false =>
    obtain ⟨hrow, hother, hsum, htag⟩ := putRow_tile k v t (row := row) a
    refine ⟨hrow, fun n h => absurd h Bool.false_ne_true, fun m n _ hn hm => hother m n hn hm, hsum, fun m n hm hn => ?_⟩
    rw [tag_tagged _ _ _ hm hn, htag]
  | true =>
    obtain ⟨hlow, hhigh, hother, hsum, htag⟩ := putRow_group k v t (row := row) a
    refine ⟨hlow, fun n _ => hhigh n, fun m n _ hn hm => hother m n hn hm, hsum, fun m n hm hn => ?_⟩
    rw [tag_tagged _ _ _ hm hn, htag]

/-- Settles O34: a group is a few tiles, and an element lies in one of them; a lane writes one element of a row. -/
theorem accumulatorInstructions : Obligations.AccumulatorInstructions := by
  unfold Obligations.AccumulatorInstructions
  refine ⟨fun c wide d s => ?_, fun c wide d a s s' x ps xs => ?_, fun c wide sat a b s x => ?_, fun c wide d a b s => ?_,
    fun c wide d a b s => ?_⟩ <;> intro i v t
  · intro hready
    exact acc_guards rfl hready fun heff howned =>
      ⟨_, acc_finishes rfl hready heff howned rfl, fun m n hm hn => zeroed _ wide (tileOf d) hm hn⟩
  · intro word row0 col0 rso tag rows cols cells sums got rgot hready
    refine ⟨acc_nothing rfl hready, acc_waits rfl hready, fun heff howned hnone => ?_,
      fun heff howned hx hzero hhigh hfmt hreach hload hok => ?_⟩
    · exact accLd_unnamed rfl rfl rfl hready heff howned hnone
    · have htag : tagOfCode (word / 2 ^ 12 % 4) = tag := tagOfCode_eq _
      refine ⟨_, accLd_finishes rfl rfl rfl hready heff howned rfl rfl rfl rfl htag hx hzero hhigh hfmt rfl rfl hreach hload hok,
        fun m n hm hn => ?_⟩
      have hblock := loaded_block (s'.core v.r.core) wide (tileOf d) tag (fun m n => wordOf got (m, n)) (wordOf rgot) hm hn rfl
      rw [wordOf_eq, wordOf_eq] at hblock
      obtain ⟨hacc, hsum, htile⟩ := hblock
      refine ⟨hacc.trans ?_, hsum.trans ?_, htile⟩
      · cases got.find? fun e => e.1 = (m, n) <;> rfl
      · cases rgot.find? fun e => e.1 = m <;> rfl
  · intro row0 col0 tile hready
    refine ⟨acc_nothing rfl hready, acc_waits rfl hready, fun heff howned hx hkind hfmt htag => ?_,
      fun ps heff howned hx hkind hfmt htag htid => ?_⟩
    · exact accSt_free rfl rfl rfl hready heff howned hx hkind hfmt htag
    · intro cells word hcheck
      exact accSt_finishes rfl rfl rfl hready heff howned hx hkind hfmt htag htid rfl rfl rfl rfl hcheck
  · intro k row lane hready
    refine acc_guards rfl hready fun heff howned => ?_
    exact accGet_finishes rfl rfl rfl hready heff howned fun r l => (laneVal_accLane wide r l k (tileOf a) row).symm
  · intro row hready
    exact acc_guards rfl hready fun heff howned =>
      ⟨_, accPut_finishes rfl rfl rfl hready heff howned, accPut_tiles _ v wide (tileOf d) row a⟩

end Sys2Proof.Proofs
end

section
/-! PROOFS. Tiered products (O35). -/
namespace Sys2Proof.Proofs
set_option Elab.async false

open Sys2Proof Sys2Proof.Machine Sys2Proof.Claims

theorem arrived_of_tierWait {i : Instr} {c : Ctl} {s u : State} {body : View → State → Res} (hrun : exec i s = run i c s body)
    (hready : Ready i c s) (hbody : body (seen i c s) (entered i s) = tierWait (seen i c s) u) : Arrived i s (seen i c s) u := by
  by_cases hstage : (u.prog (seen i c s).r).stage = 2
  · rw [Arrived, if_pos hstage]
    exact finishes_of_run hrun hready (hbody.trans (if_pos hstage))
  · rw [Arrived, if_neg hstage]
    exact waits_of_run hrun hready (hbody.trans (if_neg hstage))

theorem get_eq_find {α : Type} (xs : Tab α) (d : α) (n : Nat) : xs.get d n = (xs.find n).getD d := by
  induction xs with
  | nil => rfl
  | cons x xs ih =>
    rw [Tab.get, Tab.find]
    split
    · rfl
    · exact ih

theorem tierBound_eq (s : State) (ctx tid : Nat) : tierBound s ctx tid = ((s.tier ctx tid).state != .unbound) := by
  rw [tierBound, State.tier, get_eq_find]
  cases (s.ctx ctx).tiers.find tid <;> rfl

/-- How the state checks of R199 come out, with the check of the home that follows them. -/
theorem tierFault_cases (s : State) (v : View) (tid : Nat) :
    (∃ code, tierNamed s v.st.ctx tid = .error code ∧ tierFault s v tid = some code) ∨
    (tierNamed s v.st.ctx tid = .ok (s.tier v.st.ctx tid) ∧
      tierFault s v tid = if cfgHome (s.tier v.st.ctx tid).block ≠ coreCluster v.r.core then some 0x19 else none) := by
  rw [tierNamed, tierFault]
  cases namedTid s v.st.ctx tid with
  | none => exact .inl ⟨0x01, rfl, rfl⟩
  | some x =>
    by_cases hwrong : tidKind x ≠ 1 ∨ (s.tier v.st.ctx tid).state = .unbound
    · refine .inl ⟨0x19, if_pos ?_, if_pos hwrong⟩
      rcases hwrong with hkind | hstate
      · rw [bne_iff_ne.mpr hkind, Bool.true_or]
      · rw [tierBound_eq, hstate, Bool.or_comm]
        rfl
    · refine .inr ⟨if_neg ?_, if_neg hwrong⟩
      obtain ⟨hkind, hstate⟩ := not_or.mp hwrong
      rw [Classical.not_not.mp hkind, tierBound_eq, bne_iff_ne.mpr hstate]
      decide

section
variable {v : View} {s : State} {tid : Nat}

/-- A check that names a wrong state answers with its code, whatever comes after. -/
theorem tierNamed_of_fault {code : Nat} (hfault : tierFault s v tid = some code) : tierNamed s v.st.ctx tid = .error code ∨
    (tierNamed s v.st.ctx tid = .ok (s.tier v.st.ctx tid) ∧ (cfgHome (s.tier v.st.ctx tid).block != coreCluster v.r.core) = true ∧
      code = trapTierState) := by
  rcases tierFault_cases s v tid with ⟨code', hnamed, hcode⟩ | ⟨hnamed, hcode⟩
  · obtain rfl : code' = code := Option.some.inj (hcode.symm.trans hfault)
    exact .inl hnamed
  · refine .inr ⟨hnamed, ?_⟩
    rw [hfault] at hcode
    split at hcode
    · next hhome => exact ⟨bne_iff_ne.mpr hhome, Option.some.inj hcode⟩
    · cases hcode

theorem tierNamed_of_bound (hfault : tierFault s v tid = none) : tierNamed s v.st.ctx tid = .ok (s.tier v.st.ctx tid) ∧
    (cfgHome (s.tier v.st.ctx tid).block != coreCluster v.r.core) = false := by
  rcases tierFault_cases s v tid with ⟨code, -, hcode⟩ | ⟨hnamed, hcode⟩
  · cases hcode.symm.trans hfault
  · refine ⟨hnamed, ?_⟩
    rw [hfault] at hcode
    split at hcode
    · cases hcode
    · next hhome => rw [Classical.not_not.mp hhome, bne_self_eq_false]

end

theorem tierTurn_turned {v : View} {s : State} {home : Nat} (hturn : tierHasTurn s v home) (k : State → Res) :
    tierTurn v s home k = k (turned v s home) :=
  if_neg (not_not_of_true hturn)

/-! TMV (R201, R470). -/

section
variable {i : Instr} {c : Ctl} {nocnt : Bool} {d a : Operand} {s t : State} {v : View} {word : Nat} (hi : i = .tmv c nocnt d a)
  (hv : v = seen i c s) (ht : t = entered i s) (hw : word = (v.rd a 0).toNat) (hready : Ready i c s) (heff : v.eff ≠ 0)
include hi hv ht hw hready heff

theorem tmv_proceeded (hstage : (t.prog v.r).stage = 2) : Finishes i s t := by
  subst hi hv ht
  refine finishes_of_run rfl hready ((if_neg heff).trans ((if_pos ?_).trans (if_pos hstage)))
  rw [hstage]
  rfl

variable (hstage : (t.prog v.r).stage = 0) (hhigh : word / 2 ^ 16 = 0) (hseg : word / 2 ^ 13 % 8 ≤ 2)
include hstage hhigh hseg

theorem tmv_faults {code : Nat} (hfault : tierFault t v (word % 2 ^ 10) = some code) : Traps i s { code := code, lanes := v.eff } t := by
  subst hi hv ht hw
  refine traps_of_run_entered rfl hready ((if_neg heff).trans ?_)
  have hseg' : decide (((seen (.tmv c nocnt d a) c s).rd a 0).toNat / 2 ^ 13 % 8 > 2) = false := decide_eq_false (Nat.not_lt.mpr hseg)
  simp only [hstage, hhigh, hseg', bne_self_eq_false, Bool.or_self, Bool.false_eq_true, if_false]
  rcases tierNamed_of_fault hfault with hnamed | ⟨hnamed, hhome, rfl⟩
  · simp only [hnamed]
  · simp only [hnamed, hhome, Bool.true_or, if_true]

variable (hbound : tierFault t v (word % 2 ^ 10) = none)
include hbound

theorem tmv_nan (hnan : (ff32.decode (tidTheta (t.tier v.st.ctx (word % 2 ^ 10)).entry).toNat).isNan = true) :
    Traps i s { code := 0x19, lanes := v.eff } t := by
  subst hi hv ht hw
  refine traps_of_run_entered rfl hready ((if_neg heff).trans ?_)
  have hseg' : decide (((seen (.tmv c nocnt d a) c s).rd a 0).toNat / 2 ^ 13 % 8 > 2) = false := decide_eq_false (Nat.not_lt.mpr hseg)
  obtain ⟨hnamed, -⟩ := tierNamed_of_bound hbound
  simp only [hstage, hhigh, hseg', bne_self_eq_false, Bool.or_self, Bool.false_eq_true, if_false, hnamed, hnan, Bool.or_true, if_true]
  rfl

/-- The state of a TMV that has its turn: marked, with its tile owned (R201). -/
def tmvTurned (u : State) (v : View) (home tile : Nat) : State :=
  let w := tierTurned u v home
  w.setCore v.r.core ((w.core v.r.core).updTile tile fun x => { x with tag := .q, owners := x.owners + 1 })

/-- The operation that a TMV arrives with (R201). -/
def tmvJob (t u : State) (v : View) (a : Operand) (home tile : Nat) (nocnt wide : Bool) (xs : List (List Nat)) : TmvJob := {
  id := (arbiterServe u home v.st.ctx 5 0 v.r.core v.st.number.toNat).nextId, core := v.r.core, ctx := v.st.ctx
  strand := v.st.number, tile := tile, xs := xs, f32 := wide, n0 := (v.rd (a.after 3) 0).toNat, counting := !nocnt
  dev := v.st.segs.get 0 3, free := ((t.core v.r.core).tile tile).tag == .free }

theorem tmv_arrives {u : State} {xs : List (List Nat)} {ti : Tier} (hti : ti = t.tier v.st.ctx (word % 2 ^ 10))
    (htheta : (ff32.decode (tidTheta ti.entry).toNat).isNan = false) (hfits : (t.core v.r.core).tagFits false (tileOf d) .q = true)
    (hflight : ti.flight.length < 256)
    (hinputs : ∀ k, tmvInputs v t (word / 2 ^ 13 % 8) (if word.testBit 12 then 4 else 2) (tierK ti.entry) (word / 2 ^ 10 % 4 + 1)
      (v.rd (a.after 1) 0).toNat (v.rd (a.after 2) 0).toNat k = k u xs) (hturn : tierHasTurn u v (cfgHome ti.block)) {w : State}
    (harrive : tierArrive (tmvTurned u v (cfgHome ti.block) (tileOf d)) v.st.ctx (word % 2 ^ 10)
      (.tmv (tmvJob t u v a (cfgHome ti.block) (tileOf d) nocnt (word.testBit 12) xs)) = w) : Arrived i s v w := by
  subst hi hv ht hw
  rw [← harrive]
  refine arrived_of_tierWait rfl hready ((if_neg heff).trans ?_)
  have hseg' : decide (((seen (.tmv c nocnt d a) c s).rd a 0).toNat / 2 ^ 13 % 8 > 2) = false := decide_eq_false (Nat.not_lt.mpr hseg)
  obtain ⟨hnamed, hhome⟩ := tierNamed_of_bound hbound
  rw [← hti] at hnamed hhome
  have hroom : ¬ ti.flight.length ≥ 256 := Nat.not_le.mpr hflight
  simp only [hstage, hhigh, hseg', bne_self_eq_false, Bool.or_self, Bool.false_eq_true, if_false, hnamed, hhome, htheta, hfits,
    Bool.not_true, hroom, hinputs]
  exact tierTurn_turned hturn _

end

/-! FIRE.RD (R208, R471). -/

section
variable {i : Instr} {c : Ctl} {a : Operand} {s t : State} {v : View} {tid n : Nat} (hi : i = .fireRd c a)
  (hv : v = seen i c s) (ht : t = entered i s) (htid : tid = (v.rd a 0).toNat) (hn : n = (v.rd (a.after 2) 0).toNat)
  (hready : Ready i c s) (heff : v.eff ≠ 0)
include hi hv ht hready heff

theorem fireRd_proceeded (hstage : (t.prog v.r).stage = 2) : Finishes i s t := by
  subst hi hv ht
  refine finishes_of_run rfl hready ((if_neg heff).trans ((if_pos ?_).trans (if_pos hstage)))
  rw [hstage]
  rfl

variable (hstage : (t.prog v.r).stage = 0) (hlow : tid < 1024) (hcount : n ≤ 65536)
include hstage hlow hcount htid hn

theorem fireRd_faults {code : Nat} (hfault : tierFault t v tid = some code) : Traps i s { code := code, lanes := v.eff } t := by
  subst hi hv ht
  refine traps_of_run_entered rfl hready ((if_neg heff).trans ?_)
  have hhigh : tid / 2 ^ 10 = 0 := Nat.div_eq_of_lt hlow
  have hn' : ¬ n > 65536 := Nat.not_lt.mpr hcount
  simp only [← htid, ← hn, hstage, hhigh, hn', bne_self_eq_false, Bool.or_self, Bool.false_eq_true, if_false, decide_false]
  rcases tierNamed_of_fault hfault with hnamed | ⟨hnamed, hhome, rfl⟩
  · simp only [hnamed]
  · simp only [hnamed, hhome, if_true]

/-- The operation that a FIRE.RD arrives with (R208). -/
def fireJob (t : State) (v : View) (a : Operand) (home n : Nat) (ps : List Place) : FireJob := {
  id := (arbiterServe t home v.st.ctx 5 0 v.r.core v.st.number.toNat).nextId, core := v.r.core, ctx := v.st.ctx
  strand := v.st.number, k0 := (v.rd (a.after 1) 0).toNat, n := n
  key := (ps.head?.map (·.key)).getD 0, dev := v.st.segs.get 0 3 }

theorem fireRd_arrives {home : Nat} {ps : List Place} (hhome : home = cfgHome (t.tier v.st.ctx tid).block)
    (hbound : tierFault t v tid = none) (hturn : tierHasTurn t v home)
    (hcheck : v.checkSeg 0 { n := 2, writes := true, needR := false, spaces := [0, 1, 2, 3, 8], align := 2 }
      (numbered ((List.range n).map fun k => (v.rd (a.after 3) 0).toNat + 2 * k)) = .ready ps) {w : State}
    (harrive : tierArrive (tierTurned t v home) v.st.ctx tid (.fire (fireJob t v a home n ps)) = w) : Arrived i s v w := by
  subst hi hv ht
  rw [← harrive]
  refine arrived_of_tierWait rfl hready ((if_neg heff).trans ?_)
  have hhigh : tid / 2 ^ 10 = 0 := Nat.div_eq_of_lt hlow
  have hn' : ¬ n > 65536 := Nat.not_lt.mpr hcount
  obtain ⟨hnamed, hat⟩ := tierNamed_of_bound hbound
  simp only [← htid, ← hn, hstage, hhigh, hn', bne_self_eq_false, Bool.or_self, Bool.false_eq_true, if_false, decide_false, hnamed, hat,
    spacesAll, hcheck, Access.whole, withAccess]
  rw [← hhome]
  exact tierTurn_turned hturn _

end

/-- Settles O35. -/
theorem tieredInstructions : Obligations.TieredInstructions := by
  refine ⟨fun c nocnt d a s => ?tmv, fun c a s ps => ?fireRd⟩
  case tmv =>
    intro i v t word tid ti eb hready
    refine ⟨fun heff => ?_, fun heff => ?_, fun heff hstage hhigh hseg code => ?_,
      fun u xs heff hstage hhigh hseg hbound htheta hfits hflight hinputs hturn => ?_, fun heff hstage hhigh hseg hbound => ?_⟩
    · exact finishes_of_run rfl hready (if_pos heff)
    · exact tmv_proceeded rfl rfl rfl rfl hready heff
    · exact tmv_faults rfl rfl rfl rfl hready heff hstage hhigh hseg
    · intro w w'
      generalize harrive : tierArrive _ _ _ _ = u'
      exact tmv_arrives rfl rfl rfl rfl hready heff hstage hhigh hseg hbound rfl htheta hfits hflight hinputs hturn harrive
    · exact tmv_nan rfl rfl rfl rfl hready heff hstage hhigh hseg hbound
  case fireRd =>
    intro i v t tid home n off hready
    refine ⟨fun heff => ?_, fun heff => ?_, fun heff hstage hlow hcount code => ?_, fun heff hstage hlow hcount hbound hturn hcheck => ?_⟩
    · exact finishes_of_run rfl hready (if_pos heff)
    · exact fireRd_proceeded rfl rfl rfl hready heff
    · exact fireRd_faults rfl rfl rfl rfl rfl hready heff hstage hlow hcount
    generalize harrive : tierArrive _ _ _ _ = u
    refine fireRd_arrives rfl rfl rfl rfl rfl hready heff hstage hlow hcount rfl hbound hturn hcheck (Eq.trans ?_ harrive)
    rw [fireJob]
    cases ps.head? <;> rfl

end Sys2Proof.Proofs
end

section
/-! PROOFS. The tier engine's steps (O36). -/
namespace Sys2Proof.Proofs
set_option Elab.async false

open Sys2Proof Sys2Proof.Machine Sys2Proof.Claims

theorem stacksReady_of {s : State} (hserves : ∀ i, i < 8 → stackServes s (i * 4096) = true) : stacksReady s = true :=
  List.all_eq_true.mpr fun i hi => hserves i (List.mem_range.mp hi)

/-! Barrier operations (R199, R205, R206). -/

/-- The tid by which a command's pages are looked for: a configuration names its own block (R199). -/
def askedTier (t : Tier) : TierAct → Tier
  | .cfg b => { t with block := b }
  | _ => t

/-- A tid whose barrier operation works (R199). -/
def workingTier (t : Tier) (c : TierCmd) (rest : List TierOp) : Tier :=
  { t with state := if t.state = .refreshing then .refreshing else .working, waiting := rest, working := some c, status := 0, result := 0
           copies := [] }

/-- What a tid whose turn has come, with nothing to wait for, comes to (R199). -/
def workingEnds (s : State) (t : Tier) (c : TierCmd) (rest : List TierOp) : State :=
  if c.unbinds then tierComplete (s.setTier s.pick.a s.pick.b (workingTier t c rest)) s.pick.a s.pick.b true
  else tierAfter (tierAct s s.pick.a (workingTier t c rest) c).1 s.pick.a s.pick.b (tierAct s s.pick.a (workingTier t c rest) c).2

section
variable {s : State} {t : Tier} (ht : s.tier s.pick.a s.pick.b = t) (hserves : ∀ i, i < 8 → stackServes s (i * 4096) = true)
include ht hserves

theorem tierWorking_next {c : TierCmd} {rest : List TierOp} (hstate : t.state = .quiescing ∨ t.state = .refreshing)
    (hidle : t.working = none) (hflight : t.flight = []) (hhead : t.waiting = .cmd c :: rest) :
    exec .tierWorking s = .next ((tierHold s s.pick.a (askedTier t c.act) c.dev).getD (workingEnds s t c rest)) := by
  have hturn : (t.state == .quiescing || t.state == .refreshing) = true := by
    rw [Bool.or_eq_true, beq_iff_eq, beq_iff_eq]
    exact hstate
  obtain ⟨state, block, entry, waiting, flight, count, plan, working, copies, status, result⟩ := t
  subst hidle hflight hhead
  simp only [exec, execTierWorking, ht, stacksReady_of hserves, hturn, Bool.not_true, Option.isSome_none, Bool.or_self, Bool.false_eq_true,
    if_false, beq_iff_eq]
  generalize hheld : tierHold s s.pick.a _ c.dev = held
  have hasked : tierHold s s.pick.a (askedTier ⟨state, block, entry, .cmd c :: rest, [], count, plan, none, copies, status, result⟩ c.act)
    c.dev = held := hheld
  rw [hasked]
  cases held with
  | some u => rfl
  | none => simp only [Option.getD_none, workingEnds, workingTier, apply_ite Host.Outcome.next]

theorem autoAgeing_completes {dev : BitVec 128} {rest : List TierOp} (hstate : t.state = .quiescing) (hflight : t.flight = [])
    (hhead : t.waiting = .ageing dev :: rest) (hhold : tierHold s s.pick.a t dev = none) {u : State × Tier}
    (hu : u = ageRows s s.pick.a { t with state := .working, waiting := rest, working := none, status := 0, result := 0 } dev (cfgAsh t.block)) :
    exec .autoAgeing s = .next (tierComplete (u.1.setTier s.pick.a s.pick.b u.2) s.pick.a s.pick.b false) := by
  obtain ⟨state, block, entry, waiting, flight, count, plan, working, copies, status, result⟩ := t
  subst hstate hflight hhead hu
  simp only [exec, execAutoAgeing, ht, stacksReady_of hserves, Bool.not_true, Bool.false_eq_true, if_false, hhold]

/-- What a refresh or a migration comes to after a copy: a refresh goes on to the next row with a slot (R199, R205). -/
def copyGoesOn (ctx : Nat) (dev : BitVec 128) (rest : List TierRow) (u : State × Tier) : TierAct → State × Tier
  | .cfg _ => if u.2.status = 3 then u else refreshRun ctx dev rest u.1 u.2
  | _ => u

theorem tierCopyDone_next {row : TierRow} {rest : List TierRow} {c : TierCmd} (hcopies : t.copies = row :: rest)
    (hworking : t.working = some c) (hstate : t.state = .working ∨ t.state = .refreshing) (hhold : tierHold s s.pick.a t c.dev = none)
    {u w : State × Tier} (hu : enterRow s s.pick.a { t with copies := rest } c.dev row = u)
    (hw : copyGoesOn s.pick.a c.dev rest u c.act = w) : exec .tierCopyDone s = .next (tierAfter w.1 s.pick.a s.pick.b w.2) := by
  have hturn : (t.state != .working && t.state != .refreshing) = false := by
    rw [bne, bne, ← Bool.not_or, Bool.not_eq_false', Bool.or_eq_true, beq_iff_eq, beq_iff_eq]
    exact hstate
  obtain ⟨state, block, entry, waiting, flight, count, plan, working, copies, status, result⟩ := t
  subst hcopies hworking hw
  simp only [exec, execTierCopyDone, ht, stacksReady_of hserves, hturn, Bool.not_true, Bool.or_self, Bool.false_eq_true, if_false, hhold, hu]
  cases c.act with
  | cfg b => rfl
  | _ => rfl

end

/-! TMV (R201-R203). -/

section
variable {s : State} {t : Tier} {j : TmvJob} (ht : s.tier s.pick.a s.pick.b = t) (hjob : t.flight[s.pick.c]? = some j)
include ht hjob

theorem tmvJoin_asks (hdue : j.due ≠ []) {u : State × TmvJob} (hu : sendDue s s.pick.a s.pick.b t j = u) :
    exec .tmvJoin s = .next (setJob u.1 s.pick.a s.pick.b u.2) := by
  have hsome : (!j.due.isEmpty) = true := by rw [Bool.not_eq_true', List.isEmpty_eq_false_iff]; exact hdue
  simp only [exec, execTmvJoin, ht, hjob, hsome, if_true, hu]

variable (hdue : j.due = []) (htenant : tenantAt s j.core s.pick.a = true) (hhot : j.hotDone = true)
  (hparts : ∀ k ∈ j.pool, (j.parts.find (k.1 % 8)).isSome = true)
include hdue htenant hhot hparts

omit ht hjob hdue htenant hhot in
theorem partsIn : ((List.range 8).filter fun i => j.pool.any fun r => r.1 % 8 == i).all (fun i => (j.parts.find i).isSome) = true := by
  refine List.all_eq_true.mpr fun i hi => ?_
  obtain ⟨k, hk, hki⟩ := List.any_eq_true.mp (List.mem_filter.mp hi).2
  rw [← beq_iff_eq.mp hki]
  exact hparts k hk

theorem tmvJoin_refused {va : Nat} (hrefused : j.refused = some va) {gone : Tier}
    (hgone : gone = { t with flight := t.flight.filter fun x => x.id != j.id }) :
    exec .tmvJoin s = .next (tierRun (failTmv (s.setTier s.pick.a s.pick.b gone) j 0x18 va) s.pick.a s.pick.b) := by
  subst hgone
  simp only [exec, execTmvJoin, ht, hjob, hdue, List.isEmpty_nil, partsIn hparts, hhot, htenant, Bool.not_true, Bool.or_self,
    Bool.false_eq_true, if_false, hrefused]
  rfl

/-- A TMV's partials, in order of the stacks (R201). -/
def partsInOrder (j : TmvJob) : List TmvPart :=
  ((List.range 8).filter fun i => j.pool.any fun k => k.1 % 8 == i).filterMap fun i => j.parts.find i

/-- The state of a TMV that is joined: its tile, its flags and its late trap (R201, R202). -/
def joined (s : State) (t : Tier) (j : TmvJob) (y : TmvPart) : State :=
  endMark (raiseStrand (s.setCore j.core ((s.core j.core).updTile j.tile (tmvTile t.entry j y))) j.core s.pick.a j.strand y.flags)
    j.core s.pick.a j.strand j.id (j.worst.map fun e => { code := 0x08, addr := e.2 })

theorem tmvJoin_joins (hrefused : j.refused = none) {gone : Tier} (hgone : gone = { t with flight := t.flight.filter fun x => x.id != j.id })
    {y : TmvPart} (hy : y = if j.worst.isSome then j.hot else joinParts j.hot (partsInOrder j)) :
    exec .tmvJoin s = .next (tierRun ((joined s t j y).setTier s.pick.a s.pick.b gone) s.pick.a s.pick.b) := by
  subst hgone hy
  simp only [exec, execTmvJoin, ht, hjob, hdue, List.isEmpty_nil, partsIn hparts, hhot, htenant, Bool.not_true, Bool.or_self,
    Bool.false_eq_true, if_false, hrefused]
  rw [joined]
  cases j.worst <;> rfl

end

/-! A basin's pieces (R195, R196). -/

theorem pktNmc_performs {s : State} {p : Packet} {fn : Nat} {k0 k1 : Word} {first count : Nat} {ins outs : List (Nat × Nat)}
    (hp : s.pkts[s.pick.a]? = some p) (hkind : p.kind = .nmc) (hmay : pktMay s s.pick.a p = true)
    (hwork : p.work = some (.bas fn k0 k1 first count ins outs)) (hgoing : pieceStopped s p = false) (haccepted : pktRefusal s p = none)
    {x : State × PieceState} (hx : basPiece s fn k0 k1 first count ins outs = x) :
    exec .pktNmc s = .next { x.1 with pkts := setAt x.1.pkts s.pick.a { p with
      done := true, reply := [], status := if x.2.bad ≠ 0 then 2 else if x.2.ce then 1 else 0, index := x.2.first
      words := [BitVec.ofNat 32 x.2.bad, BitVec.ofNat 32 x.2.stat] } } := by
  have hnmc : (p.kind != .nmc) = false := by rw [hkind]; rfl
  simp only [exec, execPktNmc, hp, hnmc, hmay, Bool.not_true, Bool.or_self, Bool.false_eq_true, if_false, hwork, hgoing, haccepted, hx,
    replyPacket, bne_iff_ne, stUc, stCe, stOk]

theorem nmcReply_returns {s t : State} {p : Packet} {c id piece j : Nat} {q : EngCmd} (hp : s.pkts[s.pick.a]? = some p)
    (hkind : p.kind = .nmc) (hdone : p.done = true) (hback : p.back = .cmd c id piece) (ht : dropPacket s s.pick.a p = t)
    (hfind : findCmd t c id = some j) (hq : (t.core c).eng[j]? = some q) {u : State} (hu : setCmd t c j (q.pieceDone p) = u) :
    exec .nmcReply s = .next (if (q.pieceDone p).settled && writesMay u c j then finishCmd u c j (q.pieceDone p) false else u) := by
  have hnmc : (p.kind != .nmc) = false := by rw [hkind]; rfl
  simp only [exec, execNmcReply, hp, hnmc, hdone, Bool.not_true, Bool.or_self, Bool.false_eq_true, if_false, hback, ht, hfind, hq, hu]

/-! The worked join (R203). -/

theorem joinAdd_ulp : joinAdd 0x3F800000 0x33800000 = (0x3F800000, 0) := by decide

theorem joinAdd_zero : joinAdd 0 0 = (0, 0) := by decide

theorem joinParts_worked (b0 b1 b2 : Option (Nat × Nat)) : joinParts { vals := [[0x3F800000]], sums := [0], bad := b0 }
    [{ vals := [[0x33800000]], sums := [0], bad := b1 }, { vals := [[0x33800000]], sums := [0], bad := b2 }]
    = { vals := [[0x3F800000]], sums := [0], bad := b0 } := by
  simp only [joinParts, List.foldl_cons, List.foldl_nil, List.zip_cons_cons, List.zip_nil_right, List.map_cons, List.map_nil, joinAdd_ulp,
    joinAdd_zero]
  rfl

/-- Settles O36: each step's guards hold, so it takes the branch that the statement writes out. -/
theorem tierEngine : Obligations.TierEngine := by
  refine ⟨fun s c rest => ?working, fun s dev rest => ?ageing, fun s row rest c => ?copyDone, fun s j => ?join,
    fun s p fn k0 k1 first count ins outs hp hkind hmay hwork hgoing haccepted => ?piece,
    fun s p c id piece j q hp hkind hdone hback => ?reply, joinParts_worked⟩
  case working =>
    intro t hstate hidle hflight hhead hserves asked w
    have hnext := tierWorking_next (t := t) rfl hserves hstate hidle hflight hhead
    have hasked : asked = askedTier t c.act := rfl
    refine ⟨fun u hhold => ?_, fun hhold => ?_⟩
    · rw [hasked] at hhold
      rw [hnext, hhold, Option.getD_some]
    · rw [hasked] at hhold
      rw [hnext, hhold, Option.getD_none]
      rfl
  case ageing =>
    intro t hstate hflight hhead hserves hhold w u
    exact autoAgeing_completes (t := t) rfl hserves hstate hflight hhead hhold rfl
  case copyDone =>
    intro t hcopies hworking hserves hstate hhold u w
    exact tierCopyDone_next (t := t) rfl hserves hcopies hworking hstate hhold (u := u) (w := w) rfl rfl
  case join =>
    intro t gone hjob
    refine ⟨fun hdue => tmvJoin_asks (t := t) rfl hjob hdue rfl, fun hdue htenant hhot hparts => ⟨fun va hrefused => ?_, fun hrefused => ?_⟩⟩
    · exact tmvJoin_refused (t := t) rfl hjob hdue htenant hhot hparts hrefused rfl
    · intro parts y u u'
      exact tmvJoin_joins (t := t) rfl hjob hdue htenant hhot hparts hrefused rfl (y := y) rfl
  case piece =>
    intro x
    exact pktNmc_performs hp hkind hmay hwork hgoing haccepted rfl
  case reply =>
    intro t hfind hq q' u
    exact nmcReply_returns hp hkind hdone hback rfl hfind hq rfl

end Sys2Proof.Proofs
end

section
/-! PROOFS. How results of every shape keep memory's canonical form: a state that may be there, an instruction's own effect, a record's
start, a TMV's start, and what a step answers (for O6 and O4). -/
namespace Sys2Proof.Proofs
set_option Elab.async false

open Sys2Proof Sys2Proof.Machine Sys2Proof.Claims

/-- An instruction's own effect ends in a state reached from s₀. -/
inductive KeepsRes (s₀ : State) : Machine.Res → Prop
  | done {t : State} (h : Keeps s₀ t) : KeepsRes s₀ (.done t)
  | stay {why : Nat} {t : State} (h : Keeps s₀ t) : KeepsRes s₀ (.stay why t)
  | trap {x : TrapRec} {t : State} (h : Keeps s₀ t) : KeepsRes s₀ (.trap x t)
  | moved {t : State} (h : Keeps s₀ t) : KeepsRes s₀ (.moved t)

/-- A step goes on in a state reached from s₀. -/
inductive Goes (s₀ : State) : Host.Outcome State Fault Refusal → Prop
  | next {t : State} (h : Keeps s₀ t) : Goes s₀ (.next t)

/-- A state that may be there was reached from s₀. -/
inductive KeepsOpt (s₀ : State) : Option State → Prop
  | none : KeepsOpt s₀ Option.none
  | some {t : State} (h : Keeps s₀ t) : KeepsOpt s₀ (Option.some t)

/-- The state that may be there, where it is. -/
theorem KeepsOpt.of_some {s₀ t : State} {o : Option State} (h : KeepsOpt s₀ o) (e : o = Option.some t) : Keeps s₀ t := by
  cases h with
  | none => cases e
  | some h => exact Option.some.inj e ▸ h

/-- Either way to go on was reached from s₀. -/
inductive KeepsExcept (s₀ : State) : Except State State → Prop
  | error {t : State} (h : Keeps s₀ t) : KeepsExcept s₀ (.error t)
  | ok {t : State} (h : Keeps s₀ t) : KeepsExcept s₀ (.ok t)

/-- The state it stopped in. -/
theorem KeepsExcept.of_error {s₀ t : State} {r : Except State State} (h : KeepsExcept s₀ r) (e : r = .error t) : Keeps s₀ t := by
  cases h with
  | error h => exact Except.error.inj e ▸ h
  | ok h => cases e

/-- The state it goes on in. -/
theorem KeepsExcept.of_ok {s₀ t : State} {r : Except State State} (h : KeepsExcept s₀ r) (e : r = .ok t) : Keeps s₀ t := by
  cases h with
  | error h => cases e
  | ok h => exact Except.ok.inj e ▸ h

/-- How a record begins: it was reached from s₀, and what it still does when it is taken keeps that. -/
inductive KeepsBegan (s₀ : State) : State × Began → Prop
  | takes {t : State} {more : State → State} (h : Keeps s₀ t) (hmore : ∀ u, Keeps s₀ u → Keeps s₀ (more u)) : KeepsBegan s₀ (t, .takes more)
  | waits {t : State} (h : Keeps s₀ t) : KeepsBegan s₀ (t, .waits)
  | bad {t : State} {code : Nat} (h : Keeps s₀ t) : KeepsBegan s₀ (t, .bad code)

/-- The state in which the record has begun. -/
theorem KeepsBegan.state {s₀ : State} {p : State × Began} (h : KeepsBegan s₀ p) : Keeps s₀ p.1 := by
  cases h with
  | takes h _ => exact h
  | waits h => exact h
  | bad h => exact h

/-- What a taken record still does. -/
theorem KeepsBegan.more {s₀ t u : State} {p : State × Began} {f : State → State} (h : KeepsBegan s₀ p) (e : p = (t, .takes f))
    (hu : Keeps s₀ u) : Keeps s₀ (f u) := by
  cases h with
  | takes h hmore =>
    obtain ⟨-, hf⟩ := Prod.mk.inj e
    exact Began.takes.inj hf ▸ hmore u hu
  | waits h => cases e
  | bad h => cases e

/-- The state in which a TMV starts, traps or waits. -/
def startState : TmvStart → State
  | .go _ s => s
  | .trap _ _ s => s
  | .hold s => s

namespace Keeps

variable {s₀ s t : State}

/-- A list of steps, each of which keeps the form of the state beside an answer. -/
theorem foldl_fst {α β : Type} {f : State × β → α → State × β} (hf : ∀ p x, Keeps s₀ p.1 → Keeps s₀ (f p x).1) (xs : List α)
    {p : State × β} (h : Keeps s₀ p.1) : Keeps s₀ (xs.foldl f p).1 := by
  induction xs generalizing p with
  | nil => exact h
  | cons x xs ih => exact ih (hf _ x h)

end Keeps

end Sys2Proof.Proofs
end

section
/-! PROOFS. The functions of Machine/Access.lean keep memory's canonical form. -/
namespace Sys2Proof.Proofs
set_option Elab.async false

open Sys2Proof Sys2Proof.Machine Sys2Proof.Claims

namespace Keeps

variable {s₀ s t : State} (h : Keeps s₀ s)
include h

theorem after_setCore (c : Nat) (k : Core) : Keeps s₀ (s.setCore c k) := by
  unfold State.setCore
  exact h.same

theorem after_setClu (k : Nat) (x : Cluster) : Keeps s₀ (s.setClu k x) := by
  unfold State.setClu
  exact h.same

theorem after_setStack (i : Nat) (x : Stack) : Keeps s₀ (s.setStack i x) := by
  unfold State.setStack
  exact h.same

theorem after_setCtx (x : Nat) (c : Machine.Context) : Keeps s₀ (s.setCtx x c) := by
  unfold State.setCtx
  exact h.same

theorem after_setStrandAt (c slot : Nat) (st : Strand) : Keeps s₀ (s.setStrandAt c slot st) := by
  unfold State.setStrandAt
  exact h.after_setCore _ _

theorem after_setStrand (r : SplitRef) (st : Strand) : Keeps s₀ (s.setStrand r st) := by
  unfold State.setStrand
  exact h.after_setStrandAt _ _ _

theorem after_setSplit (r : SplitRef) (sp : Split) : Keeps s₀ (s.setSplit r sp) := by
  unfold State.setSplit
  exact h.after_setStrand _ _

theorem after_fresh : Keeps s₀ s.fresh.1 := by
  unfold State.fresh
  exact h.same

theorem after_setQueue (q : Nat) (x : Queue) : Keeps s₀ (s.setQueue q x) := by
  unfold State.setQueue
  exact h.same

theorem after_setStream (n : Nat) (x : Machine.Stream) : Keeps s₀ (s.setStream n x) := by
  unfold State.setStream
  exact h.same

theorem after_setLaunch (n : Nat) (x : Launch) : Keeps s₀ (s.setLaunch n x) := by
  unfold State.setLaunch
  exact h.same

theorem after_setLink (i : Nat) (x : Link) : Keeps s₀ (s.setLink i x) := by
  unfold State.setLink
  exact h.same

end Keeps
end Sys2Proof.Proofs
end

section
/-! PROOFS. The functions of Machine/Hub.lean keep memory's canonical form. -/
namespace Sys2Proof.Proofs
set_option Elab.async false

open Sys2Proof Sys2Proof.Machine Sys2Proof.Claims

namespace Keeps

variable {s₀ s t : State} (h : Keeps s₀ s)
include h

theorem after_writePat (st i val : Nat) : Keeps s₀ (writePat s st i val) := by
  unfold writePat
  exact (h.writtenNat (hubKey (bdBase st + 16384 + 2 * i)) 2 val).same

theorem after_acceptRecord (k kind : Nat) (payload : List Byte) : Keeps s₀ (acceptRecord s k kind payload) := by
  unfold acceptRecord
  dsimp only
  split
  · exact h
  · split
    · exact h.after_setTrace _ _
    · exact Keeps.ite (h.after_setTrace _ _) (h.after_setTrace _ _)

theorem after_traceRecord (k kind payload : Nat) : Keeps s₀ (traceRecord s k kind payload) := by
  unfold traceRecord
  exact Keeps.ite (h.after_acceptRecord _ _ _) h

theorem after_noteDecision (k ctx cls unit core str : Nat) : Keeps s₀ (noteDecision s k ctx cls unit core str) := by
  unfold noteDecision
  exact Keeps.ite ((h.after_setTrace _ _).after_acceptRecord _ _ _) h

theorem after_arbiterServe (k ctx cls unit core str : Nat) : Keeps s₀ (arbiterServe s k ctx cls unit core str) := by
  unfold arbiterServe
  dsimp only
  split
  · exact h.after_noteDecision _ _ _ _ _ _
  · exact (h.after_noteDecision _ _ _ _ _ _).after_setTrace _ _

end Keeps
end Sys2Proof.Proofs
end

section
/-! PROOFS. The functions of Machine/Ops.lean keep memory's canonical form. -/
namespace Sys2Proof.Proofs
set_option Elab.async false

open Sys2Proof Sys2Proof.Machine Sys2Proof.Claims

namespace Keeps

variable {s₀ s t : State} (h : Keeps s₀ s)
include h

theorem after_clearResv (line : Nat) : Keeps s₀ (clearResv s line) := by
  unfold clearResv
  exact h.same

theorem after_dropCached (k line : Nat) : Keeps s₀ (dropCached s k line) := by
  unfold dropCached
  split
  · exact h
  · exact h.after_setClu _ _

theorem after_markBytes (key n mask : Nat) (bad : Bool) : Keeps s₀ (markBytes s key n mask bad) := by
  unfold markBytes
  exact h.same

theorem after_granArrive (g grade mask : Nat) (bs : List Byte) (bad : Bool) : Keeps s₀ (granArrive s g grade mask bs bad).1 := by
  unfold granArrive
  split
  · next heq =>
      split
      · exact ((h.after_granWrite _ _ _ _).of_eq heq).after_freshSide _ _ _
      · exact (h.after_granWrite _ _ _ _).of_eq heq

theorem after_readHomeLine (c line : Nat) (via : Via) : Keeps s₀ (readHomeLine s c line via).1 := by
  unfold readHomeLine
  dsimp only
  split
  · split
    · exact h
    · split
      · exact h
      · split
        · exact h
        · exact (h.after_granRead _ _).after_granRead _ _
  · split
    · exact h
    · split
      · exact h
      · exact h
      · exact h.after_crossPeer _ _

theorem after_cacheLine (k line : Nat) (d : BitVec 512) : Keeps s₀ (cacheLine s k line d) := by
  unfold cacheLine
  split
  · next heq => exact Keeps.ite (h.after_setClu _ _) ((h.after_draw.of_eq heq).after_setClu _ _)

theorem after_fillLine (c line : Nat) (via : Via) : Keeps s₀ (fillLine s c line via).1 := by
  unfold fillLine
  split
  · next heq =>
      dsimp only
      split
      · exact h.after_setCore _ _
      · exact (h.after_readHomeLine _ _ _).of_eq heq
  · next heq =>
      split
      · split
        · dsimp only
          split
          · exact h.after_setCore _ _
          · exact (Keeps.ite (((h.after_readHomeLine _ _ _).of_eq heq).after_cacheLine _ _ _)
                ((h.after_readHomeLine _ _ _).of_eq heq)).after_setCore _ _
        · dsimp only
          split
          · exact h.after_setCore _ _
          · exact (Keeps.ite (((h.after_readHomeLine _ _ _).of_eq heq).after_cacheLine _ _ _)
                ((h.after_readHomeLine _ _ _).of_eq heq)).after_setCore _ _
      · split
        · dsimp only
          split
          · exact h.after_setCore _ _
          · exact (Keeps.ite (((h.after_readHomeLine _ _ _).of_eq heq).after_dropCached _ _)
                ((h.after_readHomeLine _ _ _).of_eq heq)).after_setCore _ _
        · dsimp only
          split
          · exact h.after_setCore _ _
          · exact (Keeps.ite (((h.after_readHomeLine _ _ _).of_eq heq).after_dropCached _ _)
                ((h.after_readHomeLine _ _ _).of_eq heq)).after_setCore _ _

theorem after_baseLine (c line : Nat) (via : Via) : Keeps s₀ (baseLine s c line via).1 := by
  unfold baseLine
  split
  · exact h
  · split
    · exact h
    · split
      · exact h
      · exact h.after_fillLine _ _ _

theorem after_loadBytes (c key n : Nat) (via : Via) : Keeps s₀ (loadBytes s c key n via).1 := by
  unfold loadBytes
  dsimp only
  split
  · exact h
  · exact h.after_baseLine _ _ _

theorem after_loadSpan (c key : Nat) (via : Via) (fuel x : Nat) : Keeps s₀ (loadSpan s c key via fuel x).1 := by
  induction fuel generalizing s c key via x with
  | zero => exact h
  | succ fuel ih =>
    unfold loadSpan
    split
    · exact h
    · dsimp only
      split
      · next heq => exact (h.after_loadBytes _ _ _ _).of_eq heq
      · next heq => exact ih ((h.after_loadBytes _ _ _ _).of_eq heq) _ _ _ _

theorem after_performEntry (c : Nat) (e : QLine) (bad : Bool) : Keeps s₀ (performEntry s c e bad) := by
  unfold performEntry
  extract_lets key bytes mask
  have hdram := (((h.after_granArrive (granOf key) e.via.grade (mask % 2 ^ 32) (bytes.take 32) bad).after_granArrive
      (granOf key + 1)
    e.via.grade (mask / 2 ^ 32) (bytes.drop 32) bad).after_clearResv e.line).after_dropCached (coreCluster c) e.line
  have hsram : Keeps s₀ { s with mem := s.mem.writeList key (mergeBytes mask bytes (s.mem.readList key 64)) } := h.written _ _
  have hmarked := ((hsram.after_clearResv e.line).after_sendWakes e.line e.line).after_markBytes key 64 mask bad
  have hwritten := Keeps.ite (p := isDram key) hdram
    (Keeps.ite (p := keySpace key = 3) (h.after_hubWrite (keyAddr key) mask bytes)
        (hmarked.after_crossPeer key (.store (keyAddr key) e.via bytes)))
  split
  · exact Keeps.ite h (h.after_setCore _ _)
  · split
    · exact hwritten
    · exact hwritten.after_setCore _ _

theorem after_deliverHead (c : Nat) (h' : Home) (bad : Bool) : Keeps s₀ (deliverHead s c h' bad) := by
  unfold deliverHead
  dsimp only
  split
  · exact h
  · split
    · exact h
    · exact Keeps.ite h (Keeps.ite h (Keeps.ite (h.after_setCore _ _) ((h.after_setCore _ _).after_performEntry _ _ _)))

theorem after_releaseMoves (c : Nat) (sc : Scope) : Keeps s₀ (releaseMoves s c sc) := by
  unfold releaseMoves
  split
  · exact h
  · exact h
  · exact h.after_setCore _ _

theorem after_acquire (c : Nat) (sc : Scope) : Keeps s₀ (acquire s c sc) := by
  unfold acquire
  split
  · exact h
  · exact h
  · exact Keeps.ite ((h.after_setCore _ _).after_setClu _ _) (h.after_setCore _ _)

theorem after_drainMoves (c : Nat) (lines : List Nat) : Keeps s₀ (drainMoves s c lines) := by
  unfold drainMoves
  dsimp only
  split
  · exact h
  · exact h.after_setCore _ _

theorem after_dropSnap (c : Nat) (lines : List Nat) : Keeps s₀ (dropSnap s c lines) := by
  unfold dropSnap
  exact h.after_setCore _ _

theorem after_countedAcquire (c : Nat) (ranges : Option (List (Nat × Nat))) : Keeps s₀ (countedAcquire s c ranges) := by
  unfold countedAcquire
  split
  · exact h.after_setCore _ _
  · exact h.after_setCore _ _

theorem after_freeSched (r : SplitRef) : Keeps s₀ (freeSched s r) := by
  unfold freeSched
  exact Keeps.ite (h.after_setCore _ _) h

theorem after_contextFaults (x : Nat) (f : FaultRec) : Keeps s₀ (contextFaults s x f) := by
  unfold contextFaults
  exact h.same

theorem after_takeTrap (r : SplitRef) (t' : TrapRec) (pc : BitVec 48) (pos : Nat) (late : Option (BitVec 48 × Nat)) :
    Keeps s₀ (takeTrap s r t' pc pos late) := by
  unfold takeTrap
  exact Keeps.ite ((h.after_setSplit _ _).after_contextFaults _ _)
      ((((h.after_traceRecord _ _ _).after_setCore _ _).after_setStrand _ _).after_freeSched _)

theorem after_putDefers (c slot : Nat) (es : List Defer) : Keeps s₀ (putDefers s c slot es) := by
  unfold putDefers
  exact Keeps.foldl (fun u x hu => hu.after_putBytes _ _) _ h

theorem after_deferBoundary (r : SplitRef) : Keeps s₀ (deferBoundary s r) := by
  unfold deferBoundary
  dsimp only
  split
  · exact h
  · split
    · exact h
    · exact Keeps.ite h (Keeps.ite ((h.after_putDefers _ _ _).after_setSplit _ _) ((h.after_putDefers _ _ _).after_setSplit _ _))

theorem after_mergeInto (c slot lo : Nat) (hi : Nat) : Keeps s₀ (mergeInto s c slot lo hi) := by
  unfold mergeInto
  exact (h.after_putDefers _ _ _).after_setStrandAt _ _ _

theorem after_mergeBoundary (c slot fuel x : Nat) : Keeps s₀ (mergeBoundary s c slot fuel x) := by
  induction fuel generalizing s c slot x with
  | zero => exact h
  | succ fuel ih =>
    unfold mergeBoundary
    split
    · exact h
    · exact ih (h.after_mergeInto _ _ _ _) _ _ _

theorem after_resumeOrFree (r : SplitRef) : Keeps s₀ (resumeOrFree s r) := by
  unfold resumeOrFree
  dsimp only
  split
  · exact (h.after_setStrand _ _).after_freeSched _
  · split
    · exact h
    · exact ((((h.after_putDefers _ _ _).after_setSplit _ _).after_freeSched _).after_deferBoundary _).after_mergeBoundary _ _ _ _

theorem after_reconvBoundary (c slot : Nat) : Keeps s₀ (reconvBoundary s c slot) := by
  unfold reconvBoundary
  dsimp only
  split
  · exact h
  · exact Keeps.ite ((Keeps.foldl (fun u x hu => hu.after_mergeInto _ _ _ _) _
        (Keeps.foldl (fun u x hu => hu.after_setSplit _ _) _ h)).after_deferBoundary _) h

theorem after_endClause (r : SplitRef) (pc : BitVec 48) : Keeps s₀ (endClause s r pc) := by
  unfold endClause
  exact Keeps.ite (((h.after_setStrand _ _).after_freeSched _).after_reconvBoundary _ _)
      ((Keeps.ite ((h.after_setStrand _ _).after_freeSched _)
      (((h.after_setStrand _ _).after_freeSched _).after_deferBoundary _)).after_mergeBoundary _ _ _ _)

end Keeps
end Sys2Proof.Proofs
end

section
/-! PROOFS. The functions of Machine/Operands.lean keep memory's canonical form. -/
namespace Sys2Proof.Proofs
set_option Elab.async false

open Sys2Proof Sys2Proof.Machine Sys2Proof.Claims

namespace Keeps

variable {s₀ s t : State} (h : Keeps s₀ s)
include h

theorem after_putLanes (r : SplitRef) (o : Operand) (m : LaneMask) (x : LaneVec) : Keeps s₀ (putLanes s r o m x) := by
  unfold putLanes
  exact h.after_setStrand _ _

theorem after_putLanes64 (r : SplitRef) (o : Operand) (m : LaneMask) (x : List DWord) : Keeps s₀ (putLanes64 s r o m x) := by
  unfold putLanes64
  exact (h.after_putLanes _ _ _ _).after_putLanes _ _ _ _

theorem after_putLanesW (r : SplitRef) (w64 : Bool) (o : Operand) (m : LaneMask) (x : List DWord) :
    Keeps s₀ (putLanesW s r w64 o m x) := by
  unfold putLanesW
  exact Keeps.ite (h.after_putLanes64 _ _ _ _) (h.after_putLanes _ _ _ _)

theorem after_putAll (r : SplitRef) (o : Operand) (m : LaneMask) (x : Word) : Keeps s₀ (putAll s r o m x) := by
  unfold putAll
  exact h.after_putLanes _ _ _ _

theorem after_putPred (r : SplitRef) (o : Operand) (m : LaneMask) (p : Nat → Bool) : Keeps s₀ (putPred s r o m p) := by
  unfold putPred
  exact h.after_putLanes _ _ _ _

theorem after_raiseFlags (r : SplitRef) (f : Flags) : Keeps s₀ (raiseFlags s r f) := by
  unfold raiseFlags
  exact h.after_setStrand _ _

end Keeps
end Sys2Proof.Proofs
end

section
/-! PROOFS. The functions of Machine/Issue.lean keep memory's canonical form. -/
namespace Sys2Proof.Proofs
set_option Elab.async false

open Sys2Proof Sys2Proof.Machine Sys2Proof.Claims

namespace Keeps

variable {s₀ s t : State} (h : Keeps s₀ s)
include h

theorem after_resumeAt (r : SplitRef) (rpc : BitVec 48) (rpos : Nat) : Keeps s₀ (resumeAt s r rpc rpos) := by
  unfold resumeAt
  exact Keeps.ite (h.after_endClause _ _) ((h.after_setSplit _ _).after_freeSched _)

theorem after_advance (r : SplitRef) : Keeps s₀ (advance s r) := by
  unfold advance
  dsimp only
  split
  · exact h
  · split
    · exact h.after_resumeAt _ _ _
    · exact Keeps.ite (h.after_setSplit _ _) (h.after_endClause _ _)

theorem after_holdIn (r : SplitRef) (why : Nat) : Keeps s₀ (holdIn s r why) := by
  unfold holdIn
  exact h.after_setSplit _ _

omit h in
theorem after_settle {x : Machine.Res} (hx : KeepsRes s₀ x) (r : SplitRef) : Keeps s₀ (settle s r x) := by
  unfold settle
  cases hx with
  | done h => exact h.after_advance _
  | stay h => exact h.after_holdIn _ _
  | trap h => exact .ite ((h.after_setSplit _ _).after_holdIn _ _) (h.after_takeTrap _ _ _ _ _)
  | moved h => exact h

theorem after_takeWaiting (r : SplitRef) (w : WaitingTrap) (pc : BitVec 48) (pos : Nat) : Keeps s₀ (takeWaiting s r w pc pos) := by
  unfold takeWaiting
  split
  · exact h.after_takeTrap _ _ _ _ _
  · exact h.after_takeTrap _ _ _ _ _

theorem after_sampleTick (i : Instr) (r : SplitRef) : Keeps s₀ (sampleTick i s r) := by
  unfold sampleTick
  exact Keeps.ite (h.after_setSplit _ _) h

theorem after_atBoundary (r : SplitRef) (v : View) {go : Machine.State} (hgo : Keeps s₀ go) : Keeps s₀ (atBoundary s r v go) := by
  unfold atBoundary
  split
  · exact .ite (h.after_holdIn _ _) (.ite (h.after_holdIn _ _) ((h.after_setSplit _ _).after_takeWaiting _ _ _ _))
  · split
    · exact h.after_holdIn _ _
    · exact hgo

theorem after_issueStep (i : Instr) (c : Ctl) (body : View → Machine.State → Machine.Res)
    (hbody : ∀ v u, Keeps s₀ u → KeepsRes s₀ (body v u)) : Keeps s₀ (issueStep i c s body) := by
  unfold issueStep
  refine h.after_atBoundary _ _ ?_
  split
  · exact h.after_holdIn _ _
  · exact after_settle (.trap h) _
  · exact after_settle (hbody _ _ (h.after_sampleTick _ _)) _

theorem after_issueIllegal (w : BitVec 64) : Keeps s₀ (issueIllegal w s) :=
  h.after_atBoundary _ _ (after_settle (.trap h) _)

theorem after_run (i : Instr) (c : Ctl) (body : View → Machine.State → Machine.Res)
    (hbody : ∀ v u, Keeps s₀ u → KeepsRes s₀ (body v u)) : Goes s₀ (run i c s body) := .next (h.after_issueStep _ _ _ hbody)

theorem after_pendResult (v : View) (c : Ctl) (dst : List Operand) (lanes : LaneMask) (vals : List LaneVec) (flags : Flags)
    (owed : Nat) :
    Keeps s₀ (pendResult s v c dst lanes vals flags owed).1 := by
  unfold pendResult
  split
  · next heq =>
      split
      · dsimp only
        exact (h.after_fresh.of_eq heq).after_setStrand _ _
      · dsimp only
        exact (h.after_fresh.of_eq heq).after_setStrand _ _

theorem after_pend (v : View) (c : Ctl) (dst : List Operand) (lanes : LaneMask) (vals : List LaneVec) (flags : Flags) :
    Keeps s₀ (pend s v c dst lanes vals flags) := by
  unfold pend
  exact h.after_pendResult _ _ _ _ _ _ _

end Keeps
end Sys2Proof.Proofs
end

section
/-! PROOFS. The functions of Machine/Translate.lean keep memory's canonical form. -/
namespace Sys2Proof.Proofs
set_option Elab.async false

open Sys2Proof Sys2Proof.Machine Sys2Proof.Claims

namespace Keeps

variable {s₀ s t : State} (h : Keeps s₀ s)
include h

theorem after_askPages (c x : Nat) (pages : List Nat) : Keeps s₀ (askPages s c x pages) := by
  unfold askPages
  exact Keeps.foldl (fun u x hu => Keeps.ite hu (hu.after_setCore _ _)) _ h

theorem after_dropFaults (c x : Nat) (pages : List Nat) : Keeps s₀ (dropFaults s c x pages) := by
  unfold dropFaults
  exact h.after_setCore _ _

theorem after_clearDp (x va : Nat) : Keeps s₀ (clearDp s x va) := by
  unfold clearDp
  exact h.after_putDp _ _ _

theorem after_withAccess (v : View) (x : Access) (act : List Place → Machine.Res) (hact : ∀ ps, KeepsRes s₀ (act ps)) :
    KeepsRes s₀ (withAccess v s x act) := by
  unfold withAccess
  split
  · exact hact _
  · exact .stay (h.after_askPages _ _ _)
  · split
    · exact .stay (h.after_dumpStall _ _)
    · exact .trap (h.after_dropFaults _ _ _)

end Keeps
end Sys2Proof.Proofs
end

section
/-! PROOFS. The functions of Machine/Waits.lean keep memory's canonical form. -/
namespace Sys2Proof.Proofs
set_option Elab.async false

open Sys2Proof Sys2Proof.Machine Sys2Proof.Claims

namespace Keeps

variable {s₀ s t : State} (h : Keeps s₀ s)
include h

theorem after_setProg (r : SplitRef) (p : Prog) : Keeps s₀ (s.setProg r p) := by
  unfold State.setProg
  exact h.after_setSplit _ _

theorem after_refusedTrap {c ctx : Nat} {covers : Nat → Bool} {x : TrapRec} (e : refusedTrap s c ctx covers = some (x, t)) :
    Keeps s₀ t := by
  unfold refusedTrap at e
  dsimp only at e
  split at e
  · cases e
  · cases e
    exact h.after_setCore _ _

theorem after_drainThen (v : View) (lines : List Nat) (why : Nat) (k : Machine.State → Machine.Res)
    (hk : ∀ u, Keeps s₀ u → KeepsRes s₀ (k u)) : KeepsRes s₀ (drainThen v s lines why k) := by
  unfold drainThen
  split
  · exact hk _ h
  · dsimp only
    split
    · split
      · next heq => exact .trap ((h.after_drainMoves _ _).after_refusedTrap heq)
      · exact hk _ ((h.after_drainMoves _ _).after_setProg _ _)
    · exact .stay (h.after_drainMoves _ _)

theorem after_releasedThen (v : View) (sc : Scope) (k : Machine.State → Machine.Res) (hk : ∀ u, Keeps s₀ u → KeepsRes s₀ (k u)) :
    KeepsRes s₀ (releasedThen v s sc k) := by
  unfold releasedThen
  split
  · next heq => exact .trap (h.after_refusedTrap heq)
  · exact hk _ (h.after_setProg _ _)

theorem after_releaseThen (v : View) (sc : Scope) (why : Nat) (k : Machine.State → Res) (hk : ∀ u, Keeps s₀ u → KeepsRes s₀ (k u)) :
    KeepsRes s₀ (releaseThen v s sc why k) := by
  unfold releaseThen
  dsimp only
  split
  · split
    · exact .trap (h.after_releaseMoves _ _)
    · split
      · exact (h.after_releaseMoves _ _).after_releasedThen _ _ _ (fun u hu => hk _ hu)
      · exact .stay ((h.after_releaseMoves _ _).after_setProg _ _)
  · exact .stay h
  · exact h.after_releasedThen _ _ _ (fun u hu => hk _ hu)
  · exact .trap h
  · exact hk _ h

theorem after_acquireAt (v : View) (sc : Scope) : Keeps s₀ (acquireAt s v sc) := by
  unfold acquireAt
  exact h.after_acquire _ _

theorem after_beatThen (v : View) (k : Nat → Machine.State → Res) (hk : ∀ x u, Keeps s₀ u → KeepsRes s₀ (k x u)) :
    KeepsRes s₀ (beatThen v s k) := by
  unfold beatThen
  split
  · exact .stay (h.after_setProg _ _)
  · exact .stay h
  · exact hk _ _ h

theorem after_fenceThen (v : View) (k : Nat → Machine.State → Res) (hk : ∀ x u, Keeps s₀ u → KeepsRes s₀ (k x u)) :
    KeepsRes s₀ (fenceThen v s k) := by
  unfold fenceThen
  exact (h.after_setProg _ _).after_releaseThen _ _ _ _ (fun u hu1 => hu1.after_beatThen _ _ (fun y u hu2 => hk _ _ hu2))

theorem after_fenceRecord (r : SplitRef) (n : Nat) : Keeps s₀ (fenceRecord s r n) := by
  unfold fenceRecord
  exact h.after_traceRecord _ _ _

theorem after_pendFail (v : View) (c : Ctl) (t' : TrapRec) : Keeps s₀ (pendFail s v c t') := by
  unfold pendFail
  split
  · next heq => exact ((h.after_pendResult _ _ _ _ _ _ _).of_eq heq).after_setStrand _ _

theorem after_eachPlace {α : Type} (f : Machine.State → Place → Machine.State × α) (ps : List Place)
    (hf : ∀ u p, Keeps s₀ u → Keeps s₀ (f u p).1) : Keeps s₀ (eachPlace f s ps).1 := by
  induction ps generalizing s with
  | nil => exact h
  | cons p ps ih => exact ih (hf _ _ h)

end Keeps
end Sys2Proof.Proofs
end

section
/-! PROOFS. The functions of Machine/Mem.lean keep memory's canonical form. -/
namespace Sys2Proof.Proofs
set_option Elab.async false

open Sys2Proof Sys2Proof.Machine Sys2Proof.Claims

namespace Keeps

variable {s₀ s t : State} (h : Keeps s₀ s)
include h

theorem after_loadPlace (c n : Nat) (p : Place) : Keeps s₀ (loadPlace c n s p).1 := by
  unfold loadPlace
  split
  · next heq => exact (h.after_loadBytes _ _ _ _).of_eq heq

theorem after_loadAll (v : View) (c : Ctl) (n : Nat) (ps : List Place) (k : Machine.State → List (Place × List Byte) → Res)
    (hk : ∀ u x, Keeps s₀ u → KeepsRes s₀ (k u x)) :
    KeepsRes s₀ (loadAll v s c n ps k) := by
  unfold loadAll
  split
  · next heq =>
      dsimp only
      split
      · exact .stay h
      · split
        · exact .done (((h.after_eachPlace _ _ (fun u p hu => hu.after_loadPlace _ _ _)).of_eq heq).after_pendFail _ _ _)
        · exact hk _ _ ((h.after_eachPlace _ _ (fun u p hu => hu.after_loadPlace _ _ _)).of_eq heq)

theorem after_execLd (c : Ctl) (sg : SegIx) (wd : Width) (sx a64 : Bool) (d a b : Operand) :
    Goes s₀ (execLd c sg wd sx a64 d a b s) := by
  unfold execLd
  exact h.after_run _ _ _ (fun v u hu1 => hu1.after_withAccess _ _ _
      (fun ps => hu1.after_loadAll _ _ _ _ _ (fun u xs hu2 => .done
      (Keeps.ite (hu2.after_pend _ _ _ _ _ _) (hu2.after_pend _ _ _ _ _ _)))))

theorem after_storePlace (c : Nat) (p : Place) (bs : List Byte) : Keeps s₀ (storePlace s c p bs) := by
  unfold storePlace
  exact h.after_setCore _ _

theorem after_execSt (c : Ctl) (sg : SegIx) (wd : Width) (a64 : Bool) (d a b : Operand) :
    Goes s₀ (execSt c sg wd a64 d a b s) := by
  unfold execSt
  exact h.after_run _ _ _ (fun v u hu1 => hu1.after_withAccess _ _ _
      (fun ps => .done (Keeps.foldl (fun u x hu => hu.after_storePlace _ _ _) _ hu1)))

theorem after_metaWrite (key grade val : Nat) : Keeps s₀ (metaWrite s key grade val) := by
  unfold metaWrite
  exact (((h.after_activate (keyAddr key)).after_setFlips (granOf key)
      (s.flips.get 0 (granOf key) &&& ~~~BitVec.ofNat 288 (metaMask grade * 2 ^ 256))).writtenNat (metaKey (keyAddr key)) 4
      (val &&& metaMask grade)).same

theorem after_metaPlace (c : Nat) (p : Place) : Keeps s₀ (metaPlace c s p).1 := by
  unfold metaPlace
  split
  · exact h
  · dsimp only
    split
    · exact (h.after_activate _).after_draw
    · exact h.after_activate _

theorem after_execLdMd (c : Ctl) (sg : SegIx) (a64 : Bool) (d a b : Operand) : Goes s₀ (execLdMd c sg a64 d a b s) := by
  unfold execLdMd
  refine h.after_run _ _ _ (fun v u hu1 => ?_)
  refine hu1.after_withAccess _ _ _ (fun ps => ?_)
  refine hu1.after_drainThen _ _ _ _ (fun u hu2 => ?_)
  split
  · next heq =>
      dsimp only
      split
      · exact .stay hu2
      · split
        · exact .done (((hu2.after_eachPlace _ _ (fun u p hu3 => hu3.after_metaPlace _ _)).of_eq heq).after_pendFail _ _ _)
        · exact .done (((hu2.after_eachPlace _ _ (fun u p hu3 => hu3.after_metaPlace _ _)).of_eq heq).after_pend _ _ _ _ _ _)

theorem after_execStMd (c : Ctl) (sg : SegIx) (a64 : Bool) (d a b : Operand) : Goes s₀ (execStMd c sg a64 d a b s) := by
  unfold execStMd
  refine h.after_run _ _ _ (fun v u hu1 => ?_)
  refine hu1.after_withAccess _ _ _ (fun ps => ?_)
  refine hu1.after_drainThen _ _ _ _ (fun u hu2 => ?_)
  dsimp only
  split
  · exact .stay hu2
  · split
    · exact .trap (Keeps.foldl (fun u x hu => Keeps.ite hu (hu.after_metaWrite _ _ _)) _ hu2)
    · exact .done (Keeps.foldl (fun u x hu => Keeps.ite hu (hu.after_metaWrite _ _ _)) _ hu2)

theorem after_execLds (c : Ctl) (sg : SegIx) (wd : Width) (sx a64 : Bool) (d a b : Operand) :
    Goes s₀ (execLds c sg wd sx a64 d a b s) := by
  unfold execLds
  refine h.after_run _ _ _ (fun v u hu1 => ?_)
  split
  · exact .done hu1
  · refine hu1.after_withAccess _ _ _ (fun ps => ?_)
    refine hu1.after_loadAll _ _ _ _ _ (fun u xs hu2 => ?_)
    split
    · split
      · dsimp only
        exact .done (hu2.after_pend _ _ _ _ _ _)
      · dsimp only
        exact .done (hu2.after_pend _ _ _ _ _ _)
    · split
      · dsimp only
        exact .done (hu2.after_pend _ _ _ _ _ _)
      · dsimp only
        exact .done (hu2.after_pend _ _ _ _ _ _)

theorem after_execSts (c : Ctl) (sg : SegIx) (wd : Width) (a64 : Bool) (d a b : Operand) :
    Goes s₀ (execSts c sg wd a64 d a b s) := by
  unfold execSts
  refine h.after_run _ _ _ (fun v u hu1 => ?_)
  split
  · exact .done hu1
  · exact hu1.after_withAccess _ _ _ (fun ps => .done (Keeps.foldl (fun u x hu => hu.after_storePlace _ _ _) _ hu1))

theorem after_execPhase (c : Ctl) (k : PhaseKind) (sc : Scope) : Goes s₀ (execPhase c k sc s) := by
  unfold execPhase
  refine h.after_run _ _ _ (fun v u hu1 => ?_)
  split
  · exact .done hu1
  · split
    · exact .done (hu1.after_acquireAt _ _)
    · exact hu1.after_releaseThen _ _ _ _ (fun u hu2 => .done hu2)
    · exact hu1.after_releaseThen _ _ _ _ (fun u hu2 => .done (hu2.after_acquireAt _ _))

theorem after_execScfence (c : Ctl) : Goes s₀ (execScfence c s) := by
  unfold execScfence
  refine h.after_run _ _ _ (fun v u hu1 => ?_)
  split
  · exact .done hu1
  · exact hu1.after_fenceThen _ _ (fun n u hu2 => .done ((hu2.after_acquireAt _ _).after_fenceRecord _ _))

end Keeps
end Sys2Proof.Proofs
end

section
/-! PROOFS. The functions of Machine/Tagged.lean keep memory's canonical form. -/
namespace Sys2Proof.Proofs
set_option Elab.async false

open Sys2Proof Sys2Proof.Machine Sys2Proof.Claims

namespace Keeps

variable {s₀ s t : State} (h : Keeps s₀ s)
include h

theorem after_setFull (key : Nat) : Keeps s₀ (setFull s key) := by
  unfold setFull
  exact h.same

theorem after_setEmpty (key : Nat) : Keeps s₀ (setEmpty s key) := by
  unfold setEmpty
  exact h.same

theorem after_laneFails (t' : Target) (l : ReqLane) : Keeps s₀ (laneFails s t' l) := by
  unfold laneFails
  split
  · exact h.after_setStrandAt _ _ _
  · exact h

theorem after_laneReply (t' : Target) (l key : Nat) (x : DWord) : Keeps s₀ (laneReply s t' l key x) := by
  unfold laneReply
  split
  · exact (h.after_dropSnap _ _).after_setStrandAt _ _ _
  · exact (h.after_dropSnap _ _).after_setProg _ _

theorem after_wakeWord (key fuel : Nat) : Keeps s₀ (wakeWord s key fuel) := by
  induction fuel generalizing s key with
  | zero => exact h
  | succ fuel ih =>
    unfold wakeWord
    split
    · split
      · split
        · exact h
        · exact ih (h.same.after_laneReply _ _ _ _) _
      · split
        · exact h
        · split
          · exact h
          · exact ih ((h.same.after_setEmpty _).after_laneReply _ _ _ _) _
    · split
      · exact h
      · split
        · exact h
        · exact ih (((h.same.after_putBytes _ _).after_setFull _).after_laneReply _ _ _ _) _

theorem after_parkLane (t' : Target) (op : TagOp) (l : ReqLane) : Keeps s₀ (parkLane s t' op l) := by
  unfold parkLane
  exact Keeps.ite h.same h.same

theorem after_tagLane (t' : Target) (op : TagOp) (l : ReqLane) : Keeps s₀ (tagLane t' op s l) := by
  unfold tagLane
  split
  · exact h.after_laneFails _ _
  · split
    · exact (((h.after_putBytes _ _).after_setFull _).after_laneReply _ _ _ _).after_wakeWord _ _
    · exact h.after_parkLane _ _ _
    · exact ((h.after_setEmpty _).after_laneReply _ _ _ _).after_wakeWord _ _
    · exact h.after_parkLane _ _ _
    · exact h.after_laneReply _ _ _ _
    · exact h.after_parkLane _ _ _
    · exact (((h.after_putBytes _ _).after_setFull _).after_laneReply _ _ _ _).after_wakeWord _ _
    · exact h.after_laneReply _ _ _ _
    · exact ((h.after_setEmpty _).after_laneReply _ _ _ _).after_wakeWord _ _

theorem after_execTaggedAtHome : Goes s₀ (execTaggedAtHome s) := by
  unfold execTaggedAtHome
  dsimp only
  split
  · exact .next h
  · split
    · exact .next h
    · split
      · exact .next h
      · exact .next (Keeps.foldl (fun u x hu => hu.after_tagLane _ _ _) _ h.same)

theorem after_execTaggedResend : Goes s₀ (execTaggedResend s) := by
  unfold execTaggedResend
  dsimp only
  split
  · exact .next h
  · split
    · exact .next h
    · exact .next h.same

theorem after_taggedLoad (v : View) (c : Ctl) (op : TagOp) (acq : Option Scope) (x : Access) (d : Operand) :
    KeepsRes s₀ (taggedLoad v s c op acq x d) := by
  unfold taggedLoad
  refine h.after_withAccess _ _ _ (fun ps => h.after_drainThen _ _ _ _ (fun u hu => ?_))
  have hpended := hu.after_pendResult v c [d] v.eff [vecOf 0 fun _ => 0] noFlag ps.length
  generalize pendResult u v c [d] v.eff [vecOf 0 fun _ => 0] noFlag ps.length = pended at hpended ⊢
  obtain ⟨p, id⟩ := pended
  dsimp -zeta only
  extract_lets sent target
  have hsent : Keeps s₀ sent := hpended.after_setStrand _ _
  exact .done (Keeps.ite hsent hsent.same)

theorem after_taggedStore (v : View) (op : TagOp) (rel : Option Scope) (why : Nat) (x : Access) (arg : Nat → DWord) :
    KeepsRes s₀ (taggedStore v s op rel why x arg) := by
  unfold taggedStore
  split
  · dsimp only
    split
    · split
      · exact .done h
      · exact .stay h
    · refine h.after_withAccess _ _ _ (fun ps => ?_)
      refine h.after_drainThen _ _ _ _ (fun u hu1 => ?_)
      split
      · exact .done hu1
      · exact .stay hu1.same
  · dsimp only
    split
    · split
      · exact .done h
      · exact .stay h
    · refine h.after_withAccess _ _ _ (fun ps => ?_)
      refine h.after_drainThen _ _ _ _ (fun u hu1 => ?_)
      split
      · exact .done hu1
      · exact hu1.after_releaseThen _ _ _ _ (fun u hu2 => .stay hu2.same)

theorem after_execLdt (c : Ctl) (sg : SegIx) (sc : Scope) (a64 : Bool) (d a b : Operand) :
    Goes s₀ (execLdt c sg sc a64 d a b s) := by
  unfold execLdt
  exact h.after_run _ _ _ (fun v u hu => hu.after_taggedLoad _ _ _ _ _ _)

theorem after_execLdtk (c : Ctl) (sg : SegIx) (sc : Scope) (a64 : Bool) (d a b : Operand) :
    Goes s₀ (execLdtk c sg sc a64 d a b s) := by
  unfold execLdtk
  exact h.after_run _ _ _ (fun v u hu => hu.after_taggedLoad _ _ _ _ _ _)

theorem after_execStt (c : Ctl) (sg : SegIx) (sc : Scope) (a64 : Bool) (d a b : Operand) :
    Goes s₀ (execStt c sg sc a64 d a b s) := by
  unfold execStt
  exact h.after_run _ _ _ (fun v u hu => hu.after_taggedStore _ _ _ _ _ _)

theorem after_execSttf (c : Ctl) (sg : SegIx) (sc : Scope) (a64 : Bool) (d a b : Operand) :
    Goes s₀ (execSttf c sg sc a64 d a b s) := by
  unfold execSttf
  exact h.after_run _ _ _ (fun v u hu => hu.after_taggedStore _ _ _ _ _ _)

theorem after_execTagRd (c : Ctl) (sg : SegIx) (a64 : Bool) (d a b : Operand) : Goes s₀ (execTagRd c sg a64 d a b s) := by
  unfold execTagRd
  exact h.after_run _ _ _ (fun v u hu => hu.after_taggedLoad _ _ _ _ _ _)

theorem after_execTagClr (c : Ctl) (sg : SegIx) (a64 : Bool) (a b : Operand) : Goes s₀ (execTagClr c sg a64 a b s) := by
  unfold execTagClr
  exact h.after_run _ _ _ (fun v u hu => hu.after_taggedStore _ _ _ _ _ _)

end Keeps
end Sys2Proof.Proofs
end

section
/-! PROOFS. The functions of Machine/Atomic.lean keep memory's canonical form. -/
namespace Sys2Proof.Proofs
set_option Elab.async false

open Sys2Proof Sys2Proof.Machine Sys2Proof.Claims

namespace Keeps

variable {s₀ s t : State} (h : Keeps s₀ s)
include h

theorem after_enqueueAtom (k : Nat) (q : AtomReq) : Keeps s₀ (enqueueAtom s k q) := by
  unfold enqueueAtom
  exact h.after_setClu _ _

theorem after_orderBefore (v : View) (o : Order) (sc : Scope) (k : Machine.State → Res)
    (hk : ∀ u, Keeps s₀ u → KeepsRes s₀ (k u)) :
    KeepsRes s₀ (orderBefore v s o sc k) := by
  unfold orderBefore
  split
  · exact hk _ h
  · exact hk _ h
  · exact h.after_releaseThen _ _ _ _ (fun u hu => hk _ hu)
  · exact h.after_releaseThen _ _ _ _ (fun u hu => hk _ hu)
  · exact h.after_fenceThen _ _ (fun n u hu => hk _ ((hu.after_acquireAt _ _).after_fenceRecord _ _))

theorem after_atomSend (v : View) (c : Ctl) (kind : AtomKind) (w64 : Bool) (dst : List Operand) (o : Order) (sc : Scope)
    (lose : Option Scope) (first : Nat) (ls : List ReqLane) :
    Keeps s₀ (atomSend v s c kind w64 dst o sc lose first ls) := by
  unfold atomSend
  split
  · dsimp only
    exact Keeps.foldl (fun u x hu => hu.after_enqueueAtom _ _) _ ((h.after_pendResult _ _ _ _ _ _ _).after_setStrand _ _)
  · dsimp only
    exact Keeps.foldl (fun u x hu => hu.after_enqueueAtom _ _) _ ((h.after_pendResult _ _ _ _ _ _ _).after_setStrand _ _)

theorem after_atomThen (v : View) (x : Access) (o : Order) (sc : Scope) (send : Machine.State → List Place → Machine.State)
    (hsend : ∀ u y, Keeps s₀ u → Keeps s₀ (send u y)) :
    KeepsRes s₀ (atomThen v s x o sc send) := by
  unfold atomThen
  refine h.after_withAccess _ _ _ (fun ps => ?_)
  split
  · exact .done (hsend _ _ h)
  · exact h.after_drainThen _ _ _ _ (fun u hu1 => hu1.after_orderBefore _ _ _ _ (fun u hu2 => .done (hsend _ _ hu2)))

theorem after_execAtom (c : Ctl) (sg : SegIx) (op : AOp) (o : Order) (sc : Scope) (w64 a64 : Bool) (d a b : Operand) :
    Goes s₀ (execAtom c sg op o sc w64 a64 d a b s) := by
  unfold execAtom
  exact h.after_run _ _ _ (fun v u hu1 => hu1.after_atomThen _ _ _ _ _ (fun u ps hu2 => hu2.after_atomSend _ _ _ _ _ _ _ _ _ _))

theorem after_execAcas (c : Ctl) (sg : SegIx) (o : Order) (sc : Scope) (w64 facq a64 : Bool) (d a b : Operand) :
    Goes s₀ (execAcas c sg o sc w64 facq a64 d a b s) := by
  unfold execAcas
  exact h.after_run _ _ _ (fun v u hu1 => hu1.after_atomThen _ _ _ _ _ (fun u ps hu2 => hu2.after_atomSend _ _ _ _ _ _ _ _ _ _))

theorem after_execLr (c : Ctl) (sg : SegIx) (o : Order) (sc : Scope) (w64 a64 : Bool) (d a : Operand) :
    Goes s₀ (execLr c sg o sc w64 a64 d a s) := by
  unfold execLr
  exact h.after_run _ _ _ (fun v u hu1 => hu1.after_atomThen _ _ _ _ _ (fun u ps hu2 => hu2.after_atomSend _ _ _ _ _ _ _ _ _ _))

theorem after_execSc (c : Ctl) (sg : SegIx) (o : Order) (sc : Scope) (w64 a64 : Bool) (d a b : Operand) :
    Goes s₀ (execSc c sg o sc w64 a64 d a b s) := by
  unfold execSc
  exact h.after_run _ _ _ (fun v u hu1 => hu1.after_atomThen _ _ _ _ _ (fun u ps hu2 => hu2.after_atomSend _ _ _ _ _ _ _ _ _ _))

theorem after_homeRead (key n : Nat) (via : Via) : Keeps s₀ (homeRead s key n via).1 := by
  unfold homeRead
  split
  · split
    · next heq =>
        dsimp only
        split
        · exact h
        · split
          · exact h
          · exact (h.after_granRead _ _).of_eq heq
    · next heq1 =>
        dsimp only
        split
        · exact h
        · split
          · exact h
          · exact (h.after_granRead _ _).of_eq heq1
  · split
    · exact h
    · exact h

theorem after_homeWrite (core key n x : Nat) (via : Via) : Keeps s₀ (homeWrite s core key n x via) := by
  unfold homeWrite
  exact Keeps.ite (((Keeps.ite (h.after_granWrite _ _ _ _) (h.after_putBytes _ _)).after_dropCached _ _).after_dropCached _ _)
      (Keeps.ite (h.after_granWrite _ _ _ _) (h.after_putBytes _ _))

theorem after_dropResv (t' : Target) : Keeps s₀ (dropResv s t') := by
  unfold dropResv
  exact h.same

theorem after_atomLane (q : AtomReq) (l : ReqLane) : Keeps s₀ (atomLane q s l).1 := by
  unfold atomLane
  split
  · split
    · split
      · split
        · dsimp only
          split
          · exact h.after_dropResv _
          · split
            · exact h.after_dropResv _
            · split
              · next heq => exact ((h.after_dropResv _).after_homeRead _ _ _).of_eq heq
              · next heq => exact (((h.after_dropResv _).after_homeRead _ _ _).of_eq heq).after_homeWrite _ _ _ _ _
        · dsimp only
          split
          · exact h.after_dropResv _
          · split
            · exact h.after_dropResv _
            · exact (h.after_dropResv _).after_homeWrite _ _ _ _ _
      · split
        · dsimp only
          split
          · next heq1 => exact ((h.after_dropResv _).after_homeRead _ _ _).of_eq heq1
          · next heq1 => exact (((h.after_dropResv _).after_homeRead _ _ _).of_eq heq1).after_homeWrite _ _ _ _ _
        · split
          · dsimp only
            split
            · next heq2 => exact ((h.after_dropResv _).after_homeRead _ _ _).of_eq heq2
            · next heq2 =>
                split
                · exact ((h.after_dropResv _).after_homeRead _ _ _).of_eq heq2
                · exact ((h.after_dropResv _).after_homeRead _ _ _).of_eq heq2
          · dsimp only
            split
            · next heq2 => exact ((h.after_dropResv _).after_homeRead _ _ _).of_eq heq2
            · next heq2 =>
                split
                · exact ((h.after_dropResv _).after_homeRead _ _ _).of_eq heq2
                · exact (((h.after_dropResv _).after_homeRead _ _ _).of_eq heq2).after_homeWrite _ _ _ _ _
        · split
          · dsimp only
            split
            · next heq2 => exact ((h.after_dropResv _).after_homeRead _ _ _).of_eq heq2
            · next heq2 => exact (((h.after_dropResv _).after_homeRead _ _ _).of_eq heq2).same
          · dsimp only
            split
            · next heq2 => exact ((h.after_dropResv _).after_homeRead _ _ _).of_eq heq2
            · next heq2 => exact ((h.after_dropResv _).after_homeRead _ _ _).of_eq heq2
    · split
      · split
        · dsimp only
          split
          · exact h
          · split
            · exact h
            · split
              · next heq => exact (h.after_homeRead _ _ _).of_eq heq
              · next heq => exact ((h.after_homeRead _ _ _).of_eq heq).after_homeWrite _ _ _ _ _
        · dsimp only
          split
          · exact h
          · split
            · exact h
            · exact h.after_homeWrite _ _ _ _ _
      · split
        · dsimp only
          split
          · next heq1 => exact (h.after_homeRead _ _ _).of_eq heq1
          · next heq1 => exact ((h.after_homeRead _ _ _).of_eq heq1).after_homeWrite _ _ _ _ _
        · split
          · dsimp only
            split
            · next heq2 => exact (h.after_homeRead _ _ _).of_eq heq2
            · next heq2 =>
                split
                · exact (h.after_homeRead _ _ _).of_eq heq2
                · exact (h.after_homeRead _ _ _).of_eq heq2
          · dsimp only
            split
            · next heq2 => exact (h.after_homeRead _ _ _).of_eq heq2
            · next heq2 =>
                split
                · exact (h.after_homeRead _ _ _).of_eq heq2
                · exact ((h.after_homeRead _ _ _).of_eq heq2).after_homeWrite _ _ _ _ _
        · split
          · dsimp only
            split
            · next heq2 => exact (h.after_homeRead _ _ _).of_eq heq2
            · next heq2 => exact ((h.after_homeRead _ _ _).of_eq heq2).same
          · dsimp only
            split
            · next heq2 => exact (h.after_homeRead _ _ _).of_eq heq2
            · next heq2 => exact (h.after_homeRead _ _ _).of_eq heq2
  · split
    · split
      · split
        · dsimp only
          split
          · exact h.after_dropResv _
          · split
            · exact h.after_dropResv _
            · split
              · next heq => exact ((h.after_dropResv _).after_homeRead _ _ _).of_eq heq
              · next heq => exact (((h.after_dropResv _).after_homeRead _ _ _).of_eq heq).after_homeWrite _ _ _ _ _
        · dsimp only
          split
          · exact h.after_dropResv _
          · split
            · exact h.after_dropResv _
            · exact (h.after_dropResv _).after_homeWrite _ _ _ _ _
      · split
        · dsimp only
          split
          · next heq1 => exact ((h.after_dropResv _).after_homeRead _ _ _).of_eq heq1
          · next heq1 => exact (((h.after_dropResv _).after_homeRead _ _ _).of_eq heq1).after_homeWrite _ _ _ _ _
        · split
          · dsimp only
            split
            · next heq2 => exact ((h.after_dropResv _).after_homeRead _ _ _).of_eq heq2
            · next heq2 =>
                split
                · exact ((h.after_dropResv _).after_homeRead _ _ _).of_eq heq2
                · exact ((h.after_dropResv _).after_homeRead _ _ _).of_eq heq2
          · dsimp only
            split
            · next heq2 => exact ((h.after_dropResv _).after_homeRead _ _ _).of_eq heq2
            · next heq2 =>
                split
                · exact ((h.after_dropResv _).after_homeRead _ _ _).of_eq heq2
                · exact (((h.after_dropResv _).after_homeRead _ _ _).of_eq heq2).after_homeWrite _ _ _ _ _
        · split
          · dsimp only
            split
            · next heq2 => exact ((h.after_dropResv _).after_homeRead _ _ _).of_eq heq2
            · next heq2 => exact (((h.after_dropResv _).after_homeRead _ _ _).of_eq heq2).same
          · dsimp only
            split
            · next heq2 => exact ((h.after_dropResv _).after_homeRead _ _ _).of_eq heq2
            · next heq2 => exact ((h.after_dropResv _).after_homeRead _ _ _).of_eq heq2
    · split
      · split
        · dsimp only
          split
          · exact h
          · split
            · exact h
            · split
              · next heq => exact (h.after_homeRead _ _ _).of_eq heq
              · next heq => exact ((h.after_homeRead _ _ _).of_eq heq).after_homeWrite _ _ _ _ _
        · dsimp only
          split
          · exact h
          · split
            · exact h
            · exact h.after_homeWrite _ _ _ _ _
      · split
        · dsimp only
          split
          · next heq1 => exact (h.after_homeRead _ _ _).of_eq heq1
          · next heq1 => exact ((h.after_homeRead _ _ _).of_eq heq1).after_homeWrite _ _ _ _ _
        · split
          · dsimp only
            split
            · next heq2 => exact (h.after_homeRead _ _ _).of_eq heq2
            · next heq2 =>
                split
                · exact (h.after_homeRead _ _ _).of_eq heq2
                · exact (h.after_homeRead _ _ _).of_eq heq2
          · dsimp only
            split
            · next heq2 => exact (h.after_homeRead _ _ _).of_eq heq2
            · next heq2 =>
                split
                · exact (h.after_homeRead _ _ _).of_eq heq2
                · exact ((h.after_homeRead _ _ _).of_eq heq2).after_homeWrite _ _ _ _ _
        · split
          · dsimp only
            split
            · next heq2 => exact (h.after_homeRead _ _ _).of_eq heq2
            · next heq2 => exact ((h.after_homeRead _ _ _).of_eq heq2).same
          · dsimp only
            split
            · next heq2 => exact (h.after_homeRead _ _ _).of_eq heq2
            · next heq2 => exact (h.after_homeRead _ _ _).of_eq heq2

theorem after_atomLanes (q : AtomReq) (xs : List ReqLane) : Keeps s₀ (atomLanes q s xs).1 := by
  induction xs generalizing s q with
  | nil => exact h
  | cons head tail ih =>
    unfold atomLanes
    split
    · next heq =>
        split
        · next heq1 => exact (ih ((h.after_atomLane _ _).of_eq heq) _).of_eq heq1

theorem after_execServiceRequest : Goes s₀ (execServiceRequest s) := by
  unfold execServiceRequest
  extract_lets k
  split
  · exact .next h
  · next q rest _ =>
      split
      · exact .next h
      · extract_lets u w
        have hu : Keeps s₀ u := (h.after_setClu _ _).after_arbiterServe _ _ _ _ _ _
        have hw : Keeps s₀ w := Keeps.ite (hu.after_sendFlit _ _ _ _) hu
        have hlanes := hw.after_atomLanes q q.lanes
        generalize atomLanes q w q.lanes = done at hlanes ⊢
        obtain ⟨x, ds⟩ := done
        exact .next hlanes.same

theorem after_execAtomicReply : Goes s₀ (execAtomicReply s) := by
  unfold execAtomicReply
  dsimp only
  split
  · exact .next h
  · split
    · exact .next h
    · split
      · exact .next (h.same.after_sendFlit _ _ _ _)
      · split
        · exact .next (h.same.after_dropSnap _ _)
        · exact .next ((h.same.after_dropSnap _ _).after_setStrandAt _ _ _)

theorem after_endPending (c slot : Nat) (p : Pending) (t' : Option TrapRec) : Keeps s₀ (endPending s c slot p t') := by
  unfold endPending
  exact h.after_setStrandAt _ _ _

theorem after_writePending (c slot : Nat) (p : Pending) : Keeps s₀ (writePending s c slot p) := by
  unfold writePending
  refine ((Keeps.foldl (fun u x hu => Keeps.ite (hu.after_putLanes _ _ _ _) hu) _ ?_).after_raiseFlags _ _).after_endPending _ _
      _ _
  split
  · refine (Keeps.after_acquire ?_ _ _).after_fenceRecord _ _
    split
    · exact h.after_acquire _ _
    · exact h
  · split
    · exact h.after_acquire _ _
    · exact h

theorem after_fenceReleased (c slot : Nat) (p : Pending) : Keeps s₀ (fenceReleased s c slot p) := by
  unfold fenceReleased
  split
  · next heq => exact (h.after_refusedTrap heq).after_endPending _ _ _ _
  · exact h.after_setStrandAt _ _ _

theorem after_advancePending (c slot : Nat) (p : Pending) : Keeps s₀ (advancePending s c slot p) := by
  unfold advancePending
  split
  · exact h.after_endPending _ _ _ _
  · split
    · exact (h.after_releaseMoves _ _).after_setStrandAt _ _ _
    · split
      · exact Keeps.ite (h.after_fenceReleased _ _ _) h
      · exact h
      · exact h.after_writePending _ _ _

theorem after_execResultWrite : Goes s₀ (execResultWrite s) := by
  unfold execResultWrite
  dsimp only
  split
  · exact .next h
  · split
    · exact .next h
    · exact .next (h.after_advancePending _ _ _)

theorem after_settleFences : Keeps s₀ (settleFences s) := by
  unfold settleFences
  exact Keeps.foldl (fun u x hu => Keeps.foldl (fun u x hu => Keeps.foldl
      (fun u x hu => Keeps.ite (hu.after_advancePending _ _ _) hu) _ hu) _ hu) _ h

theorem after_execHeartbeat : Goes s₀ (execHeartbeat s) := by
  unfold execHeartbeat
  split
  · exact .next h
  · dsimp only
    exact .next h.after_settleFences.same

theorem after_execDeliver : Goes s₀ (execDeliver s) := by
  unfold execDeliver
  exact .next (h.after_deliverHead _ _ _)

theorem after_execDropLine : Goes s₀ (execDropLine s) := by
  unfold execDropLine
  exact .next (h.after_dropSnap _ _)

theorem after_execCacheDrop : Goes s₀ (execCacheDrop s) := by
  unfold execCacheDrop
  exact .next (h.after_dropCached _ _)

theorem after_execReleaseComplete : Goes s₀ (execReleaseComplete s) := by
  unfold execReleaseComplete
  dsimp only
  split
  · split
    · exact .next (h.after_setProg _ _)
    · exact .next h
  · exact .next h

end Keeps
end Sys2Proof.Proofs
end

section
/-! PROOFS. The functions of Machine/Int.lean keep memory's canonical form. -/
namespace Sys2Proof.Proofs
set_option Elab.async false

open Sys2Proof Sys2Proof.Machine Sys2Proof.Claims

namespace Keeps

variable {s₀ s t : State} (h : Keeps s₀ s)
include h

theorem after_perLane (v : View) (w64 : Bool) (d : Operand) (f : Nat → Nat × Flags) : Keeps s₀ (perLane v s w64 d f) := by
  unfold perLane
  exact (h.after_putLanesW _ _ _ _ _).after_raiseFlags _ _

theorem after_intLanes (v : View) (ty : Fmt) (sat : Bool) (d : Operand) (f : Nat → Int) : Keeps s₀ (intLanes v s ty sat d f) := by
  unfold intLanes
  exact h.after_perLane _ _ _ _

theorem after_bitLanes (v : View) (w64 : Bool) (d : Operand) (f : Nat → DWord) : Keeps s₀ (bitLanes v s w64 d f) := by
  unfold bitLanes
  exact h.after_perLane _ _ _ _

theorem after_execIadd (c : Ctl) (ty : Fmt) (sat : Bool) (d a b : Operand) : Goes s₀ (execIadd c ty sat d a b s) := by
  unfold execIadd
  exact h.after_run _ _ _ (fun v u hu => .done (hu.after_intLanes _ _ _ _ _))

theorem after_execIsub (c : Ctl) (ty : Fmt) (sat : Bool) (d a b : Operand) : Goes s₀ (execIsub c ty sat d a b s) := by
  unfold execIsub
  exact h.after_run _ _ _ (fun v u hu => .done (hu.after_intLanes _ _ _ _ _))

theorem after_execImul (c : Ctl) (ty : Fmt) (sat : Bool) (d a b : Operand) : Goes s₀ (execImul c ty sat d a b s) := by
  unfold execImul
  exact h.after_run _ _ _ (fun v u hu => .done (hu.after_intLanes _ _ _ _ _))

theorem after_execImulh (c : Ctl) (ty : Fmt) (sat : Bool) (d a b : Operand) : Goes s₀ (execImulh c ty sat d a b s) := by
  unfold execImulh
  exact h.after_run _ _ _ (fun v u hu => .done (hu.after_intLanes _ _ _ _ _))

theorem after_execImad (c : Ctl) (ty : Fmt) (sat : Bool) (d a b e : Operand) : Goes s₀ (execImad c ty sat d a b e s) := by
  unfold execImad
  exact h.after_run _ _ _ (fun v u hu => .done (hu.after_intLanes _ _ _ _ _))

theorem after_execImadw (c : Ctl) (ty : Fmt) (sat : Bool) (d a b e : Operand) : Goes s₀ (execImadw c ty sat d a b e s) := by
  unfold execImadw
  exact h.after_run _ _ _ (fun v u hu => .done (hu.after_intLanes _ _ _ _ _))

theorem after_execIaddw (c : Ctl) (ty : Fmt) (sat : Bool) (d a b e : Operand) : Goes s₀ (execIaddw c ty sat d a b e s) := by
  unfold execIaddw
  exact h.after_run _ _ _ (fun v u hu => .done ((hu.after_bitLanes _ _ _ _).after_putPred _ _ _ _))

theorem after_execIsubw (c : Ctl) (ty : Fmt) (sat : Bool) (d a b e : Operand) : Goes s₀ (execIsubw c ty sat d a b e s) := by
  unfold execIsubw
  exact h.after_run _ _ _ (fun v u hu => .done ((hu.after_intLanes _ _ _ _ _).after_putPred _ _ _ _))

theorem after_execIabs (c : Ctl) (ty : Fmt) (sat : Bool) (d a : Operand) : Goes s₀ (execIabs c ty sat d a s) := by
  unfold execIabs
  exact h.after_run _ _ _ (fun v u hu => .done (hu.after_intLanes _ _ _ _ _))

theorem after_execIneg (c : Ctl) (ty : Fmt) (sat : Bool) (d a : Operand) : Goes s₀ (execIneg c ty sat d a s) := by
  unfold execIneg
  exact h.after_run _ _ _ (fun v u hu => .done (hu.after_intLanes _ _ _ _ _))

theorem after_execImin (c : Ctl) (ty : Fmt) (sat : Bool) (d a b : Operand) : Goes s₀ (execImin c ty sat d a b s) := by
  unfold execImin
  exact h.after_run _ _ _ (fun v u hu => .done (hu.after_intLanes _ _ _ _ _))

theorem after_execImax (c : Ctl) (ty : Fmt) (sat : Bool) (d a b : Operand) : Goes s₀ (execImax c ty sat d a b s) := by
  unfold execImax
  exact h.after_run _ _ _ (fun v u hu => .done (hu.after_intLanes _ _ _ _ _))

theorem after_execIclamp (c : Ctl) (ty : Fmt) (sat : Bool) (d a b e : Operand) : Goes s₀ (execIclamp c ty sat d a b e s) := by
  unfold execIclamp
  exact h.after_run _ _ _ (fun v u hu => .done (hu.after_intLanes _ _ _ _ _))

theorem after_execIand (c : Ctl) (w64 : Bool) (d a b : Operand) : Goes s₀ (execIand c w64 d a b s) := by
  unfold execIand
  exact h.after_run _ _ _ (fun v u hu => .done (hu.after_bitLanes _ _ _ _))

theorem after_execIor (c : Ctl) (w64 : Bool) (d a b : Operand) : Goes s₀ (execIor c w64 d a b s) := by
  unfold execIor
  exact h.after_run _ _ _ (fun v u hu => .done (hu.after_bitLanes _ _ _ _))

theorem after_execIxor (c : Ctl) (w64 : Bool) (d a b : Operand) : Goes s₀ (execIxor c w64 d a b s) := by
  unfold execIxor
  exact h.after_run _ _ _ (fun v u hu => .done (hu.after_bitLanes _ _ _ _))

theorem after_execAndn (c : Ctl) (w64 : Bool) (d a b : Operand) : Goes s₀ (execAndn c w64 d a b s) := by
  unfold execAndn
  exact h.after_run _ _ _ (fun v u hu => .done (hu.after_bitLanes _ _ _ _))

theorem after_execTri (c : Ctl) (tt : BitVec 8) (d a b e : Operand) : Goes s₀ (execTri c tt d a b e s) := by
  unfold execTri
  exact h.after_run _ _ _ (fun v u hu => .done (hu.after_bitLanes _ _ _ _))

theorem after_execShl (c : Ctl) (w64 clamp : Bool) (d a b : Operand) : Goes s₀ (execShl c w64 clamp d a b s) := by
  unfold execShl
  exact h.after_run _ _ _ (fun v u hu => .done (hu.after_bitLanes _ _ _ _))

theorem after_execShr (c : Ctl) (w64 clamp : Bool) (d a b : Operand) : Goes s₀ (execShr c w64 clamp d a b s) := by
  unfold execShr
  exact h.after_run _ _ _ (fun v u hu => .done (hu.after_bitLanes _ _ _ _))

theorem after_execSar (c : Ctl) (w64 clamp : Bool) (d a b : Operand) : Goes s₀ (execSar c w64 clamp d a b s) := by
  unfold execSar
  exact h.after_run _ _ _ (fun v u hu => .done (hu.after_intLanes _ _ _ _ _))

theorem after_execRotl (c : Ctl) (w64 : Bool) (d a b : Operand) : Goes s₀ (execRotl c w64 d a b s) := by
  unfold execRotl
  exact h.after_run _ _ _ (fun v u hu => .done (hu.after_bitLanes _ _ _ _))

theorem after_execFunsh (c : Ctl) (clamp right : Bool) (d a b e : Operand) : Goes s₀ (execFunsh c clamp right d a b e s) := by
  unfold execFunsh
  exact h.after_run _ _ _ (fun v u hu => .done (hu.after_bitLanes _ _ _ _))

theorem after_execPopc (c : Ctl) (w64 : Bool) (d a : Operand) : Goes s₀ (execPopc c w64 d a s) := by
  unfold execPopc
  exact h.after_run _ _ _ (fun v u hu => .done (hu.after_bitLanes _ _ _ _))

theorem after_execClz (c : Ctl) (w64 : Bool) (d a : Operand) : Goes s₀ (execClz c w64 d a s) := by
  unfold execClz
  exact h.after_run _ _ _ (fun v u hu => .done (hu.after_bitLanes _ _ _ _))

theorem after_execFfs (c : Ctl) (w64 : Bool) (d a : Operand) : Goes s₀ (execFfs c w64 d a s) := by
  unfold execFfs
  exact h.after_run _ _ _ (fun v u hu => .done (hu.after_bitLanes _ _ _ _))

theorem after_execBrev (c : Ctl) (w64 : Bool) (d a : Operand) : Goes s₀ (execBrev c w64 d a s) := by
  unfold execBrev
  exact h.after_run _ _ _ (fun v u hu => .done (hu.after_bitLanes _ _ _ _))

theorem after_execBfx (c : Ctl) (sx : Bool) (d a b e : Operand) : Goes s₀ (execBfx c sx d a b e s) := by
  unfold execBfx
  exact h.after_run _ _ _ (fun v u hu => .done (hu.after_intLanes _ _ _ _ _))

theorem after_execBfi (c : Ctl) (d a b e : Operand) : Goes s₀ (execBfi c d a b e s) := by
  unfold execBfi
  exact h.after_run _ _ _ (fun v u hu => .done (hu.after_bitLanes _ _ _ _))

theorem after_execIcmp (c : Ctl) (ty : Fmt) (cond : Cond) (d a b : Operand) : Goes s₀ (execIcmp c ty cond d a b s) := by
  unfold execIcmp
  exact h.after_run _ _ _ (fun v u hu => .done (hu.after_putPred _ _ _ _))

theorem after_execSel (c : Ctl) (w64 : Bool) (d a b e : Operand) : Goes s₀ (execSel c w64 d a b e s) := by
  unfold execSel
  exact h.after_run _ _ _ (fun v u hu => .done (hu.after_bitLanes _ _ _ _))

theorem after_execMov (c : Ctl) (w64 : Bool) (d a : Operand) : Goes s₀ (execMov c w64 d a s) := by
  unfold execMov
  exact h.after_run _ _ _ (fun v u hu => .done (hu.after_bitLanes _ _ _ _))

theorem after_execMovi (c : Ctl) (d : Operand) (imm : BitVec 32) : Goes s₀ (execMovi c d imm s) := by
  unfold execMovi
  exact h.after_run _ _ _ (fun v u hu => .done (hu.after_bitLanes _ _ _ _))

theorem after_execIaddi (c : Ctl) (ty : Fmt) (sat : Bool) (d a : Operand) (imm : BitVec 18) :
    Goes s₀ (execIaddi c ty sat d a imm s) := by
  unfold execIaddi
  exact h.after_run _ _ _ (fun v u hu => .done (hu.after_intLanes _ _ _ _ _))

theorem after_execImuli (c : Ctl) (ty : Fmt) (sat : Bool) (d a : Operand) (imm : BitVec 18) :
    Goes s₀ (execImuli c ty sat d a imm s) := by
  unfold execImuli
  exact h.after_run _ _ _ (fun v u hu => .done (hu.after_intLanes _ _ _ _ _))

theorem after_execAndi (c : Ctl) (d a : Operand) (imm : BitVec 18) : Goes s₀ (execAndi c d a imm s) := by
  unfold execAndi
  exact h.after_run _ _ _ (fun v u hu => .done (hu.after_bitLanes _ _ _ _))

theorem after_execOri (c : Ctl) (d a : Operand) (imm : BitVec 18) : Goes s₀ (execOri c d a imm s) := by
  unfold execOri
  exact h.after_run _ _ _ (fun v u hu => .done (hu.after_bitLanes _ _ _ _))

theorem after_execXori (c : Ctl) (d a : Operand) (imm : BitVec 18) : Goes s₀ (execXori c d a imm s) := by
  unfold execXori
  exact h.after_run _ _ _ (fun v u hu => .done (hu.after_bitLanes _ _ _ _))

theorem after_execIcmpi (c : Ctl) (ty : Fmt) (cond : Cond) (d a : Operand) (imm : BitVec 18) :
    Goes s₀ (execIcmpi c ty cond d a imm s) := by
  unfold execIcmpi
  exact h.after_run _ _ _ (fun v u hu => .done (hu.after_putPred _ _ _ _))

theorem after_execLea (c : Ctl) (sh : BitVec 3) (d a b : Operand) : Goes s₀ (execLea c sh d a b s) := by
  unfold execLea
  exact h.after_run _ _ _ (fun v u hu => .done (hu.after_bitLanes _ _ _ _))

theorem after_execLeaw (c : Ctl) (sh : BitVec 3) (d a b : Operand) : Goes s₀ (execLeaw c sh d a b s) := by
  unfold execLeaw
  exact h.after_run _ _ _ (fun v u hu => .done (hu.after_bitLanes _ _ _ _))

theorem after_execCvti (c : Ctl) (dty sty : Fmt) (sat : Bool) (d a : Operand) : Goes s₀ (execCvti c dty sty sat d a s) := by
  unfold execCvti
  exact h.after_run _ _ _ (fun v u hu => .done (hu.after_perLane _ _ _ _))

theorem after_execIdp4 (c : Ctl) (sa sb sat : Bool) (d a b e : Operand) : Goes s₀ (execIdp4 c sa sb sat d a b e s) := by
  unfold execIdp4
  exact h.after_run _ _ _ (fun v u hu => .done (hu.after_intLanes _ _ _ _ _))

theorem after_execIdp8 (c : Ctl) (sa sb sat : Bool) (d a b e : Operand) : Goes s₀ (execIdp8 c sa sb sat d a b e s) := by
  unfold execIdp8
  exact h.after_run _ _ _ (fun v u hu => .done (hu.after_intLanes _ _ _ _ _))

end Keeps
end Sys2Proof.Proofs
end

section
/-! PROOFS. The functions of Machine/Fp.lean keep memory's canonical form. -/
namespace Sys2Proof.Proofs
set_option Elab.async false

open Sys2Proof Sys2Proof.Machine Sys2Proof.Claims

namespace Keeps

variable {s₀ s t : State} (h : Keeps s₀ s)
include h

theorem after_execFadd (c : Ctl) (rm : Rnd) (ftz : Bool) (d a b : Operand) : Goes s₀ (execFadd c rm ftz d a b s) := by
  unfold execFadd
  exact h.after_run _ _ _ (fun v u hu => .done (hu.after_perLane _ _ _ _))

theorem after_execFsub (c : Ctl) (rm : Rnd) (ftz : Bool) (d a b : Operand) : Goes s₀ (execFsub c rm ftz d a b s) := by
  unfold execFsub
  exact h.after_run _ _ _ (fun v u hu => .done (hu.after_perLane _ _ _ _))

theorem after_execFmul (c : Ctl) (rm : Rnd) (ftz : Bool) (d a b : Operand) : Goes s₀ (execFmul c rm ftz d a b s) := by
  unfold execFmul
  exact h.after_run _ _ _ (fun v u hu => .done (hu.after_perLane _ _ _ _))

theorem after_execFfma (c : Ctl) (rm : Rnd) (ftz : Bool) (d a b e : Operand) : Goes s₀ (execFfma c rm ftz d a b e s) := by
  unfold execFfma
  exact h.after_run _ _ _ (fun v u hu => .done (hu.after_perLane _ _ _ _))

theorem after_execFmin (c : Ctl) (ftz : Bool) (d a b : Operand) : Goes s₀ (execFmin c ftz d a b s) := by
  unfold execFmin
  exact h.after_run _ _ _ (fun v u hu => .done (hu.after_perLane _ _ _ _))

theorem after_execFmax (c : Ctl) (ftz : Bool) (d a b : Operand) : Goes s₀ (execFmax c ftz d a b s) := by
  unfold execFmax
  exact h.after_run _ _ _ (fun v u hu => .done (hu.after_perLane _ _ _ _))

theorem after_execFcmp (c : Ctl) (ty : Fmt) (cond : Cond) (d a b : Operand) : Goes s₀ (execFcmp c ty cond d a b s) := by
  unfold execFcmp
  exact h.after_run _ _ _ (fun v u hu => .done ((hu.after_putPred _ _ _ _).after_raiseFlags _ _))

theorem after_execFclass (c : Ctl) (d a : Operand) : Goes s₀ (execFclass c d a s) := by
  unfold execFclass
  exact h.after_run _ _ _ (fun v u hu => .done (hu.after_bitLanes _ _ _ _))

theorem after_execFrnd (c : Ctl) (rm : Rnd) (ftz : Bool) (d a : Operand) : Goes s₀ (execFrnd c rm ftz d a s) := by
  unfold execFrnd
  exact h.after_run _ _ _ (fun v u hu => .done (hu.after_perLane _ _ _ _))

theorem after_execFscale (c : Ctl) (rm : Rnd) (ftz : Bool) (d a b : Operand) : Goes s₀ (execFscale c rm ftz d a b s) := by
  unfold execFscale
  exact h.after_run _ _ _ (fun v u hu => .done (hu.after_perLane _ _ _ _))

theorem after_execFcvt (c : Ctl) (df sf : Fmt) (rm : Rnd) (sat ftz : Bool) (d a : Operand) :
    Goes s₀ (execFcvt c df sf rm sat ftz d a s) := by
  unfold execFcvt
  exact h.after_run _ _ _ (fun v u hu => .done (hu.after_perLane _ _ _ _))

theorem after_execFtoi (c : Ctl) (ty : Fmt) (rm : Rnd) (ftz : Bool) (d a : Operand) : Goes s₀ (execFtoi c ty rm ftz d a s) := by
  unfold execFtoi
  exact h.after_run _ _ _ (fun v u hu => .done (hu.after_perLane _ _ _ _))

theorem after_execItof (c : Ctl) (ty : Fmt) (rm : Rnd) (ftz : Bool) (d a : Operand) : Goes s₀ (execItof c ty rm ftz d a s) := by
  unfold execItof
  exact h.after_run _ _ _ (fun v u hu => .done (hu.after_perLane _ _ _ _))

theorem after_sfuPend (v : View) (c : Ctl) (d : Operand) (f : Nat → Nat × Flags) : Keeps s₀ (sfuPend v s c d f) := by
  unfold sfuPend
  dsimp only
  exact (h.after_pendResult _ _ _ _ _ _ _).after_setStrand _ _

theorem after_sfuRun (v : View) (c : Ctl) (d : Operand) (f : Nat → Nat × Flags) : KeepsRes s₀ (sfuRun v s c d f) := by
  unfold sfuRun
  split
  · exact .stay h
  · exact .done (h.after_sfuPend _ _ _ _)

theorem after_execFrcp (c : Ctl) (ftz : Bool) (d a : Operand) : Goes s₀ (execFrcp c ftz d a s) := by
  unfold execFrcp
  exact h.after_run _ _ _ (fun v u hu => hu.after_sfuRun _ _ _ _)

theorem after_execFrsq (c : Ctl) (ftz : Bool) (d a : Operand) : Goes s₀ (execFrsq c ftz d a s) := by
  unfold execFrsq
  exact h.after_run _ _ _ (fun v u hu => hu.after_sfuRun _ _ _ _)

theorem after_execFsqrt (c : Ctl) (ftz : Bool) (d a : Operand) : Goes s₀ (execFsqrt c ftz d a s) := by
  unfold execFsqrt
  exact h.after_run _ _ _ (fun v u hu => hu.after_sfuRun _ _ _ _)

theorem after_execFex2 (c : Ctl) (ftz : Bool) (d a : Operand) : Goes s₀ (execFex2 c ftz d a s) := by
  unfold execFex2
  exact h.after_run _ _ _ (fun v u hu => hu.after_sfuRun _ _ _ _)

theorem after_execFlg2 (c : Ctl) (ftz : Bool) (d a : Operand) : Goes s₀ (execFlg2 c ftz d a s) := by
  unfold execFlg2
  exact h.after_run _ _ _ (fun v u hu => hu.after_sfuRun _ _ _ _)

theorem after_execFsin (c : Ctl) (ftz : Bool) (d a : Operand) : Goes s₀ (execFsin c ftz d a s) := by
  unfold execFsin
  exact h.after_run _ _ _ (fun v u hu => hu.after_sfuRun _ _ _ _)

theorem after_execFcos (c : Ctl) (ftz : Bool) (d a : Operand) : Goes s₀ (execFcos c ftz d a s) := by
  unfold execFcos
  exact h.after_run _ _ _ (fun v u hu => hu.after_sfuRun _ _ _ _)

theorem after_execFtanh (c : Ctl) (ftz : Bool) (d a : Operand) : Goes s₀ (execFtanh c ftz d a s) := by
  unfold execFtanh
  exact h.after_run _ _ _ (fun v u hu => hu.after_sfuRun _ _ _ _)

theorem after_halfLanes (v : View) (d : Operand) (f : Nat → Nat → Nat × Flags) : Keeps s₀ (halfLanes v s d f) := by
  unfold halfLanes
  exact h.after_perLane _ _ _ _

theorem after_execHadd2 (c : Ctl) (bf : Bool) (rm : Rnd) (d a b : Operand) : Goes s₀ (execHadd2 c bf rm d a b s) := by
  unfold execHadd2
  exact h.after_run _ _ _ (fun v u hu => .done (hu.after_halfLanes _ _ _))

theorem after_execHmul2 (c : Ctl) (bf : Bool) (rm : Rnd) (d a b : Operand) : Goes s₀ (execHmul2 c bf rm d a b s) := by
  unfold execHmul2
  exact h.after_run _ _ _ (fun v u hu => .done (hu.after_halfLanes _ _ _))

theorem after_execHfma2 (c : Ctl) (bf : Bool) (rm : Rnd) (d a b e : Operand) : Goes s₀ (execHfma2 c bf rm d a b e s) := by
  unfold execHfma2
  exact h.after_run _ _ _ (fun v u hu => .done (hu.after_halfLanes _ _ _))

theorem after_execHmin2 (c : Ctl) (bf : Bool) (d a b : Operand) : Goes s₀ (execHmin2 c bf d a b s) := by
  unfold execHmin2
  exact h.after_run _ _ _ (fun v u hu => .done (hu.after_halfLanes _ _ _))

theorem after_execHmax2 (c : Ctl) (bf : Bool) (d a b : Operand) : Goes s₀ (execHmax2 c bf d a b s) := by
  unfold execHmax2
  exact h.after_run _ _ _ (fun v u hu => .done (hu.after_halfLanes _ _ _))

theorem after_execFdot2 (c : Ctl) (bf : Bool) (rm : Rnd) (d a b e : Operand) : Goes s₀ (execFdot2 c bf rm d a b e s) := by
  unfold execFdot2
  exact h.after_run _ _ _ (fun v u hu => .done (hu.after_perLane _ _ _ _))

theorem after_execPack (c : Ctl) (ty : Fmt) (pos : BitVec 3) (d a b : Operand) : Goes s₀ (execPack c ty pos d a b s) := by
  unfold execPack
  exact h.after_run _ _ _ (fun v u hu => .done (hu.after_bitLanes _ _ _ _))

theorem after_execUnpack (c : Ctl) (ty : Fmt) (pos : BitVec 3) (lut : Option (BitVec 2 × Bool)) (d a : Operand) :
    Goes s₀ (execUnpack c ty pos lut d a s) := by
  unfold execUnpack
  exact h.after_run _ _ _ (fun v u hu => .done (hu.after_perLane _ _ _ _))

theorem after_execFstat (c : Ctl) (d : Operand) : Goes s₀ (execFstat c d s) := by
  unfold execFstat
  refine h.after_run _ _ _ (fun v u hu => ?_)
  split
  · exact .done hu
  · split
    · exact .stay hu
    · exact .done ((hu.after_setStrand _ _).after_putAll _ _ _ _)

end Keeps
end Sys2Proof.Proofs
end

section
/-! PROOFS. The functions of Machine/Tensor.lean keep memory's canonical form. -/
namespace Sys2Proof.Proofs
set_option Elab.async false

open Sys2Proof Sys2Proof.Machine Sys2Proof.Claims

namespace Keeps

variable {s₀ s t : State} (h : Keeps s₀ s)
include h

theorem after_installTid (ctx n : Nat) (x : BitVec 512) : Keeps s₀ (installTid s ctx n x) := by
  unfold installTid
  exact h.after_setCtx _ _

theorem after_enterCascade (c : Nat) (x : CascadeOp) : Keeps s₀ (enterCascade s c x) := by
  unfold enterCascade
  exact h.after_setCore _ _

end Keeps
end Sys2Proof.Proofs
end

section
/-! PROOFS. The functions of Machine/Gang.lean keep memory's canonical form. -/
namespace Sys2Proof.Proofs
set_option Elab.async false

open Sys2Proof Sys2Proof.Machine Sys2Proof.Claims

namespace Keeps

variable {s₀ s t : State} (h : Keeps s₀ s)
include h

theorem after_writeGang (c slot : Nat) (x : BitVec 128) : Keeps s₀ (writeGang s c slot x) := by
  unfold writeGang
  exact Keeps.ite (Keeps.foldl (fun u x hu => hu.after_setStrandAt _ _ _) _ (h.after_setStrandAt _ _ _))
      (h.after_setStrandAt _ _ _)

theorem after_setArrival (a : GangArrival) (stage : Nat) : Keeps s₀ (setArrival s a stage) := by
  unfold setArrival
  exact h.after_setSplit _ _

theorem after_tellArrived (x : Cuff) (stage : Nat) : Keeps s₀ (tellArrived s x stage) := by
  unfold tellArrived
  exact Keeps.foldl (fun u x hu => hu.after_setArrival _ _) _ h

theorem after_setCuffs (k : Nat) (xs : List Cuff) : Keeps s₀ (setCuffs s k xs) := by
  unfold setCuffs
  exact h.after_setClu _ _

theorem after_retimeCuffs (k : Nat) : Keeps s₀ (retimeCuffs s k) := by
  unfold retimeCuffs
  exact h.after_setCuffs _ _

theorem after_runGang (x : Cuff) : Keeps s₀ (runGang s x) := by
  unfold runGang
  split
  · next heq =>
      refine Keeps.foldl (fun _ _ hp => ?_) _ (h.after_fresh.of_eq heq)
      refine Keeps.after_setArrival ?_ _ _
      split
      · exact hp.after_enterCascade _ _
      · exact hp

theorem after_arriveGang (k ctx : Nat) (call : GangCall) (a : GangArrival) : Keeps s₀ (arriveGang s k ctx call a) := by
  unfold arriveGang
  dsimp only
  split
  · split
    · exact h
    · exact Keeps.ite ((h.after_setCuffs _ _).after_setArrival _ _)
          (Keeps.ite (((h.after_tellArrived _ _).after_setCuffs _ _).after_setArrival _ _)
          (Keeps.ite ((h.after_setCuffs _ _).after_runGang _) ((h.after_setCuffs _ _).after_setArrival _ _)))
  · exact Keeps.ite (h.after_setArrival _ _) ((h.after_setCuffs _ _).after_setArrival _ _)

theorem after_gangLeft (c slot : Nat) : Keeps s₀ (gangLeft s c slot) := by
  unfold gangLeft
  exact Keeps.foldl (fun u x hu => hu.after_tellArrived _ _) _ (h.after_setCuffs _ _)

theorem after_withdrawGang (c slot : Nat) : Keeps s₀ (withdrawGang s c slot) := by
  unfold withdrawGang
  exact h.after_setCuffs _ _

theorem after_execGangTimeout : Goes s₀ (execGangTimeout s) := by
  unfold execGangTimeout
  dsimp only
  split
  · exact .next h
  · split
    · exact .next h
    · exact .next ((h.after_setCuffs _ _).after_tellArrived _ _)

end Keeps
end Sys2Proof.Proofs
end

section
/-! PROOFS. The functions of Machine/Lane.lean keep memory's canonical form. -/
namespace Sys2Proof.Proofs
set_option Elab.async false

open Sys2Proof Sys2Proof.Machine Sys2Proof.Claims

namespace Keeps

variable {s₀ s t : State} (h : Keeps s₀ s)
include h

theorem after_execPlop (c : Ctl) (tt : BitVec 8) (d a b e : Operand) : Goes s₀ (execPlop c tt d a b e s) := by
  unfold execPlop
  exact h.after_run _ _ _ (fun v u hu => .done (hu.after_putPred _ _ _ _))

theorem after_putTriple (r : SplitRef) (o : Operand) (x : LaneMask) : Keeps s₀ (putTriple s r o x) := by
  unfold putTriple
  split
  · exact Keeps.foldl (fun u x hu => hu.after_setStrand _ _) _ h
  · exact h

theorem after_execPmov (c : Ctl) (d a : Operand) : Goes s₀ (execPmov c d a s) := by
  unfold execPmov
  refine h.after_run _ _ _ (fun v u hu => ?_)
  split
  · exact .done (hu.after_putPred _ _ _ _)
  · exact .done (Keeps.ite hu (hu.after_putTriple _ _ _))

theorem after_execVote (c : Ctl) (form : VoteForm) (d a : Operand) : Goes s₀ (execVote c form d a s) := by
  unfold execVote
  refine h.after_run _ _ _ (fun v u hu => ?_)
  split
  · exact .done hu
  · split
    · exact .done (hu.after_putPred _ _ _ _)
    · exact .done (hu.after_putPred _ _ _ _)
    · exact .done (hu.after_putPred _ _ _ _)
    · exact .done (hu.after_putTriple _ _ _)
    · exact .done (hu.after_putAll _ _ _ _)

theorem after_execElect (c : Ctl) (d : Operand) : Goes s₀ (execElect c d s) := by
  unfold execElect
  exact h.after_run _ _ _ (fun v u hu => .done (hu.after_putPred _ _ _ _))

theorem after_execShfl (c : Ctl) (form : ShflForm) (d a b : Operand) : Goes s₀ (execShfl c form d a b s) := by
  unfold execShfl
  exact h.after_run _ _ _ (fun v u hu => .done (hu.after_pend _ _ _ _ _ _))

theorem after_execPerm (c : Ctl) (d a b : Operand) : Goes s₀ (execPerm c d a b s) := by
  unfold execPerm
  refine h.after_run _ _ _ (fun v u hu => ?_)
  split
  · dsimp only
    exact .done (hu.after_pend _ _ _ _ _ _)
  · dsimp only
    exact .done (hu.after_pend _ _ _ _ _ _)

theorem after_execBcast (c : Ctl) (d a b : Operand) : Goes s₀ (execBcast c d a b s) := by
  unfold execBcast
  refine h.after_run _ _ _ (fun v u hu => ?_)
  dsimp only
  exact .done (hu.after_pend _ _ _ _ _ _)

theorem after_execLred (c : Ctl) (op : ROp) (ty : RTy) (ftz : Bool) (d a : Operand) : Goes s₀ (execLred c op ty ftz d a s) := by
  unfold execLred
  refine h.after_run _ _ _ (fun v u hu => ?_)
  split
  · exact .done (hu.after_pend _ _ _ _ _ _)
  · exact .done (hu.after_pend _ _ _ _ _ _)

theorem after_execLscan (c : Ctl) (op : ROp) (ty : RTy) (ftz excl : Bool) (d a : Operand) :
    Goes s₀ (execLscan c op ty ftz excl d a s) := by
  unfold execLscan
  exact h.after_run _ _ _ (fun v u hu => .done (hu.after_pend _ _ _ _ _ _))

theorem after_execMatchL (c : Ctl) (w64 rank : Bool) (d a : Operand) : Goes s₀ (execMatchL c w64 rank d a s) := by
  unfold execMatchL
  exact h.after_run _ _ _ (fun v u hu => .done (hu.after_pend _ _ _ _ _ _))

end Keeps
end Sys2Proof.Proofs
end

section
/-! PROOFS. The functions of Machine/Wake.lean keep memory's canonical form. -/
namespace Sys2Proof.Proofs
set_option Elab.async false

open Sys2Proof Sys2Proof.Machine Sys2Proof.Claims

namespace Keeps

variable {s₀ s t : State} (h : Keeps s₀ s)
include h

theorem after_wakeSplit (r : SplitRef) : Keeps s₀ (wakeSplit s r) := by
  unfold wakeSplit
  dsimp only
  split
  · exact h
  · split
    · exact h.after_setSplit _ _
    · exact Keeps.ite ((h.after_setSplit _ _).after_reconvBoundary _ _) (h.after_setSplit _ _)

theorem after_beginWait (v : View) (k : WaitKind) : Keeps s₀ (beginWait s v k) := by
  unfold beginWait
  exact h.after_setSplit _ _

theorem after_endWait (r : SplitRef) (w : Wait) : Keeps s₀ (endWait s r w) := by
  unfold endWait
  exact (h.after_setSplit _ _).after_wakeSplit _

theorem after_changeWait (r : SplitRef) (w : Wait) (k : WaitKind) : Keeps s₀ (changeWait s r w k) := by
  unfold changeWait
  exact h.after_setSplit _ _

theorem after_failWait (r : SplitRef) (w : Wait) (t' : TrapRec) : Keeps s₀ (failWait s r w t') := by
  unfold failWait
  exact (h.after_setSplit _ _).after_wakeSplit _

theorem after_putAfter (r : SplitRef) (w : Wait) (d : Operand) (x : Word) : Keeps s₀ (putAfter s r w d x) := by
  unfold putAfter
  split
  · exact h
  · exact h.after_putAll _ _ _ _

theorem after_handleOver (r : SplitRef) (w : Wait) (h' : DWord) (acq : Bool) (nt : Option Operand) (status : Nat) :
    Keeps s₀ (handleOver s r w h' acq nt status) := by
  unfold handleOver
  split
  · split
    · exact Keeps.ite ((h.after_acquire _ _).after_failWait _ _ _) ((h.after_acquire _ _).after_endWait _ _)
    · exact ((h.after_acquire _ _).after_putAfter _ _ _ _).after_endWait _ _
  · split
    · exact Keeps.ite (h.after_failWait _ _ _) (h.after_endWait _ _)
    · exact (h.after_putAfter _ _ _ _).after_endWait _ _

theorem after_promiseOver (r : SplitRef) (w : Wait) (h' : DWord) : Keeps s₀ (promiseOver s r w h') := by
  unfold promiseOver
  exact Keeps.ite (h.after_handleOver _ _ _ _ _ _) (h.after_failWait _ _ _)

theorem after_setBcbRanges (key : Nat) (x : BcbRanges) : Keeps s₀ (setBcbRanges s key x) := by
  unfold setBcbRanges
  exact h.after_setClu _ _

theorem after_wakeBcb (key : Nat) (parity : Option Bool) (ranges : Option (List (Nat × Nat))) :
    Keeps s₀ (wakeBcb s key parity ranges) := by
  unfold wakeBcb
  exact h.same

theorem after_settleBcb (key : Nat) (b : Bcb) : Keeps s₀ (settleBcb s key b) := by
  unfold settleBcb
  split
  · exact ((h.after_putBytes _ _).after_setBcbRanges _ _).after_wakeBcb _ _ _
  · exact h.after_putBytes _ _

theorem after_bcbInit (key n : Nat) : Keeps s₀ (bcbInit s key n) := by
  unfold bcbInit
  exact ((h.after_setBcbRanges _ _).after_wakeBcb _ _ _).after_settleBcb _ _

theorem after_bcbExpect (key n : Nat) : Keeps s₀ (bcbExpect s key n) := by
  unfold bcbExpect
  exact h.after_settleBcb _ _

theorem after_bcbArrive (key n : Nat) : Keeps s₀ (bcbArrive s key n) := by
  unfold bcbArrive
  exact h.after_settleBcb _ _

theorem after_bcbCount (key n : Nat) (ranges : List (Nat × Nat)) : Keeps s₀ (bcbCount s key n ranges) := by
  unfold bcbCount
  split
  · exact (h.after_setBcbRanges _ _).after_settleBcb _ _

theorem after_sendBcbWait (r : SplitRef) (w : Wait) (key : Nat) (parity : Bool) : Keeps s₀ (sendBcbWait s r w key parity) := by
  unfold sendBcbWait
  exact Keeps.ite ((h.after_dropSnap _ _).after_changeWait _ _ _)
      (Keeps.ite ((h.after_dropSnap _ _).after_changeWait _ _ _) ((h.after_dropSnap _ _).after_changeWait _ _ _))

theorem after_endGrowth (r : SplitRef) (n : Nat) : Keeps s₀ (endGrowth s r n) := by
  unfold endGrowth
  exact Keeps.foldl (fun u x hu => hu.after_endWait _ _) _ h

theorem after_grantGrowth (c slot n : Nat) : Keeps s₀ (grantGrowth s c slot n) := by
  unfold grantGrowth
  exact Keeps.foldl (fun u x hu => hu.after_endGrowth _ _) _ (h.after_setStrandAt _ _ _)

theorem after_grantOldest (c : Nat) : KeepsOpt s₀ (grantOldest s c) := by
  unfold grantOldest
  split
  · exact .none
  · next st _ _ =>
      cases st.growth with
      | none => exact .none
      | some n =>
        dsimp only [Option.bind_some]
        split
        · exact .some (h.after_grantGrowth _ _ _)
        · exact .none

theorem after_grantSleepers (c fuel : Nat) : Keeps s₀ (grantSleepers c fuel s) := by
  induction fuel generalizing s with
  | zero => exact h
  | succ fuel ih =>
    unfold grantSleepers
    split
    · exact h
    · next heq => exact ih ((h.after_grantOldest _).of_some heq)

theorem after_settleGrowth (c : Nat) : Keeps s₀ (settleGrowth s c) := by
  unfold settleGrowth
  exact h.after_grantSleepers _ _

theorem after_pollWait (r : SplitRef) (w : Wait) : Keeps s₀ (pollWait s r w) := by
  unfold pollWait
  split
  · exact Keeps.ite h (h.after_handleOver _ _ _ _ _ _)
  · exact Keeps.ite (h.after_promiseOver _ _ _) h
  · split
    · exact ((h.after_dropSnap _ _).after_countedAcquire _ _).after_endWait _ _
    · exact Keeps.ite h (h.after_sendBcbWait _ _ _ _)
    · exact h
  · exact Keeps.ite h (((h.after_acquire _ _).after_setStrand _ _).after_endWait _ _)
  · exact Keeps.ite (h.after_grantGrowth _ _ _) (h.after_settleGrowth _)
  · exact Keeps.ite (h.after_endWait _ _) h
  · refine Keeps.after_endWait ?_ _ _
    split
    · refine Keeps.after_putAfter ?_ _ _ _ _
      split
      · exact h.after_acquire _ _
      · exact h
    · split
      · exact h.after_acquire _ _
      · exact h
  · exact h

theorem after_pollWaits (r : SplitRef) : Keeps s₀ (pollWaits s r) := by
  unfold pollWaits
  exact Keeps.foldl (fun u x hu => hu.after_pollWait _ _) _ h

theorem after_execPromiseTimeout : Goes s₀ (execPromiseTimeout s) := by
  unfold execPromiseTimeout
  dsimp only
  split
  · exact .next h
  · split
    · split
      · exact .next (h.after_promiseOver _ _ _)
      · exact .next h
    · exact .next h

theorem after_putHandle (r : SplitRef) (o : Operand) (x : DWord) : Keeps s₀ (putHandle s r o x) := by
  unfold putHandle
  split
  · exact h.after_setStrand _ _
  · exact h

theorem after_execHwait (c : Ctl) (acq : Bool) (nt : Option Operand) (a : Operand) : Goes s₀ (execHwait c acq nt a s) := by
  unfold execHwait
  exact h.after_run _ _ _ (fun v u hu => .done (Keeps.ite hu (hu.after_beginWait _ _)))

theorem after_execHtest (c : Ctl) (d a : Operand) : Goes s₀ (execHtest c d a s) := by
  unfold execHtest
  exact h.after_run _ _ _ (fun v u hu => .done (Keeps.ite hu (hu.after_putAll _ _ _ _)))

theorem after_cancelHandle (ctx : Nat) (h' : DWord) : Keeps s₀ (cancelHandle s ctx h') := by
  unfold cancelHandle
  exact Keeps.ite h.same h

theorem after_execHcancel (c : Ctl) (a : Operand) : Goes s₀ (execHcancel c a s) := by
  unfold execHcancel
  exact h.after_run _ _ _ (fun v u hu => .done (Keeps.ite hu (hu.after_cancelHandle _ _)))

theorem after_execHmov (c : Ctl) (toH : Bool) (d a : Operand) : Goes s₀ (execHmov c toH d a s) := by
  unfold execHmov
  exact h.after_run _ _ _ (fun v u hu => .done (Keeps.ite hu
      (Keeps.ite (hu.after_putHandle _ _ _) (hu.after_putLanes64 _ _ _ _))))

theorem after_execHprom (c : Ctl) (a : Operand) : Goes s₀ (execHprom c a s) := by
  unfold execHprom
  refine h.after_run _ _ _ (fun v u hu => ?_)
  split
  · dsimp only
    exact .done hu
  · dsimp only
    split
    · exact .done (hu.after_beginWait _ _)
    · split
      · exact .trap hu
      · split
        · exact .trap hu
        · exact .done hu

theorem after_withBcb (v : View) (sg : SegIx) (writes : Bool) (a : Operand) (k : Machine.State → Nat → Res)
    (hk : ∀ u x, Keeps s₀ u → KeepsRes s₀ (k u x)) :
    KeepsRes s₀ (withBcb v s sg writes a k) := by
  unfold withBcb
  split
  · exact .done h
  · refine h.after_withAccess _ _ _ (fun ps => ?_)
    split
    · exact .done h
    · exact h.after_drainThen _ _ _ _ (fun u hu => hk _ _ hu)

theorem after_bcbReply (v : View) (key : Nat) : Keeps s₀ (bcbReply v s key) := by
  unfold bcbReply
  exact h.after_dropSnap _ _

theorem after_ackThen (v : View) (key : Nat) (act : Machine.State → Machine.State) (hact : ∀ u, Keeps s₀ u → Keeps s₀ (act u)) :
    KeepsRes s₀ (ackThen v s key act) := by
  unfold ackThen
  dsimp only
  split
  · exact .stay ((hact _ h).after_setProg _ _)
  · exact .done (h.after_bcbReply _ _)

theorem after_execBcbInit (c : Ctl) (sg : SegIx) (a b : Operand) : Goes s₀ (execBcbInit c sg a b s) := by
  unfold execBcbInit
  exact h.after_run _ _ _ (fun v u hu1 => hu1.after_withBcb _ _ _ _ _
      (fun u key hu2 => hu2.after_ackThen _ _ _ (fun u hu3 => hu3.after_bcbInit _ _)))

theorem after_execBcbExp (c : Ctl) (sg : SegIx) (a b : Operand) : Goes s₀ (execBcbExp c sg a b s) := by
  unfold execBcbExp
  exact h.after_run _ _ _ (fun v u hu1 => hu1.after_withBcb _ _ _ _ _
      (fun u key hu2 => hu2.after_ackThen _ _ _ (fun u hu3 => hu3.after_bcbExpect _ _)))

theorem after_execBcbArr (c : Ctl) (sg : SegIx) (a b : Operand) : Goes s₀ (execBcbArr c sg a b s) := by
  unfold execBcbArr
  exact h.after_run _ _ _ (fun v u hu1 => hu1.after_withBcb _ _ _ _ _
      (fun u key hu2 => hu2.after_releaseThen _ _ _ _ (fun u hu3 => .done ((hu3.after_bcbArrive _ _).after_bcbReply _ _))))

theorem after_execBcbWait (c : Ctl) (sg : SegIx) (a b : Operand) : Goes s₀ (execBcbWait c sg a b s) := by
  unfold execBcbWait
  refine h.after_run _ _ _ (fun v u hu1 => ?_)
  refine hu1.after_withBcb _ _ _ _ _ (fun u key hu2 => ?_)
  dsimp only
  split
  · exact .done ((hu2.after_beginWait _ _).after_sendBcbWait _ _ _ _)
  · exact .done (hu2.after_beginWait _ _)

theorem after_execBcbTest (c : Ctl) (sg : SegIx) (d a b : Operand) : Goes s₀ (execBcbTest c sg d a b s) := by
  unfold execBcbTest
  refine h.after_run _ _ _ (fun v u hu1 => ?_)
  refine hu1.after_withBcb _ _ _ _ _ (fun u key hu2 => ?_)
  dsimp only
  exact .done ((Keeps.ite ((hu2.after_bcbReply _ _).after_countedAcquire _ _) (hu2.after_bcbReply _ _)).after_putAll _ _ _ _)

end Keeps
end Sys2Proof.Proofs
end

section
/-! PROOFS. The functions of Machine/Sched.lean keep memory's canonical form. -/
namespace Sys2Proof.Proofs
set_option Elab.async false

open Sys2Proof Sys2Proof.Machine Sys2Proof.Claims

namespace Keeps

variable {s₀ s t : State} (h : Keeps s₀ s)
include h

theorem after_fetchWord (c x va : Nat) : Keeps s₀ (fetchWord s c x va).1 := by
  unfold fetchWord
  split
  · exact h
  · split
    · exact h.after_dropFaults _ _ _
    · exact h.after_askPages _ _ _
    · split
      · dsimp only
        exact h
      · dsimp only
        split
        · exact h
        · split
          · next heq => exact ((h.after_readHomeLine _ _ _).of_eq heq).after_setCore _ _
          · next heq => exact (h.after_readHomeLine _ _ _).of_eq heq
          · next heq1 => exact (h.after_readHomeLine _ _ _).of_eq heq1

theorem after_fetchWords (c x va fuel : Nat) : Keeps s₀ (fetchWords s c x va fuel).1 := by
  induction fuel generalizing s c x va with
  | zero => exact h
  | succ fuel ih =>
    unfold fetchWords
    split
    · next heq => exact (h.after_fetchWord _ _ _).of_eq heq
    · next heq =>
        split
        · next heq1 => exact (ih ((h.after_fetchWord _ _ _).of_eq heq) _ _ _).of_eq heq1
        · next heq1 => exact (ih ((h.after_fetchWord _ _ _).of_eq heq) _ _ _).of_eq heq1

theorem after_fetchClause (c x : Nat) (pc : BitVec 48) : Keeps s₀ (fetchClause s c x pc).1 := by
  unfold fetchClause
  split
  · exact h
  · split
    · next heq => exact (h.after_fetchWord _ _ _).of_eq heq
    · next heq =>
        split
        · exact (h.after_fetchWord _ _ _).of_eq heq
        · split
          · next heq1 => exact (((h.after_fetchWord _ _ _).of_eq heq).after_fetchWords _ _ _ _).of_eq heq1
          · next heq1 =>
              split
              · exact (((h.after_fetchWord _ _ _).of_eq heq).after_fetchWords _ _ _ _).of_eq heq1
              · exact (((h.after_fetchWord _ _ _).of_eq heq).after_fetchWords _ _ _ _).of_eq heq1

theorem after_boundaryTrap (r : SplitRef) (w : WaitingTrap) : Keeps s₀ (boundaryTrap s r w) := by
  unfold boundaryTrap
  split
  · exact (h.after_setSplit _ _).after_takeTrap _ _ _ _ _
  · exact (h.after_setSplit _ _).after_takeTrap _ _ _ _ _

theorem after_holdHeader (r : SplitRef) (why : Nat) : Keeps s₀ (holdHeader s r why) := by
  unfold holdHeader
  exact h.after_setSplit _ _

theorem after_lookAt (r : SplitRef) : Keeps s₀ (lookAt s r).1 := by
  unfold lookAt
  split
  · dsimp only
    split
    · exact h
    · split
      · exact h
      · split
        · split
          · exact h.after_holdHeader _ _
          · split
            · exact h.after_holdHeader _ _
            · exact h.after_boundaryTrap _ _
        · split
          · next heq => exact ((h.after_fetchClause _ _ _).of_eq heq).after_holdHeader _ _
          · next heq =>
              split
              · exact ((h.after_fetchClause _ _ _).of_eq heq).after_holdHeader _ _
              · exact ((h.after_fetchClause _ _ _).of_eq heq).after_takeTrap _ _ _ _ _
          · next heq =>
              split
              · exact ((h.after_fetchClause _ _ _).of_eq heq).after_holdHeader _ _
              · split
                · exact ((h.after_fetchClause _ _ _).of_eq heq).after_holdHeader _ _
                · exact ((h.after_fetchClause _ _ _).of_eq heq).after_setSplit _ _
  · dsimp only
    split
    · exact h
    · split
      · exact h.after_pollWaits _
      · split
        · split
          · exact (h.after_pollWaits _).after_holdHeader _ _
          · split
            · exact (h.after_pollWaits _).after_holdHeader _ _
            · exact (h.after_pollWaits _).after_boundaryTrap _ _
        · split
          · next heq => exact (((h.after_pollWaits _).after_fetchClause _ _ _).of_eq heq).after_holdHeader _ _
          · next heq =>
              split
              · exact (((h.after_pollWaits _).after_fetchClause _ _ _).of_eq heq).after_holdHeader _ _
              · exact (((h.after_pollWaits _).after_fetchClause _ _ _).of_eq heq).after_takeTrap _ _ _ _ _
          · next heq =>
              split
              · exact (((h.after_pollWaits _).after_fetchClause _ _ _).of_eq heq).after_holdHeader _ _
              · split
                · exact (((h.after_pollWaits _).after_fetchClause _ _ _).of_eq heq).after_holdHeader _ _
                · exact (((h.after_pollWaits _).after_fetchClause _ _ _).of_eq heq).after_setSplit _ _

theorem after_eligible (xs : List SplitRef) : Keeps s₀ (eligible s xs).1 := by
  induction xs generalizing s with
  | nil => exact h
  | cons head tail ih =>
    unfold eligible
    split
    · next heq => exact ih ((h.after_lookAt _).of_eq heq)
    · next heq =>
        split
        · next heq1 => exact (ih ((h.after_lookAt _).of_eq heq)).of_eq heq1

theorem after_startClause (r : SplitRef) (h' : BitVec 64) (ws : List (BitVec 64)) : Keeps s₀ (startClause s r h' ws) := by
  unfold startClause
  dsimp only
  split
  · exact h.after_setStrand _ _
  · split
    · exact (h.after_setStrand _ _).after_resumeAt _ _ _
    · exact (h.after_setStrand _ _).after_endClause _ _

theorem after_execClauseIssue : Goes s₀ (execClauseIssue s) := by
  unfold execClauseIssue
  dsimp only
  split
  · exact .next h
  · split
    · exact .next (h.after_eligible _)
    · exact .next (((Keeps.foldl (fun u x hu => Keeps.ite hu (hu.after_holdHeader _ _)) _ (h.after_eligible _)).after_setCore _
          _).after_startClause _ _ _)

theorem after_execSleepWake : Goes s₀ (execSleepWake s) := by
  unfold execSleepWake
  dsimp only
  split
  · exact .next h
  · split
    · split
      · exact .next h
      · exact .next (h.after_endWait _ _)
    · exact .next h

end Keeps
end Sys2Proof.Proofs
end

section
/-! PROOFS. The functions of Machine/Sect.lean keep memory's canonical form. -/
namespace Sys2Proof.Proofs
set_option Elab.async false

open Sys2Proof Sys2Proof.Machine Sys2Proof.Claims

namespace Keeps

variable {s₀ s t : State} (h : Keeps s₀ s)
include h

theorem after_spillAt (ctx ix : Nat) : Keeps s₀ (spillAt s ctx ix).1 := by
  unfold spillAt
  dsimp only
  split
  · next heq => exact (h.after_walkRead _ _).of_eq heq
  · next heq => exact (h.after_walkRead _ _).of_eq heq
  · next heq =>
      split
      · exact (h.after_walkRead _ _).of_eq heq
      · exact (h.after_walkRead _ _).of_eq heq

theorem after_spillRead (ctx ix : Nat) : Keeps s₀ (spillRead s ctx ix).1 := by
  unfold spillRead
  split
  · next heq => exact (h.after_spillAt _ _).of_eq heq
  · next heq =>
      split
      · exact (h.after_spillAt _ _).of_eq heq
      · split
        · next heq1 => exact (((h.after_spillAt _ _).of_eq heq).after_granRead _ _).of_eq heq1
        · next heq2 => exact (((h.after_spillAt _ _).of_eq heq).after_granRead _ _).of_eq heq2

theorem after_spillWrite (p : SpillAt) (x : Nat) : Keeps s₀ (spillWrite s p x).1 := by
  unfold spillWrite
  split
  · exact h.after_dumpStall _ _
  · split
    · exact h
    · dsimp only
      split
      · next heq => exact (h.after_granWrite _ _ _ _).of_eq heq
      · next heq1 => exact ((h.after_granWrite _ _ _ _).of_eq heq1).after_dropCachedAll _

theorem after_spillSeek (ctx : Nat) (key : DWord) (hit stop : Nat → Bool) (fuel x : Nat) :
    Keeps s₀ (spillSeek ctx key hit stop fuel x s).1 := by
  induction fuel generalizing s ctx key hit stop x with
  | zero => exact h
  | succ fuel ih =>
    unfold spillSeek
    split
    · next heq => exact (h.after_spillRead _ _).of_eq heq
    · next heq1 => exact ih ((h.after_spillRead _ _).of_eq heq1) _ _ _ _ _
    · next heq =>
        split
        · exact (h.after_spillRead _ _).of_eq heq
        · split
          · exact (h.after_spillRead _ _).of_eq heq
          · exact ih ((h.after_spillRead _ _).of_eq heq) _ _ _ _ _

theorem after_spillFind (ctx : Nat) (key : DWord) : Keeps s₀ (spillFind s ctx key).1 := by
  unfold spillFind
  split
  · exact h
  · exact h.after_spillSeek _ _ _ _ _ _

theorem after_spillRoom (ctx : Nat) (key : DWord) : Keeps s₀ (spillRoom s ctx key).1 := by
  unfold spillRoom
  split
  · exact h
  · exact h.after_spillSeek _ _ _ _ _ _

theorem after_spillOne (k : Nat) (xs : List KeyEntry) : Keeps s₀ (spillOne s k xs).1 := by
  induction xs generalizing s k with
  | nil => exact h
  | cons head tail ih =>
    unfold spillOne
    split
    · next heq => exact (h.after_spillRoom _ _).of_eq heq
    · next heq => exact ih ((h.after_spillRoom _ _).of_eq heq) _
    · next heq =>
        split
        · next heq1 => exact (((h.after_spillRoom _ _).of_eq heq).after_spillWrite _ _).of_eq heq1
        · next heq2 => exact ih ((((h.after_spillRoom _ _).of_eq heq).after_spillWrite _ _).of_eq heq2) _
        · next heq1 =>
            dsimp only
            exact ((((h.after_spillRoom _ _).of_eq heq).after_spillWrite _ _).of_eq heq1).after_setClu _ _

theorem after_makeRoom (k n fuel : Nat) : Keeps s₀ (makeRoom s k n fuel).1 := by
  induction fuel generalizing s k n with
  | zero => exact h
  | succ fuel ih =>
    unfold makeRoom
    split
    · exact h
    · split
      · next heq => exact ih ((h.after_spillOne _ _).of_eq heq) _ _
      · exact h.after_spillOne _ _

theorem after_addEntry (k : Nat) (e : KeyEntry) : Keeps s₀ (addEntry s k e).1 := by
  unfold addEntry
  dsimp only
  exact h.after_setClu _ _

theorem after_needEntry (k ctx : Nat) (key : DWord) : Keeps s₀ (needEntry s k ctx key).1 := by
  unfold needEntry
  split
  · exact h
  · split
    · next hfind => exact (h.after_spillFind _ _).of_eq hfind
    · next hfind =>
        have hmade := ((h.after_spillFind _ _).of_eq hfind).after_makeRoom k 1 1
        split
        · next hroom => exact hmade.of_eq hroom
        · next hroom =>
            have hroomy := hmade.of_eq hroom
            split
            · split
              · next hwrite => exact (hroomy.after_spillWrite _ _).of_eq hwrite
              · next hwrite => exact ((hroomy.after_spillWrite _ _).of_eq hwrite).after_addEntry _ _
            · exact hroomy.after_addEntry _ _

theorem after_setKept (core : Nat) (p : Kept) (st : Strand) : Keeps s₀ (setKept s core p st) := by
  unfold setKept
  split
  · exact h.after_setStrandAt _ _ _
  · exact h.after_setCore _ _

theorem after_syncWaiters : Keeps s₀ (syncWaiters s) := by
  unfold syncWaiters
  exact h.same

theorem after_replyGrant (w : Waiter) (abn : Bool) : Keeps s₀ (replyGrant s w abn) := by
  unfold replyGrant
  split
  · exact h
  · exact h.after_setKept _ _ _

theorem after_replyTry (w : Waiter) (won abn : Bool) : Keeps s₀ (replyTry s w won abn) := by
  unfold replyTry
  split
  · exact h
  · exact h.after_setKept _ _ _

theorem after_holdEntry (k i : Nat) (e : KeyEntry) (o : Owner) : Keeps s₀ (holdEntry s k i e o) := by
  unfold holdEntry
  split
  · next heq => exact (h.after_fresh.of_eq heq).after_setClu _ _

theorem after_grantNext (k i : Nat) : Keeps s₀ (grantNext s k i) := by
  unfold grantNext
  dsimp only
  split
  · exact h
  · split
    · exact h
    · split
      · exact h
      · split
        · exact h
        · exact ((h.after_setClu _ _).after_holdEntry _ _ _ _).after_replyGrant _ _

theorem after_withdrawAsk (ask : Nat) : Keeps s₀ (withdrawAsk s ask) := by
  unfold withdrawAsk
  exact h.same

theorem after_ungrant (ctx core : Nat) (number : BitVec 16) (lane : Nat) (key : DWord) (abn : Bool) :
    Keeps s₀ (ungrant s ctx core number lane key abn) := by
  unfold ungrant
  dsimp only
  split
  · exact h
  · split
    · exact h
    · exact Keeps.ite ((h.after_setClu _ _).after_grantNext _ _) h

theorem after_undoEntry (ctx core : Nat) (number : BitVec 16) (ask : Nat) (granted abn : LaneMask) (keys : List (Nat × DWord)) :
    Keeps s₀ (undoEntry s ctx core number ask granted abn keys) := by
  unfold undoEntry
  exact Keeps.foldl (fun u x hu => Keeps.ite (hu.after_ungrant _ _ _ _ _ _) hu) _ (h.after_withdrawAsk _)

theorem after_failEntry (w : Waiter) (t' : TrapRec) : Keeps s₀ (failEntry s w t') := by
  unfold failEntry
  split
  · exact h
  · split
    · exact h
    · split
      · exact h.after_setKept _ _ _
      · split
        · exact (h.after_setKept _ _ _).after_undoEntry _ _ _ _ _ _ _
        · exact h

theorem after_attachWaiter (k : Nat) (q : SectReq) : Keeps s₀ (attachWaiter s k q) := by
  unfold attachWaiter
  exact Keeps.ite (h.after_setClu _ _) (h.after_setClu _ _)

theorem after_serveSect (k i : Nat) (q : SectReq) : Keeps s₀ (serveSect s k i q) := by
  unfold serveSect
  split
  · dsimp only
    split
    · exact h
    · exact Keeps.ite (((h.after_setClu _ _).after_holdEntry _ _ _ _).after_replyTry _ _ _)
          ((h.after_setClu _ _).after_replyTry _ _ _)
  · dsimp only
    split
    · exact h
    · exact Keeps.ite (((h.after_setClu _ _).after_holdEntry _ _ _ _).after_replyGrant _ _)
          ((h.after_setClu _ _).after_attachWaiter _ _)

theorem after_takeSect (k i : Nat) : Keeps s₀ (takeSect s k i) := by
  unfold takeSect
  exact h.after_setClu _ _

theorem after_execSectionRequest : Goes s₀ (execSectionRequest s) := by
  unfold execSectionRequest
  dsimp only
  split
  · exact .next h
  · split
    · exact .next h
    · split
      · next heq => exact .next ((h.after_needEntry _ _ _).of_eq heq)
      · next heq =>
            exact .next ((((((h.after_needEntry _ _ _).of_eq heq).after_takeSect _ _).after_arbiterServe _ _ _ _ _
                _).after_failEntry _ _).after_syncWaiters)
      · next heq =>
            exact .next ((((((h.after_needEntry _ _ _).of_eq heq).after_takeSect _ _).after_arbiterServe _ _ _ _ _
                _).after_serveSect _ _ _).after_syncWaiters)

theorem after_execWaiterResend : Goes s₀ (execWaiterResend s) := by
  unfold execWaiterResend
  split
  · next heq =>
      dsimp only
      split
      · exact .next h
      · split
        · exact .next h
        · exact .next ((h.after_fresh.of_eq heq).after_setClu _ _)

theorem after_ackLeave (ctx : Nat) (o : Owner) : Keeps s₀ (ackLeave s ctx o) := by
  unfold ackLeave
  split
  · exact h
  · exact h.after_setKept _ _ _

theorem after_execSectionLeave : Goes s₀ (execSectionLeave s) := by
  unfold execSectionLeave
  dsimp only
  split
  · exact .next h
  · split
    · exact .next h
    · split
      · exact .next (Keeps.ite (h.after_setClu _ _) ((h.after_setClu _ _).after_ackLeave _ _))
      · split
        · exact .next (Keeps.ite (h.after_setClu _ _) ((h.after_setClu _ _).after_ackLeave _ _))
        · split
          · exact .next (Keeps.ite (h.after_setClu _ _) ((h.after_setClu _ _).after_ackLeave _ _))
          · exact .next ((((Keeps.ite (h.after_setClu _ _) ((h.after_setClu _ _).after_ackLeave _ _)).after_setClu _
                _).after_grantNext _ _).after_syncWaiters)

theorem after_execChainWalkHop : Goes s₀ (execChainWalkHop s) := by
  unfold execChainWalkHop
  dsimp only
  split
  · exact .next h
  · split
    · exact .next (h.after_setClu _ _)
    · split
      · exact .next (h.after_setClu _ _)
      · split
        · split
          · exact .next (((h.after_setClu _ _).after_failEntry _ _).after_syncWaiters)
          · exact .next (h.after_setClu _ _)
        · split
          · exact .next (h.after_setClu _ _)
          · split
            · exact .next (h.after_setClu _ _)
            · exact .next (h.after_setClu _ _)

theorem after_execSectStarved : Goes s₀ (execSectStarved s) := by
  unfold execSectStarved
  split
  · exact .next h
  · split
    · exact .next h
    · exact .next ((h.after_failEntry _ _).after_syncWaiters)

theorem after_sendSects (v : View) (a b : Operand) (init once : Bool) (ask : Nat) : Keeps s₀ (sendSects s v a b init once ask) := by
  unfold sendSects
  refine Keeps.foldl (fun _ _ hp => ?_) _ h
  split
  · next heq => exact (hp.after_fresh.of_eq heq).after_setClu _ _

theorem after_execSluIn (c : Ctl) (init : Bool) (d a b : Operand) : Goes s₀ (execSluIn c init d a b s) := by
  unfold execSluIn
  refine h.after_run _ _ _ (fun v u hu => ?_)
  split
  · exact .done hu
  · split
    · exact .trap hu
    · split
      · next heq => exact .done (((hu.after_fresh.of_eq heq).after_sendSects _ _ _ _ _ _).after_beginWait _ _)

theorem after_execSluOut (c : Ctl) (a : Operand) : Goes s₀ (execSluOut c a s) := by
  unfold execSluOut
  refine h.after_run _ _ _ (fun v u hu1 => ?_)
  split
  · exact .done hu1
  · refine hu1.after_releaseThen _ _ _ _ (fun u hu2 => ?_)
    dsimp only
    split
    · exact .stay hu2
    · split
      · exact .trap hu2
      · exact .done ((Keeps.foldl (fun u x hu => hu.after_fresh.after_setClu _ _) _ hu2).after_beginWait _ _)

theorem after_execSluTry (c : Ctl) (d a b e : Operand) : Goes s₀ (execSluTry c d a b e s) := by
  unfold execSluTry
  refine h.after_run _ _ _ (fun v u hu => ?_)
  split
  · exact .done hu
  · split
    · dsimp only
      split
      · exact .trap hu
      · split
        · exact .stay hu
        · exact .done (Keeps.ite ((hu.after_putPred _ _ _ _).after_putPred _ _ _ _)
              (((hu.after_putPred _ _ _ _).after_putPred _ _ _ _).after_acquire _ _))
      · exact .trap (hu.after_undoEntry _ _ _ _ _ _ _)
    · split
      · next heq =>
          dsimp only
          split
          · exact .stay (((hu.after_fresh.of_eq heq).after_setProg _ _).after_sendSects _ _ _ _ _ _)
          · split
            · exact .stay hu
            · exact .done (Keeps.ite ((hu.after_putPred _ _ _ _).after_putPred _ _ _ _)
                  (((hu.after_putPred _ _ _ _).after_putPred _ _ _ _).after_acquire _ _))
          · exact .trap (hu.after_undoEntry _ _ _ _ _ _ _)

end Keeps
end Sys2Proof.Proofs
end

section
/-! PROOFS. The functions of Machine/Crew.lean keep memory's canonical form. -/
namespace Sys2Proof.Proofs
set_option Elab.async false

open Sys2Proof Sys2Proof.Machine Sys2Proof.Claims

namespace Keeps

variable {s₀ s t : State} (h : Keeps s₀ s)
include h

theorem after_setCrew (k ent : Nat) (x : Crew) : Keeps s₀ (setCrew s k ent x) := by
  unfold setCrew
  exact h.after_setClu _ _

theorem after_tryPhase (k ent : Nat) : Keeps s₀ (tryPhase s k ent) := by
  unfold tryPhase
  dsimp only
  split
  · exact h
  · exact Keeps.ite h (Keeps.foldl (fun u x hu => hu.after_setStrandAt _ _ _) _ (h.after_setCrew _ _ _))

theorem after_tryLaunchBar (ln : Nat) : Keeps s₀ (tryLaunchBar s ln) := by
  unfold tryLaunchBar
  split
  · exact h
  · exact Keeps.ite h h.same

theorem after_gainRoom (cs : List Nat) : Keeps s₀ (gainRoom s cs) := by
  unfold gainRoom
  exact h.same

theorem after_freeCrew (k ent : Nat) (was : Bool) : Keeps s₀ (freeCrew s k ent was) := by
  unfold freeCrew
  exact Keeps.ite h (((h.after_setCore _ _).after_setCrew _ _ _).after_gainRoom _)

theorem after_execVgrow (c : Ctl) (a : Operand) : Goes s₀ (execVgrow c a s) := by
  unfold execVgrow
  refine h.after_run _ _ _ (fun v u hu => ?_)
  dsimp only
  split
  · exact .done hu
  · split
    · exact .trap hu
    · exact .done (hu.after_beginWait _ _)

theorem after_execVshrink (c : Ctl) (a : Operand) : Goes s₀ (execVshrink c a s) := by
  unfold execVshrink
  refine h.after_run _ _ _ (fun v u hu => ?_)
  split
  · exact .done hu
  · split
    · exact .stay hu
    · dsimp only
      split
      · exact .done hu
      · exact .done (((hu.after_setStrand _ _).after_settleGrowth _).after_gainRoom _)

theorem after_dropBarrierWaits (c slot : Nat) (id : Word) : Keeps s₀ (dropBarrierWaits s c slot id) := by
  unfold dropBarrierWaits
  exact Keeps.foldl (fun u x hu => Keeps.foldl (fun u x hu => hu.after_failWait _ _ _) _ hu) _ h

theorem after_dissolve (k ent c : Nat) : Keeps s₀ (dissolve s k ent c) := by
  unfold dissolve
  extract_lets x was emptied left told
  have hemptied : Keeps s₀ emptied := h.after_setCrew _ _ _
  have hleft : Keeps s₀ left := hemptied.after_releaseMoves _ _
  refine Keeps.after_freeCrew (show Keeps s₀ told from ?_) _ _ _
  dsimp only [told]
  split
  · exact hemptied
  · split
    · exact hleft.same
    · exact (hleft.same.after_setLaunch _ _).after_tryLaunchBar _

theorem after_leaveCrew (k ent c slot : Nat) : Keeps s₀ (leaveCrew s k ent c slot) := by
  unfold leaveCrew
  exact Keeps.ite ((((h.after_setCrew _ _ _).after_setStrandAt _ _ _).after_dropBarrierWaits _ _ _).after_dissolve _ _ _)
      ((((h.after_setCrew _ _ _).after_setStrandAt _ _ _).after_dropBarrierWaits _ _ _).after_tryPhase _ _)

theorem after_execCnew (c : Ctl) (d : Operand) : Goes s₀ (execCnew c d s) := by
  unfold execCnew
  refine h.after_run _ _ _ (fun v u hu => ?_)
  split
  · exact .done hu
  · split
    · split
      · exact .done (hu.after_putAll _ _ _ _)
      · dsimp only
        exact .done (((hu.after_setCrew _ _ _).after_setStrand _ _).after_putAll _ _ _ _)
    · dsimp only
      split
      · exact .done (hu.after_putAll _ _ _ _)
      · exact .done (((hu.after_setCrew _ _ _).after_setStrand _ _).after_putAll _ _ _ _)

theorem after_execCjoin (c : Ctl) (d a : Operand) : Goes s₀ (execCjoin c d a s) := by
  unfold execCjoin
  refine h.after_run _ _ _ (fun v u hu => ?_)
  split
  · exact .done hu
  · dsimp only
    split
    · exact .done (hu.after_putAll _ _ _ _)
    · split
      · exact .done (hu.after_putAll _ _ _ _)
      · split
        · exact .done (((hu.after_setCrew _ _ _).after_setStrand _ _).after_putAll _ _ _ _)
        · split
          · split
            · exact .done (((hu.after_setCrew _ _ _).after_setStrand _ _).after_putAll _ _ _ _)
            · exact .stay hu
          · split
            · exact .done (((((hu.after_setProg _ _).after_releaseMoves _ _).after_setCrew _ _ _).after_setStrand _
                  _).after_putAll _ _ _ _)
            · exact .stay ((hu.after_setProg _ _).after_releaseMoves _ _)

theorem after_execCleave (c : Ctl) (d a : Operand) : Goes s₀ (execCleave c d a s) := by
  unfold execCleave
  refine h.after_run _ _ _ (fun v u hu => ?_)
  split
  · exact .done hu
  · split
    · exact .done (hu.after_putAll _ _ _ _)
    · dsimp only
      split
      · exact .done ((hu.after_putAll _ _ _ _).after_leaveCrew _ _ _ _)
      · exact .done (hu.after_putAll _ _ _ _)

theorem after_arrive (v : View) (id : Word) (kind : BarKind) (o : BarOrder) (d : Option Operand) (val : Word) :
    KeepsRes s₀ (arrive v s id kind o d val) := by
  unfold arrive
  split
  · dsimp only
    exact .trap h
  · split
    · dsimp only
      split
      · exact .trap h
      · refine h.after_releaseThen _ _ _ _ (fun u hu => ?_)
        split
        · exact .trap hu
        · exact .done (((hu.after_setCrew _ _ _).after_beginWait _ _).after_tryPhase _ _)
    · dsimp only
      split
      · exact .trap h
      · split
        · exact .trap h
        · exact .done (((h.after_setCrew _ _ _).after_beginWait _ _).after_tryPhase _ _)

theorem after_arriveLaunch (v : View) (o : BarOrder) : KeepsRes s₀ (arriveLaunch v s o) := by
  unfold arriveLaunch
  split
  · exact .trap h
  · split
    · exact .trap h
    · split
      · refine h.after_releaseThen _ _ _ _ (fun u hu => ?_)
        split
        · dsimp only
          exact .done ((hu.after_beginWait _ _).after_tryLaunchBar _)
        · dsimp only
          exact .done (((hu.after_setLaunch _ _).after_beginWait _ _).after_tryLaunchBar _)
      · dsimp only
        refine .done ((Keeps.after_beginWait ?_ _ _).after_tryLaunchBar _)
        split
        · exact h
        · exact h.after_setLaunch _ _

theorem after_execBar (c : Ctl) (o : BarOrder) (crew : Option Operand) : Goes s₀ (execBar c o crew s) := by
  unfold execBar
  refine h.after_run _ _ _ (fun v u hu => ?_)
  split
  · exact .done hu
  · split
    · exact hu.after_arriveLaunch _ _
    · exact hu.after_arrive _ _ _ _ _ _

theorem after_execBarp (c : Ctl) (op : ROp) (ty : RTy) (ftz : Bool) (o : BarOrder) (d a b : Operand) :
    Goes s₀ (execBarp c op ty ftz o d a b s) := by
  unfold execBarp
  refine h.after_run _ _ _ (fun v u hu => ?_)
  split
  · exact .done hu
  · exact hu.after_arrive _ _ _ _ _ _

theorem after_lowerWork (k ctx n : Nat) : Keeps s₀ (lowerWork s k ctx n) := by
  unfold lowerWork
  exact h.after_setClu _ _

theorem after_abandonLanes (c : Nat) (st : Strand) (x : LaneMask) : Keeps s₀ (abandonLanes s c st x) := by
  unfold abandonLanes
  dsimp only
  split
  · exact h.same
  · refine Keeps.foldl (fun _ _ hp => ?_) _ (h.same.after_releaseMoves _ _)
    split
    · exact hp
    · exact Keeps.ite hp (hp.after_setClu _ _)

theorem after_passLane (c : Nat) (st : Strand) (l : Nat) : Keeps s₀ (passLane s c st l) := by
  unfold passLane
  split
  · exact h
  · split
    · exact h
    · exact h.after_setClu _ _
  · exact Keeps.ite h h.same

theorem after_forgetIssuer (c slot : Nat) : Keeps s₀ (forgetIssuer s c slot) := by
  unfold forgetIssuer
  dsimp only
  split
  · exact Keeps.ite (h.after_setCore _ _) h
  · exact h

theorem after_exitStrand (c slot : Nat) : Keeps s₀ (exitStrand s c slot) := by
  unfold exitStrand
  refine ((Keeps.after_settleGrowth ?_ _).after_gainRoom _).after_syncWaiters
  split
  · split
    · refine ((((Keeps.after_lowerWork ?_ (coreCluster c) ((s.strandAt c slot).ctx)
          ((s.strandAt c slot).held + if (s.strandAt c slot).token = true then 1 else 0)).after_setStrandAt c slot
          ({ })).after_forgetIssuer c slot).after_gangLeft c slot).same
      refine Keeps.foldl (fun _ _ hp5 => ?_) _ h
      split
      · exact hp5.after_leaveCrew _ _ _ _
      · exact hp5
    · refine ((((((Keeps.after_lowerWork ?_ (coreCluster c) ((s.strandAt c slot).ctx)
          ((s.strandAt c slot).held + if (s.strandAt c slot).token = true then 1 else 0)).after_setStrandAt c slot
          ({ })).after_forgetIssuer c slot).after_gangLeft c slot).same).after_setCrew _ _ _).after_freeCrew _ _ _
      refine Keeps.foldl (fun _ _ hp5 => ?_) _ h
      split
      · exact hp5.after_leaveCrew _ _ _ _
      · exact hp5
  · refine Keeps.after_tryLaunchBar ?_ _
    split
    · refine ((((Keeps.after_lowerWork ?_ (coreCluster c) ((s.strandAt c slot).ctx)
          ((s.strandAt c slot).held + if (s.strandAt c slot).token = true then 1 else 0)).after_setStrandAt c slot
          ({ })).after_forgetIssuer c slot).after_gangLeft c slot).same
      refine Keeps.foldl (fun _ _ hp6 => ?_) _ h
      split
      · exact hp6.after_leaveCrew _ _ _ _
      · exact hp6
    · refine ((((((Keeps.after_lowerWork ?_ (coreCluster c) ((s.strandAt c slot).ctx)
          ((s.strandAt c slot).held + if (s.strandAt c slot).token = true then 1 else 0)).after_setStrandAt c slot
          ({ })).after_forgetIssuer c slot).after_gangLeft c slot).same).after_setCrew _ _ _).after_freeCrew _ _ _
      refine Keeps.foldl (fun _ _ hp6 => ?_) _ h
      split
      · exact hp6.after_leaveCrew _ _ _ _
      · exact hp6

theorem after_exitLanes (r : SplitRef) (x : LaneMask) : Keeps s₀ (exitLanes s r x) := by
  unfold exitLanes
  extract_lets st abandoned passed dropped
  have habandoned : Keeps s₀ abandoned := h.after_abandonLanes _ _ _
  have hpassed : Keeps s₀ passed := Keeps.foldl (fun u l hu => hu.after_passLane _ _ _) _ habandoned
  have hdropped : Keeps s₀ dropped := hpassed.after_setStrand _ _
  have hresumed := hdropped.after_resumeOrFree r
  exact Keeps.ite (Keeps.ite (hresumed.after_exitStrand _ _) (hresumed.after_reconvBoundary _ _)) hdropped

end Keeps
end Sys2Proof.Proofs
end

section
/-! PROOFS. The functions of Machine/Flow.lean keep memory's canonical form. -/
namespace Sys2Proof.Proofs
set_option Elab.async false

open Sys2Proof Sys2Proof.Machine Sys2Proof.Claims

namespace Keeps

variable {s₀ s t : State} (h : Keeps s₀ s)
include h

theorem after_openSplit (r : SplitRef) (i : Nat) (g : Machine.Group) : Keeps s₀ (openSplit s r i g) := by
  unfold openSplit
  exact h.after_setStrand _ _

theorem after_pushDefer (r : SplitRef) (pc rpc : BitVec 48) (lanes : LaneMask) : Keeps s₀ (pushDefer s r pc rpc lanes) := by
  unfold pushDefer
  exact (h.after_putBytes _ _).after_setSplit _ _

theorem after_goOn (r : SplitRef) (g : Machine.Group) : Keeps s₀ (goOn s r g) := by
  unfold goOn
  exact (h.after_setSplit _ _).after_endClause _ _

theorem after_placeGroups (r : SplitRef) (rpc : BitVec 48) (xs : List Machine.Group) : Keeps s₀ (placeGroups s r rpc xs) := by
  induction xs generalizing s r rpc with
  | nil => exact h
  | cons head tail ih =>
    unfold placeGroups
    split
    · exact ih (h.after_openSplit _ _ _) _ _
    · exact Keeps.foldl (fun u x hu => hu.after_pushDefer _ _ _ _) _ h

theorem after_transfer (v : View) (rpc : BitVec 48) (gs : List Machine.Group) : KeepsRes s₀ (transfer v s rpc gs) := by
  unfold transfer
  split
  · exact .moved (h.after_endClause _ _)
  · split
    · exact .trap h
    · exact .moved ((h.after_placeGroups _ _ _).after_goOn _ _)

theorem after_branch (v : View) (target : Int) (rpc : BitVec 48) : KeepsRes s₀ (branch v s target rpc) := by
  unfold branch
  split
  · dsimp only
    split
    · exact .moved (h.after_endClause _ _)
    · split
      · exact .moved (h.after_goOn _ _)
      · exact .moved ((h.after_openSplit _ _ _).after_goOn _ _)
  · split
    · dsimp only
      split
      · exact .moved (h.after_endClause _ _)
      · split
        · exact .moved (h.after_goOn _ _)
        · exact .trap h
    · dsimp only
      split
      · exact .moved (h.after_endClause _ _)
      · split
        · exact .moved (h.after_goOn _ _)
        · exact .moved ((h.after_pushDefer _ _ _ _).after_goOn _ _)

theorem after_execBra (c : Ctl) (imm : BitVec 32) : Goes s₀ (execBra c imm s) := by
  unfold execBra
  exact h.after_run _ _ _ (fun v u hu => hu.after_branch _ _ _)

theorem after_execBr (c : Ctl) (dist : BitVec 9) (imm : BitVec 32) : Goes s₀ (execBr c dist imm s) := by
  unfold execBr
  exact h.after_run _ _ _ (fun v u hu => hu.after_branch _ _ _)

theorem after_linked {before : Machine.State} (hbefore : Keeps s₀ before) (go : Machine.State → Machine.Res)
    (hgo : ∀ u, Keeps s₀ u → KeepsRes s₀ (go u)) : KeepsRes s₀ (linked before s go) := by
  unfold linked
  split
  · exact .trap hbefore
  · exact hgo _ h

theorem after_execCall (c : Ctl) (d : Operand) (imm : BitVec 32) : Goes s₀ (execCall c d imm s) := by
  unfold execCall
  exact h.after_run _ _ _ (fun v u hu => (Keeps.ite hu (hu.after_putLanes64 _ _ _ _)).after_linked hu _
      (fun w hw => hw.after_branch _ _ _))

theorem after_traceTransfer (v : View) (n : Nat) (isRet : Bool) : Keeps s₀ (traceTransfer s v n isRet) := by
  unfold traceTransfer
  exact Keeps.ite (h.after_traceRecord _ _ _) h

theorem after_electTransfer (v : View) (a : Operand) (rpc : BitVec 48) (isRet : Bool) (link : Machine.State → Machine.State)
    (hlink : ∀ u, Keeps s₀ u → Keeps s₀ (link u)) : KeepsRes s₀ (electTransfer v s a rpc isRet link) := by
  unfold electTransfer
  dsimp only
  split
  · exact .trap h
  · exact ((hlink _ h).after_traceTransfer _ _ _).after_linked h _ (fun u hu => hu.after_transfer _ _ _)

theorem after_execBrx (c : Ctl) (a : Operand) : Goes s₀ (execBrx c a s) := by
  unfold execBrx
  exact h.after_run _ _ _ (fun v u hu => hu.after_electTransfer _ _ _ _ _ (fun w hw => hw))

theorem after_execCallx (c : Ctl) (d a : Operand) : Goes s₀ (execCallx c d a s) := by
  unfold execCallx
  exact h.after_run _ _ _ (fun v u hu1 => hu1.after_electTransfer _ _ _ _ _
      (fun u hu2 => Keeps.ite hu2 (hu2.after_putLanes64 _ _ _ _)))

theorem after_execRet (c : Ctl) (a : Operand) : Goes s₀ (execRet c a s) := by
  unfold execRet
  exact h.after_run _ _ _ (fun v u hu => hu.after_electTransfer _ _ _ _ _ (fun w hw => hw))

theorem after_execReconv (c : Ctl) : Goes s₀ (execReconv c s) := by
  unfold execReconv
  exact h.after_run _ _ _ (fun v u hu => .done (Keeps.ite hu (hu.after_setSplit _ _)))

theorem after_execExit (c : Ctl) : Goes s₀ (execExit c s) := by
  unfold execExit
  refine h.after_run _ _ _ (fun v u hu => ?_)
  split
  · dsimp only
    split
    · exact .moved (hu.after_endClause _ _)
    · split
      · exact .moved (hu.after_exitLanes _ _)
      · exact .moved ((hu.after_exitLanes _ _).after_endClause _ _)
  · dsimp only
    split
    · exact .moved (hu.after_endClause _ _)
    · split
      · exact .moved (hu.after_exitLanes _ _)
      · exact .moved ((hu.after_exitLanes _ _).after_endClause _ _)

theorem after_execYield (c : Ctl) : Goes s₀ (execYield c s) := by
  unfold execYield
  refine h.after_run _ _ _ (fun v u hu => ?_)
  split
  · dsimp only
    exact .moved (hu.after_endClause _ _)
  · dsimp only
    exact .moved ((hu.after_setCore _ _).after_endClause _ _)

theorem after_execSleep (c : Ctl) (a : Operand) : Goes s₀ (execSleep c a s) := by
  unfold execSleep
  exact h.after_run _ _ _ (fun v u hu => .done (Keeps.ite hu (hu.after_beginWait _ _)))

theorem after_execSleepu (c : Ctl) (a : Operand) : Goes s₀ (execSleepu c a s) := by
  unfold execSleepu
  exact h.after_run _ _ _ (fun v u hu => .done (Keeps.ite hu (hu.after_beginWait _ _)))

theorem after_execTrap (c : Ctl) (imm : BitVec 8) : Goes s₀ (execTrap c imm s) := by
  unfold execTrap
  refine h.after_run _ _ _ (fun v u hu => ?_)
  split
  · exact .done hu
  · exact .trap hu

theorem after_execBkpt (c : Ctl) : Goes s₀ (execBkpt c s) := by
  unfold execBkpt
  refine h.after_run _ _ _ (fun v u hu => ?_)
  split
  · dsimp only
    exact .done hu
  · split
    · dsimp only
      split
      · exact .stay hu
      · exact .trap hu
    · dsimp only
      split
      · exact .stay (hu.same.after_setProg _ _)
      · exact .trap hu

theorem after_dropHandlerDefers (r : SplitRef) : Keeps s₀ (dropHandlerDefers s r) := by
  unfold dropHandlerDefers
  exact Keeps.ite h (((h.after_putDefers _ _ _).after_setSplit _ _).after_exitLanes _ _)

theorem after_handlerReturn (r : SplitRef) (f : List Byte) : Keeps s₀ (handlerReturn s r f) := by
  have hkept := (h.after_setStrand r { s.strand r with flags := frameFlags f }).after_dropHandlerDefers r
  have hput (x : Split) := (hkept.after_setSplit r x).after_freeSched r
  unfold handlerReturn
  extract_lets u st sp pc pos late rpc rpos mask sp put
  split
  · exact hkept
  · split
    · exact hput _
    · split
      · exact (hput _).after_resumeAt _ _ _
      · exact hput _
    · exact (hkept.after_setStrand _ _).after_exitLanes _ _

theorem after_execTret (c : Ctl) : Goes s₀ (execTret c s) := by
  unfold execTret
  refine h.after_run _ _ _ (fun v u hu => ?_)
  split
  · exact .trap hu
  · exact .moved (hu.after_handlerReturn _ _)

end Keeps
end Sys2Proof.Proofs
end

section
/-! PROOFS. The functions of Machine/Matrix.lean keep memory's canonical form. -/
namespace Sys2Proof.Proofs
set_option Elab.async false

open Sys2Proof Sys2Proof.Machine Sys2Proof.Claims

namespace Keeps

variable {s₀ s t : State} (h : Keeps s₀ s)
include h

theorem after_loadInPlace (v : View) (seg n align : Nat) (offs : List Nat) (k : Machine.State → List (List Byte) → Res)
    (hk : ∀ u x, Keeps s₀ u → KeepsRes s₀ (k u x)) :
    KeepsRes s₀ (loadInPlace v s seg n align offs k) := by
  unfold loadInPlace
  refine h.after_withAccess _ _ _ (fun ps => ?_)
  split
  · next heq =>
      dsimp only
      split
      · exact .stay h
      · split
        · exact .trap ((h.after_eachPlace _ _ (fun u p hu => hu.after_loadPlace _ _ _)).of_eq heq)
        · exact hk _ _ ((h.after_eachPlace _ _ (fun u p hu => hu.after_loadPlace _ _ _)).of_eq heq)

theorem after_execTidLd (c : Ctl) (a b : Operand) : Goes s₀ (execTidLd c a b s) := by
  unfold execTidLd
  refine h.after_run _ _ _ (fun v u hu1 => ?_)
  split
  · exact .done hu1
  · dsimp only
    split
    · exact .trap hu1
    · refine hu1.after_loadInPlace _ _ _ _ _ _ (fun u xs hu2 => ?_)
      split
      · exact .trap hu2
      · split
        · exact .trap hu2
        · exact .done (hu2.after_installTid _ _ _)

theorem after_execTidInv (c : Ctl) (a : Operand) : Goes s₀ (execTidInv c a s) := by
  unfold execTidInv
  refine h.after_run _ _ _ (fun v u hu => ?_)
  split
  · exact .done hu
  · dsimp only
    split
    · exact .trap hu
    · split
      · exact .trap hu
      · exact .done (hu.after_installTid _ _ _)

theorem after_execGang (c : Ctl) (a : Operand) : Goes s₀ (execGang c a s) := by
  unfold execGang
  refine h.after_run _ _ _ (fun v u hu => ?_)
  split
  · exact .done hu
  · split
    · dsimp only
      split
      · exact .trap hu
      · exact .stay hu
    · dsimp only
      split
      · exact .trap hu
      · exact .done (hu.after_writeGang _ _ _)

theorem after_execCbLd (c : Ctl) (d a : Operand) : Goes s₀ (execCbLd c d a s) := by
  unfold execCbLd
  refine h.after_run _ _ _ (fun v u hu => ?_)
  split
  · exact .done (Keeps.ite hu (hu.after_setStrand _ _))
  · exact .done hu

theorem after_raiseStrand (c ctx : Nat) (number : BitVec 16) (f : Flags) : Keeps s₀ (raiseStrand s c ctx number f) := by
  unfold raiseStrand
  split
  · exact h
  · exact h.after_setKept _ _ _

theorem after_retireCascade (c : Nat) (x : CascadeOp) : Keeps s₀ (retireCascade s c x) := by
  unfold retireCascade
  exact (h.after_setCore _ _).after_raiseStrand _ _ _ _

theorem after_feedA (c g : Nat) (x : CascadeOp) : KeepsOpt s₀ (feedA s c g x) := by
  unfold feedA
  split
  · dsimp only
    exact .some h
  · dsimp only
    split
    · exact .some (Keeps.foldl (fun u x hu => hu.after_setCore _ _) _ h)
    · exact .none

theorem after_feedB (c g : Nat) (x : CascadeOp) : KeepsOpt s₀ (feedB s c g x) := by
  unfold feedB
  split
  · dsimp only
    exact .some h
  · dsimp only
    split
    · exact .some (Keeps.foldl (fun u x hu => hu.after_setCore _ _) _ h)
    · exact .none

theorem after_stepCodes {c : Nat} {x : CascadeOp} {y : TileCodes × TileCodes} (e : stepCodes s c x = some (t, y)) :
    Keeps s₀ t := by
  unfold stepCodes at e
  split at e
  · cases e
    exact h
  · split at e
    · cases e
    · next heqA =>
      have hA := (h.after_feedA _ _ _).of_some heqA
      split at e
      · cases e
      · next heqB =>
        have hB := (hA.after_feedB _ _ _).of_some heqB
        split at e
        · cases e
        · cases e
          exact hB

theorem after_matrixStep (c : Nat) (x : CascadeOp) : Keeps s₀ (matrixStep s c x) := by
  unfold matrixStep
  split
  · exact h
  · next heq =>
    have hu := h.after_stepCodes heq
    split
    · exact hu
    · exact .ite (hu.after_setCore _ _) ((hu.after_setCore _ _).after_retireCascade _ _)

theorem after_gangOutcome (v : View) : KeepsRes s₀ (gangOutcome v s) := by
  unfold gangOutcome
  split
  · exact .done h
  · exact .trap h
  · exact .trap h
  · exact .stay h

theorem after_matrixIssue (v : View) (kind : MmaKind) (sat : Bool) (shape : Shape) (d a : Operand) :
    KeepsRes s₀ (matrixIssue v s kind sat shape d a) := by
  unfold matrixIssue
  split
  · exact .done h
  · split
    · exact h.after_gangOutcome _
    · split
      · exact .trap h
      · split
        · exact .trap h
        · split
          · exact h.after_releaseThen _ _ _ _ (fun u hu => (hu.after_arriveGang _ _ _ _).after_gangOutcome _)
          · refine .done ?_
            split
            · exact h.after_enterCascade _ _
            · exact h

theorem after_execMma (c : Ctl) (sat : Bool) (shape : Shape) (d a : Operand) : Goes s₀ (execMma c sat shape d a s) := by
  unfold execMma
  exact h.after_run _ _ _ (fun v u hu => hu.after_matrixIssue _ _ _ _ _ _)

theorem after_execMmaSp (c : Ctl) (sat : Bool) (shape : Shape) (d a : Operand) : Goes s₀ (execMmaSp c sat shape d a s) := by
  unfold execMmaSp
  exact h.after_run _ _ _ (fun v u hu => hu.after_matrixIssue _ _ _ _ _ _)

theorem after_execMmaQ (c : Ctl) (sat : Bool) (shape : Shape) (d a : Operand) : Goes s₀ (execMmaQ c sat shape d a s) := by
  unfold execMmaQ
  exact h.after_run _ _ _ (fun v u hu => hu.after_matrixIssue _ _ _ _ _ _)

theorem after_whenOwned (v : View) (wide : Bool) (d : Operand) (k : Nat → Machine.State → Res)
    (hk : ∀ x u, Keeps s₀ u → KeepsRes s₀ (k x u)) :
    KeepsRes s₀ (whenOwned v s wide d k) := by
  unfold whenOwned
  split
  · exact .done h
  · split
    · exact .stay h
    · exact hk _ _ h

theorem after_execAccZero (c : Ctl) (wide : Bool) (d : Operand) : Goes s₀ (execAccZero c wide d s) := by
  unfold execAccZero
  exact h.after_run _ _ _ (fun v u hu1 => hu1.after_whenOwned _ _ _ _ (fun t u hu2 => .done (hu2.after_setCore _ _)))

theorem after_execAccLd (c : Ctl) (wide : Bool) (d a : Operand) : Goes s₀ (execAccLd c wide d a s) := by
  unfold execAccLd
  refine h.after_run _ _ _ (fun v u hu1 => ?_)
  refine hu1.after_whenOwned _ _ _ _ (fun t u hu2 => ?_)
  dsimp only
  split
  · exact .trap hu2
  · split
    · split
      · exact .trap hu2
      · exact hu2.after_loadInPlace _ _ _ _ _ _ (fun u bs hu3 => .done (hu3.after_setCore _ _))
    · split
      · exact .trap hu2
      · exact hu2.after_loadInPlace _ _ _ _ _ _ (fun u bs hu3 => .done (hu3.after_setCore _ _))

theorem after_withScales (v : View) (x : Tile) (cols : List Nat) (k : Machine.State → (Nat → Option Word) → (Nat → Option Int) → Res)
    (hk : ∀ u y z, Keeps s₀ u → KeepsRes s₀ (k u y z)) :
    KeepsRes s₀ (withScales v s x cols k) := by
  unfold withScales
  split
  · exact hk _ _ _ h
  · split
    · split
      · split
        · dsimp only
          exact h.after_loadInPlace _ _ _ _ _ _ (fun u sb hu1 => hu1.after_loadInPlace _ _ _ _ _ _ (fun u zb hu2 => hk _ _ _ hu2))
        · dsimp only
          exact h.after_loadInPlace _ _ _ _ _ _ (fun u sb hu1 => hu1.after_loadInPlace _ _ _ _ _ _ (fun u zb hu2 => hk _ _ _ hu2))
      · split
        · dsimp only
          exact h.after_loadInPlace _ _ _ _ _ _ (fun u sb hu1 => hu1.after_loadInPlace _ _ _ _ _ _ (fun u zb hu2 => hk _ _ _ hu2))
        · dsimp only
          exact h.after_loadInPlace _ _ _ _ _ _ (fun u sb hu1 => hu1.after_loadInPlace _ _ _ _ _ _ (fun u zb hu2 => hk _ _ _ hu2))
    · split
      · split
        · split
          · dsimp only
            exact h.after_loadInPlace _ _ _ _ _ _ (fun u sb hu1 => hu1.after_loadInPlace _ _ _ _ _ _
                (fun u zb hu2 => hk _ _ _ hu2))
          · dsimp only
            exact h.after_loadInPlace _ _ _ _ _ _ (fun u sb hu1 => hu1.after_loadInPlace _ _ _ _ _ _
                (fun u zb hu2 => hk _ _ _ hu2))
        · split
          · dsimp only
            exact h.after_loadInPlace _ _ _ _ _ _ (fun u sb hu1 => hu1.after_loadInPlace _ _ _ _ _ _
                (fun u zb hu2 => hk _ _ _ hu2))
          · dsimp only
            exact h.after_loadInPlace _ _ _ _ _ _ (fun u sb hu1 => hu1.after_loadInPlace _ _ _ _ _ _
                (fun u zb hu2 => hk _ _ _ hu2))
      · split
        · split
          · dsimp only
            exact h.after_loadInPlace _ _ _ _ _ _ (fun u sb hu1 => hu1.after_loadInPlace _ _ _ _ _ _
                (fun u zb hu2 => hk _ _ _ hu2))
          · dsimp only
            exact h.after_loadInPlace _ _ _ _ _ _ (fun u sb hu1 => hu1.after_loadInPlace _ _ _ _ _ _
                (fun u zb hu2 => hk _ _ _ hu2))
        · split
          · dsimp only
            exact h.after_loadInPlace _ _ _ _ _ _ (fun u sb hu1 => hu1.after_loadInPlace _ _ _ _ _ _
                (fun u zb hu2 => hk _ _ _ hu2))
          · dsimp only
            exact h.after_loadInPlace _ _ _ _ _ _ (fun u sb hu1 => hu1.after_loadInPlace _ _ _ _ _ _
                (fun u zb hu2 => hk _ _ _ hu2))

theorem after_oldBytes (v : View) (es : List (AccByte × Place)) : Keeps s₀ (oldBytes v s es).1 := by
  unfold oldBytes
  refine foldl_fst (fun p e hp => ?_) _ h
  dsimp only
  split
  · exact hp
  · exact hp.after_loadBytes _ _ _ _

theorem after_accStores (v : View) (x : BitVec 512) (stores : List AccByte) (sums : List (Nat × Word)) (fl : Flags) :
    KeepsRes s₀ (accStores v s x stores sums fl) := by
  unfold accStores
  dsimp only
  refine h.after_withAccess _ _ _ (fun ps => ?_)
  refine h.after_withAccess _ _ _ (fun qs => ?_)
  split
  · exact .stay h
  · next heq => exact .trap ((h.after_oldBytes _ _).of_eq heq)
  · next heq1 =>
        exact .done ((Keeps.foldl (fun u x hu => hu.after_storePlace _ _ _) _
            (Keeps.foldl (fun u x hu => hu.after_storePlace _ _ _) _ ((h.after_oldBytes _ _).of_eq heq1))).after_raiseFlags _ _)

theorem after_execAccSt (c : Ctl) (wide sat : Bool) (a b : Operand) : Goes s₀ (execAccSt c wide sat a b s) := by
  unfold execAccSt
  refine h.after_run _ _ _ (fun v u hu1 => ?_)
  refine hu1.after_whenOwned _ _ _ _ (fun t u hu2 => ?_)
  dsimp only
  split
  · exact .trap hu2
  · split
    · exact .trap hu2
    · split
      · exact .done hu2
      · exact hu2.after_withScales _ _ _ _ (fun u scale zero hu3 => hu3.after_accStores _ _ _ _ _)

theorem after_execAccGet (c : Ctl) (wide : Bool) (d a b : Operand) : Goes s₀ (execAccGet c wide d a b s) := by
  unfold execAccGet
  refine h.after_run _ _ _ (fun v u hu1 => ?_)
  refine hu1.after_whenOwned _ _ _ _ (fun t u hu2 => ?_)
  split
  · dsimp only
    exact .done (hu2.after_pend _ _ _ _ _ _)
  · dsimp only
    exact .done (hu2.after_pend _ _ _ _ _ _)

theorem after_execAccPut (c : Ctl) (wide : Bool) (d a b : Operand) : Goes s₀ (execAccPut c wide d a b s) := by
  unfold execAccPut
  exact h.after_run _ _ _ (fun v u hu1 => hu1.after_whenOwned _ _ _ _ (fun t u hu2 => .done (hu2.after_setCore _ _)))

end Keeps
end Sys2Proof.Proofs
end

section
/-! PROOFS. The functions of Machine/Agent.lean keep memory's canonical form. -/
namespace Sys2Proof.Proofs
set_option Elab.async false

open Sys2Proof Sys2Proof.Machine Sys2Proof.Claims

namespace Keeps

variable {s₀ s t : State} (h : Keeps s₀ s)
include h

theorem after_virtWrite (k : Option Nat) (ctx va tgt fuel : Nat) (x : List Byte) : Keeps s₀ (virtWrite s k ctx va tgt fuel x).1 := by
  induction fuel generalizing s k ctx va tgt x with
  | zero => exact h
  | succ fuel ih =>
    unfold virtWrite
    split
    · exact h
    · dsimp only
      split
      · exact h.after_touchPage _ _ _
      · exact (h.after_touchPage _ _ _).after_dumpStall _ _
      · exact h.after_touchPage _ _ _
      · split
        · next heq => exact ((h.after_touchPage _ _ _).after_agentWrite _ _ _ _ _).of_eq heq
        · next heq => exact ih (((h.after_touchPage _ _ _).after_agentWrite _ _ _ _ _).of_eq heq) _ _ _ _ _

theorem after_virtRead (k : Option Nat) (ctx va tgt fuel x : Nat) : Keeps s₀ (virtRead s k ctx va tgt fuel x).1 := by
  induction fuel generalizing s k ctx va tgt x with
  | zero => exact h
  | succ fuel ih =>
    unfold virtRead
    split
    · exact h
    · dsimp only
      split
      · exact h.after_touchPage _ _ _
      · exact h.after_touchPage _ _ _
      · exact h.after_touchPage _ _ _
      · split
        · next heq => exact ((h.after_touchPage _ _ _).after_agentRead _ _ _ _ _).of_eq heq
        · next heq =>
            split
            · next heq1 => exact (ih (((h.after_touchPage _ _ _).after_agentRead _ _ _ _ _).of_eq heq) _ _ _ _ _).of_eq heq1
            · next heq1 => exact (ih (((h.after_touchPage _ _ _).after_agentRead _ _ _ _ _).of_eq heq) _ _ _ _ _).of_eq heq1

theorem after_sramRead (ctx key n : Nat) : Keeps s₀ (sramRead s ctx key n).1 := by
  unfold sramRead
  split
  · exact h.after_virtRead _ _ _ _ _ _
  · exact h

theorem after_sramWrite (ctx key : Nat) (bs : List Byte) : Keeps s₀ (sramWrite s ctx key bs).1 := by
  unfold sramWrite
  split
  · exact h.after_virtWrite _ _ _ _ _ _
  · exact h.after_putBytes _ _

theorem after_queueRead (q addr n : Nat) : Keeps s₀ (queueRead s q addr n).1 := by
  unfold queueRead
  split
  · split
    · next heq => exact (h.after_agentRead _ _ _ _ _).of_eq heq
    · next heq => exact (h.after_agentRead _ _ _ _ _).of_eq heq
  · exact h.after_virtRead _ _ _ _ _ _

theorem after_queueWrite (q addr : Nat) (bs : List Byte) : Keeps s₀ (queueWrite s q addr bs).1 := by
  unfold queueWrite
  split
  · exact h.after_agentWrite _ _ _ _ _
  · exact h.after_virtWrite _ _ _ _ _ _

theorem after_putControl (q : Nat) : Keeps s₀ (putControl s q) := by
  unfold putControl
  split
  · next heq => exact ((h.after_queueWrite _ _ _).of_eq heq).after_setQueue _ _
  · next heq => exact ((h.after_queueWrite _ _ _).of_eq heq).after_setQueue _ _
  · next heq1 => exact ((h.after_queueWrite _ _ _).of_eq heq1).after_setQueue _ _

theorem after_putQueue (q : Nat) (x : Queue) : Keeps s₀ (putQueue s q x) := by
  unfold putQueue
  exact (h.after_setQueue _ _).after_putControl _

theorem after_recordDone (q n : Nat) : Keeps s₀ (recordDone s q n) := by
  unfold recordDone
  exact Keeps.ite (h.after_putQueue _ _) h

theorem after_recordError (q code n : Nat) : Keeps s₀ (recordError s q code n) := by
  unfold recordError
  exact h.after_putQueue _ _

theorem after_newHandle (k eng ctx : Nat) : Keeps s₀ (newHandle s k eng ctx).1 := by
  unfold newHandle
  split
  · next heq =>
      dsimp only
      exact (h.after_draw.of_eq heq).after_setClu _ _

theorem after_completeHandle (h' : Option DWord) (status : Nat) (result : Word) : Keeps s₀ (completeHandle s h' status result) := by
  unfold completeHandle
  split
  · exact h
  · dsimp only
    split
    · exact h
    · exact Keeps.ite (h.after_setClu _ _) h

end Keeps
end Sys2Proof.Proofs
end

section
/-! PROOFS. The functions of Machine/Engine.lean keep memory's canonical form. -/
namespace Sys2Proof.Proofs
set_option Elab.async false

open Sys2Proof Sys2Proof.Machine Sys2Proof.Claims

namespace Keeps

variable {s₀ s t : State} (h : Keeps s₀ s)
include h

theorem after_withRoom (v : View) (full : Bool) (h' : Option (BitVec 4)) (k : Machine.State → Res)
    (hk : ∀ u, Keeps s₀ u → KeepsRes s₀ (k u)) :
    KeepsRes s₀ (withRoom v s full h' k) := by
  unfold withRoom
  split
  · exact .done h
  · split
    · exact .stay h
    · exact hk _ h

theorem after_grantHandle (v : View) (eng : Nat) (n : Option (BitVec 4)) : Keeps s₀ (grantHandle v s eng n).1 := by
  unfold grantHandle
  split
  · exact h
  · dsimp only
    exact (h.after_newHandle _ _ _).after_putHandle _ _ _

theorem after_withBlock (v : View) (x n align : Nat) (k : Machine.State → Place → List Byte → Res)
    (hk : ∀ u y z, Keeps s₀ u → KeepsRes s₀ (k u y z)) :
    KeepsRes s₀ (withBlock v s x n align k) := by
  unfold withBlock
  split
  · exact .trap h
  · refine h.after_withAccess _ _ _ (fun ps => ?_)
    split
    · exact .done h
    · split
      · exact .stay h
      · next heq => exact .trap ((h.after_loadBytes _ _ _ _).of_eq heq)
      · next heq1 => exact hk _ _ _ ((h.after_loadBytes _ _ _ _).of_eq heq1)

theorem after_withBarrier (v : View) (opts : Nat) (other : Option TrapRec) (k : Machine.State → Option Nat → Res)
    (hk : ∀ u x, Keeps s₀ u → KeepsRes s₀ (k u x)) :
    KeepsRes s₀ (withBarrier v s opts other k) := by
  unfold withBarrier
  split
  · dsimp only
    exact h.after_withAccess _ _ _ (fun ps => hk _ _ h)
  · dsimp only
    exact h.after_withAccess _ _ _ (fun ps => hk _ _ h)

theorem after_sendPacket (p : Packet) : Keeps s₀ (sendPacket s p) := by
  unfold sendPacket
  exact h.same

theorem after_dropPacket (i : Nat) (p : Packet) : Keeps s₀ (dropPacket s i p) := by
  unfold dropPacket
  dsimp only
  split
  · exact h.same
  · split
    · exact h.same
    · exact h.same

theorem after_replyPacket (i : Nat) (p : Packet) (status : Nat) (bytes : List Byte) : Keeps s₀ (replyPacket s i p status bytes) := by
  unfold replyPacket
  exact h.same

theorem after_execPktRd : Goes s₀ (execPktRd s) := by
  unfold execPktRd
  dsimp only
  split
  · exact .next h
  · split
    · exact .next h
    · split
      · exact .next (h.after_replyPacket _ _ _ _)
      · split
        · exact .next ((h.after_activate _).after_replyPacket _ _ _ _)
        · refine .next (Keeps.after_replyPacket (foldl_fst (fun acc g hacc => ?_) _ h) _ _ _ _)
          exact hacc.after_granRead _ _

theorem after_execPktWr : Goes s₀ (execPktWr s) := by
  unfold execPktWr
  dsimp only
  split
  · exact .next h
  · split
    · exact .next h
    · split
      · exact .next (h.after_replyPacket _ _ _ _)
      · exact .next ((Keeps.foldl (fun u x hu => (hu.after_granArrive _ _ _ _ _).after_dropCachedAll _) _ h).after_replyPacket _
            _ _ _)

theorem after_execPktWrm : Goes s₀ (execPktWrm s) := by
  unfold execPktWrm
  dsimp only
  split
  · exact .next h
  · split
    · exact .next h
    · split
      · exact .next (h.after_replyPacket _ _ _ _)
      · refine .next (Keeps.after_replyPacket ?_ _ _ _ _)
        refine foldl_fst (fun x _ hp => ?_) _ h
        split
        · exact hp.after_metaWrite _ _ _
        · exact (hp.after_granArrive _ _ _ _ _).after_dropCachedAll _

theorem after_setCmd (c i : Nat) (q : EngCmd) : Keeps s₀ (setCmd s c i q) := by
  unfold setCmd
  exact h.after_setCore _ _

theorem after_countCmd (c : Nat) (q : EngCmd) (key : Nat) : Keeps s₀ (countCmd s c q key).1 := by
  have hread := h.after_sramRead q.ctx key 16
  unfold countCmd
  split
  split
  · dsimp only
    exact h.after_bcbCount _ _ _
  · split
    · next heq => exact hread.of_eq heq
    · next heq =>
        dsimp only
        split
        · next hwrite => exact ((hread.of_eq heq).after_sramWrite _ _ _).of_eq hwrite
        · next hwrite => exact (((hread.of_eq heq).after_sramWrite _ _ _).of_eq hwrite).after_setCtx _ _

theorem after_finishRecord (q : EngCmd) (status : Nat) : Keeps s₀ (finishRecord s q status) := by
  unfold finishRecord
  split
  · exact h
  · exact Keeps.ite ((h.after_recordDone _ _).after_recordError _ _ _) (h.after_recordDone _ _)

theorem after_forgetFaults (c ctx : Nat) : Keeps s₀ (forgetFaults s c ctx) := by
  unfold forgetFaults
  exact h.after_setCore _ _

theorem after_writeNfail (c : Nat) (q : EngCmd) : KeepsExcept s₀ (writeNfail s c q) := by
  unfold writeNfail
  split
  · exact .ok h
  · split
    · exact .ok h
    · exact .error (h.after_dumpStall _ _)
    · exact .error (h.after_askPages _ _ _)
    · split
      · exact .error h
      · split
        · next heq => exact .error ((h.after_agentWrite _ _ _ _ _).of_eq heq)
        · next heq => exact .ok ((h.after_agentWrite _ _ _ _ _).of_eq heq)

theorem after_finishCmd (c i : Nat) (q : EngCmd) (cancelled : Bool) : Keeps s₀ (finishCmd s c i q cancelled) := by
  have hnfail := h.after_writeNfail c q
  have hcount {u} (hu : Keeps s₀ u) (status : Nat) (bar : Option Nat) :
      Keeps s₀ (bar.elim (u, none) fun key => if status ≤ 1 then countCmd u c q key else (u, none)).1 := by
    cases bar with
    | none => exact hu
    | some key =>
      dsimp only [Option.elim_some]
      split
      · exact hu.after_countCmd _ _ _
      · exact hu
  unfold finishCmd
  dsimp only
  split
  · next heq => exact hnfail.of_error heq
  · next heq =>
      have hcounted := hcount (hnfail.of_ok heq) (if cancelled then 4 else q.status) q.bar
      split
      · next heq2 => exact hcounted.of_eq (by rw [← heq2]; cases q.bar <;> rfl)
      · next heq2 =>
          have hu := hcounted.of_eq (by rw [← heq2]; cases q.bar <;> rfl)
          exact (((Keeps.ite (hu.after_forgetFaults _ _) hu).after_setCore _ _).after_completeHandle _ _ _).after_finishRecord _ _

theorem after_execEngineCount : Goes s₀ (execEngineCount s) := by
  unfold execEngineCount
  dsimp only
  split
  · exact .next h
  · split
    · exact .next (h.after_finishCmd _ _ _ _)
    · split
      · exact .next (h.after_finishCmd _ _ _ _)
      · exact .next h

theorem after_execEngineRead : Goes s₀ (execEngineRead s) := by
  unfold execEngineRead
  dsimp only
  split
  · exact .next h
  · split
    · exact .next h
    · split
      · split
        · exact .next h
        · split
          · exact .next (h.after_setCmd _ _ _)
          · exact .next (h.after_askPages _ _ _)
          · exact .next (h.after_dumpStall _ _)
          · exact .next ((h.after_sendPacket _).after_setCmd _ _ _)
      · split
        · exact .next (h.after_setCmd _ _ _)
        · exact .next (Keeps.ite (h.after_setCmd _ _ _) h)
        · exact .next (Keeps.ite (h.after_setCmd _ _ _) h)
        · exact .next (h.after_askPages _ _ _)
        · exact .next h
        · split
          · exact .next h
          · exact .next ((h.after_sendPacket _).after_setCmd _ _ _)

theorem after_putUnit (key : Nat) (data : List (Option Byte)) (bad : Bool) : Keeps s₀ (putUnit s key data bad) := by
  unfold putUnit
  exact ((h.after_putBytes key (List.map (fun e => e.1.getD (s.mem.read (key + e.2))) data.zipIdx)).same).after_markBytes _ _ _ _

theorem after_execEngineWrite : Goes s₀ (execEngineWrite s) := by
  unfold execEngineWrite
  dsimp only
  split
  · exact .next h
  · split
    · exact .next h
    · split
      · exact .next h
      · split
        · exact .next (h.after_setCmd _ _ _)
        · split
          · exact .next (h.after_setCmd _ _ _)
          · exact .next (h.after_dumpStall _ _)
          · exact .next (h.after_askPages _ _ _)
          · split
            · exact .next ((h.after_sendPacket _).after_setCmd _ _ _)
            · split
              · exact .next h
              · exact .next (h.after_setCmd _ _ _)
              · exact .next (((h.after_putUnit _ _ _).after_crossPeer _ _).after_setCmd _ _ _)

theorem after_execReadReply : Goes s₀ (execReadReply s) := by
  unfold execReadReply
  dsimp only
  split
  · exact .next h
  · split
    · exact .next h
    · split
      · exact .next (h.after_dropPacket _ _)
      · split
        · exact .next (h.after_dropPacket _ _)
        · split
          · exact .next (h.after_dropPacket _ _)
          · exact .next ((h.after_dropPacket _ _).after_setCmd _ _ _)

theorem after_execWriteReply : Goes s₀ (execWriteReply s) := by
  unfold execWriteReply
  dsimp only
  split
  · exact .next h
  · split
    · exact .next h
    · split
      · exact .next (h.after_dropPacket _ _)
      · split
        · exact .next (h.after_dropPacket _ _)
        · split
          · exact .next (h.after_dropPacket _ _)
          · exact .next ((h.after_dropPacket _ _).after_setCmd _ _ _)

theorem after_acceptCmd (c : Nat) (q : EngCmd) : Keeps s₀ (acceptCmd s c q) := by
  unfold acceptCmd
  split
  · next heq => exact (h.after_fresh.of_eq heq).after_setCore _ _

theorem after_copIssue (v : View) (eng fn : Nat) (h' : Option (BitVec 4)) (a b : BitVec 5) (legal : EngCmd → Bool) :
    KeepsRes s₀ (copIssue v s eng fn h' a b legal) := by
  unfold copIssue
  refine h.after_withRoom _ _ _ _ (fun u hu1 => ?_)
  refine hu1.after_withBlock _ _ _ _ _ (fun u x bs hu2 => ?_)
  split
  · dsimp only
    split
    · exact .trap hu2
    · exact hu2.after_withBarrier _ _ _ _ (fun u bar hu3 => .done ((hu3.after_grantHandle _ _ _).after_acceptCmd _ _))
  · dsimp only
    split
    · exact .trap hu2
    · exact hu2.after_withBarrier _ _ _ _ (fun u bar hu3 => .done ((hu3.after_grantHandle _ _ _).after_acceptCmd _ _))

theorem after_execXcLoad (c : Ctl) (h' : Option (BitVec 4)) (a b : BitVec 5) : Goes s₀ (execXcLoad c h' a b s) := by
  unfold execXcLoad
  exact h.after_run _ _ _ (fun v u hu => hu.after_copIssue _ _ _ _ _ _ _)

theorem after_execXcStore (c : Ctl) (h' : Option (BitVec 4)) (a b : BitVec 5) : Goes s₀ (execXcStore c h' a b s) := by
  unfold execXcStore
  exact h.after_run _ _ _ (fun v u hu => hu.after_copIssue _ _ _ _ _ _ _)

theorem after_execXcMcast (c : Ctl) (h' : Option (BitVec 4)) (a b : BitVec 5) : Goes s₀ (execXcMcast c h' a b s) := by
  unfold execXcMcast
  exact h.after_run _ _ _ (fun v u hu => hu.after_copIssue _ _ _ _ _ _ _)

theorem after_execXcGather (c : Ctl) (h' : Option (BitVec 4)) (a b : BitVec 5) : Goes s₀ (execXcGather c h' a b s) := by
  unfold execXcGather
  exact h.after_run _ _ _ (fun v u hu => hu.after_copIssue _ _ _ _ _ _ _)

theorem after_execXcScatter (c : Ctl) (h' : Option (BitVec 4)) (a b : BitVec 5) : Goes s₀ (execXcScatter c h' a b s) := by
  unfold execXcScatter
  exact h.after_run _ _ _ (fun v u hu => hu.after_copIssue _ _ _ _ _ _ _)

theorem after_execXcFill (c : Ctl) (h' : Option (BitVec 4)) (a b : BitVec 5) : Goes s₀ (execXcFill c h' a b s) := by
  unfold execXcFill
  exact h.after_run _ _ _ (fun v u hu => hu.after_copIssue _ _ _ _ _ _ _)

theorem after_execXcPeer (c : Ctl) (h' : Option (BitVec 4)) (a b : BitVec 5) : Goes s₀ (execXcPeer c h' a b s) := by
  unfold execXcPeer
  exact h.after_run _ _ _ (fun v u hu => hu.after_copIssue _ _ _ _ _ _ _)

theorem after_execXcCsum (c : Ctl) (h' : Option (BitVec 4)) (a b : BitVec 5) : Goes s₀ (execXcCsum c h' a b s) := by
  unfold execXcCsum
  exact h.after_run _ _ _ (fun v u hu => hu.after_copIssue _ _ _ _ _ _ _)

theorem after_execBasAxpby (c : Ctl) (h' : Option (BitVec 4)) (a b : BitVec 5) : Goes s₀ (execBasAxpby c h' a b s) := by
  unfold execBasAxpby
  exact h.after_run _ _ _ (fun v u hu => hu.after_copIssue _ _ _ _ _ _ _)

theorem after_execBasScal (c : Ctl) (h' : Option (BitVec 4)) (a b : BitVec 5) : Goes s₀ (execBasScal c h' a b s) := by
  unfold execBasScal
  exact h.after_run _ _ _ (fun v u hu => hu.after_copIssue _ _ _ _ _ _ _)

theorem after_execBasSgd (c : Ctl) (h' : Option (BitVec 4)) (a b : BitVec 5) : Goes s₀ (execBasSgd c h' a b s) := by
  unfold execBasSgd
  exact h.after_run _ _ _ (fun v u hu => hu.after_copIssue _ _ _ _ _ _ _)

theorem after_execBasMom (c : Ctl) (h' : Option (BitVec 4)) (a b : BitVec 5) : Goes s₀ (execBasMom c h' a b s) := by
  unfold execBasMom
  exact h.after_run _ _ _ (fun v u hu => hu.after_copIssue _ _ _ _ _ _ _)

theorem after_execBasSum (c : Ctl) (h' : Option (BitVec 4)) (a b : BitVec 5) : Goes s₀ (execBasSum c h' a b s) := by
  unfold execBasSum
  exact h.after_run _ _ _ (fun v u hu => hu.after_copIssue _ _ _ _ _ _ _)

theorem after_execBasFill (c : Ctl) (h' : Option (BitVec 4)) (a b : BitVec 5) : Goes s₀ (execBasFill c h' a b s) := by
  unfold execBasFill
  exact h.after_run _ _ _ (fun v u hu => hu.after_copIssue _ _ _ _ _ _ _)

theorem after_execBasCopy (c : Ctl) (h' : Option (BitVec 4)) (a b : BitVec 5) : Goes s₀ (execBasCopy c h' a b s) := by
  unfold execBasCopy
  exact h.after_run _ _ _ (fun v u hu => hu.after_copIssue _ _ _ _ _ _ _)

theorem after_execBasCvt (c : Ctl) (h' : Option (BitVec 4)) (a b : BitVec 5) : Goes s₀ (execBasCvt c h' a b s) := by
  unfold execBasCvt
  exact h.after_run _ _ _ (fun v u hu => hu.after_copIssue _ _ _ _ _ _ _)

theorem after_execBasStat (c : Ctl) (h' : Option (BitVec 4)) (a b : BitVec 5) : Goes s₀ (execBasStat c h' a b s) := by
  unfold execBasStat
  exact h.after_run _ _ _ (fun v u hu => hu.after_copIssue _ _ _ _ _ _ _)

end Keeps
end Sys2Proof.Proofs
end

section
/-! PROOFS. The functions of Machine/Tier.lean keep memory's canonical form. -/
namespace Sys2Proof.Proofs
set_option Elab.async false

open Sys2Proof Sys2Proof.Machine Sys2Proof.Claims

namespace Keeps

variable {s₀ s t : State} (h : Keeps s₀ s)
include h

theorem after_readArray (grade a n : Nat) : Keeps s₀ (readArray s grade a n).1 := by
  unfold readArray
  refine foldl_fst (fun p i hp => ?_) _ h
  exact hp.after_granRead _ _

theorem after_writeArray (grade a : Nat) (bs : List Byte) : Keeps s₀ (writeArray s grade a bs) := by
  unfold writeArray
  exact Keeps.foldl (fun u x hu => (hu.after_granWriteAll _ _ _).after_dropCachedAll _) _ h

omit h in
theorem after_basGranule (fn : Nat) (k0 k1 : Word) (first lo hi : Nat) (ins outs : List (Nat × Nat)) {acc : Machine.State × PieceState}
    (h : Keeps s₀ acc.1) : Keeps s₀ (basGranule fn k0 k1 first lo hi ins outs acc).1 := by
  unfold basGranule
  dsimp only
  split
  · refine foldl_fst (fun p e hp => ?_) _ h
    exact hp.after_readArray _ _ _
  · refine Keeps.foldl (fun u e hu => hu.after_writeArray _ _ _) _ (foldl_fst (fun p e hp => ?_) _ h)
    exact hp.after_readArray _ _ _

theorem after_basPiece (fn : Nat) (k0 k1 : Word) (first count : Nat) (ins outs : List (Nat × Nat)) :
    Keeps s₀ (basPiece s fn k0 k1 first count ins outs).1 := by
  unfold basPiece
  exact foldl_fst (fun p i hp => after_basGranule _ _ _ _ _ _ _ _ hp) _ h

theorem after_setTier (ctx n : Nat) (t' : Tier) : Keeps s₀ (s.setTier ctx n t') := by
  unfold State.setTier
  exact h.after_setCtx _ _

theorem after_devTouch (home ctx : Nat) (dev : BitVec 128) (off : Nat) : Keeps s₀ (devTouch s home ctx dev off) := by
  unfold devTouch
  exact h.after_touchPage _ _ _

theorem after_devRead (home ctx : Nat) (dev : BitVec 128) (off n : Nat) : Keeps s₀ (devRead s home ctx dev off n).1 := by
  unfold devRead
  dsimp only
  split
  · split
    · next heq => exact ((h.after_devTouch _ _ _ _).after_agentRead _ _ _ _ _).of_eq heq
    · next heq => exact ((h.after_devTouch _ _ _ _).after_agentRead _ _ _ _ _).of_eq heq
  · exact h.after_devTouch _ _ _ _
  · exact h.after_devTouch _ _ _ _

theorem after_devWrite (home ctx : Nat) (dev : BitVec 128) (off : Nat) (bs : List Byte) :
    Keeps s₀ (devWrite s home ctx dev off bs).1 := by
  unfold devWrite
  dsimp only
  split
  · exact (h.after_devTouch _ _ _ _).after_agentWrite _ _ _ _ _
  · exact h.after_devTouch _ _ _ _
  · exact (h.after_devTouch _ _ _ _).after_dumpStall _ _
  · exact h.after_devTouch _ _ _ _

theorem after_readRow (ctx : Nat) (x b : BitVec 512) (dev : BitVec 128) (k : Nat) : Keeps s₀ (readRow s ctx x b dev k).1 := by
  unfold readRow
  split
  · next heq => exact (h.after_devRead _ _ _ _ _).of_eq heq
  · next heq => exact (h.after_devRead _ _ _ _ _).of_eq heq
  · next heq1 => exact (h.after_devRead _ _ _ _ _).of_eq heq1

theorem after_readRows (ctx : Nat) (x b : BitVec 512) (dev : BitVec 128) (xs : List Nat) :
    Keeps s₀ (readRows s ctx x b dev xs).1 := by
  induction xs generalizing s ctx x b dev with
  | nil => exact h
  | cons head tail ih =>
    unfold readRows
    split
    · next heq => exact (h.after_readRow _ _ _ _ _).of_eq heq
    · next heq =>
        split
        · next heq1 => exact (ih ((h.after_readRow _ _ _ _ _).of_eq heq) _ _ _ _).of_eq heq1
        · next heq1 => exact (ih ((h.after_readRow _ _ _ _ _).of_eq heq) _ _ _ _).of_eq heq1

theorem after_readMap (ctx : Nat) (x b : BitVec 512) (dev : BitVec 128) : Keeps s₀ (readMap s ctx x b dev).1 := by
  unfold readMap
  exact h.after_readRows _ _ _ _ _

theorem after_writeMap (ctx : Nat) (x b : BitVec 512) (dev : BitVec 128) (r : MapRow) : Keeps s₀ (writeMap s ctx x b dev r).1 := by
  unfold writeMap
  split
  · exact h
  · split
    · next heq => exact (h.after_devWrite _ _ _ _ _).of_eq heq
    · next heq => exact (h.after_devWrite _ _ _ _ _).of_eq heq
    · next heq1 => exact (h.after_devWrite _ _ _ _ _).of_eq heq1

theorem after_readPiece (f : Fmt) (p : RowPiece) : Keeps s₀ (readPiece s f p).1 := by
  unfold readPiece
  refine foldl_fst (fun acc g hacc => ?_) _ h
  exact hacc.after_granRead _ _

theorem after_poolPart (j : TmvJob) (x : BitVec 512) (rows : List (Nat × List RowPiece)) : Keeps s₀ (poolPart s j x rows).1 := by
  unfold poolPart
  refine foldl_fst (fun p e hp => ?_) _ h
  dsimp only
  split
  · refine foldl_fst (fun a q ha => ?_) _ hp
    exact ha.after_readPiece _ _
  · refine foldl_fst (fun a q ha => ?_) _ hp
    exact ha.after_readPiece _ _

theorem after_tellMark (c ctx : Nat) (number : BitVec 16) (id stage : Nat) : Keeps s₀ (tellMark s c ctx number id stage) := by
  unfold tellMark
  split
  · exact h
  · dsimp only
    split
    · exact h
    · exact Keeps.ite h (h.after_setKept _ _ _)

theorem after_endMark (c ctx : Nat) (number : BitVec 16) (id : Nat) (t' : Option TrapRec) :
    Keeps s₀ (endMark s c ctx number id t') := by
  unfold endMark
  split
  · exact h
  · split
    · dsimp only
      split
      · exact h
      · exact h.after_setKept _ _ _
    · dsimp only
      split
      · exact h
      · exact h.after_setKept _ _ _

theorem after_updTileOf (c ctx t' : Nat) (f : Tile → Tile) : Keeps s₀ (updTileOf s c ctx t' f) := by
  unfold updTileOf
  exact Keeps.ite (h.after_setCore _ _) (h.after_setCtx _ _)

theorem after_dropTile (j : TmvJob) : Keeps s₀ (dropTile s j) := by
  unfold dropTile
  exact h.after_updTileOf _ _ _ _

theorem after_failTmv (j : TmvJob) (code addr : Nat) : Keeps s₀ (failTmv s j code addr) := by
  unfold failTmv
  exact ((h.after_dropTile _).after_tellMark _ _ _ _ _).after_endMark _ _ _ _ _

theorem after_countRows (ctx : Nat) (x b : BitVec 512) (dev : BitVec 128) (rows : List MapRow) :
    Keeps s₀ (countRows s ctx x b dev rows) := by
  unfold countRows
  exact Keeps.foldl (fun u x hu => hu.after_writeMap _ _ _ _ _) _ h

omit h in
theorem findSome? {α : Type} {f : α → Option Machine.State} (hf : ∀ x, KeepsOpt s₀ (f x)) (xs : List α) :
    KeepsOpt s₀ (xs.findSome? f) := by
  induction xs with
  | nil => exact .none
  | cons x xs ih =>
    rw [List.findSome?_cons]
    split
    · next heq => exact heq ▸ hf x
    · exact ih

theorem after_mapHold (home ctx : Nat) (x : BitVec 512) (dev : BitVec 128) (write : Bool) (ks : List Nat) :
    KeepsOpt s₀ (mapHold s home ctx x dev write ks) := by
  refine findSome? (fun k => ?_) ks
  split
  · exact .some (h.after_dumpStall _ _)
  · exact .some h
  · exact .none

theorem after_pushCascadeOf (c ctx : Nat) (x : CascadeOp) : Keeps s₀ (pushCascadeOf s c ctx x) := by
  unfold pushCascadeOf
  exact Keeps.ite (h.after_setCore _ _) (h.after_setCtx _ _)

theorem after_endFire (j : FireJob) (t' : Option TrapRec) : Keeps s₀ (endFire s j t') := by
  unfold endFire
  exact (h.after_tellMark _ _ _ _ _).after_endMark _ _ _ _ _

theorem after_runFire (tid : Nat) (j : FireJob) : Keeps s₀ (runFire s tid j) := by
  unfold runFire
  dsimp only
  split
  · exact h.after_endFire _ _
  · split
    · next heq => exact ((h.after_readRows _ _ _ _ _).of_eq heq).after_endFire _ _
    · next heq =>
        split
        · exact ((h.after_readRows _ _ _ _ _).of_eq heq).after_endFire _ _
        · exact (Keeps.foldl (fun u x hu => hu.after_setCore _ _) _ ((h.after_readRows _ _ _ _ _).of_eq heq)).after_endFire _ _

theorem after_startTmv (tid : Nat) (j : TmvJob) : Keeps s₀ (startState (startTmv s tid j)) := by
  unfold startTmv
  dsimp only
  split
  · exact h
  · split
    · next heq => exact (h.after_mapHold _ _ _ _ _ _).of_some heq
    · split
      · next heq => exact (h.after_readRows _ _ _ _ _).of_eq heq
      · next heq =>
          have hread := (h.after_readRows _ _ _ _ _).of_eq heq
          split
          · exact hread
          · exact Keeps.ite ((Keeps.foldl (fun u e hu => Keeps.foldl (fun w p hw => hw.after_touchPage _ _ _) _ hu) _
                hread).after_countRows _ _ _ _ _)
              (Keeps.foldl (fun u e hu => Keeps.foldl (fun w p hw => hw.after_touchPage _ _ _) _ hu) _ hread)

theorem after_tierProceed (ctx tid fuel : Nat) : Keeps s₀ (tierProceed ctx tid fuel s) := by
  induction fuel generalizing s with
  | zero => exact h
  | succ fuel ih =>
    unfold tierProceed
    dsimp only
    split
    · exact h
    · split
      · exact h
      · next j rest _ =>
          have hstart := h.after_startTmv tid j
          split
          · exact h
          · split
            · next heq =>
                rw [heq] at hstart
                exact hstart
            · next heq =>
                rw [heq] at hstart
                exact ih ((hstart.after_setTier _ _ _).after_failTmv _ _ _)
            · next heq =>
                rw [heq] at hstart
                exact ih (((hstart.after_setTier _ _ _).after_pushCascadeOf _ _ _).after_tellMark _ _ _ _ _)
      · split
        · exact h
        · exact ih ((h.after_setTier _ _ _).after_runFire _ _)
      · exact h.after_setTier _ _ _
      · exact h.after_setTier _ _ _

theorem after_tierRun (ctx tid : Nat) : Keeps s₀ (tierRun s ctx tid) := by
  unfold tierRun
  exact h.after_tierProceed _ _ _

theorem after_tierArrive (ctx tid : Nat) (op : TierOp) : Keeps s₀ (tierArrive s ctx tid op) := by
  unfold tierArrive
  exact (h.after_setTier _ _ _).after_tierRun _ _

theorem after_tierDrop (ctx : Nat) (ops : List TierOp) : Keeps s₀ (tierDrop s ctx ops) := by
  unfold tierDrop
  refine Keeps.foldl (fun _ _ hp => ?_) _ h
  split
  · exact hp.after_failTmv _ _ _
  · exact (hp.after_tellMark _ _ _ _ _).after_endMark _ _ _ _ _
  · exact hp.after_completeHandle _ _ _
  · exact hp

theorem after_tierComplete (ctx tid : Nat) (unbound : Bool) : Keeps s₀ (tierComplete s ctx tid unbound) := by
  unfold tierComplete
  split
  · refine (Keeps.after_setTier ?_ _ _ _).after_tierDrop _ _
    split
    · exact h.after_completeHandle _ _ _
    · exact h
  · refine (Keeps.after_setTier ?_ _ _ _).after_tierRun _ _
    split
    · exact h.after_completeHandle _ _ _
    · exact h

theorem after_rowByRow (f : Machine.State → Tier → Nat → Machine.State × Tier) (t' : Tier) (ks : List Nat)
    (hf : ∀ u x y, Keeps s₀ u → Keeps s₀ (f u x y).1) :
    Keeps s₀ (rowByRow f s t' ks).1 := by
  unfold rowByRow
  refine foldl_fst (fun z _ hp => ?_) _ h
  split
  · exact hp
  · exact hf _ _ _ hp

theorem after_changeRow (ctx : Nat) (dev : BitVec 128) (f : MapRow → MapRow) (t' : Tier) (k : Nat) :
    Keeps s₀ (changeRow ctx dev f s t' k).1 := by
  unfold changeRow
  split
  · next heq => exact (h.after_readRow _ _ _ _ _).of_eq heq
  · next heq =>
      split
      · exact (h.after_readRow _ _ _ _ _).of_eq heq
      · split
        · next heq1 => exact (((h.after_readRow _ _ _ _ _).of_eq heq).after_writeMap _ _ _ _ _).of_eq heq1
        · next heq1 => exact (((h.after_readRow _ _ _ _ _).of_eq heq).after_writeMap _ _ _ _ _).of_eq heq1

theorem after_refreshRun (ctx : Nat) (dev : BitVec 128) (xs : List TierRow) (x : Tier) :
    Keeps s₀ (refreshRun ctx dev xs s x).1 := by
  induction xs generalizing s ctx dev x with
  | nil => exact h
  | cons head tail ih =>
    unfold refreshRun
    split
    · next heq => exact (h.after_readRow _ _ _ _ _).of_eq heq
    · next heq =>
        split
        · exact ih ((h.after_readRow _ _ _ _ _).of_eq heq) _ _ _
        · split
          · exact (h.after_readRow _ _ _ _ _).of_eq heq
          · split
            · next heq1 => exact (((h.after_readRow _ _ _ _ _).of_eq heq).after_writeMap _ _ _ _ _).of_eq heq1
            · next heq1 => exact ih ((((h.after_readRow _ _ _ _ _).of_eq heq).after_writeMap _ _ _ _ _).of_eq heq1) _ _ _

theorem after_refresh (ctx : Nat) (b : BitVec 512) (dev : BitVec 128) (t' : Tier) : Keeps s₀ (refresh s ctx b dev t').1 := by
  unfold refresh
  exact h.after_refreshRun _ _ _ _

theorem after_readPin (ctx : Nat) (b : BitVec 512) (dev : BitVec 128) (k : Nat) : Keeps s₀ (readPin s ctx b dev k).1 := by
  unfold readPin
  split
  · exact h
  · split
    · next heq => exact (h.after_devRead _ _ _ _ _).of_eq heq
    · next heq => exact (h.after_devRead _ _ _ _ _).of_eq heq

theorem after_readPins (ctx : Nat) (b : BitVec 512) (dev : BitVec 128) (fuel : Nat) : Keeps s₀ (readPins s ctx b dev fuel).1 := by
  induction fuel generalizing s ctx b dev with
  | zero => exact h
  | succ fuel ih =>
    unfold readPins
    split
    · next heq => exact (ih h _ _ _).of_eq heq
    · next heq =>
        split
        · next heq1 => exact (((ih h _ _ _).of_eq heq).after_readPin _ _ _ _).of_eq heq1
        · next heq1 => exact (((ih h _ _ _).of_eq heq).after_readPin _ _ _ _).of_eq heq1
        · next heq2 => exact (((ih h _ _ _).of_eq heq).after_readPin _ _ _ _).of_eq heq2

theorem after_copyRow (ctx : Nat) (x b : BitVec 512) (dev : BitVec 128) (k slot : Nat) :
    Keeps s₀ (copyRow s ctx x b dev k slot).1 := by
  unfold copyRow
  dsimp only
  generalize hgot : List.foldl _ _ _ = got
  have hread : Keeps s₀ got.1 := by
    rw [← hgot]
    refine foldl_fst (fun p e hp => ?_) _ h
    obtain ⟨u, f | bs⟩ := p
    · exact hp
    · dsimp only
      split
      · next heq => exact (hp.after_devRead _ _ _ _ _).of_eq heq
      · next heq => exact (hp.after_devRead _ _ _ _ _).of_eq heq
  split
  · exact hread
  · split
    · next heq => exact (hread.after_sramWrite _ _ _).of_eq heq
    · next heq => exact (hread.after_sramWrite _ _ _).of_eq heq

theorem after_enterRow (ctx : Nat) (t' : Tier) (dev : BitVec 128) (row : TierRow) : Keeps s₀ (enterRow s ctx t' dev row).1 := by
  unfold enterRow
  split
  · next heq => exact (h.after_readRow _ _ _ _ _).of_eq heq
  · next heq =>
      split
      · exact (h.after_readRow _ _ _ _ _).of_eq heq
      · split
        · next heq1 =>
            split
            · next heq2 =>
                refine Keeps.of_eq ?_ heq2
                split
                · exact ((((h.after_readRow _ _ _ _ _).of_eq heq).after_copyRow _ _ _ _ _ _).of_eq heq1).after_writeMap _ _ _ _ _
                · exact (((h.after_readRow _ _ _ _ _).of_eq heq).after_copyRow _ _ _ _ _ _).of_eq heq1
            · next heq2 =>
                refine Keeps.of_eq ?_ heq2
                split
                · exact ((((h.after_readRow _ _ _ _ _).of_eq heq).after_copyRow _ _ _ _ _ _).of_eq heq1).after_writeMap _ _ _ _ _
                · exact (((h.after_readRow _ _ _ _ _).of_eq heq).after_copyRow _ _ _ _ _ _).of_eq heq1
        · next heq3 => exact (((h.after_readRow _ _ _ _ _).of_eq heq).after_copyRow _ _ _ _ _ _).of_eq heq3
        · next heq1 =>
            split
            · next heq2 =>
                  exact (((((h.after_readRow _ _ _ _ _).of_eq heq).after_copyRow _ _ _ _ _ _).of_eq heq1).after_writeMap _ _ _ _
                      _).of_eq heq2
            · next heq2 =>
                  exact (((((h.after_readRow _ _ _ _ _).of_eq heq).after_copyRow _ _ _ _ _ _).of_eq heq1).after_writeMap _ _ _ _
                      _).of_eq heq2

theorem after_beginMig (ctx : Nat) (t' : Tier) (dev : BitVec 128) : Keeps s₀ (beginMig s ctx t' dev).1 := by
  unfold beginMig
  dsimp only
  exact h.after_rowByRow _ _ _ (fun u t k hu => hu.after_changeRow _ _ _ _ _)

theorem after_ageRows (ctx : Nat) (t' : Tier) (dev : BitVec 128) (n : Nat) : Keeps s₀ (ageRows s ctx t' dev n).1 := by
  unfold ageRows
  exact h.after_rowByRow _ _ _ (fun u t k hu => hu.after_changeRow _ _ _ _ _)

theorem after_rankRows (ctx : Nat) (t' : Tier) (dev : BitVec 128) : Keeps s₀ (rankRows s ctx t' dev).1 := by
  unfold rankRows
  split
  · next heq =>
      dsimp only
      exact (h.after_readMap _ _ _ _).of_eq heq
  · next heq =>
      dsimp only
      split
      · next heq1 => exact (((h.after_readMap _ _ _ _).of_eq heq).after_readPins _ _ _ _).of_eq heq1
      · next heq1 =>
          split
          · exact (((h.after_readMap _ _ _ _).of_eq heq).after_readPins _ _ _ _).of_eq heq1
          · exact (((h.after_readMap _ _ _ _).of_eq heq).after_readPins _ _ _ _).of_eq heq1

theorem after_writePin (ctx : Nat) (dev : BitVec 128) (val : Nat) (t' : Tier) (k : Nat) : Keeps s₀ (writePin ctx dev val s t' k).1 := by
  unfold writePin
  dsimp only
  split
  · next heq => exact (h.after_devRead _ _ _ _ _).of_eq heq
  · next heq1 => exact (h.after_devRead _ _ _ _ _).of_eq heq1
  · next heq =>
      split
      · next heq2 => exact (((h.after_devRead _ _ _ _ _).of_eq heq).after_devWrite _ _ _ _ _).of_eq heq2
      · next heq2 => exact (((h.after_devRead _ _ _ _ _).of_eq heq).after_devWrite _ _ _ _ _).of_eq heq2
      · next heq3 => exact (((h.after_devRead _ _ _ _ _).of_eq heq).after_devWrite _ _ _ _ _).of_eq heq3

theorem after_pinEnter (ctx : Nat) (t' : Tier) (dev : BitVec 128) (k : Nat) : Keeps s₀ (pinEnter s ctx t' dev k).1 := by
  unfold pinEnter
  split
  · next heq => exact (h.after_readMap _ _ _ _).of_eq heq
  · next heq =>
      split
      · exact ((h.after_readMap _ _ _ _).of_eq heq).after_enterRow _ _ _ _
      · split
        · next heq1 => exact (((h.after_readMap _ _ _ _).of_eq heq).after_readPins _ _ _ _).of_eq heq1
        · next heq1 =>
            split
            · exact (((h.after_readMap _ _ _ _).of_eq heq).after_readPins _ _ _ _).of_eq heq1
            · split
              · next heq2 =>
                  split
                  · exact (((((h.after_readMap _ _ _ _).of_eq heq).after_readPins _ _ _ _).of_eq heq1).after_changeRow _ _ _ _
                        _).of_eq heq2
                  · exact ((((((h.after_readMap _ _ _ _).of_eq heq).after_readPins _ _ _ _).of_eq heq1).after_changeRow _ _ _ _
                        _).of_eq heq2).after_enterRow _ _ _ _

theorem after_pinRow (ctx : Nat) (dev : BitVec 128) (val : Nat) (t' : Tier) (k : Nat) : Keeps s₀ (pinRow ctx dev val s t' k).1 := by
  unfold pinRow
  split
  · next heq => exact (h.after_readRow _ _ _ _ _).of_eq heq
  · next heq =>
      split
      · exact (h.after_readRow _ _ _ _ _).of_eq heq
      · split
        · exact ((h.after_readRow _ _ _ _ _).of_eq heq).after_changeRow _ _ _ _ _
        · split
          · exact ((h.after_readRow _ _ _ _ _).of_eq heq).after_pinEnter _ _ _ _
          · exact (h.after_readRow _ _ _ _ _).of_eq heq

theorem after_pinRows (ctx : Nat) (t' : Tier) (dev : BitVec 128) (val k0 count : Nat) :
    Keeps s₀ (pinRows s ctx t' dev val k0 count).1 := by
  unfold pinRows
  split
  · exact h
  · dsimp only
    exact (h.after_rowByRow _ _ _ (fun u t k hu => hu.after_writePin _ _ _ _ _)).after_rowByRow _ _ _
        (fun u t k hu => hu.after_pinRow _ _ _ _ _)

theorem after_tierAct (ctx : Nat) (t' : Tier) (c : TierCmd) : Keeps s₀ (tierAct s ctx t' c).1 := by
  unfold tierAct
  split
  · exact h.after_refresh _ _ _ _
  · exact h.after_rankRows _ _ _
  · exact h.after_beginMig _ _ _
  · exact h.after_ageRows _ _ _ _
  · exact h.after_pinRows _ _ _ _ _ _

theorem after_tierAfter (ctx tid : Nat) (t' : Tier) : Keeps s₀ (tierAfter s ctx tid t') := by
  unfold tierAfter
  exact Keeps.ite ((h.after_setTier _ _ _).after_tierComplete _ _ _) (h.after_setTier _ _ _)

theorem after_tierHold (ctx : Nat) (x : Tier) (dev : BitVec 128) : KeepsOpt s₀ (tierHold s ctx x dev) := by
  have hmap := h.after_mapHold (cfgHome x.block) ctx x.entry dev true (List.range (tierK x.entry))
  unfold tierHold
  dsimp only
  generalize mapHold _ _ _ _ _ _ _ = held at hmap ⊢
  cases hmap with
  | some hu => exact .some hu
  | none =>
    rw [Option.none_or]
    split
    · exact .none
    · refine findSome? (fun k => ?_) _
      split
      · exact .some (h.after_dumpStall _ _)
      · exact .some h
      · exact .none

theorem after_execTierWorking : Goes s₀ (execTierWorking s) := by
  unfold execTierWorking
  dsimp only
  split
  · split
    · exact .next h
    · split
      · next heq => exact .next ((h.after_tierHold _ _ _).of_some heq)
      · split
        · exact .next ((h.after_setTier _ _ _).after_tierComplete _ _ _)
        · exact .next ((h.after_tierAct _ _ _).after_tierAfter _ _ _)
  · exact .next h

theorem after_execAutoAgeing : Goes s₀ (execAutoAgeing s) := by
  unfold execAutoAgeing
  split
  · dsimp only
    split
    · exact .next h
    · exact .next h
  · dsimp only
    split
    · split
      · next heq => exact .next ((h.after_tierHold _ _ _).of_some heq)
      · exact .next (((h.after_ageRows _ _ _ _).after_setTier _ _ _).after_tierComplete _ _ _)
    · exact .next h

theorem after_execTierCopyDone : Goes s₀ (execTierCopyDone s) := by
  unfold execTierCopyDone
  dsimp only
  split
  · split
    · exact .next h
    · split
      · next heq => exact .next ((h.after_tierHold _ _ _).of_some heq)
      · refine .next (Keeps.after_tierAfter ?_ _ _ _)
        split
        · split
          · exact h.after_enterRow _ _ _ _
          · exact (h.after_enterRow _ _ _ _).after_refreshRun _ _ _ _
        · exact h.after_enterRow _ _ _ _
  · exact .next h

theorem after_sendDue (ctx tid : Nat) (t' : Tier) (j : TmvJob) : Keeps s₀ (sendDue s ctx tid t' j).1 := by
  unfold sendDue
  dsimp only
  exact Keeps.foldl (fun u x hu => hu.after_sendPacket _) _ h

theorem after_setJob (ctx tid : Nat) (j : TmvJob) : Keeps s₀ (setJob s ctx tid j) := by
  unfold setJob
  exact h.after_setTier _ _ _

theorem after_execTmvJoin : Goes s₀ (execTmvJoin s) := by
  unfold execTmvJoin
  dsimp only
  split
  · exact .next h
  · split
    · exact .next ((h.after_sendDue _ _ _ _).after_setJob _ _ _)
    · split
      · exact .next h
      · split
        · exact .next (((h.after_setTier _ _ _).after_failTmv _ _ _).after_tierRun _ _)
        · exact .next (((((h.after_setCore _ _).after_raiseStrand _ _ _ _).after_endMark _ _ _ _ _).after_setTier _ _
              _).after_tierRun _ _)

theorem after_tmvStep (c : Nat) (x : CascadeOp) : Keeps s₀ (tmvStep s c x) := by
  unfold tmvStep
  dsimp only
  split
  · exact h.after_setCore _ _
  · exact (Keeps.ite (h.after_setCore _ _) h).after_setJob _ _ _

theorem after_execCascadeStep : Goes s₀ (execCascadeStep s) := by
  unfold execCascadeStep
  dsimp only
  split
  · exact .next h
  · split
    · exact .next h
    · split
      · exact .next (h.after_tmvStep _ _)
      · exact .next (h.after_matrixStep _ _)

theorem after_execPktNmc : Goes s₀ (execPktNmc s) := by
  unfold execPktNmc
  dsimp only
  split
  · exact .next h
  · split
    · exact .next h
    · split
      · split
        · exact .next (h.after_replyPacket _ _ _ _)
        · split
          · exact .next (h.after_replyPacket _ _ _ _)
          · exact .next ((h.after_basPiece _ _ _ _ _ _ _).after_replyPacket _ _ _ _)
      · split
        · exact .next (h.after_replyPacket _ _ _ _)
        · split
          · exact .next ((h.after_replyPacket _ _ _ _).after_setJob _ _ _)
          · exact .next (((h.after_poolPart _ _ _).after_setJob _ _ _).after_replyPacket _ _ _ _)
      · exact .next (h.after_replyPacket _ _ _ _)

theorem after_execNmcReply : Goes s₀ (execNmcReply s) := by
  unfold execNmcReply
  dsimp only
  split
  · exact .next h
  · split
    · exact .next h
    · split
      · exact .next (h.after_dropPacket _ _)
      · split
        · exact .next (h.after_dropPacket _ _)
        · split
          · exact .next (h.after_dropPacket _ _)
          · exact .next (Keeps.ite (((h.after_dropPacket _ _).after_setCmd _ _ _).after_finishCmd _ _ _ _)
                ((h.after_dropPacket _ _).after_setCmd _ _ _))

theorem after_tierTurn (v : View) (home : Nat) (k : Machine.State → Res) (hk : ∀ u, Keeps s₀ u → KeepsRes s₀ (k u)) :
    KeepsRes s₀ (tierTurn v s home k) := by
  unfold tierTurn
  split
  · exact .stay h
  · exact hk _ (h.after_arbiterServe _ _ _ _ _ _)

theorem after_addMark (v : View) : Keeps s₀ (addMark v s).1 := by
  unfold addMark
  split
  · next heq =>
      dsimp only
      exact (h.after_fresh.of_eq heq).after_setStrand _ _

theorem after_tierWait (v : View) : KeepsRes s₀ (tierWait v s) := by
  unfold tierWait
  split
  · exact .done h
  · exact .stay h

theorem after_tmvInputs (v : View) (seg eb n b off stride : Nat) (k : Machine.State → List (List Nat) → Machine.Res)
    (hk : ∀ u xs, Keeps s₀ u → KeepsRes s₀ (k u xs)) : KeepsRes s₀ (tmvInputs v s seg eb n b off stride k) := by
  unfold tmvInputs
  dsimp only
  split
  · exact .trap h
  · split
    · exact .trap h
    · refine hk _ _ (foldl_fst (fun acc e hacc => ?_) _ h)
      exact hacc.after_loadSpan _ _ _ _ _

theorem after_execTmv (c : Ctl) (nocnt : Bool) (d a : Operand) : Goes s₀ (execTmv c nocnt d a s) := by
  unfold execTmv
  refine h.after_run _ _ _ (fun v u hu1 => ?_)
  split
  · dsimp only
    exact .done hu1
  · split
    · dsimp only
      exact hu1.after_tierWait _
    · dsimp only
      split
      · exact .trap hu1
      · split
        · exact .trap hu1
        · split
          · exact .trap hu1
          · split
            · exact .trap hu1
            · split
              · exact .stay hu1
              · exact hu1.after_tmvInputs _ _ _ _ _ _ _ _ (fun u xs hu2 => hu2.after_tierTurn _ _ _
                    (fun u hu3 => ((((hu3.after_addMark _).after_setProg _ _).after_setCore _ _).after_tierArrive _ _
                    _).after_tierWait _))

theorem after_execFireRd (c : Ctl) (a : Operand) : Goes s₀ (execFireRd c a s) := by
  unfold execFireRd
  refine h.after_run _ _ _ (fun v u hu1 => ?_)
  split
  · dsimp only
    exact .done hu1
  · split
    · dsimp only
      exact hu1.after_tierWait _
    · dsimp only
      split
      · exact .trap hu1
      · split
        · exact .trap hu1
        · split
          · exact .trap hu1
          · exact hu1.after_withAccess _ _ _ (fun ps => hu1.after_tierTurn _ _ _
                (fun u hu2 => (((hu2.after_addMark _).after_setProg _ _).after_tierArrive _ _ _).after_tierWait _))

theorem after_sendTier (v : View) (h' : Option (BitVec 4)) (home tid : Nat) (act : TierAct) :
    KeepsRes s₀ (sendTier v s h' home tid act) := by
  unfold sendTier
  refine h.after_tierTurn _ _ _ (fun u hu => ?_)
  split
  · next heq => exact .done (((hu.after_grantHandle _ _ _).of_eq heq).after_tierArrive _ _ _)

theorem after_tierCommand (v : View) (h' : Option (BitVec 4)) (b tid : Nat) (legal : Bool) (act : BitVec 512 → Option TierAct) :
    KeepsRes s₀ (tierCommand v s h' b tid legal act) := by
  unfold tierCommand
  refine h.after_withRoom _ _ _ _ (fun u hu => ?_)
  split
  · exact .trap hu
  · split
    · exact .trap hu
    · split
      · exact .trap hu
      · exact hu.after_sendTier _ _ _ _ _

theorem after_execTierCfg (c : Ctl) (h' : Option (BitVec 4)) (a b : BitVec 5) : Goes s₀ (execTierCfg c h' a b s) := by
  unfold execTierCfg
  refine h.after_run _ _ _ (fun v u hu1 => ?_)
  refine hu1.after_withRoom _ _ _ _ (fun u hu2 => ?_)
  split
  · exact .trap hu2
  · refine hu2.after_withBlock _ _ _ _ _ (fun u x bs hu3 => ?_)
    split
    · next heq =>
        dsimp only
        split
        · exact .done (((hu3.after_grantHandle _ _ _).of_eq heq).after_completeHandle _ _ _)
        · split
          · exact hu3.after_sendTier _ _ _ _ _
          · refine hu3.after_tierTurn _ _ _ (fun u hu4 => ?_)
            split
            · exact .done ((hu4.after_grantHandle _ _ _).after_completeHandle _ _ _)
            · exact .done ((hu4.after_grantHandle _ _ _).after_setTier _ _ _)

theorem after_execTierRank (c : Ctl) (h' : Option (BitVec 4)) (a b : BitVec 5) : Goes s₀ (execTierRank c h' a b s) := by
  unfold execTierRank
  exact h.after_run _ _ _ (fun v u hu => hu.after_tierCommand _ _ _ _ _ _)

theorem after_execTierMig (c : Ctl) (h' : Option (BitVec 4)) (a b : BitVec 5) : Goes s₀ (execTierMig c h' a b s) := by
  unfold execTierMig
  exact h.after_run _ _ _ (fun v u hu => hu.after_tierCommand _ _ _ _ _ _)

theorem after_execTierAge (c : Ctl) (h' : Option (BitVec 4)) (a b : BitVec 5) : Goes s₀ (execTierAge c h' a b s) := by
  unfold execTierAge
  refine h.after_run _ _ _ (fun v u hu => ?_)
  dsimp only
  exact hu.after_tierCommand _ _ _ _ _ _

theorem after_execTierPin (c : Ctl) (h' : Option (BitVec 4)) (a b : BitVec 5) : Goes s₀ (execTierPin c h' a b s) := by
  unfold execTierPin
  refine h.after_run _ _ _ (fun v u hu => ?_)
  dsimp only
  exact hu.after_tierCommand _ _ _ _ _ _

end Keeps
end Sys2Proof.Proofs
end

section
/-! PROOFS. The functions of Machine/Graph.lean keep memory's canonical form. -/
namespace Sys2Proof.Proofs
set_option Elab.async false

open Sys2Proof Sys2Proof.Machine Sys2Proof.Claims

namespace Keeps

variable {s₀ s t : State} (h : Keeps s₀ s)
include h

theorem after_pushRecord (c ctx : Nat) (x : BitVec 512) : Keeps s₀ (pushRecord s c ctx x) := by
  unfold pushRecord
  exact h.after_setCore _ _

end Keeps
end Sys2Proof.Proofs
end

section
/-! PROOFS. The functions of Machine/Sample.lean keep memory's canonical form. -/
namespace Sys2Proof.Proofs
set_option Elab.async false

open Sys2Proof Sys2Proof.Machine Sys2Proof.Claims

namespace Keeps

variable {s₀ s t : State} (h : Keeps s₀ s)
include h

theorem after_texelBytesAt (v : View) (va n : Nat) : Keeps s₀ (texelBytesAt v s va n).1 := by
  unfold texelBytesAt
  split
  · exact h
  · exact h
  · split
    · exact h
    · split
      · exact h
      · next heq => exact (h.after_loadBytes _ _ _ _).of_eq heq
      · next heq1 => exact (h.after_loadBytes _ _ _ _).of_eq heq1

theorem after_fetchTexels (v : View) (r : Resource) (at_ : List (Option Nat)) : Keeps s₀ (fetchTexels v r s at_).1 := by
  induction at_ generalizing s with
  | nil => exact h
  | cons a rest ih =>
    cases a with
    | none =>
      unfold fetchTexels
      split
      · next heq => exact (ih h).of_eq heq
      · exact ih h
    | some a =>
      unfold fetchTexels
      split
      · next heq => exact (h.after_texelBytesAt _ _ _).of_eq heq
      · next heq =>
          have hread := (h.after_texelBytesAt _ _ _).of_eq heq
          split
          · next heq2 => exact (ih hread).of_eq heq2
          · exact ih hread

theorem after_heapRecord (v : View) (p : Place) : Keeps s₀ (heapRecord v s p).1 := by
  unfold heapRecord
  dsimp only
  split
  · exact h
  · split
    · exact h
    · next heq => exact (h.after_readHomeLine _ _ _).of_eq heq
    · next heq1 => exact ((h.after_readHomeLine _ _ _).of_eq heq1).after_setCore _ _

theorem after_heapRecords (v : View) (offs : List Nat) : Keeps s₀ (heapRecords v s offs).1 := by
  -- Lean would evaluate heapCheck to unfold the recursion: so it is made opaque first.
  obtain ⟨check, hcheck⟩ : ∃ f, heapCheck = f := ⟨_, rfl⟩
  obtain ⟨records, hrecords⟩ : ∃ f, heapRecords = f := ⟨_, rfl⟩
  rw [hrecords]
  delta heapRecords heapRecords._f at hrecords
  rw [hcheck] at hrecords
  subst hrecords
  induction offs generalizing s with
  | nil => exact h
  | cons off offs ih =>
    dsimp only [List.brecOn, List.brecOn.go] at ih ⊢
    split
    · exact h
    · exact h
    · split
      · next heq => exact (h.after_heapRecord _ _).of_eq heq
      · next heq =>
          have hone := (h.after_heapRecord _ _).of_eq heq
          split
          · next hrest => exact (ih hone).of_eq hrest
          · exact ih hone

theorem after_resourceAt (v : View) (legal : Resource → Bool) (ix : Word) : Keeps s₀ (resourceAt v s legal ix).1 := by
  unfold resourceAt
  split
  · next heq => exact (h.after_heapRecords _ _).of_eq heq
  · next heq =>
      dsimp only
      split
      · exact (h.after_heapRecords _ _).of_eq heq
      · split
        · exact (h.after_heapRecords _ _).of_eq heq
        · split
          · next heq1 => exact (((h.after_heapRecords _ _).of_eq heq).after_heapRecords _ _).of_eq heq1
          · next heq1 => exact (((h.after_heapRecords _ _).of_eq heq).after_heapRecords _ _).of_eq heq1

theorem after_sampleLevel (v : View) (r : Resource) (taps : List (Int × Int × Word)) (ref : Option Word) (p : Coords) (l : Nat) :
    Keeps s₀ (sampleLevel v s r taps ref p l).1 := by
  unfold sampleLevel
  split
  · next heq =>
      split
      · dsimp only
        split
        · exact h.after_draw.of_eq heq
        · split
          · next heq1 => exact (h.after_fetchTexels _ _ _).of_eq heq1
          · next heq1 => exact (h.after_fetchTexels _ _ _).of_eq heq1
      · dsimp only
        split
        · exact h.after_draw.of_eq heq
        · split
          · next heq1 => exact (h.after_fetchTexels _ _ _).of_eq heq1
          · next heq1 => exact (h.after_fetchTexels _ _ _).of_eq heq1

theorem after_sampleLane (v : View) (b : Operand) (lod : Word) (ref : Option Word) (r : Resource) (taps : List (Int × Int × Word))
    (l : Nat) :
    Keeps s₀ (sampleLane v s b lod ref r taps l).1 := by
  unfold sampleLane
  split
  · dsimp only
    split
    · exact h
    · split
      · next heq => exact (h.after_sampleLevel _ _ _ _ _ _).of_eq heq
      · next heq => exact (h.after_sampleLevel _ _ _ _ _ _).of_eq heq
  · dsimp only
    split
    · exact h
    · split
      · next heq => exact (h.after_sampleLevel _ _ _ _ _ _).of_eq heq
      · next heq =>
          split
          · next heq1 => exact (((h.after_sampleLevel _ _ _ _ _ _).of_eq heq).after_sampleLevel _ _ _ _ _ _).of_eq heq1
          · next heq1 => exact (((h.after_sampleLevel _ _ _ _ _ _).of_eq heq).after_sampleLevel _ _ _ _ _ _).of_eq heq1

theorem after_loadLane (v : View) (b e : Operand) (r : Resource) (l : Nat) : Keeps s₀ (loadLane v s b e r l).1 := by
  unfold loadLane
  split
  · dsimp only
    split
    · next heq => exact (h.after_fetchTexels _ _ _).of_eq heq
    · next heq => exact (h.after_fetchTexels _ _ _).of_eq heq
  · split
    · dsimp only
      split
      · next heq1 => exact (h.after_fetchTexels _ _ _).of_eq heq1
      · next heq1 => exact (h.after_fetchTexels _ _ _).of_eq heq1
    · dsimp only
      split
      · next heq1 => exact (h.after_fetchTexels _ _ _).of_eq heq1
      · next heq1 => exact (h.after_fetchTexels _ _ _).of_eq heq1

theorem after_laneAnswer (v : View) (a : Operand) (legal : Resource → Bool)
    (f : Machine.State → Resource → List (Int × Int × Word) → Nat → Machine.State × Except SampleWait Answer) (l : Nat)
    (hf : ∀ u x y z, Keeps s₀ u → Keeps s₀ (f u x y z).1) :
    Keeps s₀ (laneAnswer v s a legal f l).1 := by
  unfold laneAnswer
  split
  · next heq => exact (h.after_resourceAt _ _ _).of_eq heq
  · next heq => exact hf _ _ _ _ ((h.after_resourceAt _ _ _).of_eq heq)

theorem after_laneAnswers (v : View) (a : Operand) (legal : Resource → Bool)
    (f : Machine.State → Resource → List (Int × Int × Word) → Nat → Machine.State × Except SampleWait Answer) (ls : List Nat)
    (hf : ∀ u r xs l, Keeps s₀ u → Keeps s₀ (f u r xs l).1) : Keeps s₀ (laneAnswers v a legal f s ls).1 := by
  induction ls generalizing s with
  | nil => exact h
  | cons l ls ih => exact ih (h.after_laneAnswer _ _ _ _ _ hf)

theorem after_sampler (v : View) (c : Ctl) (a : Operand) (dst : List Operand) (legal : Resource → Bool)
    (f : Machine.State → Resource → List (Int × Int × Word) → Nat → Machine.State × Except SampleWait Answer)
    (hf : ∀ u x y z, Keeps s₀ u → Keeps s₀ (f u x y z).1) :
    KeepsRes s₀ (sampler v s c a dst legal f) := by
  unfold sampler
  split
  · next heq =>
      split
      · dsimp only
        split
        · exact .stay (h.after_setProg _ _)
        · split
          · exact .stay h
          · split
            · exact .stay (h.after_askPages _ _ _)
            · exact .trap (((h.after_laneAnswers _ _ _ _ _ (fun u b d e hu => hf _ _ _ _ hu)).of_eq heq).after_dropFaults _ _ _)
      · split
        · dsimp only
          split
          · exact .stay (h.after_setProg _ _)
          · split
            · exact .stay h
            · split
              · exact .stay (h.after_askPages _ _ _)
              · exact .stay h
        · dsimp only
          split
          · exact .stay (h.after_setProg _ _)
          · split
            · exact .stay h
            · split
              · exact .stay (h.after_askPages _ _ _)
              · exact .done (((((h.after_laneAnswers _ _ _ _ _ (fun u b d e hu => hf _ _ _ _ hu)).of_eq heq).after_setSplit _
                    _).after_pendResult _ _ _ _ _ _ _).after_setStrand _ _)

theorem after_execSmp (c : Ctl) (d a b e : Operand) : Goes s₀ (execSmp c d a b e s) := by
  unfold execSmp
  exact h.after_run _ _ _ (fun v u hu1 => hu1.after_sampler _ _ _ _ _ _
      (fun u r taps l hu2 => hu2.after_sampleLane _ _ _ _ _ _ _))

theorem after_execSmpc (c : Ctl) (d a b e : Operand) : Goes s₀ (execSmpc c d a b e s) := by
  unfold execSmpc
  exact h.after_run _ _ _ (fun v u hu1 => hu1.after_sampler _ _ _ _ _ _
      (fun u r taps l hu2 => hu2.after_sampleLane _ _ _ _ _ _ _))

theorem after_execTld (c : Ctl) (d a b e : Operand) : Goes s₀ (execTld c d a b e s) := by
  unfold execTld
  exact h.after_run _ _ _ (fun v u hu1 => hu1.after_sampler _ _ _ _ _ _ (fun u r x l hu2 => hu2.after_loadLane _ _ _ _ _))

theorem after_execResQ (c : Ctl) (d a : Operand) : Goes s₀ (execResQ c d a s) := by
  unfold execResQ
  exact h.after_run _ _ _ (fun v u hu1 => hu1.after_sampler _ _ _ _ _ _ (fun u r x y hu2 => hu2))

end Keeps
end Sys2Proof.Proofs
end

section
/-! PROOFS. The functions of Machine/Cistern.lean keep memory's canonical form. -/
namespace Sys2Proof.Proofs
set_option Elab.async false

open Sys2Proof Sys2Proof.Machine Sys2Proof.Claims

namespace Keeps

variable {s₀ s t : State} (h : Keeps s₀ s)
include h

theorem after_execVbary (c : Ctl) (d : Operand) (attr : BitVec 4) (b : Operand) : Goes s₀ (execVbary c d attr b s) := by
  unfold execVbary
  refine h.after_run _ _ _ (fun v u hu => ?_)
  split
  · next heq => exact .done ((hu.after_draw.of_eq heq).after_pend _ _ _ _ _ _)

theorem after_updSect (k : Nat) (x : BitVec 512) (f : RasterSect → RasterSect) : Keeps s₀ (updSect s k x f) := by
  unfold updSect
  exact h.after_setClu _ _

theorem after_countRecord (k : Nat) (x : BitVec 512) : Keeps s₀ (countRecord s k x) := by
  unfold countRecord
  dsimp only
  split
  · exact (h.after_updSect _ _ _).after_setClu _ _
  · exact h.after_updSect _ _ _

theorem after_setRecord (r : SplitRef) (l : Nat) (x : BitVec 512) : Keeps s₀ (setRecord s r l x) := by
  unfold setRecord
  exact h.after_setStrand _ _

theorem after_markLane (r : SplitRef) (l : Nat) : Keeps s₀ (markLane s r l) := by
  unfold markLane
  exact h.after_setProg _ _

theorem after_splitLanes (v : View) (a : Operand) (xs : List Nat) : KeepsRes s₀ (splitLanes v a s xs) := by
  induction xs generalizing s v a with
  | nil =>
    unfold splitLanes
    exact .done h
  | cons head tail ih =>
    unfold splitLanes
    split
    · exact ih h _ _
    · split
      · exact ih ((h.after_markLane _ _).after_setRecord _ _ _) _ _
      · split
        · exact .stay (h.after_setProg _ _)
        · exact ih ((((h.after_markLane _ _).after_setRecord _ _ _).after_countRecord _ _).after_pushRecord _ _ _) _ _

theorem after_execVsplit (c : Ctl) (a : Operand) : Goes s₀ (execVsplit c a s) := by
  unfold execVsplit
  refine h.after_run _ _ _ (fun v u hu => ?_)
  split
  · exact .done hu
  · dsimp only
    split
    · exact .trap hu
    · split
      · exact .stay (hu.after_setProg _ _)
      · exact hu.after_splitLanes _ _ _

theorem after_execVkill (c : Ctl) (a : Operand) : Goes s₀ (execVkill c a s) := by
  unfold execVkill
  refine h.after_run _ _ _ (fun v u hu => ?_)
  split
  · exact .done hu
  · refine .done ?_
    refine Keeps.foldl (fun _ _ hp => ?_) _ hu
    split
    · exact hp
    · exact hp.after_setRecord _ _ _

theorem after_stage (r : SplitRef) (f : Staged → Staged) : Keeps s₀ (stage s r f) := by
  unfold stage
  exact h.after_setStrand _ _

theorem after_execOutc (c : Ctl) (a : Operand) : Goes s₀ (execOutc c a s) := by
  unfold execOutc
  exact h.after_run _ _ _ (fun v u hu => .done (Keeps.ite (hu.after_stage _ _) hu))

theorem after_execOutz (c : Ctl) (a : Operand) : Goes s₀ (execOutz c a s) := by
  unfold execOutz
  exact h.after_run _ _ _ (fun v u hu => .done (Keeps.ite (hu.after_stage _ _) hu))

theorem after_execOutv (c : Ctl) (which : Option (BitVec 4)) (a : Operand) : Goes s₀ (execOutv c which a s) := by
  unfold execOutv
  refine h.after_run _ _ _ (fun v u hu => ?_)
  refine .done ?_
  split
  · split
    · exact hu.after_stage _ _
    · exact hu.after_stage _ _
  · exact hu

theorem after_raiseWork (k ctx n : Nat) : Keeps s₀ (raiseWork s k ctx n) := by
  unfold raiseWork
  exact h.after_setClu _ _

theorem after_pushLanes (v : View) (a : Operand) (xs : List Nat) : KeepsRes s₀ (pushLanes v a s xs) := by
  induction xs generalizing s v a with
  | nil =>
    unfold pushLanes
    exact .done h
  | cons head tail ih =>
    unfold pushLanes
    split
    · exact .stay (h.after_setProg _ _)
    · exact ih (((h.after_pushRecord _ _ _).after_raiseWork _ _ _).after_markLane _ _) _ _

theorem after_execRecPush (c : Ctl) (a : Operand) : Goes s₀ (execRecPush c a s) := by
  unfold execRecPush
  refine h.after_run _ _ _ (fun v u hu => ?_)
  split
  · dsimp only
    split
    · exact .trap hu
    · exact .stay (hu.after_setProg _ _)
  · dsimp only
    split
    · exact .trap hu
    · exact hu.after_pushLanes _ _ _

theorem after_steal (c ctx : Nat) (str : BitVec 16) : Keeps s₀ (steal s c ctx str) := by
  unfold steal
  split
  · exact h
  · dsimp only
    exact Keeps.ite h (((h.after_arbiterServe _ _ _ _ _ _).after_setCore _ _).after_setCore _ _)

theorem after_popRecord (c ctx : Nat) (str : BitVec 16) : Keeps s₀ (popRecord s c ctx str).1 := by
  unfold popRecord
  split
  · dsimp only
    split
    · exact h.after_steal _ _ _
    · exact (h.after_steal _ _ _).after_setCore _ _
  · dsimp only
    split
    · exact h
    · exact h.after_setCore _ _

theorem after_popLanes (c ctx : Nat) (str : BitVec 16) (xs : List Nat) : Keeps s₀ (popLanes s c ctx str xs).1 := by
  induction xs generalizing s c ctx str with
  | nil => exact h
  | cons head tail ih =>
    unfold popLanes
    split
    · next heq => exact (h.after_popRecord _ _ _).of_eq heq
    · next heq =>
        split
        · next heq1 => exact (ih ((h.after_popRecord _ _ _).of_eq heq) _ _ _).of_eq heq1

theorem after_execRecPop (c : Ctl) (d e : Operand) : Goes s₀ (execRecPop c d e s) := by
  unfold execRecPop
  refine h.after_run _ _ _ (fun v u hu => ?_)
  split
  · exact .stay (hu.after_setProg _ _)
  · dsimp only
    split
    · split
      · split
        · exact .done ((((hu.after_setStrand _ _).after_lowerWork _ _ _).after_popLanes _ _ _ _).after_pend _ _ _ _ _ _)
        · exact .stay ((((hu.after_setStrand _ _).after_lowerWork _ _ _).after_popLanes _ _ _ _).after_setProg _ _)
      · exact .done ((((((hu.after_setStrand _ _).after_lowerWork _ _ _).after_popLanes _ _ _ _).after_setStrand _ _).after_pend
            _ _ _ _ _ _).after_pend _ _ _ _ _ _)
    · split
      · split
        · exact .done ((hu.after_popLanes _ _ _ _).after_pend _ _ _ _ _ _)
        · exact .stay ((hu.after_popLanes _ _ _ _).after_setProg _ _)
      · exact .done ((((hu.after_popLanes _ _ _ _).after_setStrand _ _).after_pend _ _ _ _ _ _).after_pend _ _ _ _ _ _)

theorem after_execRecDone (c : Ctl) : Goes s₀ (execRecDone c s) := by
  unfold execRecDone
  refine h.after_run _ _ _ (fun v u hu => ?_)
  dsimp only
  split
  · exact .trap hu
  · exact .done ((hu.after_setStrand _ _).after_lowerWork _ _ _)

end Keeps
end Sys2Proof.Proofs
end

section
/-! PROOFS. The functions of Machine/Save.lean keep memory's canonical form. -/
namespace Sys2Proof.Proofs
set_option Elab.async false

open Sys2Proof Sys2Proof.Machine Sys2Proof.Claims

namespace Keeps

variable {s₀ s t : State} (h : Keeps s₀ s)
include h

theorem after_savePlace (x k va n : Nat) (write : Bool) : Keeps s₀ (savePlace s x k va n write).1 := by
  have htouch := h.after_touchPage (some k) x va
  unfold savePlace
  dsimp only
  split
  · exact htouch
  · exact htouch
  · split
    · exact htouch
    · exact htouch.after_dumpStall _ _
    · exact htouch
    · exact htouch

theorem after_putGrans (key va : Nat) (via : Via) (xs : List BlockGran) : Keeps s₀ (putGrans key va via xs s).1 := by
  induction xs generalizing s key va via with
  | nil => exact h
  | cons head tail ih =>
    unfold putGrans
    split
    · next heq => exact ih ((h.after_agentWrite _ _ _ _ _).of_eq heq) _ _ _
    · next heq => exact ih ((h.after_agentWrite _ _ _ _ _).of_eq heq) _ _ _
    · next heq1 => exact (h.after_agentWrite _ _ _ _ _).of_eq heq1

theorem after_spanOut (x k base : Nat) (grans : List BlockGran) (fuel y z : Nat) :
    Keeps s₀ (spanOut x k base grans fuel y z s).1 := by
  induction fuel generalizing s x k base grans y z with
  | zero => exact h
  | succ fuel ih =>
    unfold spanOut
    split
    · exact h
    · split
      · next heq => exact (h.after_savePlace _ _ _ _ _).of_eq heq
      · next heq =>
          dsimp only
          split
          · next heq1 => exact ih ((((h.after_savePlace _ _ _ _ _).of_eq heq).after_putGrans _ _ _ _).of_eq heq1) _ _ _ _ _ _
          · next heq2 => exact (((h.after_savePlace _ _ _ _ _).of_eq heq).after_putGrans _ _ _ _).of_eq heq2

theorem after_copyOut (x k base : Nat) (grans : List BlockGran) (xs : List (Nat × Nat)) : Keeps s₀ (copyOut x k base grans xs s).1 := by
  induction xs generalizing s x k base grans with
  | nil => exact h
  | cons head tail ih =>
    unfold copyOut
    split
    · next heq => exact ih ((h.after_spanOut _ _ _ _ _ _ _).of_eq heq) _ _ _ _
    · next heq1 => exact (h.after_spanOut _ _ _ _ _ _ _).of_eq heq1

theorem after_getGrans (key va off : Nat) (via : Via) (xs : List Nat) : Keeps s₀ (getGrans key va off via xs s).1 := by
  induction xs generalizing s key va off via with
  | nil => exact h
  | cons head tail ih =>
    unfold getGrans
    dsimp only
    split
    · next heq => exact (h.after_agentRead _ _ _ _ _).of_eq heq
    · next heq =>
        split
        · next heq1 => exact (ih ((h.after_agentRead _ _ _ _ _).of_eq heq) _ _ _ _).of_eq heq1
        · next heq1 => exact (ih ((h.after_agentRead _ _ _ _ _).of_eq heq) _ _ _ _).of_eq heq1

theorem after_spanIn (x k base fuel y z : Nat) : Keeps s₀ (spanIn x k base fuel y z s).1 := by
  induction fuel generalizing s x k base y z with
  | zero => exact h
  | succ fuel ih =>
    unfold spanIn
    split
    · exact h
    · split
      · next heq => exact (h.after_savePlace _ _ _ _ _).of_eq heq
      · next heq =>
          split
          · exact (h.after_savePlace _ _ _ _ _).of_eq heq
          · split
            · next heq1 => exact (((h.after_savePlace _ _ _ _ _).of_eq heq).after_getGrans _ _ _ _ _).of_eq heq1
            · next heq1 =>
                split
                · next heq2 =>
                      exact (ih ((((h.after_savePlace _ _ _ _ _).of_eq heq).after_getGrans _ _ _ _ _).of_eq heq1) _ _ _ _
                          _).of_eq heq2
                · next heq2 =>
                      exact (ih ((((h.after_savePlace _ _ _ _ _).of_eq heq).after_getGrans _ _ _ _ _).of_eq heq1) _ _ _ _
                          _).of_eq heq2

theorem after_copyIn (x k base : Nat) (xs : List (Nat × Nat)) : Keeps s₀ (copyIn x k base xs s).1 := by
  induction xs generalizing s x k base with
  | nil => exact h
  | cons head tail ih =>
    unfold copyIn
    split
    · next heq => exact (h.after_spanIn _ _ _ _ _ _).of_eq heq
    · next heq =>
        split
        · next heq1 => exact (ih ((h.after_spanIn _ _ _ _ _ _).of_eq heq) _ _ _).of_eq heq1
        · next heq1 => exact (ih ((h.after_spanIn _ _ _ _ _ _).of_eq heq) _ _ _).of_eq heq1

end Keeps
end Sys2Proof.Proofs
end

section
/-! PROOFS. The functions of Machine/Panel.lean keep memory's canonical form. -/
namespace Sys2Proof.Proofs
set_option Elab.async false

open Sys2Proof Sys2Proof.Machine Sys2Proof.Claims

namespace Keeps

variable {s₀ s t : State} (h : Keeps s₀ s)
include h

theorem after_rasterPut (key : Nat) (via : Via) (fuel : Nat) (x : List Byte) : Keeps s₀ (rasterPut s key via fuel x).1 := by
  induction fuel generalizing s key via x with
  | zero => exact h
  | succ fuel ih =>
    unfold rasterPut
    split
    · exact h
    · dsimp only
      split
      · next heq => exact (h.after_agentWrite _ _ _ _ _).of_eq heq
      · next heq1 => exact ih ((h.after_agentWrite _ _ _ _ _).of_eq heq1) _ _ _

theorem after_rasterFill (k ctx va fuel : Nat) (bs : List Byte) : Keeps s₀ (rasterFill s k ctx va fuel bs).1 := by
  induction fuel generalizing s va bs with
  | zero => exact h
  | succ fuel ih =>
    have htouch := h.after_touchPage (some k) ctx va
    unfold rasterFill
    dsimp only
    split
    · exact h
    · split
      · exact ih htouch _ _
      · exact htouch.after_dumpStall _ _
      · exact htouch
      · split
        · next heq => exact (htouch.after_rasterPut _ _ _ _).of_eq heq
        · next heq => exact ih ((htouch.after_rasterPut _ _ _ _).of_eq heq) _ _

theorem after_clearFrame (n : Nat) : Keeps s₀ (clearFrame s n) := by
  unfold clearFrame
  split
  · exact h
  · split
    · exact h
    · dsimp only
      split
      · next heq => exact (h.after_rasterFill _ _ _ _ _).of_eq heq
      · next heq => exact ((h.after_rasterFill _ _ _ _ _).of_eq heq).after_setStream _ _

theorem after_openPanel (n : Nat) : Keeps s₀ (openPanel s n) := by
  unfold openPanel
  dsimp only
  split
  · exact h
  · exact (h.after_setStream _ _).after_clearFrame _

theorem after_closePanel (n : Nat) (c : FrameClose) : Keeps s₀ (closePanel s n c) := by
  unfold closePanel
  dsimp only
  split
  · exact h
  · exact (h.after_setStream _ _).after_completeHandle _ _ _

theorem after_settleCloses (n fuel : Nat) : Keeps s₀ (settleCloses s n fuel) := by
  induction fuel generalizing s n with
  | zero => exact h
  | succ fuel ih =>
    unfold settleCloses
    split
    · exact h
    · exact Keeps.ite h (Keeps.ite (h.after_openPanel _) (ih (((h.after_openPanel _).after_setStream _ _).after_closePanel _ _)
          _))

theorem after_codeRead (ctx va fuel n : Nat) : Keeps s₀ (codeRead s ctx va fuel n).1 := by
  induction fuel generalizing s va n with
  | zero => exact h
  | succ fuel ih =>
    have hwalk : Keeps s₀ (if va < 2 ^ 48 then walkRead s ctx va else (s, .fault)).1 := by
      split
      · exact h.after_walkRead _ _
      · exact h
    unfold codeRead
    dsimp only
    split
    · exact h
    · split
      · next heq => exact hwalk.of_eq heq
      · next heq => exact hwalk.of_eq heq
      · next heq =>
          have hread := (hwalk.of_eq heq).after_agentRead
          split
          · exact hwalk.of_eq heq
          · split
            · next heq2 => exact (hread _ _ _ _ _).of_eq heq2
            · next heq2 =>
                have hrest := ih ((hread _ _ _ _ _).of_eq heq2)
                split
                · next heq3 => exact (hrest _ _).of_eq heq3
                · next heq3 => exact (hrest _ _).of_eq heq3

theorem after_programPrefix (ctx va : Nat) : Keeps s₀ (programPrefix s ctx va).1 := by
  unfold programPrefix
  split
  · exact h
  · split
    · next heq => exact (h.after_codeRead _ _ _ _).of_eq heq
    · next heq =>
        dsimp only
        exact (h.after_codeRead _ _ _ _).of_eq heq

theorem after_drawPrefixes (ctx : Nat) (bits : BitVec 512) : Keeps s₀ (drawPrefixes s ctx bits).1 := by
  unfold drawPrefixes
  split
  · exact h
  · split
    · next heq => exact (h.after_programPrefix _ _).of_eq heq
    · next heq =>
        split
        · next heq1 => exact (((h.after_programPrefix _ _).of_eq heq).after_programPrefix _ _).of_eq heq1
        · next heq1 => exact (((h.after_programPrefix _ _).of_eq heq).after_programPrefix _ _).of_eq heq1

theorem after_startDraw (ctx : Nat) (bits : BitVec 512) (pre : BitVec 1024 × BitVec 1024) (queue : Option (Nat × Nat))
    (handle : Option DWord) : Keeps s₀ (startDraw s ctx bits pre queue handle) := by
  unfold startDraw
  extract_lets n y u w x d
  have hu : Keeps s₀ u := Keeps.ite (h.after_setCtx _ _) h
  have hw : Keeps s₀ w := hu.after_openPanel _
  have hfresh := hw.after_fresh
  generalize w.fresh = fresh at hfresh ⊢
  obtain ⟨p, ln⟩ := fresh
  dsimp -zeta only
  extract_lets launched drawn
  have hdrawn : Keeps s₀ drawn := (hfresh.after_setLaunch _ _).after_setStream _ _
  exact hdrawn.same

theorem after_endDraw (d status : Nat) : Keeps s₀ (endDraw s d status) := by
  unfold endDraw
  split
  · exact h
  · refine (Keeps.after_completeHandle ?_ _ _ _).after_settleCloses _ _
    split
    · exact (h.same.after_setStream _ _).after_recordDone _ _
    · exact h.same.after_setStream _ _

theorem after_settleDraw (d : Nat) : Keeps s₀ (settleDraw s d) := by
  unfold settleDraw
  split
  · exact h
  · exact Keeps.ite h (h.after_endDraw _ _)

theorem after_dropDraws (n : Nat) : Keeps s₀ (dropDraws s n) := by
  unfold dropDraws
  exact Keeps.foldl (fun u x hu => hu.after_endDraw _ _) _ h.same

theorem after_unbindStream (n : Nat) : Keeps s₀ (unbindStream s n) := by
  unfold unbindStream
  exact (Keeps.foldl (fun u x hu => hu.after_completeHandle _ _ _) _ ((h.after_setStream _ _).after_dropDraws _)).after_setStream
      _ _

theorem after_bindStream (n : Nat) : Keeps s₀ (bindStream s n).1 := by
  unfold bindStream
  split
  · exact h
  · split
    · exact h
    · exact h.after_setStream _ _

theorem after_streamCommand (n cmd : Nat) : Keeps s₀ (streamCommand s n cmd) := by
  unfold streamCommand
  split
  · next heq =>
      refine (Keeps.of_eq ?_ heq).same
      split
      · exact h.after_bindStream _
      · split
        · exact h.after_unbindStream _
        · exact h
      · exact h

theorem after_execStreamBind : Goes s₀ (execStreamBind s) := by
  unfold execStreamBind
  exact .next (h.after_streamCommand _ _)

theorem after_execStreamUnbind : Goes s₀ (execStreamUnbind s) := by
  unfold execStreamUnbind
  exact .next (h.after_streamCommand _ _)

theorem after_collect {α β : Type} (f : Machine.State → α → Machine.State × Option β) (xs : List α)
    (hf : ∀ u x, Keeps s₀ u → Keeps s₀ (f u x).1) :
    Keeps s₀ (collect f s xs).1 := by
  induction xs generalizing s with
  | nil => exact h
  | cons x xs ih =>
    unfold collect
    split
    · next heq => exact (hf _ _ h).of_eq heq
    · next heq =>
        have hrest := ih ((hf _ _ h).of_eq heq)
        split
        · next heq2 => exact hrest.of_eq heq2
        · next heq2 => exact hrest.of_eq heq2

theorem after_panelRead (k ctx va n : Nat) : Keeps s₀ (panelRead s k ctx va n).1 := by
  unfold panelRead
  split
  · next heq => exact (h.after_virtRead _ _ _ _ _ _).of_eq heq
  · next heq => exact (h.after_virtRead _ _ _ _ _ _).of_eq heq
  · next heq1 => exact (h.after_virtRead _ _ _ _ _ _).of_eq heq1

theorem after_mapEntry (n p : Nat) : Keeps s₀ (mapEntry s n p).1 := by
  unfold mapEntry
  split
  · next heq => exact (h.after_panelRead _ _ _ _).of_eq heq
  · next heq => exact (h.after_panelRead _ _ _ _).of_eq heq
  · next heq =>
      dsimp only
      exact (h.after_panelRead _ _ _ _).of_eq heq

theorem after_storedColour (n set : Nat) (p : Nat × Nat × Nat) : Keeps s₀ (storedColour s n set p).1 := by
  unfold storedColour
  split
  · next heq => exact (h.after_panelRead _ _ _ _).of_eq heq

theorem after_storedDepth (n set : Nat) (p : Nat × Nat × Nat) : Keeps s₀ (storedDepth s n set p).1 := by
  unfold storedDepth
  split
  · next heq => exact (h.after_panelRead _ _ _ _).of_eq heq

theorem after_landing (n set steps : Nat) (m : List Word) (p : Nat × Nat × Nat) : Keeps s₀ (landing s n set steps m p).1 := by
  unfold landing
  split
  · next heq => exact (h.after_storedDepth _ _ _).of_eq heq
  · next heq =>
      split
      · next heq1 =>
          dsimp only
          split
          · exact (h.after_storedDepth _ _ _).of_eq heq
          · split
            · exact (h.after_storedDepth _ _ _).of_eq heq
            · split
              · exact (h.after_storedDepth _ _ _).of_eq heq
              · exact (((h.after_storedDepth _ _ _).of_eq heq).after_storedColour _ _ _).of_eq heq1
      · next heq1 =>
          dsimp only
          split
          · exact (h.after_storedDepth _ _ _).of_eq heq
          · split
            · exact (h.after_storedDepth _ _ _).of_eq heq
            · split
              · exact (h.after_storedDepth _ _ _).of_eq heq
              · exact (((h.after_storedDepth _ _ _).of_eq heq).after_storedColour _ _ _).of_eq heq1

theorem after_reprojected (n set steps : Nat) (m : List Word) : Keeps s₀ (reprojected s n set steps m).1 := by
  unfold reprojected
  split
  · next heq => exact (h.after_collect _ _ (fun u p hu => hu.after_landing _ _ _ _ _)).of_eq heq
  · next heq => exact (h.after_collect _ _ (fun u p hu => hu.after_landing _ _ _ _ _)).of_eq heq

theorem after_pixelColours (n : Nat) (colour : Machine.State → Nat × Nat × Nat → Machine.State × Option Nat)
    (hcolour : ∀ u x, Keeps s₀ u → Keeps s₀ (colour u x).1) :
    Keeps s₀ (pixelColours s n colour).1 := by
  unfold pixelColours
  refine h.after_collect _ _ (fun u i hu => ?_)
  split
  · next heq => exact (hu.after_mapEntry _ _).of_eq heq
  · next heq => exact (hu.after_mapEntry _ _).of_eq heq
  · next heq => exact hcolour _ _ ((hu.after_mapEntry _ _).of_eq heq)

theorem after_pictureColours (n : Nat) (p : Picture) : Keeps s₀ (pictureColours s n p).1 := by
  unfold pictureColours
  split
  · exact h.after_pixelColours _ _ (fun u x hu => hu)
  · exact h.after_pixelColours _ _ (fun u q hu => hu.after_storedColour _ _ _)
  · split
    · next heq => exact (h.after_reprojected _ _ _ _).of_eq heq
    · next heq => exact ((h.after_reprojected _ _ _ _).of_eq heq).after_pixelColours _ _ (fun u q hu => hu)

theorem after_writePicture (n : Nat) (j : ShowJob) : Keeps s₀ (writePicture s n j).1 := by
  unfold writePicture
  split
  · next heq =>
      dsimp only
      exact (h.after_pictureColours _ _).of_eq heq
  · next heq =>
      dsimp only
      exact ((h.after_pictureColours _ _).of_eq heq).after_virtWrite _ _ _ _ _ _

theorem after_writeShows (n : Nat) (xs : List ShowJob) : Keeps s₀ (writeShows n xs s) := by
  induction xs generalizing s n with
  | nil =>
    unfold writeShows
    exact h.after_setStream _ _
  | cons head tail ih =>
    unfold writeShows
    split
    · next heq => exact ((h.after_writePicture _ _).of_eq heq).after_setStream _ _
    · next heq1 => exact ih ((h.after_writePicture _ _).of_eq heq1) _

theorem after_showClosed (n : Nat) : Keeps s₀ (showClosed s n) := by
  unfold showClosed
  dsimp only
  split
  · exact h
  · exact h.after_setStream _ _

theorem after_passSlot (n : Nat) : Keeps s₀ (passSlot s n) := by
  unfold passSlot
  exact Keeps.ite (h.after_showClosed _) (h.after_setStream _ _)

theorem after_execSlotDeadline : Goes s₀ (execSlotDeadline s) := by
  unfold execSlotDeadline
  dsimp only
  exact .next ((Keeps.ite h ((h.after_passSlot _).after_setStream _ _)).after_writeShows _ _)

theorem after_prsTake (v : View) (h' : Option (BitVec 4)) (go : Machine.State → Option DWord → Machine.State)
    (hgo : ∀ u x, Keeps s₀ u → Keeps s₀ (go u x)) :
    KeepsRes s₀ (prsTake v s h' go) := by
  unfold prsTake
  split
  · next heq => exact .done (hgo _ _ ((h.after_grantHandle _ _ _).of_eq heq))

theorem after_prsAnswer (v : View) (h' : Option (BitVec 4)) (status : Nat) (word : Word) :
    KeepsRes s₀ (prsAnswer v s h' status word) := by
  unfold prsAnswer
  exact h.after_prsTake _ _ _ (fun u hd hu => hu.after_completeHandle _ _ _)

theorem after_execPrsDraw (c : Ctl) (h' : Option (BitVec 4)) (a b : BitVec 5) : Goes s₀ (execPrsDraw c h' a b s) := by
  unfold execPrsDraw
  refine h.after_run _ _ _ (fun v u hu1 => ?_)
  refine hu1.after_withRoom _ _ _ _ (fun u hu2 => ?_)
  refine hu2.after_withBlock _ _ _ _ _ (fun u x bs hu3 => ?_)
  dsimp only
  split
  · exact .trap hu3
  · split
    · next heq => exact .stay ((hu3.after_drawPrefixes _ _).of_eq heq)
    · next heq1 => exact ((hu3.after_drawPrefixes _ _).of_eq heq1).after_prsAnswer _ _ _ _
    · next heq =>
          exact ((hu3.after_drawPrefixes _ _).of_eq heq).after_prsTake _ _ _ (fun u hd hu4 => hu4.after_startDraw _ _ _ _ _)

theorem after_execPrsFrame (c : Ctl) (h' : Option (BitVec 4)) (a b : BitVec 5) : Goes s₀ (execPrsFrame c h' a b s) := by
  unfold execPrsFrame
  refine h.after_run _ _ _ (fun v u hu1 => ?_)
  refine hu1.after_withRoom _ _ _ _ (fun u hu2 => ?_)
  split
  · dsimp only
    split
    · exact .trap hu2
    · split
      · exact hu2.after_prsAnswer _ _ _ _
      · exact hu2.after_prsTake _ _ _ (fun u hd hu3 => ((hu3.after_openPanel _).after_setStream _ _).after_settleCloses _ _)
  · dsimp only
    refine hu2.after_withBlock _ _ _ _ _ (fun u x bs hu3 => ?_)
    split
    · exact .trap hu3
    · split
      · exact hu3.after_prsAnswer _ _ _ _
      · exact hu3.after_prsTake _ _ _ (fun u hd hu4 => ((hu4.after_openPanel _).after_setStream _ _).after_settleCloses _ _)

theorem after_prsOnDemand (v : View) (h' : Option (BitVec 4)) (a b : BitVec 5) (refuse : Nat → Bool) (pic : Nat → Option Picture)
    (res : Nat → Nat) (after : Machine.State → Nat → Machine.State) (hafter : ∀ u x, Keeps s₀ u → Keeps s₀ (after u x)) :
    KeepsRes s₀ (prsOnDemand v s h' a b refuse pic res after) := by
  unfold prsOnDemand
  refine h.after_withRoom _ _ _ _ (fun u hu1 => ?_)
  dsimp only
  split
  · exact .trap hu1
  · split
    · exact hu1.after_prsAnswer _ _ _ _
    · split
      · exact hu1.after_prsAnswer _ _ _ _
      · split
        · next heq => exact .stay ((hu1.after_writePicture _ _).of_eq heq)
        · next heq1 => exact ((hu1.after_writePicture _ _).of_eq heq1).after_prsAnswer _ _ _ _
        · next heq =>
              exact ((hu1.after_writePicture _ _).of_eq heq).after_prsTake _ _ _
                  (fun u hd hu2 => hafter _ _ (hu2.after_completeHandle _ _ _))

theorem after_execPrsPresent (c : Ctl) (h' : Option (BitVec 4)) (a b : BitVec 5) : Goes s₀ (execPrsPresent c h' a b s) := by
  unfold execPrsPresent
  exact h.after_run _ _ _ (fun v u hu1 => hu1.after_prsOnDemand _ _ _ _ _ _ _ _ (fun u n hu2 => hu2.after_showClosed _))

theorem after_execPrsReproj (c : Ctl) (h' : Option (BitVec 4)) (a b : BitVec 5) : Goes s₀ (execPrsReproj c h' a b s) := by
  unfold execPrsReproj
  exact h.after_run _ _ _ (fun v u hu1 => hu1.after_prsOnDemand _ _ _ _ _ _ _ _ (fun u x hu2 => hu2))

end Keeps
end Sys2Proof.Proofs
end

section
/-! PROOFS. The functions of Machine/Raster.lean keep memory's canonical form. -/
namespace Sys2Proof.Proofs
set_option Elab.async false

open Sys2Proof Sys2Proof.Machine Sys2Proof.Claims

namespace Keeps

variable {s₀ s t : State} (h : Keeps s₀ s)
include h

theorem after_execPrimitiveAssembly : Goes s₀ (execPrimitiveAssembly s) := by
  unfold execPrimitiveAssembly
  extract_lets n u w x numbered
  have hw : Keeps s₀ w := (h.after_clearFrame _).after_settleCloses _ _
  split
  · exact .next hw
  · split
    · exact .next (Keeps.foldl (fun u d hu => hu.after_settleDraw _) _ hw)
    · split
      · exact .next hw
      · extract_lets ix vs taken
        have hnumbered : Keeps s₀ numbered := hw.after_setStream _ _
        have htaken : Keeps s₀ taken := hnumbered.same
        split
        · exact .next hw
        · split
          · exact .next ((htaken.after_setStream _ _).after_settleDraw _)
          · exact .next ((Keeps.foldl (fun u k hu => hu.after_setClu _ _) _ htaken).after_settleDraw _)

theorem after_claimTile (k ctx key seq : Nat) : Keeps s₀ (claimTile s k ctx key seq) := by
  unfold claimTile
  split
  · next heq =>
      refine (Keeps.of_eq ?_ heq).after_setClu _ _
      split
      · exact h
      · exact h.after_addEntry _ _

theorem after_roomForClaims (k n ctx : Nat) (tiles : List (Nat × Nat × Nat)) : Keeps s₀ (roomForClaims s k n ctx tiles).1 := by
  unfold roomForClaims
  split
  · dsimp only
    exact h
  · dsimp only
    split
    · next heq => exact (h.after_makeRoom _ _ _).of_eq heq
    · next heq => exact (h.after_makeRoom _ _ _).of_eq heq

theorem after_execPrimitiveSetup : Goes s₀ (execPrimitiveSetup s) := by
  unfold execPrimitiveSetup
  dsimp only
  split
  · exact .next h
  · split
    · exact .next h
    · split
      · exact .next ((h.after_setClu _ _).after_settleDraw _)
      · split
        · exact .next h
        · split
          · next heq => exact .next ((h.after_roomForClaims _ _ _ _).of_eq heq)
          · next heq =>
                exact .next ((Keeps.foldl (fun u x hu => hu.after_claimTile _ _ _ _) _
                    ((h.after_roomForClaims _ _ _ _).of_eq heq)).after_setClu _ _)

theorem after_leaveSect (k : Nat) (r : RasterSect) : Keeps s₀ (leaveSect s k r) := by
  unfold leaveSect
  exact Keeps.ite h (h.after_setClu _ _)

theorem after_settlePrim (k draw seq : Nat) : Keeps s₀ (settlePrim s k draw seq) := by
  unfold settlePrim
  exact ((Keeps.foldl (fun u x hu => hu.after_leaveSect _ _) _ h).after_setClu _ _).after_settleDraw _

theorem after_readTile (k n set : Nat) (p : Nat × Nat × Nat) : Keeps s₀ (readTile s k n set p).1 := by
  unfold readTile
  dsimp only
  split
  · next heq =>
      refine (h.after_collect _ _ (fun u c hu => ?_)).of_eq heq
      split
      · next heq1 => exact (hu.after_panelRead _ _ _ _).of_eq heq1
      · next heq1 => exact (hu.after_panelRead _ _ _ _).of_eq heq1
  · next heq =>
      refine (h.after_collect _ _ (fun u c hu => ?_)).of_eq heq
      split
      · next heq1 => exact (hu.after_panelRead _ _ _ _).of_eq heq1
      · next heq1 => exact (hu.after_panelRead _ _ _ _).of_eq heq1

theorem after_pushAll (k : Nat) (ctx : Nat) (fuel : List (Nat × BitVec 512)) : Keeps s₀ (Machine.pushAll s k ctx fuel).1 := by
  induction fuel generalizing s k ctx with
  | nil =>
    unfold Machine.pushAll
    exact h
  | cons x xs ih =>
    unfold Machine.pushAll
    split
    · exact h
    · exact ih ((h.after_countRecord _ _).after_pushRecord _ _ _) _ _

theorem after_setSweep (k : Nat) (j : SweepJob) : Keeps s₀ (setSweep s k j) := by
  unfold setSweep
  exact h.after_setClu _ _

theorem after_endTile (k n : Nat) (j : SweepJob) (p : Nat × Nat × Nat) : Keeps s₀ (endTile s k n j p) := by
  unfold endTile
  exact (h.after_setClu _ _).after_settlePrim _ _ _

theorem after_queueTile (k : Nat) (y : Draw) (j : SweepJob) (p : Nat × Nat × Nat) (xs : List (Nat × BitVec 512)) :
    Keeps s₀ (queueTile s k y j p xs) := by
  unfold queueTile
  split
  · next heq => exact ((h.after_pushAll _ _ _).of_eq heq).after_endTile _ _ _ _
  · next heq1 => exact ((h.after_pushAll _ _ _).of_eq heq1).after_setSweep _ _

theorem after_earlyTile (k : Nat) (y : Draw) (d key : Nat) (p : Nat × Nat × Nat) : Keeps s₀ (earlyTile s k y d key p).1 := by
  unfold earlyTile
  split
  · exact h
  · split
    · exact h
    · split
      · next heq => exact (h.after_readTile _ _ _ _).of_eq heq
      · next heq =>
          dsimp only
          exact ((h.after_readTile _ _ _ _).of_eq heq).after_setClu _ _

theorem after_execSweep : Goes s₀ (execSweep s) := by
  unfold execSweep
  dsimp only
  split
  · exact .next h
  · split
    · exact .next h
    · split
      · exact .next (h.after_queueTile _ _ _ _ _)
      · exact .next h
      · split
        · exact .next h
        · split
          · next heq => exact .next ((h.after_earlyTile _ _ _ _ _).of_eq heq)
          · next heq => exact .next (((h.after_earlyTile _ _ _ _ _).of_eq heq).after_queueTile _ _ _ _ _)

theorem after_retireRecord (k draw : Nat) (x : BitVec 512) : Keeps s₀ (retireRecord s k draw x) := by
  unfold retireRecord
  refine Keeps.after_settlePrim ?_ _ _ _
  split
  · exact (h.after_updSect _ _ _).after_setClu _ _
  · exact h.after_updSect _ _ _

theorem after_execBlend : Goes s₀ (execBlend s) := by
  unfold execBlend
  dsimp only
  split
  · exact .next h
  · split
    · exact .next (h.after_setClu _ _)
    · split
      · exact .next ((h.after_setClu _ _).after_retireRecord _ _ _)
      · split
        · exact .next h
        · split
          · next heq => exact .next ((((h.after_blendSamples _ _ _ _ _ _).of_eq heq).after_setClu _ _).after_retireRecord _ _ _)
          · next heq1 => exact .next (((h.after_blendSamples _ _ _ _ _ _).of_eq heq1).after_setClu _ _)

end Keeps
end Sys2Proof.Proofs
end

section
/-! PROOFS. The functions of Machine/Trace.lean keep memory's canonical form. -/
namespace Sys2Proof.Proofs
set_option Elab.async false

open Sys2Proof Sys2Proof.Machine Sys2Proof.Claims

namespace Keeps

variable {s₀ s t : State} (h : Keeps s₀ s)
include h

theorem after_putTraceCtl (k lo w v : Nat) : Keeps s₀ (putTraceCtl s k lo w v) := by
  unfold putTraceCtl
  exact (h.writtenNat (hubKey (traceBase k)) 64 (putField (s.mem.readNat (hubKey (traceBase k)) 64) lo w v)).same

theorem after_endFlushes (k no status : Nat) : Keeps s₀ (endFlushes s k no status) := by
  unfold endFlushes
  exact Keeps.foldl (fun u x hu => hu.after_completeHandle _ _ _) _ (h.after_setTrace _ _)

theorem after_dropClosed (k : Nat) : Keeps s₀ (dropClosed s k) := by
  unfold dropClosed
  exact h.after_setTrace _ _

theorem after_execFrameTimeout : Goes s₀ (execFrameTimeout s) := by
  unfold execFrameTimeout
  dsimp only
  split
  · exact .next h
  · split
    · exact .next h
    · exact .next (h.after_setTrace _ _)

theorem after_execFrameWrite : Goes s₀ (execFrameWrite s) := by
  unfold execFrameWrite
  dsimp only
  split
  · exact .next h
  · split
    · split
      · exact .next h
      · exact .next ((((h.after_putTraceCtl _ _ _ _).after_dropClosed _).after_endFlushes _ _ _).after_endTrace _)
    · split
      · exact .next h
      · next heq =>
            exact .next ((((((h.after_agentWrite _ _ _ _ _).of_eq heq).after_putTraceCtl _ _ _ _).after_dropClosed
                _).after_endFlushes _ _ _).after_endTrace _)
      · next heq1 =>
            exact .next ((((((h.after_agentWrite _ _ _ _ _).of_eq heq1).after_putTraceCtl _ _ _ _).after_dropClosed
                _).after_endFlushes _ _ _).after_endTrace _)

theorem after_execTraceEnWrite : Goes s₀ (execTraceEnWrite s) := by
  unfold execTraceEnWrite
  exact .next (h.after_writeTraceCtl _ _)

theorem after_execSampleTake : Goes s₀ (execSampleTake s) := by
  unfold execSampleTake
  dsimp only
  split
  · exact .next h
  · split
    · exact .next h
    · split
      · exact .next (h.after_setTrace _ _)
      · split
        · exact .next (h.after_setTrace _ _)
        · split
          · split
            · exact .next ((h.after_setTrace _ _).after_setTrace _ _)
            · exact .next ((h.after_setTrace _ _).after_traceRecord _ _ _)
          · split
            · exact .next ((h.after_setTrace _ _).after_setTrace _ _)
            · exact .next ((h.after_setTrace _ _).after_traceRecord _ _ _)

theorem after_trcAccept (v : View) (h' : Option (BitVec 4)) (legal : Bool) (go : Machine.State → Option DWord → Machine.State)
    (hgo : ∀ u x, Keeps s₀ u → Keeps s₀ (go u x)) :
    KeepsRes s₀ (trcAccept v s h' legal go) := by
  unfold trcAccept
  refine h.after_withRoom _ _ _ _ (fun u hu => ?_)
  split
  · exact .trap hu
  · split
    · next heq => exact .done (hgo _ _ ((hu.after_grantHandle _ _ _).of_eq heq))

theorem after_execTrcMark (c : Ctl) (h' : Option (BitVec 4)) (a b : BitVec 5) : Goes s₀ (execTrcMark c h' a b s) := by
  unfold execTrcMark
  exact h.after_run _ _ _ (fun v u hu1 => hu1.after_trcAccept _ _ _ _
      (fun u hd hu2 => (hu2.after_traceRecord _ _ _).after_completeHandle _ _ _))

theorem after_execTrcFlush (c : Ctl) (h' : Option (BitVec 4)) (a b : BitVec 5) : Goes s₀ (execTrcFlush c h' a b s) := by
  unfold execTrcFlush
  refine h.after_run _ _ _ (fun v u hu1 => ?_)
  refine hu1.after_trcAccept _ _ _ _ (fun u hd hu2 => ?_)
  dsimp only
  split
  · exact hu2.after_completeHandle _ _ _
  · exact hu2.after_setTrace _ _

theorem after_execTrcSample (c : Ctl) (h' : Option (BitVec 4)) (a b : BitVec 5) : Goes s₀ (execTrcSample c h' a b s) := by
  unfold execTrcSample
  exact h.after_run _ _ _ (fun v u hu1 => hu1.after_trcAccept _ _ _ _
      (fun u hd hu2 => (hu2.after_setTrace _ _).after_completeHandle _ _ _))

theorem after_stopDevice (cause : Nat) : Keeps s₀ (stopDevice s cause) := by
  unfold stopDevice
  exact h.same

theorem after_execReplayDivergence : Goes s₀ (execReplayDivergence s) := by
  unfold execReplayDivergence
  dsimp only
  split
  · exact .next h
  · split
    · exact .next h
    · exact .next (h.after_stopDevice _)

theorem after_execStopArm : Goes s₀ (execStopArm s) := by
  unfold execStopArm
  split
  · exact .next h.same
  · dsimp only
    split
    · split
      · exact .next (h.same.after_stopDevice _)
      · exact .next h.same
    · split
      · exact .next (h.same.after_stopDevice _)
      · exact .next h.same

theorem after_execDeviceStop : Goes s₀ (execDeviceStop s) := by
  unfold execDeviceStop
  dsimp only
  split
  · exact .next h
  · exact .next (h.after_stopDevice _)

theorem after_execStopResume : Goes s₀ (execStopResume s) := by
  unfold execStopResume
  split
  · exact .next h
  · exact .next h.same

end Keeps
end Sys2Proof.Proofs
end

section
/-! PROOFS. The functions of Machine/Tenancy.lean keep memory's canonical form. -/
namespace Sys2Proof.Proofs
set_option Elab.async false

open Sys2Proof Sys2Proof.Machine Sys2Proof.Claims

namespace Keeps

variable {s₀ s t : State} (h : Keeps s₀ s)
include h

theorem after_syncQueue (q : Nat) : Keeps s₀ (syncQueue s q) := by
  unfold syncQueue
  exact Keeps.ite h (h.after_putQueue _ _)

theorem after_syncQueues (x : Nat) : Keeps s₀ (syncQueues s x) := by
  unfold syncQueues
  exact Keeps.foldl (fun u x hu => hu.after_syncQueue _) _ h

theorem after_setCtxState (x : Nat) (st : CtxState) : Keeps s₀ (setCtxState s x st) := by
  unfold setCtxState
  exact (h.after_setCtx _ _).after_syncQueues _

theorem after_leaveClusters (x : Nat) : Keeps s₀ (leaveClusters s x) := by
  unfold leaveClusters
  exact h.same

theorem after_unstick (x : Nat) : Keeps s₀ (unstick s x) := by
  unfold unstick
  exact h.same

theorem after_clearSpill (x fuel : Nat) : Keeps s₀ (clearSpill s x fuel).1 := by
  induction fuel generalizing s x with
  | zero => exact h
  | succ fuel ih =>
    unfold clearSpill
    split
    · next heq => exact (h.after_spillRead _ _).of_eq heq
    · next heq1 => exact ih ((h.after_spillRead _ _).of_eq heq1) _
    · next heq =>
        split
        · exact ih ((h.after_spillRead _ _).of_eq heq) _
        · split
          · next heq2 => exact (((h.after_spillRead _ _).of_eq heq).after_spillWrite _ _).of_eq heq2
          · next heq3 => exact ih ((((h.after_spillRead _ _).of_eq heq).after_spillWrite _ _).of_eq heq3) _

theorem after_drainQueue (q : Nat) : Keeps s₀ (drainQueue s q) := by
  unfold drainQueue
  exact Keeps.ite h (h.after_putQueue _ _)

theorem after_emptyQueue (q : Nat) : Keeps s₀ (emptyQueue s q).1 := by
  unfold emptyQueue
  split
  · next heq =>
      dsimp only
      split
      · exact h
      · exact (h.after_queueRead _ _ _).of_eq heq
  · next heq1 =>
      dsimp only
      split
      · exact h
      · exact (h.after_queueRead _ _ _).of_eq heq1
  · next heq =>
      dsimp only
      split
      · exact h
      · exact ((h.after_queueRead _ _ _).of_eq heq).after_putQueue _ _

theorem after_emptyQueues (xs : List Nat) : Keeps s₀ (emptyQueues xs s).1 := by
  induction xs generalizing s with
  | nil => exact h
  | cons head tail ih =>
    unfold emptyQueues
    split
    · next heq => exact (h.after_emptyQueue _).of_eq heq
    · next heq => exact ih ((h.after_emptyQueue _).of_eq heq)

theorem after_drainTier (t' : Tier) : Keeps s₀ (drainTier s t').1 := by
  unfold drainTier
  dsimp only
  exact Keeps.foldl (fun u x hu => hu.after_completeHandle _ _ _) _ h

theorem after_drainContext (x : Nat) : Keeps s₀ (drainContext s x) := by
  have hstreams := Keeps.foldl (f := fun s n => if (s.stream n).bound && streamCtx s n = x then unbindStream s n else s)
    (fun u n hu => Keeps.ite (hu.after_unbindStream n) hu) (List.range 256) h
  unfold drainContext
  dsimp only
  generalize List.foldl _ s (List.range 256) = u at hstreams ⊢
  refine (Keeps.foldl (fun u i hu => hu.after_drainQueue _) _
      (Keeps.after_invalidate (Keeps.after_setCtx (foldl_fst ?_ _ ?_) _ _) _)).after_syncWaiters
  · exact fun p e hp => hp.after_drainTier _
  · exact hstreams.same

theorem after_beginDrain (x : Nat) (dead : Bool) : Keeps s₀ (beginDrain s x dead) := by
  unfold beginDrain
  exact (((h.after_setCtx _ _).after_unstick _).after_drainContext _).after_leaveClusters _

theorem after_tableEntries (pa n : Nat) : Keeps s₀ (tableEntries s pa n).1 := by
  unfold tableEntries
  refine h.after_collect _ _ (fun u i hu => ?_)
  split
  · next heq => exact (hu.after_tableRead _).of_eq heq
  · next heq1 => exact (hu.after_tableRead _).of_eq heq1
  · next heq => exact (hu.after_tableRead _).of_eq heq

theorem after_eachEntry {α : Type} (f : Machine.State → Nat × BitVec 64 → Machine.State × Option (List α))
    (r : Option (List (Nat × BitVec 64))) (hf : ∀ u x, Keeps s₀ u → Keeps s₀ (f u x).1) :
    Keeps s₀ (eachEntry f s r).1 := by
  unfold eachEntry
  split
  · exact h
  · split
    · next heq => exact (h.after_collect _ _ (fun u y hu => hf _ _ hu)).of_eq heq
    · next heq => exact (h.after_collect _ _ (fun u y hu => hf _ _ hu)).of_eq heq

theorem after_leavesOf (x : Nat) : Keeps s₀ (leavesOf s x).1 := by
  unfold leavesOf
  dsimp only
  refine (h.after_tableEntries _ _).after_eachEntry _ _ (fun u y hu1 => ?_)
  split
  · exact hu1
  · refine (hu1.after_tableEntries _ _).after_eachEntry _ _ (fun u y hu2 => ?_)
    split
    · exact hu2
    · split
      · exact hu2
      · split
        · exact hu2
        · exact (hu2.after_tableEntries _ _).after_eachEntry _ _ (fun u y hu3 => hu3)

theorem after_markLeaf (on : Bool) (e : Nat × Nat × BitVec 64) : Keeps s₀ (markLeaf on s e) := by
  unfold markLeaf
  exact Keeps.ite (Keeps.ite (h.after_tableWrite _ _) h) (Keeps.ite (h.after_tableWrite _ _) h)

theorem after_protectPages (x : Nat) : Keeps s₀ (protectPages s x) := by
  unfold protectPages
  split
  · next heq _ =>
        exact ((Keeps.foldl (fun u x hu => hu.after_markLeaf _ _) _ ((h.after_leavesOf _).of_eq heq)).after_invalidate
            _).after_setCtx _ _
  · next heq _ => exact (h.after_leavesOf _).of_eq heq

theorem after_beginDump (x : Nat) (buf : Option Nat) (len : Nat) (handle : Option DWord) : Keeps s₀ (beginDump s x buf len handle) := by
  unfold beginDump
  exact ((h.after_setCtx _ _).after_setCtxState _ _).after_protectPages _

theorem after_ctxAct (x cmd : Nat) : Keeps s₀ (ctxAct s x cmd).1 := by
  have hset (q : CtxState) := h.after_setCtxState x q
  have hleave := (hset .suspended).after_leaveClusters x
  have hresume := (h.after_unstick x).after_setCtxState x .ready
  have hdrain (kill : Bool) := h.after_beginDrain x kill
  have hfree := (h.after_setCtx x {}).written (hubKey (64 * x)) (List.replicate 64 0)
  have hdump := h.after_beginDump x none 0 none
  unfold ctxAct
  dsimp only
  split
  · exact h
  · split
    · exact h
    · split
      · split
        · exact h.same
        · exact h
      · split
        · exact h
        · split
          · dsimp only
            exact hset .ready
          · exact h
      · split
        · exact hleave
        · exact h
      · split
        · dsimp only
          exact hresume
        · exact h
      · split
        · exact hdrain false
        · split
          · exact h.after_setCtx _ _
          · exact h
      · split
        · dsimp only
          exact hset .dead
        · split
          · exact hdrain true
          · split
            · exact h.after_setCtx _ _
            · exact h
      · split
        · exact hfree.same
        · exact h
      · split
        · dsimp only
          exact hdump
        · exact h

theorem after_ctxCommand (x cmd : Nat) : Keeps s₀ (ctxCommand s x cmd) := by
  unfold ctxCommand
  split
  · next heq => exact ((h.after_ctxAct _ _).of_eq heq).same

theorem after_execCtxBuild : Goes s₀ (execCtxBuild s) := by
  unfold execCtxBuild
  exact .next (h.after_ctxCommand _ _)

theorem after_execCtxCommit : Goes s₀ (execCtxCommit s) := by
  unfold execCtxCommit
  exact .next (h.after_ctxCommand _ _)

theorem after_execCtxSuspend : Goes s₀ (execCtxSuspend s) := by
  unfold execCtxSuspend
  exact .next (h.after_ctxCommand _ _)

theorem after_execCtxResume : Goes s₀ (execCtxResume s) := by
  unfold execCtxResume
  exact .next (h.after_ctxCommand _ _)

theorem after_execCtxReset : Goes s₀ (execCtxReset s) := by
  unfold execCtxReset
  exact .next (h.after_ctxCommand _ _)

theorem after_execCtxKill : Goes s₀ (execCtxKill s) := by
  unfold execCtxKill
  exact .next (h.after_ctxCommand _ _)

theorem after_execCtxFree : Goes s₀ (execCtxFree s) := by
  unfold execCtxFree
  exact .next (h.after_ctxCommand _ _)

theorem after_execCtxDump : Goes s₀ (execCtxDump s) := by
  unfold execCtxDump
  exact .next (h.after_ctxCommand _ _)

theorem after_execDrainComplete : Goes s₀ (execDrainComplete s) := by
  unfold execDrainComplete
  dsimp only
  split
  · exact .next h
  · split
    · next heq => exact .next ((h.after_clearSpill _ _).of_eq heq)
    · next heq =>
        split
        · next heq1 => exact .next ((((h.after_clearSpill _ _).of_eq heq).after_emptyQueues _).of_eq heq1)
        · next heq1 =>
              exact .next ((((((h.after_clearSpill _ _).of_eq heq).after_emptyQueues _).of_eq heq1).same).after_setCtxState _ _)

theorem after_beginLeave (k t' b : Nat) : Keeps s₀ (beginLeave s k t' b) := by
  unfold beginLeave
  exact (h.after_setClu _ _).after_syncWaiters

theorem after_execQuantumEnd : Goes s₀ (execQuantumEnd s) := by
  unfold execQuantumEnd
  dsimp only
  split
  · exact .next h
  · split
    · exact .next h
    · split
      · exact .next (h.after_setClu _ _)
      · split
        · exact .next (h.after_setClu _ _)
        · exact .next (h.after_beginLeave _ _ _)

theorem after_execTenantChoice : Goes s₀ (execTenantChoice s) := by
  unfold execTenantChoice
  dsimp only
  split
  · exact .next h
  · split
    · split
      · exact .next h
      · split
        · exact .next h
        · exact .next (h.after_setClu _ _)
    · split
      · split
        · exact .next (h.after_beginLeave _ _ _)
        · exact .next h
      · exact .next h

theorem after_withdrawStrand (c slot : Nat) : Keeps s₀ (withdrawStrand s c slot) := by
  unfold withdrawStrand
  exact h.same

theorem after_saveCore (c x : Nat) : Keeps s₀ (saveCore s c x) := by
  unfold saveCore
  exact Keeps.foldl (fun u x hu => hu.after_withdrawStrand _ _) _ (h.after_setCore _ _)

theorem after_saveCluster (k x : Nat) (ranges : List (Nat × Nat)) : Keeps s₀ (saveCluster s k x ranges) := by
  unfold saveCluster
  exact ((Keeps.foldl (fun u x hu => hu.after_saveCore _ _) _ h).after_setClu _ _).after_setCtx _ _

theorem after_saveOut (x k : Nat) : Keeps s₀ (saveOut s x k).1 := by
  have hcopy (x k base grans ranges) {u} (hu : Keeps s₀ u) := hu.after_copyOut x k base grans ranges
  -- The kernel would evaluate the image to compare saveOut with its body: so the functions are made opaque first.
  obtain ⟨save, hsave⟩ : ∃ f, saveOut = f := ⟨_, rfl⟩
  obtain ⟨image, himage⟩ : ∃ f, clusterImage = f := ⟨_, rfl⟩
  obtain ⟨faults, hfaults⟩ : ∃ f, faultRanges = f := ⟨_, rfl⟩
  obtain ⟨copy, hcopyOut⟩ : ∃ f, copyOut = f := ⟨_, rfl⟩
  rw [hsave]
  delta saveOut at hsave
  rw [himage, hfaults, hcopyOut] at hsave
  rw [hcopyOut] at hcopy
  subst hsave
  dsimp only
  split
  · next heq => exact hcopy _ _ _ _ _ ((hcopy _ _ _ _ _ h).of_eq heq)
  · exact hcopy _ _ _ _ _ h

theorem after_recordsKept (x k : Nat) : Keeps s₀ (recordsKept s x k) := by
  unfold recordsKept
  exact h.after_setCtx _ _

theorem after_refusedOn {k ctx c : Nat} {x : TrapRec} (e : refusedOn s k ctx = some (x, c, t)) : Keeps s₀ t := by
  have hall : ∀ (cs : List Nat) (acc : Option (TrapRec × Nat × Machine.State)), (∀ y ∈ acc, Keeps s₀ y.2.2) →
      ∀ y ∈ cs.foldl (fun acc c => acc.elim ((refusedTrap s c ctx fun _ => true).map fun r => (r.1, c, r.2)) some) acc, Keeps s₀
          y.2.2 := by
    intro cs
    induction cs with
    | nil => exact fun _ hacc => hacc
    | cons c cs ih =>
      intro acc hacc
      refine ih _ fun y hy => ?_
      cases acc with
      | some z => exact hacc y hy
      | none =>
        obtain ⟨⟨x, u⟩, hu, rfl⟩ := Option.map_eq_some_iff.mp hy
        exact h.after_refusedTrap hu
  refine hall (coresOf s k) none (fun y hy => nomatch hy) (x, c, t) ?_
  rw [Option.mem_def, ← e, refusedOn]
  congr 1
  funext acc c
  cases acc <;> rfl

theorem after_faultRefused (k x : Nat) : Keeps s₀ (faultRefused s k x) := by
  unfold faultRefused
  split
  · exact h
  · next heq => exact .ite (h.after_refusedOn heq) (((h.after_refusedOn heq).after_contextFaults _ _).after_syncQueues _)

theorem after_endLeave (k x : Nat) : Keeps s₀ (endLeave s k x) := by
  unfold endLeave
  dsimp only
  split
  · split
    · exact (Keeps.foldl (fun u x hu => hu.after_setCore _ _) _ (h.after_setClu _ _)).after_syncWaiters
    · split
      · exact ((Keeps.foldl (fun u x hu => hu.after_setCore _ _) _ (h.after_setClu _ _)).after_syncWaiters).after_setCtxState _ _
      · exact ((Keeps.foldl (fun u x hu => hu.after_setCore _ _) _ (h.after_setClu _ _)).after_syncWaiters).after_setCtx _ _
      · exact (Keeps.foldl (fun u x hu => hu.after_setCore _ _) _ (h.after_setClu _ _)).after_syncWaiters
  · split
    · exact (Keeps.foldl (fun u x hu => hu.after_setCore _ _) _ (h.after_setClu _ _)).after_syncWaiters
    · split
      · exact ((Keeps.foldl (fun u x hu => hu.after_setCore _ _) _ (h.after_setClu _ _)).after_syncWaiters).after_setCtxState _ _
      · exact ((Keeps.foldl (fun u x hu => hu.after_setCore _ _) _ (h.after_setClu _ _)).after_syncWaiters).after_setCtx _ _
      · exact (Keeps.foldl (fun u x hu => hu.after_setCore _ _) _ (h.after_setClu _ _)).after_syncWaiters

theorem after_saveFault (k x code addr : Nat) (keepLeaving : Bool) : Keeps s₀ (saveFault s k x code addr keepLeaving) := by
  unfold saveFault
  exact ((h.after_contextFaults _ _).after_setClu _ _).after_syncQueues _

theorem after_stallOwed (mine : Nat → Nat → Bool) : Keeps s₀ (stallOwed s mine) := by
  unfold stallOwed
  exact h.same

theorem after_execSwitchOut : Goes s₀ (execSwitchOut s) := by
  unfold execSwitchOut
  dsimp only
  split
  · split
    · exact .next h
    · split
      · exact .next (h.after_stallOwed _)
      · split
        · exact .next (Keeps.foldl (fun u x hu => hu.after_releaseMoves _ _) _ (h.after_setClu _ _))
        · split
          · exact .next (Keeps.foldl (fun u x hu => hu.after_releaseMoves _ _) _ h)
          · split
            · exact .next (h.after_endLeave _ _)
            · split
              · next heq => exact .next ((h.after_saveOut _ _).of_eq heq)
              · next heq => exact .next (((h.after_saveOut _ _).of_eq heq).after_saveFault _ _ _ _ _)
              · next heq =>
                    exact .next ((((((h.after_saveOut _ _).of_eq heq).after_recordsKept _ _).after_saveCluster _ _
                        _).after_endLeave _ _).after_faultRefused _ _)
  · exact .next h

theorem after_leaveSlot (c slot : Nat) : Keeps s₀ (leaveSlot s c slot) := by
  unfold leaveSlot
  exact Keeps.foldl (fun u x hu => hu.after_freeSched _) _ ((h.after_withdrawStrand _ _).after_forgetIssuer _ _)

theorem after_preemptOut (c slot : Nat) (st : Strand) : Keeps s₀ (preemptOut s c slot st).1 := by
  unfold preemptOut
  dsimp only
  exact h.after_copyOut _ _ _ _ _

theorem after_execVgrowDeadlockCheck : Goes s₀ (execVgrowDeadlockCheck s) := by
  unfold execVgrowDeadlockCheck
  dsimp only
  split
  · exact .next h
  · split
    · exact .next h
    · split
      · exact .next (h.after_stallOwed _)
      · split
        · next heq => exact .next ((h.after_preemptOut _ _ _).of_eq heq)
        · next heq => exact .next ((((h.after_preemptOut _ _ _).of_eq heq).after_contextFaults _ _).after_syncQueues _)
        · next heq =>
              exact .next ((((((((h.after_preemptOut _ _ _).of_eq heq).after_setStrandAt _ _ _).after_leaveSlot _
                  _).after_settleGrowth _).after_gainRoom _).after_retimeCuffs _).after_syncWaiters)

theorem after_takeSched (c slot : Nat) (st : Strand) : KeepsOpt s₀ (takeSched s c slot st) := by
  unfold takeSched
  split
  · dsimp only
    exact .some h
  · dsimp only
    split
    · exact .none
    · exact .some (h.after_setCore _ _)

theorem after_execVgrowRestore : Goes s₀ (execVgrowRestore s) := by
  unfold execVgrowRestore
  dsimp only
  split
  · next slot st _ _ =>
      split
      · next n _ _ htake =>
          have hback := (((h.after_takeSched _ _ _).of_some htake).after_setStrandAt s.pick.a slot
              (returnStrand s.runTick slot st).1).after_grantGrowth s.pick.a slot n
          split
          · generalize grantGrowth _ _ _ _ = grown at hback ⊢
            exact .next ((hback.same.after_settleGrowth _).after_retimeCuffs _).after_syncWaiters
          · exact .next h
      · exact .next h
  · exact .next h

theorem after_clearCluster (k : Nat) : Keeps s₀ (clearCluster s k) := by
  unfold clearCluster
  exact (h.filtered _).same

theorem after_loadCore (x : Nat) (moves : Tab (Tab Nat)) (grans : List BlockGran) (c : Nat) (b : SavedCore) :
    Keeps s₀ (loadCore s x moves grans c b) := by
  unfold loadCore
  exact h.same

theorem after_loadSram (k : Nat) (moves : Tab (Tab Nat)) (grans : List BlockGran) : Keeps s₀ (loadSram s k moves grans) := by
  unfold loadSram
  extract_lets bytes tags u
  have hbytes (w e) (hw : Keeps s₀ w) : Keeps s₀ (bytes w e) := by
    dsimp only [bytes]
    split
    · exact hw
    · exact hw.written _ _
  have hu : Keeps s₀ u := Keeps.foldl hbytes grans h
  exact hu.same

theorem after_loadCluster (k x : Nat) (b : SavedCluster) (bs : List Byte) (grans : List BlockGran) :
    Keeps s₀ (loadCluster s k x b bs grans) := by
  unfold loadCluster
  extract_lets moves marks cored clu filled ctx unsaved loaded
  have hcored : Keeps s₀ cored := Keeps.foldl (fun u e hu => hu.after_loadCore _ _ _ _ _) _ (h.after_loadSram _ _ _)
  have hfilled : Keeps s₀ filled := hcored.after_setClu _ _
  have hunsaved : Keeps s₀ unsaved := hfilled.after_setCtx _ _
  have hloaded : Keeps s₀ loaded := hunsaved.same
  exact hloaded.after_retimeCuffs _

theorem after_beginTenancy (k x : Nat) : Keeps s₀ (beginTenancy s k x) := by
  unfold beginTenancy
  exact Keeps.foldl (fun u x hu => hu.after_tierRun _ _) _ ((((h.after_setClu _ _).after_traceRecord _ _ _).after_setCtxState _
      _).after_syncWaiters)

theorem after_gainCluster (k : Nat) : Keeps s₀ (gainCluster s k) := by
  unfold gainCluster
  exact h.after_gainRoom _

theorem after_execContextRestore : Goes s₀ (execContextRestore s) := by
  unfold execContextRestore
  dsimp only
  split
  · split
    · exact .next h
    · split
      · exact .next (h.after_setClu _ _)
      · split
        · exact .next (((((h.after_setClu _ _).after_clearCluster _).after_setClu _ _).after_beginTenancy _ _).after_gainCluster
              _)
        · split
          · next heq => exact .next ((h.after_copyIn _ _ _ _).of_eq heq)
          · next heq => exact .next (((h.after_copyIn _ _ _ _).of_eq heq).after_saveFault _ _ _ _ _)
          · next heq => exact .next ((h.after_copyIn _ _ _ _).of_eq heq)
          · next heq =>
                exact .next ((((((h.after_copyIn _ _ _ _).of_eq heq).after_setClu _ _).after_clearCluster _).after_loadCluster _
                    _ _ _ _).after_beginTenancy _ _)
  · exact .next h

end Keeps
end Sys2Proof.Proofs
end

section
/-! PROOFS. The functions of Machine/Wellhead.lean keep memory's canonical form. -/
namespace Sys2Proof.Proofs
set_option Elab.async false

open Sys2Proof Sys2Proof.Machine Sys2Proof.Claims

namespace Keeps

variable {s₀ s t : State} (h : Keeps s₀ s)
include h

theorem after_recordRead (q seg off n : Nat) : Keeps s₀ (recordRead s q seg off n).1 := by
  unfold recordRead
  split
  · exact h
  · exact h.after_sramRead _ _ _
  · exact h.after_virtRead _ _ _ _ _ _
  · exact h

theorem after_recordWrite (q seg off : Nat) (bs : List Byte) : Keeps s₀ (recordWrite s q seg off bs).1 := by
  unfold recordWrite
  split
  · exact h
  · exact h.after_sramWrite _ _ _
  · exact h.after_virtWrite _ _ _ _ _ _
  · exact h.after_agentWrite _ _ _ _ _

theorem after_eventRead (q : Nat) (x : BitVec 512) : Keeps s₀ (eventRead s q x).1 := by
  unfold eventRead
  split
  · next heq => exact (h.after_recordRead _ _ _ _).of_eq heq
  · next heq => exact (h.after_recordRead _ _ _ _).of_eq heq

theorem after_headRecord (q : Nat) : Keeps s₀ (headRecord s q).1 := by
  unfold headRecord
  split
  · next heq => exact (h.after_queueRead _ _ _).of_eq heq
  · next heq => exact (h.after_queueRead _ _ _).of_eq heq

theorem after_failQueue (q : Nat) (f : HomeFail) : Keeps s₀ (failQueue s q f) := by
  unfold failQueue
  exact Keeps.ite (h.after_setQueue _ _) (h.after_recordError _ _ _)

theorem after_standQueue (q : Nat) : Keeps s₀ (standQueue s q) := by
  unfold standQueue
  split
  · next heq => exact ((h.after_headRecord _).of_eq heq).after_failQueue _ _
  · next heq =>
      split
      · exact ((h.after_headRecord _).of_eq heq).after_recordError _ _ _
      · split
        · split
          · next heq1 =>
                exact Keeps.ite (((h.after_headRecord _).of_eq heq).after_putQueue _ _)
                    (((((h.after_headRecord _).of_eq heq).after_eventRead _ _).of_eq heq1).after_failQueue _ _)
          · next heq1 =>
                exact Keeps.ite (((h.after_headRecord _).of_eq heq).after_putQueue _ _)
                    (Keeps.ite (((((h.after_headRecord _).of_eq heq).after_eventRead _ _).of_eq heq1).after_putQueue _ _)
                    (((((h.after_headRecord _).of_eq heq).after_eventRead _ _).of_eq heq1).after_putQueue _ _))
        · exact Keeps.ite (((h.after_headRecord _).of_eq heq).after_putQueue _ _)
              (((h.after_headRecord _).of_eq heq).after_putQueue _ _)

theorem after_settleQueue (q : Nat) : Keeps s₀ (settleQueue s q) := by
  have hread := (h.after_syncQueue q).after_queueRead q (qCtrl (syncQueue s q) q) 4
  unfold settleQueue
  dsimp only
  split
  · exact h.after_syncQueue _
  · split
    · next heq => exact (hread.of_eq heq).after_failQueue _ _
    · next heq =>
        have hset (y) := (hread.of_eq heq).after_setQueue q y
        split
        · exact (hset _).after_recordError _ _ _
        · split
          · exact (hset _).after_putQueue _ _
          · exact (hset _).after_standQueue _

theorem after_execWellheadWake : Goes s₀ (execWellheadWake s) := by
  unfold execWellheadWake
  dsimp only
  split
  · split
    · exact .next ((h.after_putControl _).after_syncQueue _)
    · exact .next ((h.after_putControl _).after_settleQueue _)
  · split
    · exact .next (h.after_syncQueue _)
    · exact .next (h.after_settleQueue _)

theorem after_takeRecord (q : Nat) : Keeps s₀ (takeRecord s q) := by
  unfold takeRecord
  exact h.same.after_putQueue _ _

theorem after_startRecord (kind : Nat) (act : Machine.State → Nat → BitVec 512 → Machine.State × Began)
    (hact : ∀ u n bits, Keeps s₀ u → KeepsBegan s₀ (act u n bits)) : Goes s₀ (startRecord s kind act) := by
  have hhead := h.after_headRecord (s.pick.a % 4096)
  unfold startRecord
  dsimp only
  split
  · exact .next h
  · split
    · next heq => exact .next ((hhead.of_eq heq).after_failQueue _ _)
    · next heq =>
        have hhead := hhead.of_eq heq
        have hbegan (n bits) := hact _ n bits hhead
        split
        · exact .next (hhead.after_settleQueue _)
        · split
          · next hbegins =>
              exact .next (((hbegan _ _).more hbegins (((hbegan _ _).state.of_eq hbegins).after_takeRecord _)).after_settleQueue
                  _)
          · next hbegins => exact .next ((hbegan _ _).state.of_eq hbegins)
          · next hbegins => exact .next (((hbegan _ _).state.of_eq hbegins).after_recordError _ _ _)

theorem after_blockRead (ctx : Nat) (segs : Tab (BitVec 128)) (off : Nat) : Keeps s₀ (blockRead s ctx segs off).1 := by
  unfold blockRead
  split
  · exact h
  · split
    · next heq => exact (h.after_virtRead _ _ _ _ _ _).of_eq heq
    · next heq => exact (h.after_virtRead _ _ _ _ _ _).of_eq heq

theorem after_blockWrite (ctx : Nat) (segs : Tab (BitVec 128)) (off val : Nat) : Keeps s₀ (blockWrite s ctx segs off val).1 := by
  unfold blockWrite
  split
  · exact h
  · exact h.after_virtWrite _ _ _ _ _ _

theorem after_predFailed (ctx : Nat) (segs : Tab (BitVec 128)) (x : BitVec 512) : Keeps s₀ (predFailed s ctx segs x).1 := by
  unfold predFailed
  split
  · exact h
  · split
    · next heq => exact (h.after_blockRead _ _ _).of_eq heq
    · next heq => exact (h.after_blockRead _ _ _).of_eq heq
    · next heq1 => exact (h.after_blockRead _ _ _).of_eq heq1

theorem after_writeBlock (ctx : Nat) (segs : Tab (BitVec 128)) (x : BitVec 512) (code total : Nat) :
    Keeps s₀ (writeBlock s ctx segs x code total).1 := by
  unfold writeBlock
  split
  · next heq => exact (h.after_blockWrite _ _ _ _).of_eq heq
  · next heq1 =>
      split
      · next heq2 => exact (((h.after_blockWrite _ _ _ _).of_eq heq1).after_blockWrite _ _ _ _).of_eq heq2
      · next heq3 => exact (((h.after_blockWrite _ _ _ _).of_eq heq1).after_blockWrite _ _ _ _).of_eq heq3

theorem after_installTids (ctx lo : Nat) (xs : List (BitVec 512)) : Keeps s₀ (installTids s ctx lo xs) := by
  unfold installTids
  exact Keeps.foldl (fun u x hu => hu.after_installTid _ _ _) _ h

theorem after_rejectLaunch (ctx : Nat) (segs : Tab (BitVec 128)) (x : BitVec 512) (code : Nat) :
    Keeps s₀ (rejectLaunch s ctx segs x code).1 := by
  unfold rejectLaunch
  exact h.after_writeBlock _ _ _ _ _

theorem after_startLaunch (q n : Nat) (x : BitVec 512) : KeepsBegan s₀ (startLaunch s q n x) := by
  unfold startLaunch
  extract_lets ctx tidn lo reject
  have hreject {u} (hu : Keeps s₀ u) (segs : Tab (BitVec 128)) (code : Nat) : KeepsBegan s₀ (reject u segs code) := by
    dsimp only [reject]
    split
    · next heq => exact .waits ((hu.after_rejectLaunch _ _ _ _).of_eq heq)
    · next heq => exact .takes ((hu.after_rejectLaunch _ _ _ _).of_eq heq) (fun w hw => hw.after_recordDone _ _)
  split
  · next heq => exact .waits ((h.after_virtRead _ _ _ _ _ _).of_eq heq)
  · next heq => exact hreject ((h.after_virtRead _ _ _ _ _ _).of_eq heq) _ _
  · next heq =>
      have hsegs (y : Context) := ((h.after_virtRead _ _ _ _ _ _).of_eq heq).after_setCtx ctx y
      dsimp only
      split
      · next heq2 => exact .waits (((hsegs _).after_virtRead _ _ _ _ _ _).of_eq heq2)
      · next heq2 => exact hreject (((hsegs _).after_virtRead _ _ _ _ _ _).of_eq heq2) _ _
      · next heq2 =>
          have htids := ((hsegs _).after_virtRead _ _ _ _ _ _).of_eq heq2
          split
          · exact hreject htids _ _
          · split
            · next heq3 => exact .waits ((htids.after_predFailed _ _ _).of_eq heq3)
            · next heq3 => exact hreject ((htids.after_predFailed _ _ _).of_eq heq3) _ _
            · next heq3 =>
                have hpred := (htids.after_predFailed _ _ _).of_eq heq3
                split
                · exact hreject hpred _ _
                · split
                  · next heq4 => exact .waits ((hpred.after_writeBlock _ _ _ _ _).of_eq heq4)
                  · next heq4 =>
                      exact .takes ((hpred.after_writeBlock _ _ _ _ _).of_eq heq4)
                        (fun w hw => (hw.after_fresh.after_installTids _ _ _).after_setLaunch _ _)

theorem after_execLaunchRecord : Goes s₀ (execLaunchRecord s) := by
  unfold execLaunchRecord
  exact h.after_startRecord _ _ (fun u n bits hu => hu.after_startLaunch _ _ _)

theorem after_execDrawRecord : Goes s₀ (execDrawRecord s) := by
  unfold execDrawRecord
  refine h.after_startRecord _ _ (fun u n bits hu => ?_)
  dsimp only
  split
  · exact .waits hu
  · split
    · next heq => exact .waits ((hu.after_drawPrefixes _ _).of_eq heq)
    · next heq => exact .bad ((hu.after_drawPrefixes _ _).of_eq heq)
    · next heq =>
        exact .takes ((hu.after_drawPrefixes _ _).of_eq heq)
          (fun w hw => (hw.after_startDraw _ _ _ _ _).after_arbiterServe _ _ _ _ _ _)

theorem after_execCopyRecord : Goes s₀ (execCopyRecord s) := by
  unfold execCopyRecord
  refine h.after_startRecord _ _ (fun u n bits hu => ?_)
  split
  · exact .waits hu
  · refine .takes hu (fun w hw => ?_)
    dsimp only
    split
    · exact hw.after_finishRecord _ _
    · exact hw.after_acceptCmd _ _

theorem after_acquireClusters (ctx : Nat) : Keeps s₀ (acquireClusters s ctx) := by
  unfold acquireClusters
  exact Keeps.foldl (fun u x hu => Keeps.ite (hu.after_acquire _ _) hu) _ h

theorem after_execWaitRecord : Goes s₀ (execWaitRecord s) := by
  unfold execWaitRecord
  refine h.after_startRecord _ _ (fun u n bits hu => ?_)
  split
  · next heq =>
      have hread := (hu.after_eventRead _ _).of_eq heq
      split
      · exact .takes hread (fun w hw => (hw.after_acquireClusters _).after_recordDone _ _)
      · exact .waits hread
  · next heq => exact .waits ((hu.after_eventRead _ _).of_eq heq)
  · next heq => exact .bad ((hu.after_eventRead _ _).of_eq heq)

theorem after_signalRelease (q : Nat) : Keeps s₀ (signalRelease s q).1 := by
  unfold signalRelease
  dsimp only
  split
  · split
    · exact h
    · exact Keeps.foldl (fun u x hu => Keeps.ite (hu.after_faultRefused _ _) hu) _ h
  · split
    · exact (Keeps.foldl (fun u x hu => hu.after_releaseMoves _ _) _ h).after_setQueue _ _
    · exact Keeps.foldl (fun u x hu => Keeps.ite (hu.after_faultRefused _ _) hu) _
          ((Keeps.foldl (fun u x hu => hu.after_releaseMoves _ _) _ h).after_setQueue _ _)

theorem after_signalValue (q : Nat) (x : BitVec 512) : Keeps s₀ (signalValue s q x).1 := by
  unfold signalValue
  split
  · exact h
  · split
    · next heq => exact (h.after_eventRead _ _).of_eq heq
    · exact h.after_eventRead _ _

theorem after_sendInterrupt (x : BitVec 512) : Keeps s₀ (sendInterrupt s x) := by
  unfold sendInterrupt
  exact Keeps.ite h.same h

theorem after_execSignalRecord : Goes s₀ (execSignalRecord s) := by
  unfold execSignalRecord
  refine h.after_startRecord _ _ (fun u n bits hu => ?_)
  split
  · next heq => exact .waits ((hu.after_signalRelease _).of_eq heq)
  · next heq =>
      have hreleased := (hu.after_signalRelease _).of_eq heq
      split
      · next heq2 => exact .waits ((hreleased.after_signalValue _ _).of_eq heq2)
      · next heq2 => exact .bad ((hreleased.after_signalValue _ _).of_eq heq2)
      · next heq2 =>
          have hvalue := (hreleased.after_signalValue _ _).of_eq heq2
          split
          · next heq3 => exact .waits ((hvalue.after_recordWrite _ _ _ _).of_eq heq3)
          · next heq3 => exact .bad ((hvalue.after_recordWrite _ _ _ _).of_eq heq3)
          · next heq3 =>
              exact .takes ((hvalue.after_recordWrite _ _ _ _).of_eq heq3)
                  (fun w hw => (hw.after_sendInterrupt _).after_recordDone _ _)

theorem after_execMarkRecord : Goes s₀ (execMarkRecord s) := by
  unfold execMarkRecord
  exact h.after_startRecord _ _ (fun u n bits hu => .takes hu (fun w hw => (hw.after_traceRecord _ _ _).after_recordDone _ _))

theorem after_execWaitTimeout : Goes s₀ (execWaitTimeout s) := by
  unfold execWaitTimeout
  dsimp only
  split
  · next heq =>
      split
      · exact .next (((h.after_headRecord _).of_eq heq).after_recordError _ _ _)
      · exact .next ((h.after_headRecord _).of_eq heq)
  · exact .next h

theorem after_execQueueAgeing : Goes s₀ (execQueueAgeing s) := by
  unfold execQueueAgeing
  dsimp only
  split
  · exact .next h
  · split
    · exact .next h
    · exact .next (h.after_setQueue _ _)

theorem after_queueAct (q cmd : Nat) : Keeps s₀ (queueAct s q cmd).1 := by
  unfold queueAct
  split
  · split
    · dsimp only
      split
      · exact h
      · exact h
    · dsimp only
      split
      · exact h
      · exact (h.after_putQueue _ _).after_syncQueue _
  · dsimp only
    split
    · exact h
    · split
      · exact h
      · exact (h.after_putQueue _ _).after_setQueue _ _
  · dsimp only
    split
    · exact h.after_putQueue _ _
    · exact h
  · dsimp only
    split
    · exact (h.after_putQueue _ _).after_syncQueue _
    · exact h
  · dsimp only
    split
    · exact (h.after_putQueue _ _).after_syncQueue _
    · exact h
  · dsimp only
    exact h

theorem after_queueCommand (q cmd : Nat) : Keeps s₀ (queueCommand s q cmd) := by
  unfold queueCommand
  split
  · next heq => exact ((h.after_queueAct _ _).of_eq heq).same

theorem after_execQueueBind : Goes s₀ (execQueueBind s) := by
  unfold execQueueBind
  exact .next (h.after_queueCommand _ _)

theorem after_execQueueUnbind : Goes s₀ (execQueueUnbind s) := by
  unfold execQueueUnbind
  exact .next (h.after_queueCommand _ _)

theorem after_execQueueSuspend : Goes s₀ (execQueueSuspend s) := by
  unfold execQueueSuspend
  exact .next (h.after_queueCommand _ _)

theorem after_execQueueResume : Goes s₀ (execQueueResume s) := by
  unfold execQueueResume
  exact .next (h.after_queueCommand _ _)

theorem after_execQueueClear : Goes s₀ (execQueueClear s) := by
  unfold execQueueClear
  exact .next (h.after_queueCommand _ _)

theorem after_tellLaunch (t' : Target) (stage n : Nat) : Keeps s₀ (tellLaunch s t' stage n) := by
  unfold tellLaunch
  exact h.after_setProg _ _

theorem after_execWellheadAppend : Goes s₀ (execWellheadAppend s) := by
  unfold execWellheadAppend
  extract_lets q x n
  split
  · exact .next h
  · split
    · exact .next h
    · extract_lets lost
      have hlost {u} (hu : Keeps s₀ u) : Keeps s₀ (lost u) := by
        have htold (y target) := (hu.after_setQueue q y).after_tellLaunch target 3 0
        exact Keeps.ite ((htold _ _).after_recordError _ _ _) (htold _ _)
      split
      · next heq => exact .next ((h.after_queueWrite _ _ _).of_eq heq)
      · next heq => exact .next (hlost ((h.after_queueWrite _ _ _).of_eq heq))
      · next heq =>
          have hraised (y) := ((h.after_queueWrite _ _ _).of_eq heq).after_setQueue q y
          split
          · next heq2 => exact .next ((((hraised _).after_queueWrite _ _ _).of_eq heq2).after_setQueue _ _)
          · next heq2 => exact .next (hlost (((hraised _).after_queueWrite _ _ _).of_eq heq2))
          · next heq2 =>
                exact .next ((((hraised _).after_queueWrite _ _ _).of_eq heq2).after_setQueue _ _ |>.after_tellLaunch _ _ _)

theorem after_execLaunch (c : Ctl) (d a b : Operand) : Goes s₀ (execLaunch c d a b s) := by
  unfold execLaunch
  refine h.after_run _ _ _ (fun v u hu1 => ?_)
  split
  · exact .done hu1
  · dsimp only
    split
    · exact .stay hu1
    · exact .done (hu1.after_putAll _ _ _ _)
    · exact .trap hu1
    · refine hu1.after_releaseThen _ _ _ _ (fun u hu2 => ?_)
      refine hu2.after_withAccess _ _ _ (fun ps => ?_)
      split
      · exact .done hu2
      · split
        · exact .stay hu2
        · next heq => exact .trap ((hu2.after_loadBytes _ _ _ _).of_eq heq)
        · next heq1 =>
            split
            · exact .trap ((hu2.after_loadBytes _ _ _ _).of_eq heq1)
            · exact .stay ((((hu2.after_loadBytes _ _ _ _).of_eq heq1).after_setQueue _ _).after_setProg _ _)

end Keeps
end Sys2Proof.Proofs
end

section
/-! PROOFS. The functions of Machine/Placement.lean keep memory's canonical form. -/
namespace Sys2Proof.Proofs
set_option Elab.async false

open Sys2Proof Sys2Proof.Machine Sys2Proof.Claims

namespace Keeps

variable {s₀ s t : State} (h : Keeps s₀ s)
include h

theorem after_seatStrand (c slot : Nat) (st : Strand) : Keeps s₀ (seatStrand s c slot st) := by
  unfold seatStrand
  exact h.after_setCore _ _

theorem after_openCrew (c : Nat) (r : Room) (launch : Option (Nat × Nat)) (window : Nat) : Keeps s₀ (openCrew s c r launch window) := by
  unfold openCrew
  exact h.same

theorem after_placeCrew (c : Nat) (r : Room) (ln : Nat) (l : Launch) (i : Nat) : Keeps s₀ (placeCrew s c r ln l i) := by
  unfold placeCrew
  split
  · split
    · exact h
    · exact (h.after_openCrew _ _ _ _).after_seatStrand _ _ _
  · exact Keeps.ite ((Keeps.foldl (fun u x hu => hu.after_seatStrand _ _ _) _
        ((Keeps.ite h (h.after_acquire _ _)).after_openCrew _ _ _ _)).after_raiseWork _ _ _)
        (Keeps.foldl (fun u x hu => hu.after_seatStrand _ _ _) _ ((Keeps.ite h (h.after_acquire _ _)).after_openCrew _ _ _ _))

theorem after_crewFree (l : Launch) (i : Nat) : Keeps s₀ (crewFree s l i).1 := by
  unfold crewFree
  split
  · dsimp only
    split
    · exact h
    · split
      · next heq => exact (h.after_blockRead _ _ _).of_eq heq
      · next heq =>
          split
          · split
            · split
              · next heq1 => exact (((h.after_blockRead _ _ _).of_eq heq).after_blockRead _ _ _).of_eq heq1
              · next heq1 => exact (((h.after_blockRead _ _ _).of_eq heq).after_blockRead _ _ _).of_eq heq1
            · split
              · next heq1 => exact (((h.after_blockRead _ _ _).of_eq heq).after_blockRead _ _ _).of_eq heq1
              · next heq1 => exact (((h.after_blockRead _ _ _).of_eq heq).after_blockRead _ _ _).of_eq heq1
          · split
            · split
              · next heq1 => exact (((h.after_blockRead _ _ _).of_eq heq).after_blockRead _ _ _).of_eq heq1
              · next heq1 => exact (((h.after_blockRead _ _ _).of_eq heq).after_blockRead _ _ _).of_eq heq1
            · split
              · next heq1 => exact (((h.after_blockRead _ _ _).of_eq heq).after_blockRead _ _ _).of_eq heq1
              · next heq1 => exact (((h.after_blockRead _ _ _).of_eq heq).after_blockRead _ _ _).of_eq heq1
  · dsimp only
    split
    · exact h
    · split
      · next heq => exact (h.after_blockRead _ _ _).of_eq heq
      · next heq =>
          split
          · split
            · split
              · next heq1 => exact (((h.after_blockRead _ _ _).of_eq heq).after_blockRead _ _ _).of_eq heq1
              · next heq1 => exact (((h.after_blockRead _ _ _).of_eq heq).after_blockRead _ _ _).of_eq heq1
            · split
              · next heq1 => exact (((h.after_blockRead _ _ _).of_eq heq).after_blockRead _ _ _).of_eq heq1
              · next heq1 => exact (((h.after_blockRead _ _ _).of_eq heq).after_blockRead _ _ _).of_eq heq1
          · split
            · split
              · next heq1 => exact (((h.after_blockRead _ _ _).of_eq heq).after_blockRead _ _ _).of_eq heq1
              · next heq1 => exact (((h.after_blockRead _ _ _).of_eq heq).after_blockRead _ _ _).of_eq heq1
            · split
              · next heq1 => exact (((h.after_blockRead _ _ _).of_eq heq).after_blockRead _ _ _).of_eq heq1
              · next heq1 => exact (((h.after_blockRead _ _ _).of_eq heq).after_blockRead _ _ _).of_eq heq1

theorem after_firstPass (held : List Nat) (ln fuel : Nat) : Keeps s₀ (firstPass held ln fuel s) := by
  induction fuel generalizing s held ln with
  | zero => exact h
  | succ fuel ih =>
    unfold firstPass
    split
    · exact h
    · split
      · exact h
      · split
        · next heq => exact (h.after_crewFree _ _).of_eq heq
        · next heq =>
            dsimp only
            split
            · exact ((h.after_crewFree _ _).of_eq heq).after_setLaunch _ _
            · exact ih ((((h.after_crewFree _ _).of_eq heq).after_placeCrew _ _ _ _ _).after_setLaunch _ _) _ _

theorem after_fillCore (c ln fuel : Nat) : Keeps s₀ (fillCore c ln fuel s) := by
  induction fuel generalizing s c ln with
  | zero => exact h
  | succ fuel ih =>
    unfold fillCore
    split
    · exact h
    · split
      · exact h
      · split
        · next heq => exact (h.after_crewFree _ _).of_eq heq
        · next heq =>
            split
            · exact (h.after_crewFree _ _).of_eq heq
            · exact ih ((((h.after_crewFree _ _).of_eq heq).after_placeCrew _ _ _ _ _).after_setLaunch _ _) _ _

theorem after_laterPass (held : List Nat) (ln : Nat) (xs : List Nat) : Keeps s₀ (laterPass held ln xs s) := by
  induction xs generalizing s held ln with
  | nil => exact h
  | cons head tail ih =>
    unfold laterPass
    split
    · exact h
    · split
      · exact ih (h.after_setLaunch _ _) _ _
      · split
        · next heq => exact Keeps.ite (ih h _ _) ((h.after_crewFree _ _).of_eq heq)
        · next heq =>
              exact Keeps.ite (ih h _ _) (ih (((((h.after_crewFree _ _).of_eq heq).after_setLaunch _ _).after_arbiterServe _ _ _
                  _ _ _).after_fillCore _ _ _) _ _)

omit h in
theorem after_passLaunch (ln : Nat) {acc : Machine.State × List (Nat × List Nat)} (h : Keeps s₀ acc.1) :
    Keeps s₀ (passLaunch ln acc).1 := by
  unfold passLaunch
  dsimp only
  split
  · exact h
  · next l _ =>
      split
      · exact h
      · generalize hread : (if l.next = 0 && l.draw.isNone then predFailed acc.1 l.ctx l.segs l.bits else (acc.1, some false)) =
          pred
        have hpred : Keeps s₀ pred.1 := by
          rw [← hread]
          split
          · exact h.after_predFailed _ _ _
          · exact h
        split
        · exact hpred
        · split
          · split
            · next heq => exact (hpred.after_rejectLaunch _ _ _ _).of_eq heq
            · next heq => exact ((hpred.after_rejectLaunch _ _ _ _).of_eq heq).same.after_recordDone _ _
          · split
            · split
              · split
                · exact hpred.after_firstPass _ _ _
                · exact hpred
              · exact hpred
            · split
              · split
                · exact hpred.after_firstPass _ _ _
                · exact hpred
              · exact hpred.after_laterPass _ _ _

theorem after_placeFragment (c d : Nat) (y : Draw) : Keeps s₀ (placeFragment s c d y) := by
  unfold placeFragment
  dsimp only
  split
  · exact h
  · split
    · exact h
    · exact ((h.after_setCore _ _).after_openCrew _ _ _ _).after_seatStrand _ _ _

theorem after_placeFragments : Keeps s₀ (placeFragments s) := by
  unfold placeFragments
  exact Keeps.foldl (fun u x hu => Keeps.foldl (fun u x hu => hu.after_placeFragment _ _ _) _ hu) _ h

theorem after_execPlacementPass : Goes s₀ (execPlacementPass s) := by
  unfold execPlacementPass
  split
  · exact .next h
  · exact .next (foldl_fst (fun acc ln hacc => after_passLaunch ln hacc) _ h.same.after_placeFragments)

theorem after_faultDissolved (c ctx : Nat) : Keeps s₀ (faultDissolved s c ctx) := by
  unfold faultDissolved
  split
  · exact h
  · next heq => exact (h.after_refusedTrap heq).after_contextFaults _ _

theorem after_execCompletionEvent : Goes s₀ (execCompletionEvent s) := by
  unfold execCompletionEvent
  dsimp only
  split
  · exact .next h
  · next x _ =>
      split
      · exact .next h.same
      · next y _ =>
          split
          · split
            · exact .next h
            · split
              · next heq => exact .next ((h.after_blockRead _ _ _).of_eq heq)
              · next heq1 => exact .next ((((h.after_blockRead _ _ _).of_eq heq1).after_faultDissolved x.core y.ctx).same)
              · next heq =>
                  split
                  · next heq2 => exact .next ((((h.after_blockRead _ _ _).of_eq heq).after_blockWrite _ _ _ _).of_eq heq2)
                  · next heq3 =>
                        exact .next ((((((h.after_blockRead _ _ _).of_eq heq).after_blockWrite _ _ _ _).of_eq
                            heq3).after_faultDissolved x.core y.ctx).same)
          · split
            · next heq4 => exact .next ((h.after_blockRead _ _ _).of_eq heq4)
            · next heq5 =>
                  exact .next (Keeps.ite ((((h.after_blockRead _ _ _).of_eq heq5).same).after_recordDone _ _)
                      ((((h.after_blockRead _ _ _).of_eq heq5).same).after_setLaunch _ _))
            · next heq4 =>
                split
                · next heq => exact .next ((((h.after_blockRead _ _ _).of_eq heq4).after_blockWrite _ _ _ _).of_eq heq)
                · next heq1 =>
                      exact .next (Keeps.ite ((((((h.after_blockRead _ _ _).of_eq heq4).after_blockWrite _ _ _ _).of_eq
                          heq1).same).after_recordDone _ _) ((((((h.after_blockRead _ _ _).of_eq heq4).after_blockWrite _ _ _
                          _).of_eq heq1).same).after_setLaunch _ _))

end Keeps
end Sys2Proof.Proofs
end

section
/-! PROOFS. The functions of Machine/Steward.lean keep memory's canonical form. -/
namespace Sys2Proof.Proofs
set_option Elab.async false

open Sys2Proof Sys2Proof.Machine Sys2Proof.Claims

namespace Keeps

variable {s₀ s t : State} (h : Keeps s₀ s)
include h

theorem after_execCsrr (c : Ctl) (d : Operand) (num : BitVec 9) : Goes s₀ (execCsrr c d num s) := by
  unfold execCsrr
  refine h.after_run _ _ _ (fun v u hu => ?_)
  split
  · exact .stay hu
  · exact .done (hu.after_pend _ _ _ _ _ _)

theorem after_csrWrite (k num : Nat) (x : Word) : Keeps s₀ (csrWrite s k num x) := by
  unfold csrWrite
  split
  · exact Keeps.ite (h.after_setClu _ _) h
  · exact h.after_ctxCommand _ _
  · exact h.after_queueCommand _ _
  · exact h.after_streamCommand _ _
  · exact h

theorem after_execCsrw (c : Ctl) (a : Operand) (num : BitVec 9) : Goes s₀ (execCsrw c a num s) := by
  unfold execCsrw
  refine h.after_run _ _ _ (fun v u hu1 => ?_)
  split
  · exact .done hu1
  · split
    · exact hu1.after_releaseThen _ _ _ _ (fun u hu2 => .done (hu2.after_csrWrite _ _ _))
    · dsimp only
      exact .done (hu1.after_csrWrite _ _ _)

theorem after_execSegLd (c : Ctl) (sg : SegIx) (a : Operand) : Goes s₀ (execSegLd c sg a s) := by
  unfold execSegLd
  refine h.after_run _ _ _ (fun v u hu => ?_)
  split
  · exact .done hu
  · exact .done (hu.after_setStrand _ _)

theorem after_execTlbInv (c : Ctl) (k : TlbInv) : Goes s₀ (execTlbInv c k s) := by
  unfold execTlbInv
  refine h.after_run _ _ _ (fun v u hu => ?_)
  split
  · exact .done hu
  · split
    · split
      · dsimp only
        split
        · exact .stay ((hu.after_invalidate _).after_setProg _ _)
        · exact .stay hu
      · dsimp only
        split
        · exact .stay ((hu.after_invalidate _).after_setProg _ _)
        · exact .done hu

theorem after_setLookup (c i : Nat) (l : Lookup) : Keeps s₀ (setLookup s c i l) := by
  unfold setLookup
  exact h.after_setCore _ _

theorem after_execTlb2Lookup : Goes s₀ (execTlb2Lookup s) := by
  unfold execTlb2Lookup
  dsimp only
  split
  · exact .next h
  · split
    · exact .next h
    · split
      · exact .next (h.after_setCore _ _)
      · split
        · exact .next (h.after_setLookup _ _ _)
        · split
          · exact .next (h.after_setLookup _ _ _)
          · exact .next ((h.after_setClu _ _).after_setLookup _ _ _)

theorem after_execWalkResend : Goes s₀ (execWalkResend s) := by
  unfold execWalkResend
  split
  · exact .next h
  · split
    · split
      · exact .next h
      · exact .next (h.after_setLookup _ _ _)
    · exact .next h

theorem after_endWalk (n i : Nat) (w : Walk) (leaf : Option (BitVec 64)) : Keeps s₀ (endWalk s n i w leaf) := by
  unfold endWalk
  exact h.same

theorem after_execPageWalk : Goes s₀ (execPageWalk s) := by
  unfold execPageWalk
  split
  · exact .next h
  · split
    · exact .next h
    · split
      · exact .next h
      · next heq => exact .next (((h.after_walkRead _ _).of_eq heq).after_endWalk _ _ _ _)
      · next heq => exact .next (((h.after_walkRead _ _).of_eq heq).after_endWalk _ _ _ _)

theorem after_withdrawTagged (t' : Target) : Keeps s₀ (withdrawTagged s t') := by
  unfold withdrawTagged
  exact h.same

theorem after_dogInPlace (r : SplitRef) : Keeps s₀ (dogInPlace s r) := by
  unfold dogInPlace
  extract_lets st sp t owed
  split
  · exact h
  · extract_lets eff trap untagged ungang unasked
    have huntagged : Keeps s₀ untagged := (h.after_setSplit _ _).after_withdrawTagged _
    have hungang : Keeps s₀ ungang := Keeps.ite (huntagged.after_withdrawGang _ _) huntagged
    have hunasked : Keeps s₀ unasked := Keeps.ite (hungang.after_withdrawAsk _) hungang
    split
    · exact h
    · exact hunasked.same

theorem after_withdrawArrival (r : SplitRef) (w : Wait) : Keeps s₀ (withdrawArrival s r w) := by
  unfold withdrawArrival
  split
  · dsimp only
    split
    · exact h
    · split
      · exact h
      · exact h.after_setCrew _ _ _
  · split
    · exact Keeps.ite h h
    · exact Keeps.ite h (h.after_setLaunch _ _)
  · exact Keeps.ite h h

theorem after_dogAfter (r : SplitRef) (w : Wait) : Keeps s₀ (dogAfter s r w) := by
  unfold dogAfter
  split
  · exact h
  · split
    · exact Keeps.ite h (h.after_setSplit _ _)
    · exact (h.after_withdrawArrival _ _).after_failWait _ _ _

theorem after_dogPending (r : SplitRef) (p : Pending) : Keeps s₀ (dogPending s r p) := by
  unfold dogPending
  exact Keeps.ite h ((h.after_setStrand _ _).after_withdrawTagged _)

theorem after_execWatchdog : Goes s₀ (execWatchdog s) := by
  unfold execWatchdog
  split
  · dsimp only
    split
    · exact .next h
    · exact .next (h.after_dogInPlace _)
  · dsimp only
    split
    · exact .next h
    · split
      · exact .next h
      · exact .next (h.after_dogAfter _ _)
  · dsimp only
    split
    · exact .next h
    · split
      · exact .next h
      · exact .next (h.after_dogPending _ _)

theorem after_setSpill (x base size : Nat) : Keeps s₀ (setSpill s x base size) := by
  unfold setSpill
  exact (h.writtenNat (hubKey (64 * x)) 64 (putField (putField (s.mem.readNat (hubKey (64 * x)) 64) 208 48 base) 203 5 size)).same

theorem after_spilledAt (x ix : Nat) : Keeps s₀ (spilledAt x s ix).1 := by
  unfold spilledAt
  split
  · next heq => exact (h.after_spillRead _ _).of_eq heq
  · next heq1 => exact (h.after_spillRead _ _).of_eq heq1
  · next heq => exact (h.after_spillRead _ _).of_eq heq

theorem after_respill (x : Nat) (xs : List (Nat × Nat)) : Keeps s₀ (respill x xs s).1 := by
  induction xs generalizing s x with
  | nil => exact h
  | cons head tail ih =>
    unfold respill
    split
    · next heq => exact (h.after_spillRoom _ _).of_eq heq
    · next heq => exact (h.after_spillRoom _ _).of_eq heq
    · next heq =>
        split
        · next heq1 => exact (((h.after_spillRoom _ _).of_eq heq).after_spillWrite _ _).of_eq heq1
        · next heq2 => exact (((h.after_spillRoom _ _).of_eq heq).after_spillWrite _ _).of_eq heq2
        · next heq1 => exact ih ((((h.after_spillRoom _ _).of_eq heq).after_spillWrite _ _).of_eq heq1) _

theorem after_moveSpill (x base size : Nat) : Keeps s₀ (moveSpill s x base size).1 := by
  unfold moveSpill
  split
  · next heq => exact (h.after_collect _ _ (fun u ix hu => hu.after_spilledAt _ _)).of_eq heq
  · next heq =>
      dsimp only
      split
      · next heq1 =>
            exact ((((h.after_collect _ _ (fun u ix hu => hu.after_spilledAt _ _)).of_eq heq).after_setSpill _ _ _).after_respill
                _ _).of_eq heq1
      · next heq1 =>
            exact (((((h.after_collect _ _ (fun u ix hu => hu.after_spilledAt _ _)).of_eq heq).after_setSpill _ _
                _).after_respill _ _).of_eq heq1).after_setSpill _ _ _
      · split
        · exact h.after_dumpStall _ _
        · exact h

theorem after_execStwKeyspill (c : Ctl) (h' : Option (BitVec 4)) (a b : BitVec 5) : Goes s₀ (execStwKeyspill c h' a b s) := by
  unfold execStwKeyspill
  refine h.after_run _ _ _ (fun v u hu1 => ?_)
  refine hu1.after_withRoom _ _ _ _ (fun u hu2 => ?_)
  dsimp only
  split
  · exact .trap hu2
  · split
    · exact .done ((hu2.after_grantHandle _ _ _).after_completeHandle _ _ _)
    · split
      · next heq => exact .stay ((hu2.after_moveSpill _ _ _).of_eq heq)
      · next heq => exact .done ((((hu2.after_moveSpill _ _ _).of_eq heq).after_grantHandle _ _ _).after_completeHandle _ _ _)

theorem after_execStwDump (c : Ctl) (h' : Option (BitVec 4)) (a b : BitVec 5) : Goes s₀ (execStwDump c h' a b s) := by
  unfold execStwDump
  refine h.after_run _ _ _ (fun v u hu1 => ?_)
  refine hu1.after_withRoom _ _ _ _ (fun u hu2 => ?_)
  split
  · next heq =>
      dsimp only
      split
      · exact .trap hu2
      · split
        · exact .done (((hu2.after_grantHandle _ _ _).of_eq heq).after_completeHandle _ _ _)
        · split
          · exact .stay hu2
          · next heq1 =>
                exact .done (((((hu2.after_grantHandle _ _ _).of_eq heq).after_agentRead _ _ _ _ _).of_eq
                    heq1).after_completeHandle _ _ _)
          · next heq2 =>
                exact .done (((((hu2.after_grantHandle _ _ _).of_eq heq).after_agentRead _ _ _ _ _).of_eq heq2).after_beginDump _
                    _ _ _)

omit h in
theorem after_thenBytes (bs : List Byte) (st : Nat) {r : Machine.State × Except HomeFail (List Byte × Nat)} (h : Keeps s₀ r.1) :
    Keeps s₀ (thenBytes bs st r).1 := by
  unfold thenBytes
  split <;> exact h

theorem after_dumpBytes (key : Nat) (via : Via) (n : Nat) : Keeps s₀ (dumpBytes s key via n).1 := by
  induction n generalizing s key with
  | zero => exact h
  | succ n ih =>
    unfold dumpBytes
    split
    · exact after_thenBytes _ _ (ih h.after_draw _)
    · exact h
    · split
      · split
        next heq => exact after_thenBytes _ _ (ih ((h.after_granRead _ _).of_eq heq) _)
      · exact after_thenBytes _ _ (ih (h.after_crossPeer _ _) _)

theorem after_dumpPut (d : DumpJob) (o : Nat) (bs : List Byte) : Keeps s₀ (dumpPut s d o bs).1 := by
  unfold dumpPut
  split
  · exact h
  · exact h.after_agentWrite _ _ _ _ _

theorem after_endDump (x : Nat) (d : DumpJob) (status : Nat) : Keeps s₀ (endDump s x d status) := by
  unfold endDump
  dsimp only
  split
  · exact ((h.after_completeHandle _ _ _).after_setCtx _ _).after_setCtxState _ _
  · exact (((h.after_completeHandle _ _ _).after_setCtx _ _).after_setCtxState _ _).after_beginDrain _ _

theorem after_clearAllDp (x : Nat) : Keeps s₀ (clearAllDp s x).1 := by
  unfold clearAllDp
  split
  · next heq => exact (h.after_leavesOf _).of_eq heq
  · next heq =>
      dsimp only
      exact (Keeps.foldl (fun u e hu => hu.after_markLeaf _ _) _ ((h.after_leavesOf _).of_eq heq)).after_invalidate _

theorem after_closeDump (x : Nat) (d : DumpJob) (status : Nat) : Keeps s₀ (closeDump s x d status) := by
  unfold closeDump
  split
  · next heq => exact (h.after_clearAllDp _).of_eq heq
  · next heq => exact ((h.after_clearAllDp _).of_eq heq).after_endDump _ _ _

theorem after_failDump (x : Nat) (d : DumpJob) (status : Nat) : Keeps s₀ (failDump s x d status) := by
  unfold failDump
  exact (h.after_setCtx _ _).after_closeDump _ _ _

theorem after_finishDump (x : Nat) (d : DumpJob) : Keeps s₀ (finishDump s x d) := by
  unfold finishDump
  split
  · exact h.after_failDump _ _ _
  · split
    · next heq => exact (h.after_dumpPut _ _ _).of_eq heq
    · next heq1 => exact ((h.after_dumpPut _ _ _).of_eq heq1).after_failDump _ _ _
    · next heq =>
        split
        · next heq2 => exact (((h.after_dumpPut _ _ _).of_eq heq).after_dumpPut _ _ _).of_eq heq2
        · next heq3 => exact ((((h.after_dumpPut _ _ _).of_eq heq).after_dumpPut _ _ _).of_eq heq3).after_failDump _ _ _
        · next heq2 => exact ((((h.after_dumpPut _ _ _).of_eq heq).after_dumpPut _ _ _).of_eq heq2).after_failDump _ _ _

theorem after_pageDone (x va n : Nat) (d : DumpJob) : Keeps s₀ (pageDone s x va n d) := by
  unfold pageDone
  exact (h.after_clearDp _ _).after_setCtx _ _

theorem after_copyPage (x va : Nat) (d : DumpJob) : Keeps s₀ (copyPage s x va d) := by
  unfold copyPage
  split
  · next heq => exact (h.after_walkRead _ _).of_eq heq
  · next heq => exact ((h.after_walkRead _ _).of_eq heq).after_pageDone _ _ _ _
  · next heq =>
      dsimp only
      split
      · exact ((h.after_walkRead _ _).of_eq heq).after_failDump _ _ _
      · split
        · next heq1 => exact (((h.after_walkRead _ _).of_eq heq).after_dumpBytes _ _ _).of_eq heq1
        · next heq2 => exact ((((h.after_walkRead _ _).of_eq heq).after_dumpBytes _ _ _).of_eq heq2).after_failDump _ _ _
        · next heq1 =>
            split
            · next heq3 =>
                  exact (((((h.after_walkRead _ _).of_eq heq).after_dumpBytes _ _ _).of_eq heq1).after_dumpPut _ _ _).of_eq heq3
            · next heq4 =>
                  exact ((((((h.after_walkRead _ _).of_eq heq).after_dumpBytes _ _ _).of_eq heq1).after_dumpPut _ _ _).of_eq
                      heq4).after_failDump _ _ _
            · next heq3 =>
                  exact ((((((h.after_walkRead _ _).of_eq heq).after_dumpBytes _ _ _).of_eq heq1).after_dumpPut _ _ _).of_eq
                      heq3).after_pageDone _ _ _ _

theorem after_dumpReleases (x : Nat) (d : DumpJob) : Keeps s₀ (dumpReleases s x d) := by
  unfold dumpReleases
  exact Keeps.ite h ((Keeps.foldl (fun u x hu => hu.after_releaseMoves _ _) _ h).after_setCtx _ _)

theorem after_dumpInstant (x : Nat) (d : DumpJob) : Keeps s₀ (dumpInstant s x d) := by
  unfold dumpInstant
  exact Keeps.ite h ((Keeps.foldl (fun u x hu => hu.after_faultRefused _ _) _ h).after_setCtx _ _)

theorem after_dumpNext (x : Nat) (d : DumpJob) : Keeps s₀ (dumpNext s x d) := by
  unfold dumpNext
  split
  · dsimp only
    split
    · split
      · exact h.after_copyPage _ _ _
      · exact (h.after_setCtx _ _).after_clearDp _ _
    · exact h.after_copyPage _ _ _
  · dsimp only
    split
    · split
      · exact h.after_copyPage _ _ _
      · exact (h.after_setCtx _ _).after_clearDp _ _
    · exact h.after_finishDump _ _

theorem after_execDumpPageCopy : Goes s₀ (execDumpPageCopy s) := by
  unfold execDumpPageCopy
  dsimp only
  split
  · exact .next h
  · split
    · exact .next h
    · split
      · exact .next (h.after_protectPages _)
      · exact .next (h.after_dumpReleases _ _)
      · split
        · exact .next (h.after_dumpInstant _ _)
        · exact .next (h.after_dumpNext _ _)
      · exact .next (h.after_closeDump _ _ _)

end Keeps
end Sys2Proof.Proofs
end

section
/-! PROOFS. The functions of Machine/Stacks.lean keep memory's canonical form. -/
namespace Sys2Proof.Proofs
set_option Elab.async false

open Sys2Proof Sys2Proof.Machine Sys2Proof.Claims

namespace Keeps

variable {s₀ s t : State} (h : Keeps s₀ s)
include h

theorem after_execStackTrainingStart : Goes s₀ (execStackTrainingStart s) := by
  unfold execStackTrainingStart
  split
  · next heq =>
      dsimp only
      split
      · exact .next h
      · exact .next ((h.after_draw.of_eq heq).after_setStack _ _)

theorem after_execStackTrainingPass : Goes s₀ (execStackTrainingPass s) := by
  unfold execStackTrainingPass
  dsimp only
  exact .next (Keeps.ite (h.after_setStack _ _) h)

theorem after_execStackTrainingFail : Goes s₀ (execStackTrainingFail s) := by
  unfold execStackTrainingFail
  dsimp only
  exact .next (Keeps.ite (h.after_setStack _ _) h)

theorem after_execStackInterfaceFail : Goes s₀ (execStackInterfaceFail s) := by
  unfold execStackInterfaceFail
  dsimp only
  split
  · exact .next h
  · exact .next h.same

theorem after_execNrcfgWrite : Goes s₀ (execNrcfgWrite s) := by
  unfold execNrcfgWrite
  exact .next (h.after_writeNrcfg _ _)

theorem after_execCecountWrite : Goes s₀ (execCecountWrite s) := by
  unfold execCecountWrite
  exact .next (h.after_writeCecount _)

theorem after_execUccountWrite : Goes s₀ (execUccountWrite s) := by
  unfold execUccountWrite
  exact .next (h.after_writeUccount _)

theorem after_execPatWrite : Goes s₀ (execPatWrite s) := by
  unfold execPatWrite
  exact .next (h.after_writePat _ _ _)

theorem after_execSoftError : Goes s₀ (execSoftError s) := by
  unfold execSoftError
  dsimp only
  exact .next h.same

end Keeps
end Sys2Proof.Proofs
end

section
/-! PROOFS. The functions of Machine/Link.lean keep memory's canonical form. -/
namespace Sys2Proof.Proofs
set_option Elab.async false

open Sys2Proof Sys2Proof.Machine Sys2Proof.Claims

namespace Keeps

variable {s₀ s t : State} (h : Keeps s₀ s)
include h

theorem after_setResult (x : Nat) : Keeps s₀ (setResult s x) := by
  unfold setResult
  exact h.same

theorem after_mgCommand (m : Nat) (w : BitVec 64) : Keeps s₀ (mgCommand s m w) := by
  unfold mgCommand
  dsimp only
  split
  · exact h.after_setResult _
  · split
    · exact Keeps.ite h.same (h.after_setResult _)
    · exact Keeps.ite (h.after_setResult _) (Keeps.ite h.same (h.after_setResult _))
    · exact Keeps.ite h.same (h.after_setResult _)
    · exact Keeps.ite h.same (h.after_setResult _)
    · exact Keeps.ite h.same (h.after_setResult _)

theorem after_lapse : Keeps s₀ (lapse s) := by
  unfold lapse
  exact Keeps.ite h h.same

theorem after_crownTakes (m : Nat) (w : BitVec 64) : Keeps s₀ (crownTakes s m w) := by
  unfold crownTakes
  exact h.after_lapse.same.after_mgCommand _ _

theorem after_writeDevno (m : Nat) (w : Word) : Keeps s₀ (writeDevno s m w) := by
  unfold writeDevno
  exact Keeps.ite (h.after_setResult _) (Keeps.ite (h.after_setResult _) h.same)

theorem after_setBox (i : Nat) (x : Mailbox) : Keeps s₀ (s.setBox i x) := by
  unfold State.setBox
  exact h.same

theorem after_answer (i code : Nat) (reply : List Byte) : Keeps s₀ (answer s i code reply) := by
  unfold answer
  exact h.after_setBox _ _

theorem after_writeMbcmd (i m : Nat) (w : BitVec 64) : Keeps s₀ (writeMbcmd s i m w) := by
  unfold writeMbcmd
  split
  · next heq =>
        exact Keeps.ite h (Keeps.ite ((h.after_fresh.of_eq heq).after_setBox _ _)
            (((h.after_fresh.of_eq heq).after_setBox _ _).after_answer _ _ _))

theorem after_barWrite (m o : Nat) (bs : List Byte) : Keeps s₀ (barWrite s m o bs) := by
  unfold barWrite
  exact Keeps.ite (h.after_crownTakes _ _) (Keeps.ite (h.after_writeDevno _ _)
      (Keeps.ite (Keeps.ite h.same h) (Keeps.ite (Keeps.ite (h.after_writeMbcmd _ _ _) (Keeps.ite (h.after_setBox _ _) h))
      (Keeps.ite (Keeps.ite ((h.written (imageKey (o - 16777216)) bs).same) h) h))))

theorem after_dumpHolds (pa : Nat) : Keeps s₀ (dumpHolds s pa).1 := by
  unfold dumpHolds
  dsimp only
  refine foldl_fst (fun x _ hp => ?_) _ h
  split
  · next heq => exact (hp.after_leavesOf _).of_eq heq
  · next heq =>
      split
      · exact (hp.after_leavesOf _).of_eq heq
      · exact ((hp.after_leavesOf _).of_eq heq).after_dumpStall _ _

theorem after_dumpHoldsAny (pas : List Nat) : Keeps s₀ (dumpHoldsAny s pas).1 := by
  unfold dumpHoldsAny
  refine foldl_fst (fun x _ hp => ?_) _ h
  split
  · next heq => exact (hp.after_dumpHolds _).of_eq heq

theorem after_peerPerform (p : Nat) (f : Flit) : Keeps s₀ (peerPerform s p f).1 := by
  unfold peerPerform
  split
  · dsimp only
    exact h
  · split
    · split
      · dsimp only
        exact h
      · dsimp only
        exact (h.after_barWrite _ _ _).after_sendFlit _ _ _ _
    · split
      · dsimp only
        exact h.after_sendFlit _ _ _ _
      · split
        · next heq =>
            dsimp only
            exact (h.after_dumpHolds _).of_eq heq
        · next heq =>
            split
            · dsimp only
              exact (h.after_dumpHolds _).of_eq heq
            · next heq1 =>
                dsimp only
                exact ((((h.after_dumpHolds _).of_eq heq).after_agentWrite _ _ _ _ _).of_eq heq1).after_sendFlit _ _ _ _
            · next heq2 =>
                dsimp only
                exact ((((h.after_dumpHolds _).of_eq heq).after_agentWrite _ _ _ _ _).of_eq heq2).after_sendFlit _ _ _ _
  · split
    · dsimp only
      exact h.after_sendFlit _ _ _ _
    · split
      · dsimp only
        exact h.after_sendFlit _ _ _ _
      · split
        · dsimp only
          exact h
        · next heq3 =>
            dsimp only
            exact ((h.after_agentRead _ _ _ _ _).of_eq heq3).after_sendFlit _ _ _ _
        · next heq =>
            dsimp only
            exact ((h.after_agentRead _ _ _ _ _).of_eq heq).after_sendFlit _ _ _ _
  · split
    · dsimp only
      exact h.after_sendFlit _ _ _ _
    · split
      · next heq4 =>
          dsimp only
          exact (h.after_dumpHoldsAny _).of_eq heq4
      · next heq4 =>
          dsimp only
          exact Keeps.foldl (fun u x hu => hu.after_enqueueAtom _ _) _ ((h.after_dumpHoldsAny _).of_eq heq4)

theorem after_releaseHeld (p vc fuel : Nat) : Keeps s₀ (releaseHeld s p vc fuel) := by
  induction fuel generalizing s p vc with
  | zero => exact h
  | succ fuel ih =>
    unfold releaseHeld
    dsimp only
    split
    · exact h
    · split
      · next heq => exact (h.after_peerPerform _ _).of_eq heq
      · next heq => exact ih (((h.after_peerPerform _ _).of_eq heq).same) _ _

theorem after_flowControl (p vc : Nat) : Keeps s₀ (flowControl s p vc) := by
  unfold flowControl
  exact Keeps.foldl (fun u x hu => Keeps.ite (hu.after_setLink _ _) (Keeps.ite (hu.after_setLink _ _) hu)) _ h

theorem after_resendFlit (p : Nat) (f : Flit) : KeepsOpt s₀ (resendFlit s p f) := by
  unfold resendFlit
  extract_lets ports
  generalize ports[f.bseq.toNat % (if ports.length = 0 then 1 else ports.length)]? = port
  cases port with
  | none => exact .none
  | some j => exact .some (h.after_setLink _ _)

theorem after_resendLeft (p : Nat) : Keeps s₀ (resendLeft s p) := by
  unfold resendLeft
  split
  · next heq =>
      refine (Keeps.of_eq ?_ heq).same
      refine foldl_fst (fun x _ hp => ?_) _ h
      split
      · next heq1 => exact (hp.after_resendFlit _ _).of_some heq1
      · exact hp

theorem after_portOpens (i : Nat) : Keeps s₀ (portOpens s i) := by
  unfold portOpens
  split
  · exact Keeps.ite h (h.after_resendLeft _)
  · exact h

theorem after_takeAck (i : Nat) (ack : BitVec 14) : Keeps s₀ (takeAck s i ack) := by
  unfold takeAck
  dsimp only
  split
  · exact h
  · exact (h.after_setLink _ _).after_portOpens _

theorem after_acceptFlit (i p : Nat) (f : Flit) : Keeps s₀ (acceptFlit s i p f) := by
  unfold acceptFlit
  exact Keeps.ite (h.after_setLink _ _) ((h.same.after_releaseHeld _ _ _).after_flowControl _ _)

theorem after_execFlitData : Goes s₀ (execFlitData s) := by
  unfold execFlitData
  split
  · dsimp only
    exact .next ((h.after_releaseHeld _ _ _).after_flowControl _ _)
  · dsimp only
    split
    · exact .next (h.after_setLink _ _)
    · split
      · exact .next h
      · split
        · exact .next (h.after_takeAck _ _)
        · split
          · exact .next (h.after_takeAck _ _)
          · exact .next ((h.after_takeAck _ _).after_acceptFlit _ _ _)

theorem after_execFlitAck : Goes s₀ (execFlitAck s) := by
  unfold execFlitAck
  split
  · exact .next h
  · dsimp only
    split
    · exact .next h
    · exact .next (h.after_takeAck _ _)

theorem after_execFlitFlowControl : Goes s₀ (execFlitFlowControl s) := by
  unfold execFlitFlowControl
  split
  · exact .next h
  · dsimp only
    split
    · exact .next h
    · exact .next (((h.after_takeAck _ _).after_setLink _ _).after_portOpens _)

theorem after_execFlitTick : Goes s₀ (execFlitTick s) := by
  unfold execFlitTick
  split
  · exact .next h
  · split
    · split
      · dsimp only
        split
        · exact .next h
        · exact .next h
      · dsimp only
        split
        · exact .next h
        · exact .next h.same
    · dsimp only
      split
      · exact .next h
      · exact .next h.same
    · dsimp only
      split
      · exact .next h
      · exact .next h

theorem after_execTickFlitSend : Goes s₀ (execTickFlitSend s) := by
  unfold execTickFlitSend
  dsimp only
  exact .next (Keeps.ite (h.after_setLink _ _) h)

theorem after_execLinkReplayTimeout : Goes s₀ (execLinkReplayTimeout s) := by
  unfold execLinkReplayTimeout
  dsimp only
  split
  · exact .next h
  · split
    · exact .next (h.after_setLink _ _)
    · exact .next (h.after_setLink _ _)

theorem after_execLinkEnable : Goes s₀ (execLinkEnable s) := by
  unfold execLinkEnable
  dsimp only
  split
  · exact .next h
  · split
    · exact .next (h.after_setLink _ _)
    · exact .next (Keeps.ite (h.after_setLink _ _) h.same)

theorem after_execLinkDisable : Goes s₀ (execLinkDisable s) := by
  unfold execLinkDisable
  exact .next (Keeps.ite (h.after_setLink _ _) h)

theorem after_execLinkTrainingPass : Goes s₀ (execLinkTrainingPass s) := by
  unfold execLinkTrainingPass
  split
  · dsimp only
    split
    · exact .next h
    · exact .next ((h.after_setLink _ _).after_portOpens _)
  · dsimp only
    split
    · exact .next h
    · exact .next ((h.after_setLink _ _).after_portOpens _)

theorem after_failOver (i p : Nat) : Keeps s₀ (failOver s i p) := by
  unfold failOver
  exact (h.same.after_setLink _ _).after_resendLeft _

theorem after_loseHome (h' : Home) : Keeps s₀ (loseHome s h') := by
  unfold loseHome
  exact h.same

theorem after_execLinkTrainingFail : Goes s₀ (execLinkTrainingFail s) := by
  unfold execLinkTrainingFail
  dsimp only
  split
  · exact .next h
  · split
    · exact .next (h.after_setLink _ _)
    · split
      · exact .next (Keeps.foldl (fun u x hu => Keeps.ite (hu.after_recordError _ _ _) hu) _
            ((h.after_setLink _ _).after_loseHome _))
      · split
        · exact .next (h.after_setLink _ _)
        · split
          · exact .next ((h.after_setLink _ _).after_failOver _ _)
          · exact .next (h.same.after_loseHome _)

theorem after_execLaneFail : Goes s₀ (execLaneFail s) := by
  unfold execLaneFail
  dsimp only
  exact .next (Keeps.ite (h.after_setLink _ _) h)

theorem after_execCxlLinkRecovery : Goes s₀ (execCxlLinkRecovery s) := by
  unfold execCxlLinkRecovery
  exact .next (Keeps.ite (h.after_setLink _ _) h)

end Keeps
end Sys2Proof.Proofs
end

section
/-! PROOFS. The functions of Machine/Manage.lean keep memory's canonical form. -/
namespace Sys2Proof.Proofs
set_option Elab.async false

open Sys2Proof Sys2Proof.Machine Sys2Proof.Claims

namespace Keeps

variable {s₀ s t : State} (h : Keeps s₀ s)
include h

theorem after_powerOff : Keeps s₀ (powerOff s) := by
  unfold powerOff
  exact (h.filtered _).same

theorem after_execPowerGood : Goes s₀ (execPowerGood s) := by
  unfold execPowerGood
  split
  · exact .next h
  · dsimp only
    exact .next ((((h.filtered _).same).after_setLink hostPort ({ state := LinkState.training, ackTick := s.tick })).same)

theorem after_execPowerLoss : Goes s₀ (execPowerLoss s) := by
  unfold execPowerLoss
  exact .next h.after_powerOff

theorem after_execThermalTrip : Goes s₀ (execThermalTrip s) := by
  unfold execThermalTrip
  exact .next (Keeps.ite h h.after_powerOff)

theorem after_execClockStep : Goes s₀ (execClockStep s) := by
  unfold execClockStep
  split
  · split
    · dsimp only
      exact .next h.same
    · dsimp only
      exact .next h.same
  · split
    · dsimp only
      exact .next h.same
    · dsimp only
      exact .next h.same

theorem after_execVerify : Goes s₀ (execVerify s) := by
  unfold execVerify
  split
  · split
    · next heq =>
        dsimp only
        split
        · exact .next h
        · exact .next ((h.after_draw.of_eq heq).same)
  · dsimp only
    split
    · exact .next h
    · exact .next ((h.filtered _).same)

theorem after_execEarlyEntry : Goes s₀ (execEarlyEntry s) := by
  unfold execEarlyEntry
  dsimp only
  split
  · exact .next h
  · exact .next h.same

theorem after_execFullEntry : Goes s₀ (execFullEntry s) := by
  unfold execFullEntry
  split
  · exact .next h
  · exact .next h.same

theorem after_crownStep (cmd : Nat) : Keeps s₀ (crownStep s cmd) := by
  unfold crownStep
  exact Keeps.ite h (h.after_crownTakes _ _)

theorem after_execGo : Goes s₀ (execGo s) := by
  unfold execGo
  exact .next (h.after_crownStep _)

theorem after_execClaim : Goes s₀ (execClaim s) := by
  unfold execClaim
  exact .next (h.after_crownStep _)

theorem after_execHandover : Goes s₀ (execHandover s) := by
  unfold execHandover
  exact .next (h.after_crownStep _)

theorem after_execAccept : Goes s₀ (execAccept s) := by
  unfold execAccept
  exact .next (h.after_crownStep _)

theorem after_execCrownRelease : Goes s₀ (execCrownRelease s) := by
  unfold execCrownRelease
  exact .next (h.after_crownStep _)

theorem after_execHandoverLapse : Goes s₀ (execHandoverLapse s) := by
  unfold execHandoverLapse
  exact .next h.after_lapse

theorem after_execCrownVacancy : Goes s₀ (execCrownVacancy s) := by
  unfold execCrownVacancy
  split
  · exact .next h.same
  · exact .next h

theorem after_execDevnoWrite : Goes s₀ (execDevnoWrite s) := by
  unfold execDevnoWrite
  exact .next (Keeps.ite (h.after_writeDevno _ _) h)

theorem after_setWindow (i : Nat) (host dev size : Nat) : Keeps s₀ (setWindow s i host dev size) := by
  unfold setWindow
  exact Keeps.ite h h.same

theorem after_masterHubWrite (m off : Nat) (bs : List Byte) : Keeps s₀ (masterHubWrite s m off bs) := by
  unfold masterHubWrite
  exact Keeps.ite (h.after_setResult _) ((h.after_hubWrite _ _ _).after_setResult _)

theorem after_execRegisterWrite : Goes s₀ (execRegisterWrite s) := by
  unfold execRegisterWrite
  split
  · dsimp only
    split
    · exact .next (Keeps.ite (h.after_masterHubWrite _ _ _) h)
    · exact .next (Keeps.ite (h.after_barWrite _ _ _) h)
    · exact .next (h.after_setWindow _ _ _ _)
  · dsimp only
    split
    · exact .next (Keeps.ite (h.after_masterHubWrite _ _ _) h)
    · exact .next (Keeps.ite (h.after_barWrite _ _ _) h)
    · exact .next h

theorem after_execHdmWrite : Goes s₀ (execHdmWrite s) := by
  unfold execHdmWrite
  split
  · exact .next h
  · split
    · next heq => exact .next ((h.after_dumpHolds _).of_eq heq)
    · next heq =>
        dsimp only
        split
        · exact .next ((h.after_dumpHolds _).of_eq heq)
        · exact .next ((h.after_dumpHolds _).of_eq heq)
        · next heq1 => exact .next ((((h.after_dumpHolds _).of_eq heq).after_agentWrite _ _ _ _ _).of_eq heq1)

theorem after_serveBox (op len : Nat) (act : Machine.State → Mailbox → Machine.State × Nat × List Byte)
    (hact : ∀ u x, Keeps s₀ u → Keeps s₀ (act u x).1) :
    Goes s₀ (serveBox s op len act) := by
  unfold serveBox
  split
  · dsimp only
    split
    · exact .next h
    · exact .next (h.after_answer _ _ _)
  · dsimp only
    split
    · exact .next h
    · split
      · exact .next (h.after_answer _ _ _)
      · exact .next ((hact _ _ h).after_answer _ _ _)

theorem after_execAttest : Goes s₀ (execAttest s) := by
  unfold execAttest
  refine h.after_serveBox _ _ _ (fun u x hu => ?_)
  split
  · exact hu
  · split
    · exact hu
    · dsimp only
      exact hu.same

theorem after_execCert : Goes s₀ (execCert s) := by
  unfold execCert
  refine h.after_serveBox _ _ _ (fun u x hu => ?_)
  split
  · exact hu
  · dsimp only
    exact hu

theorem after_execCsrrd : Goes s₀ (execCsrrd s) := by
  unfold execCsrrd
  refine h.after_serveBox _ _ _ (fun u x hu => ?_)
  dsimp only
  split
  · exact hu
  · exact hu

theorem after_execCsrwr : Goes s₀ (execCsrwr s) := by
  unfold execCsrwr
  refine h.after_serveBox _ _ _ (fun u x hu => ?_)
  split
  · dsimp only
    exact hu.after_setResult _
  · dsimp only
    split
    · exact hu
    · exact (hu.after_csrWrite _ _ _).after_setResult _

theorem after_execHubrd : Goes s₀ (execHubrd s) := by
  unfold execHubrd
  refine h.after_serveBox _ _ _ (fun u x hu => ?_)
  dsimp only
  split
  · exact hu
  · exact hu

theorem after_execHubwr : Goes s₀ (execHubwr s) := by
  unfold execHubwr
  refine h.after_serveBox _ _ _ (fun u x hu => ?_)
  split
  · dsimp only
    exact hu.after_setResult _
  · dsimp only
    split
    · exact hu
    · exact hu.after_masterHubWrite _ _ _

end Keeps
end Sys2Proof.Proofs
end

section
/-! PROOFS. The functions of Machine/Dispatch.lean keep memory's canonical form. -/
namespace Sys2Proof.Proofs
set_option Elab.async false

open Sys2Proof Sys2Proof.Machine Sys2Proof.Claims

namespace Keeps

variable {s₀ s t : State} (h : Keeps s₀ s)
include h

theorem after_exec (i : Instr) : Goes s₀ (exec i s) := by
  cases i with
  | iadd => exact h.after_execIadd _ _ _ _ _ _
  | isub => exact h.after_execIsub _ _ _ _ _ _
  | imul => exact h.after_execImul _ _ _ _ _ _
  | imulh => exact h.after_execImulh _ _ _ _ _ _
  | imad => exact h.after_execImad _ _ _ _ _ _ _
  | imadw => exact h.after_execImadw _ _ _ _ _ _ _
  | iaddw => exact h.after_execIaddw _ _ _ _ _ _ _
  | isubw => exact h.after_execIsubw _ _ _ _ _ _ _
  | iabs => exact h.after_execIabs _ _ _ _ _
  | ineg => exact h.after_execIneg _ _ _ _ _
  | imin => exact h.after_execImin _ _ _ _ _ _
  | imax => exact h.after_execImax _ _ _ _ _ _
  | iclamp => exact h.after_execIclamp _ _ _ _ _ _ _
  | iand => exact h.after_execIand _ _ _ _ _
  | ior => exact h.after_execIor _ _ _ _ _
  | ixor => exact h.after_execIxor _ _ _ _ _
  | andn => exact h.after_execAndn _ _ _ _ _
  | tri => exact h.after_execTri _ _ _ _ _ _
  | shl => exact h.after_execShl _ _ _ _ _ _
  | shr => exact h.after_execShr _ _ _ _ _ _
  | sar => exact h.after_execSar _ _ _ _ _ _
  | rotl => exact h.after_execRotl _ _ _ _ _
  | funsh => exact h.after_execFunsh _ _ _ _ _ _ _
  | popc => exact h.after_execPopc _ _ _ _
  | clz => exact h.after_execClz _ _ _ _
  | ffs => exact h.after_execFfs _ _ _ _
  | brev => exact h.after_execBrev _ _ _ _
  | bfx => exact h.after_execBfx _ _ _ _ _ _
  | bfi => exact h.after_execBfi _ _ _ _ _
  | icmp => exact h.after_execIcmp _ _ _ _ _ _
  | sel => exact h.after_execSel _ _ _ _ _ _
  | mov => exact h.after_execMov _ _ _ _
  | movi => exact h.after_execMovi _ _ _
  | iaddi => exact h.after_execIaddi _ _ _ _ _ _
  | imuli => exact h.after_execImuli _ _ _ _ _ _
  | andi => exact h.after_execAndi _ _ _ _
  | ori => exact h.after_execOri _ _ _ _
  | xori => exact h.after_execXori _ _ _ _
  | icmpi => exact h.after_execIcmpi _ _ _ _ _ _
  | lea => exact h.after_execLea _ _ _ _ _
  | leaw => exact h.after_execLeaw _ _ _ _ _
  | cvti => exact h.after_execCvti _ _ _ _ _ _
  | idp4 => exact h.after_execIdp4 _ _ _ _ _ _ _ _
  | idp8 => exact h.after_execIdp8 _ _ _ _ _ _ _ _
  | fadd => exact h.after_execFadd _ _ _ _ _ _
  | fsub => exact h.after_execFsub _ _ _ _ _ _
  | fmul => exact h.after_execFmul _ _ _ _ _ _
  | ffma => exact h.after_execFfma _ _ _ _ _ _ _
  | fmin => exact h.after_execFmin _ _ _ _ _
  | fmax => exact h.after_execFmax _ _ _ _ _
  | fcmp => exact h.after_execFcmp _ _ _ _ _ _
  | fclass => exact h.after_execFclass _ _ _
  | frnd => exact h.after_execFrnd _ _ _ _ _
  | fcvt => exact h.after_execFcvt _ _ _ _ _ _ _ _
  | ftoi => exact h.after_execFtoi _ _ _ _ _ _
  | itof => exact h.after_execItof _ _ _ _ _ _
  | fscale => exact h.after_execFscale _ _ _ _ _ _
  | frcp => exact h.after_execFrcp _ _ _ _
  | frsq => exact h.after_execFrsq _ _ _ _
  | fsqrt => exact h.after_execFsqrt _ _ _ _
  | fex2 => exact h.after_execFex2 _ _ _ _
  | flg2 => exact h.after_execFlg2 _ _ _ _
  | fsin => exact h.after_execFsin _ _ _ _
  | fcos => exact h.after_execFcos _ _ _ _
  | ftanh => exact h.after_execFtanh _ _ _ _
  | hadd2 => exact h.after_execHadd2 _ _ _ _ _ _
  | hmul2 => exact h.after_execHmul2 _ _ _ _ _ _
  | hfma2 => exact h.after_execHfma2 _ _ _ _ _ _ _
  | hmin2 => exact h.after_execHmin2 _ _ _ _ _
  | hmax2 => exact h.after_execHmax2 _ _ _ _ _
  | pack => exact h.after_execPack _ _ _ _ _ _
  | unpack => exact h.after_execUnpack _ _ _ _ _ _
  | fdot2 => exact h.after_execFdot2 _ _ _ _ _ _ _
  | fstat => exact h.after_execFstat _ _
  | plop => exact h.after_execPlop _ _ _ _ _ _
  | pmov => exact h.after_execPmov _ _ _
  | vote => exact h.after_execVote _ _ _ _
  | elect => exact h.after_execElect _ _
  | shfl => exact h.after_execShfl _ _ _ _ _
  | perm => exact h.after_execPerm _ _ _ _
  | bcast => exact h.after_execBcast _ _ _ _
  | lred => exact h.after_execLred _ _ _ _ _ _
  | lscan => exact h.after_execLscan _ _ _ _ _ _ _
  | matchL => exact h.after_execMatchL _ _ _ _ _
  | ld => exact h.after_execLd _ _ _ _ _ _ _ _
  | st => exact h.after_execSt _ _ _ _ _ _ _
  | ldMd => exact h.after_execLdMd _ _ _ _ _ _
  | stMd => exact h.after_execStMd _ _ _ _ _ _
  | lds => exact h.after_execLds _ _ _ _ _ _ _ _
  | sts => exact h.after_execSts _ _ _ _ _ _ _
  | ldt => exact h.after_execLdt _ _ _ _ _ _ _
  | ldtk => exact h.after_execLdtk _ _ _ _ _ _ _
  | stt => exact h.after_execStt _ _ _ _ _ _ _
  | sttf => exact h.after_execSttf _ _ _ _ _ _ _
  | tagRd => exact h.after_execTagRd _ _ _ _ _ _
  | tagClr => exact h.after_execTagClr _ _ _ _ _
  | phase => exact h.after_execPhase _ _ _
  | scfence => exact h.after_execScfence _
  | atom => exact h.after_execAtom _ _ _ _ _ _ _ _ _ _
  | acas => exact h.after_execAcas _ _ _ _ _ _ _ _ _ _
  | lr => exact h.after_execLr _ _ _ _ _ _ _ _
  | sc => exact h.after_execSc _ _ _ _ _ _ _ _ _
  | hwait => exact h.after_execHwait _ _ _ _
  | htest => exact h.after_execHtest _ _ _
  | hcancel => exact h.after_execHcancel _ _
  | hmov => exact h.after_execHmov _ _ _ _
  | hprom => exact h.after_execHprom _ _
  | bcbInit => exact h.after_execBcbInit _ _ _ _
  | bcbExp => exact h.after_execBcbExp _ _ _ _
  | bcbArr => exact h.after_execBcbArr _ _ _ _
  | bcbWait => exact h.after_execBcbWait _ _ _ _
  | bcbTest => exact h.after_execBcbTest _ _ _ _ _
  | tidLd => exact h.after_execTidLd _ _ _
  | tidInv => exact h.after_execTidInv _ _
  | gang => exact h.after_execGang _ _
  | cbLd => exact h.after_execCbLd _ _ _
  | mma => exact h.after_execMma _ _ _ _ _
  | mmaSp => exact h.after_execMmaSp _ _ _ _ _
  | mmaQ => exact h.after_execMmaQ _ _ _ _ _
  | accZero => exact h.after_execAccZero _ _ _
  | accLd => exact h.after_execAccLd _ _ _ _
  | accSt => exact h.after_execAccSt _ _ _ _ _
  | accGet => exact h.after_execAccGet _ _ _ _ _
  | accPut => exact h.after_execAccPut _ _ _ _ _
  | tmv => exact h.after_execTmv _ _ _ _
  | fireRd => exact h.after_execFireRd _ _
  | smp => exact h.after_execSmp _ _ _ _ _
  | smpc => exact h.after_execSmpc _ _ _ _ _
  | tld => exact h.after_execTld _ _ _ _ _
  | resQ => exact h.after_execResQ _ _ _
  | vbary => exact h.after_execVbary _ _ _ _
  | vsplit => exact h.after_execVsplit _ _
  | vkill => exact h.after_execVkill _ _
  | outc => exact h.after_execOutc _ _
  | outz => exact h.after_execOutz _ _
  | outv => exact h.after_execOutv _ _ _
  | recPush => exact h.after_execRecPush _ _
  | recPop => exact h.after_execRecPop _ _ _
  | recDone => exact h.after_execRecDone _
  | bra => exact h.after_execBra _ _
  | br => exact h.after_execBr _ _ _
  | brx => exact h.after_execBrx _ _
  | call => exact h.after_execCall _ _ _
  | callx => exact h.after_execCallx _ _ _
  | ret => exact h.after_execRet _ _
  | reconv => exact h.after_execReconv _
  | exit => exact h.after_execExit _
  | yield => exact h.after_execYield _
  | sleep => exact h.after_execSleep _ _
  | sleepu => exact h.after_execSleepu _ _
  | trap => exact h.after_execTrap _ _
  | bkpt => exact h.after_execBkpt _
  | tret => exact h.after_execTret _
  | cjoin => exact h.after_execCjoin _ _ _
  | cleave => exact h.after_execCleave _ _ _
  | cnew => exact h.after_execCnew _ _
  | bar => exact h.after_execBar _ _ _
  | barp => exact h.after_execBarp _ _ _ _ _ _ _ _
  | sluIn => exact h.after_execSluIn _ _ _ _ _
  | sluOut => exact h.after_execSluOut _ _
  | sluTry => exact h.after_execSluTry _ _ _ _ _
  | vgrow => exact h.after_execVgrow _ _
  | vshrink => exact h.after_execVshrink _ _
  | launch => exact h.after_execLaunch _ _ _ _
  | csrr => exact h.after_execCsrr _ _ _
  | csrw => exact h.after_execCsrw _ _ _
  | segLd => exact h.after_execSegLd _ _ _
  | tlbInv => exact h.after_execTlbInv _ _
  | xcLoad => exact h.after_execXcLoad _ _ _ _
  | xcStore => exact h.after_execXcStore _ _ _ _
  | xcMcast => exact h.after_execXcMcast _ _ _ _
  | xcGather => exact h.after_execXcGather _ _ _ _
  | xcScatter => exact h.after_execXcScatter _ _ _ _
  | xcFill => exact h.after_execXcFill _ _ _ _
  | xcPeer => exact h.after_execXcPeer _ _ _ _
  | xcCsum => exact h.after_execXcCsum _ _ _ _
  | basAxpby => exact h.after_execBasAxpby _ _ _ _
  | basScal => exact h.after_execBasScal _ _ _ _
  | basSgd => exact h.after_execBasSgd _ _ _ _
  | basMom => exact h.after_execBasMom _ _ _ _
  | basSum => exact h.after_execBasSum _ _ _ _
  | basFill => exact h.after_execBasFill _ _ _ _
  | basCopy => exact h.after_execBasCopy _ _ _ _
  | basCvt => exact h.after_execBasCvt _ _ _ _
  | basStat => exact h.after_execBasStat _ _ _ _
  | tierCfg => exact h.after_execTierCfg _ _ _ _
  | tierRank => exact h.after_execTierRank _ _ _ _
  | tierMig => exact h.after_execTierMig _ _ _ _
  | tierAge => exact h.after_execTierAge _ _ _ _
  | tierPin => exact h.after_execTierPin _ _ _ _
  | prsDraw => exact h.after_execPrsDraw _ _ _ _
  | prsFrame => exact h.after_execPrsFrame _ _ _ _
  | prsPresent => exact h.after_execPrsPresent _ _ _ _
  | prsReproj => exact h.after_execPrsReproj _ _ _ _
  | trcMark => exact h.after_execTrcMark _ _ _ _
  | trcFlush => exact h.after_execTrcFlush _ _ _ _
  | trcSample => exact h.after_execTrcSample _ _ _ _
  | stwKeyspill => exact h.after_execStwKeyspill _ _ _ _
  | stwDump => exact h.after_execStwDump _ _ _ _
  | deliver => exact h.after_execDeliver
  | dropLine => exact h.after_execDropLine
  | cacheDrop => exact h.after_execCacheDrop
  | heartbeat => exact h.after_execHeartbeat
  | releaseComplete => exact h.after_execReleaseComplete
  | taggedAtHome => exact h.after_execTaggedAtHome
  | taggedResend => exact h.after_execTaggedResend
  | serviceRequest => exact h.after_execServiceRequest
  | atomicReply => exact h.after_execAtomicReply
  | engineRead => exact h.after_execEngineRead
  | engineWrite => exact h.after_execEngineWrite
  | engineCount => exact h.after_execEngineCount
  | cascadeStep => exact h.after_execCascadeStep
  | clauseIssue => exact h.after_execClauseIssue
  | resultWrite => exact h.after_execResultWrite
  | watchdog => exact h.after_execWatchdog
  | ctxBuild => exact h.after_execCtxBuild
  | ctxCommit => exact h.after_execCtxCommit
  | ctxSuspend => exact h.after_execCtxSuspend
  | ctxResume => exact h.after_execCtxResume
  | ctxReset => exact h.after_execCtxReset
  | ctxKill => exact h.after_execCtxKill
  | ctxFree => exact h.after_execCtxFree
  | ctxDump => exact h.after_execCtxDump
  | drainComplete => exact h.after_execDrainComplete
  | quantumEnd => exact h.after_execQuantumEnd
  | tenantChoice => exact h.after_execTenantChoice
  | switchOut => exact h.after_execSwitchOut
  | contextRestore => exact h.after_execContextRestore
  | wellheadWake => exact h.after_execWellheadWake
  | launchRecord => exact h.after_execLaunchRecord
  | drawRecord => exact h.after_execDrawRecord
  | copyRecord => exact h.after_execCopyRecord
  | waitRecord => exact h.after_execWaitRecord
  | signalRecord => exact h.after_execSignalRecord
  | markRecord => exact h.after_execMarkRecord
  | waitTimeout => exact h.after_execWaitTimeout
  | queueAgeing => exact h.after_execQueueAgeing
  | wellheadAppend => exact h.after_execWellheadAppend
  | queueBind => exact h.after_execQueueBind
  | queueUnbind => exact h.after_execQueueUnbind
  | queueSuspend => exact h.after_execQueueSuspend
  | queueResume => exact h.after_execQueueResume
  | queueClear => exact h.after_execQueueClear
  | placementPass => exact h.after_execPlacementPass
  | completionEvent => exact h.after_execCompletionEvent
  | vgrowDeadlockCheck => exact h.after_execVgrowDeadlockCheck
  | vgrowRestore => exact h.after_execVgrowRestore
  | gangTimeout => exact h.after_execGangTimeout
  | promiseTimeout => exact h.after_execPromiseTimeout
  | sleepWake => exact h.after_execSleepWake
  | pageWalk => exact h.after_execPageWalk
  | walkResend => exact h.after_execWalkResend
  | dumpPageCopy => exact h.after_execDumpPageCopy
  | pktRd => exact h.after_execPktRd
  | pktWr => exact h.after_execPktWr
  | pktWrm => exact h.after_execPktWrm
  | pktNmc => exact h.after_execPktNmc
  | readReply => exact h.after_execReadReply
  | writeReply => exact h.after_execWriteReply
  | nmcReply => exact h.after_execNmcReply
  | stackTrainingStart => exact h.after_execStackTrainingStart
  | stackTrainingPass => exact h.after_execStackTrainingPass
  | stackTrainingFail => exact h.after_execStackTrainingFail
  | stackInterfaceFail => exact h.after_execStackInterfaceFail
  | nrcfgWrite => exact h.after_execNrcfgWrite
  | cecountWrite => exact h.after_execCecountWrite
  | uccountWrite => exact h.after_execUccountWrite
  | patWrite => exact h.after_execPatWrite
  | tierWorking => exact h.after_execTierWorking
  | autoAgeing => exact h.after_execAutoAgeing
  | tierCopyDone => exact h.after_execTierCopyDone
  | tmvJoin => exact h.after_execTmvJoin
  | sectionRequest => exact h.after_execSectionRequest
  | sectionLeave => exact h.after_execSectionLeave
  | chainWalkHop => exact h.after_execChainWalkHop
  | sectStarved => exact h.after_execSectStarved
  | waiterResend => exact h.after_execWaiterResend
  | streamBind => exact h.after_execStreamBind
  | streamUnbind => exact h.after_execStreamUnbind
  | primitiveAssembly => exact h.after_execPrimitiveAssembly
  | primitiveSetup => exact h.after_execPrimitiveSetup
  | sweep => exact h.after_execSweep
  | blend => exact h.after_execBlend
  | slotDeadline => exact h.after_execSlotDeadline
  | clockStep => exact h.after_execClockStep
  | thermalTrip => exact h.after_execThermalTrip
  | flitData => exact h.after_execFlitData
  | flitAck => exact h.after_execFlitAck
  | flitFlowControl => exact h.after_execFlitFlowControl
  | flitTick => exact h.after_execFlitTick
  | tickFlitSend => exact h.after_execTickFlitSend
  | linkReplayTimeout => exact h.after_execLinkReplayTimeout
  | linkEnable => exact h.after_execLinkEnable
  | linkDisable => exact h.after_execLinkDisable
  | linkTrainingPass => exact h.after_execLinkTrainingPass
  | linkTrainingFail => exact h.after_execLinkTrainingFail
  | laneFail => exact h.after_execLaneFail
  | hdmWrite => exact h.after_execHdmWrite
  | powerGood => exact h.after_execPowerGood
  | powerLoss => exact h.after_execPowerLoss
  | go => exact h.after_execGo
  | verify => exact h.after_execVerify
  | earlyEntry => exact h.after_execEarlyEntry
  | fullEntry => exact h.after_execFullEntry
  | claim => exact h.after_execClaim
  | handover => exact h.after_execHandover
  | accept => exact h.after_execAccept
  | crownRelease => exact h.after_execCrownRelease
  | handoverLapse => exact h.after_execHandoverLapse
  | crownVacancy => exact h.after_execCrownVacancy
  | devnoWrite => exact h.after_execDevnoWrite
  | attest => exact h.after_execAttest
  | cert => exact h.after_execCert
  | csrrd => exact h.after_execCsrrd
  | csrwr => exact h.after_execCsrwr
  | hubrd => exact h.after_execHubrd
  | hubwr => exact h.after_execHubwr
  | traceEnWrite => exact h.after_execTraceEnWrite
  | frameTimeout => exact h.after_execFrameTimeout
  | frameWrite => exact h.after_execFrameWrite
  | sampleTake => exact h.after_execSampleTake
  | replayDivergence => exact h.after_execReplayDivergence
  | stopArm => exact h.after_execStopArm
  | deviceStop => exact h.after_execDeviceStop
  | stopResume => exact h.after_execStopResume
  | registerWrite => exact h.after_execRegisterWrite
  | softError => exact h.after_execSoftError
  | cxlLinkRecovery => exact h.after_execCxlLinkRecovery
  | tlb2Lookup => exact h.after_execTlb2Lookup

end Keeps
end Sys2Proof.Proofs
end

section
/-! PROOFS. The functions of Machine/Fetch.lean keep memory's canonical form. -/
namespace Sys2Proof.Proofs
set_option Elab.async false

open Sys2Proof Sys2Proof.Machine Sys2Proof.Claims

namespace Keeps

variable {s₀ s t : State} (h : Keeps s₀ s)
include h

theorem after_passTime (dt : Nat) : Keeps s₀ (passTime s dt) := by
  unfold passTime
  dsimp only
  split
  · exact h.same
  · exact h.same

theorem after_outside (ws : List (Nat × Byte)) : Keeps s₀ (outside s ws) := by
  unfold outside
  exact Keeps.foldl (fun u x hu => Keeps.ite (hu.after_putBytes _ _) hu) _ h

end Keeps
end Sys2Proof.Proofs
end

section
/-! PROOFS. The functions of Machine/Step.lean keep memory's canonical form. -/
namespace Sys2Proof.Proofs
set_option Elab.async false

open Sys2Proof Sys2Proof.Machine Sys2Proof.Claims

namespace Keeps

variable {s₀ s t : State} (h : Keeps s₀ s)
include h

theorem after_perform (a : Act) : Goes s₀ (perform s a) := by
  unfold perform
  split
  · split
    · exact h.after_exec _
    · exact .next h
  · split
    · exact .next h
    · split
      · exact .next h
      · exact h.after_exec _
      · exact .next (h.after_issueIllegal _)

end Keeps
end Sys2Proof.Proofs
end

section
/-! PROOFS. Every step keeps memory's canonical form (O6), and none stops the machine (O4). -/
namespace Sys2Proof.Proofs
set_option Elab.async false

open Sys2Proof Sys2Proof.Machine Sys2Proof.Claims

/-- What answers a state reached from s₀ answers a state. -/
theorem Goes.next_exists {s₀ : State} {o : Host.Outcome State Fault Refusal} (h : Goes s₀ o) : ∃ t, o = .next t := by
  cases h with
  | next _ => exact ⟨_, rfl⟩

/-- What comes before a step, its ticks and what is written from outside, keeps the form of memory. -/
theorem nextTurn_canonical {s : State} (hs : s.canonical) : (nextTurn s).1.canonical := by
  have houtside (dt : Nat) (host) := (((Keeps.refl s).after_passTime dt).after_outside host).canonical hs
  unfold nextTurn
  split
  · exact houtside _ _
  · exact houtside _ _

/-- A step answers a state reached from the one its turn begins in. -/
theorem step_goes (s : State) : Goes (nextTurn s).1 (step s) := (Keeps.refl _).after_perform _

/-- Settles O6: every function of the model keeps memory's form, and a step is made of them. -/
theorem memoryInvariant : Obligations.MemoryInvariant := by
  unfold Obligations.MemoryInvariant
  intro s t hs hstep
  have hgoes : Goes (nextTurn s).1 (.next t) := hstep ▸ step_goes s
  cases hgoes with
  | next h => exact h.canonical (nextTurn_canonical hs)

/-- Settles O4: every instruction, and so every step, answers a next state. -/
theorem neverStops : Obligations.NeverStops := by
  have hstep (s : State) : ∃ t, step s = .next t := (step_goes s).next_exists
  refine ⟨fun i s => ((Keeps.refl s).after_exec i).next_exists, hstep, fun n => ?_⟩
  induction n with
  | zero => exact fun _ => trivial
  | succ n ih =>
    intro s
    obtain ⟨t, ht⟩ := hstep s
    exact ⟨t, ht, ih t⟩

end Sys2Proof.Proofs
end
